-- ==== Sys2Proof/Word.lean ====
section
/-! DEFINITION. The words of the model: bytes, registers, FP32 and FP16 patterns, and their plainest arithmetic. -/

namespace Sys2Proof

/-- One byte of a memory, a slot or a frame. -/
abbrev Byte := BitVec 8
/-- A 16-bit field (an FP16 pattern among them). -/
abbrev W16 := BitVec 16
/-- A 32-bit register. -/
abbrev W32 := BitVec 32
/-- A 64-bit register. -/
abbrev W64 := BitVec 64
/-- An FP32 pattern (IEEE 754 binary32, Table 05-2). -/
abbrev F32 := BitVec 32
/-- An FP16 pattern. -/
abbrev F16 := BitVec 16

end Sys2Proof
end

