-- ==== Sys2Proof/Syntax.lean ====
section
/-! DEFINITION. The commands of the Kilud, WHOLE: one constructor of Instr per row of spec/opcode_table.json, with the
operand structures that the rows share (the command slot of R430, the operand blocks of R198 to R200, R267 and R385, the
environment's readings that an event brings in). -/

namespace Sys2Proof

/-! ## The command slot -/

/-- A command slot as the device reads it once (R430, R433): the slot number, the header fields of Table 16-4 that the
device uses, and the 224-byte parameter block as one number whose bit n is bit n of the block (R431). -/
structure Cmd where
  slot : Nat
  cookie : W64
  quiet : Bool
  crcEn : Bool
  pcrc : W32
  paramLen : Nat
  params : BitVec 1792
  deriving DecidableEq, Repr

/-! ## Formats, modes and moves -/

/-- Format codes of Table 05-1, in code order 0 to 12. -/
inductive Fmt where
  | int4 | int8 | e4m3 | e5m2 | e2m1 | mxint8 | mxfp8e4m3 | mxfp8e5m2 | mxfp4 | bf16 | fp16 | fp32 | int32
  deriving DecidableEq, Repr

/-- Rounding modes of Table 05-7. -/
inductive Rnd where
  | nearest | zero | stochastic
  deriving DecidableEq, Repr

/-- The four classes of a move (R22, `class` of Table 08-3). -/
inductive MoveClass where
  | tickCritical | frame | gap | service
  deriving DecidableEq, Repr

/-- Accumulator type of one half (Table 06-1). -/
inductive AccTy where
  | fp32 | int32
  deriving DecidableEq, Repr

/-- How a move runs: its identifier, class and job class (Table 08-3), the stream count of an execution that no issue stands behind (R148),
and the outputs, by element index, at which the engine's residue check mismatches in this execution (R165: a fault of the hardware, which the
environment names; on a group unit, element e of grid row i's array is named by i × outputs of the move + e). -/
structure MoveCtx where
  mid : Nat
  cls : MoveClass
  jclass : Nat
  streamC : BitVec 48
  resid : List Nat
  deriving DecidableEq, Repr

/-- Array operand block, Table 08-6. `kLen` and `m` are the true lengths (field + 1). -/
structure ArrOpnd where
  inAddr : Nat
  wAddr : Nat
  outAddr : Nat
  inSc : Nat
  wSc : Nat
  outSc : Nat
  amaxAddr : Nat
  inStride : Nat
  outStride : Nat
  inFmt : Fmt
  wFmt : Fmt
  outFmt : Fmt
  m : Nat
  kLen : Nat
  half : Bool
  acc : Bool
  keep : Bool
  drain : Bool
  outScale : F32
  mode : Rnd
  sat : Bool
  stream : Nat
  amaxEn : Bool
  deriving DecidableEq, Repr

/-- VCMP's comparison (Table 08-7, `cmp`). -/
inductive CmpOp where
  | lt | le | eq | ne
  deriving DecidableEq, Repr

/-- Vector operand block, Table 08-7 with bits [511:464] of Table 08-6. `n` and `len` are the true lengths. -/
structure VecOpnd where
  aAddr : Nat
  bAddr : Nat
  cAddr : Nat
  dAddr : Nat
  outAddr : Nat
  scAddr : Nat
  maskAddr : Nat
  amaxAddr : Nat
  aFmt : Fmt
  bFmt : Fmt
  cFmt : Fmt
  outFmt : Fmt
  cmp : CmpOp
  outEn : Bool
  n : Nat
  len : Nat
  outScale : F32
  mode : Rnd
  sat : Bool
  stream : Nat
  amaxEn : Bool
  deriving DecidableEq, Repr

/-- DMA endpoint kinds (R200). -/
inductive DmaKind where
  | fieldMem | dram | host | peer
  deriving DecidableEq, Repr

/-- DMA operand block (R200), with the sync object the move signals (R208). `rows` is the true count. -/
structure DmaOpnd where
  src : Nat
  dst : Nat
  len : Nat
  rows : Nat
  srcStride : Nat
  dstStride : Nat
  srcKind : DmaKind
  dstKind : DmaKind
  bestEffort : Bool
  peer : Nat
  sigObj : Nat
  sigN : Nat
  deriving DecidableEq, Repr

/-- Element codes of Table 10-1. -/
inductive KFmt where
  | u32 | u64 | p3f32 | p3f16
  deriving DecidableEq, Repr

/-- Set operand block (Table 10-4) with the immediate of R266. `row` is in bytes and `k` is the true limit; `vint` is
`vfmt` = 12 (INT32) against 11 (FP32). `late` is the slip with which the move starts (R269), and `sigObj`, `sigN` are what
it signals (R272). -/
structure SetOpnd where
  tAddr : Nat
  aAddr : Nat
  bAddr : Nat
  outAddr : Nat
  out2Addr : Nat
  tokAddr : Nat
  auxAddr : Nat
  nA : Nat
  nT : Nat
  row : Nat
  kfmt : KFmt
  vint : Bool
  sub : Nat
  tLog2 : Nat
  k : Nat
  desc : Bool
  clear : Bool
  radius2 : F32
  budgetAc : Nat
  budgetTx : Nat
  cont : Bool
  late : Nat
  job : Nat
  sigObj : Nat
  sigN : Nat
  deriving DecidableEq, Repr

/-- LINK_RSV operand block, Table 14-6. -/
structure RsvOpnd where
  planId : W32
  nSlots : Nat
  src : Nat
  deriving DecidableEq, Repr

/-- A bank's requested state (Table 08-5, BANK_SET; Table 07-4). -/
inductive BankReq where
  | on | retaining | off
  deriving DecidableEq, Repr

/-! ## Registers and rings -/

/-- The three rings whose consumer counts stand in Table 20-7. -/
inductive RingId where
  | tick | report | rx
  deriving DecidableEq, Repr

/-- Which words of a 64-bit register a write carries (R517: aligned 32-bit and 64-bit writes). -/
inductive WPart where
  | lo | hi | both
  deriving DecidableEq, Repr

/-! ## What the environment brings in -/

/-- Readings of one ended tick: the phase error of the tick source in ac (R11), the common-mode voltage of each channel in
mV (R84) and the largest input magnitude of each channel in microvolts (R78), the highest sensor reading in 1/256 °C and
the tick-mean core current in 1/256 A (R486). -/
structure TickIn where
  phase : Int
  cm : List Int
  mag : List Nat
  tj : Int
  ic : Nat
  deriving DecidableEq, Repr

/-- How a page program ends (R340, R341): its plane, and the groups of its page, 0 to 31, that it left uncorrectable. -/
structure ProgEnd where
  plane : Nat
  bad : List Nat := []
  deriving DecidableEq, Repr

/-- A tick marker (R396, R398); `arrPs` is its arrival in ps from the T0 that this chip expects. -/
structure Marker where
  tick : W64
  frame : W32
  tickInFrame : Nat
  period : Nat
  frameLen : Nat
  master : Nat
  epoch : Nat
  hops : Nat
  arrPs : Int
  deriving DecidableEq, Repr

/-- How a link training ends (Table 14-3): step 1 or 4 fails, or the far end's identity and versions come across. -/
inductive TrainResult where
  | failed
  | partner (chip topo dimX dimY link : Nat) (versions : List Nat) (roundTripPs : Nat)
  deriving DecidableEq, Repr

/-- Why an UP link goes DOWN (R394). -/
inductive DownCause where
  | lockLost | replayed16 | noControl
  deriving DecidableEq, Repr

/-- The head flit payload (Table 14-5). -/
structure HeadFlit where
  len : Nat
  rows : Nat
  dstStride : Nat
  dst : Nat
  sigObj : Nat
  sigN : Nat
  sigScope : Nat
  tick : W64
  planId : W32
  dstChip : Nat
  hopsX : Nat
  dirX : Bool
  hopsY : Nat
  dirY : Bool
  yFirst : Bool
  deriving DecidableEq, Repr

/-- Link traffic classes (R383). -/
inductive FlitClass where
  | scheduled | bestEffort | detour
  deriving DecidableEq, Repr

/-- What a flit carries: a head, or up to 64 payload bytes with the poison mask of its eight groups (R383). -/
inductive FlitBody where
  | head (h : HeadFlit)
  | data (last : Bool) (poison : BitVec 8) (bytes : List Byte)
  deriving DecidableEq, Repr

/-- A flit's contents (R383). -/
structure Flit where
  cls : FlitClass
  srcChip : Nat
  tag : Nat
  body : FlitBody
  deriving DecidableEq, Repr

/-- A flit on the line (R383): header, 64 payload bytes and CRC-32C; `nth` is its place in the count of flits that its sender has sent since
the link came up, which is the count that acknowledgements go by (R393). -/
structure LineFlit where
  nth : Nat
  header : W32
  payload : List Byte
  crc : W32
  deriving DecidableEq, Repr

/-- What a flooded link-state word says of a link: UP, not UP, or going down under LINK_ADMIN (R395, R400). -/
inductive LinkWord where
  | up | down | adminDown
  deriving DecidableEq, Repr

/-- What a received field-bus frame says of time (R410, R411). -/
inductive GptpKind where
  | none
  | sync (originNs : Nat) (corrNs : Int) (intervalLog2 : Int)
  | other
  deriving DecidableEq, Repr

/-- A received field-bus frame (R403, R406). `bytes` runs from the destination address to the end of the payload. -/
structure FbFrame where
  src : BitVec 48
  etherType : W16
  domain : Nat
  crcOk : Bool
  tooLong : Bool
  beacon : Bool
  gptp : GptpKind
  bytes : List Byte
  deriving DecidableEq, Repr

/-- What comes of a transmit opportunity (R404, R407). -/
inductive TxOutcome where
  | sent | collided | failed16
  deriving DecidableEq, Repr

/-- The time of a set move's end comes: the field of the engine, and the offset in the tick (R269). -/
structure BudgetEnd where
  field : Nat
  at_ : Nat
  deriving DecidableEq, Repr

/-- Causes of a condition report (Table 11-10). -/
inductive CondCause where
  | level | fadeStart | fadeEnd | rollback | regimeState | freezeThaw | stopped
  deriving DecidableEq, Repr

/-- Which record of the schedule a move issue names: a move of the tick program, or a move of the step area. -/
inductive MoveRef where
  | tickProg (i : Nat)
  | stepArea (i : Nat)
  deriving DecidableEq, Repr

/-- Synchronising-reset causes of Table 04-3. -/
inductive ResetCause where
  | powerOn | period | apply | iepe | source | calibration | command
  deriving DecidableEq, Repr

/-- The record of Table 13-3 that a RECORD_WRITE programs. -/
inductive RecId where
  | calib (ch : Nat) | ratios | feConfig | fieldBus | boot | chip | store | seal
  deriving DecidableEq, Repr

/-! ## The commands -/

/-- One constructor per row of spec/opcode_table.json, in the table's order. -/
inductive Instr where
  -- mailbox commands (Table 16-9 and the tables of the chapters)
  | hello (c : Cmd)
  | echo (c : Cmd)
  | devInfo (c : Cmd)
  | devStatus (c : Cmd)
  | cmdIndex (c : Cmd)
  | devReset (c : Cmd)
  | fwInfo (c : Cmd)
  | fwWrite (c : Cmd)
  | fwVerify (c : Cmd)
  | fwActivate (c : Cmd)
  | fwConfirm (c : Cmd)
  | liveFirmwareHandover
  | mlLoad (c : Cmd)
  | mlStart (c : Cmd)
  | mlStop (c : Cmd)
  | mlStatus (c : Cmd)
  | tickSetSource (c : Cmd)
  | tringSetup (c : Cmd)
  | tringStop (c : Cmd)
  | tickForceFallback (c : Cmd)
  | tickCounters (c : Cmd)
  | diceSeed (c : Cmd)
  | feRoute (c : Cmd)
  | feSource (c : Cmd)
  | feRange (c : Cmd)
  | feCmWindow (c : Cmd)
  | feCurve (c : Cmd)
  | feCalRead (c : Cmd)
  | feCalWrite (c : Cmd)
  | feStatus (c : Cmd)
  | chChain (c : Cmd)
  | chEvent (c : Cmd)
  | chFirLoad (c : Cmd)
  | chFirSwap (c : Cmd)
  | chFirAbort (c : Cmd)
  | applySet (c : Cmd)
  | discardSet (c : Cmd)
  | chReset (c : Cmd)
  | chState (c : Cmd)
  | watchSetup (c : Cmd)
  | watchStart (c : Cmd)
  | watchStop (c : Cmd)
  | watchFreeze (c : Cmd)
  | watchThaw (c : Cmd)
  | watchParams (c : Cmd)
  | watchRelearn (c : Cmd)
  | watchRollback (c : Cmd)
  | watchStatus (c : Cmd)
  | watchExport (c : Cmd)
  | watchImport (c : Cmd)
  | watchReportRing (c : Cmd)
  | kvPoolSetup (c : Cmd)
  | kvOpen (c : Cmd)
  | kvClose (c : Cmd)
  | kvAppend (c : Cmd)
  | kvRefill (c : Cmd)
  | kvStatus (c : Cmd)
  | attnRun (c : Cmd)
  | attnCancel (c : Cmd)
  | attnInfo (c : Cmd)
  | nvRead (c : Cmd)
  | nvWrite (c : Cmd)
  | nvStatus (c : Cmd)
  | nvCtr (c : Cmd)
  | nvProtect (c : Cmd)
  | nvMode (c : Cmd)
  | nvImgStore (c : Cmd)
  | nvImgRecall (c : Cmd)
  | linkIdent (c : Cmd)
  | linkState (c : Cmd)
  | linkAdmin (c : Cmd)
  | linkMaster (c : Cmd)
  | linkPing (c : Cmd)
  | fbPort (c : Cmd)
  | fbFilter (c : Cmd)
  | fbReports (c : Cmd)
  | fbSend (c : Cmd)
  | fbRxRing (c : Cmd)
  | fbStatus (c : Cmd)
  | hoConfig (c : Cmd)
  | hoStatus (c : Cmd)
  | pwrStatus (c : Cmd)
  | pwrGovernor (c : Cmd)
  | trustEnrol (c : Cmd)
  | trustCerts (c : Cmd)
  | trustStatus (c : Cmd)
  | trustArbRaise (c : Cmd)
  | trustDebug (c : Cmd)
  | logRead (c : Cmd)
  | counterDump (c : Cmd)
  | fence (c : Cmd)
  | fencePolicy (c : Cmd)
  -- SPDM requests over DOE (R455)
  | getVersion
  | getCapabilities
  | negotiateAlgorithms (p384 sha384 : Bool)
  | getDigests
  | getCertificate (slot offset length : Nat)
  | challenge (slot : Nat) (nonce : BitVec 256)
  | getMeasurements (index : Nat) (nonce : BitVec 256)
  -- SMBus block reads (Table 20-11)
  | smbStage
  | smbIdent
  | smbSerial
  | smbStatus
  | smbTick
  | smbHealth
  | smbAvail
  | smbPower
  | smbOwner
  -- mailbox and BAR accesses
  | mbxDoorbell (v : W32)
  | completionPost
  | mbxCq (word : Nat) (part : WPart) (v : W64)
  | mbxCqCons (v : W32)
  | ringConsumerWrite (ring : RingId) (v : W32)
  | winBase (part : WPart) (v : W64)
  | bar4Read (off len : Nat)
  | bar4Write (off : Nat) (data : List Byte) (enable : List Bool) (poisoned : Bool)
  | errSum (v : W32)
  | intStatus (v : W32)
  | intEnable (v : W32)
  | tsqCtl (part : WPart) (v : W64)
  | latchingRead (off size : Nat)
  | registerWrite (off size : Nat) (v : W64) (partialBe poisoned : Bool)
  -- inside one tick
  | tickEdge (inp : TickIn)
  | slotStart (k : Nat)
  | feSummaryDelivery (chans : BitVec 24)
  | sampleDeadline (lateFine : List (Nat × Nat))
  | fineWindow
  | moveIssue (r : MoveRef) (at_ : Nat)
  | syncWaitSatisfied (key at_ : Nat)
  | moveDelayedStart (key at_ : Nat)
  | moveComplete (key at_ : Nat)
  -- array moves
  | mm (unit : Nat) (o : ArrOpnd) (x : MoveCtx)
  | mmt (unit : Nat) (o : ArrOpnd) (x : MoveCtx)
  | tload (unit : Nat) (o : ArrOpnd) (x : MoveCtx)
  | drain (unit : Nat) (o : ArrOpnd) (x : MoveCtx)
  | azero (unit : Nat) (half : Bool) (ty : AccTy)
  -- vector moves
  | vadd (field : Nat) (o : VecOpnd) (x : MoveCtx)
  | vsub (field : Nat) (o : VecOpnd) (x : MoveCtx)
  | vmul (field : Nat) (o : VecOpnd) (x : MoveCtx)
  | vfma (field : Nat) (o : VecOpnd) (x : MoveCtx)
  | vscale (field : Nat) (o : VecOpnd) (x : MoveCtx)
  | vmax (field : Nat) (o : VecOpnd) (x : MoveCtx)
  | vmin (field : Nat) (o : VecOpnd) (x : MoveCtx)
  | vabs (field : Nat) (o : VecOpnd) (x : MoveCtx)
  | vclamp (field : Nat) (o : VecOpnd) (x : MoveCtx)
  | vcvt (field : Nat) (o : VecOpnd) (x : MoveCtx)
  | vcmp (field : Nat) (o : VecOpnd) (x : MoveCtx)
  | vsel (field : Nat) (o : VecOpnd) (x : MoveCtx)
  | vtrn (field : Nat) (o : VecOpnd) (x : MoveCtx)
  | vdiv (field : Nat) (o : VecOpnd) (x : MoveCtx)
  | vsqrt (field : Nat) (o : VecOpnd) (x : MoveCtx)
  | vrcp (field : Nat) (o : VecOpnd) (x : MoveCtx)
  | vrsqrt (field : Nat) (o : VecOpnd) (x : MoveCtx)
  | vexp (field : Nat) (o : VecOpnd) (x : MoveCtx)
  | vlog (field : Nat) (o : VecOpnd) (x : MoveCtx)
  | vtanh (field : Nat) (o : VecOpnd) (x : MoveCtx)
  | vsigm (field : Nat) (o : VecOpnd) (x : MoveCtx)
  | vgelu (field : Nat) (o : VecOpnd) (x : MoveCtx)
  | vsilu (field : Nat) (o : VecOpnd) (x : MoveCtx)
  | vsin (field : Nat) (o : VecOpnd) (x : MoveCtx)
  | vcos (field : Nat) (o : VecOpnd) (x : MoveCtx)
  | vrsum (field : Nat) (o : VecOpnd) (x : MoveCtx)
  | vrmax (field : Nat) (o : VecOpnd) (x : MoveCtx)
  | vrmin (field : Nat) (o : VecOpnd) (x : MoveCtx)
  | vrssq (field : Nat) (o : VecOpnd) (x : MoveCtx)
  | vargmax (field : Nat) (o : VecOpnd) (x : MoveCtx)
  | vlnorm (field : Nat) (o : VecOpnd) (x : MoveCtx)
  | vrmsn (field : Nat) (o : VecOpnd) (x : MoveCtx)
  | vsmax (field : Nat) (o : VecOpnd) (x : MoveCtx)
  | vadam (field : Nat) (o : VecOpnd) (x : MoveCtx)
  -- DMA, links, power, sync
  | dma (field : Nat) (o : DmaOpnd) (x : MoveCtx)
  | dmaOwnedAccess (field : Nat)
  | linkRsv (link : Nat) (o : RsvOpnd) (at_ : Nat)
  | pwrUp (polder : Nat)
  | pwrDown (polder at_ : Nat)
  | bankSet (field : Nat) (mask : BitVec 32) (req : BankReq) (at_ : Nat)
  | signal (obj n : Nat)
  | barrier (engine obj tgt at_ : Nat)
  | step (window at_ : Nat)
  -- set moves
  | gather (field : Nat) (o : SetOpnd) (x : MoveCtx)
  | gatherD (field : Nat) (o : SetOpnd) (x : MoveCtx)
  | gatherDFinalSignal (field : Nat)
  | scatter (field : Nat) (o : SetOpnd) (x : MoveCtx)
  | scatterAdd (field : Nat) (o : SetOpnd) (x : MoveCtx)
  | segReduce (field : Nat) (o : SetOpnd) (x : MoveCtx)
  | scan (field : Nat) (o : SetOpnd) (x : MoveCtx)
  | sinter (field : Nat) (o : SetOpnd) (x : MoveCtx)
  | sunion (field : Nat) (o : SetOpnd) (x : MoveCtx)
  | sdiff (field : Nat) (o : SetOpnd) (x : MoveCtx)
  | hprobe (field : Nat) (o : SetOpnd) (x : MoveCtx)
  | hinsert (field : Nat) (o : SetOpnd) (x : MoveCtx)
  | hclear (field : Nat) (o : SetOpnd) (x : MoveCtx)
  | gbucket (field : Nat) (o : SetOpnd) (x : MoveCtx)
  | gplace (field : Nat) (o : SetOpnd) (x : MoveCtx)
  | nbr (field : Nat) (o : SetOpnd) (x : MoveCtx)
  | twalk (field : Nat) (o : SetOpnd) (x : MoveCtx)
  | setBudgetEnd (e : BudgetEnd)
  -- the end of a tick, frames, sources
  | commitPoint
  | healthPathChoice
  | holdExpiry (output : Nat)
  | hoPeriodStart (output : Nat)
  | frameBoundary
  | healthStatePost
  | frameDataPost
  | scheduleChange
  | tickInEdge (err : Int)
  | sourceLoss
  | holdoverExit
  | tickMarkerRx (link : Nat) (m : Marker)
  | parentMarkerMissing
  | feFreeRunTick (inp : TickIn)
  | computeDownDetect
  -- filter chain
  | fineOutput (ch : Nat) (samples : List Int)
  | eventActivate (ch ev : Nat)
  | eventDeactivate (ch ev : Nat)
  | detectorsStart (ch : Nat)
  | autoRangeUp (ch magUv sample : Nat)
  | autoRangeDown (ch : Nat)
  | rangeTransientEnd (ch : Nat)
  | cmFaultEnter (ch : Nat)
  | cmFaultExit (ch : Nat)
  | sourceCurrentLimit (src : Nat) (reached : Bool)
  | chopReversal (src : Nat)
  | applyTakesEffect
  | synchronisingReset (ch : Nat) (cause : ResetCause)
  | firSwapStart (ch : Nat)
  | firFadeEnd (ch : Nat)
  | firAbortEffect (ch : Nat)
  | calibrationEffect
  -- power, reset, bring-up
  | fePowerOn
  | powerFailDetect
  | supplyReturn
  | perstNAssert
  | perstNDeassert
  | functionLevelReset
  | railFault
  | thermalTrip (tj : Int) (ic : Nat)
  | watchdogExpiry (core : Nat) (at_ : Nat)
  | extestSelect (selected : Bool)
  | computeDieStart
  | dramTrainingEnd (failed : BitVec 16) (density : List Nat)
  | dramClearEnd
  | syncStage
  | powerUpGrant (at_ : Nat)
  | polderUp (polder at_ : Nat)
  | bankReady (field bank at_ : Nat)
  | sluiceClosed (polder at_ : Nat)
  | powerDownAbandon (polder at_ : Nat)
  | dramRefresh (chan bank : Nat)
  | patrolScrub (line : Nat)
  | fmCeRewrite (field : Nat)
  -- links
  | linkTraining (link : Nat) (r : TrainResult)
  | retrainTimer (link : Nat)
  | linkDown (link : Nat) (cause : DownCause)
  | linkUnfence (link : Nat)
  | linkStateFloodRx (chip link : Nat) (w : LinkWord)
  | planIdRx (link : Nat) (plan : Option W32)
  | flitRx (link : Nat) (f : LineFlit)
  | linkAckRx (link count : Nat) (missing : Bool)
  | creditRx (link : Nat) (cls : FlitClass) (n : Nat)
  | flitSlot (link slot : Nat)
  -- field bus
  | fbFrameRx (port : Nat) (f : FbFrame)
  | gptpLoss (port : Nat)
  | fbTransmitOpportunity (port : Nat) (r : TxOutcome)
  -- store
  | nvProgramEnd (e : ProgEnd)
  | recordWrite (r : RecId) (readBackOk : List Bool)
  | logPageProgram
  | operatingMinute
  | imageStoreEnd
  -- watch
  | watchTransition (regime : Nat) (delay : Nat)
  | trainingTrigger (job : Nat)
  | evaluationTrigger (job : Nat)
  | promotion
  | watchFadeStart
  | watchFadeEnd
  | conditionReport (cause : CondCause)
  | envelopeSigned
  -- attention
  | serve (job : Nat)
  | serveEnd (job : Nat)
  | pageFlush (seq layer : Nat)
  | refillTicketDone
  | compaction (job : Nat)
  -- the remaining inputs
  | hostReadCompletion (xfer off : Nat) (data : List Byte) (poison : List Bool)
  | bar2Write (off : Nat) (data : List Byte) (poisoned : Bool)
  | msixVectorUnmask (vec : Option Nat)
  | dramTemperatureReport (hot : Bool)
  | vexcToleranceChange (ok : Bool)
  | vhoToleranceChange (ok : Bool)
  | frontEndSupplyCollapse
  | plcaStatusChange (port : Nat) (status : Bool)
  | linkAdminDownEntry
  | fwStartStage
  | bootFlashExternalWrite (slot off : Nat) (data : List Byte)
  | smbusRejectedTransaction (write : Bool) (code : Byte)
  deriving DecidableEq, Repr

end Sys2Proof
end

