-- ==== Sys2Proof/Config.lean ====
section
/-! DEFINITION. What the manual leaves open: constants without a body, so that no proof can see their values. Each stands
for a value that the spec does not state (notes/assumptions says which row), or for a cryptographic function that the spec
names by its standard and that the model does not compute. Every constant that yields a fresh value takes the counter
State.free, which each draw advances. -/

namespace Sys2Proof.Config

/-- A fresh 64-bit value (R150: the dice seed at a compute-die start; log 9). -/
opaque freeW64 : Nat → W64

/-- A fresh 256-bit value (R463: the XTS keys; log 9). -/
opaque freeKey : Nat → BitVec 256

/-- A fresh FP32 or accumulator pattern, by draw and element index (results that the manual bounds or leaves open). -/
opaque freeW32 : Nat → Nat → W32

/-- A fresh FP16 pattern, by draw and element index. -/
opaque freeW16 : Nat → Nat → W16

/-- A fresh byte, by draw and index (contents that the manual leaves without meaning). -/
opaque freeByte : Nat → Nat → Byte

/-- A fresh number, by draw and index (durations and counts that the manual leaves open). -/
opaque freeNat : Nat → Nat → Nat

/-- A fresh choice, by draw and index. -/
opaque freeBool : Nat → Nat → Bool

/-- The linear set point of a health output whose `s_lo` or `s_hi` is an infinity, by both and the score (R416 states no value; log 45). -/
opaque linearOpen : W16 → W16 → W32 → Nat

/-- SHA-384 of a byte string, in the order FIPS 180-4 gives the digest (R458, R460, R461). -/
opaque sha384 : List Byte → BitVec 384

/-- ECDSA P-384 verification: public key bytes, message digest, signature bytes (R460, R461). -/
opaque ecdsaVerify : List Byte → BitVec 384 → List Byte → Bool

/-- ECDSA P-384 signature by the private key that a CDI gives: key material, digest, draw (R453, R455, R466). -/
opaque ecdsaSign : BitVec 384 → BitVec 384 → Nat → BitVec 768

/-- The trust block's key derivation: input key material and context (R451, R453). -/
opaque kdf : BitVec 384 → BitVec 384 → BitVec 384

/-- CDI_0 of this part (R451). -/
opaque cdi0 : BitVec 384

/-- HMAC-SHA-384 under the export key K_exp that CDI_0 and the owner's `key_hash` give (R451, R470). -/
opaque exportMac : BitVec 384 → List Byte → BitVec 384

/-- Public key that a CDI gives, as the bytes a certificate carries (R453, R454). -/
opaque publicKey : BitVec 384 → List Byte

/-- The Alias certificate, DER-encoded (R454): the CDI that gives its key, and what its extensions carry: firmware digest and
`sec_ver`, the flags not-configured and debug, `owner_id`, `key_hash` and the value of counter 3. -/
opaque aliasCert : BitVec 384 → List Byte → List Byte

/-- Noluz's firmware-signing public key, as 97 bytes (R461: the mask ROM holds its SHA-384). -/
opaque vendorKey : List Byte

/-- SHA-384 of the trust-block ROM (measurement 1, R456). -/
opaque romDigest : BitVec 384

/-- SHA-384 of the Noluz root certificate, which heads the chain of slot 0 (Table 17-2; the certificate is not in the device, R454). -/
opaque rootHash : BitVec 384

/-- The intermediate and DeviceID certificates of the factory region, in that order (R454). -/
opaque vendorChain : List Byte

/-- Noluz's debug-token public key hash (R465). -/
opaque debugKeyHash : BitVec 384

/-- The offset of a calibration set is added before its gain multiplies (R72 does not give the order of the two; log 23). -/
opaque calOffsetFirst : Bool

/-- A corrected sample between two words of the chain rounds up (R72 gives no rounding; log 23): range code, gain, offset, sample in units of
2^-27 V. -/
opaque calRoundUp : Nat → W32 → W32 → Int → Bool

/-- Temperature of a thermocouple curve in FP32 before clamping (R85: the reference functions are in IEC 60584; log 24):
curve, exact fine voltage as integer and power of two, cold-junction temperature. -/
opaque thermocouple : Nat → Int → Int → W32 → W32

/-- Reading of the on-package temperature sensor in FP32 °C, by draw (R85). -/
opaque packageTemp : Nat → W32

/-- Refreshes of one bank that the LPDDR5X standard lets a controller postpone (R334 names the standard and no number; log 30). -/
opaque refreshLimit : Nat

/-- Bank of an offset inside a channel's data area (no rule gives the mapping; log 30). -/
opaque dramBank : Nat → Nat

/-- AES-256-XTS of one 64-byte line: data key, tweak key, tweak, plaintext (R330; the cipher's own standard). -/
opaque xts : BitVec 256 → BitVec 256 → Nat → List Byte → List Byte

/-- The four check bytes of a line over its ciphertext (R325; the generator of the code is not given). -/
opaque rsCheck : List Byte → List Byte

/-- The check pattern of a line that is stored as poison (R328; its value is not given). -/
opaque poisonCheck : List Byte

/-- Numbers, and bytes at places, of any count, by draw: what misuse leaves (R254, R193). -/
opaque freeNats : Nat → List Nat
opaque freeCells : Nat → List (Nat × BitVec 8)

/-- Offset of the signature block in a firmware slot's bytes (R495 and R460 give the image no header layout; log 34). -/
opaque fwSigOff : List Byte → Nat

/-- Version of the firmware image in a slot (no rule gives its place; log 34). -/
opaque fwVersion : List Byte → W32

/-- `sec_ver` of the firmware image's header (no rule gives its place; log 34). -/
opaque fwSecVer : List Byte → Nat

/-- The new image accepts the running image's hand-over state version (R507 gives no encoding; log 34): new slot, running slot. -/
opaque fwAccepts : List Byte → List Byte → Bool

/-- What VEXP gives inside a serve, by its argument: a value within the bound of Table 06-7 stands as it is (R232, R236). -/
opaque expFree : W32 → W32

/-- What VRCP gives inside a serve, by its argument. -/
opaque rcpFree : W32 → W32

/-- Factory MAC address of a field-bus port (R405 gives no value; log 1). -/
opaque factoryMac : Nat → BitVec 48

/-- Bytes of the candidate snapshot that an image gives (R310 names its parts and no size; log 43). -/
opaque snapshotLen : List Byte → Nat

/-- Where an item stands in an area of the watch map: image digest, role, item (R286 gives no layout; log 43). -/
opaque rolePlace : BitVec 384 → Nat → Nat → Nat

/-- The byte of an area that a byte of the candidate snapshot is: image digest, place in the snapshot; true for the live model's area, false
for the candidate's, and the offset there (R310 gives no layout; log 43). -/
opaque snapshotFrom : BitVec 384 → Nat → Bool × Nat

/-- The byte of the snapshot that a byte of a model area takes in a promotion: image digest, offset in the area (R312 gives no layout; log 43). -/
opaque snapshotInto : BitVec 384 → Nat → Option Nat

/-- What a pass of the predictor gives for a feature: draw, whether the pass runs on area Y, the context ring, the control values, the regime, the
feature. The network is the image's (R296; log 47). -/
opaque predict : Nat → Bool → List (List Byte) → List W32 → Option Nat → Nat → W32

/-- A correction value as a pass of the predictor gives it: draw, whether the pass runs on area Y, the entry (R297; log 47). -/
opaque passCorr : Nat → Bool → Nat → W32

/-- What the candidate snapshot, or else the live model, predicts for a feature of a logged row: draw, snapshot or live, row number, feature
(R310; log 47). -/
opaque evalPredict : Nat → Bool → Nat → Nat → W32

/-- The narrow tensor that a move of the training job converts or updates, by image digest and `move_id`: i is trained tensor i, 64 + i its
gradient, 128 + i an activation; none for a move of no tensor (R309 and R146 give no map; log 43). -/
opaque tensorOf : BitVec 384 → Nat → Option Nat

/-- The model's input scale as a power of two, by image digest (R295 gives no place or value; log 47). -/
opaque inputScale : BitVec 384 → Int

/-- 1 / (1 − β^t) as the firmware computes it, by β and t (R171, R307 state no rounding; log 43). -/
opaque adamCorr : W32 → Nat → W32

end Sys2Proof.Config
end

