-- ==== Sys2Proof/Machine/State.lean ====
section
/-! DEFINITION. The state of the Kilud as plain data, grouped by unit of the manual. A field's default is its value at
State.reset. Tables indexed by a number are sparse lists of (index, entry) pairs: an index that is not listed has the
entry type's reset value, so an empty table is a whole table at reset. Each field's comment reads: what it is, its width,
the rule of spec/ that names it, its reset value. -/

namespace Sys2Proof.Machine

/-- A sparse table: (index, entry) pairs, indices rising. -/
abbrev Tab (α : Type) := List (Nat × α)

/-- A sparse byte memory in canonical form: addresses strictly rising, no byte equal to what an unlisted address reads as. -/
abbrev Mem := List Host.Cell

/-! ## The part -/

/-- Order codes of Table 00-1. -/
inductive Order where
  | f4 | f6 | k192
  deriving DecidableEq, Repr

/-- What is fixed in the part: straps, fuses and the mask ROM. -/
structure Part where
  /-- order code, 2 bits | R1, R60, Table 20-2 `order` | DESIGN CHOICE KLD-256-F6 (log 1) -/
  order : Order := .f6
  /-- `ORDER.fe_step`, 8 bits | Table 20-2 (counted from 1) | DESIGN CHOICE 1 (log 1) -/
  feStep : Nat := 1
  /-- `ORDER.cd_step`, 8 bits | Table 20-2 (counted from 1) | DESIGN CHOICE 1 (log 1) -/
  cdStep : Nat := 1
  /-- `BOOTROM_VER`, 32 bits | Table 20-2 (ROM value) | DESIGN CHOICE 0 (log 1) -/
  bootRomVer : W32 := 0
  /-- fused VDD_CORE setting in mV | R485, R533 | DESIGN CHOICE 750 (log 1) -/
  fusedMv : Nat := 750
  /-- `SERIAL`, 16 bytes as one number, byte 0 lowest | Table 20-1, Table 13-1 (factory region) | DESIGN CHOICE 0 (log 1) -/
  serial : BitVec 128 := 0
  /-- SMBus straps SMB_A1, SMB_A0, 2 bits | R529 | DESIGN CHOICE 0 (log 1) -/
  smbStrap : Nat := 0
  deriving DecidableEq, Repr

/-! ## Front end and filter chain: settings (chapters 03 and 04) -/

/-- One channel's routing (Table 03-8). -/
structure Route where
  enable : Bool := false
  posPin : Nat := 0
  negPin : Nat := 0
  iepe : Bool := false
  burnout : Bool := false
  excKind : Nat := 0
  excNum : Nat := 0
  excOut : Nat := 0
  deriving DecidableEq, Repr

/-- One source's setting (Table 03-9). `pins` is the 32-bit field: per byte bit 7 used, [5:0] pin. -/
structure SrcCfg where
  enable : Bool := false
  value : Nat := 0
  polarity : Bool := false
  chop : Nat := 0
  pins : W32 := 0
  deriving DecidableEq, Repr

/-- One channel's range control (Table 03-10). -/
structure RangeCfg where
  range : Nat := 0
  auto : Bool := false
  wide : Nat := 0
  narrow : Nat := 7
  dwell : Nat := 1000
  deriving DecidableEq, Repr

/-- One channel's common-mode window (Table 03-11). -/
structure CmCfg where
  lo : Int := -1000
  hi : Int := 25000
  persist : Nat := 4
  deriving DecidableEq, Repr

/-- One channel's curve and cold junction (Table 03-11). -/
structure CurveCfg where
  curve : Nat := 0
  cj : Nat := 0xFF
  deriving DecidableEq, Repr

/-- One channel's chain settings (Table 04-7). -/
structure ChainCfg where
  preset : Nat := 0
  maLen : Nat := 1
  sh1 : Nat := 0
  sh2 : Nat := 0
  coarseLen : Nat := 3
  peakDecay : Nat := 6
  rmsLen : Nat := 256
  envA : Nat := 6
  envFc : Nat := 8192
  envBw : Nat := 4096
  deriving DecidableEq, Repr

/-- One threshold event's settings (Table 04-8). -/
structure EventCfg where
  enable : Bool := false
  below : Bool := false
  source : Nat := 0
  onLevel : F32 := 0
  offLevel : F32 := 0
  persistOn : Nat := 1
  persistOff : Nat := 1
  deriving DecidableEq, Repr

/-- A front-end configuration (R63, R66, R122): the applied one, or the writes of a pending or sealed set, whose tables
then list only what the set writes. Sources are numbered current 0 to 7, voltage 8 to 11, bias 12 to 15; events 2 × channel
+ event. -/
structure FeCfg where
  routes : Tab Route := []
  srcs : Tab SrcCfg := []
  ranges : Tab RangeCfg := []
  cms : Tab CmCfg := []
  curves : Tab CurveCfg := []
  chains : Tab ChainCfg := []
  events : Tab EventCfg := []
  deriving DecidableEq, Repr

/-- A FIR coefficient bank with its header (R100, R126 for the values after power-on). -/
structure Bank where
  taps : Nat := 1
  shift : Nat := 23
  fPass : Nat := 32768
  coefs : Tab Int := [(0, 0x7FFFFF)]
  deriving DecidableEq, Repr

/-- A queued FIR swap (R102): its K, and whether it waits behind a running fade. -/
structure Swap where
  len : Nat
  behind : Bool
  deriving DecidableEq, Repr

/-- A running cross-fade (R101): its K and the index i of the last output formed. -/
structure Fade where
  len : Nat
  i : Nat
  deriving DecidableEq, Repr

/-- Run state of one threshold event (R110): active, and the two persistence counts. -/
structure EvRun where
  active : Bool := false
  cntOn : Nat := 0
  cntOff : Nat := 0
  deriving DecidableEq, Repr

/-- Run state of one measurement channel's chain. -/
structure Chan where
  /-- range code in use, 3 bits | R75 | 0 (the applied `range` of an unconfigured channel) -/
  range : Nat := 0
  /-- numbers of the banks that are new, old and load | R100, Table 04-6 | DESIGN CHOICE 0, 1, 2 (log 26) -/
  roles : List Nat := [0, 1, 2]
  /-- flagged samples still to come of the last range change | R76, R80 | 0 -/
  flagLeft : Nat := 0
  /-- a range transient runs | R76 | no -/
  transient : Bool := false
  /-- ticks below the down-range threshold | R78 | 0 -/
  dwell : Nat := 0
  /-- common-mode state is fault | R84 | normal -/
  cmFault : Bool := false
  /-- consecutive ticks outside the window | R84 | 0 -/
  cmOut : Nat := 0
  /-- consecutive ticks inside the window while in fault | R84 | 0 -/
  cmIn : Nat := 0
  /-- last common-mode measurement in mV, 12-bit resolution | FE_STATUS, R84 | DESIGN CHOICE 0 (log 2) -/
  cmMv : Int := 0
  /-- a fine output was clamped to its curve's range in this tick | R87 | clear -/
  linOor : Bool := false
  /-- offset servo of IEPE mode, in 2^-59 V | R74 | DESIGN CHOICE 0 (log 2) -/
  servo : Int := 0
  /-- the servo takes the level of the next sample | R74 | no -/
  servoDue : Bool := false
  /-- samples taken in this tick | R71, Table 03-12 | 0 -/
  inTick : Nat := 0
  /-- a sample of this tick was not below the down-range threshold | R78 | no -/
  loud : Bool := false
  /-- sample counter since the last synchronising reset | R95 | 0 -/
  cnt : Nat := 0
  /-- corrected samples since the reset, newest first, as long as the sinc³ window | R96 | none -/
  xs : List Int := []
  /-- counter value of the last flagged sample since the reset | R113 | none -/
  lastFlag : Option Nat := none
  /-- sinc³ outputs u, newest first | R97 | none -/
  us : List Int := []
  /-- moving-average outputs v, newest first | R98 | none -/
  vs : List Int := []
  /-- index of the last fine output whose u saturated, and whose v saturated | R94, R113 | none -/
  satU : Option Nat := none
  satV : Option Nat := none
  /-- fine outputs formed since the reset (the sequence number) | R95, R118 | 0 -/
  k : Nat := 0
  /-- outputs up to this index are SETTLING | R114 | 0 -/
  settleTo : Nat := 0
  /-- last fine output, FP32 | R99, R120 | 0 -/
  fine : F32 := 0
  /-- flag SETTLING of the last fine output, or of a reset still settling | R114, R120 | clear -/
  fSet : Bool := false
  /-- flag RANGE_TRANSIENT of the last fine output | R113 | clear -/
  fRt : Bool := false
  /-- the detectors are held | R115 | clear -/
  held : Bool := false
  /-- fine outputs since the detectors started | R107 | 0 -/
  dk : Nat := 0
  /-- peak detector, FP32 | R106 | 0 -/
  peak : F32 := 0
  /-- detector index and flag of the output that last raised the peak | R109 | none -/
  peakAt : Nat := 0
  peakRt : Bool := false
  /-- fine outputs of the RMS window with their flag, newest first | R107, R109 | none -/
  win : List (F32 × Bool) := []
  /-- RMS detector, FP32 | R107 | 0 -/
  rms : F32 := 0
  /-- band-pass history f[k−1], f[k−2], b[k−1], b[k−2] | R108 | 0 -/
  f1 : F32 := 0
  f2 : F32 := 0
  b1 : F32 := 0
  b2 : F32 := 0
  /-- envelope, FP32 | R108 | 0 -/
  env : F32 := 0
  /-- detector index of the last flagged input of the envelope | R109 | none -/
  envFlag : Option Nat := none
  /-- the detector values delivered: peak, RMS, envelope as FP16, and their flag | R115, R120 | 0 -/
  dPeak : F16 := 0
  dRms : F16 := 0
  dEnv : F16 := 0
  dRt : Bool := false
  /-- coarse level, FP16, and its flag | R105 | 0 -/
  coarse : F16 := 0
  cRt : Bool := false
  /-- last 32 samples of the tick with their flags, newest first | R105 | none -/
  tail : List (Int × Bool) := []
  /-- fine outputs formed in the tick, oldest first: value, sequence number, SETTLING, RANGE_TRANSIENT | R118, R119 | none -/
  fresh : List (F32 × Nat × Bool × Bool) := []
  /-- a cross-fade ran during the tick | R104, Table 04-4 | clear -/
  faded : Bool := false
  /-- the three coefficient banks by role | R100 | `taps` 1, `shift` 23, `f_pass` 32,768, c_0 0x7F_FFFF -/
  bankNew : Bank := {}
  bankOld : Bank := {}
  bankLoad : Bank := {}
  /-- running fade | R101 | none -/
  fade : Option Fade := none
  /-- queued swap | R102 | none -/
  swap : Option Swap := none
  /-- an abort waits for the first fine output after the next tick boundary | R103 | clear -/
  abortReq : Bool := false
  /-- the queued swap has met the tick boundary after its arrival | R101 | clear -/
  swapArmed : Bool := false
  /-- the abort has met a tick boundary | R103 | clear -/
  abortArmed : Bool := false
  /-- an abort ended the fade and the output that shows it has not formed: a queued swap waits for the one after it | R103 | clear -/
  swapHold : Bool := false
  /-- a CH_RESET waits for the next tick boundary | R116, R126 | clear -/
  resetReq : Bool := false
  /-- synchronising resets that are due at sample 0 of this tick | R116 | none -/
  due : List ResetCause := []
  /-- events 0 and 1 | R110, R112 | inactive, counts 0 -/
  ev0 : EvRun := {}
  ev1 : EvRun := {}
  deriving DecidableEq, Repr

/-- A calibration write waiting for the next tick boundary (R90): a set of a channel and range, or a source ratio. -/
inductive CalWrite where
  | set (ch range : Nat) (gain : W32) (offset : W32)
  | ratio (i : Nat) (q : W32)
  deriving DecidableEq, Repr

/-- The front-end die's measuring side. -/
structure FrontEnd where
  /-- applied configuration: routing, sources, ranges, windows, curves, chain, events | R63, R66, Tables 03-8 to 03-11, 04-7, 04-8 | every channel and source disabled, fields at their table's Reset (R66) -/
  cfg : FeCfg := {}
  /-- pending set | R122 | empty -/
  pend : FeCfg := {}
  /-- sealed set waiting for the next tick boundary | R122 | none -/
  sealed_ : Option FeCfg := none
  /-- run state of channels 0 to 23 | R75 to R120 | as each field of Chan -/
  chans : Tab Chan := []
  /-- calibration sets, index 8 × channel + range: gain Q2.30 and offset (32 bits each) | R89, R349 | DESIGN CHOICE gain 0x4000_0000,
  offset 0: the factory values are not given, and the record reads as absent (log 83) -/
  cal : Tab (W32 × W32) := []
  /-- source ratios Q2.30: 4n + o for current outputs, 32 + 2n + p for voltage sources | R89, R349 | DESIGN CHOICE 0x4000_0000 (log 83) -/
  ratios : Tab W32 := []
  /-- the sealed set is due at sample 0 of this tick | R122 | no -/
  sealedDue : Bool := false
  /-- calibration writes whose record is still to be written | R90 | none -/
  calWait : List CalWrite := []
  /-- calibration writes that take effect at the next tick boundary | R90 | none -/
  calPend : List CalWrite := []
  /-- calibration writes that are due at sample 0 of this tick | R90 | none -/
  calDue : List CalWrite := []
  /-- voltage sources 0 to 3 whose chopping reversal is due at sample 0 of this tick | R82 | none -/
  chopDue : BitVec 4 := 0
  /-- chop count of voltage sources 0 to 3 | R82 | 0 -/
  chopCnt : Tab Nat := []
  /-- voltage source in its reversed phase | R82 | the stored polarity (false) -/
  reversed : Tab Bool := []
  /-- FE_SRC_FAULT.vsrc, 4 bits | R69, Table 20-8 | 0 -/
  srcFault : BitVec 4 := 0
  /-- VEXC within tolerance | R532 | DESIGN CHOICE yes (log 3) -/
  vexcOk : Bool := true
  /-- summary entries delivered in this tick, by channel | R118 | none -/
  delivered : Tab (BitVec 128) := []
  /-- channels whose entry of this tick was written as poison | R20 | none -/
  lost : BitVec 24 := 0
  /-- entries of the previous tick ready on the front-end die, by channel | R118 | none -/
  ready : Tab (BitVec 128) := []
  /-- fine-stream entries of the previous tick in the receive buffer, by channel | R119 | none -/
  stream : Tab (List W64) := []
  /-- fine entries that missed the buffer at T0 + 40 ac, as (channel, index) | R119 | none -/
  lateFine : List (Nat × Nat) := []
  /-- masks of the flags delivered in this tick | R121, R88 | 0 -/
  settling : BitVec 24 := 0
  rangeM : BitVec 24 := 0
  cmM : BitVec 24 := 0
  deriving DecidableEq, Repr

/-! ## The tick (chapter 01) -/

/-- A tick record (Table 01-4 and R34). `fscores` holds FP16, `score` and the rest FP32. -/
structure Record where
  tick : W64 := 0
  frame : W32 := 0
  tickInFrame : Nat := 0
  flags : BitVec 16 := 0
  watchState : Nat := 0
  tier : Nat := 0
  placement : Nat := 0
  settling : BitVec 24 := 0
  degraded : BitVec 8 := 0
  rangeM : BitVec 24 := 0
  cmM : BitVec 24 := 0
  severity : BitVec 8 := 0
  score : F32 := 0
  tcMargin : Int := 0
  corrAge : Nat := 0
  movelistId : Nat := 0
  poisonSrc : BitVec 8 := 0
  t0Time : W64 := 0
  tickSrc : Nat := 0
  chipId : Nat := 0
  features : List F32 := []
  fscores : List F16 := []
  corr : List F32 := []
  deriving DecidableEq, Repr

/-- The record state that passes to the front-end die at the commit point (Table 02-1, R301). -/
structure RecState where
  fallback : Bool := true
  severity : BitVec 8 := 0
  score : F32 := 0
  groups : List F32 := []
  levels : List Nat := []
  deriving DecidableEq, Repr

/-- The tick and its source. -/
structure TickSt where
  /-- tick number, 64 bits | R41, text after R10 | PRESUMED 0 (log 4) -/
  no : W64 := 0
  /-- tick in frame, 16 bits | R8, R28 | 0 -/
  inFrame : Nat := 0
  /-- frame number, 32 bits, wraps | R8, text after R10 | PRESUMED 0 (log 4) -/
  frame : W32 := 0
  /-- tick period in ac, 17 bits (TSQ_CTL.period) | R7, R9 | 2,400 -/
  period : Nat := 2400
  /-- frame length in ticks, 16 bits (TSQ_CTL.frame_len) | R8, R9 | 1,000 -/
  frameLen : Nat := 1000
  /-- spillway length S in ac | R9, R18 | 240 -/
  spill : Nat := 240
  /-- commit offset C in ac | R9, R18 | 120 -/
  commitOff : Nat := 120
  /-- TSQ_CTL write waiting for the frame boundary: period, frame length | R9, R523 | none -/
  pendTsq : Option (Nat × Nat) := none
  /-- the frame boundary's work for a first T0 of a frame is still to be done | R8 | clear -/
  atBoundary : Bool := false
  /-- tick source code, 4 bits | R36, Table 01-1 | 0 (Table 01-7, Table 20-6) -/
  source : Nat := 0
  /-- gPTP epoch in ns, 64 bits | R36 | 0 -/
  epoch : W64 := 0
  /-- source last set by TICK_SET_SOURCE on a stand-alone chip or a tick master, 4 bits | R399 | none -/
  setSource : Option Nat := none
  /-- holdover | R13 | no -/
  holdover : Bool := false
  /-- valid edges in a row, toward the 16 that end holdover | R13 | 0 -/
  good : Nat := 0
  /-- ticks in a row with the phase error above T | R13 | 0 -/
  bad : Nat := 0
  /-- phase error of the source in ac | R11, R14 | 0 -/
  phase : Int := 0
  /-- ac by which the current tick is lengthened or shortened after its commit point | R11, R14 | 0 -/
  trim : Int := 0
  /-- the current tick is a realignment tick | R14, R33 | no -/
  realign : Bool := false
  /-- a realignment is due at the next frame boundary | R14 | no -/
  realignDue : Bool := false
  /-- phase error, at the T0 of the last frame boundary, of the source that is in force from it, in ac | R14 | 0 -/
  phaseNew : Int := 0
  /-- TICK_OUT: time in ac of the T0 at which the pin last rose, none while it stays low | R537 | none (low while the compute die is in reset) -/
  tickOut : Option Nat := none
  /-- ac count of the current T0 from the front-end power-on | time base of R28 | 0 -/
  t0Abs : Nat := 0
  /-- the compute die delivered the tick edge | R46, Table 15-5 `compute_up` | no (the compute die is in reset) -/
  computeUp : Bool := false
  /-- forced fallback | R32, R543 | off -/
  force : Bool := false
  /-- record committed in this tick | R27 | no -/
  committed : Bool := false
  /-- offset of the last tick-critical completion in this tick | R28 `tc_margin` | none -/
  tcLast : Option Nat := none
  /-- poison sources of tick-critical values in this tick, 8 bits | R28, R29 | 0 -/
  poison : BitVec 8 := 0
  /-- last fresh correction | R35 | empty -/
  corr : List F32 := []
  /-- ticks the correction has been held, 8 bits | R35 | 0 -/
  corrAge : Nat := 0
  /-- hold limit set by TRING_SETUP, 8 bits | R35, R37 | 8 -/
  holdLimit : Nat := 8
  /-- last committed record | R27, R28 | all fields 0 (log 5) -/
  last : Record := {}
  /-- a record was committed in the last tick | R522 | no -/
  lastOk : Bool := false
  /-- TICK_STAT, 256 bits | R522, Table 20-6 | `fallback` 1, every other field 0 -/
  stat : BitVec 256 := BitVec.ofNat 256 (2 ^ 134)
  /-- TICK_TOTAL, 64 bits | R41 | 0 -/
  total : W64 := 0
  /-- TICK_LATE, 64 bits | R41 | 0 -/
  late : W64 := 0
  /-- TICK_FALLBACK, 64 bits | R41 | 0 -/
  fallback : W64 := 0
  /-- TICK_DARK, 64 bits | R41 to R43 | 0 -/
  dark : W64 := 0
  deriving DecidableEq, Repr

/-! ## Rings and the mailbox (chapters 01, 16, 20) -/

/-- A ring in host memory (Tables 01-8 and 20-7). -/
structure Ring where
  /-- a setup is in effect, and posting is on | R39, R543 | no -/
  on : Bool := false
  base : W64 := 0
  index : W64 := 0
  entriesLog2 : Nat := 10
  entryLog2 : Nat := 10
  vec : Nat := 0
  every : Nat := 0
  /-- entries posted since the last interrupt | R37 | 0 -/
  since : Nat := 0
  /-- producer count, 32 bits | R39 | 0 -/
  prod : W32 := 0
  /-- consumer count, 32 bits | Table 20-7 | 0 -/
  cons : W32 := 0
  /-- drop count, 32 bits, saturating | Table 20-7 | 0 -/
  drop : W32 := 0
  deriving DecidableEq, Repr

/-- Status codes of Table 16-10. -/
inductive Status where
  | ok | accepted | badOpcode | badParam | badLength | notReady | busy | refused | locked | protected_ | poolFull
  | holesPresent | lengthLimit | formatUnsupported | applyReject | imageReject | signatureFail | rollback | noPlacement
  | linkDown | internal
  deriving DecidableEq, Repr

/-- A completion that is due (Table 16-6). -/
structure Completion where
  slot : Nat
  cookie : W64
  opcode : Nat
  quiet : Bool
  status : Status
  detail : Nat := 0
  data : BitVec 256 := 0
  respLen : Nat := 0
  deriving DecidableEq, Repr

/-- Watch parameters (Table 11-8). -/
structure WParams where
  lr : F32 := 0x3A83126F
  beta1 : F32 := 0x3F666666
  beta2 : F32 := 0x3F7FBE77
  eps : F32 := 0x322BCC77
  wdecay : F32 := 0
  learnTicks : Nat := 150000000
  warmTicks : Nat := 50000
  theta3 : F16 := 0x4E40
  theta2 : F16 := 0x4880
  theta1 : F16 := 0x4400
  gate : F16 := 0x4200
  ctlAge : Nat := 500
  gateHold : Nat := 16
  evalEvery : Nat := 2000
  promoMin : Nat := 20000
  fadeFrames : Nat := 16
  nFrames : Nat := 5
  mFrames : Nat := 3
  promoMargin : Nat := 20
  regimeTol : Nat := 50
  vExp : Nat := 16
  minCover : Nat := 8
  scMargin : Nat := 1
  batch : Nat := 256
  holdLog2 : Nat := 3
  deriving DecidableEq, Repr

/-- Governor parameters (Table 18-6). -/
structure GovParams where
  recoverFrames : Nat := 500
  hystA : Nat := 8
  hystT : Nat := 3
  iGov : Nat := 105
  tjGov : Nat := 105
  ceiling : Nat := 0
  deriving DecidableEq, Repr

/-- Fence policy (Table 19-10). -/
structure FencePol where
  winFrames : Nat := 1000
  arrLim : Nat := 16
  vecLim : Nat := 16
  fmueLim : Nat := 4
  auto : Bool := true
  deriving DecidableEq, Repr

/-- What a command in flight waits for, and what it then does. -/
inductive PendAct where
  | source (code : Nat) (epoch : W64)
  | tring (r : Ring) (holdLimit : Nat)
  | tringStop
  | force (on : Bool)
  | seed (v : W64)
  | applySet
  | firSwap (left : BitVec 24)
  | chReset (mask : BitVec 24)
  | mlStart
  | mlStop
  | watchStart (resume : Bool)
  | watchStop
  | watchFreeze
  | watchThaw
  | watchParams (p : WParams)
  | watchRelearn (mask : BitVec 16)
  | watchRollback (reseed : Bool)
  | watchExport (addr : W64)
  | fbPort (bits : BitVec 128)
  | fbFilter (bits : BitVec 128)
  | fbReports (bits : BitVec 256)
  | fbSend (port seq : Nat)
  | hoConfig (bits : BitVec 256)
  | governor (g : GovParams)
  | linkDown (mask : BitVec 4) (routed : Bool)
  | linkUp (mask : BitVec 4)
  | linkMaster
  | recWrite (r : RecId)
  | nvWrite (seq : Nat)
  | nvRead (hostAddr len addr : Nat)
  | nvMode (toImage autostore : Bool)
  | imgStore
  | refill (seq first last : Nat)
  | serve (req : Nat)
  | fence (res : Nat) (set persist applied : Bool)
  | fencePolicy (p : FencePol)
  | handover
  /-- the command goes on when the DRAM polder is up | R336 -/
  | dram
  /-- KV_APPEND behind the flush that it repeats | R244 -/
  | append (seq layer n : Nat)
  deriving DecidableEq, Repr

/-- A BAR4 access that waits for the DRAM polder, with its device address (R336). -/
inductive BarAcc where
  | read (addr len : Nat)
  | write (addr : Nat) (data : List Byte) (enable : List Bool) (poisoned : Bool)
  deriving DecidableEq, Repr

/-- A command in flight that waits (R440, R442). -/
structure Wait where
  cmd : Cmd
  opcode : Nat
  act : PendAct
  deriving DecidableEq, Repr

/-- MSI-X state (R429, Table 20-1). -/
structure Msix where
  /-- MSI-X enabled | R429 (as PCIe provides) | PRESUMED off (log 6) -/
  enabled : Bool := false
  /-- vectors that the host has unmasked, 64 bits | R429 | PRESUMED none (log 6) -/
  unmasked : BitVec 64 := 0
  /-- pending bit array, 64 bits | R429, Table 20-1 | 0 -/
  pba : BitVec 64 := 0
  /-- bytes of the MSI-X table, 1,024 bytes from BAR0 0x8000 | Table 20-1 | PRESUMED 0 (log 6) -/
  table : Mem := []
  /-- messages sent, newest first | R429 | none -/
  sent : List Nat := []
  deriving DecidableEq, Repr

/-- The mailbox and the BAR0 registers that it owns. -/
structure Mbx where
  /-- MBX_OWN, 64 bits | R433 | 0 -/
  own : BitVec 64 := 0
  /-- MBX_CQ as latched, 256 bits | Table 16-5 | `cq_every` 1, `cq_log2` 6, every other field 0 -/
  cq : BitVec 256 := BitVec.ofNat 256 (2 ^ 88 + 6)
  /-- staged words 1 to 3 of MBX_CQ | R524 | the latched words -/
  staged : Tab W64 := []
  /-- MBX_CQ_CONS, 32 bits | R435 | 0 -/
  cons : W32 := 0
  /-- completion producer count, 32 bits | R438 | 0 -/
  prod : W32 := 0
  /-- entries without `quiet` since the last message | Table 16-5 `cq_every` | 0 -/
  since : Nat := 0
  /-- protocol version in force | R443 | none -/
  hello : Option W16 := none
  /-- commands in flight that wait | R440 | none -/
  waits : List Wait := []
  /-- completions due and not yet posted, in the order of their events | R438, R449 | none -/
  due : List Completion := []
  /-- command ring in BAR2, 16 KiB | R430, Table 16-3 | PRESUMED 0 (log 6) -/
  slots : Mem := []
  /-- response buffers by slot, 64 KiB each | R437 | zero -/
  resp : Tab (List Byte) := []
  /-- response buffers whose bytes have no meaning: taken by a doorbell, and not filled since | R426, R437 | none -/
  respOpen : BitVec 64 := 0
  /-- poisoned TLPs reported through Advanced Error Reporting | R427 | 0 -/
  aer : Nat := 0
  /-- WIN_BASE, 64 bits of which [35:30] | R428 | 0 -/
  winBase : W64 := 0
  /-- latched registers: register offset and its bytes | R518 | none -/
  latch : Tab (List Byte) := []
  /-- ERR_SUM, 15 bits | R520 | 0 -/
  errSum : W32 := 0
  /-- INT_STATUS, 10 bits | R521 | 0 -/
  intStatus : W32 := 0
  /-- INT_ENABLE, 10 bits | R521 | 0 -/
  intEnable : W32 := 0
  msix : Msix := {}
  /-- what the last host read returned | R517, R428 | none -/
  readOut : List Byte := []
  /-- poisoned bit of the TLP that carries each 8-byte piece of that answer | R187, R328 | none -/
  readMarks : List Bool := []
  /-- BAR4 accesses that wait for the DRAM polder, oldest first | R336 | none -/
  barQ : List BarAcc := []
  deriving DecidableEq, Repr

/-- SMBus agent: its copies of compute-die values and what it last sent (R530). -/
structure Smb where
  /-- copy of DEV_STAGE, 32 bits | R530 | 0 -/
  stage : W32 := 0
  /-- copy of BAR0 0x0000 to 0x001F | R530 | DESIGN CHOICE none copied yet (log 7) -/
  ident : List Byte := []
  /-- copy of BAR0 0x0100 to 0x011F | R530 | DESIGN CHOICE none copied yet (log 7) -/
  status : List Byte := []
  /-- copy of TICK_STAT | R530 | DESIGN CHOICE none copied yet (log 7) -/
  tick : List Byte := []
  /-- copy of the PWR_STATUS data | R530 | DESIGN CHOICE none copied yet (log 7) -/
  power : List Byte := []
  /-- what the agent answered to the last transaction: the bytes, or none for a NACK | R529 | none -/
  out : Option (List Byte) := none
  deriving DecidableEq, Repr

/-! ## Move lists and the sequencer (chapter 08) -/

/-- A move record (Table 08-3). -/
structure Move where
  moveId : Nat := 0
  opnd : Nat := 0
  allow : Nat := 0
  phase : Nat := 0
  every : Nat := 0
  waitTgt : Nat := 0
  waitObj : Nat := 0
  waitEn : Bool := false
  sigN : Nat := 0
  sigObj : Nat := 0
  offset : Nat := 0
  target : Nat := 0
  opcode : Nat := 0
  cls : MoveClass := .tickCritical
  jclass : Nat := 0
  imm : W64 := 0
  deriving DecidableEq, Repr

/-- A group-table entry (R213). -/
structure GroupDef where
  gr : Nat := 1
  gc : Nat := 1
  members : List Nat := []
  deriving DecidableEq, Repr

/-- A job table entry (Table 08-10). -/
structure JobDef where
  start : Nat := 0
  isFrame : Bool := false
  jclass : Nat := 0
  deriving DecidableEq, Repr

/-- Scopes of sync objects (Table 08-11). -/
inductive Scope where
  | tick | step | frame | persistent
  deriving DecidableEq, Repr

/-- A sync table entry (Table 08-11). -/
structure SyncDef where
  scope : Scope := .tick
  obj : Nat := 0
  ring : Bool := false
  deriving DecidableEq, Repr

/-- A slot table entry (R201): its start and the bank owner words of fields 0 to 15, byte b of a word naming bank b's owner. -/
structure SlotDef where
  start : Nat := 0
  owners : List (BitVec 256) := []
  deriving DecidableEq, Repr

/-- A window (R204). -/
structure WinDef where
  start : Nat := 0
  len : Nat := 0
  job : Nat := 0
  deriving DecidableEq, Repr

/-- A schedule (Table 08-9 and R214). `jsteps` holds `first` and `count` of every job. -/
structure Sched where
  tier : Nat := 0
  placement : Nat := 0
  classes : BitVec 16 := 0
  throughput : Nat := 0
  mask : BitVec 276 := 0
  polders : BitVec 293 := 0
  slots : List SlotDef := []
  tick : List Move := []
  wins : List WinDef := []
  jsteps : List (Nat × Nat) := []
  steps : List Move := []
  deriving DecidableEq, Repr

/-- A verified move list (Tables 08-1 and 08-2) as the sequencer store holds it. -/
structure MList where
  movelistId : Nat := 0
  period : Nat := 2400
  frameLen : Nat := 1000
  spill : Nat := 240
  commitOff : Nat := 120
  dramPlan : Nat := 160
  ingestField : Nat := 0
  ingestAddr : Nat := 0
  recField : Nat := 0
  recAddr : Nat := 0
  fineField : Nat := 0
  fineAddr : Nat := 0
  nFeat : Nat := 0
  nCorr : Nat := 0
  secVer : Nat := 0
  groups : List GroupDef := []
  jobs : List JobDef := []
  syncs : List SyncDef := []
  scheds : List Sched := []
  opnds : List (BitVec 512) := []
  digest : BitVec 384 := 0
  deriving DecidableEq, Repr

/-- A sync object (R207): 16-bit saturating count and epoch. -/
structure Sync where
  count : Nat := 0
  epoch : Nat := 0
  /-- signals that it has taken in all, by which the pool manager sees one more on `tkt_obj` | R249 | 0 -/
  hits : Nat := 0
  deriving DecidableEq, Repr

/-- A job's run state (R205, R206, R271). -/
structure Job where
  running : Bool := false
  /-- the step the job stands at, counted from 0 | R206 | 0 -/
  cursor : Nat := 0
  /-- the current step has been issued and is outstanding | R206 | no -/
  busy : Bool := false
  /-- run number, 16 bits | R271 | 0 -/
  run : BitVec 16 := 0
  /-- `overrun` count | R205 | 0 -/
  overrun : Nat := 0
  deriving DecidableEq, Repr

/-- A move that has been issued and has not completed. -/
structure Flying where
  key : Nat
  /-- the record of the schedule that it was issued from -/
  ref : MoveRef
  mv : Move
  /-- the engine that runs it (its target) -/
  engine : Nat
  /-- planned start, ac from T0 -/
  planned : Nat
  /-- whether its start has come, and where -/
  started : Option Nat
  /-- epoch of its sync object at issue (R208) -/
  epoch : Nat
  /-- stream count taken (R148) -/
  streamC : BitVec 48
  /-- the job whose step it belongs to -/
  job : Option Nat
  /-- a `keep` move that found its tile registers invalid at its start, and loads (R157) -/
  cold : Bool := false
  /-- an in-place vector move that resumes at what its cancelled run left (R172) -/
  resumed : Bool := false
  /-- a set move that has ended with elements remaining (R273) -/
  unfinished : Bool := false
  deriving DecidableEq, Repr

/-- An array move that started in this tick (R154): its key, its record, whether it loaded its tiles, and its start. -/
structure ArrRun where
  key : Nat
  mv : Move
  cold : Bool
  start : Nat
  deriving DecidableEq, Repr

/-- A bank that a move which started late uses (R23): the bank as 32 × field + bank, the ports that reach it, the move's class, its planned
start and its lateness. -/
structure LateUse where
  bank : Nat
  ports : List Nat
  cls : MoveClass
  planned : Nat
  slip : Nat
  deriving DecidableEq, Repr

/-- Where an in-place vector move stands (R172): its first vector not yet written, the amax and the
poison bits of what it has written, and what `nonfinite` has counted (R146, R171). -/
structure VecResume where
  next : Nat := 0
  amax : W32 := 0
  poison : BitVec 8 := 0
  left : Nat := 0
  deriving DecidableEq, Repr

/-- A schedule change that is decided and waits (R218). `dueTick` is the first tick at whose frame boundary it may take effect, none while
polders of its set are still to come up. -/
structure Change where
  swap : Bool
  sched : Option Nat
  polders : BitVec 293
  dueTick : Option W64
  deriving DecidableEq, Repr

/-- The tick sequencer. -/
structure Seq where
  /-- active move list | R194 | none -/
  active : Option MList := none
  /-- standby image that verified | R221 | none -/
  standby : Option MList := none
  /-- index of the schedule in force, none when none covers F | R215 | none -/
  sched : Option Nat := none
  /-- fence set F, 276 bits | R214 | 0 (applied from record 0x0042 in stage SYNC) -/
  fence : BitVec 276 := 0
  /-- fence set as it will stand at the next frame boundary | R512 | 0 -/
  fenceNext : BitVec 276 := 0
  /-- requested tier | R217, R487 | 0 full -/
  tierReq : Nat := 0
  /-- requested tier in force: the `tier` of the record | R215, R217 | 0 full -/
  tierRun : Nat := 0
  /-- a decided change that waits | R218 | none -/
  change : Option Change := none
  /-- stopped job classes, 16 bits | R215 | 0 -/
  stopped : BitVec 16 := 0
  /-- jobs by number | R205 | not running, run number 0, overrun 0 -/
  jobs : Tab Job := []
  /-- sync objects by number, 1,024 | R207 | count 0 -/
  sync : Tab Sync := []
  /-- issued moves | R202 | none -/
  flying : List Flying := []
  /-- next key of an issued move (the model's own) | DESIGN CHOICE 0 (log 8) -/
  nextKey : Nat := 0
  /-- records issued in this tick, or of the outstanding steps | R202, R206 | none -/
  issued : List MoveRef := []
  /-- stream counts that cancelled frame and gap moves keep, by step-area index, 48 bits | R148 | none -/
  keptC : Tab (BitVec 48) := []
  /-- slip of each engine in this tick, ac | R23 | 0 -/
  slip : Tab Nat := []
  /-- windows whose occurrence in this tick has issued a step | R206 | none -/
  ranWins : List Nat := []
  /-- array moves started in this tick, in the order of their starts | R154, R155 | none -/
  arrRuns : List ArrRun := []
  /-- banks used by moves of this tick that started late | R23 | none -/
  late : List LateUse := []
  /-- engines held by a BARRIER: object and target | R210 | none -/
  barriers : Tab (Nat × Nat) := []
  /-- current slot | R201 | 0 -/
  slot : Nat := 0
  /-- owner code of bank b of field f, index 32f + b | R177, R178 | 0x1F (no owner) -/
  owner : Tab Nat := []
  /-- in-place vector moves that were cancelled, by `move_id`: where they resume | R172 | none -/
  resume : Tab VecResume := []
  /-- dice seed, 64 bits | R148, R150 | free value drawn at a compute-die start; before the first, DESIGN CHOICE 0 (log 9) -/
  seed : W64 := 0
  /-- stream counters, 1,024 × 48 bits | R148 | 0 -/
  streams : Tab (BitVec 48) := []
  /-- plan_id of the running schedule, from its LINK_RSV moves | R387 | none -/
  planId : Option W32 := none
  deriving DecidableEq, Repr

/-! ## Field memory, arrays, engines, DMA (chapters 06, 07, 10) -/

/-- State of one bank (Table 07-4). `turning` and `waking` carry the ac at which the bank is ready. -/
inductive BankSt where
  | off
  | on
  | retaining
  | turning (ready : Option Nat)
  | waking (ready : Nat)
  deriving DecidableEq, Repr

/-- An accumulator half (Table 06-1): type, validity, values as patterns (row-major, 16 per row), and the poison source
bits of its values (same index). -/
structure Half where
  ty : AccTy := .fp32
  valid : Bool := false
  vals : Tab W32 := []
  poison : Tab (BitVec 8) := []
  deriving DecidableEq, Repr

/-- One array (Table 06-1). A tile register holds the element bytes of its tile and then its scale bytes. -/
structure Arr where
  /-- TR0 and TR1 valid | R157 | invalid -/
  trValid : Bool := false
  /-- tiles in TR0 and TR1, and the poison bits met on loading | Table 06-1 | empty -/
  tr : List (List Byte) := []
  trPoison : BitVec 8 := 0
  h0 : Half := {}
  h1 : Half := {}
  deriving DecidableEq, Repr

/-- One piece of a DMA transfer that waits in an engine's buffer (R180): `len` bytes, at most 64, from byte `off` of the
transfer on. For host sources the data come with a PCIe completion (R427); for GATHER_D rows and flits they are already here. -/
structure Chunk where
  off : Nat
  len : Nat
  data : Option (List Byte)
  /-- poison source bits by 8-byte group, where the data are here; of a firmware transfer, by byte -/
  poison : List (BitVec 8)
  /-- addresses of a piece of a firmware transfer | R55 -/
  srcAt : Nat := 0
  dstAt : Nat := 0
  deriving DecidableEq, Repr

/-- A DMA transfer in flight (R188): rows of `rowLen` bytes, row r from `src` + r × `srcStride` to `dst` + r × `dstStride`. -/
structure Xfer where
  id : Nat
  field : Nat
  mid : Nat
  tc : Bool
  srcKind : DmaKind
  src : Nat
  srcStride : Nat
  dstKind : DmaKind
  dst : Nat
  dstStride : Nat
  rowLen : Nat
  chunks : List Chunk
  sigObj : Nat
  sigN : Nat
  epoch : Nat
  /-- registered with the sluices of its destination before a gate began to close | R477 -/
  registered : Bool
  /-- transaction of a GATHER_D | R277 -/
  gather : Bool
  /-- link transfer: its head, the link it leaves by or came by, its source chip and tag | R384, R391 -/
  head : Option HeadFlit
  link : Nat
  chip : Nat
  tag : Nat
  /-- every flit of a received transfer is here (other transfers: every chunk is) | R391 -/
  whole : Bool
  /-- class of its flits | R385, R389 -/
  cls : FlitClass
  /-- job run that a GATHER_D transaction belongs to | R271, R278 -/
  run : BitVec 16 := 0
  /-- firmware transfer, whose pieces name their own addresses and write single bytes | R55 -/
  fw : Bool := false
  /-- class of its move | R333 -/
  mcls : MoveClass := .service
  /-- job to trigger behind a firmware transfer | R249 | none -/
  job : Option Nat := none
  deriving DecidableEq, Repr

/-- A descriptor that waits in its engine queue (R188): the engine's field, its block and context, the epoch of its signal and the tick of its
issue, and whether it is a row of a GATHER_D of a job run (R277). -/
structure DescWait where
  field : Nat
  o : DmaOpnd
  x : MoveCtx
  epoch : Nat
  tick : W64
  gather : Bool
  run : BitVec 16
  /-- pieces of a firmware transfer; none of a move's | R55 -/
  fw : List Chunk := []
  /-- job to trigger behind a firmware transfer | R249 -/
  job : Option Nat := none
  deriving DecidableEq, Repr

/-- A front-end write that waits for its bank: its bytes and the poison bits of its groups (R181). -/
structure PortWrite where
  bytes : List Byte
  poison : BitVec 8 := 0
  deriving DecidableEq, Repr

/-- Ways in which a descriptor completes without a signal: it breaks R176, no route is up (R389), or a sluice dropped it (R479). -/
inductive DescErr where
  | badParam | unreachable | dropped | linkLost
  deriving DecidableEq, Repr

/-- What a set move leaves for its scheduled end (R269, R272): the token fields of Table 10-5. -/
structure SetEnd where
  o : SetOpnd
  mid : Nat
  state : Nat
  err : Nat
  outN : Nat
  posA : Nat
  posB : Nat
  aux : Nat
  txUsed : Nat
  acUsed : Nat
  moves : Nat
  run : BitVec 16
  epoch : Nat
  /-- first and last offset in the tick at which it can end; none for a move that no list issued | R269 -/
  ends : Option (Nat × Nat) := none
  deriving DecidableEq, Repr

/-- Field memory and its engines. -/
structure Fm where
  /-- field memory by chip-wide address field × 2^23 + address | R174, R191 | zero (banks clear as they turn on) -/
  mem : Mem := []
  /-- poison marks: 8-byte group number and its source bits | R186, R187 | none -/
  poison : Tab (BitVec 8) := []
  /-- groups with wrong bits in the cells: group number and 1 or 2 | R184 | none (a hardware fault puts one there) -/
  flips : Tab Nat := []
  /-- groups that fm_ce_addr has named and the firmware has still to rewrite, by field | R185 | none -/
  rewrite : Tab (List Nat) := []
  /-- banks by 32 × field + bank | R191, Table 07-4 | off -/
  banks : Tab BankSt := []
  /-- arrays by number | Table 06-1 | tile registers and halves invalid -/
  arrs : Tab Arr := []
  /-- DMA transfers in flight, oldest first | R188 | none -/
  xfers : List Xfer := []
  nextXfer : Nat := 0
  /-- set moves that have run and wait for E, by field | R269 | none -/
  setEnds : Tab SetEnd := []
  /-- GATHER_D operations that reached state 2 and wait for their transactions, by field | R278 | none -/
  gatherEnds : Tab (List SetEnd) := []
  /-- descriptors that wait in the engine queues, oldest first | R188, R189 | none -/
  descQueue : List DescWait := []
  /-- how the last descriptor of a move completed when it gave no signal, by 65,536 × field + `move_id` | R176, R389, R479 | none -/
  descErrs : Tab DescErr := []
  /-- 8-byte groups of host memory whose last DMA write travelled in a TLP with its poisoned bit set | R187 | none -/
  tlpPoison : Tab Bool := []
  /-- front-end writes that wait in the buffer of a DMA engine until port 1 owns their bank, by chip-wide address | R180, R181 | none -/
  portWait : Tab PortWrite := []
  deriving DecidableEq, Repr

/-! ## DRAM (chapter 12) -/

/-- External memory. -/
structure Dram where
  /-- device DRAM contents | R323 | zero after clearing -/
  mem : Mem := []
  /-- 64-byte lines stored as poison | R328 | none -/
  poison : Tab Bool := []
  /-- lines with wrong bytes: line and how many | R326 | none (a hardware fault puts one there) -/
  wrong : Tab Nat := []
  /-- `DRAM_CFG.train_fail` | Table 12-2 | 0 -/
  trainFail : Bool := false
  /-- `DRAM_CFG.ready` | Table 12-2 | 0 -/
  ready : Bool := false
  /-- `DRAM_CFG.hot` | R334 | 0 -/
  hot : Bool := false
  /-- `DRAM_CFG.fail_ch`, 4 bits | R322 | 0 -/
  failCh : Nat := 0
  /-- `DRAM_CFG.ch_gib`, 3 bits | R322 | 0 -/
  chGib : Nat := 0
  /-- trained and waiting for the clear | R323 | no -/
  trained : Bool := false
  /-- XTS data key, 256 bits | R330, R463 | DESIGN CHOICE 0 before the first start (log 9) -/
  dataKey : BitVec 256 := 0
  /-- XTS tweak key, 256 bits | R463 | DESIGN CHOICE 0 before the first start (log 9) -/
  tweakKey : BitVec 256 := 0
  /-- refreshes postponed per (channel × 64 + bank) | R334 | 0 -/
  postponed : Tab Nat := []
  /-- next line of the patrol scrub | R327 | 0 -/
  scrub : Nat := 0
  deriving DecidableEq, Repr

/-! ## Non-volatile store (chapter 13) -/

/-- A native write in the page buffer or on a plane (R340, R341). -/
structure NvProg where
  seq : Nat
  page : Nat
  bytes : List (Nat × Byte)
  deriving DecidableEq, Repr

/-- A record write that runs (R348): its record, the target copy with its sequence number and body, and the programs of its pages that have
not ended. -/
structure RecRun where
  k : Nat
  body : List Byte
  copyB : Bool
  seq : W32
  left : List Nat
  deriving DecidableEq, Repr

/-- A counter write asked for (R359): the counter, the value of a raise (none for an increment), the number that its command waits under, and
whether the command ends with it. -/
structure CtrOp where
  n : Nat
  raise : Option Nat := none
  wait : Option Nat := none
  last : Bool := true
  deriving DecidableEq, Repr

/-- The counter write that runs (R359): its target cell with value and `gen`, the attempts made, the programs that have not ended, and whether
they are the first part of a rebuild. -/
structure CtrRun where
  op : CtrOp
  cell : Nat
  value : Nat
  gen : Nat
  tries : Nat := 0
  progs : List Nat := []
  rebuild : Bool := false
  deriving DecidableEq, Repr

/-- The enrolment that runs (R353): bytes 0 to 247 of the page, the program that it waits for, whether that is the lock's, the attempts made,
and the number that its command waits under. -/
structure Enrol where
  bytes : List Byte
  prog : Nat
  lock : Bool := false
  tries : Nat := 0
  wait : Nat
  deriving DecidableEq, Repr

/-- What a two-copy record holds that is chosen (R347): copy (false A, true B), sequence number, tie. -/
structure RecPick where
  present : Bool := false
  copyB : Bool := false
  seq : W32 := 0
  tie : Bool := false
  deriving DecidableEq, Repr

/-- Event-log entry (Table 19-11), without its CRC. -/
structure LogEntry where
  seq : W32
  tick : W64
  code : Nat
  src : Nat
  arg : W64
  arg2 : W32
  deriving DecidableEq, Repr

/-- The non-volatile store. -/
structure Nv where
  /-- store contents, 524,288 bytes | R338, R542, R356 | 0xFF; bytes 0 to 243 of the owner page 0 (Table 13-5); cell 0 of every counter with value 0 and gen 0 (factory, R356) -/
  mem : Mem := []
  /-- groups with wrong bits: 8-byte group and 1 or 2 | R339 | none (a hardware fault puts one there) -/
  flips : Tab Nat := []
  /-- planes that program: what each programs | R341 (`NV_BUSY`) | idle -/
  planes : Tab NvProg := []
  /-- writes waiting in the page buffer, oldest first | R341 | none -/
  queue : List NvProg := []
  nextSeq : Nat := 0
  /-- chosen copies by record index of Table 13-3 | R347 | absent -/
  picks : Tab RecPick := []
  /-- record writes that wait or run, oldest first: record index and body | R350 | none -/
  recQ : List (Nat × List Byte) := []
  /-- record writes that run, at most one of a record | R348, R350 | none -/
  recRun : List RecRun := []
  /-- counter writes that wait, oldest first | R359 | none -/
  ctrQ : List CtrOp := []
  /-- the counter write that runs | R359 | none -/
  ctrRun : Option CtrRun := none
  /-- the enrolment that runs | R353 | none -/
  enrol : Option Enrol := none
  /-- mode and `autostore` that an NV_MODE sets when the image store that it waits for has ended | R367 | none -/
  modeNext : Option (Bool × Bool) := none
  /-- protect level, 2 bits | R355, R349 | 0 -/
  level : Nat := 0
  /-- image mode | R349, R362 | native -/
  image : Bool := false
  /-- `autostore` | R349 | 1 -/
  autostore : Bool := true
  /-- volatile image, 64 KiB (unlisted bytes as the backing reads after a recall; 0xFF) | R362 | erased -/
  img : Mem := []
  /-- `img_dirty` | R363 | 0 -/
  dirty : Bool := false
  /-- `img_torn` | R366 | 0 -/
  torn : Bool := false
  /-- an image store runs: the image of its start | R364 | none -/
  storing : Option Mem := none
  /-- the running store is the power-fail store | R364 | no -/
  failStore : Bool := false
  /-- writes to the image that wait for the store | R365 | none -/
  imgWaits : List (Nat × List (Nat × Byte)) := []
  /-- page programs not yet counted in counter 5, 0 to 4,095 | Table 13-7 | 0 -/
  wear : Nat := 0
  /-- persistent log entries pending | R361 | none -/
  logPend : List LogEntry := []
  /-- next log page, 288 to 767 | R361 | 288 -/
  logPage : Nat := 288
  /-- power failure detected | R368 | no -/
  powerFail : Bool := false
  deriving DecidableEq, Repr

/-! ## Attention and the KV pool (chapter 09) -/

/-- The pool (R238). -/
structure Pool where
  base : Nat
  sizeMib : Nat
  compBudget : Nat
  drops : Nat := 0
  deriving DecidableEq, Repr

/-- An open sequence (Table 09-8); counts are true counts. -/
structure KvSeq where
  srcAddr : Nat := 0
  srcRec : Nat := 0
  stgAddr : Nat := 0
  stgField : Nat := 0
  refillJc : Nat := 0
  pinned : Bool := false
  maxPos : Nat := 0
  compPages : Nat := 0
  kvFmt : Fmt := .bf16
  qFmt : Fmt := .bf16
  layers : Nat := 1
  kvHeads : Nat := 1
  group : Nat := 1
  dHead : Nat := 16
  slots : List Nat := []
  deriving DecidableEq, Repr

/-- A (sequence, layer) with its length and staged count (R243). -/
structure KvLayer where
  length : Nat := 0
  staged : Nat := 0
  flushing : Bool := false
  deriving DecidableEq, Repr

/-- A page header (Table 09-7). `state` 0 free, 1 resident, 2 hole. -/
structure Page where
  ageTick : W64 := 0
  granule : Nat := 0
  len256 : Nat := 0
  seq : Nat := 0
  layer : Nat := 0
  idx : Nat := 0
  fmt : Fmt := .int4
  state : Nat := 0
  origin : Nat := 0
  deriving DecidableEq, Repr

/-- An attention request (Table 09-2), as submitted, with its number. -/
structure Req where
  num : Nat
  bits : BitVec 1024
  oneShot : Bool
  cancelled : Bool := false
  /-- its append has been made (R253: a restarted serve runs with n_append 0) -/
  appended : Bool := false
  /-- stream count of its serve, which a restart keeps (R236) -/
  streamC : Option (BitVec 48) := none
  deriving DecidableEq, Repr

/-- A serve in progress (R226, R227): the request, the status it will write, its output bytes. -/
structure Serve where
  req : Req
  status : Status := .ok
  length : Nat := 0
  excluded : Nat := 0
  empty : Bool := false
  overrun : Bool := false
  poisoned : Bool := false
  streamC : BitVec 48 := 0
  locks : List Nat := []
  /-- last position and included blocks, as they stood at its start | R228, R248 | -/
  posTo : Nat := 0
  blocks : List Nat := []
  /-- device DRAM ranges of its operands outside the pool | R337 | -/
  dram : List (Nat × Nat) := []
  /-- the host wrote into one of them: its output is any | R337 | no -/
  spoiled : Bool := false
  deriving DecidableEq, Repr

/-- An attention job's queue (R225). -/
structure AttnJob where
  queue : List Req := []
  /-- requests this run has still to serve, by number | R226 | none -/
  todo : List Nat := []
  serving : Option Serve := none
  /-- the run has passed a start boundary while its next serve waits on `wait_obj` | R226 | no -/
  waitOver : Bool := false
  /-- a run has ended and its compaction is still to be done | R251 | no -/
  compact : Bool := false
  deriving DecidableEq, Repr

/-- A refill in progress (R249). -/
structure Refill where
  seq : Nat
  page : Nat
  last : Nat
  layerMask : BitVec 64
  /-- count of `tkt_obj` when the ticket was written -/
  seen : Nat
  deriving DecidableEq, Repr

/-- KV pool and attention. -/
structure Kv where
  /-- pool | R238 | none set up -/
  pool : Option Pool := none
  /-- sequences by handle | R241 | closed -/
  seqs : Tab KvSeq := []
  /-- layers by slot | R243 | length 0, staged 0 -/
  layers : Tab KvLayer := []
  /-- page headers by entry 1,024 × slot + page index | R240 | free -/
  pages : Tab Page := []
  /-- attention jobs by job class | R225 | empty queue -/
  jobs : Tab AttnJob := []
  nextReq : Nat := 0
  refill : Option Refill := none
  deriving DecidableEq, Repr

/-! ## The watch (chapter 11) -/

/-- A feature table entry (Table 11-4). -/
structure FeatDef where
  channel : Nat := 0
  kind : Nat := 0
  log : Bool := false
  groups : BitVec 4 := 0
  weight : Nat := 0
  xFloor : F16 := 0
  sMin : F16 := 0
  deriving DecidableEq, Repr

/-- A tensor table entry (R287). -/
structure TensDef where
  dataOff : Nat := 0
  count : Nat := 0
  fmt : Fmt := .e4m3
  scaleExp : Int := 0
  trained : Bool := false
  corr : Bool := false
  /-- initial values, as narrow codes -/
  init : List Byte := []
  deriving DecidableEq, Repr

/-- A set-up watch image (R285 to R287). `map` holds field, address and bytes of roles 0 to 6. -/
structure WImage where
  nFeat : Nat := 0
  nReg : Nat := 1
  ctx : Nat := 1
  nCtl : Nat := 0
  jcStat : Nat := 0
  jcTrain : Nat := 0
  jcEval : Nat := 0
  mlIds : List Nat := []
  ctlAddr : Nat := 0
  secVer : Nat := 0
  feats : List FeatDef := []
  map : List (Nat × Nat × Nat) := []
  tens : List TensDef := []
  digest : BitVec 384 := 0
  logBase : Nat := 0
  logFrames : Nat := 16
  /-- bytes of the candidate snapshot behind the log (R310; log 43) -/
  snapLen : Nat := 0
  deriving DecidableEq, Repr

/-- A regime's learned state (R290, R295). -/
structure Regime where
  /-- 0 BLANK, 1 WARMING, 2 LEARNING, 3 WATCHING | Table 11-3 | BLANK -/
  st : Nat := 0
  /-- eligible ticks counted in the state | R290 | 0 -/
  elig : Nat := 0
  /-- frame in which the condition of the next transition was met | R290 | none -/
  met : Option W32 := none
  /-- a promotion has completed its fade since LEARNING began | Table 11-3 | no -/
  promoted : Bool := false
  /-- Welford mean and M2 per feature | R295 | 0 -/
  mean : Tab F32 := []
  m2 : Tab F32 := []
  /-- normalisation μ and ρ per feature | R295 | 0 -/
  mu : Tab F32 := []
  rho : Tab F32 := []
  deriving DecidableEq, Repr

/-- A model area (R286): its narrow bytes' residual variances, index 256 × regime + feature, and its model_id. -/
structure Area where
  id : Nat := 0
  valid : Bool := false
  rv : Tab F32 := []
  deriving DecidableEq, Repr

/-- A running model fade (R297, R312, R313). -/
structure MFade where
  j : Nat
  len : Nat
  rollback : Bool
  reseed : Bool
  /-- frame in which the fade began, that of j = 1 -/
  start : W32 := 0
  deriving DecidableEq, Repr

/-- A watch-log row's facts that the statistics need (R305): tick, flags, regime, eligibility, sample, features, residuals. -/
structure Row where
  tick : W64
  frame : W32
  regime : Option Nat
  /-- state of the regime in the tick (Table 11-3) -/
  st : Nat
  elig : Bool
  sample : Bool
  /-- areas whose residual variances a sample updates (R304) -/
  onX : Bool
  onY : Bool
  feats : List F32
  resX : List F32
  resY : List F32
  deriving DecidableEq, Repr

/-- Learned state that an export carries (R318). -/
structure Learned where
  regimes : Tab Regime := []
  areaX : Area := {}
  areaY : Area := {}
  liveY : Bool := false
  modelId : Nat := 0
  maxId : Nat := 0
  t : Nat := 0
  levels : List Nat := []
  hist : List (List F32) := []
  deriving DecidableEq, Repr

/-- A signed envelope's contents before and after signing (R466). -/
structure Envelope where
  cond : Bool
  /-- `cfg_digest`, as in force in the tick of the body (R468) -/
  cfg : BitVec 384
  body : List Byte
  deriving DecidableEq, Repr

/-- An event that asks for a condition report, with the report's body as it stands at the event: its cause, the state after it and what was
before it (R319, Table 11-10). -/
structure CondEvent where
  cause : CondCause
  body : List Byte
  deriving DecidableEq, Repr

/-- The watch. -/
structure Watch where
  /-- 0 stopped, 1 running, 2 frozen | R317 `run` | stopped -/
  run : Nat := 0
  /-- set-up image | R315 | none -/
  image : Option WImage := none
  /-- imported export, header and state | R318, R470 | none -/
  imported : Option (List Byte) := none
  /-- parameters | R316, Table 11-8 | Table 11-8's Reset column -/
  params : WParams := {}
  /-- learned state: regimes, model areas, live area, model ids, t, levels, level history | R289 to R318 | every regime BLANK, ids 0, levels 0 -/
  learned : Learned := {}
  /-- a snapshot's evaluation passed and waits for the copy | R311, R312 | no -/
  promote : Bool := false
  /-- the copy's last signal has come; the fade waits for the boundary | R312 | no -/
  copied : Bool := false
  /-- running fade | R297 | none -/
  fade : Option MFade := none
  /-- ticks still to report NaN | R298 | 0 -/
  ctxLeft : Nat := 0
  /-- ticks whose context still holds an imputed value | R295, R302 E5 | 0 -/
  impLeft : Nat := 0
  /-- control block last accepted: stamp, regime, control values | R288, R289 | none -/
  ctlStamp : Option W64 := none
  ctlRegime : Nat := 0xFF
  ctlVals : List F32 := []
  /-- ticks since the stamp in force was first accepted | R289 | 0 -/
  ctlAge : Nat := 0
  /-- the block of this tick was accepted | R289 | no -/
  ctlOk : Bool := false
  /-- `ctl_torn`, 32 bits | R289 | 0 -/
  ctlTorn : W32 := 0
  /-- `log_lost`, 32 bits | R305 | 0 -/
  logLost : W32 := 0
  /-- `skip_elem`, 32 bits | R309 | 0 -/
  skipElem : W32 := 0
  /-- frame sums and counts of the aggregate and groups 0 to 3 | R299 | 0 -/
  sums : List F32 := [0, 0, 0, 0, 0]
  counts : List Nat := [0, 0, 0, 0, 0]
  /-- F of the last closed frame (NaN when void) | R299 | DESIGN CHOICE quiet NaN before a frame closes (log 10) -/
  fLast : List F32 := [0x7FC00000, 0x7FC00000, 0x7FC00000, 0x7FC00000, 0x7FC00000]
  /-- severity byte held in the records | R301 | 0 -/
  severity : BitVec 8 := 0
  /-- levels that held in the frame that has closed, until the boundary settles the new ones | R300, R314 | none -/
  closing : Option (List Nat) := none
  /-- severity byte before the last frame close | Table 11-10 | 0 -/
  sevBefore : BitVec 8 := 0
  /-- frames closed since a level was above 0, none if never | R303 | none -/
  sinceLevel : Option Nat := none
  /-- per-feature sums of p_i over the frame and counts | R320 | 0 -/
  pSum : Tab F32 := []
  pCnt : Tab Nat := []
  /-- the same of the last closed frame | R320 | none -/
  pSumLast : Tab F32 := []
  pCntLast : Tab Nat := []
  /-- ticks of the frame with FALLBACK, with LATE, eligible, scored | Table 11-9 | 0 -/
  nFallback : Nat := 0
  nLate : Nat := 0
  nElig : Nat := 0
  /-- rows of the log not yet read by the statistics job, oldest first | R305 | none -/
  rows : List Row := []
  /-- rows written since the log was set up | R305 | 0 -/
  rowCount : Nat := 0
  /-- unused training samples in the log, by row number, oldest first | R306 | none -/
  samples : List Nat := []
  /-- row number and regime of each sample of a held-back frame in the log, oldest first | R306, R310 | none -/
  heldRows : List (Nat × Nat) := []
  /-- context ring: the E4M3 codes of the normalised features of the last `ctx` ticks, newest first | R295, R296 | empty -/
  ring : List (List Byte) := []
  /-- job and run of the training job that last reached VADAM | R307 | none -/
  stepRun : Option (Nat × Nat) := none
  /-- row numbers of the samples of the running optimiser step, and whether an evaluation runs | R306, R307, R310 | none, no -/
  stepUse : Option (List Nat) := none
  evalOn : Bool := false
  /-- step count of the last evaluation triggered | R310 | 0 -/
  evalT : Nat := 0
  /-- scales σ_T as exponents, and the last 16 amax values: index i for trained tensor i's narrow copy, 64 + i for its gradient, 128 + i for an
  activation's
  | R309 | image's scale_exp; DESIGN CHOICE 0 for a gradient (log 43) -/
  sigma : Tab Int := []
  amax : Tab (List F32) := []
  /-- last evaluation: L_c, L_l, samples | R317 | 0 -/
  lCand : F32 := 0
  lLive : F32 := 0
  evalN : Nat := 0
  /-- regimes with at least 1,000 samples in the last evaluation, and the snapshot's mean e_i² over them | R311, R312 | 0, none -/
  evalBig : BitVec 16 := 0
  evalVars : Tab F32 := []
  /-- events whose condition report is still to be posted, oldest first, each with its report's body | R319 | none -/
  conds : List CondEvent := []
  /-- envelopes waiting for the trust block, condition reports before summaries | R469 | none -/
  envQ : List Envelope := []
  /-- envelopes posted since the start, 64 bits | R466 `rseq` | 0 -/
  rseq : W64 := 0
  deriving DecidableEq, Repr

/-! ## Links (chapter 14) -/

/-- Link states (Table 14-4). -/
inductive LinkPhase where
  | disabled | training | up | down | adminDown | miswired | incompatible
  deriving DecidableEq, Repr

/-- Chip identity and links, record 0x0043 (Table 14-2). -/
structure Ident where
  chipId : Nat := 0
  topo : Nat := 0
  dimX : Nat := 0
  dimY : Nat := 0
  linkEn : BitVec 4 := 0
  tm : Bool := false
  retrainMs : Nat := 100
  deriving DecidableEq, Repr

/-- A reservation of slots (R385): first slot, count, `src`. -/
structure Rsv where
  first : Nat
  count : Nat
  src : Nat
  deriving DecidableEq, Repr

/-- A queued flit (R386): forwarded or own. -/
structure QFlit where
  fwd : Bool
  flit : Flit
  /-- link that brought a forwarded flit, and the class it travelled in there: where its credit goes back to (R388) -/
  inLink : Nat := 4
  inCls : FlitClass := .scheduled
  deriving DecidableEq, Repr

/-- One peer link. -/
structure Link where
  /-- state | Table 14-4 | DISABLED -/
  phase : LinkPhase := .disabled
  /-- far chip ID, protocol version, one-way latency in ps | R381, LINK_STATE | DESIGN CHOICE 0 before training (log 11) -/
  farChip : Nat := 0
  version : Nat := 0
  latencyPs : Nat := 0
  /-- frame boundaries met since the link came up | R395 | 0 -/
  upFrames : Nat := 0
  /-- flits queued to send, oldest first | R386 | none -/
  txq : List QFlit := []
  /-- replay buffer of unacknowledged flits, oldest first | R393 | none -/
  replay : List QFlit := []
  /-- flits of the replay buffer still to be sent again | R393 | 0 -/
  replayLeft : Nat := 0
  /-- times the same flit has been replayed in a row | R394 | 0 -/
  replayRun : Nat := 0
  /-- credits: scheduled, and shared by detour and best-effort | R388 | 0 until the link is UP -/
  credSched : Nat := 0
  credShared : Nat := 0
  /-- credits issued to the far end since the link came up, the 128 and 64 of the empty buffers included: scheduled, shared | R388 | 0 -/
  issuedSched : Nat := 0
  issuedShared : Nat := 0
  /-- flits sent since the link came up, and the flit that the last slot carried | R375, R393 | 0, none -/
  txCount : Nat := 0
  lineOut : Option LineFlit := none
  /-- acknowledgements that go out in control blocks: flits taken in order since the link came up, and whether the next one is missing |
  R375, R393 | 0, no -/
  rxCount : Nat := 0
  rxMissing : Bool := false
  /-- plan word of this tick's control block: none sent, or the own plan_id, none in it when the chip runs no move list | R375, R387 | none -/
  planOut : Option (Option W32) := none
  /-- reservations of the running schedule in this tick | R385 | none -/
  rsv : List Rsv := []
  /-- first flit slot of this tick that has not gone by | R375, R386 | 0 -/
  slotNext : Nat := 0
  /-- plan_id of the far end, none when it runs none | R387 | none -/
  farPlan : Option W32 := none
  deriving DecidableEq, Repr

/-- Peer links and the shared tick. -/
structure Links where
  /-- identity record in force, 64 bits | R377 | standalone, chip 0, links disabled (record absent) -/
  ident : Ident := {}
  /-- links 0 to 3 | Table 14-4 | DISABLED -/
  link : Tab Link := []
  /-- link map: links known not to be UP, as 4 × chip + link | R389, R395 | none -/
  downMap : List Nat := []
  /-- links from which sources keep away since a LINK_ADMIN down | R400 | none -/
  avoid : BitVec 4 := 0
  /-- other chips' links that a LINK_ADMIN down names, index as the map's: heard of, and in force since a frame boundary | R400 | none -/
  adminHeard : List Nat := []
  adminAvoid : List Nat := []
  /-- T0 of the boundary from which the links of the LINK_ADMIN down in force drain | R400 | 0 -/
  adminSince : Nat := 0
  /-- link-state words flooded in this tick on every UP link, newest first: index as the map's | R375, R395, R400 | none -/
  flooded : List (Nat × LinkWord) := []
  /-- route kept per (source chip × 16,384 + tag): out link, or 4 for this chip | R390 | none -/
  routes : Tab Nat := []
  /-- transfers whose later flits are dropped, same index | R392, R394 | none -/
  dropping : List Nat := []
  /-- next transfer tag, 14 bits | R383 | 0 -/
  nextTag : Nat := 0
  /-- own transfers not yet acknowledged by the first hop: tag, link, and 65,536 × engine's field + move_id | R392 | none -/
  sent : Tab (Nat × Nat) := []
  /-- link of the tick parent | R396 | none -/
  parent : Option Nat := none
  /-- best marker of this tick: link, hops | R396 | none -/
  best : Option (Nat × Nat) := none
  /-- tick parent of the tick before | R397 | none -/
  parentLast : Option Nat := none
  /-- marker sent on every UP link at this T0, beside the tick's own numbers and period: master, epoch, hop count | R396 | none -/
  markerOut : Option (Nat × Nat × Nat) := none
  /-- this chip is tick master | R399 | no -/
  master : Bool := false
  /-- master epoch in force, 16 bits | R396, R399 | 0 -/
  epoch : Nat := 0
  /-- highest epoch seen | R399 | 0 -/
  epochMax : Nat := 0
  /-- master chip followed | R399 | 0 -/
  masterChip : Nat := 0
  /-- becomes a follower at the next frame boundary | R399 | no -/
  yield_ : Bool := false
  /-- tick, frame and tick_in_frame of the marker followed, for joining | R398 | none -/
  heard : Option (W64 × W32 × Nat) := none
  deriving DecidableEq, Repr

/-! ## Field bus and health outputs (chapter 15) -/

/-- A queued field-bus frame (R408): kind, body, and the host command's number for kind 5. -/
structure FbQ where
  kind : Nat
  frame : W32
  body : List Byte
  host : Option Nat
  deriving DecidableEq, Repr

/-- One field-bus port. -/
structure Port where
  /-- FB_PORT parameter bits in force, 128 bits | R420, Table 15-8 | Table 15-8's Reset column -/
  cfg : BitVec 128 := BitVec.ofNat 128 (128 * 2 ^ 72 + 32 * 2 ^ 56 + 8 * 2 ^ 48)
  /-- PLCA status of Clause 148 | R404 | PRESUMED false (log 12) -/
  plca : Bool := false
  /-- transmit queue, at most 16 | R408 | empty -/
  txq : List FbQ := []
  /-- attempts of the frame being sent that have failed | R404 | 0 -/
  attempts : Nat := 0
  /-- frame count `seq`, 32 bits | R409 | 0 -/
  seq : W32 := 0
  /-- frames sent, with their bytes, newest first (the port's output) | R412 | none -/
  sent : List (List Byte) := []
  /-- gPTP time recovered in ns, rate ratio in 2^-32, announced interval | R411 | lost -/
  gptpOk : Bool := false
  gptpNs : Int := 0
  gptpPrev : Option (Int × Nat) := none
  gptpRate : Int := 4294967296
  gptpLog2 : Int := 0
  deriving DecidableEq, Repr

/-- Paths of Table 15-5 `ho_path`. -/
inductive HoPath where
  | learned | fallback | fault | held
  deriving DecidableEq, Repr

/-- One health output. -/
structure HoOut where
  /-- HO_CONFIG parameter bits in force, 256 bits | R420, Table 15-11 | Table 15-11's Reset column -/
  cfg : BitVec 256 := BitVec.ofNat 256 (1000 * 2 ^ 32 + 256 * 2 ^ 16)
  /-- the output has a configuration | Table 15-6 row 1 | no -/
  configured : Bool := false
  /-- path chosen | R415 | fault -/
  path : HoPath := .fault
  /-- set point chosen | R415 | 0 -/
  sp : Nat := 0
  /-- set point at the pin, none at the fault level | R418 | fault level -/
  pin : Option Nat := none
  /-- ticks since a detector hold began, and the set point the output had before it | R417 | none, 0 -/
  holdTicks : Option Nat := none
  holdSp : Nat := 0
  /-- the hold has expired | R417 | no -/
  expired : Bool := false
  deriving DecidableEq, Repr

/-- Field bus and health outputs. -/
structure Bus where
  ports : Tab Port := []
  /-- commit offset in force at the last compute-die tick edge, kept for the choices while the compute die is down | R415 | 120 (R23's reset) -/
  commitOff : Nat := 120
  /-- source filter entries 0 to 31, 128 bits each | R406, Table 15-9 | Reset column -/
  filters : Tab (BitVec 128) := []
  /-- token buckets by entry, in 1/frames (16 deep) with their last fill in ac | R406 | full -/
  buckets : Tab (Nat × Nat) := []
  /-- FB_REPORTS bits, 256 bits | R409, Table 15-10 | `ethertype` 0x88B5, `hs_every` 500, others 0 -/
  reports : BitVec 256 := BitVec.ofNat 256 (0x88B5 * 2 ^ 192 + 500 * 2 ^ 32)
  /-- a stranger was logged in this frame, by port | R406 | no -/
  stranger : Tab Bool := []
  nextHost : Nat := 0
  /-- outputs HO0 to HO3 | R414 to R419 | fault level, no configuration -/
  outs : Tab HoOut := []
  /-- VHO within tolerance | R538 | DESIGN CHOICE yes (log 3) -/
  vhoOk : Bool := true
  /-- VHOLD at or above 6.0 V | R534, R538 | yes -/
  vholdOk : Bool := true
  /-- record state of the tick whose choice comes next, once it crossed the die-to-die link | R415 | none -/
  rs : Option RecState := none
  /-- the choice of this tick has been made | R415 | no -/
  chosen : Bool := false
  /-- `cm_mask` of the last tick while its choice is still to come (C below 64 ac) | R415 | none -/
  owed : Option (BitVec 24) := none
  deriving DecidableEq, Repr

/-! ## Trust (chapter 17) -/

/-- SPDM responses (R455 to R457), as their contents. -/
inductive SpdmResp where
  | busy
  | version
  | capabilities
  | algorithms
  | digests (d : BitVec 384)
  | certificate (bytes : List Byte)
  | challengeAuth (nonce : BitVec 256) (sig : BitVec 768)
  | measurements (blocks : List (Nat × List Byte)) (nonce : BitVec 256) (sig : BitVec 768)
  | error
  deriving DecidableEq, Repr

/-- The trust block. CDI_0, K_exp and the private keys never leave it (R452). -/
structure Trust where
  /-- owner state: 0 unowned, 1 owned, 2 damaged, as read at the last compute-die start | R458 | unowned (page unlocked) -/
  owner : Nat := 0
  /-- enrolled and waiting for the next compute-die start | R459 | no -/
  enrolled : Bool := false
  /-- owner_id, 32 bits, and key_hash, 384 bits, in force | R458 | 0 while unowned -/
  ownerId : W32 := 0
  keyHash : BitVec 384 := 0
  /-- CDI_1, 384 bits | R451, R453 | DESIGN CHOICE 0 before the first start (log 9) -/
  cdi1 : BitVec 384 := 0
  /-- SHA-384 of the running firmware image (measurement 2) | R456 | DESIGN CHOICE 0 before the first start (log 9) -/
  fwDigest : BitVec 384 := 0
  /-- sec_ver of the running firmware | R462 | 0 -/
  fwSecVer : Nat := 0
  /-- debug unlocked in this start | R465 | locked -/
  debug : Bool := false
  /-- a token unlocks the next start | R465 | no -/
  debugNext : Bool := false
  /-- `cfg_digest` as in force in the first tick of this frame, 384 bits | R468 | DESIGN CHOICE 0 before the first frame boundary (log 9) -/
  cfgTick : BitVec 384 := 0
  /-- SPDM response last written, newest first | R457 | none -/
  spdm : List SpdmResp := []
  deriving DecidableEq, Repr

/-! ## Power (chapter 18) -/

/-- Polder states (Table 18-1); times in ac from the front-end power-on. -/
inductive PolderSt where
  | down
  | powering (at_ : Nat)
  | up
  | draining (since : Nat)
  deriving DecidableEq, Repr

/-- A gate close of a field's banks under BANK_SET (R478): mask, since when. -/
structure GateClose where
  mask : BitVec 32
  since : Nat
  deriving DecidableEq, Repr

/-- A request to the power manager, in arrival order: a polder, or the turning on of a field's banks (R474, R483). -/
inductive PwrReq where
  | polder (p : Nat)
  | banks (field : Nat) (mask : BitVec 32)
  deriving DecidableEq, Repr

/-- The power manager. -/
structure Power where
  /-- polders 0 to 292 | R473 | DOWN -/
  polders : Tab PolderSt := []
  /-- requests waiting for a grant | R474 | none -/
  queue : List PwrReq := []
  /-- times of the last grants, newest first | R474 | none -/
  grants : List Nat := []
  /-- gates closing under BANK_SET, by 2 × field + (1 when the banks go off) | R478 | none -/
  closing : Tab GateClose := []
  /-- polders to be powered down after a schedule change, retried at each boundary | R480, R218 | none -/
  retry : List Nat := []
  /-- those of them whose power-down was abandoned, which start again at the next frame boundary | R480 | none -/
  abandoned : List Nat := []
  /-- governor parameters | R491 | Table 18-6's Reset column -/
  gov : GovParams := {}
  /-- highest sensor reading and highest tick-mean current of the running frame, 1/256 units | R486 | DESIGN CHOICE 0 (log 13) -/
  tjFrame : Int := 0
  icFrame : Nat := 0
  /-- sum of the tick-mean currents of the frame and their count | Table 18-7 `p_pkg` | 0 -/
  icSum : Nat := 0
  icCnt : Nat := 0
  /-- frame-mean current of the last closed frame, 1/256 A | Table 18-7 `p_pkg` | DESIGN CHOICE 0 (log 13) -/
  icMean : Nat := 0
  /-- readings of the last tick | Table 18-7 | DESIGN CHOICE 0 (log 13) -/
  tjLast : Int := 0
  icLast : Nat := 0
  /-- freeboards of the last closed frame, 1/256 units | R486 | DESIGN CHOICE 0 (log 13) -/
  fbT : Nat := 0
  fbA : Nat := 0
  /-- closed frames with recovered freeboards | R487 | 0 -/
  recovered : Nat := 0
  /-- VDD_CORE set point in mV | R485, R531, Table 18-7 | 750 -/
  vCore : Nat := 750
  /-- consecutive ticks with the mean current above 125 A | R490 | 0 -/
  overTicks : Nat := 0
  deriving DecidableEq, Repr

/-! ## Bring-up and service (chapter 19) -/

/-- Bring-up stages (Table 19-3). -/
inductive Stage where
  | reset | rom | fwStart | dram | sync | ready | halted
  deriving DecidableEq, Repr

/-- Boot selection, record 0x0042 (Table 19-2). -/
structure BootSel where
  prefB : Bool := false
  trial : Bool := false
  tries : Nat := 0
  verA : W32 := 0
  verB : W32 := 0
  fence : BitVec 276 := 0
  deriving DecidableEq, Repr

/-- Rows of Table 19-1, as the reset source of the next compute-die start. -/
inductive ResetSrc where
  | supplies | perst | flr | devReset0 | devReset1 | supplyReturn | trip | watchdog | extest | rail
  deriving DecidableEq, Repr

/-- Bring-up, firmware and the event log. -/
structure Boot where
  /-- stage | R499, Table 19-3 | RESET -/
  stage : Stage := .reset
  /-- `halt_cause`, 4 bits | R499 | 0 -/
  haltCause : Nat := 0
  /-- firmware slot running: false A, true B | Table 20-3 | A -/
  slotB : Bool := false
  /-- running control cores, 4 bits | Table 20-3 `cores` | 0 -/
  cores : BitVec 4 := 0
  /-- FW_VER, 32 bits | R519, Table 20-2 | 0 -/
  fwVer : W32 := 0
  /-- record 0x0042 in force | R497 | `pref` 0, `trial` 0, `fence` empty (record absent) -/
  sel : BootSel := {}
  /-- PERST_N asserted | R494, Table 21-3 (pull-down) | asserted -/
  perst : Bool := true
  /-- EXTEST selected | R464 | no -/
  extest : Bool := false
  /-- why the compute die is in reset | R494 | supplies reach their thresholds -/
  cause : ResetSrc := .supplies
  /-- boot flash contents, 8 MiB | R495 | PRESUMED erased 0xFF (log 14) -/
  flash : Mem := []
  /-- slots A and B verified since their last write | R505, R506 | DESIGN CHOICE no (log 14) -/
  okA : Bool := false
  okB : Bool := false
  /-- time of the last watchdog expiry, ac | R503 | none -/
  lastWdt : Option Nat := none
  /-- a live image is staged for the next frame boundary | R507 | no -/
  staged : Bool := false
  /-- fence policy in force | Table 19-10 | its Reset column -/
  policy : FencePol := {}
  /-- error counts of R511 at the last frame boundary, by counter offset, 32 bits each | R511 | 0 -/
  winBase : Tab W32 := []
  /-- rises of those counts in closed frames: frames closed before, counter offset, rise | R511 | none -/
  winRises : List (Nat × Nat × Nat) := []
  /-- frames closed since the compute-die start (window position) | R511 | 0 -/
  winAge : Nat := 0
  /-- volatile event log, newest first, at most 4,096 entries | R514 | empty -/
  log : List LogEntry := []
  /-- next entry sequence number, 32 bits | R514 | PRESUMED 0 (log 15) -/
  logSeq : W32 := 0
  deriving DecidableEq, Repr

/-! ## The whole machine -/

/-- The Kilud: the part, its two dies by unit, host memory as far as the device writes and reads it, and the queue of
commands that wait. -/
structure State where
  part : Part := {}
  tick : TickSt := {}
  fe : FrontEnd := {}
  mbx : Mbx := {}
  /-- host tick ring | R37 to R40 | not set up -/
  tring : Ring := {}
  /-- report ring | R319 | not set up -/
  rring : Ring := {}
  /-- field-bus receive ring | R421 | not set up -/
  fring : Ring := {}
  smb : Smb := {}
  seq : Seq := {}
  fm : Fm := {}
  dram : Dram := {}
  nv : Nv := {}
  kv : Kv := {}
  watch : Watch := {}
  links : Links := {}
  bus : Bus := {}
  trust : Trust := {}
  power : Power := {}
  boot : Boot := {}
  /-- counter area of BAR0 by offset (Table 20-9), 32 bits each | R526 | 0 -/
  ctr : Tab W32 := []
  /-- host memory that the device writes and reads, 64-bit addresses (unlisted bytes read 0) | R425, R436 | DESIGN CHOICE 0 (log 16) -/
  host : Mem := []
  /-- MODEL's own: number of free values drawn so far | no rule | DESIGN CHOICE 0 (log 9) -/
  free : Nat := 0
  /-- MODEL's own: commands waiting, first in first out | no rule | empty -/
  pending : List Instr := []
  deriving DecidableEq, Repr

/-- Why a step stops the machine. No command of this model stops it: the manual gives every row an effect, and what it
leaves open is a free value. -/
inductive Fault where
  /-- Raised by no meaning: kept so that the type has a name for a stop that the manual would call fatal. Safe. -/
  | unreachable
  deriving DecidableEq, Repr

/-- Why a command has no meaning here. -/
inductive Refusal where
  /-- Raised only by an arm of exec whose command has no meaning yet, with the mnemonic of the table. Safe. -/
  | notModelled (mnemonic : String)
  deriving DecidableEq, Repr

/-- What a step answers. -/
abbrev Result := Host.Outcome State Fault Refusal

/-- Store bytes at the factory. Bytes 0 to 243 of the owner page are 0 (Table 13-5). Cell 0 of counter n, 8 bytes at 0x1_0000 + 512n, holds
value 0, gen 0 and its tag (R356). Every other byte reads 0xFF (R542) and is not listed. -/
def factoryStore : Mem :=
  ((List.range 244).map fun i => (i, 0#8)) ++
  (List.range 16).flatMap fun n =>
    let a := 0x10000 + 512 * n
    (a, 0x44#8) :: (List.range 7).map fun i => (a + 1 + i, 0#8)

/-- The machine as the front-end die first powers on with a store in its factory state: the compute die is held in reset
(PERST_N asserted, stage RESET), nothing is configured, no record is present. The manual gives no factory values for the calibration sets and
source ratios (R89): they read as absent, gain 1.0, offset 0 and ratio 1.0 (DESIGN CHOICE, log 83). -/
def State.reset : State := { nv := { mem := factoryStore } }

end Sys2Proof.Machine
end

