-- ==== Sys2Proof/Machine/Ops.lean ====
section
/-! DEFINITION. The named operations over plain data: fields of numbers and parameter blocks, bytes, sparse memories and
tables, CRCs, counters with their summary and interrupt bits, the event log, free values. -/

namespace Sys2Proof.Machine

/-! ## Fields and bytes -/

/-- Bits [hi:lo] of a number. -/
def bitsN (x hi lo : Nat) : Nat := (x >>> lo) % 2 ^ (hi + 1 - lo)

/-- Bit i of a number. -/
def bitN (x i : Nat) : Bool := x.testBit i

/-- A Boolean as 0 or 1. -/
def b2n (b : Bool) : Nat := if b then 1 else 0

/-- Two's complement reading of the low `w` bits. -/
def signedN (w x : Nat) : Int := if x % 2 ^ w < 2 ^ (w - 1) then (x % 2 ^ w : Nat) else (x % 2 ^ w : Nat) - (2 ^ w : Nat)

/-- The low `w` bits of an integer in two's complement. -/
def wrapN (w : Nat) (x : Int) : Nat := (x % (2 ^ w : Nat)).toNat

/-- Parameter bits [hi:lo] of a command slot, or the field's reset value when it reaches past `param_len` (R431). -/
def fld (c : Cmd) (hi lo reset : Nat) : Nat :=
  if hi < 8 * c.paramLen then bitsN c.params.toNat hi lo else reset

/-- A one-bit parameter field (R431). -/
def fldB (c : Cmd) (i : Nat) (reset : Bool) : Bool :=
  if i < 8 * c.paramLen then bitN c.params.toNat i else reset

/-- `k` bytes of a number, little-endian (R6). -/
def leBytes (k x : Nat) : List Byte := (List.range k).map fun i => BitVec.ofNat 8 (x >>> (8 * i))

/-- The number that little-endian bytes hold (R6). -/
def leNat : List Byte → Nat
  | [] => 0
  | b :: t => b.toNat + 256 * leNat t

/-- `n` bytes at offset `o` of an image as a number; bytes past its end read 0. -/
def iw (b : List Byte) (o n : Nat) : Nat := leNat ((b.drop o).take n)

/-- Put a `w`-bit field at `lo` into a number under construction whose bits there are 0. -/
def put (lo w x acc : Nat) : Nat := acc + (x % 2 ^ w) * 2 ^ lo

/-- Fields as (lowest bit, width, value), packed into one number. -/
def pack (fs : List (Nat × Nat × Nat)) : Nat := fs.foldl (fun a f => put f.1 f.2.1 f.2.2 a) 0

/-- Round `x` up to a whole multiple of `m`. -/
def roundUp (x m : Nat) : Nat := (x + m - 1) / m * m

/-- `n` copies of a byte. -/
def zeros (n : Nat) : List Byte := List.replicate n 0

/-- Pad or cut a byte list to `n` bytes with zeros. -/
def padTo (n : Nat) (bs : List Byte) : List Byte := (bs ++ zeros (n - bs.length)).take n

/-- Entry i of a list, or `d`. -/
def nth {α : Type} (xs : List α) (i : Nat) (d : α) : α := (xs[i]?).getD d

/-- Replace entry i of a list. -/
def setNth {α : Type} : List α → Nat → α → List α
  | [], _, _ => []
  | _ :: t, 0, v => v :: t
  | x :: t, i + 1, v => x :: setNth t i v

/-! ## Sparse memories and tables -/

/-- One byte of a sparse memory whose unlisted addresses read `d`. -/
def memRead (d : Byte) : Mem → Nat → Byte
  | [], _ => d
  | (k, b) :: t, a => if a = k then b else if a < k then d else memRead d t a

/-- Write one byte, keeping the canonical form: rising addresses, no byte equal to `d`. -/
def memWrite (d : Byte) : Mem → Nat → Byte → Mem
  | [], a, b => if b = d then [] else [(a, b)]
  | (k, c) :: t, a, b =>
    if a < k then (if b = d then (k, c) :: t else (a, b) :: (k, c) :: t)
    else if a = k then (if b = d then t else (a, b) :: t)
    else (k, c) :: memWrite d t a b

/-- `n` bytes from address `a`. -/
def memReadN (d : Byte) (m : Mem) (a n : Nat) : List Byte := (List.range n).map fun i => memRead d m (a + i)

/-- Write bytes from address `a`. -/
def memWriteN (d : Byte) : Mem → Nat → List Byte → Mem
  | m, _, [] => m
  | m, a, b :: t => memWriteN d (memWrite d m a b) (a + 1) t

/-- The addresses lo to hi − 1 back to what an unlisted address reads as. -/
def memClear (lo hi : Nat) (m : Mem) : Mem := m.filter fun c => decide (c.1 < lo ∨ hi ≤ c.1)

/-- The canonical form of a sparse memory: addresses strictly rising from `lo`, no byte equal to `d`. -/
def memWfFrom (d : Byte) : Nat → Mem → Bool
  | _, [] => true
  | lo, (k, b) :: t => decide (lo ≤ k) && decide (b ≠ d) && memWfFrom d (k + 1) t

/-- The canonical form of a sparse memory. -/
def memWf (d : Byte) (m : Mem) : Bool := memWfFrom d 0 m

/-- Entry i of a table, if it is listed. -/
def tabFind {α : Type} (t : Tab α) (i : Nat) : Option α := t.lookup i

/-- Entry i of a table whose unlisted entries hold `d`. -/
def tabGet {α : Type} (d : α) (t : Tab α) (i : Nat) : α := (t.lookup i).getD d

/-- Set entry i of a table. -/
def tabSet {α : Type} : Tab α → Nat → α → Tab α
  | [], i, v => [(i, v)]
  | (k, w) :: t, i, v =>
    if i < k then (i, v) :: (k, w) :: t else if i = k then (i, v) :: t else (k, w) :: tabSet t i v

/-- Take entry i off a table. -/
def tabDel {α : Type} (t : Tab α) (i : Nat) : Tab α := t.filter fun e => e.1 != i

/-- Whether entry i is listed. -/
def tabHas {α : Type} (t : Tab α) (i : Nat) : Bool := (t.lookup i).isSome

/-- The entries of `top` laid over those of `base` (a pending set over the applied one, R122). -/
def tabOver {α : Type} (base top : Tab α) : Tab α := top.foldl (fun t e => tabSet t e.1 e.2) base

/-! ## Checksums -/

/-- One bit step of a reflected CRC-32C (polynomial 0x1EDC6F41, reflected 0x82F63B78). -/
def crcBit (c : W32) : W32 := if c.getLsbD 0 then (c >>> 1) ^^^ 0x82F63B78#32 else c >>> 1

/-- One byte step of CRC-32C. -/
def crcByte (c : W32) (b : Byte) : W32 :=
  crcBit (crcBit (crcBit (crcBit (crcBit (crcBit (crcBit (crcBit (c ^^^ b.setWidth 32))))))))

/-- CRC-32C of a byte string (R6). -/
def crc32c (bs : List Byte) : W32 := (bs.foldl crcByte 0xFFFFFFFF#32) ^^^ 0xFFFFFFFF#32

/-- One bit step of the CRC-8 of R356 (polynomial 0x07, most significant bit first). -/
def crc8Bit (c : Byte) : Byte := if c.getLsbD 7 then (c <<< 1) ^^^ 0x07#8 else c <<< 1

/-- One byte step of the CRC-8 of R356. -/
def crc8Byte (c b : Byte) : Byte :=
  crc8Bit (crc8Bit (crc8Bit (crc8Bit (crc8Bit (crc8Bit (crc8Bit (crc8Bit (c ^^^ b))))))))

/-- CRC-8 of a counter cell's tag (R356). -/
def crc8 (bs : List Byte) : Byte := bs.foldl crc8Byte 0xFF#8

/-! ## Free values -/

/-- Take one draw of the free-value counter. -/
def draw (s : State) : State := { s with free := s.free + 1 }

/-! ## The part -/

/-- Number of fields of the part (R1, Table 00-1). -/
def nFields (p : Part) : Nat := match p.order with | .k192 => 12 | _ => 16

/-- Number of arrays of the part (R1, Table 00-1). -/
def nArrays (p : Part) : Nat := 16 * nFields p

/-- Order code as Table 20-2 numbers it. -/
def orderCode (p : Part) : Nat := match p.order with | .f4 => 0 | .f6 => 1 | .k192 => 2

/-- The compute die is in reset (stage RESET of Table 19-3). -/
def computeDown (s : State) : Bool := s.boot.stage == .reset

/-! ## Interrupts (R429, R521) -/

/-- Send or pend a message on a vector (R429). -/
def msixSend (vec : Nat) (s : State) : State :=
  let m := s.mbx.msix
  let m := if m.enabled && m.unmasked.getLsbD vec then { m with sent := vec :: m.sent }
           else { m with pba := m.pba ||| (1#64 <<< vec) }
  { s with mbx := { s.mbx with msix := m } }

/-- `MBX_CQ.enable` as latched (Table 16-5). -/
def cqEnable (s : State) : Bool := s.mbx.cq.getLsbD 8

/-- `evt_vec` as latched (Table 16-5). -/
def evtVec (s : State) : Nat := bitsN s.mbx.cq.toNat 77 72

/-- An event sets bit `b` of INT_STATUS; a rise with its enable bit set sends one message while `MBX_CQ.enable` is 1
(R521). In stage RESET the compute die holds no interrupt register. -/
def raiseInt (b : Nat) (s : State) : State :=
  if computeDown s then s
  else
    let rises := !s.mbx.intStatus.getLsbD b
    let s' := { s with mbx := { s.mbx with intStatus := s.mbx.intStatus ||| (1#32 <<< b) } }
    if rises && s.mbx.intEnable.getLsbD b && cqEnable s then msixSend (evtVec s') s' else s'

/-- Bits 9 to 11 of ERR_SUM: the groups whose counters the front-end die keeps (R520). -/
def feErrBit (b : Nat) : Bool := b == 9 || b == 10 || b == 11

/-- A counter of group `b` rose: its bit of ERR_SUM is set, and a rise of that bit is event `err` (R520, Table 20-5). In
stage RESET only the front-end groups are kept, for the compute die to show from stage ROM. -/
def raiseErr (b : Nat) (s : State) : State :=
  if computeDown s && !feErrBit b then s
  else
    let rises := !s.mbx.errSum.getLsbD b
    let s' := { s with mbx := { s.mbx with errSum := s.mbx.errSum ||| (1#32 <<< b) } }
    if rises then raiseInt 1 s' else s'

/-- The ERR_SUM bit of a counter at a BAR0 offset (Tables 20-4 and 20-9), none for address and time words. -/
def errBitOf (off : Nat) : Option Nat :=
  if 0x1000 ≤ off ∧ off < 0x1400 then
    match (off % 0x40) / 4 with
    | 0 => some 3 | 1 => some 3 | 2 => some 3 | 3 => some 3
    | 4 => some 0 | 5 => some 1 | 8 => some 1 | 9 => some 2
    | 10 => some 4 | 11 => some 4 | 12 => some 4 | 13 => some 4 | 14 => some 4
    | _ => none
  else if 0x1400 ≤ off ∧ off < 0x1800 then some 2
  else if 0x1800 ≤ off ∧ off < 0x1900 then some 7
  else if off = 0x1900 then some 5
  else if off = 0x1904 then some 6
  else if off = 0x1A00 ∨ off = 0x1A04 ∨ off = 0x1A08 ∨ off = 0x1A0C then some 14
  else if off = 0x1A10 ∨ off = 0x1A14 then some 12
  else if off = 0x1A18 ∨ off = 0x1A1C then some 8
  else if off = 0x1A24 then some 13
  else if off = 0x1C00 then some 9
  else if off = 0x1C04 ∨ off = 0x1C10 then some 10
  else if 0x1D00 ≤ off ∧ off < 0x1D80 then some 11
  else none

/-! ## Counters (R526) -/

/-- A 32-bit counter or address word of the counter area. -/
def ctrGet (s : State) (off : Nat) : W32 := tabGet 0 s.ctr off

/-- Set a word of the counter area. -/
def ctrSet (off : Nat) (v : W32) (s : State) : State := { s with ctr := tabSet s.ctr off v }

/-- A 32-bit counter rises by `n`, saturating, and its group's bit of ERR_SUM is set (R520, R526). -/
def bumpBy (off n : Nat) (s : State) : State :=
  if n = 0 then s
  else
    let s' := ctrSet off (BitVec.ofNat 32 (min (2 ^ 32 - 1) ((ctrGet s off).toNat + n))) s
    match errBitOf off with
    | some b => raiseErr b s'
    | none => s'

/-- A counter rises by one. -/
def bump (off : Nat) (s : State) : State := bumpBy off 1 s

/-- Offsets of field f's counters (Table 20-9). -/
def cField (f i : Nat) : Nat := 0x1000 + 0x40 * f + 4 * i
def cAxSat (f : Nat) : Nat := cField f 0
def cAxNan (f : Nat) : Nat := cField f 1
def cAxAcc (f : Nat) : Nat := cField f 2
def cAxOvf (f : Nat) : Nat := cField f 3
def cFmCe (f : Nat) : Nat := cField f 4
def cFmUe (f : Nat) : Nat := cField f 5
def cFmCeAddr (f : Nat) : Nat := cField f 6
def cFmUeAddr (f : Nat) : Nat := cField f 7
def cFmOff (f : Nat) : Nat := cField f 8
def cVecErr (f : Nat) : Nat := cField f 9
def cSetOob (f : Nat) : Nat := cField f 10
def cSetExhaust (f : Nat) : Nat := cField f 11
def cSetErr (f : Nat) : Nat := cField f 12
def cSetSat (f : Nat) : Nat := cField f 13
def cSetHfail (f : Nat) : Nat := cField f 14
def cArrErr (a : Nat) : Nat := 0x1400 + 4 * a
/-- Link counters: 0 `ln_crc`, 1 `ln_replay`, 2 `ln_down`, 3 `ln_sched_stall`, 4 `ln_plan_mis`, 5 `ln_drop`, 6 `ln_unreach`,
7 `ln_sig_rej` (Table 20-9). -/
def cLink (l i : Nat) : Nat := 0x1800 + 0x40 * l + 4 * i
def cDramCe : Nat := 0x1900
def cDramUe : Nat := 0x1904
def cMbxBadDb : Nat := 0x1A00
def cMbxCqBusy : Nat := 0x1A04
def cWinBlocked : Nat := 0x1A08
def cRegBadWr : Nat := 0x1A0C
def cSyncStale : Nat := 0x1A10
def cTickMis : Nat := 0x1A14
def cSluiceDrop : Nat := 0x1A18
def cSluiceAbandon : Nat := 0x1A1C
def cThermTrip : Nat := 0x1A20
def cSignDrop : Nat := 0x1A24
def cNvCe : Nat := 0x1C00
def cNvUe : Nat := 0x1C04
def cNvCeAddr : Nat := 0x1C08
def cNvUeAddr : Nat := 0x1C0C
def cNvTie : Nat := 0x1C10
def cNvTieId : Nat := 0x1C14
def cLogNvDrop : Nat := 0x1C18
/-- Field-bus port counters: 0 `fb_crc`, 1 `fb_stranger`, 2 `fb_police`, 3 `fb_rx_other`, 4 `fb_tx_drop`, 5 `fb_excess_col`,
6 `plca_col`, 7 `plca_beacon_mis`, 8 `gptp_lost` (Table 20-9). -/
def cFb (p i : Nat) : Nat := 0x1D00 + 0x40 * p + 4 * i

/-! ## The event log (R514, R361, Table 19-12) -/

/-- Event codes that Table 19-12 marks persistent. -/
def eventPersistent (code : Nat) : Bool :=
  [0x0001, 0x0002, 0x0003, 0x0004, 0x0005, 0x0010, 0x0021, 0x0022, 0x0030, 0x0040, 0x0050, 0x0051].contains code

/-- An event is logged: into the volatile ring of 4,096 entries while the compute die runs, and, when it is persistent, among
the entries pending for the log region, where a ninth is dropped and counted (R514, R361). -/
def logEvent (code src arg arg2 : Nat) (s : State) : State :=
  let e : LogEntry := { seq := s.boot.logSeq, tick := s.tick.no, code := code, src := src,
                        arg := BitVec.ofNat 64 arg, arg2 := BitVec.ofNat 32 arg2 }
  let s1 := { s with boot := { s.boot with
    logSeq := s.boot.logSeq + 1,
    log := if computeDown s then s.boot.log else (e :: s.boot.log).take 4096 } }
  if eventPersistent code then
    let s2 := raiseInt 7 s1
    if s2.nv.logPend.length < 8 then { s2 with nv := { s2.nv with logPend := s2.nv.logPend ++ [e] } }
    else bump cLogNvDrop s2
  else s1

/-! ## Host memory (R425) -/

/-- Write bytes into host memory. -/
def hostWrite (a : Nat) (bs : List Byte) (s : State) : State := { s with host := memWriteN 0 s.host a bs }

/-- Read bytes of host memory. -/
def hostRead (s : State) (a n : Nat) : List Byte := memReadN 0 s.host a n

/-! ## Field memory plain access -/

/-- Chip-wide address of a field address (R174). -/
def chipAddr (f a : Nat) : Nat := f * 2 ^ 23 + a

/-! ## Per-unit updates, one lemma each in Laws/State -/

def setTick (f : TickSt → TickSt) (s : State) : State := { s with tick := f s.tick }
def setFe (f : FrontEnd → FrontEnd) (s : State) : State := { s with fe := f s.fe }
def setMbx (f : Mbx → Mbx) (s : State) : State := { s with mbx := f s.mbx }
def setSmb (f : Smb → Smb) (s : State) : State := { s with smb := f s.smb }
def setSeq (f : Seq → Seq) (s : State) : State := { s with seq := f s.seq }
def setFm (f : Fm → Fm) (s : State) : State := { s with fm := f s.fm }
def setDram (f : Dram → Dram) (s : State) : State := { s with dram := f s.dram }
def setNv (f : Nv → Nv) (s : State) : State := { s with nv := f s.nv }
def setKv (f : Kv → Kv) (s : State) : State := { s with kv := f s.kv }
def setWatch (f : Watch → Watch) (s : State) : State := { s with watch := f s.watch }
def setLinks (f : Links → Links) (s : State) : State := { s with links := f s.links }
def setBus (f : Bus → Bus) (s : State) : State := { s with bus := f s.bus }
def setTrust (f : Trust → Trust) (s : State) : State := { s with trust := f s.trust }
def setPower (f : Power → Power) (s : State) : State := { s with power := f s.power }
def setBoot (f : Boot → Boot) (s : State) : State := { s with boot := f s.boot }

/-- Bits of a mask as the list of its set positions below `n`. -/
def maskList (n m : Nat) : List Nat := (List.range n).filter fun i => m.testBit i

/-- The mask with the bits of a list of positions. -/
def listMask (xs : List Nat) : Nat := xs.foldl (fun a i => a ||| 2 ^ i) 0

end Sys2Proof.Machine
end

