-- ==== Sys2Proof/Machine/Fp.lean ====
section
/-! DEFINITION. Number formats (chapter 05): exact values, decoding and rounding, binary32 arithmetic, conversions with
their exception classes, block scaling, the dice, and functions evaluated far below their permitted error so that a result
that the manual only bounds can be any value within the bound. -/

namespace Sys2Proof.Machine

/-- A number: NaN, an infinity, or (−1)^neg × m × 2^e. -/
inductive Fp where
  | nan
  | inf (neg : Bool)
  | fin (neg : Bool) (m : Nat) (e : Int)
  deriving DecidableEq, Repr

/-! ## Exact operations -/

/-- The magnitude of a finite number in units of 2^q, for q at or below its exponent. -/
def fpUnits (m : Nat) (e q : Int) : Nat := m <<< (e - q).toNat

/-- Signed magnitude in units of 2^q. -/
def fpInt (neg : Bool) (m : Nat) (e q : Int) : Int := if neg then -(fpUnits m e q : Int) else (fpUnits m e q : Int)

/-- An integer times 2^e. -/
def fpOfInt (x : Int) (e : Int) : Fp := .fin (decide (x < 0)) x.natAbs e

/-- Negation. -/
def fpNeg : Fp → Fp
  | .nan => .nan
  | .inf n => .inf (!n)
  | .fin n m e => .fin (!n) m e

/-- Magnitude. -/
def fpAbs : Fp → Fp
  | .nan => .nan
  | .inf _ => .inf false
  | .fin _ m e => .fin false m e

/-- Exact sum; a zero sum is +0 unless both terms are negative (IEEE 754, nearest even). -/
def fpAdd : Fp → Fp → Fp
  | .nan, _ => .nan
  | _, .nan => .nan
  | .inf a, .inf b => if a = b then .inf a else .nan
  | .inf a, _ => .inf a
  | _, .inf b => .inf b
  | .fin a m e, .fin b k f =>
    let q := min e f
    let s := fpInt a m e q + fpInt b k f q
    if s = 0 then .fin (a && b) 0 q else fpOfInt s q

/-- Exact difference. -/
def fpSub (x y : Fp) : Fp := fpAdd x (fpNeg y)

/-- Exact product. -/
def fpMul : Fp → Fp → Fp
  | .nan, _ => .nan
  | _, .nan => .nan
  | .inf a, .inf b => .inf (a != b)
  | .inf a, .fin b m _ => if m = 0 then .nan else .inf (a != b)
  | .fin a m _, .inf b => if m = 0 then .nan else .inf (a != b)
  | .fin a m e, .fin b k f => .fin (a != b) (m * k) (e + f)

/-- Multiply by 2^k. -/
def fpScale (k : Int) : Fp → Fp
  | .fin n m e => .fin n m (e + k)
  | x => x

/-- Quotient with 128 significant bits and a sticky bit below them: rounding it to 24 bits rounds the exact quotient. -/
def fpDiv : Fp → Fp → Fp
  | .nan, _ => .nan
  | _, .nan => .nan
  | .inf _, .inf _ => .nan
  | .inf a, .fin b _ _ => .inf (a != b)
  | .fin a _ _, .inf b => .fin (a != b) 0 0
  | .fin a m e, .fin b k f =>
    if k = 0 then (if m = 0 then .nan else .inf (a != b))
    else
      let sh := 160 + Nat.log2 k
      let n := m <<< sh
      .fin (a != b) (2 * (n / k) + (if n % k = 0 then 0 else 1)) (e - f - sh - 1)

/-- Integer square root by bits from bit `n` down. -/
def isqrtAux : Nat → Nat → Nat → Nat
  | 0, _, r => r
  | n + 1, x, r => let t := r + 2 ^ n; isqrtAux n x (if t * t ≤ x then t else r)

/-- Integer square root. -/
def isqrt (x : Nat) : Nat := isqrtAux (Nat.log2 x / 2 + 1) x 0

/-- Square root with far more than 24 bits and a sticky bit. −0 gives −0; a negative number gives NaN. -/
def fpSqrt : Fp → Fp
  | .nan => .nan
  | .inf n => if n then .nan else .inf false
  | .fin n m e =>
    if m = 0 then .fin n 0 0
    else if n then .nan
    else
      let sh := 160 + (if (e % 2 = 0) then 0 else 1)
      let x := m <<< sh
      let r := isqrt x
      .fin false (2 * r + (if r * r = x then 0 else 1)) ((e - sh) / 2 - 1)

/-- Order of two numbers, none when one is NaN. +0 and −0 are equal. -/
def fpCmp : Fp → Fp → Option Ordering
  | .nan, _ => none
  | _, .nan => none
  | .inf a, .inf b => some (if a = b then .eq else if a then .lt else .gt)
  | .inf a, _ => some (if a then .lt else .gt)
  | _, .inf b => some (if b then .gt else .lt)
  | .fin a m e, .fin b k f => let q := min e f; some (compare (fpInt a m e q) (fpInt b k f q))

/-- x < y, false with NaN. -/
def fpLt (x y : Fp) : Bool := fpCmp x y == some .lt

/-- x ≤ y, false with NaN. -/
def fpLe (x y : Fp) : Bool := fpCmp x y == some .lt || fpCmp x y == some .eq

/-- A NaN. -/
def fpIsNan : Fp → Bool
  | .nan => true
  | _ => false

/-- A finite number. -/
def fpFinite : Fp → Bool
  | .fin _ _ _ => true
  | _ => false

/-- A zero. -/
def fpIsZero : Fp → Bool
  | .fin _ m _ => m == 0
  | _ => false

/-! ## Rounding (R143) -/

/-- Exponent of the target spacing at a magnitude m × 2^e: `mb` mantissa bits, smallest spacing 2^emin. -/
def ulpExp (mb : Nat) (emin : Int) (m : Nat) (e : Int) : Int := max (e + Nat.log2 m - mb) emin

/-- m × 2^e in units of 2^q, rounded under a mode of Table 05-7 with dice value d. -/
def roundAt (mode : Rnd) (d : Nat) (m : Nat) (e q : Int) : Nat :=
  if q ≤ e then m <<< (e - q).toNat
  else
    let sh := (q - e).toNat
    let lo := m >>> sh
    let rem := m - (lo <<< sh)
    let up : Bool := match mode with
      | .nearest => decide (2 * rem > 2 ^ sh) || (decide (2 * rem = 2 ^ sh) && decide (lo % 2 = 1))
      | .zero => false
      | .stochastic => decide (65536 ≤ (65536 * rem) >>> sh + d)
    if up then lo + 1 else lo

/-! ## Encodings (Tables 05-2 and 05-3) -/

/-- Layout of a floating-point format: exponent bits, mantissa bits, exponent of its smallest spacing, largest exponent
field that holds numbers, largest mantissa of that exponent field. -/
structure FLay where
  eb : Nat
  mb : Nat
  emin : Int
  emax : Nat
  mmax : Nat
  deriving DecidableEq, Repr

def lay32 : FLay := ⟨8, 23, -149, 254, 0x7FFFFF⟩
def layBf16 : FLay := ⟨8, 7, -133, 254, 0x7F⟩
def lay16 : FLay := ⟨5, 10, -24, 30, 0x3FF⟩
def layE4m3 : FLay := ⟨4, 3, -9, 15, 6⟩
def layE5m2 : FLay := ⟨5, 2, -16, 30, 3⟩
def layE2m1 : FLay := ⟨2, 1, -1, 3, 1⟩

/-- Value of a code. -/
def decFloat (l : FLay) (x : Nat) : Fp :=
  let neg := x.testBit (l.eb + l.mb)
  let ef := bitsN x (l.eb + l.mb - 1) l.mb
  let mf := x % 2 ^ l.mb
  if ef > l.emax ∨ (ef = l.emax ∧ mf > l.mmax) then
    (if l.emax + 1 < 2 ^ l.eb ∧ mf = 0 then .inf neg else .nan)
  else if ef = 0 then .fin neg mf l.emin
  else .fin neg (2 ^ l.mb + mf) (l.emin + ef - 1)

/-- Largest finite magnitude of a layout in units of its own spacing, and that spacing's exponent. -/
def layMax (l : FLay) : Nat × Int := (2 ^ l.mb + l.mmax, l.emin + l.emax - 1)

/-- Code of a magnitude r × 2^q already rounded to the layout's spacing and not above its largest. -/
def packMag (l : FLay) (neg : Bool) (r : Nat) (q : Int) : Nat :=
  let (r, q) := if r = 2 ^ (l.mb + 1) then (2 ^ l.mb, q + 1) else (r, q)
  let body := if r < 2 ^ l.mb then r else ((q - l.emin + 1).toNat) * 2 ^ l.mb + (r - 2 ^ l.mb)
  body + (if neg then 2 ^ (l.eb + l.mb) else 0)

/-- Value of an FP32 pattern. -/
def dec32 (x : W32) : Fp := decFloat lay32 x.toNat

/-- Value of an FP16 pattern. -/
def dec16 (x : W16) : Fp := decFloat lay16 x.toNat

/-- Round to a layout with IEEE 754 overflow: to infinity under nearest even. -/
def encIeee (l : FLay) (nanCode infCode : Nat) (v : Fp) : Nat :=
  match v with
  | .nan => nanCode
  | .inf n => infCode + (if n then 2 ^ (l.eb + l.mb) else 0)
  | .fin n m e =>
    if m = 0 then (if n then 2 ^ (l.eb + l.mb) else 0)
    else
      let q := ulpExp l.mb l.emin m e
      let r := roundAt .nearest 0 m e q
      let (rm, qm) := layMax l
      if qm < q ∨ (q = qm ∧ rm < r) then infCode + (if n then 2 ^ (l.eb + l.mb) else 0)
      else packMag l n r q

/-- Round to FP32, nearest even. -/
def enc32 (v : Fp) : W32 := BitVec.ofNat 32 (encIeee lay32 0x7FC00000 0x7F800000 v)

/-- Round to FP16, nearest even. -/
def enc16 (v : Fp) : W16 := BitVec.ofNat 16 (encIeee lay16 0x7E00 0x7C00 v)

/-- Quiet NaN of FP32 and FP16 (R25). -/
def nan32 : W32 := 0x7FC00000
def nan16 : W16 := 0x7E00

/-! ## Binary32 arithmetic (R142) -/

def f32add (a b : W32) : W32 := enc32 (fpAdd (dec32 a) (dec32 b))
def f32sub (a b : W32) : W32 := enc32 (fpSub (dec32 a) (dec32 b))
def f32mul (a b : W32) : W32 := enc32 (fpMul (dec32 a) (dec32 b))
def f32fma (a b c : W32) : W32 := enc32 (fpAdd (fpMul (dec32 a) (dec32 b)) (dec32 c))
def f32div (a b : W32) : W32 := enc32 (fpDiv (dec32 a) (dec32 b))
def f32sqrt (a : W32) : W32 := enc32 (fpSqrt (dec32 a))
def f32neg (a : W32) : W32 := if fpIsNan (dec32 a) then nan32 else a ^^^ 0x80000000
def f32abs (a : W32) : W32 := if fpIsNan (dec32 a) then nan32 else a &&& 0x7FFFFFFF
def f32lt (a b : W32) : Bool := fpLt (dec32 a) (dec32 b)
def f32le (a b : W32) : Bool := fpLe (dec32 a) (dec32 b)
def f32isNan (a : W32) : Bool := fpIsNan (dec32 a)
def f32finite (a : W32) : Bool := fpFinite (dec32 a)

/-- An infinite result of finite inputs (R151 `ax_ovf`). -/
def f32isInf (a : W32) : Bool := match dec32 a with | .inf _ => true | _ => false

/-- FP32 of an integer, nearest even. -/
def f32ofInt (x : Int) : W32 := enc32 (fpOfInt x 0)

/-- Larger or smaller of two; NaN if either is NaN; −0 below +0 (Table 06-7). -/
def f32max (a b : W32) : W32 :=
  if f32isNan a || f32isNan b then nan32
  else if f32lt a b then b else if f32lt b a then a else if a.getLsbD 31 then b else a
def f32min (a b : W32) : W32 :=
  if f32isNan a || f32isNan b then nan32
  else if f32lt a b then a else if f32lt b a then b else if a.getLsbD 31 then a else b

/-- FP32 to FP16, nearest even. -/
def f32to16 (a : W32) : W16 := enc16 (dec32 a)

/-- FP16 to FP32, exact. -/
def f16to32 (a : W16) : W32 := enc32 (dec16 a)

/-- Round a number half to even to an integer. -/
def fpRoundInt : Fp → Int
  | .fin n m e => let r := roundAt .nearest 0 m e 0; if n then -(r : Int) else r
  | _ => 0

/-! ## Formats of elements (Table 05-1) -/

/-- Format codes of Table 05-1; 13 to 15 are RSV (L2). -/
def fmtOf : Nat → Option Fmt
  | 0 => some .int4 | 1 => some .int8 | 2 => some .e4m3 | 3 => some .e5m2 | 4 => some .e2m1
  | 5 => some .mxint8 | 6 => some .mxfp8e4m3 | 7 => some .mxfp8e5m2 | 8 => some .mxfp4
  | 9 => some .bf16 | 10 => some .fp16 | 11 => some .fp32 | 12 => some .int32
  | _ => none

/-- Element width in bits. -/
def fmtBits : Fmt → Nat
  | .int4 => 4 | .int8 => 8 | .e4m3 => 8 | .e5m2 => 8 | .e2m1 => 4 | .mxint8 => 8 | .mxfp8e4m3 => 8
  | .mxfp8e5m2 => 8 | .mxfp4 => 4 | .bf16 => 16 | .fp16 => 16 | .fp32 => 32 | .int32 => 32

/-- Block-scaled formats (R133). -/
def fmtMx : Fmt → Bool
  | .mxint8 => true | .mxfp8e4m3 => true | .mxfp8e5m2 => true | .mxfp4 => true | _ => false

/-- Integer element formats. -/
def fmtInt : Fmt → Bool
  | .int4 => true | .int8 => true | .int32 => true | _ => false

/-- Value of an element code, without its block scale (R130, R131). -/
def decElem (f : Fmt) (x : Nat) : Fp :=
  match f with
  | .int4 => fpOfInt (signedN 4 x) 0
  | .int8 => fpOfInt (signedN 8 x) 0
  | .int32 => fpOfInt (signedN 32 x) 0
  | .mxint8 => fpOfInt (signedN 8 x) (-6)
  | .e4m3 => decFloat layE4m3 x
  | .mxfp8e4m3 => decFloat layE4m3 x
  | .e5m2 => decFloat layE5m2 x
  | .mxfp8e5m2 => decFloat layE5m2 x
  | .e2m1 => decFloat layE2m1 x
  | .mxfp4 => decFloat layE2m1 x
  | .bf16 => decFloat layBf16 x
  | .fp16 => decFloat lay16 x
  | .fp32 => decFloat lay32 x

/-- Value of an element with its scale byte (R134): 0xFF makes it NaN. -/
def decScaled (f : Fmt) (x scale : Nat) : Fp :=
  if !fmtMx f then decElem f x
  else if scale = 255 then .nan
  else fpScale ((scale : Int) - 127) (decElem f x)

/-- What a conversion counts (R151). -/
inductive AxFlag where
  | none | sat | nanDrop | ovf
  deriving DecidableEq, Repr

/-- Convert to an integer target of `w` bits whose unit is 2^u (R143 to R145). -/
def convInt (w : Nat) (u : Int) (mode : Rnd) (d : Nat) (v : Fp) : Nat × AxFlag :=
  match v with
  | .nan => (0, .nanDrop)
  | .inf n => (if n then 2 ^ (w - 1) else 2 ^ (w - 1) - 1, .sat)
  | .fin n m e =>
    let r := roundAt mode d m e u
    -- a value at least half a unit beyond the largest magnitude overflows under nearest even, though the tie rounds back to it (R144)
    let tie := mode == .nearest && fpLe (.fin false (2 * 2 ^ (w - 1) + 1) (u - 1)) (.fin false m e)
    if n then (if r > 2 ^ (w - 1) || tie then (2 ^ (w - 1), .sat) else ((2 ^ w - r) % 2 ^ w, .none))
    else (if r > 2 ^ (w - 1) - 1 then (2 ^ (w - 1) - 1, .sat) else (r, .none))

/-- Convert to a floating-point target (R143 to R145). `clamp` formats never produce infinity; `nanCode` is none for a target
without NaN. A conversion toward zero counts as clamped from the largest magnitude plus one unit of its last place on; no rule says where between
the two its overflow begins (DESIGN CHOICE, log 88). -/
def convFloat (l : FLay) (nanCode : Option Nat) (clamp : Bool) (mode : Rnd) (sat : Bool) (d : Nat) (v : Fp) : Nat × AxFlag :=
  let sgn (n : Bool) (x : Nat) : Nat := x + (if n then 2 ^ (l.eb + l.mb) else 0)
  let maxCode := l.emax * 2 ^ l.mb + l.mmax
  let infCode := (2 ^ l.eb - 1) * 2 ^ l.mb
  match v with
  | .nan => match nanCode with | some c => (c, .none) | none => (0, .nanDrop)
  | .inf n => if clamp || sat then (sgn n maxCode, .sat) else (sgn n infCode, .none)
  | .fin n m e =>
    if m = 0 then (sgn n 0, .none)
    else
      let (rm, qm) := layMax l
      let q := min (ulpExp l.mb l.emin m e) qm
      let r := roundAt mode d m e q
      let half := mode == .nearest && decide (q = qm) &&
        fpLe (.fin false (2 * rm + 1) (qm - 1)) (.fin false m e)
      if (decide (q = qm) && decide (rm < r)) || half then
        (if clamp || sat then (sgn n maxCode, .sat)
         else if mode == .zero then (sgn n maxCode, .sat)
         else (sgn n infCode, .ovf))
      else (packMag l n r q, .none)

/-- Convert a value to a scalar target format (step 5 of Table 05-6); MX formats here give their element conversion, which
always clamps (R135). FP32 is never narrowed (R144). -/
def convElem (f : Fmt) (mode : Rnd) (sat : Bool) (d : Nat) (v : Fp) : Nat × AxFlag :=
  match f with
  | .int4 => convInt 4 0 mode d v
  | .int8 => convInt 8 0 mode d v
  | .int32 => convInt 32 0 mode d v
  | .mxint8 => ((convInt 8 (-6) mode d v).1, .none)
  | .e2m1 => convFloat layE2m1 none true mode sat d v
  | .mxfp4 => ((convFloat layE2m1 none true mode true d v).1, .none)
  | .e4m3 => convFloat layE4m3 (some 0x7F) true mode sat d v
  | .mxfp8e4m3 => ((convFloat layE4m3 (some 0x7F) true mode true d v).1, .none)
  | .e5m2 => convFloat layE5m2 (some 0x7E) false mode sat d v
  | .mxfp8e5m2 => ((convFloat layE5m2 (some 0x7E) true mode true d v).1, .none)
  | .bf16 => convFloat layBf16 (some 0x7FC0) false mode sat d v
  | .fp16 => convFloat lay16 (some 0x7E00) false mode sat d v
  | .fp32 => ((enc32 v).toNat, .none)

/-- Element emax of an MX format (R135). -/
def mxEmax : Fmt → Int
  | .mxfp4 => 2 | .mxfp8e4m3 => 8 | .mxfp8e5m2 => 15 | _ => 0

/-- floor(log2 |v|) of a finite number that is not zero. -/
def fpLog2 : Fp → Int
  | .fin _ m e => e + Nat.log2 m
  | _ => 0

/-- The larger of two magnitudes that are finite. -/
def fpMaxAbs (x y : Fp) : Fp := if fpLt (fpAbs x) (fpAbs y) then fpAbs y else fpAbs x

/-- Encode one block of at most 32 values with their dice values (R135, R136): scale byte and element codes. -/
def mxEncode (f : Fmt) (mode : Rnd) (vs : List (Fp × Nat)) : Nat × List Nat :=
  if vs.any fun v => !fpFinite v.1 then (255, vs.map fun _ => 0)
  else
    let amax := vs.foldl (fun a v => fpMaxAbs a v.1) (.fin false 0 0)
    let xe : Int := if fpIsZero amax then -127 else max (-127) (min 127 (fpLog2 amax - mxEmax f))
    ((xe + 127).toNat, vs.map fun v => (convElem f mode true v.2 (fpScale (-xe) v.1)).1)

/-! ## The dice (R147) -/

/-- The 16-bit dice value of element e of a move of stream st at stream count c. -/
def dice (seed : W64) (st : Nat) (c : BitVec 48) (e : Nat) : Nat :=
  let x0 : W64 := seed ^^^ (((BitVec.ofNat 64 st <<< 48) ||| c.setWidth 64) * 0x9E3779B97F4A7C15#64)
  let x1 := x0 ^^^ (BitVec.ofNat 64 e * 0xC2B2AE3D27D4EB4F#64)
  let x2 := (x1 ^^^ (x1 >>> 30)) * 0xBF58476D1CE4E5B9#64
  let x3 := (x2 ^^^ (x2 >>> 27)) * 0x94D049BB133111EB#64
  let x4 := x3 ^^^ (x3 >>> 31)
  x4.toNat % 65536

/-! ## Functions, in fixed point with 320 fraction bits -/

/-- Fraction bits of the fixed-point evaluations. -/
def fixP : Nat := 320

/-- A number as a fixed-point integer, rounded toward −∞. -/
def toFix : Fp → Int
  | .fin n m e =>
    let k : Int := e + fixP
    let x : Int := if 0 ≤ k then (m <<< k.toNat : Nat) else (m >>> (-k).toNat : Nat)
    if n then -x else x
  | _ => 0

/-- A fixed-point integer as a number. -/
def ofFix (x : Int) : Fp := fpOfInt x (-(fixP : Int))

/-- Product of fixed-point integers. -/
def fixMul (a b : Int) : Int := a * b / (2 ^ fixP : Nat)

/-- Sum of terms t_k with t_0 = t and t_(k+1) = t_k × x / (k + 1): the series of e^x. -/
def expSeries : Nat → Nat → Int → Int → Int
  | 0, _, _, _ => 0
  | n + 1, k, x, t => t + expSeries n (k + 1) x (fixMul t x / ((k : Int) + 1))

/-- Sum of z^(2k+1) / (2k + 1) from k, with t = z^(2k+1): the series of artanh. -/
def atanhSeries : Nat → Nat → Int → Int → Int
  | 0, _, _, _ => 0
  | n + 1, k, zz, t => t / (2 * (k : Int) + 1) + atanhSeries n (k + 1) zz (fixMul t zz)

/-- One in fixed point. -/
def fixOne : Int := (2 ^ fixP : Nat)

/-- ln 2 = 2 artanh(1/3). -/
def fixLn2 : Int := 2 * atanhSeries 110 0 (fixOne / 9) (fixOne / 3)

/-- e^x for |x| below 200. -/
def fpExp (x : Fp) : Fp :=
  let f := toFix x
  let k := f / fixLn2
  fpScale k (ofFix (expSeries 90 0 (f - k * fixLn2) fixOne))

/-- ln x for x > 0. -/
def fpLn : Fp → Fp
  | .fin _ m e =>
    let k := e + Nat.log2 m
    let y : Int := toFix (.fin false m (e - k))
    let z := (y - fixOne) * (2 ^ fixP : Nat) / (y + fixOne)
    ofFix (2 * atanhSeries 110 0 (fixMul z z) z + k * fixLn2)
  | v => v

/-- Sum of t_k, t_(k+1) = −t_k × x² / ((j+1)(j+2)): the series of sin (j = 1) and cos (j = 0). -/
def trigSeries : Nat → Nat → Int → Int → Int
  | 0, _, _, _ => 0
  | n + 1, j, xx, t => t + trigSeries n (j + 2) xx (-(fixMul t xx) / (((j : Int) + 1) * ((j : Int) + 2)))

/-- Sum of (−1)^k z^(2k+1) / (2k + 1): the series of arctan. -/
def atanSeries : Nat → Nat → Int → Int → Int
  | 0, _, _, _ => 0
  | n + 1, k, zz, t => t / (2 * (k : Int) + 1) + atanSeries n (k + 1) zz (-(fixMul t zz))

/-- π by Machin's formula. -/
def fixPi : Int :=
  16 * atanSeries 80 0 (fixOne / 25) (fixOne / 5) - 4 * atanSeries 30 0 (fixOne / 57121) (fixOne / 239)

/-- sin of a fixed-point angle. -/
def fixSin (f : Int) : Int :=
  let r := f - (f + fixPi) / (2 * fixPi) * (2 * fixPi)
  trigSeries 70 1 (fixMul r r) r

/-- cos of a fixed-point angle. -/
def fixCos (f : Int) : Int :=
  let r := f - (f + fixPi) / (2 * fixPi) * (2 * fixPi)
  trigSeries 70 0 (fixMul r r) fixOne

/-- Sum of (−1)^k z^(2k+1) / (k! (2k + 1)): the series of ∫ e^(−t²). -/
def erfSeries : Nat → Nat → Int → Int → Int
  | 0, _, _, _ => 0
  | n + 1, k, zz, t => t / (2 * (k : Int) + 1) + erfSeries n (k + 1) zz (-(fixMul t zz) / ((k : Int) + 1))

/-- Φ(a), the normal distribution function, for |a| ≤ 8 (0 or 1 beyond, where VGELU does not ask for it). -/
def fpPhi (a : Fp) : Fp :=
  match a with
  | .fin n _ _ =>
    if fpLt (.fin false 8 0) (fpAbs a) then .fin false (if n then 0 else 1) 0
    else
      let f := toFix a
      let half := fixMul f f / 2
      let z := if f < 0 then -((isqrt (half.natAbs * 2 ^ fixP) : Nat) : Int) else ((isqrt (half.natAbs * 2 ^ fixP) : Nat) : Int)
      let sqrtPi : Int := ((isqrt (fixPi.natAbs * 2 ^ fixP) : Nat) : Int)
      ofFix ((fixOne + 2 * erfSeries 300 0 half z * (2 ^ fixP : Nat) / sqrtPi) / 2)
  | v => v

/-! ## Results that are bounded and not fixed -/

/-- Spacing of FP32 at a finite value. -/
def ulp32 : Fp → Fp
  | .fin _ m e => if m = 0 then .fin false 1 (-149) else .fin false 1 (ulpExp 23 (-149) m e)
  | _ => .fin false 0 0

/-- A free pattern when it lies within the bound of the exact value, else the exact value rounded: so every permitted
result, and only a permitted one, can come out. -/
def within32 (y bound : Fp) (free : W32) : W32 :=
  if fpLe (fpAbs (fpSub (dec32 free) y)) bound then free else enc32 y

/-- A bound of k ulp, or 2 × 2^−149 for a result below the normal range (R168). -/
def ulpBound (k : Nat) (y : Fp) : Fp :=
  if fpLt (fpAbs y) (.fin false 1 (-126)) then .fin false 1 (-148) else fpMul (.fin false k 0) (ulp32 y)

/-- Larger of two bounds. -/
def fpMaxB (x y : Fp) : Fp := if fpLt x y then y else x

/-- An absolute bound of a row of Table 06-7, in place of which 2 × 2^−149 holds for a result below the normal range (R168). -/
def absBound (b y : Fp) : Fp := if fpLt (fpAbs y) (.fin false 1 (-126)) then .fin false 1 (-148) else b

/-- One of the unit number. -/
def fpOne : Fp := .fin false 1 0

/-- A number next below 1, for a function whose exact value lies below its limit by less than any bound shows: its spacing is that of the
numbers below 1. -/
def fpBelowOne : Fp := .fin false (2 ^ 60 - 1) (-60)

/-- a / b within `k` ulp; special values as IEEE 754 gives them (R168). -/
def divK (k : Nat) (a b : Fp) (free : W32) : W32 :=
  match fpDiv a b with
  | .fin n m e => if m = 0 then enc32 (.fin n m e) else
      if (match dec32 (enc32 (.fin n m e)) with | .inf _ => true | _ => false) then enc32 (.fin n m e)
      else within32 (.fin n m e) (ulpBound k (.fin n m e)) free
  | v => enc32 v

/-- A number that stands for any of a sign that is too small to show: it bounds as a number next to 0 on that side does. -/
def fpTiny (neg : Bool) : Fp := .fin neg 1 (-400)

/-- e^a (R168). -/
def expK (a : Fp) (free : W32) : W32 :=
  match a with
  | .nan => nan32
  | .inf n => if n then 0 else 0x7F800000
  | .fin n m e =>
    if m = 0 then enc32 fpOne
    else if fpLt (.fin false 90 0) (.fin n m e) then 0x7F800000
    else if fpLt (.fin n m e) (.fin true 120 0) then within32 (fpTiny false) (.fin false 1 (-148)) free
    else
      let y := fpExp (.fin n m e)
      if enc32 y = 0x7F800000 then 0x7F800000 else within32 y (ulpBound 2 y) free

/-- ln a (R168). -/
def logK (a : Fp) (free : W32) : W32 :=
  match a with
  | .nan => nan32
  | .inf n => if n then nan32 else 0x7F800000
  | .fin n m e =>
    if m = 0 then 0xFF800000
    else if n then nan32
    else
      let y := fpLn (.fin n m e)
      let near := fpLt (fpAbs (fpSub (.fin n m e) fpOne)) (.fin false 1 (-4))
      within32 y (if near then .fin false 1 (-26) else ulpBound 2 y) free

/-- 1 / √a (R168). For −0 the rule gives no value: a free one (log 20). -/
def rsqrtK (a : Fp) (free : W32) : W32 :=
  match a with
  | .nan => nan32
  | .inf n => if n then nan32 else 0
  | .fin n m e =>
    if m = 0 then (if n then free else 0x7F800000)
    else if n then nan32
    else
      let y := fpDiv fpOne (fpSqrt (.fin n m e))
      within32 y (ulpBound 1 y) free

/-- 1 / (1 + e^−a) as a number, for |a| ≤ 120. -/
def sigmExact (a : Fp) : Fp := fpDiv fpOne (fpAdd fpOne (fpExp (fpNeg a)))

/-- tanh a (R168). -/
def tanhK (a : Fp) (free : W32) : W32 :=
  match a with
  | .nan => nan32
  | .inf n => enc32 (if n then fpNeg fpOne else fpOne)
  | .fin n m e =>
    if m = 0 then within32 (.fin n 0 0) (.fin false 1 (-148)) free
    else
      let v : Fp := .fin n m e
      let y := if fpLt (.fin false 40 0) (fpAbs v) then (if n then fpNeg fpBelowOne else fpBelowOne)
        else if fpLt (fpAbs v) (.fin false 1 (-20)) then
          fpSub v (fpDiv (fpMul v (fpMul v v)) (.fin false 3 0))
        else
          let t := fpExp (fpScale 1 v)
          fpDiv (fpSub t fpOne) (fpAdd t fpOne)
      within32 y (ulpBound 2 y) free

/-- VSIGM (R168). -/
def sigmK (a : Fp) (free : W32) : W32 :=
  match a with
  | .nan => nan32
  | .inf n => if n then 0 else enc32 fpOne
  | .fin n m e =>
    let v : Fp := .fin n m e
    let y := if fpLt v (.fin true 120 0) then fpTiny false
      else if fpLt (.fin false 120 0) v then fpBelowOne else sigmExact v
    within32 y (ulpBound 3 y) free

/-- a × Φ(a) for a below −8, by the continued fraction of the normal tail: −φ(x) × x / (x + 1/(x + 2/(x + …))) for x = −a, or too small
to show. -/
def geluTail (a : Fp) : Fp :=
  let x := fpAbs a
  if fpLt (.fin false 19 0) x then fpTiny true
  else
    let phi := fpDiv (fpExp (fpNeg (fpScale (-1) (fpMul x x)))) (fpSqrt (fpScale 1 (ofFix fixPi)))
    let den := (List.range 60).foldr (fun k acc => fpAdd x (fpDiv (.fin false (k + 1) 0) acc)) x
    fpNeg (fpMul phi (fpDiv x den))

/-- VGELU (R168). -/
def geluK (a : Fp) (free : W32) : W32 :=
  match a with
  | .nan => nan32
  | .inf n => if n then 0x80000000 else 0x7F800000
  | .fin n m e =>
    let v : Fp := .fin n m e
    let y := if fpLt v (.fin true 8 0) then geluTail v
      else if fpLt (.fin false 8 0) v then fpMul v fpBelowOne else fpMul v (fpPhi v)
    within32 y (absBound (fpMaxB (ulpBound 4 y) (.fin false 1 (-30))) y) free

/-- VSILU (R168). -/
def siluK (a : Fp) (free : W32) : W32 :=
  match a with
  | .nan => nan32
  | .inf n => if n then 0x80000000 else 0x7F800000
  | .fin n m e =>
    let v : Fp := .fin n m e
    let y := if fpLt v (.fin true 120 0) then fpTiny true
      else if fpLt (.fin false 120 0) v then fpMul v fpBelowOne else fpMul v (sigmExact v)
    within32 y (absBound (fpMaxB (ulpBound 4 y) (.fin false 1 (-30))) y) free

/-- sin a and cos a: NaN beyond 2^20 in magnitude (Table 06-7, R168). -/
def sinK (a : Fp) (free : W32) : W32 :=
  match a with
  | .fin n m e =>
    if fpLt (.fin false 1 20) (.fin false m e) then nan32
    else
      -- below 2^−60 the angle itself is the sine, to far within any bound
      let y := if fpLt (.fin false m e) (.fin false 1 (-60)) then .fin n m e else ofFix (fixSin (toFix (.fin n m e)))
      within32 y (absBound (.fin false 1 (-23)) y) free
  | _ => nan32
def cosK (a : Fp) (free : W32) : W32 :=
  match a with
  | .fin n m e =>
    if fpLt (.fin false 1 20) (.fin false m e) then nan32
    else within32 (ofFix (fixCos (toFix (.fin n m e)))) (.fin false 1 (-23)) free
  | _ => nan32

end Sys2Proof.Machine
end

