-- ==== Sys2Proof/Machine/Store.lean ====
section
/-! DEFINITION. The non-volatile store (chapter 13): reading with its check bits, programming pages, spread counters, two-copy
records, the owner page, and the meanings of the store's own rows that no command of the host starts. -/

namespace Sys2Proof.Machine

/-! ## Bytes and check bits (R339, R542) -/

/-- A byte of the store as it reads. -/
def nvByte (s : State) (a : Nat) : Byte := memRead 0xFF#8 s.nv.mem a

/-- `n` bytes of the store as they read, without counting. -/
def nvBytes (s : State) (a n : Nat) : List Byte := memReadN 0xFF#8 s.nv.mem a n

/-- The wrong bits of a group: 0 correct, 1 corrected, 2 uncorrectable (R339). -/
def nvGroup (s : State) (g : Nat) : Nat := tabGet 0 s.nv.flips g

/-- Read one group's check: a corrected group counts in `nv_ce`, an uncorrectable one in `nv_ue`, each with its address. -/
def nvCheckGroup (s : State) (g : Nat) : State :=
  match nvGroup s g with
  | 0 => s
  | 1 => ctrSet cNvCeAddr (BitVec.ofNat 32 (8 * g)) (bump cNvCe s)
  | _ => ctrSet cNvUeAddr (BitVec.ofNat 32 (8 * g)) (bump cNvUe s)

/-- Groups that the bytes a to a + n − 1 touch. -/
def groupsOf (a n : Nat) : List Nat :=
  if n = 0 then [] else (List.range ((a + n - 1) / 8 + 1 - a / 8)).map fun i => a / 8 + i

/-- Read a range's groups, counting (R339). -/
def nvCheck (a n : Nat) (s : State) : State := (groupsOf a n).foldl nvCheckGroup s

/-- Uncorrectable groups of a range. -/
def nvBad (s : State) (a n : Nat) : List Nat := (groupsOf a n).filter fun g => nvGroup s g == 2

/-- The first group of a range that is read in part by a partial write (R340). -/
def nvMergeGroups (bs : List (Nat × Byte)) : List Nat :=
  let gs := (bs.map fun b => b.1 / 8).eraseDups
  gs.filter fun g => ((bs.filter fun b => b.1 / 8 == g).map Prod.fst).eraseDups.length < 8

/-! ## Page programs -/

/-- The bytes of a page, 256 of them. -/
def pageAddr (page : Nat) : Nat := 256 * page

/-- Plane of a page (R338). -/
def planeOf (page : Nat) : Nat := page % 8

/-- The cells take the bytes of a program: only the bytes written change, groups covered in part are read and merged, and
new check bits make every touched group correct (R340). -/
def nvPut (bs : List (Nat × Byte)) (s : State) : State :=
  let s1 := (nvMergeGroups bs).foldl nvCheckGroup s
  let gs := (bs.map fun b => b.1 / 8).eraseDups
  setNv (fun v => { v with
    mem := bs.foldl (fun m b => memWrite 0xFF#8 m b.1 b.2) v.mem
    flips := v.flips.filter fun e => !gs.contains e.1 }) s1

/-- Consecutive bytes from an address. -/
def placed (a : Nat) (bs : List Byte) : List (Nat × Byte) := (List.range bs.length).map fun i => (a + i, nth bs i 0)

/-- Page programs count toward counter 5, which rises once for each 4,096 (Table 13-7); `nvWearTick` answers whether it is due. -/
def nvWear (n : Nat) (s : State) : State := setNv (fun v => { v with wear := v.wear + n }) s

/-! ## Native writes (R340, R341) -/

/-- The plane of the write at the head of the page buffer is free: its transfer begins. An image store holds all eight planes (R341, R364). -/
def nvPump : Nat → State → State
  | 0, s => s
  | n + 1, s =>
    match s.nv.queue with
    | [] => s
    | w :: rest =>
      if tabHas s.nv.planes (planeOf w.page) || s.nv.storing.isSome then s
      else nvPump n (setNv (fun v => { v with queue := rest, planes := tabSet v.planes (planeOf w.page) w }) s)

/-- A page of the range is being programmed (R342), by a native write or, where the range reaches the image pages themselves, by an image store
(R362, R364). -/
def nvReadWaits (s : State) (a n : Nat) : Bool :=
  (s.nv.storing.isSome && !s.nv.image && decide (0x30000 < a + n ∧ a < 0x40000)) || s.nv.planes.any fun e => decide (pageAddr e.2.page < a + n ∧ a < pageAddr e.2.page + 256)

/-- `NV_BUSY` (R341); an image store programs on every plane (R364). -/
def nvBusy (s : State) : Nat := if s.nv.storing.isSome then 255 else listMask (s.nv.planes.map Prod.fst)

/-- A page program joins the page buffer under the next number, and its plane takes it up when it can (R341). -/
def nvSubmit (page : Nat) (bytes : List (Nat × Byte)) (s : State) : State :=
  nvPump 2048 (setNv (fun v => { v with queue := v.queue ++ [{ seq := v.nextSeq, page := page, bytes := bytes }], nextSeq := v.nextSeq + 1 }) s)

/-! ## Spread counters (R356 to R360) -/

/-- Address of cell i of counter n (R356). -/
def cellAddr (n i : Nat) : Nat := 0x10000 + 512 * n + 8 * i

/-- A cell's value, `gen` and whether it meets the first three conditions of R357. -/
def cellRaw (s : State) (n i : Nat) : Option (Nat × Nat) :=
  let bs := nvBytes s (cellAddr n i) 8
  let x := leNat bs
  let gen := bitsN x 23 8
  if nvGroup s (cellAddr n i / 8) == 2 then none
  else if nth bs 0 0 != crc8 (bs.drop 1) then none
  else if gen = 0xFFFF then none
  else some (bitsN x 63 24, gen)

/-- A valid cell (R357): its predecessor fails the three conditions or is one `gen` below, modulo 65,535. -/
def cellValid (s : State) (n i : Nat) : Option (Nat × Nat) :=
  match cellRaw s n i with
  | none => none
  | some (v, g) =>
    match cellRaw s n ((i + 63) % 64) with
    | none => some (v, g)
    | some (_, g') => if (g' + 1) % 65535 = g then some (v, g) else none

/-- The current cell of a counter: index, value and `gen`; none when the counter is void (R358). -/
def spreadCell (s : State) (n : Nat) : Option (Nat × Nat × Nat) :=
  (List.range 64).foldl (fun best i =>
    match cellValid s n i, best with
    | none, b => b
    | some (v, g), none => some (i, v, g)
    | some (v, g), some (j, w, h) => if w < v then some (i, v, g) else some (j, w, h)) none

/-- A counter's value; a void one reads 0 except where an anti-rollback check asks (R358). -/
def spreadVal (s : State) (n : Nat) : Nat := match spreadCell s n with | some (_, v, _) => v | none => 0

/-- The bytes of a cell (Table 13-6). -/
def cellBytes (v gen : Nat) : List Byte :=
  let body := leBytes 7 (gen + v * 2 ^ 16)
  crc8 body :: body

/-- Program one cell. -/
def cellProgram (n i v gen : Nat) (s : State) : State := nvWear 1 (nvPut (placed (cellAddr n i) (cellBytes v gen)) s)

/-- Write a counter to a new value: the cell after the current one, `gen` one above (R359). -/
def spreadWrite (n v : Nat) (s : State) : State :=
  match spreadCell s n with
  | some (i, _, g) => cellProgram n ((i + 1) % 64) v ((g + 1) % 65535) s
  | none =>
    let s1 := setNv (fun x => { x with
      mem := memClear (cellAddr n 1) (cellAddr n 64) x.mem
      flips := x.flips.filter fun e => !decide (cellAddr n 1 / 8 ≤ e.1 ∧ e.1 < cellAddr n 64 / 8) }) (nvWear 2 s)
    cellProgram n 0 v 0 s1

/-- Increment a counter within a row that is whole (R359, R360): a void counter other than 0 to 2 is rebuilt and counts on from 1. -/
def spreadIncr (n : Nat) (s : State) : State :=
  match spreadCell s n with
  | some (_, v, _) => if v + 1 ≥ 2 ^ 40 then s else spreadWrite n (v + 1) s
  | none => if n ≤ 2 then s else spreadWrite n 1 s

/-- Anti-rollback check (R358, R461): a void counter fails every check. -/
def rollbackOk (s : State) (n secVer : Nat) : Bool :=
  match spreadCell s n with
  | some (_, v, _) => decide (v ≤ secVer)
  | none => false

/-- Counter 5 is to rise once for each 4,096 page programs (Table 13-7); after a power failure no program starts (R368). -/
def wearTick (s : State) : State :=
  if s.nv.wear < 4096 || s.nv.powerFail then s
  else setNv (fun v => { v with wear := v.wear - 4096, ctrQ := v.ctrQ ++ [{ n := 5 }] }) s

/-! ## Two-copy records (R346 to R350) -/

/-- Index of a record in Table 13-3, in table order. -/
def recIndex : RecId → Nat
  | .calib c => c % 24
  | .ratios => 24
  | .feConfig => 25
  | .fieldBus => 26
  | .boot => 27
  | .chip => 28
  | .store => 29
  | .seal => 30

/-- Record ID by index (Table 13-3). -/
def recIdOf (k : Nat) : Nat := if k ≤ 24 then k + 1 else 0x40 + (k - 25)

/-- First page of copy A or B (Table 13-3). -/
def recPage (k : Nat) (copyB : Bool) : Nat :=
  if k < 24 then 16 + 2 * k + b2n copyB
  else match k with
    | 24 => 64 + b2n copyB
    | 25 => if copyB then 128 else 80
    | 26 => if copyB then 180 else 176
    | 27 => 184 + b2n copyB
    | 28 => 186 + b2n copyB
    | 29 => 188 + b2n copyB
    | _ => 190 + b2n copyB

/-- Body bytes of a record (Table 13-3). -/
def recLen (k : Nat) : Nat :=
  if k < 24 then 64
  else match k with
    | 24 => 160 | 25 => 11776 | 26 => 704 | 27 => 64 | 28 => 64 | _ => 16

/-- Address of a copy. -/
def recAddr (k : Nat) (copyB : Bool) : Nat := pageAddr (recPage k copyB)

/-- A copy is valid (R347): magic, ID and length match, its CRC is correct, no group reads uncorrectable. -/
def copyValid (s : State) (k : Nat) (copyB : Bool) : Bool :=
  let a := recAddr k copyB
  let h := nvBytes s a 16
  if leNat h % 2 ^ 16 != 0x4B52 then false
  else if bitsN (leNat h) 31 16 != recIdOf k || bitsN (leNat h) 47 32 != recLen k then false
  else if !(nvBad s a (16 + recLen k)).isEmpty then false
  else crc32c (h.take 12 ++ nvBytes s (a + 16) (recLen k)) == BitVec.ofNat 32 (bitsN (leNat h) 127 96)

/-- Sequence number in a copy's header. -/
def copySeq (s : State) (k : Nat) (copyB : Bool) : W32 :=
  BitVec.ofNat 32 (bitsN (leNat (nvBytes s (recAddr k copyB) 16)) 95 64)

/-- x is greater than y under RFC 1982 serial arithmetic over 32 bits. -/
def serialGt (x y : W32) : Bool := let d := (x - y).toNat; decide (0 < d ∧ d < 2 ^ 31)

/-- The choice of a copy (R347). -/
def recChoose (s : State) (k : Nat) : RecPick :=
  match copyValid s k false, copyValid s k true with
  | false, false => {}
  | true, false => { present := true, copyB := false, seq := copySeq s k false }
  | false, true => { present := true, copyB := true, seq := copySeq s k true }
  | true, true =>
    let a := copySeq s k false
    let b := copySeq s k true
    if serialGt b a then { present := true, copyB := true, seq := b }
    else if serialGt a b then { present := true, copyB := false, seq := a }
    else { present := true, copyB := false, seq := a, tie := true }

/-- Both copies of a record are read, which counts their wrong groups (R339), one is chosen, and a tie is reported (R347). -/
def recPickNow (k : Nat) (s : State) : State :=
  let p := recChoose s k
  let s0 := nvCheck (recAddr k true) (16 + recLen k) (nvCheck (recAddr k false) (16 + recLen k) s)
  let s1 := setNv (fun v => { v with picks := tabSet v.picks k p }) s0
  if p.tie then
    logEvent 0x0050 7 (recIdOf k) 0 (ctrSet cNvTieId (BitVec.ofNat 32 (recIdOf k)) (bump cNvTie s1))
  else s1

/-- The chosen body of a record, none when it is absent. -/
def recBody (s : State) (k : Nat) : Option (List Byte) :=
  let p := tabGet {} s.nv.picks k
  if p.present then some (nvBytes s (recAddr k p.copyB + 16) (recLen k)) else none

/-- Bytes of a copy: header of Table 13-2 and body. -/
def copyBytes (k : Nat) (seq : W32) (body : List Byte) : List Byte :=
  let body := padTo (recLen k) body
  let h := leBytes 12 (pack [(0, 16, 0x4B52), (16, 16, recIdOf k), (32, 16, recLen k), (64, 32, seq.toNat)])
  h ++ leBytes 4 (crc32c (h ++ body)).toNat ++ body

/-- Pages that a copy occupies. -/
def recPages (k : Nat) : Nat := (16 + recLen k + 255) / 256

/-- The target of a record write, and its sequence number (R348, steps 1 and 2). -/
def recTarget (s : State) (k : Nat) : Bool × W32 :=
  let p := tabGet {} s.nv.picks k
  (if p.present then !p.copyB else false, if p.present then p.seq + 1 else 1)

/-- Every page of the target is programmed (R348, step 3). -/
def recProgram (k : Nat) (copyB : Bool) (seq : W32) (body : List Byte) (s : State) : State :=
  nvWear (recPages k) (nvPut (placed (recAddr k copyB) (copyBytes k seq body)) s)

/-- The target is read back (R348, step 4): it passes when the copy is valid and `ok` says so. A copy that does not pass has a group that reads
uncorrectable. -/
def recRead (k : Nat) (copyB ok : Bool) (s : State) : Bool × State :=
  if ok && copyValid s k copyB then (true, s)
  else (false, setNv (fun v => { v with flips := tabSet v.flips (recAddr k copyB / 8) 2 }) s)

/-- Steps 4 and 5 of R348 on a target whose pages have been programmed once: `oks` says for each of the three attempts whether its read-back
passes; one that it does not name passes. A copy is chosen, or the failure is logged. -/
def recAttempts (k : Nat) (copyB : Bool) (seq : W32) (body : List Byte) (oks : List Bool) (s : State) : Bool × State :=
  let again (r : Bool × State) (i : Nat) : Bool × State :=
    if r.1 then r else recRead k copyB (nth oks i true) (recProgram k copyB seq body r.2)
  let r := again (again (recRead k copyB (nth oks 0 true) s) 1) 2
  if r.1 then (true, wearTick (recPickNow k r.2))
  else (false, wearTick (logEvent 0x0050 7 (recIdOf k) 1 (recPickNow k r.2)))

/-- Write a record whole (R348). Answers whether the write succeeded. -/
def recWriteNow (k : Nat) (body : List Byte) (oks : List Bool) (s : State) : Bool × State :=
  let (copyB, seq) := recTarget s k
  recAttempts k copyB seq body oks (recProgram k copyB seq body s)

/-- Outcomes of the read-backs of a record that a row without an operand for them writes: free, since a failing cell is the hardware's (log 73). -/
def freeOks (s : State) : List Bool := (List.range 3).map fun i => Config.freeBool s.free (7000 + i)

/-- Records of which a newer content replaces a waiting one (R350). -/
def recReplaces (k : Nat) : Bool := k == 25 || k == 26 || k == 29

/-- A write of a record runs. -/
def recRuns (s : State) (k : Nat) : Bool := s.nv.recRun.any fun x => x.k == k

/-- Bytes of a copy by page, in ascending order (R348, step 3). -/
def recPrograms (k : Nat) (copyB : Bool) (seq : W32) (body : List Byte) : List (Nat × List (Nat × Byte)) :=
  (List.range (recPages k)).map fun i =>
    (recPage k copyB + i, placed (recAddr k copyB + 256 * i) (((copyBytes k seq body).drop (256 * i)).take 256))

/-- The first write of a record that waits begins, unless one runs: its pages go to the page buffer (R348, R350). After a power failure none
starts (R368). -/
def recStart (k : Nat) (s : State) : State :=
  if s.nv.powerFail || recRuns s k then s
  else match s.nv.recQ.find? fun e => e.1 == k with
  | none => s
  | some e =>
    let (copyB, seq) := recTarget s k
    let x : RecRun := { k := k, body := e.2, copyB := copyB, seq := seq, left := (List.range (recPages k)).map (s.nv.nextSeq + ·) }
    (recPrograms k copyB seq e.2).foldl (fun t p => nvSubmit p.1 p.2 t) (setNv (fun v => { v with recRun := v.recRun ++ [x] }) s)

/-- The last write of a record that waits takes another content. -/
def recReplace (k : Nat) (body : List Byte) : List (Nat × List Byte) → List (Nat × List Byte)
  | [] => []
  | e :: t => if e.1 = k && !(t.any fun x => x.1 == k) then (k, body) :: t else e :: recReplace k body t

/-- A record write is asked for: it begins, joins the writes that wait, or replaces the one that waits and has not begun (R348, R350). -/
def recQueue (k : Nat) (body : List Byte) (s : State) : State :=
  let n := (s.nv.recQ.filter fun e => e.1 == k).length
  let waits := recReplaces k && decide (b2n (recRuns s k) < n)
  recStart k (setNv (fun v => { v with recQ := if waits then recReplace k body v.recQ else v.recQ ++ [(k, body)] }) s)

/-! ## The owner page (R351, R352) -/

/-- The locked value of Table 13-5. -/
def lockedValue : Nat := 0x4C4F434B45442121

/-- The page reads locked (R352). -/
def ownerLocked (s : State) : Bool :=
  nvGroup s 31 == 2 || leNat (nvBytes s 248 8) == lockedValue

/-- The page's CRC-32C over bytes 0 to 243 is right and no group of them reads uncorrectable. -/
def ownerCrcOk (s : State) : Bool :=
  (nvBad s 0 248).isEmpty && leNat (nvBytes s 244 4) == (crc32c (nvBytes s 0 244)).toNat

/-- The owner-page state: 0 unlocked, 1 locked, 2 damaged (R352, R354). -/
def ownerPage (s : State) : Nat := if !ownerLocked s then 0 else if ownerCrcOk s then 1 else 2

/-! ## The store's own settings -/

/-- Body of record 0x0044. -/
def storeBody (level : Nat) (image autostore : Bool) : List Byte :=
  BitVec.ofNat 8 level :: BitVec.ofNat 8 (b2n image + 2 * b2n autostore) :: zeros 14

/-- Body of record 0x0045. -/
def sealBody (crc : W32) (count : Nat) : List Byte := leBytes 4 crc.toNat ++ leBytes 8 count ++ zeros 4

/-- The image pages as stored (pages 768 to 1,023). -/
def imgBacking (s : State) : List Byte := nvBytes s 0x30000 0x10000

/-- Recall (R366): the image takes the image pages; a CRC that differs from the seal's, or an absent seal, sets `img_torn`. -/
def imgRecall (s : State) : State :=
  let s1 := nvCheck 0x30000 0x10000 s
  let torn := match recBody s1 30 with
    | none => true
    | some b => leNat (b.take 4) != (crc32c (imgBacking s1)).toNat
  setNv (fun v => { v with
    img := (v.mem.filter fun c => decide (0x30000 ≤ c.1 ∧ c.1 < 0x40000)).map fun c => (c.1 - 0x30000, c.2)
    dirty := false, torn := v.torn || torn }) s1

/-- An image store starts with the image of this moment (R364, R365). -/
def imgStoreStart (fail : Bool) (s : State) : State :=
  setNv (fun v => { v with storing := some v.img, failStore := fail }) s

/-- The image pages and then the seal are stored (R364, R368). A seal whose write fails leaves the image dirty. Answers whether the store
completed. -/
def imgStoreDo (img : Mem) (s : State) : Bool × State :=
  let bs := memReadN 0xFF#8 img 0 0x10000
  let s1 := nvPut (placed 0x30000 bs) s
  let count := match recBody s1 30 with | some b => leNat ((b.drop 4).take 8) | none => 0
  let (ok, s2) := recWriteNow 30 (sealBody (crc32c bs) (count + 1)) (freeOks s) (nvWear 256 s1)
  (ok, draw (setNv (fun v => { v with storing := none, failStore := false, dirty := v.dirty && !ok, torn := v.torn && !ok }) s2))

end Sys2Proof.Machine
end

