-- ==== Sys2Proof/Machine/Registers.lean ====
section
/-! DEFINITION. What the registers of BAR0 read (chapter 20), what the SMBus agent copies of them (R530), the PWR_STATUS data
(Table 18-7), polder and bank states by number, and a change of the bring-up stage. -/

namespace Sys2Proof.Machine

/-! ## Polders and banks by number (Table 02-6, Table 07-4) -/

/-- State of a polder. -/
def polder (s : State) (p : Nat) : PolderSt := tabGet .down s.power.polders p

/-- Set a polder's state. -/
def polderSet (p : Nat) (st : PolderSt) (s : State) : State :=
  setPower (fun w => { w with polders := tabSet w.polders p st }) s

/-- A polder is powered and usable (Table 18-1). -/
def polderUp (s : State) (p : Nat) : Bool := polder s p == .up

/-- A DRAINING polder is still powered. -/
def polderPowered (s : State) (p : Nat) : Bool :=
  match polder s p with | .up => true | .draining _ => true | _ => false

/-- Polder of field f's engines, of its field memory; the DRAM polder; the polder of link l (Table 02-6). -/
def pEngine (f : Nat) : Nat := 256 + f
def pFm (f : Nat) : Nat := 272 + f
def pDram : Nat := 288
def pLink (l : Nat) : Nat := 289 + l

/-- A polder exists on the order code (R59). -/
def polderPresent (p : Part) (n : Nat) : Bool :=
  if n < 256 then decide (n < nArrays p) else if n < 272 then decide (n - 256 < nFields p)
  else if n < 288 then decide (n - 272 < nFields p) else decide (n < 293)

/-- Code of a polder state in `POLDER_ST`. -/
def polderCode : PolderSt → Nat
  | .down => 0 | .powering _ => 1 | .up => 2 | .draining _ => 3

/-- State of bank b of field f (Table 07-4). -/
def bankSt (s : State) (f b : Nat) : BankSt := tabGet .off s.fm.banks (32 * f + b)

/-- Bank size in bytes (R173). -/
def bankSize (p : Part) : Nat := match p.order with | .f6 => 192 * 1024 | _ => 128 * 1024

/-! ## Usable DRAM (Table 12-1) -/

/-- U in bytes, by channel density. -/
def usableBytes (s : State) : Nat := s.dram.chGib * 15 * 2 ^ 30

/-! ## Status words -/

/-- Stage code of Table 19-3. -/
def stageCode : Stage → Nat
  | .reset => 0 | .rom => 1 | .fwStart => 2 | .dram => 3 | .sync => 4 | .ready => 5 | .halted => 14

/-- `DEV_STAGE` (Table 20-3). -/
def devStage (s : State) : Nat :=
  pack [(0, 4, stageCode s.boot.stage), (8, 4, s.boot.haltCause), (16, 1, b2n s.boot.slotB),
        (17, 1, b2n s.boot.sel.trial), (20, 4, s.boot.cores.toNat)]

/-- `FM_SIZE` (Table 07-1). -/
def fmSize (p : Part) : Nat :=
  pack [(0, 6, 32), (8, 5, nFields p), (16, 8, bankSize p / 1024), (24, 8, nFields p * 32 * bankSize p / 2 ^ 20)]

/-- `DRAM_CFG` (Table 12-2). -/
def dramCfg (s : State) : Nat :=
  pack [(0, 3, s.dram.chGib), (8, 8, if s.dram.ready then 15 * s.dram.chGib else 0), (16, 4, s.dram.failCh),
        (29, 1, b2n s.dram.hot), (30, 1, b2n s.dram.ready), (31, 1, b2n s.dram.trainFail)]

/-- `OWNER_ST` and measurement 8 (Tables 17-3, 20-2). -/
def ownerSt (s : State) : Nat := if s.trust.enrolled then 3 else s.trust.owner

/-- `POLDER_ST`: two bits for each polder, absent polders 0. -/
def polderSt (s : State) : Nat :=
  s.power.polders.foldl (fun a e => if polderPresent s.part e.1 && decide (e.1 < 293)
    then a ||| (polderCode e.2 * 4 ^ e.1) else a) 0

/-! ## Power status (Table 18-7) -/

/-- ln 2 in units of 2^-60. -/
def ln2Fix : Nat := 799144290325165979

/-- `k` more bits of log2 x for x in [1, 2), x in units of 2^-60; the result in units of 2^-k. -/
def log2Frac : Nat → Nat → Nat
  | 0, _ => 0
  | k + 1, x =>
    let y := x * x / 2 ^ 60
    if 2 ^ 61 ≤ y then 2 ^ k + log2Frac k (y / 2) else log2Frac k y

/-- Floor of 34 × ln(num / den) for num ≥ den > 0, to 48 bits of the logarithm (log 19). -/
def floor34ln (num den : Nat) : Nat :=
  let e := Nat.log2 (num / den)
  let l := e * 2 ^ 48 + log2Frac 48 (num * 2 ^ 60 / (den * 2 ^ e))
  34 * l * ln2Fix / 2 ^ 108

/-- `p_pkg` in 0.1 W: the core's product over the last closed frame and the typical figures of Table 18-4, rounded down
(log 19). -/
def pPkg (s : State) : Nat :=
  let links := ((List.range 4).filter fun l => (tabGet {} s.links.link l).phase == .up).length
  let fixed := 2 * 10 + 2 * 25 + (if polderUp s pDram then 2 * 60 else 0) + 15 * links
  (2 * s.power.vCore * s.power.icMean + 25600 * fixed) / 51200

/-- `hold_est` (Table 18-7), with T_ss in 1/25,600 °C. -/
def holdEst (s : State) : Nat :=
  let tss : Int := 45 * 25600 + 2304 * pPkg s
  let tj : Int := 100 * s.power.tjLast
  let gov : Int := 25600 * s.power.gov.tjGov
  if tj ≥ gov then 0
  else if tss ≤ gov then 0xFFFF
  else min 0xFFFE (floor34ln (tss - tj).toNat (tss - gov).toNat)

/-- `tier_run` (Table 18-7): the tier of the schedule in force; the tier requested while none is. -/
def schedTier (s : State) : Nat :=
  match s.seq.active, s.seq.sched with
  | some l, some i => (nth l.scheds i {}).tier
  | _, _ => s.seq.tierRun

/-- The data of PWR_STATUS (Table 18-7). -/
def pwrData (s : State) : Nat :=
  pack [(128, 16, holdEst s), (150, 2, s.power.gov.ceiling), (152, 4, schedTier s), (156, 4, s.seq.tierReq),
        (160, 16, pPkg s), (176, 16, s.power.icLast), (192, 16, s.power.vCore), (208, 16, wrapN 16 s.power.tjLast),
        (224, 16, s.power.fbA), (240, 16, s.power.fbT)]

/-! ## The map (Table 20-1) -/

/-- The register that holds a word offset: its offset and its size in bytes. Offsets of no register are none (RSV). -/
def regOf (off : Nat) : Option (Nat × Nat) :=
  if off < 0x20 then some (off / 4 * 4, 4)
  else if off < 0x24 then some (0x20, 4)
  else if off < 0x28 then some (0x24, 4)
  else if off < 0x2C then some (0x28, 4)
  else if 0x30 ≤ off ∧ off < 0x40 then some (0x30, 16)
  else if 0x100 ≤ off ∧ off < 0x104 then some (0x100, 4)
  else if 0x108 ≤ off ∧ off < 0x10C then some (0x108, 4)
  else if 0x110 ≤ off ∧ off < 0x114 then some (0x110, 4)
  else if 0x118 ≤ off ∧ off < 0x11C then some (0x118, 4)
  else if 0x120 ≤ off ∧ off < 0x140 then some (0x120, 32)
  else if 0x140 ≤ off ∧ off < 0x170 then some (0x140, 48)
  else if 0x180 ≤ off ∧ off < 0x200 then some (0x180, 128)
  else if 0x200 ≤ off ∧ off < 0x208 then some (off / 4 * 4, 4)
  else if 0x208 ≤ off ∧ off < 0x210 then some (0x208, 8)
  else if 0x220 ≤ off ∧ off < 0x240 then some (0x220, 32)
  else if 0x240 ≤ off ∧ off < 0x248 then some (0x240, 8)
  else if 0x280 ≤ off ∧ off < 0x298 then some (off / 4 * 4, 4)
  else if 0x300 ≤ off ∧ off < 0x308 then some (0x300, 8)
  else if 0x308 ≤ off ∧ off < 0x30C then some (0x308, 4)
  else if 0x1908 ≤ off ∧ off < 0x1918 then some (off / 8 * 8, 8)
  else if 0x1E00 ≤ off ∧ off < 0x1E20 then some (off / 8 * 8, 8)
  else if 0x1000 ≤ off ∧ off < 0x2000 then some (off / 4 * 4, 4)
  else if 0x8000 ≤ off ∧ off < 0x8400 then some (off / 4 * 4, 4)
  else if 0x9000 ≤ off ∧ off < 0x9008 then some (0x9000, 8)
  else none

/-- A counter word as the host reads it: the blocks of absent fields and arrays read 0 (text after Table 20-9). -/
def ctrWord (s : State) (off : Nat) : Nat :=
  if 0x1000 ≤ off ∧ off < 0x1400 ∧ nFields s.part ≤ (off - 0x1000) / 0x40 then 0
  else if 0x1400 ≤ off ∧ off < 0x1800 ∧ nArrays s.part ≤ (off - 0x1400) / 4 then 0
  else (ctrGet s off).toNat

/-- Value of the register at an offset that `regOf` names. -/
def regVal (s : State) (off : Nat) : Nat :=
  if off = 0x00 then 0x4B4C4431
  else if off = 0x04 then 1
  else if off = 0x08 then pack [(0, 2, orderCode s.part), (8, 8, s.part.cdStep), (16, 8, s.part.feStep)]
  else if off = 0x0C then fmSize s.part
  else if off = 0x10 then dramCfg s
  else if off = 0x14 then s.part.bootRomVer.toNat
  else if off = 0x18 then s.boot.fwVer.toNat
  else if off = 0x1C then ownerSt s
  else if off = 0x20 then s.trust.ownerId.toNat
  else if off = 0x24 then s.boot.sel.verA.toNat
  else if off = 0x28 then s.boot.sel.verB.toNat
  else if off = 0x30 then s.part.serial.toNat
  else if off = 0x100 then devStage s
  else if off = 0x108 then s.mbx.errSum.toNat
  else if off = 0x110 then s.mbx.intStatus.toNat
  else if off = 0x118 then s.mbx.intEnable.toNat
  else if off = 0x120 then s.tick.stat.toNat
  else if off = 0x140 then s.seq.fence.toNat
  else if off = 0x180 then polderSt s
  else if off = 0x204 then s.mbx.cons.toNat
  else if off = 0x208 then s.mbx.own.toNat
  else if off = 0x220 then s.mbx.cq.toNat
  else if off = 0x240 then s.mbx.winBase.toNat
  else if off = 0x280 then s.tring.cons.toNat
  else if off = 0x284 then s.tring.drop.toNat
  else if off = 0x288 then s.rring.cons.toNat
  else if off = 0x28C then s.rring.drop.toNat
  else if off = 0x290 then s.fring.cons.toNat
  else if off = 0x294 then s.fring.drop.toNat
  else if off = 0x300 then pack [(0, 17, s.tick.period), (32, 16, s.tick.frameLen)]
  else if off = 0x308 then s.fe.srcFault.toNat
  else if off = 0x1E00 then s.tick.total.toNat
  else if off = 0x1E08 then s.tick.late.toNat
  else if off = 0x1E10 then s.tick.fallback.toNat
  else if off = 0x1E18 then s.tick.dark.toNat
  else if off = 0x1908 ∨ off = 0x1910 then ctrWord s off + ctrWord s (off + 4) * 2 ^ 32
  else if 0x1000 ≤ off ∧ off < 0x2000 then ctrWord s off
  else if 0x8000 ≤ off ∧ off < 0x8400 ∧ off % 16 = 12 then b2n (!s.mbx.msix.unmasked.getLsbD ((off - 0x8000) / 16))
  else if 0x8000 ≤ off ∧ off < 0x8400 then leNat (memReadN 0 s.mbx.msix.table (off - 0x8000) 4)
  else if off = 0x9000 then s.mbx.msix.pba.toNat
  else 0

/-- A 32-bit word of BAR0 as it stands (not latched). -/
def bar0Word (s : State) (off : Nat) : Nat :=
  match regOf off with
  | none => 0
  | some (b, _) => (regVal s b >>> (8 * (off - b))) % 2 ^ 32

/-- `n` bytes of BAR0 from a word offset. -/
def bar0Bytes (s : State) (off n : Nat) : List Byte :=
  (List.range (n / 4)).flatMap fun i => leBytes 4 (bar0Word s (off + 4 * i))

/-! ## The SMBus agent's copies (R530) -/

/-- The compute die's values are copied to the SMBus agent. -/
def smbCopy (s : State) : State :=
  setSmb (fun m => { m with
    stage := BitVec.ofNat 32 (devStage s)
    ident := bar0Bytes s 0 32
    status := bar0Bytes s 0x100 32
    tick := leBytes 32 s.tick.stat.toNat
    power := leBytes 32 (pwrData s) }) s

/-- The bring-up stage changes: INT_STATUS.stage, and a copy to the agent (R499, Table 20-5, R530). -/
def setStage (st : Stage) (s : State) : State :=
  if s.boot.stage = st then s
  else smbCopy (raiseInt 0 (setBoot (fun b => { b with stage := st }) s))

end Sys2Proof.Machine
end

