-- ==== Sys2Proof/Machine/FieldMem.lean ====
section
/-! DEFINITION. Field memory as its ports see it (chapter 07): reads with correction and poison, whole-group writes, banks that
are not on, elements of the formats in memory, and the rewriting of corrected groups. -/

namespace Sys2Proof.Machine

/-! ## Banks and groups (R173, R174, R184, R192) -/

/-- Bank and offset of a field address (R174). -/
def bankOf (a : Nat) : Nat := bitsN a 22 18
def bankOff (a : Nat) : Nat := a % 2 ^ 18

/-- The bank of an address is not on: an access by a port counts in `fm_off_acc` (R192). -/
def bankOffAt (s : State) (f a : Nat) : Bool := bankSt s f (bankOf a) != .on

/-- The bank of an address is on, the only state in which a port reaches it (Table 07-4), and the offset exists in it (R174). -/
def bankOn (s : State) (f a : Nat) : Bool := !bankOffAt s f a && decide (bankOff a < bankSize s.part)

/-- Number of the 8-byte group of a field address, chip-wide. -/
def fmGroup (f a : Nat) : Nat := chipAddr f a / 8

/-- A byte of field memory as stored. -/
def fmByte (s : State) (f a : Nat) : Byte := memRead 0 s.fm.mem (chipAddr f a)

/-- `n` bytes of field memory as stored. -/
def fmBytes (s : State) (f a n : Nat) : List Byte := (List.range n).map fun i => fmByte s f (a + i)

/-- Poison source bits that a read of the byte's group brings; 0 when it is not poison. A bank that is not on and a double-bit
error read as poison of source bit 0 (R184, R187, R192), and so does an offset that does not exist (R174; log 79). -/
def fmPoisonAt (s : State) (f a : Nat) : BitVec 8 :=
  if !bankOn s f a then 1
  else if tabGet 0 s.fm.flips (fmGroup f a) == 2 then 1
  else tabGet 0 s.fm.poison (fmGroup f a)

/-- Poison source bits of a range's groups together. -/
def fmPoisonOf (s : State) (f a n : Nat) : BitVec 8 :=
  (groupsOf a n).foldl (fun p g => p ||| fmPoisonAt s f (8 * g)) 0

/-- What a read of one group counts: a corrected group in `fm_ce`, a double-bit error in `fm_ue`, each with its address, and the
corrected group waits for its rewrite (R184, R185). -/
def fmCheckGroup (f : Nat) (s : State) (g : Nat) : State :=
  match tabGet 0 s.fm.flips (fmGroup f (8 * g)) with
  | 0 => s
  | 1 => setFm (fun m => { m with rewrite := tabSet m.rewrite f (tabGet [] m.rewrite f ++ [8 * g]) })
      (ctrSet (cFmCeAddr f) (BitVec.ofNat 32 (8 * g)) (bump (cFmCe f) s))
  | _ => ctrSet (cFmUeAddr f) (BitVec.ofNat 32 (8 * g)) (bump (cFmUe f) s)

/-- The port accesses of width `w` that a range takes, as aligned addresses. -/
def accesses (w a n : Nat) : List Nat :=
  if n = 0 then [] else (List.range ((a + n - 1) / w + 1 - a / w)).map fun i => (a / w + i) * w

/-- The counting side of reading a range through a port of width `w`: accesses to a bank that is not on in `fm_off_acc`, groups with
wrong bits under R184. -/
def fmScan (w f a n : Nat) (s : State) : State :=
  let off := ((accesses w a n).filter (bankOffAt s f)).length
  ((groupsOf a n).filter fun g => bankOn s f (8 * g)).foldl (fmCheckGroup f) (bumpBy (cFmOff f) off s)

/-- One group is written whole, with its poison bits (0 for none); a write to a bank that is not on is dropped (R176, R186, R192), and so is
one to an offset that does not exist (R174; log 79). -/
def fmPutGroup (f a : Nat) (bs : List Byte) (p : BitVec 8) (s : State) : State :=
  if !bankOn s f a then s
  else setFm (fun m => { m with
    mem := memWriteN 0 m.mem (chipAddr f a) (padTo 8 bs)
    flips := tabDel m.flips (fmGroup f a)
    poison := if p = 0 then tabDel m.poison (fmGroup f a) else tabSet m.poison (fmGroup f a) p }) s

/-- Write bytes as whole groups from the group of `a`, padded with zero bytes, through a port of width `w`; `ps` holds the poison bits
of each group (R176). The data bytes of a poisoned group are the ones given. -/
def fmStore (w f a : Nat) (bs : List Byte) (ps : List (BitVec 8)) (s : State) : State :=
  let a0 := a / 8 * 8
  let data := zeros (a - a0) ++ bs
  let n := (data.length + 7) / 8
  let off := ((accesses w a0 (8 * n)).filter (bankOffAt s f)).length
  (List.range n).foldl (fun t i => fmPutGroup f (a0 + 8 * i) ((data.drop (8 * i)).take 8) (nth ps i 0) t)
    (bumpBy (cFmOff f) off s)

/-! ## Elements in memory (R129, R133) -/

/-- Bytes that `n` elements of a format occupy, without scales. -/
def elemBytes (f : Fmt) (n : Nat) : Nat := (n * fmtBits f + 7) / 8

/-- Element code i from bytes of dense elements. -/
def codeOf (f : Fmt) (bs : List Byte) (i : Nat) : Nat :=
  match fmtBits f with
  | 4 => bitsN (nth bs (i / 2) 0).toNat (4 * (i % 2) + 3) (4 * (i % 2))
  | w => leNat ((bs.drop (i * (w / 8))).take (w / 8))

/-- Element code i of a dense vector at a field address. -/
def elemCode (s : State) (fi : Nat) (f : Fmt) (base i : Nat) : Nat :=
  match fmtBits f with
  | 4 => bitsN (fmByte s fi (base + i / 2)).toNat (4 * (i % 2) + 3) (4 * (i % 2))
  | w => leNat (fmBytes s fi (base + i * (w / 8)) (w / 8))

/-- Poison bits of the group that holds element i. -/
def elemPoison (s : State) (fi : Nat) (f : Fmt) (base i : Nat) : BitVec 8 := fmPoisonAt s fi (base + i * fmtBits f / 8)

/-- Dense bytes of element codes. -/
def packCodes (f : Fmt) (cs : List Nat) : List Byte :=
  match fmtBits f with
  | 4 => (List.range ((cs.length + 1) / 2)).map fun i => BitVec.ofNat 8 (nth cs (2 * i) 0 % 16 + 16 * (nth cs (2 * i + 1) 0 % 16))
  | w => cs.flatMap fun c => leBytes (w / 8) c

/-- Poison bits of the groups of dense elements, from the bits of each element. -/
def packPoison (f : Fmt) (ps : List (BitVec 8)) : List (BitVec 8) :=
  let per := 64 / fmtBits f
  (List.range ((ps.length + per - 1) / per)).map fun g => ((ps.drop (g * per)).take per).foldl (fun a p => a ||| p) 0

/-- A block's data bytes with those of its poisoned groups replaced by free bytes (no rule states the data beside a mark). -/
def freePoisoned (draw0 tag : Nat) (bs : List Byte) (ps : List (BitVec 8)) : List Byte :=
  (List.range bs.length).map fun i => if nth ps (i / 8) 0 = 0 then nth bs i 0 else Config.freeByte draw0 (tag + i)

/-- Store element codes with their poison bits. -/
def storeCodes (w fi : Nat) (f : Fmt) (a : Nat) (cs : List Nat) (ps : List (BitVec 8)) (s : State) : State :=
  let gp := packPoison f ps
  fmStore w fi a (freePoisoned s.free a (packCodes f cs) gp) gp s

/-- Store one 32-bit word in its group, the rest of the group zero (R176). -/
def storeWord (w fi a : Nat) (v : W32) (p : BitVec 8) (s : State) : State :=
  let bs := if p = 0 then leBytes 4 v.toNat else (List.range 4).map fun i => Config.freeByte s.free (a + i)
  fmStore w fi a bs [p] s

/-- A tick-critical value was computed from poisoned data (R29, R187). -/
def notePoison (x : MoveCtx) (p : BitVec 8) (s : State) : State :=
  if x.cls == .tickCritical then setTick (fun k => { k with poison := k.poison ||| p }) s else s

/-- The issued move that an execution on an engine belongs to: of that engine, with its `move_id`, and started. -/
def issuedRun (s : State) (engine : Nat) (x : MoveCtx) : Option Flying :=
  s.seq.flying.find? fun m => m.engine == engine && m.mv.moveId == x.mid && m.started.isSome

/-- The stream count of an execution: the one that its move's issue took (R148). -/
def streamAt (s : State) (engine : Nat) (x : MoveCtx) : BitVec 48 :=
  match issuedRun s engine x with | some m => m.streamC | none => x.streamC

/-! ## Arithmetic exceptions (R151) -/

/-- Count a list of exceptions in a field's counters. -/
def countAx (f : Nat) (fs : List AxFlag) (s : State) : State :=
  bumpBy (cAxOvf f) (fs.filter (· == .ovf)).length
    (bumpBy (cAxNan f) (fs.filter (· == .nanDrop)).length
      (bumpBy (cAxSat f) (fs.filter (· == .sat)).length s))

/-! ## The output stage from step 3 on (Table 05-6) -/

/-- The exact 1.0 that skips step 3. -/
def one32 : F32 := 0x3F800000

/-- Step 3: the scaled value and whether it overflowed from finite inputs. -/
def scaleOut (scale : F32) (v : W32) : W32 × Bool :=
  if scale = one32 then (v, false)
  else
    let r := f32mul v scale
    (r, f32isInf r && f32finite v && f32finite scale)

/-- Larger of two amax words: a NaN presented makes it NaN (R146). -/
def amaxJoin (a v : W32) : W32 := if f32isNan a || f32isNan v then nan32 else if f32lt a (f32abs v) then f32abs v else a

/-- Steps 5 and 6 for one row of presented values with their dice values: the codes, padded to whole blocks for an MX target, the
scale bytes, and what each conversion counts. -/
def convRow (f : Fmt) (mode : Rnd) (sat : Bool) (vs : List (W32 × Nat)) : List Nat × List Nat × List AxFlag :=
  if fmtMx f then
    let blocks := (List.range ((vs.length + 31) / 32)).map fun b =>
      mxEncode f mode (((vs.drop (32 * b)).take 32).map fun v => (dec32 v.1, v.2))
    let codes := blocks.flatMap fun b => b.2 ++ List.replicate (32 - b.2.length) 0
    (codes, blocks.map Prod.fst, vs.map fun _ => .none)
  else
    let r := vs.map fun v => convElem f mode sat v.2 (dec32 v.1)
    (r.map Prod.fst, [], r.map Prod.snd)

/-! ## Rewriting corrected groups (R185) -/

/-- A DMA port of a field owns the bank of an address now, which is what a service slot is for (R178, R185). -/
def dmaPortOwns (s : State) (f a : Nat) : Bool :=
  let o := tabGet 0x1F s.seq.owner (32 * f + bankOf a)
  o == 0x15 || o == 0x16

/-- DMA port 1 of a field owns the bank of an address now (R181). -/
def port1Owns (s : State) (f a : Nat) : Bool := tabGet 0x1F s.seq.owner (32 * f + bankOf a) == 0x16

/-- FM_CE_REWRITE: the firmware reads and writes the oldest group that `fm_ce_addr` has named and whose bank a DMA port of the field owns. A
group that has been written since is correct and stays; one that reads with a double-bit error is written back as the poison that the read
returned (R184 to R186). -/
def fmCeRewrite (f : Nat) (s : State) : State :=
  if computeDown s then s
  else match (tabGet [] s.fm.rewrite f).find? fun a => dmaPortOwns s f a && bankOn s f a with
  | none => s
  | some a =>
    let left := (tabGet [] s.fm.rewrite f).erase a
    let p := fmPoisonAt s f a
    let s1 := if tabGet 0 s.fm.flips (fmGroup f a) = 0 then s
      else fmPutGroup f a (freePoisoned s.free a (fmBytes s f a 8) [p]) p (fmCheckGroup f s (a / 8))
    draw (setFm (fun m => { m with rewrite := if left.isEmpty then tabDel m.rewrite f else tabSet m.rewrite f left }) s1)

def execFmCeRewrite (field : Nat) (s : State) : Result := .next (fmCeRewrite field s)

end Sys2Proof.Machine
end

