-- ==== Sys2Proof/Machine/Arrays.lean ====
section
/-! DEFINITION. The arrays (chapter 06): units and group units, operand pairs, tiles, chunked accumulation, the merge over a column
chain, the output stage, and the five array moves. -/

namespace Sys2Proof.Machine

/-! ## Units (R50 to R52, R213) -/

/-- The grid of arrays that a unit flattens to: rows, columns, arrays in row-major order. `fuel` bounds the nesting, which a verified
list never exceeds (R51). -/
def gridOf : Nat → List GroupDef → Nat → Nat × Nat × List Nat
  | 0, _, _ => (0, 0, [])
  | fuel + 1, gs, u =>
    if u < 256 then (1, 1, [u])
    else match gs[u - 256]? with
    | none => (0, 0, [])
    | some g =>
      let ms := g.members.map fun m => gridOf fuel gs m
      let (mr, mc, _) := nth ms 0 (0, 0, [])
      if mr = 0 ∨ mc = 0 then (0, 0, [])
      else
        let at_ (i j : Nat) : Nat := nth (nth ms (i / mr * g.gc + j / mc) (0, 0, [])).2.2 (i % mr * mc + j % mc) 0
        (g.gr * mr, g.gc * mc,
          (List.range (g.gr * mr)).flatMap fun i => (List.range (g.gc * mc)).map fun j => at_ i j)

/-- The grid of a unit of the running list. -/
def unitGrid (s : State) (u : Nat) : Nat × Nat × List Nat :=
  match s.seq.active with
  | some l => gridOf (l.groups.length + 1) l.groups u
  | none => gridOf 1 [] u

/-- Every array of the unit is present, and the compute die runs. -/
def unitLive (s : State) (as : List Nat) : Bool :=
  !computeDown s && !as.isEmpty && as.all fun a => decide (a < nArrays s.part)

/-- State of an array. -/
def arrOf (s : State) (a : Nat) : Arr := tabGet {} s.fm.arrs a

/-- Change an array. -/
def setArr (a : Nat) (f : Arr → Arr) (s : State) : State :=
  setFm (fun m => { m with arrs := tabSet m.arrs a (f (tabGet {} m.arrs a)) }) s

/-- A half of an array. -/
def halfOf (x : Arr) (h : Bool) : Half := if h then x.h1 else x.h0

/-- Put a half back. -/
def setHalf (h : Bool) (v : Half) (x : Arr) : Arr := if h then { x with h1 := v } else { x with h0 := v }

/-! ## Operand pairs (Tables 05-5, 06-2) -/

/-- Kinds of operand formats in Table 05-5. -/
inductive FmtKind where
  | int8 | int4 | fp8 | fp4 | mx8 | mxi8 | mx4 | half | other
  deriving DecidableEq, Repr

/-- Kind of a format. -/
def fmtKind : Fmt → FmtKind
  | .int8 => .int8 | .int4 => .int4 | .e4m3 => .fp8 | .e5m2 => .fp8 | .e2m1 => .fp4 | .mxfp8e4m3 => .mx8 | .mxfp8e5m2 => .mx8
  | .mxint8 => .mxi8 | .mxfp4 => .mx4 | .bf16 => .half | .fp16 => .half | .fp32 => .other | .int32 => .other

/-- Accumulator type, chunk length D and beat b of a pair in either order; none for a pair that is not in the table. -/
def pairOf (x y : Fmt) : Option (AccTy × Nat × Nat) :=
  let one (a b : FmtKind) : Option (AccTy × Nat × Nat) := match a, b with
    | .int8, .int8 => some (.int32, 16, 1)
    | .int8, .int4 => some (.int32, 16, 1)
    | .int4, .int4 => some (.int32, 32, 1)
    | .fp8, .fp8 => some (.fp32, 16, 1)
    | .fp4, .fp8 => some (.fp32, 16, 1)
    | .fp4, .fp4 => some (.fp32, 32, 1)
    | .mx8, .mx8 => some (.fp32, 32, 2)
    | .mx8, .mx4 => some (.fp32, 32, 2)
    | .mxi8, .mxi8 => some (.fp32, 32, 2)
    | .mx4, .mx4 => some (.fp32, 32, 1)
    | .half, .half => some (.fp32, 16, 4)
    | .half, .fp8 => some (.fp32, 16, 4)
    | .half, .fp4 => some (.fp32, 16, 4)
    | .half, .mx8 => some (.fp32, 32, 8)
    | .half, .mxi8 => some (.fp32, 32, 8)
    | .half, .mx4 => some (.fp32, 32, 8)
    | _, _ => none
  (one (fmtKind x) (fmtKind y)) <|> (one (fmtKind y) (fmtKind x))

/-! ## Tiles (R153; the order of a group unit's tiles is log 28) -/

/-- Bytes of one tile of an array, without scales. -/
def tileBytes (w : Fmt) (d : Nat) : Nat := elemBytes w (d * 16)

/-- Bytes that a tile occupies, with the 16 scale bytes of each MX block row (R153). -/
def tileWhole (w : Fmt) (d : Nat) : Nat := tileBytes w d + (if fmtMx w then d / 32 * 16 else 0)

/-- Field of an array. -/
def fieldOf (a : Nat) : Nat := a / 16

/-- Address of tile t for grid position (i, j) of a gr × gc unit: a group's tile holds its members' tiles in row-major order, and tiles lie at
the distance of a tile's whole bytes rounded up to 32 (R153, Table 06-4). -/
def tileAddr (o : ArrOpnd) (d gr gc t i j : Nat) : Nat :=
  o.wAddr + ((t * gr + i) * gc + j) * roundUp (tileWhole o.wFmt d) 32

/-- Address of the tile's 16 scale bytes, one per output column (MX tiles have D = 32, one block per column). -/
def tileScAddr (o : ArrOpnd) (gr gc t i j : Nat) : Nat := o.wSc + ((t * gr + i) * gc + j) * 16

/-- A tile as memory holds it: element bytes, then scale bytes of an MX tile. -/
def tileRead (s : State) (o : ArrOpnd) (f d gr gc t i j : Nat) : List Byte :=
  fmBytes s f (tileAddr o d gr gc t i j) (tileBytes o.wFmt d) ++
  (if fmtMx o.wFmt then fmBytes s f (tileScAddr o gr gc t i j) 16 else [])

/-- Poison bits of a tile and its scales. -/
def tilePoison (s : State) (o : ArrOpnd) (f d gr gc t i j : Nat) : BitVec 8 :=
  fmPoisonOf s f (tileAddr o d gr gc t i j) (tileBytes o.wFmt d) |||
  (if fmtMx o.wFmt then fmPoisonOf s f (tileScAddr o gr gc t i j) 16 else 0)

/-- The counting side of loading a tile. -/
def tileScan (o : ArrOpnd) (f d gr gc t i j : Nat) (s : State) : State :=
  let s1 := fmScan 32 f (tileAddr o d gr gc t i j) (tileBytes o.wFmt d) s
  if fmtMx o.wFmt then fmScan 32 f (tileScAddr o gr gc t i j) 16 s1 else s1

/-- Load tile t into the register that it alternates to. -/
def tileLoad (o : ArrOpnd) (gr gc d : Nat) (a t i j : Nat) (s : State) : State :=
  let f := fieldOf a
  let b := tileRead s o f d gr gc t i j
  let p := tilePoison s o f d gr gc t i j
  setArr a (fun x => { x with
    trValid := true
    tr := setNth ((x.tr ++ [[], []]).take 2) (t % 2) b
    trPoison := (if t = 0 then 0 else x.trPoison) ||| p }) (tileScan o f d gr gc t i j s)

/-- Element (k, n) of a tile: memory row k holds 16 elements for MM; memory row n holds D elements for MMT. -/
def tileCode (w : Fmt) (trans : Bool) (d : Nat) (tile : List Byte) (k n : Nat) : Nat :=
  codeOf w tile (if trans then n * d + k else k * 16 + n)

/-- Scale byte of column n of a tile (127, that is 1, for a format without scales; R138). -/
def tileScale (w : Fmt) (d : Nat) (tile : List Byte) (n : Nat) : Nat :=
  if fmtMx w then (nth tile (tileBytes w d + n) 0).toNat else 127

/-! ## Accumulation (R138 to R140) -/

/-- An INT32 word saturates; whether it did. -/
def satInt (x : Int) : W32 × Bool :=
  if x < -2147483648 then (0x80000000, true) else if 2147483647 < x then (0x7FFFFFFF, true) else (BitVec.ofInt 32 x, false)

/-- One add to an accumulator: the new word and what it counts. -/
def accAdd (ty : AccTy) (acc v : W32) : W32 × Bool :=
  match ty with
  | .int32 => satInt (acc.toInt + v.toInt)
  | .fp32 => let r := f32add acc v; (r, f32isInf r && f32finite acc && f32finite v)

/-- Exact sum of products of one chunk, both operands without their scales. -/
def chunkSum : List (Fp × Fp) → Fp
  | [] => .fin false 0 0
  | (a, b) :: t => fpAdd (fpMul a b) (chunkSum t)

/-- Input operand of one row: code and scale byte of element k. -/
def inCode (s : State) (o : ArrOpnd) (f r k : Nat) : Nat := elemCode s f o.inFmt (o.inAddr + r * 32 * o.inStride) k
def inScale (s : State) (o : ArrOpnd) (f r k : Nat) : Nat :=
  if fmtMx o.inFmt then (fmByte s f (o.inSc + r * ((o.kLen + 31) / 32) + k / 32)).toNat else 127

/-- Sum of one chunk, rounded once to FP32 or exact in INT32 (R139, R140). `k0` is its first reduction index. -/
def chunkWord (s : State) (o : ArrOpnd) (ty : AccTy) (d f r k0 n : Nat) (trans : Bool) (tile : List Byte) : W32 × Bool :=
  let ks := (List.range d).filter fun i => decide (k0 + i < o.kLen)
  let xa := inScale s o f r k0
  let xb := tileScale o.wFmt d tile n
  let v : Fp := if ks.isEmpty then .fin false 0 0 else if xa = 255 ∨ xb = 255 then .nan else
    fpScale ((xa : Int) + xb - 254)
      (chunkSum (ks.map fun i => (decElem o.inFmt (inCode s o f r (k0 + i)), decElem o.wFmt (tileCode o.wFmt trans d tile i n))))
  match ty with
  | .fp32 => let w := enc32 v; (w, f32isInf w && fpFinite v)
  | .int32 => (BitVec.ofInt 32 (fpRoundInt v), false)

/-- One output value of one array over all tiles: the accumulator after them and whether it saturated or overflowed. `tiles` pairs the
tile number with its bytes. -/
def accumulate (s : State) (o : ArrOpnd) (ty : AccTy) (d gr i f r n : Nat) (trans : Bool) :
    List (Nat × List Byte) → W32 × Bool → W32 × Bool
  | [], acc => acc
  | (t, tile) :: rest, (acc, hit) =>
    let c := chunkWord s o ty d f r ((t * gr + i) * d) n trans tile
    let a := accAdd ty acc c.1
    accumulate s o ty d gr i f r n trans rest (a.1, hit || c.2 || a.2)

/-! ## Residue mismatches (R165) -/

/-- Output e of a move of `tot` outputs is affected by a mismatch in grid row i's array. -/
def residAt (x : MoveCtx) (tot i e : Nat) : Bool := x.resid.contains (i * tot + e)

/-- Output e is affected by a mismatch in some array of its grid column. -/
def residHit (x : MoveCtx) (gr tot e : Nat) : Bool := (List.range gr).any fun i => residAt x tot i e

/-- Each mismatch adds one to `arr_err` of the array that found it. -/
def residCount (gr gc m : Nat) (as : List Nat) (x : MoveCtx) (s : State) : State :=
  let cols := 16 * gc
  (x.resid.filter fun v => decide (v < gr * (m * cols))).foldl (fun t v =>
    bump (cArrErr (nth as (v / (m * cols) * gc + v % cols / 16) 0)) t) s

/-! ## The output stage of a unit (Table 05-6, R146, R162 to R164) -/

/-- Value and poison bits of an accumulator after the merge of its grid column, from grid row 0 on (R162). -/
def mergeCol (s : State) (h : Bool) (ty : AccTy) (as : List Nat) (idx : Nat) : W32 × BitVec 8 × Bool :=
  as.foldl (fun (acc : Option (W32 × BitVec 8 × Bool)) a =>
    let x := halfOf (arrOf s a) h
    let v := tabGet 0 x.vals idx
    let p := tabGet 0 x.poison idx ||| (if x.valid then 0 else 1)
    match acc with
    | none => some (v, p, false)
    | some (w, q, b) => let r := accAdd ty w v; some (r.1, q ||| p, b || r.2)) none |>.getD (0, 0, false)

/-- What step 5 of the output stage is given, or the final code of step 1: a code, or a value with its overflow. -/
inductive OutVal where
  | code (c : Nat) (f : AxFlag)
  | val (v : W32) (ovf : Bool)
  deriving DecidableEq, Repr

/-- Steps 1 to 3 for one accumulator word. -/
def outVal (ty : AccTy) (out : Fmt) (scale : F32) (w : W32) : OutVal :=
  match ty with
  | .int32 =>
    if fmtInt out && scale == one32 then
      let r := convInt (fmtBits out) 0 .nearest 0 (fpOfInt w.toInt 0)
      .code r.1 r.2
    else let r := scaleOut scale (f32ofInt w.toInt); .val r.1 r.2
  | .fp32 => let r := scaleOut scale w; .val r.1 r.2

/-- Run the output stage over rows 0 to m − 1 of one half of a unit: codes, scales, amax, poison, exceptions (Table 05-6). `before` says of
an output that its accumulation already saturated or overflowed in this move; each output counts once (R151). The one amax word of a unit
that spans several fields goes to the field of the last array of grid column 0, which no rule says (DESIGN CHOICE, log 88). -/
def outStage (unit gr gc : Nat) (as : List Nat) (ty : AccTy) (before : Nat → Bool) (o : ArrOpnd) (x : MoveCtx) (s0 : State) : State :=
  let cols := 16 * gc
  let count := streamAt s0 unit x
  let colArrs (j : Nat) : List Nat := (List.range gr).map fun i => nth as (i * gc + j) 0
  let last (j : Nat) : Nat := nth as ((gr - 1) * gc + j) 0
  let lastField (j : Nat) : Nat := fieldOf (last (min j (gc - 1)))
  let rows := (List.range o.m).map fun r => (List.range cols).map fun c =>
    let (w, p, hit) := mergeCol s0 o.half ty (colArrs (c / 16)) (16 * r + c % 16)
    let e := r * cols + c
    let p := if residHit x gr (o.m * cols) e then p ||| 1 else p
    (outVal ty o.outFmt o.outScale w, p, hit || before e, dice s0.seq.seed o.stream count e, e)
  let present := rows.flatMap fun row => row.filterMap fun v => match v.1 with | .val w _ => some w | _ => none
  let allPoison := rows.foldl (fun a row => row.foldl (fun b v => b ||| v.2.1) a) (0 : BitVec 8)
  let amax := if present.isEmpty then Config.freeW32 s0.free 0 else present.foldl amaxJoin 0
  let rowStep (t : State) (rr : Nat × List (OutVal × BitVec 8 × Bool × Nat × Nat)) : State :=
    let (r, row) := rr
    let vals := row.map fun v => match v.1 with | .val w _ => (w, v.2.2.2.1) | .code _ _ => (0, 0)
    let conv := convRow o.outFmt o.mode o.sat vals
    let codes := if fmtMx o.outFmt then conv.1 else (List.range row.length).map fun c =>
      match (nth row c (.code 0 .none, 0, false, 0, 0)).1 with | .code k _ => k | .val _ _ => nth conv.1 c 0
    let ps := row.map fun v => v.2.1
    let psP := ps ++ List.replicate (codes.length - ps.length) (ps.getLastD 0)
    let t1 := (List.range ((codes.length + 15) / 16)).foldl (fun u j =>
      storeCodes 32 (lastField j) o.outFmt (o.outAddr + r * 32 * o.outStride + elemBytes o.outFmt (16 * j))
        ((codes.drop (16 * j)).take 16) ((psP.drop (16 * j)).take 16) u) t
    (List.range gc).foldl (fun u j =>
      let mine := (List.range 16).map fun c => nth row (16 * j + c) (.code 0 .none, 0, false, 0, 0)
      let flags := (List.range 16).map fun c =>
        let v := nth mine c (.code 0 .none, 0, false, 0, 0)
        if v.2.2.1 then (if ty == .fp32 then AxFlag.ovf else AxFlag.none)
        else match v.1 with
          | .code _ f => f
          | .val _ true => .ovf
          | .val _ false => nth conv.2.2 (16 * j + c) .none
      let sats := (mine.filter fun v => v.2.2.1 && ty == .int32).length
      bumpBy (cAxAcc (lastField j)) sats (countAx (lastField j) flags u)) t1
  let s1 := ((List.range o.m).zip rows).foldl rowStep s0
  let s2 := if fmtMx o.outFmt then
      let nb := (cols + 31) / 32
      let scs := rows.flatMap fun row => (convRow o.outFmt o.mode o.sat (row.map fun v =>
        match v.1 with | .val w _ => (w, v.2.2.2.1) | .code _ _ => (0, 0))).2.1
      let pss := rows.flatMap fun row => (List.range nb).map fun b =>
        ((row.drop (32 * b)).take 32).foldl (fun a v => a ||| v.2.1) (0 : BitVec 8)
      let fields := ((List.range gc).map fun j => lastField j).eraseDups
      fields.foldl (fun t f => storeCodes 32 f .int8 o.outSc scs pss t) s1
    else s1
  let s3 := if o.amaxEn then storeWord 32 (lastField 0) o.amaxAddr amax allPoison s2 else s2
  draw (notePoison x allPoison (residCount gr gc o.m as x s3))

/-! ## The moves (Table 06-3) -/

/-- Pieces of an input row that grid row i takes, as (first element, elements): its own reduction indices of each tile; one array's are the
whole row (R141, R161; log 80). -/
def inPieces (o : ArrOpnd) (d gr i : Nat) : List (Nat × Nat) :=
  if gr = 1 then [(0, o.kLen)]
  else (List.range ((o.kLen + gr * d - 1) / (gr * d))).filterMap fun t =>
    let k0 := (t * gr + i) * d
    if k0 < o.kLen then some (k0, min d (o.kLen - k0)) else none

/-- Byte ranges of input row r that grid row i takes: elements, and scales. -/
def inRanges (o : ArrOpnd) (d gr i r : Nat) : List (Nat × Nat) × List (Nat × Nat) :=
  let ps := inPieces o d gr i
  (ps.map fun p => (o.inAddr + r * 32 * o.inStride + elemBytes o.inFmt p.1, elemBytes o.inFmt p.2),
   if fmtMx o.inFmt then ps.map fun p => (o.inSc + r * ((o.kLen + 31) / 32) + p.1 / 32, (p.2 + 31) / 32) else [])

/-- Fields that a grid row spans: each holds a copy of the input (R161). -/
def rowFields (gc : Nat) (as : List Nat) (i : Nat) : List Nat := ((List.range gc).map fun j => fieldOf (nth as (i * gc + j) 0)).eraseDups

/-- The counting side of the input rows, read through the lowest-numbered array of each grid row in each field (R161). -/
def inScan (o : ArrOpnd) (d gr gc : Nat) (as : List Nat) (s : State) : State :=
  (List.range gr).foldl (fun t i => (rowFields gc as i).foldl (fun u f => (List.range o.m).foldl (fun v r =>
    let rs := inRanges o d gr i r
    (rs.1 ++ rs.2).foldl (fun w p => fmScan 32 f p.1 p.2 w) v) u) t) s

/-- Poison bits of some ranges of a field. -/
def rangesPoison (s : State) (f : Nat) (rs : List (Nat × Nat)) : BitVec 8 := rs.foldl (fun a p => a ||| fmPoisonOf s f p.1 p.2) 0

/-- Poison bits of input row r: a marked group of it in any field marks every output of the row (Table 07-3). -/
def inPoison (s : State) (o : ArrOpnd) (d gr gc : Nat) (as : List Nat) (r : Nat) : BitVec 8 :=
  (List.range gr).foldl (fun a i => (rowFields gc as i).foldl (fun b f => b ||| rangesPoison s f (inRanges o d gr i r).1) a) 0

/-- Poison bits of the input's scale vector: they mark every output of the move (Table 07-3). -/
def inScPoison (s : State) (o : ArrOpnd) (d gr gc : Nat) (as : List Nat) : BitVec 8 :=
  (List.range gr).foldl (fun a i => (rowFields gc as i).foldl (fun b f =>
    (List.range o.m).foldl (fun c r => c ||| rangesPoison s f (inRanges o d gr i r).2) b) a) 0

/-- MM and MMT on a unit (R139 to R141, R153, R156 to R165). -/
def matMove (trans : Bool) (unit : Nat) (o : ArrOpnd) (x : MoveCtx) (s : State) : State :=
  let (gr, gc, as) := unitGrid s unit
  match pairOf o.inFmt o.wFmt with
  | none => s
  | some (ty, d, _) =>
    if !unitLive s as then s
    else
      let nt := (o.kLen + gr * d - 1) / (gr * d)
      let tot := o.m * (16 * gc)
      let resident := o.keep && as.all fun a => (arrOf s a).trValid
      let pos := (List.range gr).flatMap fun i => (List.range gc).map fun j => (i, j, nth as (i * gc + j) 0)
      -- tiles and their poison, as they are when the move streams
      let tilesOf (i j a : Nat) : List (Nat × List Byte) := (List.range nt).map fun t =>
        (t, if resident then nth (arrOf s a).tr (t % 2) [] else tileRead s o (fieldOf a) d gr gc t i j)
      let wPoison := pos.foldl (fun p q =>
        let (i, j, a) := q
        if resident then p ||| (arrOf s a).trPoison
        else (List.range nt).foldl (fun p t => p ||| tilePoison s o (fieldOf a) d gr gc t i j) p) (0 : BitVec 8)
      let accPoison := if o.acc then pos.foldl (fun p q =>
          let h := halfOf (arrOf s q.2.2) o.half
          (List.range (16 * o.m)).foldl (fun p k => p ||| tabGet 0 h.poison k) (p ||| (if h.valid then 0 else 1))) (0 : BitVec 8)
        else 0
      let all := wPoison ||| accPoison ||| inScPoison s o d gr gc as
      let rowP := (List.range o.m).map fun r => all ||| inPoison s o d gr gc as r
      let half (i j a : Nat) : Half × List Bool :=
        let old := halfOf (arrOf s a) o.half
        let res := (List.range (16 * o.m)).map fun idx =>
          accumulate s o ty d gr i (fieldOf a) (idx / 16) (idx % 16) trans (tilesOf i j a)
            (if o.acc then tabGet 0 old.vals idx else 0, false)
        let ps := (List.range (16 * o.m)).map fun idx =>
          let e := (idx / 16) * (16 * gc) + 16 * j + idx % 16
          nth rowP (idx / 16) 0 ||| (if residAt x tot i e then 1 else 0)
        let keepOld {α : Type} (t : Tab α) : Tab α := if o.acc then t.filter fun e => decide (16 * o.m ≤ e.1) else []
        ({ ty := ty
           valid := old.valid || !o.acc
           vals := ((List.range (16 * o.m)).zip (res.map Prod.fst)) ++ keepOld old.vals
           poison := (((List.range (16 * o.m)).zip ps).filter fun e => e.2 != 0) ++ keepOld old.poison }, res.map Prod.snd)
      let news := pos.map fun q => (q, half q.1 q.2.1 q.2.2)
      -- outputs whose accumulation saturated or overflowed in some array of their grid column
      let hits := (List.range gc).map fun j => (List.range (16 * o.m)).map fun idx =>
        news.any fun n => n.1.2.1 == j && nth n.2.2 idx false
      let s1 := inScan o d gr gc as s
      let s2 := if resident then s1 else
        pos.foldl (fun t q => (List.range nt).foldl (fun u k => tileLoad o gr gc d q.2.2 k q.1 q.2.1 u) t) s1
      let s3 := news.foldl (fun t n => setArr n.1.2.2 (setHalf o.half n.2.1) t) s2
      if o.drain then
        outStage unit gr gc as ty (fun e => nth (nth hits (e % (16 * gc) / 16) []) (e / (16 * gc) * 16 + e % 16) false) o x s3
      else
        let s4 := (List.range gc).foldl (fun t j =>
          let f := fieldOf (nth as ((gr - 1) * gc + j) 0)
          let k := ((nth hits j []).filter (· == true)).length
          match ty with
          | .fp32 => bumpBy (cAxOvf f) k t
          | .int32 => bumpBy (cAxAcc f) k t) s3
        residCount gr gc o.m as x s4

def execMm (unit : Nat) (o : ArrOpnd) (x : MoveCtx) (s : State) : Result := .next (matMove false unit o x s)
def execMmt (unit : Nat) (o : ArrOpnd) (x : MoveCtx) (s : State) : Result := .next (matMove true unit o x s)

/-- TLOAD: ceil(k_len / D) tiles, one or two, into TR0 and then TR1 (R545). -/
def tloadMove (unit : Nat) (o : ArrOpnd) (s : State) : State :=
  let (gr, gc, as) := unitGrid s unit
  match pairOf o.inFmt o.wFmt with
  | none => s
  | some (_, d, _) =>
    if !unitLive s as then s
    else
      let nt := min 2 ((o.kLen + gr * d - 1) / (gr * d))
      (List.range (gr * gc)).foldl (fun t k =>
        (List.range nt).foldl (fun u j => tileLoad o gr gc d (nth as k 0) j (k / gc) (k % gc) u) t) s

def execTload (unit : Nat) (o : ArrOpnd) (x : MoveCtx) (s : State) : Result :=
  let _ := x
  .next (tloadMove unit o s)

/-- DRAIN: the output stage over rows 0 to m − 1 without computing (R545). -/
def drainMove (unit : Nat) (o : ArrOpnd) (x : MoveCtx) (s : State) : State :=
  let (gr, gc, as) := unitGrid s unit
  if !unitLive s as then s
  else outStage unit gr gc as (halfOf (arrOf s (nth as ((gr - 1) * gc) 0)) o.half).ty (fun _ => false) o x s

def execDrain (unit : Nat) (o : ArrOpnd) (x : MoveCtx) (s : State) : Result := .next (drainMove unit o x s)

/-- AZERO: the half is cleared, valid, and of the given type (Table 06-3, R158). -/
def azeroMove (unit : Nat) (h : Bool) (ty : AccTy) (s : State) : State :=
  let as := (unitGrid s unit).2.2
  if !unitLive s as then s
  else as.foldl (fun t a => setArr a (setHalf h { ty := ty, valid := true, vals := [], poison := [] }) t) s

def execAzero (unit : Nat) (half : Bool) (ty : AccTy) (s : State) : Result := .next (azeroMove unit half ty s)

end Sys2Proof.Machine
end

