-- ==== Sys2Proof/Machine/Mailbox.lean ====
section
/-! DEFINITION. The mailbox (chapter 16): how a command slot is taken, checked, completed and posted; resets of the two dies
(Table 19-1), which DEV_RESET asks for; and the service commands of group 0x00. -/

namespace Sys2Proof.Machine

/-! ## Completions -/

/-- Status codes of Table 16-10. -/
def statusCode : Status → Nat
  | .ok => 0x0000 | .accepted => 0x0001 | .badOpcode => 0x0100 | .badParam => 0x0101 | .badLength => 0x0102
  | .notReady => 0x0200 | .busy => 0x0201 | .refused => 0x0300 | .locked => 0x0301 | .protected_ => 0x0302
  | .poolFull => 0x0400 | .holesPresent => 0x0401 | .lengthLimit => 0x0402 | .formatUnsupported => 0x0403
  | .applyReject => 0x0500 | .imageReject => 0x0600 | .signatureFail => 0x0601 | .rollback => 0x0602
  | .noPlacement => 0x0700 | .linkDown => 0x0900 | .internal => 0xFFFF

/-- A command's completion becomes due (R438). -/
def complete (op : Nat) (c : Cmd) (st : Status) (detail data respLen : Nat) (s : State) : State :=
  let e : Completion :=
    { slot := c.slot % 64
      cookie := c.cookie
      opcode := op
      quiet := c.quiet
      status := st
      detail := detail
      data := BitVec.ofNat 256 data
      respLen := respLen }
  setMbx (fun m => { m with due := m.due ++ [e] }) s

/-- Completion with OK and 32 bytes of data or less (R437). -/
def completeOk (op : Nat) (c : Cmd) (data : Nat) (s : State) : State := complete op c .ok 0 data 0 s

/-- Completion of a command that fails and changes nothing (R446). -/
def fail (op : Nat) (c : Cmd) (st : Status) (s : State) : State := complete op c st 0 0 0 s

/-- Completion with OK and a result in the slot's response buffer (R437). -/
def respond (op : Nat) (c : Cmd) (bs : List Byte) (data : Nat) (s : State) : State :=
  complete op c .ok 0 data bs.length (setMbx (fun m => { m with
    resp := tabSet m.resp (c.slot % 64) bs
    respOpen := m.respOpen &&& ~~~(1#64 <<< (c.slot % 64)) }) s)

/-- The command waits in flight for what its chapter names (R440, R442). -/
def waitFor (op : Nat) (c : Cmd) (a : PendAct) (s : State) : State :=
  setMbx (fun m => { m with waits := m.waits ++ [{ cmd := c, opcode := op, act := a }] }) s

/-- A wait of a kind is in flight. -/
def waiting (s : State) (p : PendAct → Bool) : Bool := s.mbx.waits.any fun w => p w.act

/-- The waits of a kind complete, in the order in which they were started. -/
def finish (p : PendAct → Bool) (st : Status) (data : Nat) (s : State) : State :=
  let ws := s.mbx.waits.filter fun w => p w.act
  let s1 := setMbx (fun m => { m with waits := m.waits.filter fun w => !p w.act }) s
  ws.foldl (fun t w => complete w.opcode w.cmd st 0 data 0 t) s1

/-- The first wait of a kind completes. -/
def finishFirst (p : PendAct → Bool) (st : Status) (data : Nat) (s : State) : State :=
  match s.mbx.waits.find? fun w => p w.act with
  | none => s
  | some w => complete w.opcode w.cmd st 0 data 0 (setMbx (fun m => { m with waits := m.waits.erase w }) s)

/-! ## Taking a slot -/

/-- Opcodes of Table 16-9 that the firmware serves. -/
def opcodes : List Nat :=
  [0x0001, 0x0002, 0x0003, 0x0004, 0x0005, 0x0006, 0x0101, 0x0102, 0x0103, 0x0104, 0x0105, 0x0110, 0x0111, 0x0112, 0x0113,
   0x0201, 0x0202, 0x0203, 0x0204, 0x0205, 0x0206, 0x0301, 0x0302, 0x0303, 0x0304, 0x0305, 0x0306, 0x0307, 0x0308, 0x0309,
   0x030A, 0x030B, 0x030C, 0x030D, 0x030E, 0x030F, 0x0310, 0x0311, 0x0401, 0x0402, 0x0403, 0x0404, 0x0405, 0x0406, 0x0407,
   0x0408, 0x0409, 0x040A, 0x040B, 0x040C, 0x0501, 0x0502, 0x0503, 0x0504, 0x0505, 0x0506, 0x0510, 0x0511, 0x0512, 0x0601,
   0x0602, 0x0603, 0x0604, 0x0605, 0x0606, 0x0607, 0x0608, 0x0701, 0x0702, 0x0703, 0x0704, 0x0705, 0x0801, 0x0802, 0x0803,
   0x0804, 0x0805, 0x0806, 0x0807, 0x0808, 0x0901, 0x0902, 0x0A01, 0x0A02, 0x0A03, 0x0A04, 0x0A05, 0x0B01, 0x0B02, 0x0B03,
   0x0B04]

/-- The parameter bytes that a slot gives. -/
def paramBytes (c : Cmd) : List Byte := leBytes c.paramLen c.params.toNat

/-- The ordered checks of R441 after the opcode, 2 to 5; none when they pass. -/
def commandChecks (op : Nat) (c : Cmd) (s : State) : Option Status :=
  if 224 < c.paramLen then some .badLength
  else if c.crcEn && crc32c (paramBytes c) != c.pcrc then some .badParam
  else if op / 256 == 0x0A && !c.crcEn then some .badParam
  else if op / 256 != 0 && s.boot.stage != .ready then some .notReady
  else if op / 256 != 0 && s.mbx.hello.isNone then some .notReady
  else none

/-- Whether the device owns a slot (R433). -/
def owned (s : State) (n : Nat) : Bool := s.mbx.own.getLsbD n

/-- The slot passes to the device (R433), and its response buffer holds nothing of meaning until it is filled (R426, R437). The device has
read the slot by the end of this row: of the mixtures that a later write of the host may make (case HI-A) the model shows the one without
it, and the same of host memory that a command reads (HI-C) (DESIGN CHOICE, log 86). -/
def takeSlot (n : Nat) (s : State) : State :=
  setMbx (fun m => { m with own := m.own ||| (1#64 <<< n), respOpen := m.respOpen ||| (1#64 <<< n) }) s

/-- A poisoned TLP is reported through AER (R427). -/
def aerReport (s : State) : State := setMbx (fun m => { m with aer := m.aer + 1 }) s

/-- A command slot reaches the device: a doorbell for an owned slot is ignored and counted; otherwise the slot is taken, the
checks of R441 run, and the command's own part follows (R433, R441). In stage RESET the function does not answer. -/
def deliver (op : Nat) (body : Cmd → State → State) (c : Cmd) (s : State) : State :=
  if computeDown s then s
  else if owned s (c.slot % 64) then bump cMbxBadDb s
  else
    let s1 := takeSlot (c.slot % 64) s
    match commandChecks op c s1 with
    | some st => fail op c st s1
    | none => body c s1

/-! ## Posting completions (R436, R438) -/

/-- `cq_log2`, `cq_base`, `cq_index`, `cq_vec`, `cq_every` as latched (Table 16-5). -/
def cqField (s : State) (hi lo : Nat) : Nat := bitsN s.mbx.cq.toNat hi lo

/-- The completion ring is full (R438). -/
def cqFull (s : State) : Bool := (s.mbx.prod - s.mbx.cons).toNat == 2 ^ cqField s 3 0

/-- The 64 bytes of a completion entry (Table 16-6). -/
def entryBytes (tick : W64) (e : Completion) : List Byte :=
  leBytes 64 (pack [(32, 6, e.slot), (48, 16, e.opcode), (64, 16, statusCode e.status), (80, 16, e.detail),
    (104, 24, e.respLen), (128, 64, tick.toNat), (192, 64, e.cookie.toNat), (256, 256, e.data.toNat)])

/-- Post one completion: the entry, then the producer count, which returns the slot, then the message that is due; a HELLO that
completes with OK is in force from here (R438, R434, R443). -/
def postEntry (e : Completion) (s : State) : State :=
  let at_ := cqField s 255 192 + 64 * (s.mbx.prod.toNat % 2 ^ cqField s 3 0)
  let s1 := hostWrite at_ (entryBytes s.tick.no e) s
  let p := s.mbx.prod + 1
  let s2 := hostWrite (cqField s 191 128) (leBytes 4 p.toNat) s1
  let since := if e.quiet then s.mbx.since else s.mbx.since + 1
  let every := cqField s 95 88
  let due := !e.quiet && decide (every ≠ 0) && decide (every ≤ since)
  let s3 := setMbx (fun m => { m with
    prod := p
    since := if due then 0 else since
    own := m.own &&& ~~~(1#64 <<< e.slot)
    hello := if e.opcode = 1 ∧ e.status = .ok then some (e.data.setWidth 16) else m.hello }) s2
  if due then msixSend (cqField s 69 64) s3 else s3

/-- COMPLETION_POST: the first completion that is due is written once the ring is enabled and has room (R435, R438). -/
def completionPost (s : State) : State :=
  match s.mbx.due with
  | [] => s
  | e :: rest =>
    if cqEnable s && !cqFull s && !computeDown s then postEntry e (setMbx (fun m => { m with due := rest }) s) else s

def execCompletionPost (s : State) : Result := .next (completionPost s)

/-! ## Resets (R494, R447, R502) -/

/-- Counters that the front-end die keeps over a compute-die start (Table 20-9). -/
def feCounter (off : Nat) : Bool := decide (0x1C00 ≤ off ∧ off < 0x1E00)

/-- The compute die goes into reset: everything it holds is lost, and what the front-end die holds stays (R447, R502, R67). -/
def computeReset (src : ResetSrc) (s : State) : State :=
  { s with
    tick := { s.tick with
      spill := 240, commitOff := 120, pendTsq := none, atBoundary := false, holdover := false, good := 0, bad := 0, phase := 0
      phaseNew := 0, tickOut := none, trim := 0, realign := false, realignDue := false, force := false, committed := false, tcLast := none, poison := 0
      corr := [], corrAge := 0, holdLimit := 8, last := {}, lastOk := false
      stat := BitVec.ofNat 256 (2 ^ 134) }
    fe := { s.fe with pend := {}, delivered := [], lost := 0, stream := [], lateFine := [] }
    mbx := {}
    tring := {}
    rring := {}
    fring := {}
    smb := { s.smb with stage := 0 }
    seq := {}
    fm := {}
    dram := {}
    kv := {}
    watch := {}
    links := { ident := s.links.ident }
    bus := { s.bus with rs := none, commitOff := if s.boot.stage == .ready then s.tick.commitOff else s.bus.commitOff }
    trust := { s.trust with debug := false, spdm := [] }
    power := {}
    boot := { s.boot with
      stage := .reset, haltCause := 0, cores := 0, fwVer := 0, cause := src, lastWdt := none, staged := false
      policy := {}, winBase := [], winRises := [], winAge := 0, log := [] }
    ctr := s.ctr.filter fun e => feCounter e.1 }

/-! ## Service commands (Table 16-9) -/

/-- The firmware's protocol versions, highest first (R443). -/
def versions : List Nat := [0x0100]

/-- Data of a HELLO completion (Table 16-8). -/
def helloData (s : State) (chosen : Nat) : Nat :=
  pack [(0, 16, chosen), (32, 32, s.boot.fwVer.toNat), (64, 8, 1), (72, 8, orderCode s.part),
        (80, 8, stageCode s.boot.stage), (88, 8, 64), (96, 32, spreadVal s 3)]

/-- HELLO (R443, R500). -/
def bodyHello (c : Cmd) (s : State) : State :=
  if s.boot.stage = .rom ∨ s.boot.stage = .halted then fail 0x0001 c .busy s
  else
    let n := fld c 7 0 0
    if n = 0 ∨ 16 < n then fail 0x0001 c .badParam s
    else
      let offered := (List.range n).map fun k => fld c (16 * k + 31) (16 * k + 16) 0
      match versions.find? fun v => offered.contains v with
      | none => complete 0x0001 c .refused 0 (pack [(0, 8, 1), (16, 16, 0x0100)]) 0 s
      | some v =>
        let others := s.mbx.own &&& ~~~(1#64 <<< (c.slot % 64))
        if s.mbx.hello ≠ some (BitVec.ofNat 16 v) ∧ others ≠ 0 then fail 0x0001 c .busy s
        else completeOk 0x0001 c (helloData s v) s

/-- ECHO: the first 32 parameter bytes in `data` (Table 16-9). -/
def bodyEcho (c : Cmd) (s : State) : State := completeOk 0x0002 c (leNat ((paramBytes c).take 32)) s

/-- DEV_INFO: BAR0 0x0000 to 0x00FF in the response buffer (R527). -/
def bodyDevInfo (c : Cmd) (s : State) : State := respond 0x0003 c (bar0Bytes s 0 256) 0 s

/-- DEV_STATUS: BAR0 0x0100 to 0x01FF in the response buffer (R527). -/
def bodyDevStatus (c : Cmd) (s : State) : State := respond 0x0004 c (bar0Bytes s 0x100 256) 0 s

/-- CMD_INDEX: bit k of 8 KiB set when opcode k is supported (Table 16-9). -/
def bodyCmdIndex (c : Cmd) (s : State) : State := respond 0x0005 c (leBytes 8192 (listMask opcodes)) 0 s

def execHello (c : Cmd) (s : State) : Result := .next (deliver 0x0001 bodyHello c s)
def execEcho (c : Cmd) (s : State) : Result := .next (deliver 0x0002 bodyEcho c s)
def execDevInfo (c : Cmd) (s : State) : Result := .next (deliver 0x0003 bodyDevInfo c s)
def execDevStatus (c : Cmd) (s : State) : Result := .next (deliver 0x0004 bodyDevStatus c s)
def execCmdIndex (c : Cmd) (s : State) : Result := .next (deliver 0x0005 bodyCmdIndex c s)

/-! ## Registers of the completion ring -/

/-- Words 1 to 3 as staged, or as latched where nothing is staged (R524). -/
def cqWord (s : State) (k : Nat) : W64 :=
  match tabFind s.mbx.staged k with
  | some w => w
  | none => BitVec.ofNat 64 (s.mbx.cq.toNat >>> (64 * k))

/-- Merge the written half of a 64-bit register with the other half as it stands (R517; log 21). -/
def mergePart (p : WPart) (old v : W64) : W64 :=
  match p with
  | .both => v
  | .lo => (old &&& 0xFFFFFFFF00000000) ||| (v &&& 0xFFFFFFFF)
  | .hi => (old &&& 0xFFFFFFFF) ||| (v <<< 32)

/-- Defined bits of MBX_CQ (Table 16-5): the reserved ones read 0 (R4). -/
def cqMask : Nat :=
  pack [(0, 4, 0xF), (8, 1, 1), (64, 6, 0x3F), (72, 6, 0x3F), (88, 8, 0xFF), (128, 64, 2 ^ 64 - 1), (192, 64, 2 ^ 64 - 1)]

/-- The address and size checks of R435. -/
def cqValid (v : Nat) : Bool :=
  decide (6 ≤ bitsN v 3 0 ∧ bitsN v 3 0 ≤ 12) && bitsN v 255 192 % 4096 == 0 && bitsN v 191 128 % 8 == 0

/-- A write of MBX_CQ: words 1 to 3 are staged; word 0 applies R435 to all four (R435, R524). A write that fails leaves `enable`
at 0 and latches nothing else (log 22). -/
def mbxCqWrite (k : Nat) (p : WPart) (v : W64) (s : State) : State :=
  if computeDown s then s
  else
    let k := k % 4
    let w := mergePart p (cqWord s k) v
    if k ≠ 0 then setMbx (fun m => { m with staged := tabSet m.staged k w }) s
    else if s.mbx.own ≠ 0 then bump cMbxCqBusy s
    else
      let full := (w.toNat + (cqWord s 1).toNat * 2 ^ 64 + (cqWord s 2).toNat * 2 ^ 128 + (cqWord s 3).toNat * 2 ^ 192)
        &&& cqMask
      if full.testBit 8 then
        if cqValid full then
          hostWrite (bitsN full 191 128) (zeros 4)
            (setMbx (fun m => { m with cq := BitVec.ofNat 256 full, staged := [], prod := 0, cons := 0, since := 0 }) s)
        else bump cMbxCqBusy (setMbx (fun m => { m with cq := m.cq &&& ~~~(1#256 <<< 8) }) s)
      else setMbx (fun m => { m with cq := BitVec.ofNat 256 full, staged := [] }) s

def execMbxCq (word : Nat) (part : WPart) (v : W64) (s : State) : Result := .next (mbxCqWrite word part v s)

/-- MBX_CQ_CONS: the host's consumer count (R435). -/
def mbxCqCons (v : W32) (s : State) : State := if computeDown s then s else setMbx (fun m => { m with cons := v }) s

def execMbxCqCons (v : W32) (s : State) : Result := .next (mbxCqCons v s)

/-- A write of TRING_CONS, RRING_CONS or FRING_CONS (R40, R525). -/
def ringConsWrite (ring : RingId) (v : W32) (s : State) : State :=
  if computeDown s then s
  else match ring with
    | .tick => { s with tring := { s.tring with cons := v } }
    | .report => { s with rring := { s.rring with cons := v } }
    | .rx => { s with fring := { s.fring with cons := v } }

def execRingConsumerWrite (ring : RingId) (v : W32) (s : State) : Result := .next (ringConsWrite ring v s)

/-- WIN_BASE: bits [35:30] are held, every other bit is RSV (R428). -/
def winBaseWrite (p : WPart) (v : W64) (s : State) : State :=
  if computeDown s then s
  else setMbx (fun m => { m with winBase := mergePart p m.winBase v &&& 0xFC0000000 }) s

def execWinBase (part : WPart) (v : W64) (s : State) : Result := .next (winBaseWrite part v s)

/-- ERR_SUM: a write of 1 clears a bit (R520). -/
def errSumWrite (v : W32) (s : State) : State :=
  if computeDown s then s else setMbx (fun m => { m with errSum := m.errSum &&& ~~~v }) s

def execErrSum (v : W32) (s : State) : Result := .next (errSumWrite v s)

/-- INT_STATUS: a write of 1 clears a bit (R521). -/
def intStatusWrite (v : W32) (s : State) : State :=
  if computeDown s then s else setMbx (fun m => { m with intStatus := m.intStatus &&& ~~~v }) s

def execIntStatus (v : W32) (s : State) : Result := .next (intStatusWrite v s)

/-- INT_ENABLE: an enable bit that rises while its status bit is 1 sends one message on `evt_vec` while `MBX_CQ.enable` is 1
(R521). -/
def intEnableWrite (v : W32) (s : State) : State :=
  if computeDown s then s
  else
    let new := v &&& 0x3FF
    let rises := new &&& ~~~s.mbx.intEnable &&& s.mbx.intStatus
    let s1 := setMbx (fun m => { m with intEnable := new }) s
    if rises ≠ 0 ∧ cqEnable s then msixSend (evtVec s) s1 else s1

def execIntEnable (v : W32) (s : State) : Result := .next (intEnableWrite v s)

/-! ## Register accesses (R517 to R519) -/

/-- Whether an access of `size` bytes at `off` is one that BAR0 accepts (R517). -/
def accessOk (off size : Nat) : Bool := (size == 4 || size == 8) && off % size == 0

/-- One 32-bit word of a read: a register wider than 32 bits is latched by a read of its lowest word, and its other words
return the latched value (R518). -/
def readWord (off : Nat) (s : State) : Nat × State :=
  match regOf off with
  | none => (0, s)
  | some (b, n) =>
    if n ≤ 4 then (bar0Word s off, s)
    else
      let s1 := if off = b then setMbx (fun m => { m with latch := tabSet m.latch b (leBytes n (regVal s b)) }) s else s
      let bs := tabGet (zeros n) s1.mbx.latch b
      (leNat ((bs.drop (off - b)).take 4), s1)

/-- LATCHING_READ: a host read of BAR0. A read of another width or a misaligned one returns zeros and counts (R517, R518). -/
def latchingRead (off size : Nat) (s : State) : State :=
  if computeDown s then s
  else if !accessOk off size then bump cRegBadWr (setMbx (fun m => { m with readOut := zeros size }) s)
  else
    let (a, s1) := readWord off s
    let (b, s2) := if size = 8 then readWord (off + 4) s1 else (0, s1)
    setMbx (fun m => { m with readOut := leBytes size (a + b * 2 ^ 32) }) s2

def execLatchingRead (off size : Nat) (s : State) : Result := .next (latchingRead off size s)

/-- MSIX_VECTOR_UNMASK: the host unmasks a vector, or enables MSI-X; a pending message is then sent (R429). -/
def msixUnmask (vec : Option Nat) (s : State) : State :=
  if computeDown s then s
  else
    let m := s.mbx.msix
    let m1 : Msix := match vec with
      | none => { m with enabled := true }
      | some v => { m with unmasked := m.unmasked ||| (1#64 <<< (v % 64)) }
    let s1 := setMbx (fun b => { b with msix := m1 }) s
    let go := (List.range 64).filter fun v => m1.enabled && m1.unmasked.getLsbD v && m1.pba.getLsbD v
    let clear (v : Nat) (x : Msix) : Msix := { x with pba := x.pba &&& ~~~(1#64 <<< v) }
    go.foldl (fun t v => msixSend v (setMbx (fun b => { b with msix := clear v b.msix }) t)) s1

def execMsixVectorUnmask (vec : Option Nat) (s : State) : Result := .next (msixUnmask vec s)

/-- BAR2_WRITE: the host writes slot bytes; other parts of BAR2 ignore writes, and a poisoned TLP is dropped and reported
(Table 16-3, R427). -/
def bar2Write (off : Nat) (data : List Byte) (poisoned : Bool) (s : State) : State :=
  if computeDown s then s
  else if poisoned then aerReport s
  else
    let inside := (placed off data).filter fun b => decide (b.1 < 0x4000)
    setMbx (fun m => { m with slots := inside.foldl (fun t b => memWrite 0 t b.1 b.2) m.slots }) s

def execBar2Write (off : Nat) (data : List Byte) (poisoned : Bool) (s : State) : Result := .next (bar2Write off data poisoned s)

/-! ## The SMBus agent (R529, R530) -/

/-- The front-end die is powered: its supply has not collapsed (R529). -/
def feAlive (s : State) : Bool := s.bus.vholdOk

/-- A block read of the SMBus: in stage RESET only code 0x01 is answered (R529). -/
def smbAnswer (always : Bool) (bs : List Byte) (s : State) : State :=
  if !feAlive s then s
  else if computeDown s && !always then setSmb (fun m => { m with out := none }) s
  else setSmb (fun m => { m with out := some bs }) s

def execSmbStage (s : State) : Result := .next (smbAnswer true (leBytes 4 s.smb.stage.toNat) s)
def execSmbIdent (s : State) : Result := .next (smbAnswer false s.smb.ident s)
def execSmbSerial (s : State) : Result := .next (smbAnswer false (leBytes 16 s.part.serial.toNat) s)
def execSmbStatus (s : State) : Result := .next (smbAnswer false s.smb.status s)
def execSmbTick (s : State) : Result := .next (smbAnswer false s.smb.tick s)
def execSmbAvail (s : State) : Result :=
  .next (smbAnswer false (leBytes 8 s.tick.total.toNat ++ leBytes 8 s.tick.late.toNat ++ leBytes 8 s.tick.fallback.toNat ++
    leBytes 8 s.tick.dark.toNat) s)
def execSmbPower (s : State) : Result := .next (smbAnswer false s.smb.power s)
def execSmbOwner (s : State) : Result :=
  .next (smbAnswer false (leBytes 4 (ownerSt s) ++ leBytes 4 s.trust.ownerId.toNat) s)

/-- SMBUS_REJECTED_TRANSACTION: a write transaction, or a command code outside Table 20-11, is answered with a NACK (R529). -/
def execSmbusRejectedTransaction (write : Bool) (code : Byte) (s : State) : Result :=
  .next (if !feAlive s then s
    else if write || code.toNat = 0 || code.toNat > 9 then setSmb (fun m => { m with out := none }) s else s)

end Sys2Proof.Machine
end

