-- ==== Sys2Proof/Machine/FrontEnd.lean ====
section
/-! DEFINITION. The sensor front end (chapter 03): its configuration, ranges, common-mode monitors, sources, calibration, and the
pending set with APPLY (R122 to R126). -/

namespace Sys2Proof.Machine

/-! ## Reading a configuration -/

def routeOf (f : FeCfg) (ch : Nat) : Route := tabGet {} f.routes ch
def srcOf (f : FeCfg) (n : Nat) : SrcCfg := tabGet {} f.srcs n
def rangeOf (f : FeCfg) (ch : Nat) : RangeCfg := tabGet {} f.ranges ch
def cmOf (f : FeCfg) (ch : Nat) : CmCfg := tabGet {} f.cms ch
def curveOf (f : FeCfg) (ch : Nat) : CurveCfg := tabGet {} f.curves ch
def chainOf (f : FeCfg) (ch : Nat) : ChainCfg := tabGet {} f.chains ch
def eventOf (f : FeCfg) (n : Nat) : EventCfg := tabGet {} f.events n
def chanOf (s : State) (ch : Nat) : Chan := tabGet {} s.fe.chans ch

/-- Change a channel's run state. -/
def setChan (ch : Nat) (f : Chan → Chan) (s : State) : State :=
  setFe (fun e => { e with chans := tabSet e.chans ch (f (tabGet {} e.chans ch)) }) s

/-- The channels of a mask. -/
def chanList (m : Nat) : List Nat := maskList 24 m

/-- A channel is enabled by the applied configuration. -/
def chanOn (s : State) (ch : Nat) : Bool := (routeOf s.fe.cfg ch).enable

/-- The configuration that a set laid over the applied one gives (R122). -/
def laid (base top : FeCfg) : FeCfg :=
  { routes := tabOver base.routes top.routes
    srcs := tabOver base.srcs top.srcs
    ranges := tabOver base.ranges top.ranges
    cms := tabOver base.cms top.cms
    curves := tabOver base.curves top.curves
    chains := tabOver base.chains top.chains
    events := tabOver base.events top.events }

/-- Source index of a kind and number: current 0 to 7, voltage 8 to 11, bias 12 to 15. -/
def srcIndex (kind num : Nat) : Nat := match kind with | 0 => num | 1 => 8 + num | _ => 12 + num

/-- Source that a routing references, if any. -/
def routeSrc (r : Route) : Option Nat :=
  match r.excKind with
  | 1 => some r.excNum
  | 2 => some (8 + r.excNum)
  | _ => none

/-- Used pins of a source setting, with their outputs: voltage sources use outputs 0 and 1, bias sources output 0 only. -/
def srcPins (n : Nat) (c : SrcCfg) : List Nat :=
  let outs := if n < 8 then [0, 1, 2, 3] else if n < 12 then [0, 1] else [0]
  outs.filterMap fun o => if c.pins.getLsbD (8 * o + 7) then some (bitsN c.pins.toNat (8 * o + 5) (8 * o)) else none

/-! ## Writes to the pending set (Tables 03-8 to 03-11, 04-7, 04-8) -/

/-- FE_ROUTE fields (Table 03-8). -/
def routeFields (c : Cmd) : Route :=
  { enable := fldB c 32 false
    posPin := fld c 21 16 0
    negPin := fld c 29 24 0
    iepe := fldB c 34 false
    burnout := fldB c 35 false
    excKind := fld c 42 41 0
    excNum := fld c 45 43 0
    excOut := fld c 47 46 0 }

/-- FE_ROUTE (R63). -/
def bodyFeRoute (c : Cmd) (s : State) : State :=
  let ch := fld c 4 0 0
  let r := routeFields c
  if 23 < ch ∨ 47 < r.posPin ∨ 47 < r.negPin ∨ r.excKind = 3 ∨ (r.excKind = 2 ∧ 3 < r.excNum) then fail 0x0301 c .badParam s
  else completeOk 0x0301 c 0 (setFe (fun f => { f with pend := { f.pend with routes := tabSet f.pend.routes ch r } }) s)

/-- Values and pins of an enabled source are in range (Table 03-9, R63). -/
def srcInRange (kind : Nat) (v : SrcCfg) (n : Nat) : Bool :=
  (match kind with
   | 0 => decide (1 ≤ v.value ∧ v.value ≤ 1000)
   | 1 => decide (v.value ≤ 2)
   | _ => decide (10 ≤ v.value ∧ v.value ≤ 250)) && (srcPins n v).all fun p => decide (p < 48)

/-- FE_SOURCE (R63): value, polarity, chop and pins are checked only with `enable` = 1. -/
def bodyFeSource (c : Cmd) (s : State) : State :=
  let kind := fld c 3 0 0
  let num := fld c 7 4 0
  let n := srcIndex kind num
  let v : SrcCfg :=
    { enable := fldB c 116 false
      value := fld c 111 96 0
      polarity := fldB c 117 false
      chop := fld c 127 120 0
      pins := BitVec.ofNat 32 (fld c 95 64 0) }
  if 2 < kind ∨ (kind = 0 ∧ 7 < num) ∨ (kind ≠ 0 ∧ 3 < num) then fail 0x0302 c .badParam s
  else if v.enable && !srcInRange kind v n then fail 0x0302 c .badParam s
  else completeOk 0x0302 c 0 (setFe (fun f => { f with pend := { f.pend with srcs := tabSet f.pend.srcs n v } }) s)

/-- FE_RANGE (Table 03-10). -/
def bodyFeRange (c : Cmd) (s : State) : State :=
  let ch := fld c 4 0 0
  let v : RangeCfg :=
    { range := fld c 37 35 0
      auto := fldB c 34 false
      wide := fld c 43 41 0
      narrow := fld c 40 38 7
      dwell := fld c 63 48 1000 }
  if 23 < ch ∨ v.dwell = 0 then fail 0x0303 c .badParam s
  else completeOk 0x0303 c 0 (setFe (fun f => { f with pend := { f.pend with ranges := tabSet f.pend.ranges ch v } }) s)

/-- FE_CM_WINDOW (Table 03-11): only `channel`, `cm_lo`, `cm_hi` and `cm_persist` are read. -/
def bodyFeCmWindow (c : Cmd) (s : State) : State :=
  let ch := fld c 4 0 0
  let v : CmCfg :=
    { lo := signedN 16 (fld c 63 48 (wrapN 16 (-1000)))
      hi := signedN 16 (fld c 79 64 25000)
      persist := fld c 87 80 4 }
  if 23 < ch ∨ v.hi < -1000 ∨ 25000 < v.hi ∨ v.persist = 0 then fail 0x0304 c .badParam s
  else completeOk 0x0304 c 0 (setFe (fun f => { f with pend := { f.pend with cms := tabSet f.pend.cms ch v } }) s)

/-- Curve numbers of Table 03-6. -/
def curveKnown (n : Nat) : Bool := decide (n ≤ 8) || n == 16 || n == 17 || n == 30 || n == 31

/-- FE_CURVE (Table 03-11): only `channel`, `curve` and `cj_chan` are read. -/
def bodyFeCurve (c : Cmd) (s : State) : State :=
  let ch := fld c 4 0 0
  let v : CurveCfg := { curve := fld c 95 88 0, cj := fld c 103 96 0xFF }
  if 23 < ch ∨ !curveKnown v.curve ∨ (23 < v.cj ∧ v.cj ≠ 0xFF) then fail 0x0305 c .badParam s
  else completeOk 0x0305 c 0 (setFe (fun f => { f with pend := { f.pend with curves := tabSet f.pend.curves ch v } }) s)

/-- CH_CHAIN (Table 04-7). -/
def bodyChChain (c : Cmd) (s : State) : State :=
  let ch := fld c 4 0 0
  let v : ChainCfg :=
    { preset := fld c 9 8 0
      maLen := fld c 26 16 1
      sh1 := fld c 36 32 0
      sh2 := fld c 44 40 0
      coarseLen := fld c 49 48 3
      peakDecay := fld c 60 56 6
      rmsLen := fld c 76 64 256
      envA := fld c 84 80 6
      envFc := fld c 111 96 8192
      envBw := fld c 127 112 4096 }
  if 23 < ch ∨ v.maLen = 0 ∨ 1024 < v.maLen ∨ v.peakDecay = 0 ∨ 24 < v.peakDecay ∨ v.rmsLen = 0 ∨ 4096 < v.rmsLen ∨
      v.envA = 0 ∨ 16 < v.envA then fail 0x0309 c .badParam s
  else completeOk 0x0309 c 0 (setFe (fun f => { f with pend := { f.pend with chains := tabSet f.pend.chains ch v } }) s)

/-- CH_EVENT (Table 04-8). -/
def bodyChEvent (c : Cmd) (s : State) : State :=
  let ch := fld c 4 0 0
  let n := 2 * ch + fld c 5 5 0
  let v : EventCfg :=
    { enable := fldB c 11 false
      below := fldB c 10 false
      source := fld c 9 8 0
      onLevel := BitVec.ofNat 32 (fld c 63 32 0)
      offLevel := BitVec.ofNat 32 (fld c 95 64 0)
      persistOn := fld c 111 96 1
      persistOff := fld c 127 112 1 }
  if 23 < ch ∨ v.persistOn = 0 ∨ v.persistOff = 0 then fail 0x030A c .badParam s
  else completeOk 0x030A c 0 (setFe (fun f => { f with pend := { f.pend with events := tabSet f.pend.events n v } }) s)

/-- DISCARD drops the pending set (R122). -/
def bodyDiscard (c : Cmd) (s : State) : State :=
  completeOk 0x030F c 0 (setFe (fun f => { f with pend := {} }) s)

def execFeRoute (c : Cmd) (s : State) : Result := .next (deliver 0x0301 bodyFeRoute c s)
def execFeSource (c : Cmd) (s : State) : Result := .next (deliver 0x0302 bodyFeSource c s)
def execFeRange (c : Cmd) (s : State) : Result := .next (deliver 0x0303 bodyFeRange c s)
def execFeCmWindow (c : Cmd) (s : State) : Result := .next (deliver 0x0304 bodyFeCmWindow c s)
def execFeCurve (c : Cmd) (s : State) : Result := .next (deliver 0x0305 bodyFeCurve c s)
def execChChain (c : Cmd) (s : State) : Result := .next (deliver 0x0309 bodyChChain c s)
def execChEvent (c : Cmd) (s : State) : Result := .next (deliver 0x030A bodyChEvent c s)
def execDiscardSet (c : Cmd) (s : State) : Result := .next (deliver 0x030F bodyDiscard c s)

/-! ## The agreement checks of APPLY (R61 to R63, R85, R86, Table 04-5) -/

/-- Oversampling ratio of a preset (Table 04-2), and its base-2 logarithm. -/
def osrLog2 (preset : Nat) : Nat := match preset with | 0 => 6 | 1 => 8 | 2 => 10 | _ => 14
def osr (preset : Nat) : Nat := 2 ^ osrLog2 preset

/-- Sum of coefficient magnitudes below T (rule A2). -/
def coefSum (b : Bank) : Nat := (List.range b.taps).foldl (fun a i => a + (tabGet 0 b.coefs i).natAbs) 0

/-- Rules A1, A2 and A4 for a bank under chain settings. Twice each side of A4 keeps halves exact. -/
def ruleA1 (k : ChainCfg) (b : Bank) : Bool := decide (osr k.preset * (k.maLen + b.taps + 1) ≤ 4194304)
def ruleA2 (b : Bank) : Bool := decide (coefSum b ≤ 2 ^ (b.shift + 1))
def ruleA4 (k : ChainCfg) (b : Bank) : Bool :=
  decide (k.envBw + 2 ≤ 2 * k.envFc ∧ 2 * k.envFc + k.envBw ≤ 2 * b.fPass ∧ b.fPass ≤ 32768)

/-- The roles that a configuration gives its pins, with their owner: 0 positive, 1 current output, 2 voltage terminal, 3 negative, 4 bias
(Table 03-1). -/
def pinRoles (f : FeCfg) : List (Nat × Nat × Nat) :=
  let chs := (List.range 24).filter fun ch => (routeOf f ch).enable
  (chs.map fun ch => ((routeOf f ch).posPin, 0, ch)) ++ (chs.map fun ch => ((routeOf f ch).negPin, 3, ch)) ++
  ((List.range 16).flatMap fun n =>
    if (srcOf f n).enable then (srcPins n (srcOf f n)).map fun p => (p, if n < 8 then 1 else if n < 12 then 2 else 4, n) else [])

/-- The first of a list of roles that shares its pin with one before it in a forbidden way. -/
def pinClash (rs : List (Nat × Nat × Nat)) (bad : Nat × Nat × Nat → Nat × Nat × Nat → Bool) : Option Nat :=
  ((List.range rs.length).find? fun i => (List.range i).any fun j =>
    let a := nth rs i (0, 0, 0)
    let b := nth rs j (0, 0, 0)
    a.1 == b.1 && bad b a).map fun i => (nth rs i (0, 0, 0)).2.2

/-- R61: each pin holds one role, but a current output may also be the positive input of one channel. R62 speaks of two positive inputs, of
shared negative inputs, and of the two terminals of one voltage source. -/
def checkR61 (f : FeCfg) : Option Nat :=
  pinClash (pinRoles f) fun a b =>
    let both (x y : Nat) : Bool := (a.2.1 == x && b.2.1 == y) || (a.2.1 == y && b.2.1 == x)
    !(both 0 1 || both 0 0 || both 3 3 || (both 2 2 && a.2.2 == b.2.2))

/-- R62: no pin is the positive input of two channels or joins both terminals of one voltage source; a channel's two inputs differ. -/
def checkR62 (f : FeCfg) : Option Nat :=
  match pinClash (pinRoles f) fun a b => (a.2.1 == 0 && b.2.1 == 0) || (a.2.1 == 2 && b.2.1 == 2 && a.2.2 == b.2.2) with
  | some i => some i
  | none => (List.range 24).find? fun ch => (routeOf f ch).enable && (routeOf f ch).posPin == (routeOf f ch).negPin

/-- R85: a named cold-junction channel uses curve 16 or 17 and names no cold junction itself. -/
def checkR85 (f : FeCfg) : Option Nat :=
  (List.range 24).find? fun ch =>
    let v := curveOf f ch
    decide (1 ≤ v.curve ∧ v.curve ≤ 8) && v.cj != 0xFF &&
      !((routeOf f v.cj).enable && ((curveOf f v.cj).curve == 16 || (curveOf f v.cj).curve == 17) && (curveOf f v.cj).cj == 0xFF)

/-- R86: curves 16, 17 and 30 need a current source, curve 31 a voltage source. -/
def checkR86 (f : FeCfg) : Option Nat :=
  (List.range 24).find? fun ch =>
    let v := (curveOf f ch).curve
    ((v == 16 || v == 17 || v == 30) && (routeOf f ch).excKind != 1) || (v == 31 && (routeOf f ch).excKind != 2)

/-- A fade runs: output K has not been delivered yet (R101). -/
def fadeRuns (x : Chan) : Bool := match x.fade with | some f => decide (f.i < f.len) | none => false

/-- Banks that a configuration is checked with: the banks in use, the old one while a fade runs (R100), and the load bank of a queued
swap (R123). -/
def banksOf (s : State) (ch : Nat) : List Bank :=
  let x := chanOf s ch
  x.bankNew :: ((if fadeRuns x then [x.bankOld] else []) ++ (if x.swap.isSome then [x.bankLoad] else []))

/-- The first agreement rule that fails, as (rule, channel): 61, 62, 85, 86, then 1 to 7 for A1 to A7 (R123, R124; log 25). -/
def applyCheck (s : State) (f : FeCfg) : Option (Nat × Nat) :=
  let rule (n : Nat) (bad : Nat → Bool) : Option (Nat × Nat) := ((List.range 24).find? bad).map fun ch => (n, ch)
  ((checkR61 f).map fun x => (61, x)) <|> ((checkR62 f).map fun x => (62, x)) <|>
  ((checkR85 f).map fun x => (85, x)) <|> ((checkR86 f).map fun x => (86, x)) <|>
  rule 1 (fun ch => (banksOf s ch).any fun b => !ruleA1 (chainOf f ch) b) <|>
  rule 2 (fun ch => (banksOf s ch).any fun b => !ruleA2 b) <|>
  rule 3 (fun ch => !decide ((chainOf f ch).maLen ≤ 2 ^ ((chainOf f ch).sh2 + 1))) <|>
  rule 4 (fun ch => (banksOf s ch).any fun b => !ruleA4 (chainOf f ch) b) <|>
  rule 5 (fun ch => [0, 1].any fun e =>
    let v := eventOf f (2 * ch + e)
    if v.below then !f32le v.onLevel v.offLevel else !f32le v.offLevel v.onLevel) <|>
  rule 6 (fun ch => let v := rangeOf f ch
    decide (v.narrow < v.wide) || (v.auto && !decide (v.wide ≤ v.range ∧ v.range ≤ v.narrow))) <|>
  rule 7 (fun ch => !decide ((cmOf f ch).lo < (cmOf f ch).hi))

/-- APPLY: seals the pending set after its checks; BUSY while an earlier one has not taken effect; a set that fails stays pending
(R122 to R124). APPLY_REJECT carries the rule in `detail`, as the number of its R rule or 1 to 7 for A1 to A7, and the channel in the low bits of
`data`: R124 names both and gives no place (DESIGN CHOICE, log 26). -/
def bodyApply (c : Cmd) (s : State) : State :=
  if s.fe.sealed_.isSome then fail 0x030E c .busy s
  else match applyCheck s (laid s.fe.cfg s.fe.pend) with
    | some (r, ch) => complete 0x030E c .applyReject r ch 0 s
    | none => waitFor 0x030E c .applySet (setFe (fun f => { f with sealed_ := some f.pend, sealedDue := false, pend := {} }) s)

def execApplySet (c : Cmd) (s : State) : Result := .next (deliver 0x030E bodyApply c s)

/-! ## The stored configuration (Table 13-4, R66) -/

def routeBits (r : Route) (ch : Nat) : Nat :=
  pack [(0, 5, ch), (16, 6, r.posPin), (24, 6, r.negPin), (32, 1, b2n r.enable), (34, 1, b2n r.iepe), (35, 1, b2n r.burnout),
        (41, 2, r.excKind), (43, 3, r.excNum), (46, 2, r.excOut)]
def srcBits (v : SrcCfg) (n : Nat) : Nat :=
  let kn := if n < 8 then (0, n) else if n < 12 then (1, n - 8) else (2, n - 12)
  pack [(0, 4, kn.1), (4, 4, kn.2), (64, 32, v.pins.toNat), (96, 16, v.value), (116, 1, b2n v.enable), (117, 1, b2n v.polarity),
        (120, 8, v.chop)]
def rangeBits (v : RangeCfg) (ch : Nat) : Nat :=
  pack [(0, 5, ch), (34, 1, b2n v.auto), (35, 3, v.range), (38, 3, v.narrow), (41, 3, v.wide), (48, 16, v.dwell)]
def cmCurveBits (v : CmCfg) (w : CurveCfg) (ch : Nat) : Nat :=
  pack [(0, 5, ch), (48, 16, wrapN 16 v.lo), (64, 16, wrapN 16 v.hi), (80, 8, v.persist), (88, 8, w.curve), (96, 8, w.cj)]
def chainBits (v : ChainCfg) (ch : Nat) : Nat :=
  pack [(0, 5, ch), (8, 2, v.preset), (16, 11, v.maLen), (32, 5, v.sh1), (40, 5, v.sh2), (48, 2, v.coarseLen),
        (56, 5, v.peakDecay), (64, 13, v.rmsLen), (80, 5, v.envA), (96, 16, v.envFc), (112, 16, v.envBw)]
def eventBits (v : EventCfg) (n : Nat) : Nat :=
  pack [(0, 5, n / 2), (5, 1, n % 2), (8, 2, v.source), (10, 1, b2n v.below), (11, 1, b2n v.enable), (32, 32, v.onLevel.toNat),
        (64, 32, v.offLevel.toNat), (96, 16, v.persistOn), (112, 16, v.persistOff)]
def bankBytes (b : Bank) : List Byte :=
  leBytes 16 (pack [(96, 8, b.taps), (104, 5, b.shift), (112, 16, b.fPass)]) ++
  (List.range 128).flatMap fun i => leBytes 3 (wrapN 24 (tabGet 0 b.coefs i))

/-- Body of record 0x0040 (Table 13-4). -/
def configBody (s : State) : List Byte :=
  let f := s.fe.cfg
  ((List.range 24).flatMap fun ch => leBytes 8 (routeBits (routeOf f ch) ch)) ++
  ((List.range 16).flatMap fun n => leBytes 16 (srcBits (srcOf f n) n)) ++
  ((List.range 24).flatMap fun ch => leBytes 8 (rangeBits (rangeOf f ch) ch)) ++
  ((List.range 24).flatMap fun ch => leBytes 16 (cmCurveBits (cmOf f ch) (curveOf f ch) ch)) ++
  ((List.range 24).flatMap fun ch => leBytes 16 (chainBits (chainOf f ch) ch)) ++
  ((List.range 48).flatMap fun n => leBytes 16 (eventBits (eventOf f n) n)) ++
  ((List.range 24).flatMap fun ch => bankBytes (chanOf s ch).bankNew)

/-- The configuration that a body holds. -/
def configOf (bs : List Byte) : FeCfg :=
  let at_ (off w : Nat) : Nat := leNat ((bs.drop off).take w)
  { routes := (List.range 24).map fun ch =>
      let x := at_ (8 * ch) 8
      (ch, { enable := bitN x 32, posPin := bitsN x 21 16, negPin := bitsN x 29 24, iepe := bitN x 34, burnout := bitN x 35
             excKind := bitsN x 42 41, excNum := bitsN x 45 43, excOut := bitsN x 47 46 })
    srcs := (List.range 16).map fun n =>
      let x := at_ (192 + 16 * n) 16
      (n, { enable := bitN x 116, value := bitsN x 111 96, polarity := bitN x 117, chop := bitsN x 127 120
            pins := BitVec.ofNat 32 (bitsN x 95 64) })
    ranges := (List.range 24).map fun ch =>
      let x := at_ (448 + 8 * ch) 8
      (ch, { range := bitsN x 37 35, auto := bitN x 34, wide := bitsN x 43 41, narrow := bitsN x 40 38, dwell := bitsN x 63 48 })
    cms := (List.range 24).map fun ch =>
      let x := at_ (640 + 16 * ch) 16
      (ch, { lo := signedN 16 (bitsN x 63 48), hi := signedN 16 (bitsN x 79 64), persist := bitsN x 87 80 })
    curves := (List.range 24).map fun ch =>
      let x := at_ (640 + 16 * ch) 16
      (ch, { curve := bitsN x 95 88, cj := bitsN x 103 96 })
    chains := (List.range 24).map fun ch =>
      let x := at_ (1024 + 16 * ch) 16
      (ch, { preset := bitsN x 9 8, maLen := bitsN x 26 16, sh1 := bitsN x 36 32, sh2 := bitsN x 44 40
             coarseLen := bitsN x 49 48, peakDecay := bitsN x 60 56, rmsLen := bitsN x 76 64, envA := bitsN x 84 80
             envFc := bitsN x 111 96, envBw := bitsN x 127 112 })
    events := (List.range 48).map fun n =>
      let x := at_ (1408 + 16 * n) 16
      (n, { enable := bitN x 11, below := bitN x 10, source := bitsN x 9 8, onLevel := BitVec.ofNat 32 (bitsN x 63 32)
            offLevel := BitVec.ofNat 32 (bitsN x 95 64), persistOn := bitsN x 111 96, persistOff := bitsN x 127 112 }) }

/-- The bank in use of a channel that a body holds. -/
def configBank (bs : List Byte) (ch : Nat) : Bank :=
  let b := (bs.drop (2176 + 400 * ch)).take 400
  let h := leNat (b.take 16)
  { taps := bitsN h 103 96
    shift := bitsN h 108 104
    fPass := bitsN h 127 112
    coefs := (List.range 128).map fun i => (i, signedN 24 (leNat ((b.drop (16 + 3 * i)).take 3))) }

/-- The configuration record is asked for: at each APPLY that takes effect, and at each fade end (R66, Table 13-3). -/
def storeConfig (s : State) : State := recQueue 25 (configBody s) s

/-! ## Synchronising resets (R113 to R116) -/

/-- A synchronising reset of a channel becomes due at sample 0 of this tick. -/
def askReset (cause : ResetCause) (ch : Nat) (s : State) : State :=
  setChan ch (fun x => { x with due := if x.due.contains cause then x.due else x.due ++ [cause] }) s

/-- Larger tap count of the banks in use (R113). -/
def tapsInUse (x : Chan) : Nat := if x.fade.isSome then max x.bankNew.taps x.bankOld.taps else x.bankNew.taps

/-- A queued swap that starts: the banks rotate (R101). -/
def rotate (x : Chan) : Chan :=
  { x with bankNew := x.bankLoad, bankOld := x.bankNew, bankLoad := x.bankOld
           roles := [nth x.roles 2 0, nth x.roles 0 0, nth x.roles 1 0] }

/-- The reset itself: counter and history to 0, a running fade ends, a queued swap applies without a fade, outputs 1 to L + T are
SETTLING, and the detectors are held at the values they had (R114 to R116). -/
def chanReset (l : Nat) (x : Chan) : Chan :=
  let y := if x.swap.isSome then rotate x else x
  { y with
    cnt := 0
    xs := []
    lastFlag := none
    us := []
    vs := []
    satU := none
    satV := none
    k := 0
    settleTo := l + y.bankNew.taps
    fSet := true
    held := true
    fade := none
    swap := none
    swapArmed := false
    abortReq := false
    abortArmed := false
    swapHold := false }

/-- Swap commands whose last channel has started complete (R102). -/
def swapStarted (ch : Nat) (s : State) : State :=
  let hit (w : Wait) : Wait := match w.act with
    | .firSwap m => { w with act := .firSwap (m &&& ~~~(1#24 <<< ch)) }
    | _ => w
  finish (fun a => a == .firSwap 0) .ok 0 (setMbx (fun m => { m with waits := m.waits.map hit }) s)

/-- SYNCHRONISING_RESET: one that is due applies at sample 0 of the tick. Enabling IEPE, and a power-on with IEPE mode stored, preset the
servo to the level of the input at sample 0 (R74; log 67). A fade that the reset ends is stored (Table 13-3). -/
def syncReset (ch : Nat) (cause : ResetCause) (s : State) : State :=
  let x := chanOf s ch
  if !x.due.contains cause then s
  else
    let had := x.swap.isSome
    let l := (chainOf s.fe.cfg ch).maLen
    let preset := cause == .iepe || (cause == .powerOn && (routeOf s.fe.cfg ch).iepe)
    let s1 := setChan ch (fun y => { chanReset l y with due := y.due.erase cause, servoDue := y.servoDue || preset }) s
    let s2 := if cause == .command then
        finish (fun a => match a with | .chReset m => m.toNat &&& (2 ^ ch) != 0 | _ => false) .ok s.tick.no.toNat s1 else s1
    let s3 := if had then swapStarted ch s2 else s2
    if x.fade.isSome then storeConfig s3 else s3

def execSynchronisingReset (ch : Nat) (cause : ResetCause) (s : State) : Result := .next (syncReset ch cause s)

/-! ## Ranges (R72 to R80) -/

/-- Full scale of a range in microvolts (Table 03-3). -/
def fullScaleUv (r : Nat) : Nat := 10000000 / 2 ^ (r % 8)

/-- Full scale of a range in chain units of 2^−27 V, rounded down (R77). -/
def fullScale (r : Nat) : Int := ((10 * 2 ^ 27 / 2 ^ (r % 8) : Nat) : Int)

/-- Flagged samples of a range change (Table 03-4). -/
def flaggedSamples (old new : Nat) : Nat :=
  let step := if old ≤ new then new - old else old - new
  let base := nth [0, 24, 28, 32, 40, 48, 56, 64] step 64
  if decide (old ≤ 1) != decide (new ≤ 1) then base + 16 else base

/-- A channel moves to a range: its flagged samples start, and the dwell count restarts (R76, R78, R80). -/
def rangeTo (new : Nat) (x : Chan) : Chan :=
  if x.range = new then x
  else { x with range := new, transient := true, flagLeft := flaggedSamples x.range new, dwell := 0 }

/-- A magnitude in units of which `volt` make one volt exceeds the up-range threshold of a range: 90 % of its full scale; range 0 has
none. -/
def overUp (volt r mag : Nat) : Bool := decide (r ≠ 0) && decide (9 * (10 * volt) < 10 * mag * 2 ^ r)

/-- A magnitude lies below the down-range threshold of a range: 80 % of the next narrower full scale; range 7 has none. -/
def underDown (volt r mag : Nat) : Bool := decide (r < 7) && decide (10 * mag * 2 ^ (r + 1) < 8 * (10 * volt))

/-- Narrowest range below `r` and not wider than `wide` whose threshold is not exceeded; `wide` when each is (R78). -/
def upRange (volt r wide mag : Nat) : Nat :=
  match ((List.range r).reverse.filter fun c => decide (wide ≤ c)).find? fun c => !overUp volt c mag with
  | some c => c
  | none => wide

/-- A sealed set commands a range on a channel: it changes `range`, `auto`, `ar_wide` or `ar_narrow` (R75). -/
def commandsRange (old new : FeCfg) (ch : Nat) : Bool :=
  let a := rangeOf old ch
  let b := rangeOf new ch
  a.range != b.range || a.auto != b.auto || a.wide != b.wide || a.narrow != b.narrow

/-- Modulator samples of a tick (R71). -/
def samplesPerTick (period : Nat) : Nat := 16 * (period / 600)

/-- A magnitude above the current threshold, seen by the comparators at a sample of the tick, moves the channel to a wider range from the next
sample. A common-mode fault holds the range (R79), and a commanded change at that next sample wins (Table 03-12). -/
def rangeUp (volt ch mag sample : Nat) (s : State) : State :=
  let x := chanOf s ch
  let v := rangeOf s.fe.cfg ch
  let clash := decide (sample + 1 = samplesPerTick s.tick.period) &&
    (match s.fe.sealed_ with | some t => commandsRange s.fe.cfg (laid s.fe.cfg t) ch | none => false)
  if chanOn s ch && v.auto && !x.cmFault && overUp volt x.range mag && decide (v.wide < x.range) && !clash then
    setChan ch (rangeTo (upRange volt x.range v.wide mag)) s
  else s

/-- AUTO_RANGE_UP: the comparators have seen a magnitude in microvolts (R78). The samples of a channel settle their own changes. -/
def autoRangeUp (ch mag sample : Nat) (s : State) : State := rangeUp 1000000 ch mag sample s

def execAutoRangeUp (ch magUv sample : Nat) (s : State) : Result := .next (autoRangeUp ch magUv sample s)

/-- AUTO_RANGE_DOWN: after `ar_dwell` ticks below the threshold the channel moves one code narrower, at sample 0 (R78, R79). -/
def autoRangeDown (ch : Nat) (s : State) : State :=
  let x := chanOf s ch
  let v := rangeOf s.fe.cfg ch
  let clash := s.fe.sealedDue &&
    (match s.fe.sealed_ with | some t => commandsRange s.fe.cfg (laid s.fe.cfg t) ch | none => false)
  if chanOn s ch && v.auto && !x.cmFault && decide (v.dwell ≤ x.dwell) && decide (x.range < v.narrow) && !clash then
    setChan ch (rangeTo (x.range + 1)) s
  else s

def execAutoRangeDown (ch : Nat) (s : State) : Result := .next (autoRangeDown ch s)

/-- RANGE_TRANSIENT_END: the flagged samples of the last change have all been taken (R76). -/
def rangeTransientEnd (ch : Nat) (s : State) : State :=
  let x := chanOf s ch
  if x.transient && x.flagLeft == 0 then setChan ch (fun y => { y with transient := false }) s else s

def execRangeTransientEnd (ch : Nat) (s : State) : Result := .next (rangeTransientEnd ch s)

/-! ## Common mode (R84) -/

/-- Monitoring is off at the reset window (R84). -/
def cmOff (c : CmCfg) : Bool := c.lo == -1000 && c.hi == 25000

/-- One tick's common-mode measurement of a channel (R84). Two points are choices of the model (log 83): a fault that stands when the window
switches monitoring off becomes normal with counts 0, and the measured voltage follows the pins on a disabled or unmonitored channel too. -/
def cmMeasure (c : CmCfg) (on : Bool) (mv : Int) (x : Chan) : Chan :=
  if !on || cmOff c then { x with cmMv := mv, cmOut := 0, cmIn := 0, cmFault := false }
  else if mv < c.lo ∨ c.hi < mv then { x with cmMv := mv, cmOut := x.cmOut + 1, cmIn := 0 }
  else { x with cmMv := mv, cmOut := 0, cmIn := x.cmIn + 1 }

/-- CM_FAULT_ENTER: outside for `cm_persist` consecutive ticks (R84). -/
def cmEnter (ch : Nat) (s : State) : State :=
  let x := chanOf s ch
  let c := cmOf s.fe.cfg ch
  if chanOn s ch && !cmOff c && !x.cmFault && decide (c.persist ≤ x.cmOut) then setChan ch (fun y => { y with cmFault := true }) s
  else s

/-- CM_FAULT_EXIT: inside for `cm_persist` consecutive ticks (R84). -/
def cmExit (ch : Nat) (s : State) : State :=
  let x := chanOf s ch
  if x.cmFault && decide ((cmOf s.fe.cfg ch).persist ≤ x.cmIn) then setChan ch (fun y => { y with cmFault := false }) s else s

def execCmFaultEnter (ch : Nat) (s : State) : Result := .next (cmEnter ch s)
def execCmFaultExit (ch : Nat) (s : State) : Result := .next (cmExit ch s)

/-! ## Sources (R69, R81, R82) -/

/-- SOURCE_CURRENT_LIMIT: an enabled voltage source reaches or leaves its limit; a change of its bit is an event (R69). -/
def sourceLimit (n : Nat) (reached : Bool) (s : State) : State :=
  if decide (n < 4) && (srcOf s.fe.cfg (8 + n)).enable && s.fe.vexcOk && (s.fe.srcFault.getLsbD n != reached) then
    raiseInt 8 (setFe (fun f => { f with srcFault :=
      if reached then f.srcFault ||| (1#4 <<< n) else f.srcFault &&& ~~~(1#4 <<< n) }) s)
  else s

def execSourceCurrentLimit (src : Nat) (reached : Bool) (s : State) : Result := .next (sourceLimit src reached s)

/-- Channels that reference a source in their routing, enabled or not (Table 04-3). -/
def refChans (f : FeCfg) (n : Nat) : List Nat :=
  (List.range 24).filter fun ch => routeSrc (routeOf f ch) == some n

/-- CHOP_REVERSAL: a reversal that is due at this tick boundary: the polarity reverses and the referencing channels reset. A
commanded change of the same source at the boundary wins (R82, Table 03-12). -/
def chopReversal (n : Nat) (s : State) : State :=
  if !(decide (n < 4) && s.fe.chopDue.getLsbD n) then s
  else
    let s1 := setFe (fun f => { f with
      chopDue := f.chopDue &&& ~~~(1#4 <<< n)
      reversed := tabSet f.reversed n (!tabGet (srcOf f.cfg (8 + n)).polarity f.reversed n) }) s
    (refChans s1.fe.cfg (8 + n)).foldl (fun t ch => askReset .source ch t) s1

def execChopReversal (src : Nat) (s : State) : Result := .next (chopReversal src s)

/-- Voltage sources whose chop count completes at this tick boundary, and the counts after it (R82). -/
def chopTick (s : State) : State :=
  (List.range 4).foldl (fun t n =>
    let c := srcOf t.fe.cfg (8 + n)
    if c.enable && decide (c.chop ≠ 0) then
      let k := tabGet 0 t.fe.chopCnt n + 1
      if c.chop ≤ k then
        setFe (fun f => { f with chopCnt := tabSet f.chopCnt n 0, chopDue := f.chopDue ||| (1#4 <<< n) }) t
      else setFe (fun f => { f with chopCnt := tabSet f.chopCnt n k }) t
    else t) s

/-! ## Calibration (R89, R90) -/

/-- A channel's calibration set as gain and offset; a store without the record, as at reset, reads as gain 1.0 and offset 0, since the
manual gives no factory value (DESIGN CHOICE, log 83). -/
def calSet (s : State) (ch r : Nat) : W32 × W32 := tabGet (0x40000000, 0) s.fe.cal (8 * ch + r)

/-- A source ratio; 1.0 where the store has no record (DESIGN CHOICE, log 83). -/
def ratioOf (s : State) (i : Nat) : W32 := tabGet 0x40000000 s.fe.ratios i

/-- Put a calibration write into force. -/
def calInForce (w : CalWrite) (f : FrontEnd) : FrontEnd :=
  match w with
  | .set ch r g o => { f with cal := tabSet f.cal (8 * ch + r) (g, o) }
  | .ratio i q => { f with ratios := tabSet f.ratios i q }

/-- The front end with the calibration writes that are stored, and some that wait. -/
def calAll (f : FrontEnd) (ws : List CalWrite) : FrontEnd := (f.calDue ++ f.calPend ++ ws).foldl (fun g w => calInForce w g) f

/-- A calibration write goes to a record, by its index in Table 13-3. -/
def calOf (k : Nat) (w : CalWrite) : Bool := match w with | .set ch _ _ _ => ch == k | .ratio _ _ => k == 24

/-- Body of a calibration or ratio record with its first `n` writes that wait (text after Table 13-3). -/
def calBody (s : State) (k n : Nat) : List Byte :=
  let t : State := { s with fe := calAll s.fe ((s.fe.calWait.filter (calOf k)).take n) }
  if k < 24 then (List.range 8).flatMap fun r => leBytes 4 (calSet t k r).1.toNat ++ leBytes 4 (calSet t k r).2.toNat
  else (List.range 40).flatMap fun i => leBytes 4 (ratioOf t i).toNat

/-- Parameters of FE_CAL_READ and FE_CAL_WRITE (no table of the manual gives them; log 26): [4:0] channel, [10:8] range, [16] 1 = a
source ratio, [29:24] ratio index; FE_CAL_WRITE adds the gain or ratio in [63:32] and the offset in [95:64]. -/
def calTarget (c : Cmd) : Option (Bool × Nat × Nat) :=
  if fldB c 16 false then (if fld c 29 24 0 < 40 then some (true, fld c 29 24 0, 0) else none)
  else if fld c 4 0 0 < 24 then some (false, fld c 4 0 0, fld c 10 8 0) else none

/-- FE_CAL_READ: one set or one ratio in the completion (Table 03-7). -/
def bodyFeCalRead (c : Cmd) (s : State) : State :=
  match calTarget c with
  | none => fail 0x0306 c .badParam s
  | some (true, i, _) => completeOk 0x0306 c (ratioOf s i).toNat s
  | some (false, ch, r) => completeOk 0x0306 c ((calSet s ch r).1.toNat + (calSet s ch r).2.toNat * 2 ^ 32) s

/-- FE_CAL_WRITE: the record write is asked for, and the command waits for it (R90). -/
def bodyFeCalWrite (c : Cmd) (s : State) : State :=
  match calTarget c with
  | none => fail 0x0307 c .badParam s
  | some (rat, i, r) =>
    let w : CalWrite := if rat then .ratio i (BitVec.ofNat 32 (fld c 63 32 0x40000000))
      else .set i r (BitVec.ofNat 32 (fld c 63 32 0x40000000)) (BitVec.ofNat 32 (fld c 95 64 0))
    let k := if rat then 24 else i
    let s1 := setFe (fun f => { f with calWait := f.calWait ++ [w] }) s
    waitFor 0x0307 c (.recWrite (if rat then .ratios else .calib i)) (recQueue k (calBody s1 k s1.fe.calWait.length) s1)

def execFeCalRead (c : Cmd) (s : State) : Result := .next (deliver 0x0306 bodyFeCalRead c s)
def execFeCalWrite (c : Cmd) (s : State) : Result := .next (deliver 0x0307 bodyFeCalWrite c s)

/-- The first accepted calibration write of a record moves on when the record is written (R90). -/
def calWritten (k : Nat) (s : State) : State :=
  match s.fe.calWait.find? (calOf k) with
  | none => s
  | some w => setFe (fun f => { f with calWait := f.calWait.erase w, calPend := f.calPend ++ [w] }) s

/-- Waiting writes of a calibration record with their bodies formed anew: the i-th holds the first i writes. -/
def calRedo (s : State) (k : Nat) : Nat → List (Nat × List Byte) → List (Nat × List Byte)
  | _, [] => []
  | i, e :: t => if e.1 = k then (k, calBody s k i) :: calRedo s k (i + 1) t else e :: calRedo s k i t

/-- The first accepted calibration write of a record failed: it is dropped, and those behind it are written without it (R90, R446). -/
def calFailed (k : Nat) (s : State) : State :=
  match s.fe.calWait.find? (calOf k) with
  | none => s
  | some w =>
    let s1 := setFe (fun f => { f with calWait := f.calWait.erase w }) s
    setNv (fun v => { v with recQ := calRedo s1 k 1 v.recQ }) s1

/-- Channels that a calibration write resets: those that use the range or reference the source (R90). -/
def calResets (s : State) (w : CalWrite) : List Nat :=
  match w with
  | .set ch r _ _ => if (chanOf s ch).range == r then [ch] else []
  | .ratio i _ => if i < 32 then refChans s.fe.cfg (i / 4) else refChans s.fe.cfg (8 + (i - 32) / 2)

/-- CALIBRATION_EFFECT: the writes that are due at this tick boundary take effect (R90). -/
def calibrationEffect (s : State) : State :=
  s.fe.calDue.foldl (fun t w =>
    (calResets t w).foldl (fun u ch => askReset .calibration ch u) (setFe (fun f => { calInForce w f with
      calDue := f.calDue.erase w }) t)) s

def execCalibrationEffect (s : State) : Result := .next (calibrationEffect s)

/-! ## FE_STATUS -/

/-- FE_STATUS: per channel 8 bytes in the response buffer: [2:0] range in use, [8] common-mode fault, [9] `lin_oor`, [47:32]
common-mode voltage in mV (Table 03-7 names the values; the layout is the model's, log 26). -/
def bodyFeStatus (c : Cmd) (s : State) : State :=
  respond 0x0308 c ((List.range 24).flatMap fun ch =>
    let x := chanOf s ch
    leBytes 8 (pack [(0, 3, x.range), (8, 1, b2n x.cmFault), (9, 1, b2n x.linOor), (32, 16, wrapN 16 x.cmMv)])) 0 s

def execFeStatus (c : Cmd) (s : State) : Result := .next (deliver 0x0308 bodyFeStatus c s)

/-! ## APPLY_TAKES_EFFECT (R122, R75, R81, R84, R112, Table 04-3) -/

/-- Chain and detector settings whose change is a synchronising reset: all but Lc (R117, Table 04-3). -/
def chainResets (a b : ChainCfg) : Bool := { a with coarseLen := b.coarseLen } != b

/-- What a set that takes effect does to one channel, enabled or not (R75, R84, R112, R122, Table 04-3). A channel that it enables with its
`iepe` bit already 1 counts as one whose IEPE mode is enabled, and presets the servo: R74 speaks of enabling IEPE mode and of a power-on
(DESIGN CHOICE, log 67). -/
def applyChan (old new : FeCfg) (ch : Nat) (s : State) : State :=
  let r0 := routeOf old ch
  let r1 := routeOf new ch
  let x := chanOf s ch
  let enabled := r1.enable && !r0.enable
  let x1 := if enabled then
      { x with
        range := (rangeOf new ch).range
        transient := false
        flagLeft := 0
        dwell := 0
        cmFault := false
        cmOut := 0
        cmIn := 0 }
    else if r1.enable && commandsRange old new ch then rangeTo (rangeOf new ch).range x
    else if !r1.enable then { x with cmFault := false, cmOut := 0, cmIn := 0 } else x
  let restart (e : Nat) (v : EvRun) : EvRun :=
    let a := eventOf old (2 * ch + e)
    let b := eventOf new (2 * ch + e)
    if a == b then v else { active := v.active && b.enable, cntOn := 0, cntOff := 0 }
  let s1 := setChan ch (fun _ => { x1 with ev0 := restart 0 x1.ev0, ev1 := restart 1 x1.ev1 }) s
  let s2 := if r1.enable && r1.iepe && !(r0.enable && r0.iepe) then askReset .iepe ch s1 else s1
  if enabled || r0 != r1 || chainResets (chainOf old ch) (chainOf new ch) ||
      (curveOf old ch).curve != (curveOf new ch).curve then
    askReset .apply ch s2 else s2

/-- What a set that takes effect does to one source: a change resets the referencing channels and restarts its chopping in the set
polarity (R81, R82). -/
def applySrc (old new : FeCfg) (n : Nat) (s : State) : State :=
  if srcOf old n == srcOf new n then s
  else
    let s1 := if 8 ≤ n ∧ n < 12 then
        setFe (fun f => { f with
          chopCnt := tabSet f.chopCnt (n - 8) 0
          chopDue := f.chopDue &&& ~~~(1#4 <<< (n - 8))
          reversed := tabSet f.reversed (n - 8) (srcOf new n).polarity
          srcFault := if (srcOf new n).enable then f.srcFault else f.srcFault &&& ~~~(1#4 <<< (n - 8)) }) s
      else s
    (refChans new n).foldl (fun t ch => askReset .source ch t) s1

/-- APPLY_TAKES_EFFECT: the sealed set is in force at sample 0 of the tick; APPLY completes with the tick number, in the low bits
of the completion's `data` (DESIGN CHOICE of place, log 26); the configuration is stored (R122, R66). -/
def applyTakesEffect (s : State) : State :=
  match s.fe.sealed_ with
  | none => s
  | some t =>
    if !s.fe.sealedDue then s
    else
      let old := s.fe.cfg
      let new := laid old t
      let s1 := setFe (fun f => { f with cfg := new, sealed_ := none, sealedDue := false }) s
      let s2 := (List.range 24).foldl (fun u ch => applyChan old new ch u) s1
      let s3 := (List.range 16).foldl (fun u n => applySrc old new n u) s2
      let s4 := if s3.fe.srcFault != s.fe.srcFault then raiseInt 8 s3 else s3
      finish (fun a => a == .applySet) .ok s.tick.no.toNat (storeConfig s4)

def execApplyTakesEffect (s : State) : Result := .next (applyTakesEffect s)

/-- VEXC_TOLERANCE_CHANGE: sources are off while VEXC is out of tolerance (R532): a source that is off holds no current limit. -/
def vexcChange (ok : Bool) (s : State) : State :=
  let s1 := setFe (fun f => { f with vexcOk := ok, srcFault := if ok then f.srcFault else 0 }) s
  if s1.fe.srcFault != s.fe.srcFault then raiseInt 8 s1 else s1

def execVexcToleranceChange (ok : Bool) (s : State) : Result := .next (vexcChange ok s)

end Sys2Proof.Machine
end

