-- ==== Sys2Proof/Machine/Power.lean ====
section
/-! DEFINITION. The power manager (chapter 18): requests and grants, polder states, gates and drains, bank states, the governor's
command and PWR_STATUS. -/

namespace Sys2Proof.Machine

/-- Absolute time of an offset in the running tick. -/
def absAt (s : State) (at_ : Nat) : Nat := s.tick.t0Abs + at_

/-- Field of an array or field-engine polder, none for the other polders (Table 02-6). -/
def polderField (p : Nat) : Option Nat := if p < 256 then some (p / 16) else if p < 272 then some (p - 256) else none

/-! ## Requests (R474, R58, R492) -/

/-- A drain of a polder is abandoned: it is UP again, and for a field memory its gates reopen. -/
def abandonDrain (p : Nat) (s : State) : State := polderSet p .up s

/-- A power-up request: completes at once for a polder that is UP or POWERING, abandons a drain, is refused where it would break
R58, and otherwise waits for a grant (R474). A power-down of the polder that waits under R218 or R223 is dropped. -/
def requestPolder (p : Nat) (s0 : State) : State :=
  let s := setPower (fun w => { w with retry := w.retry.erase p }) s0
  if !polderPresent s.part p || computeDown s then s
  else match polder s p with
  | .up => s
  | .powering _ => s
  | .draining _ => abandonDrain p s
  | .down =>
    let ok := match polderField p with
      | none => true
      | some f => match polder s (pFm f) with | .up => true | .powering _ => true | _ => false
    if ok && !s.power.queue.contains (.polder p) then setPower (fun w => { w with queue := w.queue ++ [.polder p] }) s else s

/-- A DRAM request while the DRAM polder is not UP makes the firmware request it (R336, R482). -/
def needDram (s : State) : State := if polderUp s pDram then s else requestPolder pDram s

/-- What a queued request can do now: complete without a grant, be refused, be held, or be granted (R474). -/
inductive ReqNow where
  | drop | hold | grant
  deriving DecidableEq, Repr

/-- Classify a queued request. -/
def reqNow (s : State) : PwrReq → ReqNow
  | .polder p =>
    if polder s p != .down then .drop
    else match polderField p with
    | none => .grant
    | some f => match polder s (pFm f) with | .up => .grant | .powering _ => .hold | _ => .drop
  | .banks f _ => if polderUp s (pFm f) then .grant else .drop

/-- Grants that started in the last 1,200 ac. -/
def recentGrants (s : State) (now : Nat) : Nat := (s.power.grants.filter fun t => decide (now < t + 1200)).length

/-- Time for a bank to turn on from off (Table 07-4). -/
def bankOnTime (p : Part) : Nat := match p.order with | .f6 => 768 | _ => 512

/-- A grant takes effect. -/
def grantNow (now : Nat) (r : PwrReq) (s : State) : State :=
  let s1 := setPower (fun w => { w with grants := now :: (w.grants.take 7) }) s
  match r with
  | .polder p => polderSet p (.powering now) s1
  | .banks f mask =>
    let ready := now + bankOnTime s.part
    (maskList 32 mask.toNat).foldl (fun t b =>
      if bankSt t f b == .turning none then setFm (fun m => { m with banks := tabSet m.banks (32 * f + b) (.turning (some ready)) }) t
      else t) s1

/-- A power-up that would break R58: the field memory of a DOWN array or engine polder is DOWN or DRAINING (R474). -/
def breaksR58 (s : State) (p : Nat) : Bool :=
  polder s p == .down && (match polderField p with
    | none => false
    | some f => match polder s (pFm f) with | .up => false | .powering _ => false | _ => true)

/-- A refused power-up is logged. Table 19-12 gives it no code, so the entry's code is a free value (R474; log 62). -/
def logRefusedUp (p : Nat) (s : State) : State :=
  let e : LogEntry := { seq := s.boot.logSeq, tick := s.tick.no, code := Config.freeNat s.free 0 % 65536, src := 5,
                        arg := BitVec.ofNat 64 p, arg2 := 0 }
  draw (setBoot (fun b => { b with logSeq := b.logSeq + 1, log := (e :: b.log).take 4096 }) s)

/-- The queued requests that R474 refuses now. -/
def refusedNow (s : State) : List Nat :=
  s.power.queue.filterMap fun r => match r with
    | .polder p => if breaksR58 s p then some p else none
    | .banks _ _ => none

/-- POWER_UP_GRANT: the first request that can be granted is, at most two in any 1,200 ac (R474). -/
def powerUpGrant (at_ : Nat) (s0 : State) : State :=
  let now := absAt s0 at_
  let s := (refusedNow s0).foldl (fun t p => logRefusedUp p t) s0
  let s1 := setPower (fun w => { w with queue := w.queue.filter fun r => reqNow s r != .drop }) s
  match s1.power.queue.find? fun r => reqNow s1 r == .grant with
  | none => s1
  | some r =>
    if recentGrants s1 now < 2 then grantNow now r (setPower (fun w => { w with queue := w.queue.erase r }) s1) else s1

def execPowerUpGrant (at_ : Nat) (s : State) : Result := .next (powerUpGrant at_ s)

/-- PWR_UP: a request for a polder, refused and logged where it would break R58 (R474). -/
def pwrUp (p : Nat) (s : State) : State :=
  if polderPresent s.part p && !computeDown s && breaksR58 s p then logRefusedUp p s else requestPolder p s

def execPwrUp (polder : Nat) (s : State) : Result := .next (pwrUp polder s)

/-! ## Schedule changes and their polders (R218) -/

/-- Polders of a set, ascending. -/
def polderList (set : BitVec 293) : List Nat := maskList 293 set.toNat

/-- The requests that a pending change still has to send: those of field memories first, in ascending polder number, and then the others in
theirs; an array or engine once its field memory is UP, which a field memory that drains is as soon as it is asked for (R218, R474). -/
def changeRequests (s : State) : State :=
  match s.seq.change with
  | none => s
  | some c =>
    let ps := polderList c.polders
    let fm (p : Nat) : Bool := decide (272 ≤ p ∧ p < 288)
    (ps.filter fm ++ ps.filter fun p => !fm p).foldl (fun t p =>
      match polderField p with
      | some f => if polderUp t (pFm f) then requestPolder p t else t
      | none => requestPolder p t) s

/-- When every polder of a pending change is up, the first tick at whose boundary it may take effect is fixed, `lead` ticks from this one
(R218). -/
def noteUp (lead : Nat) (s : State) : State :=
  match s.seq.change with
  | none => s
  | some c =>
    if c.dueTick.isNone && (polderList c.polders).all (fun p => polderUp s p || !polderPresent s.part p) then
      setSeq (fun q => { q with change := some { c with dueTick := some (s.tick.no + BitVec.ofNat 64 lead) } }) s
    else s

/-- An enabled link's polder is wanted up (R382): the link is neither ADMIN_DOWN nor INCOMPATIBLE. -/
def linkWanted (s : State) (l : Nat) : Bool :=
  decide (l < 4) && s.links.ident.linkEn.getLsbD l &&
    (let p := (tabGet {} s.links.link l).phase; p != .adminDown && p != .incompatible)

/-! ## Links as state -/

/-- A link. -/
def linkOf (s : State) (l : Nat) : Link := tabGet {} s.links.link l

/-- Change a link. -/
def setLink (l : Nat) (f : Link → Link) (s : State) : State :=
  setLinks (fun k => { k with link := tabSet k.link l (f (tabGet {} k.link l)) }) s

/-- State codes of Table 14-4. -/
def linkCode : LinkPhase → Nat
  | .disabled => 0 | .training => 1 | .up => 2 | .down => 3 | .adminDown => 4 | .miswired => 5 | .incompatible => 6

/-- Entry of the link map for a link of this chip. -/
def mapKey (s : State) (l : Nat) : Nat := 4 * s.links.ident.chipId + l

/-- A link-state word is flooded in the control blocks of every UP link (R375, R395). -/
def flood (key : Nat) (w : LinkWord) (s : State) : State := setLinks (fun k => { k with flooded := (key, w) :: k.flooded }) s

/-- A link's state changes: logged, an interrupt bit, and the link map of this chip follows; the change is flooded (Tables 14-4, 19-12, 20-5,
R395). -/
def setPhase (l : Nat) (p : LinkPhase) (s : State) : State :=
  if (linkOf s l).phase = p then s
  else
    let s1 := setLink l (fun k => { k with phase := p, upFrames := 0 }) s
    let key := mapKey s l
    let s2 := setLinks (fun k => { k with
      downMap := if p == .up then k.downMap.filter (· != key) else if k.downMap.contains key then k.downMap else key :: k.downMap }) s1
    raiseInt 3 (logEvent 0x0030 0 (linkCode p) l (flood key (if p == .up then .up else .down) s2))

/-! ## Polders up and down (Table 18-1, R191, R157) -/

/-- What a polder held is lost. -/
def polderLost (p : Nat) (s : State) : State :=
  if p < 256 then setFm (fun m => { m with arrs := tabDel m.arrs p }) s
  else if 272 ≤ p ∧ p < 288 then
    let f := p - 272
    setFm (fun m => { m with
      mem := memClear (chipAddr f 0) (chipAddr (f + 1) 0) m.mem
      poison := m.poison.filter fun e => e.1 / 2 ^ 20 != f
      flips := m.flips.filter fun e => e.1 / 2 ^ 20 != f
      rewrite := tabDel m.rewrite f
      banks := m.banks.filter fun e => e.1 / 32 != f }) s
  else if 289 ≤ p then
    let l := p - 289
    let keep := (linkOf s l).phase
    setLinks (fun k => { k with
      link := tabSet k.link l { tabGet {} k.link l with
        upFrames := 0, txq := [], replay := [], replayLeft := 0, replayRun := 0, credSched := 0, credShared := 0
        issuedSched := 0, issuedShared := 0, txCount := 0, rxCount := 0, rxMissing := false, farPlan := none } })
      (setPhase l (if keep == .adminDown || keep == .incompatible then keep else .disabled) s)
  else s

/-- Arrays of a field, as polders. -/
def arraysOf (f : Nat) : List Nat := (List.range 16).map fun i => 16 * f + i

/-- A power-down that R58 forbids: a field memory whose arrays or engines are still powered. -/
def downForbidden (s : State) (p : Nat) : Bool :=
  decide (272 ≤ p ∧ p < 288) &&
    (polder s (pEngine (p - 272)) != .down || (arraysOf (p - 272)).any fun a => polder s a != .down)

/-- A power-down that R382 forbids: of an enabled link's polder while a move list runs. -/
def linkKept (s : State) (p : Nat) : Bool := decide (289 ≤ p) && s.seq.active.isSome && linkWanted s (p - 289)

/-- A power-down starts: the polder is DRAINING (R478, R481). -/
def startDown (p now : Nat) (s : State) : State :=
  if polderUp s p && !downForbidden s p && !linkKept s p then polderSet p (.draining now) s else s

/-- An engine polder whose field's arrays are still to go down: a field goes down in the order arrays, engines, field memory (R481). -/
def arraysFirst (s : State) (p : Nat) : Bool :=
  decide (256 ≤ p ∧ p < 272) && (arraysOf (p - 256)).any fun a => s.power.retry.contains a && polder s a != .down

/-- The polders that are to go down after a schedule change or a stop, each as soon as R58 and the order of R481 let it; an abandoned power-down
starts again at the next frame boundary only (R218, R480, R481). -/
def retryDown (now : Nat) (s : State) : State :=
  (s.power.retry.filter fun p => !s.power.abandoned.contains p).foldl (fun t p => if arraysFirst t p then t else startDown p now t)
    (setPower (fun w => { w with retry := w.retry.filter fun p => polder s p != .down }) s)

/-- POLDER_UP: 3,600 ac after its grant. A link polder starts the training of an enabled link (R378). Two whole ticks lie between a last
polder that comes up after T0 of tick n and T0 of tick n + 3 (R218). A polder that a stop left to come up first goes down at once (R223). -/
def polderComesUp (p at_ : Nat) (s : State) : State :=
  match polder s p with
  | .powering t =>
    if t + 3600 ≤ absAt s at_ then
      let s1 := polderSet p .up (polderLost p s)
      let s2 := if 289 ≤ p ∧ linkWanted s (p - 289) then
          setPhase (p - 289) .training s1
        else s1
      retryDown (absAt s at_) (noteUp (if at_ = 0 then 2 else 3) (changeRequests s2))
    else s
  | _ => s

/-- The power-downs that were abandoned start again at a frame boundary (R480). -/
def retryBoundary (s : State) : State := retryDown (absAt s 0) (setPower (fun w => { w with abandoned := [] }) s)

/-- PWR_DOWN (R478, R481). -/
def execPwrDown (polder at_ : Nat) (s : State) : Result := .next (startDown polder (absAt s at_) s)

/-! ## Gates (R477 to R480, R483) -/

/-- The gate of bank b of field f is closing. -/
def gateClosing (s : State) (f b : Nat) : Bool :=
  (match polder s (pFm f) with | .draining _ => true | _ => false) ||
  [0, 1].any fun k => match tabFind s.power.closing (2 * f + k) with | some g => g.mask.getLsbD b | none => false

/-- Banks that a transfer's field-memory destination touches, as (field, bank). -/
def xferBanks (x : Xfer) : List (Nat × Nat) :=
  if x.dstKind != .fieldMem then []
  else (x.chunks.flatMap fun c =>
    (List.range ((c.len + 7) / 8)).map fun i =>
      let p := c.off + 8 * i
      let a := if x.fw then c.dstAt + 8 * i else x.dst + (if x.rowLen = 0 then 0 else p / x.rowLen * x.dstStride + p % x.rowLen)
      (a / 2 ^ 23, bitsN a 22 18)).eraseDups

/-- A registered transfer still has to write through one of the gates (R477). -/
def gateBusy (s : State) (f : Nat) (mask : BitVec 32) : Bool :=
  s.fm.xfers.any fun x => x.registered && (xferBanks x).any fun e => e.1 == f && mask.getLsbD e.2

/-- A bank holds zeros with valid check bits: no byte other than 0, no mark and no wrong bit (R191). -/
def clearBank (f b : Nat) (m : Fm) : Fm :=
  let lo := chipAddr f (b * 2 ^ 18)
  { m with
    mem := memClear lo (lo + 2 ^ 18) m.mem
    poison := m.poison.filter fun e => !decide (lo / 8 ≤ e.1 ∧ e.1 < (lo + 2 ^ 18) / 8)
    flips := m.flips.filter fun e => !decide (lo / 8 ≤ e.1 ∧ e.1 < (lo + 2 ^ 18) / 8) }

/-- Banks leave the on state: retaining keeps contents and poison marks, off loses them (Table 07-4, R191). -/
def banksTo (f : Nat) (mask : BitVec 32) (off : Bool) (s : State) : State :=
  (maskList 32 mask.toNat).foldl (fun t b =>
    setFm (fun m =>
      if off then { clearBank f b m with banks := tabDel m.banks (32 * f + b) }
      else { m with banks := tabSet m.banks (32 * f + b) .retaining }) t) s

/-- Banks of a mask in a state. -/
def banksIn (s : State) (f : Nat) (mask : BitVec 32) (p : BankSt → Bool) : BitVec 32 :=
  BitVec.ofNat 32 (listMask ((maskList 32 mask.toNat).filter fun b => p (bankSt s f b)))

/-- BANK_SET (R478, R483, R492). Retaining or off asked of a bank that is still turning on or waking has no effect (no rule says; DESIGN
CHOICE, log 86). -/
def bankSet (f : Nat) (mask : BitVec 32) (req : BankReq) (now : Nat) (s : State) : State :=
  if !polderUp s (pFm f) then s
  else match req with
  | .on =>
    let s1 := setPower (fun w => { w with closing := (w.closing.map fun e =>
      if e.1 / 2 = f then (e.1, { e.2 with mask := e.2.mask &&& ~~~mask }) else e).filter fun e => e.2.mask != 0 }) s
    let offs := banksIn s1 f mask fun b => b == .off
    let ret := banksIn s1 f mask fun b => b == .retaining
    let s2 := (maskList 32 ret.toNat).foldl (fun t b =>
      setFm (fun m => { m with banks := tabSet m.banks (32 * f + b) (.waking (now + 32)) }) t) s1
    if offs = 0 then s2
    else
      let s3 := (maskList 32 offs.toNat).foldl (fun t b =>
        setFm (fun m => { m with banks := tabSet m.banks (32 * f + b) (.turning none) }) t) s2
      setPower (fun w => { w with queue := w.queue ++ [.banks f offs] }) s3
  | r =>
    let off := r == .off
    let ons := banksIn s f mask fun b => b == .on
    let rets := banksIn s f mask fun b => b == .retaining
    let s1 := if off then banksTo f rets true s else s
    if ons = 0 then s1
    else setPower (fun w => { w with closing := tabSet w.closing (2 * f + b2n off) { mask := ons, since := now } }) s1

def execBankSet (field : Nat) (mask : BitVec 32) (req : BankReq) (at_ : Nat) (s : State) : Result :=
  .next (bankSet field mask req (absAt s at_) s)

/-- BANK_READY: a bank that turns on, cleared to zero, or wakes, is on at its time (R191, Table 07-4). -/
def bankReady (f b at_ : Nat) (s : State) : State :=
  let ready (t : Nat) : Bool := decide (t ≤ absAt s at_)
  let go := match bankSt s f b with | .turning (some t) => ready t | .waking t => ready t | _ => false
  let clear : Bool := match bankSt s f b with | .turning _ => true | _ => false
  if go then setFm (fun m =>
    { (if clear then clearBank f b m else m) with banks := tabSet m.banks (32 * f + b) .on }) s
  else s

def execBankReady (field bank at_ : Nat) (s : State) : Result := .next (bankReady field bank at_ s)

/-- Member arrays of a unit, flattened, in row-major order of the units (R50, R52). -/
def flatten : Nat → MList → Nat → List Nat
  | 0, _, _ => []
  | n + 1, l, u =>
    if u < 256 then [u]
    else match l.groups[u - 256]? with
    | none => []
    | some g => g.members.flatMap (flatten n l)

/-- Arrays of a unit of the running list; group entries nest at most 1,024 deep. -/
def unitArrays (l : MList) (u : Nat) : List Nat := flatten 1025 l u

/-- An issued move runs on array a: the move's target is the array, or a unit whose flattened members include it (R52, R481). -/
def flyingOn (s : State) (a : Nat) : Bool :=
  s.seq.flying.any fun m => m.engine == a || (decide (256 ≤ m.engine ∧ m.engine < 1280) &&
    (match s.seq.active with
     | some l => (unitArrays l m.engine).contains a
     | none => false))

/-- What a draining polder waits for is still there (R478, R481, R482). -/
def drainBusy (s : State) (p : Nat) : Bool :=
  if p < 256 then flyingOn s p
  else if p < 272 then
    let f := p - 256
    (s.seq.flying.any fun m => m.engine == 0x500 + f || m.engine == 0x520 + f || m.engine == 0x540 + f) ||
      (s.fm.xfers.any fun x => x.field == f) || s.fm.descQueue.any fun q => q.field == f
  else if p < 288 then gateBusy s (p - 272) (BitVec.ofNat 32 (2 ^ 32 - 1))
  else if p = 288 then
    (s.fm.xfers.any fun x => x.srcKind == .dram || x.dstKind == .dram) ||
      s.fm.descQueue.any fun q => q.o.srcKind == .dram || q.o.dstKind == .dram
  else false

/-- The closes of one field under BANK_SET that nothing holds up any more. -/
def closeDone (f : Nat) (s : State) : State :=
  [0, 1].foldl (fun t k =>
    match tabFind t.power.closing (2 * f + k) with
    | none => t
    | some g =>
      if gateBusy t f g.mask then t
      else banksTo f g.mask (k == 1) (setPower (fun w => { w with closing := tabDel w.closing (2 * f + k) }) t)) s

/-- Count an abandoned power-down or close (R480). -/
def abandonCount (f : Nat) (mask : BitVec 32) (s : State) : State :=
  logEvent 0x0021 5 f mask.toNat (bump cSluiceAbandon s)

/-- POWER_DOWN_ABANDON: 4,096 ac after the request writes or moves are still in flight; the gates reopen, the banks stay on, and the
polder returns to UP (R480, R481). -/
def powerDownAbandon (p at_ : Nat) (s : State) : State :=
  let now := absAt s at_
  match polder s p with
  | .draining since =>
    if decide (since + 4096 ≤ now) && drainBusy s p then
      let f := if p < 256 then p / 16 else if p < 288 then p % 16 else 0
      abandonCount f (if 272 ≤ p ∧ p < 288 then BitVec.ofNat 32 (2 ^ 32 - 1) else 0)
        (setPower (fun w => { w with abandoned := if w.retry.contains p then p :: w.abandoned else w.abandoned }) (polderSet p .up s))
    else s
  | .up =>
    if 272 ≤ p ∧ p < 288 then
      let f := p - 272
      [0, 1].foldl (fun t k =>
        match tabFind t.power.closing (2 * f + k) with
        | some g =>
          if decide (g.since + 4096 ≤ now) && gateBusy t f g.mask then
            abandonCount f g.mask (setPower (fun w => { w with closing := tabDel w.closing (2 * f + k) }) t)
          else t
        | none => t) s
    else s
  | _ => s

def execPowerDownAbandon (polder at_ : Nat) (s : State) : Result := .next (powerDownAbandon polder at_ s)

/-! ## Commands (Table 18-5) -/

/-- PWR_STATUS: Table 18-7 in `data`. -/
def bodyPwrStatus (c : Cmd) (s : State) : State := completeOk 0x0901 c (pwrData s) s

/-- PWR_GOVERNOR: range checks, BUSY while an earlier one is pending; its values take effect at the next frame boundary (R491). -/
def bodyPwrGovernor (c : Cmd) (s : State) : State :=
  let g : GovParams :=
    { recoverFrames := fld c 95 80 500
      hystA := fld c 79 72 8
      hystT := fld c 71 64 3
      iGov := fld c 63 56 105
      tjGov := fld c 55 48 105
      ceiling := fld c 1 0 0 }
  if g.recoverFrames = 0 ∨ g.hystA = 0 ∨ 50 < g.hystA ∨ g.hystT = 0 ∨ 20 < g.hystT ∨ g.iGov < 40 ∨ 110 < g.iGov ∨
      g.tjGov < 70 ∨ 105 < g.tjGov ∨ g.ceiling = 3 then fail 0x0902 c .badParam s
  else if waiting s (fun a => match a with | .governor _ => true | _ => false) then fail 0x0902 c .busy s
  else waitFor 0x0902 c (.governor g) s

def execPwrStatus (c : Cmd) (s : State) : Result := .next (deliver 0x0901 bodyPwrStatus c s)
def execPwrGovernor (c : Cmd) (s : State) : Result := .next (deliver 0x0902 bodyPwrGovernor c s)

end Sys2Proof.Machine
end

