-- ==== Sys2Proof/Machine/Chain.lean ====
section
/-! DEFINITION. The filter and decimation chain (chapter 04): the fine path, coefficient banks and fades, coarse level, detectors,
threshold events, and the delivery of summary entries and the fine stream. -/

namespace Sys2Proof.Machine

/-! ## Words (R93, R94) -/

/-- Saturate to 32 bits; the second value says whether it did. -/
def sat32 (x : Int) : Int × Bool :=
  if x < -2147483648 then (-2147483648, true) else if 2147483647 < x then (2147483647, true) else (x, false)

/-- x / d rounded half to even, d > 0. -/
def divEven (x : Int) (d : Nat) : Int :=
  let q := x / (d : Int)
  let r := x - q * (d : Int)
  if 2 * r < d then q else if (d : Int) < 2 * r then q + 1 else if q % 2 = 0 then q else q + 1

/-- A stage's result: divided by 2^sh, rounded half to even, saturated (R94). -/
def stageOut (r : Int) (sh : Nat) : Int × Bool := sat32 (divEven r (2 ^ sh))

/-! ## Samples (R72, R77, R82) -/

/-- A sample with the gain (Q2.30) and the offset (signed, in 2^−23 of full scale) of a calibration set applied, exactly and then to a whole
word: which of the two comes first and how the result rounds are free (R72, R89; log 23). -/
def calibrated (r : Nat) (gain offset : W32) (v : Int) : Int :=
  let g : Int := gain.toNat
  let o := signedN 32 offset.toNat * fullScale r
  let num := if Config.calOffsetFirst then (v * 2 ^ 23 + o) * g else v * g * 2 ^ 23 + o * 2 ^ 30
  let q := num / 2 ^ 53
  if num % 2 ^ 53 ≠ 0 ∧ Config.calRoundUp r gain offset v = true then q + 1 else q

/-- The channel is in IEPE mode by the applied configuration (R74). -/
def iepeOn (s : State) (ch : Nat) : Bool := (routeOf s.fe.cfg ch).iepe

/-- What reaches the gain stage: the input, in IEPE mode less the DC level of the servo (R74). -/
def gainIn (s : State) (ch : Nat) (input : Int) : Int := if iepeOn s ch then input - (chanOf s ch).servo / 2 ^ 32 else input

/-- The servo one sample later: a first-order high-pass with its corner at 0.16 Hz, at 32 × 10^6 samples per second (R71, R74; its order is
PRESUMED, log 67). The factor is 1 − exp(−2π × 0.16 / 32,000,000) in 2^−64. -/
def servoNext (servo input : Int) : Int := servo + (input * 2 ^ 32 - servo) * 579521548288 / 2 ^ 64

/-- A sample of a channel's input in units of 2^−27 V becomes the corrected sample: less the DC level that the servo of IEPE mode removes,
clipped at full scale, corrected with the range's calibration set, sign removed in a reversed phase (R74, R77, R72, R82; log 23). A reversed
phase is one in which the source stands against its set polarity, a reading of R82 (log 83). Answers the sample and whether it was
clipped. -/
def correct (s : State) (ch : Nat) (input : Int) : Int × Bool :=
  let x := chanOf s ch
  let fs := fullScale x.range
  let raw := gainIn s ch input
  let clip := decide (raw < -fs ∨ fs < raw)
  let v := max (-fs) (min fs raw)
  let g := calSet s ch x.range
  let w := calibrated x.range g.1 g.2 v
  let rev := match routeSrc (routeOf s.fe.cfg ch) with
    | some n => decide (8 ≤ n) && (srcOf s.fe.cfg n).enable && (srcOf s.fe.cfg n).chop != 0 &&
        (tabGet (srcOf s.fe.cfg n).polarity s.fe.reversed (n - 8) != (srcOf s.fe.cfg n).polarity)
    | none => false
  ((sat32 (if rev then -w else w)).1, clip)

/-! ## Sinc³, moving average, FIR (R96 to R98, R101) -/

/-- n choose 2 of n + 2, and 0 below: a term of the convolution of three runs of ones. -/
def tri (n : Int) : Int := if n < 0 then 0 else (n + 2) * (n + 1) / 2

/-- Weight h_j of the sinc³ decimator (R96). -/
def sincWeight (n : Nat) (j : Nat) : Int :=
  tri j - 3 * tri ((j : Int) - n) + 3 * tri ((j : Int) - 2 * n) - tri ((j : Int) - 3 * n)

/-- Σ h_j x[…−j] over samples, newest first. -/
def sincSum (n : Nat) : Nat → List Int → Int
  | _, [] => 0
  | j, x :: t => sincWeight n j * x + sincSum n (j + 1) t

/-- Σ c_i v[k−i] over the first `taps` words, newest first (R98). -/
def firSum (b : Bank) : Nat → List Int → Int
  | _, [] => 0
  | i, v :: t => if i < b.taps then tabGet 0 b.coefs i * v + firSum b (i + 1) t else 0

/-- The FIR words of a fine output with the fade (R98, R101): y, and whether a word saturated. -/
def firWord (x : Chan) (vs : List Int) : Int × Bool :=
  let yn := stageOut (firSum x.bankNew 0 vs) x.bankNew.shift
  match x.fade with
  | none => yn
  | some f =>
    let yo := stageOut (firSum x.bankOld 0 vs) x.bankNew.shift
    let y := sat32 (divEven (((f.len : Int) - f.i) * yo.1 + f.i * yn.1) f.len)
    (y.1, yn.2 || yo.2 || y.2)

/-! ## Linearisation (R85 to R87, R99) -/

/-- Calibrated excitation in amperes or volts as an exact number (R86). -/
def excitation (s : State) (r : Route) : Fp :=
  if r.excKind = 1 then
    fpDiv (fpMul (fpOfInt (srcOf s.fe.cfg r.excNum).value 0) (fpOfInt (ratioOf s (4 * r.excNum + r.excOut)).toNat (-30)))
      (fpOfInt 100000 0)
  else
    let v := srcOf s.fe.cfg (8 + r.excNum)
    let p := tabGet v.polarity s.fe.reversed r.excNum
    fpMul (fpOfInt (nth [5, 10, 20] v.value 5) (-1)) (fpOfInt (ratioOf s (32 + 2 * r.excNum + b2n p)).toNat (-30))

/-- Callendar–Van Dusen: R(T) / R0 in fixed point for T in fixed point (R86). -/
def cvd (t : Int) : Int :=
  let a : Int := 39083 * fixOne / 10000000
  let b : Int := -5775 * fixOne / 10000000000
  let c : Int := if t < 0 then -4183 * fixOne / 1000000000000000 else 0
  let tt := fixMul t t
  fixOne + fixMul a t + fixMul b tt + fixMul (fixMul c (t - 100 * fixOne)) (fixMul t tt)

/-- Bisection for the temperature whose R(T) / R0 is `r`, between fixed-point ends. -/
def cvdSolve : Nat → Int → Int → Int → Int
  | 0, lo, _, _ => lo
  | n + 1, lo, hi, r =>
    let mid := (lo + hi) / 2
    if cvd mid ≤ r then cvdSolve n mid hi r else cvdSolve n lo mid r

/-- Valid range of a temperature curve in °C (Table 03-6). -/
def curveRange (c : Nat) : Int × Int :=
  match c with
  | 1 => (0, 1820) | 2 => (-270, 1000) | 3 => (-210, 1200) | 4 => (-270, 1372) | 5 => (-270, 1300)
  | 6 => (-50, 1768) | 7 => (-50, 1768) | 8 => (-270, 400) | _ => (-200, 850)

/-- A voltage held within the full scale of a range code, and whether it was outside (curves 0, 30 and 31: Table 03-6, R87). The range is the one
in use as the output forms, for a window that spans a range change too, which R87 leaves open (DESIGN CHOICE, log 24). -/
def clampFs (r : Nat) (v : Fp) : Fp × Bool :=
  let fs := fpOfInt (fullScale r) (-27)
  if fpLt v (fpNeg fs) then (fpNeg fs, true) else if fpLt fs v then (fs, true) else (v, false)

/-- The source that a curve divides by is enabled (R63, R86). -/
def excOn (f : FeCfg) (ch : Nat) : Bool := match routeSrc (routeOf f ch) with | some n => (srcOf f n).enable | none => false

/-- A fine voltage to the curve's unit: FP32 value and whether it was clamped (R85 to R87). A named cold junction enters with its last fine output
as this one forms, which R85 leaves open (DESIGN CHOICE, log 24). Over a source that is disabled, whose value is not used (R63), a curve of R86
has no stated result: it is a free value, a temperature within its valid range (log 24). -/
def linearise (s : State) (ch : Nat) (v : Fp) : W32 × Bool :=
  let r := routeOf s.fe.cfg ch
  let c := curveOf s.fe.cfg ch
  let fs := clampFs (chanOf s ch).range v
  if (c.curve = 16 ∨ c.curve = 17 ∨ c.curve = 30 ∨ c.curve = 31) ∧ !excOn s.fe.cfg ch then
    let w := Config.freeW32 s.free (2000 + ch)
    (if c.curve < 30 then f32max (f32ofInt (curveRange c.curve).1) (f32min (f32ofInt (curveRange c.curve).2) w) else w,
      Config.freeBool s.free (2000 + ch))
  else
  match c.curve with
  | 0 => (enc32 fs.1, fs.2)
  | 30 => (enc32 (fpDiv fs.1 (excitation s r)), fs.2)
  | 31 => (enc32 (fpMul (fpOfInt 1000 0) (fpDiv fs.1 (excitation s r))), fs.2)
  | n =>
    let (lo, hi) := curveRange n
    if n = 16 ∨ n = 17 then
      let ratio := toFix (fpDiv (fpDiv v (excitation s r)) (fpOfInt (if n = 16 then 100 else 1000) 0))
      if ratio < cvd (lo * fixOne) then (f32ofInt lo, true)
      else if cvd (hi * fixOne) < ratio then (f32ofInt hi, true)
      else
        let t := ofFix (cvdSolve 200 (lo * fixOne) (hi * fixOne) ratio)
        let w := within32 t (fpDiv fpOne (fpOfInt 100 0)) (Config.freeW32 s.free ch)
        (f32max (f32ofInt lo) (f32min (f32ofInt hi) w), false)
    else
      let cj := if c.cj = 0xFF then Config.packageTemp s.free else (chanOf s c.cj).fine
      let (a, b) : Int × Int := match v with | .fin g m e => (if g then -(m : Int) else m, e) | _ => (0, 0)
      let t := Config.thermocouple n a b cj
      if f32lt t (f32ofInt lo) || f32isNan t then (f32ofInt lo, true)
      else if f32lt (f32ofInt hi) t then (f32ofInt hi, true)
      else (t, false)

/-! ## Detectors (R106 to R109, R115) -/

/-- Multiply by 2^−n, one rounding. -/
def f32shr (a : W32) (n : Nat) : W32 := enc32 (fpScale (-(n : Int)) (dec32 a))

/-- The detectors start from a state of zero (R115). -/
def detStart (x : Chan) : Chan :=
  { x with
    held := false, dk := 0, peak := 0, peakAt := 0, peakRt := false, win := [], rms := 0
    f1 := 0, f2 := 0, b1 := 0, b2 := 0, env := 0, envFlag := none }

/-- Band-pass coefficients g, c1, a of the envelope, each rounded once to FP32 (R108). -/
def bandCoefs (k : ChainCfg) : W32 × W32 × W32 :=
  let ang := fixPi * k.envBw / 65536
  let t := fixSin ang * (2 ^ fixP : Nat) / fixCos ang
  let a := (fixOne - t) * (2 ^ fixP : Nat) / (fixOne + t)
  let g := (fixOne - a) / 2
  let c1 := fixMul (fixCos (2 * fixPi * k.envFc / 65536)) (fixOne + a)
  (enc32 (ofFix g), enc32 (ofFix c1), enc32 (ofFix a))

/-- Mean of squares and its root (R107): any FP32 within 2^−20 of the exact root. -/
def rmsOf (fs : List (W32 × Bool)) (free : W32) : W32 :=
  if fs.any fun f => !f32finite f.1 then (if fs.any fun f => f32isNan f.1 then nan32 else 0x7F800000)
  else
    let sum := fs.foldl (fun a f => fpAdd a (fpMul (dec32 f.1) (dec32 f.1))) (.fin false 0 0)
    let r := fpSqrt (fpDiv sum (fpOfInt fs.length 0))
    within32 r (fpScale (-20) r) free

/-- One step of the detectors on a fine output (R106 to R109). -/
def detStep (k : ChainCfg) (f : W32) (rt : Bool) (free : W32) (x : Chan) : Chan :=
  let n := x.dk + 1
  let mag := f32abs f
  let dec := f32sub x.peak (f32shr x.peak k.peakDecay)
  let raised := f32le dec mag
  let win := ((f, rt) :: x.win).take k.rmsLen
  let (g, c1, a) := bandCoefs k
  let b := f32sub (f32add (f32mul g (f32sub f x.f2)) (f32mul c1 x.b1)) (f32mul a x.b2)
  let e := f32add x.env (f32shr (f32sub (f32abs b) x.env) k.envA)
  { x with
    dk := n
    peak := f32max mag dec
    peakAt := if raised then n else x.peakAt
    peakRt := if raised then rt else x.peakRt
    win := win
    rms := rmsOf win free
    f1 := f, f2 := x.f1, b1 := b, b2 := x.b1
    env := e
    envFlag := if rt then some n else x.envFlag }

/-- Whether a detector value carries RANGE_TRANSIENT now (R109). -/
def detFlag (k : ChainCfg) (x : Chan) : Bool :=
  (x.peakRt && decide (x.dk ≤ x.peakAt + 2 ^ (k.peakDecay + 2))) || x.win.any (fun f => f.2) ||
  (match x.envFlag with | some n => decide (x.dk ≤ n + 2 ^ (k.envA + 2) + 16) | none => false)

/-! ## Threshold events (R110 to R112) -/

/-- A value that breaches, and one on the clear side (R110). -/
def breaches (c : EventCfg) (v : W32) : Bool := if c.below then f32le v c.onLevel else f32le c.onLevel v
def clears (c : EventCfg) (v : W32) : Bool := if c.below then f32lt c.offLevel v else f32lt v c.offLevel

/-- One evaluation counts (R110). The change of state itself is EVENT_ACTIVATE or EVENT_DEACTIVATE. -/
def evCount (c : EventCfg) (v : W32) (e : EvRun) : EvRun :=
  if !c.enable then e
  else if e.active then { e with cntOff := if clears c v then e.cntOff + 1 else 0 }
  else { e with cntOn := if breaches c v then e.cntOn + 1 else 0 }

/-- An inactive event with `persist_on` consecutive breaching evaluations becomes active (R110). -/
def evActivate (c : EventCfg) (e : EvRun) : EvRun :=
  if c.enable && !e.active && decide (c.persistOn ≤ e.cntOn) then { active := true, cntOn := 0, cntOff := 0 } else e

/-- An active event with `persist_off` consecutive clear evaluations, or a disabled one, becomes inactive (R110). -/
def evDeactivate (c : EventCfg) (e : EvRun) : EvRun :=
  if e.active && (!c.enable || decide (c.persistOff ≤ e.cntOff)) then { active := false, cntOn := 0, cntOff := 0 } else e

/-- The value of an event's source (R110). -/
def evValue (c : EventCfg) (x : Chan) : W32 := match c.source with | 0 => x.fine | 1 => x.peak | 2 => x.rms | _ => x.env

def eventActivate (ch ev : Nat) (s : State) : State :=
  let c := eventOf s.fe.cfg (2 * ch + ev % 2)
  if ev % 2 = 0 then setChan ch (fun x => { x with ev0 := evActivate c x.ev0 }) s
  else setChan ch (fun x => { x with ev1 := evActivate c x.ev1 }) s

def eventDeactivate (ch ev : Nat) (s : State) : State :=
  let c := eventOf s.fe.cfg (2 * ch + ev % 2)
  if ev % 2 = 0 then setChan ch (fun x => { x with ev0 := evDeactivate c x.ev0 }) s
  else setChan ch (fun x => { x with ev1 := evDeactivate c x.ev1 }) s

def execEventActivate (ch ev : Nat) (s : State) : Result := .next (eventActivate ch ev s)
def execEventDeactivate (ch ev : Nat) (s : State) : Result := .next (eventDeactivate ch ev s)

/-- DETECTORS_START: the next fine output is the first that is not flagged SETTLING (R115). -/
def detectorsStart (ch : Nat) (s : State) : State :=
  let x := chanOf s ch
  if x.held && decide (x.settleTo < x.k + 1) then setChan ch detStart s else s

def execDetectorsStart (ch : Nat) (s : State) : Result := .next (detectorsStart ch s)

/-! ## Banks: load, swap, abort (R100 to R103) -/

/-- CH_FIR_LOAD (Table 04-9): BUSY while a swap is queued on a named channel. -/
def bodyChFirLoad (c : Cmd) (s : State) : State :=
  let mask := fld c 23 0 0
  let first := fld c 87 80 0
  let count := fld c 95 88 1
  let taps := fld c 103 96 1
  if first > 127 ∨ count = 0 ∨ 64 < count ∨ 128 < first + count ∨ taps = 0 ∨ 128 < taps then fail 0x030B c .badParam s
  else if (chanList mask).any fun ch => (chanOf s ch).swap.isSome then fail 0x030B c .busy s
  else
    let cs := (List.range count).map fun i => (first + i, signedN 24 (fld c (128 + 24 * i + 23) (128 + 24 * i) 0))
    let load (b : Bank) : Bank :=
      { taps := taps
        shift := fld c 108 104 23
        fPass := fld c 127 112 32768
        coefs := tabOver b.coefs cs }
    completeOk 0x030B c 0 ((chanList mask).foldl (fun t ch => setChan ch (fun x => { x with bankLoad := load x.bankLoad }) t) s)

/-- Chain settings that will be in force when a swap starts (R123). -/
def chainAtSwap (s : State) (ch : Nat) : ChainCfg :=
  match s.fe.sealed_ with
  | some t => chainOf (laid s.fe.cfg t) ch
  | none => chainOf s.fe.cfg ch

/-- The first of rules A1, A2 and A4 that a swap on the named channels fails, with its channel (R123, R124). -/
def swapCheck (s : State) (chs : List Nat) : Option (Nat × Nat) :=
  ((chs.find? fun ch => !ruleA1 (chainAtSwap s ch) (chanOf s ch).bankLoad).map fun ch => (1, ch)) <|>
  ((chs.find? fun ch => !ruleA2 (chanOf s ch).bankLoad).map fun ch => (2, ch)) <|>
  ((chs.find? fun ch => !ruleA4 (chainAtSwap s ch) (chanOf s ch).bankLoad).map fun ch => (4, ch))

/-- A queued swap of a channel is replaced or dropped: it counts as started for its command (R102). -/
def swapDropped (ch : Nat) (s : State) : State :=
  if (chanOf s ch).swap.isSome then swapStarted ch (setChan ch (fun x => { x with swap := none, swapArmed := false }) s) else s

/-- CH_FIR_SWAP (R101, R102, R123, R124). -/
def bodyChFirSwap (c : Cmd) (s : State) : State :=
  let mask := fld c 23 0 0
  let chs := chanList mask
  let k := fld c 44 32 16
  if fldB c 49 false then completeOk 0x030C c 0 (chs.foldl (fun t ch => swapDropped ch t) s)
  else if k < 16 ∨ 4096 < k then fail 0x030C c .badParam s
  else match swapCheck s chs with
    | some (r, ch) => complete 0x030C c .applyReject r ch 0 s
    | none =>
      let s1 := chs.foldl (fun t ch => setChan ch (fun x => { x with swap := some { len := k, behind := fadeRuns x }
                                                                     swapArmed := false }) (swapDropped ch t)) s
      if chs.any fun ch => fadeRuns (chanOf s ch) then complete 0x030C c .accepted 0 0 0 s1
      else if chs.isEmpty then completeOk 0x030C c 0 s1
      else waitFor 0x030C c (.firSwap (BitVec.ofNat 24 mask)) s1

/-- CH_FIR_ABORT: a running fade ends at the first fine output after the next tick boundary; completes at once (R103, log 27). One that is already
due to end at an output stays so. -/
def bodyChFirAbort (c : Cmd) (s : State) : State :=
  completeOk 0x030D c 0 ((chanList (fld c 23 0 0)).foldl (fun t ch =>
    setChan ch (fun x => if fadeRuns x then { x with abortReq := true } else x) t) s)

/-- CH_RESET: the channels reset at the next tick boundary, and the command completes there (R126, log 27). -/
def bodyChReset (c : Cmd) (s : State) : State :=
  let mask := fld c 23 0 0
  if (chanList mask).isEmpty then completeOk 0x0310 c 0 s
  else waitFor 0x0310 c (.chReset (BitVec.ofNat 24 mask))
    ((chanList mask).foldl (fun t ch => setChan ch (fun x => { x with resetReq := true }) t) s)

/-- CH_STATE: 32 bytes per channel (Table 04-6 names the values; the layout is the model's, log 26): [31:0] sample counter, [39:32]
taps of new, [47:40] of old, [55:48] of load, [56] fade runs, [57] swap queued, [59:58], [61:60], [63:62] bank that is new, old, load, [79:64] fade position, [95:80] fade length,
[111:96] queued length, [112], [113] events active, [143:128], [159:144] counts of event 0, [175:160], [191:176] of event 1. -/
def bodyChState (c : Cmd) (s : State) : State :=
  respond 0x0311 c ((List.range 24).flatMap fun ch =>
    let x := chanOf s ch
    leBytes 32 (pack [(0, 32, x.cnt), (32, 8, x.bankNew.taps), (40, 8, x.bankOld.taps), (48, 8, x.bankLoad.taps),
      (56, 1, b2n (fadeRuns x)), (57, 1, b2n x.swap.isSome), (58, 2, nth x.roles 0 0), (60, 2, nth x.roles 1 0), (62, 2, nth x.roles 2 0), (64, 16, (x.fade.map fun f => f.i).getD 0),
      (80, 16, (x.fade.map fun f => f.len).getD 0), (96, 16, (x.swap.map fun f => f.len).getD 0), (112, 1, b2n x.ev0.active),
      (113, 1, b2n x.ev1.active), (128, 16, x.ev0.cntOn), (144, 16, x.ev0.cntOff), (160, 16, x.ev1.cntOn),
      (176, 16, x.ev1.cntOff)])) 0 s

def execChFirLoad (c : Cmd) (s : State) : Result := .next (deliver 0x030B bodyChFirLoad c s)
def execChFirSwap (c : Cmd) (s : State) : Result := .next (deliver 0x030C bodyChFirSwap c s)
def execChFirAbort (c : Cmd) (s : State) : Result := .next (deliver 0x030D bodyChFirAbort c s)
def execChReset (c : Cmd) (s : State) : Result := .next (deliver 0x0310 bodyChReset c s)
def execChState (c : Cmd) (s : State) : Result := .next (deliver 0x0311 bodyChState c s)

/-- FIR_SWAP_START: before the first fine output after its tick boundary, or after output K of the fade it waits behind, the banks
rotate and the fade begins (R101, R102). A raised T extends the settling count (R114). -/
def firSwapStart (ch : Nat) (s : State) : State :=
  let x := chanOf s ch
  match x.swap with
  | none => s
  | some w =>
    if x.fade.isSome || x.swapHold || !(x.swapArmed || w.behind) then s
    else
      let l := (chainOf s.fe.cfg ch).maLen
      swapStarted ch (setChan ch (fun y =>
        let z := rotate y
        { z with
          fade := some { len := w.len, i := 0 }
          swap := none
          swapArmed := false
          settleTo := if y.k < y.settleTo then max y.settleTo (l + max z.bankNew.taps z.bankOld.taps) else y.settleTo }) s)

def execFirSwapStart (ch : Nat) (s : State) : Result := .next (firSwapStart ch s)

/-- FIR_FADE_END: output K has been delivered and the fade ends (R101); an abort of that fade has nothing left to end (R103). The bank in use is
stored (Table 13-3). -/
def firFadeEnd (ch : Nat) (s : State) : State :=
  match (chanOf s ch).fade with
  | none => s
  | some f =>
    if f.len ≤ f.i then storeConfig (setChan ch (fun y => { y with fade := none, abortReq := false, abortArmed := false }) s) else s

def execFirFadeEnd (ch : Nat) (s : State) : Result := .next (firFadeEnd ch s)

/-- FIR_ABORT_EFFECT: from the first fine output after the tick boundary y is y_new; a queued swap starts at the following output
(R103). A fade whose output K has been delivered runs no more, and there is nothing to end. The fade has run in this tick (Table 04-4), and the
bank in use is stored (Table 13-3). -/
def firAbortEffect (ch : Nat) (s : State) : State :=
  let x := chanOf s ch
  if x.abortReq && x.abortArmed && fadeRuns x then
    storeConfig (setChan ch (fun y => { y with fade := none, abortReq := false, abortArmed := false, swapHold := true, faded := true }) s)
  else s

def execFirAbortEffect (ch : Nat) (s : State) : Result := .next (firAbortEffect ch s)

/-! ## FINE_OUTPUT -/

/-- The fine value V of R99 as an exact number. -/
def fineVolts (k : ChainCfg) (shift : Nat) (y : Int) : Fp :=
  fpDiv (fpOfInt y ((k.sh1 + k.sh2 + shift : Nat) - 50)) (fpOfInt k.maLen 0)

/-- A window of outputs reaches a saturated word (R94, R113). -/
def satIn (last : Option Nat) (k span : Nat) : Bool := match last with | some i => decide (k < i + span) | none => false

/-- Fine output k is formed from the history (R96 to R101, R106 to R114). -/
def formFine (ch : Nat) (s : State) : State :=
  let x := chanOf s ch
  let c := chainOf s.fe.cfg ch
  let n := osr c.preset
  let k := x.k + 1
  let (u, su) := stageOut (sincSum n 0 x.xs) (3 * osrLog2 c.preset + c.sh1)
  let us := (u :: x.us).take 1024
  let (v, sv) := stageOut ((us.take c.maLen).foldl (· + ·) 0) c.sh2
  let vs := (v :: x.vs).take 128
  let fade := x.fade.map fun f => { f with i := f.i + 1 }
  let x1 := { x with
    k := k
    us := us
    vs := vs
    fade := fade
    swapHold := false
    satU := if su then some k else x.satU
    satV := if sv then some k else x.satV
    faded := x.faded || fade.isSome }
  let (y, sy) := firWord x1 vs
  let t := tapsInUse x1
  let set := decide (k ≤ x.settleTo)
  let rt := sy || satIn x1.satU k (c.maLen + t - 1) || satIn x1.satV k t ||
    (match x.lastFlag with
     | some j => decide (((k : Int) - c.maLen - t - 1) * n + 2 ≤ j)
     | none => false)
  let (f, oor) := linearise s ch (fineVolts c x1.bankNew.shift y)
  let x2 := { x1 with
    fine := f
    fSet := set
    fRt := rt
    linOor := x.linOor || oor
    fresh := x.fresh ++ [(f, k, set, rt)] }
  let x3 := if set then x2 else
    let z := if x2.held then detStart x2 else x2
    let z := detStep c f rt (Config.freeW32 s.free (1000 + ch)) z
    { z with dPeak := f32to16 z.peak, dRms := f32to16 z.rms, dEnv := f32to16 z.env, dRt := detFlag c z }
  let e0 := eventOf s.fe.cfg (2 * ch)
  let e1 := eventOf s.fe.cfg (2 * ch + 1)
  let x4 := if x3.held then x3 else
    { x3 with ev0 := evCount e0 (evValue e0 x3) x3.ev0, ev1 := evCount e1 (evValue e1 x3) x3.ev1 }
  draw (setChan ch (fun _ => x4) s)

/-- Changes of a channel's events that are due, where their own rows have not come first (R110). -/
def eventsSettle (ch : Nat) (s : State) : State :=
  eventDeactivate ch 0 (eventDeactivate ch 1 (eventActivate ch 0 (eventActivate ch 1 s)))

/-- Event changes, fade end, abort and swap that are due before the next output, where their own rows have not come first. -/
def beforeFine (ch : Nat) (s : State) : State := firSwapStart ch (firAbortEffect ch (firFadeEnd ch (eventsSettle ch s)))

/-- What is due at sample 0 of the tick, where its own row has not come first: a down-range, a sealed set, calibration, chopping reversals and the
channel's resets (R78, R82, R90, R116, R122; a commanded change goes before a reversal, Table 03-12). -/
def beforeSamples (ch : Nat) (s : State) : State :=
  let s1 := (List.range 4).foldl (fun t n => chopReversal n t) (calibrationEffect (applyTakesEffect (autoRangeDown ch s)))
  (chanOf s1 ch).due.foldl (fun t cause => syncReset ch cause t) s1

/-- One modulator sample of a channel: counted, corrected, flagged, kept; at counter value k × OSR − 1 output k forms (R95). The comparators
look at what reaches the gain stage, and change the range from the next sample (R78). A servo that is to be preset takes the sample as the level
of the input (R74; DEDUCED, log 67). -/
def sampleIn (ch : Nat) (s0 : State) (raw : Int) : State :=
  let s := if (chanOf s0 ch).servoDue then setChan ch (fun y => { y with servo := raw * 2 ^ 32, servoDue := false }) s0 else s0
  let x := chanOf s ch
  let mag := (gainIn s ch raw).natAbs
  let c := chainOf s.fe.cfg ch
  let n := osr c.preset
  let (v, clip) := correct s ch raw
  let flag := clip || decide (0 < x.flagLeft)
  let s1 := setChan ch (fun y => { y with
    cnt := y.cnt + 1
    xs := (v :: y.xs).take (3 * n - 2)
    servo := if iepeOn s ch then servoNext y.servo raw else y.servo
    inTick := y.inTick + 1
    loud := y.loud || !underDown (2 ^ 27) y.range mag
    flagLeft := y.flagLeft - 1
    lastFlag := if flag then some y.cnt else y.lastFlag
    tail := ((v, flag) :: y.tail).take 32 }) s
  rangeUp (2 ^ 27) ch mag x.inTick (if (x.cnt + 1) % n = 0 then formFine ch (beforeFine ch s1) else s1)

/-- FINE_OUTPUT: modulator samples of an enabled channel arrive, and each that completes an output forms it. While power failure is
detected, the channels are off (Table 13-8). -/
def fineOutput (ch : Nat) (samples : List Int) (s : State) : State :=
  if chanOn s ch && decide (ch < 24) && !s.nv.powerFail && !s.boot.extest then
    (if samples.isEmpty then s else samples.foldl (sampleIn ch) (beforeSamples ch s))
  else s

def execFineOutput (ch : Nat) (samples : List Int) (s : State) : Result := .next (fineOutput ch samples s)

/-! ## The end of a tick on the front-end die (R105, R118, R120) -/

/-- Lc samples of the coarse level. -/
def coarseLen (c : ChainCfg) : Nat := 4 * 2 ^ c.coarseLen

/-- A summary entry (Table 04-4). `seq` counts from the last reset, so it is 0 until the first output after one, beside a `fine` held from before
the reset; R120 says no more of it, and the 0 is a choice of the model (log 83). -/
def summaryEntry (s : State) (ch : Nat) : BitVec 128 :=
  let x := chanOf s ch
  if !chanOn s ch then 0
  else BitVec.ofNat 128 (pack [(0, 16, x.k), (16, 1, b2n (x.faded || fadeRuns x)), (17, 1, b2n x.linOor), (18, 1, b2n x.cmFault),
    (19, 1, b2n x.cRt), (20, 1, b2n x.dRt), (21, 1, b2n x.held), (22, 1, b2n x.fRt), (23, 1, b2n x.fSet),
    (24, 1, b2n x.ev0.active), (25, 1, b2n x.ev1.active), (26, 6, x.fresh.length), (32, 16, x.coarse.toNat),
    (48, 16, x.dEnv.toNat), (64, 16, x.dRms.toNat), (80, 16, x.dPeak.toNat), (96, 32, x.fine.toNat)])

/-- A fine-stream entry (R118). -/
def streamEntry (f : W32 × Nat × Bool × Bool) : W64 :=
  BitVec.ofNat 64 (pack [(0, 1, b2n f.2.2.1), (1, 1, b2n f.2.2.2), (16, 16, f.2.1), (32, 32, f.1.toNat)])

/-- The coarse level of the tick that ends (R105). -/
def coarseOf (c : ChainCfg) (x : Chan) : F16 × Bool :=
  let n := coarseLen c
  let w := x.tail.take n
  (f32to16 (enc32 (fpDiv (fpOfInt (w.foldl (fun a v => a + v.1) 0) (-27)) (fpOfInt n 0))), w.any fun v => v.2)

/-- One channel at the end of a tick: a reset that was due at its sample 0 has come, its entries are ready, and what counts per tick starts
again. Three points are choices of the model (log 83): the down-range dwell counts on while a common-mode fault holds the range (R78, R79),
`lin_oor` starts again with each tick and is not repeated with a repeated `fine` (R87, R120), and a channel without samples in a tick still takes
its due resets. -/
def chanTickEnd (i : TickIn) (ch : Nat) (s0 : State) : State :=
  let s := eventsSettle ch ((chanOf s0 ch).due.foldl (fun t cause => syncReset ch cause t) s0)
  let c := chainOf s.fe.cfg ch
  let on := chanOn s ch
  let v := rangeOf s.fe.cfg ch
  let mv := nth i.cm ch 0
  let mag := nth i.mag ch 0
  let s1 := setChan ch (fun x =>
    let y := cmMeasure (cmOf s.fe.cfg ch) on mv x
    let (lvl, rt) := if x.tail.length < coarseLen c then (x.coarse, x.cRt) else coarseOf c x
    { y with
      coarse := lvl
      cRt := rt
      dwell := if on && v.auto && !x.loud && underDown 1000000 x.range mag then x.dwell + 1 else 0
      swapArmed := x.swapArmed || x.swap.isSome
      abortArmed := x.abortArmed || x.abortReq }) s
  let s1 := cmExit ch (cmEnter ch s1)
  let x := chanOf s1 ch
  let s2 := setFe (fun f => { f with
    ready := tabSet f.ready ch (summaryEntry s1 ch)
    stream := tabSet f.stream ch (if on then x.fresh.dropLast.map streamEntry else []) }) s1
  let s3 := setChan ch (fun y => { y with fresh := [], faded := false, linOor := false, tail := [], inTick := 0, loud := false }) s2
  if x.resetReq then askReset .command ch (setChan ch (fun y => { y with resetReq := false }) s3) else s3

/-- The front-end die at T0: entries of the ended tick, common-mode and dwell counts, and what becomes due at sample 0 of the new
tick (R82, R84, R90, R118, R122). -/
def feTickEnd (i : TickIn) (s : State) : State :=
  let s1 := (List.range 24).foldl (fun t ch => chanTickEnd i ch t) s
  chopTick (setFe (fun f => { f with
    delivered := []
    lost := 0
    lateFine := []
    sealedDue := f.sealed_.isSome
    calDue := f.calDue ++ f.calPend
    calPend := [] }) s1)

/-! ## Delivery (R20, R30, R88, R118, R119, R121) -/

/-- A front-end write meets a gate that is closing or closed (R190, R479). -/
def feDropped (s : State) (f a : Nat) : Bool := bankOffAt s f a || gateClosing s f (bankOf a)

/-- The front end writes within one bank through DMA port 1 of the field, in a cycle in which that port owns the bank; until then the write
waits in the engine's buffer (R180, R181). At a gate that is closing or closed it is dropped, and `sluice_drop` counts it; it has no `move_id`
(R190, R479; log 90). -/
def fmPut (f a : Nat) (bs : List Byte) (poison : BitVec 8) (s : State) : State :=
  if feDropped s f a then logEvent 0x0020 5 (chipAddr f a) 0 (bump cSluiceDrop s)
  else if port1Owns s f a then fmStore 64 f a bs (List.replicate ((bs.length + 7) / 8) poison) s
  else setFm (fun m => { m with portWait := tabSet m.portWait (chipAddr f a) { bytes := bs, poison := poison } }) s

/-- Slots per channel of the fine stream (R119). -/
def fineSlots (period : Nat) : Nat := (samplesPerTick period + 63) / 64 - 1

/-- Flags of a delivered channel join the masks, with those of its named cold junction (R88, R121). -/
def maskFlags (ch : Nat) (s : State) : BitVec 24 × BitVec 24 × BitVec 24 :=
  let one (c : Nat) : Bool × Bool × Bool :=
    let e := (tabGet 0 s.fe.ready c).toNat
    let st := tabGet [] s.fe.stream c
    (bitN e 23 || st.any (fun w => w.getLsbD 0), bitN e 22 || bitN e 20 || bitN e 19 || st.any (fun w => w.getLsbD 1), bitN e 18)
  let a := one ch
  let v := curveOf s.fe.cfg ch
  let b := if chanOn s ch && decide (1 ≤ v.curve ∧ v.curve ≤ 8) && v.cj != 0xFF then one v.cj else (false, false, false)
  let m (x : Bool) : BitVec 24 := if x then 1#24 <<< ch else 0
  (m (a.1 || b.1), m (a.2.1 || b.2.1), m (a.2.2 || b.2.2))

/-- FE_SUMMARY_DELIVERY: entries of the named channels are written into the ingest area (R118). While no move list runs there is no
ingest area, and only the masks are taken. -/
def feSummaryDelivery (chans : BitVec 24) (s : State) : State :=
  if computeDown s || s.nv.powerFail then s
  else (chanList chans.toNat).foldl (fun t ch =>
    if tabHas t.fe.delivered ch || t.fe.lost.getLsbD ch then t
    else
      let e := tabGet 0 t.fe.ready ch
      let (a, b, c) := maskFlags ch t
      let t1 := setFe (fun f => { f with
        delivered := tabSet f.delivered ch e
        settling := f.settling ||| a
        rangeM := f.rangeM ||| b
        cmM := f.cmM ||| c }) t
      match t1.seq.active with
      | some l => fmPut l.ingestField (l.ingestAddr + 16 * ch) (leBytes 16 e.toNat) 0 t1
      | none => t1) s

def execFeSummaryDelivery (chans : BitVec 24) (s : State) : Result := .next (feSummaryDelivery chans s)

/-- SAMPLE_DEADLINE at T0 + 40 ac: an entry still missing is written as poison with source bit 3, and fine entries that missed the
receive buffer are marked (R20, R119). -/
def sampleDeadline (late : List (Nat × Nat)) (s : State) : State :=
  if computeDown s then s
  else match s.seq.active with
  | none => s
  | some l =>
    let miss := (List.range 24).filter fun ch => !tabHas s.fe.delivered ch
    let s1 := setFe (fun f => { f with lateFine := late, lost := BitVec.ofNat 24 (listMask miss) }) s
    miss.foldl (fun t ch => fmPut l.ingestField (l.ingestAddr + 16 * ch) (zeros 16) 0x08 t) s1

def execSampleDeadline (lateFine : List (Nat × Nat)) (s : State) : Result := .next (sampleDeadline lateFine s)

/-- FINE_WINDOW: the whole fine stream of the previous tick is written, unused slots as zero, late entries as poison (R119). In the first tick
of a new period the window has the slots of the period in force, a choice of the model (log 83). -/
def fineWindow (s : State) : State :=
  if computeDown s then s
  else match s.seq.active with
  | none => s
  | some l =>
    let n := fineSlots s.tick.period
    (List.range (24 * n)).foldl (fun t i =>
      let ch := i / n
      let j := i % n
      let w := nth (tabGet [] t.fe.stream ch) j 0
      fmPut l.fineField (l.fineAddr + 8 * i) (leBytes 8 w.toNat)
        (if t.fe.lateFine.contains (ch, j) then 0x08 else 0) t) s

def execFineWindow (s : State) : Result := .next (fineWindow s)

end Sys2Proof.Machine
end

