-- ==== Sys2Proof/Machine/Operands.lean ====
section
/-! DEFINITION. The operand blocks of a move list read as operands: arrays (Table 08-6), vectors (Table 08-7), DMA (R200), set moves
(Table 10-4 with R266) and reservations (Table 14-6). A block with an invalid format, mode or kind reads as none. -/

namespace Sys2Proof.Machine

/-- Rounding modes by code (Table 05-7). -/
def rndOf : Nat → Option Rnd
  | 0 => some .nearest | 1 => some .zero | 2 => some .stochastic | _ => none

/-- Comparisons by code (Table 08-7). -/
def cmpOf : Nat → CmpOp
  | 0 => .lt | 1 => .le | 2 => .eq | _ => .ne

/-- DMA endpoint kinds by code (R200). -/
def kindOf : Nat → Option DmaKind
  | 0 => some .fieldMem | 1 => some .dram | 2 => some .host | 3 => some .peer | _ => none

/-- Element codes of set moves (Table 10-1). -/
def kfmtOf : Nat → Option KFmt
  | 0 => some .u32 | 1 => some .u64 | 2 => some .p3f32 | 3 => some .p3f16 | _ => none

/-- Bank requests by code (Table 08-5). -/
def bankReqOf : Nat → Option BankReq
  | 0 => some .on | 1 => some .retaining | 2 => some .off | _ => none

/-- Move classes by code (Table 08-3). -/
def classOf : Nat → MoveClass
  | 0 => .tickCritical | 1 => .frame | 2 => .gap | _ => .service

/-- An address of 23 bits in a 32-bit word of a block (R198). -/
def blkAddr (b : Nat) (lo : Nat) : Nat := bitsN b (lo + 22) lo

/-- The array operand block (Table 08-6). -/
def parseArr (w : BitVec 512) : Option ArrOpnd :=
  let b := w.toNat
  match fmtOf (bitsN b 435 432), fmtOf (bitsN b 431 428), fmtOf (bitsN b 427 424), rndOf (bitsN b 469 468) with
  | some fi, some fw, some fo, some md => some
      { inAddr := blkAddr b 0
        wAddr := blkAddr b 32
        outAddr := blkAddr b 64
        inSc := blkAddr b 96
        wSc := blkAddr b 128
        outSc := blkAddr b 160
        amaxAddr := blkAddr b 192
        inStride := bitsN b 423 408
        outStride := bitsN b 407 392
        inFmt := fi
        wFmt := fw
        outFmt := fo
        m := bitsN b 447 442 + 1
        kLen := bitsN b 463 448 + 1
        half := bitN b 441
        acc := bitN b 440
        keep := bitN b 439
        drain := bitN b 438
        outScale := BitVec.ofNat 32 (bitsN b 511 480)
        mode := md
        sat := bitN b 467
        stream := bitsN b 479 470
        amaxEn := bitN b 466 }
  | _, _, _, _ => none

/-- The vector operand block (Table 08-7). -/
def parseVec (w : BitVec 512) : Option VecOpnd :=
  let b := w.toNat
  match fmtOf (bitsN b 431 428), fmtOf (bitsN b 427 424), fmtOf (bitsN b 423 420), fmtOf (bitsN b 419 416),
      rndOf (bitsN b 469 468) with
  | some fa, some fb, some fc, some fo, some md => some
      { aAddr := blkAddr b 0
        bAddr := blkAddr b 32
        cAddr := blkAddr b 64
        dAddr := blkAddr b 96
        outAddr := blkAddr b 128
        scAddr := blkAddr b 160
        maskAddr := blkAddr b 192
        amaxAddr := blkAddr b 224
        aFmt := fa
        bFmt := fb
        cFmt := fc
        outFmt := fo
        cmp := cmpOf (bitsN b 415 414)
        outEn := bitN b 413
        n := bitsN b 463 448 + 1
        len := bitsN b 447 432 + 1
        outScale := BitVec.ofNat 32 (bitsN b 511 480)
        mode := md
        sat := bitN b 467
        stream := bitsN b 479 470
        amaxEn := bitN b 466 }
  | _, _, _, _, _ => none

/-- The DMA operand block (R200) with the signal of its move (R208). -/
def parseDma (w : BitVec 512) (sigObj sigN : Nat) : Option DmaOpnd :=
  let b := w.toNat
  match kindOf (bitsN b 271 268), kindOf (bitsN b 267 264) with
  | some sk, some dk =>
    if sk == .peer || 1 < bitsN b 263 262 then none
    else some
      { src := bitsN b 511 448
        dst := bitsN b 447 384
        len := bitsN b 383 352
        rows := bitsN b 351 336 + 1
        srcStride := bitsN b 335 304
        dstStride := bitsN b 303 272
        srcKind := sk
        dstKind := dk
        bestEffort := bitN b 262
        peer := bitsN b 261 256
        sigObj := sigObj
        sigN := sigN }
  | _, _ => none

/-- The set operand block (Table 10-4) with the immediate of R266, the slip of its start, its job and its signal. -/
def parseSet (w : BitVec 512) (imm : W64) (late job sigObj sigN : Nat) : Option SetOpnd :=
  let b := w.toNat
  let i := imm.toNat
  match kfmtOf (bitsN b 202 199) with
  | some kf => some
      { tAddr := bitsN b 511 448
        aAddr := blkAddr b 416
        bAddr := blkAddr b 384
        outAddr := blkAddr b 352
        out2Addr := blkAddr b 320
        tokAddr := blkAddr b 288
        auxAddr := blkAddr b 256
        nA := bitsN b 255 232
        nT := bitsN b 231 208
        row := 8 * (bitsN b 207 203 + 1)
        kfmt := kf
        vint := bitsN b 198 195 == 12
        sub := bitsN b 194 192
        tLog2 := bitsN b 191 187
        k := bitsN b 186 181 + 1
        desc := bitN b 180
        clear := bitN b 179
        radius2 := BitVec.ofNat 32 (bitsN b 159 128)
        budgetAc := bitsN i 63 44
        budgetTx := bitsN i 43 28
        cont := bitN i 27
        late := late
        job := job
        sigObj := sigObj
        sigN := sigN }
  | none => none

/-- The LINK_RSV operand block (Table 14-6). -/
def parseRsv (w : BitVec 512) : Option RsvOpnd :=
  let b := w.toNat
  if bitsN b 463 462 = 3 then none
  else some { planId := BitVec.ofNat 32 (bitsN b 511 480), nSlots := bitsN b 479 464, src := bitsN b 463 462 }

/-! ## Job descriptors (R224, Table 09-1) -/

/-- A job descriptor. -/
structure JobDesc where
  stgBytes : Nat
  stgAddr : Nat
  stgField : Nat
  tktObj : Nat
  tktAddr : Nat
  refill : Bool
  bits : BitVec 512
  deriving DecidableEq, Repr

/-- The descriptor in an operand block. -/
def descOf (w : BitVec 512) : JobDesc :=
  let b := w.toNat
  { stgBytes := bitsN b 511 480
    stgAddr := bitsN b 479 457
    stgField := bitsN b 456 453
    tktObj := bitsN b 452 443
    tktAddr := bitsN b 442 420
    refill := bitN b 415
    bits := w }

end Sys2Proof.Machine
end

