-- ==== Sys2Proof/Machine/Dram.lean ====
section
/-! DEFINITION. External memory (chapter 12): lines with their check bytes and poison, training and clearing, refresh, patrol scrub,
and the host's BAR4 window. -/

namespace Sys2Proof.Machine

/-! ## Lines (R324 to R328) -/

/-- Channel of a device address (R324). -/
def dramChannel (a : Nat) : Nat :=
  ((bitsN a 11 8 ^^^ bitsN a 15 12) ^^^ bitsN a 19 16) ^^^ bitsN a 23 20

/-- Offset of a device address in its channel's data area (R324). -/
def dramOffset (a : Nat) : Nat := a / 2 ^ 12 * 256 + a % 256

/-- Place of a line's four check bytes in its channel: in the check line of its 16 lines, in the top 1/16 (R325). -/
def checkPlace (s : State) (l : Nat) : Nat :=
  let n := dramOffset (64 * l) / 64
  s.dram.chGib * 2 ^ 30 / 16 * 15 + n / 16 * 64 + n % 16 * 4

/-- A line at the DRAM balls: its ciphertext under the tweak address / 64, and its check bytes, formed over the ciphertext (R325, R328,
R330). `Dram.mem` holds the plaintext. -/
def lineStored (s : State) (l : Nat) : List Byte × List Byte :=
  let c := Config.xts s.dram.dataKey s.dram.tweakKey l ((List.range 64).map fun i => memRead 0 s.dram.mem (64 * l + i))
  (c, if tabGet false s.dram.poison l then Config.poisonCheck else Config.rsCheck c)

/-- Wrong bytes of a line as it stands in the devices. -/
def lineWrong (s : State) (l : Nat) : Nat := tabGet 0 s.dram.wrong l

/-- Four or more wrong bytes are detected but for a fraction of at most 2^−24 (R326): a free choice. -/
def lineMissed (s : State) (l : Nat) : Bool := decide (4 ≤ lineWrong s l) && !Config.freeBool s.free l

/-- A line reads as poison: stored so, or uncorrectable (R326, R328). -/
def linePoison (s : State) (l : Nat) : Bool :=
  tabGet false s.dram.poison l || (decide (2 ≤ lineWrong s l) && !lineMissed s l)

/-- What reading a line counts and repairs: one wrong byte is corrected, counted and written back; a detected error is counted (R326,
R327, R329). A line stored as poison counts nothing. -/
def dramCheckLine (s : State) (l : Nat) : State :=
  if tabGet false s.dram.poison l then s
  else match lineWrong s l with
  | 0 => s
  | 1 =>
    let s1 := setDram (fun d => { d with wrong := tabDel d.wrong l }) (bump cDramCe s)
    bump (0x1940 + 4 * dramChannel (64 * l)) (ctrSet 0x190C (BitVec.ofNat 32 (64 * l / 2 ^ 32))
      (ctrSet 0x1908 (BitVec.ofNat 32 (64 * l)) s1))
  | _ =>
    if lineMissed s l then s
    else ctrSet 0x1914 (BitVec.ofNat 32 (64 * l / 2 ^ 32)) (ctrSet 0x1910 (BitVec.ofNat 32 (64 * l)) (bump cDramUe s))

/-- Lines that a range touches. -/
def linesOf (a n : Nat) : List Nat := if n = 0 then [] else (List.range ((a + n - 1) / 64 + 1 - a / 64)).map fun i => a / 64 + i

/-- The counting side of reading a range. -/
def dramScan (a n : Nat) (s : State) : State := (linesOf a n).foldl dramCheckLine s

/-- A byte as a read delivers it: an error that is not detected gives any value. -/
def dramByte (s : State) (a : Nat) : Byte :=
  if lineMissed s (a / 64) then Config.freeByte s.free a else memRead 0 s.dram.mem a

/-- Bytes of a range as a read delivers them. -/
def dramBytes (s : State) (a n : Nat) : List Byte := (List.range n).map fun i => dramByte s (a + i)

/-- Poison bits (source bit 1) of each 8-byte piece of a range (R326, R187). -/
def dramPoison (s : State) (a n : Nat) : List (BitVec 8) :=
  (List.range ((n + 7) / 8)).map fun i =>
    if (linesOf (a + 8 * i) (min 8 (n - 8 * i))).any fun l => linePoison s l then 2 else 0

/-- Write bytes into one line: the whole line takes new check bytes; a partial write merges with the line, and a line that is poison
or uncorrectable stays poison (R328). -/
def dramPutLine (l : Nat) (bs : List (Nat × Byte)) (poisoned : Bool) (s : State) : State :=
  let whole := decide (64 ≤ (bs.map Prod.fst).eraseDups.length)
  let bad := poisoned || (!whole && linePoison s l)
  let s1 := if whole then s else dramCheckLine s l
  let old := if !whole && lineMissed s l then placed (64 * l) ((List.range 64).map fun i => Config.freeByte s.free (64 * l + i)) else []
  setDram (fun d => { d with
    mem := (old ++ bs).foldl (fun m b => memWrite 0 m b.1 b.2) d.mem
    wrong := tabDel d.wrong l
    poison := if bad then tabSet d.poison l true else tabDel d.poison l }) s1

/-- Write bytes at an address, `ps` holding the poison bits of each 8-byte piece. -/
def dramWrite (a : Nat) (bs : List Byte) (ps : List (BitVec 8)) (s : State) : State :=
  let all := placed a bs
  (linesOf a bs.length).foldl (fun t l =>
    let mine := all.filter fun b => b.1 / 64 == l
    dramPutLine l mine (mine.any fun b => nth ps ((b.1 - a) / 8) 0 != 0) t) s

/-- The DRAM answers: trained, cleared, and its polder UP. -/
def dramUp (s : State) : Bool := s.dram.ready && polderUp s pDram

/-! ## Requests at the controller (R333) -/

/-- Address of byte `p` of a side whose rows of `rowLen` bytes stand `stride` apart. -/
def rowAddr (base stride rowLen p : Nat) : Nat := base + (if rowLen = 0 then 0 else p / rowLen * stride + p % rowLen)

/-- Runs of bytes of a piece on a side: a piece of 64 bytes of a link transfer may span rows (R384, R391). -/
def pieceRuns (base stride rowLen off : Nat) : Nat → Nat → List (Nat × Nat)
  | 0, _ => []
  | fuel + 1, n =>
    if n = 0 then []
    else
      let k := if rowLen = 0 then n else min n (rowLen - off % rowLen)
      (rowAddr base stride rowLen off, k) :: pieceRuns base stride rowLen (off + k) fuel (n - k)

/-- The runs of a piece at its destination, or at its source. -/
def dstRuns (x : Xfer) (c : Chunk) : List (Nat × Nat) := if x.fw then [(c.dstAt, c.len)] else pieceRuns x.dst x.dstStride x.rowLen c.off (c.len + 1) c.len
def srcRuns (x : Xfer) (c : Chunk) : List (Nat × Nat) := if x.fw then [(c.srcAt, c.len)] else pieceRuns x.src x.srcStride x.rowLen c.off (c.len + 1) c.len

/-- Ranges of device DRAM that a piece of a transfer has still to read or write. -/
def pieceDram (x : Xfer) (c : Chunk) : List (Nat × Nat) :=
  (if x.srcKind == .dram && c.data.isNone then srcRuns x c else []) ++ if x.dstKind == .dram then dstRuns x c else []

/-- One of the field's DMA ports owns every bank that a range touches (Table 07-2). -/
def dmaOwns (s : State) (f a n : Nat) : Bool :=
  (groupsOf a n).all fun g =>
    let o := tabGet 0x1F s.seq.owner (32 * f + bankOf (8 * g))
    o == 0x15 || o == 0x16

/-- Field and field address of a chip-wide address (R174). -/
def splitAddr (a : Nat) : Nat × Nat := (a / 2 ^ 23, a % 2 ^ 23)

/-- Class of a transfer at the DRAM controller and in its engine: tick-critical, frame, gap, service (R189, R333). -/
def xferRank (x : Xfer) : Nat := match x.mcls with | .tickCritical => 0 | .frame => 1 | .gap => 2 | .service => 3

/-- The next piece of a transfer asks for DRAM: it is read there and its destination takes it, or its data are at hand for it. -/
def wantsDram (s : State) (x : Xfer) : Bool :=
  match x.chunks with
  | [] => false
  | c :: _ => (x.dstKind == .dram && c.data.isSome) || (x.srcKind == .dram && c.data.isNone &&
      (x.dstKind != .fieldMem || (dstRuns x c).all fun r => dmaOwns s (splitAddr r.1).1 (splitAddr r.1).2 r.2))

/-- No request of a class above `rank` is queued at the DRAM controller (R333). Among accesses of one class their rows give the order (log
18). -/
def dramTurn (s : State) (rank : Nat) : Bool := !s.fm.xfers.any fun y => decide (xferRank y < rank) && wantsDram s y

/-! ## Training and clearing (R321 to R323) -/

/-- A device enters HALTED: the boot ROM alone runs, on control core 0, and no firmware (R499, Table 19-3). -/
def haltNow (cause : Nat) (s : State) : State :=
  logEvent 0x0002 0 cause 0 (setStage .halted (setBoot (fun b => { b with haltCause := cause, cores := 1, fwVer := 0 }) s))

/-- A density that R321 supports. -/
def densityOk (g : Nat) : Bool := g == 1 || g == 2 || g == 4

/-- The lowest channel that fails training, or whose density differs from channel 0's when every channel has trained (R322). -/
def failingChannel (failed : BitVec 16) (density : List Nat) : Option Nat :=
  match (List.range 16).find? fun c => failed.getLsbD c || !densityOk (nth density c 0) with
  | some c => some c
  | none => (List.range 16).find? fun c => nth density c 0 != nth density 0 0

/-- DRAM_TRAINING_END: on success the new key is chosen and clearing begins; on failure bring-up stops (R322, R323, R330). The stage has
passed from FW_START to DRAM when training began, with the DRAM polder up (Table 19-3; log 52). -/
def dramTrainingEnd (failed : BitVec 16) (density : List Nat) (s0 : State) : State :=
  let s := if s0.boot.stage = .fwStart then setStage .dram (polderSet pDram .up s0) else s0
  if s.boot.stage ≠ .dram ∨ s.dram.trained then s
  else
    let s1 := setDram (fun d => { d with chGib := nth density 0 0 % 8 }) s
    match failingChannel failed density with
    | some c => haltNow 3 (setDram (fun d => { d with trainFail := true, failCh := c }) s1)
    | none =>
      -- the two keys are distinct (R463)
      let (a, b) := (Config.freeKey s.free, Config.freeKey (s.free + 1))
      draw (draw (setDram (fun d => { d with trained := true, dataKey := a, tweakKey := if a = b then b + 1 else b }) s1))

def execDramTrainingEnd (failed : BitVec 16) (density : List Nat) (s : State) : Result := .next (dramTrainingEnd failed density s)

/-- DRAM_CLEAR_END: every usable line holds zeros; `ready`, and the stage passes to SYNC (R323, Table 19-3). -/
def dramClearEnd (s : State) : State :=
  if s.boot.stage = .dram ∧ s.dram.trained ∧ ¬ s.dram.ready then
    setStage .sync (setDram (fun d => { d with mem := [], poison := [], wrong := [], ready := true }) s)
  else s

def execDramClearEnd (s : State) : Result := .next (dramClearEnd s)

/-! ## Refresh, scrub, temperature (R327, R334) -/

/-- A tick-critical transfer still has a piece for a bank of a channel, in any of the granules that it touches. -/
def tcQueued (s : State) (chan bank : Nat) : Bool :=
  s.fm.xfers.any fun x => x.mcls == .tickCritical && x.chunks.any fun c => (pieceDram x c).any fun r =>
    (accesses 256 r.1 r.2).any fun a => dramChannel a == chan && Config.dramBank (dramOffset a) == bank

/-- DRAM_REFRESH: a due refresh is postponed while a tick-critical request is queued for the bank, up to the standard's limit (R334). -/
def dramRefresh (chan bank : Nat) (s : State) : State :=
  if !dramUp s then s
  else
    let i := 64 * chan + bank
    let k := tabGet 0 s.dram.postponed i
    if tcQueued s chan bank && decide (k < Config.refreshLimit) then
      setDram (fun d => { d with postponed := tabSet d.postponed i (k + 1) }) s
    else setDram (fun d => { d with postponed := tabSet d.postponed i 0 }) s

def execDramRefresh (chan bank : Nat) (s : State) : Result := .next (dramRefresh chan bank s)

/-- PATROL_SCRUB: the next usable line, in ascending order, is read, corrected and written back, while no request of a higher class is queued
(R327, R333; the order of the lines is log 30). -/
def patrolScrub (line : Nat) (s : State) : State :=
  if dramUp s && line == s.dram.scrub && dramTurn s 3 && decide (64 * line < usableBytes s) then
    setDram (fun d => { d with scrub := (line + 1) % (usableBytes s / 64) }) (dramCheckLine s line)
  else s

def execPatrolScrub (line : Nat) (s : State) : Result := .next (patrolScrub line s)

/-- DRAM_TEMPERATURE_REPORT (R334, Table 12-2). -/
def execDramTemperatureReport (hot : Bool) (s : State) : Result :=
  .next (if computeDown s then s else setDram (fun d => { d with hot := hot }) s)

/-! ## Ranges that commands name (R332) -/

/-- End of the firmware region (Table 12-3). -/
def fwRegion : Nat := 512 * 2 ^ 20

/-- Kr and Sr of R331. -/
def kvRegion (s : State) : Nat := min (16 * 2 ^ 30) (usableBytes s / 2) / 2 ^ 21 * 2 ^ 21
def logRegion (s : State) : Nat := kvRegion s / 8 / 2 ^ 21 * 2 ^ 21

/-- A range of device DRAM that a command may name; an empty range names no byte (R332). -/
def rangeOk (s : State) (a n : Nat) : Bool := n == 0 || decide (fwRegion ≤ a ∧ a + n ≤ usableBytes s)

/-! ## BAR4 (R427, R428, R336) -/

/-- An access is refused whole (R428). -/
def winRefused (s : State) (a n : Nat) : Bool :=
  !s.dram.ready || decide (a < fwRegion) || decide (usableBytes s < a + n)

/-- A read of device DRAM for the host: the bytes, and the poisoned bit of their TLPs; the data beside a mark are free (R187, R326, R328). -/
def barRead (a len : Nat) (s : State) : State :=
  let ps := dramPoison s a len
  setMbx (fun m => { m with readOut := freePoisoned s.free a (dramBytes s a len) ps, readMarks := ps.map (· != 0) }) (draw (dramScan a len s))

/-- BAR4_READ: the bytes at `WIN_BASE` + offset; it waits while the DRAM polder is not up (R336). -/
def bar4Read (off len : Nat) (s : State) : State :=
  if computeDown s then s
  else
    let a := s.mbx.winBase.toNat + off
    if winRefused s a len then setMbx (fun m => { m with readOut := zeros len, readMarks := [] }) (bump cWinBlocked s)
    else
      let s1 := needDram s
      if polderUp s1 pDram then barRead a len s1 else setMbx (fun m => { m with barQ := m.barQ ++ [.read a len] }) s1

def execBar4Read (off len : Nat) (s : State) : Result := .next (bar4Read off len s)

/-- A command that needs DRAM goes on at once, or requests the DRAM polder and waits until it is up (R336). -/
def dramGo (op : Nat) (c : Cmd) (go : State → State) (s : State) : State :=
  let s1 := needDram s
  if polderUp s1 pDram then go s1 else waitFor op c .dram s1

/-- A range of device DRAM meets the page pool that is set up. -/
def meetsPool (s : State) (a n : Nat) : Bool :=
  match s.kv.pool with
  | some p => decide (a < p.base + p.sizeMib * 2 ^ 20 ∧ p.base < a + n)
  | none => false

/-- Two ranges of device DRAM meet. -/
def rangeMeets (a n : Nat) (r : Nat × Nat) : Bool := decide (a < r.1 + r.2 ∧ r.1 < a + n)

/-- A range of device DRAM meets one that a transfer in flight has still to read or write. -/
def meetsTransfer (s : State) (a n : Nat) : Bool := s.fm.xfers.any fun x => x.chunks.any fun c => (pieceDram x c).any (rangeMeets a n)

/-- Ranges of device DRAM that running jobs use besides their transfers: the log and the snapshot of a watch that runs, and the operands of the
serves in progress (R305, R310, R337). -/
def jobRanges (s : State) : List (Nat × Nat) :=
  (match s.watch.image with
   | some im => if s.watch.run = 0 then [] else
       [(im.logBase, im.logFrames * s.tick.frameLen * roundUp (44 + 8 * im.nFeat + 4 * im.nCtl) 64 + im.snapLen)]
   | none => []) ++
  s.kv.jobs.flatMap fun e => match e.2.serving with | some v => v.dram | none => []

/-- A range lies in the control block of the watch, whose stamps guard its reader (R289, Table 12-5). -/
def inControl (s : State) (a n : Nat) : Bool :=
  match s.watch.image with
  | some im => decide (im.ctlAddr ≤ a ∧ a + n ≤ im.ctlAddr + 256)
  | none => false

/-- A page of the pool after misuse: any state, format, place and length inside the pool of `n` granules, or as it was (KV-A of Table 09-10). -/
def spoiledPage (n k e : Nat) (p : Page) : Page :=
  let g := Config.freeNat k (4 * e + 2) % max 1 n
  if Config.freeBool k e then
    { p with
      state := Config.freeNat k (4 * e) % 3
      fmt := nth [.bf16, .fp16, .e4m3, .e5m2, .mxfp4] (Config.freeNat k (4 * e + 1) % 5) .bf16
      granule := g
      len256 := Config.freeNat k (4 * e + 3) % min (2 ^ 16) (16 * (n - g) + 1) }
  else p

/-- What misuse of the pool leaves (R254, KV-A and KV-B): any page headers, those of free entries among them, and any bytes anywhere in the
pool. Which bytes its users then read or write follows from the headers (log 77). -/
def poolSpoil (s : State) : State :=
  match s.kv.pool with
  | none => s
  | some p =>
    let k := s.free
    let n := 256 * p.sizeMib
    let pages := (Config.freeNats k).foldl (fun t e => tabSet t (e % 2 ^ 20) (spoiledPage n k (e % 2 ^ 20) (tabGet {} t (e % 2 ^ 20))))
      (s.kv.pages.map fun e => (e.1, spoiledPage n k e.1 e.2))
    draw ((Config.freeCells k).foldl (fun t e =>
      let a := p.base + e.1 % (p.sizeMib * 2 ^ 20)
      dramPutLine (a / 64) [(a, e.2)] false t) (setKv (fun v => { v with pages := pages }) s))

/-- Bytes that land in a range: of a write that is the misuse DR-A any mixture of old and new (Table 12-5, R450). -/
def misused (bad : Bool) (free : Nat) (bs : List (Nat × Byte)) : List (Nat × Byte) :=
  if bad then bs.filter fun b => Config.freeBool free b.1 else bs

/-- What uses a range under the misuse DR-A computes any values from it: a transfer that reads it carries any bytes, without poison, and a serve
in progress gives any output (R337; log 77). -/
def readersSpoil (a n : Nat) (s : State) : State :=
  let spoil (x : Xfer) (c : Chunk) : Chunk :=
    if x.srcKind == .dram && c.data.isNone && (srcRuns x c).any (rangeMeets a n) then
      { c with data := some ((List.range c.len).map fun i => Config.freeByte s.free (64 * x.id + i)) }
    else c
  let late (w : Serve) : Serve := { w with spoiled := w.spoiled || w.dram.any (rangeMeets a n) }
  setKv (fun v => { v with jobs := v.jobs.map fun e => (e.1, { e.2 with serving := e.2.serving.map late }) })
    (setFm (fun m => { m with xfers := m.xfers.map fun x => { x with chunks := x.chunks.map (spoil x) } }) s)

/-- A write of the host to device DRAM: enabled bytes are written; a poisoned TLP stores every line it touches as poison (R427, R328). -/
def barWrite (a : Nat) (data : List Byte) (enable : List Bool) (poisoned : Bool) (s : State) : State :=
  let n := data.length
  let pool := meetsPool s a n
  let used := !pool && !inControl s a n && (meetsTransfer s a n || (jobRanges s).any (rangeMeets a n))
  let bs := misused used s.free ((List.range n).filterMap fun i => if nth enable i true then some (a + i, nth data i 0) else none)
  let s1 := draw ((linesOf a n).foldl (fun t l => dramPutLine l (bs.filter fun b => b.1 / 64 == l) poisoned t) (if used then readersSpoil a n s else s))
  if pool then poolSpoil s1 else s1

/-- BAR4_WRITE: at `WIN_BASE` + offset; it waits while the DRAM polder is not up (R336). -/
def bar4Write (off : Nat) (data : List Byte) (enable : List Bool) (poisoned : Bool) (s : State) : State :=
  if computeDown s then s
  else
    let a := s.mbx.winBase.toNat + off
    if winRefused s a data.length then bump cWinBlocked s
    else
      let s1 := needDram s
      if polderUp s1 pDram then barWrite a data enable poisoned s1
      else setMbx (fun m => { m with barQ := m.barQ ++ [.write a data enable poisoned] }) s1

/-- The BAR4 accesses that waited for the DRAM polder are made, in their order (R336). -/
def barGo (s : State) : State :=
  s.mbx.barQ.foldl (fun t x => match x with
    | .read a n => barRead a n t
    | .write a d en p => barWrite a d en p t) (setMbx (fun m => { m with barQ := [] }) s)

def execBar4Write (off : Nat) (data : List Byte) (enable : List Bool) (poisoned : Bool) (s : State) : Result :=
  .next (bar4Write off data enable poisoned s)

end Sys2Proof.Machine
end

