-- ==== Sys2Proof/Machine/Schedule.lean ====
section
/-! DEFINITION. The schedule in force and its sync objects (chapter 08): signals and epochs, the selection of a schedule under the
fence set and the tier, and a change of either that waits for its polders. -/

namespace Sys2Proof.Machine

/-! ## The running list -/

/-- The schedule in force. -/
def runSched (s : State) : Option Sched :=
  match s.seq.active, s.seq.sched with
  | some l, some i => l.scheds[i]?
  | _, _ => none

/-- Owner of a bank in a slot (R177, R201). -/
def slotOwner (d : SlotDef) (f b : Nat) : Nat := bitsN (nth d.owners f 0).toNat (8 * b + 4) (8 * b)

/-- The slot whose time an offset is in (R201). -/
def slotAt (k : Sched) (t : Nat) : Nat :=
  ((List.range k.slots.length).filter fun i => decide ((nth k.slots i {}).start ≤ t)).foldl max 0

/-- Entry of an object in a list's sync table (Table 08-11). -/
def syncDef (l : MList) (obj : Nat) : Option SyncDef := l.syncs.find? fun d => d.obj == obj

/-- Fields whose engine or arrays a target uses (Table 08-4). -/
def targetFields (l : MList) (t : Nat) : List Nat :=
  if t < 0x500 then ((unitArrays l t).map (· / 16)).eraseDups
  else if t < 0x560 then [(t - 0x500) % 32]
  else []

/-! ## Sync objects (R207, R208, R210) -/

/-- A sync object. -/
def syncOf (s : State) (obj : Nat) : Sync := tabGet {} s.seq.sync obj

/-- Engines whose BARRIER has reached its target go on (R210). -/
def releaseBarriers (s : State) : State :=
  setSeq (fun q => { q with barriers := q.barriers.filter fun b => decide ((tabGet {} q.sync b.2.1).count < b.2.2) }) s

/-- A signal with an epoch: discarded and counted when the object is in another one; otherwise the count rises, saturating at 65,535
(R207, R208). -/
def addSignal (obj n epoch : Nat) (s : State) : State :=
  if n = 0 then s
  else
    let x := syncOf s obj
    if x.epoch ≠ epoch then bump cSyncStale s
    else releaseBarriers (setSeq (fun q => { q with sync := tabSet q.sync obj { x with count := min 65535 (x.count + n), hits := x.hits + 1 } }) s)

/-- An object's count returns to 0 and its epoch advances (R207). -/
def resetSync (obj : Nat) (s : State) : State :=
  let x := syncOf s obj
  setSeq (fun q => { q with sync := tabSet q.sync obj { x with count := 0, epoch := x.epoch + 1 } }) s

/-- The objects of one scope in the running list start a new epoch (R207). -/
def resetScope (sc : Scope) (s : State) : State :=
  match s.seq.active with
  | none => s
  | some l => (l.syncs.filter fun d => d.scope == sc).foldl (fun t d => resetSync d.obj t) s

/-- SIGNAL: adds to the object at its offset, in the epoch that is current (R208). -/
def execSignal (obj n : Nat) (s : State) : Result := .next (addSignal obj n (syncOf s obj).epoch s)

/-- BARRIER: adds 1 to the object and holds its engine until the target is reached (R210). -/
def barrier (engine obj tgt : Nat) (s : State) : State :=
  releaseBarriers (addSignal obj 1 (syncOf s obj).epoch (setSeq (fun q => { q with barriers := tabSet q.barriers engine (obj, tgt) }) s))

def execBarrier (engine obj tgt _at_ : Nat) (s : State) : Result := .next (barrier engine obj tgt s)

/-! ## The fence set (R54, R214) -/

/-- A resource's bit in F. -/
def fenced (m : BitVec 276) (res : Nat) : Bool := m.getLsbD res

/-- F with every consequence: a field with two fenced arrays is fenced, and a fenced field fences its arrays (R54, R214). -/
def fenceClosure (m : BitVec 276) : BitVec 276 :=
  let two := (List.range 16).filter fun f => fenced m (256 + f) || decide (2 ≤ ((List.range 16).filter fun i => fenced m (16 * f + i)).length)
  two.foldl (fun a f => a ||| BitVec.ofNat 276 (0xFFFF * 2 ^ (16 * f) + 2 ^ (256 + f))) m

/-- A resource exists on the order code (R512). -/
def resPresent (p : Part) (res : Nat) : Bool :=
  if res < 256 then decide (res < nArrays p) else if res < 272 then decide (res - 256 < nFields p) else decide (res < 276)

/-- A target uses a fenced resource (R53, R54). -/
def targetFenced (s : State) (l : MList) (t : Nat) : Bool :=
  if t < 0x500 then (unitArrays l t).any fun a => fenced s.seq.fence a
  else if t < 0x560 then fenced s.seq.fence (256 + (t - 0x500) % 32)
  else if 0x580 ≤ t ∧ t < 0x584 then fenced s.seq.fence (272 + (t - 0x580))
  else false

/-! ## Selection (R214 to R217) -/

/-- The tier to run for a requested one: itself, or the next denser one present (R217). -/
def presentTier (l : MList) : Nat → Nat
  | 0 => 0
  | t + 1 => if l.scheds.any (fun k => k.tier == t + 1) then t + 1 else presentTier l t

/-- A schedule covers F when its mask has every bit of F (R214). -/
def covers (k : Sched) (f : BitVec 276) : Bool := (f &&& ~~~k.mask) == 0

/-- The lowest-numbered placement of the tier that covers F, as an index into the list's schedules (R215). -/
def selectSched (l : MList) (tier : Nat) (f : BitVec 276) : Option Nat :=
  let t := presentTier l tier
  (List.range l.scheds.length).foldl (fun best i =>
    match l.scheds[i]? with
    | none => best
    | some k =>
      if k.tier != t || !covers k f then best
      else match best with
      | none => some i
      | some j => if k.placement < (nth l.scheds j {}).placement then some i else best) none

/-- An ML_START is pending (R222). -/
def startPending (s : State) : Bool := waiting s fun a => a == .mlStart

/-- The list that the next change of schedule runs. -/
def targetList (s : State) : Option MList := if startPending s then s.seq.standby else s.seq.active

/-- The first tick at whose boundary a change may take effect is no earlier than that of the change that it replaces. -/
def dueNotBefore (old : Option Change) (s : State) : State :=
  setSeq (fun q => { q with
    change := q.change.map fun c =>
      { c with dueTick := match c.dueTick, old.bind (·.dueTick) with | some d, some o => some (if d < o then o else d) | d, _ => d } }) s

/-- A change of schedule is decided: the selection under the F and tier of this moment, and the power-ups it needs; a selection that is
repeated while an earlier change waits leaves the earlier requests granted (R218, R220). `lead` is how many ticks ahead its boundary lies
at least when no polder has to come up: 3 for a decision in the middle of a tick, 2 for a change of F at a boundary, 1 for a tier request
(R487), 0 where a swap takes effect at this very boundary (Table 08-12; log 38). -/
def decideChange (lead : Nat) (s : State) : State :=
  match targetList s with
  | none => s
  | some l =>
    let sel := selectSched l s.seq.tierReq s.seq.fence
    let ps := match sel with | some i => (nth l.scheds i {}).polders | none => 0
    dueNotBefore s.seq.change (noteUp lead (changeRequests (setSeq (fun q => { q with
      change := some { swap := startPending s, sched := sel, polders := ps, dueTick := none } }) s)))

/-- F changes: moves on fenced units no longer issue, and a change of schedule is decided (R53, R215). -/
def changeF (lead : Nat) (f : BitVec 276) (s : State) : State :=
  if s.seq.fence = f then s else decideChange lead (setSeq (fun q => { q with fence := f }) s)

/-- The tier request changes (R217, R487). -/
def changeTier (lead t : Nat) (s : State) : State :=
  if s.seq.tierReq = t then s else decideChange lead (setSeq (fun q => { q with tierReq := t }) s)

/-- A link fence joins or leaves F at once; it is never persistent (R395, R513). -/
def linkFence (l : Nat) (on : Bool) (s : State) : State :=
  let bit : BitVec 276 := 1#276 <<< (272 + l % 4)
  let set (m : BitVec 276) : BitVec 276 := if on then m ||| bit else m &&& ~~~bit
  if fenced s.seq.fence (272 + l % 4) == on then s
  else logEvent 0x0010 0 (272 + l % 4) 3 (changeF 3 (set s.seq.fence) (setSeq (fun q => { q with fenceNext := set q.fenceNext }) s))

/-! ## Jobs (R205) -/

/-- Run state of a job. -/
def jobOf (s : State) (j : Nat) : Job := tabGet {} s.seq.jobs j

/-- Change a job's run state. -/
def setJob (j : Nat) (f : Job → Job) (s : State) : State :=
  setSeq (fun q => { q with jobs := tabSet q.jobs j (f (tabGet {} q.jobs j)) }) s

/-- A job starts: its run number rises by one (R205, R271). -/
def startJob (j : Nat) (s : State) : State :=
  setJob j (fun x => { x with running := true, cursor := 0, busy := false, run := x.run + 1 }) s

/-- A gap job is triggered; a trigger for a running one is ignored (R205). -/
def triggerJob (j : Nat) (s : State) : State := if (jobOf s j).running then s else startJob j s

/-- Job classes stopped with NO_PLACEMENT under a selection (R215). -/
def stoppedClasses (l : MList) (sel : Option Nat) : BitVec 16 :=
  match sel with
  | none => 0xFFFF
  | some i => ~~~(nth l.scheds i {}).classes

/-- `placement` of the record (R215, R28). -/
def placementNow (s : State) : Nat := match runSched s with | some k => k.placement | none => 31

end Sys2Proof.Machine
end

