-- ==== Sys2Proof/Machine/Dma.lean ====
section
/-! DEFINITION. DMA (R176, R180, R188 to R190, R200, R477, R479): descriptors, buffered accesses, transfers from the host, and the route
and flits of a transfer to a peer chip (R384, R389). -/

namespace Sys2Proof.Machine

/-! ## Rings and tori (Table 14-1, R389) -/

/-- A route (Table 14-5): hops and directions in the two dimensions. -/
structure LinkRoute where
  hopsX : Nat := 0
  negX : Bool := false
  hopsY : Nat := 0
  negY : Bool := false
  yFirst : Bool := false
  deriving DecidableEq, Repr

/-- Chip at the far end of a link (Table 14-1). -/
def neighbour (i : Ident) (chip l : Nat) : Nat :=
  let w := i.dimX + 1
  let h := i.dimY + 1
  let x := chip % w
  let y := chip / w
  match l with
  | 0 => (x + 1) % w + w * y
  | 1 => (x + w - 1) % w + w * y
  | 2 => x + w * ((y + 1) % h)
  | _ => x + w * ((y + h - 1) % h)

/-- Link number at the far end of a link (Table 14-1). -/
def farLink : Nat → Nat
  | 0 => 1 | 1 => 0 | 2 => 3 | _ => 2

/-- Links that a route takes, in order. -/
def routeLinks (r : LinkRoute) : List Nat :=
  let x := List.replicate r.hopsX (if r.negX then 1 else 0)
  let y := List.replicate r.hopsY (if r.negY then 3 else 2)
  if r.yFirst then y ++ x else x ++ y

/-- The (chip, link) pairs of a list of links from a chip. -/
def walkLinks (i : Ident) : Nat → List Nat → List (Nat × Nat)
  | _, [] => []
  | chip, l :: t => (chip, l) :: walkLinks i (neighbour i chip l) t

/-- The source's link map shows a link up: no end of it is known to be down, and an own link is UP and not avoided (R389, R395, R400). -/
def mapUp (s : State) (e : Nat × Nat) : Bool :=
  let k := s.links
  let other := (neighbour k.ident e.1 e.2, farLink e.2)
  let own (c : Nat × Nat) : Bool := c.1 != k.ident.chipId || ((tabGet {} k.link c.2).phase == .up && !k.avoid.getLsbD c.2)
  let shut (c : Nat × Nat) : Bool := k.downMap.contains (4 * c.1 + c.2) || k.adminAvoid.contains (4 * c.1 + c.2)
  !shut e && !shut other && own e && own other

/-- Every link of a route is up. -/
def routeUp (s : State) (r : LinkRoute) : Bool := (walkLinks s.links.ident s.links.ident.chipId (routeLinks r)).all (mapUp s)

/-- The shorter way round a dimension of `n` from `a` to `b`, the positive one on a tie: hops, and whether they go negative. -/
def shorter (n a b : Nat) : Nat × Bool :=
  let d := (b + n - a) % n
  if 2 * d ≤ n then (d, false) else (n - d, true)

/-- The standard route of a ring or torus. -/
def stdRoute (i : Ident) (dst : Nat) : LinkRoute :=
  let w := i.dimX + 1
  let h := i.dimY + 1
  let x := shorter w (i.chipId % w) (dst % w)
  let y := shorter h (i.chipId / w) (dst / w)
  { hopsX := x.1, negX := x.2, hopsY := y.1, negY := y.2 }

/-- The other direction of a dimension. -/
def flipX (i : Ident) (r : LinkRoute) : LinkRoute := { r with hopsX := i.dimX + 1 - r.hopsX, negX := !r.negX }
def flipY (i : Ident) (r : LinkRoute) : LinkRoute := { r with hopsY := i.dimY + 1 - r.hopsY, negY := !r.negY }

/-- Detours in the order of R389: the other direction of each blocked dimension, then the second dimension first. -/
def detours (s : State) (r : LinkRoute) : List LinkRoute :=
  let i := s.links.ident
  let path := walkLinks i i.chipId (routeLinks r)
  let bad (p : Nat → Bool) : Bool := path.any fun e => p e.2 && !mapUp s e
  let r1 := if bad (· < 2) then flipX i r else r
  let r2 := if bad (2 ≤ ·) then flipY i r1 else r1
  if i.topo = 1 then [r2] else [r2, { r with yFirst := true }]

/-- The route of a transfer to a chip, and whether it is a detour; none when no route is up (R389). -/
def routeTo (s : State) (dst : Nat) : Option (LinkRoute × Bool) :=
  let i := s.links.ident
  if i.topo = 0 ∨ dst = i.chipId ∨ (i.dimX + 1) * (i.dimY + 1) ≤ dst then none
  else
    let r := stdRoute i dst
    if routeUp s r then some (r, false)
    else match (detours s r).find? (routeUp s) with
    | some d => some (d, true)
    | none => none

/-- First link of a route. -/
def firstLink (r : LinkRoute) : Nat := nth (routeLinks r) 0 0

/-- A flit joins a link's queue (R386). -/
def queueFlit (l : Nat) (fwd : Bool) (f : Flit) (s : State) : State :=
  setLink l (fun k => { k with txq := k.txq ++ [{ fwd := fwd, flit := f }] }) s

/-- Credits go back to the far end of a link, one per flit freed (R388). -/
def issueCredit (l : Nat) (cls : FlitClass) (s : State) : State :=
  if 4 ≤ l then s
  else setLink l (fun k =>
    if cls == .scheduled then { k with issuedSched := k.issuedSched + 1 } else { k with issuedShared := k.issuedShared + 1 }) s

/-- A flit to be forwarded joins the queue of its way out, and holds its place in the buffer of the link that brought it (R386, R388). -/
def forwardFlit (l out : Nat) (f g : Flit) (s : State) : State :=
  setLink out (fun k => { k with txq := k.txq ++ [{ fwd := true, flit := g, inLink := l, inCls := f.cls }] }) s

/-- `sig_scope` of an object (Table 14-5). -/
def scopeCode : Scope → Nat
  | .tick => 0 | .step => 1 | .frame => 2 | .persistent => 3

/-- First transfer tag from the next one on whose earlier transfer has been acknowledged; none while every tag is in use (R383). -/
def freeTag (s : State) : Option Nat :=
  ((List.range 16384).find? fun i => !tabHas s.links.sent ((s.links.nextTag + i) % 16384)).map fun i => (s.links.nextTag + i) % 16384

/-! ## Transfers (R188, R200) -/

/-- Pieces of at most 64 bytes of rows of a length; a piece never spans two rows. -/
def rowChunks (rows rowLen : Nat) : List Chunk :=
  (List.range rows).flatMap fun r => (List.range ((rowLen + 63) / 64)).map fun i =>
    { off := r * rowLen + 64 * i, len := min 64 (rowLen - 64 * i), data := none, poison := [] }

/-- Pieces of 64 bytes of a whole transfer, as its data flits carry them (R384). -/
def flitChunks (total : Nat) : List Chunk :=
  (List.range ((total + 63) / 64)).map fun i =>
    { off := 64 * i, len := min 64 (total - 64 * i), data := none, poison := [] }

/-- A transfer that came over a link. -/
def received (x : Xfer) : Bool := x.head.isSome && x.dstKind == .fieldMem

/-- Descriptors held by tick-critical moves, and by all others; the transactions of one GATHER_D hold one (R188, R189, R277). -/
def descTc (s : State) : Nat := (s.fm.xfers.filter fun x => x.tc && !x.gather && !received x).length
def descOther (s : State) : Nat :=
  (s.fm.xfers.filter fun x => !x.tc && !x.gather && !received x).length +
    ((s.fm.xfers.filter fun x => x.gather).map fun x => (x.field, x.mid, x.run)).eraseDups.length

/-- A descriptor is open to a class (R189). -/
def descOpen (s : State) (tc : Bool) : Bool :=
  decide (descTc s + descOther s < 512) && (tc || decide (descOther s < 448))

/-- R176: a field-memory address or length that is not a multiple of 8. -/
def dmaBad (o : DmaOpnd) : Bool :=
  let side (k : DmaKind) (a stride : Nat) : Bool :=
    (k == .fieldMem || k == .peer) && (a % 8 != 0 || o.len % 8 != 0 || (decide (1 < o.rows) && stride % 8 != 0))
  side o.srcKind o.src o.srcStride || side o.dstKind o.dst o.dstStride

/-- The gates that a new transfer's destination touches are all open, so that it is registered before any close (R477). -/
def registers (s : State) (x : Xfer) : Bool := (xferBanks x).all fun e => !gateClosing s e.1 e.2

/-- A transfer joins those in flight. -/
def addXfer (x : Xfer) (s : State) : State :=
  setFm (fun m => { m with
    xfers := m.xfers ++ [{ x with id := m.nextXfer, registered := registers s x }]
    nextXfer := m.nextXfer + 1 }) s

/-- The head flit payload of a transfer to a peer chip (Table 14-5). -/
def headOf (s : State) (o : DmaOpnd) (tick : W64) (r : LinkRoute) : HeadFlit :=
  { len := o.len
    rows := o.rows - 1
    dstStride := o.dstStride
    dst := o.dst % 2 ^ 27
    sigObj := o.sigObj
    sigN := o.sigN
    sigScope := match s.seq.active with
      | some l => (match syncDef l o.sigObj with | some d => scopeCode d.scope | none => 0)
      | none => 0
    tick := tick
    planId := s.seq.planId.getD 0
    dstChip := o.peer
    hopsX := r.hopsX
    dirX := r.negX
    hopsY := r.hopsY
    dirY := r.negY
    yFirst := r.yFirst }

/-- The descriptor of a move completes without a signal (R176, R389, R479). -/
def descFails (field mid : Nat) (e : DescErr) (s : State) : State :=
  setFm (fun m => { m with descErrs := tabSet m.descErrs (65536 * field + mid) e }) s

/-- A transfer to a peer chip is issued: its route is fixed and its head flit queued; without a route the move completes with error and
`ln_unreach` counts on the link of the standard route (R389). A descriptor starts only once a tag is free for it (`waitOpen`). -/
def sendPeer (field : Nat) (o : DmaOpnd) (x : MoveCtx) (tick : W64) (s : State) : State :=
  match routeTo s o.peer, freeTag s with
  | none, _ => descFails field x.mid .unreachable (bump (cLink (firstLink (stdRoute s.links.ident o.peer) % 4) 6) s)
  | some _, none => s
  | some (r, detour), some tag =>
    let cls := if detour then FlitClass.detour else if o.bestEffort then .bestEffort else .scheduled
    let me := s.links.ident.chipId
    let l := firstLink r
    let h := headOf s o tick r
    let s1 := queueFlit l false { cls := cls, srcChip := me, tag := tag, body := .head h }
      (setLinks (fun k => { k with nextTag := (tag + 1) % 16384, sent := tabSet k.sent tag (l, 65536 * field + x.mid) }) s)
    let t : Xfer :=
      { id := 0, field := field, mid := x.mid, tc := x.cls == .tickCritical
        srcKind := o.srcKind, src := o.src, srcStride := o.srcStride
        dstKind := .peer, dst := o.dst, dstStride := o.dstStride, rowLen := o.len
        chunks := flitChunks (o.len * o.rows)
        sigObj := 0, sigN := 0, epoch := 0, registered := false, gather := false
        head := some h, link := l, chip := me, tag := tag, whole := true, cls := cls, mcls := x.cls }
    if t.chunks.isEmpty then s1 else addXfer t s1

/-- A transfer is whole and has made its last access: it leaves, a transfer of this chip signals, and one of the firmware triggers its job
(R180, R208, R249). -/
def localDone (x : Xfer) (s : State) : State :=
  if x.fw then (match x.job with | some j => triggerJob j s | none => s)
  else if x.gather || x.dstKind == .peer then s else addSignal x.sigObj x.sigN x.epoch s

/-- A descriptor starts: a transfer to a peer chip takes its route, another one registers with its sluices (R277, R389, R477). -/
def descStart (q : DescWait) (s : State) : State :=
  let o := q.o
  let s1 := if o.srcKind == .dram || o.dstKind == .dram then needDram s else s
  if o.dstKind == .peer then sendPeer q.field o q.x q.tick s1
  else
    let t : Xfer :=
      { id := 0, field := q.field, mid := q.x.mid, tc := q.x.cls == .tickCritical && !q.gather
        srcKind := o.srcKind, src := o.src, srcStride := o.srcStride
        dstKind := o.dstKind, dst := o.dst, dstStride := o.dstStride, rowLen := o.len
        chunks := if q.fw.isEmpty then rowChunks o.rows o.len else q.fw
        sigObj := o.sigObj, sigN := o.sigN, epoch := q.epoch, registered := false, gather := q.gather
        head := none, link := 0, chip := 0, tag := 0, whole := true, cls := .scheduled, run := q.run
        fw := !q.fw.isEmpty, mcls := q.x.cls, job := q.job }
    if t.chunks.isEmpty then localDone t s1 else addXfer t s1

/-- A waiting descriptor is of a tick-critical DMA move; the rows of a GATHER_D count with the others (R189). -/
def waitTc (q : DescWait) : Bool := q.x.cls == .tickCritical && !q.gather

/-- A waiting descriptor may start: one is open to its class, or its GATHER_D holds one, and a transfer to a peer chip has a tag (R188, R189,
R277, R383). -/
def waitOpen (s : State) (q : DescWait) : Bool :=
  (descOpen s (waitTc q) && (q.o.dstKind != .peer || (freeTag s).isSome || (routeTo s q.o.peer).isNone)) || (q.gather && s.fm.xfers.any fun x => x.gather && x.field == q.field && x.mid == q.x.mid && x.run == q.run)

/-- The queued descriptors start while descriptors are free, those of tick-critical moves ahead of the others, at most `n` of them (R188,
R189). -/
def descRelease : Nat → State → State
  | 0, s => s
  | n + 1, s =>
    let order := (s.fm.descQueue.filter waitTc) ++ s.fm.descQueue.filter fun q => !waitTc q
    match order.find? (waitOpen s) with
    | none => s
    | some q => descRelease n (descStart q (setFm (fun m => { m with descQueue := m.descQueue.erase q }) s))

/-- Every queued descriptor for which one is free starts. -/
def releaseAll (s : State) : State := descRelease s.fm.descQueue.length s

/-- A descriptor joins the queue of its engine, and starts at once when one is free. -/
def descEnqueue (q : DescWait) (s : State) : State := releaseAll (setFm (fun m => { m with descQueue := m.descQueue ++ [q] }) s)

/-- DMA: a descriptor is issued. One that breaks R176 completes with BAD_PARAM and transfers nothing; one beyond the count open to its
class waits in its engine queue (R188). -/
def dmaIssue (field : Nat) (o : DmaOpnd) (x : MoveCtx) (s : State) : State :=
  if computeDown s || decide (nFields s.part ≤ field) then s
  else if dmaBad o then descFails field x.mid .badParam s
  else descEnqueue { field := field, o := o, x := x, epoch := (syncOf s o.sigObj).epoch, tick := s.tick.no, gather := false, run := 0 } s

def execDma (field : Nat) (o : DmaOpnd) (x : MoveCtx) (s : State) : Result := .next (dmaIssue field o x s)

/-! ## Signals of received transfers (R391) -/

/-- A received transfer's signal is applied, or discarded and counted. -/
def destSignal (h : HeadFlit) (l : Nat) (s : State) : State :=
  if h.sigN = 0 then s
  else
    let ok := match s.seq.active with
      | none => false
      | some m => match syncDef m h.sigObj with
        | none => false
        | some d =>
          let first := s.tick.no.toNat - s.tick.inFrame
          d.ring && scopeCode d.scope == h.sigScope &&
            (match d.scope with
             | .tick => h.tick == s.tick.no
             | .frame => decide (first ≤ h.tick.toNat ∧ h.tick.toNat < first + s.tick.frameLen)
             | .persistent => s.seq.planId == some h.planId
             | .step => false)
    if ok then addSignal h.sigObj h.sigN (syncOf s h.sigObj).epoch s else bump (cLink l 7) s

/-! ## Buffered accesses (R180, R187, R479) -/

/-- Filled buffer entries of the DMA engine of a field: pieces with data on their way into it, those of the front end among them. What the
firmware writes stays with the control cores until its access (R180). -/
def buffered (s : State) (f : Nat) : Nat :=
  (s.fm.xfers.map fun x => if x.dstKind != .fieldMem || x.fw then 0 else (x.chunks.filter fun c =>
    c.data.isSome && (rowAddr x.dst x.dstStride x.rowLen c.off) / 2 ^ 23 == f).length).foldl (· + ·) 0 +
  ((s.fm.portWait.filter fun e => (splitAddr e.1).1 == f).map fun e => (e.2.bytes.length + 63) / 64).foldl (· + ·) 0

/-- The buffer that a piece's data goes to has room for it: the 64 entries of the engine of its destination field (R180). -/
def roomFor (s : State) (x : Xfer) (c : Chunk) : Bool :=
  x.dstKind != .fieldMem || decide (buffered s ((rowAddr x.dst x.dstStride x.rowLen c.off) / 2 ^ 23) < 64)

/-- The gate of every bank that a write touches lets it pass: open, or closing after the transfer registered (R477 to R479). -/
def gatePasses (s : State) (x : Xfer) (f a n : Nat) : Bool :=
  (groupsOf a n).all fun g => bankOn s f (8 * g) && (x.registered || !gateClosing s f (bankOf (8 * g)))

/-! ### Firmware transfers (R55) -/

/-- The firmware writes single bytes: a group that it writes in part is read first, keeps its other bytes, and stays poison where it was
(R176, R184). `ps`: poison bits by byte. -/
def fwPut (f a : Nat) (bs : List Byte) (ps : List (BitVec 8)) (s : State) : State :=
  let a0 := a / 8 * 8
  let n := roundUp (a + bs.length) 8 - a0
  let inside (i : Nat) : Bool := decide (a ≤ a0 + i ∧ a0 + i < a + bs.length)
  let part (g : Nat) : Bool := (List.range 8).any fun j => !inside (8 * g + j)
  let gs := List.range (n / 8)
  let s1 := (gs.filter part).foldl (fun t g => fmScan 64 f (a0 + 8 * g) 8 t) s
  let data := (List.range n).map fun i => if inside i then nth bs (a0 + i - a) 0 else fmByte s f (a0 + i)
  let marks := gs.map fun g => (List.range 8).foldl (fun p j =>
    if inside (8 * g + j) then p ||| nth ps (a0 + 8 * g + j - a) 0 else p ||| fmPoisonAt s f (a0 + 8 * g)) (0 : BitVec 8)
  fmStore 64 f a0 (freePoisoned s.free a0 data marks) marks s1

/-- Descriptor of a firmware transfer, of the service class; no move has its `move_id`. -/
def fwWait (f : Nat) (sk dk : DmaKind) (cs : List Chunk) : DescWait :=
  { field := f, epoch := 0, tick := 0, gather := false, run := 0, fw := cs
    x := { mid := 2 ^ 32, cls := .service, jclass := 0, streamC := 0, resid := [] }
    o := { src := 0, dst := 0, len := 0, rows := 0, srcStride := 0, dstStride := 0, srcKind := sk, dstKind := dk, bestEffort := false, peer := 0
           sigObj := 0, sigN := 0 } }

/-- Pieces of a range, one for each 64 aligned bytes: (offset in the range, length). -/
def piecesOf (a n : Nat) : List (Nat × Nat) :=
  (accesses 64 a n).map fun l => (max a l - a, min (a + n) (l + 64) - max a l)

/-- The firmware writes bytes at field addresses through one descriptor: each piece in a cycle in which a DMA port owns its bank (R55,
R180). A job may be triggered behind the last of them (R249). -/
def fwWriteThen (job : Option Nat) (f : Nat) (items : List (Nat × List Byte)) (s : State) : State :=
  let cs := items.flatMap fun e => (piecesOf e.1 e.2.length).map fun q =>
    ({ off := 0, len := q.2, data := some ((e.2.drop q.1).take q.2), poison := [], dstAt := chipAddr f (e.1 + q.1) } : Chunk)
  if cs.isEmpty then s else descEnqueue { fwWait f .host .fieldMem cs with job := job } s

def fwWrite (f : Nat) (items : List (Nat × List Byte)) (s : State) : State := fwWriteThen none f items s

/-- Runs of a copy byte by byte: neighbours on both sides in one 64 aligned bytes of each stay together, as (source, destination, length). -/
def copyRuns : List (Nat × Nat) → List (Nat × Nat × Nat)
  | [] => []
  | (a, b) :: t => match copyRuns t with
    | (a', b', n) :: rest => if a + 1 = a' ∧ b + 1 = b' ∧ a' % 64 ≠ 0 ∧ b' % 64 ≠ 0 then (a, b, n + 1) :: rest else (a, b, 1) :: (a', b', n) :: rest
    | [] => [(a, b, 1)]

/-- The firmware copies bytes between field memory, by chip-wide address, and device DRAM through one descriptor of a field's engine (R55). -/
def fwCopy (f : Nat) (sk dk : DmaKind) (bytes : List (Nat × Nat)) (s : State) : State :=
  let cs := (copyRuns bytes).map fun r => ({ off := 0, len := r.2.2, data := none, poison := [], srcAt := r.1, dstAt := r.2.1 } : Chunk)
  if cs.isEmpty then s else descEnqueue (fwWait f sk dk cs) s

/-- A firmware transfer between two kinds of memory has still to write into a range of its destination. -/
def fwPending (s : State) (sk dk : DmaKind) (a n : Nat) : Bool :=
  let hit (c : Chunk) : Bool := decide (c.dstAt < a + n ∧ a < c.dstAt + c.len)
  (s.fm.xfers.any fun x => x.fw && x.srcKind == sk && x.dstKind == dk && x.chunks.any hit) ||
    s.fm.descQueue.any fun q => q.o.srcKind == sk && q.o.dstKind == dk && q.fw.any hit

/-- Bytes as the firmware's DMA returns them, and what the reading counts: the data beside a mark are free (R184, R187, R192). -/
def fwRead (f a n : Nat) (s : State) : List Byte × State :=
  ((List.range n).map fun i => if fmPoisonAt s f (a + i) = 0 then fmByte s f (a + i) else Config.freeByte s.free (a + i), draw (fmScan 64 f a n s))

/-- Replace or take away a transfer. -/
def putXfer (x : Xfer) (s : State) : State :=
  setFm (fun m => { m with xfers := m.xfers.map fun y => if y.id = x.id then x else y }) s
def dropXfer (x : Xfer) (s : State) : State := setFm (fun m => { m with xfers := m.xfers.filter fun y => y.id != x.id }) s

/-- Index of a transfer in the tables of routes and drops. -/
def xferKey (chip tag : Nat) : Nat := chip * 16384 + tag

/-- SLUICE_DROP: the transfer is dropped whole, its descriptor completes with an error and nothing is signalled (R479, R392). -/
def sluiceDrop (x : Xfer) (addr : Nat) (s : State) : State :=
  let s0 := logEvent 0x0020 5 addr x.mid (bump cSluiceDrop (dropXfer x s))
  let s1 := if received x then s0 else descFails x.field x.mid .dropped s0
  if received x then
    let s2 := logEvent 0x0031 4 addr x.chip (bump (cLink x.link 5) s1)
    if x.whole then s2 else setLinks (fun k => { k with dropping := xferKey x.chip x.tag :: k.dropping }) s2
  else s1

/-- A piece has been written: it leaves its transfer, and the last one of a whole transfer signals. -/
def chunkDone (x : Xfer) (s : State) : State :=
  let y := { x with chunks := x.chunks.drop 1 }
  if y.chunks.isEmpty && y.whole then
    let s1 := dropXfer x s
    match received x, x.head with
    | true, some h => destSignal h x.link s1
    | _, _ => localDone x s1
  else putXfer y s

/-- The data and marks of a piece are written run by run. -/
def storeRuns (f : Nat) : List (Nat × Nat) → List Byte → List (BitVec 8) → State → State
  | [], _, _, s => s
  | (a, n) :: t, bs, ps, s =>
    storeRuns f t (bs.drop n) (ps.drop (n / 8)) (fmStore 64 f (splitAddr a).2 (bs.take n) (ps.take ((n + 7) / 8)) s)

/-- Groups of host memory that a write covers take the poisoned bit of their TLP (R187). -/
def tlpMarks (a : Nat) (ps : List (BitVec 8)) (s : State) : State :=
  setFm (fun m => { m with tlpPoison := (List.range ps.length).foldl (fun t i =>
    if nth ps i 0 = 0 then tabDel t (a / 8 + i) else tabSet t (a / 8 + i) true) m.tlpPoison }) s

/-- Poison bits of a DRAM range: by 8-byte group, or for a firmware transfer by byte. -/
def dramMarks (s : State) (x : Xfer) (a n : Nat) : List (BitVec 8) :=
  if x.fw then (List.range n).map fun i => if linePoison s ((a + i) / 64) then 2 else 0 else dramPoison s a n

/-- Data and poison bits of the first piece, where they are at hand: already read, or in DRAM that answers; a piece that spans rows is read row
by row (R384). -/
def pieceData (s : State) (x : Xfer) (c : Chunk) : Option (List Byte × List (BitVec 8) × State) :=
  match c.data with
  | some d => some (d, c.poison, s)
  | none =>
    if x.srcKind == .dram && dramUp s && dramTurn s (xferRank x) then
      let rs := srcRuns x c
      some (rs.flatMap fun r => dramBytes s r.1 r.2, rs.flatMap fun r => dramMarks s x r.1 r.2, draw (rs.foldl (fun t r => dramScan r.1 r.2 t) s))
    else none

/-- Poison bits by 8-byte piece from those by byte. -/
def joinMarks (n : Nat) (ps : List (BitVec 8)) : List (BitVec 8) :=
  (List.range ((n + 7) / 8)).map fun i => (List.range 8).foldl (fun p j => p ||| nth ps (8 * i + j) 0) (0 : BitVec 8)

/-- The first piece is written to its destination by the engine of field `f`; none when that engine has no part in it or must wait. -/
def writePiece (f : Nat) (x : Xfer) (c : Chunk) (s : State) : Option State :=
  let a := rowAddr x.dst x.dstStride x.rowLen c.off
  match x.dstKind with
  | .fieldMem =>
    if (splitAddr (if x.fw then c.dstAt else a)).1 != f then none
    else match pieceData s x c with
    | none => none
    | some (d, p, s1) =>
      let runs := dstRuns x c
      match runs.find? fun r => !gatePasses s x f (splitAddr r.1).2 r.2 with
      | some r => some (sluiceDrop x r.1 s)
      | none =>
        if runs.all fun r => dmaOwns s f (splitAddr r.1).2 r.2 then
          some (chunkDone x (if x.fw then draw (fwPut f (splitAddr c.dstAt).2 d p s1) else storeRuns f runs d p s1))
        else none
  | .dram =>
    if x.field != f || !dramUp s || !dramTurn s (xferRank x) then none
    else match pieceData s x c with
    | none => none
    | some (d, p, s1) => some (chunkDone x (if x.fw then dramWrite c.dstAt d (joinMarks d.length p) s1 else dramWrite a d p s1))
  | .host =>
    if x.field != f then none
    else match pieceData s x c with
    | none => none
    | some (d, p, s1) => some (chunkDone x (tlpMarks a p (hostWrite a d s1)))
  | .peer =>
    if x.field != f then none
    else match pieceData s x c with
    | none => none
    | some (d, p, s1) =>
      let mask := BitVec.ofNat 8 (listMask ((List.range 8).filter fun i => nth p i 0 != 0))
      some (chunkDone x (queueFlit x.link false
        { cls := x.cls, srcChip := x.chip, tag := x.tag
          body := .data (x.chunks.length == 1) mask d } s1))

/-- The first piece that still has to be read from field memory is read by the engine of its field, once a port owns its bank and the
buffer it goes to has room (R180). -/
def readPiece (f : Nat) (x : Xfer) (s : State) : Option State :=
  if x.srcKind != .fieldMem then none
  else match x.chunks.find? fun c => c.data.isNone with
  | none => none
  | some c =>
    let n := c.len
    let at_ := (splitAddr c.srcAt).2
    if x.fw then
      if (splitAddr c.srcAt).1 = f ∧ dmaOwns s f at_ n then
        let ps := (List.range n).map fun i => fmPoisonAt s f (at_ + i)
        let bs := (List.range n).map fun i => if nth ps i 0 = 0 then fmByte s f (at_ + i) else Config.freeByte s.free i
        let y := { x with chunks := x.chunks.map fun d => if d = c then { d with data := some bs, poison := ps } else d }
        some (draw (putXfer y (fmScan 64 f at_ n s)))
      else none
    else
    let addrs := (List.range ((n + 7) / 8)).map fun i => splitAddr (rowAddr x.src x.srcStride x.rowLen (c.off + 8 * i))
    let room := roomFor s x c
    if (addrs.all fun e => e.1 == f && dmaOwns s f e.2 8) && room then
      let bs := addrs.flatMap fun e => fmBytes s f e.2 8
      let ps := addrs.map fun e => fmPoisonAt s f e.2
      let y := { x with chunks := x.chunks.map fun d =>
        if d.off = c.off then { d with data := some (freePoisoned s.free (c.off) bs ps), poison := ps } else d }
      some (draw (putXfer y ((srcRuns x c).foldl (fun t r => fmScan 64 f (splitAddr r.1).2 r.2 t) s)))
    else none

/-- One access of a transfer by the engine of field `f`. -/
def xferAccess (f : Nat) (s : State) (x : Xfer) : Option State :=
  match x.chunks with
  | [] => none
  | c :: _ =>
    match writePiece f x c s with
    | some t => some t
    | none => readPiece f x s

/-- The first front-end write that waits in the buffer of field `f` and whose bank port 1 now owns, or whose gate drops it (R180, R181,
R190). -/
def portPiece (f : Nat) (s : State) : Option State :=
  match s.fm.portWait.find? fun e => (splitAddr e.1).1 == f &&
      (port1Owns s f (splitAddr e.1).2 || feDropped s f (splitAddr e.1).2) with
  | none => none
  | some (a, w) => some (fmPut f (splitAddr a).2 w.bytes w.poison (setFm (fun m => { m with portWait := tabDel m.portWait a }) s))

/-- Insert into a list of transfers in order of their classes, behind equals. -/
def insertXfer (x : Xfer) : List Xfer → List Xfer
  | [] => [x]
  | y :: t => if xferRank x < xferRank y then x :: y :: t else y :: insertXfer x t

/-- DMA_OWNED_ACCESS: the engine of a field performs its next buffered access, transfers of tick-critical moves first and the others in order of
their classes, and a descriptor that this frees goes to one that waits (R180, R188, R189, R333). -/
def dmaAccess (f : Nat) (s : State) : State :=
  if computeDown s || decide (nFields s.part ≤ f) then s
  else
    let order := s.fm.xfers.foldl (fun a x => insertXfer x a) []
    match portPiece f s with
    | some t => t
    | none => match order.findSome? (xferAccess f s) with
    | some t => releaseAll t
    | none => releaseAll s

def execDmaOwnedAccess (field : Nat) (s : State) : Result := .next (dmaAccess field s)

/-! ## Transfers from the host (R427, R544) -/

/-- A piece of a host read that a completion of `n` bytes from `off` on brings whole. -/
def brings (off n : Nat) (c : Chunk) : Bool := c.data.isNone && decide (off ≤ c.off ∧ c.off + c.len ≤ off + n)

/-- The buffers have room for every piece that a completion brings; otherwise the fabric holds it back (R180). -/
def hostRoom (s : State) (x : Xfer) (off n : Nat) : Bool :=
  x.dstKind != .fieldMem || (x.chunks.filter (brings off n)).all fun c =>
    let f := (rowAddr x.dst x.dstStride x.rowLen c.off) / 2 ^ 23
    decide (buffered s f + ((x.chunks.filter (brings off n)).filter fun d => (rowAddr x.dst x.dstStride x.rowLen d.off) / 2 ^ 23 == f).length ≤ 64)

/-- Data of the pieces of a host read that a completion brings; a poisoned group takes source bit 1 into DRAM and bit 0 otherwise. -/
def hostData (off : Nat) (data : List Byte) (poison : List Bool) (x : Xfer) : Xfer :=
  let bit : BitVec 8 := if x.dstKind == .dram then 2 else 1
  { x with chunks := x.chunks.map fun c =>
    if brings off data.length c then
      { c with
        data := some ((data.drop (c.off - off)).take c.len)
        poison := (List.range ((c.len + 7) / 8)).map fun i => if nth poison ((c.off - off) / 8 + i) false then bit else 0 }
    else c }

/-- HOST_READ_COMPLETION: bytes of a transfer's stream from `off` on; data that the buffers have no room for stays on the fabric, and its row
runs again (R180). -/
def hostReadCompletion (id off : Nat) (data : List Byte) (poison : List Bool) (s : State) : State :=
  if computeDown s then s
  else setFm (fun m => { m with xfers := m.xfers.map fun x =>
    if x.id = id && x.srcKind == .host && hostRoom s x off data.length then hostData off data poison x else x }) s

def execHostReadCompletion (xfer off : Nat) (data : List Byte) (poison : List Bool) (s : State) : Result :=
  .next (hostReadCompletion xfer off data poison s)

end Sys2Proof.Machine
end

