-- ==== Sys2Proof/Machine/Vector.lean ====
section
/-! DEFINITION. The vector engine (chapter 06): operands widened to FP32, element operations and functions, row reductions,
normalisation and softmax, transposition, comparison masks, and the fused optimiser update. -/

namespace Sys2Proof.Machine

/-! ## Operands (R166, R199) -/

/-- An operand in field memory: format, address, element count for its scale vector at the next 32-byte boundary (R199). -/
structure VOp where
  fmt : Fmt
  addr : Nat
  count : Nat
  deriving DecidableEq, Repr

/-- Address of an operand's scale vector. -/
def vScAddr (v : VOp) : Nat := roundUp (v.addr + elemBytes v.fmt v.count) 32

/-- Element e widened to FP32 (R166, R134). -/
def vElem (s : State) (f : Nat) (v : VOp) (e : Nat) : W32 :=
  let sc := if fmtMx v.fmt then (fmByte s f (vScAddr v + e / 32)).toNat else 127
  enc32 (decScaled v.fmt (elemCode s f v.fmt v.addr e) sc)

/-- Poison bits of element e. -/
def vPoison (s : State) (f : Nat) (v : VOp) (e : Nat) : BitVec 8 :=
  elemPoison s f v.fmt v.addr e ||| (if fmtMx v.fmt then fmPoisonAt s f (vScAddr v + e / 32) else 0)

/-- The counting side of reading an operand through the vector port. -/
def vScan (f : Nat) (v : VOp) (s : State) : State :=
  let s1 := fmScan 256 f v.addr (elemBytes v.fmt v.count) s
  if fmtMx v.fmt then fmScan 256 f (vScAddr v) ((v.count + 31) / 32) s1 else s1

/-- The counting side of reading `n` elements of an operand from element `lo` on. -/
def vScanPart (f : Nat) (v : VOp) (lo n : Nat) (s : State) : State :=
  let s1 := fmScan 256 f (v.addr + elemBytes v.fmt lo) (elemBytes v.fmt n) s
  if fmtMx v.fmt then fmScan 256 f (vScAddr v + lo / 32) ((n + 31) / 32) s1 else s1

/-- Word k of the move's scalar block, 64 bytes at `sc_addr` (R167; the order of the scalars is log 29). -/
def vScalar (s : State) (f : Nat) (o : VecOpnd) (k : Nat) : W32 := BitVec.ofNat 32 (leNat (fmBytes s f (o.scAddr + 4 * k) 4))

/-- Poison bits of the scalar block. -/
def vScalarPoison (s : State) (f : Nat) (o : VecOpnd) : BitVec 8 := fmPoisonOf s f o.scAddr 64

/-- Operands a, b, c of a move over `n` vectors of 64 elements. -/
def opA (o : VecOpnd) : VOp := ⟨o.aFmt, o.aAddr, 64 * o.n⟩
def opB (o : VecOpnd) : VOp := ⟨o.bFmt, o.bAddr, 64 * o.n⟩
def opC (o : VecOpnd) : VOp := ⟨o.cFmt, o.cAddr, 64 * o.n⟩

/-- The vector engine of a field runs: the compute die is not in reset and the field is present. -/
def fieldLive (s : State) (f : Nat) : Bool := !computeDown s && decide (f < nFields s.part)

/-- Mask bit of element e (VSEL, VCMP): bit e of the mask. -/
def maskBit (s : State) (f : Nat) (o : VecOpnd) (e : Nat) : Bool := (fmByte s f (o.maskAddr + e / 8)).getLsbD (e % 8)

/-! ## The ranges of a move and where it resumes (R166 to R172, R199) -/

/-- Bytes of a vector operand, with the scale vector of an MX format (R199). -/
def vopRanges (v : VOp) : List (Nat × Nat) :=
  (v.addr, elemBytes v.fmt v.count) :: (if fmtMx v.fmt then [(vScAddr v, (v.count + 31) / 32)] else [])

/-- Vector operations of two operands (Table 06-7). -/
def vecBinary : List Nat := [0x20, 0x21, 0x22, 0x25, 0x26, 0x2A, 0x2B, 0x30]

/-- Vectors per row and rows of a move. -/
def rowVecs (o : VecOpnd) : Nat := (o.len + 63) / 64
def rowCount (o : VecOpnd) : Nat := o.n / rowVecs o

/-- Operands γ and β, `len` elements each: operands b and c (log 29). -/
def opGamma (o : VecOpnd) : VOp := ⟨o.bFmt, o.bAddr, o.len⟩
def opBeta (o : VecOpnd) : VOp := ⟨o.cFmt, o.cAddr, o.len⟩

/-- Operands mv, vv and w of VADAM (R199). -/
def adamOps (o : VecOpnd) : List VOp :=
  [⟨.fp32, o.bAddr, 64 * o.n⟩, ⟨.fp32, o.cAddr, 64 * o.n⟩, ⟨.fp32, o.dAddr, 64 * o.n⟩]

/-- Ranges that a move's operands are read from, its scalar block apart. -/
def vecReads (op : Nat) (o : VecOpnd) : List (Nat × Nat) :=
  if op = 0x2C then vopRanges ⟨o.aFmt, o.aAddr, 256 * o.n⟩
  else (([opA o] ++ (if vecBinary.contains op || op == 0x23 then [opB o] else []) ++ (if op = 0x23 then [opC o] else []) ++
    (if op = 0x48 then [opGamma o, opBeta o] else []) ++ (if op = 0x49 then [opGamma o] else []) ++
    (if op = 0x50 then adamOps o else [])).flatMap vopRanges) ++ (if op = 0x2B then [(o.maskAddr, 8 * o.n)] else [])

/-- Ranges that a move writes its results to, its amax word apart. -/
def vecWrites (op : Nat) (o : VecOpnd) : List (Nat × Nat) :=
  let out (k : Nat) : List (Nat × Nat) := vopRanges ⟨o.outFmt, o.outAddr, k⟩
  if op = 0x2A then [(o.maskAddr, 8 * o.n)]
  else if op = 0x2C then out (256 * o.n)
  else if op = 0x50 then (adamOps o).flatMap vopRanges ++ [(o.maskAddr, 4)] ++ (if o.outEn then out (64 * o.n) else [])
  else if 0x40 ≤ op ∧ op ≤ 0x44 then out (rowCount o)
  else out (64 * o.n)

/-- A move's output range overlaps an input range (R172). -/
def vecInPlace (op : Nat) (o : VecOpnd) : Bool :=
  (vecWrites op o).any fun w => (vecReads op o).any fun r => decide (w.1 < r.1 + r.2 ∧ r.1 < w.1 + w.2)

/-- Vectors of a move's output, the parts in which it makes progress (R172). -/
def vecUnits (op : Nat) (o : VecOpnd) : Nat :=
  if 0x40 ≤ op ∧ op ≤ 0x44 then (rowCount o + 63) / 64
  else if 0x48 ≤ op ∧ op < 0x50 then rowCount o * rowVecs o else if op = 0x2C then 4 * o.n else o.n

/-- One run of a move over vectors `lo` to `hi` − 1 of its output; `fin`: the run completes the move. -/
structure VRun where
  lo : Nat
  hi : Nat
  fin : Bool
  deriving DecidableEq, Repr

/-- Where a move resumes: an in-place one at what its cancelled run left, any other at its start (R172). -/
def resumeOf (s : State) (op : Nat) (o : VecOpnd) (x : MoveCtx) : VecResume :=
  if vecInPlace op o then tabGet {} s.seq.resume x.mid else {}

/-- The run that completes a move. -/
def wholeRun (s : State) (op : Nat) (o : VecOpnd) (x : MoveCtx) : VRun :=
  { lo := min (resumeOf s op o x).next (vecUnits op o), hi := vecUnits op o, fin := true }

/-- An in-place move keeps how far it has come, so that no element is updated twice, until MOVE_COMPLETE (R172). -/
def keepResume (op f : Nat) (o : VecOpnd) (x : MoveCtx) (u : VRun) (r : VecResume) (s : State) : State :=
  if vecInPlace op o && (!u.fin || tabHas s.seq.resume x.mid || (issuedRun s (0x500 + f) x).isSome) then
    setSeq (fun q => { q with resume := tabSet q.resume x.mid { r with next := u.hi } }) s
  else s

/-! ## Writing results (steps 3 to 6 of Table 05-6, R146, R151, R165, R166) -/

/-- One result before step 3: value, poison bits, element number for the dice, and whether an FP32 accumulation overflowed on the way. -/
structure VRes where
  v : W32
  p : BitVec 8
  e : Nat
  ovf : Bool := false
  deriving DecidableEq, Repr

/-- Poison bits of a result, a residue mismatch included (R165). -/
def resPoison (x : MoveCtx) (r : VRes) : BitVec 8 := if x.resid.contains r.e then r.p ||| 1 else r.p

/-- Poison bits of results together. -/
def resPoisons (x : MoveCtx) (rs : List VRes) : BitVec 8 := rs.foldl (fun a r => a ||| resPoison x r) 0

/-- The amax word over results, joined to what an earlier run of the move found (R146, R172). -/
def resAmax (o : VecOpnd) (rs : List VRes) (am : W32) : W32 := rs.foldl (fun a r => amaxJoin a (scaleOut o.outScale r.v).1) am

/-- Scale bytes of an output from scale `off` on: they join those that the move has written before them in their group. -/
def storeScales (f scAddr off : Nat) (cs : List Nat) (ps : List (BitVec 8)) (s : State) : State :=
  let k := off % 8
  let g := scAddr + (off - k)
  storeCodes 256 f .int8 g (((List.range k).map fun i => (fmByte s f (g + i)).toNat) ++ cs)
    (List.replicate k (tabGet 0 s.fm.poison (fmGroup f g)) ++ ps) s

/-- Write results densely at an address, with the scale vector of an MX target after `total` elements: steps 3 to 6, residue mismatches
and exceptions. `base` is the index of the first result in the output. -/
def vWrite (f : Nat) (o : VecOpnd) (x : MoveCtx) (addr base total : Nat) (rs : List VRes) (s : State) : State :=
  let sc := rs.map fun r => scaleOut o.outScale r.v
  let ps := rs.map (resPoison x)
  let dv (r : VRes) : Nat := dice s.seq.seed o.stream (streamAt s (0x500 + f) x) r.e
  let conv := convRow o.outFmt o.mode o.sat ((sc.map Prod.fst).zip (rs.map dv))
  let flags := (List.range rs.length).map fun i =>
    if (nth sc i (0, false)).2 || (nth (rs.map VRes.ovf) i false) then AxFlag.ovf else nth conv.2.2 i .none
  let psP := ps ++ List.replicate (conv.1.length - ps.length) (ps.getLastD 0)
  let s1 := storeCodes 256 f o.outFmt (addr + elemBytes o.outFmt base) conv.1 psP s
  let s2 := if fmtMx o.outFmt then
      let scAddr := roundUp (addr + elemBytes o.outFmt total) 32
      storeScales f scAddr (base / 32) conv.2.1
        ((List.range conv.2.1.length).map fun b => ((ps.drop (32 * b)).take 32).foldl (fun a p => a ||| p) 0) s1
    else s1
  notePoison x (resPoisons x rs) (bumpBy (cVecErr f) (rs.filter fun r => x.resid.contains r.e).length (countAx f flags s2))

/-- A run ends: one that completes its move writes the amax word; an in-place move keeps how far it has come. -/
def vFinish (op f : Nat) (o : VecOpnd) (x : MoveCtx) (u : VRun) (r : VecResume) (s : State) : State :=
  let s1 := if u.fin && o.amaxEn then storeWord 256 f o.amaxAddr r.amax r.poison s else s
  draw (keepResume op f o x u r s1)

/-- An element operation: `g` gives the result of element e, `ops` its operands; a marked group of the scalar block marks every output
(R167, R187). -/
def elemMove (op f : Nat) (o : VecOpnd) (x : MoveCtx) (u : VRun) (ops : List VOp) (useMask : Bool) (g : Nat → W32) (s : State) : State :=
  if !fieldLive s f then s
  else
    let old := resumeOf s op o x
    let sp := vScalarPoison s f o
    let rs := (List.range (64 * (u.hi - u.lo))).map fun k =>
      let e := 64 * u.lo + k
      let p := ops.foldl (fun a v => a ||| vPoison s f v e) sp
      let p := if useMask then p ||| fmPoisonAt s f (o.maskAddr + e / 8) else p
      (⟨g e, p, e, false⟩ : VRes)
    let s1 := fmScan 256 f o.scAddr 64 s
    let s2 := ops.foldl (fun t v => vScanPart f v (64 * u.lo) (64 * (u.hi - u.lo)) t) s1
    let s3 := if useMask then fmScan 256 f (o.maskAddr + 8 * u.lo) (8 * (u.hi - u.lo)) s2 else s2
    vFinish op f o x u { old with amax := resAmax o rs old.amax, poison := old.poison ||| resPoisons x rs }
      (vWrite f o x o.outAddr (64 * u.lo) (64 * o.n) rs s3)

/-- An operation of one operand. -/
def unary (op f : Nat) (o : VecOpnd) (x : MoveCtx) (u : VRun) (g : W32 → Nat → W32) (s : State) : State :=
  elemMove op f o x u [opA o] false (fun e => g (vElem s f (opA o) e) e) s

/-- An operation of two operands. -/
def binary (op f : Nat) (o : VecOpnd) (x : MoveCtx) (u : VRun) (g : W32 → W32 → W32) (s : State) : State :=
  elemMove op f o x u [opA o, opB o] false (fun e => g (vElem s f (opA o) e) (vElem s f (opB o) e)) s

/-- The free value of element e of this move. -/
def vFree (s : State) (e : Nat) : W32 := Config.freeW32 s.free e

/-! ## VCMP and VTRN -/

/-- The comparison of VCMP; false if either is NaN (Table 06-7). -/
def cmpHolds (c : CmpOp) (a b : W32) : Bool :=
  match c, fpCmp (dec32 a) (dec32 b) with
  | _, none => false
  | .lt, some r => r == .lt
  | .le, some r => r != .gt
  | .eq, some r => r == .eq
  | .ne, some r => r != .eq

/-- VCMP writes one mask bit per element at `mask_addr` (log 29); the 64 bits of a vector fill one group. It presents no value to step 5, so with
`amax_en` it writes no amax word, which R146 leaves open (DESIGN CHOICE, log 88). -/
def cmpMove (f : Nat) (o : VecOpnd) (x : MoveCtx) (u : VRun) (s : State) : State :=
  if !fieldLive s f then s
  else
    let groups := (List.range (u.hi - u.lo)).map fun k =>
      let v := u.lo + k
      let bits := (List.range 64).filter fun l =>
        cmpHolds o.cmp (vElem s f (opA o) (64 * v + l)) (vElem s f (opB o) (64 * v + l))
      let p := (List.range 64).foldl (fun a l =>
        a ||| vPoison s f (opA o) (64 * v + l) ||| vPoison s f (opB o) (64 * v + l) |||
          (if x.resid.contains (64 * v + l) then 1 else 0)) (vScalarPoison s f o)
      (leBytes 8 (listMask bits), p)
    let part (v : VOp) (t : State) : State := vScanPart f v (64 * u.lo) (64 * (u.hi - u.lo)) t
    let s1 := part (opB o) (part (opA o) (fmScan 256 f o.scAddr 64 s))
    let ps := groups.map Prod.snd
    let errs := ((List.range (64 * (u.hi - u.lo))).filter fun k => x.resid.contains (64 * u.lo + k)).length
    let s2 := fmStore 256 f (o.maskAddr + 8 * u.lo) (freePoisoned s.free o.maskAddr (groups.flatMap Prod.fst) ps) ps s1
    draw (keepResume 0x2A f o x u {} (notePoison x (ps.foldl (fun a p => a ||| p) 0) (bumpBy (cVecErr f) errs s2)))

/-- VTRN: each of n blocks of 16 × 16 elements of 8, 16 or 32 bits is transposed; like every result its elements pass through steps 3 to 6
(R166). -/
def trnMove (f : Nat) (o : VecOpnd) (x : MoveCtx) (u : VRun) (s : State) : State :=
  if !fieldLive s f || fmtBits o.aFmt == 4 then s
  else
    let old := resumeOf s 0x2C o x
    let a : VOp := ⟨o.aFmt, o.aAddr, 256 * o.n⟩
    let sp := vScalarPoison s f o
    let rs := (List.range (64 * (u.hi - u.lo))).map fun k =>
      let e := 64 * u.lo + k
      let src := e / 256 * 256 + (e % 16) * 16 + e % 256 / 16
      (⟨vElem s f a src, sp ||| vPoison s f a src, e, false⟩ : VRes)
    vFinish 0x2C f o x u { old with amax := resAmax o rs old.amax, poison := old.poison ||| resPoisons x rs }
      (vWrite f o x o.outAddr (64 * u.lo) (256 * o.n) rs
        (vScanPart f a (u.lo / 4 * 256) ((u.hi + 3) / 4 * 256 - u.lo / 4 * 256) (fmScan 256 f o.scAddr 64 s)))

/-! ## Row reductions (R169) -/

/-- Elements of row r as numbered in the move. -/
def rowElems (o : VecOpnd) (r : Nat) : List Nat := (List.range o.len).map fun i => 64 * rowVecs o * r + i

/-- Combine what is there. -/
def joinOpt {α : Type} (g : α → α → α) : Option α → Option α → Option α
  | some a, some b => some (g a b)
  | some a, none => some a
  | none, b => b

/-- One level of the pairwise tree. -/
def treeLevel {α : Type} (g : α → α → α) : List (Option α) → List (Option α)
  | a :: b :: t => joinOpt g a b :: treeLevel g t
  | t => t

/-- A row reduction in its fixed order: lanes ascending, then six levels of pairs (R169). -/
def reduceRow {α : Type} (g : α → α → α) (xs : List α) : Option α :=
  let lane (l : Nat) : Option α :=
    ((List.range ((xs.length + 63 - l) / 64)).filterMap fun k => xs[l + 64 * k]?).foldl (fun a v => joinOpt g a (some v)) none
  let l0 := (List.range 64).map lane
  ((treeLevel g (treeLevel g (treeLevel g (treeLevel g (treeLevel g (treeLevel g l0)))))).head?).bind id

/-- One addition of a reduction, with whether one so far gave an infinity from finite numbers (R151). -/
def addOvf (a b : W32 × Bool) : W32 × Bool :=
  let r := f32add a.1 b.1
  (r, a.2 || b.2 || (f32isInf r && f32finite a.1 && f32finite b.1))

/-- A sum in the order of R169, each addition rounded, and whether it overflowed. -/
def sumOvf (xs : List W32) : W32 × Bool := (reduceRow addOvf (xs.map fun v => (v, false))).getD (0, false)

/-- Squares, each rounded, and whether one overflowed. -/
def squares (xs : List W32) : List (W32 × Bool) := xs.map fun v => let q := f32mul v v; (q, f32isInf q && f32finite v)

/-- Σx²: each square rounds, then each addition (log 29). -/
def ssqOvf (xs : List W32) : W32 × Bool := (reduceRow addOvf (squares xs)).getD (0, false)

/-- Poison bits of row r of operand a. -/
def rowPoison (s : State) (f : Nat) (o : VecOpnd) (r : Nat) : BitVec 8 :=
  (rowElems o r).foldl (fun a e => a ||| vPoison s f (opA o) e) 0

/-- A row operation of one value per row, written densely, row r as element r, 64 rows to a vector of the output. -/
def rowMove (op f : Nat) (o : VecOpnd) (x : MoveCtx) (u : VRun) (g : List W32 → W32 × Bool) (s : State) : State :=
  if !fieldLive s f then s
  else
    let old := resumeOf s op o x
    let rs := (List.range (min (64 * u.hi) (rowCount o) - 64 * u.lo)).map fun k =>
      let r := 64 * u.lo + k
      let y := g ((rowElems o r).map fun e => vElem s f (opA o) e)
      (⟨y.1, rowPoison s f o r ||| vScalarPoison s f o, r, y.2⟩ : VRes)
    vFinish op f o x u { old with amax := resAmax o rs old.amax, poison := old.poison ||| resPoisons x rs }
      (vWrite f o x o.outAddr (64 * u.lo) (rowCount o) rs
        (vScanPart f (opA o) (64 * rowVecs o * (64 * u.lo)) (64 * rowVecs o * rs.length) (fmScan 256 f o.scAddr 64 s)))

def sumRow (xs : List W32) : W32 := (sumOvf xs).1
def maxRow (xs : List W32) : W32 := (reduceRow f32max xs).getD 0
def minRow (xs : List W32) : W32 := (reduceRow f32min xs).getD 0
def ssqRow (xs : List W32) : W32 := (ssqOvf xs).1

/-- Lowest index of the maximum, or of a NaN, as FP32 (R169). -/
def argmaxRow (xs : List W32) : W32 :=
  match xs.findIdx? f32isNan with
  | some i => f32ofInt i
  | none =>
    let m := maxRow xs
    f32ofInt ((xs.findIdx? fun v => f32le m v && f32le v m).getD 0)

/-! ## Normalisation and softmax (R170) -/

/-- A normalised value before γ and β: any FP32 within 2^−20 × max(1, |value|) of the exact one (R170). -/
def normWithin (v : Fp) (free : W32) : W32 :=
  match v with
  | .fin n m e => within32 (.fin n m e) (fpScale (-20) (fpMaxB fpOne (fpAbs (.fin n m e)))) free
  | w => enc32 w

/-- A sum divided by the row's length, correctly rounded (log 29). -/
def rowMean (sum : W32) (n : Nat) : W32 := f32div sum (f32ofInt n)

/-- An exact sum of numbers. -/
def sumFp (xs : List Fp) : Fp := xs.foldl fpAdd (.fin false 0 0)

/-- Exact values of a row divided by the root of their mean square and ε. -/
def rootMeanRow (ds : List Fp) (eps : W32) : List Fp :=
  let den := fpSqrt (fpAdd (fpDiv (sumFp (ds.map fun d => fpMul d d)) (fpOfInt ds.length 0)) (dec32 eps))
  ds.map fun d => fpDiv d den

/-- VLNORM of one row: values before γ and β, each within its bound of the exact one, and whether a sum in the order of R169 overflowed. Where it
did, or the row holds no finite number, the values are those that the sums give. -/
def lnormRow (xs : List W32) (eps : W32) (free : Nat → W32) : List W32 × Bool :=
  let sum := sumOvf xs
  let mu := rowMean sum.1 xs.length
  let ds := xs.map fun v => f32sub v mu
  let sq := ssqOvf ds
  let den := fpSqrt (fpAdd (dec32 (rowMean sq.1 xs.length)) (dec32 eps))
  let plain := !sum.2 && !sq.2 && xs.all f32finite
  let vs := xs.map dec32
  let exact := rootMeanRow (vs.map fun v => fpSub v (fpDiv (sumFp vs) (fpOfInt xs.length 0))) eps
  ((List.range xs.length).map fun i => normWithin (if plain then nth exact i .nan else fpDiv (dec32 (nth ds i 0)) den) (free i), sum.2 || sq.2)

/-- VRMSN of one row: values before γ, and whether the sum overflowed (see VLNORM). -/
def rmsnRow (xs : List W32) (eps : W32) (free : Nat → W32) : List W32 × Bool :=
  let sq := ssqOvf xs
  let den := fpSqrt (fpAdd (dec32 (rowMean sq.1 xs.length)) (dec32 eps))
  let plain := !sq.2 && xs.all f32finite
  let exact := rootMeanRow (xs.map dec32) eps
  ((List.range xs.length).map fun i => normWithin (if plain then nth exact i .nan else fpDiv (dec32 (nth xs i 0)) den) (free i), sq.2)

/-- e^v as a number for v ≤ 0; 0 far below the FP32 range. -/
def expNeg (v : Fp) : Fp :=
  match v with
  | .inf true => .fin false 0 0
  | .fin n m e => if fpLt (.fin n m e) (.fin true 180 0) then .fin false 0 0 else fpExp (.fin n m e)
  | _ => .nan

/-- VSMAX of one row: each element within 5 ulp of the exact quotient, and whether z in the order of R169 overflowed (R170). -/
def smaxRow (xs : List W32) (free : Nat → W32) : List W32 × Bool :=
  let mx := maxRow xs
  let es := xs.map fun v => enc32 (expNeg (dec32 (f32sub v mx)))
  let z := sumOvf es
  let plain := !z.2 && xs.all f32finite
  let ex := xs.map fun v => expNeg (fpSub (dec32 v) (dec32 mx))
  let sum := sumFp ex
  ((List.range xs.length).map fun i =>
    match (if plain then fpDiv (nth ex i .nan) sum else fpDiv (dec32 (nth es i 0)) (dec32 z.1)) with
    | .fin n m e => within32 (if m = 0 then fpTiny false else .fin n m e) (ulpBound 5 (.fin n m e)) (free i)
    | w => enc32 w, z.2)

/-- A row operation that writes every element: it reads each row `passes` times, and `vecs`, γ and β, once for each row; `g` gives the values of
a row, `post` what γ and β make of value i (R170). A run writes the vectors that it names. -/
def normMove (op f : Nat) (o : VecOpnd) (x : MoveCtx) (u : VRun) (passes : Nat) (vecs : List VOp) (g : Nat → List W32 → List W32 × Bool)
    (post : Nat → W32 → W32) (s : State) : State :=
  if !fieldLive s f then s
  else
    let old := resumeOf s op o x
    let w := max 1 (rowVecs o)
    let touched := (List.range ((u.hi + w - 1) / w - u.lo / w)).map (u.lo / w + ·)
    let s1 := touched.foldl (fun t r =>
      let t1 := (List.range passes).foldl (fun t2 _ => vScanPart f (opA o) (64 * w * r) (64 * w) t2) t
      vecs.foldl (fun t2 v => vScan f v t2) t1) (fmScan 256 f o.scAddr 64 s)
    let vp := vecs.foldl (fun a v => (List.range o.len).foldl (fun b i => b ||| vPoison s f v i) a) (vScalarPoison s f o)
    let rows := touched.map fun r =>
      let xs := (rowElems o r).map fun e => vElem s f (opA o) e
      let p := rowPoison s f o r ||| vp
      let ys := g r xs
      let es := (List.range o.len).filter fun i => decide (u.lo ≤ w * r + i / 64 ∧ w * r + i / 64 < u.hi)
      (64 * w * r + nth es 0 0, es.map fun i => (⟨post i (nth ys.1 i 0), p, 64 * w * r + i, ys.2⟩ : VRes))
    let s2 := rows.foldl (fun t row => vWrite f o x o.outAddr row.1 (64 * o.n) row.2 t) s1
    let all := rows.flatMap Prod.snd
    vFinish op f o x u { old with amax := resAmax o all old.amax, poison := old.poison ||| resPoisons x all } s2

/-! ## VADAM (R171, R172, R187) -/

/-- The scalars of VADAM in the order in which R171 names them: g_scale, β1, β2, ε, lr, λ, c1, c2, q_scale. -/
structure AdamSc where
  gScale : W32
  b1 : W32
  b2 : W32
  eps : W32
  lr : W32
  lam : W32
  c1 : W32
  c2 : W32
  qScale : W32
  deriving DecidableEq, Repr

/-- One element of the update: mv, vv, w and whether `gs` was finite. -/
def adamElem (k : AdamSc) (g mv vv w free : W32) : W32 × W32 × W32 × Bool :=
  let gs := f32mul g k.gScale
  if f32finite gs then
    let m1 := f32add (f32mul k.b1 mv) (f32mul (f32sub one32 k.b1) gs)
    let v1 := f32add (f32mul k.b2 vv) (f32mul (f32mul (f32sub one32 k.b2) gs) gs)
    let q := divK 1 (dec32 (f32mul m1 k.c1)) (dec32 (f32add (f32sqrt (f32mul v1 k.c2)) k.eps)) free
    (m1, v1, f32sub w (f32mul k.lr (f32add q (f32mul k.lam w))), true)
  else (mv, vv, w, false)

/-- VADAM over a run's vectors. An element with a poisoned operand is left as stored and counted (Table 07-3); a poisoned scalar block
poisons every output. -/
def adamMove (f : Nat) (o : VecOpnd) (x : MoveCtx) (u : VRun) (s : State) : State :=
  if !fieldLive s f then s
  else
    let old := resumeOf s 0x50 o x
    let sc (i : Nat) : W32 := vScalar s f o i
    let k : AdamSc := ⟨sc 0, sc 1, sc 2, sc 3, sc 4, sc 5, sc 6, sc 7, sc 8⟩
    let sp := vScalarPoison s f o
    let cnt := 64 * o.n
    let g : VOp := opA o
    let mv : VOp := ⟨.fp32, o.bAddr, cnt⟩
    let vv : VOp := ⟨.fp32, o.cAddr, cnt⟩
    let w : VOp := ⟨.fp32, o.dAddr, cnt⟩
    let es := (List.range (64 * (u.hi - u.lo))).map fun i => 64 * u.lo + i
    let bad (e : Nat) : Bool := (vPoison s f g e ||| vPoison s f mv e ||| vPoison s f vv e ||| vPoison s f w e) != 0
    let res := es.map fun e =>
      if bad e then (e, vElem s f mv e, vElem s f vv e, vElem s f w e, false)
      else (e, adamElem k (vElem s f g e) (vElem s f mv e) (vElem s f vv e) (vElem s f w e) (vFree s e))
    let left := old.left + (res.filter fun r => !r.2.2.2.2).length
    let hit (e : Nat) : BitVec 8 := if x.resid.contains e then 1 else 0
    let s1 := [g, mv, vv, w].foldl (fun t v => vScanPart f v (64 * u.lo) (64 * (u.hi - u.lo)) t) (fmScan 256 f o.scAddr 64 s)
    -- a group whose two elements are both left as stored is not written
    let put (base : Nat) (pick : W32 × W32 × W32 × Bool → W32) (t : State) : State :=
      (List.range (res.length / 2)).foldl (fun t1 i =>
        let e := 64 * u.lo + 2 * i
        if sp = 0 && bad e && bad (e + 1) then t1
        else
          let r0 := nth res (2 * i) (0, 0, 0, 0, false)
          let r1 := nth res (2 * i + 1) (0, 0, 0, 0, false)
          let p := sp ||| hit e ||| hit (e + 1)
          let bs := leBytes 4 (pick r0.2).toNat ++ leBytes 4 (pick r1.2).toNat
          fmStore 256 f (base + 4 * e) (freePoisoned s.free e bs [p]) [p] t1) t
    let s2 := put o.dAddr (fun r => r.2.2.1) (put o.cAddr (fun r => r.2.1) (put o.bAddr (fun r => r.1) s1))
    let qs : List VRes := res.map fun r =>
      ⟨if (vPoison s f w r.1) = 0 then f32mul r.2.2.2.1 k.qScale else vFree s (r.1 + 1), sp ||| hit r.1, r.1, false⟩
    let o1 := { o with outScale := one32 }
    let s3 := if o.outEn then vWrite f o1 { x with resid := [] } o.outAddr (64 * u.lo) cnt qs s2 else s2
    let s4 := if u.fin then storeWord 256 f o.maskAddr (BitVec.ofNat 32 left) sp s3 else s3
    vFinish 0x50 f o x u { old with amax := resAmax o1 qs old.amax, poison := old.poison ||| sp, left := left }
      (notePoison x sp (bumpBy (cVecErr f) (es.filter fun e => x.resid.contains e).length s4))

/-! ## The moves (Tables 06-7 and 06-8) -/

/-- One run of a move by its opcode. VSCALE is a × s + t with one rounding; the scalars s, t of VSCALE and VCLAMP are scalars 0 and 1, ε of
VLNORM and VRMSN is scalar 0 (log 29). -/
def vecRun (op f : Nat) (o : VecOpnd) (x : MoveCtx) (u : VRun) (s : State) : State :=
  let a (e : Nat) : W32 := vElem s f (opA o) e
  let b (e : Nat) : W32 := vElem s f (opB o) e
  let fn (g : Fp → W32 → W32) : State := unary op f o x u (fun v e => g (dec32 v) (vFree s e)) s
  match op with
  | 0x20 => binary op f o x u f32add s
  | 0x21 => binary op f o x u f32sub s
  | 0x22 => binary op f o x u f32mul s
  | 0x23 => elemMove op f o x u [opA o, opB o, opC o] false (fun e => f32fma (a e) (b e) (vElem s f (opC o) e)) s
  | 0x24 => elemMove op f o x u [opA o] false (fun e => f32fma (a e) (vScalar s f o 0) (vScalar s f o 1)) s
  | 0x25 => binary op f o x u f32max s
  | 0x26 => binary op f o x u f32min s
  | 0x27 => unary op f o x u (fun v _ => f32abs v) s
  | 0x28 => elemMove op f o x u [opA o] false (fun e => f32min (f32max (a e) (vScalar s f o 0)) (vScalar s f o 1)) s
  | 0x29 => unary op f o x u (fun v _ => v) s
  | 0x2A => cmpMove f o x u s
  | 0x2B => elemMove op f o x u [opA o, opB o] true (fun e => if maskBit s f o e then a e else b e) s
  | 0x2C => trnMove f o x u s
  | 0x30 => elemMove op f o x u [opA o, opB o] false (fun e => divK 1 (dec32 (a e)) (dec32 (b e)) (vFree s e)) s
  | 0x31 => unary op f o x u (fun v _ => f32sqrt v) s
  | 0x32 => fn (divK 1 fpOne)
  | 0x33 => fn rsqrtK
  | 0x34 => fn expK
  | 0x35 => fn logK
  | 0x36 => fn tanhK
  | 0x37 => fn sigmK
  | 0x38 => fn geluK
  | 0x39 => fn siluK
  | 0x3A => fn sinK
  | 0x3B => fn cosK
  | 0x40 => rowMove op f o x u sumOvf s
  | 0x41 => rowMove op f o x u (fun xs => (maxRow xs, false)) s
  | 0x42 => rowMove op f o x u (fun xs => (minRow xs, false)) s
  | 0x43 => rowMove op f o x u ssqOvf s
  | 0x44 => rowMove op f o x u (fun xs => (argmaxRow xs, false)) s
  | 0x48 => normMove op f o x u 3 [opGamma o, opBeta o]
      (fun r xs => lnormRow xs (vScalar s f o 0) fun i => vFree s (64 * rowVecs o * r + i))
      (fun i v => f32add (f32mul v (vElem s f (opGamma o) i)) (vElem s f (opBeta o) i)) s
  | 0x49 => normMove op f o x u 2 [opGamma o]
      (fun r xs => rmsnRow xs (vScalar s f o 0) fun i => vFree s (64 * rowVecs o * r + i))
      (fun i v => f32mul v (vElem s f (opGamma o) i)) s
  | 0x4A => normMove op f o x u 3 [] (fun r xs => smaxRow xs fun i => vFree s (64 * rowVecs o * r + i)) (fun _ v => v) s
  | 0x50 => adamMove f o x u s
  | _ => s

/-- A move as one command: from where it resumes to its end (R172). -/
def vecWhole (op f : Nat) (o : VecOpnd) (x : MoveCtx) (s : State) : State := vecRun op f o x (wholeRun s op o x) s

def execVadd (field : Nat) (o : VecOpnd) (x : MoveCtx) (s : State) : Result := .next (vecWhole 0x20 field o x s)
def execVsub (field : Nat) (o : VecOpnd) (x : MoveCtx) (s : State) : Result := .next (vecWhole 0x21 field o x s)
def execVmul (field : Nat) (o : VecOpnd) (x : MoveCtx) (s : State) : Result := .next (vecWhole 0x22 field o x s)
def execVfma (field : Nat) (o : VecOpnd) (x : MoveCtx) (s : State) : Result := .next (vecWhole 0x23 field o x s)
def execVscale (field : Nat) (o : VecOpnd) (x : MoveCtx) (s : State) : Result := .next (vecWhole 0x24 field o x s)
def execVmax (field : Nat) (o : VecOpnd) (x : MoveCtx) (s : State) : Result := .next (vecWhole 0x25 field o x s)
def execVmin (field : Nat) (o : VecOpnd) (x : MoveCtx) (s : State) : Result := .next (vecWhole 0x26 field o x s)
def execVabs (field : Nat) (o : VecOpnd) (x : MoveCtx) (s : State) : Result := .next (vecWhole 0x27 field o x s)
def execVclamp (field : Nat) (o : VecOpnd) (x : MoveCtx) (s : State) : Result := .next (vecWhole 0x28 field o x s)
def execVcvt (field : Nat) (o : VecOpnd) (x : MoveCtx) (s : State) : Result := .next (vecWhole 0x29 field o x s)
def execVcmp (field : Nat) (o : VecOpnd) (x : MoveCtx) (s : State) : Result := .next (vecWhole 0x2A field o x s)
def execVsel (field : Nat) (o : VecOpnd) (x : MoveCtx) (s : State) : Result := .next (vecWhole 0x2B field o x s)
def execVtrn (field : Nat) (o : VecOpnd) (x : MoveCtx) (s : State) : Result := .next (vecWhole 0x2C field o x s)
def execVdiv (field : Nat) (o : VecOpnd) (x : MoveCtx) (s : State) : Result := .next (vecWhole 0x30 field o x s)
def execVsqrt (field : Nat) (o : VecOpnd) (x : MoveCtx) (s : State) : Result := .next (vecWhole 0x31 field o x s)
def execVrcp (field : Nat) (o : VecOpnd) (x : MoveCtx) (s : State) : Result := .next (vecWhole 0x32 field o x s)
def execVrsqrt (field : Nat) (o : VecOpnd) (x : MoveCtx) (s : State) : Result := .next (vecWhole 0x33 field o x s)
def execVexp (field : Nat) (o : VecOpnd) (x : MoveCtx) (s : State) : Result := .next (vecWhole 0x34 field o x s)
def execVlog (field : Nat) (o : VecOpnd) (x : MoveCtx) (s : State) : Result := .next (vecWhole 0x35 field o x s)
def execVtanh (field : Nat) (o : VecOpnd) (x : MoveCtx) (s : State) : Result := .next (vecWhole 0x36 field o x s)
def execVsigm (field : Nat) (o : VecOpnd) (x : MoveCtx) (s : State) : Result := .next (vecWhole 0x37 field o x s)
def execVgelu (field : Nat) (o : VecOpnd) (x : MoveCtx) (s : State) : Result := .next (vecWhole 0x38 field o x s)
def execVsilu (field : Nat) (o : VecOpnd) (x : MoveCtx) (s : State) : Result := .next (vecWhole 0x39 field o x s)
def execVsin (field : Nat) (o : VecOpnd) (x : MoveCtx) (s : State) : Result := .next (vecWhole 0x3A field o x s)
def execVcos (field : Nat) (o : VecOpnd) (x : MoveCtx) (s : State) : Result := .next (vecWhole 0x3B field o x s)
def execVrsum (field : Nat) (o : VecOpnd) (x : MoveCtx) (s : State) : Result := .next (vecWhole 0x40 field o x s)
def execVrmax (field : Nat) (o : VecOpnd) (x : MoveCtx) (s : State) : Result := .next (vecWhole 0x41 field o x s)
def execVrmin (field : Nat) (o : VecOpnd) (x : MoveCtx) (s : State) : Result := .next (vecWhole 0x42 field o x s)
def execVrssq (field : Nat) (o : VecOpnd) (x : MoveCtx) (s : State) : Result := .next (vecWhole 0x43 field o x s)
def execVargmax (field : Nat) (o : VecOpnd) (x : MoveCtx) (s : State) : Result := .next (vecWhole 0x44 field o x s)
def execVlnorm (field : Nat) (o : VecOpnd) (x : MoveCtx) (s : State) : Result := .next (vecWhole 0x48 field o x s)
def execVrmsn (field : Nat) (o : VecOpnd) (x : MoveCtx) (s : State) : Result := .next (vecWhole 0x49 field o x s)
def execVsmax (field : Nat) (o : VecOpnd) (x : MoveCtx) (s : State) : Result := .next (vecWhole 0x4A field o x s)
def execVadam (field : Nat) (o : VecOpnd) (x : MoveCtx) (s : State) : Result := .next (vecWhole 0x50 field o x s)

end Sys2Proof.Machine
end

