-- ==== Sys2Proof/Machine/SetEngine.lean ====
section
/-! DEFINITION. The set engine (chapter 10): gathers and scatters, segments and prefix sums, sorted sets, hash tables, grids and
neighbours, trees, with their budgets, continuation tokens and DRAM transactions. -/

namespace Sys2Proof.Machine

/-! ## A run -/

/-- A set move at work: the machine, the ac of the move's window and the planned start of that window in the tick (none for a move that no list
issued), the positions of Table 10-5, the base and row count of T (R268), recent targets with the ac at which their writes end (R258), the
elements and transactions of this move, and for the element at work the cycles up to its last write and a number for its free values. -/
structure SetRun where
  s : State
  t : Nat := 0
  start : Option Nat := none
  posA : Nat := 0
  posB : Nat := 0
  outN : Nat := 0
  aux : Nat := 0
  tx : Nat := 0
  txMove : Nat := 0
  ac : Nat := 0
  done : Nat := 0
  base : Nat := 0
  rows : Nat := 0
  recent : List (Nat × Nat) := []
  span : Nat := 1
  seed : Nat := 0
  deriving DecidableEq, Repr

/-- What comes next: the work has run out, an element that takes at least `c` cycles ends it with an error, or an element with its cycles and
what it does. -/
inductive SetNext where
  | finish
  | error (c e : Nat) (r : SetRun)
  | elem (c : Nat) (r : SetRun)
  deriving DecidableEq, Repr

/-- "None" of Table 10-1. -/
def none32 : Nat := 2 ^ 32 - 1

/-! ## Ports and accesses (R48, R255, R281, FM-A and FM-B of Table 07-5) -/

/-- Owner codes of the set ports by role (R255): stream A; stream B and table rows, the grid block among them; outputs; and slots with counts,
scratch and token. Rows that a move both reads and writes (T of SCATTER_ADD and SEG_REDUCE, out of TWALK mode 2) stand behind port 3, the
one that does both: a bank has one owner while the move works. The grid block and these rows are DEDUCED (log 33). -/
def portA : List Nat := [0x11]
def portT : List Nat := [0x12]
def portOut : List Nat := [0x13]
def portSlot : List Nat := [0x14]

/-- Ac of the access to a group in the move's window: one of the cycles of its element up to its last write. The spec does not say which
(DESIGN CHOICE: free, log 77). -/
def accessAc (r : SetRun) (g : Nat) : Nat := r.t + Config.freeNat r.seed g % max 1 r.span

/-- Owner of a bank at an ac of a run: that of the slot open there, with the banks that late moves keep while it is the current one (R23,
R178). -/
def ownerIn (r : SetRun) (f b at_ : Nat) : Nat :=
  let now := tabGet 0x1F r.s.seq.owner (32 * f + b)
  match r.start, runSched r.s with
  | some p, some k =>
    let n := ((List.range k.slots.length).filter fun i => decide ((nth k.slots i {}).start ≤ p + at_)).foldl max 0
    if n = r.s.seq.slot then now else slotOwner (nth k.slots n {}) f b
  | _, _ => now

/-- Groups of a range of the field; addresses have 23 bits (R48, R174). -/
def setGroups (a n : Nat) : List Nat := (groupsOf (a % 2 ^ 23) n).map (· % 2 ^ 20)

/-- An access names an offset that does not exist in its bank (FM-B); a range that runs past the top of the field does. -/
def setBeyond (s : State) (a n : Nat) : Bool := (setGroups a n).any fun g => decide (bankSize s.part ≤ bankOff (8 * g))

/-- A data-decided access that the running list does not cover: a bank that no port of its role owns in that cycle (FM-A), or an offset at
or above the bank size (FM-B). -/
def setMisuse (ps : List Nat) (r : SetRun) (f a n : Nat) : Bool :=
  setBeyond r.s a n || ((runSched r.s).isSome && (setGroups a n).any fun g => !ps.contains (ownerIn r f (bankOf (8 * g)) (accessAc r g)))

/-- What misuse may leave in field memory (R193, FM-A and FM-B): any of the groups that it names, and for each of them the groups of one
access of up to 256 bytes by the owner of its bank in that cycle, in FM-B of any bank of the field, take any bytes or keep theirs. -/
def setSpoil (f a n : Nat) (r : SetRun) : SetRun :=
  let s := r.s
  let k := s.free
  let other (g : Nat) : List Nat :=
    let bank := if setBeyond s a n then Config.freeNat k (g + 1) % 32 else bankOf (8 * g)
    (List.range 32).map fun i => bank * 2 ^ 18 + (Config.freeNat k g + i) % 2 ^ 15 * 8
  let hit := (setGroups a n).flatMap fun g => 8 * g :: other g
  { r with s := draw (hit.foldl (fun t g =>
      if Config.freeBool k g then fmPutGroup f g ((List.range 8).map fun i => Config.freeByte k (g + i)) 0 t else t) s) }

/-- Bytes and poison bits of a read through a port of a role; a misused access returns any value, with no mark (R193). Addresses have 23
bits (R48, R174). -/
def setRead (ps : List Nat) (r : SetRun) (f a0 n : Nat) : List Byte × BitVec 8 :=
  let s := r.s
  let a := a0 % 2 ^ 23
  let free := (List.range n).map fun i => Config.freeByte s.free (a + i)
  if setMisuse ps r f a n then (free, 0)
  else
    let p := fmPoisonOf s f a n
    (if p = 0 then fmBytes s f a n else free, p)

/-- A word read, as a number. -/
def setWord (ps : List Nat) (r : SetRun) (f a n : Nat) : Nat × BitVec 8 := let x := setRead ps r f a n; (leNat x.1, x.2)

/-- What a read leaves: its counts (R184, R192), or what its misuse spoils. -/
def setScan (ps : List Nat) (f a0 n : Nat) (r : SetRun) : SetRun :=
  let a := a0 % 2 ^ 23
  if setMisuse ps r f a n then setSpoil f a n r else { r with s := draw (fmScan 8 f a n r.s) }

/-- Bytes are written as whole groups: one that begins a group writes zeros behind it, one inside a group keeps the rest of it (R176). -/
def setWrite (ps : List Nat) (f a0 : Nat) (bs : List Byte) (p : BitVec 8) (r : SetRun) : SetRun :=
  let s := r.s
  let a := a0 % 2 ^ 23
  if setMisuse ps r f a bs.length then setSpoil f a bs.length r
  else
    let pre := fmBytes s f (a / 8 * 8) (a % 8)
    let p0 := if a % 8 = 0 then p else p ||| fmPoisonAt s f a
    let data := pre ++ bs
    let n := (data.length + 7) / 8
    let bytes := if p0 = 0 then data else (List.range data.length).map fun i => Config.freeByte s.free (a + i)
    { r with s := draw (fmStore 8 f (a / 8 * 8) bytes (List.replicate n p0) s) }

/-- A word in the middle of its table is replaced and the rest of its group kept; a mark on the group stays (R281). -/
def setPatch (ps : List Nat) (f a0 : Nat) (bs : List Byte) (p : BitVec 8) (r : SetRun) : SetRun :=
  let s := r.s
  let a := a0 % 2 ^ 23
  let g := a / 8 * 8
  let old := fmPoisonAt s f a
  let post := fmBytes s f (a + bs.length) (g + roundUp (a % 8 + bs.length) 8 - (a + bs.length))
  setWrite ps f a (bs ++ post) (p ||| old) r

/-- A U32 output. -/
def setOut32 (f a v : Nat) (p : BitVec 8) (r : SetRun) : SetRun := setWrite portOut f a (leBytes 4 v) p r

/-- A saturating INT32 or FP32 addition (R256), and whether it saturated. -/
def setAdd (vint : Bool) (a b : Nat) : Nat × Bool :=
  if vint then
    let x := signedN 32 a + signedN 32 b
    let y := max (-(2 ^ 31 : Int)) (min (2 ^ 31 - 1) x)
    (wrapN 32 y, x != y)
  else ((f32add (BitVec.ofNat 32 a) (BitVec.ofNat 32 b)).toNat, false)

/-- A component-wise combination of two rows of 32-bit values: `sub` 0 adds, 1 takes the maximum, 2 the minimum (R256, R260). -/
def setCombine (vint : Bool) (sub : Nat) (a b : List Byte) : List Byte × Nat :=
  let n := b.length / 4
  let word (x : List Byte) (i : Nat) : Nat := leNat ((x.drop (4 * i)).take 4)
  let one (i : Nat) : Nat × Bool :=
    let x := word a i
    let y := word b i
    match sub with
    | 0 => setAdd vint x y
    | 1 => if vint then (if signedN 32 x < signedN 32 y then y else x, false) else ((f32max (BitVec.ofNat 32 x) (BitVec.ofNat 32 y)).toNat, false)
    | _ => if vint then (if signedN 32 y < signedN 32 x then y else x, false) else ((f32min (BitVec.ofNat 32 x) (BitVec.ofNat 32 y)).toNat, false)
  let rs := (List.range n).map one
  (rs.flatMap fun r => leBytes 4 r.1, (rs.filter fun r => r.2).length)

/-- Saturations count in `set_sat` (R256). -/
def noteSat (f n : Nat) (r : SetRun) : SetRun := { r with s := bumpBy (cSetSat f) n r.s }

/-- An index out of bounds counts (R280). -/
def noteOob (f : Nat) (r : SetRun) : SetRun := { r with s := bump (cSetOob f) r.s }

/-- Next element of A, one output. -/
def stepA (n : Nat) (r : SetRun) : SetRun := { r with posA := r.posA + 1, outN := r.outN + n }

/-- Next element of an operation that takes B with A, element by element. -/
def stepAB (n : Nat) (r : SetRun) : SetRun := { stepA n r with posB := r.posB + 1 }

/-- Cycles of a row. -/
def rowCyc (o : SetOpnd) : Nat := max 1 (o.row / 8)

/-- A row written whole; a poisoned one marks each of its groups. -/
def setRow (ps : List Nat) (f a : Nat) (bs : List Byte) (p : BitVec 8) (r : SetRun) : SetRun := setWrite ps f a bs p r

/-! ## Gathers and scatters (R259, R277, R280, R281) -/

/-- Index j of stream A. -/
def idxA (f : Nat) (o : SetOpnd) (r : SetRun) : Nat × BitVec 8 := setWord portA r f (o.aAddr + 4 * r.posA) 4

def nextGather (f : Nat) (o : SetOpnd) (r : SetRun) : SetNext :=
  if o.nA ≤ r.posA then .finish
  else
    let (i, p) := idxA f o r
    let r1 := setScan portA f (o.aAddr + 4 * r.posA) 4 r
    let out := o.outAddr + o.row * r.posA
    if p ≠ 0 then .error (rowCyc o) 5 r1
    else if i = none32 then .elem (rowCyc o) (stepA 1 (setRow portOut f out (zeros o.row) 0 r1))
    else if r.rows ≤ i then .elem (rowCyc o) (stepA 1 (noteOob f (setRow portOut f out (zeros o.row) 1 r1)))
    else
      let a := r.base + o.row * i
      let (bs, q) := setRead portT r f a o.row
      .elem (rowCyc o) (stepA 1 (setRow portOut f out bs q (setScan portT f a o.row r1)))

/-- One row's transactions go to the DMA engine, which starts them while the GATHER_D holds a descriptor (R188, R277). -/
def gatherRow (f : Nat) (o : SetOpnd) (x : MoveCtx) (src dst : Nat) (s : State) : State :=
  descEnqueue
    { field := f, x := x, epoch := (syncOf s o.sigObj).epoch, tick := s.tick.no, gather := true, run := (tabGet {} s.seq.jobs o.job).run
      o := { src := src, dst := chipAddr f dst, len := o.row, rows := 1, srcStride := 0, dstStride := 0, srcKind := .dram
             dstKind := .fieldMem, bestEffort := false, peer := 0, sigObj := o.sigObj, sigN := o.sigN } } s

/-- A zero or poison row of a GATHER_D goes the way of its rows, through the DMA engine and a DMA port of the field (R180, R277). -/
def gatherFill (f : Nat) (o : SetOpnd) (x : MoveCtx) (dst : Nat) (mark : BitVec 8) (r : SetRun) : SetRun :=
  let cs := (piecesOf dst o.row).map fun q =>
    ({ off := 0, len := q.2, data := some (zeros q.2), poison := List.replicate q.2 mark, dstAt := chipAddr f (dst + q.1) } : Chunk)
  { r with s := descEnqueue { fwWait f .host .fieldMem cs with x := x, gather := true, tick := r.s.tick.no
                                                               run := (tabGet {} r.s.seq.jobs o.job).run } r.s }

def nextGatherD (f : Nat) (o : SetOpnd) (x : MoveCtx) (r : SetRun) : SetNext :=
  if o.nA ≤ r.posA then .finish
  else
    let (i, p) := idxA f o r
    let r1 := setScan portA f (o.aAddr + 4 * r.posA) 4 r
    let out := o.outAddr + o.row * r.posA
    let a := r.base + o.row * i
    if p ≠ 0 then .error 1 5 r1
    else if i = none32 then .elem 1 (stepA 1 (gatherFill f o x (out % 2 ^ 23) 0 r1))
    else if r.rows ≤ i ∨ usableBytes r.s < a + o.row then .elem 1 (stepA 1 (noteOob f (gatherFill f o x (out % 2 ^ 23) 2 r1)))
    else
      let n := (o.row + 63) / 64
      let r2 := { r1 with s := gatherRow f o x a (out % 2 ^ 23) r1.s, tx := r1.tx + n, txMove := r1.txMove + n }
      .elem 1 (stepA 1 r2)

def nextScatter (f : Nat) (o : SetOpnd) (r : SetRun) : SetNext :=
  if o.nA ≤ r.posA then .finish
  else
    let (i, p) := idxA f o r
    let r1 := setScan portA f (o.aAddr + 4 * r.posA) 4 r
    if p ≠ 0 then .error (rowCyc o) 5 r1
    else if i = none32 then .elem (rowCyc o) (stepAB 0 r1)
    else if r.rows ≤ i then .elem (rowCyc o) (stepAB 0 (noteOob f r1))
    else
      let b := o.bAddr + o.row * r.posA
      let (bs, q) := setRead portT r f b o.row
      .elem (rowCyc o) (stepAB 1 (setRow portOut f (r.base + o.row * i) bs q (setScan portT f b o.row r1)))

/-- The stall of an element whose target is one of the last seven (R258). -/
def stallOf (r : SetRun) (i : Nat) : Nat :=
  match (r.recent.take 7).find? fun e => e.1 == i with | some e => e.2 - r.t | none => 0

def nextScatterAdd (f : Nat) (o : SetOpnd) (r : SetRun) : SetNext :=
  if o.nA ≤ r.posA then .finish
  else
    let (i, p) := idxA f o r
    let r1 := setScan portA f (o.aAddr + 4 * r.posA) 4 r
    let note (k : Nat) (c : Nat) (q : SetRun) : SetRun := { q with recent := (k, r.t + c + 16) :: (q.recent.take 6) }
    if p ≠ 0 then .error (rowCyc o) 5 r1
    else if i = none32 then .elem (rowCyc o) (note (2 ^ 33) (rowCyc o) (stepAB 0 r1))
    else if r.rows ≤ i then .elem (rowCyc o) (note (2 ^ 33) (rowCyc o) (stepAB 0 (noteOob f r1)))
    else
      let c := rowCyc o + stallOf r i
      let b := o.bAddr + o.row * r.posA
      let a := r.base + o.row * i
      let (bs, q) := setRead portT r f b o.row
      let (ts, q') := setRead portSlot r f a o.row
      let (sum, sats) := setCombine o.vint 0 ts bs
      .elem c (note i c (stepAB 1 (noteSat f sats (setRow portSlot f a sum (q ||| q') (setScan portSlot f a o.row (setScan portT f b o.row r1))))))

/-! ## Segments and prefix sums (R260, R263) -/

def nextSegReduce (f : Nat) (o : SetOpnd) (r : SetRun) : SetNext :=
  if o.nA ≤ r.posA then .finish
  else
    let (i, p) := idxA f o r
    let r1 := setScan portA f (o.aAddr + 4 * r.posA) 4 r
    let next (t : SetRun) : SetRun := if o.sub = 3 then stepA 1 t else stepAB 1 t
    if p ≠ 0 then .error (rowCyc o) 5 r1
    else if i = none32 then .elem (rowCyc o) (if o.sub = 3 then stepA 0 r1 else stepAB 0 r1)
    else if r.aux ≠ none32 ∧ i < r.aux then .error (rowCyc o) 1 r1
    else if r.rows ≤ i then .error (rowCyc o) 5 r1
    else
      let first := o.clear && r.aux != i
      let a := r.base + o.row * i
      let (ts, q') := setRead portSlot r f a o.row
      let r2 := if first then r1 else setScan portSlot f a o.row r1
      if o.sub = 3 then
        let n := if first then 0 else leNat (ts.take 4)
        let row := leBytes 4 ((n + 1) % 2 ^ 32) ++ (if first then zeros (o.row - 4) else ts.drop 4)
        .elem (rowCyc o) { next (setRow portSlot f a row (if first then 0 else q') r2) with aux := i }
      else
        let b := o.bAddr + o.row * r.posA
        let (bs, q) := setRead portT r f b o.row
        let (v, sats) := if first then (bs, 0) else setCombine o.vint o.sub ts bs
        .elem (rowCyc o) { next (noteSat f sats (setRow portSlot f a v (if first then q else q ||| q') (setScan portT f b o.row r2))) with aux := i }

/-- SCAN: the sum that stands at position j of the output goes on to j + 1. -/
def nextScan (f : Nat) (o : SetOpnd) (r : SetRun) : SetNext :=
  if o.nA ≤ r.posA then .finish
  else
    let (x, p) := idxA f o r
    let r1 := setScan portA f (o.aAddr + 4 * r.posA) 4 r
    let (sum, q) := if r.posA = 0 then (0, 0) else setWord portOut r f (o.outAddr + 4 * r.posA) 4
    let both (i v : Nat) (m : BitVec 8) (t : SetRun) : SetRun :=
      let u := setOut32 f (o.outAddr + 4 * i) v m t
      if o.sub % 2 = 1 then setOut32 f (o.out2Addr + 4 * i) v m u else u
    let r2 := if r.posA = 0 then both 0 0 0 { r1 with outN := r1.outN + 1 } else r1
    .elem 1 (stepA 1 (both (r.posA + 1) ((sum + x) % 2 ^ 32) (p ||| q) r2))

/-! ## Sorted sets (R261) -/

/-- Bytes of a key. -/
def keyLen (o : SetOpnd) : Nat := if o.kfmt == .u64 then 8 else 4

/-- Key j of a stream. -/
def keyAt (f : Nat) (o : SetOpnd) (r : SetRun) (ps : List Nat) (base j : Nat) : Nat × BitVec 8 := setWord ps r f (base + keyLen o * j) (keyLen o)

/-- The kinds of sorted-set operations. -/
inductive SortedOp where
  | inter | union | diff
  deriving DecidableEq, Repr

/-- One key consumed. A key that both inputs hold is consumed from both, at twice the cycles (log 33). -/
def nextSorted (k : SortedOp) (f : Nat) (o : SetOpnd) (r : SetRun) : SetNext :=
  let nB := r.rows
  let c := if o.kfmt == .u64 then 2 else 1
  let endA := decide (o.nA ≤ r.posA)
  let endB := decide (nB ≤ r.posB)
  let stop := match k with | .inter => endA || endB | .union => endA && endB | .diff => endA
  if stop then .finish
  else
    let (a, pa) := if endA then (0, 0) else keyAt f o r portA o.aAddr r.posA
    let (b, pb) := if endB then (0, 0) else keyAt f o r portT r.base r.posB
    let prevA := if endA || r.posA == 0 then none else some (keyAt f o r portA o.aAddr (r.posA - 1)).1
    let prevB := if endB || r.posB == 0 then none else some (keyAt f o r portT r.base (r.posB - 1)).1
    let bad (x : Nat) (q : Option Nat) : Bool := match q with | some y => decide (x ≤ y) | none => false
    let r1 := if endA then r else setScan portA f (o.aAddr + keyLen o * r.posA) (keyLen o) r
    let r2 := if endB then r1 else setScan portT f (r.base + keyLen o * r.posB) (keyLen o) r1
    if pa ≠ 0 ∨ pb ≠ 0 then .error c 5 r2
    else if (!endA && bad a prevA) || (!endB && bad b prevB) then .error c 1 r2
    else
      let put (v n : Nat) (t : SetRun) : SetRun :=
        { setWrite portOut f (o.outAddr + n * t.outN) (leBytes n v) 0 t with outN := t.outN + 1 }
      let takeA (t : SetRun) : SetRun := { t with posA := t.posA + 1 }
      let takeB (t : SetRun) : SetRun := { t with posB := t.posB + 1 }
      if !endA && !endB && a == b then
        let r3 := match k with
          | .inter => if o.sub % 2 = 1 then put r.posA 4 r2 else put a (keyLen o) r2
          | .union => put a (keyLen o) r2
          | .diff => r2
        .elem (2 * c) (takeA (takeB r3))
      else if endB || (!endA && decide (a < b)) then
        .elem c (takeA (match k with | .inter => r2 | _ => put a (keyLen o) r2))
      else .elem c (takeB (match k with | .union => put b (keyLen o) r2 | _ => r2))

/-! ## Hash tables (R262) -/

/-- Home slot of a key. -/
def homeSlot (o : SetOpnd) (x : Nat) : Nat :=
  if o.kfmt == .u64 then (x * 0x9E3779B97F4A7C15 % 2 ^ 64) >>> (64 - o.tLog2) else (x * 0x9E3779B1 % 2 ^ 32) >>> (32 - o.tLog2)

/-- Bytes of a slot, and its cycles s. -/
def slotLen (o : SetOpnd) : Nat := if o.kfmt == .u64 then 16 else 8
def slotCyc (o : SetOpnd) : Nat := if o.kfmt == .u64 then 2 else 1

/-- "None" of the key format. -/
def keyNone (o : SetOpnd) : Nat := if o.kfmt == .u64 then 2 ^ 64 - 1 else none32

/-- What probing finds: the key's slot, an empty slot, a poisoned slot, or nothing within the limit; and the probes made. -/
inductive Probe where
  | found (slot n : Nat) | empty (slot n : Nat) | poisoned (n : Nat) | missing (n : Nat)
  deriving DecidableEq, Repr

/-- Linear probing from a home slot (R262). -/
def probe (f : Nat) (o : SetOpnd) (r : SetRun) (x home : Nat) : Nat → Nat → Probe
  | 0, n => .missing n
  | fuel + 1, n =>
    let slot := (home + n) % 2 ^ o.tLog2
    let (x0, p) := setWord portSlot r f (r.base + slotLen o * slot) (slotLen o)
    let k := x0 % 2 ^ (8 * keyLen o)
    if p ≠ 0 then .poisoned (n + 1)
    else if k = x then .found slot (n + 1)
    else if k = keyNone o then .empty slot (n + 1)
    else probe f o r x home fuel (n + 1)

/-- Probe limit. -/
def probeMax (o : SetOpnd) : Nat := min (2 ^ o.tLog2) 64

/-- Count the reads of `n` probed slots. -/
def scanSlots (f : Nat) (o : SetOpnd) (home n : Nat) (r : SetRun) : SetRun :=
  (List.range n).foldl (fun t i => setScan portSlot f (r.base + slotLen o * ((home + i) % 2 ^ o.tLog2)) (slotLen o) t) r

def nextHprobe (f : Nat) (o : SetOpnd) (r : SetRun) : SetNext :=
  if o.nA ≤ r.posA then .finish
  else
    let (x, p) := keyAt f o r portA o.aAddr r.posA
    let r1 := setScan portA f (o.aAddr + keyLen o * r.posA) (keyLen o) r
    let answer (v : Nat) (q : BitVec 8) (hit : Bool) (t : SetRun) : SetRun :=
      let byte := o.out2Addr + r.posA / 8
      let old := if r.posA % 8 = 0 then 0 else (fmByte t.s f (byte % 2 ^ 23)).toNat
      let t1 := setOut32 f (o.outAddr + 4 * r.posA) v q t
      stepA 1 (setWrite portOut f byte [BitVec.ofNat 8 (old + b2n hit * 2 ^ (r.posA % 8))] 0 t1)
    if p ≠ 0 then .error 1 5 r1
    else if x = keyNone o then .elem 1 (answer none32 0 false r1)
    else
      let h := homeSlot o x
      match probe f o r x h (probeMax o) 0 with
      | .poisoned n => .error (1 + n * slotCyc o) 5 (scanSlots f o h n r1)
      | .found k n =>
        let (v, q) := setWord portSlot r f (r.base + slotLen o * k + keyLen o) 4
        .elem (1 + n * slotCyc o) (answer v q true (scanSlots f o h n r1))
      | .empty _ n => .elem (1 + n * slotCyc o) (answer none32 0 false (scanSlots f o h n r1))
      | .missing n => .elem (1 + n * slotCyc o) (answer none32 0 false (scanSlots f o h n r1))

/-- Bytes of a slot. -/
def slotBytes (o : SetOpnd) (key v : Nat) : List Byte := padTo (slotLen o) (leBytes (keyLen o) key ++ leBytes 4 v)

def nextHinsert (f : Nat) (o : SetOpnd) (r : SetRun) : SetNext :=
  if o.nA ≤ r.posA then .finish
  else
    let (x, p) := keyAt f o r portA o.aAddr r.posA
    let (v, q) := setWord portT r f (o.bAddr + 4 * r.posA) 4
    let r1 := setScan portT f (o.bAddr + 4 * r.posA) 4 (setScan portA f (o.aAddr + keyLen o * r.posA) (keyLen o) r)
    let answer (k : Nat) (t : SetRun) : SetRun := stepAB 1 (setOut32 f (o.outAddr + 4 * r.posA) k 0 t)
    let at_ (k : Nat) : Nat := r.base + slotLen o * k
    if p ≠ 0 then .error 2 5 r1
    else if x = keyNone o then .elem 2 (answer none32 r1)
    else
      let h := homeSlot o x
      match probe f o r x h (probeMax o) 0 with
      | .poisoned n => .error (2 + n * slotCyc o) 5 (scanSlots f o h n r1)
      | .missing n =>
        let r2 := scanSlots f o h n r1
        .elem (2 + n * slotCyc o) (answer none32 { r2 with s := bump (cSetHfail f) r2.s })
      | .empty k n => .elem (2 + n * slotCyc o) (answer k (setWrite portSlot f (at_ k) (slotBytes o x v) q (scanSlots f o h n r1)))
      | .found k n =>
        let r2 := scanSlots f o h n r1
        let (old, qo) := setWord portSlot r f (at_ k + keyLen o) 4
        let r3 := match o.sub with
          | 0 => setWrite portSlot f (at_ k) (slotBytes o x v) q r2
          | 1 =>
            let (sum, sat) := setAdd o.vint old v
            setWrite portSlot f (at_ k) (slotBytes o x sum) (q ||| qo) (noteSat f (b2n sat) r2)
          | _ => r2
        .elem (2 + n * slotCyc o) (answer k r3)

def nextHclear (f : Nat) (o : SetOpnd) (r : SetRun) : SetNext :=
  if 2 ^ o.tLog2 ≤ r.posA then .finish
  else .elem (slotCyc o) (stepA 1 (setWrite portSlot f (r.base + slotLen o * r.posA) (slotBytes o (keyNone o) 0) 0 r))

/-! ## Grids and neighbours (R263, R264) -/

/-- Bytes of a point. -/
def pointLen (o : SetOpnd) : Nat := if o.kfmt == .p3f16 then 8 else 16

/-- A point's coordinates in FP32, and its poison. -/
def pointAt (f : Nat) (o : SetOpnd) (ps : List Nat) (r : SetRun) (a : Nat) : List W32 × BitVec 8 :=
  let (bs, p) := setRead ps r f a (pointLen o)
  let n := leNat bs
  if o.kfmt == .p3f16 then ([0, 1, 2].map fun i => f16to32 (BitVec.ofNat 16 (bitsN n (16 * i + 15) (16 * i))), p)
  else ([0, 1, 2].map fun i => BitVec.ofNat 32 (bitsN n (32 * i + 31) (32 * i)), p)

/-- The grid block: origin, edge, and counts. -/
def gridBlock (f : Nat) (o : SetOpnd) (r : SetRun) : List W32 × W32 × List Nat × BitVec 8 :=
  let (bs, p) := setRead portT r f o.auxAddr 32
  let n := leNat bs
  ([0, 1, 2].map fun i => BitVec.ofNat 32 (bitsN n (32 * i + 31) (32 * i)), BitVec.ofNat 32 (bitsN n 127 96),
    [0, 1, 2].map fun i => bitsN n (128 + 16 * i + 15) (128 + 16 * i), p)

/-- Floor of a finite FP32 value. -/
def f32floor (x : W32) : Int :=
  match dec32 x with
  | .fin neg m e =>
    let k : Int := if 0 ≤ e then (m * 2 ^ e.toNat : Nat) else (m / 2 ^ (-e).toNat : Nat)
    let exact : Bool := decide (0 ≤ e) || m % 2 ^ (-e).toNat == 0
    if neg then (if exact then -k else -k - 1) else k
  | _ => 0

/-- A point's grid coordinates; none for a coordinate that is NaN or outside the grid (R263). -/
def gridCoords (g : List W32 × W32 × List Nat × BitVec 8) (p : List W32) : Option (Nat × Nat × Nat) :=
  let (o, edge, n, _) := g
  let one (i : Nat) : Option Nat :=
    let q := f32div (f32sub (nth p i 0) (nth o i 0)) edge
    if !f32finite q then none
    else
      let k := f32floor q
      if 0 ≤ k ∧ k < (nth n i 0 : Int) then some k.toNat else none
  match one 0, one 1, one 2 with
  | some x, some y, some z => some (x, y, z)
  | _, _, _ => none

/-- Cell ID of coordinates. -/
def cellId (n : List Nat) (x y z : Nat) : Nat := x + nth n 0 0 * (y + nth n 1 0 * z)

/-- A point's cell ID, or none. -/
def cellOf (g : List W32 × W32 × List Nat × BitVec 8) (p : List W32) : Nat :=
  match gridCoords g p with | some (x, y, z) => cellId g.2.2.1 x y z | none => none32

/-- Cycles of a point. -/
def pointCyc (o : SetOpnd) : Nat := if o.kfmt == .p3f16 then 2 else 3

def nextGbucket (f : Nat) (o : SetOpnd) (r : SetRun) : SetNext :=
  if o.nA ≤ r.posA then .finish
  else
    let a := o.aAddr + pointLen o * r.posA
    let (pt, p) := pointAt f o portA r a
    let g := gridBlock f o r
    let r1 := setScan portT f o.auxAddr 32 (setScan portA f a (pointLen o) r)
    if p ≠ 0 ∨ g.2.2.2 ≠ 0 then .error (pointCyc o) 5 r1
    else
      let id := cellOf g pt
      if id ≠ none32 ∧ r.rows ≤ id then .error (pointCyc o) 5 r1
      else
        let r2 := setOut32 f (o.outAddr + 4 * r.posA) id 0 r1
        if id = none32 then .elem (pointCyc o) (stepA 1 r2)
        else
          let t := r.base + 4 * id
          let (n, q) := setWord portSlot r f t 4
          .elem (pointCyc o) (stepA 1 (setPatch portSlot f t (leBytes 4 ((n + 1) % 2 ^ 32)) q (setScan portSlot f t 4 r2)))

def nextGplace (f : Nat) (o : SetOpnd) (r : SetRun) : SetNext :=
  if o.nA ≤ r.posA then .finish
  else
    let b := o.bAddr + 4 * r.posA
    let (id, p) := setWord portT r f b 4
    let r1 := setScan portT f b 4 r
    if p ≠ 0 then .error (pointCyc o) 5 r1
    else if id = none32 then .elem (pointCyc o) (stepAB 0 r1)
    else if r.rows ≤ id then .error (pointCyc o) 5 r1
    else
      let t := r.base + 4 * id
      let a := o.aAddr + pointLen o * r.posA
      let (pos, q) := setWord portSlot r f t 4
      let (pt, pp) := setRead portA r f a (pointLen o)
      let r1 := setScan portA f a (pointLen o) (setScan portSlot f t 4 r1)
      if q ≠ 0 ∨ pp ≠ 0 then .error (pointCyc o) 5 r1
      else
        let r2 := setWrite portOut f (o.outAddr + pointLen o * pos) pt 0 r1
        let r3 := setPatch portOut f (o.out2Addr + 4 * pos) (leBytes 4 r.posA) 0 r2
        .elem (pointCyc o) (stepAB 1 (setPatch portSlot f t (leBytes 4 ((pos + 1) % 2 ^ 32)) 0 r3))

/-- The up to 27 cells around a cell, in ascending ID. -/
def around (n : List Nat) (x y z : Nat) : List Nat :=
  let near (i m : Nat) : List Nat := [i - 1, i, i + 1].eraseDups.filter fun j => decide (j < m ∧ i ≤ j + 1)
  (near z (nth n 2 0)).flatMap fun c => (near y (nth n 1 0)).flatMap fun b => (near x (nth n 0 0)).map fun a => cellId n a b c

/-- The stored positions of a list of cells, in order, up to a poisoned start (none). -/
def cellPoints (f : Nat) (r : SetRun) (cells : List Nat) : Option (List Nat) :=
  cells.foldl (fun acc id =>
    match acc with
    | none => none
    | some ps =>
      let (a, pa) := setWord portT r f (r.base + 4 * id) 4
      let (b, pb) := setWord portT r f (r.base + 4 * (id + 1)) 4
      if pa ≠ 0 ∨ pb ≠ 0 then none else some (ps ++ (List.range (b - a)).map fun i => a + i)) (some [])

/-- The search over candidates: accepted positions up to k + 1, and candidates examined; none at a poisoned point. -/
def nbrSearch (f : Nat) (o : SetOpnd) (r : SetRun) (q : List W32) : List Nat → List Nat → Nat → Option (List Nat × Nat)
  | [], acc, n => some (acc, n)
  | c :: t, acc, n =>
    if acc.length = o.k + 1 then some (acc, n)
    else
      let (p, m) := pointAt f o portT r (o.bAddr + pointLen o * c)
      if m ≠ 0 then none
      else
        let d (i : Nat) : W32 := f32sub (nth p i 0) (nth q i 0)
        let d2 := f32add (f32add (f32mul (d 0) (d 0)) (f32mul (d 1) (d 1))) (f32mul (d 2) (d 2))
        nbrSearch f o r q t (if f32le d2 o.radius2 then acc ++ [c] else acc) (n + 1)

def nextNbr (f : Nat) (o : SetOpnd) (r : SetRun) : SetNext :=
  if o.nA ≤ r.posA then .finish
  else
    let a := o.aAddr + pointLen o * r.posA
    let (pt, p) := pointAt f o portA r a
    let g := gridBlock f o r
    let r1 := setScan portT f o.auxAddr 32 (setScan portA f a (pointLen o) r)
    let w := if o.kfmt == .p3f16 then 1 else 2
    let answer (ps : List Nat) (t : SetRun) : SetRun :=
      let out := (List.range o.k).foldl (fun u i =>
        setOut32 f (o.outAddr + 4 * (o.k * r.posA + i)) (nth ps i none32) 0 u) t
      stepA 1 (setOut32 f (o.out2Addr + 4 * r.posA) (min o.k ps.length + (if o.k < ps.length then 2 ^ 31 else 0)) 0 out)
    if p ≠ 0 ∨ g.2.2.2 ≠ 0 then .error 30 5 r1
    else match gridCoords g pt with
    | none => .elem 30 (answer [] r1)
    | some (x, y, z) =>
      let cells := around g.2.2.1 x y z
      if cells.any fun id => decide (r.rows ≤ id + 1) then .error 30 5 r1
      else match cellPoints f r cells with
      | none => .error 30 5 r1
      | some cs =>
        match nbrSearch f o r pt cs [] 0 with
        | none => .error 30 5 r1
        | some (acc, n) =>
          let r2 := cells.foldl (fun t id => setScan portT f (r.base + 4 * id) 8 t) r1
          let r3 := (cs.take n).foldl (fun t c => setScan portT f (o.bAddr + pointLen o * c) (pointLen o) t) r2
          .elem (30 + w * n) (answer acc r3)

/-! ## Trees (R265) -/

/-- A node's parent. -/
def parentOf (f : Nat) (r : SetRun) (i : Nat) : Nat × BitVec 8 := setWord portT r f (r.base + 4 * i) 4

/-- Results of a path walk: the path, one longer than k, or one that ends at a poisoned parent or a node beyond the table; with the entries
walked. -/
inductive PathRes where
  | path (ns : List Nat) | tooLong (ns : List Nat) | bad (ns : List Nat)
  deriving DecidableEq, Repr

/-- The path of a node to its root: at most k entries. -/
def pathOf (f : Nat) (o : SetOpnd) (r : SetRun) : Nat → Nat → List Nat → PathRes
  | 0, i, acc => if i = none32 then .path acc else .tooLong acc
  | fuel + 1, i, acc =>
    if i = none32 then .path acc
    else if r.rows ≤ i then .bad acc
    else
      let (q, p) := parentOf f r i
      if p ≠ 0 then .bad (acc ++ [i]) else pathOf f o r fuel q (acc ++ [i])

def nextTwalkPath (f : Nat) (o : SetOpnd) (r : SetRun) : SetNext :=
  if o.nA ≤ r.posA then .finish
  else
    let (i, p) := idxA f o r
    let r1 := setScan portA f (o.aAddr + 4 * r.posA) 4 r
    if p ≠ 0 ∨ r.rows ≤ i then .error 1 5 r1
    else match pathOf f o r o.k i [] with
    | .bad ns => .error ns.length 5 (ns.foldl (fun t n => setScan portT f (r.base + 4 * n) 4 t) r1)
    | .tooLong ns => .error ns.length 2 (ns.foldl (fun t n => setScan portT f (r.base + 4 * n) 4 t) r1)
    | .path ns =>
      let out := (List.range o.k).foldl (fun u j => setOut32 f (o.outAddr + 4 * (o.k * r.posA + j)) (nth ns j none32) 0 u) r1
      let r2 := ns.foldl (fun t n => setScan portT f (r.base + 4 * n) 4 t) out
      .elem ns.length (stepA 1 (setOut32 f (o.out2Addr + 4 * r.posA) ns.length 0 r2))

/-- TWALK mode 1 finds each node's depth in number order, and writes the order and the level starts as it ends. -/
def nextTwalkLevel (f : Nat) (o : SetOpnd) (r : SetRun) : SetNext :=
  if r.rows ≤ r.posA then .finish
  else
    let i := r.posA
    let (q, p) := parentOf f r i
    let r1 := setScan portT f (r.base + 4 * i) 4 r
    if p ≠ 0 then .error 3 5 r1
    else if q ≠ none32 ∧ i ≤ q then .error 3 3 r1
    else
      let (d, m) := if q = none32 then (0, 0) else
        let (x, y) := setWord portSlot r f (o.auxAddr + 4 * q) 4
        (x + 1, y)
      .elem 3 { stepA 0 (setWrite portSlot f (o.auxAddr + 4 * i) (leBytes 4 d) m r1) with aux := (Config.freeW32 r.s.free i).toNat }

/-- The order and the level starts of TWALK mode 1. -/
def levelOut (f : Nat) (o : SetOpnd) (state : Nat) (r : SetRun) : SetRun :=
  if state ≠ 2 then r else
  let depths := (List.range r.rows).map fun i => (setWord portSlot r f (o.auxAddr + 4 * i) 4).1
  let top := depths.foldl max 0
  let levels := (List.range (top + 1)).map fun d => (List.range r.rows).filter fun i => nth depths i 0 == d
  let order := levels.flatMap id
  let starts := (List.range (top + 1)).map fun d => ((levels.take d).map List.length).foldl (· + ·) 0
  let starts := if r.rows = 0 then [0] else starts ++ [r.rows]
  let r1 := (List.range order.length).foldl (fun t j => setOut32 f (o.outAddr + 4 * j) (nth order j 0) 0 t)
    (setScan portSlot f o.auxAddr (4 * r.rows) r)
  let r2 := (List.range starts.length).foldl (fun t j => setOut32 f (o.out2Addr + 4 * j) (nth starts j 0) 0 t) r1
  { r2 with outN := r.rows }

def nextTwalkAcc (f : Nat) (o : SetOpnd) (r : SetRun) : SetNext :=
  if r.rows ≤ r.posA then .finish
  else
    let i := r.posA
    let (q, p) := parentOf f r i
    let b := o.bAddr + o.row * i
    let r1 := setScan portT f b o.row (setScan portT f (r.base + 4 * i) 4 r)
    if p ≠ 0 then .error (rowCyc o + 1) 5 r1
    else if q ≠ none32 ∧ i ≤ q then .error (rowCyc o + 1) 3 r1
    else
      let (bs, m) := setRead portT r f b o.row
      if q = none32 then .elem (rowCyc o + 1) (stepAB 1 (setRow portSlot f (o.outAddr + o.row * i) bs m r1))
      else
        let a := o.outAddr + o.row * q
        let (us, n) := setRead portSlot r f a o.row
        let (v, sats) := setCombine o.vint 0 bs us
        .elem (rowCyc o + 1) (stepAB 1 (noteSat f sats (setRow portSlot f (o.outAddr + o.row * i) v (m ||| n) (setScan portSlot f a o.row r1))))

/-! ## Budgets, tokens and ends (R268 to R275) -/

/-- The next element, whose accesses fall within its cycles and the tail of its writes. -/
def setLook (next : SetRun → SetNext) (d : Nat) (r : SetRun) : SetNext :=
  let r0 := { r with seed := r.s.free, span := 1 }
  match next r0 with
  | .finish => .finish
  | .error c _ _ => next { r0 with span := c + d }
  | .elem c _ => next { r0 with span := c + d }

/-- Elements one after another until the work, the budget or the transactions run out; `d` is the tail of an element's writes, and the
state reached is 1, 2 or 3 (R269, R270, R272). An element that could not be started ends nothing, an error that it would meet included. -/
def setLoop (next : SetRun → SetNext) (d budget txMax : Nat) : Nat → SetRun → Nat × Nat × SetRun
  | 0, r => (1, 0, r)
  | fuel + 1, r =>
    match setLook next d r with
    | .finish => (2, 0, r)
    | .error c e r' => if budget < r.t + c + d ∨ txMax ≤ r.txMove then (1, 0, r) else (3, e, r')
    | .elem c r' =>
      if budget < r.t + c + d ∨ txMax ≤ r.txMove then (1, 0, r)
      else setLoop next d budget txMax fuel { r' with t := r.t + c, ac := r.ac + c, done := r.done + 1 }

/-- The continuation token, and whether it reads poison. -/
def tokenAt (f : Nat) (o : SetOpnd) (r : SetRun) : Nat × BitVec 8 := setWord portSlot r f o.tokAddr 32

/-- The bytes of a token (Table 10-5). -/
def tokenBytes (e : SetEnd) : List Byte :=
  leBytes 32 (pack [(16, 16, e.moves), (32, 32, e.acUsed), (64, 32, e.txUsed), (96, 32, e.aux), (128, 32, e.posB), (160, 32, e.posA),
    (192, 32, e.outN), (224, 8, e.err), (232, 8, e.state), (240, 16, e.run.toNat)])

/-- T's base and row count: of the operand block, or of a runtime descriptor; an error of R268 or R281 (6 or 5) instead. -/
def setBase (f : Nat) (dram : Bool) (o : SetOpnd) (r : SetRun) : Nat × Nat × Nat :=
  if !o.desc then (0, if dram then o.tAddr else o.tAddr % 2 ^ 23, o.nT)
  else
    let (x, p) := setWord portT r f o.tAddr 16
    let b := bitsN x 63 0
    let n := bitsN x 95 64
    if p ≠ 0 then (5, 0, 0)
    else if n = 0 ∨ b % (if dram then 64 else 8) ≠ 0 then (6, 0, 0)
    else (0, if dram then b else b % 2 ^ 23, n)

/-- Run number of a job (R271). -/
def runOf (s : State) (j : Nat) : BitVec 16 := (tabGet {} s.seq.jobs j).run

/-- Slip of a set move at its start: what its issued move shows, or what the row gives for a move that no list issued (R23, R269). -/
def setLate (f : Nat) (o : SetOpnd) (x : MoveCtx) (s : State) : Nat :=
  match issuedRun s (0x520 + f) x with
  | some m => m.started.getD m.planned - m.planned
  | none => o.late

/-- Planned start of a set move in its tick. -/
def setStart (f : Nat) (x : MoveCtx) (s : State) : Option Nat := (issuedRun s (0x520 + f) x).map fun m => m.planned

/-- Transactions of a GATHER_D run are in flight or queued (R277, R278). -/
def gatherFlies (s : State) (f mid : Nat) (run : BitVec 16) : Bool :=
  (s.fm.xfers.any fun x => x.gather && x.field == f && x.mid == mid && x.run == run) ||
    s.fm.descQueue.any fun q => q.gather && q.field == f && q.x.mid == mid && q.run == run

/-- When a set move that reached `r` can end: at the earlier of E and the ac after its last write; one that wrote nothing ends at some time up
to E (R269). -/
def setEndsAt (d : Nat) (o : SetOpnd) (r : SetRun) : Option (Nat × Nat) :=
  r.start.map fun p =>
    if r.done = 0 then (p + min o.budgetAc r.t, p + o.budgetAc) else (p + min o.budgetAc (r.t + d), p + min o.budgetAc (r.t + d))

/-- A set move runs: a busy engine or one whose field is absent or down leaves it waiting; a move that finds its own run done or ended signals
at its start, a GATHER_D that is done once its transactions are; otherwise its elements run within the budget, and its end waits for
SET_BUDGET_END (R269 to R275, R278). -/
def setRunMove (next : SetRun → SetNext) (fin : Nat → SetRun → SetRun) (d aux0 : Nat) (dram : Bool) (f : Nat) (o : SetOpnd) (x : MoveCtx)
    (s : State) : State :=
  if !fieldLive s f || tabHas s.fm.setEnds f then s
  else
    let late := setLate f o x s
    let first : SetRun := { s := s, t := late, start := setStart f x s, span := 8, seed := s.free }
    let (tok, tp) := tokenAt f o first
    let s0 := if o.cont then (setScan portSlot f o.tokAddr 32 first).s else s
    let mine := o.cont && tp == 0 && bitsN tok 255 240 == (runOf s o.job).toNat
    let st := bitsN tok 239 232
    let epoch := (syncOf s o.sigObj).epoch
    let mk (state err moves : Nat) (r : SetRun) : SetEnd :=
      { o := o, mid := x.mid, state := state, err := err, outN := r.outN, posA := r.posA, posB := r.posB, aux := r.aux
        txUsed := r.tx, acUsed := r.ac, moves := moves, run := runOf s o.job, epoch := epoch, ends := setEndsAt d o r }
    let store (e : SetEnd) (t : State) : State := setFm (fun m => { m with setEnds := tabSet m.setEnds f e }) t
    if mine && (st == 2 || st == 3) then
      if dram && st == 2 && gatherFlies s f x.mid (runOf s o.job) then
        setFm (fun m => { m with gatherEnds := tabSet m.gatherEnds f (tabGet [] m.gatherEnds f ++ [mk st 0 0 { first with s := s0 }]) }) s0
      else addSignal o.sigObj o.sigN epoch s0
    else
      let resume := mine && st == 1
      let w (hi lo : Nat) : Nat := if resume then bitsN tok hi lo else 0
      let (err, base, rows) := setBase f dram o { first with s := s0 }
      let s1 := if o.desc then (setScan portT f o.tAddr 16 { first with s := s0 }).s else s0
      let r0 : SetRun :=
        { s := s1, t := late + 8, start := first.start, seed := first.seed, posA := w 191 160, posB := w 159 128, outN := w 223 192
          aux := if resume then w 127 96 else aux0, tx := w 95 64, ac := w 63 32, base := base, rows := rows }
      let moves := w 31 16 + 1
      if o.cont && tp != 0 then store (mk 3 5 moves r0) s1
      else if err ≠ 0 then store (mk 3 err moves r0) s1
      else
        let (state, e, r1) := setLoop next d o.budgetAc (if dram then o.budgetTx else 2 ^ 64) (o.budgetAc + 1) r0
        let starved := state == 1 && o.cont && late == 0 && r1.done == 0
        let ended := if starved then 3 else state
        let r := fin ended r1
        store (mk ended (if starved then 4 else e) moves r) r.s

/-- No trailing output. -/
def noFin (_ : Nat) (r : SetRun) : SetRun := r

/-- The count of output keys goes to out2 as the operation ends, with an error too (R261, R272). -/
def countFin (f : Nat) (o : SetOpnd) (state : Nat) (r : SetRun) : SetRun := if state = 1 then r else setOut32 f o.out2Addr r.outN 0 r

/-- SCAN of no counts still writes its total. -/
def scanFin (f : Nat) (o : SetOpnd) (state : Nat) (r : SetRun) : SetRun :=
  if state = 2 ∧ o.nA = 0 then
    let t := setOut32 f o.outAddr 0 0 r
    { (if o.sub % 2 = 1 then setOut32 f o.out2Addr 0 0 t else t) with outN := 1 }
  else r

def execGather (field : Nat) (o : SetOpnd) (x : MoveCtx) (s : State) : Result :=
  .next (setRunMove (nextGather field o) noFin 14 0 false field o x s)
def execGatherD (field : Nat) (o : SetOpnd) (x : MoveCtx) (s : State) : Result :=
  .next (setRunMove (nextGatherD field o x) noFin 4 0 true field o x s)
def execScatter (field : Nat) (o : SetOpnd) (x : MoveCtx) (s : State) : Result :=
  .next (setRunMove (nextScatter field o) noFin 8 0 false field o x s)
def execScatterAdd (field : Nat) (o : SetOpnd) (x : MoveCtx) (s : State) : Result :=
  .next (setRunMove (nextScatterAdd field o) noFin 16 0 false field o x s)
def execSegReduce (field : Nat) (o : SetOpnd) (x : MoveCtx) (s : State) : Result :=
  .next (setRunMove (nextSegReduce field o) noFin 16 none32 false field o x s)
def execScan (field : Nat) (o : SetOpnd) (x : MoveCtx) (s : State) : Result :=
  .next (setRunMove (nextScan field o) (scanFin field o) 8 0 false field o x s)
def execSinter (field : Nat) (o : SetOpnd) (x : MoveCtx) (s : State) : Result :=
  .next (setRunMove (nextSorted .inter field { o with tAddr := o.bAddr, desc := false }) (countFin field o) 10 0 false field
    { o with tAddr := o.bAddr, desc := false } x s)
def execSunion (field : Nat) (o : SetOpnd) (x : MoveCtx) (s : State) : Result :=
  .next (setRunMove (nextSorted .union field { o with tAddr := o.bAddr, desc := false }) (countFin field o) 10 0 false field
    { o with tAddr := o.bAddr, desc := false } x s)
def execSdiff (field : Nat) (o : SetOpnd) (x : MoveCtx) (s : State) : Result :=
  .next (setRunMove (nextSorted .diff field { o with tAddr := o.bAddr, desc := false }) (countFin field o) 10 0 false field
    { o with tAddr := o.bAddr, desc := false } x s)
def execHprobe (field : Nat) (o : SetOpnd) (x : MoveCtx) (s : State) : Result :=
  .next (setRunMove (nextHprobe field o) noFin 12 0 false field o x s)
def execHinsert (field : Nat) (o : SetOpnd) (x : MoveCtx) (s : State) : Result :=
  .next (setRunMove (nextHinsert field o) noFin 14 0 false field o x s)
def execHclear (field : Nat) (o : SetOpnd) (x : MoveCtx) (s : State) : Result :=
  .next (setRunMove (nextHclear field o) noFin 8 0 false field o x s)
def execGbucket (field : Nat) (o : SetOpnd) (x : MoveCtx) (s : State) : Result :=
  .next (setRunMove (nextGbucket field o) noFin 16 0 false field o x s)
def execGplace (field : Nat) (o : SetOpnd) (x : MoveCtx) (s : State) : Result :=
  .next (setRunMove (nextGplace field o) noFin 16 0 false field o x s)
def execNbr (field : Nat) (o : SetOpnd) (x : MoveCtx) (s : State) : Result :=
  .next (setRunMove (nextNbr field o) noFin 12 0 false field o x s)

/-- TWALK in its three modes (Table 10-3). -/
def twalk (f : Nat) (o : SetOpnd) (x : MoveCtx) (s : State) : State :=
  match o.sub with
  | 0 => setRunMove (nextTwalkPath f o) noFin 10 0 false f o x s
  | 1 => setRunMove (nextTwalkLevel f o) (levelOut f o) 10 0 false f o x s
  | _ => setRunMove (nextTwalkAcc f o) noFin 10 0 false f o x s

def execTwalk (field : Nat) (o : SetOpnd) (x : MoveCtx) (s : State) : Result := .next (twalk field o x s)

/-- Issued moves on the set engine of a field with a `move_id`: this one has ended with elements remaining (R273). -/
def markUnfinished (f mid : Nat) (s : State) : State :=
  setSeq (fun q => { q with flying := q.flying.map fun m =>
    if m.engine == 0x520 + f && m.mv.moveId == mid && m.started.isSome then { m with unfinished := true } else m }) s

/-- A set move may end at an offset of the tick. -/
def endsNow (e : SetEnd) (at_ : Nat) : Bool := match e.ends with | some (lo, hi) => decide (lo ≤ at_ ∧ at_ ≤ hi) | none => true

/-- SET_BUDGET_END: at its time the token is written and the move ends in one of its ways (R269, R272, R274, R275); a GATHER_D that is done
waits for its transactions (R278), and a move of a step with elements remaining stays outstanding (R273). The token's `aux` in TWALK mode 1 is
a free value. -/
def setBudgetEnd (f at_ : Nat) (s : State) : State :=
  match tabFind s.fm.setEnds f with
  | none => s
  | some e =>
    if !endsNow e at_ then s
    else
      let s1 := setFm (fun m => { m with setEnds := tabDel m.setEnds f }) s
      let s2 := if e.o.cont then fmStore 8 f e.o.tokAddr (tokenBytes e) [] s1 else s1
      let s3 := if e.state = 3 then logEvent 0x0060 4 e.err e.mid (bump (cSetErr f) s2) else s2
      if e.state = 1 then (if e.o.cont then markUnfinished f e.mid s3 else bump (cSetExhaust f) s3)
      else if gatherFlies s f e.mid e.run && e.state == 2 then
        setFm (fun m => { m with gatherEnds := tabSet m.gatherEnds f (tabGet [] m.gatherEnds f ++ [e]) }) s3
      else addSignal e.o.sigObj e.o.sigN e.epoch s3

def execSetBudgetEnd (e : BudgetEnd) (s : State) : Result := .next (setBudgetEnd e.field e.at_ s)

/-- GATHER_D_FINAL_SIGNAL: an operation has reached state 2 and no transaction of its run is in flight (R278). -/
def gatherFinal (f : Nat) (s : State) : State :=
  let es := tabGet [] s.fm.gatherEnds f
  match es.find? fun e => !gatherFlies s f e.mid e.run with
  | none => s
  | some e =>
    let left := es.erase e
    addSignal e.o.sigObj e.o.sigN e.epoch
      (setFm (fun m => { m with gatherEnds := if left.isEmpty then tabDel m.gatherEnds f else tabSet m.gatherEnds f left }) s)

/-- Every started set move ends by its E, and E lies within its tick (R269, check V6): the ends that are still to come at the tick edge take
place there, ahead of R24, which cancels none of them. -/
def settleSets (s : State) : State :=
  s.fm.setEnds.foldl (fun t e => setBudgetEnd e.1 (match e.2.ends with | some (_, hi) => hi | none => 0) t) s

def execGatherDFinalSignal (field : Nat) (s : State) : Result := .next (gatherFinal field s)

end Sys2Proof.Machine
end

