-- ==== Sys2Proof/Machine/Planning.lean ====
section
/-! DEFINITION. What a move of a list does by its record alone: the field-memory ranges that it reads and writes, with the ports that reach
them (R161, R167, R180, R198 to R200, R255), and its times from its start with no slip (R159, R162, R167, R212, R269, R544, R545). -/

namespace Sys2Proof.Machine

/-! ## Engines and operand blocks -/

/-- Engines that a target occupies: the arrays of a unit, or the target itself (R52). -/
def engineKeys (l : MList) (t : Nat) : List Nat := if t < 0x500 then unitArrays l t else [t]

/-- Operand block of a move. -/
def blockOf (l : MList) (m : Move) : BitVec 512 := nth l.opnds m.opnd 0

/-- Kind of the operand block that an opcode names. -/
inductive BlockKind where
  | none | arr | vec | dma | set | rsv
  deriving DecidableEq, Repr

/-- Operand block kind of an opcode (Table 08-4, text after Table 08-5). -/
def blockKind (op : Nat) : BlockKind :=
  if 0x10 ≤ op ∧ op ≤ 0x13 then .arr else if 0x20 ≤ op ∧ op ≤ 0x50 then .vec else if op = 0x60 then .dma
  else if 0x80 ≤ op ∧ op ≤ 0x9F then .set else if op = 0x78 then .rsv else .none

/-- The operand block of a move, read by its kind. -/
inductive MoveOp where
  | none
  | arr (o : ArrOpnd)
  | vec (o : VecOpnd)
  | dma (o : DmaOpnd)
  | set (o : SetOpnd)
  | rsv (o : RsvOpnd)
  deriving DecidableEq, Repr

/-- The operand block of a move; none where it has no valid one. -/
def moveOp (l : MList) (m : Move) : MoveOp :=
  let w := blockOf l m
  match blockKind m.opcode with
  | .none => .none
  | .arr => match parseArr w with | some o => .arr o | none => .none
  | .vec => match parseVec w with | some o => .vec o | none => .none
  | .dma => match parseDma w m.sigObj m.sigN with | some o => .dma o | none => .none
  | .set => match parseSet w m.imm 0 0 m.sigObj m.sigN with | some o => .set o | none => .none
  | .rsv => match parseRsv w with | some o => .rsv o | none => .none

/-! ## Static ranges -/

/-- One range of field memory that a move reads or writes: the owner codes of the ports that may reach it (Table 07-2), its first byte and
its length. -/
structure Touch where
  field : Nat
  ports : List Nat
  addr : Nat
  len : Nat
  write : Bool
  deriving DecidableEq, Repr

/-- Bytes from the first row to the end of the last of `m` rows. -/
def spanBytes (stride rowLen m : Nat) : Nat := (m - 1) * stride + rowLen

/-- Grid of a unit of a list. -/
def listGrid (l : MList) (u : Nat) : Nat × Nat × List Nat := gridOf (l.groups.length + 1) l.groups u

/-- Tiles of an array move: ceil(K / (gr × D)), for TLOAD at most two. -/
def tileCount (op : Nat) (o : ArrOpnd) (gr d : Nat) : Nat :=
  let n := (o.kLen + gr * d - 1) / (gr * d)
  if op = 0x12 then min 2 n else n

/-- A move runs the output stage at its end. -/
def runsOutput (op : Nat) (o : ArrOpnd) : Bool := op == 0x13 || ((op == 0x10 || op == 0x11) && o.drain)

/-- Output rows of an array move, through the last array of each grid column (R162, R198). -/
def arrOutRows (l : MList) (m : Move) (o : ArrOpnd) : List Touch :=
  let (gr, gc, as) := listGrid l m.target
  if !runsOutput m.opcode o then [] else (List.range gc).map fun j =>
    let a := nth as ((gr - 1) * gc + j) 0
    let wide := if fmtMx o.outFmt && gc == 1 then 32 else 16
    ⟨fieldOf a, [a % 16], o.outAddr + elemBytes o.outFmt (16 * j), spanBytes (32 * o.outStride) (elemBytes o.outFmt wide) o.m, true⟩

/-- Scale vector and amax word of an array move's output (R146, R163, R164). -/
def arrOutRest (l : MList) (m : Move) (o : ArrOpnd) : List Touch :=
  let (gr, gc, as) := listGrid l m.target
  let last (j : Nat) : Nat := nth as ((gr - 1) * gc + j) 0
  if !runsOutput m.opcode o then [] else
    (if fmtMx o.outFmt then (List.range gc).map fun j => ⟨fieldOf (last j), [last j % 16], o.outSc, o.m * ((gc + 1) / 2), true⟩ else []) ++
    (if o.amaxEn then [⟨fieldOf (last 0), [last 0 % 16], o.amaxAddr, 4, true⟩] else [])

/-- Ranges that an array move reads: input rows through the lowest-numbered array of each grid row in each field, tiles through each array's
own port (R161, R164, R198). Several grid rows of one field each read their own reduction indices of the same rows, through one of their ports
in a cycle (log 80). -/
def arrReads (l : MList) (m : Move) (o : ArrOpnd) : List Touch :=
  let (gr, gc, as) := listGrid l m.target
  let arr (i j : Nat) : Nat := nth as (i * gc + j) 0
  let cells := (List.range gr).flatMap fun i => (List.range gc).map fun j => (i, j)
  let mul := m.opcode == 0x10 || m.opcode == 0x11
  let rowPort (f i : Nat) : Option Nat :=
    match ((List.range gc).map fun j => arr i j).filter fun a => fieldOf a == f with
    | [] => none
    | as => some ((as.map (· % 16)).foldl min 15)
  let ins := if !mul then [] else ((as.map fieldOf).eraseDups).flatMap fun f =>
    let ps := ((List.range gr).filterMap (rowPort f)).eraseDups
    [⟨f, ps, o.inAddr, spanBytes (32 * o.inStride) (elemBytes o.inFmt o.kLen) o.m, false⟩] ++
      (if fmtMx o.inFmt then [⟨f, ps, o.inSc, o.m * ((o.kLen + 31) / 32), false⟩] else [])
  let tiles := if m.opcode == 0x13 then [] else match pairOf o.inFmt o.wFmt with
    | none => []
    | some (_, d, _) => cells.flatMap fun (i, j) =>
      let a := arr i j
      let n := tileCount m.opcode o gr d
      let step := gr * gc * roundUp (tileWhole o.wFmt d) 32
      [⟨fieldOf a, [a % 16], tileAddr o d gr gc 0 i j, spanBytes step (tileBytes o.wFmt d) n, false⟩] ++
      (if fmtMx o.wFmt then [⟨fieldOf a, [a % 16], tileScAddr o gr gc 0 i j, spanBytes (16 * gr * gc) 16 n, false⟩] else [])
  ins ++ tiles

/-- Ranges of an array move on a unit. -/
def arrTouches (l : MList) (m : Move) (o : ArrOpnd) : List Touch := arrReads l m o ++ arrOutRows l m o ++ arrOutRest l m o

/-- Ranges of a vector move (R166 to R171, R199). -/
def vecTouches (f op : Nat) (o : VecOpnd) : List Touch :=
  let amax := if o.amaxEn then [(o.amaxAddr, 4)] else []
  (((o.scAddr, 64) :: vecReads op o).map fun r => (⟨f, [0x10], r.1, r.2, false⟩ : Touch)) ++
    (vecWrites op o ++ amax).map fun r => (⟨f, [0x10], r.1, r.2, true⟩ : Touch)

/-- Static ranges of a set move (Tables 10-2 to 10-4). The rows of T that a runtime descriptor names are not static (R268). How many sorted
points NBR reads is decided by data: its first point stands for stream B (log 33). -/
def setTouches (f op : Nat) (o : SetOpnd) : List Touch :=
  let rd (p : List Nat) (a n : Nat) : Touch := ⟨f, p, a, n, false⟩
  let wr (p : List Nat) (a n : Nat) : Touch := ⟨f, p, a, n, true⟩
  let both (p : List Nat) (a n : Nat) : List Touch := [rd p a n, wr p a n]
  let t := o.tAddr % 2 ^ 23
  let tab (x : List Touch) : List Touch := if o.desc then [rd portT t 16] else x
  let a (n : Nat) : Touch := rd portA o.aAddr (n * o.nA)
  let pt := pointLen o
  let slots := slotLen o * 2 ^ o.tLog2
  let tok := if o.cont then both portSlot o.tokAddr 32 else []
  let main : List Touch := match op with
    | 0x80 => a 4 :: wr portOut o.outAddr (o.row * o.nA) :: tab [rd portT t (o.row * o.nT)]
    | 0x81 => a 4 :: wr [0x15, 0x16] o.outAddr (o.row * o.nA) :: (if o.desc then [rd portT t 16] else [])
    | 0x82 => a 4 :: rd portT o.bAddr (o.row * o.nA) :: tab [wr portOut t (o.row * o.nT)]
    | 0x83 => a 4 :: rd portT o.bAddr (o.row * o.nA) :: tab (both portSlot t (o.row * o.nT))
    | 0x84 => a 4 :: (if o.sub = 3 then [] else [rd portT o.bAddr (o.row * o.nA)]) ++ tab (both portSlot t (o.row * o.nT))
    | 0x85 => a 4 :: wr portOut o.outAddr (4 * (o.nA + 1)) :: (if o.sub % 2 = 1 then [wr portOut o.out2Addr (4 * (o.nA + 1))] else [])
    | 0x88 => [a (keyLen o), rd portT o.bAddr (keyLen o * o.nT), wr portOut o.outAddr (keyLen o * min o.nA o.nT),
        wr portOut o.out2Addr 4]
    | 0x89 => [a (keyLen o), rd portT o.bAddr (keyLen o * o.nT), wr portOut o.outAddr (keyLen o * (o.nA + o.nT)),
        wr portOut o.out2Addr 4]
    | 0x8A => [a (keyLen o), rd portT o.bAddr (keyLen o * o.nT), wr portOut o.outAddr (keyLen o * o.nA),
        wr portOut o.out2Addr 4]
    | 0x8C => a (keyLen o) :: wr portOut o.outAddr (4 * o.nA) :: wr portOut o.out2Addr ((o.nA + 7) / 8) :: tab [rd portSlot t slots]
    | 0x8D => a (keyLen o) :: rd portT o.bAddr (4 * o.nA) :: wr portOut o.outAddr (4 * o.nA) :: tab (both portSlot t slots)
    | 0x8E => tab [wr portSlot t slots]
    | 0x90 => a pt :: rd portT o.auxAddr 32 :: wr portOut o.outAddr (4 * o.nA) :: tab (both portSlot t (4 * o.nT))
    | 0x91 => a pt :: rd portT o.bAddr (4 * o.nA) :: wr portOut o.outAddr (pt * o.nA) :: wr portOut o.out2Addr (4 * o.nA) ::
        tab (both portSlot t (4 * o.nT))
    | 0x92 => a pt :: rd portT o.bAddr pt :: rd portT o.auxAddr 32 :: wr portOut o.outAddr (4 * o.k * o.nA) :: wr portOut o.out2Addr (4 * o.nA) ::
        tab [rd portT t (4 * o.nT)]
    | 0x94 => match o.sub with
      | 0 => a 4 :: wr portOut o.outAddr (4 * o.k * o.nA) :: wr portOut o.out2Addr (4 * o.nA) :: tab [rd portT t (4 * o.nT)]
      | 1 => wr portOut o.outAddr (4 * o.nT) :: wr portOut o.out2Addr (4 * (o.nT + 1)) :: both portSlot o.auxAddr (4 * o.nT) ++ tab [rd portT t (4 * o.nT)]
      | _ => rd portT o.bAddr (o.row * o.nT) :: both portSlot o.outAddr (o.row * o.nT) ++ tab [rd portT t (4 * o.nT)]
    | _ => []
  main ++ tok

/-- Field-memory ranges of a DMA move: chip-wide addresses, through either DMA port of their field (R174, R180, R200). -/
def dmaTouches (o : DmaOpnd) : List Touch :=
  let one (a stride : Nat) (w : Bool) : Touch := ⟨a / 2 ^ 23 % 16, [0x15, 0x16], a % 2 ^ 23, spanBytes stride o.len o.rows, w⟩
  (if o.srcKind == .fieldMem then [one o.src o.srcStride false] else []) ++
  (if o.dstKind == .fieldMem then [one o.dst o.dstStride true] else [])

/-- Field-memory ranges of a move; ranges of no bytes are left out. -/
def touches (l : MList) (m : Move) : List Touch :=
  (match moveOp l m with
   | .arr o => arrTouches l m o
   | .vec o => vecTouches ((m.target - 0x500) % 32) m.opcode o
   | .dma o => dmaTouches o
   | .set o => setTouches ((m.target - 0x500) % 32) m.opcode o
   | _ => []).filter fun t => t.len != 0

/-- Two ranges of one field meet. -/
def touchMeet (x y : Touch) : Bool := x.field == y.field && decide (x.addr < y.addr + y.len ∧ y.addr < x.addr + x.len)

/-! ## Times from the start of a move (R159, R162, R167, R545) -/

/-- Bytes of an input row for `k` reduction elements, with its scales. -/
def inRowBytes (o : ArrOpnd) (k : Nat) : Nat := elemBytes o.inFmt k + (if fmtMx o.inFmt then (k + 31) / 32 else 0)

/-- Port cycles of a drain: a_out. -/
def drainCycles (o : ArrOpnd) : Nat :=
  (o.m * (elemBytes o.outFmt 16) + 31) / 32 + (if fmtMx o.outFmt then (o.m + 63) / 64 else 0)

/-- L_t: port cycles of a tile's load, 0 for a `keep` move that finds its tiles (`cold`: one that loads; R157, R159). -/
def loadCycles (op : Nat) (o : ArrOpnd) (d : Nat) (cold : Bool) : Nat :=
  if o.keep && op != 0x12 && !cold then 0 else (tileWhole o.wFmt d + 31) / 32

/-- L_t + S of an MM or MMT, and of a TLOAD its n × L_t: when the engine accepts its next move. -/
def arrayBusy (l : MList) (m : Move) (o : ArrOpnd) (cold : Bool) : Nat :=
  let (gr, _, _) := listGrid l m.target
  match m.opcode, pairOf o.inFmt o.wFmt with
  | 0x13, _ => 0
  | _, none => 0
  | op, some (_, d, b) =>
    let nt := tileCount op o gr d
    let lt := loadCycles op o d cold
    let ain := (o.m * inRowBytes o d + 31) / 32
    if op = 0x12 then nt * lt else lt + (nt - 1) * max (o.m * b) (ain + lt) + max (o.m * b) ain

/-- Completion of an array move, from its start, before what R154 and an earlier drain add to a drain. -/
def arrayDone (l : MList) (m : Move) (o : ArrOpnd) (cold : Bool) : Nat :=
  let (gr, _, _) := listGrid l m.target
  let busy := arrayBusy l m o cold
  match m.opcode with
  | 0x12 => busy + 6
  | 0x13 => 2 * (gr - 1) + 4 + drainCycles o
  | _ => if o.drain then busy + 28 + 2 * (gr - 1) + drainCycles o else busy + 24

/-- Depth, compute interval, and read passes of a vector opcode (Tables 06-7 and 06-8). -/
def vecShape (op : Nat) : Nat × Nat × Nat :=
  match op with
  | 0x2C => (8, 1, 1) | 0x30 => (14, 2, 1) | 0x31 => (12, 1, 1) | 0x32 => (8, 1, 1) | 0x33 => (8, 1, 1) | 0x34 => (10, 1, 1)
  | 0x35 => (10, 1, 1) | 0x36 => (12, 1, 1) | 0x37 => (12, 1, 1) | 0x38 => (14, 1, 1) | 0x39 => (12, 1, 1) | 0x3A => (14, 1, 1)
  | 0x3B => (14, 1, 1) | 0x48 => (8, 1, 3) | 0x49 => (8, 1, 2) | 0x4A => (10, 1, 3) | 0x50 => (16, 1, 1) | _ => (4, 1, 1)

/-- Accesses for one vector of 64 elements, in 1/512 (R167). -/
def vecShare (f : Fmt) : Nat := 16 * fmtBits f + (if fmtMx f then 4 else 0)

/-- Accesses of a vector move per vector, in 1/512: every operand read and every result written; VTRN by blocks, and the vectors γ and β
once for each row (R167, R170, Table 06-8). -/
def vecAccesses (op : Nat) (o : VecOpnd) : Nat :=
  let passes := (vecShape op).2.2
  if op = 0x2C then o.n * 4 * (vecShare o.aFmt + vecShare o.outFmt)
  else
    let reads := passes * vecShare o.aFmt + (if vecBinary.contains op || op == 0x23 then vecShare o.bFmt else 0) +
      (if op == 0x23 then vecShare o.cFmt else 0) + (if op == 0x50 then 3 * vecShare .fp32 else 0) +
      (if op == 0x48 then vecShare o.bFmt + vecShare o.cFmt else 0) + (if op == 0x49 then vecShare o.bFmt else 0) +
      (if op == 0x2B then 16 else 0)
    let writes := if op == 0x2A then 16
      else if op == 0x50 then 3 * vecShare .fp32 + (if o.outEn then vecShare o.outFmt else 0)
      else if decide (0x40 ≤ op ∧ op < 0x48) then 0 else vecShare o.outFmt
    let rows := if decide (0x40 ≤ op ∧ op < 0x48) then
        (rowCount o * vecShare o.outFmt + 63) / 64
      else 0
    o.n * (reads + writes) + rows

/-- Completion of a vector move, from its start (R167, Table 06-8). -/
def vecDone (op : Nat) (o : VecOpnd) : Nat :=
  let (d, c, passes) := vecShape op
  let extra := if op < 0x40 ∨ op = 0x50 then 0 else if op < 0x48 then 24 else passes * 24 + 8 * rowCount o
  7 + d + max (o.n * c) ((vecAccesses op o + 511) / 512) + extra

/-- Planned completion of a DMA move: a DRAM read by its planning latency, a DRAM write by its port beats; no figure is planned for a
transfer between fields, to a link, or from or to the host (R188, R212, R544). -/
def dmaDone (l : MList) (o : DmaOpnd) : Nat :=
  let beats := (o.len * o.rows + 63) / 64
  if o.srcKind == .dram then (if o.dstKind == .fieldMem then l.dramPlan + beats else 0) else if o.dstKind == .dram && o.srcKind == .fieldMem then beats else 0

/-- When a move's engine accepts the next one, from the move's start (R155, R159, R545, R269). -/
def moveBusy (l : MList) (m : Move) (cold : Bool) : Nat :=
  if m.opcode = 0x14 then 1
  else match moveOp l m with
  | .arr o => arrayBusy l m o cold
  | .vec o => vecDone m.opcode o
  | .set o => o.budgetAc
  | .dma _ => 1
  | _ => 0

/-- When a move completes, from its start. -/
def moveDone (l : MList) (m : Move) (cold : Bool) : Nat :=
  if m.opcode = 0x14 then 1
  else match moveOp l m with
  | .arr o => arrayDone l m o cold
  | .vec o => vecDone m.opcode o
  | .set o => o.budgetAc
  | .dma o => dmaDone l o
  | _ => 0

/-- The half that a move of an array names; TLOAD names none (R155, Table 06-4). -/
def moveHalf (l : MList) (m : Move) : Option Bool :=
  if m.opcode = 0x12 then none else some (if m.opcode = 0x14 then bitN m.imm.toNat 0 else bitN (blockOf l m).toNat 441)

/-- Two moves name the same half. -/
def sameHalf (l : MList) (m n : Move) : Bool := (moveHalf l m).isSome && moveHalf l m == moveHalf l n

/-- A move runs the output stage at its end. -/
def moveDrains (l : MList) (m : Move) : Bool := match moveOp l m with | .arr o => runsOutput m.opcode o | _ => false

/-! ## The array port (R154, R155) -/

/-- One tile's stream at the port of an array, from its first cycle: `n` cycles, of which true are accesses. An input read goes first, when 32
of the 64 staging bytes are free, then a tile read; the cells take a row of `rb` bytes at the start of its beat of `b` ac, once it has been
read (R154, Table 06-1; where a row leaves the buffer is log 89). `got`: bytes read, `used`: rows taken, `wait`: cycles left of a beat. -/
def tileStream (b rb total rows : Nat) : Nat → Nat → Nat → Nat → Nat → List Bool
  | 0, _, _, _, _ => []
  | n + 1, tiles, got, used, wait =>
    let take := wait == 0 && decide (used < rows) && decide ((used + 1) * rb ≤ got)
    let used := if take then used + 1 else used
    let wait := (if take then b else wait) - 1
    if got < total ∧ got ≤ used * rb + 32 then true :: tileStream b rb total rows n tiles (got + 32) used wait
    else if 0 < tiles then true :: tileStream b rb total rows n (tiles - 1) got used wait
    else false :: tileStream b rb total rows n 0 got used wait

/-- What a move does at the port of one array: the load of its first tile, then every tile but the last, and the last. -/
structure PortUse where
  load : Nat := 0
  reps : Nat := 0
  tile : List Bool := []
  last : List Bool := []

/-- The port is taken in a cycle, counted from the move's start. -/
def PortUse.busy (u : PortUse) (c : Nat) : Bool :=
  if c < u.load then true
  else
    let d := c - u.load
    let k := u.tile.length
    if d < u.reps * k then nth u.tile (d % k) false else nth u.last (d - u.reps * k) false

/-- The array reads the input rows: the lowest-numbered one of its grid row in its field (R161). -/
def readsInput (l : MList) (t a : Nat) : Bool :=
  let (_, gc, as) := listGrid l t
  let i := as.idxOf a / gc
  (List.range gc).all fun j => let b := nth as (i * gc + j) 0; fieldOf b != fieldOf a || decide (a ≤ b)

/-- What a move does at an array's port while it streams (R154, R159, R161, R545). -/
def portUse (l : MList) (m : Move) (cold : Bool) (a : Nat) : PortUse :=
  match moveOp l m with
  | .arr o =>
    let (gr, _, _) := listGrid l m.target
    match m.opcode, pairOf o.inFmt o.wFmt with
    | 0x13, _ => {}
    | _, none => {}
    | 0x12, some (_, d, _) => { load := tileCount 0x12 o gr d * loadCycles 0x12 o d cold }
    | op, some (_, d, b) =>
      let lt := loadCycles op o d cold
      let rb := inRowBytes o d
      let ain := (o.m * rb + 31) / 32
      let total := if readsInput l m.target a then 32 * ain else 0
      { load := lt
        reps := tileCount op o gr d - 1
        tile := tileStream b rb total o.m (max (o.m * b) (ain + lt)) lt 0 0 0
        last := tileStream b rb total o.m (max (o.m * b) ain) 0 0 0 0 }
  | _ => {}

/-- The ac after the n-th write of a drain that may write from `t` on, in cycles that no read takes (R154). -/
def writeEnd (busy : Nat → Bool) : Nat → Nat → Nat → Nat
  | 0, t, _ => t
  | _ + 1, t, 0 => t
  | fuel + 1, t, n + 1 => if busy t then writeEnd busy fuel (t + 1) (n + 1) else writeEnd busy fuel (t + 1) n

/-- A drain as it runs: its move's key, the offset of its first write, when its last row has passed into the output stage, its end. -/
structure DrainTime where
  key : Nat
  first : Nat
  passed : Nat
  done : Nat
  deriving DecidableEq, Repr

/-- Port cycles in which the last row of a drain is written (log 55). -/
def lastRowCycles (o : ArrOpnd) : Nat := max 1 ((elemBytes o.outFmt 16 + 31) / 32)

/-- The drains of array moves of one tick, in the order of their starts. A drain writes from the time of Table 06-5 on, behind the one before
it on its arrays (R155), in the port cycles that the streams leave (R154); on a unit it ends with its last column. Its last row passes into the
output stage 4 ac before its first write (R155, Table 06-1). The second value is where each array's last drain ends. -/
def drainTimes (l : MList) (rs : List ArrRun) : List DrainTime × Tab Nat :=
  let horizon := (rs.map fun r => r.start + moveBusy l r.mv r.cold).foldl max 0
  rs.foldl (fun (out, ends) r =>
    match moveOp l r.mv with
    | .arr o =>
      if !runsOutput r.mv.opcode o then (out, ends)
      else
        let (gr, gc, as) := listGrid l r.mv.target
        let n := drainCycles o
        let from_ := (as.map fun a => tabGet 0 ends a).foldl max (r.start + (arrayDone l r.mv o r.cold - n))
        let cols := (List.range gc).map fun j =>
          let a := nth as ((gr - 1) * gc + j) 0
          let uses := (rs.filter fun q => (engineKeys l q.mv.target).contains a).map fun q => (q.start, portUse l q.mv q.cold a)
          let busy (t : Nat) : Bool := uses.any fun u => decide (u.1 ≤ t) && u.2.busy (t - u.1)
          let fuel := n + (horizon - from_)
          (writeEnd busy fuel from_ (n - (lastRowCycles o - 1)) - 5, writeEnd busy fuel from_ n)
        let done := (cols.map Prod.snd).foldl max from_
        (out ++ [⟨r.key, from_, (cols.map Prod.fst).foldl max 0, done⟩], as.foldl (fun t a => tabSet t a done) ends)
    | _ => (out, ends)) ([], [])

/-- A drain of a tick by its move's key. -/
def drainOf (l : MList) (rs : List ArrRun) (key : Nat) : Option DrainTime := (drainTimes l rs).1.find? fun d => d.key == key

end Sys2Proof.Machine
end

