-- ==== Sys2Proof/Machine/Training.lean ====
section
/-! DEFINITION. What the watch learns and where it stands in memory (chapter 11): the items of the watch map's areas, the scales, an optimiser
step, the candidate snapshot and its evaluation (R286, R306 to R312). -/

namespace Sys2Proof.Machine

/-! ## What is learned (R286, R289 to R291) -/

/-- Change what is learned. -/
def setLearned (f : Learned → Learned) (s : State) : State := setWatch (fun w => { w with learned := f w.learned }) s

/-- The live area, the other one, and a change of either. -/
def liveArea (l : Learned) : Area := if l.liveY then l.areaY else l.areaX
def otherArea (l : Learned) : Area := if l.liveY then l.areaX else l.areaY
def setLive (f : Area → Area) (l : Learned) : Learned := if l.liveY then { l with areaY := f l.areaY } else { l with areaX := f l.areaX }
def setOther (f : Area → Area) (l : Learned) : Learned := if l.liveY then { l with areaX := f l.areaX } else { l with areaY := f l.areaY }

/-- A regime, and a change of it. -/
def regOfWatch (s : State) (g : Nat) : Regime := tabGet {} s.watch.learned.regimes g
def setReg (g : Nat) (f : Regime → Regime) (s : State) : State :=
  setLearned (fun l => { l with regimes := tabSet l.regimes g (f (tabGet {} l.regimes g)) }) s

/-! ## Condition reports (R319, R320, Table 11-10) -/

/-- `regime_st`: 4 bits a regime. -/
def regimeStates (s : State) : Nat :=
  pack ((List.range 16).map fun g =>
    let st := (regOfWatch s g).st
    (4 * g, 4, if s.watch.run = 2 ∧ st = 3 then 4 else st))

/-- Frame scores of the groups 3 to 0 and the aggregate, from a lowest bit: aggregate first. -/
def fScoreBits (s : State) (lo : Nat) : List (Nat × Nat × Nat) :=
  (List.range 5).map fun i => (lo + 32 * i, 32, (nth s.watch.fLast i nan32).toNat)

/-- The features by falling mean p_i, ties by lower index, and their means (R320). -/
def topFeatures (s : State) : List (Nat × F32) :=
  let w := s.watch
  let means := (w.pCntLast.filter fun e => e.2 != 0).map fun e => (e.1, f32div (tabGet 0 w.pSumLast e.1) (f32ofInt e.2))
  let insertTop (xs : List (Nat × F32)) (m : Nat × F32) : List (Nat × F32) :=
    (xs.takeWhile fun x => f32le m.2 x.2) ++ m :: xs.dropWhile fun x => f32le m.2 x.2
  (means.foldl insertTop []).take 8

/-- Code of a cause (Table 11-10). -/
def causeCode : CondCause → Nat
  | .level => 1 | .fadeStart => 2 | .fadeEnd => 3 | .rollback => 4 | .regimeState => 5 | .freezeThaw => 6 | .stopped => 7

/-- A condition report's body (Table 11-10), formed at its event: `prev` and `sev` are the `model_id` and the severity before it, `chg` the
regimes that changed state. The first frame under the new condition is the one that runs (R319). -/
def conditionBody (k : CondCause) (prev : Nat) (sev : BitVec 8) (chg : BitVec 16) (s : State) : List Byte :=
  let w := s.watch
  let tops := topFeatures s
  let entries := (List.range 8).map fun i =>
    match tops[i]? with
    | some (f, m) => (384 + 32 * i, 32, f + (f32to16 m).toNat * 2 ^ 16)
    | none => (384 + 32 * i, 32, 0xFFFF0000)
  leBytes 128 (pack (entries ++ fScoreBits s 192 ++ [(0, 64, (s.tick.no - BitVec.ofNat 64 s.tick.inFrame).toNat), (64, 32, s.tick.frame.toNat),
    (96, 8, s.links.ident.chipId), (104, 8, causeCode k), (112, 8, w.severity.toNat), (120, 8, sev.toNat), (128, 32, w.learned.modelId),
    (160, 32, prev), (352, 16, chg.toNat), (640, 64, regimeStates s)]))

/-- An event asks for a condition report (R319). -/
def oweEvent (k : CondCause) (prev : Nat) (sev : BitVec 8) (chg : BitVec 16) (s : State) : State :=
  setWatch (fun w => { w with conds := w.conds ++ [{ cause := k, body := conditionBody k prev sev chg s }] }) s

/-- An event that changes neither the live model nor the severity nor a regime's state asks for its report. -/
def oweReport (k : CondCause) (s : State) : State := oweEvent k s.watch.learned.modelId s.watch.severity 0 s

/-! ## The areas of the watch map (R286)

An area holds items: a model area (roles 0 and 1) residual variance 256 × regime + feature, then from 4,096 on the narrow tensors and from
8,192 on their scales; the candidate (role 2) the master weights, the two moments and the narrow copy of tensor j as items 4j to 4j + 3, and
from 4,096 on the scales of R309; the normalisation (role 3) μ and ρ as items 2 × (256 × regime + feature) and the next; the scalar block
(role 5) j, K, the live area and then the state of each regime. The manual gives no layout: `Config.rolePlace` places each item, and its
form here, four bytes for a number and little-endian, is the model's (log 43). -/

/-- Field, address and bytes of a role's area. -/
def roleArea (im : WImage) (i : Nat) : Nat × Nat × Nat := nth im.map i (0, 0, 0)

/-- The firmware and the jobs write items into a role's area by DMA (R55, R286); an item that does not fit has no place in it. -/
def roleWrite (i : Nat) (items : List (Nat × List Byte)) (s : State) : State :=
  match s.watch.image with
  | none => s
  | some im =>
    let (f, a, n) := roleArea im i
    fwWrite f (items.filterMap fun e =>
      let o := Config.rolePlace im.digest i e.1
      if o + e.2.length ≤ n then some (a + o, e.2) else none) s

/-- The firmware reads an item of a role's area; the reads of its DMA are taken together at the event that asks for them (R55; log 43). -/
def roleItem (im : WImage) (i k n : Nat) (s : State) : List Byte × State :=
  let (f, a, _) := roleArea im i
  fwRead f (a + Config.rolePlace im.digest i k) n s

/-- A number as an item. -/
def itemWord (x : W32) : List Byte := leBytes 4 x.toNat

/-- The role of the live area and of the other one. -/
def liveRole (l : Learned) : Nat := if l.liveY then 1 else 0
def otherRole (l : Learned) : Nat := if l.liveY then 0 else 1

/-- The residual variances of a regime stand in both model areas (R286, R291, R304). -/
def writeVars (g : Nat) (s : State) : State :=
  match s.watch.image with
  | none => s
  | some im =>
    let items (a : Area) : List (Nat × List Byte) :=
      (List.range im.nFeat).map fun i => (256 * g + i, itemWord (tabGet one32 a.rv (256 * g + i)))
    roleWrite 1 (items s.watch.learned.areaY) (roleWrite 0 (items s.watch.learned.areaX) s)

/-- The normalisation of a regime stands in its area (R286, R291, R295). -/
def writeNorm (g : Nat) (s : State) : State :=
  match s.watch.image with
  | none => s
  | some im =>
    let r := regOfWatch s g
    roleWrite 3 ((List.range im.nFeat).flatMap fun i =>
      [(2 * (256 * g + i), itemWord (tabGet 0 r.mu i)), (2 * (256 * g + i) + 1, itemWord (tabGet 0 r.rho i))]) s

/-- The scalar block: the fade position and length, the live area, and the state of each regime as the records report it (R286, R297). -/
def writeScalars (s : State) : State :=
  match s.watch.image with
  | none => s
  | some im =>
    let (j, k) := match s.watch.fade with | some f => (f.j, f.len) | none => (0, 0)
    let st (g : Nat) : Nat := let x := (regOfWatch s g).st; if s.watch.run = 2 ∧ x = 3 then 4 else x
    roleWrite 5 ([(0, leBytes 4 j), (1, leBytes 4 k), (2, leBytes 4 (b2n s.watch.learned.liveY))] ++
      (List.range im.nReg).map fun g => (3 + g, leBytes 4 (st g))) s

/-! ## Models (R287, R312, R313, R316) -/

/-- A scale σ = 2^k as FP32. -/
def scaleWord (k : Int) : W32 := enc32 (fpScale k fpOne)

/-- The initial weights and scales of the image are written into a model area (R316). -/
def writeInitial (role : Nat) (im : WImage) (s : State) : State :=
  roleWrite role ((List.range im.tens.length).flatMap fun j =>
    let t := nth im.tens j {}
    [(4096 + j, t.init), (8192 + j, itemWord (scaleWord t.scaleExp))]) s

/-- Indices of the trained tensors in the image's table. -/
def trainedOf (im : WImage) : List Nat := (List.range im.tens.length).filter fun j => (nth im.tens j {}).trained

/-- Master weights of a tensor as the exact widening of narrow values, each divided by its scale, which is exact too, and moments of 0 (R309,
R313, R316). -/
def masterItems (j : Nat) (t : TensDef) (codes : List Byte) (sigma : W32) : List (Nat × List Byte) :=
  [(4 * j, (List.range t.count).flatMap fun i => itemWord (f32div (enc32 (decElem t.fmt (codeOf t.fmt codes i))) sigma)),
   (4 * j + 1, zeros (4 * t.count)), (4 * j + 2, zeros (4 * t.count))]

/-- The candidate starts from the live model: the master weights are the exact widening of its narrow values, and moments and t are 0
(R313). -/
def reseedCandidate (s : State) : State :=
  match s.watch.image with
  | none => s
  | some im =>
    let role := liveRole s.watch.learned
    let one (acc : List (Nat × List Byte) × State) (j : Nat) : List (Nat × List Byte) × State :=
      let t := nth im.tens j {}
      let (codes, s1) := roleItem im role (4096 + j) (elemBytes t.fmt t.count) acc.2
      let (sigma, s2) := roleItem im role (8192 + j) 4 s1
      (acc.1 ++ masterItems j t codes (BitVec.ofNat 32 (leNat sigma)), s2)
    let (items, s1) := (trainedOf im).foldl one ([], s)
    setWatch (fun w => { w with learned := { w.learned with t := 0 }, evalT := 0 }) (roleWrite 2 items s1)

/-- The candidate starts from the image's initial weights (R316). -/
def seedCandidate (im : WImage) (s : State) : State :=
  roleWrite 2 ((trainedOf im).flatMap fun j =>
    let t := nth im.tens j {}
    masterItems j t t.init (scaleWord t.scaleExp) ++ [(4 * j + 3, t.init)]) s

/-! ## The optimiser step (R307 to R309) -/

/-- floor(log2(M / a)), with M = 448 or 57,344 = 7 × 2^(e − 2) (R309). -/
def scaleExpOf (e : Int) (a : F32) : Int :=
  match dec32 a with
  | .fin _ m q =>
    let k := e - (q + Nat.log2 m)
    if fpLe (fpScale k (.fin false m q)) (.fin false 7 (e - 2)) then k else k - 1
  | _ => -64

/-- The scale of a tensor after a step: kept when its largest amax of 16 steps is 0 (R309), and also, where R309 is silent, while one of
them is NaN or an infinity (log 43). -/
def newScale (e : Int) (margin : Nat) (win : List F32) (old : Int) : Int :=
  let a := win.foldl f32max 0
  if !f32finite a ∨ dec32 a == .fin false 0 (-149) ∨ a = 0 then old else max (-64) (min 64 (scaleExpOf e a - margin))

/-- Records of a job in a schedule. -/
def jobMoves (k : Sched) (j : Nat) : List Move :=
  let (first, count) := nth k.jsteps j (0, 0)
  (List.range count).map fun i => nth k.steps (first + i) {}

/-- Where a move leaves its amax word: field and address (R146, R164). -/
def amaxPlace (l : MList) (m : Move) : Option (Nat × Nat) :=
  match moveOp l m with
  | .arr o =>
    let (gr, gc, as) := listGrid l m.target
    if o.amaxEn && runsOutput m.opcode o then some (fieldOf (nth as ((gr - 1) * gc) 0), o.amaxAddr) else none
  | .vec o => if o.amaxEn && m.opcode != 0x2A then some ((m.target - 0x500) % 32, o.amaxAddr) else none
  | _ => none

/-- A 32-bit word as the firmware reads it. -/
def fwWord (f a : Nat) (s : State) : W32 × State := let r := fwRead f a 4 s; (BitVec.ofNat 32 (leNat r.1), r.2)

/-- What the moves of a run of the training job have left in field memory: the largest amax of each narrow tensor, by `Config.tensorOf`, the
elements that VADAM left unchanged of each trained tensor, and of all (R146, R171, R309). -/
structure StepFound where
  amax : Tab F32 := []
  left : Tab Nat := []
  total : Nat := 0

/-- One move's words are read. -/
def findMove (im : WImage) (l : MList) (acc : StepFound × State) (m : Move) : StepFound × State :=
  let (r, s) := acc
  let ten := Config.tensorOf im.digest m.moveId
  let (r1, s1) := match amaxPlace l m, ten with
    | some (f, a), some i => let x := fwWord f a s; ({ r with amax := tabSet r.amax i (amaxJoin (tabGet 0 r.amax i) x.1) }, x.2)
    | _, _ => (r, s)
  match m.opcode, moveOp l m with
  | 0x50, .vec o =>
    let x := fwWord ((m.target - 0x500) % 32) o.maskAddr s1
    let n := x.1.toNat
    ({ r1 with
      left := match ten with | some i => tabSet r1.left i (tabGet 0 r1.left i + n) | none => r1.left
      total := r1.total + n }, x.2)
  | _, _ => (r1, s1)

/-- What a run of the training job has left. -/
def stepFound (im : WImage) (j : Nat) (s : State) : StepFound × State :=
  match s.seq.active, runSched s with
  | some l, some k => (jobMoves k j).foldl (findMove im l) ({}, s)
  | _, _ => ({}, s)

/-- The scales after a step: M_f is 57,344 for a gradient and 448 for weights and activations; the scale of a tensor's gradient is halved
when an amax of that tensor or its gradient is NaN, or when its VADAM left elements out (R308, R309; log 43). -/
def stepScales (r : StepFound) (w : Watch) : Watch :=
  let one (x : Watch) (i : Nat) : Watch :=
    let grad := decide (64 ≤ i ∧ i < 128)
    let win := (tabGet 0 r.amax i :: tabGet [] x.amax i).take 16
    let old := tabGet 0 x.sigma i
    let bad := f32isNan (tabGet 0 r.amax i) || f32isNan (tabGet 0 r.amax (i - 64)) || tabGet 0 r.left (i - 64) != 0
    let new := if grad && bad then max (-64) (old - 1) else newScale (if grad then 15 else 8) w.params.scMargin win old
    { x with amax := tabSet x.amax i win, sigma := tabSet x.sigma i new }
  ((r.amax.map Prod.fst ++ r.left.map fun e : Nat × Nat => 64 + e.1).eraseDups).foldl one w

/-- The scales stand with the candidate (R286, R318). -/
def writeScales (s : State) : State :=
  roleWrite 2 (s.watch.sigma.map fun e => (4096 + e.1, itemWord (scaleWord e.2))) s

/-- An optimiser step has ended: the scales follow what its moves left, and the elements that VADAM left unchanged count in `skip_elem`
(R309). -/
def stepEnded (im : WImage) (j : Nat) (s : State) : State :=
  if s.watch.stepUse.isNone then s
  else
    let (r, s1) := stepFound im j s
    writeScales (setWatch (fun w => { stepScales r w with
      stepUse := none
      skipElem := BitVec.ofNat 32 (min (2 ^ 32 - 1) (w.skipElem.toNat + r.total)) }) s1)

/-- The scalars that the firmware writes for each VADAM of the training job: β1, β2, ε, lr, λ, and c1 and c2 for step t, at scalars 1 to 7 of
the move's block (R171, R307; the rounding of c1 and c2 is the firmware's, log 43). -/
def writeAdam (t f addr : Nat) (s : State) : State :=
  let p := s.watch.params
  let c (b : F32) : W32 := Config.adamCorr b t
  fwWrite f [(addr + 4, [p.beta1, p.beta2, p.eps, p.lr, p.wdecay, c p.beta1, c p.beta2].flatMap itemWord)] s

/-- A run of the training job reaches VADAM: t rises by one, and the samples that the step took at its start are used, once a run (R306,
R307). -/
def vadamReached (job run : Nat) (s : State) : State :=
  if s.watch.run = 0 ∨ s.watch.stepRun = some (job, run) then s
  else setWatch (fun w => { w with
    stepRun := some (job, run)
    learned := { w.learned with t := w.learned.t + 1 }
    samples := w.samples.filter fun n => !(w.stepUse.getD []).contains n }) s

/-! ## The log, the snapshot and its evaluation (R305, R310 to R312) -/

/-- Bytes of a watch-log row (R305). -/
def rowBytes (im : WImage) : Nat := roundUp (8 + 4 + 32 + 4 * im.nFeat + 4 * im.nFeat + 4 * im.nCtl) 64

/-- Rows that the log holds (R305). -/
def logRows (s : State) (im : WImage) : Nat := im.logFrames * s.tick.frameLen

/-- The candidate snapshot follows the log in DRAM (R310). -/
def snapBase (s : State) (im : WImage) : Nat := im.logBase + logRows s im * rowBytes im

/-- The evaluation job writes the snapshot by DMA: the candidate's narrow copy and scales, and the fixed tensors as the live model carries
them (R310). Which byte of which area each of its bytes is, `Config.snapshotFrom` says; the manual gives no layout (log 43). -/
def takeSnapshot (im : WImage) (s : State) : State :=
  let part (live : Bool) (role : Nat) (t : State) : State :=
    let (f, a, _) := roleArea im role
    fwCopy f .fieldMem .dram ((List.range im.snapLen).filterMap fun k =>
      let (l, o) := Config.snapshotFrom im.digest k
      if l == live then some (chipAddr f (a + o), snapBase s im + k) else none) t
  part true (liveRole s.watch.learned) (part false 2 s)

/-- The snapshot is copied into the area that is not live by DMA; a byte of the area that the snapshot does not hold keeps its value (R312). -/
def copySnapshot (im : WImage) (s : State) : State :=
  let (f, a, n) := roleArea im (otherRole s.watch.learned)
  fwCopy f .dram .fieldMem ((List.range n).filterMap fun o =>
    match Config.snapshotInto im.digest o with
    | some k => if k < im.snapLen then some (snapBase s im + k, chipAddr f (a + o)) else none
    | none => none) s

/-- A copy of the snapshot is still under way: its writes into the area that is not live, or the writes of the snapshot itself (R310, R312). -/
def copyUnderWay (s : State) (im : WImage) : Bool :=
  let (f, a, n) := roleArea im (otherRole s.watch.learned)
  fwPending s .dram .fieldMem (chipAddr f a) n
def snapRuns (s : State) (im : WImage) : Bool := fwPending s .fieldMem .dram (snapBase s im) im.snapLen

/-! ### Losses (R307, R310) -/

/-- Address of a row of the log (R305). -/
def rowAddrOf (s : State) (im : WImage) (num : Nat) : Nat := im.logBase + rowBytes im * (num % max 1 (logRows s im))

/-- e_i of a logged sample of regime g for the snapshot or, without `snap`, the live model: its feature as the log holds it, normalised, less
the model's prediction, a free value as the network is the image's (R296, R310; log 47). -/
def heldErr (s : State) (im : WImage) (snap : Bool) (r : Nat × Nat) (i : Nat) : F32 :=
  let x : F32 := BitVec.ofNat 32 (leNat (dramBytes s (rowAddrOf s im r.1 + 44 + 4 * i) 4))
  let g := regOfWatch s r.2
  f32sub (f32mul (f32sub x (tabGet 0 g.mu i)) (tabGet 0 g.rho i)) (Config.evalPredict s.free snap r.1 i)

/-- Loss of a sample: Σ w_i × e_i² / Σ w_i, in FP32 in ascending feature order; a sample has no excluded feature (R302, R307; log 43). -/
def sampleLoss (s : State) (im : WImage) (snap : Bool) (r : Nat × Nat) : F32 :=
  let w (i : Nat) : Nat := (nth im.feats i {}).weight
  f32div ((List.range im.nFeat).foldl (fun a i => let e := heldErr s im snap r i; f32add a (f32mul (f32ofInt (w i)) (f32mul e e))) 0)
    (f32ofInt ((List.range im.nFeat).foldl (fun a i => a + w i) 0 : Nat))

/-- Mean of a value over samples, in FP32 in row order; NaN over none (log 43). -/
def heldMean (rows : List (Nat × Nat)) (v : Nat × Nat → F32) : F32 := f32div (rows.foldl (fun a r => f32add a (v r)) 0) (f32ofInt rows.length)

/-- a ≤ (1 + k / 1,000) × b in exact arithmetic; false for a NaN (R311). -/
def withinMille (a b : F32) (k : Int) : Bool :=
  fpLe (fpMul (.fin false 1000 0) (dec32 a)) (fpMul (fpOfInt (1000 + k) 0) (dec32 b))

/-- Held-back samples in the log of one regime (R310). -/
def heldOf (w : Watch) (g : Nat) : List (Nat × Nat) := w.heldRows.filter fun e => e.2 == g

/-- The snapshot passes, over the held-back samples in the log: `loss` gives the mean loss of the snapshot, or of the live model, over samples
(R310, R311). -/
def evalPasses (loss : Bool → List (Nat × Nat) → F32) (w : Watch) : Bool :=
  withinMille (loss true w.heldRows) (loss false w.heldRows) (-(w.params.promoMargin : Int)) && decide (w.params.promoMin ≤ w.heldRows.length) &&
    (List.range 16).all fun g => let rs := heldOf w g
      decide (rs.length < 1000) || withinMille (loss true rs) (loss false rs) w.params.regimeTol

/-- The evaluation has ended: its losses are kept with the number of samples that they are taken over, and a snapshot that passes is to be
promoted, unless a fade is in progress or the watch is frozen (R310, R311). The variances that a promotion gives are those of its predictions
(R312). -/
def evalEnded (im : WImage) (s : State) : State :=
  if !s.watch.evalOn then s
  else
    let loss (snap : Bool) (rows : List (Nat × Nat)) : F32 := heldMean rows (sampleLoss s im snap)
    let rows := s.watch.heldRows
    let big := (List.range 16).filter fun g => decide (1000 ≤ (heldOf s.watch g).length)
    let sq (i : Nat) (r : Nat × Nat) : F32 := let e := heldErr s im true r i; f32mul e e
    draw (setWatch (fun w => { w with
      evalOn := false
      lCand := loss true rows
      lLive := loss false rows
      evalN := rows.length
      evalBig := BitVec.ofNat 16 (listMask big)
      evalVars := big.flatMap fun g => (List.range im.nFeat).map fun i => (256 * g + i, heldMean (heldOf w g) (sq i))
      promote := evalPasses loss w && w.run == 1 && w.fade.isNone })
      (rows.foldl (fun t r => dramScan (rowAddrOf s im r.1) (rowBytes im) t) s))

/-- A run of job `j` of a class of the watch has ended. -/
def watchJobEnded (jclass j : Nat) (s : State) : State :=
  match s.watch.image with
  | none => s
  | some im => if jclass = im.jcTrain then stepEnded im j s else if jclass = im.jcEval then evalEnded im s else s

end Sys2Proof.Machine
end

