-- ==== Sys2Proof/Machine/Sequencer.lean ====
section
/-! DEFINITION. The tick sequencer (chapter 08): slots and bank owners, the issue, start and completion of moves with their lateness,
jobs and steps, and what the next tick edge cancels. -/

namespace Sys2Proof.Machine

/-! ## Records, engines, operands -/

/-- The record that a reference names in the schedule in force. -/
def moveOf (k : Sched) : MoveRef → Option Move
  | .tickProg i => k.tick[i]?
  | .stepArea i => k.steps[i]?

/-- Slip of a target: the largest of its engines' (R23, R52). -/
def slipOf (s : State) (l : MList) (t : Nat) : Nat := ((engineKeys l t).map fun e => tabGet 0 s.seq.slip e).foldl max 0

/-- A move is part of the tick program of this tick (R202). -/
def selected (s : State) (m : Move) : Bool := s.tick.inFrame % 2 ^ m.every == m.phase

/-- Opcodes whose own rows give their signal or need none from MOVE_COMPLETE: DMA, SIGNAL, BARRIER, STEP, set moves. -/
def ownSignal (op : Nat) : Bool := op == 0x60 || op == 0x70 || op == 0x71 || op == 0x7F || decide (0x80 ≤ op ∧ op < 0xA0)

/-- Stream of a move that rounds stochastically. A move that names mode 2 takes a count also where it runs no output
stage, on which R148 is silent (DESIGN CHOICE, log 88). -/
def streamUsed (l : MList) (m : Move) : Option Nat :=
  let b := (blockOf l m).toNat
  if 0x10 ≤ m.opcode ∧ m.opcode ≤ 0x50 ∧ m.opcode ≠ 0x14 ∧ bitsN b 469 468 = 2 then some (bitsN b 479 470) else none

/-! ## Jobs and steps (R204 to R206) -/

/-- Step-area indices of a job's STEP records (R204). -/
def stepStarts (k : Sched) (j : Nat) : List Nat :=
  let (first, count) := nth k.jsteps j (0, 0)
  (List.range count).filterMap fun i => if (nth k.steps (first + i) {}).opcode = 0x7F then some (first + i) else none

/-- Step-area indices of the moves of a job's n-th step. -/
def stepMoves (k : Sched) (j n : Nat) : List Nat :=
  let (first, count) := nth k.jsteps j (0, 0)
  let ss := stepStarts k j
  match ss[n]? with
  | none => []
  | some a =>
    let b := match ss[n + 1]? with | some x => x | none => first + count
    (List.range (b - (a + 1))).map fun i => a + 1 + i

/-- The window of a job's n-th step (Table 08-5). -/
def stepWindow (k : Sched) (j n : Nat) : Option Nat :=
  match (stepStarts k j)[n]? with
  | none => none
  | some a => some ((nth k.steps a {}).imm.toNat % 256)

/-- The job whose current, issued step holds a step-area record. -/
def jobOfStep (s : State) (k : Sched) (i : Nat) : Option Nat :=
  (List.range k.jsteps.length).find? fun j =>
    let x := jobOf s j
    x.running && x.busy && (stepMoves k j x.cursor).contains i

/-- The jobs of a class in the running list. -/
def jobsOfClass (s : State) (jc : Nat) : List Nat :=
  match s.seq.active with
  | none => []
  | some l => (List.range l.jobs.length).filter fun j => (nth l.jobs j {}).jclass == jc

/-- A window is suppressed while the tier in force is absent and a denser one runs in its place (R217). -/
def suppressed (s : State) (k : Sched) (job : JobDef) : Bool :=
  decide (k.tier < s.seq.tierRun) && (decide (2 ≤ s.seq.tierRun) || !job.isFrame)

/-- The job's step is complete when each of its moves has been issued and none is outstanding: the cursor moves on, and the job ends after
its last step (R206). -/
def stepDone (j : Nat) (s : State) : State :=
  match runSched s with
  | none => s
  | some k =>
    let x := jobOf s j
    let ms := stepMoves k j x.cursor
    if x.running && x.busy && ms.all fun i => s.seq.issued.contains (.stepArea i) && !s.seq.flying.any fun m => m.ref == .stepArea i then
      let next := x.cursor + 1
      let more := decide (next < (stepStarts k j).length)
      let s1 := setJob j (fun y => { y with busy := false, cursor := if more then next else 0, running := more })
        (setSeq (fun q => { q with
          issued := q.issued.filter fun r => match r with | .stepArea i => !ms.contains i | .tickProg _ => true
          keptC := q.keptC.filter fun e => !ms.contains e.1 }) s)
      match more, s.seq.active with
      | false, some l => watchJobEnded (nth l.jobs j {}).jclass j s1
      | _, _ => s1
    else s

/-- STEP: at the start of a window the job's current step is issued, when it belongs to the window (R206), once in each
occurrence of the window; the step-scoped objects that it uses start a new epoch (R207). -/
def stepIssue (w at_ : Nat) (s : State) : State :=
  match s.seq.active, runSched s with
  | some l, some k =>
    match k.wins[w]? with
    | none => s
    | some win =>
      let j := win.job
      let x := jobOf s j
      let d := nth l.jobs j {}
      if x.running && !x.busy && stepWindow k j x.cursor == some w && !s.seq.stopped.getLsbD d.jclass && !suppressed s k d &&
          decide (at_ = win.start) && !s.seq.ranWins.contains w then
        let ms := (stepMoves k j x.cursor).map fun i => nth k.steps i {}
        let objs := ((ms.flatMap fun m => (if m.waitEn then [m.waitObj] else []) ++ (if m.sigN ≠ 0 then [m.sigObj] else [])).eraseDups).filter
          fun o => match syncDef l o with | some e => e.scope == .step | none => false
        let s1 := setSeq (fun q => { q with ranWins := q.ranWins ++ [w] }) (setJob j (fun y => { y with busy := true }) s)
        -- a step with no moves is complete at once
        stepDone j (objs.foldl (fun t o => resetSync o t) s1)
      else s
  | _, _ => s

/-! ## Bank owners (R178, R201, R23) -/

/-- Planned start of a record in this tick: its offset, from T0 or from its window (R202, R204). -/
def plannedStart (s : State) (k : Sched) (r : MoveRef) (m : Move) : Option Nat :=
  match r with
  | .tickProg _ => if selected s m then some m.offset else none
  | .stepArea i =>
    match jobOfStep s k i with
    | none => none
    | some j =>
      match stepWindow k j (jobOf s j).cursor with
      | none => none
      | some w => match k.wins[w]? with | none => none | some win => some (win.start + m.offset)

/-- A record that the sequencer does not issue: its target is fenced, or its class stopped (R53, R215). -/
def barred (s : State) (l : MList) (m : Move) : Bool := targetFenced s l m.target || s.seq.stopped.getLsbD m.jclass

/-- Records of the running schedule that are due in this tick and not issued, with their planned starts (R202, R206). -/
def unissued (s : State) (l : MList) (k : Sched) : List (Move × Nat) :=
  let refs := (List.range k.tick.length).map MoveRef.tickProg ++ (List.range k.steps.length).map MoveRef.stepArea
  refs.filterMap fun r => match moveOf k r with
    | none => none
    | some m => if m.opcode = 0x7F ∨ s.seq.issued.contains r ∨ barred s l m then none else (plannedStart s k r m).map fun p => (m, p)

/-- A move's uses of banks, for a planned start and a lateness. -/
def usesOf (l : MList) (m : Move) (planned slip : Nat) : List LateUse :=
  (touches l m).map fun u => ⟨32 * u.field + bankOf u.addr, u.ports, m.cls, planned, slip⟩

/-- Uses of banks by late moves at an offset: of those that started late, and of those whose planned start has passed without a start, issued
or still waiting for a queue place (R23, R202). -/
def lateUses (s : State) (t : Nat) : List LateUse :=
  match s.seq.active, runSched s with
  | some l, some k =>
    let waiting := ((s.seq.flying.filter fun m => m.started.isNone).map fun m => (m.mv, m.planned)) ++ unissued s l k
    s.seq.late ++ (waiting.filter fun w => decide (w.2 < t)).flatMap fun w => usesOf l w.1 w.2 (t - w.2)
  | _, _ => []

/-- How long the scheduled changes of a bank's owner are held back at an offset: by the largest lateness of a move that uses it. A late move
ends by its planned end and its lateness, so that it keeps the bank until it completes (R23; which lateness counts is DESIGN CHOICE, log 88). -/
def bankSlip (uses : List LateUse) (b : Nat) : Nat := ((uses.filter fun u => u.bank == b).map fun u => u.slip).foldl max 0

/-- Owner of a bank at an offset: that of the slot at this offset less the delay of the bank's hand-overs (R23, R178). -/
def ownerAt (k : Sched) (uses : List LateUse) (t b : Nat) : Nat := slotOwner (nth k.slots (slotAt k (t - bankSlip uses b)) {}) (b / 32) (b % 32)

/-- The owners at an offset are in force. -/
def applyOwners (t : Nat) (s : State) : State :=
  match runSched s with
  | none => s
  | some k =>
    let uses := lateUses s t
    let new := (List.range 512).map fun i => (i, ownerAt k uses t i)
    setSeq (fun q => { q with owner := new.filter fun e => e.2 != 0x1F }) s

/-- SLOT_START: slot k opens at its offset (R178, R201). -/
def slotStart (n : Nat) (s : State) : State :=
  match runSched s with
  | none => s
  | some k =>
    match k.slots[n]? with
    | none => s
    | some d => if n = 0 ∨ s.seq.slot < n then applyOwners d.start (setSeq (fun q => { q with slot := n }) s) else s

def execSlotStart (k : Nat) (s : State) : Result := .next (slotStart k s)

/-! ## Issue (R53, R148, R202, R206) -/

/-- Two targets share an engine (R50, R52). -/
def shareEngine (l : MList) (t u : Nat) : Bool := (engineKeys l t).any (engineKeys l u).contains

/-- Issued moves that wait to start on an engine of a target: the most that one of its engines holds (R60, R202). -/
def waitingOn (s : State) (l : MList) (t : Nat) : Nat :=
  ((engineKeys l t).map fun e =>
    (s.seq.flying.filter fun m => m.started.isNone && (engineKeys l m.engine).contains e).length).foldl max 0

/-- A record of one of the same engines that stands earlier and is still to be issued (R202). -/
def earlierLeft (s : State) (l : MList) (k : Sched) (r : MoveRef) (m : Move) : Bool :=
  let left (r' : MoveRef) (m' : Move) : Bool :=
    shareEngine l m'.target m.target && decide (m'.offset < m.offset) && !s.seq.issued.contains r' && !barred s l m'
  match r with
  | .tickProg _ => (List.range k.tick.length).any fun i => let m' := nth k.tick i {}; selected s m' && left (.tickProg i) m'
  | .stepArea i =>
    match jobOfStep s k i with
    | none => false
    | some j => (stepMoves k j (jobOf s j).cursor).any fun i' => left (.stepArea i') (nth k.steps i' {})

/-- The stream count that an issue takes, and the counters after it: a reissued frame or gap move keeps the count of its first issue. One that
had completed before its step was cancelled, and is issued again with the whole step, takes a new
one, on which R148 is silent (DESIGN CHOICE, log 88). -/
def takeStream (l : MList) (r : MoveRef) (m : Move) (s : State) : BitVec 48 × State :=
  match streamUsed l m with
  | none => (0, s)
  | some st =>
    let kept := match r with | .stepArea i => tabFind s.seq.keptC i | .tickProg _ => none
    match kept with
    | some c => (c, s)
    | none =>
      let c := tabGet 0 s.seq.streams st
      (c, setSeq (fun q => { q with streams := tabSet q.streams st (c + 1) }) s)

/-- A started move still holds an engine at an offset: it streams (R155). -/
def holdsEngine (l : MList) (t : Nat) (n : Flying) : Bool :=
  match n.started with
  | none => false
  | some st => decide (t < st + moveBusy l n.mv n.cold)

/-- A drain on one of a move's arrays still has rows of the half that the move names (R155). -/
def halfDrains (s : State) (l : MList) (t : Nat) (m : Move) : Bool :=
  decide (m.target < 0x500) && s.seq.arrRuns.any fun r => moveDrains l r.mv && shareEngine l r.mv.target m.target && sameHalf l r.mv m &&
    (match drainOf l s.seq.arrRuns r.key with | some d => decide (t < d.passed) | none => false)

/-- A bank that a move uses is handed over late: an earlier move of another port that uses it is late, and this one becomes late by as much
(R23). -/
def bankKept (s : State) (l : MList) (t : Nat) (m : Flying) : Bool :=
  let uses := lateUses s t
  (touches l m.mv).any fun u => uses.any fun v =>
    v.bank == 32 * u.field + bankOf u.addr && decide (v.planned < m.planned) && !v.ports.any u.ports.contains && decide (t < m.planned + v.slip)

/-- What stands in the way of a start: polders that are not UP, a BARRIER, an earlier move of the engine that has not started or still holds
it, a drain of the half that it names, a bank whose hand-over is held back, an unmet wait (R23, R155, R209, R210, R475). A DMA move is not held by a bank: each of its accesses
waits for its cycle (R180). -/
def startBlocked (s : State) (l : MList) (t : Nat) (m : Flying) : Bool :=
  let keys := engineKeys l m.engine
  let polders := if m.engine < 0x500 then keys
    else if m.engine < 0x560 then [pEngine ((m.engine - 0x500) % 32)]
    else if 0x580 ≤ m.engine ∧ m.engine < 0x584 then [pLink (m.engine - 0x580)] else []
  polders.any (fun p => !polderUp s p) || keys.any (fun e => tabHas s.seq.barriers e) || tabHas s.seq.barriers m.engine ||
    (s.seq.flying.any fun n => decide (n.key < m.key) && (engineKeys l n.engine).any keys.contains &&
      (n.started.isNone || (decide (m.engine < 0x560) && holdsEngine l t n))) || halfDrains s l t m.mv ||
    (decide (m.mv.opcode ≠ 0x60) && bankKept s l t m) || (m.mv.waitEn && decide ((syncOf s m.mv.waitObj).count < m.mv.waitTgt))

/-- A `keep` move whose tile registers are not all valid loads its tiles (R157). -/
def startsCold (s : State) (l : MList) (m : Flying) : Bool :=
  match moveOp l m.mv with
  | .arr o => (m.mv.opcode == 0x10 || m.mv.opcode == 0x11) && o.keep && (unitArrays l m.engine).any fun a => !(arrOf s a).trValid
  | _ => false

/-- A vector move is an in-place one that a cancelled run of the same move left half done (R172). -/
def resumes (s : State) (m : Flying) : Bool := decide (0x500 ≤ m.engine ∧ m.engine < 0x520) && tabHas s.seq.resume m.mv.moveId

/-- A VADAM move of the watch's training job starts: its run has reached VADAM (R307). -/
def noteVadam (m : Flying) (s : State) : State :=
  match s.watch.image, m.job with
  | some im, some j => if m.mv.opcode = 0x50 ∧ m.mv.jclass = im.jcTrain then vadamReached j (jobOf s j).run.toNat s else s
  | _, _ => s

/-- A move starts at an offset: the slip of its engines grows to its lateness, and a late one delays the hand-overs of its banks (R23); an
array's port serves it (R154). -/
def startAt (t : Nat) (l : MList) (m : Flying) (s : State) : State :=
  let late := t - m.planned
  let cold := startsCold s l m
  noteVadam m (setSeq (fun q => { q with
    flying := q.flying.map fun n => if n.key = m.key then { n with started := some t, cold := cold, resumed := resumes s m } else n
    arrRuns := if m.engine < 0x500 then q.arrRuns ++ [⟨m.key, m.mv, cold, t⟩] else q.arrRuns
    late := if late = 0 then q.late else q.late ++ usesOf l m.mv m.planned late
    slip := (engineKeys l m.engine).foldl (fun a e => if late ≤ tabGet 0 a e then a else tabSet a e late) q.slip }) s)

/-- MOVE_ISSUE: a record is issued at its offset, once in a tick or step, unless its target is fenced or its engine has 16 moves that wait;
it starts at once where nothing holds it (R53, R202, R209). -/
def moveIssue (r : MoveRef) (t : Nat) (s : State) : State :=
  match s.seq.active, runSched s with
  | some l, some k =>
    match moveOf k r with
    | none => s
    | some m =>
      match plannedStart s k r m with
      | none => s
      | some p =>
        if m.opcode = 0x7F ∨ s.seq.issued.contains r ∨ targetFenced s l m.target ∨ t < p ∨ 16 ≤ waitingOn s l m.target ∨
            earlierLeft s l k r m ∨ s.seq.stopped.getLsbD m.jclass then s
        else
          let (c, s1) := takeStream l r m s
          let job := match r with | .stepArea i => jobOfStep s k i | .tickProg _ => none
          let fl : Flying :=
            { key := s1.seq.nextKey, ref := r, mv := m, engine := m.target, planned := p, started := none
              epoch := (syncOf s1 m.sigObj).epoch, streamC := c, job := job }
          let s2 := setSeq (fun q => { q with
            flying := q.flying ++ [fl], nextKey := q.nextKey + 1, issued := q.issued ++ [r] }) s1
          if startBlocked s2 l t fl || decide (t < p + slipOf s2 l m.target) then s2 else startAt t l fl s2
  | _, _ => s

def execMoveIssue (r : MoveRef) (at_ : Nat) (s : State) : Result := .next (moveIssue r at_ s)

/-! ## Start and completion (R23, R208, R209) -/

/-- An issued move. -/
def flyingOf (s : State) (key : Nat) : Option Flying := s.seq.flying.find? fun m => m.key == key

/-- A move that has waited starts at an offset, when nothing holds it any more. -/
def startWaiting (needWait : Bool) (key t : Nat) (s : State) : State :=
  match s.seq.active, flyingOf s key with
  | some l, some m =>
    if m.started.isSome || (needWait && !m.mv.waitEn) || startBlocked s l t m || decide (t < m.planned + slipOf s l m.engine) then s
    else startAt t l m s
  | _, _ => s

/-- SYNC_WAIT_SATISFIED: a sync-timed move starts in the first ac in which its object is at the target (R209). -/
def execSyncWaitSatisfied (key at_ : Nat) (s : State) : Result := .next (startWaiting true key at_ s)

/-- MOVE_DELAYED_START: a move that its engine, a polder or a bank held back starts (R23, R475). -/
def execMoveDelayedStart (key at_ : Nat) (s : State) : Result := .next (startWaiting false key at_ s)

/-- A DMA or set move has still to make accesses, or to be acknowledged by the first hop (R208, R269, R392); a set move that ended with
elements remaining stays outstanding until it is cancelled (R273). -/
def stillWorks (s : State) (m : Flying) : Bool :=
  let f := (m.engine - 0x500) % 32
  if m.mv.opcode = 0x60 then
    (s.fm.xfers.any fun x => !x.gather && !received x && x.field == f && x.mid == m.mv.moveId) ||
      (s.fm.descQueue.any fun q => !q.gather && q.field == f && q.x.mid == m.mv.moveId) || s.links.sent.any fun e => e.2.2 == 65536 * f + m.mv.moveId
  else if 0x80 ≤ m.mv.opcode ∧ m.mv.opcode < 0xA0 then
    m.unfinished || (match tabFind s.fm.setEnds f with | some e => e.mid == m.mv.moveId | none => false) ||
      (tabGet [] s.fm.gatherEnds f).any fun e => e.mid == m.mv.moveId
  else false

/-- CONTROL_BLOCK_ACCEPT: the block read into the landing area is accepted when its stamps match, and otherwise counted as torn; a new
stamp starts its age (R289). What the read counts is counted here, and the comparison of a poisoned
block is a free choice. -/
def acceptControl (s : State) : State :=
  match s.watch.image with
  | none => s
  | some im =>
    let (f, a, _) := nth im.map 6 (0, 0, 0)
    let (b, s1) := fwRead f a 256 s
    let stampA := BitVec.ofNat 64 (iw b 0 8)
    let stampB := BitVec.ofNat 64 (iw b 248 8)
    let ok := if fmPoisonOf s f a 256 = 0 then stampA == stampB else Config.freeBool s.free a
    if ok then
      setWatch (fun w => { w with
        ctlOk := true
        ctlAge := if w.ctlStamp = some stampA then w.ctlAge else 0
        ctlStamp := some stampA
        ctlRegime := iw b 8 1
        ctlVals := (List.range 56).map fun i => BitVec.ofNat 32 (iw b (16 + 4 * i) 4) }) s1
    else setWatch (fun w => { w with ctlTorn := if w.ctlTorn = 0xFFFFFFFF then w.ctlTorn else w.ctlTorn + 1 }) s1

/-- A completed move is the read of the control block: a tick-critical DMA of the tick program from `ctl_addr` into the landing area
(R288). -/
def readsControl (s : State) (l : MList) (m : Flying) : Bool :=
  match s.watch.image, m.ref with
  | some im, .tickProg _ =>
    let (f, a, _) := nth im.map 6 (0, 0, 0)
    m.mv.opcode == 0x60 && m.mv.cls == .tickCritical &&
      (match parseDma (blockOf l m.mv) 0 0 with
       | some o => o.srcKind == .dram && o.src == im.ctlAddr && o.dstKind == .fieldMem && o.dst == chipAddr f a
       | none => false)
  | _, _ => false

/-- A move that started at `st` can complete at an offset. An array or vector move completes at the time of its formula, a drain later by the
port cycles that following moves take from it and behind an earlier drain (R154, R155, R159, R167, R545). A vector move that resumes has less
to do, and no rule says how much less: any time up to its formula (R172; log 78). Others have their own ends. -/
def mayComplete (s : State) (l : MList) (m : Flying) (st t : Nat) : Bool :=
  let full := st + moveDone l m.mv m.cold
  if m.engine < 0x500 then
    match drainOf l s.seq.arrRuns m.key with
    | some d => decide (t = d.done)
    | none => decide (t = full)
  else if m.engine < 0x520 then (if m.resumed then decide (st < t ∧ t ≤ full) else decide (t = full))
  else true

/-- MOVE_COMPLETE: the move leaves its engine, signals with its epoch, and frees the banks that it kept; its job's step may be done
(R23, R206, R208). -/
def moveComplete (key t : Nat) (s : State) : State :=
  match s.seq.active, flyingOf s key with
  | some l, some m =>
    match m.started with
    | none => s
    | some st =>
      if !mayComplete s l m st t || stillWorks s m then s
      else
        let s1 := setSeq (fun q => { q with
          flying := q.flying.filter fun n => n.key != key
          resume := if m.mv.opcode < 0x60 then tabDel q.resume m.mv.moveId else q.resume }) s
        let s2 := if ownSignal m.mv.opcode then s1 else addSignal m.mv.sigObj m.mv.sigN m.epoch s1
        let s3 := if m.mv.cls == .tickCritical then
            setTick (fun k => { k with tcLast := some (match k.tcLast with | some u => max u t | none => t) }) s2
          else s2
        let s4 := if readsControl s l m then acceptControl s3 else s3
        let s5 := applyOwners t s4
        match m.job with | some j => stepDone j s5 | none => s5
  | _, _ => s

def execMoveComplete (key at_ : Nat) (s : State) : Result := .next (moveComplete key at_ s)

/-! ## The edge (R24, R148, R157, R158, R172) -/

/-- What the cancelling of one outstanding move leaves: an array's tiles and the half it was using are invalid (R157, R158); an in-place
vector move has written some of what was left, how much is a free value, and keeps where it stands (R172; log 78); a frame or gap move keeps
its stream count (R148), and a move of the tick program, which is not reissued, keeps nothing (R24). -/
def cancelMove (l : MList) (s : State) (m : Flying) : State :=
  let s1 :=
    if m.engine < 0x500 then
      let half := if m.mv.opcode = 0x14 then bitN m.mv.imm.toNat 0 else bitN (blockOf l m.mv).toNat 441
      let usesHalf := m.mv.opcode == 0x10 || m.mv.opcode == 0x11 || m.mv.opcode == 0x13 || m.mv.opcode == 0x14
      (unitArrays l m.engine).foldl (fun t a =>
        setArr a (fun x =>
          let y := { x with trValid := false }
          if m.started.isSome && usesHalf then setHalf half { (if half then y.h1 else y.h0) with valid := false } y else y) t) s
    else if m.engine < 0x520 ∧ m.started.isSome then
      match parseVec (blockOf l m.mv) with
      | some o =>
        -- an in-place move has written a free part of what was left
        let x : MoveCtx := { mid := m.mv.moveId, cls := .frame, jclass := m.mv.jclass, streamC := m.streamC, resid := [] }
        let lo := (wholeRun s m.mv.opcode o x).lo
        let left := vecUnits m.mv.opcode o - lo
        if left = 0 || !vecInPlace m.mv.opcode o then s
        else vecRun m.mv.opcode (m.engine - 0x500) o x
          { lo := lo, hi := lo + Config.freeNat s.free m.mv.moveId % (left + 1), fin := false } s
      | none => s
    else s
  match m.ref, streamUsed l m.mv with
  | .stepArea i, some _ => setSeq (fun q => { q with keptC := tabSet q.keptC i m.streamC }) s1
  | .tickProg _, _ => setSeq (fun q => { q with resume := tabDel q.resume m.mv.moveId }) s1
  | _, _ => s1

/-- CANCEL_OUTSTANDING_MOVES: every outstanding move of the ending tick is cancelled, steps are issued anew, and every engine starts with
zero slip (R24, R206). -/
def cancelOutstanding (s : State) : State :=
  match s.seq.active with
  | none => s
  | some l =>
    let s1 := s.seq.flying.foldl (cancelMove l) s
    setSeq (fun q => { q with
      flying := [], issued := [], slip := [], barriers := [], slot := 0, ranWins := [], arrRuns := [], late := []
      jobs := q.jobs.map fun e => (e.1, { e.2 with busy := false }) }) s1

end Sys2Proof.Machine
end

