-- ==== Sys2Proof/Machine/Nv.lean ====
section
/-! DEFINITION. The store's commands of group 0x06 (Tables 13-10 to 13-12), the end of a page program, the image store's end and the
operating minutes (Table 13-7). -/

namespace Sys2Proof.Machine

/-! ## Reads (R342, R362, Table 13-11) -/

/-- An address that reaches the volatile image (R362). -/
def inImage (s : State) (a : Nat) : Bool := s.nv.image && decide (0x30000 ≤ a ∧ a < 0x40000)

/-- A byte that NV_READ returns. -/
def nvReadByte (s : State) (a : Nat) : Byte := if inImage s a then memRead 0xFF#8 s.nv.img (a - 0x30000) else nvByte s a

/-- The first group of a range of the store proper, in the order of its addresses. -/
def nvGroups (s : State) (a n : Nat) : List Nat := (groupsOf a n).filter fun g => !inImage s (8 * g)

/-- NV_READ ends: the bytes go to host memory, and the completion carries the count of uncorrectable groups in [31:0] and the first
address in [63:32] (log 26). -/
def nvReadDone (c : Cmd) (host len a : Nat) (s : State) : State :=
  let gs := nvGroups s a len
  let bad := gs.filter fun g => nvGroup s g == 2
  let data := (List.range len).map fun i => nvReadByte s (a + i)
  completeOk 0x0601 c (pack [(0, 32, bad.length), (32, 32, 8 * nth bad 0 0)]) (hostWrite host data (gs.foldl nvCheckGroup s))

/-- NV_READ: waits for the pages of its range that are programming (R342). -/
def bodyNvRead (c : Cmd) (s : State) : State :=
  let host := fld c 127 64 0
  let len := fld c 44 32 0
  let a := fld c 18 0 0
  if len = 0 ∨ 4096 < len ∨ 0x80000 < a + len then fail 0x0601 c .badParam s
  else if nvReadWaits s a len then waitFor 0x0601 c (.nvRead host len a) s
  else nvReadDone c host len a s

def execNvRead (c : Cmd) (s : State) : Result := .next (deliver 0x0601 bodyNvRead c s)

/-! ## Writes (R340, R341, R345, R355, R362, R365) -/

/-- A page that NV_WRITE may program (Table 13-1, R345, R355). -/
def nvWritable (s : State) (page : Nat) : Bool :=
  if 1024 ≤ page then
    match s.nv.level with
    | 0 => true
    | 1 => decide (page < 0x700)
    | 2 => decide (page < 0x600)
    | _ => false
  else decide (768 ≤ page) && !s.nv.image

/-- The bytes of a native write: they wrap inside the page (R340). -/
def nvPageBytes (a : Nat) (bs : List Byte) : List (Nat × Byte) :=
  (List.range bs.length).map fun i => (a / 256 * 256 + (a + i) % 256, nth bs i 0)

/-- A write to the volatile image (R362, R363). -/
def imgPut (bs : List (Nat × Byte)) (s : State) : State :=
  setNv (fun v => { v with img := bs.foldl (fun m b => memWrite 0xFF#8 m b.1 b.2) v.img, dirty := true }) s

/-- The number of the next write of the store. -/
def nvNext (s : State) : State := setNv (fun v => { v with nextSeq := v.nextSeq + 1 }) s

/-- NV_WRITE: an image write completes at once, or waits for a running store; a native write joins the page buffer. After a power
failure no program starts, and the write never completes (R368). -/
def bodyNvWrite (c : Cmd) (s : State) : State :=
  let host := fld c 127 64 0
  let len := fld c 44 32 0
  let a := fld c 18 0 0
  let seq := s.nv.nextSeq
  if len = 0 ∨ 256 < len then fail 0x0602 c .badParam s
  else if inImage s a then
    let bs := placed (a - 0x30000) (hostRead s host len)
    if 0x40000 < a + len then fail 0x0602 c .badParam s
    else if s.nv.storing.isSome then
      waitFor 0x0602 c (.nvWrite seq) (nvNext (setNv (fun v => { v with imgWaits := v.imgWaits ++ [(seq, bs)] }) s))
    else completeOk 0x0602 c 0 (imgPut bs s)
  else if !nvWritable s (a / 256) then fail 0x0602 c .protected_ s
  else
    let w : NvProg := { seq := seq, page := a / 256, bytes := nvPageBytes a (hostRead s host len) }
    let s1 := waitFor 0x0602 c (.nvWrite seq) (nvNext s)
    if s.nv.powerFail then s1 else nvPump 2048 (setNv (fun v => { v with queue := v.queue ++ [w] }) s1)

def execNvWrite (c : Cmd) (s : State) : Result := .next (deliver 0x0602 bodyNvWrite c s)

/-- NV_READs whose pages no longer program are served, in their order (R342). -/
def nvServeReads (s : State) : State :=
  (s.mbx.waits).foldl (fun t w =>
    match w.act with
    | .nvRead host len a =>
      if nvReadWaits t a len then t
      else nvReadDone w.cmd host len a (setMbx (fun m => { m with waits := m.waits.erase w }) t)
    | _ => t) s

/-! ## Counter writes (R359, R360) -/

/-- What NV_CTR carries: `value` in [39:0], `gen` in [55:40], void in [56] (log 26). -/
def ctrData (s : State) (n : Nat) : Nat :=
  match spreadCell s n with
  | some (_, v, g) => pack [(0, 40, v), (40, 16, g)]
  | none => 2 ^ 56

/-- The cells of a counter are read, which counts their wrong groups (R339). -/
def ctrScan (n : Nat) (s : State) : State := nvCheck (cellAddr n 0) 512 s

/-- A counter write ends: the command that waits for it completes with the last of its writes, or with the first that fails, which drops the
others. -/
def ctrEnd (op : CtrOp) (st : Status) (s : State) : State :=
  match op.wait with
  | none => s
  | some w =>
    if op.last || st != .ok then
      finish (· == .nvWrite w) st (if op.raise.isNone && st == .ok then ctrData s op.n else 0)
        (setNv (fun v => { v with ctrQ := v.ctrQ.filter fun x => x.wait != some w }) s)
    else s

/-- The program of the target cell is asked for (R359, step 2). -/
def ctrCell (x : CtrRun) (s : State) : State :=
  nvSubmit (256 + 2 * x.op.n + x.cell / 32) (placed (cellAddr x.op.n x.cell) (cellBytes x.value x.gen))
    (setNv (fun v => { v with ctrRun := some { x with progs := [v.nextSeq] } }) s)

/-- A rebuild begins: cells 1 to 63 are programmed with all ones (R359). -/
def ctrRebuild (op : CtrOp) (s : State) : State :=
  let ones (lo hi : Nat) : List (Nat × Byte) := placed (cellAddr op.n lo) (List.replicate (8 * (hi - lo)) 0xFF#8)
  nvSubmit (257 + 2 * op.n) (ones 32 64) (nvSubmit (256 + 2 * op.n) (ones 1 32)
    (setNv (fun v => { v with ctrRun := some { op := op, cell := 0, value := 1, gen := 0, progs := [v.nextSeq, v.nextSeq + 1], rebuild := true } }) s))

/-- `sec_ver` of the image of a type that is in force (R462): counters 0, 1 and 2. -/
def secVerInForce (s : State) : Nat → Option Nat
  | 0 => some s.trust.fwSecVer
  | 1 => s.seq.active.map fun l => l.secVer
  | _ => s.watch.image.map fun i => i.secVer

/-- The value that a counter write gives a counter that holds `v`: for a raise that of the image in force as it starts (R462, Table 17-8), or of
the one that was when it was asked for where none is any more. -/
def ctrNew (s : State) (op : CtrOp) (v : Nat) : Nat :=
  match op.raise with | some r => (secVerInForce s op.n).getD r | none => v + 1

/-- Counter writes that wait begin, one at a time; those that write nothing end at once (R359, R360). -/
def ctrGo : Nat → State → State
  | 0, s => s
  | fuel + 1, s =>
    if s.nv.powerFail || s.nv.ctrRun.isSome then s
    else match s.nv.ctrQ with
    | [] => s
    | op :: rest =>
      let s1 := ctrScan op.n (setNv (fun v => { v with ctrQ := rest }) s)
      match spreadCell s op.n with
      | some (i, v, g) =>
        let new := ctrNew s op v
        if op.raise.isSome && decide (new ≤ v) then ctrGo fuel (ctrEnd op .ok s1)
        else if 2 ^ 40 ≤ new then ctrGo fuel (ctrEnd op .refused s1)
        else ctrCell { op := op, cell := (i + 1) % 64, value := new, gen := (g + 1) % 65535 } s1
      | none =>
        if op.raise.isSome || decide (op.n ≤ 2) then ctrGo fuel (ctrEnd op .internal s1) else ctrRebuild op s1

/-- Every counter write that can begin begins. -/
def ctrGoAll (s : State) : State := ctrGo (s.nv.ctrQ.length + 1) s

/-- Counter writes are asked for. -/
def ctrAsk (ops : List CtrOp) (s : State) : State := ctrGoAll (setNv (fun v => { v with ctrQ := v.ctrQ ++ ops }) s)

/-- Counters whose write ends only with a read-back that passes: anti-rollback and user counters (R359). -/
def ctrVerified (n : Nat) : Bool := decide (n ≤ 2) || decide (8 ≤ n ∧ n ≤ 11)

/-- A program of the counter write that runs has ended: the rebuild's second part, the read-back, another attempt on the cell after it, or the
end (R359). -/
def ctrProgram (seq : Nat) (s : State) : State :=
  match s.nv.ctrRun with
  | none => s
  | some x =>
    if !x.progs.contains seq then s
    else
      let y := { x with progs := x.progs.erase seq }
      if !y.progs.isEmpty then setNv (fun v => { v with ctrRun := some y }) s
      else if y.rebuild then ctrCell { y with rebuild := false } s
      else
        let s1 := nvCheck (cellAddr y.op.n y.cell) 8 s
        let done (st : Status) : State := ctrGoAll (ctrEnd y.op st (setNv (fun v => { v with ctrRun := none }) s1))
        if !ctrVerified y.op.n || cellValid s y.op.n y.cell == some (y.value, y.gen) then done .ok
        else if y.tries < 2 then ctrCell { y with cell := (y.cell + 1) % 64, tries := y.tries + 1 } s1
        else done .internal

/-! ## Enrolment (R353) -/

/-- The program that an enrolment waits for has ended: the page's bytes are read back, at most three times, then the lock is programmed and read
back (R353). A lock that reads neither locked nor uncorrectable fails with INTERNAL (DEDUCED, log 73). -/
def enrolProgram (seq : Nat) (s : State) : State :=
  match s.nv.enrol with
  | none => s
  | some x =>
    if x.prog != seq then s
    else
      let submit (y : Enrol) (bs : List (Nat × Byte)) (t : State) : State :=
        nvSubmit 0 bs (setNv (fun v => { v with enrol := some { y with prog := v.nextSeq } }) t)
      let done (st : Status) (t : State) : State :=
        finish (· == .nvWrite x.wait) st 0 (setTrust (fun u => { u with enrolled := u.enrolled || st == .ok })
          (setNv (fun v => { v with enrol := none }) t))
      if x.lock then done (if ownerLocked s then .ok else .internal) (nvCheck 248 8 s)
      else
        let s1 := nvCheck 0 248 s
        if ownerCrcOk s then submit { x with lock := true } (placed 248 (leBytes 8 lockedValue)) s1
        else if x.tries < 2 then submit { x with tries := x.tries + 1 } (placed 0 x.bytes) s1
        else done .internal s1

/-! ## The end of a program (R340 to R342) -/

/-- Groups of a page that a program left uncorrectable. -/
def nvFaulty (page : Nat) (bad : List Nat) (s : State) : State :=
  setNv (fun v => { v with flips := bad.foldl (fun t g => tabSet t (32 * page + g % 32) 2) v.flips }) s

/-- NV_PROGRAM_END: a plane's program ends, with the groups of its page that failed. Its NV_WRITE completes, waiting reads go on, the next write
may begin its transfer, and a record, a counter or the owner page that the program belongs to goes on (R340 to R342, R348, R353, R359). After a
power failure nothing more begins (R368). -/
def nvProgramEnd (e : ProgEnd) (s : State) : State :=
  match tabFind s.nv.planes e.plane with
  | none => s
  | some w =>
    let s1 := setNv (fun v => { v with planes := tabDel v.planes e.plane }) s
    let s2 := nvFaulty w.page e.bad (nvWear 1 (nvPut w.bytes s1))
    let s3 := finish (· == .nvWrite w.seq) .ok 0 s2
    let s4 := nvServeReads (setNv (fun v => { v with recRun := v.recRun.map fun x => { x with left := x.left.erase w.seq } }) s3)
    if s.nv.powerFail then s4 else ctrGoAll (wearTick (enrolProgram w.seq (ctrProgram w.seq (nvPump 2048 s4))))

def execNvProgramEnd (e : ProgEnd) (s : State) : Result := .next (nvProgramEnd e s)

/-! ## Status and counters (R372, Table 13-12) -/

/-- Bit k of the absent map: the k-th record of Table 13-3 is absent. -/
def absentMap (s : State) : Nat := listMask ((List.range 31).filter fun k => !(tabGet {} s.nv.picks k).present)

/-- The NV_STATUS block (R372; log 26): its values in the order of the rule, in little-endian fields. -/
def nvStatusBlock (s : State) : List Byte :=
  [BitVec.ofNat 8 (nvBusy s),
   BitVec.ofNat 8 (b2n s.nv.image + 2 * b2n s.nv.autostore + 4 * b2n s.nv.dirty + 8 * b2n s.nv.torn),
   BitVec.ofNat 8 s.nv.level, BitVec.ofNat 8 (ownerPage s)] ++
  leBytes 4 (ctrGet s cNvCe).toNat ++ leBytes 4 (ctrGet s cNvUe).toNat ++
  leBytes 4 (ctrGet s cNvCeAddr).toNat ++ leBytes 4 (ctrGet s cNvUeAddr).toNat ++
  leBytes 4 (ctrGet s cNvTie).toNat ++ leBytes 4 (ctrGet s cNvTieId).toNat ++ leBytes 8 (absentMap s) ++
  leBytes 4 (ctrGet s cLogNvDrop).toNat

def bodyNvStatus (c : Cmd) (s : State) : State := respond 0x0603 c (nvStatusBlock s) 0 s

def execNvStatus (c : Cmd) (s : State) : Result := .next (deliver 0x0603 bodyNvStatus c s)

/-- A command whose program cannot start after a power failure waits without end (R368). -/
def nvHeld (op : Nat) (c : Cmd) (s : State) : State := waitFor op c (.nvWrite s.nv.nextSeq) (nvNext s)

/-- NV_CTR: a read completes at once, an increment when its cell has been read back (R359, R360, Table 13-12). -/
def bodyNvCtr (c : Cmd) (s : State) : State :=
  let n := fld c 3 0 0
  if !fldB c 4 false then completeOk 0x0604 c (ctrData s n) (ctrScan n s)
  else if n < 8 ∨ 11 < n then fail 0x0604 c .protected_ s
  else if s.nv.powerFail then nvHeld 0x0604 c s
  else ctrAsk [{ n := n, wait := some s.nv.nextSeq }] (nvHeld 0x0604 c s)

def execNvCtr (c : Cmd) (s : State) : Result := .next (deliver 0x0604 bodyNvCtr c s)

/-! ## Protection and modes (R355, R362, R367) -/

/-- Level, mode and `autostore` as the latest accepted change leaves them. -/
def storeNext (s : State) : Nat × Bool × Bool :=
  match (s.nv.recQ.filter fun e => e.1 == 29).getLast? with
  | some (_, b) => ((nth b 0 0).toNat % 4, (nth b 1 0).getLsbD 0, (nth b 1 0).getLsbD 1)
  | none => (s.nv.level, s.nv.image, s.nv.autostore)

/-- NV_PROTECT: the new level is in force, and the command completes, when its record is written (R355). -/
def bodyNvProtect (c : Cmd) (s : State) : State :=
  let (_, im, au) := storeNext s
  waitFor 0x0605 c (.recWrite .store) (recQueue 29 (storeBody (fld c 9 8 0) im au) s)

def execNvProtect (c : Cmd) (s : State) : Result := .next (deliver 0x0605 bodyNvProtect c s)

/-- NV_MODE: to native mode it first stores a dirty image; to image mode it recalls as its record has been written (R367). -/
def bodyNvMode (c : Cmd) (s : State) : State :=
  let im := fldB c 10 false
  let au := fldB c 11 true
  let (lv, _, _) := storeNext s
  if s.nv.storing.isSome then fail 0x0606 c .busy s
  else if !im && s.nv.image && s.nv.dirty then
    waitFor 0x0606 c (.nvMode im au) (setNv (fun v => { v with modeNext := some (im, au) }) (imgStoreStart false s))
  else waitFor 0x0606 c (.recWrite .store) (recQueue 29 (storeBody lv im au) s)

def execNvMode (c : Cmd) (s : State) : Result := .next (deliver 0x0606 bodyNvMode c s)

/-- NV_IMG_STORE: a clean image is stored only with `force` (R364). -/
def bodyNvImgStore (c : Cmd) (s : State) : State :=
  if s.nv.storing.isSome then fail 0x0607 c .busy s
  else if s.nv.dirty || fldB c 12 false then waitFor 0x0607 c .imgStore (imgStoreStart false s)
  else completeOk 0x0607 c 0 s

def execNvImgStore (c : Cmd) (s : State) : Result := .next (deliver 0x0607 bodyNvImgStore c s)

/-- NV_IMG_RECALL (R366, Table 13-10). -/
def bodyNvImgRecall (c : Cmd) (s : State) : State :=
  if s.nv.storing.isSome then fail 0x0608 c .busy s
  else if !s.nv.image then fail 0x0608 c .refused s
  else completeOk 0x0608 c 0 (imgRecall s)

def execNvImgRecall (c : Cmd) (s : State) : Result := .next (deliver 0x0608 bodyNvImgRecall c s)

/-- An NV_MODE that waited for the store goes on to its record write, with its command where the mailbox has not restarted since (R367,
R373). One whose store failed fails with it. -/
def modeGoes (ok : Bool) (s : State) : State :=
  let isMode (a : PendAct) : Bool := match a with | .nvMode _ _ => true | _ => false
  match s.nv.modeNext with
  | none => s
  | some (im, au) =>
    let s1 := setNv (fun v => { v with modeNext := none }) s
    if !ok then finish isMode .internal 0 s1
    else recQueue 29 (storeBody (storeNext s1).1 im au)
      (setMbx (fun m => { m with waits := m.waits.map fun w => if isMode w.act then { w with act := .recWrite .store } else w }) s1)

/-- IMAGE_STORE_END: native programs that ran have ended, and the pages and the seal are stored; commands that waited complete, waiting writes to
the image are made, and native writes and reads that waited for the planes go on (R341, R342, R364, R365). -/
def imageStoreEnd (s : State) : State :=
  match s.nv.storing with
  | none => s
  | some img =>
    if !s.nv.planes.isEmpty then s else
    let (ok, s0) := imgStoreDo img s
    let s1 := finish (· == .imgStore) (if ok then .ok else .internal) 0 s0
    let late := s1.nv.imgWaits
    let s2 := setNv (fun v => { v with imgWaits := [] }) s1
    let s3 := late.foldl (fun t w => finish (· == .nvWrite w.1) .ok 0 (imgPut w.2 t)) s2
    ctrGoAll (modeGoes ok (nvPump 2048 (nvServeReads s3)))

def execImageStoreEnd (s : State) : Result := .next (imageStoreEnd s)

/-- OPERATING_MINUTE: counter 4 is to rise for each minute in which the front-end die is powered (Table 13-7). -/
def operatingMinute (s : State) : State := if feAlive s && !s.nv.powerFail then ctrAsk [{ n := 4 }] s else s

def execOperatingMinute (s : State) : Result := .next (operatingMinute s)

end Sys2Proof.Machine
end

