-- ==== Sys2Proof/Machine/Trust.lean ====
section
/-! DEFINITION. The trust block (chapter 17): image signatures, measurements, enrolment, debug tokens, the commands of group 0x0A and
SPDM. -/

namespace Sys2Proof.Machine

/-! ## Image signatures (R460, R461) -/

/-- Image types of Table 17-5, which are also the number of their anti-rollback counter plus one (Table 13-7). -/
def typeFirmware : Nat := 1
def typeMoveList : Nat := 2
def typeWatch : Nat := 3

/-- The 320 bytes of the signature block at `sig_off`; bytes past the image read 0. -/
def sigBlock (img : List Byte) (sigOff : Nat) : List Byte := padTo 320 (img.drop sigOff)

/-- The digest that the signatures sign (R460). -/
def sigMessage (img : List Byte) (sigOff : Nat) : BitVec 384 :=
  Config.sha384 (img.take sigOff ++ (sigBlock img sigOff).take 16)

/-- The owner's checks, 2 and 3 of R461; a damaged owner page fails every one of them (R458). -/
def ownerChecks (s : State) (img : List Byte) (sigOff : Nat) : Bool :=
  let b := sigBlock img sigOff
  let key := (b.drop 16).take 97
  match s.trust.owner with
  | 0 => true
  | 1 =>
    bitsN (leNat (b.take 16)) 47 32 == 1 && Config.sha384 key == s.trust.keyHash &&
      leNat ((b.drop 12).take 4) == s.trust.ownerId.toNat &&
      Config.ecdsaVerify key (sigMessage img sigOff) ((b.drop 120).take 96)
  | _ => false

/-- Verification of an image (R461): none when it passes, else the status of the first check that fails. -/
def verifyImage (s : State) (ty secVer : Nat) (img : List Byte) (sigOff : Nat) : Option Status :=
  let b := sigBlock img sigOff
  let h := leNat (b.take 16)
  if bitsN h 31 0 ≠ 0x4B534742 ∨ bitsN h 63 48 ≠ ty ∨ bitsN h 95 64 ≠ secVer then some .imageReject
  else if !ownerChecks s img sigOff then some .signatureFail
  else if ty = typeFirmware ∧ !Config.ecdsaVerify Config.vendorKey (sigMessage img sigOff) ((b.drop 216).take 96) then some .signatureFail
  else if !rollbackOk s (ty - 1) secVer then some .rollback
  else none

/-- Verification that reaches check 5 reads the counter of the type, which counts its wrong groups (R339, R461). -/
def verifyScan (ty secVer : Nat) (img : List Byte) (sigOff : Nat) (s : State) : State :=
  match verifyImage s ty secVer img sigOff with
  | none => ctrScan (ty - 1) s
  | some .rollback => ctrScan (ty - 1) s
  | _ => s

/-- Digest of an image, bytes 0 to `sig_off` − 1 (Table 17-3). -/
def imageDigest (img : List Byte) (sigOff : Nat) : BitVec 384 := Config.sha384 (img.take sigOff)

/-! ## Measurements (Table 17-3) -/

/-- SHA-384 of the body of a record in force; an absent record has no body (log 36: an empty one is measured). -/
def recDigest (s : State) (k : Nat) : BitVec 384 := Config.sha384 ((recBody s k).getD [])

/-- Measurements 4 and 5: the active move list and the set-up watch image; zero when none. -/
def measList (s : State) : BitVec 384 := match s.seq.active with | some l => l.digest | none => 0
def measWatch (s : State) : BitVec 384 := match s.watch.image with | some i => i.digest | none => 0

/-- A digest as 48 bytes. -/
def digestBytes (d : BitVec 384) : List Byte := leBytes 48 d.toNat

/-- Measurement block i, as the bytes of its value. -/
def measurement (s : State) : Nat → List Byte
  | 1 => digestBytes Config.romDigest
  | 2 => digestBytes s.trust.fwDigest
  | 3 => (List.range 4).flatMap fun n => leBytes 8 (spreadVal s n)
  | 4 => digestBytes (measList s)
  | 5 => digestBytes (measWatch s)
  | 6 => digestBytes (recDigest s 25)
  | 7 => digestBytes (recDigest s 26)
  | 8 => leBytes 4 (ownerSt s) ++ leBytes 4 s.trust.ownerId.toNat ++ digestBytes s.trust.keyHash
  | 9 => leBytes 4 (b2n s.trust.debug)
  | _ => []

/-- `cfg_digest`: SHA-384 over measurements 4, 5, 6 and 7 (R468). -/
def cfgDigest (s : State) : BitVec 384 :=
  Config.sha384 (measurement s 4 ++ measurement s 5 ++ measurement s 6 ++ measurement s 7)

/-- `alias_id`: the first 8 bytes of SHA-384 of the Alias public key (Table 17-6). -/
def aliasId (s : State) : List Byte := (digestBytes (Config.sha384 (Config.publicKey s.trust.cdi1))).take 8

/-! ## Identity (R451, R453, R454) -/

/-- CDI_1 from the firmware digest, `sec_ver`, the owner's `key_hash` and the debug state (Table 17-1). -/
def cdi1Of (digest : BitVec 384) (secVer : Nat) (keyHash : BitVec 384) (debug : Bool) : BitVec 384 :=
  Config.kdf Config.cdi0 (Config.sha384 (digestBytes digest ++ leBytes 4 secVer ++ digestBytes keyHash ++ leBytes 1 (b2n debug)))

/-- The firmware's layer is formed: CDI_1 and with it the Alias key and certificate (R453). -/
def formAlias (digest : BitVec 384) (secVer : Nat) (s : State) : State :=
  setTrust (fun t => { t with
    fwDigest := digest
    fwSecVer := secVer
    cdi1 := cdi1Of digest secVer t.keyHash t.debug }) s

/-- The Alias certificate (R454). -/
def aliasCertOf (s : State) : List Byte :=
  Config.aliasCert s.trust.cdi1
    (digestBytes s.trust.fwDigest ++ leBytes 4 s.trust.fwSecVer ++ leBytes 1 (b2n (s.trust.owner == 0)) ++
      leBytes 1 (b2n s.trust.debug) ++ leBytes 4 s.trust.ownerId.toNat ++ digestBytes s.trust.keyHash ++ leBytes 8 (spreadVal s 3))

/-- The DER chain intermediate, DeviceID, Alias (Tables 17-2 and 17-7). -/
def certChain (s : State) : List Byte := Config.vendorChain ++ aliasCertOf s

/-- The chain of slot 0 in SPDM: the root hash, then the certificates (Table 17-2). -/
def slotChain (s : State) : List Byte := digestBytes Config.rootHash ++ certChain s

/-! ## The owner (R353, R458, R459) -/

/-- The owner state as a compute-die start reads it (R458). -/
def readOwner (s0 : State) : State :=
  let st := ownerPage s0
  let s := nvCheck 0 256 s0
  setTrust (fun t => { t with
    owner := st
    enrolled := false
    ownerId := if st = 1 then BitVec.ofNat 32 (leNat (nvBytes s 4 4)) else 0
    keyHash := if st = 1 then BitVec.ofNat 384 (leNat (nvBytes s 8 48)) else 0 }) s

/-- Bytes 0 to 247 of the owner page (Table 13-5, R353 step 1). -/
def ownerBytes (ownerId : Nat) (keyHash name : Nat) : List Byte :=
  let body := leBytes 4 1 ++ leBytes 4 ownerId ++ leBytes 48 keyHash ++ leBytes 64 name ++ zeros 124
  body ++ leBytes 4 (crc32c body).toNat

/-- TRUST_ENROL: the owner page's bytes are to be programmed, and the steps of R353 go on as its programs end (R353, R459); while another
enrolment runs it answers BUSY (DESIGN CHOICE, log 73). After a power failure no program starts. -/
def bodyTrustEnrol (c : Cmd) (s : State) : State :=
  let key := fld c 447 64 0
  if fld c 31 0 0 ≠ 0x454E524F ∨ key = 0 then fail 0x0A01 c .badParam s
  else if ownerLocked s then fail 0x0A01 c .locked s
  else if s.nv.enrol.isSome then fail 0x0A01 c .busy s
  else
    let w := s.nv.nextSeq
    let bs := ownerBytes (fld c 63 32 0) key (fld c 959 448 0)
    let s1 := waitFor 0x0A01 c (.nvWrite w) (setNv (fun v => { v with nextSeq := v.nextSeq + 1 }) s)
    if s.nv.powerFail then s1
    else nvSubmit 0 (placed 0 bs) (setNv (fun v => { v with enrol := some { bytes := bs, prog := v.nextSeq, wait := w } }) s1)

def execTrustEnrol (c : Cmd) (s : State) : Result := .next (deliver 0x0A01 bodyTrustEnrol c s)

/-! ## Certificates, status, anti-rollback (Table 17-7, R462) -/

/-- TRUST_CERTS: the chain goes to host memory; the completion carries its length (log 26). -/
def bodyTrustCerts (c : Cmd) (s : State) : State :=
  let bs := certChain s
  if fld c 47 32 0 < bs.length then fail 0x0A02 c .badLength s
  else completeOk 0x0A02 c bs.length (hostWrite (fld c 127 64 0) bs s)

/-- TRUST_STATUS: measurements 3, 8 and 9, `alias_id`, `sign_drop` and `cfg_digest` in that order (log 26). -/
def bodyTrustStatus (c : Cmd) (s : State) : State :=
  respond 0x0A03 c (measurement s 3 ++ measurement s 8 ++ measurement s 9 ++ aliasId s ++ leBytes 4 (ctrGet s cSignDrop).toNat ++
    digestBytes (cfgDigest s)) 0 s

/-- The raises of a list of counters in order, for a command that waits under a number. -/
def arbRaise (s : State) (w : Nat) : List Nat → List CtrOp
  | [] => []
  | n :: rest => { n := n, raise := some ((secVerInForce s n).getD 0), wait := some w, last := rest.isEmpty } :: arbRaise s w rest

/-- TRUST_ARB_RAISE: completes when the last raise has been read back (R359, R462). -/
def bodyTrustArbRaise (c : Cmd) (s : State) : State :=
  let ns := maskList 3 (fld c 2 0 0)
  if ns.any fun n => (secVerInForce s n).isNone then fail 0x0A04 c .notReady s
  else if ns.isEmpty then completeOk 0x0A04 c 0 s
  else
    let s1 := waitFor 0x0A04 c (.nvWrite s.nv.nextSeq) (setNv (fun v => { v with nextSeq := v.nextSeq + 1 }) s)
    if s.nv.powerFail then s1 else ctrAsk (arbRaise s s.nv.nextSeq ns) s1

def execTrustCerts (c : Cmd) (s : State) : Result := .next (deliver 0x0A02 bodyTrustCerts c s)
def execTrustStatus (c : Cmd) (s : State) : Result := .next (deliver 0x0A03 bodyTrustStatus c s)
def execTrustArbRaise (c : Cmd) (s : State) : Result := .next (deliver 0x0A04 bodyTrustArbRaise c s)

/-! ## Debug (R465, Table 17-10) -/

/-- The checks of a debug token, in the order of R465. -/
def tokenCheck (s : State) (tok : List Byte) : Option Status :=
  let key := (tok.drop 32).take 97
  let ownerId := leNat ((tok.drop 4).take 4)
  let rsv := (tok.drop 129).take 7 ++ (tok.drop 136).take 24
  if leNat (tok.take 4) ≠ 0x4B444254 ∨ rsv.any (· != 0) ∨ leNat ((tok.drop 8).take 8) ≠ spreadVal s 3 + 1 then some .badParam
  else if leNat ((tok.drop 16).take 16) ≠ s.part.serial.toNat then some .signatureFail
  else if !(match s.trust.owner with
      | 0 => Config.sha384 key == Config.debugKeyHash && ownerId == 0
      | 1 => Config.sha384 key == s.trust.keyHash && ownerId == s.trust.ownerId.toNat
      | _ => false) then some .signatureFail
  else if !Config.ecdsaVerify key (Config.sha384 (tok.take 160)) ((tok.drop 160).take 96) then some .signatureFail
  else none

/-- TRUST_DEBUG: the unlock applies at the next compute-die start (R465). -/
def bodyTrustDebug (c : Cmd) (s : State) : State :=
  if fld c 47 32 0 ≠ 256 then fail 0x0A05 c .badLength s
  else match tokenCheck s (hostRead s (fld c 127 64 0) 256) with
  | some st => fail 0x0A05 c st s
  | none => completeOk 0x0A05 c 0 (setTrust (fun t => { t with debugNext := true }) s)

def execTrustDebug (c : Cmd) (s : State) : Result := .next (deliver 0x0A05 bodyTrustDebug c s)

/-! ## SPDM (R455 to R457) -/

/-- The firmware has started and answers SPDM (Table 19-3, R457). -/
def spdmUp (s : State) : Bool :=
  match s.boot.stage with
  | .fwStart => true | .dram => true | .sync => true | .ready => true | _ => false

/-- An SPDM response is written; before the firmware has started, and in HALTED, it is ERROR with code Busy. In stage RESET the function
does not answer. -/
def spdmAnswer (r : State → SpdmResp) (s : State) : State :=
  if computeDown s then s
  else setTrust (fun t => { t with spdm := (if spdmUp s then r s else .busy) :: t.spdm }) s

/-- An Alias signature over bytes that the responder signs (R455); the nonce of the response is a free value. -/
def aliasSign (s : State) (bs : List Byte) : BitVec 768 := Config.ecdsaSign s.trust.cdi1 (Config.sha384 bs) s.free

def execGetVersion (s : State) : Result := .next (spdmAnswer (fun _ => .version) s)
def execGetCapabilities (s : State) : Result := .next (spdmAnswer (fun _ => .capabilities) s)

/-- NEGOTIATE_ALGORITHMS: only ECDSA P-384 with SHA-384 is supported (Table 17-2). -/
def execNegotiateAlgorithms (p384 sha384 : Bool) (s : State) : Result :=
  .next (spdmAnswer (fun _ => if p384 && sha384 then .algorithms else .error) s)

def execGetDigests (s : State) : Result := .next (spdmAnswer (fun t => .digests (Config.sha384 (slotChain t))) s)

/-- GET_CERTIFICATE: slot 0 only (Table 17-2). -/
def execGetCertificate (slot offset length : Nat) (s : State) : Result :=
  .next (spdmAnswer (fun t => if slot = 0 then .certificate (((slotChain t).drop offset).take length) else .error) s)

/-- CHALLENGE: signed with the Alias key (Table 17-2). -/
def execChallenge (slot : Nat) (nonce : BitVec 256) (s : State) : Result :=
  .next (draw (spdmAnswer (fun t =>
    if slot = 0 then
      let own := Config.freeKey t.free
      .challengeAuth own (aliasSign t (leBytes 32 nonce.toNat ++ leBytes 32 own.toNat ++ digestBytes (Config.sha384 (slotChain t))))
    else .error) s))

/-- GET_MEASUREMENTS: one block, or all with index 255 (DMTF DSP0274); blocks are formed from the state then in force (R456). -/
def execGetMeasurements (index : Nat) (nonce : BitVec 256) (s : State) : Result :=
  .next (draw (spdmAnswer (fun t =>
    let blocks := ((List.range 9).map (· + 1)).filter fun i => index == 255 || index == i
    if blocks = [] ∧ index ≠ 0 then .error
    else
      let own := Config.freeKey t.free
      let bs := blocks.map fun i => (i, measurement t i)
      .measurements bs own (aliasSign t (leBytes 32 nonce.toNat ++ leBytes 32 own.toNat ++ bs.flatMap fun b => b.2))) s))

end Sys2Proof.Machine
end

