-- ==== Sys2Proof/Machine/Loader.lean ====
section
/-! DEFINITION. Reading a move list image (Tables 08-1 to 08-11) and the loader's checks V1 to V16 (Table 08-14). Readings of the checks: log 35. -/

namespace Sys2Proof.Machine

/-! ## Reading the image (R194 to R197, R201, R204, R213, R214) -/

/-- The header (Table 08-2) as one number. -/
def mlHead (b : List Byte) : Nat := iw b 0 128

/-- A move record (Table 08-3). -/
def parseMove (x : Nat) : Move :=
  { moveId := bitsN x 255 240
    opnd := bitsN x 239 216
    allow := bitsN x 215 208
    phase := bitsN x 207 198
    every := bitsN x 197 194
    waitTgt := bitsN x 191 176
    waitObj := bitsN x 175 166
    waitEn := bitN x 165
    sigN := bitsN x 164 161
    sigObj := bitsN x 160 151
    offset := bitsN x 127 108
    target := bitsN x 107 97
    opcode := bitsN x 96 89
    cls := classOf (bitsN x 88 87)
    jclass := bitsN x 86 83
    imm := BitVec.ofNat 64 (bitsN x 63 0) }

/-- Move records from an offset. -/
def parseMoves (b : List Byte) (o n : Nat) : List Move := (List.range n).map fun i => parseMove (iw b (o + 32 * i) 32)

/-- A schedule's directory entry and the fields that locate its parts (Table 08-9). -/
def dirEntry (b : List Byte) (i : Nat) : Nat := iw b (bitsN (mlHead b) 607 576 + 64 * i) 64

/-- Counts of the header. -/
def nGroups (b : List Byte) : Nat := bitsN (mlHead b) 719 709
def nSched (b : List Byte) : Nat := bitsN (mlHead b) 708 703
def nJobs (b : List Byte) : Nat := bitsN (mlHead b) 702 695
def nSync (b : List Byte) : Nat := bitsN (mlHead b) 694 684
def nOpnd (b : List Byte) : Nat := bitsN (mlHead b) 479 456

/-- A schedule (Table 08-9, R201, R204, R214). -/
def parseSched (b : List Byte) (jobs i : Nat) : Sched :=
  let d := dirEntry b i
  let slotAt := bitsN d 351 320
  let winAt := bitsN d 287 256
  let nWin := bitsN d 447 440
  { tier := bitsN d 511 510
    placement := bitsN d 509 505
    classes := BitVec.ofNat 16 (bitsN d 495 480)
    throughput := bitsN d 479 464
    mask := BitVec.ofNat 276 (iw b (bitsN d 383 352) 64)
    polders := BitVec.ofNat 293 (iw b (bitsN d 383 352 + 64) 64)
    slots := (List.range (bitsN d 463 448)).map fun k =>
      { start := iw b (slotAt + 544 * k) 4
        owners := (List.range 16).map fun f => BitVec.ofNat 256 (iw b (slotAt + 544 * k + 32 + 32 * f) 32) }
    tick := parseMoves b (bitsN d 319 288) (bitsN d 439 416)
    wins := (List.range nWin).map fun k =>
      let w := iw b (winAt + 8 * k) 8
      { start := bitsN w 63 44, len := bitsN w 43 24, job := bitsN w 23 16 }
    jsteps := (List.range jobs).map fun k =>
      let w := iw b (winAt + 8 * nWin + 8 * k) 8
      (bitsN w 63 40, bitsN w 39 16)
    steps := parseMoves b (bitsN d 255 224) (bitsN d 415 384) }

/-- A group-table entry with its members (R213). -/
def parseGroup (b : List Byte) (i : Nat) : GroupDef :=
  let at_ := bitsN (mlHead b) 639 608
  let e := iw b (at_ + 8 * i) 8
  let gr := bitsN e 47 39
  let gc := bitsN e 38 30
  { gr := gr
    gc := gc
    members := (List.range (gr * gc)).map fun k => iw b (at_ + 8 * nGroups b + 2 * (bitsN e 63 48 + k)) 2 }

/-- A verified image as the sequencer store holds it. -/
def parseList (b : List Byte) : MList :=
  let h := mlHead b
  { movelistId := bitsN h 959 944
    period := bitsN h 895 864
    frameLen := bitsN h 863 848
    spill := bitsN h 847 832
    commitOff := bitsN h 831 816
    dramPlan := bitsN h 815 800
    ingestField := bitsN h 799 796
    ingestAddr := bitsN h 783 761
    recField := bitsN h 795 792
    recAddr := bitsN h 760 738
    fineField := bitsN h 660 657
    fineAddr := bitsN h 683 661
    nFeat := bitsN h 735 727
    nCorr := bitsN h 726 720
    secVer := bitsN h 415 384
    groups := (List.range (nGroups b)).map (parseGroup b)
    jobs := (List.range (nJobs b)).map fun k =>
      let e := iw b (bitsN h 575 544 + 8 * k) 8
      { start := bitsN e 63 48, isFrame := bitsN e 47 46 == 1, jclass := bitsN e 45 42 }
    syncs := (List.range (nSync b)).map fun k =>
      let e := iw b (bitsN h 543 512 + 4 * k) 4
      { scope := match bitsN e 31 30 with | 0 => .tick | 1 => .step | 2 => .frame | _ => .persistent
        obj := bitsN e 29 20
        ring := bitN e 19 }
    scheds := (List.range (nSched b)).map (parseSched b (nJobs b))
    opnds := (List.range (nOpnd b)).map fun k => BitVec.ofNat 512 (iw b (bitsN h 511 480 + 64 * k) 64)
    digest := imageDigest b (bitsN h 447 416) }

/-! ## Walking a list -/

/-- The first that is there. -/
def firstOf {α : Type} : List (Option α) → Option α
  | [] => none
  | some x :: _ => some x
  | none :: t => firstOf t

/-- A failing move of a list's schedules, as (schedule, `move_id`). -/
def badMove (l : MList) (p : Sched → Bool → Move → Bool) : Option (Nat × Nat) :=
  firstOf ((List.range l.scheds.length).map fun i =>
    let k := nth l.scheds i {}
    firstOf ((k.tick.map fun m => if p k false m then some (i, m.moveId) else none) ++
      k.steps.map fun m => if p k true m then some (i, m.moveId) else none))

/-- A failing schedule of a list. -/
def badSched (l : MList) (p : Sched → Bool) : Option (Nat × Nat) :=
  firstOf ((List.range l.scheds.length).map fun i => if p (nth l.scheds i {}) then some (i, 0) else none)

/-- A failing header or table. -/
def badHead (p : Bool) : Option (Nat × Nat) := if p then some (0, 0) else none

/-! ## V1 to V3 -/

/-- V1: magic, format, level and order code. -/
def checkV1 (p : Part) (b : List Byte) : Option (Nat × Nat) :=
  let h := mlHead b
  badHead (bitsN h 1023 992 != 0x4B4C4D31 || bitsN h 991 984 != 1 || bitsN h 975 968 != 1 ||
    !bitN (bitsN h 967 960) (orderCode p))

/-- Sections of an image, as (offset, bytes), with the schedule that each belongs to (Table 08-1). -/
def mlSections (b : List Byte) : List (Nat × Nat) :=
  let h := mlHead b
  let members := ((List.range (nGroups b)).map fun i =>
    let e := iw b (bitsN h 639 608 + 8 * i) 8
    bitsN e 63 48 + bitsN e 47 39 * bitsN e 38 30).foldl max 0
  [(0, 128), (bitsN h 639 608, 8 * nGroups b + 2 * members), (bitsN h 575 544, 8 * nJobs b), (bitsN h 543 512, 4 * nSync b),
   (bitsN h 607 576, 64 * nSched b), (bitsN h 511 480, 64 * nOpnd b), (bitsN h 447 416, 320)] ++
  (List.range (nSched b)).flatMap fun i =>
    let d := dirEntry b i
    [(bitsN d 383 352, 128), (bitsN d 351 320, 544 * bitsN d 463 448), (bitsN d 319 288, 32 * bitsN d 439 416),
     (bitsN d 287 256, 8 * bitsN d 447 440 + 8 * nJobs b), (bitsN d 255 224, 32 * bitsN d 415 384)]

/-- Two sections overlap. -/
def overlaps (x y : Nat × Nat) : Bool := decide (x.1 < y.1 + y.2 ∧ y.1 < x.1 + x.2)

/-- Some two entries of a list meet a relation. -/
def anyPair {α : Type} (p : α → α → Bool) : List α → Bool
  | [] => false
  | x :: t => t.any (p x) || anyPair p t

/-- Slot starts of a schedule: the first 0, rising strictly, inside the tick (R201). -/
def slotStartsBad (p : Nat) (k : Sched) : Bool :=
  let ss := k.slots.map fun d => d.start
  ss.isEmpty || decide (64 < ss.length) || nth ss 0 0 != 0 || ss.any (fun x => decide (p ≤ x)) ||
    (List.range (ss.length - 1)).any fun i => decide (nth ss (i + 1) 0 ≤ nth ss i 0)

/-- Step-area indices of the STEP records of job j, the first of which may name a job descriptor (R204, R224). -/
def jobSteps (k : Sched) (j : Nat) : List Nat :=
  let (first, count) := nth k.jsteps j (0, 0)
  (List.range count).filterMap fun i => if (nth k.steps (first + i) {}).opcode = 0x7F then some (first + i) else none

/-- The job descriptors of a schedule: job, the STEP record that names one, and the block (R224). -/
def listDescs (l : MList) (k : Sched) : List (Nat × Move × JobDesc) :=
  (List.range k.jsteps.length).filterMap fun j =>
    let m := nth k.steps (nth k.jsteps j (0, 0)).1 {}
    if m.opcode = 0x7F ∧ m.opnd ≠ 0 ∧ 0 < (nth k.jsteps j (0, 0)).2 then some (j, m, descOf (nth l.opnds m.opnd 0)) else none

/-- A failing job descriptor of a list's schedules. -/
def badDesc (l : MList) (p : JobDesc → Bool) : Option (Nat × Nat) :=
  firstOf ((List.range l.scheds.length).map fun i =>
    firstOf ((listDescs l (nth l.scheds i {})).map fun e => if p e.2.2 then some (i, e.2.1.moveId) else none))

/-- V2: R7, R8, R18; at most four attention jobs and four refill jobs (R224); counts and offsets in range (R194, R201, R204, R205, R213, Table 08-3). -/
def checkV2 (b : List Byte) (l : MList) : Option (Nat × Nat) :=
  let h := mlHead b
  let len := bitsN h 927 896
  let p := l.period
  let dp := l.dramPlan
  let secs := (mlSections b).filter fun x => x.2 != 0
  firstOf [
    badHead (decide (p < 1200 ∨ 120000 < p) || l.frameLen == 0 || decide (l.spill < 64 ∨ p < 4 * l.spill) ||
      decide (l.commitOff < 32 ∨ l.spill < l.commitOff) || decide (dp < 64 ∨ 4095 < dp) || decide (2 ^ 22 < len ∨ b.length < len) ||
      decide (1024 < nGroups b) || decide (nSched b = 0 ∨ 51 < nSched b) || decide (64 < nJobs b) || decide (1024 < nSync b) ||
      nOpnd b == 0 || secs.any (fun x => x.1 % 64 != 0 || decide (len < x.1 + x.2)) || anyPair overlaps secs ||
      (List.range (nGroups b)).any (fun i =>
        let g := parseGroup b i
        decide (g.gr = 0 ∨ 256 < g.gr ∨ g.gc = 0 ∨ 256 < g.gc)) ||
      l.jobs.any (fun d => d.isFrame == (d.start == 0) || d.jclass == 0)),
    badHead ([false, true].any fun r =>
      decide (4 < ((l.scheds.flatMap fun k => (listDescs l k).filter fun e => e.2.2.refill == r).map fun e => e.1).eraseDups.length)),
    badSched l fun k => slotStartsBad p k || decide (16 < k.placement) || k.wins.any fun w => decide (p < w.start + w.len),
    badMove l fun _ _ m => decide (10 < m.every) || decide (2 ^ m.every ≤ m.phase)]

/-- Any of some bit fields [hi:lo] of a number is not 0. -/
def rsvSet (x : Nat) (fs : List (Nat × Nat)) : Bool := fs.any fun f => bitsN x f.1 f.2 != 0

/-- Reserved bits, format codes and modes of a move's operand block and immediate (R198 to R200, R266, Tables 10-4 and 14-6). -/
def blockBad (l : MList) (m : Move) : Bool :=
  let w := blockOf l m
  let b := w.toNat
  let hiOf (los : List Nat) : List (Nat × Nat) := los.map fun lo => (lo + 31, lo + 23)
  match blockKind m.opcode with
  | .none => false
  | .arr => (parseArr w).isNone || rsvSet b ([(465, 464), (437, 436), (391, 224)] ++ hiOf [0, 32, 64, 96, 128, 160, 192])
  | .vec => (parseVec w).isNone || rsvSet b ([(465, 464), (412, 256)] ++ hiOf [0, 32, 64, 96, 128, 160, 192, 224])
  | .dma => (parseDma w 0 0).isNone || rsvSet b [(255, 0)]
  | .set => (parseSet w m.imm 0 0 0 0).isNone || rsvSet b ([(178, 160), (127, 0)] ++ hiOf [416, 384, 352, 320, 288, 256]) ||
      bitsN m.imm.toNat 26 0 != 0 || ((m.opcode != 0x81 || bitN b 180) && bitsN b 511 471 != 0)
  | .rsv => (parseRsv w).isNone || rsvSet b [(461, 0)]

/-- Reserved bits of the move records, entry tables, slots and windows of an image (R4). -/
def imageRsv (b : List Byte) : Bool :=
  let h := mlHead b
  let mv (o n : Nat) : Bool := (List.range n).any fun i => rsvSet (iw b (o + 32 * i) 32) [(193, 192), (150, 128), (82, 64)]
  rsvSet h [(943, 928), (791, 784), (737, 736), (656, 640), (455, 448), (383, 0)] || bitsN h 967 960 / 8 != 0 ||
  (List.range (nGroups b)).any (fun i => rsvSet (iw b (bitsN h 639 608 + 8 * i) 8) [(29, 0)]) ||
  (List.range (nJobs b)).any (fun i =>
    let e := iw b (bitsN h 575 544 + 8 * i) 8
    rsvSet e [(41, 0)] || bitsN e 47 46 == 0 || bitsN e 47 46 == 3) ||
  (List.range (nSync b)).any (fun i => rsvSet (iw b (bitsN h 543 512 + 4 * i) 4) [(18, 0)]) ||
  (List.range (nSched b)).any (fun i =>
    let d := dirEntry b i
    let ms := iw b (bitsN d 383 352) 64
    let ps := iw b (bitsN d 383 352 + 64) 64
    rsvSet d [(504, 496), (223, 0)] || bitsN d 511 510 == 3 || rsvSet ms [(511, 276)] || rsvSet ps [(511, 293)] ||
    (List.range (bitsN d 463 448)).any (fun k =>
      let o := bitsN d 351 320 + 544 * k
      iw b (o + 4) 28 != 0 || (List.range 512).any fun j =>
        let y := iw b (o + 32 + j) 1
        decide (0x1F < y) || decide (0x17 ≤ y ∧ y ≤ 0x1E)) ||
    mv (bitsN d 319 288) (bitsN d 439 416) || mv (bitsN d 255 224) (bitsN d 415 384) ||
    (List.range (bitsN d 447 440)).any (fun k => rsvSet (iw b (bitsN d 287 256 + 8 * k) 8) [(15, 0)]) ||
    (List.range (nJobs b)).any (fun k => rsvSet (iw b (bitsN d 287 256 + 8 * bitsN d 447 440 + 8 * k) 8) [(15, 0)]))

/-- V3: reserved fields and invalid codes, those of the job descriptors among them (R224). -/
def checkV3 (b : List Byte) (l : MList) : Option (Nat × Nat) :=
  firstOf [badHead (imageRsv b), badMove l fun _ _ m => blockBad l m,
    badDesc l fun d => rsvSet d.bits.toNat [(419, 416), (414, 0)]]

/-! ## V4 and V5 -/

/-- A unit does not contain itself, however deep it nests (R51). -/
def nests : Nat → List GroupDef → Nat → Bool
  | 0, _, _ => false
  | n + 1, gs, u => if u < 256 then true else match gs[u - 256]? with | none => false | some g => g.members.all (nests n gs)

/-- Dimensions of a unit in arrays, none when members differ (R50, R51). -/
def unitDims : Nat → List GroupDef → Nat → Option (Nat × Nat)
  | 0, _, _ => none
  | n + 1, gs, u =>
    if u < 256 then some (1, 1)
    else match gs[u - 256]? with
    | none => none
    | some g =>
      match g.members.map (unitDims n gs) with
      | some d :: rest => if rest.all (· == some d) then some (g.gr * d.1, g.gc * d.2) else none
      | _ => none

/-- Group entries that a unit uses, itself included. -/
def usedGroups : Nat → List GroupDef → Nat → List Nat
  | 0, _, _ => []
  | n + 1, gs, u => if u < 256 then [] else match gs[u - 256]? with
    | none => [u]
    | some g => u :: g.members.flatMap (usedGroups n gs)

/-- R162 for one entry: with gr > 1, the arrays of each column of the grid that it flattens to lie in one field. -/
def columnsOk (l : MList) (u : Nat) : Bool :=
  let (gr, gc, as) := listGrid l u
  decide (gr ≤ 1) || (List.range gc).all fun j =>
    decide (((List.range gr).map fun i => fieldOf (nth as (i * gc + j) 0)).eraseDups.length ≤ 1)

/-- R163 for one entry: the two arrays of each 32 columns lie in one field. -/
def mxPairsOk (l : MList) (u : Nat) : Bool :=
  let (gr, gc, as) := listGrid l u
  (List.range gr).all fun i => (List.range (gc / 2)).all fun c => fieldOf (nth as (i * gc + 2 * c) 0) == fieldOf (nth as (i * gc + 2 * c + 1) 0)

/-- R51, R162 and R163 for a unit and every entry under it: nesting, dimensions, arrays that are present and distinct (R213). -/
def unitOk (p : Part) (l : MList) (u : Nat) : Bool :=
  let n := l.groups.length + 1
  nests n l.groups u && (unitDims n l.groups u).isSome &&
    (let as := (listGrid l u).2.2
     decide (as.length ≤ 256) && as.all (fun a => decide (a < nArrays p)) && as.eraseDups.length == as.length &&
       ((usedGroups n l.groups u).eraseDups).all fun v => columnsOk l v && mxPairsOk l v)

/-- A target of Table 08-4 is present on the order code. -/
def targetOk (p : Part) (l : MList) (t : Nat) : Bool :=
  if t < 256 then decide (t < nArrays p)
  else if t < 0x500 then unitOk p l t
  else if t < 0x520 then decide (t - 0x500 < nFields p)
  else if t < 0x540 then decide (t - 0x520 < nFields p)
  else if t < 0x560 then decide (t - 0x540 < nFields p)
  else decide (0x580 ≤ t ∧ t < 0x584) || t == 0x5C0 || t == 0x5E0

/-- V4: targets, polders, fields and groups. -/
def checkV4 (p : Part) (l : MList) : Option (Nat × Nat) :=
  firstOf [
    badHead (decide (nFields p ≤ l.ingestField) || decide (nFields p ≤ l.recField) ||
      (decide (0 < fineSlots l.period) && decide (nFields p ≤ l.fineField))),
    badMove l fun _ _ m =>
      !targetOk p l m.target ||
      ((m.opcode == 0x68 || m.opcode == 0x69) && !polderPresent p (m.imm.toNat % 512)) ||
      (m.opcode == 0x6A && decide (nFields p ≤ m.imm.toNat % 16)),
    badSched l fun k =>
      (polderList k.polders).any (fun q => !polderPresent p q) ||
      (listDescs l k).any (fun e => decide (nFields p ≤ e.2.2.stgField)) ||
      (p.order == .k192 && k.slots.any fun d => (List.range 4).any fun i => (List.range 32).any fun c => slotOwner d (12 + i) c != 0x1F)]

/-- Opcodes of Table 06-7, Table 06-8 and VADAM. -/
def vecOpcodes : List Nat :=
  [0x20, 0x21, 0x22, 0x23, 0x24, 0x25, 0x26, 0x27, 0x28, 0x29, 0x2A, 0x2B, 0x2C, 0x30, 0x31, 0x32, 0x33, 0x34, 0x35, 0x36, 0x37, 0x38,
   0x39, 0x3A, 0x3B, 0x40, 0x41, 0x42, 0x43, 0x44, 0x48, 0x49, 0x4A, 0x50]

/-- Set opcodes of Table 10-2. -/
def setOpcodes : List Nat :=
  [0x80, 0x81, 0x82, 0x83, 0x84, 0x85, 0x88, 0x89, 0x8A, 0x8C, 0x8D, 0x8E, 0x90, 0x91, 0x92, 0x94]

/-- An opcode is valid for a target (Table 08-4). -/
def opcodeOk (t op : Nat) : Bool :=
  if t < 0x500 then decide (0x10 ≤ op ∧ op ≤ 0x14) || op == 0x71
  else if t < 0x520 then vecOpcodes.contains op || op == 0x71
  else if t < 0x540 then setOpcodes.contains op || op == 0x71
  else if t < 0x560 then op == 0x60 || op == 0x71
  else if t < 0x584 then op == 0x78
  else if t = 0x5C0 then op == 0x68 || op == 0x69 || op == 0x6A
  else op == 0x70 || op == 0x7F

/-! ## V5: operands and halves (R137, R156, R158, R266 to R268, R274, R279, R335, R385) -/

/-- Operand limits of an array move (Table 06-4, R137, R156). -/
def arrayBad (l : MList) (m : Move) (o : ArrOpnd) : Bool :=
  let (gr, _, _) := listGrid l m.target
  let mul := m.opcode == 0x10 || m.opcode == 0x11
  (m.opcode != 0x13 && (match pairOf o.inFmt o.wFmt with
    | none => true
    | some (_, d, _) => mul && o.keep && decide (2 * d * gr < o.kLen))) ||
  (mul && o.inAddr % 32 != 0) || (m.opcode != 0x13 && o.wAddr % 32 != 0) ||
  ((m.opcode == 0x13 || (mul && o.drain)) && o.outAddr % 32 != 0) ||
  (arrOutRows l m o).any fun w => (arrReads l m o).any (touchMeet w)

/-- Operand limits of a vector move: `out_en` (Table 08-7), and the element widths of VTRN (Table 06-7). -/
def vectorBad (m : Move) (o : VecOpnd) : Bool :=
  (m.opcode != 0x50 && !o.outEn) || (m.opcode == 0x2C && (fmtBits o.aFmt == 4 || fmtMx o.aFmt))

/-- Set operations that accumulate in `vfmt` (R256): SCATTER_ADD, SEG_REDUCE but for a count, HINSERT with add, TWALK mode 2. -/
def accumulates (op sub : Nat) : Bool :=
  op == 0x83 || (op == 0x84 && sub != 3) || (op == 0x8D && sub == 1) || (op == 0x94 && sub == 2)

/-- Operand limits of a set move (R256, R260, R262, R265 to R268). -/
def setBad (l : MList) (m : Move) (o : SetOpnd) (step : Bool) : Bool :=
  let vf := bitsN (blockOf l m).toNat 198 195
  let op := m.opcode
  let keyed := [0x88, 0x89, 0x8A, 0x8C, 0x8D, 0x8E].contains op
  let point := [0x90, 0x91, 0x92].contains op
  let hash := [0x8C, 0x8D, 0x8E].contains op
  let subMax := match op with | 0x84 => 3 | 0x85 => 1 | 0x88 => 1 | 0x8D => 2 | 0x94 => 2 | _ => 0
  decide (o.budgetAc < 16) || (o.cont && !step) || (o.cont && o.tokAddr % 32 != 0) || (op != 0x81 && o.budgetTx != 0) ||
  (if accumulates op o.sub then vf != 11 && vf != 12 else vf != 0 && !(op == 0x84 && (vf == 11 || vf == 12))) ||
  (keyed && o.kfmt != .u32 && o.kfmt != .u64) || (point && o.kfmt != .p3f32 && o.kfmt != .p3f16) ||
  (!keyed && !point && o.kfmt != .u32) || decide (subMax < o.sub) || (hash && decide (o.tLog2 < 4 ∨ 16 < o.tLog2)) ||
  (op == 0x81 && !o.desc && o.tAddr % 64 != 0)

/-- First flit slot of a reservation at or after its issue: slots are 6 ac long (R375, R385). -/
def rsvFirst (m : Move) (ref : Nat) : Nat := (ref + m.offset + 5) / 6

/-- The moves that issue in tick `t` of a frame (R202). -/
def tickRun (k : Sched) (t : Nat) : List Move := k.tick.filter fun m => t % 2 ^ m.every == m.phase

/-- Ticks of a frame after which the tick program repeats (R202). -/
def tickCycle (l : MList) (k : Sched) : Nat := min l.frameLen (2 ^ (k.tick.map fun m => m.every).foldl max 0)

/-- A run of moves that the sequencer issues together: the moves of a tick, or a step from its window's start with the window's length. -/
structure Run where
  ref : Nat
  len : Option Nat
  moves : List Move
  deriving DecidableEq, Repr

/-- The steps of a schedule, each in its window; a step without one is left to V15. -/
def stepRuns (k : Sched) : List Run :=
  (List.range k.jsteps.length).flatMap fun j => (List.range (stepStarts k j).length).filterMap fun n =>
    match stepWindow k j n with
    | none => none
    | some w => match k.wins[w]? with
      | none => none
      | some win => some ⟨win.start, some win.len, (stepMoves k j n).map fun i => nth k.steps i {}⟩

/-- The tick program as each tick of its cycle issues it. -/
def tickRuns (l : MList) (k : Sched) : List Run := ((List.range (tickCycle l k)).map fun t => (⟨0, none, tickRun k t⟩ : Run)).eraseDups

/-- The different runs of a schedule: those of the tick program, and the steps. -/
def allRuns (l : MList) (k : Sched) : List Run := tickRuns l k ++ stepRuns k

/-- The tick program whole, and the steps: for checks between moves of different ticks. -/
def sections (k : Sched) : List Run := ⟨0, none, k.tick⟩ :: stepRuns k

/-- Insert into a list of moves in order of their offsets, behind equals. -/
def insertMove (m : Move) : List Move → List Move
  | [] => [m]
  | x :: t => if m.offset < x.offset then m :: x :: t else x :: insertMove m t

/-- Moves in order of their offsets. -/
def byOffset (ms : List Move) : List Move := ms.foldl (fun a m => insertMove m a) []

/-- What a tile-using move leaves in TR0 and TR1 of an array: format, and the address of the tile in each register with that of the scales
of an MX tile (R156, Table 06-1). -/
def tilesLeft (l : MList) (a : Nat) (m : Move) : Option (Fmt × Nat × Option (Nat × Nat) × Option (Nat × Nat)) :=
  match moveOp l m with
  | .arr o =>
    match pairOf o.inFmt o.wFmt with
    | none => none
    | some (_, d, _) =>
      let (gr, gc, as) := listGrid l m.target
      let n := tileCount m.opcode o gr d
      let place := as.idxOf a
      let at_ (r : Nat) : Option (Nat × Nat) :=
        let t := if (n - 1) % 2 = r then n - 1 else n - 2
        if n = 1 ∧ r = 1 then none
        else some (tileAddr o d gr gc t (place / gc) (place % gc),
          if fmtMx o.wFmt then tileScAddr o gr gc t (place / gc) (place % gc) else 0)
      some (o.wFmt, d, at_ 0, at_ 1)
  | _ => none

/-- The tiles that a `keep` move uses on an array are the ones that an earlier move left there, with the scales of an MX format. -/
def sameTiles (l : MList) (a : Nat) (p m : Move) : Bool :=
  match tilesLeft l a p, tilesLeft l a m with
  | some (f, d, x, y), some (f', d', x', y') => f == f' && d == d' && (x'.isNone || x == x') && (y'.isNone || y == y')
  | _, _ => false

/-- A move uses the tile registers of an array: MM, MMT and TLOAD (R156). -/
def usesTiles (l : MList) (a : Nat) (m : Move) : Bool :=
  decide (0x10 ≤ m.opcode ∧ m.opcode ≤ 0x12) && decide (m.target < 0x500) && (unitArrays l m.target).contains a

/-- A `keep` move. -/
def isKeep (l : MList) (m : Move) : Bool :=
  (m.opcode == 0x10 || m.opcode == 0x11) && (match moveOp l m with | .arr o => o.keep | _ => false)

/-- The last entry that meets a test. -/
def lastThat (p : Move → Bool) (ms : List Move) : Option Move := (ms.filter p).getLast?

/-- The tile-using move before a `keep` move of the tick program, going back from tick `t` of the frame; with it how many ticks back. -/
def keepBack (l : MList) (k : Sched) (a : Nat) (m : Move) (t : Nat) : Nat → Nat → Option (Move × Nat)
  | 0, _ => none
  | fuel + 1, back =>
    let u := (t + back * l.frameLen - back) % l.frameLen
    let run := byOffset (tickRun k u)
    let run := if back = 0 then run.takeWhile (fun x => x != m) else run
    match lastThat (usesTiles l a) run with
    | some p => some (p, back)
    | none => keepBack l k a m t fuel (back + 1)

/-- A step's window meets the time between two moves of one tick. -/
def windowBetween (p m : Move) (r : Run) : Bool := decide (r.ref < m.offset ∧ p.offset < r.ref + r.len.getD 0)

/-- The last tile-using move of a run on an array among those that stand from `lo` to `hi`. -/
def lastIn (l : MList) (a : Nat) (r : Run) (lo hi : Nat) : Option Move :=
  lastThat (usesTiles l a) (byOffset (r.moves.filter fun x => decide (lo ≤ r.ref + x.offset ∧ r.ref + x.offset ≤ hi)))

/-- The moves of a step that can be the last tile-using ones between a move of the tick program and a `keep` move `back` ticks later: those of
the `keep` move's tick, of the other's, and of a tick between (R156). -/
def stepBetween (l : MList) (a : Nat) (p m : Move) (back : Nat) (r : Run) : List Move :=
  (if back = 0 then [lastIn l a r p.offset m.offset]
   else [lastIn l a r 0 m.offset, lastIn l a r p.offset l.period] ++ if back = 1 then [] else [lastIn l a r 0 l.period]).filterMap id

/-- R156 for a `keep` move of the tick program on one array: every move that can come before it left the same tiles. The ticks of one cycle
are tried at the start of a frame, where the tick before is the frame's last, and after it. -/
def keepBadTick (l : MList) (k : Sched) (m : Move) (a : Nat) : Bool :=
  (List.range (min l.frameLen (2 * tickCycle l k))).any fun t =>
    t % 2 ^ m.every == m.phase &&
    match keepBack l k a m t (2 * tickCycle l k + 2) 0 with
    | none => true
    | some (p, back) => !sameTiles l a p m || (stepRuns k).any fun r => (stepBetween l a p m back r).any fun q => !sameTiles l a q m

/-- R156 for a `keep` move in a step on one array: a move before it in the step left the same tiles, and so did those of the tick program that
stand between the two in any tick. -/
def keepBadStep (l : MList) (k : Sched) (r : Run) (m : Move) (a : Nat) : Bool :=
  match lastThat (usesTiles l a) ((byOffset r.moves).takeWhile fun x => x != m) with
  | some p => !sameTiles l a p m || (List.range (tickCycle l k)).any fun t =>
      match lastIn l a ⟨0, none, tickRun k t⟩ (r.ref + p.offset) (r.ref + m.offset) with | some q => !sameTiles l a q m | none => false
  | none => true

/-- What a move does to accumulator halves: whether it adds to what they hold, their type (1 INT32), and the halves, as 2 × array + half. -/
def halvesOf (l : MList) (m : Move) : Option (Bool × Nat × List Nat) :=
  let mul := m.opcode == 0x10 || m.opcode == 0x11
  if !(mul || m.opcode == 0x14) || decide (0x500 ≤ m.target) then none
  else
    let (acc, ty) : Bool × Nat := if m.opcode = 0x14 then (false, b2n (bitN m.imm.toNat 1)) else match moveOp l m with
      | .arr o => (o.acc, match pairOf o.inFmt o.wFmt with | some (.int32, _, _) => 1 | _ => 0)
      | _ => (false, 0)
    some (acc, ty, (unitArrays l m.target).map fun a => 2 * a + b2n ((moveHalf l m).getD false))

/-- The types of the halves that a run of moves fills, over those filled before. -/
def halvesFilled (l : MList) (seen : Tab Nat) (ms : List Move) : Tab Nat :=
  ms.foldl (fun x m => match halvesOf l m with
    | some (false, ty, hs) => hs.foldl (fun y h => tabSet y h ty) x
    | _ => x) seen

/-- R156 and R158 in the order of a tick: a move of a run that adds to a half finds it filled, with its type, by an earlier move of the tick.
Only the moves that meet the test are held to it. -/
def halvesBad (l : MList) (held : Move → Bool) : Tab Nat → List Move → Option Move
  | _, [] => none
  | seen, m :: rest =>
    match halvesOf l m with
    | some (true, ty, hs) => if held m && hs.any fun h => tabFind seen h != some ty then some m else halvesBad l held seen rest
    | _ => halvesBad l held (halvesFilled l seen [m]) rest

/-- A step's moves with their offsets from T0. -/
def movesPlaced (r : Run) : List Move := r.moves.map fun m => { m with offset := r.ref + m.offset }

/-- A tick of the tick program with a step that runs in it, with offsets from T0. -/
def merged (k : Sched) (t : Nat) (r : Run) : Run := ⟨0, none, tickRun k t ++ movesPlaced r⟩

/-- A run's filling of half h with another type than `ty`. -/
def fillsOther (l : MList) (h ty : Nat) (m : Move) : Bool :=
  match halvesOf l m with
  | some (false, t, hs) => t != ty && hs.contains h
  | _ => false

/-- R156 across runs: between the move that fills a half and a move of the same run that adds to it, another run that can stand there fills the
half with another type. -/
def typeMixed (l : MList) (k : Sched) (r : Run) : Option Move :=
  let ms := byOffset r.moves
  ms.find? fun m => match halvesOf l m with
    | some (true, ty, hs) => hs.any fun h =>
        match lastThat (fun x => match halvesOf l x with | some (false, _, g) => g.contains h | _ => false) (ms.takeWhile fun x => x != m) with
        | none => false
        | some p => (match r.len with
            | none => (stepRuns k).any fun q => windowBetween p m q && q.moves.any (fillsOther l h ty)
            | some _ => k.tick.any fun x => decide (r.ref + p.offset < x.offset ∧ x.offset < r.ref + m.offset) && fillsOther l h ty x)
    | _ => false

/-- Bytes that a move carries from or to DRAM: of a DMA move, and of a GATHER_D 64 for each transaction of its budget (R277, R335). -/
def dramMoved (l : MList) (m : Move) : Nat :=
  match moveOp l m with
  | .dma o => o.len * o.rows * (b2n (o.srcKind == .dram) + b2n (o.dstKind == .dram))
  | .set o => if m.opcode = 0x81 then 64 * o.budgetTx else 0
  | _ => 0

/-- The steps of a job that can issue in one tick from its n-th on: each in a window that starts behind the one before it; a gap job that ends can
be triggered again and go on with its first step (R205, R206). -/
def stepChain (l : MList) (k : Sched) (j : Nat) : Nat → Nat → Nat → List Nat
  | 0, _, _ => []
  | fuel + 1, n, after =>
    match (stepWindow k j n).bind fun w => k.wins[w]? with
    | none => []
    | some win =>
      if win.start < after then []
      else
        let last := decide ((stepStarts k j).length ≤ n + 1)
        if last ∧ (nth l.jobs j {}).isFrame then [n]
        else n :: stepChain l k j fuel (if last then 0 else n + 1) (win.start + 1)

/-- The chains of a job's steps that can issue in one tick. -/
def stepChains (l : MList) (k : Sched) (j : Nat) : List (List Nat) :=
  (List.range (stepStarts k j).length).map fun n => stepChain l k j (k.wins.length + 1) n 0

/-- The n-th step of a job as a run. -/
def stepOf (k : Sched) (j n : Nat) : Run :=
  let win := match stepWindow k j n with | some w => nth k.wins w {} | none => {}
  ⟨win.start, some win.len, (stepMoves k j n).map fun i => nth k.steps i {}⟩

/-- The most that a weight of what one tick can issue reaches: a tick of the cycle, and of every job the steps of one chain (R202, R206). -/
def worstTick (l : MList) (k : Sched) (w : Run → Nat) : Nat :=
  ((List.range (tickCycle l k)).map fun t => w ⟨0, none, tickRun k t⟩).foldl max 0 +
    (((List.range k.jsteps.length).map fun j =>
      ((stepChains l k j).map fun c => (c.map fun n => w (stepOf k j n)).foldl (· + ·) 0).foldl max 0).foldl (· + ·) 0)

/-- Sum over the moves of a run. -/
def overMoves (w : Move → Nat) (r : Run) : Nat := (r.moves.map w).foldl (· + ·) 0

/-- A failing move of a schedule's runs. -/
def badRun (l : MList) (runs : Sched → List Run) (p : Sched → Run → Option Move) : Option (Nat × Nat) :=
  firstOf ((List.range l.scheds.length).map fun i =>
    let k := nth l.scheds i {}
    firstOf ((runs k).map fun r => (p k r).map fun m => (i, m.moveId)))

/-- Reserved slots of a run's LINK_RSV moves on one link, as (first, count). -/
def rsvSlots (l : MList) (r : Run) : List (Nat × Nat × Nat) :=
  r.moves.filterMap fun m => match moveOp l m with
    | .rsv o => some (m.target, rsvFirst m r.ref, o.nSlots)
    | _ => none

/-- Two steps, each by its job and number, can issue in one tick (R206). -/
def stepsMeet (l : MList) (k : Sched) (x y : Nat × Nat) : Bool :=
  x.1 != y.1 || (stepChains l k x.1).any fun c => c.contains x.2 && c.contains y.2

/-- R385: the `plan_id` of a schedule's reservations is one, and reservations of one link that can stand in one tick do not meet. -/
def rsvBad (l : MList) (k : Sched) : Bool :=
  let ids := (k.tick ++ k.steps).filterMap fun m => match moveOp l m with | .rsv o => some o.planId | _ => none
  let meets (x y : Nat × Nat × Nat) : Bool := x.1 == y.1 && overlaps x.2 y.2
  let steps := (List.range k.jsteps.length).flatMap fun j => (List.range (stepStarts k j).length).flatMap fun n =>
    (rsvSlots l (stepOf k j n)).map fun x => ((j, n), x)
  decide (1 < ids.eraseDups.length) || anyPair (fun x y => (x.1 == y.1 || stepsMeet l k x.1 y.1) && meets x.2 y.2) steps ||
  (List.range (tickCycle l k)).any fun t =>
    let tick := rsvSlots l ⟨0, none, tickRun k t⟩
    anyPair meets tick || tick.any fun x => steps.any fun y => meets x y.2

/-- V5: opcodes, operands, halves, tiles, job descriptors (R224) and the DRAM bounds of a tick. -/
def checkV5 (l : MList) : Option (Nat × Nat) :=
  firstOf [
    badMove l fun _ step m =>
      !opcodeOk m.target m.opcode || (step && m.every != 0) ||
      ((blockKind m.opcode != .none || (m.opcode == 0x7F && m.opnd != 0)) && (m.opnd == 0 || decide (l.opnds.length ≤ m.opnd))) ||
      (m.opcode == 0x7F && !step) || (m.opcode == 0x6A && (bankReqOf (bitsN m.imm.toNat 5 4)).isNone) ||
      (m.opcode == 0x71 && (m.sigObj != m.waitObj || !m.waitEn)) ||
      (match moveOp l m with
       | .arr o => arrayBad l m o
       | .vec o => vectorBad m o
       | .set o => setBad l m o step
       | .rsv o => decide (o.nSlots = 0 ∨ 20000 < o.nSlots)
       | _ => false),
    badRun l (fun k => [⟨0, none, k.tick⟩]) fun k r => r.moves.find? fun m => isKeep l m && (unitArrays l m.target).any (keepBadTick l k m),
    badRun l stepRuns fun k r => r.moves.find? fun m => isKeep l m && (unitArrays l m.target).any (keepBadStep l k r m),
    badRun l (tickRuns l) fun _ r => halvesBad l (fun _ => true) [] (byOffset r.moves),
    badRun l stepRuns fun k r => firstOf ((List.range (tickCycle l k)).map fun t =>
      halvesBad l ((movesPlaced r).contains) [] (byOffset (merged k t r).moves)),
    badRun l (allRuns l) (typeMixed l),
    badDesc l fun d => d.stgBytes % 64 != 0 || d.stgAddr % 64 != 0,
    badSched l fun k => (List.range k.jsteps.length).any fun j => ((jobSteps k j).drop 1).any fun i => (nth k.steps i {}).opnd != 0,
    badSched l (rsvBad l),
    badSched l fun k => decide (3 * l.period / 2 < worstTick l k (overMoves fun m => if m.opcode == 0x81 then bitsN m.imm.toNat 43 28 else 0)),
    badSched l fun k => decide (8 * l.period < worstTick l k (overMoves fun m => if m.cls == .tickCritical then dramMoved l m else 0))]

/-! ## V6: planned times (R19, R23, R155, R269, R385) -/

/-- A move of a run with no slip: its issue, its start behind the moves of its engines before it, and its completion. `key`: its place in the
run. `first`: the first write of a drain, of any other move its start. -/
structure Plan where
  m : Move
  key : Nat
  issue : Nat
  start : Nat
  first : Nat
  done : Nat
  deriving DecidableEq, Repr

/-- Moves of a run as planned so far, latest first, when each engine accepts its next move, and the array moves. -/
structure Planned where
  rev : List Plan := []
  free : Tab Nat := []
  runs : List ArrRun := []
  deriving DecidableEq, Repr

/-- Plan one more move of a run. It starts behind the streaming of its engines' moves, and behind the last row of a drain of the half that it
names (R155). A set move ends at its scheduled end E (R269). -/
def planMove (l : MList) (ref : Nat) (p : Planned) (m : Move) : Planned :=
  let keys := engineKeys l m.target
  let at_ := ref + m.offset
  let key := p.rev.length
  let arr := decide (m.target < 0x500)
  let half := if !arr then [] else (drainTimes l p.runs).1.filter fun d => p.runs.any fun r =>
    r.key == d.key && shareEngine l r.mv.target m.target && sameHalf l r.mv m
  let st := (half.map fun d => d.passed).foldl max ((keys.map fun e => tabGet 0 p.free e).foldl max at_)
  let set := blockKind m.opcode == .set
  let base := if set then at_ + moveDone l m false else st + moveDone l m false
  let busy := if set then base else st + moveBusy l m false
  { rev := ⟨m, key, at_, st, st, base⟩ :: p.rev
    free := if m.target < 0x560 then keys.foldl (fun f e => tabSet f e busy) p.free else p.free
    runs := if arr then p.runs ++ [⟨key, m, false, st⟩] else p.runs }

/-- The plan of a run: a drain writes and ends as the reads of its arrays' other moves and an earlier drain let it (R154, R155, R159). -/
def planRun (l : MList) (r : Run) : List Plan :=
  let p := (byOffset r.moves).foldl (planMove l r.ref) {}
  let ds := (drainTimes l p.runs).1
  p.rev.reverse.map fun x => match ds.find? fun d => d.key == x.key with
    | some d => { x with first := d.first, done := d.done }
    | none => x

/-- End of a reservation's last slot, for a LINK_RSV. -/
def rsvEnd (l : MList) (ref : Nat) (m : Move) : Nat :=
  match moveOp l m with | .rsv o => 6 * (rsvFirst m ref + o.nSlots) | _ => 0

/-- V6: every move completes by tick end − S, a step's by its window's end, and reservations end by tick end − S. -/
def checkV6 (l : MList) : Option (Nat × Nat) :=
  let lim := l.period - l.spill
  badRun l (allRuns l) fun _ r =>
    ((planRun l r).find? fun p => decide (lim < p.done) || decide (lim < rsvEnd l r.ref p.m) ||
      (match r.len with | some n => decide (r.ref + n < p.done) | none => false)).map fun p => p.m

/-! ## V7 and V8: banks (R118, R119, R174, R179, R181, R192, R276, R483) -/

/-- A range crosses a bank boundary or reaches a missing offset (R174). -/
def crosses (p : Part) (a n : Nat) : Bool :=
  decide (0 < n) && (bankOf a != bankOf (a + n - 1) || decide (bankSize p < bankOff a + n))

/-- Owners of a bank over the slots that meet the interval from `lo` to `hi` − 1, as (start, owner) (R201). -/
def ownersIn (k : Sched) (lo hi f b : Nat) : List (Nat × Nat) :=
  (List.range k.slots.length).filterMap fun i =>
    let d := nth k.slots i {}
    let next := match k.slots[i + 1]? with | some e => e.start | none => max hi (d.start + 1)
    if d.start < hi ∧ lo < next then some (max lo d.start, slotOwner d f b) else none

/-- One of some ports owns a bank throughout an interval. -/
def ownedBy (k : Sched) (ports : List Nat) (lo hi f b : Nat) : Bool := (ownersIn k lo hi f b).all fun x => ports.contains x.2

/-- The cycles of a plan in which a range is accessed: an array reads until its engine is free and writes from its first drain write (R154,
Table 06-5), every other move throughout. -/
def touchSpan (l : MList) (p : Plan) (t : Touch) : Nat × Nat :=
  match moveOp l p.m with
  | .arr o => if t.write then (p.first, p.done) else (p.start, p.start + arrayBusy l p.m o false)
  | _ => (p.start, p.done)

/-- What the front-end die delivers: field, address, bytes, and the cycles of the delivery (R118, R119, R181). -/
def deliveries (l : MList) : List (Nat × Nat × Nat × Nat × Nat) :=
  let n := fineSlots l.period
  (l.ingestField, l.ingestAddr, 384, 0, 40) :: (if n = 0 then [] else [(l.fineField, l.fineAddr, 192 * n, 40, 40 + 3 * n)])

/-- V7: R181 holds, and no move reads a delivery before its end. -/
def checkV7 (p : Part) (l : MList) : Option (Nat × Nat) :=
  firstOf [
    badHead (l.ingestAddr % 256 != 0 || (decide (0 < fineSlots l.period) && l.fineAddr % 64 != 0) ||
      (deliveries l).any fun (_, a, n, _, _) => crosses p a n),
    badSched l fun k => (deliveries l).any fun (f, a, _, lo, hi) => !ownedBy k [0x16] lo hi f (bankOf a),
    badRun l (allRuns l) fun _ r => ((planRun l r).find? fun x => (touches l x.m).any fun t => !t.write &&
      (deliveries l).any fun (f, a, n, _, hi) => touchMeet t ⟨f, [], a, n, true⟩ && decide (x.start < hi)).map fun x => x.m]

/-- BANK_SET moves of the tick program on a bank, as (offset, state), in order. -/
def bankSets (k : Sched) (f b : Nat) : List (Nat × BankReq) :=
  (byOffset (k.tick.filter fun m => m.opcode == 0x6A && m.imm.toNat % 16 == f && bitN m.imm.toNat (32 + b))).filterMap fun m =>
    (bankReqOf (bitsN m.imm.toNat 5 4)).map fun q => (m.offset, q)

/-- Cycles that a bank takes to be on after a BANK_SET, from the state before (R483). -/
def bankLead (p : Part) : BankReq → Nat
  | .on => 0
  | .retaining => 32
  | .off => 1200 + bankSize p / 256

/-- A bank is on and ready throughout an interval, as far as the BANK_SET moves of the tick program say: the one in force at its start may
stand in the tick before, and any in the interval leave it on (R192, R483). -/
def bankIsReady (p : Part) (period : Nat) (ev : List (Nat × BankReq)) (lo hi : Nat) : Bool :=
  let n := ev.length
  let at_ (i : Nat) : Nat × BankReq := nth ev (i % n) (0, .on)
  let good (k t : Nat) : Bool :=
    -- event k of the ticks, the first one of this tick being event n
    (at_ k).2 == .on && decide ((at_ k).1 + period * (k / n) + bankLead p (at_ (k + n - 1)).2 ≤ t + period)
  n == 0 || (good (n + (ev.filter fun e => decide (e.1 ≤ lo)).length - 1) lo &&
    (List.range n).all fun i => !decide (lo < (at_ i).1 ∧ (at_ i).1 < hi) || good (n + i) (at_ i).1)

/-- The field-memory range that a transfer to another chip names there crosses a bank boundary, or an offset that no order code has (R174). -/
def peerCrosses (l : MList) (m : Move) : Bool :=
  match moveOp l m with
  | .dma o =>
    let n := spanBytes o.dstStride o.len o.rows
    let a := o.dst % 2 ^ 23
    o.dstKind == .peer && decide (0 < n) && (bankOf a != bankOf (a + n - 1) || decide (192 * 1024 < bankOff a + n))
  | _ => false

/-- The cycles in which V8 holds a range against the slots: a set move's from its issue to its scheduled end E (R276), any other's in its
plan. -/
def ownSpan (l : MList) (p : Plan) (t : Touch) : Nat × Nat := if blockKind p.m.opcode == .set then (p.issue, p.done) else touchSpan l p t

/-- V8: static ranges stay inside their banks (R174), those of job descriptors among them (R224); the ports of count-timed array and
vector moves, and of every set move, own their banks (R179, R276); and the banks are on (R192, R483). -/
def checkV8 (p : Part) (l : MList) : Option (Nat × Nat) :=
  firstOf [
    badMove l fun _ _ m => peerCrosses l m || (touches l m).any fun t => crosses p t.addr t.len,
    badDesc l fun d => (d.refill && crosses p d.tktAddr 32) || decide (2 ^ 23 < d.stgAddr + d.stgBytes) || crosses p d.stgAddr d.stgBytes,
    badRun l (allRuns l) fun k r => ((planRun l r).find? fun x => (touches l x.m).any fun t =>
      let (lo, hi) := ownSpan l x t
      let counted := (!x.m.waitEn && decide (x.m.target < 0x520)) || (blockKind x.m.opcode == .set && !t.ports.contains 0x15)
      (counted && !ownedBy k t.ports lo hi t.field (bankOf t.addr)) ||
        !bankIsReady p l.period (bankSets k t.field (bankOf t.addr)) lo hi).map fun x => x.m]

/-! ## V9: sync objects (R207, R211, R212, R276, R278) -/

/-- Two moves can issue in one tick; a step's may in any (R202). -/
def together (l : MList) (a b : Move) : Bool :=
  let (x, y) := if a.every < b.every then (b, a) else (a, b)
  decide (x.phase < min l.frameLen (2 ^ x.every)) && x.phase % 2 ^ y.every == y.phase

/-- Move `a` issues in every tick in which `b` does. -/
def always (a b : Move) : Bool := decide (a.every ≤ b.every) && b.phase % 2 ^ a.every == a.phase

/-- What a move adds to an object: its signal, or a BARRIER's 1 (R208, R210). -/
def signalsTo (obj : Nat) (m : Move) : Nat :=
  if m.opcode = 0x71 then b2n (m.waitObj == obj) else if m.sigObj = obj then m.sigN else 0

/-- The waits that stand before a move of a run: its own, and those of earlier moves of its engine in the same tick or step (R211). -/
def waitsFor (l : MList) (r : Run) (m : Move) : List (Nat × Nat) :=
  let keys := engineKeys l m.target
  (r.moves.filter fun w => w.waitEn && (w == m || (decide (w.offset ≤ m.offset) && always w m && (engineKeys l w.target).any keys.contains))).map
    fun w => (w.waitObj, w.waitTgt)

/-- How often a move can signal an object before a wait of move `m` on it: once in the epoch of a tick or step; a move of the tick program once in
each of its ticks of the frame for a frame-scoped object, and without a bound for a persistent one (R202, R207; log 35). -/
def signalsOf (l : MList) (k : Sched) (obj tgt : Nat) (m x : Move) : Nat :=
  let n := signalsTo obj x
  let scope : Option Scope := (syncDef l obj).map fun d => d.scope
  match scope with
  | some .tick => if together l x m then n else 0
  | some .frame => if k.tick.contains x then n * ((List.range l.frameLen).filter fun t => t % 2 ^ x.every == x.phase).length else n
  | some .persistent => if k.tick.contains x && n != 0 then max n tgt else n
  | _ => n

/-- The writer's signal is needed to reach the target of one of the waits. -/
def fencedBy (l : MList) (k : Sched) (all : List Move) (m w : Move) (waits : List (Nat × Nat)) : Bool :=
  waits.any fun (obj, tgt) => w.sigN != 0 && w.sigObj == obj &&
    decide (((all.filter fun x => x != w).map (signalsOf l k obj tgt m)).foldl (· + ·) 0 < tgt)

/-- Writers whose data are consumed only through their signal: DMA moves and set moves (R211, R276). -/
def syncWriter (m : Move) : Bool := blockKind m.opcode == .dma || blockKind m.opcode == .set

/-- A move of a run reads what such a writer writes, with no wait that its signal is needed for. -/
def unfenced (l : MList) (k : Sched) (r : Run) (m : Move) : Bool :=
  let all := k.tick ++ (stepRuns k).flatMap fun x => x.moves
  let reads := (touches l m).filter fun t => !t.write
  let waits := waitsFor l r m
  !reads.isEmpty && all.any fun w => syncWriter w && w != m &&
    ((touches l w).any fun t => t.write && reads.any (touchMeet t)) && !fencedBy l k all m w waits

/-- Earliest start of a wait on a transfer's object: of a DRAM read that does not go to the host (R212, R544), and for tick-critical moves of a GATHER_D (R278). -/
def waitFloor (l : MList) (ref : Nat) (m : Move) (waiter : Move) : Nat :=
  match moveOp l m with
  | .dma o => if o.srcKind == .dram ∧ o.dstKind ≠ .host then ref + m.offset + l.dramPlan + (o.len * o.rows + 63) / 64 + m.allow else 0
  | .set o => if m.opcode = 0x81 ∧ waiter.cls = .tickCritical then ref + m.offset + o.budgetAc + l.dramPlan + 24 else 0
  | _ => 0

/-- Planned start of a wait of run `r` against a transfer issued in run `q`: of two different steps the wait of one that stands before the issue
is that of the next tick (R212). -/
def waitAt (l : MList) (r q : Run) (w m : Move) : Nat :=
  let t := r.ref + w.offset
  if r.len.isSome && q.len.isSome && r != q && decide (t < q.ref + m.offset) then t + l.period else t

/-- A move reads DRAM by DMA. -/
def dramRead (l : MList) (m : Move) : Bool := match moveOp l m with | .dma o => o.srcKind == .dram | _ => false

/-- V9: objects are listed, each once, `ring` not on a step-scoped one; R211, R212, R276 and R278 hold. -/
def checkV9 (l : MList) : Option (Nat × Nat) :=
  let known (o : Nat) : Bool := (syncDef l o).isSome
  firstOf [
    badHead ((l.syncs.map fun d => d.obj).eraseDups.length != l.syncs.length || l.syncs.any fun d => d.ring && d.scope == .step),
    badMove l fun _ _ m => (m.waitEn && !known m.waitObj) || (m.sigN != 0 && !known m.sigObj) || (m.opcode == 0x60 && m.sigN == 0) ||
      (dramRead l m && decide (m.allow < 24)) || (!dramRead l m && m.allow != 0),
    badRun l sections fun k r => r.moves.find? fun m => unfenced l k r m,
    badRun l sections fun k r => r.moves.find? fun w => w.waitEn && (sections k).any fun q =>
      q.moves.any fun m => m.sigN != 0 && m.sigObj == w.waitObj && decide (waitAt l r q w m < waitFloor l q.ref m w)]

/-- Payload bytes of a list's records (R34). -/
def recordBytesOf (l : MList) : Nat := 4 * l.nFeat + roundUp (2 * l.nFeat) 4 + 4 * l.nCorr

/-! ## V10 to V13 (R26, R58, R189, R202, R214, R475) -/

/-- A frame or gap move. -/
def lateable (m : Move) : Bool := m.cls == .frame || m.cls == .gap

/-- The slip of move `y` reaches move `x` through a sync object (R23). -/
def behindSync (x y : Plan) : Bool := x.m.waitEn && signalsTo x.m.waitObj y.m != 0

/-- The slip of move `y` reaches move `x` through a bank that another port of `y` holds before (R23). -/
def behindBank (l : MList) (x y : Plan) : Bool :=
  together l y.m x.m && (touches l x.m).any fun t => (touches l y.m).any fun u =>
    u.field == t.field && bankOf u.addr == bankOf t.addr && u.ports != t.ports && decide ((touchSpan l y u).1 < (touchSpan l x t).1)

/-- The slip of move `y` reaches move `x` through a shared engine (R23). -/
def behindEngine (l : MList) (x y : Plan) : Bool := together l y.m x.m && shareEngine l y.m.target x.m.target && decide (y.issue < x.issue)

/-- The moves among `ps` that the slip of a frame or gap move reaches: these themselves, and service moves along any path of R23. -/
def slipReach (l : MList) (ps : List Plan) : Nat → List Plan → List Plan
  | 0, late => late
  | fuel + 1, late =>
    let more := ps.filter fun x => x.m.cls == .service && !late.contains x &&
      late.any fun y => behindSync x y || behindBank l x y || behindEngine l x y
    if more.isEmpty then late else slipReach l ps fuel (late ++ more)

/-- A move's use of the record build area's banks that is not DMA port 0's holds back their hand-over (R203). -/
def holdsRecord (l : MList) (k : Sched) (x : Plan) : Bool :=
  (touches l x.m).any fun t => t.field == l.recField &&
    (List.range ((recordBytesOf l + 7) / 8)).any (fun i => bankOf (l.recAddr + 8 * i) == bankOf t.addr) &&
    (let (lo, hi) := touchSpan l x t
     (ownersIn k lo hi t.field (bankOf t.addr)).any fun o => o.2 != 0x15)

/-- V10: no slip of a frame or gap move, also by way of service moves, reaches a tick-critical move through a sync object or a bank, or the
hand-over of the record build area to the commit logic (R23, R26, R203; log 35). -/
def checkV10 (l : MList) : Option (Nat × Nat) :=
  firstOf ((List.range l.scheds.length).map fun i =>
    let k := nth l.scheds i {}
    let ps := (allRuns l k).flatMap (planRun l)
    let late := slipReach l ps ps.length (ps.filter fun x => lateable x.m)
    firstOf [
      (ps.find? fun x => x.m.cls == .tickCritical && late.any fun y => behindSync x y || behindBank l x y).map fun x => (i, x.m.moveId),
      (late.find? (holdsRecord l k)).map fun x => (i, x.m.moveId)])

/-- Polders that a move needs: those of its engines, and the field memory that it reaches (Table 02-6). -/
def movePolders (l : MList) (m : Move) : List Nat :=
  let fs := targetFields l m.target
  ((if m.target < 0x500 then unitArrays l m.target else if m.target < 0x560 then fs.map pEngine
    else if 0x580 ≤ m.target ∧ m.target < 0x584 then [pLink (m.target - 0x580)] else []) ++
    (fs ++ (touches l m).map fun t => t.field).map pFm).eraseDups

/-- A PWR_UP stands less than two ticks before a move that uses its polder, in some tick (R475). -/
def upTooLate (l : MList) (u m : Move) : Bool :=
  (List.range (min l.frameLen (2 ^ max u.every m.every))).any fun t =>
    t % 2 ^ m.every == m.phase && (List.range 3).any fun n =>
      (t + 3 * l.frameLen - n) % l.frameLen % 2 ^ u.every == u.phase &&
        decide (u.offset ≤ n * l.period + m.offset ∧ n * l.period + m.offset < 2 * l.period + u.offset)

/-- Start of step n of a job from T0 of the tick in which step i runs, when each step runs in the first occurrence of its window. -/
def stepAfter (l : MList) (k : Sched) (j i : Nat) : Nat → Nat
  | 0 => if i = 0 then (match stepWindow k j 0 with | some w => (nth k.wins w {}).start | none => 0) else 0
  | n + 1 =>
    let start (q : Nat) : Nat := match stepWindow k j q with | some w => (nth k.wins w {}).start | none => 0
    let t := stepAfter l k j i n
    if n + 1 = i then start i
    else if n + 1 < i then 0
    else if start n < start (n + 1) then t - start n + start (n + 1) else t - start n + l.period + start (n + 1)

/-- A PWR_UP of step i of job j stands less than two ticks before a use of its polder in step n of the same job; a use by other work can come
at any time (R475). -/
def upInStep (l : MList) (k : Sched) (j i : Nat) (u : Move) : Bool :=
  let p := u.imm.toNat % 512
  let uses (m : Move) : Bool := (movePolders l m).contains p
  let at_ := stepAfter l k j i i + u.offset
  k.tick.any uses ||
    (List.range k.jsteps.length).any fun j' => (List.range (stepStarts k j').length).any fun n =>
      ((stepMoves k j' n).map fun x => nth k.steps x {}).any fun m => uses m &&
        (j' != j || (decide (i ≤ n) && decide (at_ ≤ stepAfter l k j i n + m.offset ∧ stepAfter l k j i n + m.offset < at_ + 2 * l.period)))

/-- The first power command of a sequence that breaks R58, over the polders that are up before it: a PWR_DOWN of a field memory under an array or
engine that is up, or a PWR_UP of one of these without its field memory. -/
def powerBad : BitVec 293 → List Move → Option Move
  | _, [] => none
  | up, m :: rest =>
    let q := m.imm.toNat % 512
    if m.opcode = 0x68 then
      match polderField q with
      | some f => if up.getLsbD (pFm f) then powerBad (up ||| BitVec.ofNat 293 (2 ^ q)) rest else some m
      | none => powerBad (up ||| BitVec.ofNat 293 (2 ^ q)) rest
    else if m.opcode = 0x69 then
      if (polderList up).any fun x => match polderField x with | some f => pFm f == q | none => false then some m
      else powerBad (up &&& ~~~ BitVec.ofNat 293 (2 ^ q)) rest
    else powerBad up rest

/-- V11: R58 holds in every polder set and after every power command of the tick program and of a job, each taken in order from the schedule's
set (log 35), and every PWR_UP stands two ticks before the first use. -/
def checkV11 (l : MList) : Option (Nat × Nat) :=
  firstOf [
    badRun l (fun k => ⟨0, none, (List.range (2 * tickCycle l k)).flatMap fun t => byOffset (tickRun k t)⟩ ::
        (List.range k.jsteps.length).map fun j => ⟨0, none, (List.range (stepStarts k j).length).flatMap fun n => byOffset (stepOf k j n).moves⟩)
      fun k r => powerBad k.polders r.moves,
    badSched l fun k => (polderList k.polders).any fun p =>
      match polderField p with | some f => !k.polders.getLsbD (pFm f) | none => false,
    badMove l fun k step m => k.tick.any fun u =>
      u.opcode == 0x68 && (movePolders l m).contains (u.imm.toNat % 512) && (step || upTooLate l u m),
    badSched l fun k => (List.range k.jsteps.length).any fun j => (List.range (stepStarts k j).length).any fun i =>
      ((stepMoves k j i).map fun x => nth k.steps x {}).any fun u => u.opcode == 0x68 && upInStep l k j i u]

/-- Planned end of a descriptor: a DRAM read into a field by its planning figure; any other transfer has no bound but the tick's end (R212, R544). -/
def descEnd (l : MList) (p : Plan) : Nat :=
  match moveOp l p.m with
  | .dma o => if o.srcKind == .dram && o.dstKind == .fieldMem then p.done else max p.done l.period
  | _ => p.done

/-- The times in which the tick-critical descriptors of a run are in flight. -/
def descSpans (l : MList) (r : Run) : List (Nat × Nat) :=
  ((planRun l r).filter fun p => p.m.opcode == 0x60 && p.m.cls == .tickCritical).map fun p => (p.start, descEnd l p)

/-- A move of a run at whose issue more than 16 issued moves wait on one of its engines. -/
def queueOver (l : MList) (r : Run) : Option Move :=
  let ps := planRun l r
  (ps.find? fun p => decide (p.m.target < 0x560) && (engineKeys l p.m.target).any fun e =>
    decide (16 < (ps.filter fun q => (engineKeys l q.m.target).contains e && decide (q.issue ≤ p.issue ∧ p.issue < q.start)).length)).map
    fun p => p.m

/-- V12: at most 16 issued moves wait on an engine in a tick, alone or with a step that runs in it (steps of different windows do not meet on an
engine, R206), and at most 64 tick-critical descriptors are in flight (R189, R202). -/
def checkV12 (l : MList) : Option (Nat × Nat) :=
  firstOf [
    badRun l (fun k => tickRuns l k ++ (stepRuns k).flatMap fun r => (List.range (tickCycle l k)).map fun t => merged k t r) fun _ r => queueOver l r,
    badSched l fun k => ((allRuns l k).flatMap (descSpans l)).any fun x =>
      decide (64 < worstTick l k fun r => ((descSpans l r).filter fun y => decide (y.1 ≤ x.1 ∧ x.1 < y.2)).length)]

/-- Resources of R214 that a move uses: its arrays and fields, or its link. -/
def moveResources (l : MList) (m : Move) : List Nat :=
  (if m.target < 0x500 then (unitArrays l m.target).flatMap fun a => [a, 256 + a / 16]
   else if m.target < 0x560 then [256 + (m.target - 0x500) % 32]
   else if 0x580 ≤ m.target ∧ m.target < 0x584 then [272 + (m.target - 0x580)] else []) ++ (touches l m).map fun t => 256 + t.field

/-- V13: a schedule uses nothing of its own fence mask, and no polder outside its polder set. -/
def checkV13 (l : MList) : Option (Nat × Nat) :=
  badMove l fun k _ m => (moveResources l m).any (fun r => fenced k.mask r) || (movePolders l m).any fun p => !k.polders.getLsbD p

/-! ## V14 to V16 (R203, R206, R216, R274) -/

/-- A schedule's tick-critical moves in order, each with its operand block in place of its index. -/
def tcMoves (l : MList) (k : Sched) : List (Move × BitVec 512) :=
  (byOffset (k.tick.filter fun m => m.cls == .tickCritical)).map fun m => ({ m with opnd := 0 }, blockOf l m)

/-- Bank owners over the accesses of a schedule's tick-critical moves, as each tick of the cycle plans them. -/
def tcOwners (l : MList) (k : Sched) : List (Nat × List (Nat × Nat)) :=
  ((List.range (tickCycle l k)).map fun t => (⟨0, none, (tickRun k t).filter fun m => m.cls == .tickCritical⟩ : Run)).eraseDups.flatMap fun r =>
    (planRun l r).flatMap fun x => (touches l x.m).map fun t =>
      let (lo, hi) := touchSpan l x t
      let own := ownersIn k lo hi t.field (bankOf t.addr)
      (x.m.moveId, (List.range own.length).filterMap fun i =>
        let o := nth own i (0, 0)
        if i ≠ 0 ∧ (nth own (i - 1) (0, 0)).2 = o.2 then none else some o)

/-- V14: tiers with a base placement, distinct schedules, the same tick-critical moves and bank owners in every tier of a placement, and no
more windows in thinner tiers (R216). -/
def checkV14 (l : MList) : Option (Nat × Nat) :=
  let key (k : Sched) : Nat := 32 * k.tier + k.placement
  firstOf [
    badHead (!(l.scheds.any fun k => key k == 0) || (l.scheds.map key).eraseDups.length != l.scheds.length ||
      l.scheds.any fun k => !(l.scheds.any fun q => q.tier == k.tier && q.placement == 0)),
    badSched l fun k => l.scheds.any fun q => q.placement == k.placement && (tcMoves l q != tcMoves l k || tcOwners l q != tcOwners l k ||
      (q.tier == 0 && k.tier == 1 && decide (q.wins.length < k.wins.length)) || (k.tier == 2 && !k.wins.isEmpty))]

/-- A vector move that works in place (R172). -/
def inPlaceMove (l : MList) (m : Move) : Bool := match moveOp l m with | .vec o => vecInPlace m.opcode o | _ => false

/-- A step's moves, the in-place vector moves of R172 apart, write a range that an earlier move of the step reads. -/
def stepRewrites (l : MList) : List Touch → List Move → Option Move
  | _, [] => none
  | reads, m :: rest =>
    let ts := touches l m
    if !inPlaceMove l m && ts.any fun w => w.write && reads.any (touchMeet w) then some m else stepRewrites l (reads ++ ts.filter fun t => !t.write) rest

/-- V15: steps' windows, windows of jobs on one engine, and steps that can be started again (R206, R274). -/
def checkV15 (l : MList) : Option (Nat × Nat) :=
  let engines (k : Sched) (w : Nat) : List Nat :=
    ((List.range k.jsteps.length).flatMap fun j => (List.range (stepStarts k j).length).flatMap fun n =>
      if stepWindow k j n == some w then (stepMoves k j n).flatMap fun i => engineKeys l (nth k.steps i {}).target else []).eraseDups
  firstOf [
    badSched l fun k => (List.range k.jsteps.length).any fun j =>
      (decide (0 < (nth k.jsteps j (0, 0)).2) && (nth k.steps (nth k.jsteps j (0, 0)).1 {}).opcode != 0x7F) ||
      decide (k.steps.length < (nth k.jsteps j (0, 0)).1 + (nth k.jsteps j (0, 0)).2) ||
      (List.range (stepStarts k j).length).any fun n => match stepWindow k j n with
        | none => true
        | some w => match k.wins[w]? with | none => true | some win => win.job != j,
    badSched l fun k => anyPair (fun a b =>
      let x := nth k.wins a {}
      let y := nth k.wins b {}
      x.job != y.job && overlaps (x.start, x.len) (y.start, y.len) && (engines k a).any (engines k b).contains) (List.range k.wins.length),
    badRun l stepRuns fun _ r => stepRewrites l [] (byOffset r.moves),
    badMove l fun _ step m => step && [0x83, 0x84, 0x8D, 0x90, 0x91].contains m.opcode && !bitN m.imm.toNat 27]

/-- V16: `n_feat` and `n_corr`, and DMA port 0 owns the record build area from tick end − S (R34, R203). -/
def checkV16 (p : Part) (l : MList) : Option (Nat × Nat) :=
  let bytes := recordBytesOf l
  firstOf [
    badHead (decide (256 < l.nFeat ∨ 64 < l.nCorr) || l.recAddr % 64 != 0),
    badSched l fun k => bytes != 0 && (!ownedBy k [0x15] (l.period - l.spill) l.period l.recField (bankOf l.recAddr) ||
      crosses p l.recAddr bytes)]

/-- The first check that an image fails: check number, schedule and `move_id` (R221, Table 08-14). -/
def loaderFails (p : Part) (b : List Byte) : Option (Nat × Nat × Nat) :=
  let l := parseList b
  let one (n : Nat) : Option (Nat × Nat) := match n with
    | 1 => checkV1 p b | 2 => checkV2 b l | 3 => checkV3 b l | 4 => checkV4 p l | 5 => checkV5 l | 6 => checkV6 l | 7 => checkV7 p l
    | 8 => checkV8 p l | 9 => checkV9 l | 10 => checkV10 l | 11 => checkV11 l | 12 => checkV12 l | 13 => checkV13 l
    | 14 => checkV14 l | 15 => checkV15 l | _ => checkV16 p l
  (List.range 16).foldl (fun (r : Option (Nat × Nat × Nat)) i =>
    match r with
    | some e => some e
    | none => (one (i + 1)).map fun e => (i + 1, e.1, e.2)) none

end Sys2Proof.Machine
end

