-- ==== Sys2Proof/Machine/MoveLists.lean ====
section
/-! DEFINITION. The move-list commands (Table 08-13): loading into the standby half, starting, stopping, status; the length of a tick
record (R34), and the jobs of a change that takes effect (R219). -/

namespace Sys2Proof.Machine

/-- Bytes of a tick record (R34). -/
def recordLen (nFeat nCorr : Nat) : Nat := 64 + 4 * nFeat + roundUp (2 * nFeat) 4 + 4 * nCorr

/-- Bytes of a range of device DRAM as a command reads them; the data of a poisoned line are free (log 37). -/
def dramImage (s : State) (a n : Nat) : List Byte :=
  (List.range n).map fun i => if linePoison s ((a + i) / 64) then Config.freeByte s.free (a + i) else dramByte s (a + i)

/-- An ML_LOAD is in progress: it waits for the DRAM, or it has read its image, and its completion is still to come (R221, R336). -/
def loadRuns (s : State) : Bool :=
  (s.mbx.waits.any fun w => w.opcode == 0x0110) ||
  s.mbx.due.any fun c => c.opcode == 0x0110 &&
    (c.status == .ok || c.status == .imageReject || c.status == .signatureFail || c.status == .rollback)

/-- A load that fails its parameters leaves no verified image either, unless the standby half is not its to replace: an ML_START is pending or
another load runs (R221; log 70). -/
def loadFails (st : Status) (c : Cmd) (s : State) : State :=
  fail 0x0110 c st (if startPending s || loadRuns s then s else setSeq (fun q => { q with standby := none }) s)

/-- The image of an ML_LOAD is read and checked: IMAGE_REJECT carries the check in `detail`, and the schedule and `move_id` in `data` [31:0]
and [47:32] (R221, log 26). -/
def loadImage (c : Cmd) (src len : Nat) (s : State) : State :=
  let s1 := dramScan src len s
  let b := dramImage s1 src len
  let h := mlHead b
  let s2 := verifyScan typeMoveList (bitsN h 415 384) b (bitsN h 447 416) (draw s1)
  match verifyImage s2 typeMoveList (bitsN h 415 384) b (bitsN h 447 416) with
  | some st => fail 0x0110 c st s2
  | none =>
    match loaderFails s2.part b with
    | some (n, i, mid) => complete 0x0110 c .imageReject n (pack [(0, 32, i), (32, 16, mid)]) 0 s2
    | none => completeOk 0x0110 c 0 (setSeq (fun q => { q with standby := some (parseList b) }) s2)

/-- ML_LOAD (R221): the standby half holds nothing from the doorbell until the image has passed its signature and the loader's checks. -/
def bodyMlLoad (c : Cmd) (s : State) : State :=
  let src := fld c 127 64 0
  let len := fld c 63 32 0
  if src % 64 ≠ 0 ∨ !rangeOk s src len then loadFails .badParam c s
  else if len = 0 ∨ 2 ^ 22 < len then loadFails .badLength c s
  else if startPending s || loadRuns s then fail 0x0110 c .busy s
  else dramGo 0x0110 c (loadImage c src len) (setSeq (fun q => { q with standby := none }) s)

/-- The source in use, or the one that a pending command selects, takes its edges from gPTP (R15). -/
def gptpSource (s : State) : Bool :=
  s.tick.source == 3 || s.tick.source == 4 || waiting s fun a => match a with | .source k _ => k == 3 || k == 4 | _ => false

/-- A list's records do not fit the entries of the ring that is set up (R38). -/
def recordsTooLong (s : State) (l : MList) : Bool := s.tring.on && decide (2 ^ s.tring.entryLog2 < recordLen l.nFeat l.nCorr)

/-- ML_START: the swap is decided, and the command completes where it takes effect (R218, R222). -/
def bodyMlStart (c : Cmd) (s : State) : State :=
  if startPending s || loadRuns s then fail 0x0111 c .busy s
  else match s.seq.standby with
  | none => fail 0x0111 c .notReady s
  | some l =>
    if recordsTooLong s l then fail 0x0111 c .badLength s
    else if gptpSource s ∧ l.period % 6 ≠ 0 then fail 0x0111 c .badParam s
    else decideChange 3 (waitFor 0x0111 c .mlStart s)

/-- ML_STOP (R223). -/
def bodyMlStop (c : Cmd) (s : State) : State :=
  if s.seq.active.isNone then completeOk 0x0112 c 0 s else waitFor 0x0112 c .mlStop s

/-- The ML_STATUS block (Table 08-13; log 26): active and standby `movelist_id` (0xFFFF for none), placement, tier, F, stopped classes,
and per job a state byte, the cursor and the `overrun` count. -/
def mlStatusBlock (s : State) : List Byte :=
  let idOf (l : Option MList) : Nat := match l with | some x => x.movelistId | none => 0xFFFF
  let n := match s.seq.active with | some l => l.jobs.length | none => 0
  leBytes 2 (idOf s.seq.active) ++ leBytes 2 (if loadRuns s then 0xFFFF else idOf s.seq.standby) ++ leBytes 1 (placementNow s) ++ leBytes 1 s.seq.tierRun ++
  leBytes 2 s.seq.stopped.toNat ++ leBytes 64 s.seq.fence.toNat ++ (List.range n).flatMap fun j =>
    let x := jobOf s j
    leBytes 1 (b2n x.running + 2 * b2n x.busy) ++ leBytes 3 x.cursor ++ leBytes 4 x.overrun

def bodyMlStatus (c : Cmd) (s : State) : State := respond 0x0113 c (mlStatusBlock s) 0 s

def execMlLoad (c : Cmd) (s : State) : Result := .next (deliver 0x0110 bodyMlLoad c s)
def execMlStart (c : Cmd) (s : State) : Result := .next (deliver 0x0111 bodyMlStart c s)
def execMlStop (c : Cmd) (s : State) : Result := .next (deliver 0x0112 bodyMlStop c s)
def execMlStatus (c : Cmd) (s : State) : Result := .next (deliver 0x0113 bodyMlStatus c s)

/-! ## Jobs at a change of schedule and at a frame boundary (R205, R219) -/

/-- Every running job is abandoned: an abandoned frame run counts one `overrun` (R219). -/
def abandonJobs (l : MList) (s : State) : State :=
  (List.range l.jobs.length).foldl (fun t j =>
    if (jobOf t j).running then setJob j (fun y => { y with
      running := false, busy := false, cursor := 0, overrun := y.overrun + b2n (nth l.jobs j {}).isFrame }) t
    else t) s

/-- Job classes whose gap jobs run. -/
def gapClasses (s : State) : List Nat :=
  match s.seq.active with
  | none => []
  | some l => ((List.range l.jobs.length).filterMap fun j =>
      let d := nth l.jobs j {}
      if !d.isFrame && (jobOf s j).running then some d.jclass else none).eraseDups

/-! ### Runs of the training and the evaluation job (R307, R310) -/

/-- A job is one of a class that can run, and none of the class is running. -/
def classIdle (s : State) (jc j : Nat) : Bool :=
  (jobsOfClass s jc).contains j && !s.seq.stopped.getLsbD jc && (jobsOfClass s jc).all fun j => !(jobOf s j).running

/-- The VADAM moves of a job in the schedule in force: their fields and the addresses of their scalar blocks. -/
def adamBlocks (s : State) (j : Nat) : List (Nat × Nat) :=
  match s.seq.active, runSched s with
  | some l, some k => (jobMoves k j).filterMap fun m =>
      if m.opcode = 0x50 then (parseVec (blockOf l m)).map fun o => ((m.target - 0x500) % 32, o.scAddr) else none
  | _, _ => []

/-- A run of a training job, one optimiser step, starts when a batch of unused samples is in the log and the class is idle: it takes the oldest
ones, and the firmware writes the scalars of its VADAM moves. None starts in tier minimal (R306, R307, Table 11-6). -/
def trainStart (j : Nat) (s : State) : State :=
  match s.watch.image with
  | none => s
  | some im =>
    if s.watch.run ≠ 1 ∨ 2 ≤ s.seq.tierRun ∨ s.watch.samples.length < s.watch.params.batch ∨ !classIdle s im.jcTrain j then s
    else
      let s1 := setWatch (fun w => { w with stepUse := some (w.samples.take w.params.batch) }) (triggerJob j s)
      (adamBlocks s j).foldl (fun t e => writeAdam (s.watch.learned.t + 1) e.1 e.2 t) s1

/-- A run of an evaluation job starts and writes the snapshot, unless an earlier one is still to be copied (R310, R312). None starts in tier
minimal (Table 11-6). -/
def evalStart (j : Nat) (s : State) : State :=
  match s.watch.image with
  | none => s
  | some im =>
    if s.watch.run ≠ 1 ∨ 2 ≤ s.seq.tierRun ∨ !classIdle s im.jcEval j ∨ s.watch.promote ∨ copyUnderWay s im then s
    else takeSnapshot im (setWatch (fun w => { w with evalOn := true, evalT := w.learned.t }) (triggerJob j s))

/-- The firmware starts a fresh gap job of each class that had one; those of the watch start as their triggers let them (R219, R306, R307, R314;
log 38). -/
def freshGaps (classes : List Nat) (s : State) : State :=
  match s.seq.active with
  | none => s
  | some l =>
    let is (p : WImage → Nat) (c : Nat) : Bool := match s.watch.image with | some im => p im == c | none => false
    (List.range l.jobs.length).foldl (fun t j =>
      let d := nth l.jobs j {}
      if d.isFrame || !classes.contains d.jclass then t
      else if is WImage.jcTrain d.jclass then trainStart j t
      else if is WImage.jcEval d.jclass then evalStart j t
      else if s.watch.run == 0 && is WImage.jcStat d.jclass then t
      else triggerJob j t) s

/-- Frame jobs at a frame boundary: one whose start boundary it is starts, or counts an overrun when it still runs (R205). -/
def startFrameJobs (s : State) : State :=
  match s.seq.active with
  | none => s
  | some l => (List.range l.jobs.length).foldl (fun t j =>
      let d := nth l.jobs j {}
      if !d.isFrame || d.start == 0 || s.tick.frame.toNat % d.start != 0 then t
      else if (jobOf t j).running then setJob j (fun y => { y with overrun := y.overrun + 1 }) t
      else startJob j t) s

end Sys2Proof.Machine
end

