-- ==== Sys2Proof/Machine/Kv.lean ====
section
/-! DEFINITION. The KV page pool (chapter 09): its set-up, sequences, staging and flushing, page allocation and drops, refills and
compaction. -/

namespace Sys2Proof.Machine

/-! ## Job descriptors (R224, Table 09-1) -/

/-- The descriptor that a job's first STEP record names in the schedule in force, none for other jobs (R224). -/
def jobDesc (s : State) (j : Nat) : Option JobDesc :=
  match s.seq.active, runSched s with
  | some l, some k =>
    let m := nth k.steps (nth k.jsteps j (0, 0)).1 {}
    if m.opcode = 0x7F ∧ m.opnd ≠ 0 ∧ 0 < (nth k.jsteps j (0, 0)).2 then some (descOf (nth l.opnds m.opnd 0)) else none
  | _, _ => none

/-- Jobs of a kind, with their descriptors. -/
def descJobs (s : State) (refill : Bool) : List (Nat × JobDesc) :=
  match s.seq.active with
  | none => []
  | some l => (List.range l.jobs.length).filterMap fun j =>
      match jobDesc s j with | some d => if d.refill == refill then some (j, d) else none | none => none

/-- Job class of a job of the running list. -/
def classOfJob (s : State) (j : Nat) : Nat := match s.seq.active with | some l => (nth l.jobs j {}).jclass | none => 0

/-- The attention or refill job of a job class. -/
def jobOfClass (s : State) (refill : Bool) (jc : Nat) : Option (Nat × JobDesc) :=
  (descJobs s refill).find? fun e => classOfJob s e.1 == jc

/-! ## Pages (R239, R240, Tables 09-6 and 09-7) -/

/-- Data bytes of a page: keys and values, each followed by its scales in MXFP4 (R239). -/
def pageBytes (f : Fmt) (h d : Nat) : Nat := 2 * (elemBytes f (128 * h * d) + (if fmtMx f then 4 * h * d else 0))

/-- Granules of a page. -/
def pageGranules (bytes : Nat) : Nat := (bytes + 4095) / 4096

/-- A page table entry of the pool. -/
def pageOf (s : State) (e : Nat) : Page := tabGet {} s.kv.pages e

/-- The 32 bytes of a page header (Table 09-7). -/
def headerBytes (p : Page) : List Byte :=
  leBytes 32 (pack [(112, 2, p.origin), (114, 2, p.state), (116, 4, match p.fmt with
      | .int4 => 0 | .e4m3 => 2 | .e5m2 => 3 | .mxfp4 => 8 | .bf16 => 9 | .fp16 => 10 | _ => 0), (120, 10, p.idx), (130, 6, p.layer),
    (136, 8, p.seq), (144, 16, p.len256), (160, 32, p.granule), (192, 64, p.ageTick.toNat)])

/-- Write a page header, in the pool manager's table and in DRAM (R240). -/
def pagePut (e : Nat) (p : Page) (s : State) : State :=
  let base := match s.kv.pool with | some q => q.base | none => 0
  dramWrite (base + 32 * e) (headerBytes p) [] (setKv (fun k => { k with
    pages := if p = {} then tabDel k.pages e else tabSet k.pages e p }) s)

/-- Granules that resident pages hold, as (first, count). -/
def usedRuns (s : State) : List (Nat × Nat) :=
  s.kv.pages.filterMap fun e => if e.2.state = 1 then some (e.2.granule, pageGranules (256 * e.2.len256)) else none

/-- Granules of the pool that pages may use: after the 32 MiB of the page table (R239). -/
def poolGranules (s : State) : Nat × Nat := match s.kv.pool with | some q => (8192, 256 * q.sizeMib) | none => (0, 0)

/-- A run of granules is free. -/
def runFree (s : State) (g n : Nat) : Bool :=
  let (lo, hi) := poolGranules s
  decide (lo ≤ g ∧ g + n ≤ hi) && (usedRuns s).all fun r => decide (g + n ≤ r.1 ∨ r.1 + r.2 ≤ g)

/-- Granules that are free. -/
def freeGranules (s : State) : Nat :=
  let (lo, hi) := poolGranules s
  (hi - lo) - ((usedRuns s).map Prod.snd).foldl (· + ·) 0

/-- First granules at which `n` contiguous free ones lie. -/
def freeStarts (s : State) (n : Nat) : List Nat :=
  let (lo, hi) := poolGranules s
  ((List.range (hi - lo)).map (lo + ·)).filter fun g => runFree s g n

/-- A choice among candidates that no rule makes (log 39). -/
def pickOne (s : State) (tag : Nat) (xs : List Nat) : Option Nat :=
  if xs = [] then none else some (nth xs (Config.freeNat s.free tag % xs.length) 0)

/-- Entries that a serve has locked (R246). -/
def lockedPages (s : State) : List Nat :=
  s.kv.jobs.flatMap fun e => match e.2.serving with | some v => v.locks | none => []

/-- A sequence is pinned; a closed one is not. -/
def pinnedSeq (s : State) (q : Nat) : Bool := (tabGet {} s.kv.seqs q).pinned

/-- Order of drops and of compaction: age, then sequence, layer and page index (R245, R251). -/
def pageKey (p : Page) : Nat := ((p.ageTick.toNat * 256 + p.seq) * 64 + p.layer) * 1024 + p.idx

/-- Put an entry into a list that rises by key. -/
def insertBy (key : Nat → Nat) (e : Nat) : List Nat → List Nat
  | [] => [e]
  | x :: t => if key e < key x then e :: x :: t else x :: insertBy key e t

/-- A list of entries, rising by key. -/
def sortBy (key : Nat → Nat) (xs : List Nat) : List Nat := xs.foldl (fun a e => insertBy key e a) []

/-- Pages that may be dropped, in their order (R245, R246). -/
def victims (s : State) : List Nat :=
  let locked := lockedPages s
  sortBy (fun e => pageKey (pageOf s e)) ((s.kv.pages.filter fun e =>
    e.2.state == 1 && !pinnedSeq s e.2.seq && !locked.contains e.1).map Prod.fst)

/-- A page becomes a hole (R245). -/
def dropPage (e : Nat) (s : State) : State :=
  let s1 := pagePut e { pageOf s e with state := 2 } s
  setKv (fun k => { k with pool := k.pool.map fun q => { q with drops := q.drops + 1 } }) s1

/-- Drop pages in order until `n` contiguous granules are free; none when every drop would not do (R245, R247). -/
def dropUntil (n : Nat) : List Nat → State → Option State
  | [], s => if (freeStarts s n).isEmpty then none else some s
  | e :: rest, s => if (freeStarts s n).isEmpty then dropUntil n rest (dropPage e s) else some s

/-- Allocate granules for a page: a flush may drop pages, a refill or compaction may not (R245, R249, R251). -/
def allocPage (flush : Bool) (n : Nat) (s : State) : Option (Nat × State) :=
  match dropUntil n (if flush then victims s else []) s with
  | none => none
  | some t => (pickOne t n (freeStarts t n)).map fun g => (g, draw t)

/-! ## Setting up and opening (R238, R241, R242) -/

/-- The pool is set up with every page-table entry free (R238). -/
def poolClear (c : Cmd) (base mib budget : Nat) (s : State) : State :=
  let lo := base / 64
  let hi := (base + 2 ^ 25) / 64
  completeOk 0x0501 c 0 (setKv (fun k => { k with pool := some { base := base, sizeMib := mib, compBudget := budget }, pages := [] })
    (setDram (fun d => { d with
      mem := memClear base (base + 2 ^ 25) d.mem
      poison := d.poison.filter fun e => decide (e.1 < lo ∨ hi ≤ e.1)
      wrong := d.wrong.filter fun e => decide (e.1 < lo ∨ hi ≤ e.1) }) s))

/-- KV_POOL_SETUP (R238, Table 09-6). -/
def bodyKvPoolSetup (c : Cmd) (s : State) : State :=
  let base := fld c 127 64 0
  let mib := fld c 63 48 0
  let budget := fld c 47 32 8
  if !s.kv.seqs.isEmpty then fail 0x0501 c .busy s
  else if base % 2 ^ 21 ≠ 0 ∨ mib < 64 ∨ 16384 < mib ∨ mib % 2 ≠ 0 ∨ 1024 < budget then fail 0x0501 c .badParam s
  else if base < usableBytes s - kvRegion s ∨ usableBytes s < base + mib * 2 ^ 20 then fail 0x0501 c .badParam s
  else dramGo 0x0501 c (poolClear c base mib budget) s

/-- Query formats with an entry for a key format in Table 09-4. -/
def promotes (q k : Fmt) : Bool :=
  match fmtKind q, fmtKind k with
  | .half, .half => true | .half, .fp8 => true | .half, .mx4 => true
  | .fp8, .half => true | .fp8, .fp8 => true
  | .mx8, .half => true | .mx8, .mx4 => true
  | _, _ => false

/-- Formats in which keys and values are kept (Table 09-8). -/
def kvFormat (f : Fmt) : Bool := f == .bf16 || f == .fp16 || f == .e4m3 || f == .e5m2

/-- Slots in use. -/
def usedSlots (s : State) : List Nat := s.kv.seqs.flatMap fun e => e.2.slots

/-- `n` different choices among candidates (log 39). -/
def pickMany (s : State) : Nat → Nat → List Nat → List Nat
  | 0, _, _ => []
  | n + 1, tag, xs =>
    match pickOne s tag xs with
    | none => []
    | some x => x :: pickMany s n (tag + 1) (xs.filter (· != x))

/-- A range lies inside the staging region of an attention job (R241, R253). -/
def inStaging (s : State) (f a n : Nat) : Bool :=
  (descJobs s false).any fun e => e.2.stgField == f && decide (e.2.stgAddr ≤ a ∧ a + n ≤ e.2.stgAddr + e.2.stgBytes)

/-- The source log of a sequence lies inside its region (R332). -/
def sourceLogOk (s : State) (a n : Nat) : Bool :=
  let lo := usableBytes s - kvRegion s - logRegion s
  decide (lo ≤ a ∧ a + n ≤ lo + logRegion s)

/-- KV_OPEN (R128, R241, Table 09-8): a reserved format code is FORMAT_UNSUPPORTED once the parameters are good; the completion carries the handle in [7:0], and the response buffer the slots (log 26). -/
def bodyKvOpen (c : Cmd) (s : State) : State :=
  let srcAddr := fld c 255 192 0
  let srcRec := fld c 191 176 0
  let stgAddr := fld c 175 153 0
  let pinned := fldB c 144 false
  let maxPos := fld c 143 127 0
  let comp := fld c 126 117 0
  let layers := fld c 103 98 0 + 1
  let heads := fld c 97 94 0 + 1
  let group := fld c 93 90 0 + 1
  let d := fld c 89 82 0 + 1
  match s.kv.pool with
  | none => fail 0x0502 c .notReady s
  | some _ =>
    let kKnown := (fmtOf (fld c 111 108 0)).isSome
    let kf := (fmtOf (fld c 111 108 0)).getD .bf16
    let known := kKnown && (fmtOf (fld c 107 104 0)).isSome
    let qf := (fmtOf (fld c 107 104 0)).getD .bf16
    let bytes := pageBytes kf heads d
    let jc := fld c 148 145 0
    let q : KvSeq :=
      { srcAddr := srcAddr, srcRec := srcRec, stgAddr := stgAddr, stgField := fld c 152 149 0, refillJc := jc, pinned := pinned
        maxPos := maxPos, compPages := comp, kvFmt := kf, qFmt := qf, layers := layers, kvHeads := heads, group := group, dHead := d }
    let badSrc := !pinned && (srcAddr % 64 != 0 || decide (srcRec < 8 ∨ 4096 < srcRec) || srcRec % 8 != 0 || jc == 0 ||
      !sourceLogOk s srcAddr (srcRec * (maxPos + 1)))
    -- the sizes of a sequence in a reserved format are not known
    let badSize := kKnown && (decide (2 ^ 20 < bytes) || !inStaging s q.stgField stgAddr (layers * bytes))
    if d < 16 ∨ d % 16 ≠ 0 ∨ !kvFormat kf ∨ badSrc ∨ stgAddr % 64 ≠ 0 ∨ badSize ∨
        1024 < (usedSlots s).length + layers then fail 0x0502 c .badParam s
    else if !known ∨ !promotes qf kf ∨ (comp ≠ 0 ∧ (!promotes qf .mxfp4 ∨ d % 32 ≠ 0)) then fail 0x0502 c .formatUnsupported s
    else
      let handles := (List.range 256).filter fun n => !tabHas s.kv.seqs n
      match pickOne s 0 handles with
      | none => fail 0x0502 c .refused s
      | some h =>
        if !pinned ∧ (jobOfClass s true jc).isNone then fail 0x0502 c .refused s
        else if freeGranules s < pageGranules bytes ∧ (victims s).isEmpty then fail 0x0502 c .poolFull s
        else
          let used := usedSlots s
          let slots := pickMany s layers 1 ((List.range 1024).filter fun n => !used.contains n)
          respond 0x0502 c (slots.flatMap (leBytes 2)) h (draw (setKv (fun k => { k with
            seqs := tabSet k.seqs h { q with slots := slots }
            layers := slots.foldl (fun t n => tabDel t n) k.layers }) s))

/-- The sequence field of KV_CLOSE, KV_APPEND, KV_REFILL and KV_STATUS (log 26 for the first and the last). -/
def seqField (c : Cmd) : Nat := fld c 31 24 0

/-- Slot of a sequence's layer. -/
def slotOf (s : State) (q n : Nat) : Nat := nth (tabGet {} s.kv.seqs q).slots n 1024

/-- Entries of a slot's page table. -/
def slotEntries (s : State) (slot : Nat) : List Nat := (s.kv.pages.filter fun e => e.1 / 1024 == slot).map Prod.fst

/-- A request's sequence handle and its fields by their bits in Table 09-2. -/
def reqField (r : Req) (hi lo : Nat) : Nat := bitsN r.bits.toNat hi lo

/-- A request that names a sequence is queued or being served. -/
def seqRequested (s : State) (q : Nat) : Bool := s.kv.jobs.any fun e => e.2.queue.any fun r => reqField r 765 758 == q

/-- Every page and the staging buffers of a handle are freed (R242). An append that waits for its flush finds no sequence (DESIGN CHOICE, log
40). -/
def closeSeq (c : Cmd) (q : Nat) (s : State) : State :=
  let slots := (tabGet {} s.kv.seqs q).slots
  let s1 := (slots.flatMap (slotEntries s)).foldl (fun t e => pagePut e {} t) s
  let s2 := finish (fun a => match a with | .append p _ _ => p == q | _ => false) .badParam 0 s1
  completeOk 0x0503 c 0 (setKv (fun k => { k with
    seqs := tabDel k.seqs q
    layers := slots.foldl (fun t n => tabDel t n) k.layers }) s2)

/-- KV_CLOSE (R242). -/
def bodyKvClose (c : Cmd) (s : State) : State :=
  let q := seqField c
  if !tabHas s.kv.seqs q then fail 0x0503 c .badParam s
  else if seqRequested s q || (match s.kv.refill with | some r => r.seq == q | none => false) then fail 0x0503 c .busy s
  else
    dramGo 0x0503 c (closeSeq c q) s

def execKvPoolSetup (c : Cmd) (s : State) : Result := .next (deliver 0x0501 bodyKvPoolSetup c s)
def execKvOpen (c : Cmd) (s : State) : Result := .next (deliver 0x0502 bodyKvOpen c s)
def execKvClose (c : Cmd) (s : State) : Result := .next (deliver 0x0503 bodyKvClose c s)

/-! ## Appending and flushing (R243, R244) -/

/-- Run state of a layer. -/
def layerOf (s : State) (slot : Nat) : KvLayer := tabGet {} s.kv.layers slot

/-- Change a layer's run state. -/
def setLayer (slot : Nat) (f : KvLayer → KvLayer) (s : State) : State :=
  setKv (fun k => { k with layers := tabSet k.layers slot (f (tabGet {} k.layers slot)) }) s

/-- Bytes of one page of a sequence in its own format. -/
def seqPage (q : KvSeq) : Nat := pageBytes q.kvFmt q.kvHeads q.dHead

/-- The firmware's DMA reaches a range now: a descriptor is open to it, and a DMA port owns each bank, which is a service slot of the running
list (R55, R180, R189). -/
def fwReach (s : State) (f a n : Nat) : Bool := descOpen s false && dmaOwns s f a n

/-- A page's data go from a field to the pool by a DMA transfer, with their poison, and its header is then written (R48, R240). The row that
ends the transfer shows its accesses (log 85). -/
def copyPage (f a bytes g e : Nat) (p : Page) (s : State) : State :=
  let base := match s.kv.pool with | some q => q.base | none => 0
  let data := fmBytes s f a bytes
  let ps := (List.range (bytes / 8)).map fun i => fmPoisonAt s f (a + 8 * i)
  pagePut e { p with granule := g } (dramWrite (base + 4096 * g) data ps (fmScan 64 f a bytes s))

/-- Flush a full staging buffer (R244): the page takes the buffer's bits, and the staged count returns to 0; none when no page can be
allocated. -/
def flushLayer (q n : Nat) (s : State) : Option State :=
  let d := tabGet {} s.kv.seqs q
  let slot := nth d.slots n 1024
  let x := layerOf s slot
  let bytes := seqPage d
  let idx := (x.length - x.staged) / 128
  match allocPage true (pageGranules bytes) s with
  | none => none
  | some (g, t) => some (setLayer slot (fun y => { y with staged := 0, flushing := false })
      (copyPage d.stgField (d.stgAddr + n * bytes) bytes g (1024 * slot + idx)
        { ageTick := s.tick.no, len256 := bytes / 256, seq := q, layer := n, idx := idx, fmt := d.kvFmt, state := 1, origin := 0 } t))

/-- The firmware's DMA reaches the staging buffer of a layer now. -/
def bufferReach (s : State) (q n : Nat) : Bool :=
  let d := tabGet {} s.kv.seqs q
  fwReach s d.stgField (d.stgAddr + n * seqPage d) (seqPage d)

/-- An append of n positions (R243, log 40): its status, and the state after it. `now` makes a flush that it causes part of it. -/
def appendLayer (now : Bool) (q n cnt : Nat) (s : State) : Status × State :=
  let d := tabGet {} s.kv.seqs q
  let slot := slotOf s q n
  let x := layerOf s slot
  if cnt = 0 then (.ok, s)
  else if d.maxPos + 1 < x.length + cnt then (.lengthLimit, s)
  else if x.flushing then (.busy, s)
  else
    match (if x.staged = 128 then flushLayer q n s else some s) with
    | none => (.poolFull, s)
    | some t =>
      let y := layerOf t slot
      if 128 < y.staged + cnt then (.badParam, s)
      else
        let t1 := setLayer slot (fun z => { z with length := z.length + cnt, staged := z.staged + cnt }) t
        if y.staged + cnt < 128 then (.ok, t1)
        else if now then (.ok, (flushLayer q n t1).getD t1)
        else (.ok, setLayer slot (fun z => { z with flushing := true }) t1)

/-- A sequence is open and has a layer. -/
def layerOpen (s : State) (q n : Nat) : Bool := tabHas s.kv.seqs q && decide (n < (tabGet {} s.kv.seqs q).layers)

/-- KV_APPEND (R243). One that repeats a flush waits until that is done (R55, R244). -/
def bodyKvAppend (c : Cmd) (s : State) : State :=
  let q := seqField c
  let n := fld c 21 16 0
  let cnt := fld c 7 0 0
  if !layerOpen s q n then fail 0x0504 c .badParam s
  else
    let (st, t) := appendLayer false q n cnt s
    if st = .ok ∧ cnt ≠ 0 ∧ (layerOf s (slotOf s q n)).staged = 128 then
      waitFor 0x0504 c (.append q n cnt) (setLayer (slotOf s q n) (fun y => { y with flushing := true }) s)
    else complete 0x0504 c st 0 0 0 t

def execKvAppend (c : Cmd) (s : State) : Result := .next (deliver 0x0504 bodyKvAppend c s)

/-- The append that waited for a layer's flush goes on. -/
def appendGo (q n : Nat) (s : State) : State :=
  match s.mbx.waits.find? fun w => match w.act with | .append a b _ => a == q && b == n | _ => false with
  | none => s
  | some w =>
    match w.act with
    | .append _ _ cnt =>
      let (st, t) := appendLayer false q n cnt (setMbx (fun m => { m with waits := m.waits.erase w }) s)
      complete w.opcode w.cmd st 0 0 0 t
    | _ => s

/-- PAGE_FLUSH: a flush in progress ends, in a cycle in which its DMA reaches the buffer, with the DRAM up (R55, R244, R336). An append that
repeated it goes on. -/
def pageFlush (q n : Nat) (s : State) : State :=
  let slot := slotOf s q n
  if !(layerOf s slot).flushing then s
  else
    let s1 := needDram s
    if !bufferReach s1 q n || !dramUp s1 then s1
    else match flushLayer q n s1 with
    | some t => appendGo q n t
    | none =>
      finish (fun a => match a with | .append a b _ => a == q && b == n | _ => false) .poolFull 0
        (setLayer slot (fun y => { y with flushing := false }) s1)

def execPageFlush (seq layer : Nat) (s : State) : Result := .next (pageFlush seq layer s)

/-! ## Refill (R249) -/

/-- Layers of a sequence whose page at an index is a hole. -/
def holeMask (s : State) (q idx : Nat) : Nat :=
  let d := tabGet {} s.kv.seqs q
  listMask ((List.range d.layers).filter fun n => (pageOf s (1024 * nth d.slots n 1024 + idx)).state == 2)

/-- The first page index of a range with a hole. -/
def nextHole (s : State) (q first last : Nat) : Option Nat :=
  ((List.range (last + 1 - first)).map (first + ·)).find? fun i => holeMask s q i != 0

/-- A KV_REFILL's outcome. -/
def refillDone (st : Status) (s : State) : State :=
  finish (fun a => match a with | .refill _ _ _ => true | _ => false) st 0 (setKv (fun k => { k with refill := none }) s)

/-- A ticket is written by DMA, and the refill job triggered behind it (R249 steps 1 and 2). -/
def writeTicket (q idx last : Nat) (s : State) : State :=
  let d := tabGet {} s.kv.seqs q
  match jobOfClass s true d.refillJc with
  | none => refillDone .noPlacement s
  | some (j, e) =>
    let mask := holeMask s q idx
    let tkt := leBytes 32 (pack [(0, 64, mask), (158, 10, idx), (168, 8, q), (176, 16, d.srcRec), (192, 64, d.srcAddr)])
    let r : Refill := { seq := q, page := idx, last := last, layerMask := BitVec.ofNat 64 mask, seen := (syncOf s e.tktObj).hits }
    fwWriteThen (some j) e.stgField [(e.tktAddr, tkt)] (setKv (fun k => { k with refill := some r }) s)

/-- KV_REFILL (R249): one refill at a time (log 41). -/
def bodyKvRefill (c : Cmd) (s : State) : State :=
  let q := seqField c
  let first := fld c 21 12 0
  let last := fld c 9 0 0
  if !tabHas s.kv.seqs q ∨ last < first then fail 0x0505 c .badParam s
  else if pinnedSeq s q then completeOk 0x0505 c 0 s
  else match nextHole s q first last with
  | none => completeOk 0x0505 c 0 s
  | some i =>
    if s.kv.refill.isSome then fail 0x0505 c .busy s
    else if (jobOfClass s true (tabGet {} s.kv.seqs q).refillJc).isNone then fail 0x0505 c .noPlacement s
    else writeTicket q i last (waitFor 0x0505 c (.refill q first last) s)

def execKvRefill (c : Cmd) (s : State) : Result := .next (deliver 0x0505 bodyKvRefill c s)

/-- The pages of one ticket, copied in ascending layer order; none when an allocation fails, with the pages copied before it (R249). -/
def refillPages (d : KvSeq) (e : JobDesc) (r : Refill) : List Nat → Nat → State → Bool × State
  | [], _, s => (true, s)
  | n :: rest, k, s =>
    let bytes := seqPage d
    match allocPage false (pageGranules bytes) s with
    | none => (false, s)
    | some (g, t) => refillPages d e r rest (k + 1)
        (copyPage e.stgField (e.stgAddr + k * bytes) bytes g (1024 * nth d.slots n 1024 + r.page)
          { ageTick := s.tick.no, len256 := bytes / 256, seq := r.seq, layer := n, idx := r.page, fmt := d.kvFmt, state := 1, origin := 1 } t)

/-- REFILL_TICKET_DONE: the job has signalled `tkt_obj` since its ticket was written; its pages go into the pool, in cycles in which the copying DMA reaches the refill
buffer (R55), and the next page index follows (R249). -/
def refillTicketDone (s : State) : State :=
  match s.kv.refill with
  | none => s
  | some r =>
    let d := tabGet {} s.kv.seqs r.seq
    match jobOfClass s true d.refillJc with
    | none => s
    | some (_, e) =>
      if (syncOf s e.tktObj).hits = r.seen then s
      else
        let u := needDram s
        let locked := lockedPages s
        if !dramUp u || !fwReach s e.stgField e.stgAddr e.stgBytes then u else
        let ns := (maskList 64 r.layerMask.toNat).filter fun n =>
          let x := 1024 * nth d.slots n 1024 + r.page
          (pageOf s x).state == 2 && !locked.contains x
        match refillPages d e r ns 0 u with
        | (false, t) => refillDone .poolFull t
        | (true, t) =>
          match nextHole t r.seq (r.page + 1) r.last with
          | none => refillDone .ok t
          | some i => writeTicket r.seq i r.last t

def execRefillTicketDone (s : State) : Result := .next (refillTicketDone s)

/-! ## Status (Table 09-11) -/

/-- The KV_STATUS block (log 26): free granules, drops, then per layer of the handle its slot, length, staged count, and its counts of
resident, hole and compacted pages. -/
def bodyKvStatus (c : Cmd) (s : State) : State :=
  let q := seqField c
  let drops := match s.kv.pool with | some p => p.drops | none => 0
  let rows := if tabHas s.kv.seqs q then (tabGet {} s.kv.seqs q).slots.flatMap fun slot =>
      let x := layerOf s slot
      let ps := (slotEntries s slot).map (pageOf s)
      let cnt (p : Page → Bool) : List Byte := leBytes 2 (ps.filter p).length
      leBytes 2 slot ++ leBytes 4 x.length ++ leBytes 2 x.staged ++ cnt (fun p => p.state == 1) ++ cnt (fun p => p.state == 2) ++
        cnt (fun p => p.state == 1 && p.fmt == .mxfp4)
    else []
  if s.kv.pool.isNone then fail 0x0506 c .notReady s
  else respond 0x0506 c (leBytes 4 (freeGranules s) ++ leBytes 4 drops ++ rows) 0 s

def execKvStatus (c : Cmd) (s : State) : Result := .next (deliver 0x0506 bodyKvStatus c s)

/-! ## Compaction (R251, R252) -/

/-- Bytes of a page as it stands in the pool, and the poison bits of its 8-byte groups. -/
def poolBytes (s : State) (p : Page) : List Byte × List (BitVec 8) :=
  let base := match s.kv.pool with | some q => q.base | none => 0
  (dramBytes s (base + 4096 * p.granule) (256 * p.len256), dramPoison s (base + 4096 * p.granule) (256 * p.len256))

/-- One area of keys or values in MXFP4: elements, then scales, with their poison (R135, R239). -/
def compactArea (f : Fmt) (bs : List Byte) (ps : List (BitVec 8)) (n : Nat) : List Byte × List (BitVec 8) :=
  let blocks := (List.range (n / 32)).map fun b => mxEncode .mxfp4 .nearest ((List.range 32).map fun i =>
    (decElem f (codeOf f bs (32 * b + i)), 0))
  let bad := (List.range (n / 32)).map fun b =>
    ((List.range 32).map fun i => nth ps ((32 * b + i) * fmtBits f / 64) 0).foldl (fun a p => a ||| p) 0
  let codes := packCodes .mxfp4 (blocks.flatMap Prod.snd)
  let scales := blocks.map fun b => BitVec.ofNat 8 b.1
  (codes ++ scales, packPoison .mxfp4 (bad.flatMap fun p => List.replicate 32 p) ++ packPoison .int8 bad)

/-- Pages of an attention job's sequences that are due for compaction (R251). -/
def duePages (s : State) (d : JobDesc) : List Nat :=
  let locked := lockedPages s
  sortBy (fun e => pageKey (pageOf s e)) ((s.kv.pages.filter fun e =>
    let q := tabGet {} s.kv.seqs e.2.seq
    let len := (layerOf s (e.1 / 1024)).length
    e.2.state == 1 && e.2.fmt != .mxfp4 && decide (0 < q.compPages ∧ 128 * e.2.idx + 127 + 128 * q.compPages < len) &&
      q.stgField == d.stgField && decide (d.stgAddr ≤ q.stgAddr ∧ q.stgAddr < d.stgAddr + d.stgBytes) &&
      !locked.contains e.1).map Prod.fst)

/-- Field addresses in a job's staging region, in steps of 64 bytes, at which `n` bytes meet no staging buffer of an open sequence. -/
def stagingRoom (s : State) (d : JobDesc) (n : Nat) : List Nat :=
  ((List.range (d.stgBytes / 64)).map fun i => d.stgAddr + 64 * i).filter fun a =>
    decide (a + n ≤ d.stgAddr + d.stgBytes) && s.kv.seqs.all fun e =>
      e.2.stgField != d.stgField || decide (a + n ≤ e.2.stgAddr ∨ e.2.stgAddr + e.2.layers * seqPage e.2 ≤ a)

/-- A page read into the staging region of its attention job, at a place that no rule names: a free choice outside the staging buffers, and no
place where there is none (R252; log 85). -/
def stagePage (d : JobDesc) (bs : List Byte) (ps : List (BitVec 8)) (s : State) : State :=
  match pickOne s 2 (stagingRoom s d bs.length) with
  | none => s
  | some a => draw (fmStore 64 d.stgField a bs ps s)

/-- One page is compacted into new granules; none for a page for which none remain (R251, R252). -/
def compactPage (d : JobDesc) (e : Nat) (s : State) : Option State :=
  let p := pageOf s e
  let q := tabGet {} s.kv.seqs p.seq
  let bytes := pageBytes .mxfp4 q.kvHeads q.dHead
  match allocPage false (pageGranules bytes) s with
  | none => none
  | some (g, t) =>
    let base := match s.kv.pool with | some x => x.base | none => 0
    let n := 128 * q.kvHeads * q.dHead
    let half := 128 * p.len256
    let (bs, ps) := poolBytes t p
    let (kb, kp) := compactArea p.fmt (bs.take half) (ps.take (half / 8)) n
    let (vb, vp) := compactArea p.fmt (bs.drop half) (ps.drop (half / 8)) n
    some (pagePut e { p with granule := g, len256 := bytes / 256, fmt := .mxfp4, origin := 2 }
      (dramWrite (base + 4096 * g) (kb ++ vb) (kp ++ vp) (stagePage d bs ps (dramScan (base + 4096 * p.granule) (256 * p.len256) t))))

/-- Up to a number of pages are compacted in their order; those without granules are skipped (R251). -/
def compactPages (d : JobDesc) : List Nat → Nat → State → State
  | [], _, s => s
  | _ :: _, 0, s => s
  | e :: rest, n + 1, s =>
    match compactPage d e s with
    | some t => compactPages d rest n t
    | none => compactPages d rest (n + 1) s

/-- COMPACTION: at the end of a run the attention job compacts due pages, up to the budget (R251). -/
def compaction (jc : Nat) (s : State) : State :=
  match jobOfClass s false jc, s.kv.pool with
  | some (_, d), some p =>
    let a := tabGet {} s.kv.jobs jc
    if !a.compact then s
    else
      let u := needDram s
      if !dramUp u || !fwReach s d.stgField d.stgAddr d.stgBytes then u
      else compactPages d (duePages s d) p.compBudget (setKv (fun k => { k with jobs := tabSet k.jobs jc { a with compact := false } }) u)
  | _, _ => s

def execCompaction (job : Nat) (s : State) : Result := .next (compaction job s)

end Sys2Proof.Machine
end

