-- ==== Sys2Proof/Machine/Attention.lean ====
section
/-! DEFINITION. Fused attention (chapter 09): requests, runs, serves with the online softmax, split ranges and merging, and the status
word. -/

namespace Sys2Proof.Machine

/-! ## Requests (R225, Table 09-2) -/

/-- The fields of Table 09-2 as (highest bit, lowest bit, reset). -/
def reqFields : List (Nat × Nat × Nat) :=
  [(1023, 960, 0), (959, 896, 0), (895, 832, 0), (831, 800, 0), (799, 783, 0), (782, 766, 0), (765, 758, 0), (757, 752, 0), (751, 750, 0),
   (749, 748, 0), (747, 746, 0), (745, 744, 0), (743, 740, 0), (739, 736, 0), (735, 728, 0), (727, 721, 0), (720, 716, 1), (715, 715, 0),
   (714, 714, 0), (713, 713, 0), (712, 711, 0), (710, 710, 0), (709, 700, 0), (699, 690, 0), (689, 686, 0), (685, 676, 0), (675, 660, 0),
   (659, 628, 0), (627, 627, 0), (626, 626, 0), (625, 622, 0)]

/-- The request block that a slot gives (R431). -/
def reqBits (c : Cmd) : BitVec 1024 := BitVec.ofNat 1024 (pack (reqFields.map fun f => (f.2.1, f.1 + 1 - f.2.1, fld c f.1 f.2.1 f.2.2)))

def rQ (r : Req) : Nat := reqField r 1023 960
def rOut (r : Req) : Nat := reqField r 959 896
def rSt (r : Req) : Nat := reqField r 895 832
def rScale (r : Req) : F32 := BitVec.ofNat 32 (reqField r 831 800)
def rSeq (r : Req) : Nat := reqField r 765 758
def rLayer (r : Req) : Nat := reqField r 757 752
def rQKind (r : Req) : Nat := reqField r 751 750
def rOutKind (r : Req) : Nat := reqField r 749 748
def rStKind (r : Req) : Nat := reqField r 747 746
def rMerge (r : Req) : Bool := reqField r 745 744 == 1
def rAppend (r : Req) : Nat := if r.appended then 0 else reqField r 735 728
def rRows (r : Req) : Nat := reqField r 727 721 + 1
def rSplit (r : Req) : Nat := reqField r 720 716
def rHoles (r : Req) : Bool := reqField r 715 715 == 1
def rCausal (r : Req) : Bool := reqField r 714 714 == 1
def rPartial (r : Req) : Bool := reqField r 713 713 == 1
def rSat (r : Req) : Bool := reqField r 710 710 == 1
def rWaitTgt (r : Req) : Nat := reqField r 675 660
def rWaitObj (r : Req) : Nat := reqField r 685 676
def rTrack (r : Req) : Bool := reqField r 626 626 == 1
def rJob (r : Req) : Nat := reqField r 625 622
def rStanding (r : Req) : Bool := reqField r 627 627 == 1
def rQFmt (r : Req) : Fmt := (fmtOf (reqField r 743 740)).getD .bf16
def rOutFmt (r : Req) : Fmt := (fmtOf (reqField r 739 736)).getD .bf16
def rMode (r : Req) : Rnd := (rndOf (reqField r 712 711)).getD .nearest

/-- Query heads, and elements of a row. -/
def qHeads (q : KvSeq) : Nat := q.group * q.kvHeads

/-- Bytes of the query, with the scale vector of an MXFP8 one, and of the output or partial record (R133, R226, R235; log 91). -/
def queryBytes (q : KvSeq) (r : Req) : Nat :=
  let n := rRows r * qHeads q * q.dHead
  if fmtMx (rQFmt r) then roundUp (elemBytes (rQFmt r) n) 32 + (n + 31) / 32 else elemBytes (rQFmt r) n
def outBytes (q : KvSeq) (r : Req) : Nat :=
  if rPartial r then rRows r * qHeads q * (16 + 4 * q.dHead) else elemBytes (rOutFmt r) (rRows r * qHeads q * q.dHead)

/-- A range of a kind: field memory needs no check here (case FM-C), device DRAM the one of R332. -/
def endOk (s : State) (kind a n : Nat) : Bool := kind == 0 || rangeOk s a n

/-- Query formats with a row in Table 09-4. -/
def queryRow (f : Fmt) : Bool := match fmtKind f with | .half => true | .fp8 => true | .mx8 => true | _ => false

/-- Fields in range, `q_fmt` a row of Table 09-4 where the request attends, and a sequence and layer that are open (R225 check 2). -/
def reqParamOk (s : State) (r : Req) : Bool :=
  let q := tabGet {} s.kv.seqs (rSeq r)
  let scopeOk := rWaitTgt r == 0 || (match s.seq.active with
    | some l => (match syncDef l (rWaitObj r) with | some d => d.scope == .frame || d.scope == .persistent | none => false)
    | none => true)
  layerOpen s (rSeq r) (rLayer r) && decide (rQKind r ≤ 1 ∧ rOutKind r ≤ 1 ∧ rStKind r ≤ 1 ∧ reqField r 745 744 ≤ 1 ∧ reqField r 712 711 ≤ 2) &&
    decide (reqField r 735 728 ≤ 128 ∧ 1 ≤ rSplit r ∧ rSplit r ≤ 16 ∧ 1 ≤ rJob r) && rSt r % 16 == 0 && scopeOk &&
    (rPartial r || (fmtOf (reqField r 739 736)).isNone || kvFormat (rOutFmt r)) && (rMerge r || queryRow (rQFmt r)) &&
    endOk s (rStKind r) (rSt r) 16 && endOk s (rOutKind r) (rOut r) (outBytes q r) &&
    endOk s (rQKind r) (rQ r) (if rMerge r then 8 * rSplit r else queryBytes q r)

/-- Formats of the blocks that a request would include now, its append made: resident pages in their own format, staged positions and those
still to be appended in the sequence's; a hole has none (R225 check 3, R230). -/
def includedFormats (s : State) (r : Req) : List Fmt :=
  let q := tabGet {} s.kv.seqs (rSeq r)
  let slot := slotOf s (rSeq r) (rLayer r)
  let x := layerOf s slot
  let hi := if rTrack r then x.length + rAppend r - 1 else reqField r 782 766
  let lo := reqField r 799 783 / 128
  ((List.range (hi / 128 + 1 - lo)).map (lo + ·)).filterMap fun b =>
    if x.length - x.staged ≤ 128 * b then (if 128 * b < x.length + rAppend r then some q.kvFmt else none)
    else
      let p := pageOf s (1024 * slot + b)
      if p.state = 1 then some p.fmt else none

/-- The formats of a request have entries for every format of its included blocks (R225 check 3, R230). -/
def reqFormatOk (s : State) (r : Req) : Bool :=
  (fmtOf (reqField r 743 740)).isSome && (fmtOf (reqField r 739 736)).isSome &&
    (rMerge r || (includedFormats s r).all (promotes (rQFmt r)))

/-- The running schedule carries a job class and the class has an attention job (R225 check 4). -/
def attnCarried (s : State) (jc : Nat) : Bool := (jobOfClass s false jc).isSome && !s.seq.stopped.getLsbD jc

/-- An attention job's queue. -/
def attnOf (s : State) (jc : Nat) : AttnJob := tabGet {} s.kv.jobs jc

/-- Change an attention job's queue. -/
def setAttn (jc : Nat) (f : AttnJob → AttnJob) (s : State) : State :=
  setKv (fun k => { k with jobs := tabSet k.jobs jc (f (tabGet {} k.jobs jc)) }) s

/-- ATTN_RUN (R225): the checks in their order; a standing request completes at once with ACCEPTED, a one-shot one when it is served. -/
def bodyAttnRun (c : Cmd) (s : State) : State :=
  let n := s.kv.nextReq % 65536
  let r : Req := { num := n, bits := reqBits c, oneShot := !fldB c 627 false }
  if s.kv.pool.isNone then fail 0x0510 c .notReady s
  else if !reqParamOk s r then fail 0x0510 c .badParam s
  else if !reqFormatOk s r then fail 0x0510 c .formatUnsupported s
  else if !attnCarried s (rJob r) then fail 0x0510 c .noPlacement s
  else if 16 ≤ (attnOf s (rJob r)).queue.length then fail 0x0510 c .busy s
  else
    let s1 := setAttn (rJob r) (fun a => { a with queue := a.queue ++ [r] }) (setKv (fun k => { k with nextReq := k.nextReq + 1 }) s)
    if r.oneShot then waitFor 0x0510 c (.serve n) s1 else complete 0x0510 c .accepted 0 n 0 s1

/-- A run of an attention job ends: its job no longer runs, and its compaction is due (R205, R226, R251). -/
def runEnds (jc : Nat) (s : State) : State :=
  let s1 := setAttn jc (fun x => { x with compact := true, waitOver := false }) s
  match jobOfClass s1 false jc with
  | some (j, _) => setJob j (fun y => { y with running := false, busy := false, cursor := 0 }) s1
  | none => s1

/-- The attention job of a class may serve: it is carried, its windows are not suppressed, and it is in its run (R226). -/
def mayServe (s : State) (jc : Nat) : Bool :=
  match jobOfClass s false jc, s.seq.active, runSched s with
  | some (j, _), some l, some k => !s.seq.stopped.getLsbD jc && !suppressed s k (nth l.jobs j {})
  | _, _, _ => false

/-- ATTN_CANCEL: the request number is in [15:0] (log 26). A queued request leaves at once, and its command, if it is a one-shot, completes
with REFUSED (log 42); a request that is being served, its wait included, leaves when the serve ends (R225, R226). -/
def bodyAttnCancel (c : Cmd) (s : State) : State :=
  let n := fld c 15 0 0
  match s.kv.jobs.find? fun e => e.2.queue.any fun r => r.num == n with
  | none => fail 0x0511 c .badParam s
  | some (jc, a) =>
    let serving := match a.serving with | some v => v.req.num == n | none => mayServe s jc && a.todo.head? == some n
    if serving then
      completeOk 0x0511 c 0 (setAttn jc (fun x => { x with
        queue := x.queue.map fun r => if r.num = n then { r with cancelled := true } else r }) s)
    else
      completeOk 0x0511 c 0 (finish (· == .serve n) .refused n (setAttn jc (fun x => { x with
        queue := x.queue.filter fun r => r.num != n
        todo := x.todo.filter fun m => m != n }) s))

/-- ATTN_INFO: per attention and refill job its job class and descriptor (Table 09-11; log 26). -/
def bodyAttnInfo (c : Cmd) (s : State) : State :=
  let js := descJobs s false ++ descJobs s true
  respond 0x0512 c (js.flatMap fun e => leBytes 8 (classOfJob s e.1) ++ leBytes 64 e.2.bits.toNat) 0 s

def execAttnRun (c : Cmd) (s : State) : Result := .next (deliver 0x0510 bodyAttnRun c s)
def execAttnCancel (c : Cmd) (s : State) : Result := .next (deliver 0x0511 bodyAttnCancel c s)
def execAttnInfo (c : Cmd) (s : State) : Result := .next (deliver 0x0512 bodyAttnInfo c s)

/-! ## Runs (R226) -/

/-- A run still has requests to serve. -/
def runOpen (a : AttnJob) : Bool := a.serving.isSome || !a.todo.isEmpty

/-- A start boundary that an open run passes: it continues with `overrun` in the serve in progress, whose wait is part of it. -/
def passBoundary (jc : Nat) (s : State) : State :=
  setAttn jc (fun a => { a with
    serving := a.serving.map fun v => { v with overrun := true }
    waitOver := a.waitOver || a.serving.isNone }) s

/-- A run begins: every one-shot request that is present, and one serve of each standing request, not before their `start_frame`. -/
def beginRun (jc : Nat) (s : State) : State :=
  setAttn jc (fun a => { a with
    todo := (a.queue.filter fun r => decide (reqField r 659 628 ≤ s.tick.frame.toNat)).map fun r => r.num
    waitOver := false
    compact := false }) s

/-- Attention jobs at a frame boundary, before the frame jobs start: an open run counts as running, so that it gets an overrun; another one
begins, but while the class is stopped or its windows are suppressed the requests stay queued (R205, R226). -/
def attnBoundary (s : State) : State :=
  (descJobs s false).foldl (fun t e =>
    let d := match s.seq.active with | some l => nth l.jobs e.1 {} | none => {}
    if d.start == 0 || s.tick.frame.toNat % d.start != 0 then t
    else if runOpen (attnOf t d.jclass) then passBoundary d.jclass (setJob e.1 (fun y => { y with running := true }) t)
    else if (jobOf t e.1).running || !mayServe t d.jclass then t
    else beginRun d.jclass t) s

/-- A run that begins with nothing to serve ends at once: its job does not run on (R226). -/
def emptyRuns (s : State) : State :=
  (descJobs s false).foldl (fun t e =>
    let jc := classOfJob t e.1
    if (jobOf t e.1).running && mayServe t jc && !runOpen (attnOf t jc) then runEnds jc t else t) s

/-- A change of schedule abandons the runs: a serve in progress restarts at the next start boundary, with its append made and the stream count
that it took (R236, R253). -/
def attnAbandon (s : State) : State :=
  setKv (fun k => { k with jobs := k.jobs.map fun e =>
    let a := e.2
    let q := match a.serving with
      | some v => a.queue.map fun r => if r.num = v.req.num then { r with appended := v.req.appended, streamC := v.req.streamC } else r
      | none => a.queue
    (e.1, { a with queue := q, todo := [], serving := none, waitOver := false, compact := false }) }) s

/-! ## Endpoints -/

/-- Bytes at an endpoint. -/
def endBytes (s : State) (kind a n : Nat) : List Byte :=
  if kind = 0 then fmBytes s (a / 2 ^ 23) (a % 2 ^ 23) n else dramBytes s a n

/-- Poison bits of an endpoint's range, together. -/
def endPoison (s : State) (kind a n : Nat) : BitVec 8 :=
  if kind = 0 then fmPoisonOf s (a / 2 ^ 23) (a % 2 ^ 23) n else (dramPoison s a n).foldl (fun x p => x ||| p) 0

/-- What reading an endpoint counts. -/
def endScan (kind a n : Nat) (s : State) : State :=
  if kind = 0 then fmScan 64 (a / 2 ^ 23) (a % 2 ^ 23) n s else dramScan a n s

/-- Write bytes to an endpoint with the poison bits of their 8-byte groups. Inside the pool they are any bytes, and its pages are any
(KV-B; log 77). -/
def endWrite (kind a : Nat) (bs : List Byte) (ps : List (BitVec 8)) (s : State) : State :=
  if kind = 0 then fmStore 64 (a / 2 ^ 23) (a % 2 ^ 23) bs ps s
  else if meetsPool s a bs.length then
    poolSpoil (dramWrite a ((List.range bs.length).map fun i => Config.freeByte s.free (a + i)) ps s)
  else dramWrite a bs ps s

/-! ## Blocks (R228, R248) -/

/-- Where a block's keys and values are read. -/
inductive KvSrc where
  | hole
  | page (p : Page)
  | staged (field addr : Nat)
  deriving DecidableEq, Repr

/-- The source of block b of a layer. -/
def blockSrc (s : State) (q : KvSeq) (layer b : Nat) : KvSrc :=
  let slot := nth q.slots layer 1024
  let x := layerOf s slot
  let p := pageOf s (1024 * slot + b)
  if (x.length - x.staged) / 128 = b ∧ 0 < x.staged then .staged q.stgField (q.stgAddr + layer * seqPage q)
  else if p.state = 1 then .page p else .hole

/-- Format of a block. -/
def srcFmt (q : KvSeq) : KvSrc → Fmt
  | .page p => p.fmt
  | _ => q.kvFmt

/-- Bytes and poison of a block. -/
def srcBytes (s : State) (q : KvSeq) : KvSrc → List Byte × List (BitVec 8)
  | .page p => poolBytes s p
  | .staged f a => (fmBytes s f a (seqPage q), (List.range (seqPage q / 8)).map fun i => fmPoisonAt s f (a + 8 * i))
  | .hole => ([], [])

/-- Element i of the key area or the value area of a block, with its scale, and its poison bits. -/
def blockElem (f : Fmt) (n : Nat) (bs : List Byte) (ps : List (BitVec 8)) (values : Bool) (i : Nat) : Fp × BitVec 8 :=
  let area := elemBytes f n + (if fmtMx f then n / 32 else 0)
  let base := if values then area else 0
  let at_ := base + i * fmtBits f / 8
  let code := match fmtBits f with
    | 4 => bitsN (nth bs at_ 0).toNat (4 * (i % 2) + 3) (4 * (i % 2))
    | w => leNat ((bs.drop at_).take (w / 8))
  if fmtMx f then
    let sc := base + elemBytes f n + i / 32
    (decScaled f code (nth bs sc 0).toNat, nth ps (at_ / 8) 0 ||| nth ps (sc / 8) 0)
  else (decElem f code, nth ps (at_ / 8) 0)

/-! ## The online softmax (R230 to R234) -/

/-- A dot product in FP32 over chunks of d terms, in ascending order (R139). -/
def dotChunks (d : Nat) : Nat → List (Option (Fp × Fp)) → W32 → W32
  | 0, _, acc => acc
  | n + 1, ts, acc =>
    if ts = [] then acc
    else
      let here := (ts.take d).filterMap id
      dotChunks d n (ts.drop d) (if here = [] then acc else f32add acc (enc32 (chunkSum here)))

/-- e^x of a serve: exactly 1 at 0, otherwise VEXP (R232, R233). -/
def serveExp (x : W32) : W32 := expK (dec32 x) (Config.expFree x)

/-- A partial result of one row and head (R234): m, l, o. -/
structure Part3 where
  m : W32 := 0xFF800000
  l : W32 := 0
  o : List W32 := []
  any : Bool := false
  /-- an FP32 operation made an infinity of finite inputs: in a score or in l, and in each component of o (R151) -/
  ovf : Bool := false
  ovfO : List Bool := []
  deriving DecidableEq, Repr

/-- A result is infinite and every input finite (R151). -/
def madeInf (r : W32) (ins : List W32) : Bool := f32isInf r && ins.all f32finite

/-- The scale of one step between maxima: 1 where they are equal (R233). -/
def rescale (m mNew : W32) : W32 := if m = mNew then one32 else serveExp (f32sub m mNew)

/-- One block of R232: scores of the included positions by position, values by component; `sOvf` says that a score overflowed. -/
def softBlock (dv : Nat) (dHead : Nat) (sOvf : Bool) (scores : List (Option W32)) (vals : Nat → Nat → Fp) (a : Part3) : Part3 :=
  let inc := scores.filterMap id
  if inc = [] then a
  else
    let mNew := inc.foldl f32max a.m
    let alpha := if a.any then rescale a.m mNew else 0
    let p := scores.map fun x => x.map fun v => f16to32 (f32to16 (serveExp (f32sub v mNew)))
    let lsum := sumRow (p.map fun x => x.getD 0)
    let o := (List.range dHead).map fun c =>
      let terms := (List.range p.length).map fun j => (nth p j none).map fun w => (dec32 w, vals j c)
      let r := f32add (f32mul alpha (nth a.o c 0)) (dotChunks dv 128 terms 0)
      (r, madeInf r [alpha, nth a.o c 0] && (terms.filterMap id).all fun t => fpFinite t.1 && fpFinite t.2)
    let l := f32add (f32mul alpha a.l) lsum
    { m := mNew, l := l, o := o.map Prod.fst, any := true
      ovf := a.ovf || sOvf || madeInf l [alpha, a.l]
      ovfO := (List.range dHead).map fun c => nth a.ovfO c false || (nth o c (0, false)).2 }

/-- Two partials merged, left to right (R234). -/
def mergeParts (x y : Part3) : Part3 :=
  if x.l = 0 ∧ x.m = 0xFF800000 then y
  else if y.l = 0 ∧ y.m = 0xFF800000 then x
  else
    let m := f32max x.m y.m
    let a := rescale x.m m
    let b := rescale y.m m
    let l := f32add (f32mul a x.l) (f32mul b y.l)
    let o (c : Nat) : W32 := f32add (f32mul a (nth x.o c 0)) (f32mul b (nth y.o c 0))
    { m := m
      l := l
      o := (List.range x.o.length).map o
      any := true
      ovf := x.ovf || y.ovf || madeInf l [x.l, y.l, a, b]
      ovfO := (List.range x.o.length).map fun c =>
        nth x.ovfO c false || nth y.ovfO c false || madeInf (o c) [nth x.o c 0, nth y.o c 0, a, b] }

/-- Blocks of n ranges (R234): range i takes ⌊B/n⌋ of them, and one more for i < B mod n. -/
def splitBlocks (n : Nat) (bs : List Nat) : List (List Nat) :=
  let q := bs.length / n
  let r := bs.length % n
  (List.range n).map fun i => (bs.drop (i * q + min i r)).take (q + (if i < r then 1 else 0))

/-- One row and head: its partial over the included blocks, and the poison that its inputs carry. -/
def rowPart (s : State) (q : KvSeq) (r : Req) (posTo row head : Nat) (qe : Nat → Fp) (blocks : List Nat) : Part3 × BitVec 8 :=
  let d := q.dHead
  let g := head / q.group
  let last := if rCausal r then posTo + row + 1 - rRows r else posTo
  let none_ := rCausal r && decide (posTo + row + 1 < rRows r)
  let posFrom := reqField r 799 783
  let start : Part3 := { o := List.replicate d 0 }
  let n := min (rSplit r) blocks.length
  let step (acc : Part3 × BitVec 8) (b : Nat) : Part3 × BitVec 8 :=
    let src := blockSrc s q (rLayer r) b
    let f := srcFmt q src
    let (bs, ps) := srcBytes s q src
    let n := 128 * q.kvHeads * d
    let dk := match pairOf (rQFmt r) f with | some (_, x, _) => x | none => 16
    let dv := match pairOf .fp16 f with | some (_, x, _) => x | none => 16
    let inc (j : Nat) : Bool := !none_ && decide (posFrom ≤ 128 * b + j ∧ 128 * b + j ≤ last)
    let key (j c : Nat) : Fp × BitVec 8 := blockElem f n bs ps false ((g * 128 + j) * d + c)
    let val (j c : Nat) : Fp × BitVec 8 := blockElem f n bs ps true ((g * d + c) * 128 + j)
    let score (j : Nat) : W32 :=
      let w := dotChunks dk (d + 1) ((List.range d).map fun c => some (qe c, (key j c).1)) 0
      if rScale r = one32 then w else f32mul (rScale r) w
    let sOvf := ((List.range 128).filter inc).any fun j =>
      madeInf (score j) [rScale r] && (List.range d).all fun c => fpFinite (qe c) && fpFinite (key j c).1
    let scores := (List.range 128).map fun j => if inc j then some (score j) else none
    let poison := ((List.range 128).filter inc).foldl (fun p j =>
      (List.range d).foldl (fun u c => u ||| (key j c).2 ||| (val j c).2) p) acc.2
    (softBlock dv d sOvf scores (fun j c => (val j c).1) acc.1, poison)
  let parts := (splitBlocks n blocks).map fun ks => ks.foldl step (start, 0)
  (parts.foldl (fun a p => mergeParts a p.1) start, parts.foldl (fun a p => a ||| p.2) 0)

/-- Query element c of a row and head, with the poison of its group. The scale vector of an MXFP8 query stands at the next 32-byte boundary behind
its elements, one byte for each 32 elements along their order: the request block names no place for it (DESIGN CHOICE, log 91). -/
def queryElem (s : State) (q : KvSeq) (r : Req) (row head c : Nat) : Fp × BitVec 8 :=
  let f := rQFmt r
  let n := rRows r * qHeads q * q.dHead
  let i := (row * qHeads q + head) * q.dHead + c
  let at_ := rQ r + i * fmtBits f / 8
  let code := leNat (endBytes s (rQKind r) at_ (fmtBits f / 8))
  let p := endPoison s (rQKind r) at_ 1
  if fmtMx f then
    let sc := rQ r + roundUp (elemBytes f n) 32 + i / 32
    (decScaled f code (nth (endBytes s (rQKind r) sc 1) 0 0).toNat, p ||| endPoison s (rQKind r) sc 1)
  else (decElem f code, p)

/-! ## Serves (R226 to R228, R246, R248) -/

/-- The last position of a serve. -/
def servePosTo (s : State) (r : Req) : Nat :=
  let len := (layerOf s (slotOf s (rSeq r) (rLayer r))).length
  if rTrack r then len - 1 else reqField r 782 766

/-- Blocks that a serve's range touches. -/
def serveBlocks (s : State) (r : Req) : List Nat :=
  let lo := reqField r 799 783 / 128
  let hi := servePosTo s r / 128
  (List.range (hi + 1 - lo)).map (lo + ·)

/-- The checks at the start of an attending serve, after the append (R228, R230, R248, R253): its status. -/
def serveCheck (s : State) (r : Req) : Status :=
  let q := tabGet {} s.kv.seqs (rSeq r)
  let len := (layerOf s (slotOf s (rSeq r) (rLayer r))).length
  let srcs := (serveBlocks s r).map (blockSrc s q (rLayer r))
  if len = 0 ∨ len ≤ servePosTo s r ∨ servePosTo s r < reqField r 799 783 then .badParam
  else if !inStaging s q.stgField q.stgAddr (q.layers * seqPage q) then .badParam
  else if srcs.any fun x => x != .hole && !promotes (rQFmt r) (srcFmt q x) then .formatUnsupported
  else if !rHoles r && srcs.contains .hole then .holesPresent
  else .ok

/-- Positions of the range that lie in holes (R248). -/
def excludedCount (s : State) (r : Req) : Nat :=
  let q := tabGet {} s.kv.seqs (rSeq r)
  ((serveBlocks s r).filter fun b => blockSrc s q (rLayer r) b == .hole).foldl (fun a b =>
    a + (min (servePosTo s r) (128 * b + 127) + 1 - max (reqField r 799 783) (128 * b))) 0

/-- A stream count is taken and the counter advances, when the serve rounds stochastically; a restarted serve has its count (R236). -/
def serveStream (r : Req) (s : State) : BitVec 48 × State :=
  if rMode r == .stochastic then
    if let some c := r.streamC then (c, s) else
    let st := reqField r 709 700
    let c := tabGet 0 s.seq.streams st
    (c, setSeq (fun q => { q with streams := tabSet q.streams st (c + 1) }) s)
  else (0, s)

/-- The append of a serve flushes the layer's buffer, so its DMA must reach the buffer (R55, R243, R244). -/
def appendFlushes (s : State) (r : Req) : Bool :=
  let x := layerOf s (slotOf s (rSeq r) (rLayer r))
  !rMerge r && decide (rAppend r ≠ 0 ∧ 128 ≤ x.staged + rAppend r)

/-- Records that a merge reads: their addresses, of kind `q_kind` (R235). -/
def mergeAddrs (s : State) (r : Req) : List Nat := (List.range (rSplit r)).map fun i => leNat (endBytes s (rQKind r) (rQ r + 8 * i) 8)

/-- Bytes of one partial record (R235). -/
def partialBytes (q : KvSeq) (r : Req) : Nat := rRows r * qHeads q * (16 + 4 * q.dHead)

/-- A serve needs device DRAM: it reads the pool, or one of its ends lies there (R235, R336). -/
def serveNeeds (r : Req) : Bool := !rMerge r || decide (rQKind r = 1 ∨ rOutKind r = 1 ∨ rStKind r = 1)

/-- Device DRAM ranges that a serve uses outside the pool (R337). -/
def serveRanges (s : State) (q : KvSeq) (r : Req) : List (Nat × Nat) :=
  (if rQKind r = 1 then if rMerge r then (rQ r, 8 * rSplit r) :: (mergeAddrs s r).map fun a => (a, partialBytes q r) else [(rQ r, queryBytes q r)]
    else []) ++
  (if rOutKind r = 1 then [(rOut r, outBytes q r)] else []) ++ if rStKind r = 1 then [(rSt r, 16)] else []

/-- The records that a merge names lie where a command may name DRAM (R332). -/
def mergeOk (s : State) (q : KvSeq) (r : Req) : Bool := (mergeAddrs s r).all fun a => endOk s (rQKind r) a (partialBytes q r)

/-- SERVE: the next request of the run begins to attend once its wait is met: the append, the checks, and the locks of the pages that it
reads, those included that staged blocks may become (R226, R243, R246). Its range and its blocks are fixed here (R228, R248). -/
def serveStart (jc : Nat) (s : State) : State :=
  let a := attnOf s jc
  match a.serving, a.todo with
  | none, n :: rest =>
    if !mayServe s jc then s
    else match a.queue.find? fun r => r.num == n with
    | none => setAttn jc (fun x => { x with todo := rest }) s
    | some r =>
      let u := if serveNeeds r then needDram s else s
      if decide ((syncOf s (rWaitObj r)).count < rWaitTgt r) then s
      else if (serveNeeds r && !dramUp u) || (appendFlushes s r && !bufferReach s (rSeq r) (rLayer r)) then u
      else
        let (st, s1) := if rMerge r then (Status.ok, u) else appendLayer true (rSeq r) (rLayer r) (rAppend r) u
        let (c, s2) := serveStream r s1
        let q := tabGet {} s2.kv.seqs (rSeq r)
        let st2 := if st ≠ .ok then st else if !rMerge r then serveCheck s2 r else if mergeOk s2 q r then .ok else .badParam
        let slot := nth q.slots (rLayer r) 1024
        let ok := decide (st2 = .ok) && !rMerge r
        let v : Serve :=
          { req := { r with appended := r.appended || decide (st = .ok), streamC := if rMode r == .stochastic then some c else none }
            status := st2
            length := (layerOf s2 slot).length
            overrun := a.waitOver
            posTo := servePosTo s2 r
            blocks := if ok then (serveBlocks s2 r).filter fun b => blockSrc s2 q (rLayer r) b != .hole else []
            excluded := if ok then excludedCount s2 r else 0
            streamC := c
            dram := serveRanges s2 q r
            locks := if ok then (serveBlocks s2 r).filterMap fun b =>
              if blockSrc s2 q (rLayer r) b != .hole then some (1024 * slot + b) else none else [] }
        setAttn jc (fun x => { x with todo := rest, waitOver := false, serving := some v }) s2
  | _, _ => s

def execServe (job : Nat) (s : State) : Result := .next (serveStart job s)

/-- Partials of every row and head, in output order, with their poison. -/
def serveParts (s : State) (v : Serve) : List (Part3 × BitVec 8) :=
  let r := v.req
  let q := tabGet {} s.kv.seqs (rSeq r)
  if rMerge r then
    let addrs := mergeAddrs s r
    let size := 16 + 4 * q.dHead
    (List.range (rRows r * qHeads q)).map fun e =>
      let one (a : Nat) : Part3 :=
        let w (o : Nat) : W32 := BitVec.ofNat 32 (leNat (endBytes s (rQKind r) (a + e * size + o) 4))
        { m := w 0, l := w 4, o := (List.range q.dHead).map fun c => w (16 + 4 * c), any := true }
      let start : Part3 := { o := List.replicate q.dHead 0 }
      (addrs.foldl (fun acc a => mergeParts acc (one a)) start,
        addrs.foldl (fun p a => p ||| endPoison s (rQKind r) (a + e * size) size) 0)
  else
    (List.range (rRows r)).flatMap fun row => (List.range (qHeads q)).map fun head =>
      let qs := (List.range q.dHead).map (queryElem s q r row head)
      let (p, bad) := rowPart s q r v.posTo row head (fun c => (nth qs c (.nan, 0)).1) v.blocks
      (p, qs.foldl (fun a x => a ||| x.2) bad)

/-- A row and head with no included position (R233). -/
def partEmpty (p : Part3) : Bool := p.l == 0 && p.m == 0xFF800000

/-- The status word (Table 09-3). -/
def statusWord (tick : W64) (v : Serve) (empty poisoned : Bool) : List Byte :=
  leBytes 16 (pack [(0, 16, statusCode v.status), (16, 1, b2n (v.excluded != 0)), (17, 1, b2n poisoned), (18, 1, b2n v.overrun),
    (19, 1, b2n empty), (28, 18, v.excluded), (46, 18, v.length), (64, 64, tick.toNat)])

/-- The output of a serve: its codes in output order, with the poison of each element, and what each element counts (R151, R232, R233,
R235). -/
def serveOut (s : State) (v : Serve) (ps : List (Part3 × BitVec 8)) : List Byte × List (BitVec 8) × List AxFlag :=
  let r := v.req
  let q := tabGet {} s.kv.seqs (rSeq r)
  let bad (p : Part3) (c : Nat) : Bool := p.ovf || nth p.ovfO c false
  if rPartial r then
    (ps.flatMap fun p => leBytes 4 p.1.m.toNat ++ leBytes 4 p.1.l.toNat ++ zeros 8 ++ p.1.o.flatMap fun x => leBytes 4 x.toNat,
     ps.flatMap fun p => List.replicate ((16 + 4 * q.dHead) / 8) p.2,
     ps.flatMap fun p => (List.range q.dHead).map fun c => if bad p.1 c then .ovf else .none)
  else
    let f := rOutFmt r
    let elems := ps.flatMap fun p => (List.range q.dHead).map fun c =>
      let inv := divK 1 fpOne (dec32 p.1.l) (Config.rcpFree p.1.l)
      let x := if partEmpty p.1 then nan32 else f32mul (nth p.1.o c 0) inv
      (x, p.2, bad p.1 c || madeInf x [nth p.1.o c 0, inv])
    let out := (List.range elems.length).map fun e =>
      let x := nth elems e (0, 0, false)
      let k := convElem f (rMode r) (rSat r) (dice s.seq.seed (reqField r 709 700) v.streamC e) (dec32 x.1)
      (k.1, if x.2.2 then AxFlag.ovf else k.2)
    (packCodes f (out.map Prod.fst), packPoison f (elems.map fun x => x.2.1), out.map Prod.snd)

/-- What the reads of a serve count and repair: its query or the list of its records, the records, and the blocks in the pool or the staging
buffer (R184, R326, R327). -/
def serveScan (v : Serve) (s : State) : State :=
  let r := v.req
  let q := tabGet {} s.kv.seqs (rSeq r)
  let s1 := endScan (rQKind r) (rQ r) (if rMerge r then 8 * rSplit r else queryBytes q r) s
  if rMerge r then (mergeAddrs s r).foldl (fun t a => endScan (rQKind r) a (partialBytes q r) t) s1
  else v.blocks.foldl (fun t b => match blockSrc s q (rLayer r) b with
    | .page p => dramScan ((match s.kv.pool with | some x => x.base | none => 0) + 4096 * p.granule) (256 * p.len256) t
    | .staged f a => fmScan 64 f a (seqPage q) t
    | .hole => t) s1

/-- SERVE_END: the output and then the status word are written, `done_obj` is signalled, a one-shot request completes; after the run's last
serve its compaction is due (R226, R227, R251). -/
def serveEnd (jc : Nat) (s : State) : State :=
  let a := attnOf s jc
  match a.serving with
  | none => s
  | some v =>
    let u := if serveNeeds v.req then needDram s else s
    if serveNeeds v.req && !dramUp u then u else
    let r := v.req
    let q := tabGet {} s.kv.seqs (rSeq r)
    let good := decide (v.status = .ok)
    let ps := if good then serveParts u v else []
    let (out, marks, flags) := serveOut u v ps
    let bs := if v.spoiled then (List.range out.length).map fun i => Config.freeByte s.free (rOut r + i) else out
    let poisoned := marks.any (· != 0)
    let empty := ps.any fun p => partEmpty p.1
    -- the field whose counters a serve uses is the model's (log 91)
    let s0 := if good then countAx q.stgField flags (serveScan v u) else u
    -- partial records inside the pool are the misuse KV-B
    let inPool := good && rMerge r && rQKind r != 0 && (mergeAddrs s r).any fun x => meetsPool s x (partialBytes q r)
    let s0 := if inPool then poolSpoil s0 else s0
    let s1 := if good then draw (endWrite (rOutKind r) (rOut r) (freePoisoned s.free (rOut r) bs marks) marks s0) else s0
    let s2 := endWrite (rStKind r) (rSt r) (statusWord s.tick.no v empty poisoned) [] s1
    let obj := reqField r 699 690
    let s3 := addSignal obj (reqField r 689 686) (syncOf s2 obj).epoch s2
    let gone := r.oneShot || (a.queue.any fun x => x.num == r.num && x.cancelled)
    let s4 := setAttn jc (fun x => { x with
      serving := none
      queue := if gone then x.queue.filter fun y => y.num != r.num
        else x.queue.map fun y => if y.num = r.num then { y with appended := false, streamC := none } else y }) s3
    let s5 := finish (· == .serve r.num) v.status r.num s4
    if a.todo.isEmpty then runEnds jc s5 else s5

def execServeEnd (job : Nat) (s : State) : Result := .next (serveEnd job s)

end Sys2Proof.Machine
end

