-- ==== Sys2Proof/Machine/Source.lean ====
section
/-! DEFINITION. The tick source (R11 to R17, R398): the phase error, trimming, holdover and realignment. -/

namespace Sys2Proof.Machine

/-- T of R11. -/
def trimLimit (s : State) : Nat := min (max 2 (s.tick.period / 1024)) (s.tick.commitOff - 16)

/-- The device enters holdover: logged, and DEGRADED reason bit 3 from this tick (R13, Table 20-5). -/
def enterHoldover (s : State) : State :=
  if s.tick.holdover then s
  else raiseInt 4 (logEvent 0x0040 4 1 s.tick.source (setTick (fun t => { t with
    holdover := true, good := 0, bad := 0, trim := if t.realign then t.trim else 0 }) s))

/-- A source edge with its phase error in ac against the expected T0, positive when it comes later. One beyond 64 ac is no valid edge. In
holdover valid edges count toward 16; otherwise the tick is trimmed by the error, at most T, and 16 ticks in a row beyond T lose the
source (R11, R13). -/
def sourceEdge (err : Int) (s : State) : State :=
  if 64 < err.natAbs then (if s.tick.holdover then setTick (fun t => { t with good := 0 }) s else s)
  else if s.tick.holdover then setTick (fun t => { t with phase := err, good := t.good + 1 }) s
  else
    let lim := trimLimit s
    let bad := if lim < err.natAbs then s.tick.bad + 1 else 0
    let s1 := setTick (fun t => { t with
      phase := err
      bad := bad
      trim := if t.realign then t.trim else max (-(lim : Int)) (min (lim : Int) err) }) s
    if 16 ≤ bad then enterHoldover s1 else s1

/-- No valid edge of the source came in this tick: it is lost, and in holdover the run of consecutive edges starts anew (R13). -/
def sourceMissed (s : State) : State := enterHoldover (setTick (fun t => { t with good := 0 }) s)

/-- The trim of this tick under the period and commit offset in force: at most T, and a realignment tick's error taken as less than one
period (R11, R14). -/
def retrim (s : State) : State :=
  let lim := trimLimit s
  setTick (fun t => { t with
    trim := if t.realign then t.trim % (t.period : Int) else max (-(lim : Int)) (min (lim : Int) t.trim) }) s

/-- A realignment tick: lengthened by the phase error, taken as 1 to period − 1 ac, when it is larger than T (R14). -/
def realignNow (s : State) : State :=
  if trimLimit s < s.tick.phase.natAbs then
    setTick (fun t => { t with realign := true, trim := t.phase % (t.period : Int), bad := 0 }) s
  else s

/-- TICK_IN_EDGE: a rising edge on TICK_IN with source 1 (Table 01-1, R536). -/
def execTickInEdge (err : Int) (s : State) : Result :=
  .next (if !computeDown s && s.tick.source == 1 then sourceEdge err s else s)

/-- SOURCE_LOSS: no valid edge came within 64 ac of the expected T0 (R13). -/
def execSourceLoss (s : State) : Result :=
  .next (if !computeDown s && s.tick.source != 0 then sourceMissed s else s)

/-- HOLDOVER_EXIT: after 16 valid edges, at a frame boundary; a chip of a ring adopts the master's numbers there, and a phase error above
T makes the tick a realignment tick (R13, R14, R398). -/
def holdoverExit (s : State) : State :=
  if computeDown s || !s.tick.holdover || decide (s.tick.good < 16) || s.tick.inFrame != 0 then s
  else
    let s1 := raiseInt 4 (logEvent 0x0040 4 0 s.tick.source (setTick (fun t => { t with holdover := false, good := 0, bad := 0 }) s))
    let s2 := match s1.tick.source == 2, s1.links.heard with
      | true, some (n, f, k) => setTick (fun t => { t with no := n, frame := f, inFrame := k }) s1
      | _, _ => s1
    realignNow s2

def execHoldoverExit (s : State) : Result := .next (holdoverExit s)

end Sys2Proof.Machine
end

