-- ==== Sys2Proof/Machine/Links.lean ====
section
/-! DEFINITION. Peer links (chapter 14): identity, training and states, flits with credits, replay and routing, loss and fences, tick
markers, and the commands of group 0x07. -/

namespace Sys2Proof.Machine

/-! ## Identity (R377) -/

/-- The identity that 64 bits of Table 14-2 give. -/
def identOf (b : Nat) : Ident :=
  { chipId := bitsN b 5 0
    topo := bitsN b 9 8
    dimX := bitsN b 19 16
    dimY := bitsN b 23 20
    linkEn := BitVec.ofNat 4 (bitsN b 27 24)
    tm := bitN b 28
    retrainMs := bitsN b 47 32 }

/-- The checks of R377 and the link enables of a ring and a torus. -/
def identOk (i : Ident) : Bool :=
  decide (10 ≤ i.retrainMs ∧ i.retrainMs ≤ 10000) && decide (i.chipId < (i.dimX + 1) * (i.dimY + 1)) &&
    (match i.topo with
     | 0 => i.dimX == 0 && i.dimY == 0
     | 1 => decide (1 ≤ i.dimX) && i.dimY == 0 && (i.linkEn &&& 3) == 3
     | 2 => decide (1 ≤ i.dimX ∧ i.dimX ≤ 7 ∧ 1 ≤ i.dimY ∧ i.dimY ≤ 7) && i.linkEn == 15
     | _ => false)

/-- The parameter bits [63:0] of LINK_IDENT (Table 14-2). -/
def identBits (c : Cmd) : Nat :=
  pack [(0, 6, fld c 5 0 0), (8, 2, fld c 9 8 0), (16, 4, fld c 19 16 0), (20, 4, fld c 23 20 0), (24, 4, fld c 27 24 0),
        (28, 1, fld c 28 28 0), (32, 16, fld c 47 32 100)]

/-- LINK_IDENT: the record write is asked for, and the command waits for it (R377). -/
def bodyLinkIdent (c : Cmd) (s : State) : State :=
  if !identOk (identOf (identBits c)) then fail 0x0701 c .badParam s
  else if (List.range 4).any (fun l => (linkOf s l).phase != .disabled && (linkOf s l).phase != .adminDown) then fail 0x0701 c .busy s
  else waitFor 0x0701 c (.recWrite .chip) (recQueue 28 (padTo 64 (leBytes 8 (identBits c))) s)

def execLinkIdent (c : Cmd) (s : State) : Result := .next (deliver 0x0701 bodyLinkIdent c s)

/-- The identity that the chosen record holds; absent, a standalone chip 0 with every link disabled (R377). -/
def identStored (s : State) : Ident := match recBody s 28 with | some b => identOf (leNat (b.take 8)) | none => {}

/-- Enabled links that are neither ADMIN_DOWN nor INCOMPATIBLE are powered up and train (R378, R382, R501). -/
def linksOn (all : Bool) (s : State) : State :=
  (List.range 4).foldl (fun t l =>
    if linkWanted t l && (all || !fenced t.seq.fence (272 + l)) then
      if polderUp t (pLink l) then (if (linkOf t l).phase == .disabled then setPhase l .training t else t)
      else requestPolder (pLink l) t
    else t) s

/-- A written identity is in force, for the next training of each link (R377). -/
def identInForce (s : State) : State :=
  let s1 := setLinks (fun k => { k with ident := identStored s }) s
  if computeDown s1 then s1 else linksOn true s1

/-! ## Training and states (R378 to R382) -/

/-- Table 14-1 names a chip for the link: links 0 and 1 of a ring, all of a torus, none of a standalone chip. -/
def linkNamed (i : Ident) (l : Nat) : Bool := decide (l < 2 * i.topo)

/-- The identity that the far end of a link must have (R376, R379). -/
def partnerOk (i : Ident) (l chip topo dimX dimY far : Nat) : Bool :=
  linkNamed i l && topo == i.topo && dimX == i.dimX && dimY == i.dimY && chip == neighbour i i.chipId l && far == farLink l

/-- Highest protocol version that a level-1 device and the far end both list: 1.0 (R380). -/
def linkVersion (vs : List Nat) : Option Nat := if vs.contains 0x0100 then some 0x0100 else none

/-- LINK_ADMIN up completes when its links are UP, or fails when training of one ends otherwise (R400). -/
def adminUpCheck (l : Nat) (s : State) : State :=
  let mine (a : PendAct) : Bool := match a with | .linkUp m => m.getLsbD l | _ => false
  if (linkOf s l).phase != .up then finish mine .linkDown 0 s
  else
    let done (a : PendAct) : Bool := match a with
      | .linkUp m => (List.range 4).all fun k => !m.getLsbD k || (linkOf s k).phase == .up
      | _ => false
    finish done .ok 0 s

/-- A LINK_ADMIN down that names the link is pending. -/
def adminDownPending (s : State) (l : Nat) : Bool :=
  waiting s fun a => match a with | .linkDown m _ => m.getLsbD l | _ => false

/-- LINK_TRAINING: training ends (Table 14-3, R379 to R381, R401). -/
def linkTraining (l : Nat) (r : TrainResult) (s : State) : State :=
  if computeDown s || (linkOf s l).phase != .training then s
  else
    let s1 := match r with
      | .failed => setPhase l .down s
      | .partner chip topo dx dy far vs rt =>
        let s0 := setLink l (fun k => { k with farChip := chip }) s
        if !partnerOk s.links.ident l chip topo dx dy far then setPhase l .miswired s0
        else match linkVersion vs with
        | none => setPhase l .incompatible s0
        | some v =>
          if adminDownPending s l then setPhase l .adminDown s0
          else setPhase l .up (setLink l (fun k => { k with
            version := v
            latencyPs := rt / 2
            credSched := 128
            credShared := 64
            issuedSched := 128
            issuedShared := 64
            txCount := 0
            rxCount := 0
            rxMissing := false
            farPlan := none }) s0)
    adminUpCheck l s1

def execLinkTraining (link : Nat) (r : TrainResult) (s : State) : Result := .next (linkTraining (link % 4) r s)

/-- RETRAIN_TIMER: a DOWN or MISWIRED link trains again every `retrain_ms` (Table 14-4). -/
def execRetrainTimer (link : Nat) (s : State) : Result :=
  let l := link % 4
  let p := (linkOf s l).phase
  .next (if !computeDown s && (p == .down || p == .miswired) && polderUp s (pLink l) then setPhase l .training s else s)

/-- The transfers of discarded flits: their later flits are dropped too (R394). -/
def flitKeys (qs : List QFlit) : List Nat := (qs.map fun q => xferKey q.flit.srcChip q.flit.tag).eraseDups

/-- A flit that ends its transfer. -/
def flitLast (f : Flit) : Bool := match f.body with | .data last _ _ => last | .head h => h.len == 0

/-- A link that is not to send them discards its unacknowledged flits, with the queued ones where its polder goes down (`all`), and with the rest
of their transfers; a transfer of this chip's own among them completes with error, and the buffers that forwarded ones held are free (R388,
R394). -/
def linkDiscard (l : Nat) (all : Bool) (s : State) : State :=
  let k := linkOf s l
  let keys := flitKeys (k.replay ++ if all then k.txq else [])
  let me := s.links.ident.chipId
  let gone (q : QFlit) : Bool := keys.contains (xferKey q.flit.srcChip q.flit.tag)
  let ended := (k.replay ++ k.txq.filter gone).filter fun q => flitLast q.flit
  let open_ := keys.filter fun e => e / 16384 != me && !(flitKeys ended).contains e
  let lost := s.links.sent.filter fun e => keys.contains (xferKey me e.1)
  let freed := (k.txq.filter gone).foldl (fun t q => issueCredit q.inLink q.inCls t) s
  let s0 := setFm (fun m => { m with descErrs := lost.foldl (fun t e => tabSet t e.2.2 .linkLost) m.descErrs }) freed
  let s1 := setLink l (fun x => { x with txq := x.txq.filter fun q => !gone q, replay := [], replayLeft := 0, replayRun := 0 }) s0
  let s2 := setLinks (fun x => { x with
    dropping := x.dropping ++ open_.filter fun e => !x.dropping.contains e
    routes := x.routes.filter fun e => !keys.contains e.1
    sent := x.sent.filter fun e => !(keys.contains (xferKey me e.1)) }) s1
  setFm (fun m => { m with xfers := m.xfers.filter fun x => !(x.dstKind == .peer && keys.contains (xferKey x.chip x.tag)) }) s2

/-- A link leaves UP: its unacknowledged flits are discarded, and the chip fences the link (R394, R395). -/
def linkLeavesUp (l : Nat) (p : LinkPhase) (s : State) : State := linkFence l true (setPhase l p (linkDiscard l false s))

/-- A link's polder goes down: every flit of it is discarded, and a link that was UP is fenced (R394, R395). -/
def linkCut (l : Nat) (s : State) : State :=
  let s1 := linkDiscard l true s
  if (linkOf s l).phase == .up then linkFence l true s1 else s1

/-- SLUICE_CLOSED: a draining polder whose last write or move has passed goes DOWN; the gates that a BANK_SET closes are closed and
their banks enter the requested state (Table 18-2, R481, R482). -/
def sluiceClosed (p at_ : Nat) (s : State) : State :=
  match polder s p with
  | .draining since =>
    if decide (since ≤ absAt s at_) && !drainBusy s p then
      let s1 := polderSet p .down (polderLost p (if 289 ≤ p then linkCut (p - 289) s else s))
      let s2 := setPower (fun w => { w with
        retry := w.retry.erase p
        closing := if 272 ≤ p ∧ p < 288 then w.closing.filter fun e => e.1 / 2 != p - 272 else w.closing }) s1
      -- after a stop the firmware powers the enabled links up again (R382)
      if 289 ≤ p ∧ linkWanted s (p - 289) then requestPolder p s2 else retryDown (absAt s at_) s2
    else s
  | .up => if 272 ≤ p ∧ p < 288 then closeDone (p - 272) s else s
  | _ => s

def execSluiceClosed (polder at_ : Nat) (s : State) : Result := .next (sluiceClosed polder at_ s)

/-- LINK_DOWN (R394): of the three conditions the machine itself shows only the sixteenth replay of one flit. -/
def linkDown (l : Nat) (cause : DownCause) (s : State) : State :=
  if computeDown s || (linkOf s l).phase != .up || (cause == .replayed16 && decide ((linkOf s l).replayRun < 16)) then s
  else linkLeavesUp l .down (bump (cLink l 2) s)

def execLinkDown (link : Nat) (cause : DownCause) (s : State) : Result := .next (linkDown (link % 4) cause s)

/-- LINK_UNFENCE: a link that has been UP for one full frame, at a frame boundary (R395). -/
def linkUnfence (l : Nat) (s : State) : State :=
  if !computeDown s && (linkOf s l).phase == .up && decide (2 ≤ (linkOf s l).upFrames) && s.tick.inFrame == 0 then linkFence l false s else s

def execLinkUnfence (link : Nat) (s : State) : Result := .next (linkUnfence (link % 4) s)

/-- A word of another chip's link enters the link map; one that a LINK_ADMIN down names is kept away from from the next frame boundary (R395,
R400). -/
def mapWord (key : Nat) (w : LinkWord) (k : Links) : Links :=
  let add (m : List Nat) : List Nat := if m.contains key then m else key :: m
  match w with
  | .up => { k with
      downMap := k.downMap.filter (· != key), adminHeard := k.adminHeard.filter (· != key), adminAvoid := k.adminAvoid.filter (· != key) }
  | .down => { k with downMap := add k.downMap }
  | .adminDown => { k with adminHeard := if k.adminAvoid.contains key then k.adminHeard else add k.adminHeard }

/-- LINK_STATE_FLOOD_RX: a change of a link elsewhere enters the link map, and one that is new to this chip is passed on, once (R395; which words
a chip passes on is the model's choice, log 93). -/
def linkStateFloodRx (chip l : Nat) (w : LinkWord) (s : State) : State :=
  let key := 4 * chip + l
  let k := mapWord key w s.links
  if computeDown s || chip == s.links.ident.chipId || k == s.links then s else flood key w (setLinks (fun _ => k) s)

def execLinkStateFloodRx (chip link : Nat) (w : LinkWord) (s : State) : Result := .next (linkStateFloodRx chip (link % 4) w s)

/-- PLAN_ID_RX: the far end's plan word (R387). -/
def execPlanIdRx (link : Nat) (plan : Option W32) (s : State) : Result :=
  .next (if (linkOf s (link % 4)).phase == .up then setLink (link % 4) (fun k => { k with farPlan := plan }) s else s)

/-- The plans of a link's two ends agree, so that scheduled flits keep their class (R387). -/
def plansAgree (s : State) (l : Nat) : Bool :=
  s.seq.active.isSome && s.seq.planId.isSome && (linkOf s l).farPlan == s.seq.planId

/-- Once per tick each UP link whose plans differ counts `ln_plan_mis` (R387). -/
def planTick (s : State) : State :=
  (List.range 4).foldl (fun t l => if (linkOf t l).phase == .up && !plansAgree t l then bump (cLink l 4) t else t) s

/-! ## Sending (R385 to R388, R393) -/

/-- LINK_RSV: slots from the first one at or after the issue (R385). -/
def execLinkRsv (link : Nat) (o : RsvOpnd) (at_ : Nat) (s : State) : Result :=
  .next (if computeDown s then s
    else setLink (link % 4) (fun k => { k with rsv := k.rsv ++ [{ first := (at_ + 5) / 6, count := o.nSlots, src := o.src }] }) s)

/-- No flit of the same transfer is queued before a flit: the flits of one transfer keep their order at every hop (R384). -/
def flitFirst (q : List QFlit) (x : QFlit) : Bool :=
  q.find? (fun y => y.flit.srcChip == x.flit.srcChip && y.flit.tag == x.flit.tag) == some x

/-- The flits of a queue that a predicate admits: the first one whose turn it is, and the queue without it. -/
def takeFlit (p : QFlit → Bool) (q : List QFlit) : Option (QFlit × List QFlit) :=
  match q.find? fun x => p x && flitFirst q x with
  | none => none
  | some x => some (x, q.erase x)

/-- First queued flit of a class, forwarded before own (R386). -/
def firstFlit (fwd own : Bool) (p : Flit → Bool) (q : List QFlit) : Option (QFlit × List QFlit) :=
  match (if fwd then takeFlit (fun x => x.fwd && p x.flit) q else none) with
  | some r => some r
  | none => if own then takeFlit (fun x => !x.fwd && p x.flit) q else none

/-- The head flit payload as a number of 512 bits (Table 14-5). -/
def headBits (h : HeadFlit) : Nat :=
  pack [(480, 32, h.len), (464, 16, h.rows), (432, 32, h.dstStride), (405, 27, h.dst), (395, 10, h.sigObj), (391, 4, h.sigN), (389, 2, h.sigScope),
        (320, 64, h.tick.toNat), (288, 32, h.planId.toNat), (282, 6, h.dstChip), (278, 4, h.hopsX), (277, 1, b2n h.dirX), (274, 3, h.hopsY),
        (273, 1, b2n h.dirY), (272, 1, b2n h.yFirst)]

/-- The head flit payload that 512 bits hold (Table 14-5). -/
def headRead (n : Nat) : HeadFlit :=
  { len := bitsN n 511 480, rows := bitsN n 479 464, dstStride := bitsN n 463 432, dst := bitsN n 431 405, sigObj := bitsN n 404 395
    sigN := bitsN n 394 391, sigScope := bitsN n 390 389, tick := BitVec.ofNat 64 (bitsN n 383 320), planId := BitVec.ofNat 32 (bitsN n 319 288)
    dstChip := bitsN n 287 282, hopsX := bitsN n 281 278, dirX := bitN n 277, hopsY := bitsN n 276 274, dirY := bitN n 273, yFirst := bitN n 272 }

/-- Header of a flit (R383). -/
def flitHeader (f : Flit) : W32 :=
  let cls := match f.cls with | .scheduled => 0 | .bestEffort => 1 | .detour => 2
  let kind := match f.body with | .head _ => 0 | .data false _ _ => 1 | .data true _ _ => 2
  let mask := match f.body with | .head _ => 0 | .data _ p _ => p.toNat
  BitVec.ofNat 32 (pack [(30, 2, kind), (28, 2, cls), (20, 8, mask), (14, 6, f.srcChip), (0, 14, f.tag)])

/-- The 64 payload bytes of a flit, those behind a shorter last piece zero (R383, Table 14-5). -/
def flitPayload (f : Flit) : List Byte := match f.body with | .head h => leBytes 64 (headBits h) | .data _ _ bs => padTo 64 bs

/-- CRC-32C over a header, its bytes from the low one up (R6), and a payload (R383). -/
def flitCrc (header : W32) (payload : List Byte) : W32 := crc32c (leBytes 4 header.toNat ++ payload)

/-- A flit as the line carries it (R383). -/
def lineFlit (nth : Nat) (f : Flit) : LineFlit :=
  { nth := nth, header := flitHeader f, payload := flitPayload f, crc := flitCrc (flitHeader f) (flitPayload f) }

/-- A flit leaves in a class: it takes a credit of that class and enters the replay buffer; the buffer that a forwarded flit held is free
(R388, R393). -/
def sendFlit (l : Nat) (cls : FlitClass) (x : QFlit) (rest : List QFlit) (s : State) : State :=
  let f := { x.flit with cls := cls }
  issueCredit x.inLink x.inCls <| setLink l (fun k => { k with
    txq := rest
    txCount := k.txCount + 1
    lineOut := some (lineFlit k.txCount f)
    replay := k.replay ++ [{ x with flit := f }]
    credSched := if cls == .scheduled then k.credSched - 1 else k.credSched
    credShared := if cls == .scheduled then k.credShared else k.credShared - 1 }) s

/-- What one slot of a link carries (R386 to R388, R393). -/
def slotFlit (l slot : Nat) (s : State) : State :=
  let k := linkOf s l
  if k.replayLeft ≠ 0 then setLink l (fun x => { x with
    replayLeft := x.replayLeft - 1
    lineOut := ((x.replay.drop (x.replay.length - x.replayLeft)).head?).map fun q => lineFlit (x.txCount - x.replayLeft) q.flit }) s
  else if 256 ≤ k.replay.length then s
  else
    let agree := plansAgree s l
    let rsv := if s.tick.period < 6 * slot + 6 then none
      else k.rsv.find? fun r => decide (r.first ≤ slot ∧ slot < r.first + r.count)
    let sched (f : Flit) : Bool := f.cls == .scheduled && agree
    let det (f : Flit) : Bool := f.cls == .detour || (f.cls == .scheduled && !agree)
    let wanted := match rsv with
      | some r => firstFlit (r.src != 2) (r.src != 1) sched k.txq
      | none => none
    let shared (t : State) : State :=
      if k.credShared = 0 then t
      else match firstFlit true true det k.txq with
      | some (x, rest) => sendFlit l .detour x rest t
      | none => match firstFlit true true (fun f => f.cls == .bestEffort) k.txq with
        | some (x, rest) => sendFlit l .bestEffort x rest t
        | none => t
    match wanted with
    | some (x, rest) => if k.credSched = 0 then shared (bump (cLink l 3) s) else sendFlit l .scheduled x rest s
    | none => shared s

/-- FLIT_SLOT: the slots of a tick come in order, each once, the last one 6 ac before the tick's end; those in the cycles that a realignment
tick adds are unreserved (R375, R386). -/
def flitSlot (l slot : Nat) (s : State) : State :=
  if computeDown s || (linkOf s l).phase != .up || decide (slot < (linkOf s l).slotNext) ||
      decide ((s.tick.period + s.tick.trim).toNat < 6 * slot + 6) then s
  else slotFlit l slot (setLink l (fun k => { k with slotNext := slot + 1, lineOut := none }) s)

def execFlitSlot (link slot : Nat) (s : State) : Result := .next (flitSlot (link % 4) slot s)

/-- CREDIT_RX: credits of a class (R388). -/
def execCreditRx (link : Nat) (cls : FlitClass) (n : Nat) (s : State) : Result :=
  .next (if (linkOf s (link % 4)).phase != .up then s
    else setLink (link % 4) (fun k =>
      if cls == .scheduled then { k with credSched := min 128 (k.credSched + n) }
      else { k with credShared := min 64 (k.credShared + n) }) s)

/-- LINK_ACK_RX: `count` flits are acknowledged in order; own transfers whose last flit is among them are complete (R383, R392). A missing
flit makes the link replay it and every later one (R393). -/
def linkAckRx (l count : Nat) (missing : Bool) (s : State) : State :=
  let k := linkOf s l
  if k.phase != .up then s
  else
    let acked := k.replay.take count
    let left := k.replay.drop count
    let done := (acked.filter fun q => q.flit.srcChip == s.links.ident.chipId && flitLast q.flit).map fun q => q.flit.tag
    let s1 := setLinks (fun x => { x with sent := x.sent.filter fun e => !done.contains e.1 }) s
    let again := missing && !left.isEmpty
    let s2 := setLink l (fun x => { x with
      replay := left
      replayLeft := if again then left.length else min x.replayLeft left.length
      replayRun := if again then (if count = 0 then x.replayRun + 1 else 1) else if count = 0 then x.replayRun else 0 }) s1
    if again then bump (cLink l 1) s2 else s2

def execLinkAckRx (link count : Nat) (missing : Bool) (s : State) : Result := .next (linkAckRx (link % 4) count missing s)

/-! ## Receiving (R390 to R392) -/

/-- The way on from a chip under the route in a head flit: along the first of its two dimensions in which the destination is not yet
reached, in the direction that the route gives; none at the destination (R389, R390). -/
def nextHop (i : Ident) (h : HeadFlit) : Option Nat :=
  let w := i.dimX + 1
  let goX := i.chipId % w != h.dstChip % w
  let goY := i.chipId / w != h.dstChip / w
  let x := if h.dirX then 1 else 0
  let y := if h.dirY then 3 else 2
  if h.yFirst then (if goY then some y else if goX then some x else none)
  else if goX then some x else if goY then some y else none

/-- A transfer is dropped at its destination (R392). -/
def dropAtDest (h : HeadFlit) (l chip tag : Nat) (last : Bool) (s : State) : State :=
  let s1 := logEvent 0x0031 4 h.dst chip (bump (cLink l 5) s)
  if last then s1 else setLinks (fun k => { k with dropping := xferKey chip tag :: k.dropping }) s1

/-- A head flit at its destination: the transfer registers with its sluices, or is dropped (R391, R392, R477). -/
def headArrives (h : HeadFlit) (l chip tag : Nat) (s : State) : State :=
  let f := h.dst / 2 ^ 23
  let total := h.len * (h.rows + 1)
  if decide (nFields s.part ≤ f) || fenced s.seq.fence (256 + f) || !polderPowered s (pFm f) then
    dropAtDest h l chip tag (total == 0) s
  else if total = 0 then destSignal h l s
  else
    let x : Xfer :=
      { id := 0, field := f, mid := 0, tc := false
        srcKind := .peer, src := 0, srcStride := 0
        dstKind := .fieldMem, dst := h.dst, dstStride := h.dstStride, rowLen := h.len
        chunks := flitChunks total
        sigObj := h.sigObj, sigN := h.sigN, epoch := 0, registered := false, gather := false
        head := some h, link := l, chip := chip, tag := tag, whole := true, cls := .scheduled }
    -- registered with the gates of all its rows; its pieces come with its data flits
    let s1 := addXfer x s
    setFm (fun m => { m with xfers := m.xfers.map fun y =>
      if y.id = s.fm.nextXfer then { y with chunks := [], whole := false } else y })
      (setLinks (fun k => { k with routes := tabSet k.routes (xferKey chip tag) 4 }) s1)

/-- A data flit at its destination joins its transfer (R391); its poison carries source bit 2 (R392). -/
def dataArrives (chip tag : Nat) (last : Bool) (poison : BitVec 8) (bytes : List Byte) (s : State) : State :=
  let add (x : Xfer) : Xfer :=
    match x.head with
    | none => x
    | some h =>
      let off := 64 * x.srcStride
      let n := min 64 (h.len * (h.rows + 1) - off)
      { x with
        srcStride := x.srcStride + 1
        whole := last
        chunks := x.chunks ++ [{ off := off, len := n, data := some (padTo n bytes)
                                 poison := (List.range ((n + 7) / 8)).map fun i => if poison.getLsbD i then 4 else 0 }] }
  let mine (x : Xfer) : Bool := received x && x.chip == chip && x.tag == tag && !x.whole
  let s1 := setFm (fun m => { m with xfers := m.xfers.map fun x => if mine x then add x else x }) s
  if last then setLinks (fun k => { k with routes := tabDel k.routes (xferKey chip tag) }) s1 else s1

/-- The buffer of the engine of its destination field has room for the next flit of a transfer; without room the fabric holds it back, and its
row runs again (R180). -/
def arrivalRoom (chip tag : Nat) (s : State) : Bool :=
  (s.fm.xfers.filter fun x => received x && x.chip == chip && x.tag == tag && !x.whole).all fun x =>
    decide (buffered s ((rowAddr x.dst x.dstStride x.rowLen (64 * x.srcStride)) / 2 ^ 23) < 64)

/-- The CRC of a flit verifies (R383). -/
def lineGood (g : LineFlit) : Bool := g.crc == flitCrc g.header g.payload

/-- The flit that a header and payload hold; none of kind or class 3, which are RSV (R383). -/
def flitRead (g : LineFlit) : Option Flit :=
  let h := g.header.toNat
  let cls : Option FlitClass := match bitsN h 29 28 with | 0 => some .scheduled | 1 => some .bestEffort | 2 => some .detour | _ => none
  let data (last : Bool) : FlitBody := .data last (BitVec.ofNat 8 (bitsN h 27 20)) g.payload
  let body : Option FlitBody := match bitsN h 31 30 with
    | 0 => some (.head (headRead (leNat g.payload))) | 1 => some (data false) | 2 => some (data true) | _ => none
  match cls, body with
  | some c, some b => some { cls := c, srcChip := bitsN h 19 14, tag := bitsN h 13 0, body := b }
  | _, _ => none

/-- A flit taken in order is acknowledged by count (R393). -/
def rxTaken (l : Nat) (s : State) : State := setLink l (fun k => { k with rxCount := k.rxCount + 1, rxMissing := false }) s

/-- A transfer begins anew under a tag: what an earlier one with it left unfinished is given up (R383, R394). -/
def tagBegins (key : Nat) (s : State) : State :=
  setFm (fun m => { m with xfers := m.xfers.filter fun x => !(received x && !x.whole && xferKey x.chip x.tag == key) })
    (setLinks (fun k => { k with dropping := k.dropping.filter (· != key) }) s)

/-- A flit that has been received is written at its destination or passed on by the route of its transfer (R390), and its buffer is freed once
it has left it (R388); without room in the engine's buffer it is not taken yet, and its row runs again (R180). -/
def flitTaken (l : Nat) (f : Flit) (s : State) : State :=
    let key := xferKey f.srcChip f.tag
    let free := issueCredit l f.cls
    let forward (out : Nat) (g : Flit) (t : State) : State :=
      if (linkOf t out).phase == .up then forwardFlit l out f g t
      else free (if flitLast f then t
        else setLinks (fun k => { k with dropping := key :: k.dropping, routes := tabDel k.routes key }) t)
    match f.body with
    | .head h =>
      let s0 := tagBegins key (rxTaken l s)
      match nextHop s.links.ident h with
      | none => free (headArrives h l f.srcChip f.tag s0)
      | some out => forward out f (setLinks (fun k => { k with routes := tabSet k.routes key out }) s0)
    | .data last poison bytes =>
      let s0 := rxTaken l s
      if s.links.dropping.contains key then
        free (if last then setLinks (fun k => { k with dropping := k.dropping.filter (· != key), routes := tabDel k.routes key }) s0 else s0)
      else match tabFind s.links.routes key with
      | none => free s0
      | some 4 => if arrivalRoom f.srcChip f.tag s then free (dataArrives f.srcChip f.tag last poison bytes s0) else s
      | some out =>
        let s1 := forward out f s0
        if last then setLinks (fun k => { k with routes := tabDel k.routes key }) s1 else s1

/-- FLIT_RX: one that does not verify counts `ln_crc` and is not acknowledged; from it on none is taken until its replay comes (go-back-N, R393).
One of an RSV kind or class is acknowledged and has no effect (log 93). -/
def flitRx (l : Nat) (g : LineFlit) (s : State) : State :=
  let k := linkOf s l
  let missing (t : State) : State := setLink l (fun x => { x with rxMissing := x.rxMissing || decide (x.rxCount ≤ g.nth) }) t
  if computeDown s || k.phase != .up then s
  else if !lineGood g then bump (cLink l 0) (missing s)
  else if g.nth ≠ k.rxCount then missing s
  else match flitRead g with
  | none => rxTaken l s
  | some f => flitTaken l f s

def execFlitRx (link : Nat) (f : LineFlit) (s : State) : Result := .next (flitRx (link % 4) f s)

/-! ## Tick markers (R396 to R399) -/

/-- A marker is of a better master than the one followed: a higher epoch, or the same and a lower chip ID (R399). A chip that follows none
holds 64 as its master's ID. -/
def betterMaster (s : State) (m : Marker) : Bool :=
  decide (s.links.epoch < m.epoch) || (decide (s.links.epoch = m.epoch) && decide (m.master < s.links.masterChip))

/-- A marker is of the master followed. -/
def sameMaster (s : State) (m : Marker) : Bool := m.epoch == s.links.epoch && m.master == s.links.masterChip

/-- The phase error that a marker shows, in ac: its arrival less the one-way latency measured for its link (R381, R396), to the nearest ac. -/
def markerErr (s : State) (l : Nat) (m : Marker) : Int := (6 * (m.arrPs - (linkOf s l).latencyPs) + 2500) / 5000

/-- The marker of the tick parent sets the phase; one of another period or frame length keeps the chip in holdover and counts
`tick_mis` (R396, R398). -/
def followMarker (l : Nat) (m : Marker) (s : State) : State :=
  let s1 := setLinks (fun k => { k with heard := some (m.tick, m.frame, m.tickInFrame) }) s
  if m.period ≠ s.tick.period ∨ m.frameLen ≠ s.tick.frameLen then
    sourceMissed (bump cTickMis s1)
  else sourceEdge (markerErr s l m) s1

/-- A better candidate of the same tick takes the place of the first one: its error is the tick's (R11, R396). -/
def followBetter (l : Nat) (m : Marker) (s : State) : State :=
  let lim := trimLimit s
  let e := markerErr s l m
  setTick (fun t => { t with
    phase := e
    trim := if t.realign || t.holdover then t.trim else max (-(lim : Int)) (min (lim : Int) e) }) s

/-- TICK_MARKER_RX (R396 to R399). Another candidate than the parent takes its place only within 64 ac of the expected T0 (R397). -/
def tickMarkerRx (l : Nat) (m : Marker) (s : State) : State :=
  if computeDown s || (linkOf s l).phase != .up then s
  else
    let s1 := setLinks (fun k => { k with epochMax := max k.epochMax m.epoch }) s
    if s1.links.master then
      if betterMaster s1 m then setLinks (fun k => { k with yield_ := true }) s1 else s1
    else if !(betterMaster s1 m || sameMaster s1 m) then s1
    else
      let s2 := if sameMaster s1 m then s1
        else setLinks (fun k => { k with epoch := m.epoch, masterChip := m.master, best := none }) s1
      let far := s2.tick.source == 2 && !s2.tick.holdover && decide (64 < (markerErr s2 l m).natAbs) &&
        s2.links.parent.isSome && s2.links.parent != some l
      let take := !far && match s2.links.best with
        | none => true
        | some (bl, bh) => decide (m.hops < bh) || (decide (m.hops = bh) && decide (l < bl))
      if take then
        let first := s2.links.best.isNone
        let s3 := setLinks (fun k => { k with best := some (l, m.hops), parent := some l }) s2
        if s3.tick.source = 2 then (if first then followMarker l m s3 else followBetter l m s3) else s3
      else s2

def execTickMarkerRx (link : Nat) (m : Marker) (s : State) : Result := .next (tickMarkerRx (link % 4) m s)

/-- PARENT_MARKER_MISSING: another candidate of the same tick is the parent, or the source is lost (R397). -/
def execParentMarkerMissing (s : State) : Result :=
  .next (if computeDown s || s.tick.source != 2 || s.links.master then s
    else match s.links.best with
    | some (l, _) => setLinks (fun k => { k with parent := some l }) s
    | none => sourceMissed (setLinks (fun k => { k with parent := none }) s))

/-! ## Commands (Table 14-7, R400) -/

/-- LINK_STATE: per link 64 bytes (state, far chip, version, latency, parent flag, counters) and the link map as 32 bytes (the layout is
the model's, log 26). -/
def bodyLinkState (c : Cmd) (s : State) : State :=
  let one (l : Nat) : List Byte :=
    let k := linkOf s l
    padTo 64 (leBytes 1 (linkCode k.phase) ++ leBytes 1 k.farChip ++ leBytes 2 k.version ++ leBytes 4 k.latencyPs ++
      leBytes 4 (b2n (s.links.parent == some l)) ++ (List.range 8).flatMap fun i => leBytes 4 (ctrGet s (cLink l i)).toNat)
  respond 0x0702 c ((List.range 4).flatMap one ++ leBytes 32 (listMask s.links.downMap)) 0 s

/-- LINK_ADMIN: down is flooded at once and waits for the boundary and the drain; up starts training (R400). -/
def bodyLinkAdmin (c : Cmd) (s : State) : State :=
  let mask := BitVec.ofNat 4 (fld c 3 0 0)
  if mask &&& ~~~s.links.ident.linkEn ≠ 0 then fail 0x0703 c .badParam s
  else if fldB c 4 false then
    let ls := (List.range 4).filter fun l => mask.getLsbD l
    let s1 := ls.foldl (fun t l =>
      let t1 := flood (mapKey t l) (if (linkOf t l).phase == .up then .up else .down)
        (setLinks (fun k => { k with avoid := k.avoid &&& ~~~(1#4 <<< l) }) t)
      if (linkOf t1 l).phase == .up || (linkOf t1 l).phase == .training then t1
      else if polderUp t1 (pLink l) then setPhase l .training t1
      else requestPolder (pLink l) (setPhase l .disabled t1)) s
    if ls.all fun l => (linkOf s1 l).phase == .up then completeOk 0x0703 c 0 s1 else waitFor 0x0703 c (.linkUp mask) s1
  else if mask = 0 then completeOk 0x0703 c 0 s
  else waitFor 0x0703 c (.linkDown mask false)
    (((List.range 4).filter fun l => mask.getLsbD l).foldl (fun t l => flood (mapKey t l) .adminDown t) s)

/-- The flits of the links that a LINK_ADMIN down names have left, or the 20 µs from its boundary can be over in this tick (R400). -/
def adminDrained (mask : BitVec 4) (s : State) : Bool :=
  decide (s.links.adminSince + 24000 ≤ s.tick.t0Abs + s.tick.period) ||
    ((List.range 4).filter fun l => mask.getLsbD l).all fun l =>
      (linkOf s l).phase != .up || ((linkOf s l).txq.isEmpty && (linkOf s l).replay.isEmpty)

/-- LINK_ADMIN_DOWN_ENTRY: the queued flits have drained, or 20 µs are over: the links are ADMIN_DOWN and the command completes (R400). -/
def linkAdminDownEntry (s : State) : State :=
  match s.mbx.waits.find? fun w => match w.act with | .linkDown _ r => r | _ => false with
  | none => s
  | some w =>
    match w.act with
    | .linkDown mask _ =>
      if !adminDrained mask s then s else
      let s1 := ((List.range 4).filter fun l => mask.getLsbD l).foldl (fun t l =>
        if (linkOf t l).phase == .up then linkLeavesUp l .adminDown t else setPhase l .adminDown t) s
      finishFirst (· == w.act) .ok 0 s1
    | _ => s

/-- LINK_MASTER: waits for the next frame boundary (R399). -/
def bodyLinkMaster (c : Cmd) (s : State) : State := waitFor 0x0704 c .linkMaster s

/-- LINK_PING: the round trip in ns, which lies outside the chip (a free value), or LINK_DOWN when no route is up (Table 14-7). -/
def bodyLinkPing (c : Cmd) (s : State) : State :=
  let chip := fld c 5 0 0
  let i := s.links.ident
  if (i.dimX + 1) * (i.dimY + 1) ≤ chip then fail 0x0705 c .badParam s
  else if chip = i.chipId ∨ (routeTo s chip).isSome then draw (completeOk 0x0705 c (Config.freeNat s.free chip) s)
  else fail 0x0705 c .linkDown s

def execLinkState (c : Cmd) (s : State) : Result := .next (deliver 0x0702 bodyLinkState c s)
def execLinkAdmin (c : Cmd) (s : State) : Result := .next (deliver 0x0703 bodyLinkAdmin c s)
def execLinkAdminDownEntry (s : State) : Result := .next (if computeDown s then s else linkAdminDownEntry s)
def execLinkMaster (c : Cmd) (s : State) : Result := .next (deliver 0x0704 bodyLinkMaster c s)
def execLinkPing (c : Cmd) (s : State) : Result := .next (deliver 0x0705 bodyLinkPing c s)

end Sys2Proof.Machine
end

