-- ==== Sys2Proof/Machine/Rings.lean ====
section
/-! DEFINITION. Rings in host memory (R37 to R40, Table 01-8): their setup, and the posting of an entry. -/

namespace Sys2Proof.Machine

/-- A ring as the parameters of Table 01-8 give it. -/
def ringOf (c : Cmd) : Ring :=
  { on := true
    base := BitVec.ofNat 64 (fld c 63 0 0)
    index := BitVec.ofNat 64 (fld c 127 64 0)
    entriesLog2 := fld c 131 128 10
    entryLog2 := fld c 135 132 10
    vec := fld c 167 160 0
    every := fld c 159 144 0 }

/-- The range and alignment checks of R38, with the entry sizes that the ring allows. -/
def ringOk (lo hi : Nat) (r : Ring) : Bool :=
  decide (lo ≤ r.entryLog2 ∧ r.entryLog2 ≤ hi) && decide (6 ≤ r.entriesLog2 ∧ r.entriesLog2 ≤ 16) && decide (r.vec < 64) &&
    r.base.toNat % 4096 == 0 && r.index.toNat % 8 == 0

/-- A setup takes effect: the producer count restarts at 0, and 0 is written to its host address (R39). -/
def ringStart (r : Ring) (s : State) : State := hostWrite r.index.toNat (zeros 4) s

/-- The ring is full (R40). -/
def ringFull (r : Ring) : Bool := (r.prod - r.cons).toNat == 2 ^ r.entriesLog2

/-- An entry is posted: its bytes, then the producer count, then the message that is due; one that finds the ring full is dropped and
counted, and while posting is off nothing is written (R39, R40). -/
def ringPost (r : Ring) (bs : List Byte) (s : State) : Ring × State :=
  if !r.on then (r, s)
  else if ringFull r then ({ r with drop := if r.drop = 0xFFFFFFFF then r.drop else r.drop + 1 }, s)
  else
    let p := r.prod + 1
    let s1 := hostWrite (r.base.toNat + 2 ^ r.entryLog2 * (r.prod.toNat % 2 ^ r.entriesLog2)) bs s
    let s2 := hostWrite r.index.toNat (leBytes 4 p.toNat) s1
    let since := r.since + 1
    let due := decide (r.every ≠ 0) && decide (r.every ≤ since)
    ({ r with prod := p, since := if due then 0 else since }, if due then msixSend r.vec s2 else s2)

/-- Post to the tick ring, the report ring, the receive ring. -/
def postTick (bs : List Byte) (s : State) : State :=
  let (r, s1) := ringPost s.tring bs s
  { s1 with tring := r }

def postReport (bs : List Byte) (s : State) : State :=
  let (r, s1) := ringPost s.rring bs s
  { s1 with rring := r }

def postRx (bs : List Byte) (s : State) : State :=
  let (r, s1) := ringPost s.fring bs s
  { s1 with fring := r }

end Sys2Proof.Machine
end

