-- ==== Sys2Proof/Machine/FieldBus.lean ====
section
/-! DEFINITION. The field-bus ports and the health outputs (chapter 15): frames in and out, gPTP time, the choice of path of each output,
and the commands of group 0x08. -/

namespace Sys2Proof.Machine

/-! ## Settings in force (Tables 15-8 to 15-11) -/

/-- A port, and a change of it. -/
def portOf (s : State) (p : Nat) : Port := tabGet {} s.bus.ports p
def setPort (p : Nat) (f : Port → Port) (s : State) : State :=
  setBus (fun b => { b with ports := tabSet b.ports p (f (tabGet {} b.ports p)) }) s

/-- Fields of a port's settings. -/
def portField (x : Port) (hi lo : Nat) : Nat := bitsN x.cfg.toNat hi lo
def portOn (x : Port) : Bool := bitN x.cfg.toNat 2

/-- A source filter entry. -/
def filterOf (s : State) (i : Nat) : Nat := (tabGet 0 s.bus.filters i).toNat

/-- A field of FB_REPORTS. -/
def reportField (s : State) (hi lo : Nat) : Nat := bitsN s.bus.reports.toNat hi lo

/-- An output, and a change of it. -/
def outOf (s : State) (k : Nat) : HoOut := tabGet {} s.bus.outs k
def setOut (k : Nat) (f : HoOut → HoOut) (s : State) : State :=
  setBus (fun b => { b with outs := tabSet b.outs k (f (tabGet {} b.outs k)) }) s

/-- A field of an output's settings. -/
def hoField (x : HoOut) (hi lo : Nat) : Nat := bitsN x.cfg.toNat hi lo
def hoMode (x : HoOut) : Nat := hoField x 6 5

/-- The front-end die works: it is powered, has not detected a power failure (R368), and EXTEST does not hold it in reset (R45, R464). -/
def feRuns (s : State) : Bool := feAlive s && !s.nv.powerFail && !s.boot.extest

/-- The body of record 0x0041 (Table 13-3). -/
def busBody (s : State) : List Byte :=
  let own (w : Nat) (lo : Nat) (i x : Nat) : List Byte := leBytes w (x / 2 ^ lo * 2 ^ lo + i)
  ((List.range 2).flatMap fun p => leBytes 16 ((portOf s p).cfg.toNat / 2 * 2 + p)) ++
    ((List.range 32).flatMap fun i => own 16 5 i (filterOf s i)) ++ leBytes 32 s.bus.reports.toNat ++
    (List.range 4).flatMap fun k => own 32 2 k (outOf s k).cfg.toNat

/-- The settings that a body of record 0x0041 gives, at a front-end power-on (R420). -/
def busOf (bs : List Byte) : Bus :=
  let at_ (o n : Nat) : Nat := leNat ((bs.drop o).take n)
  { ports := (List.range 2).map fun p => (p, { cfg := BitVec.ofNat 128 (at_ (16 * p) 16) })
    filters := (List.range 32).map fun i => (i, BitVec.ofNat 128 (at_ (32 + 16 * i) 16))
    reports := BitVec.ofNat 256 (at_ 544 32)
    outs := (List.range 4).map fun k => (k, { cfg := BitVec.ofNat 256 (at_ (576 + 32 * k) 32), configured := true }) }

/-! ## Transmit queues (R408, Table 15-2) -/

/-- Priority of a kind, 1 the highest. -/
def kindPrio (kind : Nat) : Nat := match kind with | 4 => 1 | 1 => 2 | 2 => 3 | 3 => 4 | _ => 5

/-- A host frame that is dropped ends its command with INTERNAL (log 45). -/
def hostDropped (q : FbQ) (s : State) : State :=
  match q.host with
  | some n => finish (fun a => match a with | .fbSend _ m => m == n | _ => false) .internal 0 s
  | none => s

/-- The oldest queued frame of the lowest kind below a priority. -/
def lowestBelow (prio : Nat) (q : List FbQ) : Option FbQ :=
  let low := (q.map fun x => kindPrio x.kind).foldl max 0
  if low ≤ prio then none else q.find? fun x => kindPrio x.kind == low

/-- FB_TX_QUEUE: a frame enters a port's queue, displaces a lower kind, or is dropped (R408). -/
def fbQueue (p : Nat) (x : FbQ) (s : State) : State :=
  let q := (portOf s p).txq
  if q.length < 16 then setPort p (fun y => { y with txq := y.txq ++ [x] }) s
  else match lowestBelow (kindPrio x.kind) q with
    | some low => hostDropped low (bump (cFb p 4) (setPort p (fun y => { y with txq := y.txq.erase low ++ [x] }) s))
    | none => hostDropped x (bump (cFb p 4) s)

/-- A frame of a kind enters the queues of the ports that FB_REPORTS names for it (R409). -/
def fbRoute (kind : Nat) (body : List Byte) (s : State) : State :=
  let ports := reportField s (2 * kind - 1) (2 * kind - 2)
  (maskList 2 ports).foldl (fun t p => fbQueue p { kind := kind, frame := s.tick.frame, body := body, host := none } t) s

/-- A port restarts: its queue is emptied into `fb_tx_drop`, and its PLCA state restarts (R420). -/
def portRestart (p : Nat) (s : State) : State :=
  let q := (portOf s p).txq
  q.foldl (fun t x => hostDropped x t) (bumpBy (cFb p 4) q.length (setPort p (fun y => { y with txq := [], attempts := 0, plca := false }) s))

/-- Bytes of a number, most significant first. -/
def beBytes (k x : Nat) : List Byte := (leBytes k x).reverse

/-- The MAC address of a port (R405). -/
def ownMac (s : State) (p : Nat) : Nat :=
  let m := portField (portOf s p) 127 80
  if m = 0 then (Config.factoryMac p).toNat else m

/-- A frame as it goes on the wire, without FCS (R405, R412). -/
def frameBytes (s : State) (p : Nat) (x : FbQ) : List Byte :=
  let y := portOf s p
  let mac := ownMac s p
  let tag := if bitN s.bus.reports.toNat 176 then
      beBytes 2 0x8100 ++ beBytes 2 (reportField s 179 177 * 2 ^ 13 + reportField s 191 180) else []
  let head := leBytes 16 (pack [(0, 8, 1), (32, 8, x.kind), (40, 8, s.links.ident.chipId), (48, 16, x.body.length),
    (64, 32, x.frame.toNat), (96, 32, y.seq.toNat)])
  let bs := beBytes 6 (reportField s 255 208) ++ beBytes 6 mac ++ tag ++ beBytes 2 (reportField s 207 192) ++ head ++ x.body
  bs ++ zeros (60 - bs.length)

/-- The node count in the BEACON of a port that is PLCA coordinator (R404). -/
def beaconCount (s : State) (p : Nat) : Option Nat :=
  let y := portOf s p
  if feRuns s && portOn y && bitN y.cfg.toNat 3 && portField y 47 40 == 0 then some (portField y 55 48) else none

/-- The next frame of a port: the highest kind, and within it the oldest (R408). -/
def nextFrame (q : List FbQ) : Option FbQ :=
  match q.map fun x => kindPrio x.kind with
  | [] => none
  | a :: t => q.find? fun x => kindPrio x.kind == t.foldl min a

/-- At most `n` frames leave a port's queue in the order of R408; an FB_SEND completes as its frame is sent (Table 15-7). -/
def sendFrames (p : Nat) : Nat → State → State
  | 0, s => s
  | n + 1, s =>
    match nextFrame (portOf s p).txq with
    | none => s
    | some x =>
      let s1 := setPort p (fun z => { z with txq := z.txq.erase x, seq := z.seq + 1, attempts := 0, sent := frameBytes s p x :: z.sent }) s
      sendFrames p n (match x.host with
        | some k => finish (fun a => match a with | .fbSend _ m => m == k | _ => false) .ok 0 s1
        | none => s1)

/-- Further frames that a port sends in the same transmit opportunity: `burst_cnt` under PLCA. A port "may" send them; the model's port sends
every queued one (R404; DESIGN CHOICE, log 86). -/
def burstOf (y : Port) : Nat := if bitN y.cfg.toNat 3 && y.plca then portField y 71 64 else 0

/-- FB_TRANSMIT_OPPORTUNITY: the port sends its next frame and a burst behind it, or the attempt collides (R404, R407), or it was the sixteenth
(R404). -/
def fbTransmit (p : Nat) (r : TxOutcome) (s : State) : State :=
  let y := portOf s p
  if !feRuns s || !portOn y then s
  else match nextFrame y.txq with
  | none => s
  | some x =>
    let taken := setPort p (fun z => { z with txq := z.txq.erase x }) s
    match r with
    | .sent => sendFrames p (1 + burstOf y) s
    | .collided =>
      let s1 := if bitN y.cfg.toNat 3 && y.plca then logEvent 0x0061 7 (ownMac s p) p (bump (cFb p 6) s) else s
      if y.attempts < 15 then setPort p (fun z => { z with attempts := z.attempts + 1 }) s1
      else hostDropped x (bump (cFb p 5) (setPort p (fun z => { z with txq := z.txq.erase x, attempts := 0 }) s1))
    | .failed16 => hostDropped x (bump (cFb p 5) (setPort p (fun z => { z with attempts := 0 }) taken))

def execFbTransmitOpportunity (port : Nat) (r : TxOutcome) (s : State) : Result := .next (fbTransmit (port % 2) r s)

/-- PLCA_STATUS_CHANGE (R404). -/
def execPlcaStatusChange (port : Nat) (status : Bool) (s : State) : Result :=
  .next (if feRuns s then setPort (port % 2) (fun y => { y with plca := status && bitN y.cfg.toNat 3 }) s else s)

/-! ## Receiving (R403 to R411) -/

/-- The filter entry that matches a source address on a port; of two entries with one address the lower one (R406 does not say, log 86). -/
def matchFilter (s : State) (p : Nat) (src : Nat) : Option Nat :=
  (List.range 32).find? fun i =>
    let e := filterOf s i
    bitN e 47 && bitN e (40 + p) && bitsN e 127 80 == src

/-- Units of a token: 1 frame is 1,200,000,000 units, so an ac adds `rate` of them (R406). -/
def tokenUnit : Nat := 1200000000

/-- Take a token of an entry, refilled up to the T0 of this tick (log 46): whether there is one, and the bucket after it. -/
def takeToken (s : State) (i rate : Nat) : Bool × State :=
  if rate = 0 then (true, s)
  else
    let (have_, at_) := tabGet (16 * tokenUnit, s.tick.t0Abs) s.bus.buckets i
    let now := min (16 * tokenUnit) (have_ + rate * (s.tick.t0Abs - at_))
    let left := if tokenUnit ≤ now then now - tokenUnit else now
    (decide (tokenUnit ≤ now), setBus (fun b => { b with buckets := tabSet b.buckets i (left, s.tick.t0Abs) }) s)

/-- GPTP_SYNC_RX: the recovered time, and the rate ratio from successive Syncs (R411; log 46 for the receive time). -/
def gptpSync (p originNs : Nat) (corrNs log2 : Int) (s : State) : State :=
  setPort p (fun y =>
    let ns : Int := originNs + corrNs + portField y 31 16
    let rate := match y.gptpPrev with
      | some (ns0, at0) =>
        if y.gptpOk ∧ at0 < s.tick.t0Abs then (ns - ns0) * 6 * 4294967296 / (5 * ((s.tick.t0Abs - at0 : Nat) : Int)) else y.gptpRate
      | none => y.gptpRate
    { y with gptpOk := true, gptpNs := ns, gptpPrev := some (ns, s.tick.t0Abs), gptpRate := rate, gptpLog2 := log2 }) s

/-- A gPTP frame of a listed source (R406 step 3, R410). -/
def gptpFrame (p i : Nat) (f : FbFrame) (s : State) : State :=
  let y := portOf s p
  if !bitN (filterOf s i) 46 || !bitN y.cfg.toNat 4 || f.domain != portField y 39 32 then s
  else match f.gptp with
  | .sync origin corr log2 => if -5 ≤ log2 ∧ log2 ≤ 0 then gptpSync p origin corr log2 s else s
  | _ => s

/-- A receive-ring entry (R421). -/
def rxEntry (s : State) (p : Nat) (f : FbFrame) : List Byte :=
  leBytes 8 (pack [(0, 1, p), (16, 16, f.bytes.length), (32, 32, s.tick.no.toNat)]) ++ f.bytes

/-- FB_FRAME_RX: a received frame is filtered, policed and used, posted or dropped (R403, R406, R407). While the compute die is down, which
holds the receive ring, a frame for it is dropped and counts nowhere (log 86). -/
def fbFrameRx (p : Nat) (f : FbFrame) (s : State) : State :=
  let y := portOf s p
  if !feRuns s || !portOn y then s
  else if f.beacon then
    (if bitN y.cfg.toNat 3 && portField y 47 40 == 0 then bump (cFb p 7) s else s)
  else if f.tooLong || !f.crcOk then bump (cFb p 0) s
  else match matchFilter s p f.src.toNat with
  | none =>
    let s1 := bump (cFb p 1) s
    if tabGet false s.bus.stranger p then s1
    else logEvent 0x0061 7 f.src.toNat p (setBus (fun b => { b with stranger := tabSet b.stranger p true }) s1)
  | some i =>
    let (ok, s1) := takeToken s i (bitsN (filterOf s i) 79 64)
    if !ok then bump (cFb p 2) s1
    else if f.etherType = 0x88F7 then gptpFrame p i f s1
    else if f.etherType.toNat = reportField s 207 192 ∧ bitN (filterOf s i) 45 then
      (if computeDown s then s1 else postRx (rxEntry s p f) s1)
    else bump (cFb p 3) s1

def execFbFrameRx (port : Nat) (f : FbFrame) (s : State) : Result := .next (fbFrameRx (port % 2) f s)

/-- Three of the announced sync intervals since the last Sync of a port can be over in this tick (R411). -/
def gptpDue (s : State) (p : Nat) : Bool :=
  match (portOf s p).gptpPrev with
  | some (_, at0) =>
    decide (3 * 1200000000 * 2 ^ (portOf s p).gptpLog2.toNat ≤ (s.tick.t0Abs + s.tick.period - at0) * 2 ^ (-(portOf s p).gptpLog2).toNat)
  | none => true

/-- GPTP_LOSS: no Sync for three announced intervals (R411). -/
def execGptpLoss (port : Nat) (s : State) : Result :=
  .next (if feRuns s && (portOf s (port % 2)).gptpOk && gptpDue s (port % 2) then
    bump (cFb (port % 2) 8) (setPort (port % 2) (fun y => { y with gptpOk := false }) s) else s)

/-! ## The health state (Table 15-5) -/

/-- Run state of event n (R110). -/
def evRun (s : State) (n : Nat) : EvRun := if n % 2 = 0 then (chanOf s (n / 2)).ev0 else (chanOf s (n / 2)).ev1

/-- Event n is configured, and its channel is on. -/
def evOn (s : State) (n : Nat) : Bool := (eventOf s.fe.cfg n).enable && chanOn s (n / 2)

/-- Event n is held with its channel's detectors (R112). -/
def evHeld (s : State) (n : Nat) : Bool := evOn s n && (chanOf s (n / 2)).held

/-- Code of a path. -/
def pathCode : HoPath → Nat
  | .learned => 0 | .fallback => 1 | .fault => 2 | .held => 3

/-- The health state as one number. The last record is that of this tick once it is committed, else that of the tick before; without either
none was committed (DEDUCED, log 86). -/
def healthState (s : State) : Nat :=
  let outs := (List.range 4).flatMap fun k =>
    let x := outOf s k
    [(96 + 4 * k, 4, pathCode x.path), (32 + 16 * k, 16, if x.path = .fault then 0 else x.pin.getD 0)]
  let fb := if s.tick.committed || s.tick.lastOk then bitN s.tick.last.flags.toNat 5 else true
  pack ([(0, 1, b2n fb), (1, 1, b2n s.tick.computeUp), (120, 24, listMask ((List.range 24).filter fun c => (chanOf s c).cmFault)),
    (144, 48, listMask ((List.range 48).filter fun n => (evRun s n).active)), (192, 64, s.tick.no.toNat)] ++ outs)

/-- SMBus HEALTH (Table 20-11). -/
def execSmbHealth (s : State) : Result := .next (smbAnswer false (leBytes 32 (healthState s)) s)

/-- HEALTH_STATE_POST: a kind-4 frame every `hs_every` frames, at the frame boundary (R409): in the frames whose number is a multiple of it
(DESIGN CHOICE, log 86). -/
def execHealthStatePost (s : State) : Result :=
  .next (if feRuns s && s.tick.inFrame == 0 && decide (s.tick.frame.toNat % max 1 (reportField s 47 32) = 0) then
    fbRoute 4 (leBytes 32 (healthState s)) s else s)

/-- A record was committed in the frame that has just ended (R413). -/
def recordOfFrame (s : State) : Bool :=
  decide (s.tick.last.tick.toNat < s.tick.no.toNat ∧ s.tick.no.toNat ≤ s.tick.last.tick.toNat + s.tick.frameLen) && s.tick.last != {}

/-- FRAME_DATA_POST: a kind-3 frame every `fd_every` frames, from the last committed record of the frame (R409, R413), in the frames whose
number is a multiple of it; without a record in the frame none is posted (DESIGN CHOICE, log 86). -/
def execFrameDataPost (s : State) : Result :=
  .next (
    let every := reportField s 63 48
    let r := s.tick.last
    if feRuns s && !computeDown s && recordOfFrame s && s.tick.inFrame == 0 && every != 0 && decide (s.tick.frame.toNat % every = 0) then
      fbRoute 3 (leBytes 8 r.tick.toNat ++ leBytes 2 r.flags.toNat ++ leBytes 1 r.watchState ++ leBytes 1 r.severity.toNat ++
        leBytes 4 r.score.toNat ++ r.features.flatMap fun x => leBytes 4 x.toNat) s
    else s)

/-! ## The choice of path (R415 to R418) -/

/-- n / d rounded to nearest even, for d > 0. -/
def nearestDiv (n : Int) (d : Nat) : Int := divEven n d

/-- A finite value as a signed multiple of 2^e. -/
def fpSigned : Fp → Int × Int
  | .fin neg m e => (if neg then -(m : Int) else m, e)
  | _ => (0, 0)

/-- The linear mapping of a score (R416); between the ends an infinite `s_lo` or `s_hi` leaves the value open (log 45). -/
def linearPoint (sp0 sp3 : Nat) (lo hi : F16) (score : F32) : Nat :=
  let x := dec32 score
  if fpLe x (dec16 lo) then sp0
  else if fpLe (dec16 hi) x then sp3
  else if !fpFinite (dec16 lo) || !fpFinite (dec16 hi) then Config.linearOpen lo hi score
  else
    let (a, ea) := fpSigned (fpSub x (dec16 lo))
    let (b, eb) := fpSigned (fpSub (dec16 hi) (dec16 lo))
    let num := ((sp3 : Int) - sp0) * a * (2 ^ (ea - min ea eb).toNat : Nat)
    let den := (b * (2 ^ (eb - min ea eb).toNat : Nat)).toNat
    ((sp0 : Int) + nearestDiv num den).toNat

/-- The set point of the learned path (R416). -/
def learnedPoint (x : HoOut) (r : RecState) : Nat :=
  let sp (k : Nat) : Nat := hoField x (175 + 16 * k) (160 + 16 * k)
  if bitN x.cfg.toNat 8 then
    linearPoint (sp 0) (sp 3) (BitVec.ofNat 16 (hoField x 63 48)) (BitVec.ofNat 16 (hoField x 79 64)) r.score
  else sp (nth r.levels (hoField x 11 9) 0)

/-- An output takes a path with a set point: the fault level at once, a point from the fault level at once, and any other change at the
next period (R418). -/
def takePath (p : HoPath) (sp : Option Nat) (x : HoOut) : HoOut :=
  match sp with
  | none => { x with path := p, pin := none }
  | some v => { x with path := p, sp := v, pin := if x.pin.isNone then some v else x.pin }

/-- The choice of one output (Table 15-6). Over a hold it keeps the set point it had before the hold; an output that never had one stays at
the fault level (log 45). -/
def chooseOut (s : State) (cm : BitVec 24) (k : Nat) (t : State) : State :=
  let x := outOf s k
  let evs := maskList 48 (hoField x 159 112)
  let anyHeld := evs.any (evHeld s)
  let ticks := if anyHeld then some (match x.holdTicks with | some n => n + 1 | none => 0) else none
  let expired := anyHeld && (x.expired || decide (hoField x 31 16 ≤ ticks.getD 0))
  let kept := if x.holdTicks.isNone then x.sp else x.holdSp
  let y := { x with holdTicks := ticks, holdSp := if anyHeld then kept else 0, expired := expired }
  let held := takePath .held (if kept = 0 then none else some kept) y
  let z :=
    if s.nv.powerFail || hoMode x == 0 || !x.configured then takePath .fault none y
    else if hoField x 111 88 &&& cm.toNat ≠ 0 then takePath .fault none y
    else match s.bus.rs with
    | some r =>
      if !r.fallback then takePath .learned (some (learnedPoint x r)) y
      else if expired then takePath .fault none y
      else if anyHeld then held
      else takePath .fallback (some (if evs.any fun n => (evRun s n).active then hoField x 255 240 else hoField x 239 224)) y
    | none =>
      if expired then takePath .fault none y
      else if anyHeld then held
      else takePath .fallback (some (if evs.any fun n => (evRun s n).active then hoField x 255 240 else hoField x 239 224)) y
  setOut k (fun _ => z) t

/-- HEALTH_PATH_CHOICE: each output's choice for this tick, or for the last one when its choice is still to come; no tick has two (R415). -/
def healthChoice (s : State) : State :=
  if !feAlive s || s.boot.extest || (s.bus.chosen && s.bus.owed.isNone) then s
  else
    let cm := match s.bus.owed with | some m => m | none => s.fe.cmM
    let s1 := (List.range 4).foldl (fun t k => chooseOut s cm k t) s
    setBus (fun b => { b with rs := none, owed := none, chosen := b.owed.isNone }) s1

def execHealthPathChoice (s : State) : Result := .next (healthChoice s)

/-- What a tick edge leaves of the choices: one that was due in this tick and has not been made is made, so that no tick is skipped; with C below
64 ac the tick's own comes after the edge, with the mask of its tick (R415). -/
def choiceEdge (s : State) : State :=
  let off := if s.boot.stage == .ready then s.tick.commitOff else s.bus.commitOff
  let s1 := if s.bus.owed.isSome then healthChoice s else s
  let s2 := if s1.bus.chosen || decide (off < 64) then s1 else healthChoice s1
  setBus (fun b => { b with chosen := false, owed := if b.chosen then none else some s.fe.cmM }) s2

/-- HOLD_EXPIRY: after `hold` ticks of a detector hold the output goes to the fault level (R417). -/
def holdExpiry (k : Nat) (s : State) : State :=
  let x := outOf s k
  match x.holdTicks with
  | some n =>
    if x.path = .held ∧ hoField x 31 16 ≤ n + 1 then
      setOut k (fun y => { takePath .fault none y with expired := true }) s
    else s
  | none => s

def execHoldExpiry (output : Nat) (s : State) : Result := .next (holdExpiry (output % 4) s)

/-- HO_PERIOD_START: a new period takes up the set point chosen (R418). -/
def execHoPeriodStart (output : Nat) (s : State) : Result :=
  .next (if feAlive s && (outOf s (output % 4)).pin.isSome then
    setOut (output % 4) (fun y => { y with pin := some y.sp }) s else s)

/-- VHO_TOLERANCE_CHANGE: the drivers go to high impedance, or drive again (R538). -/
def execVhoToleranceChange (ok : Bool) (s : State) : Result := .next (setBus (fun b => { b with vhoOk := ok }) s)

/-! ## Commands of group 0x08 -/

/-- Parameter bits of a table, by its fields (highest bit, lowest bit, reset) (R431). -/
def paramBits (c : Cmd) (fs : List (Nat × Nat × Nat)) : Nat := pack (fs.map fun f => (f.2.1, f.1 + 1 - f.2.1, fld c f.1 f.2.1 f.2.2))

/-- Fields of Tables 15-8 to 15-11. -/
def portFields : List (Nat × Nat × Nat) :=
  [(127, 80, 0), (79, 72, 128), (71, 64, 0), (63, 56, 32), (55, 48, 8), (47, 40, 0), (39, 32, 0), (31, 16, 0), (4, 4, 0), (3, 3, 0),
   (2, 2, 0), (0, 0, 0)]
def filterFields : List (Nat × Nat × Nat) :=
  [(127, 80, 0), (79, 64, 0), (47, 47, 0), (46, 46, 0), (45, 45, 0), (41, 40, 0), (4, 0, 0)]
def reportsFields : List (Nat × Nat × Nat) :=
  [(255, 208, 0), (207, 192, 0x88B5), (191, 180, 0), (179, 177, 0), (176, 176, 0), (63, 48, 0), (47, 32, 500), (9, 0, 0)]
def hoFields : List (Nat × Nat × Nat) :=
  [(255, 240, 0), (239, 224, 0), (223, 208, 0), (207, 192, 0), (191, 176, 0), (175, 160, 0), (159, 112, 0), (111, 88, 0), (79, 64, 0),
   (63, 48, 0), (47, 32, 1000), (31, 16, 256), (11, 9, 0), (8, 8, 0), (7, 7, 0), (6, 5, 0), (1, 0, 0)]

/-- FB_PORT (Table 15-8). -/
def bodyFbPort (c : Cmd) (s : State) : State :=
  let b := paramBits c portFields
  if bitsN b 63 56 = 0 ∨ bitsN b 55 48 = 0 ∨ bitsN b 47 40 = 255 ∨ 127 < bitsN b 39 32 then fail 0x0801 c .badParam s
  else waitFor 0x0801 c (.fbPort (BitVec.ofNat 128 b)) s

/-- A filter entry that is a time source. -/
def timeSource (x : Nat) : Bool := bitN x 47 && bitN x 46

/-- The filter as it will stand once the writes in flight have taken effect (R440). -/
def filterNext (s : State) : Tab (BitVec 128) :=
  s.mbx.waits.foldl (fun t w => match w.act with | .fbFilter b => tabSet t (b.toNat % 32) b | _ => t) s.bus.filters

/-- FB_FILTER (Table 15-9): at most one time source per port. -/
def bodyFbFilter (c : Cmd) (s : State) : State :=
  let b := paramBits c filterFields
  let t := filterNext s
  let clash := timeSource b && (List.range 32).any fun i =>
    let x := (tabGet 0 t i).toNat
    i != b % 32 && timeSource x && bitsN x 41 40 &&& bitsN b 41 40 != 0
  if clash then fail 0x0802 c .badParam s else waitFor 0x0802 c (.fbFilter (BitVec.ofNat 128 b)) s

/-- FB_REPORTS (Table 15-10). -/
def bodyFbReports (c : Cmd) (s : State) : State :=
  let b := paramBits c reportsFields
  if bitsN b 47 32 = 0 then fail 0x0803 c .badParam s else waitFor 0x0803 c (.fbReports (BitVec.ofNat 256 b)) s

/-- FB_SEND: a kind-5 frame joins a port's queue, and completes when it is sent (Table 15-7). -/
def bodyFbSend (c : Cmd) (s : State) : State :=
  let len := fld c 47 32 0
  let p := fld c 0 0 0
  if len = 0 ∨ 1484 < len then fail 0x0804 c .badParam s
  else if 16 ≤ (portOf s p).txq.length then fail 0x0804 c .busy s
  else
    let n := s.bus.nextHost
    let s1 := waitFor 0x0804 c (.fbSend p n) (setBus (fun b => { b with nextHost := n + 1 }) s)
    fbQueue p { kind := 5, frame := s.tick.frame, body := hostRead s (fld c 127 64 0) len, host := some n } s1

/-- FB_RX_RING (Table 15-7). -/
def bodyFbRxRing (c : Cmd) (s : State) : State :=
  let r := ringOf c
  if !ringOk 11 11 r then fail 0x0805 c .badParam s
  else completeOk 0x0805 c 0 (ringStart r { s with fring := r })

/-- Offset of a port's gPTP time from the device time base, in ns, as its last Sync gave it (Table 15-7). -/
def gptpOffset (y : Port) : Int := match y.gptpPrev with | some (_, at0) => y.gptpNs - ((at0 * 5 / 6 : Nat) : Int) | none => 0

/-- FB_STATUS: per port 64 bytes, PLCA status, gPTP state, offset and rate, and the counters of R422 (log 26). -/
def bodyFbStatus (c : Cmd) (s : State) : State :=
  let one (p : Nat) : List Byte :=
    let y := portOf s p
    padTo 64 (leBytes 4 (b2n y.plca + 2 * b2n y.gptpOk) ++ leBytes 8 (wrapN 64 (gptpOffset y)) ++ leBytes 8 (wrapN 64 y.gptpRate) ++
      (List.range 9).flatMap fun i => leBytes 4 (ctrGet s (cFb p i)).toNat)
  respond 0x0806 c (one 0 ++ one 1) 0 s

/-- Two set points lie too close to each other (R419). -/
def pointsClose (mode a b : Nat) : Bool :=
  let d := max a b - min a b
  if mode = 2 then decide (d < 50) else decide (20 * d < max a b)

/-- Some two of a list lie too close. -/
def anyClose (mode : Nat) : List Nat → Bool
  | [] => false
  | a :: t => t.any (pointsClose mode a) || anyClose mode t

/-- The checks of HO_CONFIG (R419, Table 15-11). -/
def hoOk (b : Nat) : Bool :=
  let mode := bitsN b 6 5
  let linear := bitN b 8
  let pts := [bitsN b 175 160, bitsN b 191 176, bitsN b 207 192, bitsN b 223 208, bitsN b 239 224, bitsN b 255 240]
  let inRange (x : Nat) : Bool := if mode = 1 then decide (100 ≤ x ∧ x ≤ 20000) else decide (100 ≤ x ∧ x ≤ 900)
  mode != 3 && decide (bitsN b 11 9 ≤ 4) && decide (1000 ≤ bitsN b 47 32 ∧ bitsN b 47 32 ≤ 20000) &&
    (!linear || bitsN b 11 9 == 0 && fpLt (decFloat lay16 (bitsN b 63 48)) (decFloat lay16 (bitsN b 79 64))) &&
    (mode == 0 || pts.all inRange && !anyClose mode pts)

/-- HO_CONFIG (Table 15-11). -/
def bodyHoConfig (c : Cmd) (s : State) : State :=
  let b := paramBits c hoFields
  if hoOk b then waitFor 0x0807 c (.hoConfig (BitVec.ofNat 256 b)) s else fail 0x0807 c .badParam s

/-- HO_STATUS: Table 15-5 in the completion (R415). -/
def bodyHoStatus (c : Cmd) (s : State) : State := completeOk 0x0808 c (healthState s) s

def execFbPort (c : Cmd) (s : State) : Result := .next (deliver 0x0801 bodyFbPort c s)
def execFbFilter (c : Cmd) (s : State) : Result := .next (deliver 0x0802 bodyFbFilter c s)
def execFbReports (c : Cmd) (s : State) : Result := .next (deliver 0x0803 bodyFbReports c s)
def execFbSend (c : Cmd) (s : State) : Result := .next (deliver 0x0804 bodyFbSend c s)
def execFbRxRing (c : Cmd) (s : State) : Result := .next (deliver 0x0805 bodyFbRxRing c s)
def execFbStatus (c : Cmd) (s : State) : Result := .next (deliver 0x0806 bodyFbStatus c s)
def execHoConfig (c : Cmd) (s : State) : Result := .next (deliver 0x0807 bodyHoConfig c s)
def execHoStatus (c : Cmd) (s : State) : Result := .next (deliver 0x0808 bodyHoStatus c s)

/-! ## Taking effect at a frame boundary (R420) -/

/-- New settings of a port; a change of `enable`, `plca`, `node_id` or `mac` restarts it. -/
def portApply (b : BitVec 128) (s : State) : State :=
  let p := b.toNat % 2
  let old := (portOf s p).cfg.toNat
  let new := b.toNat
  let restart := bitsN old 3 2 != bitsN new 3 2 || bitsN old 47 40 != bitsN new 47 40 || bitsN old 127 80 != bitsN new 127 80
  let s1 := if restart then portRestart p s else s
  setPort p (fun y => { y with cfg := b, gptpOk := y.gptpOk && bitN new 4 && bitN new 2 }) s1

/-- Whether a wait is one of the settings of record 0x0041. -/
def isBusWait : PendAct → Bool
  | .fbPort _ => true | .fbFilter _ => true | .fbReports _ => true | .hoConfig _ => true | _ => false

/-- The pending settings take effect, record 0x0041 is to be written, and their commands complete (R420). -/
def busBoundary (s : State) : State :=
  if !waiting s isBusWait then s
  else
    let s1 := s.mbx.waits.foldl (fun t w => match w.act with
      | .fbPort b => portApply b t
      | .fbFilter b => setBus (fun u => { u with
          filters := tabSet u.filters (b.toNat % 32) b
          buckets := tabDel u.buckets (b.toNat % 32) }) t
      | .fbReports b => setBus (fun u => { u with reports := b }) t
      | .hoConfig b => setOut (b.toNat % 4) (fun x => { x with cfg := b, configured := true }) t
      | _ => t) s
    finish isBusWait .ok 0 (recQueue 26 (busBody s1) s1)

end Sys2Proof.Machine
end

