-- ==== Sys2Proof/Machine/Watch.lean ====
section
/-! DEFINITION. The watch (chapter 11): its image, its states and learned state, what the commit point and the statistics job do for it,
training, evaluation, promotion and rollback, its reports and their envelopes (R466 to R470), and the commands of group 0x04. -/

namespace Sys2Proof.Machine

/-! ## The image (R285 to R287, R293) -/

/-- The watch image header (Table 11-2). -/
def wHead (b : List Byte) : Nat := iw b 0 64

/-- A feature table entry (Table 11-4). -/
def parseFeat (x : Nat) : FeatDef :=
  { channel := bitsN x 63 59
    kind := bitsN x 58 56
    log := bitsN x 55 54 == 1
    groups := BitVec.ofNat 4 (bitsN x 53 50)
    weight := bitsN x 49 46
    xFloor := BitVec.ofNat 16 (bitsN x 31 16)
    sMin := BitVec.ofNat 16 (bitsN x 15 0) }

/-- A tensor table entry, with its initial values (R287). -/
def parseTens (b : List Byte) (x : Nat) : TensDef :=
  let fmt := (fmtOf (bitsN x 71 68)).getD .e4m3
  { dataOff := bitsN x 127 96
    count := bitsN x 95 72
    fmt := fmt
    init := (b.drop (bitsN x 127 96)).take (elemBytes fmt (bitsN x 95 72))
    scaleExp := signedN 8 (bitsN x 67 60)
    trained := bitN x 59
    corr := bitN x 58 }

/-- Counts of the header. -/
def wFeat (b : List Byte) : Nat := bitsN (wHead b) 463 455
def wTens (b : List Byte) : Nat := bitsN (wHead b) 438 432

/-- The image as the watch holds it. -/
def parseWatch (b : List Byte) : WImage :=
  let h := wHead b
  { nFeat := wFeat b
    nReg := bitsN h 454 450
    ctx := bitsN h 449 445
    nCtl := bitsN h 444 439
    jcStat := bitsN h 431 428
    jcTrain := bitsN h 427 424
    jcEval := bitsN h 423 420
    mlIds := (List.range 4).map fun i => bitsN h (367 + 16 * i) (352 + 16 * i)
    ctlAddr := bitsN h 351 288
    secVer := bitsN h 159 128
    feats := (List.range (wFeat b)).map fun i => parseFeat (iw b (bitsN h 287 256 + 8 * i) 8)
    map := (List.range 7).map fun i =>
      let e := iw b (bitsN h 255 224 + 8 * i) 8
      (bitsN e 63 60, bitsN e 58 36, bitsN e 31 0)
    tens := (List.range (wTens b)).map fun i => parseTens b (iw b (bitsN h 223 192 + 16 * i) 16)
    digest := imageDigest b (bitsN h 191 160) }

/-- A list's identifier is one of the image's; 0 is unused (Table 11-2). -/
def listFits (im : WImage) (id : Nat) : Bool := decide (id ≠ 0) && im.mlIds.contains id

/-- The structural checks of R315 with those of R285 to R287; the tables lie inside the image before its signature (log 43). -/
def watchImageOk (s : State) (l : MList) (b : List Byte) : Bool :=
  let h := wHead b
  let im := parseWatch b
  let sig := bitsN h 191 160
  let inside (o n : Nat) : Bool := decide (o + n ≤ sig)
  bitsN h 511 480 == 0x4B574931 && bitsN h 479 464 == 0x0100 && decide (1 ≤ im.nFeat ∧ im.nFeat ≤ 256) && im.nFeat == l.nFeat &&
    decide (1 ≤ im.nReg ∧ im.nReg ≤ 16) && decide (1 ≤ im.ctx ∧ im.ctx ≤ 16) && decide (im.nCtl ≤ 56) &&
    decide (1 ≤ wTens b ∧ wTens b ≤ 64) && im.jcStat != 0 && im.jcTrain != 0 && im.jcEval != 0 && im.ctlAddr % 256 == 0 &&
    listFits im l.movelistId && inside (bitsN h 287 256) (8 * im.nFeat) && inside (bitsN h 255 224) 56 &&
    inside (bitsN h 223 192) (16 * wTens b) &&
    im.map.all (fun (f, a, n) => decide (f < nFields s.part) && a % 64 == 0 && decide (a + n ≤ 2 ^ 23)) &&
    (List.range (wTens b)).all (fun i =>
      let e := iw b (bitsN h 223 192 + 16 * i) 16
      let t := parseTens b e
      (fmtOf (bitsN e 71 68)).isSome && (!t.trained || t.fmt == .e4m3) && (!t.corr || !t.trained) &&
        inside t.dataOff (elemBytes t.fmt t.count)) &&
    im.feats.any fun f => f.weight != 0

/-- The image of a WATCH_SETUP is read, checked and set up. The log and the snapshot must leave the KV pool region of Table 12-3 alone (R315). -/
def setupImage (c : Cmd) (src len logBase frames : Nat) (l : MList) (s : State) : State :=
  let s1 := dramScan src len s
  let b := dramImage s1 src len
  let secVer := (parseWatch b).secVer
  let s2 := verifyScan typeWatch secVer b (bitsN (wHead b) 191 160) (draw s1)
  let im := { parseWatch b with logBase := logBase, logFrames := frames, snapLen := Config.snapshotLen b }
  let size := frames * s.tick.frameLen * rowBytes im + im.snapLen
  if !rangeOk s logBase size ∨ rangeMeets logBase size (usableBytes s - kvRegion s, kvRegion s) then fail 0x0401 c .badParam s2
  else match verifyImage s2 typeWatch im.secVer b (bitsN (wHead b) 191 160) with
  | some st => fail 0x0401 c st s2
  | none =>
    if !watchImageOk s2 l b then fail 0x0401 c .imageReject s2
    else completeOk 0x0401 c 0 (setWatch (fun w => { w with image := some im, rows := [], rowCount := 0, samples := [], heldRows := [] }) s2)

/-- WATCH_SETUP (R315). -/
def bodyWatchSetup (c : Cmd) (s : State) : State :=
  let src := fld c 255 192 0
  let len := fld c 191 160 0
  let logBase := fld c 159 96 0
  let frames := fld c 95 80 0
  if s.watch.run ≠ 0 then fail 0x0401 c .busy s
  else match s.seq.active with
  | none => fail 0x0401 c .notReady s
  | some l =>
    if frames < 16 ∨ 4096 < frames ∨ !rangeOk s src len then fail 0x0401 c .badParam s
    else dramGo 0x0401 c (setupImage c src len logBase frames l) s

/-! ## Start and stop (R314, R316) -/

/-- The severity byte of five levels (R301). -/
def severityOf (levels : List Nat) : BitVec 8 :=
  let m := (List.range 5).foldl (fun a i => max a (nth levels i 0)) 0
  if m = 0 then 0
  else BitVec.ofNat 8 (m + listMask (((List.range 5).filter fun i => nth levels i 0 == m).map (· + 2)))

/-- What a watch that has stopped, or is about to start, holds besides its image, parameters and import (R314). -/
def watchBlank (w : Watch) : Watch :=
  { image := w.image, imported := w.imported, params := w.params, ctlTorn := w.ctlTorn, logLost := w.logLost, skipElem := w.skipElem
    conds := w.conds, envQ := w.envQ, rseq := w.rseq }

/-- The watch stops, and all learned state is lost: the scalar block shows every regime as BLANK and no fade (R286, R314). -/
def watchStop (s : State) : State :=
  if s.watch.run = 0 then s
  else oweEvent .stopped s.watch.learned.modelId s.watch.severity 0 (writeScalars (setWatch watchBlank s))

/-- The initial scales (R287, R309). -/
def initialScales (im : WImage) : Tab Int :=
  let ts := im.tens.filter fun t => t.trained
  (List.range ts.length).map fun i => (i, (nth ts i {}).scaleExp)

/-- A fresh start: the initial weights are the live model in area X and, widened, the candidate (R316). -/
def startFresh (im : WImage) (s : State) : State :=
  let s1 := setWatch (fun w => { watchBlank w with
    run := 1
    ctxLeft := im.ctx
    sigma := initialScales im
    learned := { areaX := { valid := true } } }) s
  writeScalars (writeScales (seedCandidate im (writeInitial 0 im s1)))

/-! ## The export (R318, R470) -/

/-- Bytes of the parts of the exported state: a regime, a model area, all of them before the field-memory areas (the layout is the model's,
log 44). -/
def regBytes (n : Nat) : Nat := 12 + 16 * n
def areaBytes (n : Nat) : Nat := 8 + 64 * n
def coreBytes (n : Nat) : Nat := 16 * regBytes n + 2 * areaBytes n + 32 + 5 * 128 + 192 * 68

/-- The state of an export, as it stands at the boundary; the reads of the firmware's DMA are taken together there (R55, R318; log 44). -/
def exportState (s : State) (im : WImage) : List Byte × State :=
  let l := s.watch.learned
  let n := im.nFeat
  let w32 (t : Tab F32) (i : Nat) : List Byte := leBytes 4 (tabGet 0 t i).toNat
  let reg (g : Nat) : List Byte :=
    let r := tabGet {} l.regimes g
    leBytes 2 r.st ++ leBytes 2 (b2n r.promoted) ++ leBytes 8 r.elig ++ (List.range n).flatMap fun i =>
      w32 r.mean i ++ w32 r.m2 i ++ w32 r.mu i ++ w32 r.rho i
  let area (a : Area) : List Byte :=
    leBytes 4 a.id ++ leBytes 4 (b2n a.valid) ++ (List.range 16).flatMap fun g => (List.range n).flatMap fun i =>
      leBytes 4 (tabGet one32 a.rv (256 * g + i)).toNat
  let core := leBytes 4 (b2n l.liveY) ++ (List.range 8).flatMap (fun i => leBytes 1 (nth l.levels i 0)) ++ leBytes 4 l.modelId ++
    leBytes 4 l.maxId ++ leBytes 8 l.t ++ leBytes 4 (match s.watch.sinceLevel with | some n => min (2 ^ 32 - 2) n + 1 | none => 0)
  let hist (i : Nat) : List Byte :=
    let h := nth l.hist i []
    padTo 128 (leBytes 4 h.length ++ h.flatMap fun x => leBytes 4 x.toNat)
  let scale (i : Nat) : List Byte :=
    padTo 68 (leBytes 4 (wrapN 32 (tabGet 0 s.watch.sigma i)) ++ (tabGet [] s.watch.amax i).flatMap fun x => leBytes 4 x.toNat)
  let areas (acc : List Byte × State) (e : Nat × Nat × Nat) : List Byte × State :=
    let r := fwRead e.1 e.2.1 e.2.2 acc.2
    (acc.1 ++ r.1, r.2)
  (im.map.take 4).foldl areas
    ((List.range 16).flatMap reg ++ area l.areaX ++ area l.areaY ++ core ++ (List.range 5).flatMap hist ++ (List.range 192).flatMap scale, s)

/-- The 64-byte header (R470; the places of its fields are the model's, log 44). -/
def exportHead (s : State) (im : WImage) (n : Nat) : List Byte :=
  padTo 64 (leBytes 4 0x4B575331 ++ leBytes 4 n ++ (digestBytes im.digest).take 16 ++ leBytes 4 s.tick.frame.toNat)

/-- The whole export, with its tag. -/
def exportBytes (s : State) (im : WImage) : List Byte × State :=
  let (st, s1) := exportState s im
  let b := exportHead s im st.length ++ st
  (b ++ digestBytes (Config.exportMac s.trust.keyHash b), s1)

/-- Length of an export. -/
def exportLen (im : WImage) : Nat := 64 + coreBytes im.nFeat + ((im.map.take 4).map fun e => e.2.2).foldl (· + ·) 0 + 48

/-- What an export's state says was learned. -/
def importLearned (im : WImage) (b : List Byte) : Learned × Option Nat × Tab Int × Tab (List F32) :=
  let n := im.nFeat
  let w (o : Nat) : F32 := BitVec.ofNat 32 (iw b o 4)
  let row (o k : Nat) : Tab F32 := (List.range n).map fun i => (i, w (o + 12 + 16 * i + 4 * k))
  let reg (g : Nat) : Regime :=
    let o := g * regBytes n
    { st := iw b o 2, promoted := iw b (o + 2) 2 == 1, elig := iw b (o + 4) 8
      mean := row o 0, m2 := row o 1, mu := row o 2, rho := row o 3 }
  let area (o : Nat) : Area :=
    { id := iw b o 4, valid := iw b (o + 4) 4 == 1
      rv := (List.range 16).flatMap fun g => (List.range n).map fun i => (256 * g + i, w (o + 8 + 4 * (n * g + i))) }
  let oA := 16 * regBytes n
  let oC := oA + 2 * areaBytes n
  let oH := oC + 32
  let oS := oH + 640
  let l : Learned :=
    { regimes := (List.range 16).map fun g => (g, reg g)
      areaX := area oA
      areaY := area (oA + areaBytes n)
      liveY := iw b oC 4 == 1
      levels := (List.range 5).map fun i => iw b (oC + 4 + i) 1
      modelId := iw b (oC + 12) 4
      maxId := iw b (oC + 16) 4
      t := iw b (oC + 20) 8
      hist := (List.range 5).map fun i => (List.range (iw b (oH + 128 * i) 4)).map fun k => w (oH + 128 * i + 4 + 4 * k) }
  (l, if iw b (oC + 28) 4 = 0 then none else some (iw b (oC + 28) 4 - 1), (List.range 192).map (fun i => (i, signedN 32 (iw b (oS + 68 * i) 4))),
    (List.range 192).map fun i => (i, (List.range 16).map fun k => w (oS + 68 * i + 4 + 4 * k)))

/-- The firmware returns the field-memory areas of an export to their places by DMA (R55, R318). -/
def importAreas (im : WImage) (b : List Byte) (s : State) : State :=
  let go (acc : State × Nat) (e : Nat × Nat × Nat) : State × Nat :=
    (fwWrite e.1 [(e.2.1, (b.drop acc.2).take e.2.2)] acc.1, acc.2 + e.2.2)
  ((im.map.take 4).foldl go (s, coreBytes im.nFeat)).1

/-- A start from an imported state (R318). -/
def startResumed (im : WImage) (file : List Byte) (s : State) : State :=
  let b := file.drop 64
  let (l, since, sg, am) := importLearned im b
  writeScalars (importAreas im b (setWatch (fun w => { watchBlank w with
    run := 1, ctxLeft := im.ctx, learned := l, sinceLevel := since, severity := severityOf l.levels, sigma := sg, amax := am }) s))

/-- The imported state fits the image that is set up. -/
def importFits (im : WImage) (file : List Byte) : Bool := (file.drop 8).take 16 == (digestBytes im.digest).take 16

/-! ## Parameters (Table 11-8) -/

/-- WATCH_PARAMS' fields (R431). -/
def watchParamsOf (c : Cmd) : WParams :=
  let w (hi lo : Nat) (r : F32) : F32 := BitVec.ofNat 32 (fld c hi lo r.toNat)
  let h (hi lo : Nat) (r : F16) : F16 := BitVec.ofNat 16 (fld c hi lo r.toNat)
  let d : WParams := {}
  { lr := w 767 736 d.lr, beta1 := w 735 704 d.beta1, beta2 := w 703 672 d.beta2, eps := w 671 640 d.eps, wdecay := w 639 608 d.wdecay
    learnTicks := fld c 607 576 d.learnTicks, warmTicks := fld c 575 544 d.warmTicks
    theta3 := h 543 528 d.theta3, theta2 := h 527 512 d.theta2, theta1 := h 511 496 d.theta1, gate := h 495 480 d.gate
    ctlAge := fld c 479 464 d.ctlAge, gateHold := fld c 463 448 d.gateHold, evalEvery := fld c 447 432 d.evalEvery
    promoMin := fld c 431 416 d.promoMin, fadeFrames := fld c 415 406 d.fadeFrames, nFrames := fld c 405 401 d.nFrames
    mFrames := fld c 400 396 d.mFrames, promoMargin := fld c 395 388 d.promoMargin, regimeTol := fld c 387 380 d.regimeTol
    vExp := fld c 379 375 d.vExp, minCover := fld c 374 370 d.minCover, scMargin := fld c 369 368 d.scMargin
    batch := fld c 367 356 d.batch, holdLog2 := fld c 355 352 d.holdLog2 }

/-- The checks of WATCH_PARAMS (Table 11-8). -/
def watchParamsOk (p : WParams) : Bool :=
  let lt (a b : F16) : Bool := fpLt (dec16 a) (dec16 b)
  lt p.theta1 p.theta2 && lt p.theta2 p.theta3 && fpLe (dec16 p.gate) (dec16 p.theta1) && decide (1 ≤ p.ctlAge) &&
    decide (1 ≤ p.evalEvery) && decide (1 ≤ p.promoMin) && decide (1 ≤ p.fadeFrames) && decide (1 ≤ p.nFrames) &&
    decide (1 ≤ p.mFrames ∧ p.mFrames ≤ p.nFrames) && decide (8 ≤ p.vExp ∧ p.vExp ≤ 24) && decide (1 ≤ p.minCover ∧ p.minCover ≤ 16) &&
    decide (16 ≤ p.batch ∧ p.batch ≤ 4080) && p.batch % 16 == 0 && decide (2 ≤ p.holdLog2 ∧ p.holdLog2 ≤ 5)

/-! ## Levels and severity (R299 to R301) -/

/-- Level of a score from its frame scores, newest first (R300). -/
def levelOf (p : WParams) (hist : List F32) : Nat :=
  let last := hist.take p.nFrames
  let atLeast (th : F16) : Bool := decide (p.mFrames ≤ (last.filter fun f => fpLe (dec16 th) (dec32 f)).length)
  if atLeast p.theta3 then 3 else if atLeast p.theta2 then 2 else if atLeast p.theta1 then 1 else 0

/-- The levels that a set of parameters gives for the frame just closed: a void score holds its level (R300). -/
def evalLevels (p : WParams) (hist : List (List F32)) (fLast : List F32) (old : List Nat) : List Nat :=
  (List.range 5).map fun i => if f32isNan (nth fLast i nan32) then nth old i 0 else levelOf p (nth hist i [])

/-- New levels, and the severity that they give. -/
def setLevels (levels : List Nat) (s : State) : State :=
  setWatch (fun w => { w with learned := { w.learned with levels := levels }, severity := severityOf levels }) s

/-- The boundary at which a frame closes: a WATCH_PARAMS that waits takes effect, the levels of that frame are evaluated with the parameters
in force from then on, and levels that differ ask for a report (R300, R314, R319). -/
def levelsNow (s : State) : State :=
  let is (a : PendAct) : Bool := match a with | .watchParams _ => true | _ => false
  let p := s.mbx.waits.foldl (fun p w => match w.act with | .watchParams v => v | _ => p) s.watch.params
  let s1 := finish is .ok 0 (setWatch (fun w => { w with params := p }) s)
  match s1.watch.closing with
  | none => s1
  | some old =>
    let new := evalLevels p s1.watch.learned.hist s1.watch.fLast old
    let s2 := setLevels new (setWatch (fun w => { w with closing := none }) s1)
    if (List.range 5).any fun i => nth new i 0 != nth old i 0 then oweEvent .level s.watch.learned.modelId s.watch.sevBefore 0 s2 else s2

/-- LEVEL_EVALUATION: the frame scores are formed and the levels evaluated at the commit point of a frame's last tick (R299, R300). -/
def closeFrame (s : State) : State :=
  let w := s.watch
  let fs := (List.range 5).map fun i =>
    let n := nth w.counts i 0
    if n < min 64 s.tick.frameLen ∨ n = 0 then nan32 else f32div (nth w.sums i 0) (f32ofInt n)
  let hist := (List.range 5).map fun i =>
    let h := nth w.learned.hist i []
    if f32isNan (nth fs i nan32) then h else (nth fs i nan32 :: h).take 31
  let above := (List.range 5).any fun i => nth w.learned.levels i 0 != 0
  let s1 := setWatch (fun v => { v with
    fLast := fs
    learned := { v.learned with hist := hist }
    sinceLevel := if above then some 0 else v.sinceLevel.map (· + 1)
    pSumLast := v.pSum
    pCntLast := v.pCnt
    closing := some v.learned.levels
    sevBefore := v.severity }) s
  setLevels (evalLevels w.params hist fs w.learned.levels) s1

/-! ## A tick at the commit point (R289, R294, R296, R298, R302, R303, R305) -/

/-- The regime of the tick (R289). -/
def regimeNow (s : State) : Option Nat :=
  match s.watch.image with
  | some im => if s.watch.run ≠ 0 ∧ s.watch.ctlRegime < im.nReg then some s.watch.ctlRegime else none
  | none => none

/-- State of the tick's regime, 0 to 3 (Table 11-3). -/
def regimeSt (s : State) : Nat := match regimeNow s with | some g => (regOfWatch s g).st | none => 0

/-- `watch_state` of the record (Table 11-3). -/
def watchStateNow (s : State) : Nat := if s.watch.run = 2 ∧ regimeSt s = 3 then 4 else regimeSt s

/-- A feature is excluded: a mask bit of its channel, or a value that is not finite (R294). -/
def featExcluded (s : State) (i : Nat) (x : F32) : Bool :=
  let m := s.fe.settling ||| s.fe.rangeM ||| s.fe.cmM
  match s.watch.image with
  | some im => m.getLsbD (nth im.feats i {}).channel || !f32finite x
  | none => !f32finite x

/-- Weight of the features of a part (none: the aggregate; some g: group g) that pass a test. -/
def weightOf (im : WImage) (g : Option Nat) (p : Nat → Bool) : Nat :=
  (List.range im.feats.length).foldl (fun a i =>
    let f := nth im.feats i {}
    let inG := match g with | some k => f.groups.getLsbD k | none => true
    if inG && p i then a + f.weight else a) 0

/-- A score's NaN conditions that the commit logic knows: the state, the ticks of R298, too little included weight (R296, R298). -/
def scoreNan (s : State) (g : Option Nat) (ex : List Bool) : Bool :=
  match s.watch.image with
  | none => true
  | some im =>
    let inc := weightOf im g fun i => !nth ex i true
    s.watch.run == 0 || decide (regimeSt s ≤ 1) || decide (s.watch.ctxLeft ≠ 0) || inc == 0 ||
      decide (16 * inc < s.watch.params.minCover * weightOf im g fun _ => true)

/-- The tick is stale in its control state (R289). -/
def ctlStale (s : State) : Bool := !s.watch.ctlOk || decide (s.watch.params.ctlAge < s.watch.ctlAge)

/-- What the commit logic takes over from a committed record for the watch. -/
structure WatchTick where
  late : Bool
  poisoned : Bool
  forced : Bool
  flags : BitVec 16
  feats : List F32
  ps : List F16
  ex : List Bool
  score : F32
  groups : List F32
  resX : List F32
  resY : List F32
  entry : List Byte

/-! ### The passes (R295 to R297) -/

/-- The regime of the tick when its normalisation is fixed, which it is from LEARNING on (R291). -/
def scoredRegime (s : State) : Option Nat := (regimeNow s).filter fun g => decide (2 ≤ (regOfWatch s g).st)

/-- ŷ_i of the pass on area X or, with `y`, on area Y: what the image's network makes of the context ring, the control values and the regime
(R296; a free value, log 47). -/
def predicted (s : State) (im : WImage) (y : Bool) (i : Nat) : F32 :=
  Config.predict s.free y s.watch.ring (s.watch.ctlVals.take im.nCtl) (regimeNow s) i

/-- n_i of a feature (R295); a free value in a regime whose normalisation is not fixed. -/
def normOf (s : State) (feats : List F32) (i : Nat) : F32 :=
  match scoredRegime s with
  | some g => let r := regOfWatch s g; f32mul (f32sub (nth feats i 0) (tabGet 0 r.mu i)) (tabGet 0 r.rho i)
  | none => Config.freeW32 s.free (1024 + i)

/-- The residuals e_i = n_i − ŷ_i of a pass (R296). -/
def residuals (s : State) (y : Bool) (feats : List F32) : List F32 :=
  match s.watch.image with
  | none => []
  | some im => (List.range im.nFeat).map fun i => f32sub (normOf s feats i) (predicted s im y i)

/-- p_i = e_i² / (v_ri + 2^−20) with the residual variances of the pass's own area (R296). -/
def passScore (s : State) (y : Bool) (res : List F32) (i : Nat) : F32 :=
  let a := if y then s.watch.learned.areaY else s.watch.learned.areaX
  let e := nth res i 0
  let v := match scoredRegime s with | some g => tabGet one32 a.rv (256 * g + i) | none => one32
  f32div (f32mul e e) (f32add v 0x35800000)

/-- S or G_g of a pass: Σ w_i × p_i / Σ w_i over the included features of the part, in ascending feature order (R296). -/
def passSum (s : State) (y : Bool) (res : List F32) (g : Option Nat) (ex : List Bool) : F32 :=
  match s.watch.image with
  | none => nan32
  | some im =>
    let part := (List.range im.nFeat).filter fun i =>
      !nth ex i true && (match g with | some k => (nth im.feats i {}).groups.getLsbD k | none => true)
    let w (i : Nat) : F32 := f32ofInt (nth im.feats i {}).weight
    f32div (part.foldl (fun a i => f32add a (f32mul (w i) (passScore s y res i))) 0)
      (f32ofInt (weightOf im g fun i => !nth ex i true))

/-- A value of a fade: ((K − j) × old + j × new) / K, NaN when either is NaN; in frame K the new pass alone (R297). Each operation rounds
(DEDUCED, log 47). -/
def fadeMix (f : MFade) (old new : F32) : F32 :=
  if f.len ≤ f.j then new
  else if f32isNan old || f32isNan new then nan32
  else f32div (f32add (f32mul (f32ofInt (f.len - f.j : Nat)) old) (f32mul (f32ofInt f.j) new)) (f32ofInt f.len)

/-- The value that the record takes of the two passes: that of the live one, or both in a fade (R297). -/
def passValue (s : State) (x y : F32) : F32 :=
  let (old, new) := if s.watch.learned.liveY then (y, x) else (x, y)
  match s.watch.fade with
  | none => old
  | some f => fadeMix f old new

/-- What enters the context ring: n_i in E4M3 under the input scale and nearest even, with ŷ_i of the live model in place of an excluded
feature's (R295). -/
def ringEntry (s : State) (im : WImage) (feats : List F32) (ex : List Bool) : List Byte :=
  (List.range im.nFeat).map fun i =>
    let v := if nth ex i true then predicted s im s.watch.learned.liveY i else normOf s feats i
    BitVec.ofNat 8 (convElem .e4m3 .nearest true 0 (fpScale (Config.inputScale im.digest) (dec32 v))).1

/-! ### Eligibility, samples and the log (R302 to R306) -/

/-- Eligibility (Table 11-5). -/
def tickEligible (s : State) (k : WatchTick) : Bool :=
  !k.late && !k.poisoned && !k.ex.any (fun b => b) && !ctlStale s && (regimeNow s).isSome && !k.forced && !s.seq.stopped.getLsbD 0 &&
    (!f32isNan k.score || decide (regimeSt s ≤ 1)) && s.watch.ctxLeft == 0 && s.watch.impLeft == 0 && s.watch.run == 1

/-- A sample (R303). -/
def tickSample (s : State) (k : WatchTick) (elig : Bool) : Bool :=
  let gate := f16to32 s.watch.params.gate
  elig && (regimeSt s == 2 || (regimeSt s == 3 && f32lt k.score gate && k.groups.all (fun g => f32isNan g || f32lt g gate) &&
    (List.range 5).all (fun i => nth s.watch.learned.levels i 0 == 0) &&
    (match s.watch.sinceLevel with | none => true | some n => decide (s.watch.params.gateHold ≤ n))))

/-- A frame is held back (R306). -/
def heldBack (s : State) : Bool :=
  let m := 2 ^ s.watch.params.holdLog2
  s.tick.frame.toNat % m == m - 1

/-- Sums over the frame: scores of ticks in WATCHING or FROZEN, and p_i (R299, R320). -/
def addSums (s : State) (k : WatchTick) (w : Watch) : Watch :=
  let vals := k.score :: k.groups
  let counted := regimeSt s == 3
  let take (i : Nat) : Bool := counted && !f32isNan (nth vals i nan32)
  let idx := (List.range k.ps.length).filter fun i => !f32isNan (f16to32 (nth k.ps i nan16))
  { w with
    sums := (List.range 5).map fun i => if take i then f32add (nth w.sums i 0) (nth vals i 0) else nth w.sums i 0
    counts := (List.range 5).map fun i => if take i then nth w.counts i 0 + 1 else nth w.counts i 0
    pSum := idx.foldl (fun t i => tabSet t i (f32add (tabGet 0 t i) (f16to32 (nth k.ps i 0)))) w.pSum
    pCnt := idx.foldl (fun t i => tabSet t i (tabGet 0 t i + 1)) w.pCnt }

/-- The bytes of a log row (R305). -/
def logRowBytes (s : State) (im : WImage) (k : WatchTick) (resX resY : List F32) : List Byte :=
  let mask := listMask ((List.range k.ex.length).filter fun i => nth k.ex i false)
  let h (x : F32) : List Byte := leBytes 2 (f32to16 x).toNat
  padTo (rowBytes im) (leBytes 8 s.tick.no.toNat ++ leBytes 2 k.flags.toNat ++ leBytes 2 s.watch.ctlRegime ++ leBytes 32 mask ++
    k.feats.flatMap (fun x => leBytes 4 x.toNat) ++ resX.flatMap h ++ resY.flatMap h ++
    (s.watch.ctlVals.take im.nCtl).flatMap fun x => leBytes 4 x.toNat)

/-- WATCH_LOG_ROW: a committed tick's row enters the log; what it overwrites unread counts in `log_lost` (R305). The statistics read the
residuals as the log holds them, in FP16 (R304). -/
def logRow (im : WImage) (k : WatchTick) (elig sample : Bool) (s : State) : State :=
  let logged (e : F32) : F32 := f16to32 (f32to16 e)
  let cap := logRows s im
  let num := s.watch.rowCount
  let fading := s.watch.fade.isSome
  let row : Row :=
    { tick := s.tick.no, frame := s.tick.frame, regime := regimeNow s, st := regimeSt s, elig := elig, sample := sample
      onX := !s.watch.learned.liveY || fading, onY := s.watch.learned.liveY || fading
      feats := k.feats, resX := k.resX.map logged, resY := k.resY.map logged }
  let s1 := dramWrite (im.logBase + rowBytes im * (num % max 1 cap)) (logRowBytes s im k k.resX k.resY) [] s
  let lost := decide (cap ≤ s.watch.rows.length)
  setWatch (fun w => { w with
    rowCount := num + 1
    rows := (if lost then w.rows.drop 1 else w.rows) ++ [row]
    logLost := if lost && w.logLost != 0xFFFFFFFF then w.logLost + 1 else w.logLost
    samples := (w.samples.filter fun r => decide (num < r + cap)) ++ (if sample && !heldBack s then [num] else [])
    heldRows := (w.heldRows.filter fun e => decide (num < e.1 + cap)) ++
      (match regimeNow s with | some g => if sample && heldBack s then [(num, g)] else [] | none => []) }) s1

/-- What the commit of a record does for a running watch. -/
def watchCommit (k : WatchTick) (s : State) : State :=
  match s.watch.image with
  | none => s
  | some im =>
    if s.watch.run = 0 then s
    else
      let elig := tickEligible s k
      let sample := tickSample s k elig
      let s1 := logRow im k elig sample (setWatch (addSums s k) s)
      let s2 := setWatch (fun w => { w with
        nFallback := if k.flags.getLsbD 5 then min 65535 (w.nFallback + 1) else w.nFallback
        nLate := if k.late then min 65535 (w.nLate + 1) else w.nLate
        nElig := if elig then min 65535 (w.nElig + 1) else w.nElig
        ring := (k.entry :: w.ring).take im.ctx
        ctxLeft := if k.late then im.ctx else w.ctxLeft - 1
        impLeft := if k.ex.any (fun b => b) then im.ctx else w.impLeft - 1 }) s1
      if s.tick.inFrame + 1 = s.tick.frameLen then closeFrame s2 else s2

/-- A tick edge: the age of the control block rises, and a tick without a record starts the ticks of R298, with values in the context that no
complete tick produced (R289, R298). -/
def watchEdge (s : State) : State :=
  if s.watch.run = 0 then setWatch (fun w => { w with ctlAge := w.ctlAge + 1, ctlOk := false }) s
  else
    let (ctx, n) := match s.watch.image with | some im => (im.ctx, im.nFeat) | none => (0, 0)
    let open_ : List Byte := (List.range n).map fun i => Config.freeByte s.free (2048 + i)
    (if s.tick.committed then id else draw) (setWatch (fun w => { w with
      ctlAge := w.ctlAge + 1
      ctlOk := false
      ring := if s.tick.committed then w.ring else (open_ :: w.ring).take ctx
      ctxLeft := if s.tick.committed then w.ctxLeft else ctx }) s)

/-! ## The statistics job (R290, R292, R295, R304) -/

/-- One step of the Welford recurrence for feature i (R295). -/
def welford (n : Nat) (feats : List F32) (r : Regime) (i : Nat) : Regime :=
  let x := nth feats i 0
  let m := tabGet 0 r.mean i
  let d := f32sub x m
  let m' := f32add m (f32div d (f32ofInt n))
  { r with mean := tabSet r.mean i m', m2 := tabSet r.m2 i (f32add (tabGet 0 r.m2 i) (f32mul d (f32sub x m'))) }

/-- A regime counts an eligible tick in the state that it is in (R290, Table 11-3). -/
def countTick (p : WParams) (w : Row) (r : Regime) : Regime :=
  let met (b : Bool) (x : Regime) : Regime := if b && x.met.isNone then { x with met := some w.frame } else x
  if !w.elig || w.st != r.st then r
  else match r.st with
  | 0 => met true r
  | 1 =>
    let x := (List.range w.feats.length).foldl (welford (r.elig + 1) w.feats) { r with elig := r.elig + 1 }
    met (decide (p.warmTicks ≤ x.elig)) x
  | 2 =>
    let x := { r with elig := r.elig + 1 }
    met (decide (p.learnTicks ≤ x.elig) && x.promoted) x
  | _ => { r with elig := r.elig + 1 }

/-- The residual variances of an area after a sample (R304). -/
def varUpdate (vExp g : Nat) (res : List F32) (a : Area) : Area :=
  { a with rv := (List.range res.length).foldl (fun t i =>
      let v := tabGet one32 t (256 * g + i)
      let e := nth res i 0
      tabSet t (256 * g + i) (f32add v (enc32 (fpScale (-(vExp : Int)) (dec32 (f32sub (f32mul e e) v)))))) a.rv }

/-- A row is processed. -/
def statRow (s : State) (r : Row) : State :=
  match r.regime with
  | none => s
  | some g =>
    let p := s.watch.params
    let s1 := setReg g (countTick p r) s
    if r.sample then
      setLearned (fun l => { l with
        areaX := if r.onX then varUpdate p.vExp g r.resX l.areaX else l.areaX
        areaY := if r.onY then varUpdate p.vExp g r.resY l.areaY else l.areaY }) s1
    else s1

/-- A step of the statistics job processes the rows of closed frames, in tick order, and writes the variances of their regimes into the model
areas; none are processed in tier minimal (R286, R290, R292, R304, Table 11-6; log 47). -/
def statistics (s : State) : State :=
  if s.watch.run ≠ 1 ∨ 2 ≤ s.seq.tierRun then s
  else
    let old := s.watch.rows.takeWhile fun r => r.frame != s.tick.frame
    let regs := ((old.filter fun r => r.sample).filterMap fun r => r.regime).eraseDups
    regs.foldl (fun t g => writeVars g t) (old.foldl statRow (setWatch (fun w => { w with rows := w.rows.drop old.length }) s))

/-- STEP: the job's current step is issued in its window (R206); one of the statistics job processes its rows (R290). -/
def stepRun (w at_ : Nat) (s : State) : State :=
  let s1 := stepIssue w at_ s
  match runSched s, s.seq.active, s.watch.image with
  | some k, some l, some im =>
    match k.wins[w]? with
    | none => s1
    | some win =>
      if !(jobOf s win.job).busy && (jobOf s1 win.job).busy && (nth l.jobs win.job {}).jclass == im.jcStat then statistics s1 else s1
  | _, _, _ => s1

def execStep (window at_ : Nat) (s : State) : Result := .next (stepRun window at_ s)

/-! ## Transitions (R290, R291, Table 11-3) -/

/-- The normalisation of a regime at the end of WARMING (R295): VRCP's result is a free value within its bound. -/
def normalise (s : State) (im : WImage) (r : Regime) : Regime :=
  let rho (i : Nat) : F32 :=
    let sd := f32sqrt (f32div (tabGet 0 r.m2 i) (f32ofInt r.elig))
    divK 1 fpOne (dec32 (f32max sd (f16to32 (nth im.feats i {}).sMin))) (Config.freeW32 s.free i)
  { r with
    mu := r.mean
    rho := (List.range im.nFeat).map fun i => (i, rho i) }

/-- Every residual variance of a regime is 1.0, or is cleared (R291). -/
def regimeVars (g : Nat) (one : Bool) (im : WImage) (a : Area) : Area :=
  { a with rv := (List.range im.nFeat).foldl (fun t i => tabSet t (256 * g + i) (if one then one32 else 0)) a.rv }

/-- WATCH_TRANSITION: a condition met in frame k is applied at the boundary of frame k + 2, or `delay` frames later, which is logged
(R290, R291). -/
def watchTransition (g delay : Nat) (s : State) : State :=
  match s.watch.image with
  | none => s
  | some im =>
    let r := regOfWatch s g
    match r.met with
    | none => s
    | some k =>
      if s.watch.run ≠ 1 ∨ s.tick.inFrame ≠ 0 ∨ computeDown s ∨ s.tick.frame ≠ k + 2 + BitVec.ofNat 32 delay then s
      else
        let go (x : Regime) : Regime :=
          { (if x.st = 1 then normalise s im x else x) with st := x.st + 1, elig := 0, met := none, promoted := false }
        let s1 := setReg g go s
        let s2 := if r.st = 1 then
            writeVars g (writeNorm g (setLearned (fun l => { l with
              areaX := regimeVars g true im l.areaX, areaY := regimeVars g true im l.areaY }) (draw s1)))
          else s1
        let s3 := writeScalars s2
        let s4 := if delay = 0 then s3 else logEvent 0x0070 0 g delay s3
        oweEvent .regimeState s.watch.learned.modelId s.watch.severity (1#16 <<< g) s4

def execWatchTransition (regime : Nat) (delay : Nat) (s : State) : Result := .next (watchTransition regime delay s)

/-! ## Training and evaluation (R306 to R311) -/

/-- TRAINING_TRIGGER: the firmware starts a run of a job of the training class (R307). -/
def trainingTrigger (job : Nat) (s : State) : State := trainStart job s

def execTrainingTrigger (job : Nat) (s : State) : Result := .next (trainingTrigger job s)

/-- EVALUATION_TRIGGER: every `eval_every` steps, once at each such t, the firmware starts a run of a job of the evaluation class (R310). -/
def evaluationTrigger (job : Nat) (s : State) : State :=
  let t := s.watch.learned.t
  if t = 0 ∨ t % s.watch.params.evalEvery ≠ 0 ∨ t = s.watch.evalT then s else evalStart job s

def execEvaluationTrigger (job : Nat) (s : State) : Result := .next (evaluationTrigger job s)

/-! ## Promotion, fades, rollback (R297, R312, R313) -/

/-- The residual variances of a newly promoted model: the snapshot's mean e_i² over a regime's held-back samples, as its evaluation found it,
when there are at least 1,000, and otherwise those of the live area (R312). -/
def promotedVars (s : State) (im : WImage) : Tab F32 :=
  (List.range im.nReg).flatMap fun g => (List.range im.nFeat).map fun i =>
    (256 * g + i, if s.watch.evalBig.getLsbD g then tabGet 0 s.watch.evalVars (256 * g + i)
      else tabGet one32 (liveArea s.watch.learned).rv (256 * g + i))

/-- PROMOTION: the previous model is marked invalid and the snapshot copied into the area that is not live, with its residual variances, once
the snapshot itself is written; a boundary's own work goes first (R312, R314). -/
def promotion (s : State) : State :=
  match s.watch.image with
  | none => s
  | some im =>
    if s.watch.run ≠ 1 ∨ !s.watch.promote ∨ s.watch.fade.isSome ∨ snapRuns s im ∨ s.tick.atBoundary then s
    else
      let s1 := setWatch (fun w => { w with
        promote := false
        copied := true
        learned := setOther (fun a => { a with valid := false, rv := promotedVars s im }) w.learned }) s
      (List.range im.nReg).foldl (fun t g => writeVars g t) (copySnapshot im s1)

def execPromotion (s : State) : Result := .next (promotion s)

/-- The copy's last write has been made (R312). -/
def copyDone (s : State) : Bool := match s.watch.image with | none => false | some im => !copyUnderWay s im

/-- A promotion's fade starts with j = 1 at the first frame boundary after the copy's last signal, with K = `fade_frames` (R312). -/
def fadeStart (s : State) : State :=
  if s.watch.run = 0 ∨ !s.watch.copied ∨ !copyDone s ∨ s.watch.fade.isSome then s
  else oweReport .fadeStart (writeScalars (setWatch (fun w => { w with
    copied := false
    fade := some { j := 1, len := w.params.fadeFrames, rollback := false, reseed := false, start := s.tick.frame } }) s))

/-- A watch command waits for this boundary, where it goes before what the firmware has decided (Table 11-6). -/
def watchWaits (s : State) : Bool :=
  s.tick.atBoundary && s.mbx.waits.any fun w => match w.act with
    | .watchStop | .watchFreeze | .watchThaw | .watchRollback _ => true
    | _ => false

/-- WATCH_FADE_START: at a frame boundary that FRAME_BOUNDARY has not yet dealt with; a copy that ends later waits for the next one (R312). -/
def watchFadeStart (s : State) : State := if !s.tick.atBoundary ∨ watchWaits s then s else fadeStart s

def execWatchFadeStart (s : State) : Result := .next (watchFadeStart s)

/-- The number that a newly promoted model takes: the highest ever assigned plus one (R312). -/
def nextModel (l : Learned) : Nat := l.maxId + 1

/-- A promotion has completed its fade: a regime in LEARNING notes it (Table 11-3). -/
def notePromotion (p : WParams) (frame : W32) (l : Learned) : Learned :=
  let one (r : Regime) : Regime :=
    if r.st = 2 then { r with promoted := true, met := if p.learnTicks ≤ r.elig ∧ r.met.isNone then some frame else r.met } else r
  { l with regimes := l.regimes.map fun e => (e.1, one e.2) }

/-- The two areas change roles; the one that was live holds the previous model. -/
def swapAreas (l : Learned) : Learned :=
  let m := setLive (fun a => { a with id := l.modelId, valid := true }) l
  { m with liveY := !l.liveY, modelId := (otherArea l).id }

/-- A fade ends at the boundary after its K-th frame: the new model is live (R297, R312, R313). -/
def fadeEnd (s : State) : State :=
  match s.watch.fade with
  | none => s
  | some f =>
    if (s.tick.frame - f.start).toNat < f.len then s
    else
      let upd (w : Watch) : Watch :=
        let l := w.learned
        let n := nextModel l
        if f.rollback then { w with fade := none, learned := swapAreas l }
        else { w with
          fade := none
          learned := notePromotion w.params s.tick.frame
            { swapAreas (setOther (fun a => { a with id := n, valid := true }) l) with maxId := n } }
      let s1 := writeScalars (setWatch upd s)
      oweEvent .fadeEnd s.watch.learned.modelId s.watch.severity 0 (if f.reseed then reseedCandidate s1 else s1)

/-- WATCH_FADE_END: in the first tick of a frame, when FRAME_BOUNDARY has not already ended the fade. -/
def watchFadeEnd (s : State) : State := if s.tick.inFrame ≠ 0 ∨ watchWaits s then s else fadeEnd s

def execWatchFadeEnd (s : State) : Result := .next (watchFadeEnd s)

/-- A rollback can be made (R313). -/
def canRollBack (s : State) : Bool := s.watch.fade.isSome || (otherArea s.watch.learned).valid

/-- WATCH_ROLLBACK takes effect: a fade ends with the old model live, or a fade toward the previous model starts; a pending promotion is
dropped (R313, R314). -/
def rollBack (reseed : Bool) (s : State) : State :=
  let s0 := setWatch (fun w => { w with promote := false, copied := false }) s
  match s.watch.fade with
  | some f =>
    let upd (w : Watch) : Watch :=
      let n := nextModel w.learned
      if f.rollback then { w with fade := none }
      else { w with fade := none, learned := { setOther (fun a => { a with id := n, valid := true }) w.learned with maxId := n } }
    let s1 := writeScalars (setWatch upd s0)
    oweReport .fadeEnd (oweReport .rollback (if reseed then reseedCandidate s1 else s1))
  | none =>
    let f : MFade := { j := 1, len := s.watch.params.fadeFrames, rollback := true, reseed := reseed, start := s.tick.frame }
    oweReport .fadeStart (oweReport .rollback (writeScalars (setWatch (fun w => { w with fade := some f }) s0)))

/-! ## Reports (R319, R320, Tables 11-9 and 11-10) -/

/-- The frame summary of the frame that has just closed (Table 11-9). -/
def summaryBody (s : State) : List Byte :=
  let w := s.watch
  leBytes 64 (pack (fScoreBits s 160 ++ [(0, 64, (s.tick.no - BitVec.ofNat 64 s.tick.frameLen).toNat), (64, 32, (s.tick.frame - 1).toNat),
    (112, 8, s.links.ident.chipId), (120, 8, w.severity.toNat), (320, 16, nth w.counts 0 0), (336, 16, w.nElig), (352, 16, w.nLate),
    (368, 16, w.nFallback), (384, 32, w.learned.modelId), (416, 32, w.learned.t), (448, 64, regimeStates s)]))

/-- CONDITION_REPORT: the report of the oldest event of a cause that asks for one is handed over for signing, ahead of the summaries (R319, R469). -/
def conditionReport (k : CondCause) (s : State) : State :=
  if computeDown s then s
  else match s.watch.conds.find? fun e => e.cause == k with
  | none => s
  | some v =>
    let e : Envelope := { cond := true, cfg := s.trust.cfgTick, body := v.body }
    setWatch (fun w => { w with
      conds := w.conds.erase v
      envQ := (w.envQ.takeWhile fun x => x.cond) ++ e :: w.envQ.dropWhile fun x => x.cond }) s

def execConditionReport (cause : CondCause) (s : State) : Result := .next (conditionReport cause s)

/-- FRAME_SUMMARY: the summary of a frame in which the watch ran is handed over for signing; one that finds 32 envelopes waiting is dropped
and counted (R319, R469). The frame's counts start again. -/
def frameSummary (s : State) : State :=
  let clear (w : Watch) : Watch :=
    { w with sums := [0, 0, 0, 0, 0], counts := [0, 0, 0, 0, 0], pSum := [], pCnt := [], nFallback := 0, nLate := 0, nElig := 0 }
  if s.watch.run = 0 then s
  else if 32 ≤ s.watch.envQ.length then setWatch clear (bump cSignDrop s)
  else
    let e : Envelope := { cond := false, cfg := s.trust.cfgTick, body := summaryBody s }
    setWatch (fun w => clear { w with envQ := w.envQ ++ [e] }) s

/-- The header of an envelope (Table 17-6); `cfg_digest` is that of the tick in the body (R468). -/
def envelopeHead (s : State) (e : Envelope) : List Byte :=
  leBytes 40 (pack [(0, 32, 0x4B535231), (32, 16, 0x0100), (48, 8, if e.cond then 1 else 2), (64, 16, e.body.length),
    (80, 8, s.links.ident.chipId), (128, 64, s.watch.rseq.toNat), (192, 64, s.tick.no.toNat), (256, 64, spreadVal s 3)]) ++
    digestBytes e.cfg ++ aliasId s

/-- ENVELOPE_SIGNED: the trust block has signed the first envelope, which is posted to the report ring and to the field bus
(R409, R413, R466 to R469). -/
def envelopeSigned (s : State) : State :=
  match s.watch.envQ with
  | [] => s
  | e :: rest =>
    let b := envelopeHead s e ++ e.body
    let sig := aliasSign s b
    let bytes := b ++ beBytes 96 sig.toNat
    let s1 := draw (setWatch (fun w => { w with envQ := rest, rseq := w.rseq + 1 }) s)
    fbRoute (if e.cond then 1 else 2) bytes (postReport bytes s1)

def execEnvelopeSigned (s : State) : Result := .next (if computeDown s then s else envelopeSigned s)

/-! ## Commands (Table 11-7) -/

/-- WATCH_START (R316, R318). -/
def bodyWatchStart (c : Cmd) (s : State) : State :=
  let resume := fldB c 0 false
  if s.watch.run ≠ 0 ∨ waiting s (fun a => match a with | .watchStart _ => true | _ => false) then fail 0x0402 c .busy s
  else match s.watch.image with
  | none => fail 0x0402 c .notReady s
  | some im =>
    if resume ∧ !(match s.watch.imported with | some b => importFits im b | none => false) then fail 0x0402 c .notReady s
    else waitFor 0x0402 c (.watchStart resume) s

def bodyWatchStop (c : Cmd) (s : State) : State :=
  if s.watch.run = 0 then fail 0x0403 c .notReady s else waitFor 0x0403 c .watchStop s

def bodyWatchFreeze (c : Cmd) (s : State) : State :=
  if s.watch.run = 0 then fail 0x0404 c .notReady s else waitFor 0x0404 c .watchFreeze s

def bodyWatchThaw (c : Cmd) (s : State) : State :=
  if s.watch.run ≠ 2 then fail 0x0405 c .notReady s else waitFor 0x0405 c .watchThaw s

def bodyWatchParams (c : Cmd) (s : State) : State :=
  let p := watchParamsOf c
  if !watchParamsOk p then fail 0x0406 c .badParam s
  else if waiting s (fun a => match a with | .watchParams _ => true | _ => false) then fail 0x0406 c .busy s
  else waitFor 0x0406 c (.watchParams p) s

def bodyWatchRelearn (c : Cmd) (s : State) : State :=
  if s.watch.run = 0 then fail 0x0407 c .notReady s
  else if s.watch.run = 2 then fail 0x0407 c .refused s
  else waitFor 0x0407 c (.watchRelearn (BitVec.ofNat 16 (fld c 15 0 0))) s

def bodyWatchRollback (c : Cmd) (s : State) : State :=
  if !canRollBack s then fail 0x0408 c .refused s else waitFor 0x0408 c (.watchRollback (fldB c 0 false)) s

/-- The WATCH_STATUS block (Table 20-10). -/
def watchStatusBits (s : State) : Nat :=
  let w := s.watch
  let l := w.learned
  let st (g : Nat) : Nat := if w.run = 2 ∧ (regOfWatch s g).st = 3 then 4 else (regOfWatch s g).st
  let (j, k) := match w.fade with | some f => (f.j, f.len) | none => (0, 0)
  pack ((List.range 16).map (fun g => (8 * g, 8, st g)) ++ (List.range 16).map (fun g => (128 + 64 * g, 64, (regOfWatch s g).elig)) ++
    (List.range 5).map (fun i => (1440 + 8 * i, 8, nth l.levels i 0)) ++
    [(1152, 32, l.modelId), (1184, 32, (otherArea l).id), (1216, 1, b2n (otherArea l).valid), (1224, 8, w.run), (1248, 16, j), (1264, 16, k),
     (1280, 64, l.t), (1344, 32, w.lCand.toNat), (1376, 32, w.lLive.toNat), (1408, 32, w.evalN), (1504, 32, w.ctlTorn.toNat),
     (1536, 32, w.logLost.toNat), (1568, 32, w.skipElem.toNat), (1600, 64, match w.image with | some im => im.ctlAddr | none => 0)])

/-- WATCH_STATUS writes 512 bytes to host memory (R317, R528). No rule says which address fails with BAD_PARAM; none does here (log 48). -/
def bodyWatchStatus (c : Cmd) (s : State) : State :=
  completeOk 0x0409 c 0 (hostWrite (fld c 63 0 0) (leBytes 512 (watchStatusBits s)) s)

/-- WATCH_EXPORT: the state is taken at the next frame boundary (R318). -/
def bodyWatchExport (c : Cmd) (s : State) : State :=
  match s.watch.image with
  | none => fail 0x040A c .notReady s
  | some im =>
    if s.watch.run = 0 then fail 0x040A c .notReady s
    else if fld c 63 32 0 < exportLen im then fail 0x040A c .badLength s
    else waitFor 0x040A c (.watchExport (BitVec.ofNat 64 (fld c 127 64 0))) s

/-- WATCH_IMPORT (R318, R470). -/
def bodyWatchImport (c : Cmd) (s : State) : State :=
  if s.watch.run ≠ 0 then fail 0x040B c .busy s
  else
    let n := fld c 63 32 0
    let b := hostRead s (fld c 127 64 0) n
    let m := b.take (n - 48)
    if n < 112 ∨ b.drop (n - 48) ≠ digestBytes (Config.exportMac s.trust.keyHash m) then fail 0x040B c .signatureFail s
    else match s.watch.image, s.seq.active with
    | some im, some l =>
      if !importFits im m || !listFits im l.movelistId then fail 0x040B c .imageReject s
      else completeOk 0x040B c 0 (setWatch (fun w => { w with imported := some m }) s)
    | _, _ => fail 0x040B c .imageReject s

/-- WATCH_REPORT_RING (R319). -/
def bodyWatchReportRing (c : Cmd) (s : State) : State :=
  let r := ringOf c
  if !ringOk 9 11 r then fail 0x040C c .badParam s
  else completeOk 0x040C c 0 (ringStart r { s with rring := r })

def execWatchSetup (c : Cmd) (s : State) : Result := .next (deliver 0x0401 bodyWatchSetup c s)
def execWatchStart (c : Cmd) (s : State) : Result := .next (deliver 0x0402 bodyWatchStart c s)
def execWatchStop (c : Cmd) (s : State) : Result := .next (deliver 0x0403 bodyWatchStop c s)
def execWatchFreeze (c : Cmd) (s : State) : Result := .next (deliver 0x0404 bodyWatchFreeze c s)
def execWatchThaw (c : Cmd) (s : State) : Result := .next (deliver 0x0405 bodyWatchThaw c s)
def execWatchParams (c : Cmd) (s : State) : Result := .next (deliver 0x0406 bodyWatchParams c s)
def execWatchRelearn (c : Cmd) (s : State) : Result := .next (deliver 0x0407 bodyWatchRelearn c s)
def execWatchRollback (c : Cmd) (s : State) : Result := .next (deliver 0x0408 bodyWatchRollback c s)
def execWatchStatus (c : Cmd) (s : State) : Result := .next (deliver 0x0409 bodyWatchStatus c s)
def execWatchExport (c : Cmd) (s : State) : Result := .next (deliver 0x040A bodyWatchExport c s)
def execWatchImport (c : Cmd) (s : State) : Result := .next (deliver 0x040B bodyWatchImport c s)
def execWatchReportRing (c : Cmd) (s : State) : Result := .next (deliver 0x040C bodyWatchReportRing c s)

/-! ## Taking effect at a frame boundary (R291, R292, R313, R314, R316, R318) -/

/-- The named regimes return to BLANK (R291). -/
def relearn (mask : BitVec 16) (s : State) : State :=
  match s.watch.image with
  | none => s
  | some im =>
    let s1 := (maskList 16 mask.toNat).foldl (fun t g => setLearned (fun l => { l with
      areaX := regimeVars g false im l.areaX, areaY := regimeVars g false im l.areaY }) (setReg g (fun _ => {}) t)) s
    let s2 := (maskList 16 mask.toNat).foldl (fun t g => writeVars g (writeNorm g t)) s1
    let changed := (maskList 16 mask.toNat).filter fun g => (regOfWatch s g).st != 0
    let s3 := writeScalars s2
    if changed.isEmpty then s3
    else oweEvent .regimeState s.watch.learned.modelId s.watch.severity (BitVec.ofNat 16 (listMask changed)) s3

/-- What a waiting watch command does at the boundary: its status and data, none when it is not one. WATCH_PARAMS has taken effect before,
in `levelsNow` (Table 11-6). -/
def watchAct (a : PendAct) (s : State) : Option (Status × Nat × State) :=
  match a with
  | .watchStart resume =>
    some (match s.watch.image with
      | none => (.notReady, 0, s)
      | some im =>
        match resume, s.watch.imported with
        | true, some b => (.ok, s.tick.frame.toNat, startResumed im b s)
        | _, _ => (.ok, s.tick.frame.toNat, startFresh im s))
  | .watchStop => some (.ok, 0, watchStop s)
  | .watchFreeze =>
    some (.ok, 0, if s.watch.run = 1 then oweReport .freezeThaw (writeScalars (setWatch (fun w => { w with run := 2, promote := false }) s)) else s)
  | .watchThaw => some (.ok, 0, if s.watch.run = 2 then oweReport .freezeThaw (writeScalars (setWatch (fun w => { w with run := 1 }) s)) else s)
  | .watchRelearn m => some (.ok, 0, if s.watch.run = 0 then s else relearn m s)
  | .watchRollback r => some (if s.watch.run ≠ 0 ∧ canRollBack s then (.ok, 0, rollBack r s) else (.refused, 0, s))
  | .watchExport a =>
    some (match s.watch.image with
      | some im => if s.watch.run = 0 then (.notReady, 0, s) else (let (b, s1) := exportBytes s im; (.ok, 0, hostWrite a.toNat b s1))
      | none => (.notReady, 0, s))
  | _ => none

/-- A running fade enters its next frame (R297). -/
def fadeNext (s : State) : State :=
  if s.watch.fade.isNone then s
  else writeScalars (setWatch (fun w => { w with fade := w.fade.map fun f => { f with j := (s.tick.frame - f.start).toNat + 1 } }) s)

/-- The waiting watch commands take effect in the order in which they arrived, and complete; then a fade ends or starts that is due (R297,
R312, Table 11-6). -/
def watchBoundary (s : State) : State :=
  fadeStart (fadeEnd (s.mbx.waits.foldl (fun t w =>
    match watchAct w.act t with
    | none => t
    | some (st, d, u) => complete w.opcode w.cmd st 0 d 0 (setMbx (fun m => { m with waits := m.waits.erase w }) u)) s))

/-- A field that holds a watch-map area is fenced (Table 11-6). -/
def watchFieldFenced (s : State) : Bool :=
  match s.watch.image with
  | some im => im.map.any fun (f, _, _) => fenced s.seq.fence (256 + f)
  | none => false

end Sys2Proof.Machine
end

