-- ==== Sys2Proof/Machine/Commit.lean ====
section
/-! DEFINITION. The commit point (chapter 01): lateness, the tick record with its flags and payload, the held correction, the posting of
the record, and the record state that passes to the front-end die. -/

namespace Sys2Proof.Machine

/-! ## Lateness (R25, R203) -/

/-- Offset of the commit point in a tick (R18). -/
def commitAt (s : State) : Nat := s.tick.period - s.tick.commitOff

/-- A tick-critical move is outstanding: issued and not complete, or part of this tick and not issued although nothing forbids it (R25,
R53, R202). -/
def tcOutstanding (s : State) (l : MList) : Bool :=
  (s.seq.flying.any fun m => m.mv.cls == .tickCritical) ||
    (match runSched s with
     | none => false
     | some k => (unissued s l k).any fun w => w.1.cls == .tickCritical)

/-- The hand-over of the record build area's banks to DMA port 0 at tick end − S is held back over the commit point by a late tick-critical or
service move; a frame or gap move makes no tick late (R23, R26, R203). -/
def buildHeld (s : State) (l : MList) : Bool :=
  let n := recordLen l.nFeat l.nCorr - 64
  let banks := (List.range ((n + 7) / 8)).map fun i => 32 * l.recField + bankOf (l.recAddr + 8 * i)
  let uses := (lateUses s (commitAt s)).filter fun u => u.cls != .frame && u.cls != .gap
  match runSched s with
  | none => false
  | some k => banks.any fun b => ownerAt k uses (commitAt s) b != ownerAt k [] (commitAt s) b

/-! ## The payload (R31, R34, R203, R298) -/

/-- Bytes of the record build area at an offset, as a number, and their poison (R203). -/
def buildWord (s : State) (l : MList) (off n : Nat) : Nat × BitVec 8 :=
  (leNat (fmBytes s l.recField (l.recAddr + off) n), fmPoisonOf s l.recField (l.recAddr + off) n)

/-- How the payload of a tick is read: all NaN without a schedule or with class 0 stopped (R215), and under a held-back hand-over (R203);
in a LATE tick a value is complete unless an outstanding move writes it (R25). `left`: ranges of the build area that outstanding moves write,
by their first byte and length; `blur`: data decide where one of them writes. -/
structure PayRead where
  none_ : Bool
  held : Bool
  late : Bool
  left : List (Nat × Nat)
  blur : Bool
  free : Nat

/-- The `n` bytes of the payload from `off` on are complete at the commit point and read from the build area (R25, R203). Where data decide what
an outstanding set move writes (R268), that is a free choice (log 51). -/
def PayRead.takes (p : PayRead) (off n : Nat) : Bool :=
  !p.none_ && !p.held && (!p.late || (!p.left.any (fun r => decide (r.1 < off + n ∧ off < r.1 + r.2)) && (!p.blur || Config.freeBool p.free off)))

/-- Moves of this tick that are outstanding at the commit point. -/
def outstanding (s : State) (l : MList) : List Move :=
  s.seq.flying.map (fun m => m.mv) ++ (match runSched s with | none => [] | some k => (unissued s l k).map Prod.fst)

/-- Ranges of the build area that outstanding moves write (R25). -/
def leftWrites (s : State) (l : MList) : List (Nat × Nat) :=
  (outstanding s l).flatMap fun m => (touches l m).filterMap fun t =>
    if t.write && t.field == l.recField && decide (l.recAddr < t.addr + t.len) then
      some (t.addr - l.recAddr, t.addr + t.len - max l.recAddr t.addr) else none

/-- An outstanding set move writes rows of a table that a runtime descriptor in this field names (R268). -/
def blurred (s : State) (l : MList) : Bool :=
  (outstanding s l).any fun m => decide (m.target = 0x520 + l.recField) && (match moveOp l m with
    | .set o => o.desc && [0x82, 0x83, 0x84, 0x8D, 0x8E, 0x90, 0x91].contains m.opcode
    | _ => false)

/-- A FP32 payload element, NaN where it is poisoned or not complete. -/
def payF32 (s : State) (l : MList) (p : PayRead) (off : Nat) : F32 :=
  let (v, q) := buildWord s l off 4
  if p.takes off 4 && q == 0 then BitVec.ofNat 32 v else nan32

/-- The features. -/
def payFeats (s : State) (l : MList) (p : PayRead) : List F32 := (List.range l.nFeat).map fun i => payF32 s l p (4 * i)

/-- A per-feature score as it is written: p_i of the live pass, or of both in a fade, in FP16 under nearest even with `sat` = 1 (R296, R297).
The moves that write the build area compute it (DEDUCED, log 47). -/
def scoreWord (s : State) (resX resY : List F32) (i : Nat) : F16 :=
  BitVec.ofNat 16 (convElem .fp16 .nearest true 0 (dec32 (passValue s (passScore s false resX i) (passScore s true resY i)))).1

/-- The per-feature scores: NaN where the area's entry is not complete or poisoned, for an excluded feature, in BLANK and WARMING, and in the
ticks of R298 (R25, R31, R298, Table 11-3). -/
def payScores (s : State) (l : MList) (p : PayRead) (ex : List Bool) (resX resY : List F32) : List F16 :=
  (List.range l.nFeat).map fun i =>
    let off := 4 * l.nFeat + 2 * i
    if p.takes off 2 && (buildWord s l off 2).2 == 0 && !nth ex i true && decide (2 ≤ regimeSt s) && s.watch.ctxLeft == 0 then
      scoreWord s resX resY i
    else nan16

/-- Offset of the correction entries in the payload. -/
def corrOff (l : MList) : Nat := 4 * l.nFeat + roundUp (2 * l.nFeat) 4

/-- Poison of the correction entries, and of the whole payload. -/
def corrPoisonOf (s : State) (l : MList) : BitVec 8 := (buildWord s l (corrOff l) (4 * l.nCorr)).2
def payPoison (s : State) (l : MList) : BitVec 8 := (buildWord s l 0 (recordLen l.nFeat l.nCorr - 64)).2

/-- A fresh correction entry: what the area holds, which outside a fade the live pass wrote, and in a fade the combination of the two passes
(R203, R297; log 47). -/
def corrWord (s : State) (l : MList) (j : Nat) : F32 :=
  if s.watch.fade.isSome then passValue s (Config.passCorr s.free false j) (Config.passCorr s.free true j)
  else BitVec.ofNat 32 (buildWord s l (corrOff l + 4 * j) 4).1

/-- The correction of the record, with the last fresh one and the ticks held (R35). Without a placement the entries are NaN and nothing is
held (R215; log 51); where the hand-over of the build area is held back they are NaN, and the last fresh correction is held one tick more
(R203; log 51). -/
def correction (s : State) (l : MList) (p : PayRead) : List F32 × List F32 × Nat :=
  let fresh := !p.late && corrPoisonOf s l == 0
  if p.none_ then (List.replicate l.nCorr nan32, s.tick.corr, s.tick.corrAge)
  else if p.held then (List.replicate l.nCorr nan32, s.tick.corr, min 255 (s.tick.corrAge + 1))
  else if fresh then
    let c := (List.range l.nCorr).map fun j => corrWord s l j
    (c, c, 0)
  else
    let age := min 255 (s.tick.corrAge + 1)
    ((List.range l.nCorr).map fun j => if s.tick.holdLimit < age then 0 else nth s.tick.corr j 0, s.tick.corr, age)

/-! ## The header (R28 to R33) -/

/-- `degraded_why` (R33). -/
def degradedWhy (s : State) : BitVec 8 :=
  let alt := decide (placementNow s ≠ 0 ∧ placementNow s ≠ 31)
  let linkOut := !s.links.downMap.isEmpty || (List.range 4).any fun l => s.links.ident.linkEn.getLsbD l && (linkOf s l).phase != .up
  BitVec.ofNat 8 (listMask ((List.range 5).filter fun b => match b with
    | 0 => alt
    | 1 => decide (1 ≤ s.seq.tierRun)
    | 2 => linkOut
    | 3 => s.tick.holdover || s.tick.realign
    | _ => decide (2 ≤ s.seq.stopped.toNat)))

/-- `tc_margin` (Table 01-4). -/
def tcMargin (s : State) (late : Bool) : Int :=
  if late then -32768
  else match s.tick.tcLast with
  | none => min 32767 (commitAt s : Int)
  | some t => min 32767 ((commitAt s : Int) - t)

/-- `t0_time` in ns: gPTP time with source 3 or 4, otherwise the device time base, counted from the front-end power-on (Table 01-4;
log 51). A gPTP time that was never recovered is a free value. -/
def t0Time (s : State) : W64 :=
  if s.tick.source = 3 ∨ s.tick.source = 4 then
    match (portOf s (s.tick.source - 3)).gptpPrev with
    | some (ns, at0) =>
      BitVec.ofInt 64 (ns + ((s.tick.t0Abs : Int) - at0) * 5 * (portOf s (s.tick.source - 3)).gptpRate / (6 * 4294967296))
    | none => Config.freeW64 s.free
  else BitVec.ofNat 64 (5 * s.tick.t0Abs / 6)

/-- The flags (Tables 01-5 and R32). -/
def recordFlags (s : State) (late poisoned : Bool) (score : F32) (why : BitVec 8) : BitVec 16 :=
  let st := watchStateNow s
  let fallback := late || poisoned || f32isNan score || decide (st ≤ 2) || s.seq.stopped.getLsbD 0 || s.tick.force
  BitVec.ofNat 16 (listMask ((List.range 7).filter fun b => match b with
    | 0 => late
    | 1 => why != 0
    | 2 => s.fe.settling != 0
    | 3 => s.fe.rangeM != 0
    | 4 => poisoned
    | 5 => fallback
    | _ => s.fe.cmM != 0))

/-- S or G_g of the tick: NaN where a rule says so, and otherwise the value of the two passes over their residuals (R296, R297). -/
def scoreOf (s : State) (void : Bool) (g : Option Nat) (ex : List Bool) (resX resY : List F32) : F32 :=
  if void || scoreNan s g ex then nan32
  else passValue s (passSum s false resX g ex) (passSum s true resY g ex)

/-- The tick record of this tick, its group scores, and the correction state after it. -/
structure Formed where
  record : Record
  read : Bool
  groups : List F32
  ex : List Bool
  resX : List F32
  resY : List F32
  entry : List Byte
  late : Bool
  poisoned : Bool
  corr : List F32
  corrAge : Nat

/-- The record is formed (R25, R28 to R35). -/
def formRecord (s : State) (l : MList) : Formed :=
  let stop := (runSched s).isNone || s.seq.stopped.getLsbD 0
  let held := !stop && buildHeld s l
  let late := tcOutstanding s l || held
  let p : PayRead := { none_ := stop, held := held, late := late, left := leftWrites s l, blur := blurred s l, free := s.free }
  let psrc := s.tick.poison ||| (if stop || held then 0 else payPoison s l)
  let poisoned := psrc != 0
  let feats := payFeats s l p
  let ex := (List.range l.nFeat).map fun i => featExcluded s i (nth feats i nan32)
  let void := late || poisoned || stop
  let resX := residuals s false feats
  let resY := residuals s true feats
  let ps := payScores s l p ex resX resY
  let score := scoreOf s void none ex resX resY
  let groups := (List.range 4).map fun g => scoreOf s void (some g) ex resX resY
  let (corr, keep, age) := correction s l p
  let entry := match s.watch.image with | some im => ringEntry s im feats ex | none => []
  let why := degradedWhy s
  let r : Record :=
    { tick := s.tick.no
      frame := s.tick.frame
      tickInFrame := s.tick.inFrame
      flags := recordFlags s late poisoned score why
      watchState := watchStateNow s
      tier := s.seq.tierRun
      placement := placementNow s
      settling := s.fe.settling
      degraded := why
      rangeM := s.fe.rangeM
      cmM := s.fe.cmM
      severity := s.watch.severity
      score := score
      tcMargin := tcMargin s late
      corrAge := age
      movelistId := l.movelistId
      poisonSrc := psrc
      t0Time := t0Time s
      tickSrc := s.tick.source
      chipId := s.links.ident.chipId
      features := feats
      fscores := ps
      corr := corr }
  { record := r, read := !(stop || held), groups := groups, ex := ex, resX := resX, resY := resY, entry := entry, late := late, poisoned := poisoned, corr := keep, corrAge := age }

/-! ## Posting (R28, R34, R39) -/

/-- Bytes of a record, without and with its CRC. -/
def recordRaw (r : Record) : List Byte :=
  let n := r.features.length
  leBytes 64 (pack [(0, 64, r.tick.toNat), (64, 32, r.frame.toNat), (96, 16, r.tickInFrame), (112, 16, recordLen n r.corr.length),
    (128, 16, r.flags.toNat), (144, 4, r.watchState), (148, 4, r.tier), (152, 5, r.placement), (160, 24, r.settling.toNat),
    (184, 8, r.degraded.toNat), (192, 24, r.rangeM.toNat), (224, 24, r.cmM.toNat), (248, 8, r.severity.toNat),
    (256, 32, r.score.toNat), (288, 16, wrapN 16 r.tcMargin), (304, 16, n), (320, 8, r.corr.length), (328, 8, r.corrAge),
    (336, 16, r.movelistId), (352, 8, r.poisonSrc.toNat), (384, 64, r.t0Time.toNat), (448, 4, r.tickSrc), (456, 6, r.chipId)]) ++
  r.features.flatMap (fun x => leBytes 4 x.toNat) ++ padTo (roundUp (2 * n) 4) (r.fscores.flatMap fun x => leBytes 2 x.toNat) ++
  r.corr.flatMap fun x => leBytes 4 x.toNat

def recordBytes (r : Record) : List Byte :=
  let b := recordRaw r
  b.take 60 ++ leBytes 4 (crc32c b).toNat ++ b.drop 64

/-- TICK_STAT as it is rewritten (Table 20-6): `fallback` is 1 when no record was committed. -/
def statOf (s : State) (committed : Bool) : BitVec 256 :=
  let r := s.tick.last
  let id := match s.seq.active with | some l => l.movelistId | none => 0
  BitVec.ofNat 256 (pack [(0, 64, s.tick.no.toNat), (64, 32, s.tick.frame.toNat), (96, 16, s.tick.inFrame),
    (112, 16, wrapN 16 r.tcMargin), (128, 4, s.tick.source), (132, 1, b2n s.tick.holdover), (133, 1, b2n s.seq.active.isSome),
    (134, 1, if committed then b2n (r.flags.getLsbD 5) else 1), (136, 5, r.placement), (144, 2, r.tier), (148, 4, r.watchState),
    (160, 16, id)])

/-- TICK_STAT and the copies of the SMBus agent are rewritten (R522, R530). -/
def statNow (committed : Bool) (s : State) : State := smbCopy (setTick (fun t => { t with stat := statOf s committed }) s)

/-- TRING_STOP completes behind the record of its tick (R543). -/
def ringStopNow (s : State) : State :=
  if waiting s (· == .tringStop) then finish (· == .tringStop) .ok 0 { s with tring := { s.tring with on := false } } else s

/-- The commit logic reads the record build area through DMA port 0, which counts what such a read counts (R184, R192, R203). -/
def readBuild (l : MList) (s : State) : State := fmScan 64 l.recField l.recAddr (recordLen l.nFeat l.nCorr - 64) s

/-- COMMIT_POINT: the record is formed, kept and posted, the watch takes it over, and its state passes to the front-end die (R27,
R39, Table 02-1). -/
def commitPoint (s : State) : State :=
  match s.seq.active with
  | none => s
  | some l =>
    if s.boot.stage ≠ .ready ∨ s.tick.committed then s
    else
      let f := formRecord s l
      let r := f.record
      let fb := r.flags.getLsbD 5
      let s1 := draw (setTick (fun t => { t with
        last := r
        lastOk := true
        committed := true
        corr := f.corr
        corrAge := f.corrAge }) (if f.read then readBuild l s else s))
      let levels := if s.watch.run = 0 then [] else s.watch.learned.levels
      let st : RecState := { fallback := fb, severity := r.severity, score := r.score, groups := f.groups, levels := levels }
      let s2 := setBus (fun b => { b with rs := some st }) s1
      let w : WatchTick :=
        { late := f.late, poisoned := f.poisoned, forced := s.tick.force, flags := r.flags, feats := r.features, ps := r.fscores
          ex := f.ex, score := r.score, groups := f.groups, resX := f.resX, resY := f.resY, entry := f.entry }
      statNow true (ringStopNow (watchCommit w (postTick (recordBytes r) s2)))

def execCommitPoint (s : State) : Result := .next (commitPoint s)

end Sys2Proof.Machine
end

