-- ==== Sys2Proof/Machine/Edge.lean ====
section
/-! DEFINITION. The tick edge (chapter 01): what the front-end die counts and starts at T0, what the compute die does there, and the
free-running front end while the compute die gives no edge. -/

namespace Sys2Proof.Machine

/-! ## The front-end die at T0 (R41 to R43, R46) -/

/-- A channel with an enabled event has its detectors held (R42). An enabled event on a disabled channel is no event of the fallback path,
and `held` is judged as it stands when the tick ends (DESIGN CHOICE, log 87). -/
def anyEvHeld (s : State) : Bool := (List.range 48).any (evHeld s)

/-- The tick that ends is dark: no record with FALLBACK clear, and the fallback path did not evaluate on a channel with an event (R42). -/
def tickDark (s : State) : Bool :=
  !(s.tick.committed && !s.tick.last.flags.getLsbD 5) && (anyEvHeld s || s.nv.powerFail)

/-- Ticks that R43 leaves out: PERST_N asserted, a commanded reset in progress, EXTEST, a power failure detected, and detectors held after a
reset of Table 04-3, each of which is a front-end power-on or caused by a host command (R43, R83). -/
def tickExcluded (s : State) : Bool :=
  s.boot.perst || s.boot.extest || s.nv.powerFail || anyEvHeld s ||
    (computeDown s && (s.boot.cause == .flr || s.boot.cause == .devReset0 || s.boot.cause == .devReset1))

/-- The counters at the end of a tick: a tick that R43 leaves out counts in TICK_TOTAL only; of the others one without a record, or whose
record has FALLBACK or LATE, counts there, and a dark one in TICK_DARK (R41 to R43). -/
def tickCounts (s : State) : State :=
  let s1 := setTick (fun t => { t with total := t.total + 1 }) s
  if tickDark s && tickExcluded s then s1
  else
    let flag (b : Nat) : Bool := s.tick.committed && s.tick.last.flags.getLsbD b
    let s2 := setTick (fun t => { t with
      late := if flag 0 then t.late + 1 else t.late
      fallback := if !t.committed || flag 5 then t.fallback + 1 else t.fallback }) s1
    if tickDark s then raiseInt 9 (setTick (fun t => { t with dark := t.dark + 1 }) s2) else s2

/-- The next tick: its number, its place in the frame, and its T0 (R8, R11, R14). -/
def advance (s : State) : State :=
  setTick (fun t =>
    let last := decide (t.frameLen ≤ t.inFrame + 1)
    { t with
      no := t.no + 1
      inFrame := if last then 0 else t.inFrame + 1
      frame := if last then t.frame + 1 else t.frame
      atBoundary := last
      t0Abs := t.t0Abs + (t.period + t.trim).toNat
      trim := 0
      realign := false
      lastOk := t.committed
      committed := false
      tcLast := none
      poison := 0 }) s

/-- The front-end die at T0: the choice that is owed, the counters, the samples and flags of the ended tick, and the next number. -/
def feEdge (i : TickIn) (s : State) : State :=
  advance (setFe (fun f => { f with settling := 0, rangeM := 0, cmM := 0 }) (feTickEnd i (tickCounts (choiceEdge s))))

/-- The front-end die counts ticks: it is powered and not held by EXTEST (R464, Table 19-1). -/
def feCounts (s : State) : Bool := feAlive s && !s.boot.extest

/-! ## The compute die at T0 -/

/-- The compute die gives the tick edge, once it has adopted the front-end die's phase in stage SYNC (R501). -/
def givesEdge (s : State) : Bool := s.boot.stage == .ready

/-- The readings of the ended tick (R486, R490). -/
def readPower (i : TickIn) (s : State) : State :=
  setPower (fun w => { w with
    tjLast := i.tj
    icLast := i.ic
    tjFrame := if w.icCnt = 0 then i.tj else max w.tjFrame i.tj
    icFrame := if w.icCnt = 0 then i.ic else max w.icFrame i.ic
    icSum := w.icSum + i.ic
    icCnt := w.icCnt + 1
    overTicks := if 125 * 256 < i.ic then w.overTicks + 1 else 0 }) s

/-- A change of source is pending. -/
def sourcePending (s : State) : Bool := waiting s fun a => match a with | .source _ _ => true | _ => false

/-- Another source is in force from this boundary: a pending TICK_SET_SOURCE, or a change of the chip's role (R16, R399). -/
def sourceMoves (s : State) : Bool :=
  let topo := s.links.ident.topo != 0
  let toMaster := waiting s (· == .linkMaster)
  let follows := topo && !toMaster && (!s.links.master || s.links.yield_)
  sourcePending s || follows != (s.tick.source == 2)

/-- The phase at T0: at a frame boundary the error of the source that is in force from it is kept for R14; with sources 3 and 4 the edge of
gPTP is a source edge, and there is none while gPTP time is lost (R11, R14, R411). -/
def edgePhase (i : TickIn) (s : State) : State :=
  let s1 := if s.tick.atBoundary then setTick (fun t => { t with phaseNew := i.phase }) s else s
  if (s.tick.source = 3 ∨ s.tick.source = 4) ∧ !(s.tick.atBoundary && sourceMoves s) then
    (if (portOf s (s.tick.source - 3)).gptpOk then sourceEdge i.phase s1 else sourceMissed s1)
  else s1

/-- TICK_OUT rises at T0 (R537). -/
def tickOutRise (s : State) : State := setTick (fun t => { t with tickOut := some t.t0Abs }) s

/-- The level of TICK_OUT at an offset of the running tick: high for 64 ac from its rise (R537). -/
def tickOutHigh (s : State) (at_ : Nat) : Bool :=
  match s.tick.tickOut with | some t => decide (absAt s at_ < t + 64) | none => false

/-- TICK_FORCE_FALLBACK applies from this edge (Table 01-6, R543). -/
def forceNow (s : State) : State :=
  let isForce (a : PendAct) : Bool := match a with | .force _ => true | _ => false
  let on := s.mbx.waits.foldl (fun b w => match w.act with | .force v => v | _ => b) s.tick.force
  finish isForce .ok 0 (setTick (fun t => { t with force := on }) s)

/-- The marker that this chip sends at T0: its own as tick master, else that of the tick parent with one hop more (R396). -/
def markerAt (s : State) : Option (Nat × Nat × Nat) :=
  let k := s.links
  if k.ident.topo = 0 then none
  else if k.master then some (k.ident.chipId, k.epoch, 1)
  else k.best.map fun b => (k.masterChip, k.epoch, b.2 + 1)

/-- The links at T0: markers, plan words, flit slots and reservations of the tick start anew, differing plans are counted, and a change of the
tick parent with an error above T asks for a realignment tick (R375, R385, R387, R396, R397). -/
def linkEdge (s : State) : State :=
  let moved := s.tick.source == 2 && s.links.parentLast.isSome && s.links.parent.isSome && s.links.parentLast != s.links.parent &&
    decide (trimLimit s < s.tick.phase.natAbs)
  let s1 := if moved then setTick (fun t => { t with realignDue := true }) s else s
  planTick (setLinks (fun k => { k with
    markerOut := markerAt s
    parentLast := k.parent
    best := none
    flooded := []
    link := k.link.map fun e => (e.1, { e.2 with
      rsv := [], slotNext := 0
      planOut := if e.2.phase == .up then some (if s.seq.active.isSome then s.seq.planId else none) else none }) }) s1)

/-- TICK_EDGE (R24, R207, R269, Table 01-2). -/
def tickEdge (i : TickIn) (s : State) : State :=
  if !feCounts s || !givesEdge s then s
  else
    let s1 := readPower i (watchEdge (settleSets s))
    let s2 := feEdge i s1
    let s3 := linkEdge (resetScope .tick (cancelOutstanding s2))
    let s4 := forceNow (edgePhase i (tickOutRise (setTick (fun t => { t with computeUp := true }) s3)))
    if s4.seq.active.isNone then statNow s4.tick.lastOk s4 else s4

def execTickEdge (i : TickIn) (s : State) : Result := .next (tickEdge i s)

/-- FE_FREE_RUN_TICK: while the compute die gives no edge the front-end die counts the tick itself (R46, text after R17). -/
def feFreeRunTick (i : TickIn) (s : State) : State :=
  if !feCounts s || givesEdge s then s
  else setBus (fun b => if s.tick.inFrame + 1 < s.tick.frameLen then b else { b with stranger := [] })
    (setTick (fun t => { t with computeUp := false, atBoundary := false, tickOut := none }) (feEdge i s))

def execFeFreeRunTick (i : TickIn) (s : State) : Result := .next (feFreeRunTick i s)

/-- COMPUTE_DOWN_DETECT: no edge within 64 ac of the expected T0 (R46). -/
def execComputeDownDetect (s : State) : Result :=
  .next (if feCounts s && !givesEdge s then setTick (fun t => { t with computeUp := false }) s else s)

end Sys2Proof.Machine
end

