-- ==== Sys2Proof/Machine/Frame.lean ====
section
/-! DEFINITION. The frame boundary (R8): the schedule change, the governor, the fences, and whatever else waits for it; the tick commands
of groups 0x02 (Tables 01-6 and 05-9) and TSQ_CTL. -/

namespace Sys2Proof.Machine

/-! ## The fence set (R511 to R513) -/

/-- Bit of a resource in F. -/
def resBit (res : Nat) : BitVec 276 := 1#276 <<< res

/-- F with a resource fenced, with every consequence (R54). -/
def fenceAdd (res : Nat) (m : BitVec 276) : BitVec 276 := fenceClosure (m ||| resBit res)

/-- F with a resource unfenced: a field takes its arrays with it (R512). -/
def fenceDel (res : Nat) (m : BitVec 276) : BitVec 276 :=
  let arrays : BitVec 276 := if 256 ≤ res ∧ res < 272 then BitVec.ofNat 276 (0xFFFF * 2 ^ (16 * (res - 256))) else 0
  m &&& ~~~(resBit res ||| arrays)

/-- Record 0x0042 as a number (Table 19-2). -/
def selBits (b : BootSel) : Nat :=
  pack [(0, 8, b2n b.prefB), (8, 1, b2n b.trial), (16, 8, b.tries), (32, 32, b.verA.toNat), (64, 32, b.verB.toNat), (128, 276, b.fence.toNat)]

/-- Record 0x0042 from its body (Table 19-2). -/
def selOf (bs : List Byte) : BootSel :=
  let n := leNat bs
  { prefB := bitsN n 7 0 == 1
    trial := bitN n 8
    tries := bitsN n 23 16
    verA := BitVec.ofNat 32 (bitsN n 63 32)
    verB := BitVec.ofNat 32 (bitsN n 95 64)
    fence := BitVec.ofNat 276 (bitsN n 403 128) }

/-- Record 0x0042 as it will stand when the writes that wait are done. -/
def selNext (s : State) : BootSel :=
  match (s.nv.recQ.filter fun e => e.1 == 27).getLast? with
  | some e => selOf e.2
  | none => s.boot.sel

/-- A change of record 0x0042 joins the writes that wait (R348, R350). -/
def selQueue (f : BootSel → BootSel) (s : State) : State := recQueue 27 (leBytes 64 (selBits (f (selNext s)))) s

/-- FENCE commands whose change is in force complete; one whose record write is still to come waits for that alone (R512, R513). -/
def finishFences (s : State) : State :=
  let s1 := finish (fun a => match a with | .fence _ _ false true => true | _ => false) .ok 0 s
  setMbx (fun m => { m with waits := m.waits.map fun w => match w.act with
    | .fence _ _ true true => { w with act := .recWrite .boot }
    | _ => w }) s1

/-- F takes the value that waits for the boundary; each change of a FENCE command is logged (R512, Table 19-12). -/
def fenceBoundary (lead : Nat) (s : State) : State :=
  let logs := s.mbx.waits.foldl (fun t w => match w.act with
    | .fence res _ _ false => logEvent 0x0010 0 res 2 t
    | _ => t) s
  let s1 := setMbx (fun m => { m with waits := m.waits.map fun w => match w.act with
    | .fence r on p false => { w with act := .fence r on p true }
    | _ => w }) logs
  let s2 := if s1.seq.fence = s1.seq.fenceNext then s1 else raiseInt 2 (changeF lead s1.seq.fenceNext s1)
  if s2.seq.change.isNone then finishFences s2 else s2

/-- The error counters that the firmware compares, with the resource each one fences: 0 `arr_err`, 1 `vec_err`, 2 `fm_ue` (R511). -/
def watchedCounters (p : Part) : List (Nat × Nat × Nat) :=
  ((List.range (nArrays p)).map fun a => (cArrErr a, a, 0)) ++
    (List.range (nFields p)).flatMap fun f => [(cVecErr f, 256 + f, 1), (cFmUe f, 256 + f, 2)]

/-- Limit of a kind of counter (Table 19-10). -/
def fenceLimit (p : FencePol) (kind : Nat) : Nat := match kind with | 0 => p.arrLim | 1 => p.vecLim | _ => p.fmueLim

/-- AUTO_FENCE_EVALUATION: the rises over the last `win_frames` closed frames against the policy. What it fences joins F at the next
boundary and is written to record 0x0042; with `auto` = 0 it is only logged (R511, R513; log 49). -/
def autoFence (s : State) : State :=
  let n := s.boot.winAge + 1
  let rose := (watchedCounters s.part).filterMap fun c =>
    let now := (ctrGet s c.1).toNat
    let old := (tabGet 0 s.boot.winBase c.1).toNat
    if old < now then some (n, c.1, now - old) else none
  let all := (s.boot.winRises ++ rose).filter fun e => decide (n < e.1 + s.boot.policy.winFrames)
  let hit := (watchedCounters s.part).filter fun c =>
    rose.any (fun e => e.2.1 == c.1) &&
      decide (fenceLimit s.boot.policy c.2.2 ≤ (all.filter fun e => e.2.1 == c.1).foldl (fun a e => a + e.2.2) 0) &&
      !fenced s.seq.fenceNext c.2.1
  let s1 := setBoot (fun b => { b with
    winAge := n
    winRises := all
    winBase := rose.foldl (fun t e => tabSet t e.2.1 (ctrGet s e.2.1)) b.winBase }) s
  hit.foldl (fun t c =>
    let t1 := logEvent 0x0010 0 c.2.1 1 t
    if s.boot.policy.auto then
      selQueue (fun b => { b with fence := fenceAdd c.2.1 b.fence })
        (setSeq (fun q => { q with fenceNext := fenceAdd c.2.1 q.fenceNext }) t1)
    else t1) s1

/-! ## The governor (R485 to R488) -/

/-- A difference in 1/256 units, 0 or below taken as 0 (R486). -/
def freeboard (limit : Nat) (reading : Int) : Nat := (256 * (limit : Int) - reading).toNat

/-- GOVERNOR_EVALUATION: the freeboards of the frame just closed and the tier that follows `cur`, the one in force from this boundary;
`changed` says that a tier change takes effect at it, and that frame does not count as recovered (R486, R487). -/
def governor (changed : Bool) (cur lead : Nat) (s : State) : State :=
  let w := s.power
  let g := w.gov
  let t := freeboard g.tjGov w.tjFrame
  let a := freeboard g.iGov w.icFrame
  let rec_ := if changed || decide (t < 256 * g.hystT) || decide (a < 256 * g.hystA) then 0 else w.recovered + 1
  let want := if t = 0 ∨ a = 0 ∨ cur < g.ceiling then min 2 (cur + 1)
    else if g.recoverFrames ≤ rec_ ∧ g.ceiling < cur then cur - 1 else cur
  let s1 := setPower (fun v => { v with
    fbT := t
    fbA := a
    recovered := rec_
    icMean := if v.icCnt = 0 then v.icMean else v.icSum / v.icCnt
    icSum := 0
    icCnt := 0 }) s
  changeTier lead want s1

/-- VDD_CORE_TRIM: at most one step of 5 mV between 0.70 V and 0.80 V; whether and which way is a free choice (R485; log 50). -/
def trimCore (s : State) : State :=
  let k := Config.freeNat s.free 0 % 3
  let v := if k = 1 then min 800 (s.power.vCore + 5) else if k = 2 then max 700 (s.power.vCore - 5) else s.power.vCore
  draw (setPower (fun w => { w with vCore := v }) s)

/-- PWR_GOVERNOR's values take effect, for the evaluations from the next boundary on (R491; log 50). -/
def governorSet (s : State) : State :=
  let is (a : PendAct) : Bool := match a with | .governor _ => true | _ => false
  let g := s.mbx.waits.foldl (fun g w => match w.act with | .governor v => v | _ => g) s.power.gov
  finish is .ok 0 (setPower (fun w => { w with gov := g }) s)

/-- FENCE_POLICY's values take effect (Table 19-10). -/
def policySet (s : State) : State :=
  let is (a : PendAct) : Bool := match a with | .fencePolicy _ => true | _ => false
  let p := s.mbx.waits.foldl (fun p w => match w.act with | .fencePolicy v => v | _ => p) s.boot.policy
  finish is .ok 0 (setBoot (fun b => { b with policy := p }) s)

/-! ## The schedule change (R215, R218, R219) -/

/-- A new tick period in force: a synchronising reset of every channel (R10, Table 04-3). -/
def newPeriod (period : Nat) (s : State) : State :=
  if s.tick.period = period then s
  else
    let s1 := setTick (fun t => { t with period := period }) s
    (List.range 24).foldl (fun t ch => askReset .period ch t) s1

/-- The lists change places: the standby list runs, the one that ran is the standby image, and the header of the new one sets the tick
(R9, R150, R219, R222). -/
def swapLists (l : MList) (s : State) : State :=
  let s1 := match s.seq.active with | some o => abandonJobs o s | none => s
  let s2 := setSeq (fun q => { q with
    active := some l
    standby := q.active
    streams := []
    resume := [] }) s1
  let s3 := resetScope .persistent (resetScope .frame (resetScope .step (resetScope .tick s2)))
  newPeriod l.period (setTick (fun t => { t with
    frameLen := l.frameLen
    spill := l.spill
    commitOff := l.commitOff
    pendTsq := none }) s3)

/-- `plan_id` of a schedule's LINK_RSV moves (R387). -/
def planOf (l : MList) (k : Sched) : Option W32 :=
  match (k.tick ++ k.steps).find? fun m => m.opcode == 0x78 with
  | some m => (parseRsv (blockOf l m)).map fun o => o.planId
  | none => none

/-- The watch at a change: a swap to a list that its image does not name stops it; class 0 coming back starts the ticks of R298 (R298,
R314). -/
def watchChange (swap back : Bool) (l : MList) (s : State) : State :=
  match s.watch.image with
  | none => s
  | some im =>
    if s.watch.run = 0 then s
    else if swap && !listFits im l.movelistId then watchStop s
    else setWatch (fun w => { w with stepRun := none, stepUse := none, evalOn := false, ctxLeft := if back then im.ctx else w.ctxLeft }) s

/-- Every tile register is invalid after a change (R157). -/
def tilesOff (s : State) : State := setFm (fun m => { m with arrs := m.arrs.map fun e => (e.1, { e.2 with trValid := false }) }) s

/-- Polders of the old schedule that the new one does not need, but for those of enabled links, go down through their sluices (R218,
R382). -/
def polderChange (old new : BitVec 293) (s : State) : State :=
  let gone := (polderList (old &&& ~~~new)).filter fun p => !(decide (289 ≤ p) && linkWanted s (p - 289))
  retryDown (absAt s 0) (setPower (fun w => { w with
    retry := (w.retry.filter fun p => !new.getLsbD p) ++ gone.filter fun p => !w.retry.contains p }) s)

/-- A change takes effect: the outstanding moves are cancelled, running jobs abandoned, slot 0 of the new schedule opens (R215, R219). -/
def takeChange (swap : Bool) (l : MList) (sel : Option Nat) (s : State) : State :=
  let oldSet := match runSched s with | some k => k.polders | none => 0
  let oldStop := s.seq.stopped
  let gaps := gapClasses s
  let s1 := attnAbandon (cancelOutstanding s)
  let s2 := if swap then swapLists l s1 else abandonJobs l s1
  let stop := stoppedClasses l sel
  let newSched := match sel with | some i => l.scheds[i]? | none => none
  let place := match newSched with | some k => k.placement | none => 31
  let tierNew := s.seq.tierReq != s.seq.tierRun
  let s3 := setSeq (fun q => { q with
    sched := sel
    stopped := stop
    tierRun := q.tierReq
    change := none
    keptC := []
    slot := 0
    owner := []
    planId := match newSched with | some k => planOf l k | none => none }) s2
  let fresh := stop &&& ~~~oldStop
  let s4 := if fresh ≠ 0 then logEvent 0x0011 4 fresh.toNat place s3 else s3
  let s5 := if stop ≠ oldStop then raiseInt 6 s4 else s4
  let s6 := if tierNew then setPower (fun w => { w with recovered := 0 }) (raiseInt 5 s5) else s5
  let s7 := freshGaps gaps (tilesOff (watchChange swap (oldStop.getLsbD 0 && !stop.getLsbD 0) l s6))
  let s8 := polderChange oldSet (match newSched with | some k => k.polders | none => 0) s7
  let s9 := slotStart 0 s8
  let s10 := if swap then finish (· == .mlStart) .ok s9.tick.frame.toNat s9 else s9
  finishFences s10

/-- A decided change is due: its boundary has come, with its polders up for two ticks (R218). -/
def changeDue (s : State) : Bool :=
  s.tick.inFrame == 0 && (match s.seq.change with
    | some c => (match c.dueTick with | some t => decide (t ≤ s.tick.no) | none => false)
    | none => false)

/-- SCHEDULE_CHANGE: a due change takes effect. One that brings the schedule, tier and list that run already only completes what waits for it,
and a swap whose records no longer fit the ring is refused (R38, R218, R219). -/
def scheduleChange (s : State) : State :=
  if !changeDue s || s.boot.stage != .ready then s
  else match s.seq.change with
  | none => s
  | some c =>
    let idle := setSeq (fun q => { q with change := none }) s
    if c.swap then
      match s.seq.standby with
      | none => idle
      | some l =>
        if recordsTooLong s l then
          let s1 := finish (· == .mlStart) .badLength 0 idle
          if s1.seq.active.isSome then decideChange 1 s1 else finishFences s1
        else takeChange true l c.sched s
    else match s.seq.active with
    | none => finishFences idle
    | some l =>
      if c.sched = s.seq.sched ∧ s.seq.tierReq = s.seq.tierRun then finishFences idle
      else takeChange false l c.sched s

def execScheduleChange (s : State) : Result := .next (scheduleChange s)

/-! ## ML_STOP (R223, R314, R382) -/

/-- A field-memory polder that holds retaining banks (R223). -/
def holdsRetaining (s : State) (p : Nat) : Bool :=
  decide (272 ≤ p ∧ p < 288) && (List.range 32).any fun b => bankSt s (p - 272) b == .retaining

/-- The running list stops: no list runs, the watch stops, and all polders go down except field memories with retaining banks, those that are
still coming up included; no earlier power-up request is granted any more. The polders of a swap that is pending stay wanted (R223, log 38). -/
def stopList (s : State) : State :=
  let pend := startPending s
  let s1 := watchStop (attnAbandon (cancelOutstanding s))
  let s2 := match s1.seq.active with | some l => abandonJobs l s1 | none => s1
  let s3 := setSeq (fun q => { q with
    active := none
    sched := none
    stopped := 0
    change := if pend then q.change else none
    keptC := []
    owner := []
    planId := none }) s2
  let kept (p : Nat) : Bool := match s3.seq.change with | some c => c.polders.getLsbD p | none => false
  let down := (List.range 293).filter fun p => !holdsRetaining s3 p && !kept p && polder s3 p != .down
  let s4 := retryDown (absAt s3 0) (setPower (fun w => { w with
    retry := down
    queue := w.queue.filter fun r => match r with | .polder p => kept p | .banks _ _ => false }) (tilesOff s3))
  let s5 := finish (· == .mlStop) .ok 0 s4
  if s5.seq.change.isNone then finishFences s5 else s5

/-- Where ML_STOP and a due swap meet, they take effect in the order in which they were asked for (log 38). -/
def listChanges (s : State) : State :=
  let stop := waiting s (· == .mlStop)
  let order := s.mbx.waits.filter fun w => w.act == .mlStop || w.act == .mlStart
  let first := match order with | w :: _ => w.act == .mlStop | [] => false
  if stop && first then scheduleChange (stopList s)
  else
    let s1 := scheduleChange s
    if stop then stopList s1 else s1

/-! ## The source, the ring, the seed (R8, R14, R39, R149, R399) -/

/-- A source in force: holdover ends with it; its phase error at this boundary trims the tick, or above T makes it a realignment tick (R11,
R14). -/
def sourceTo (code : Nat) (s : State) : State :=
  let s1 := if s.tick.holdover then raiseInt 4 (logEvent 0x0040 4 0 code s) else s
  let s2 := setTick (fun t => { t with
    source := code
    holdover := false
    good := 0
    bad := 0
    realign := false
    phase := if code = 0 then 0 else t.phaseNew
    trim := if code = 0 then 0 else t.phaseNew }) s1
  realignNow (retrim s2)

/-- The source that a master or stand-alone chip uses: the one last set, or Internal (R399). -/
def ownSource (s : State) : Nat := s.tick.setSource.getD 0

/-- Master, follower and stand-alone roles at the boundary (R16, R399). -/
def rolesNow (s : State) : State :=
  let s1 := if waiting s (· == .linkMaster) then
      let e := (s.links.epochMax + 1) % 65536
      let s2 := setLinks (fun k => { k with
        master := true, yield_ := false, parent := none, epoch := e, epochMax := e, masterChip := k.ident.chipId }) s
      finish (· == .linkMaster) .ok 0 (if s2.tick.source = 2 then sourceTo (ownSource s2) s2 else s2)
    else if s.links.yield_ then
      setLinks (fun k => { k with master := false, yield_ := false, epoch := k.epochMax }) s
    else s
  let ring := s1.links.ident.topo != 0 && !s1.links.master
  if ring && s1.tick.source != 2 then sourceTo 2 s1
  else if !ring && s1.tick.source == 2 then sourceTo (ownSource s1) s1
  else s1

/-- A pending change of source takes effect; its completion carries the frame number (R543). -/
def sourceChange (s : State) : State :=
  match s.mbx.waits.find? fun w => match w.act with | .source _ _ => true | _ => false with
  | none => s
  | some w =>
    match w.act with
    | .source code epoch =>
      let s1 := setTick (fun t => { t with
        epoch := epoch
        setSource := if code = 2 then t.setSource else some code }) s
      finishFirst (· == w.act) .ok s.tick.frame.toNat (sourceTo code s1)
    | _ => s

/-- A pending TRING_SETUP takes effect (R39, R525, R543). -/
def ringChange (s : State) : State :=
  match s.mbx.waits.find? fun w => match w.act with | .tring _ _ => true | _ => false with
  | none => s
  | some w =>
    match w.act with
    | .tring r hold =>
      let s1 := setTick (fun t => { t with holdLimit := hold }) { s with tring := r }
      finishFirst (· == w.act) .ok 0 (ringStart r s1)
    | _ => s

/-- A pending dice seed takes effect with every stream counter at 0 (R149, R150). -/
def seedChange (s : State) : State :=
  match s.mbx.waits.find? fun w => match w.act with | .seed _ => true | _ => false with
  | none => s
  | some w =>
    match w.act with
    | .seed v =>
      let s1 := setSeq (fun q => { q with seed := v, streams := [] }) s
      finishFirst (· == w.act) .ok (pack [(0, 64, v.toNat), (64, 32, s.tick.frame.toNat)]) s1
    | _ => s

/-- A pending TSQ_CTL write takes effect while no list runs (R9, R523). -/
def tsqNow (s : State) : State :=
  match s.tick.pendTsq with
  | none => s
  | some (p, n) =>
    if s.seq.active.isSome then setTick (fun t => { t with pendTsq := none }) s
    else newPeriod p (setTick (fun t => { t with frameLen := n, pendTsq := none }) s)

/-- Links at the boundary: whole frames UP are counted, and a LINK_ADMIN down, of this chip or heard of, takes its links out of every route
(R395, R400). -/
def linkBoundary (s : State) : State :=
  let s1 := setLinks (fun k => { k with link := k.link.map fun e =>
    (e.1, if e.2.phase == .up then { e.2 with upFrames := e.2.upFrames + 1 } else e.2) }) s
  let mask := s1.mbx.waits.foldl (fun m w => match w.act with | .linkDown x false => m ||| x | _ => m) 0#4
  setMbx (fun m => { m with waits := m.waits.map fun w => match w.act with
    | .linkDown x false => { w with act := .linkDown x true }
    | _ => w }) (setLinks (fun k => { k with
      avoid := k.avoid ||| mask
      adminHeard := []
      adminAvoid := k.adminHeard ++ k.adminAvoid
      adminSince := if mask = 0 then k.adminSince else s.tick.t0Abs }) s1)

/-- A swap takes effect at this boundary: the changes of F and the tier request that meet it here go into its selection (Table 08-12). -/
def swapDue (s : State) : Bool :=
  changeDue s && s.boot.stage == .ready && (match s.seq.change with | some c => c.swap | none => false)

/-- FRAME_BOUNDARY: what the first T0 of a frame brings (R8). A swap goes before a TRING_SETUP that waits for the same boundary: each has been
checked against the ring or the list that was in force, so the new list's records may be longer than an entry of the new ring, and its
entries then run into each other (R38 says nothing of the two together; DESIGN CHOICE, log 81). -/
def frameBoundary (s : State) : State :=
  if !s.tick.atBoundary || computeDown s then s
  else
    let s1 := setTick (fun t => { t with atBoundary := false }) s
    let s2 := resetScope .frame (frameSummary (levelsNow (fadeNext s1)))
    let due := swapDue s2
    let s3 := if due then governor (s2.seq.tierReq != s2.seq.tierRun) s2.seq.tierReq 0 (fenceBoundary 0 s2) else s2
    let s4 := tsqNow (listChanges s3)
    let s6 := if due then s4 else governor (s4.seq.tierRun != s2.seq.tierRun) s4.seq.tierRun 1 (fenceBoundary 2 s4)
    let s7 := policySet (autoFence (governorSet (trimCore s6)))
    let back := if s7.tick.realignDue then realignNow (setTick (fun t => { t with realignDue := false, phase := t.phaseNew }) s7) else s7
    let s8 := ringChange (retrim (sourceChange (rolesNow back)))
    let s9 := seedChange s8
    let s10 := watchBoundary (if watchFieldFenced s9 then watchStop s9 else s9)
    let s11 := setBus (fun b => { b with stranger := [] }) (busBoundary s10)
    let s12 := emptyRuns (startFrameJobs (attnBoundary (retryBoundary (linkBoundary s11))))
    setTrust (fun t => { t with cfgTick := cfgDigest s12 }) s12

def execFrameBoundary (s : State) : Result := .next (frameBoundary s)

/-! ## Tick commands (R36 to R38, R149, R543) -/

/-- A tick-group change is pending (R17). -/
def tickGroupPending (s : State) : Bool := waiting s fun a => match a with | .source _ _ => true | .tring _ _ => true | _ => false

/-- The chip is in a ring or torus. -/
def inRing (s : State) : Bool := s.links.ident.topo != 0

/-- The tick number of the next frame boundary at which a waiting source takes effect. -/
def nextBoundary (s : State) : Nat :=
  if s.tick.atBoundary then s.tick.no.toNat else s.tick.no.toNat + (s.tick.frameLen - s.tick.inFrame)

/-- The periods that can be in force at the next boundary: that of a pending swap; also the one without it, while polders of the swap are
still to come up and it may take effect later (R15, R218; log 84). -/
def periodsNext (s : State) : List Nat :=
  let now := match s.tick.pendTsq with | some (p, _) => p | none => s.tick.period
  match startPending s, s.seq.standby with
  | true, some l =>
    match s.seq.change.bind (·.dueTick) with
    | some d => if d.toNat ≤ nextBoundary s then [l.period] else [l.period, now]
    | none => [l.period, now]
  | _, _ => [now]

/-- TICK_SET_SOURCE (R15 to R17, R36). Code 2 on a stand-alone chip or a tick master, for which no rule states a status, is REFUSED like any
other source that the chip may not select (DESIGN CHOICE, log 26). -/
def bodyTickSetSource (c : Cmd) (s : State) : State :=
  let code := fld c 3 0 0
  if 4 < code then fail 0x0201 c .badParam s
  else if (inRing s && !s.links.master) != (code == 2) then fail 0x0201 c .refused s
  else if (code = 3 ∨ code = 4) ∧ (periodsNext s).any (fun p => p % 6 != 0) then fail 0x0201 c .badParam s
  else if tickGroupPending s then fail 0x0201 c .busy s
  else waitFor 0x0201 c (.source code (BitVec.ofNat 64 (fld c 95 32 0))) s

/-- TRING_SETUP (R17, R37, R38). -/
def bodyTringSetup (c : Cmd) (s : State) : State :=
  let r := ringOf c
  let hold := fld c 175 168 8
  let need := match s.seq.active with | some l => recordLen l.nFeat l.nCorr | none => 0
  if !ringOk 8 11 r ∨ hold = 0 ∨ 2 ^ r.entryLog2 < need then fail 0x0202 c .badParam s
  else if tickGroupPending s then fail 0x0202 c .busy s
  else waitFor 0x0202 c (.tring r hold) s

/-- TRING_STOP: at once without a list, or when the record of this tick has been posted; else behind that record (R543). -/
def bodyTringStop (c : Cmd) (s : State) : State :=
  if s.seq.active.isNone || s.tick.committed then completeOk 0x0203 c 0 { s with tring := { s.tring with on := false } }
  else waitFor 0x0203 c .tringStop s

/-- TICK_FORCE_FALLBACK: its setting applies from the next tick edge (R543). -/
def bodyTickForceFallback (c : Cmd) (s : State) : State := waitFor 0x0204 c (.force (fldB c 0 false)) s

/-- TICK_COUNTERS: the counters of R41 in `data`, TICK_TOTAL, TICK_LATE, TICK_FALLBACK and TICK_DARK from bit 0, 64 bits each; no table gives
the layout (DESIGN CHOICE, log 26). -/
def bodyTickCounters (c : Cmd) (s : State) : State :=
  completeOk 0x0205 c (pack [(0, 64, s.tick.total.toNat), (64, 64, s.tick.late.toNat), (128, 64, s.tick.fallback.toNat),
    (192, 64, s.tick.dark.toNat)]) s

/-- DICE_SEED (R149). Where the read form's completion carries the seed and the frame number, [63:0] and [95:64], no table gives (DESIGN CHOICE,
log 26). -/
def bodyDiceSeed (c : Cmd) (s : State) : State :=
  if fldB c 64 false then completeOk 0x0206 c (pack [(0, 64, s.seq.seed.toNat), (64, 32, s.tick.frame.toNat)]) s
  else if waiting s fun a => match a with | .seed _ => true | _ => false then fail 0x0206 c .busy s
  else waitFor 0x0206 c (.seed (BitVec.ofNat 64 (fld c 63 0 0))) s

def execTickSetSource (c : Cmd) (s : State) : Result := .next (deliver 0x0201 bodyTickSetSource c s)
def execTringSetup (c : Cmd) (s : State) : Result := .next (deliver 0x0202 bodyTringSetup c s)
def execTringStop (c : Cmd) (s : State) : Result := .next (deliver 0x0203 bodyTringStop c s)
def execTickForceFallback (c : Cmd) (s : State) : Result := .next (deliver 0x0204 bodyTickForceFallback c s)
def execTickCounters (c : Cmd) (s : State) : Result := .next (deliver 0x0205 bodyTickCounters c s)
def execDiceSeed (c : Cmd) (s : State) : Result := .next (deliver 0x0206 bodyDiceSeed c s)

/-- TSQ_CTL (R9, R15, R523): a write of one half keeps the other half of the write that is pending, or of the values in force (log 21). -/
def tsqWrite (p : WPart) (v : W64) (s : State) : State :=
  if computeDown s || s.seq.active.isSome then s
  else
    let (p0, n0) := s.tick.pendTsq.getD (s.tick.period, s.tick.frameLen)
    let w := (mergePart p (BitVec.ofNat 64 (pack [(0, 17, p0), (32, 16, n0)])) v).toNat
    let period := bitsN w 16 0
    let len := bitsN w 47 32
    if period < 1200 ∨ 120000 < period ∨ len = 0 ∨ (gptpSource s ∧ period % 6 ≠ 0) then bump cRegBadWr s
    else setTick (fun t => { t with pendTsq := some (period, len) }) s

def execTsqCtl (part : WPart) (v : W64) (s : State) : Result := .next (tsqWrite part v s)

end Sys2Proof.Machine
end

