-- ==== Sys2Proof/Machine/Reset.lean ====
section
/-! DEFINITION. Power and resets (chapters 13, 18, 19, 21): the front-end power-on and what it reads from the store, power failure, the
reset sources of Table 19-1, the compute-die start with its choice of a firmware slot, and the bring-up stages. -/

namespace Sys2Proof.Machine

/-! ## The front-end power-on (R66, R347, R366, R420) -/

/-- The persistent log in the store (Table 19-11): the entries of a page whose CRC is right. -/
def logEntryOf (b : List Byte) : Option LogEntry :=
  let n := leNat b
  if crc32c (b.take 28) == BitVec.ofNat 32 (bitsN n 255 224) then
    some { seq := BitVec.ofNat 32 (bitsN n 223 192), tick := BitVec.ofNat 64 (bitsN n 127 64), code := bitsN n 63 48
           src := bitsN n 39 32, arg := BitVec.ofNat 64 (bitsN n 191 128), arg2 := BitVec.ofNat 32 (bitsN n 31 0) }
  else none

/-- Bytes of an entry (Table 19-11). -/
def logEntryBytes (e : LogEntry) : List Byte :=
  let b := leBytes 28 (pack [(0, 32, e.arg2.toNat), (32, 8, e.src), (48, 16, e.code), (64, 64, e.tick.toNat), (128, 64, e.arg.toNat),
    (192, 32, e.seq.toNat)])
  b ++ leBytes 4 (crc32c b).toNat

/-- Log pages that hold anything. -/
def logPages (s : State) : List Nat :=
  ((s.nv.mem.filter fun c => decide (0x12000 ≤ c.1 ∧ c.1 < 0x30000)).map fun c => c.1 / 256).eraseDups

/-- Insert by RFC 1982 order. -/
def seqInsert (e : LogEntry) : List LogEntry → List LogEntry
  | [] => [e]
  | x :: t => if serialGt x.seq e.seq then e :: x :: t else x :: seqInsert e t

/-- The entries of the log region with their page, in page order. -/
def nvEntries (s : State) : List (Nat × LogEntry) :=
  (logPages s).flatMap fun p => (List.range 8).filterMap fun i => (logEntryOf (nvBytes s (pageAddr p + 32 * i) 32)).map fun e => (p, e)

/-- The persistent log in sequence order (R361). -/
def nvLog (s : State) : List LogEntry := (nvEntries s).foldl (fun a e => seqInsert e.2 a) []

/-- The page of the log ring that is programmed next, and the next sequence number: behind the newest entry (R361; log 15). -/
def logNext (s : State) : Nat × W32 :=
  match (nvLog s).getLast? with
  | none => (288, 0)
  | some e =>
    let p := match (nvEntries s).find? fun x => x.2 == e with | some x => x.1 | none => 287
    (if 767 ≤ p then 288 else p + 1, e.seq + 1)

/-- Calibration sets and source ratios from their records (text after Table 13-3). -/
def calTables (s : State) : Tab (W32 × W32) × Tab W32 :=
  let w (b : List Byte) (o : Nat) : W32 := BitVec.ofNat 32 (leNat ((b.drop o).take 4))
  ((List.range 24).flatMap (fun ch => match recBody s ch with
     | some b => (List.range 8).map fun r => (8 * ch + r, (w b (8 * r), w b (8 * r + 4)))
     | none => []),
   match recBody s 24 with
   | some b => (List.range 40).map fun i => (i, w b (4 * i))
   | none => [])

/-- The measuring side with the stored configuration in force from the first tick; every enabled channel has the reset of a power-on
(R66, R115, Table 04-3). -/
def feOf (s : State) : FrontEnd :=
  let body := recBody s 25
  let cfg : FeCfg := match body with | some b => configOf b | none => {}
  let (cal, ratios) := calTables s
  let chan (ch : Nat) : Chan :=
    let on := (routeOf cfg ch).enable
    { range := (rangeOf cfg ch).range
      held := on
      fSet := on
      due := if on then [.powerOn] else []
      bankNew := match body with | some b => configBank b ch | none => {} }
  { cfg := cfg
    chans := match body with | some _ => (List.range 24).map fun ch => (ch, chan ch) | none => []
    cal := cal
    ratios := ratios
    vexcOk := s.fe.vexcOk }

/-- What the store's controller holds besides the cells starts anew: writes that had not started are gone, the owner page, every counter and
every record are read and a copy of each chosen, and the settings and the image follow (R339, R347, R362, R366, R370). -/
def storeUp (s : State) : State :=
  let s1 := setNv (fun v => { mem := v.mem, flips := v.flips }) s
  let s2 := (List.range 31).foldl (fun t k => recPickNow k t) (nvCheck 0x10000 0x2000 (nvCheck 0 256 s1))
  let s3 := match recBody s2 29 with
    | some b => setNv (fun v => { v with
        level := (nth b 0 0).toNat % 4
        image := (nth b 1 0).getLsbD 0
        autostore := (nth b 1 0).getLsbD 1 }) s2
    | none => s2
  let (page, _) := logNext s3
  let s4 := (logPages s3).foldl (fun t p => nvCheck (pageAddr p) 256 t) (setNv (fun v => { v with logPage := page }) s3)
  if s4.nv.image then imgRecall s4 else s4

/-- The front-end die starts: at a power-on with its counters, tick number and port counters cleared; at DEV_RESET scope 1, which is no
power-on, with these kept (R41, R45, R66; log 53). The compute die is in reset. -/
def frontEndUp (src : ResetSrc) (power : Bool) (s : State) : State :=
  let s1 := computeReset src s
  let s2 := if power then { s1 with tick := {}, ctr := [], smb := {} } else { s1 with smb := {} }
  let s3 := storeUp (setBus (fun b => { b with vholdOk := true }) s2)
  let bus : Bus := match recBody s3 26 with | some b => busOf b | none => {}
  let sel : BootSel := match recBody s3 27 with | some b => selOf b | none => {}
  { s3 with
    fe := feOf s3
    bus := { bus with vhoOk := s3.bus.vhoOk }
    links := { ident := identStored s3 }
    trust := if power then { s3.trust with debugNext := false } else s3.trust
    boot := { s3.boot with sel := sel, logSeq := if power then (logNext s3).2 else s3.boot.logSeq } }

/-- FE_POWER_ON: the supplies reach their thresholds (Table 19-1, R66). -/
def fePowerOn (s : State) : State := frontEndUp .supplies true s

def execFePowerOn (s : State) : Result := .next (fePowerOn s)

/-! ## Power failure (R368 to R371, R534) -/

/-- POWER_FAIL_DETECT: steps 1 to 4 of Table 13-8. The compute die is held in reset (R534). -/
def powerFailDetect (s : State) : State :=
  if !feAlive s || s.nv.powerFail then s
  else
    let s1 := logEvent 0x0051 7 0 0 s
    let s2 := setNv (fun v => { v with
      powerFail := true, queue := [], recQ := [], recRun := [], ctrQ := [], ctrRun := none, enrol := none, imgWaits := [], modeNext := none }) s1
    let s3 := { s2 with fe := { vexcOk := s2.fe.vexcOk, cal := s2.fe.cal, ratios := s2.fe.ratios } }
    let s4 := setBus (fun b => { b with
      outs := b.outs.map fun e => (e.1, { e.2 with path := .fault, pin := none })
      ports := b.ports.map fun e => (e.1, { e.2 with txq := [], plca := false, gptpOk := false })
      rs := none
      owed := none }) s3
    let s5 := if s4.nv.image && s4.nv.dirty && s4.nv.autostore && s4.nv.storing.isNone then imgStoreStart true s4 else s4
    computeReset .supplyReturn s5

def execPowerFailDetect (s : State) : Result := .next (powerFailDetect s)

/-- The sequence of Table 13-8 is completed: programs that have started end, and a running image store with its seal. -/
def failSequence (s : State) : State :=
  let s1 := s.nv.planes.foldl (fun t e => nvPut e.2.bytes t) s
  let s2 := setNv (fun v => { v with planes := [] }) s1
  match s2.nv.storing with | some img => (imgStoreDo img s2).2 | none => s2

/-- SUPPLY_RETURN: the sequence is completed, and a front-end power-on reads everything afresh (R370). -/
def supplyReturn (s : State) : State :=
  if feAlive s && s.nv.powerFail then frontEndUp .supplyReturn true (failSequence s) else s

def execSupplyReturn (s : State) : Result := .next (supplyReturn s)

/-- A torn program: its groups hold any mix of old and new bytes, and some may read uncorrectable (Table 13-9; free choices). -/
def torn (bs : List (Nat × Byte)) (s : State) : State :=
  let kept := bs.filter fun b => Config.freeBool s.free b.1
  let bad := (bs.map fun b => b.1 / 8).eraseDups.filter fun g => Config.freeBool (s.free + 1) g
  draw (draw (setNv (fun v => { v with flips := bad.foldl (fun t g => tabSet t g 2) v.flips }) (nvPut kept s)))

/-- FRONT_END_SUPPLY_COLLAPSE: VHOLD falls below 6.0 V after a power failure; programs that still run are torn, and the die stops
(R371, R534, R538). -/
def supplyCollapse (s : State) : State :=
  if !feAlive s || !s.nv.powerFail then s
  else
    let s1 := s.nv.planes.foldl (fun t e => torn e.2.bytes t) s
    let s2 := match s1.nv.storing with
      | some img => torn (placed 0x30000 (memReadN 0xFF#8 img 0 0x10000)) s1
      | none => s1
    let s3 := setNv (fun v => { mem := v.mem, flips := v.flips, powerFail := true }) s2
    { s3 with
      fe := { vexcOk := s3.fe.vexcOk }
      bus := { vhoOk := s3.bus.vhoOk, vholdOk := false }
      smb := {} }

def execFrontEndSupplyCollapse (s : State) : Result := .next (supplyCollapse s)

/-! ## Resets of the compute die (Table 19-1) -/

/-- PERST_N_ASSERT. -/
def execPerstNAssert (s : State) : Result := .next (computeReset .perst (setBoot (fun b => { b with perst := true }) s))

/-- PERST_N_DEASSERT: the hold ends; the start itself is COMPUTE_DIE_START (R532). -/
def execPerstNDeassert (s : State) : Result := .next (setBoot (fun b => { b with perst := false }) s)

/-- FUNCTION_LEVEL_RESET: as DEV_RESET scope 0 (R445). In reset the function does not answer. -/
def execFunctionLevelReset (s : State) : Result := .next (if computeDown s then s else computeReset .flr s)

/-- RAIL_FAULT: a compute-die rail out of tolerance for 1 µs (R532). -/
def execRailFault (s : State) : Result := .next (computeReset .rail s)

/-- THERMAL_TRIP: 115 °C on a sensor, or 600 ticks in a row above 125 A (R490). The count is kept over the restart that it causes
(log 54). -/
def thermalTrip (tj : Int) (ic : Nat) (s : State) : State :=
  if computeDown s || !(decide (115 * 256 ≤ tj) || decide (600 ≤ s.power.overTicks)) then s
  else
    let n := (ctrGet s cThermTrip).toNat
    ctrSet cThermTrip (BitVec.ofNat 32 (min (2 ^ 32 - 1) (n + 1)))
      (computeReset .trip (logEvent 0x0022 5 (wrapN 64 tj) ic s))

def execThermalTrip (tj : Int) (ic : Nat) (s : State) : Result := .next (thermalTrip tj ic s)

/-- WATCHDOG_EXPIRY: the core is reset and another takes over its work; the last running core, a second expiry within 1 s, or an expiry during a
live hand-over, whose boundary has come, restarts the compute die (R503, Table 19-15). -/
def watchdogExpiry (core at_ : Nat) (s : State) : State :=
  if computeDown s || !s.boot.cores.getLsbD core then s
  else
    let s1 := logEvent 0x0003 0 core 0 s
    let left := s.boot.cores &&& ~~~(1#4 <<< core)
    let now := absAt s at_
    let soon := match s.boot.lastWdt with | some t => decide (now < t + 1200000000) | none => false
    if decide (left = 0) || soon || (s.boot.staged && s.tick.inFrame == 0) then computeReset .watchdog s1
    else setBoot (fun b => { b with cores := left, lastWdt := some now }) s1

def execWatchdogExpiry (core : Nat) (at_ : Nat) (s : State) : Result := .next (watchdogExpiry core at_ s)

/-- EXTEST_SELECT: both dies are held in reset while it is selected; the DRAM keys are zeroised at its entry (R464). -/
def extestSelect (selected : Bool) (s : State) : State :=
  if s.boot.extest == selected then s
  else
    let s1 := setBoot (fun b => { b with extest := selected }) s
    if selected && feAlive s && !s.nv.powerFail then frontEndUp .extest false s1 else if selected then computeReset .extest s1 else s1

def execExtestSelect (selected : Bool) (s : State) : Result := .next (extestSelect selected s)

/-- DEV_RESET (R444): a valid one posts no completion. -/
def bodyDevReset (c : Cmd) (s : State) : State :=
  match fld c 1 0 0 with
  | 0 => computeReset .devReset0 s
  | 1 => frontEndUp .devReset1 false s
  | _ => fail 0x0006 c .badParam s

def execDevReset (c : Cmd) (s : State) : Result := .next (deliver 0x0006 bodyDevReset c s)

/-! ## The firmware slots (R495, R498, R506) -/

/-- Flash address of a slot. -/
def slotAddr (b : Bool) : Nat := if b then 0x400000 else 0

/-- Bytes of a slot's image area, 1.5 MiB (R495). -/
def slotImage (s : State) (b : Bool) : List Byte := memReadN 0xFF#8 s.boot.flash (slotAddr b) 0x180000

/-- Verification of the image in a slot (R461 with type 1). -/
def slotVerify (s : State) (b : Bool) : Option Status :=
  let img := slotImage s b
  verifyImage s typeFirmware (Config.fwSecVer img) img (Config.fwSigOff img)

/-- What the verification of a slot counts (R339). -/
def slotScan (b : Bool) (s : State) : State :=
  let img := slotImage s b
  verifyScan typeFirmware (Config.fwSecVer img) img (Config.fwSigOff img) s

/-- Mark a slot verified or unverified. -/
def slotMark (b ok : Bool) (s : State) : State := setBoot (fun x => if b then { x with okB := ok } else { x with okA := ok }) s

def slotOk (s : State) (b : Bool) : Bool := if b then s.boot.okB else s.boot.okA

/-- Record 0x0042 is written at once (R498: the write completes before the firmware starts). -/
def selWrite (sel : BootSel) (s : State) : State :=
  let (ok, s1) := recWriteNow 27 (leBytes 64 (selBits sel)) (freeOks s) s
  draw (if ok then setBoot (fun b => { b with sel := sel }) s1 else s1)

/-- Writes of record 0x0042 that had reached the front-end die are carried out (R447). -/
def selFlush (s : State) : State :=
  if s.nv.recQ.any fun e => e.1 == 27 then
    let mine := (s.nv.recRun.filter fun x => x.k == 27).flatMap RecRun.left
    let s1 := setNv (fun v => { v with
      queue := v.queue.filter fun w => !mine.contains w.seq
      planes := v.planes.filter fun e => !mine.contains e.2.seq
      recRun := v.recRun.filter fun x => x.k != 27 }) s
    setNv (fun v => { v with recQ := v.recQ.filter fun e => e.1 != 27 }) (selWrite (selNext s) s1)
  else s

/-- Steps 1 to 3 of R498: the slot taken. -/
def slotPick (s : State) : Bool × State :=
  let sel := s.boot.sel
  if sel.trial ∧ sel.tries = 0 then
    let b := !sel.prefB
    (b, logEvent 0x0005 0 (b2n b) 0 (selWrite { sel with prefB := b, trial := false } s))
  else if sel.trial then (sel.prefB, selWrite { sel with tries := sel.tries - 1 } s)
  else (sel.prefB, s)

/-- BOOT_SLOT_SELECT: the slot to boot, none when both fail (R498). -/
def slotSelect (s : State) : Option Bool × State :=
  let (b, s0) := slotPick s
  let s1 := slotScan b s0
  let bad := slotScan (!b) (slotMark b false s1)
  if (slotVerify s1 b).isNone then (some b, slotMark b true s1)
  else if (slotVerify s1 (!b)).isNone then
    (some (!b), slotMark (!b) true (selWrite { bad.boot.sel with prefB := !b, trial := false } bad))
  else (none, slotMark (!b) false bad)

/-! ## Bring-up (R494, R498 to R501, R520) -/

/-- Rows of Table 19-1. -/
def resetRow : ResetSrc → Nat
  | .supplies => 1 | .perst => 2 | .flr => 3 | .devReset0 => 4 | .devReset1 => 5 | .supplyReturn => 6 | .trip => 7 | .watchdog => 8
  | .extest => 9 | .rail => 10

/-- Nothing holds the compute die in reset (Table 19-1, R532). -/
def mayStart (s : State) : Bool := computeDown s && !s.boot.perst && !s.boot.extest && feAlive s && !s.nv.powerFail

/-- What the compute die takes up at its start: the error groups of the front-end die, the dice seed, the fused core voltage, the owner, the
debug state (R150, R458, R465, R520, R533). -/
def startState (s : State) : State :=
  let keep := s.mbx.errSum &&& 0xE00
  let s1 := setMbx (fun m => { m with errSum := keep }) s
  let s2 := draw (setSeq (fun q => { q with seed := Config.freeW64 s.free }) s1)
  let s3 := setPower (fun w => { w with vCore := s.part.fusedMv }) s2
  readOwner (setTrust (fun t => { t with debug := t.debugNext, debugNext := false }) s3)

/-- COMPUTE_DIE_START: counter 3 rises, the stage is ROM, a firmware slot is chosen and verified, and CDI_1 and the Alias key are formed; with
no slot, or a damaged owner page, the device is HALTED (R453, R458, R494, R498, R499). -/
def computeDieStart (s : State) : State :=
  if !mayStart s then s
  else
    let s1 := spreadIncr 3 (ctrScan 3 (selFlush s))
    let s2 := startState (setStage .rom (setBoot (fun b => { b with cores := 1 }) s1))
    let s3 := if s2.mbx.errSum = 0 then s2 else raiseInt 1 s2
    let (slot, s4) := slotSelect s3
    let booted := match slot with | some b => b | none => s4.boot.sel.prefB
    let s5 := logEvent 0x0001 0 (resetRow s.boot.cause) (b2n booted) s4
    match slot with
    | none => haltNow (if s5.trust.owner = 2 then 2 else 1) s5
    | some b =>
      let img := slotImage s5 b
      formAlias (imageDigest img (Config.fwSigOff img)) (Config.fwSecVer img) (setBoot (fun x => { x with slotB := b }) s5)

def execComputeDieStart (s : State) : Result := .next (computeDieStart s)

/-- FW_START_STAGE: the firmware runs on the control cores (Table 19-3, R500). Commands taken in stage ROM have completed there. -/
def fwStartStage (s : State) : State :=
  if s.boot.stage ≠ .rom then s
  else setStage .fwStart (setBoot (fun b => { b with cores := 15, fwVer := Config.fwVersion (slotImage s b.slotB) }) s)

def execFwStartStage (s : State) : Result := .next (fwStartStage s)

/-- SYNC_STAGE: the tick of the front-end die is adopted, the persistent fences are F, the enabled and unfenced links come up, a chip with
`tm` = 1 is tick master with epoch 0, and the stage is READY (R399, R501, Table 19-3). -/
def syncStage (s : State) : State :=
  if s.boot.stage ≠ .sync then s
  else
    let f := fenceClosure s.boot.sel.fence
    let s1 := (maskList 276 s.boot.sel.fence.toNat).foldl (fun t r => logEvent 0x0010 0 r 4 t) s
    let s2 := setSeq (fun q => { q with fence := f, fenceNext := f }) s1
    let s3 := setTick (fun t => { t with realignDue := t.source != 0 }) s2
    let tm := s3.links.ident.tm && s3.links.ident.topo != 0
    let s4 := setLinks (fun k => { k with
      master := tm
      masterChip := if tm then k.ident.chipId else 64
      epoch := 0 }) s3
    setStage .ready (linksOn false s4)

def execSyncStage (s : State) : Result := .next (syncStage s)

/-- BOOT_FLASH_EXTERNAL_WRITE: while PERST_N is asserted or the device is HALTED, a board programmer writes a slot (R496). -/
def bootFlashWrite (slot off : Nat) (data : List Byte) (s : State) : State :=
  if !s.boot.perst && s.boot.stage != .halted then s
  else
    let b := slot % 2 == 1
    let bs := (placed off data).filter fun x => decide (x.1 < 0x400000)
    slotMark b false (setBoot (fun x => { x with
      flash := bs.foldl (fun m y => memWrite 0xFF#8 m (slotAddr b + y.1) y.2) x.flash }) s)

def execBootFlashExternalWrite (slot off : Nat) (data : List Byte) (s : State) : Result := .next (bootFlashWrite slot off data s)

end Sys2Proof.Machine
end

