-- ==== Sys2Proof/Machine/Service.lean ====
section
/-! DEFINITION. Service in operation (chapter 19): the firmware commands and the live hand-over, fencing commands, the event log, the counter
dump, and the writes of records and log pages (chapter 13). -/

namespace Sys2Proof.Machine

/-! ## Firmware commands (Table 19-5) -/

/-- Data of FW_INFO (the layout is the model's, log 26): [0] running slot, [8] `pref`, [9] `trial`, [23:16] `tries`, [24] A verified,
[25] B verified, [63:32] and [95:64] versions, [127:96] and [159:128] `sec_ver`. -/
def bodyFwInfo (c : Cmd) (s : State) : State :=
  let b := s.boot.sel
  completeOk 0x0101 c (pack [(0, 1, b2n s.boot.slotB), (8, 1, b2n b.prefB), (9, 1, b2n b.trial), (16, 8, b.tries),
    (24, 1, b2n s.boot.okA), (25, 1, b2n s.boot.okB), (32, 32, b.verA.toNat), (64, 32, b.verB.toNat),
    (96, 32, Config.fwSecVer (slotImage s false)), (128, 32, Config.fwSecVer (slotImage s true))]) s

/-- FW_WRITE: the block of the slot that is not running is erased and programmed from its start; the slot is unverified (R505). -/
def bodyFwWrite (c : Cmd) (s : State) : State :=
  let chunk := fld c 55 48 0
  let n := fld c 47 32 0 + 1
  let b := !s.boot.slotB
  if 23 < chunk then fail 0x0102 c .badParam s
  else if (selNext s).trial then fail 0x0102 c .refused s
  else
    let base := slotAddr b + 65536 * chunk
    let bs := hostRead s (fld c 127 64 0) n
    completeOk 0x0102 c 0 (slotMark b false (setBoot (fun x => { x with
      flash := memWriteN 0xFF#8 (memClear base (base + 65536) x.flash) base bs }) s))

/-- FW_VERIFY: OK with the version written into record 0x0042, or the status of R461; the check of the version reads its counter (R339, R506). -/
def bodyFwVerify (c : Cmd) (s0 : State) : State :=
  let b := !s0.boot.slotB
  let s := slotScan b s0
  match slotVerify s b with
  | some st => fail 0x0103 c st s
  | none =>
    let v := Config.fwVersion (slotImage s b)
    waitFor 0x0103 c (.recWrite .boot)
      (selQueue (fun x => if b then { x with verB := v } else { x with verA := v }) (slotMark b true s))

/-- FW_ACTIVATE (R507): the record is written first; with `live` the hand-over follows at a frame boundary. -/
def bodyFwActivate (c : Cmd) (s : State) : State :=
  let b := !s.boot.slotB
  let live := fldB c 0 false
  if !slotOk s b then fail 0x0104 c .notReady s
  else if s.mbx.waits.any fun w => w.opcode == 0x0104 then fail 0x0104 c .busy s
  else if live && !Config.fwAccepts (slotImage s b) (slotImage s s.boot.slotB) then fail 0x0104 c .refused s
  else
    let s1 := if live then slotScan b s else s
    match (if live then slotVerify s1 b else none) with
    | some st => fail 0x0104 c st s1
    | none =>
      waitFor 0x0104 c (if live then .handover else .recWrite .boot)
        (selQueue (fun x => { x with prefB := b, trial := true, tries := 3 }) s1)

/-- FW_CONFIRM (R509). -/
def bodyFwConfirm (c : Cmd) (s : State) : State :=
  if !(selNext s).trial then fail 0x0105 c .notReady s
  else waitFor 0x0105 c (.recWrite .boot) (selQueue (fun x => { x with trial := false }) s)

def execFwInfo (c : Cmd) (s : State) : Result := .next (deliver 0x0101 bodyFwInfo c s)
def execFwWrite (c : Cmd) (s : State) : Result := .next (deliver 0x0102 bodyFwWrite c s)
def execFwVerify (c : Cmd) (s : State) : Result := .next (deliver 0x0103 bodyFwVerify c s)
def execFwActivate (c : Cmd) (s : State) : Result := .next (deliver 0x0104 bodyFwActivate c s)
def execFwConfirm (c : Cmd) (s : State) : Result := .next (deliver 0x0105 bodyFwConfirm c s)

/-- LIVE_FIRMWARE_HANDOVER: at the frame boundary after staging the cores go over to the new image; the Alias key, measurement 2 and FW_VER
follow, and what the schedule and the front end do is unchanged (R508, Table 19-7). -/
def liveHandover (s : State) : State :=
  if !s.boot.staged || s.tick.inFrame != 0 || s.boot.stage != .ready then s
  else
    let b := !s.boot.slotB
    let img := slotImage s b
    let v := Config.fwVersion img
    let s1 := logEvent 0x0004 0 v.toNat s.boot.fwVer.toNat s
    let s2 := formAlias (imageDigest img (Config.fwSigOff img)) (Config.fwSecVer img)
      (setBoot (fun x => { x with slotB := b, fwVer := v, staged := false }) s1)
    finish (· == .handover) .ok 0 s2

def execLiveFirmwareHandover (s : State) : Result := .next (liveHandover s)

/-! ## Coming up (R218, R336, R474) -/

/-- A command that waited for the DRAM goes on. -/
def dramResume (w : Wait) (s : State) : State :=
  let s1 := setMbx (fun m => { m with waits := m.waits.erase w }) s
  match w.opcode with
  | 0x0110 => bodyMlLoad w.cmd s1
  | 0x0401 => bodyWatchSetup w.cmd s1
  | 0x0501 => bodyKvPoolSetup w.cmd s1
  | _ => bodyKvClose w.cmd s1

/-- What waited for the DRAM polder goes on: the BAR4 accesses, then the commands, each in their order (R336; log 92). -/
def dramWake (s : State) : State := (s.mbx.waits.filter fun w => w.act == .dram).foldl (fun t w => dramResume w t) (barGo s)

/-- POLDER_UP: a polder's power is up; with that of the DRAM goes on what waited for it (R336, R474). -/
def polderUpDone (p at_ : Nat) (s : State) : State :=
  let t := polderComesUp p at_ s
  if p = pDram ∧ polderUp t pDram ∧ !polderUp s pDram then dramWake t else t

def execPolderUp (polder at_ : Nat) (s : State) : Result := .next (polderUpDone polder at_ s)

/-! ## Fencing (R511 to R513) -/

/-- FENCE (R512, R513): F takes the change at the next frame boundary; a persistent one is also written to record 0x0042. -/
def bodyFence (c : Cmd) (s : State) : State :=
  let res := fld c 8 0 0
  let on := fldB c 9 false
  let link := decide (272 ≤ res)
  let keep := fldB c 10 false && !link
  if !resPresent s.part res then fail 0x0B03 c .badParam s
  else if !on && decide (res < 256) && fenced s.seq.fenceNext (256 + res / 16) then fail 0x0B03 c .refused s
  else if !on && link && (linkOf s (res - 272)).phase != .up then fail 0x0B03 c .refused s
  else
    let change (m : BitVec 276) : BitVec 276 := if on then fenceAdd res m else fenceDel res m
    let s1 := setSeq (fun q => { q with fenceNext := change q.fenceNext }) s
    let s2 := if keep then selQueue (fun b => { b with fence := change b.fence }) s1 else s1
    waitFor 0x0B03 c (.fence res on keep false) s2

/-- FENCE_POLICY (Table 19-10). -/
def bodyFencePolicy (c : Cmd) (s : State) : State :=
  let p : FencePol :=
    { winFrames := fld c 63 48 1000, arrLim := fld c 47 32 16, vecLim := fld c 31 16 16, fmueLim := fld c 15 1 4, auto := fldB c 0 true }
  if p.winFrames = 0 ∨ p.arrLim = 0 ∨ p.vecLim = 0 ∨ p.fmueLim = 0 then fail 0x0B04 c .badParam s
  else waitFor 0x0B04 c (.fencePolicy p) s

/-! ## The event log and the counters (R514, R526) -/

/-- LOG_READ: entries from `from_seq` onward, at most `count`, from the volatile ring or the log region; `data` holds the number written. -/
def bodyLogRead (c : Cmd) (s : State) : State :=
  let from_ := BitVec.ofNat 32 (fld c 63 32 0)
  let count := fld c 31 16 0
  let nv := fldB c 0 false
  if count = 0 ∨ 4096 < count then fail 0x0B01 c .badParam s
  else
    let s1 := if nv then (logPages s).foldl (fun t p => nvCheck (pageAddr p) 256 t) s else s
    let all := if nv then nvLog s else s.boot.log.reverse
    let es := (all.filter fun e => !serialGt from_ e.seq).take count
    completeOk 0x0B01 c es.length (hostWrite (fld c 127 64 0) (es.flatMap logEntryBytes) s1)

/-- COUNTER_DUMP: BAR0 0x1000 to 0x1FFF (R526). -/
def bodyCounterDump (c : Cmd) (s : State) : State :=
  completeOk 0x0B02 c 0 (hostWrite (fld c 127 64 0) (bar0Bytes s 0x1000 4096) s)

def execLogRead (c : Cmd) (s : State) : Result := .next (deliver 0x0B01 bodyLogRead c s)
def execCounterDump (c : Cmd) (s : State) : Result := .next (deliver 0x0B02 bodyCounterDump c s)
def execFence (c : Cmd) (s : State) : Result := .next (deliver 0x0B03 bodyFence c s)
def execFencePolicy (c : Cmd) (s : State) : Result := .next (deliver 0x0B04 bodyFencePolicy c s)

/-! ## Record writes and log pages (R348 to R350, R361) -/

/-- What a record that has been written puts into force (R90, R355, R367, R377, R497). -/
def recordInForce (r : RecId) (body : List Byte) (s : State) : State :=
  match r with
  | .calib ch => calWritten ch s
  | .ratios => calWritten 24 s
  | .boot =>
    let last := !s.nv.recQ.any fun e => e.1 == 27
    let s1 := setBoot (fun b => { b with sel := selOf body, staged := b.staged || (last && waiting s (· == .handover)) }) s
    if !last then s1 else setMbx (fun m => { m with waits := m.waits.map fun w => match w.act with
      | .fence res on true done => { w with act := .fence res on false done }
      | _ => w }) s1
  | .chip => identInForce s
  | .store =>
    let was := s.nv.image
    let s1 := setNv (fun v => { v with
      level := (nth body 0 0).toNat % 4
      image := (nth body 1 0).getLsbD 0
      autostore := (nth body 1 0).getLsbD 1 }) s
    if s1.nv.image && !was then imgRecall s1 else s1
  | _ => s

/-- The commands that wait for a record's write: one for each calibration write, all of them where the write carried every earlier change
(R350). -/
def recordDone (r : RecId) (st : Status) (s : State) : State :=
  match r with
  | .calib _ => finishFirst (· == .recWrite r) st 0 s
  | .ratios => finishFirst (· == .recWrite r) st 0 s
  | _ =>
    if s.nv.recQ.any fun e => e.1 == recIndex r then s
    else
      let hand := r == .boot && st != .ok
      finish (fun a => a == .recWrite r || (hand && (a == .handover || (match a with | .fence _ _ true _ => true | _ => false)))) st 0 s

/-- The pages of a record write that have not ended are programmed, from the page buffer and on their planes. -/
def recPagesEnd (x : RecRun) (s : State) : State :=
  let mine (w : NvProg) : Bool := x.left.contains w.seq
  let ws := (s.nv.planes.map Prod.snd).filter mine ++ s.nv.queue.filter mine
  ws.foldl (fun t w => nvWear 1 (nvPut w.bytes t))
    (setNv (fun v => { v with planes := v.planes.filter (fun e => !mine e.2), queue := v.queue.filter fun w => !mine w }) s)

/-- Programs of others run on planes that a record write still needs, or wait before it (R341). -/
def recBlocked (s : State) (x : RecRun) : Bool :=
  !x.left.isEmpty && ((s.nv.planes.any fun e => !x.left.contains e.2.seq) || s.nv.storing.isSome ||
    (match s.nv.queue.head? with | some w => !x.left.contains w.seq | none => false))

/-- RECORD_WRITE: the write of a record that runs is carried out: its pages that have not ended are programmed, unless programs of others come
first, and the target is read back; `oks` says of each attempt whether the read-back passes. After three that do not, the command ends with
INTERNAL and the change is not in force. The next write of the record begins (R341, R348, R350). -/
def recordWrite (r : RecId) (oks : List Bool) (s : State) : State :=
  if s.nv.powerFail || !feAlive s then s
  else match s.nv.recRun.find? fun x => x.k == recIndex r with
  | none => s
  | some x =>
    if recBlocked s x then s
    else
      let s0 := recPagesEnd x (setNv (fun v => { v with recQ := v.recQ.erase (x.k, x.body), recRun := v.recRun.erase x }) s)
      let (ok, s1) := recAttempts x.k x.copyB x.seq x.body oks s0
      let s2 := if ok then recordDone r .ok (recordInForce r x.body s1) else recordDone r .internal (calFailed x.k s1)
      ctrGoAll (recStart x.k (nvPump 2048 (nvServeReads s2)))

def execRecordWrite (r : RecId) (readBackOk : List Bool) (s : State) : Result := .next (recordWrite r readBackOk s)

/-- LOG_PAGE_PROGRAM: a page takes every entry that is pending, and is to be programmed (R341, R361). -/
def logPageProgram (s : State) : State :=
  if s.nv.powerFail || !feAlive s || s.nv.logPend.isEmpty then s
  else
    let bs := s.nv.logPend.flatMap logEntryBytes
    let page := bs ++ List.replicate (256 - bs.length) 0xFF#8
    nvSubmit s.nv.logPage (placed (pageAddr s.nv.logPage) page) (setNv (fun v => { v with
      logPend := []
      logPage := if 767 ≤ v.logPage then 288 else v.logPage + 1 }) s)

def execLogPageProgram (s : State) : Result := .next (logPageProgram s)

end Sys2Proof.Machine
end

