-- ==== Sys2Proof/Machine/Doorbell.lean ====
section
/-! DEFINITION. The doorbell, which reads a command slot from BAR2 and starts the command that its opcode names (R430 to R434,
R441), and a register write at any offset of BAR0 (R427, R517, Table 20-1). -/

namespace Sys2Proof.Machine

/-! ## The command slot as the device reads it -/

/-- The 256 bytes of slot n as one number, bit n of it being bit (n mod 8) of byte n / 8 (R430, R431). -/
def slotNat (s : State) (n : Nat) : Nat := leNat (memReadN 0 s.mbx.slots (256 * n) 256)

/-- The opcode in slot n's header (Table 16-4). -/
def slotOpcode (s : State) (n : Nat) : Nat := bitsN (slotNat s n) 31 16

/-- The header fields and the parameter block of slot n (Table 16-4, R430). -/
def slotCmd (s : State) (n : Nat) : Cmd :=
  let w := slotNat s n
  { slot := n
    cookie := BitVec.ofNat 64 (bitsN w 255 192)
    quiet := w.testBit 1
    crcEn := w.testBit 0
    pcrc := BitVec.ofNat 32 (bitsN w 191 160)
    paramLen := bitsN w 143 128
    params := BitVec.ofNat 1792 (bitsN w 2047 256) }

/-! ## What each opcode starts, by group (Table 16-9) -/

/-- Opcodes of group 0x00; none where the table has no such row. -/
def bodyServiceGroup (op : Nat) : Option (Cmd → State → State) :=
  match op with
  | 0x0001 => some bodyHello
  | 0x0002 => some bodyEcho
  | 0x0003 => some bodyDevInfo
  | 0x0004 => some bodyDevStatus
  | 0x0005 => some bodyCmdIndex
  | 0x0006 => some bodyDevReset
  | _ => none

/-- Opcodes of group 0x01; none where the table has no such row. -/
def bodyFirmwareGroup (op : Nat) : Option (Cmd → State → State) :=
  match op with
  | 0x0101 => some bodyFwInfo
  | 0x0102 => some bodyFwWrite
  | 0x0103 => some bodyFwVerify
  | 0x0104 => some bodyFwActivate
  | 0x0105 => some bodyFwConfirm
  | 0x0110 => some bodyMlLoad
  | 0x0111 => some bodyMlStart
  | 0x0112 => some bodyMlStop
  | 0x0113 => some bodyMlStatus
  | _ => none

/-- Opcodes of group 0x02; none where the table has no such row. -/
def bodyTickGroup (op : Nat) : Option (Cmd → State → State) :=
  match op with
  | 0x0201 => some bodyTickSetSource
  | 0x0202 => some bodyTringSetup
  | 0x0203 => some bodyTringStop
  | 0x0204 => some bodyTickForceFallback
  | 0x0205 => some bodyTickCounters
  | 0x0206 => some bodyDiceSeed
  | _ => none

/-- Opcodes of group 0x03; none where the table has no such row. -/
def bodyFrontEndGroup (op : Nat) : Option (Cmd → State → State) :=
  match op with
  | 0x0301 => some bodyFeRoute
  | 0x0302 => some bodyFeSource
  | 0x0303 => some bodyFeRange
  | 0x0304 => some bodyFeCmWindow
  | 0x0305 => some bodyFeCurve
  | 0x0306 => some bodyFeCalRead
  | 0x0307 => some bodyFeCalWrite
  | 0x0308 => some bodyFeStatus
  | 0x0309 => some bodyChChain
  | 0x030A => some bodyChEvent
  | 0x030B => some bodyChFirLoad
  | 0x030C => some bodyChFirSwap
  | 0x030D => some bodyChFirAbort
  | 0x030E => some bodyApply
  | 0x030F => some bodyDiscard
  | 0x0310 => some bodyChReset
  | 0x0311 => some bodyChState
  | _ => none

/-- Opcodes of group 0x04; none where the table has no such row. -/
def bodyWatchGroup (op : Nat) : Option (Cmd → State → State) :=
  match op with
  | 0x0401 => some bodyWatchSetup
  | 0x0402 => some bodyWatchStart
  | 0x0403 => some bodyWatchStop
  | 0x0404 => some bodyWatchFreeze
  | 0x0405 => some bodyWatchThaw
  | 0x0406 => some bodyWatchParams
  | 0x0407 => some bodyWatchRelearn
  | 0x0408 => some bodyWatchRollback
  | 0x0409 => some bodyWatchStatus
  | 0x040A => some bodyWatchExport
  | 0x040B => some bodyWatchImport
  | 0x040C => some bodyWatchReportRing
  | _ => none

/-- Opcodes of group 0x05; none where the table has no such row. -/
def bodyKvGroup (op : Nat) : Option (Cmd → State → State) :=
  match op with
  | 0x0501 => some bodyKvPoolSetup
  | 0x0502 => some bodyKvOpen
  | 0x0503 => some bodyKvClose
  | 0x0504 => some bodyKvAppend
  | 0x0505 => some bodyKvRefill
  | 0x0506 => some bodyKvStatus
  | 0x0510 => some bodyAttnRun
  | 0x0511 => some bodyAttnCancel
  | 0x0512 => some bodyAttnInfo
  | _ => none

/-- Opcodes of group 0x06; none where the table has no such row. -/
def bodyNvGroup (op : Nat) : Option (Cmd → State → State) :=
  match op with
  | 0x0601 => some bodyNvRead
  | 0x0602 => some bodyNvWrite
  | 0x0603 => some bodyNvStatus
  | 0x0604 => some bodyNvCtr
  | 0x0605 => some bodyNvProtect
  | 0x0606 => some bodyNvMode
  | 0x0607 => some bodyNvImgStore
  | 0x0608 => some bodyNvImgRecall
  | _ => none

/-- Opcodes of group 0x07; none where the table has no such row. -/
def bodyLinkGroup (op : Nat) : Option (Cmd → State → State) :=
  match op with
  | 0x0701 => some bodyLinkIdent
  | 0x0702 => some bodyLinkState
  | 0x0703 => some bodyLinkAdmin
  | 0x0704 => some bodyLinkMaster
  | 0x0705 => some bodyLinkPing
  | _ => none

/-- Opcodes of group 0x08; none where the table has no such row. -/
def bodyFieldBusGroup (op : Nat) : Option (Cmd → State → State) :=
  match op with
  | 0x0801 => some bodyFbPort
  | 0x0802 => some bodyFbFilter
  | 0x0803 => some bodyFbReports
  | 0x0804 => some bodyFbSend
  | 0x0805 => some bodyFbRxRing
  | 0x0806 => some bodyFbStatus
  | 0x0807 => some bodyHoConfig
  | 0x0808 => some bodyHoStatus
  | _ => none

/-- Opcodes of group 0x09; none where the table has no such row. -/
def bodyPowerGroup (op : Nat) : Option (Cmd → State → State) :=
  match op with
  | 0x0901 => some bodyPwrStatus
  | 0x0902 => some bodyPwrGovernor
  | _ => none

/-- Opcodes of group 0x0A; none where the table has no such row. -/
def bodyTrustGroup (op : Nat) : Option (Cmd → State → State) :=
  match op with
  | 0x0A01 => some bodyTrustEnrol
  | 0x0A02 => some bodyTrustCerts
  | 0x0A03 => some bodyTrustStatus
  | 0x0A04 => some bodyTrustArbRaise
  | 0x0A05 => some bodyTrustDebug
  | _ => none

/-- Opcodes of group 0x0B; none where the table has no such row. -/
def bodyLogGroup (op : Nat) : Option (Cmd → State → State) :=
  match op with
  | 0x0B01 => some bodyLogRead
  | 0x0B02 => some bodyCounterDump
  | 0x0B03 => some bodyFence
  | 0x0B04 => some bodyFencePolicy
  | _ => none

/-- What an opcode of Table 16-9 starts; none for every other opcode. -/
def bodyOf (op : Nat) : Option (Cmd → State → State) :=
  match op / 256 with
  | 0x00 => bodyServiceGroup op
  | 0x01 => bodyFirmwareGroup op
  | 0x02 => bodyTickGroup op
  | 0x03 => bodyFrontEndGroup op
  | 0x04 => bodyWatchGroup op
  | 0x05 => bodyKvGroup op
  | 0x06 => bodyNvGroup op
  | 0x07 => bodyLinkGroup op
  | 0x08 => bodyFieldBusGroup op
  | 0x09 => bodyPowerGroup op
  | 0x0A => bodyTrustGroup op
  | 0x0B => bodyLogGroup op
  | _ => none

/-- MBX_DOORBELL: the named slot passes to the device, which reads it whole, once, and starts its command. A doorbell for a slot
that the device owns is ignored and counted; an opcode outside Table 16-9 completes with BAD_OPCODE (R433, R441). -/
def doorbell (v : W32) (s : State) : State :=
  let n := v.toNat % 64
  let op := slotOpcode s n
  let c := slotCmd s n
  match bodyOf op with
  | some body => deliver op body c s
  | none =>
    if computeDown s then s
    else if owned s n then bump cMbxBadDb s
    else fail op c .badOpcode (takeSlot n s)

def execMbxDoorbell (v : W32) (s : State) : Result := .next (doorbell v s)

/-! ## Register writes (R517, Table 20-1) -/

/-- A write of the MSI-X table: the vector-control word masks or unmasks its vector, which sends a pending message; every other
byte is stored (Table 20-1: as PCIe defines). -/
def msixTableWrite (off : Nat) (v : W32) (s : State) : State :=
  if off % 16 = 12 then
    let n := (off - 0x8000) / 16
    if v.getLsbD 0 then
      setMbx (fun m => { m with msix := { m.msix with unmasked := m.msix.unmasked &&& ~~~(1#64 <<< n) } }) s
    else msixUnmask (some n) s
  else
    setMbx (fun m => { m with msix := { m.msix with table := memWriteN 0 m.msix.table (off - 0x8000) (leBytes 4 v.toNat) } }) s

/-- A write of one 32-bit register. Read-only and reserved offsets ignore it (R4). -/
def writeWord (off : Nat) (v : W32) (s : State) : State :=
  if off = 0x108 then errSumWrite v s
  else if off = 0x110 then intStatusWrite v s
  else if off = 0x118 then intEnableWrite v s
  else if off = 0x200 then doorbell v s
  else if off = 0x204 then mbxCqCons v s
  else if off = 0x280 then ringConsWrite .tick v s
  else if off = 0x288 then ringConsWrite .report v s
  else if off = 0x290 then ringConsWrite .rx v s
  else if 0x8000 ≤ off ∧ off < 0x8400 then msixTableWrite off v s
  else s

/-- A write of one 64-bit register or word of MBX_CQ, whole or one half of it; none where `off` lies in no such register. -/
def writeWide (off : Nat) (p : WPart) (v : W64) (s : State) : Option State :=
  let b := off / 8 * 8
  if 0x220 ≤ b ∧ b < 0x240 then some (mbxCqWrite ((b - 0x220) / 8) p v s)
  else if b = 0x240 then some (winBaseWrite p v s)
  else if b = 0x300 then some (tsqWrite p v s)
  else none

/-- A register write of 4 or 8 bytes that BAR0 accepts: an 8-byte write of two 32-bit registers writes the lower one first. -/
def registerPut (off size : Nat) (v : W64) (s : State) : State :=
  let part : WPart := if size = 8 then .both else if off % 8 = 0 then .lo else .hi
  match writeWide off part v s with
  | some t => t
  | none =>
    let t := writeWord off (v.setWidth 32) s
    if size = 8 then writeWord (off + 4) ((v >>> 32).setWidth 32) t else t

/-- A host write of BAR0: a poisoned one is dropped and reported (R427), one of another width, misaligned or with a partial byte-enable
pattern is dropped and counted (R517). -/
def registerWrite (off size : Nat) (v : W64) (partialBe poisoned : Bool) (s : State) : State :=
  if computeDown s then s
  else if poisoned then aerReport s
  else if partialBe || !accessOk off size then bump cRegBadWr s
  else registerPut off size v s

def execRegisterWrite (off size : Nat) (v : W64) (partialBe poisoned : Bool) (s : State) : Result :=
  .next (registerWrite off size v partialBe poisoned s)

end Sys2Proof.Machine
end

