-- ==== Sys2Proof/Machine/Dispatch.lean ====
section
/-! DEFINITION. One arm per command: a direct call of its meaning. -/

namespace Sys2Proof.Machine

/-- A command's effect on everything but the queue. -/
def exec (i : Instr) (s : State) : Host.Outcome State Fault Refusal :=
  match i with
  | .hello c => Sys2Proof.Machine.execHello c s
  | .echo c => Sys2Proof.Machine.execEcho c s
  | .devInfo c => Sys2Proof.Machine.execDevInfo c s
  | .devStatus c => Sys2Proof.Machine.execDevStatus c s
  | .cmdIndex c => Sys2Proof.Machine.execCmdIndex c s
  | .devReset c => Sys2Proof.Machine.execDevReset c s
  | .fwInfo c => Sys2Proof.Machine.execFwInfo c s
  | .fwWrite c => Sys2Proof.Machine.execFwWrite c s
  | .fwVerify c => Sys2Proof.Machine.execFwVerify c s
  | .fwActivate c => Sys2Proof.Machine.execFwActivate c s
  | .fwConfirm c => Sys2Proof.Machine.execFwConfirm c s
  | .liveFirmwareHandover => Sys2Proof.Machine.execLiveFirmwareHandover s
  | .mlLoad c => Sys2Proof.Machine.execMlLoad c s
  | .mlStart c => Sys2Proof.Machine.execMlStart c s
  | .mlStop c => Sys2Proof.Machine.execMlStop c s
  | .mlStatus c => Sys2Proof.Machine.execMlStatus c s
  | .tickSetSource c => Sys2Proof.Machine.execTickSetSource c s
  | .tringSetup c => Sys2Proof.Machine.execTringSetup c s
  | .tringStop c => Sys2Proof.Machine.execTringStop c s
  | .tickForceFallback c => Sys2Proof.Machine.execTickForceFallback c s
  | .tickCounters c => Sys2Proof.Machine.execTickCounters c s
  | .diceSeed c => Sys2Proof.Machine.execDiceSeed c s
  | .feRoute c => Sys2Proof.Machine.execFeRoute c s
  | .feSource c => Sys2Proof.Machine.execFeSource c s
  | .feRange c => Sys2Proof.Machine.execFeRange c s
  | .feCmWindow c => Sys2Proof.Machine.execFeCmWindow c s
  | .feCurve c => Sys2Proof.Machine.execFeCurve c s
  | .feCalRead c => Sys2Proof.Machine.execFeCalRead c s
  | .feCalWrite c => Sys2Proof.Machine.execFeCalWrite c s
  | .feStatus c => Sys2Proof.Machine.execFeStatus c s
  | .chChain c => Sys2Proof.Machine.execChChain c s
  | .chEvent c => Sys2Proof.Machine.execChEvent c s
  | .chFirLoad c => Sys2Proof.Machine.execChFirLoad c s
  | .chFirSwap c => Sys2Proof.Machine.execChFirSwap c s
  | .chFirAbort c => Sys2Proof.Machine.execChFirAbort c s
  | .applySet c => Sys2Proof.Machine.execApplySet c s
  | .discardSet c => Sys2Proof.Machine.execDiscardSet c s
  | .chReset c => Sys2Proof.Machine.execChReset c s
  | .chState c => Sys2Proof.Machine.execChState c s
  | .watchSetup c => Sys2Proof.Machine.execWatchSetup c s
  | .watchStart c => Sys2Proof.Machine.execWatchStart c s
  | .watchStop c => Sys2Proof.Machine.execWatchStop c s
  | .watchFreeze c => Sys2Proof.Machine.execWatchFreeze c s
  | .watchThaw c => Sys2Proof.Machine.execWatchThaw c s
  | .watchParams c => Sys2Proof.Machine.execWatchParams c s
  | .watchRelearn c => Sys2Proof.Machine.execWatchRelearn c s
  | .watchRollback c => Sys2Proof.Machine.execWatchRollback c s
  | .watchStatus c => Sys2Proof.Machine.execWatchStatus c s
  | .watchExport c => Sys2Proof.Machine.execWatchExport c s
  | .watchImport c => Sys2Proof.Machine.execWatchImport c s
  | .watchReportRing c => Sys2Proof.Machine.execWatchReportRing c s
  | .kvPoolSetup c => Sys2Proof.Machine.execKvPoolSetup c s
  | .kvOpen c => Sys2Proof.Machine.execKvOpen c s
  | .kvClose c => Sys2Proof.Machine.execKvClose c s
  | .kvAppend c => Sys2Proof.Machine.execKvAppend c s
  | .kvRefill c => Sys2Proof.Machine.execKvRefill c s
  | .kvStatus c => Sys2Proof.Machine.execKvStatus c s
  | .attnRun c => Sys2Proof.Machine.execAttnRun c s
  | .attnCancel c => Sys2Proof.Machine.execAttnCancel c s
  | .attnInfo c => Sys2Proof.Machine.execAttnInfo c s
  | .nvRead c => Sys2Proof.Machine.execNvRead c s
  | .nvWrite c => Sys2Proof.Machine.execNvWrite c s
  | .nvStatus c => Sys2Proof.Machine.execNvStatus c s
  | .nvCtr c => Sys2Proof.Machine.execNvCtr c s
  | .nvProtect c => Sys2Proof.Machine.execNvProtect c s
  | .nvMode c => Sys2Proof.Machine.execNvMode c s
  | .nvImgStore c => Sys2Proof.Machine.execNvImgStore c s
  | .nvImgRecall c => Sys2Proof.Machine.execNvImgRecall c s
  | .linkIdent c => Sys2Proof.Machine.execLinkIdent c s
  | .linkState c => Sys2Proof.Machine.execLinkState c s
  | .linkAdmin c => Sys2Proof.Machine.execLinkAdmin c s
  | .linkMaster c => Sys2Proof.Machine.execLinkMaster c s
  | .linkPing c => Sys2Proof.Machine.execLinkPing c s
  | .fbPort c => Sys2Proof.Machine.execFbPort c s
  | .fbFilter c => Sys2Proof.Machine.execFbFilter c s
  | .fbReports c => Sys2Proof.Machine.execFbReports c s
  | .fbSend c => Sys2Proof.Machine.execFbSend c s
  | .fbRxRing c => Sys2Proof.Machine.execFbRxRing c s
  | .fbStatus c => Sys2Proof.Machine.execFbStatus c s
  | .hoConfig c => Sys2Proof.Machine.execHoConfig c s
  | .hoStatus c => Sys2Proof.Machine.execHoStatus c s
  | .pwrStatus c => Sys2Proof.Machine.execPwrStatus c s
  | .pwrGovernor c => Sys2Proof.Machine.execPwrGovernor c s
  | .trustEnrol c => Sys2Proof.Machine.execTrustEnrol c s
  | .trustCerts c => Sys2Proof.Machine.execTrustCerts c s
  | .trustStatus c => Sys2Proof.Machine.execTrustStatus c s
  | .trustArbRaise c => Sys2Proof.Machine.execTrustArbRaise c s
  | .trustDebug c => Sys2Proof.Machine.execTrustDebug c s
  | .logRead c => Sys2Proof.Machine.execLogRead c s
  | .counterDump c => Sys2Proof.Machine.execCounterDump c s
  | .fence c => Sys2Proof.Machine.execFence c s
  | .fencePolicy c => Sys2Proof.Machine.execFencePolicy c s
  | .getVersion => Sys2Proof.Machine.execGetVersion s
  | .getCapabilities => Sys2Proof.Machine.execGetCapabilities s
  | .negotiateAlgorithms p384 sha384 => Sys2Proof.Machine.execNegotiateAlgorithms p384 sha384 s
  | .getDigests => Sys2Proof.Machine.execGetDigests s
  | .getCertificate slot offset length => Sys2Proof.Machine.execGetCertificate slot offset length s
  | .challenge slot nonce => Sys2Proof.Machine.execChallenge slot nonce s
  | .getMeasurements index nonce => Sys2Proof.Machine.execGetMeasurements index nonce s
  | .smbStage => Sys2Proof.Machine.execSmbStage s
  | .smbIdent => Sys2Proof.Machine.execSmbIdent s
  | .smbSerial => Sys2Proof.Machine.execSmbSerial s
  | .smbStatus => Sys2Proof.Machine.execSmbStatus s
  | .smbTick => Sys2Proof.Machine.execSmbTick s
  | .smbHealth => Sys2Proof.Machine.execSmbHealth s
  | .smbAvail => Sys2Proof.Machine.execSmbAvail s
  | .smbPower => Sys2Proof.Machine.execSmbPower s
  | .smbOwner => Sys2Proof.Machine.execSmbOwner s
  | .mbxDoorbell v => Sys2Proof.Machine.execMbxDoorbell v s
  | .completionPost => Sys2Proof.Machine.execCompletionPost s
  | .mbxCq word part v => Sys2Proof.Machine.execMbxCq word part v s
  | .mbxCqCons v => Sys2Proof.Machine.execMbxCqCons v s
  | .ringConsumerWrite ring v => Sys2Proof.Machine.execRingConsumerWrite ring v s
  | .winBase part v => Sys2Proof.Machine.execWinBase part v s
  | .bar4Read off len => Sys2Proof.Machine.execBar4Read off len s
  | .bar4Write off data enable poisoned => Sys2Proof.Machine.execBar4Write off data enable poisoned s
  | .errSum v => Sys2Proof.Machine.execErrSum v s
  | .intStatus v => Sys2Proof.Machine.execIntStatus v s
  | .intEnable v => Sys2Proof.Machine.execIntEnable v s
  | .tsqCtl part v => Sys2Proof.Machine.execTsqCtl part v s
  | .latchingRead off size => Sys2Proof.Machine.execLatchingRead off size s
  | .registerWrite off size v partialBe poisoned => Sys2Proof.Machine.execRegisterWrite off size v partialBe poisoned s
  | .tickEdge inp => Sys2Proof.Machine.execTickEdge inp s
  | .slotStart k => Sys2Proof.Machine.execSlotStart k s
  | .feSummaryDelivery chans => Sys2Proof.Machine.execFeSummaryDelivery chans s
  | .sampleDeadline lateFine => Sys2Proof.Machine.execSampleDeadline lateFine s
  | .fineWindow => Sys2Proof.Machine.execFineWindow s
  | .moveIssue r at_ => Sys2Proof.Machine.execMoveIssue r at_ s
  | .syncWaitSatisfied key at_ => Sys2Proof.Machine.execSyncWaitSatisfied key at_ s
  | .moveDelayedStart key at_ => Sys2Proof.Machine.execMoveDelayedStart key at_ s
  | .moveComplete key at_ => Sys2Proof.Machine.execMoveComplete key at_ s
  | .mm unit o x => Sys2Proof.Machine.execMm unit o x s
  | .mmt unit o x => Sys2Proof.Machine.execMmt unit o x s
  | .tload unit o x => Sys2Proof.Machine.execTload unit o x s
  | .drain unit o x => Sys2Proof.Machine.execDrain unit o x s
  | .azero unit half ty => Sys2Proof.Machine.execAzero unit half ty s
  | .vadd field o x => Sys2Proof.Machine.execVadd field o x s
  | .vsub field o x => Sys2Proof.Machine.execVsub field o x s
  | .vmul field o x => Sys2Proof.Machine.execVmul field o x s
  | .vfma field o x => Sys2Proof.Machine.execVfma field o x s
  | .vscale field o x => Sys2Proof.Machine.execVscale field o x s
  | .vmax field o x => Sys2Proof.Machine.execVmax field o x s
  | .vmin field o x => Sys2Proof.Machine.execVmin field o x s
  | .vabs field o x => Sys2Proof.Machine.execVabs field o x s
  | .vclamp field o x => Sys2Proof.Machine.execVclamp field o x s
  | .vcvt field o x => Sys2Proof.Machine.execVcvt field o x s
  | .vcmp field o x => Sys2Proof.Machine.execVcmp field o x s
  | .vsel field o x => Sys2Proof.Machine.execVsel field o x s
  | .vtrn field o x => Sys2Proof.Machine.execVtrn field o x s
  | .vdiv field o x => Sys2Proof.Machine.execVdiv field o x s
  | .vsqrt field o x => Sys2Proof.Machine.execVsqrt field o x s
  | .vrcp field o x => Sys2Proof.Machine.execVrcp field o x s
  | .vrsqrt field o x => Sys2Proof.Machine.execVrsqrt field o x s
  | .vexp field o x => Sys2Proof.Machine.execVexp field o x s
  | .vlog field o x => Sys2Proof.Machine.execVlog field o x s
  | .vtanh field o x => Sys2Proof.Machine.execVtanh field o x s
  | .vsigm field o x => Sys2Proof.Machine.execVsigm field o x s
  | .vgelu field o x => Sys2Proof.Machine.execVgelu field o x s
  | .vsilu field o x => Sys2Proof.Machine.execVsilu field o x s
  | .vsin field o x => Sys2Proof.Machine.execVsin field o x s
  | .vcos field o x => Sys2Proof.Machine.execVcos field o x s
  | .vrsum field o x => Sys2Proof.Machine.execVrsum field o x s
  | .vrmax field o x => Sys2Proof.Machine.execVrmax field o x s
  | .vrmin field o x => Sys2Proof.Machine.execVrmin field o x s
  | .vrssq field o x => Sys2Proof.Machine.execVrssq field o x s
  | .vargmax field o x => Sys2Proof.Machine.execVargmax field o x s
  | .vlnorm field o x => Sys2Proof.Machine.execVlnorm field o x s
  | .vrmsn field o x => Sys2Proof.Machine.execVrmsn field o x s
  | .vsmax field o x => Sys2Proof.Machine.execVsmax field o x s
  | .vadam field o x => Sys2Proof.Machine.execVadam field o x s
  | .dma field o x => Sys2Proof.Machine.execDma field o x s
  | .dmaOwnedAccess field => Sys2Proof.Machine.execDmaOwnedAccess field s
  | .linkRsv link o at_ => Sys2Proof.Machine.execLinkRsv link o at_ s
  | .pwrUp polder => Sys2Proof.Machine.execPwrUp polder s
  | .pwrDown polder at_ => Sys2Proof.Machine.execPwrDown polder at_ s
  | .bankSet field mask req at_ => Sys2Proof.Machine.execBankSet field mask req at_ s
  | .signal obj n => Sys2Proof.Machine.execSignal obj n s
  | .barrier engine obj tgt at_ => Sys2Proof.Machine.execBarrier engine obj tgt at_ s
  | .step window at_ => Sys2Proof.Machine.execStep window at_ s
  | .gather field o x => Sys2Proof.Machine.execGather field o x s
  | .gatherD field o x => Sys2Proof.Machine.execGatherD field o x s
  | .gatherDFinalSignal field => Sys2Proof.Machine.execGatherDFinalSignal field s
  | .scatter field o x => Sys2Proof.Machine.execScatter field o x s
  | .scatterAdd field o x => Sys2Proof.Machine.execScatterAdd field o x s
  | .segReduce field o x => Sys2Proof.Machine.execSegReduce field o x s
  | .scan field o x => Sys2Proof.Machine.execScan field o x s
  | .sinter field o x => Sys2Proof.Machine.execSinter field o x s
  | .sunion field o x => Sys2Proof.Machine.execSunion field o x s
  | .sdiff field o x => Sys2Proof.Machine.execSdiff field o x s
  | .hprobe field o x => Sys2Proof.Machine.execHprobe field o x s
  | .hinsert field o x => Sys2Proof.Machine.execHinsert field o x s
  | .hclear field o x => Sys2Proof.Machine.execHclear field o x s
  | .gbucket field o x => Sys2Proof.Machine.execGbucket field o x s
  | .gplace field o x => Sys2Proof.Machine.execGplace field o x s
  | .nbr field o x => Sys2Proof.Machine.execNbr field o x s
  | .twalk field o x => Sys2Proof.Machine.execTwalk field o x s
  | .setBudgetEnd e => Sys2Proof.Machine.execSetBudgetEnd e s
  | .commitPoint => Sys2Proof.Machine.execCommitPoint s
  | .healthPathChoice => Sys2Proof.Machine.execHealthPathChoice s
  | .holdExpiry output => Sys2Proof.Machine.execHoldExpiry output s
  | .hoPeriodStart output => Sys2Proof.Machine.execHoPeriodStart output s
  | .frameBoundary => Sys2Proof.Machine.execFrameBoundary s
  | .healthStatePost => Sys2Proof.Machine.execHealthStatePost s
  | .frameDataPost => Sys2Proof.Machine.execFrameDataPost s
  | .scheduleChange => Sys2Proof.Machine.execScheduleChange s
  | .tickInEdge err => Sys2Proof.Machine.execTickInEdge err s
  | .sourceLoss => Sys2Proof.Machine.execSourceLoss s
  | .holdoverExit => Sys2Proof.Machine.execHoldoverExit s
  | .tickMarkerRx link m => Sys2Proof.Machine.execTickMarkerRx link m s
  | .parentMarkerMissing => Sys2Proof.Machine.execParentMarkerMissing s
  | .feFreeRunTick inp => Sys2Proof.Machine.execFeFreeRunTick inp s
  | .computeDownDetect => Sys2Proof.Machine.execComputeDownDetect s
  | .fineOutput ch samples => Sys2Proof.Machine.execFineOutput ch samples s
  | .eventActivate ch ev => Sys2Proof.Machine.execEventActivate ch ev s
  | .eventDeactivate ch ev => Sys2Proof.Machine.execEventDeactivate ch ev s
  | .detectorsStart ch => Sys2Proof.Machine.execDetectorsStart ch s
  | .autoRangeUp ch magUv sample => Sys2Proof.Machine.execAutoRangeUp ch magUv sample s
  | .autoRangeDown ch => Sys2Proof.Machine.execAutoRangeDown ch s
  | .rangeTransientEnd ch => Sys2Proof.Machine.execRangeTransientEnd ch s
  | .cmFaultEnter ch => Sys2Proof.Machine.execCmFaultEnter ch s
  | .cmFaultExit ch => Sys2Proof.Machine.execCmFaultExit ch s
  | .sourceCurrentLimit src reached => Sys2Proof.Machine.execSourceCurrentLimit src reached s
  | .chopReversal src => Sys2Proof.Machine.execChopReversal src s
  | .applyTakesEffect => Sys2Proof.Machine.execApplyTakesEffect s
  | .synchronisingReset ch cause => Sys2Proof.Machine.execSynchronisingReset ch cause s
  | .firSwapStart ch => Sys2Proof.Machine.execFirSwapStart ch s
  | .firFadeEnd ch => Sys2Proof.Machine.execFirFadeEnd ch s
  | .firAbortEffect ch => Sys2Proof.Machine.execFirAbortEffect ch s
  | .calibrationEffect => Sys2Proof.Machine.execCalibrationEffect s
  | .fePowerOn => Sys2Proof.Machine.execFePowerOn s
  | .powerFailDetect => Sys2Proof.Machine.execPowerFailDetect s
  | .supplyReturn => Sys2Proof.Machine.execSupplyReturn s
  | .perstNAssert => Sys2Proof.Machine.execPerstNAssert s
  | .perstNDeassert => Sys2Proof.Machine.execPerstNDeassert s
  | .functionLevelReset => Sys2Proof.Machine.execFunctionLevelReset s
  | .railFault => Sys2Proof.Machine.execRailFault s
  | .thermalTrip tj ic => Sys2Proof.Machine.execThermalTrip tj ic s
  | .watchdogExpiry core at_ => Sys2Proof.Machine.execWatchdogExpiry core at_ s
  | .extestSelect selected => Sys2Proof.Machine.execExtestSelect selected s
  | .computeDieStart => Sys2Proof.Machine.execComputeDieStart s
  | .dramTrainingEnd failed density => Sys2Proof.Machine.execDramTrainingEnd failed density s
  | .dramClearEnd => Sys2Proof.Machine.execDramClearEnd s
  | .syncStage => Sys2Proof.Machine.execSyncStage s
  | .powerUpGrant at_ => Sys2Proof.Machine.execPowerUpGrant at_ s
  | .polderUp polder at_ => Sys2Proof.Machine.execPolderUp polder at_ s
  | .bankReady field bank at_ => Sys2Proof.Machine.execBankReady field bank at_ s
  | .sluiceClosed polder at_ => Sys2Proof.Machine.execSluiceClosed polder at_ s
  | .powerDownAbandon polder at_ => Sys2Proof.Machine.execPowerDownAbandon polder at_ s
  | .dramRefresh chan bank => Sys2Proof.Machine.execDramRefresh chan bank s
  | .patrolScrub line => Sys2Proof.Machine.execPatrolScrub line s
  | .fmCeRewrite field => Sys2Proof.Machine.execFmCeRewrite field s
  | .linkTraining link r => Sys2Proof.Machine.execLinkTraining link r s
  | .retrainTimer link => Sys2Proof.Machine.execRetrainTimer link s
  | .linkDown link cause => Sys2Proof.Machine.execLinkDown link cause s
  | .linkUnfence link => Sys2Proof.Machine.execLinkUnfence link s
  | .linkStateFloodRx chip link w => Sys2Proof.Machine.execLinkStateFloodRx chip link w s
  | .planIdRx link plan => Sys2Proof.Machine.execPlanIdRx link plan s
  | .flitRx link f => Sys2Proof.Machine.execFlitRx link f s
  | .linkAckRx link count missing => Sys2Proof.Machine.execLinkAckRx link count missing s
  | .creditRx link cls n => Sys2Proof.Machine.execCreditRx link cls n s
  | .flitSlot link slot => Sys2Proof.Machine.execFlitSlot link slot s
  | .fbFrameRx port f => Sys2Proof.Machine.execFbFrameRx port f s
  | .gptpLoss port => Sys2Proof.Machine.execGptpLoss port s
  | .fbTransmitOpportunity port r => Sys2Proof.Machine.execFbTransmitOpportunity port r s
  | .nvProgramEnd e => Sys2Proof.Machine.execNvProgramEnd e s
  | .recordWrite r readBackOk => Sys2Proof.Machine.execRecordWrite r readBackOk s
  | .logPageProgram => Sys2Proof.Machine.execLogPageProgram s
  | .operatingMinute => Sys2Proof.Machine.execOperatingMinute s
  | .imageStoreEnd => Sys2Proof.Machine.execImageStoreEnd s
  | .watchTransition regime delay => Sys2Proof.Machine.execWatchTransition regime delay s
  | .trainingTrigger job => Sys2Proof.Machine.execTrainingTrigger job s
  | .evaluationTrigger job => Sys2Proof.Machine.execEvaluationTrigger job s
  | .promotion => Sys2Proof.Machine.execPromotion s
  | .watchFadeStart => Sys2Proof.Machine.execWatchFadeStart s
  | .watchFadeEnd => Sys2Proof.Machine.execWatchFadeEnd s
  | .conditionReport cause => Sys2Proof.Machine.execConditionReport cause s
  | .envelopeSigned => Sys2Proof.Machine.execEnvelopeSigned s
  | .serve job => Sys2Proof.Machine.execServe job s
  | .serveEnd job => Sys2Proof.Machine.execServeEnd job s
  | .pageFlush seq layer => Sys2Proof.Machine.execPageFlush seq layer s
  | .refillTicketDone => Sys2Proof.Machine.execRefillTicketDone s
  | .compaction job => Sys2Proof.Machine.execCompaction job s
  | .hostReadCompletion xfer off data poison => Sys2Proof.Machine.execHostReadCompletion xfer off data poison s
  | .bar2Write off data poisoned => Sys2Proof.Machine.execBar2Write off data poisoned s
  | .msixVectorUnmask vec => Sys2Proof.Machine.execMsixVectorUnmask vec s
  | .dramTemperatureReport hot => Sys2Proof.Machine.execDramTemperatureReport hot s
  | .vexcToleranceChange ok => Sys2Proof.Machine.execVexcToleranceChange ok s
  | .vhoToleranceChange ok => Sys2Proof.Machine.execVhoToleranceChange ok s
  | .frontEndSupplyCollapse => Sys2Proof.Machine.execFrontEndSupplyCollapse s
  | .plcaStatusChange port status => Sys2Proof.Machine.execPlcaStatusChange port status s
  | .linkAdminDownEntry => Sys2Proof.Machine.execLinkAdminDownEntry s
  | .fwStartStage => Sys2Proof.Machine.execFwStartStage s
  | .bootFlashExternalWrite slot off data => Sys2Proof.Machine.execBootFlashExternalWrite slot off data s
  | .smbusRejectedTransaction write code => Sys2Proof.Machine.execSmbusRejectedTransaction write code s

end Sys2Proof.Machine
end

