-- ==== Sys2Proof/Safety.lean ====
section
/-! DEFINITION. The terms in which the statements speak: steps, the rows of the mailbox, a command slot that the device has taken, what the
moves of an engine compute, and the invariant that every run keeps. -/

namespace Sys2Proof.Safety

/-- One step that answers a next state. -/
def Steps (s t : Machine.State) : Prop := Machine.step s = .next t

/-! ## The mailbox (R430 to R441) -/

/-- The opcode and the slot of a mailbox row (Table 16-9); none for the other rows. -/
def mailboxRow : Instr → Option (Nat × Cmd)
  | .hello c => some (0x0001, c)
  | .echo c => some (0x0002, c)
  | .devInfo c => some (0x0003, c)
  | .devStatus c => some (0x0004, c)
  | .cmdIndex c => some (0x0005, c)
  | .devReset c => some (0x0006, c)
  | .fwInfo c => some (0x0101, c)
  | .fwWrite c => some (0x0102, c)
  | .fwVerify c => some (0x0103, c)
  | .fwActivate c => some (0x0104, c)
  | .fwConfirm c => some (0x0105, c)
  | .mlLoad c => some (0x0110, c)
  | .mlStart c => some (0x0111, c)
  | .mlStop c => some (0x0112, c)
  | .mlStatus c => some (0x0113, c)
  | .tickSetSource c => some (0x0201, c)
  | .tringSetup c => some (0x0202, c)
  | .tringStop c => some (0x0203, c)
  | .tickForceFallback c => some (0x0204, c)
  | .tickCounters c => some (0x0205, c)
  | .diceSeed c => some (0x0206, c)
  | .feRoute c => some (0x0301, c)
  | .feSource c => some (0x0302, c)
  | .feRange c => some (0x0303, c)
  | .feCmWindow c => some (0x0304, c)
  | .feCurve c => some (0x0305, c)
  | .feCalRead c => some (0x0306, c)
  | .feCalWrite c => some (0x0307, c)
  | .feStatus c => some (0x0308, c)
  | .chChain c => some (0x0309, c)
  | .chEvent c => some (0x030A, c)
  | .chFirLoad c => some (0x030B, c)
  | .chFirSwap c => some (0x030C, c)
  | .chFirAbort c => some (0x030D, c)
  | .applySet c => some (0x030E, c)
  | .discardSet c => some (0x030F, c)
  | .chReset c => some (0x0310, c)
  | .chState c => some (0x0311, c)
  | .watchSetup c => some (0x0401, c)
  | .watchStart c => some (0x0402, c)
  | .watchStop c => some (0x0403, c)
  | .watchFreeze c => some (0x0404, c)
  | .watchThaw c => some (0x0405, c)
  | .watchParams c => some (0x0406, c)
  | .watchRelearn c => some (0x0407, c)
  | .watchRollback c => some (0x0408, c)
  | .watchStatus c => some (0x0409, c)
  | .watchExport c => some (0x040A, c)
  | .watchImport c => some (0x040B, c)
  | .watchReportRing c => some (0x040C, c)
  | .kvPoolSetup c => some (0x0501, c)
  | .kvOpen c => some (0x0502, c)
  | .kvClose c => some (0x0503, c)
  | .kvAppend c => some (0x0504, c)
  | .kvRefill c => some (0x0505, c)
  | .kvStatus c => some (0x0506, c)
  | .attnRun c => some (0x0510, c)
  | .attnCancel c => some (0x0511, c)
  | .attnInfo c => some (0x0512, c)
  | .nvRead c => some (0x0601, c)
  | .nvWrite c => some (0x0602, c)
  | .nvStatus c => some (0x0603, c)
  | .nvCtr c => some (0x0604, c)
  | .nvProtect c => some (0x0605, c)
  | .nvMode c => some (0x0606, c)
  | .nvImgStore c => some (0x0607, c)
  | .nvImgRecall c => some (0x0608, c)
  | .linkIdent c => some (0x0701, c)
  | .linkState c => some (0x0702, c)
  | .linkAdmin c => some (0x0703, c)
  | .linkMaster c => some (0x0704, c)
  | .linkPing c => some (0x0705, c)
  | .fbPort c => some (0x0801, c)
  | .fbFilter c => some (0x0802, c)
  | .fbReports c => some (0x0803, c)
  | .fbSend c => some (0x0804, c)
  | .fbRxRing c => some (0x0805, c)
  | .fbStatus c => some (0x0806, c)
  | .hoConfig c => some (0x0807, c)
  | .hoStatus c => some (0x0808, c)
  | .pwrStatus c => some (0x0901, c)
  | .pwrGovernor c => some (0x0902, c)
  | .trustEnrol c => some (0x0A01, c)
  | .trustCerts c => some (0x0A02, c)
  | .trustStatus c => some (0x0A03, c)
  | .trustArbRaise c => some (0x0A04, c)
  | .trustDebug c => some (0x0A05, c)
  | .logRead c => some (0x0B01, c)
  | .counterDump c => some (0x0B02, c)
  | .fence c => some (0x0B03, c)
  | .fencePolicy c => some (0x0B04, c)
  | .liveFirmwareHandover | .getVersion | .getCapabilities | .negotiateAlgorithms _ _ | .getDigests | .getCertificate _ _ _
  | .challenge _ _ | .getMeasurements _ _ | .smbStage | .smbIdent | .smbSerial | .smbStatus | .smbTick | .smbHealth | .smbAvail
  | .smbPower | .smbOwner | .mbxDoorbell _ | .completionPost | .mbxCq _ _ _ | .mbxCqCons _ | .ringConsumerWrite _ _
  | .winBase _ _ | .bar4Read _ _ | .bar4Write _ _ _ _ | .errSum _ | .intStatus _ | .intEnable _ | .tsqCtl _ _ | .latchingRead _ _
  | .registerWrite _ _ _ _ _ | .tickEdge _ | .slotStart _ | .feSummaryDelivery _ | .sampleDeadline _ | .fineWindow
  | .moveIssue _ _ | .syncWaitSatisfied _ _ | .moveDelayedStart _ _ | .moveComplete _ _ | .mm _ _ _ | .mmt _ _ _ | .tload _ _ _
  | .drain _ _ _ | .azero _ _ _ | .vadd _ _ _ | .vsub _ _ _ | .vmul _ _ _ | .vfma _ _ _ | .vscale _ _ _ | .vmax _ _ _
  | .vmin _ _ _ | .vabs _ _ _ | .vclamp _ _ _ | .vcvt _ _ _ | .vcmp _ _ _ | .vsel _ _ _ | .vtrn _ _ _ | .vdiv _ _ _
  | .vsqrt _ _ _ | .vrcp _ _ _ | .vrsqrt _ _ _ | .vexp _ _ _ | .vlog _ _ _ | .vtanh _ _ _ | .vsigm _ _ _ | .vgelu _ _ _
  | .vsilu _ _ _ | .vsin _ _ _ | .vcos _ _ _ | .vrsum _ _ _ | .vrmax _ _ _ | .vrmin _ _ _ | .vrssq _ _ _ | .vargmax _ _ _
  | .vlnorm _ _ _ | .vrmsn _ _ _ | .vsmax _ _ _ | .vadam _ _ _ | .dma _ _ _ | .dmaOwnedAccess _ | .linkRsv _ _ _ | .pwrUp _
  | .pwrDown _ _ | .bankSet _ _ _ _ | .signal _ _ | .barrier _ _ _ _ | .step _ _ | .gather _ _ _ | .gatherD _ _ _
  | .gatherDFinalSignal _ | .scatter _ _ _ | .scatterAdd _ _ _ | .segReduce _ _ _ | .scan _ _ _ | .sinter _ _ _ | .sunion _ _ _
  | .sdiff _ _ _ | .hprobe _ _ _ | .hinsert _ _ _ | .hclear _ _ _ | .gbucket _ _ _ | .gplace _ _ _ | .nbr _ _ _ | .twalk _ _ _
  | .setBudgetEnd _ | .commitPoint | .healthPathChoice | .holdExpiry _ | .hoPeriodStart _ | .frameBoundary | .healthStatePost
  | .frameDataPost | .scheduleChange | .tickInEdge _ | .sourceLoss | .holdoverExit | .tickMarkerRx _ _ | .parentMarkerMissing
  | .feFreeRunTick _ | .computeDownDetect | .fineOutput _ _ | .eventActivate _ _ | .eventDeactivate _ _ | .detectorsStart _
  | .autoRangeUp _ _ _ | .autoRangeDown _ | .rangeTransientEnd _ | .cmFaultEnter _ | .cmFaultExit _ | .sourceCurrentLimit _ _
  | .chopReversal _ | .applyTakesEffect | .synchronisingReset _ _ | .firSwapStart _ | .firFadeEnd _ | .firAbortEffect _
  | .calibrationEffect | .fePowerOn | .powerFailDetect | .supplyReturn | .perstNAssert | .perstNDeassert | .functionLevelReset
  | .railFault | .thermalTrip _ _ | .watchdogExpiry _ _ | .extestSelect _ | .computeDieStart | .dramTrainingEnd _ _
  | .dramClearEnd | .syncStage | .powerUpGrant _ | .polderUp _ _ | .bankReady _ _ _ | .sluiceClosed _ _ | .powerDownAbandon _ _
  | .dramRefresh _ _ | .patrolScrub _ | .fmCeRewrite _ | .linkTraining _ _ | .retrainTimer _ | .linkDown _ _ | .linkUnfence _
  | .linkStateFloodRx _ _ _ | .planIdRx _ _ | .flitRx _ _ | .linkAckRx _ _ _ | .creditRx _ _ _ | .flitSlot _ _ | .fbFrameRx _ _
  | .gptpLoss _ | .fbTransmitOpportunity _ _ | .nvProgramEnd _ | .recordWrite _ _ | .logPageProgram | .operatingMinute
  | .imageStoreEnd | .watchTransition _ _ | .trainingTrigger _ | .evaluationTrigger _ | .promotion | .watchFadeStart
  | .watchFadeEnd | .conditionReport _ | .envelopeSigned | .serve _ | .serveEnd _ | .pageFlush _ _ | .refillTicketDone
  | .compaction _ | .hostReadCompletion _ _ _ _ | .bar2Write _ _ _ | .msixVectorUnmask _ | .dramTemperatureReport _
  | .vexcToleranceChange _ | .vhoToleranceChange _ | .frontEndSupplyCollapse | .plcaStatusChange _ _ | .linkAdminDownEntry
  | .fwStartStage | .bootFlashExternalWrite _ _ _ | .smbusRejectedTransaction _ _ => none

/-- The state after the device has taken the slot of a command (R433). -/
def slotTaken (c : Cmd) (s : Machine.State) : Machine.State := Machine.takeSlot (c.slot % 64) s

/-- The device takes the command up: it answers, the host owned the slot (R433), and the slot passes the checks 2 to 5 of R441, which ask of the
slot a legal length, a matching CRC where it carries one and one at all for a trust command, and of the device stage READY and a HELLO, but for
the commands of group 0x00. -/
def TakenUp (op : Nat) (c : Cmd) (s : Machine.State) : Prop :=
  Machine.computeDown s = false ∧ s.mbx.own.getLsbD (c.slot % 64) = false ∧ c.paramLen ≤ 224 ∧
    (c.crcEn = true → Machine.crc32c (Machine.paramBytes c) = c.pcrc) ∧ (op / 256 = 0x0A → c.crcEn = true) ∧
    (op / 256 ≠ 0 → s.boot.stage = .ready ∧ s.mbx.hello ≠ none)

/-- The bit of a command's slot in the 64 slots. -/
def slotBit (c : Cmd) : BitVec 64 := 1#64 <<< (c.slot % 64)

/-- The completion that a command's slot gets (Table 16-6). -/
def completionOf (op : Nat) (c : Cmd) (st : Machine.Status) (data : Nat) : Machine.Completion :=
  { slot := c.slot % 64, cookie := c.cookie, opcode := op, quiet := c.quiet, status := st, data := BitVec.ofNat 256 data }

/-- `s` with the slot taken, its response buffer open, and one completion last among those that are due: all that a command leaves which
completes at once and does nothing else (R433, R437, R438). -/
def completed (op : Nat) (c : Cmd) (st : Machine.Status) (data : Nat) (s : Machine.State) : Machine.State :=
  { s with mbx := { s.mbx with
      own := s.mbx.own ||| slotBit c
      respOpen := s.mbx.respOpen ||| slotBit c
      due := s.mbx.due ++ [completionOf op c st data] } }

/-- `s` with the slot taken and the command last among those that wait: all that a command leaves which waits and has done nothing else yet
(R440, R442). -/
def waitsNow (op : Nat) (c : Cmd) (a : Machine.PendAct) (s : Machine.State) : Machine.State :=
  { s with mbx := { s.mbx with
      own := s.mbx.own ||| slotBit c
      respOpen := s.mbx.respOpen ||| slotBit c
      waits := s.mbx.waits ++ [{ cmd := c, opcode := op, act := a }] } }

/-- `s` with the slot taken, its response buffer filled with `bs`, and a completion with OK last among those that are due: all that a command
leaves which only answers (R437). -/
def answered (op : Nat) (c : Cmd) (bs : List Byte) (data : Nat) (s : Machine.State) : Machine.State :=
  { s with mbx := { s.mbx with
      own := s.mbx.own ||| slotBit c
      respOpen := (s.mbx.respOpen ||| slotBit c) &&& ~~~slotBit c
      resp := Machine.tabSet s.mbx.resp (c.slot % 64) bs
      due := s.mbx.due ++ [{ completionOf op c .ok data with respLen := bs.length }] } }

/-- `s` with what counting may change taken from `t`: the counters, ERR_SUM, INT_STATUS and the messages (R520, R526). -/
def counted (s t : Machine.State) : Machine.State :=
  { s with ctr := t.ctr, mbx := { s.mbx with errSum := t.mbx.errSum, intStatus := t.mbx.intStatus, msix := t.mbx.msix } }

/-- The mailbox of `s` with the slots, the due completions and the waiting commands of `t`: what commands that wait may change when what they
wait for comes. -/
def slotsOnly (s t : Machine.State) : Machine.Mbx :=
  { s.mbx with own := t.mbx.own, respOpen := t.mbx.respOpen, due := t.mbx.due, waits := t.mbx.waits }

/-- Field memory of `s` with what asking the DMA engines may change taken from `t`: the transfers and the descriptors that wait, and the groups to
rewrite that a read before it found (R55, R185, R188). -/
def areasOnly (s t : Machine.State) : Machine.Fm :=
  { s.fm with xfers := t.fm.xfers, nextXfer := t.fm.nextXfer, descQueue := t.fm.descQueue, rewrite := t.fm.rewrite }

/-- A byte that a transfer of the firmware has still to copy: from and to, by address in field memory of the chip or in device DRAM. -/
def copyAsked (s : Machine.State) (sk dk : DmaKind) (src dst : Nat) : Prop :=
  (∃ x ∈ s.fm.xfers, x.fw = true ∧ x.srcKind = sk ∧ x.dstKind = dk ∧
    ∃ c ∈ x.chunks, ∃ i, i < c.len ∧ c.srcAt + i = src ∧ c.dstAt + i = dst) ∨
  ∃ q ∈ s.fm.descQueue, q.o.srcKind = sk ∧ q.o.dstKind = dk ∧ ∃ c ∈ q.fw, ∃ i, i < c.len ∧ c.srcAt + i = src ∧ c.dstAt + i = dst

/-- A byte that a transfer of the firmware has still to write to an address of the field memory of the chip, with the job that is triggered behind
the transfer. -/
def writeAsked (s : Machine.State) (job : Option Nat) (dst : Nat) (b : Byte) : Prop :=
  (∃ x ∈ s.fm.xfers, x.fw = true ∧ x.dstKind = .fieldMem ∧ x.job = job ∧
    ∃ c ∈ x.chunks, ∃ d, c.data = some d ∧ ∃ i, i < c.len ∧ c.dstAt + i = dst ∧ Machine.nth d i 0 = b) ∨
  ∃ q ∈ s.fm.descQueue, q.o.dstKind = .fieldMem ∧ q.job = job ∧
    ∃ c ∈ q.fw, ∃ d, c.data = some d ∧ ∃ i, i < c.len ∧ c.dstAt + i = dst ∧ Machine.nth d i 0 = b

/-- The store of `s` with what asking for a program may change taken from `t`: the writes of records that wait and run, the page buffer, the planes
and the numbers of the programs (R341, R348). -/
def asked (s t : Machine.State) : Machine.Nv :=
  { s.nv with recQ := t.nv.recQ, recRun := t.nv.recRun, queue := t.nv.queue, planes := t.nv.planes, nextSeq := t.nv.nextSeq }

/-- No power failure has been detected, and nothing programs in the store, waits for a plane or goes on for a record, a counter or the owner
page. -/
def StoreIdle (s : Machine.State) : Prop :=
  s.nv.powerFail = false ∧ s.nv.storing = none ∧ s.nv.planes = [] ∧ s.nv.queue = [] ∧ s.nv.recQ = [] ∧ s.nv.recRun = [] ∧ s.nv.ctrQ = [] ∧
    s.nv.ctrRun = none ∧ s.nv.enrol = none

/-- The store of `s` when the program of page `page` with number `seq` is the only one, at the start of a change that takes the numbers up to it
(R341). -/
def programming (s : Machine.State) (seq page : Nat) (bytes : List (Nat × Byte)) : Machine.Nv :=
  { s.nv with nextSeq := seq + 1, planes := [(Machine.planeOf page, { seq := seq, page := page, bytes := bytes })] }

/-! ## Resets -/

/-- What a reset of the compute die leaves: it and everything it holds are in reset, and what the front-end die, the store, the board and the
host hold stays, with the counters of the front-end die; the pending set is discarded; `therm_trip` apart, which its own reset counts (R67, R447, R490, R502, Table 20-9). -/
def Restarted (src : Machine.ResetSrc) (s t : Machine.State) : Prop :=
  (t.boot.stage = .reset ∧ t.boot.cause = src ∧ t.boot.cores = 0 ∧ t.mbx = {} ∧ t.tring = {} ∧ t.rring = {} ∧ t.fring = {} ∧ t.seq = {} ∧
    t.fm = {} ∧ t.dram = {} ∧ t.kv = {} ∧ t.watch = {} ∧ t.power = {}) ∧
  (t.fe.pend = {} ∧ t.fe.cfg = s.fe.cfg ∧ t.fe.chans = s.fe.chans ∧ t.fe.cal = s.fe.cal ∧ t.bus.outs = s.bus.outs ∧ t.bus.ports = s.bus.ports ∧ t.nv = s.nv ∧
    t.links.ident = s.links.ident ∧ t.host = s.host ∧ t.boot.flash = s.boot.flash ∧ t.boot.sel = s.boot.sel ∧ t.part = s.part) ∧
  (t.tick.no = s.tick.no ∧ t.tick.frame = s.tick.frame ∧ t.tick.total = s.tick.total ∧ t.tick.late = s.tick.late ∧
    t.tick.fallback = s.tick.fallback ∧ t.tick.dark = s.tick.dark) ∧
  ∀ off, off ≠ Machine.cThermTrip → Machine.ctrGet t off = if Machine.feCounter off then Machine.ctrGet s off else 0

/-! ## The invariant -/

open Machine in
/-- Every addressed memory of the device and of its host is in its canonical form: field memory, external memory, the store with its image and
an image store in progress, the boot flash, the slots and the MSI-X table, and host memory. -/
def Canonical (s : State) : Prop :=
  memWf 0 s.fm.mem = true ∧ memWf 0 s.dram.mem = true ∧ memWf 0xFF#8 s.nv.mem = true ∧ memWf 0xFF#8 s.nv.img = true ∧
    (∀ m, s.nv.storing = some m → memWf 0xFF#8 m = true) ∧ memWf 0xFF#8 s.boot.flash = true ∧ memWf 0 s.mbx.slots = true ∧
    memWf 0 s.mbx.msix.table = true ∧ memWf 0 s.host = true

/-- The reserved bits of the host's registers read 0: INT_STATUS and INT_ENABLE above bit 9, ERR_SUM above bit 14, and WIN_BASE outside bits
[35:30] (R4, R428, R520, R521). -/
def ReservedZero (s : Machine.State) : Prop :=
  s.mbx.intStatus &&& ~~~0x3FF = 0 ∧ s.mbx.intEnable &&& ~~~0x3FF = 0 ∧ s.mbx.errSum &&& ~~~0x7FFF = 0 ∧
    s.mbx.winBase &&& ~~~0xFC0000000 = 0

/-- What every step keeps. -/
def Inv (s : Machine.State) : Prop := Canonical s ∧ ReservedZero s

/-! ## What the moves compute -/

open Machine in
/-- Field, operands and context of an element operation of the vector engine (Table 06-7); none for the other rows. -/
def elementRow (i : Instr) : Option (Nat × VecOpnd × MoveCtx) :=
  match i with
  | .vadd f o x | .vsub f o x | .vmul f o x | .vfma f o x | .vscale f o x | .vmax f o x | .vmin f o x | .vabs f o x | .vclamp f o x
  | .vcvt f o x | .vsel f o x | .vdiv f o x | .vsqrt f o x | .vrcp f o x | .vrsqrt f o x | .vexp f o x | .vlog f o x | .vtanh f o x
  | .vsigm f o x | .vgelu f o x | .vsilu f o x | .vsin f o x | .vcos f o x => some (f, o, x)
  | _ => none

open Machine in
/-- Result of element e before the output stage (Table 06-7). The functions within a bound take the model's free value. -/
def elementValue (i : Instr) (s : State) (e : Nat) : W32 :=
  match i with
  | .vadd f o _ => f32add (vElem s f (opA o) e) (vElem s f (opB o) e)
  | .vsub f o _ => f32sub (vElem s f (opA o) e) (vElem s f (opB o) e)
  | .vmul f o _ => f32mul (vElem s f (opA o) e) (vElem s f (opB o) e)
  | .vfma f o _ => f32fma (vElem s f (opA o) e) (vElem s f (opB o) e) (vElem s f (opC o) e)
  | .vscale f o _ => f32fma (vElem s f (opA o) e) (vScalar s f o 0) (vScalar s f o 1)
  | .vmax f o _ => f32max (vElem s f (opA o) e) (vElem s f (opB o) e)
  | .vmin f o _ => f32min (vElem s f (opA o) e) (vElem s f (opB o) e)
  | .vabs f o _ => f32abs (vElem s f (opA o) e)
  | .vclamp f o _ => f32min (f32max (vElem s f (opA o) e) (vScalar s f o 0)) (vScalar s f o 1)
  | .vcvt f o _ => vElem s f (opA o) e
  | .vsel f o _ => if maskBit s f o e then vElem s f (opA o) e else vElem s f (opB o) e
  | .vdiv f o _ => divK 1 (dec32 (vElem s f (opA o) e)) (dec32 (vElem s f (opB o) e)) (vFree s e)
  | .vsqrt f o _ => f32sqrt (vElem s f (opA o) e)
  | .vrcp f o _ => divK 1 fpOne (dec32 (vElem s f (opA o) e)) (vFree s e)
  | .vrsqrt f o _ => rsqrtK (dec32 (vElem s f (opA o) e)) (vFree s e)
  | .vexp f o _ => expK (dec32 (vElem s f (opA o) e)) (vFree s e)
  | .vlog f o _ => logK (dec32 (vElem s f (opA o) e)) (vFree s e)
  | .vtanh f o _ => tanhK (dec32 (vElem s f (opA o) e)) (vFree s e)
  | .vsigm f o _ => sigmK (dec32 (vElem s f (opA o) e)) (vFree s e)
  | .vgelu f o _ => geluK (dec32 (vElem s f (opA o) e)) (vFree s e)
  | .vsilu f o _ => siluK (dec32 (vElem s f (opA o) e)) (vFree s e)
  | .vsin f o _ => sinK (dec32 (vElem s f (opA o) e)) (vFree s e)
  | .vcos f o _ => cosK (dec32 (vElem s f (opA o) e)) (vFree s e)
  | _ => 0

open Machine in
/-- No operand of an element operation carries a mark: operands a, b and c, the scalar block and the mask, as far as any row uses them. -/
def Unmarked (s : State) (f : Nat) (o : VecOpnd) : Prop :=
  (∀ e, e < 64 * o.n → vPoison s f (opA o) e = 0 ∧ vPoison s f (opB o) e = 0 ∧ vPoison s f (opC o) e = 0 ∧
    fmPoisonAt s f (o.maskAddr + e / 8) = 0) ∧ vScalarPoison s f o = 0

open Machine in
/-- The row reductions, with what each makes of a row's values (R169); none for the other rows. -/
def rowReduction (i : Instr) : Option (Nat × VecOpnd × MoveCtx × (List W32 → W32)) :=
  match i with
  | .vrsum f o x => some (f, o, x, sumRow)
  | .vrmax f o x => some (f, o, x, maxRow)
  | .vrmin f o x => some (f, o, x, minRow)
  | .vrssq f o x => some (f, o, x, ssqRow)
  | .vargmax f o x => some (f, o, x, argmaxRow)
  | _ => none

/-- The normalisations and the softmax (R170); none for the other rows. -/
def normRow (i : Instr) : Option (Nat × VecOpnd × MoveCtx) :=
  match i with
  | .vlnorm f o x | .vrmsn f o x | .vsmax f o x => some (f, o, x)
  | _ => none

open Machine in
/-- Element e of the first row's result before the output stage (R170). -/
def normValue (i : Instr) (s : State) (e : Nat) : W32 :=
  match i with
  | .vlnorm f o _ => f32add (f32mul (nth (lnormRow ((rowElems o 0).map fun k => vElem s f (opA o) k) (vScalar s f o 0) (vFree s)).1 e 0)
      (vElem s f (opGamma o) e)) (vElem s f (opBeta o) e)
  | .vrmsn f o _ => f32mul (nth (rmsnRow ((rowElems o 0).map fun k => vElem s f (opA o) k) (vScalar s f o 0) (vFree s)).1 e 0)
      (vElem s f (opGamma o) e)
  | .vsmax f o _ => nth (smaxRow ((rowElems o 0).map fun k => vElem s f (opA o) k) (vFree s)).1 e 0
  | _ => 0

/-- Opcode and operands of a vector row (Tables 06-7 and 06-8); none for the other rows. -/
def vectorRow : Instr → Option (Nat × VecOpnd × MoveCtx)
  | .vadd _ o x => some (0x20, o, x) | .vsub _ o x => some (0x21, o, x) | .vmul _ o x => some (0x22, o, x)
  | .vfma _ o x => some (0x23, o, x) | .vscale _ o x => some (0x24, o, x) | .vmax _ o x => some (0x25, o, x)
  | .vmin _ o x => some (0x26, o, x) | .vabs _ o x => some (0x27, o, x) | .vclamp _ o x => some (0x28, o, x)
  | .vcvt _ o x => some (0x29, o, x) | .vcmp _ o x => some (0x2A, o, x) | .vsel _ o x => some (0x2B, o, x)
  | .vtrn _ o x => some (0x2C, o, x) | .vdiv _ o x => some (0x30, o, x) | .vsqrt _ o x => some (0x31, o, x)
  | .vrcp _ o x => some (0x32, o, x) | .vrsqrt _ o x => some (0x33, o, x) | .vexp _ o x => some (0x34, o, x)
  | .vlog _ o x => some (0x35, o, x) | .vtanh _ o x => some (0x36, o, x) | .vsigm _ o x => some (0x37, o, x)
  | .vgelu _ o x => some (0x38, o, x) | .vsilu _ o x => some (0x39, o, x) | .vsin _ o x => some (0x3A, o, x)
  | .vcos _ o x => some (0x3B, o, x) | .vrsum _ o x => some (0x40, o, x) | .vrmax _ o x => some (0x41, o, x)
  | .vrmin _ o x => some (0x42, o, x) | .vrssq _ o x => some (0x43, o, x) | .vargmax _ o x => some (0x44, o, x)
  | .vlnorm _ o x => some (0x48, o, x) | .vrmsn _ o x => some (0x49, o, x) | .vsmax _ o x => some (0x4A, o, x)
  | .vadam _ o x => some (0x50, o, x)
  | _ => none

/-- The part at which a vector row starts: vectors, blocks or rows that a cancelled run of an in-place move has done already (R172); 0 for
every other. -/
def startsAt (i : Instr) (s : Machine.State) : Nat :=
  match vectorRow i with
  | some (op, o, x) => (Machine.resumeOf s op o x).next
  | none => 0

open Machine in
/-- Bytes of field memory, by first address in the chip and length, that the output stage of a vector move may store: `total` results,
the vector of scales behind them and the amax word. -/
def vecRanges (f : Nat) (o : VecOpnd) (total : Nat) : List (Nat × Nat) :=
  [(chipAddr f o.outAddr, elemBytes o.outFmt (if fmtMx o.outFmt then roundUp total 32 else total))] ++
    (if fmtMx o.outFmt then [(chipAddr f (roundUp (o.outAddr + elemBytes o.outFmt total) 32), (total + 31) / 32)] else []) ++
    (if o.amaxEn then [(chipAddr f o.amaxAddr, 4)] else [])

open Machine in
/-- Bytes that the output stage of a unit may store: its rows in the fields of its last grid row, their scales and the amax word. -/
def arrRanges (s : State) (unit : Nat) (o : ArrOpnd) : List (Nat × Nat) :=
  let (gr, gc, as) := unitGrid s unit
  let fields := (List.range (max gc 1)).map fun j => fieldOf (nth as ((gr - 1) * gc + j) 0)
  fields.flatMap (fun f =>
    (List.range o.m).map (fun r => (chipAddr f (o.outAddr + r * 32 * o.outStride), 
      elemBytes o.outFmt (if fmtMx o.outFmt then roundUp (16 * gc) 32 else 16 * gc))) ++
      (if fmtMx o.outFmt then [(chipAddr f o.outSc, o.m * ((16 * gc + 31) / 32))] else [])) ++
    (if o.amaxEn then [(chipAddr (nth fields 0 0) o.amaxAddr, 4)] else [])

open Machine in
/-- The bytes that a move on an array unit or on a vector engine may store, for every form of its operands; none for the other rows. -/
def storeRanges (s : State) (i : Instr) : Option (List (Nat × Nat)) :=
  match i with
  | .mm u o _ | .mmt u o _ => some (if o.drain then arrRanges s u o else [])
  | .drain u o _ => some (arrRanges s u o)
  | .tload _ _ _ | .azero _ _ _ => some []
  | .vcmp f o _ => some [(chipAddr f o.maskAddr, 8 * o.n)]
  | .vtrn f o _ => some (vecRanges f o (256 * o.n))
  | .vadam f o _ => some ([(chipAddr f o.bAddr, 256 * o.n), (chipAddr f o.cAddr, 256 * o.n), (chipAddr f o.dAddr, 256 * o.n),
      (chipAddr f o.maskAddr, 4)] ++ vecRanges f o (64 * o.n))
  | i => match elementRow i with
    | some (f, o, _) => some (vecRanges f o (64 * o.n))
    | none => match rowReduction i with
      | some (f, o, _, _) => some (vecRanges f o (rowCount o))
      | none => match normRow i with
        | some (f, o, _) => some (vecRanges f o (64 * o.n))
        | none => none

/-- How a set operation works: its element step, its trailing output, the tail of an element's writes in ac, the first `aux`, and whether T is
in DRAM. -/
structure SetWork where
  next : Machine.SetRun → Machine.SetNext
  fin : Nat → Machine.SetRun → Machine.SetRun
  tail : Nat
  aux0 : Nat
  dram : Bool

open Machine in
/-- The set operations with their work (Tables 10-2 and 10-3); the second key stream of the sorted sets is their T (R261). -/
def setWork (i : Instr) : Option (Nat × SetOpnd × MoveCtx × SetWork) :=
  match i with
  | .gather f o x => some (f, o, x, ⟨nextGather f o, noFin, 14, 0, false⟩)
  | .gatherD f o x => some (f, o, x, ⟨nextGatherD f o x, noFin, 4, 0, true⟩)
  | .scatter f o x => some (f, o, x, ⟨nextScatter f o, noFin, 8, 0, false⟩)
  | .scatterAdd f o x => some (f, o, x, ⟨nextScatterAdd f o, noFin, 16, 0, false⟩)
  | .segReduce f o x => some (f, o, x, ⟨nextSegReduce f o, noFin, 16, none32, false⟩)
  | .scan f o x => some (f, o, x, ⟨nextScan f o, scanFin f o, 8, 0, false⟩)
  | .sinter f o x => let p := { o with tAddr := o.bAddr, desc := false }; some (f, p, x, ⟨nextSorted .inter f p, countFin f o, 10, 0, false⟩)
  | .sunion f o x => let p := { o with tAddr := o.bAddr, desc := false }; some (f, p, x, ⟨nextSorted .union f p, countFin f o, 10, 0, false⟩)
  | .sdiff f o x => let p := { o with tAddr := o.bAddr, desc := false }; some (f, p, x, ⟨nextSorted .diff f p, countFin f o, 10, 0, false⟩)
  | .hprobe f o x => some (f, o, x, ⟨nextHprobe f o, noFin, 12, 0, false⟩)
  | .hinsert f o x => some (f, o, x, ⟨nextHinsert f o, noFin, 14, 0, false⟩)
  | .hclear f o x => some (f, o, x, ⟨nextHclear f o, noFin, 8, 0, false⟩)
  | .gbucket f o x => some (f, o, x, ⟨nextGbucket f o, noFin, 16, 0, false⟩)
  | .gplace f o x => some (f, o, x, ⟨nextGplace f o, noFin, 16, 0, false⟩)
  | .nbr f o x => some (f, o, x, ⟨nextNbr f o, noFin, 12, 0, false⟩)
  | .twalk f o x =>
    match o.sub with
    | 0 => some (f, o, x, ⟨nextTwalkPath f o, noFin, 10, 0, false⟩)
    | 1 => some (f, o, x, ⟨nextTwalkLevel f o, levelOut f o, 10, 0, false⟩)
    | _ => some (f, o, x, ⟨nextTwalkAcc f o, noFin, 10, 0, false⟩)
  | _ => none

end Sys2Proof.Safety
end

