-- ==== Sys2Proof/Certificates/Slice0/Obligations.lean ====
section
/-! DEFINITION. The statements for the provers, chapter by chapter. A statement about a command says, for every state and operands that meet
its hypotheses, that the command answers a next state, what that state holds, and by its last clause what stays: `t = { s with … }` names every
part that may differ. -/

section
open Sys2Proof Sys2Proof.Machine Sys2Proof.Safety

/-! ## The queue, reset and the mailbox (chapter 16) -/

/-- A step takes the command at the front of the queue and runs it with the queue's rest; on an empty queue the block idles, which is the
model's choice (log 17). -/
def Obligations.StepRunsFrontCommand : Prop :=
  (∀ (c : Instr) (rest : List Instr) (s : State), s.pending = c :: rest → step s = exec c { s with pending := rest }) ∧
  (∀ s : State, s.pending = [] → step s = .next s)

/-- Every mailbox row: a doorbell for a slot that the device owns is ignored and counted (R433); a command that one of the checks 2 to 5 of
R441 turns away completes with the status of the first check that fails, and nothing else changes but its slot's ownership (R446): a
parameter length above 224, a CRC that does not match, a trust command without a CRC, a stage other than READY, no HELLO. -/
def Obligations.MailboxRowTurnedAway : Prop :=
  ∀ (i : Instr) (op : Nat) (c : Cmd) (s : State), mailboxRow i = some (op, c) → computeDown s = false →
    (owned s (c.slot % 64) = true → exec i s = .next (bump cMbxBadDb s)) ∧
    (owned s (c.slot % 64) = false →
      (∀ st : Status, commandChecks op c (slotTaken c s) = some st → exec i s = .next (completed op c st 0 s)) ∧
      (224 < c.paramLen → exec i s = .next (completed op c .badLength 0 s)) ∧
      (c.paramLen ≤ 224 → c.crcEn = true → crc32c (paramBytes c) ≠ c.pcrc → exec i s = .next (completed op c .badParam 0 s)) ∧
      (c.paramLen ≤ 224 → c.crcEn = false → op / 256 = 0x0A → exec i s = .next (completed op c .badParam 0 s)) ∧
      (c.paramLen ≤ 224 → (c.crcEn = true → crc32c (paramBytes c) = c.pcrc) → (op / 256 = 0x0A → c.crcEn = true) → op / 256 ≠ 0 →
        (s.boot.stage ≠ .ready ∨ s.mbx.hello = none) → exec i s = .next (completed op c .notReady 0 s)))

/-- MBX_DOORBELL starts the row that the slot's opcode names, on the slot as it stands in BAR2: it answers a next state, the one that this
row answers; an opcode outside Table 16-9 completes with BAD_OPCODE before any other check (R433, R441). -/
def Obligations.DoorbellRunsNamedRow : Prop :=
  (∀ (i : Instr) (c : Cmd) (v : W32) (s : State), mailboxRow i = some (slotOpcode s (v.toNat % 64), c) →
    c = slotCmd s (v.toNat % 64) → ∃ t, exec (.mbxDoorbell v) s = .next t ∧ exec i s = .next t) ∧
  (∀ (v : W32) (s : State), (∀ i : Instr, ∀ c : Cmd, mailboxRow i ≠ some (slotOpcode s (v.toNat % 64), c)) → computeDown s = false →
    owned s (v.toNat % 64) = false →
    exec (.mbxDoorbell v) s = .next (completed (slotOpcode s (v.toNat % 64)) (slotCmd s (v.toNat % 64)) .badOpcode 0 s))

/-- HELLO, ECHO, DEV_INFO, DEV_STATUS and CMD_INDEX complete with OK at once. HELLO chooses version 1.0 when the host lists it and no other
command is in flight; ECHO returns the first 32 parameter bytes; the others fill the slot's response buffer. Nothing else changes. -/
def Obligations.ServiceCommandsComplete : Prop :=
  (∀ (c : Cmd) (s : State), TakenUp 0x0001 c s → s.boot.stage ≠ .rom → s.boot.stage ≠ .halted → 1 ≤ fld c 7 0 0 → fld c 7 0 0 ≤ 16 →
    (∃ k, k < fld c 7 0 0 ∧ fld c (16 * k + 31) (16 * k + 16) 0 = 0x0100) → s.mbx.own = 0 →
    exec (.hello c) s = .next (completed 0x0001 c .ok (helloData (slotTaken c s) 0x0100) s)) ∧
  (∀ (c : Cmd) (s : State), TakenUp 0x0002 c s →
    exec (.echo c) s = .next (completed 0x0002 c .ok (leNat ((paramBytes c).take 32)) s)) ∧
  (∀ (c : Cmd) (s : State), TakenUp 0x0003 c s →
    exec (.devInfo c) s = .next (answered 0x0003 c (bar0Bytes (slotTaken c s) 0 256) 0 s) ∧ (bar0Bytes (slotTaken c s) 0 256).length = 256) ∧
  (∀ (c : Cmd) (s : State), TakenUp 0x0004 c s →
    exec (.devStatus c) s = .next (answered 0x0004 c (bar0Bytes (slotTaken c s) 0x100 256) 0 s) ∧
      (bar0Bytes (slotTaken c s) 0x100 256).length = 256) ∧
  (∀ (c : Cmd) (s : State), TakenUp 0x0005 c s →
    ∃ bs, exec (.cmdIndex c) s = .next (answered 0x0005 c bs 0 s) ∧ bs.length = 8192 ∧
      ∀ k, k < 65536 → ((nth bs (k / 8) 0).getLsbD (k % 8) = true ↔ ∃ i c', mailboxRow i = some (k, c')))

/-- COMPLETION_POST: with the ring enabled and room in it, the first completion that is due leaves the queue, the producer count rises by
one and stands in host memory, the slot returns to the host, and a HELLO that completes with OK is in force (R434, R438, R443). Host memory
outside the entry and the producer count keeps every byte. -/
def Obligations.CompletionPostReturnsSlot : Prop :=
  ∀ (e : Completion) (rest : List Completion) (s : State), s.mbx.due = e :: rest → cqEnable s = true → cqFull s = false →
    computeDown s = false → memWf 0 s.host = true →
    ∃ t, exec .completionPost s = .next t ∧ t.mbx.due = rest ∧ t.mbx.prod = s.mbx.prod + 1 ∧
      (∀ n, owned t n = (owned s n && !decide (n = e.slot))) ∧
      hostRead t (cqField s 191 128) 4 = leBytes 4 (s.mbx.prod + 1).toNat ∧
      t.mbx.hello = (if e.opcode = 1 ∧ e.status = .ok then some (e.data.setWidth 16) else s.mbx.hello) ∧
      (∀ a, (a < cqField s 191 128 ∨ cqField s 191 128 + 4 ≤ a) →
        (a < cqField s 255 192 + 64 * (s.mbx.prod.toNat % 2 ^ cqField s 3 0) ∨
          cqField s 255 192 + 64 * (s.mbx.prod.toNat % 2 ^ cqField s 3 0) + 64 ≤ a) → memRead 0 t.host a = memRead 0 s.host a) ∧
      t = { s with mbx := t.mbx, host := t.host }

/-- The registers of BAR0 that a write of their own row changes: MBX_CQ, MBX_CQ_CONS, the three consumer counts, WIN_BASE, ERR_SUM,
INT_STATUS, INT_ENABLE and TSQ_CTL (R9, R40, R428, R435, R520, R521, R523, R524). BAR2_WRITE stores the host's bytes in the slot memory and
leaves every other byte of it and every other part of the device as it was; a poisoned one is dropped and reported through AER (Table 16-3,
R427). MSIX_VECTOR_UNMASK of a vector with a pending message sends it and clears its pending bit while MSI-X is enabled (R429). -/
def Obligations.RegisterRowsWrite : Prop :=
  (∀ (k : Nat) (v : W64) (s : State), computeDown s = false → 1 ≤ k → k < 4 →
    ∃ t, exec (.mbxCq k .both v) s = .next t ∧ tabFind t.mbx.staged k = some v ∧ t = { s with mbx := { s.mbx with staged := t.mbx.staged } }) ∧
  (∀ (v : W64) (s : State), computeDown s = false → s.mbx.own = 0 → v.getLsbD 8 = true →
    cqValid ((v.toNat + (cqWord s 1).toNat * 2 ^ 64 + (cqWord s 2).toNat * 2 ^ 128 + (cqWord s 3).toNat * 2 ^ 192) &&& cqMask) = true →
    ∃ t, exec (.mbxCq 0 .both v) s = .next t ∧ cqEnable t = true ∧ t.mbx.cons = 0 ∧ t.mbx.prod = 0 ∧
      t.mbx.cq = BitVec.ofNat 256
        ((v.toNat + (cqWord s 1).toNat * 2 ^ 64 + (cqWord s 2).toNat * 2 ^ 128 + (cqWord s 3).toNat * 2 ^ 192) &&& cqMask) ∧
      t = { s with mbx := t.mbx, host := t.host }) ∧
  (∀ (v : W64) (s : State), computeDown s = false → s.mbx.own ≠ 0 → exec (.mbxCq 0 .both v) s = .next (bump cMbxCqBusy s)) ∧
  (∀ (v : W32) (s : State), computeDown s = false → exec (.mbxCqCons v) s = .next { s with mbx := { s.mbx with cons := v } }) ∧
  (∀ (v : W32) (s : State), computeDown s = false →
    exec (.ringConsumerWrite .tick v) s = .next { s with tring := { s.tring with cons := v } } ∧
    exec (.ringConsumerWrite .report v) s = .next { s with rring := { s.rring with cons := v } } ∧
    exec (.ringConsumerWrite .rx v) s = .next { s with fring := { s.fring with cons := v } }) ∧
  (∀ (v : W64) (s : State), computeDown s = false →
    exec (.winBase .both v) s = .next { s with mbx := { s.mbx with winBase := v &&& 0xFC0000000 } }) ∧
  (∀ (v : W32) (s : State), computeDown s = false →
    exec (.errSum v) s = .next { s with mbx := { s.mbx with errSum := s.mbx.errSum &&& ~~~v } } ∧
    exec (.intStatus v) s = .next { s with mbx := { s.mbx with intStatus := s.mbx.intStatus &&& ~~~v } }) ∧
  (∀ (v : W32) (s : State), computeDown s = false →
    ∃ t, exec (.intEnable v) s = .next t ∧ t.mbx.intEnable = v &&& 0x3FF ∧
      t = { s with mbx := { s.mbx with intEnable := t.mbx.intEnable, msix := t.mbx.msix } } ∧
      (v &&& 0x3FF &&& ~~~s.mbx.intEnable &&& s.mbx.intStatus = 0 → t.mbx.msix = s.mbx.msix)) ∧
  (∀ (v : W64) (s : State), computeDown s = false → s.seq.active = none → 1200 ≤ bitsN v.toNat 16 0 → bitsN v.toNat 16 0 ≤ 120000 →
    1 ≤ bitsN v.toNat 47 32 → gptpSource s = false →
    exec (.tsqCtl .both v) s = .next { s with tick := { s.tick with pendTsq := some (bitsN v.toNat 16 0, bitsN v.toNat 47 32) } }) ∧
  (∀ (off : Nat) (data : List Byte) (s : State), computeDown s = false → off + data.length ≤ 0x4000 → memWf 0 s.mbx.slots = true →
    ∃ t, exec (.bar2Write off data false) s = .next t ∧
      (∀ j, j < data.length → memRead 0 t.mbx.slots (off + j) = nth data j 0) ∧
      (∀ a, (a < off ∨ off + data.length ≤ a) → memRead 0 t.mbx.slots a = memRead 0 s.mbx.slots a) ∧
      t = { s with mbx := { s.mbx with slots := t.mbx.slots } }) ∧
  (∀ (off : Nat) (data : List Byte) (s : State), computeDown s = false →
    exec (.bar2Write off data true) s = .next { s with mbx := { s.mbx with aer := s.mbx.aer + 1 } }) ∧
  (∀ (v : Nat) (s : State), computeDown s = false → v < 64 → s.mbx.msix.enabled = true → s.mbx.msix.pba = 1#64 <<< v →
    ∃ t, exec (.msixVectorUnmask (some v)) s = .next t ∧ t.mbx.msix.pba = 0 ∧ t.mbx.msix.sent = v :: s.mbx.msix.sent ∧
      t.mbx.msix.unmasked = s.mbx.msix.unmasked ||| (1#64 <<< v) ∧ t = { s with mbx := { s.mbx with msix := t.mbx.msix } })

/-- REGISTER_WRITE at the offset of a writable register answers a next state, the one that this register's own row answers (Table 20-1); a
write of the read-only identification block changes nothing (R4); a write of another width, misaligned or with a partial byte-enable pattern
is dropped and counted, and a poisoned one is dropped and reported through AER (R427, R517). -/
def Obligations.RegisterWriteReachesRows : Prop :=
  (∀ (v : W64) (off size : Nat) (row : Instr) (s : State), computeDown s = false →
    (off, size, row) ∈ ([(0x108, 4, .errSum (v.setWidth 32)), (0x110, 4, .intStatus (v.setWidth 32)), (0x118, 4, .intEnable (v.setWidth 32)),
      (0x200, 4, .mbxDoorbell (v.setWidth 32)), (0x204, 4, .mbxCqCons (v.setWidth 32)), (0x280, 4, .ringConsumerWrite .tick (v.setWidth 32)),
      (0x288, 4, .ringConsumerWrite .report (v.setWidth 32)), (0x290, 4, .ringConsumerWrite .rx (v.setWidth 32)),
      (0x220, 8, .mbxCq 0 .both v), (0x228, 8, .mbxCq 1 .both v), (0x230, 8, .mbxCq 2 .both v), (0x238, 8, .mbxCq 3 .both v),
      (0x240, 8, .winBase .both v), (0x300, 8, .tsqCtl .both v), (0x240, 4, .winBase .lo v), (0x244, 4, .winBase .hi v),
      (0x300, 4, .tsqCtl .lo v), (0x304, 4, .tsqCtl .hi v)] : List (Nat × Nat × Instr)) →
    ∃ t, exec (.registerWrite off size v false false) s = .next t ∧ exec row s = .next t) ∧
  (∀ (v : W64) (off size : Nat) (s : State), computeDown s = false → accessOk off size = true → off + size ≤ 0x100 →
    exec (.registerWrite off size v false false) s = .next s) ∧
  (∀ (off size : Nat) (v : W64) (pb : Bool) (s : State), computeDown s = false → (pb = true ∨ accessOk off size = false) →
    ∃ t, exec (.registerWrite off size v pb false) s = .next t ∧ t = bump cRegBadWr s) ∧
  (∀ (off size : Nat) (v : W64) (pb : Bool) (s : State),
    (computeDown s = false → exec (.registerWrite off size v pb true) s = .next { s with mbx := { s.mbx with aer := s.mbx.aer + 1 } }) ∧
    (computeDown s = true → exec (.registerWrite off size v pb true) s = .next s))

/-- LATCHING_READ: a read that includes the lowest word of a register wider than 32 bits latches the whole register; a later read of another
of its words returns that word of the latched value, whatever the register holds by then, until the lowest word is read again. A 64-bit read
of words 0 and 1 is one latching read (R518). -/
def Obligations.WideReadLatches : Prop :=
  (∀ (b n k : Nat) (s u : State), computeDown s = false → computeDown u = false → regOf b = some (b, n) → regOf (b + 4 * k) = some (b, n) →
    4 < n → 1 ≤ k → 4 * k + 4 ≤ n → b % 4 = 0 →
    ∃ t, exec (.latchingRead b 4) s = .next t ∧ t.mbx.readOut = leBytes 4 (regVal s b) ∧
      t = { s with mbx := { s.mbx with latch := t.mbx.latch, readOut := t.mbx.readOut } } ∧
      (u.mbx.latch = t.mbx.latch →
        ∃ t', exec (.latchingRead (b + 4 * k) 4) u = .next t' ∧ t'.mbx.readOut = leBytes 4 (regVal s b >>> (32 * k)) ∧
          t'.mbx.latch = u.mbx.latch)) ∧
  (∀ (b n : Nat) (s : State), computeDown s = false → regOf b = some (b, n) → regOf (b + 4) = some (b, n) → 8 ≤ n → b % 8 = 0 →
    ∃ t, exec (.latchingRead b 8) s = .next t ∧ t.mbx.readOut = leBytes 8 (regVal s b) ∧
      tabFind t.mbx.latch b = some (leBytes n (regVal s b)) ∧
      t = { s with mbx := { s.mbx with latch := t.mbx.latch, readOut := t.mbx.readOut } })

/-- The SMBus agent answers each block read with its table's bytes, SMB_STAGE in every stage and the others outside stage RESET; a write
transaction and an unknown command code get a NACK (R529, Table 20-11). Nothing but the agent's answer changes. -/
def Obligations.SmbusAnswers : Prop :=
  (∀ s : State, feAlive s = true → exec .smbStage s = .next { s with smb := { s.smb with out := some (leBytes 4 s.smb.stage.toNat) } }) ∧
  (∀ s : State, feAlive s = true → computeDown s = false →
    exec .smbIdent s = .next { s with smb := { s.smb with out := some s.smb.ident } } ∧
    exec .smbSerial s = .next { s with smb := { s.smb with out := some (leBytes 16 s.part.serial.toNat) } } ∧
    exec .smbStatus s = .next { s with smb := { s.smb with out := some s.smb.status } } ∧
    exec .smbTick s = .next { s with smb := { s.smb with out := some s.smb.tick } } ∧
    exec .smbAvail s = .next { s with smb := { s.smb with out := some (leBytes 8 s.tick.total.toNat ++ leBytes 8 s.tick.late.toNat ++
      leBytes 8 s.tick.fallback.toNat ++ leBytes 8 s.tick.dark.toNat) } } ∧
    exec .smbPower s = .next { s with smb := { s.smb with out := some s.smb.power } } ∧
    exec .smbOwner s = .next { s with smb := { s.smb with out := some (leBytes 4 (ownerSt s) ++ leBytes 4 s.trust.ownerId.toNat) } } ∧
    (∃ bs, exec .smbHealth s = .next { s with smb := { s.smb with out := some bs } } ∧ bs.length = 32)) ∧
  (∀ s : State, feAlive s = true → computeDown s = true →
    exec .smbIdent s = .next { s with smb := { s.smb with out := none } } ∧
    exec .smbHealth s = .next { s with smb := { s.smb with out := none } }) ∧
  (∀ (w : Bool) (code : Byte) (s : State), feAlive s = true → (w = true ∨ code = 0 ∨ 9 < code.toNat) →
    exec (.smbusRejectedTransaction w code) s = .next { s with smb := { s.smb with out := none } })

/-- A counter that rises: its value is one higher, or stays at 2^32 − 1; its group's bit of ERR_SUM is set; every other counter keeps its
value (R520, R526). -/
def Obligations.CounterRises : Prop :=
  ∀ (off b : Nat) (s : State), errBitOf off = some b → computeDown s = false →
    (ctrGet (bump off s) off).toNat = min (2 ^ 32 - 1) ((ctrGet s off).toNat + 1) ∧
    (bump off s).mbx.errSum = s.mbx.errSum ||| (1#32 <<< b) ∧
    (∀ o, o ≠ off → ctrGet (bump off s) o = ctrGet s o)

/-! ## Firmware, service and move-list commands (chapters 08 and 19) -/

/-- FW_INFO answers the running slot and record 0x0042; FW_WRITE replaces one 64 KiB block of the slot that does not run and unmarks the
slot; FW_VERIFY marks the slot and queues its version for record 0x0042, or answers the check that failed; FW_ACTIVATE of a verified slot
queues `pref`, `trial` 1 and `tries` 3 and waits for the record or, live, for the hand-over, and FW_CONFIRM `trial` 0 (R505 to R509).
Nothing else changes. LIVE_FIRMWARE_HANDOVER: at a frame boundary in READY, with an image staged, the other slot's image runs: the slot,
FW_VER, the Alias key and the firmware digest follow, the event is logged and the FW_ACTIVATE that waited completes; the schedule, the tick,
the front end and every other part keep what they hold (R508). -/
def Obligations.FirmwareCommands : Prop :=
  (∀ (c : Cmd) (s : State), TakenUp 0x0101 c s →
    ∃ d, exec (.fwInfo c) s = .next (completed 0x0101 c .ok d s) ∧
      bitN d 0 = s.boot.slotB ∧ bitN d 8 = s.boot.sel.prefB ∧ bitN d 9 = s.boot.sel.trial ∧ bitsN d 23 16 = s.boot.sel.tries % 256 ∧
      bitN d 24 = s.boot.okA ∧ bitN d 25 = s.boot.okB ∧ bitsN d 63 32 = s.boot.sel.verA.toNat ∧ bitsN d 95 64 = s.boot.sel.verB.toNat) ∧
  (∀ (c : Cmd) (s : State), TakenUp 0x0102 c s → fld c 55 48 0 ≤ 23 → (selNext s).trial = false → memWf 0xFF#8 s.boot.flash = true →
    ∃ t, exec (.fwWrite c) s = .next t ∧ slotOk t (!s.boot.slotB) = false ∧
      (∀ k, k < 65536 → memRead 0xFF#8 t.boot.flash (slotAddr (!s.boot.slotB) + 65536 * fld c 55 48 0 + k) =
        if k < fld c 47 32 0 + 1 then memRead 0 s.host (fld c 127 64 0 + k) else 0xFF#8) ∧
      (∀ a, (a < slotAddr (!s.boot.slotB) + 65536 * fld c 55 48 0 ∨ slotAddr (!s.boot.slotB) + 65536 * fld c 55 48 0 + 65536 ≤ a) →
        memRead 0xFF#8 t.boot.flash a = memRead 0xFF#8 s.boot.flash a) ∧
      t = { completed 0x0102 c .ok 0 s with boot := { s.boot with flash := t.boot.flash, okA := t.boot.okA, okB := t.boot.okB } }) ∧
  (∀ (c : Cmd) (s : State), TakenUp 0x0103 c s → (∀ g, nvGroup s g = 0) →
    ∃ t, exec (.fwVerify c) s = .next t ∧
      (match slotVerify s (!s.boot.slotB) with
       | some st => t = completed 0x0103 c st 0 s
       | none => slotOk t (!s.boot.slotB) = true ∧ slotOk t s.boot.slotB = slotOk s s.boot.slotB ∧
          t.nv.recQ = s.nv.recQ ++ [(27, leBytes 64 (selBits
            (if !s.boot.slotB then { selNext s with verB := Config.fwVersion (slotImage s true) }
             else { selNext s with verA := Config.fwVersion (slotImage s false) })))] ∧
          t = { waitsNow 0x0103 c (.recWrite .boot) s with
            nv := asked s t, boot := { s.boot with okA := t.boot.okA, okB := t.boot.okB } })) ∧
  (∀ (c : Cmd) (s : State), TakenUp 0x0104 c s → slotOk s (!s.boot.slotB) = true → (∀ w ∈ s.mbx.waits, w.opcode ≠ 0x0104) → (∀ g, nvGroup s g = 0) →
    (fldB c 0 false = true → Config.fwAccepts (slotImage s (!s.boot.slotB)) (slotImage s s.boot.slotB) = true ∧ slotVerify s (!s.boot.slotB) = none) →
    ∃ t, exec (.fwActivate c) s = .next t ∧ t.nv.recQ = s.nv.recQ ++ [(27, leBytes 64 (selBits { selNext s with prefB := !s.boot.slotB, trial := true, tries := 3 }))] ∧
      t = { waitsNow 0x0104 c (if fldB c 0 false then .handover else .recWrite .boot) s with nv := asked s t }) ∧
  (∀ (c : Cmd) (s : State), TakenUp 0x0105 c s → (selNext s).trial = true →
    ∃ t, exec (.fwConfirm c) s = .next t ∧ t.nv.recQ = s.nv.recQ ++ [(27, leBytes 64 (selBits { selNext s with trial := false }))] ∧
      t = { waitsNow 0x0105 c (.recWrite .boot) s with nv := asked s t }) ∧
  (∀ s : State, s.boot.staged = true → s.tick.inFrame = 0 → s.boot.stage = .ready →
    ∃ t, exec .liveFirmwareHandover s = .next t ∧ t.boot.slotB = (!s.boot.slotB) ∧ t.boot.staged = false ∧
      t.boot.fwVer = Config.fwVersion (slotImage s (!s.boot.slotB)) ∧ t.boot.stage = .ready ∧
      (∀ w ∈ s.mbx.waits, w.act ≠ .handover → w ∈ t.mbx.waits) ∧ (∀ w ∈ t.mbx.waits, w.act ≠ .handover) ∧
      t.seq = s.seq ∧ t.tick = s.tick ∧ t.fe = s.fe ∧ t.fm = s.fm ∧ t.dram = s.dram ∧ t.kv = s.kv ∧ t.watch = s.watch ∧ t.links = s.links ∧
      t.bus = s.bus ∧ t.power = s.power ∧ t.tring = s.tring ∧ t.host = s.host ∧ t.nv.mem = s.nv.mem)

/-- FENCE changes the fence set that the next frame boundary brings, and with `persist` queues record 0x0042 as well; FENCE_POLICY waits for
the boundary; LOG_READ and COUNTER_DUMP write host memory and complete with OK (R512, R513, R514, R526). -/
def Obligations.ServiceInOperation : Prop :=
  (∀ (c : Cmd) (s : State), TakenUp 0x0B03 c s → resPresent s.part (fld c 8 0 0) = true → fldB c 9 false = true →
    (fldB c 10 false = false ∨ 272 ≤ fld c 8 0 0) →
    ∃ t, exec (.fence c) s = .next t ∧ t.seq.fenceNext = fenceAdd (fld c 8 0 0) s.seq.fenceNext ∧
      t = { waitsNow 0x0B03 c (.fence (fld c 8 0 0) true false false) s with seq := { s.seq with fenceNext := t.seq.fenceNext } }) ∧
  (∀ (c : Cmd) (s : State), TakenUp 0x0B03 c s → resPresent s.part (fld c 8 0 0) = true → fldB c 9 false = true → fldB c 10 false = true →
    fld c 8 0 0 < 272 →
    ∃ t, exec (.fence c) s = .next t ∧ t.seq.fenceNext = fenceAdd (fld c 8 0 0) s.seq.fenceNext ∧
      t.nv.recQ = s.nv.recQ ++ [(27, leBytes 64 (selBits { selNext s with fence := fenceAdd (fld c 8 0 0) (selNext s).fence }))] ∧
      t = { waitsNow 0x0B03 c (.fence (fld c 8 0 0) true true false) s with seq := { s.seq with fenceNext := t.seq.fenceNext }, nv := asked s t }) ∧
  (∀ (c : Cmd) (s : State), TakenUp 0x0B03 c s → resPresent s.part (fld c 8 0 0) = true → fldB c 9 false = false →
    (fld c 8 0 0 < 256 → fenced s.seq.fenceNext (256 + fld c 8 0 0 / 16) = false) →
    (272 ≤ fld c 8 0 0 → (linkOf s (fld c 8 0 0 - 272)).phase = .up) →
    ((fldB c 10 false = false ∨ 272 ≤ fld c 8 0 0) → ∃ t, exec (.fence c) s = .next t ∧
      t.seq.fenceNext = fenceDel (fld c 8 0 0) s.seq.fenceNext ∧
      t = { waitsNow 0x0B03 c (.fence (fld c 8 0 0) false false false) s with seq := { s.seq with fenceNext := t.seq.fenceNext } }) ∧
    (fldB c 10 false = true → fld c 8 0 0 < 272 → ∃ t, exec (.fence c) s = .next t ∧
      t.seq.fenceNext = fenceDel (fld c 8 0 0) s.seq.fenceNext ∧
      t.nv.recQ = s.nv.recQ ++ [(27, leBytes 64 (selBits { selNext s with fence := fenceDel (fld c 8 0 0) (selNext s).fence }))] ∧
      t = { waitsNow 0x0B03 c (.fence (fld c 8 0 0) false true false) s with seq := { s.seq with fenceNext := t.seq.fenceNext }, nv := asked s t })) ∧
  (∀ (c : Cmd) (s : State), TakenUp 0x0B04 c s → 1 ≤ fld c 63 48 1000 → 1 ≤ fld c 47 32 16 → 1 ≤ fld c 31 16 16 → 1 ≤ fld c 15 1 4 →
    exec (.fencePolicy c) s = .next (waitsNow 0x0B04 c (.fencePolicy { winFrames := fld c 63 48 1000, arrLim := fld c 47 32 16, vecLim := fld c 31 16 16, fmueLim := fld c 15 1 4, auto := fldB c 0 true }) s)) ∧
  (∀ (c : Cmd) (s : State), TakenUp 0x0B01 c s → 1 ≤ fld c 31 16 0 → fld c 31 16 0 ≤ 4096 → fldB c 0 false = false →
    ∃ t n, exec (.logRead c) s = .next t ∧ n ≤ fld c 31 16 0 ∧ n ≤ s.boot.log.length ∧
      (∀ a, (a < fld c 127 64 0 ∨ fld c 127 64 0 + 32 * n ≤ a) → memWf 0 s.host = true → memRead 0 t.host a = memRead 0 s.host a) ∧
      t = { completed 0x0B01 c .ok n s with host := t.host }) ∧
  (∀ (c : Cmd) (s : State), TakenUp 0x0B01 c s → 1 ≤ fld c 31 16 0 → fld c 31 16 0 ≤ 4096 → fldB c 0 false = true →
    (∀ g, nvGroup s g = 0) →
    ∃ t n, exec (.logRead c) s = .next t ∧ n ≤ fld c 31 16 0 ∧ n ≤ (nvLog s).length ∧
      (∀ a, (a < fld c 127 64 0 ∨ fld c 127 64 0 + 32 * n ≤ a) → memWf 0 s.host = true → memRead 0 t.host a = memRead 0 s.host a) ∧
      t = { completed 0x0B01 c .ok n s with host := t.host }) ∧
  (∀ (c : Cmd) (s : State), TakenUp 0x0B02 c s → memWf 0 s.host = true →
    ∃ t, exec (.counterDump c) s = .next t ∧ hostRead t (fld c 127 64 0) 4096 = bar0Bytes (slotTaken c s) 0x1000 4096 ∧
      (∀ a, (a < fld c 127 64 0 ∨ fld c 127 64 0 + 4096 ≤ a) → memRead 0 t.host a = memRead 0 s.host a) ∧
      t = { completed 0x0B02 c .ok 0 s with host := t.host })

/-- ML_LOAD empties the standby half, answers the check that the image fails, and holds the parsed list there when it passes all (R221);
ML_START decides the swap and waits for it (R218, R222); ML_STOP completes at once without a list and waits with one (R223); ML_STATUS
answers the block of Table 08-13. -/
def Obligations.MoveListCommands : Prop :=
  (∀ (c : Cmd) (s : State), TakenUp 0x0110 c s → fld c 127 64 0 % 64 = 0 → rangeOk s (fld c 127 64 0) (fld c 63 32 0) = true →
    1 ≤ fld c 63 32 0 → fld c 63 32 0 ≤ 2 ^ 22 → startPending s = false →
    loadRuns s = false → polder s 288 = .up → (∀ i, linePoison s i = false) → s.dram.wrong = [] →
    (∀ g, nvGroup s g = 0) →
    ∃ t, exec (.mlLoad c) s = .next t ∧
      (let b := (List.range (fld c 63 32 0)).map fun i => dramByte s (fld c 127 64 0 + i)
       match verifyImage s typeMoveList (bitsN (mlHead b) 415 384) b (bitsN (mlHead b) 447 416) with
       | some st => t = { completed 0x0110 c st 0 s with seq := { s.seq with standby := none }, free := s.free + 1 }
       | none =>
         match loaderFails s.part b with
         | some (n, i, mid) => t = { completed 0x0110 c .imageReject 0 s with
             mbx := { (completed 0x0110 c .imageReject 0 s).mbx with due := s.mbx.due ++
               [{ completionOf 0x0110 c .imageReject (pack [(0, 32, i), (32, 16, mid)]) with detail := n }] }
             seq := { s.seq with standby := none }
             free := s.free + 1 }
         | none => t = { completed 0x0110 c .ok 0 s with seq := { s.seq with standby := some (parseList b) }, free := s.free + 1 })) ∧
  (∀ (c : Cmd) (s : State) (l : MList), TakenUp 0x0111 c s → startPending s = false → loadRuns s = false → s.seq.standby = some l →
    recordsTooLong s l = false → (gptpSource s = false ∨ l.period % 6 = 0) →
    ∃ t ch, exec (.mlStart c) s = .next t ∧ t.seq.change = some ch ∧ ch.swap = true ∧
      t = { waitsNow 0x0111 c .mlStart s with seq := { s.seq with change := some ch }, power := t.power }) ∧
  (∀ (c : Cmd) (s : State), TakenUp 0x0112 c s →
    (s.seq.active = none → exec (.mlStop c) s = .next (completed 0x0112 c .ok 0 s)) ∧
    (∀ l, s.seq.active = some l → exec (.mlStop c) s = .next (waitsNow 0x0112 c .mlStop s))) ∧
  (∀ (c : Cmd) (s : State), TakenUp 0x0113 c s →
    exec (.mlStatus c) s = .next (answered 0x0113 c (mlStatusBlock s) 0 s))

/-- The tick commands: TICK_SET_SOURCE, TRING_SETUP, TICK_FORCE_FALLBACK and DICE_SEED wait for the boundary or edge that brings their
change and change nothing before it, and a second change of the source or the ring meanwhile completes with BUSY; TRING_STOP completes at
once without a list; TICK_COUNTERS answers the four counters, in the layout of log 26, and DICE_SEED with `read` the seed and the frame
number (R17, R36, R37, R41, R149, R543). -/
def Obligations.TickCommands : Prop :=
  (∀ (c : Cmd) (s : State), TakenUp 0x0201 c s → fld c 3 0 0 ≤ 4 → (inRing s = true ∧ s.links.master = false ↔ fld c 3 0 0 = 2) →
    (3 ≤ fld c 3 0 0 → ∀ p ∈ periodsNext s, p % 6 = 0) →
    (tickGroupPending s = false →
      exec (.tickSetSource c) s = .next (waitsNow 0x0201 c (.source (fld c 3 0 0) (BitVec.ofNat 64 (fld c 95 32 0))) s)) ∧
    (tickGroupPending s = true →
      exec (.tickSetSource c) s = .next (completed 0x0201 c .busy 0 s))) ∧
  (∀ (c : Cmd) (s : State), TakenUp 0x0202 c s → ringOk 8 11 (ringOf c) = true → 1 ≤ fld c 175 168 8 →
    (∀ l, s.seq.active = some l → recordLen l.nFeat l.nCorr ≤ 2 ^ (ringOf c).entryLog2) →
    (tickGroupPending s = false →
      exec (.tringSetup c) s = .next (waitsNow 0x0202 c (.tring (ringOf c) (fld c 175 168 8)) s)) ∧
    (tickGroupPending s = true →
      exec (.tringSetup c) s = .next (completed 0x0202 c .busy 0 s))) ∧
  (∀ (c : Cmd) (s : State), TakenUp 0x0203 c s → (s.seq.active = none ∨ s.tick.committed = true) →
    exec (.tringStop c) s = .next { completed 0x0203 c .ok 0 s with tring := { s.tring with on := false } }) ∧
  (∀ (c : Cmd) (s : State) (l : MList), TakenUp 0x0203 c s → s.seq.active = some l → s.tick.committed = false →
    exec (.tringStop c) s = .next (waitsNow 0x0203 c .tringStop s)) ∧
  (∀ (c : Cmd) (s : State), TakenUp 0x0204 c s →
    exec (.tickForceFallback c) s = .next (waitsNow 0x0204 c (.force (fldB c 0 false)) s)) ∧
  (∀ (c : Cmd) (s : State), TakenUp 0x0205 c s →
    ∃ d, exec (.tickCounters c) s = .next (completed 0x0205 c .ok d s) ∧ bitsN d 63 0 = s.tick.total.toNat ∧
      bitsN d 127 64 = s.tick.late.toNat ∧ bitsN d 191 128 = s.tick.fallback.toNat ∧ bitsN d 255 192 = s.tick.dark.toNat) ∧
  (∀ (c : Cmd) (s : State), TakenUp 0x0206 c s → fldB c 64 false = true →
    ∃ d, exec (.diceSeed c) s = .next (completed 0x0206 c .ok d s) ∧ bitsN d 63 0 = s.seq.seed.toNat ∧
      bitsN d 95 64 = s.tick.frame.toNat) ∧
  (∀ (c : Cmd) (s : State), TakenUp 0x0206 c s → fldB c 64 false = false → (∀ w ∈ s.mbx.waits, ∀ v, w.act ≠ .seed v) →
    exec (.diceSeed c) s = .next (waitsNow 0x0206 c (.seed (BitVec.ofNat 64 (fld c 63 0 0))) s))

/-! ## The non-volatile store (chapter 13) -/

/-- NV_READ of a range that no plane programs puts its bytes into host memory, the image's where the range reaches the image, and counts its
uncorrectable groups in `data`; of a range that programs it waits. NV_STATUS answers the block of R372, NV_CTR the counter. Its increment
and OPERATING_MINUTE program the cell after the current one with the value one higher, in a store where nothing else goes on; as that
program ends the cell is the current one and the increment completes with the new value (R342, R359, R362, Tables 13-7, 13-11, 13-12). -/
def Obligations.StoreReadsAndCounters : Prop :=
  (∀ (c : Cmd) (s : State), TakenUp 0x0601 c s → 1 ≤ fld c 44 32 0 → fld c 44 32 0 ≤ 4096 → fld c 18 0 0 + fld c 44 32 0 ≤ 0x80000 →
    nvReadWaits s (fld c 18 0 0) (fld c 44 32 0) = false → memWf 0 s.host = true →
    ∃ t d, exec (.nvRead c) s = .next t ∧ bitsN d 31 0 = ((nvGroups s (fld c 18 0 0) (fld c 44 32 0)).filter fun g => nvGroup s g == 2).length ∧
      (∀ k, k < fld c 44 32 0 → memRead 0 t.host (fld c 127 64 0 + k) = nvReadByte s (fld c 18 0 0 + k)) ∧
      (∀ a, (a < fld c 127 64 0 ∨ fld c 127 64 0 + fld c 44 32 0 ≤ a) → memRead 0 t.host a = memRead 0 s.host a) ∧
      t.mbx.due = s.mbx.due ++ [completionOf 0x0601 c .ok d] ∧ t.mbx.own = s.mbx.own ||| slotBit c ∧
      t = { s with mbx := t.mbx, host := t.host, ctr := t.ctr } ∧
      ((∀ g, nvGroup s g = 0) → t = { completed 0x0601 c .ok d s with host := t.host })) ∧
  (∀ (c : Cmd) (s : State), TakenUp 0x0601 c s → 1 ≤ fld c 44 32 0 → fld c 44 32 0 ≤ 4096 → fld c 18 0 0 + fld c 44 32 0 ≤ 0x80000 →
    nvReadWaits s (fld c 18 0 0) (fld c 44 32 0) = true →
    exec (.nvRead c) s = .next (waitsNow 0x0601 c (.nvRead (fld c 127 64 0) (fld c 44 32 0) (fld c 18 0 0)) s)) ∧
  (∀ (c : Cmd) (s : State), TakenUp 0x0603 c s →
    exec (.nvStatus c) s = .next (answered 0x0603 c (nvStatusBlock s) 0 s)) ∧
  (∀ (c : Cmd) (s : State), TakenUp 0x0604 c s → fldB c 4 false = false →
    ∃ t, exec (.nvCtr c) s = .next t ∧ t.mbx.due = s.mbx.due ++ [completionOf 0x0604 c .ok (match spreadCell s (fld c 3 0 0) with
        | some (_, v, g) => pack [(0, 40, v), (40, 16, g)]
        | none => 2 ^ 56)] ∧
      t.mbx.own = s.mbx.own ||| slotBit c ∧ t = { s with mbx := t.mbx, ctr := t.ctr } ∧ ((∀ g, nvGroup s g = 0) → t.ctr = s.ctr)) ∧
  (∀ (c : Cmd) (s : State) (i v g : Nat), TakenUp 0x0604 c s → fldB c 4 false = true → 8 ≤ fld c 3 0 0 → fld c 3 0 0 ≤ 11 → StoreIdle s →
    spreadCell s (fld c 3 0 0) = some (i, v, g) → v + 1 < 2 ^ 40 → (∀ g, nvGroup s g = 0) →
    exec (.nvCtr c) s = .next { waitsNow 0x0604 c (.nvWrite s.nv.nextSeq) s with
      nv := { programming s (s.nv.nextSeq + 1) (256 + 2 * fld c 3 0 0 + (i + 1) % 64 / 32)
          (placed (cellAddr (fld c 3 0 0) ((i + 1) % 64)) (cellBytes (v + 1) ((g + 1) % 65535))) with
        ctrRun := some { op := { n := fld c 3 0 0, wait := some s.nv.nextSeq }, cell := (i + 1) % 64, value := v + 1, gen := (g + 1) % 65535, progs := [s.nv.nextSeq + 1] } } }) ∧
  (∀ (s : State) (i v g : Nat), feAlive s = true → StoreIdle s → spreadCell s 4 = some (i, v, g) → v + 1 < 2 ^ 40 → (∀ g, nvGroup s g = 0) →
    exec .operatingMinute s = .next { s with
      nv := { programming s s.nv.nextSeq (264 + (i + 1) % 64 / 32) (placed (cellAddr 4 ((i + 1) % 64)) (cellBytes (v + 1) ((g + 1) % 65535))) with
        ctrRun := some { op := { n := 4 }, cell := (i + 1) % 64, value := v + 1, gen := (g + 1) % 65535, progs := [s.nv.nextSeq] } } }) ∧
  (∀ (p k : Nat) (x : CtrRun) (w : NvProg) (c : Cmd) (s : State) (i v g : Nat), 8 ≤ x.op.n → x.op.n ≤ 11 → spreadCell s x.op.n = some (i, v, g) →
    (∀ j r, j < 64 → cellRaw s x.op.n j = some r → r.1 ≤ v) → x.op = { n := x.op.n, wait := some k } → x.cell = (i + 1) % 64 → x.value = v + 1 → x.gen = (g + 1) % 65535 → v + 1 < 2 ^ 40 → x.rebuild = false →
    x.progs = [w.seq] → k ≠ w.seq → s.nv.powerFail = false → s.nv.ctrRun = some x → s.nv.ctrQ = [] → s.nv.enrol = none →
    tabFind s.nv.planes p = some w → w.bytes = placed (cellAddr x.op.n x.cell) (cellBytes x.value x.gen) → (∀ g, nvGroup s g = 0) →
    memWf 0xFF#8 s.nv.mem = true → s.nv.wear < 4095 → s.mbx.waits = [{ cmd := c, opcode := 0x0604, act := .nvWrite k }] →
    ∃ t, exec (.nvProgramEnd { plane := p }) s = .next t ∧ spreadCell t x.op.n = some (x.cell, v + 1, x.gen) ∧ t.nv.ctrRun = none ∧
      t.mbx.waits = [] ∧ (∃ e, t.mbx.due = s.mbx.due ++ [e] ∧ e.slot = c.slot % 64 ∧ e.cookie = c.cookie ∧ e.status = .ok ∧
        e.data = BitVec.ofNat 256 (pack [(0, 40, v + 1), (40, 16, x.gen)])) ∧
      t = { s with mbx := t.mbx, nv := t.nv })

/-- A native NV_WRITE to a page that may be programmed joins the page buffer, and its plane takes it up when it is idle; at NV_PROGRAM_END
only the bytes written change, and the command completes; groups of the page that the program left wrong read uncorrectable (R339 to R341).
A page above the protect level answers PROTECTED (R345). -/
def Obligations.StoreWrites : Prop :=
  (∀ (c : Cmd) (s : State), TakenUp 0x0602 c s → 1 ≤ fld c 44 32 0 → fld c 44 32 0 ≤ 256 → inImage s (fld c 18 0 0) = false →
    nvWritable s (fld c 18 0 0 / 256) = true → s.nv.powerFail = false → s.nv.queue = [] → s.nv.storing = none →
    tabHas s.nv.planes (planeOf (fld c 18 0 0 / 256)) = false →
    ∃ t, exec (.nvWrite c) s = .next t ∧ tabFind t.nv.planes (planeOf (fld c 18 0 0 / 256)) = some { seq := s.nv.nextSeq, page := fld c 18 0 0 / 256, bytes := nvPageBytes (fld c 18 0 0) (hostRead s (fld c 127 64 0) (fld c 44 32 0)) } ∧
      t = { waitsNow 0x0602 c (.nvWrite s.nv.nextSeq) s with nv := { s.nv with nextSeq := s.nv.nextSeq + 1, planes := t.nv.planes } }) ∧
  (∀ (c : Cmd) (s : State), TakenUp 0x0602 c s → 1 ≤ fld c 44 32 0 → fld c 44 32 0 ≤ 256 → inImage s (fld c 18 0 0) = false →
    nvWritable s (fld c 18 0 0 / 256) = false →
    exec (.nvWrite c) s = .next (completed 0x0602 c .protected_ 0 s)) ∧
  (∀ (e : ProgEnd) (w : NvProg) (s : State), tabFind s.nv.planes e.plane = some w → memWf 0xFF#8 s.nv.mem = true →
    ∃ t, exec (.nvProgramEnd e) s = .next t ∧ (∀ g, g ∈ e.bad → nvGroup t (32 * w.page + g % 32) = 2) ∧
      (∀ a, nvByte t a = (match w.bytes.reverse.find? (fun b => b.1 == a) with | some b => b.2 | none => nvByte s a)) ∧
      (∀ x ∈ s.mbx.waits, x.act = .nvWrite w.seq → x ∉ t.mbx.waits ∧
        ∃ e ∈ t.mbx.due, e.slot = x.cmd.slot % 64 ∧ e.cookie = x.cmd.cookie ∧ e.status = .ok) ∧
      t = { s with mbx := t.mbx, nv := t.nv, host := t.host, ctr := t.ctr, trust := t.trust })

/-- NV_PROTECT asks for the write of record 0x0044 and changes nothing before it. RECORD_WRITE of a record whose write has been asked for in
an idle store, and whose read-back passes, writes the other copy of the record, which is then the one that reads, and its command completes;
LOG_PAGE_PROGRAM programs the pending entries into the next log page, erased behind them (R348, R350, R355, R361). -/
def Obligations.StoreRecords : Prop :=
  (∀ (c : Cmd) (s : State), TakenUp 0x0605 c s →
    ∃ t, exec (.nvProtect c) s = .next t ∧ (29, storeBody (fld c 9 8 0) (storeNext s).2.1 (storeNext s).2.2) ∈ t.nv.recQ ∧
      t = { waitsNow 0x0605 c (.recWrite .store) s with nv := asked s t }) ∧
  (∀ (r : RecId) (oks : List Bool) (body : List Byte) (u s : State), StoreIdle u → feAlive u = true →
    s = recQueue (recIndex r) body u → tabGet {} u.nv.picks (recIndex r) = recChoose u (recIndex r) → nth oks 0 true = true →
    memWf 0xFF#8 u.nv.mem = true →
    ∃ t, exec (.recordWrite r oks) s = .next t ∧ recBody t (recIndex r) = some (padTo (recLen (recIndex r)) body) ∧ t.nv.recQ = [] ∧
      (tabGet {} t.nv.picks (recIndex r)).copyB = (recTarget u (recIndex r)).1 ∧
      (∀ w, u.mbx.waits = [w] → w.act = .recWrite r → t.mbx.waits = [] ∧ ∃ d, t.mbx.due = u.mbx.due ++ [d] ∧ d.slot = w.cmd.slot % 64 ∧
        d.cookie = w.cmd.cookie ∧ d.status = .ok ∧ t.host = u.host) ∧
      t.seq = u.seq ∧ t.fm = u.fm ∧ t.watch = u.watch ∧ t.kv = u.kv) ∧
  (∀ s : State, StoreIdle s → feAlive s = true → s.nv.logPend ≠ [] → s.nv.logPend.length ≤ 8 →
    ∃ t, exec .logPageProgram s = .next t ∧
      t = { s with nv := { programming s s.nv.nextSeq s.nv.logPage (placed (pageAddr s.nv.logPage)
          (s.nv.logPend.flatMap logEntryBytes ++ List.replicate (256 - 32 * s.nv.logPend.length) 0xFF#8)) with
        logPend := []
        logPage := if 767 ≤ s.nv.logPage then 288 else s.nv.logPage + 1 } })

/-- The volatile image: NV_WRITE to it changes the image and sets `img_dirty`; NV_IMG_STORE, and NV_MODE to native with a dirty image, start
a store, at whose end the image pages hold the image of its start and the commands complete, with INTERNAL where the write of the seal
failed (free, log 73); NV_IMG_RECALL, and NV_MODE to image, take the image from those pages, NV_MODE as its record is written (R362 to
R367). -/
def Obligations.StoreImage : Prop :=
  (∀ (c : Cmd) (s : State), TakenUp 0x0602 c s → 1 ≤ fld c 44 32 0 → fld c 44 32 0 ≤ 256 → inImage s (fld c 18 0 0) = true →
    fld c 18 0 0 + fld c 44 32 0 ≤ 0x40000 → s.nv.storing = none → memWf 0xFF#8 s.nv.img = true →
    ∃ t, exec (.nvWrite c) s = .next t ∧ t.nv.dirty = true ∧
      (∀ k, k < fld c 44 32 0 → memRead 0xFF#8 t.nv.img (fld c 18 0 0 - 0x30000 + k) = memRead 0 s.host (fld c 127 64 0 + k)) ∧
      (∀ a, (a < fld c 18 0 0 - 0x30000 ∨ fld c 18 0 0 - 0x30000 + fld c 44 32 0 ≤ a) → memRead 0xFF#8 t.nv.img a = memRead 0xFF#8 s.nv.img a) ∧
      t = { completed 0x0602 c .ok 0 s with nv := { s.nv with img := t.nv.img, dirty := true } }) ∧
  (∀ (c : Cmd) (s : State), TakenUp 0x0607 c s → s.nv.storing = none →
    ((s.nv.dirty = true ∨ fldB c 12 false = true) → exec (.nvImgStore c) s = .next { waitsNow 0x0607 c .imgStore s with nv := { s.nv with storing := some s.nv.img, failStore := false } }) ∧
    (s.nv.dirty = false → fldB c 12 false = false → exec (.nvImgStore c) s = .next (completed 0x0607 c .ok 0 s))) ∧
  (∀ (c : Cmd) (s : State), TakenUp 0x0606 c s → s.nv.storing = none → fldB c 10 false = false →
    (s.nv.image = true → s.nv.dirty = true → exec (.nvMode c) s = .next { waitsNow 0x0606 c (.nvMode false (fldB c 11 true)) s with nv := { s.nv with storing := some s.nv.img, failStore := false, modeNext := some (false, fldB c 11 true) } }) ∧
    ((s.nv.image = false ∨ s.nv.dirty = false) → ∃ t, exec (.nvMode c) s = .next t ∧ (29, storeBody (storeNext s).1 false (fldB c 11 true)) ∈ t.nv.recQ ∧
      t = { waitsNow 0x0606 c (.recWrite .store) s with nv := asked s t })) ∧
  (∀ (c : Cmd) (s : State), TakenUp 0x0606 c s → s.nv.storing = none → fldB c 10 false = true →
    ∃ t, exec (.nvMode c) s = .next t ∧ (29, storeBody (storeNext s).1 true (fldB c 11 true)) ∈ t.nv.recQ ∧
      t = { waitsNow 0x0606 c (.recWrite .store) s with nv := asked s t }) ∧
  (∀ (oks : List Bool) (body : List Byte) (u s : State), StoreIdle u → feAlive u = true → s = recQueue 29 body u → nth oks 0 true = true →
    (nth body 1 0).getLsbD 0 = true → u.nv.image = false → memWf 0xFF#8 u.nv.mem = true →
    ∃ t, exec (.recordWrite .store oks) s = .next t ∧ t.nv.image = true ∧ t.nv.dirty = false ∧
      ∀ k, k < 0x10000 → memRead 0xFF#8 t.nv.img k = nvByte u (0x30000 + k)) ∧
  (∀ (c : Cmd) (s : State), TakenUp 0x0608 c s → s.nv.storing = none → s.nv.image = true → memWf 0xFF#8 s.nv.mem = true →
    ∃ t, exec (.nvImgRecall c) s = .next t ∧ t.nv.dirty = false ∧
      (∀ k, k < 0x10000 → memRead 0xFF#8 t.nv.img k = nvByte s (0x30000 + k)) ∧ t.nv.mem = s.nv.mem ∧
      t.mbx.due = s.mbx.due ++ [completionOf 0x0608 c .ok 0] ∧ t.mbx.own = s.mbx.own ||| slotBit c ∧
      t = { s with mbx := t.mbx, nv := t.nv, ctr := t.ctr } ∧
      ((∀ g, nvGroup s g = 0) → t = { completed 0x0608 c .ok 0 s with nv := t.nv })) ∧
  (∀ (img : Mem) (s : State), s.nv.storing = some img → s.nv.planes = [] → memWf 0xFF#8 s.nv.mem = true →
    ∃ t, exec .imageStoreEnd s = .next t ∧ t.nv.storing = none ∧ t.nv.torn = (s.nv.torn && !(freeOks s).any id) ∧
      (∀ k, k < 0x10000 → nvByte t (0x30000 + k) = memRead 0xFF#8 img k) ∧
      (∀ x ∈ s.mbx.waits, x.act = .imgStore → x ∉ t.mbx.waits ∧
        ∃ e ∈ t.mbx.due, e.slot = x.cmd.slot % 64 ∧ e.cookie = x.cmd.cookie ∧ e.status = if (freeOks s).any id then .ok else .internal) ∧
      t = { s with mbx := t.mbx, nv := t.nv, ctr := t.ctr, boot := t.boot, host := t.host, free := s.free + 1 })

/-! ## The front end and the filter chain (chapters 03 and 04) -/

/-- FE_ROUTE, FE_SOURCE, FE_RANGE, FE_CM_WINDOW, FE_CURVE, CH_CHAIN and CH_EVENT with fields in range write their entry of the pending set
and nothing else; the applied configuration does not change (R63, R122). DISCARD empties the pending set. APPLY seals a pending set that
agrees and waits, or answers APPLY_REJECT with the rule and the channel and leaves the set pending (R122 to R124). FE_CAL_READ answers a set
or ratio in force, FE_CAL_WRITE queues its record (R90), FE_STATUS and CH_STATE answer their blocks. CH_FIR_LOAD writes the load bank alone,
CH_FIR_SWAP queues a swap on each named channel, CH_FIR_ABORT marks running fades, and CH_RESET the channels that reset at the next tick
boundary (R101 to R103, R126). -/
def Obligations.FrontEndCommands : Prop :=
  (∀ (c : Cmd) (s : State), TakenUp 0x0301 c s → fld c 4 0 0 ≤ 23 → fld c 21 16 0 ≤ 47 → fld c 29 24 0 ≤ 47 → fld c 42 41 0 ≠ 3 →
    (fld c 42 41 0 = 2 → fld c 45 43 0 ≤ 3) →
    ∃ t, exec (.feRoute c) s = .next t ∧ routeOf t.fe.pend (fld c 4 0 0) = { enable := fldB c 32 false, posPin := fld c 21 16 0, negPin := fld c 29 24 0, iepe := fldB c 34 false, burnout := fldB c 35 false, excKind := fld c 42 41 0, excNum := fld c 45 43 0, excOut := fld c 47 46 0 } ∧
      (∀ k, k ≠ fld c 4 0 0 → tabFind t.fe.pend.routes k = tabFind s.fe.pend.routes k) ∧
      t = { completed 0x0301 c .ok 0 s with fe := { s.fe with pend := { s.fe.pend with routes := t.fe.pend.routes } } }) ∧
  (∀ (c : Cmd) (v : SrcCfg) (s : State), TakenUp 0x0302 c s → fld c 3 0 0 ≤ 2 → fld c 7 4 0 ≤ (if fld c 3 0 0 = 0 then 7 else 3) →
    v = { enable := fldB c 116 false, value := fld c 111 96 0, polarity := fldB c 117 false, chop := fld c 127 120 0, pins := BitVec.ofNat 32 (fld c 95 64 0) } →
    (v.enable = true → srcInRange (fld c 3 0 0) v (srcIndex (fld c 3 0 0) (fld c 7 4 0)) = true) →
    ∃ t, exec (.feSource c) s = .next t ∧ srcOf t.fe.pend (srcIndex (fld c 3 0 0) (fld c 7 4 0)) = v ∧
      (∀ k, k ≠ srcIndex (fld c 3 0 0) (fld c 7 4 0) → tabFind t.fe.pend.srcs k = tabFind s.fe.pend.srcs k) ∧
      t = { completed 0x0302 c .ok 0 s with fe := { s.fe with pend := { s.fe.pend with srcs := t.fe.pend.srcs } } }) ∧
  (∀ (c : Cmd) (s : State), TakenUp 0x0303 c s → fld c 4 0 0 ≤ 23 → 1 ≤ fld c 63 48 1000 →
    ∃ t, exec (.feRange c) s = .next t ∧ rangeOf t.fe.pend (fld c 4 0 0) = { range := fld c 37 35 0, auto := fldB c 34 false, wide := fld c 43 41 0, narrow := fld c 40 38 7, dwell := fld c 63 48 1000 } ∧
      (∀ k, k ≠ fld c 4 0 0 → tabFind t.fe.pend.ranges k = tabFind s.fe.pend.ranges k) ∧
      t = { completed 0x0303 c .ok 0 s with fe := { s.fe with pend := { s.fe.pend with ranges := t.fe.pend.ranges } } }) ∧
  (∀ (c : Cmd) (s : State), TakenUp 0x0304 c s → fld c 4 0 0 ≤ 23 → -1000 ≤ signedN 16 (fld c 79 64 25000) →
    signedN 16 (fld c 79 64 25000) ≤ 25000 → 1 ≤ fld c 87 80 4 →
    ∃ t, exec (.feCmWindow c) s = .next t ∧ cmOf t.fe.pend (fld c 4 0 0) = { lo := signedN 16 (fld c 63 48 (wrapN 16 (-1000))), hi := signedN 16 (fld c 79 64 25000), persist := fld c 87 80 4 } ∧
      (∀ k, k ≠ fld c 4 0 0 → tabFind t.fe.pend.cms k = tabFind s.fe.pend.cms k) ∧
      t = { completed 0x0304 c .ok 0 s with fe := { s.fe with pend := { s.fe.pend with cms := t.fe.pend.cms } } }) ∧
  (∀ (c : Cmd) (s : State), TakenUp 0x0305 c s → fld c 4 0 0 ≤ 23 → curveKnown (fld c 95 88 0) = true →
    (fld c 103 96 0xFF ≤ 23 ∨ fld c 103 96 0xFF = 0xFF) →
    ∃ t, exec (.feCurve c) s = .next t ∧ curveOf t.fe.pend (fld c 4 0 0) = { curve := fld c 95 88 0, cj := fld c 103 96 0xFF } ∧
      (∀ k, k ≠ fld c 4 0 0 → tabFind t.fe.pend.curves k = tabFind s.fe.pend.curves k) ∧
      t = { completed 0x0305 c .ok 0 s with fe := { s.fe with pend := { s.fe.pend with curves := t.fe.pend.curves } } }) ∧
  (∀ (c : Cmd) (s : State), TakenUp 0x0309 c s → fld c 4 0 0 ≤ 23 → 1 ≤ fld c 26 16 1 → fld c 26 16 1 ≤ 1024 → 1 ≤ fld c 60 56 6 →
    fld c 60 56 6 ≤ 24 → 1 ≤ fld c 76 64 256 → fld c 76 64 256 ≤ 4096 → 1 ≤ fld c 84 80 6 → fld c 84 80 6 ≤ 16 →
    ∃ t, exec (.chChain c) s = .next t ∧ chainOf t.fe.pend (fld c 4 0 0) = { preset := fld c 9 8 0, maLen := fld c 26 16 1, sh1 := fld c 36 32 0, sh2 := fld c 44 40 0, coarseLen := fld c 49 48 3, peakDecay := fld c 60 56 6, rmsLen := fld c 76 64 256, envA := fld c 84 80 6, envFc := fld c 111 96 8192, envBw := fld c 127 112 4096 } ∧
      (∀ k, k ≠ fld c 4 0 0 → tabFind t.fe.pend.chains k = tabFind s.fe.pend.chains k) ∧
      t = { completed 0x0309 c .ok 0 s with fe := { s.fe with pend := { s.fe.pend with chains := t.fe.pend.chains } } }) ∧
  (∀ (c : Cmd) (s : State), TakenUp 0x030A c s → fld c 4 0 0 ≤ 23 → 1 ≤ fld c 111 96 1 → 1 ≤ fld c 127 112 1 →
    ∃ t, exec (.chEvent c) s = .next t ∧ eventOf t.fe.pend (2 * fld c 4 0 0 + fld c 5 5 0) = { enable := fldB c 11 false, below := fldB c 10 false, source := fld c 9 8 0, onLevel := BitVec.ofNat 32 (fld c 63 32 0), offLevel := BitVec.ofNat 32 (fld c 95 64 0), persistOn := fld c 111 96 1, persistOff := fld c 127 112 1 } ∧
      (∀ k, k ≠ 2 * fld c 4 0 0 + fld c 5 5 0 → tabFind t.fe.pend.events k = tabFind s.fe.pend.events k) ∧
      t = { completed 0x030A c .ok 0 s with fe := { s.fe with pend := { s.fe.pend with events := t.fe.pend.events } } }) ∧
  (∀ (c : Cmd) (s : State), TakenUp 0x030F c s →
    exec (.discardSet c) s = .next { completed 0x030F c .ok 0 s with fe := { s.fe with pend := {} } }) ∧
  (∀ (c : Cmd) (s : State), TakenUp 0x030E c s → s.fe.sealed_ = none →
    ∃ t, exec (.applySet c) s = .next t ∧
      (match applyCheck s (laid s.fe.cfg s.fe.pend) with
       | some (r, ch) => t = { s with mbx := { (completed 0x030E c .applyReject ch s).mbx with
           due := s.mbx.due ++ [{ completionOf 0x030E c .applyReject ch with detail := r }] } }
       | none => t = { waitsNow 0x030E c .applySet s with fe := { s.fe with sealed_ := some s.fe.pend, sealedDue := false, pend := {} } })) ∧
  (∀ (c : Cmd) (s : State), TakenUp 0x0306 c s → fldB c 16 false = false → fld c 4 0 0 < 24 →
    exec (.feCalRead c) s = .next (completed 0x0306 c .ok
      ((calSet s (fld c 4 0 0) (fld c 10 8 0)).1.toNat + (calSet s (fld c 4 0 0) (fld c 10 8 0)).2.toNat * 2 ^ 32) s)) ∧
  (∀ (c : Cmd) (s : State), TakenUp 0x0306 c s → fldB c 16 false = true → fld c 29 24 0 < 40 →
    exec (.feCalRead c) s = .next (completed 0x0306 c .ok (ratioOf s (fld c 29 24 0)).toNat s)) ∧
  (∀ (c : Cmd) (s : State), TakenUp 0x0307 c s → fldB c 16 false = true → fld c 29 24 0 < 40 →
    ∃ t, exec (.feCalWrite c) s = .next t ∧ t.fe.calWait = s.fe.calWait ++ [.ratio (fld c 29 24 0) (BitVec.ofNat 32 (fld c 63 32 0x40000000))] ∧
      t.nv.recQ = s.nv.recQ ++ [(24, calBody t 24 t.fe.calWait.length)] ∧
      t = { waitsNow 0x0307 c (.recWrite .ratios) s with fe := { s.fe with calWait := t.fe.calWait }, nv := asked s t }) ∧
  (∀ (c : Cmd) (s : State), TakenUp 0x0307 c s → fldB c 16 false = false → fld c 4 0 0 < 24 →
    ∃ t, exec (.feCalWrite c) s = .next t ∧ t.fe.calWait = s.fe.calWait ++ [.set (fld c 4 0 0) (fld c 10 8 0) (BitVec.ofNat 32 (fld c 63 32 0x40000000)) (BitVec.ofNat 32 (fld c 95 64 0))] ∧
      t.nv.recQ = s.nv.recQ ++ [(fld c 4 0 0, calBody t (fld c 4 0 0) t.fe.calWait.length)] ∧
      t = { waitsNow 0x0307 c (.recWrite (.calib (fld c 4 0 0))) s with fe := { s.fe with calWait := t.fe.calWait }, nv := asked s t }) ∧
  (∀ (c : Cmd) (s : State), TakenUp 0x0308 c s →
    ∃ bs, exec (.feStatus c) s = .next (answered 0x0308 c bs 0 s) ∧ bs.length = 192 ∧
      ∀ ch, ch < 24 → bitsN (leNat ((bs.drop (8 * ch)).take 8)) 2 0 = (chanOf s ch).range % 8 ∧
        bitN (leNat ((bs.drop (8 * ch)).take 8)) 8 = (chanOf s ch).cmFault) ∧
  (∀ (c : Cmd) (s : State), TakenUp 0x0311 c s →
    ∃ bs, exec (.chState c) s = .next (answered 0x0311 c bs 0 s) ∧ bs.length = 768 ∧
      ∀ ch, ch < 24 → bitsN (leNat ((bs.drop (32 * ch)).take 32)) 31 0 = (chanOf s ch).cnt % 2 ^ 32 ∧
        bitN (leNat ((bs.drop (32 * ch)).take 32)) 56 = fadeRuns (chanOf s ch) ∧
        bitsN (leNat ((bs.drop (32 * ch)).take 32)) 59 58 = nth (chanOf s ch).roles 0 0 % 4) ∧
  (∀ (c : Cmd) (s : State), TakenUp 0x030B c s → fld c 87 80 0 ≤ 127 → 1 ≤ fld c 95 88 1 → fld c 95 88 1 ≤ 64 →
    fld c 87 80 0 + fld c 95 88 1 ≤ 128 → 1 ≤ fld c 103 96 1 → fld c 103 96 1 ≤ 128 → (∀ ch, (chanOf s ch).swap = none) →
    ∃ t, exec (.chFirLoad c) s = .next t ∧ (∀ ch, ch < 24 → (fld c 23 0 0).testBit ch = true →
        (chanOf t ch).bankLoad.taps = fld c 103 96 1 ∧ (chanOf t ch).bankLoad.shift = fld c 108 104 23 ∧
        (chanOf t ch).bankLoad.fPass = fld c 127 112 32768 ∧
        (∀ i, i < fld c 95 88 1 → tabGet 0 (chanOf t ch).bankLoad.coefs (fld c 87 80 0 + i) = signedN 24 (fld c (128 + 24 * i + 23) (128 + 24 * i) 0)) ∧
        chanOf t ch = { chanOf s ch with bankLoad := (chanOf t ch).bankLoad }) ∧
      (∀ ch, (24 ≤ ch ∨ (fld c 23 0 0).testBit ch = false) → chanOf t ch = chanOf s ch) ∧
      t = { completed 0x030B c .ok 0 s with fe := { s.fe with chans := t.fe.chans } }) ∧
  (∀ (c : Cmd) (s : State), TakenUp 0x030C c s → fldB c 49 false = false → 16 ≤ fld c 44 32 16 → fld c 44 32 16 ≤ 4096 →
    chanList (fld c 23 0 0) ≠ [] → swapCheck s (chanList (fld c 23 0 0)) = none → (∀ ch, (chanOf s ch).fade = none ∧ (chanOf s ch).swap = none) →
    ∃ t, exec (.chFirSwap c) s = .next t ∧ (∀ ch, ch < 24 → (fld c 23 0 0).testBit ch = true →
        chanOf t ch = { chanOf s ch with swap := some { len := fld c 44 32 16, behind := false }, swapArmed := false }) ∧
      (∀ ch, (24 ≤ ch ∨ (fld c 23 0 0).testBit ch = false) → chanOf t ch = chanOf s ch) ∧
      t = { waitsNow 0x030C c (.firSwap (BitVec.ofNat 24 (fld c 23 0 0))) s with fe := { s.fe with chans := t.fe.chans } }) ∧
  (∀ (c : Cmd) (s : State), TakenUp 0x030C c s → fldB c 49 false = true →
    ∃ t, exec (.chFirSwap c) s = .next t ∧
      (∀ ch, ch < 24 → (fld c 23 0 0).testBit ch = true → (chanOf t ch).swap = none ∧
        (chanOf t ch).bankNew = (chanOf s ch).bankNew ∧ (chanOf t ch).fade = (chanOf s ch).fade) ∧
      (∀ ch, (24 ≤ ch ∨ (fld c 23 0 0).testBit ch = false) → chanOf t ch = chanOf s ch) ∧
      (∃ e, t.mbx.due = s.mbx.due ++ e ++ [completionOf 0x030C c .ok 0]) ∧ t.mbx.own = s.mbx.own ||| slotBit c ∧
      ((∀ ch, (chanOf s ch).swap = none) → t.mbx = (completed 0x030C c .ok 0 s).mbx) ∧
      t = { s with mbx := slotsOnly s t, fe := { s.fe with chans := t.fe.chans } }) ∧
  (∀ (c : Cmd) (s : State), TakenUp 0x030D c s →
    ∃ t, exec (.chFirAbort c) s = .next t ∧ (∀ ch, ch < 24 → (fld c 23 0 0).testBit ch = true → fadeRuns (chanOf s ch) = true →
        chanOf t ch = { chanOf s ch with abortReq := true }) ∧
      (∀ ch, (24 ≤ ch ∨ (fld c 23 0 0).testBit ch = false ∨ fadeRuns (chanOf s ch) = false) → chanOf t ch = chanOf s ch) ∧
      t = { completed 0x030D c .ok 0 s with fe := { s.fe with chans := t.fe.chans } }) ∧
  (∀ (c : Cmd) (s : State), TakenUp 0x0310 c s → chanList (fld c 23 0 0) ≠ [] →
    ∃ t, exec (.chReset c) s = .next t ∧ (∀ ch, ch < 24 → (fld c 23 0 0).testBit ch = true → chanOf t ch = { chanOf s ch with resetReq := true }) ∧
      (∀ ch, (24 ≤ ch ∨ (fld c 23 0 0).testBit ch = false) → chanOf t ch = chanOf s ch) ∧
      t = { waitsNow 0x0310 c (.chReset (BitVec.ofNat 24 (fld c 23 0 0))) s with fe := { s.fe with chans := t.fe.chans } })

/-- What a tick boundary and a reading bring to a channel or source: APPLY_TAKES_EFFECT puts the sealed set into force, SYNCHRONISING_RESET
starts the channel's chain anew, CALIBRATION_EFFECT puts calibration into force, CHOP_REVERSAL reverses a source, and the range, common-mode
and current-limit events change the one channel or source they name (R69, R75 to R79, R82, R84, R90, R114 to R116, R122). -/
def Obligations.FrontEndEvents : Prop :=
  (∀ (f : FeCfg) (s : State), s.fe.sealed_ = some f → s.fe.sealedDue = true →
    ∃ t, exec .applyTakesEffect s = .next t ∧ t.fe.cfg = laid s.fe.cfg f ∧ t.fe.sealed_ = none ∧ (25, configBody t) ∈ t.nv.recQ ∧
      (∀ ch, ch < 24 → (routeOf (laid s.fe.cfg f) ch).enable = true → (routeOf s.fe.cfg ch).enable = false →
        ResetCause.apply ∈ (chanOf t ch).due ∧ (chanOf t ch).range = (rangeOf (laid s.fe.cfg f) ch).range) ∧
      (∀ w ∈ s.mbx.waits, w.act = .applySet → w ∉ t.mbx.waits ∧
        ∃ e ∈ t.mbx.due, e.slot = w.cmd.slot % 64 ∧ e.cookie = w.cmd.cookie ∧ e.status = .ok ∧ e.data = s.tick.no.setWidth 256) ∧
      t = { s with fe := t.fe, mbx := t.mbx, nv := asked s t }) ∧
  (∀ (ch : Nat) (cause : ResetCause) (s : State), cause ∈ (chanOf s ch).due →
    ∃ t, exec (.synchronisingReset ch cause) s = .next t ∧ (chanOf t ch).cnt = 0 ∧ (chanOf t ch).k = 0 ∧ (chanOf t ch).xs = [] ∧
      (chanOf t ch).held = true ∧ (chanOf t ch).fSet = true ∧ (chanOf t ch).fade = none ∧ (chanOf t ch).swap = none ∧
      (chanOf t ch).settleTo = (chainOf s.fe.cfg ch).maLen + (chanOf t ch).bankNew.taps ∧
      (chanOf t ch).bankNew = (if (chanOf s ch).swap.isSome then (chanOf s ch).bankLoad else (chanOf s ch).bankNew) ∧
      (chanOf t ch).peak = (chanOf s ch).peak ∧ (chanOf t ch).rms = (chanOf s ch).rms ∧ (chanOf t ch).env = (chanOf s ch).env ∧
      (∀ k, k ≠ ch → chanOf t k = chanOf s k) ∧
      ((chanOf s ch).fade = none → t.nv = s.nv) ∧ ((chanOf s ch).fade.isSome = true → (25, configBody t) ∈ t.nv.recQ) ∧
      t = { s with fe := { s.fe with chans := t.fe.chans }, mbx := slotsOnly s t, nv := asked s t }) ∧
  (∀ (ch r : Nat) (g o : W32) (s : State), s.fe.calDue = [.set ch r g o] →
    ∃ t, exec .calibrationEffect s = .next t ∧ calSet t ch r = (g, o) ∧ t.fe.calDue = [] ∧
      ((chanOf s ch).range = r → ResetCause.calibration ∈ (chanOf t ch).due) ∧ t = { s with fe := t.fe }) ∧
  (∀ (n : Nat) (s : State), n < 4 → s.fe.chopDue.getLsbD n = true →
    ∃ t, exec (.chopReversal n) s = .next t ∧ t.fe.chopDue.getLsbD n = false ∧
      tabFind t.fe.reversed n = some (!tabGet (srcOf s.fe.cfg (8 + n)).polarity s.fe.reversed n) ∧
      (∀ ch, ch < 24 → routeSrc (routeOf s.fe.cfg ch) = some (8 + n) → ResetCause.source ∈ (chanOf t ch).due) ∧
      t = { s with fe := { s.fe with chopDue := t.fe.chopDue, reversed := t.fe.reversed, chans := t.fe.chans } }) ∧
  (∀ (n : Nat) (r : Bool) (s : State), n < 4 → (srcOf s.fe.cfg (8 + n)).enable = true → s.fe.vexcOk = true →
    s.fe.srcFault.getLsbD n = !r → computeDown s = false →
    ∃ t, exec (.sourceCurrentLimit n r) s = .next t ∧ t.fe.srcFault.getLsbD n = r ∧
      (∀ k, k < 4 → k ≠ n → t.fe.srcFault.getLsbD k = s.fe.srcFault.getLsbD k) ∧ t.mbx.intStatus = s.mbx.intStatus ||| (1#32 <<< 8) ∧
      t = { s with fe := { s.fe with srcFault := t.fe.srcFault }, mbx := t.mbx }) ∧
  (∀ (ok : Bool) (s : State), ∃ t, exec (.vexcToleranceChange ok) s = .next t ∧ t.fe.vexcOk = ok ∧
      t.fe.srcFault = (if ok then s.fe.srcFault else 0) ∧
      t = { s with fe := { s.fe with vexcOk := ok, srcFault := t.fe.srcFault }, mbx := t.mbx }) ∧
  (∀ (ch : Nat) (s : State), chanOn s ch = true → cmOff (cmOf s.fe.cfg ch) = false → (chanOf s ch).cmFault = false →
    (cmOf s.fe.cfg ch).persist ≤ (chanOf s ch).cmOut →
    ∃ t, exec (.cmFaultEnter ch) s = .next t ∧ chanOf t ch = { chanOf s ch with cmFault := true } ∧
      (∀ k, k ≠ ch → chanOf t k = chanOf s k) ∧ t = { s with fe := { s.fe with chans := t.fe.chans } }) ∧
  (∀ (ch : Nat) (s : State), (chanOf s ch).cmFault = true → (cmOf s.fe.cfg ch).persist ≤ (chanOf s ch).cmIn →
    ∃ t, exec (.cmFaultExit ch) s = .next t ∧ chanOf t ch = { chanOf s ch with cmFault := false } ∧
      (∀ k, k ≠ ch → chanOf t k = chanOf s k) ∧ t = { s with fe := { s.fe with chans := t.fe.chans } }) ∧
  (∀ (ch mag n : Nat) (s : State), chanOn s ch = true → (rangeOf s.fe.cfg ch).auto = true → (chanOf s ch).cmFault = false →
    overUp 1000000 (chanOf s ch).range mag = true → (rangeOf s.fe.cfg ch).wide < (chanOf s ch).range → s.fe.sealed_ = none →
    ∃ t r, exec (.autoRangeUp ch mag n) s = .next t ∧ (rangeOf s.fe.cfg ch).wide ≤ r ∧ r < (chanOf s ch).range ∧
      (overUp 1000000 r mag = false ∨ r = (rangeOf s.fe.cfg ch).wide) ∧
      chanOf t ch = { chanOf s ch with range := r, transient := true, flagLeft := flaggedSamples (chanOf s ch).range r, dwell := 0 } ∧
      (∀ k, k ≠ ch → chanOf t k = chanOf s k) ∧ t = { s with fe := { s.fe with chans := t.fe.chans } }) ∧
  (∀ (ch : Nat) (s : State), chanOn s ch = true → (rangeOf s.fe.cfg ch).auto = true → (chanOf s ch).cmFault = false →
    (rangeOf s.fe.cfg ch).dwell ≤ (chanOf s ch).dwell → (chanOf s ch).range < (rangeOf s.fe.cfg ch).narrow → s.fe.sealedDue = false →
    ∃ t, exec (.autoRangeDown ch) s = .next t ∧
      chanOf t ch = { chanOf s ch with range := (chanOf s ch).range + 1, transient := true, flagLeft := flaggedSamples (chanOf s ch).range ((chanOf s ch).range + 1), dwell := 0 } ∧
      (∀ k, k ≠ ch → chanOf t k = chanOf s k) ∧ t = { s with fe := { s.fe with chans := t.fe.chans } }) ∧
  (∀ (ch : Nat) (s : State), (chanOf s ch).transient = true → (chanOf s ch).flagLeft = 0 →
    ∃ t, exec (.rangeTransientEnd ch) s = .next t ∧ chanOf t ch = { chanOf s ch with transient := false } ∧
      (∀ k, k ≠ ch → chanOf t k = chanOf s k) ∧ t = { s with fe := { s.fe with chans := t.fe.chans } })

/-- FINE_OUTPUT counts every sample of its channel and forms an output at each multiple of the oversampling ratio (R95); events change state
at their persistence (R110), detectors start behind the settling outputs (R115), swaps, fades and aborts of the coefficient banks follow
R101 to R103, and where a fade ends the configuration record is asked for (Table 13-3). Each changes its own channel only. With a list
running and DMA port 1 owning the banks of the areas, FE_SUMMARY_DELIVERY writes each named channel's entry into the ingest area once,
SAMPLE_DEADLINE writes the entries still missing as poison of source bit 3, and FINE_WINDOW writes the fine stream (R20, R118, R119, R181);
field memory outside those bytes is as before. While another port owns the bank, an entry waits in the engine's buffer (R180). At a gate
that is closing or closed the entry is dropped, `sluice_drop` counts it, and field memory stays as it is (R479; log 90). -/
def Obligations.ChainEvents : Prop :=
  (∀ (ch : Nat) (xs : List Int) (s : State), chanOn s ch = true → ch < 24 → s.nv.powerFail = false → s.boot.extest = false →
    (chanOf s ch).due = [] → s.fe.sealedDue = false → s.fe.calDue = [] → s.fe.chopDue = 0 →
    ∃ t, exec (.fineOutput ch xs) s = .next t ∧ (chanOf t ch).cnt = (chanOf s ch).cnt + xs.length ∧
      (chanOf t ch).k + (chanOf s ch).cnt / osr (chainOf s.fe.cfg ch).preset =
        (chanOf s ch).k + ((chanOf s ch).cnt + xs.length) / osr (chainOf s.fe.cfg ch).preset ∧
      (∀ k, k ≠ ch → chanOf t k = chanOf s k) ∧
      t = { s with fe := { s.fe with chans := t.fe.chans }, mbx := slotsOnly s t, nv := asked s t, free := t.free }) ∧
  (∀ (ch ev : Nat) (e : EvRun) (s : State), ev < 2 → e = (if ev = 0 then (chanOf s ch).ev0 else (chanOf s ch).ev1) →
    (eventOf s.fe.cfg (2 * ch + ev)).enable = true → e.active = false → (eventOf s.fe.cfg (2 * ch + ev)).persistOn ≤ e.cntOn →
    ∃ t, exec (.eventActivate ch ev) s = .next t ∧
      chanOf t ch = (if ev = 0 then { chanOf s ch with ev0 := { active := true, cntOn := 0, cntOff := 0 } } else { chanOf s ch with ev1 := { active := true, cntOn := 0, cntOff := 0 } }) ∧
      (∀ k, k ≠ ch → chanOf t k = chanOf s k) ∧ t = { s with fe := { s.fe with chans := t.fe.chans } }) ∧
  (∀ (ch ev : Nat) (e : EvRun) (s : State), ev < 2 → e = (if ev = 0 then (chanOf s ch).ev0 else (chanOf s ch).ev1) → e.active = true →
    ((eventOf s.fe.cfg (2 * ch + ev)).enable = false ∨ (eventOf s.fe.cfg (2 * ch + ev)).persistOff ≤ e.cntOff) →
    ∃ t, exec (.eventDeactivate ch ev) s = .next t ∧
      chanOf t ch = (if ev = 0 then { chanOf s ch with ev0 := {} } else { chanOf s ch with ev1 := {} }) ∧
      (∀ k, k ≠ ch → chanOf t k = chanOf s k) ∧ t = { s with fe := { s.fe with chans := t.fe.chans } }) ∧
  (∀ (ch : Nat) (s : State), (chanOf s ch).held = true → (chanOf s ch).settleTo ≤ (chanOf s ch).k →
    ∃ t, exec (.detectorsStart ch) s = .next t ∧ (chanOf t ch).held = false ∧ (chanOf t ch).peak = 0 ∧ (chanOf t ch).rms = 0 ∧
      (chanOf t ch).env = 0 ∧ (chanOf t ch).win = [] ∧ (chanOf t ch).dk = 0 ∧ (chanOf t ch).fine = (chanOf s ch).fine ∧
      (∀ k, k ≠ ch → chanOf t k = chanOf s k) ∧ t = { s with fe := { s.fe with chans := t.fe.chans } }) ∧
  (∀ (ch : Nat) (w : Swap) (s : State), (chanOf s ch).swap = some w → (chanOf s ch).fade = none → (chanOf s ch).swapHold = false →
    ((chanOf s ch).swapArmed = true ∨ w.behind = true) →
    ∃ t, exec (.firSwapStart ch) s = .next t ∧ (chanOf t ch).bankNew = (chanOf s ch).bankLoad ∧
      (chanOf t ch).bankOld = (chanOf s ch).bankNew ∧ (chanOf t ch).bankLoad = (chanOf s ch).bankOld ∧
      (chanOf t ch).fade = some { len := w.len, i := 0 } ∧ (chanOf t ch).swap = none ∧ (chanOf s ch).settleTo ≤ (chanOf t ch).settleTo ∧
      (∀ k, k ≠ ch → chanOf t k = chanOf s k) ∧
      t = { s with fe := { s.fe with chans := t.fe.chans }, mbx := slotsOnly s t }) ∧
  (∀ (ch : Nat) (f : Fade) (s : State), (chanOf s ch).fade = some f → f.len ≤ f.i →
    ∃ t, exec (.firFadeEnd ch) s = .next t ∧ chanOf t ch = { chanOf s ch with fade := none, abortReq := false, abortArmed := false } ∧
      (∀ k, k ≠ ch → chanOf t k = chanOf s k) ∧ (25, configBody t) ∈ t.nv.recQ ∧
      t = { s with fe := { s.fe with chans := t.fe.chans }, nv := asked s t }) ∧
  (∀ (ch : Nat) (f : Fade) (s : State), (chanOf s ch).fade = some f → f.len ≤ f.i → exec (.firAbortEffect ch) s = .next s) ∧
  (∀ (ch : Nat) (f : Fade) (s : State), (chanOf s ch).fade = some f → f.i < f.len → (chanOf s ch).abortReq = true →
    (chanOf s ch).abortArmed = true →
    ∃ t, exec (.firAbortEffect ch) s = .next t ∧ chanOf t ch = { chanOf s ch with fade := none, abortReq := false, abortArmed := false, swapHold := true, faded := true } ∧
      (∀ k, k ≠ ch → chanOf t k = chanOf s k) ∧ (25, configBody t) ∈ t.nv.recQ ∧
      t = { s with fe := { s.fe with chans := t.fe.chans }, nv := asked s t }) ∧
  (∀ (m : BitVec 24) (l : MList) (s : State), computeDown s = false → s.nv.powerFail = false → s.seq.active = some l →
    memWf 0 s.fm.mem = true → l.ingestAddr % 64 = 0 →
    (∀ i, i < 384 → port1Owns s l.ingestField (l.ingestAddr + i) = true ∧ bankOn s l.ingestField (l.ingestAddr + i) = true ∧
      gateClosing s l.ingestField (bankOf (l.ingestAddr + i)) = false) →
    ∃ t, exec (.feSummaryDelivery m) s = .next t ∧
      (∀ ch, ch < 24 → m.getLsbD ch = true → tabHas s.fe.delivered ch = false → s.fe.lost.getLsbD ch = false →
        tabFind t.fe.delivered ch = some (tabGet 0 s.fe.ready ch) ∧
        ∀ k, k < 16 → memRead 0 t.fm.mem (chipAddr l.ingestField (l.ingestAddr + 16 * ch) + k) =
          nth (leBytes 16 (tabGet 0 s.fe.ready ch).toNat) k 0) ∧
      (∀ ch, (m.getLsbD ch = false ∨ tabHas s.fe.delivered ch = true) → tabFind t.fe.delivered ch = tabFind s.fe.delivered ch) ∧
      (∀ a, (a < chipAddr l.ingestField l.ingestAddr ∨ chipAddr l.ingestField l.ingestAddr + 384 ≤ a) →
        memRead 0 t.fm.mem a = memRead 0 s.fm.mem a) ∧
      t = { s with
        fe := { s.fe with delivered := t.fe.delivered, settling := t.fe.settling, rangeM := t.fe.rangeM, cmM := t.fe.cmM }
        fm := { s.fm with mem := t.fm.mem, poison := t.fm.poison, flips := t.fm.flips } }) ∧
  (∀ (ch : Nat) (l : MList) (s : State), computeDown s = false → s.nv.powerFail = false → s.seq.active = some l → ch < 24 →
    tabHas s.fe.delivered ch = false → s.fe.lost.getLsbD ch = false → feDropped s l.ingestField (l.ingestAddr + 16 * ch) = false →
    port1Owns s l.ingestField (l.ingestAddr + 16 * ch) = false →
    ∃ t, exec (.feSummaryDelivery (1#24 <<< ch)) s = .next t ∧ tabFind t.fe.delivered ch = some (tabGet 0 s.fe.ready ch) ∧
      tabFind t.fm.portWait (chipAddr l.ingestField (l.ingestAddr + 16 * ch)) =
        some { bytes := leBytes 16 (tabGet 0 s.fe.ready ch).toNat, poison := 0 } ∧
      t = { s with
        fe := { s.fe with delivered := t.fe.delivered, settling := t.fe.settling, rangeM := t.fe.rangeM, cmM := t.fe.cmM }
        fm := { s.fm with portWait := t.fm.portWait } }) ∧
  (∀ (ch : Nat) (l : MList) (s : State), computeDown s = false → s.nv.powerFail = false → s.seq.active = some l → ch < 24 →
    tabHas s.fe.delivered ch = false → s.fe.lost.getLsbD ch = false → feDropped s l.ingestField (l.ingestAddr + 16 * ch) = true →
    ∃ t, exec (.feSummaryDelivery (1#24 <<< ch)) s = .next t ∧ tabFind t.fe.delivered ch = some (tabGet 0 s.fe.ready ch) ∧ t.fm = s.fm ∧
      (ctrGet t cSluiceDrop).toNat = min (2 ^ 32 - 1) ((ctrGet s cSluiceDrop).toNat + 1)) ∧
  (∀ (late : List (Nat × Nat)) (l : MList) (s : State), computeDown s = false → s.seq.active = some l → memWf 0 s.fm.mem = true →
    l.ingestAddr % 64 = 0 →
    (∀ i, i < 384 → port1Owns s l.ingestField (l.ingestAddr + i) = true ∧ bankOn s l.ingestField (l.ingestAddr + i) = true ∧
      gateClosing s l.ingestField (bankOf (l.ingestAddr + i)) = false) →
    ∃ t, exec (.sampleDeadline late) s = .next t ∧ t.fe.lateFine = late ∧
      (∀ ch, ch < 24 → t.fe.lost.getLsbD ch = !tabHas s.fe.delivered ch) ∧
      (∀ ch, ch < 24 → tabHas s.fe.delivered ch = false →
        (∀ k, k < 16 → memRead 0 t.fm.mem (chipAddr l.ingestField (l.ingestAddr + 16 * ch) + k) = 0) ∧
        ∀ g ∈ groupsOf (chipAddr l.ingestField (l.ingestAddr + 16 * ch)) 16, tabGet 0 t.fm.poison g = 0x08#8) ∧
      (∀ a, (a < chipAddr l.ingestField l.ingestAddr ∨ chipAddr l.ingestField l.ingestAddr + 384 ≤ a) →
        memRead 0 t.fm.mem a = memRead 0 s.fm.mem a) ∧
      t = { s with
        fe := { s.fe with lateFine := t.fe.lateFine, lost := t.fe.lost }
        fm := { s.fm with mem := t.fm.mem, poison := t.fm.poison, flips := t.fm.flips } }) ∧
  (∀ (l : MList) (s : State), computeDown s = false → s.seq.active = some l → memWf 0 s.fm.mem = true → l.fineAddr % 64 = 0 →
    (∀ i, i < 8 * (24 * fineSlots s.tick.period) → port1Owns s l.fineField (l.fineAddr + i) = true ∧ bankOn s l.fineField (l.fineAddr + i) = true ∧
      gateClosing s l.fineField (bankOf (l.fineAddr + i)) = false) →
    ∃ t, exec .fineWindow s = .next t ∧
      (∀ i k, i < 24 * fineSlots s.tick.period → k < 8 →
        memRead 0 t.fm.mem (chipAddr l.fineField (l.fineAddr + 8 * i) + k) =
          nth (leBytes 8 (nth (tabGet [] s.fe.stream (i / fineSlots s.tick.period)) (i % fineSlots s.tick.period) 0).toNat) k 0) ∧
      (∀ a, (a < chipAddr l.fineField l.fineAddr ∨ chipAddr l.fineField l.fineAddr + 8 * (24 * fineSlots s.tick.period) ≤ a) →
        memRead 0 t.fm.mem a = memRead 0 s.fm.mem a) ∧
      t = { s with fm := { s.fm with mem := t.fm.mem, poison := t.fm.poison, flips := t.fm.flips } })

/-! ## The sequencer and its sync objects (chapter 08) -/

/-- SIGNAL adds to its object, saturating at 65,535, and leaves its epoch and every other object; a signal of 0 does nothing. BARRIER adds 1
and holds its engine until the object reaches the target; no engine stays held by an object that has reached its target (R207, R208, R210). -/
def Obligations.SignalsAndBarriers : Prop :=
  (∀ (obj n : Nat) (s : State), n ≠ 0 →
    ∃ t, exec (.signal obj n) s = .next t ∧ (syncOf t obj).count = min 65535 ((syncOf s obj).count + n) ∧
      (syncOf t obj).epoch = (syncOf s obj).epoch ∧ (∀ o, o ≠ obj → syncOf t o = syncOf s o) ∧
      (∀ b ∈ t.seq.barriers, (syncOf t b.2.1).count < b.2.2) ∧
      t = { s with seq := { s.seq with sync := t.seq.sync, barriers := t.seq.barriers } }) ∧
  (∀ (obj : Nat) (s : State), exec (.signal obj 0) s = .next s) ∧
  (∀ (engine obj tgt at_ : Nat) (s : State),
    ∃ t, exec (.barrier engine obj tgt at_) s = .next t ∧ (syncOf t obj).count = min 65535 ((syncOf s obj).count + 1) ∧
      (∀ o, o ≠ obj → syncOf t o = syncOf s o) ∧
      (min 65535 ((syncOf s obj).count + 1) < tgt → tabFind t.seq.barriers engine = some (obj, tgt)) ∧
      (tgt ≤ min 65535 ((syncOf s obj).count + 1) → (engine, (obj, tgt)) ∉ t.seq.barriers) ∧
      t = { s with seq := { s.seq with sync := t.seq.sync, barriers := t.seq.barriers } })

/-- SLOT_START of a later slot, or of slot 0: the slot opens, and every bank takes the owner that the slot's words give; a bank that a late
move uses has the owner of the slot at this offset less the lateness, since its hand-overs are held back by as much (R23, R177, R178, R201).
STEP at the start of a window: the current step of the window's job is issued, once in the window, when the step belongs to the window and
its class runs; nothing but the job and the step's sync objects changes. A step without moves is complete at once (R206, R207). -/
def Obligations.SlotsAndSteps : Prop :=
  (∀ (n : Nat) (k : Sched) (d : SlotDef) (s : State), runSched s = some k → k.slots[n]? = some d → (n = 0 ∨ s.seq.slot < n) →
    ∃ t, exec (.slotStart n) s = .next t ∧ t.seq.slot = n ∧
      (∀ i, i < 512 → (∀ u ∈ lateUses s d.start, u.bank ≠ i) → slotAt k d.start = n → tabGet 0x1F t.seq.owner i = slotOwner d (i / 32) (i % 32)) ∧
      (∀ i, i < 512 → tabGet 0x1F t.seq.owner i =
        slotOwner (nth k.slots (slotAt k (d.start - bankSlip (lateUses s d.start) i)) {}) (i / 32) (i % 32)) ∧
      t = { s with seq := { s.seq with slot := t.seq.slot, owner := t.seq.owner } }) ∧
  (∀ (w at_ : Nat) (l : MList) (k : Sched) (win : WinDef) (s : State), s.seq.active = some l → runSched s = some k → k.wins[w]? = some win →
    (jobOf s win.job).running = true → (jobOf s win.job).busy = false → stepWindow k win.job (jobOf s win.job).cursor = some w →
    s.seq.stopped.getLsbD (nth l.jobs win.job {}).jclass = false → suppressed s k (nth l.jobs win.job {}) = false → at_ = win.start →
    s.seq.ranWins.contains w = false →
    ((∃ i ∈ stepMoves k win.job (jobOf s win.job).cursor, s.seq.issued.contains (.stepArea i) = false) →
      ∃ t, exec (.step w at_) s = .next t ∧ jobOf t win.job = { jobOf s win.job with busy := true } ∧
        (∀ j, j ≠ win.job → jobOf t j = jobOf s j) ∧
        t = { s with seq := { s.seq with jobs := t.seq.jobs, sync := t.seq.sync, ranWins := s.seq.ranWins ++ [w] } }) ∧
    (stepMoves k win.job (jobOf s win.job).cursor = [] → (jobOf s win.job).cursor + 1 < (stepStarts k win.job).length →
      ∃ t, exec (.step w at_) s = .next t ∧ jobOf t win.job = { jobOf s win.job with cursor := (jobOf s win.job).cursor + 1 } ∧
        (∀ j, j ≠ win.job → jobOf t j = jobOf s j) ∧
        t = { s with seq := { s.seq with jobs := t.seq.jobs, ranWins := s.seq.ranWins ++ [w] } }) ∧
    (∀ u : State, u.seq.ranWins.contains w = true → exec (.step w at_) u = .next u))

/-- MOVE_ISSUE of a record whose time has come, which nothing forbids: it joins the moves in flight with its planned start, once; and no
record that addresses a fenced unit is issued (R53, R202). SYNC_WAIT_SATISFIED and MOVE_DELAYED_START: an issued move that has not started
starts at the given offset once nothing blocks it and the slip of its engine allows it; nothing but the sequencer changes, and the step
count of a watch whose run reaches VADAM (R23, R209, R307). MOVE_COMPLETE of a started move at its time and with its work done: it leaves
the moves in flight, a tick-critical one moves the tick's last completion, and it signals its object in the epoch of its issue (R28, R206,
R208). Without a watch image nothing but the sequencer and the tick changes; with one, the end of a run of its jobs reads and writes what
R309 and R310 say. A vector move that runs whole has the one time of its formula (R167). -/
def Obligations.MovesInFlight : Prop :=
  (∀ (r : MoveRef) (at_ p : Nat) (l : MList) (k : Sched) (m : Move) (s : State), s.seq.active = some l → runSched s = some k →
    moveOf k r = some m → plannedStart s k r m = some p → m.opcode ≠ 0x7F → s.seq.issued.contains r = false →
    targetFenced s l m.target = false → p ≤ at_ → waitingOn s l m.target < 16 → earlierLeft s l k r m = false →
    s.seq.stopped.getLsbD m.jclass = false →
    ∃ t fl, exec (.moveIssue r at_) s = .next t ∧ t.seq.flying.getLast? = some fl ∧ t.seq.flying.length = s.seq.flying.length + 1 ∧
      fl.mv = m ∧ fl.ref = r ∧ fl.planned = p ∧ fl.key = s.seq.nextKey ∧ (fl.started = none ∨ fl.started = some at_) ∧
      t.seq.issued = s.seq.issued ++ [r] ∧ t.seq.nextKey = s.seq.nextKey + 1 ∧ (m.opcode ≠ 0x50 → t.watch = s.watch) ∧
      t = { s with seq := t.seq, watch := t.watch }) ∧
  (∀ (r : MoveRef) (at_ : Nat) (l : MList) (k : Sched) (m : Move) (s : State), s.seq.active = some l → runSched s = some k →
    moveOf k r = some m → targetFenced s l m.target = true → exec (.moveIssue r at_) s = .next s) ∧
  (∀ (key at_ : Nat) (l : MList) (m : Flying) (s : State), s.seq.active = some l → flyingOf s key = some m → m.started = none →
    startBlocked s l at_ m = false → m.planned + slipOf s l m.engine ≤ at_ →
    (∃ t, exec (.moveDelayedStart key at_) s = .next t ∧ (∃ n, flyingOf t key = some n ∧ n.started = some at_ ∧ n.mv = m.mv) ∧
      (m.mv.opcode ≠ 0x50 → t.watch = s.watch) ∧
      t = { s with seq := { s.seq with flying := t.seq.flying, slip := t.seq.slip, arrRuns := t.seq.arrRuns, late := t.seq.late }, watch := t.watch }) ∧
    (m.mv.waitEn = true → exec (.syncWaitSatisfied key at_) s = exec (.moveDelayedStart key at_) s) ∧
    (m.mv.waitEn = false → exec (.syncWaitSatisfied key at_) s = .next s)) ∧
  (∀ (key at_ st : Nat) (l : MList) (m : Flying) (s : State), s.seq.active = some l → flyingOf s key = some m → m.started = some st →
    mayComplete s l m st at_ = true → stillWorks s m = false →
    ∃ t, exec (.moveComplete key at_) s = .next t ∧ flyingOf t key = none ∧
      (m.mv.cls = .tickCritical → t.tick.tcLast = some (match s.tick.tcLast with | some u => max u at_ | none => at_)) ∧
      (m.mv.cls ≠ .tickCritical → t.tick = s.tick) ∧
      (ownSignal m.mv.opcode = false → m.mv.sigN ≠ 0 → m.epoch = (syncOf s m.mv.sigObj).epoch →
        (syncOf t m.mv.sigObj).count = min 65535 ((syncOf s m.mv.sigObj).count + m.mv.sigN)) ∧
      (ownSignal m.mv.opcode = false → m.mv.sigN ≠ 0 → m.epoch ≠ (syncOf s m.mv.sigObj).epoch → t.seq.sync = s.seq.sync) ∧
      (s.watch.image = none → t = { s with seq := t.seq, tick := t.tick }) ∧
      (0x500 ≤ m.engine → m.engine < 0x520 → m.resumed = false → at_ = st + moveDone l m.mv m.cold) ∧
      t = { s with seq := t.seq, tick := t.tick, watch := t.watch, fm := t.fm, dram := t.dram, mbx := t.mbx, ctr := t.ctr, boot := t.boot
                   nv := t.nv, power := t.power, links := t.links, free := t.free })

/-- SCHEDULE_CHANGE, decided and due, to another schedule or tier of the running list: the new schedule is in force, with its tier, slot 0
and no move in flight; every tile register is invalid (R157, R215, R218, R219). -/
def Obligations.ScheduleChangeTakesEffect : Prop :=
  ∀ (l : MList) (c : Change) (s : State), changeDue s = true → s.boot.stage = .ready → s.seq.active = some l → s.seq.change = some c →
    c.swap = false → (c.sched ≠ s.seq.sched ∨ s.seq.tierReq ≠ s.seq.tierRun) →
    ∃ t, exec .scheduleChange s = .next t ∧ t.seq.sched = c.sched ∧ t.seq.tierRun = s.seq.tierReq ∧ t.seq.change = none ∧ t.seq.slot = 0 ∧
      t.seq.flying = [] ∧ t.seq.stopped = stoppedClasses l c.sched ∧ (∀ e ∈ t.fm.arrs, e.2.trValid = false) ∧ t.dram = s.dram ∧
      (s.seq.flying = [] → t.fm.mem = s.fm.mem) ∧ t.pending = s.pending

/-! ## Arrays, vectors and set moves (chapters 06 and 10) -/

/-- AZERO of a live unit: the named half of each of its arrays is cleared, valid and of the given type; the other half, the tile registers,
every other array and everything else stay (Table 06-3, R158). TLOAD of one tile on one array: the tile registers are valid, TR0 holds the
tile of memory, the halves and every other array stay, and field memory keeps every byte (R545). DRAIN of one row of one array to an output
of 8, 16 or 32 bits whose banks are on: the 16 results are the converted accumulators, stored densely; the array keeps its state, and every
other byte of field memory its value (Table 05-6, R163, R545). -/
def Obligations.ArrayMoves : Prop :=
  (∀ (unit : Nat) (h : Bool) (ty : AccTy) (s : State), unitLive s (unitGrid s unit).2.2 = true →
    ∃ t, exec (.azero unit h ty) s = .next t ∧
      (∀ a ∈ (unitGrid s unit).2.2, arrOf t a = setHalf h { ty := ty, valid := true, vals := [], poison := [] } (arrOf s a)) ∧
      (∀ a, a ∉ (unitGrid s unit).2.2 → arrOf t a = arrOf s a) ∧ t = { s with fm := { s.fm with arrs := t.fm.arrs } }) ∧
  (∀ (a d b : Nat) (ty : AccTy) (o : ArrOpnd) (x : MoveCtx) (s : State), a < 256 → a < nArrays s.part → computeDown s = false →
    pairOf o.inFmt o.wFmt = some (ty, d, b) → 1 ≤ o.kLen → o.kLen ≤ d →
    ∃ t, exec (.tload a o x) s = .next t ∧ (arrOf t a).trValid = true ∧ nth (arrOf t a).tr 0 [] = tileRead s o (fieldOf a) d 1 1 0 0 0 ∧
      (arrOf t a).h0 = (arrOf s a).h0 ∧ (arrOf t a).h1 = (arrOf s a).h1 ∧ (∀ a', a' ≠ a → arrOf t a' = arrOf s a') ∧
      t.fm.mem = s.fm.mem ∧ t = { s with fm := t.fm, mbx := t.mbx, ctr := t.ctr }) ∧
  (∀ (a : Nat) (o : ArrOpnd) (x : MoveCtx) (s : State), a < 256 → a < nArrays s.part → computeDown s = false → o.m = 1 →
    fmtMx o.outFmt = false → 8 ≤ fmtBits o.outFmt → o.amaxEn = false → o.outAddr % 8 = 0 → x.resid = [] → memWf 0 s.fm.mem = true →
    (halfOf (arrOf s a) o.half).valid = true → (halfOf (arrOf s a) o.half).poison = [] →
    (∀ i, i < elemBytes o.outFmt 16 → bankOn s (fieldOf a) (o.outAddr + i) = true) →
    ∃ t, exec (.drain a o x) s = .next t ∧
      (∀ n, n < 16 → elemCode t (fieldOf a) o.outFmt o.outAddr n =
        (match outVal (halfOf (arrOf s a) o.half).ty o.outFmt o.outScale (tabGet 0 (halfOf (arrOf s a) o.half).vals n) with
          | .code k _ => k
          | .val w _ => (convElem o.outFmt o.mode o.sat (dice s.seq.seed o.stream (streamAt s a x) n) (dec32 w)).1) % 2 ^ fmtBits o.outFmt) ∧
      (∀ i, (i < chipAddr (fieldOf a) o.outAddr ∨ chipAddr (fieldOf a) o.outAddr + elemBytes o.outFmt 16 ≤ i) →
        memRead 0 t.fm.mem i = memRead 0 s.fm.mem i) ∧
      t.fm.arrs = s.fm.arrs ∧ t = { s with fm := t.fm, mbx := t.mbx, ctr := t.ctr, free := t.free })

/-- MM and MMT on one array, without the output stage: each accumulator of the first m rows holds the chunked sum over the tiles of memory,
from 0 or from the old value, and the half takes the pair's type (R139, R140, R156, R158). Field memory keeps every byte, and every other
array its state. -/
def Obligations.ArrayProductAccumulates : Prop :=
  ∀ (trans : Bool) (a d b : Nat) (ty : AccTy) (o : ArrOpnd) (x : MoveCtx) (s : State), a < 256 → a < nArrays s.part → computeDown s = false →
    pairOf o.inFmt o.wFmt = some (ty, d, b) → o.keep = false → o.drain = false →
    ∃ t, exec (if trans then .mmt a o x else .mm a o x) s = .next t ∧
      (halfOf (arrOf t a) o.half).ty = ty ∧
      (∀ r n, r < o.m → n < 16 → tabGet 0 (halfOf (arrOf t a) o.half).vals (16 * r + n) =
        (accumulate s o ty d 1 0 (fieldOf a) r n trans
          ((List.range ((o.kLen + 1 * d - 1) / (1 * d))).map fun k => (k, tileRead s o (fieldOf a) d 1 1 k 0 0))
          (if o.acc then tabGet 0 (halfOf (arrOf s a) o.half).vals (16 * r + n) else 0, false)).1) ∧
      halfOf (arrOf t a) (!o.half) = halfOf (arrOf s a) (!o.half) ∧ (∀ a', a' ≠ a → arrOf t a' = arrOf s a') ∧
      t.fm.mem = s.fm.mem ∧ t.fm.poison = s.fm.poison ∧ t = { s with fm := t.fm, mbx := t.mbx, ctr := t.ctr }

/-- The element operations of the vector engine with an output of 8, 16 or 32 bits, no mark on an operand and the output's banks on: element
e of the output is the operation's result on element e of the operands, scaled, rounded and saturated by the output stage; every byte
outside the output keeps its value (Table 06-7, R166, R167). The transcendental functions give any value within their bound, so their result
carries the model's free value. An in-place move that a cancelled run left resumes at the vector it left (R172). -/
def Obligations.VectorElementsStored : Prop :=
  ∀ (i : Instr) (f : Nat) (o : VecOpnd) (x : MoveCtx) (s : State), elementRow i = some (f, o, x) → fieldLive s f = true →
    fmtMx o.outFmt = false → 8 ≤ fmtBits o.outFmt → o.amaxEn = false → o.outAddr % 8 = 0 → x.resid = [] →
    memWf 0 s.fm.mem = true → Unmarked s f o →
    (∀ k, k < elemBytes o.outFmt (64 * o.n) → bankOn s f (o.outAddr + k) = true) →
    ∃ t, exec i s = .next t ∧
      (∀ e, 64 * startsAt i s ≤ e → e < 64 * o.n → elemCode t f o.outFmt o.outAddr e =
        (convElem o.outFmt o.mode o.sat (dice s.seq.seed o.stream (streamAt s (0x500 + f) x) e)
          (dec32 (scaleOut o.outScale (elementValue i s e)).1)).1 % 2 ^ fmtBits o.outFmt) ∧
      (∀ k, (k < chipAddr f o.outAddr + elemBytes o.outFmt (64 * min (startsAt i s) o.n) ∨
        chipAddr f o.outAddr + elemBytes o.outFmt (64 * o.n) ≤ k) →
        memRead 0 t.fm.mem k = memRead 0 s.fm.mem k) ∧
      t = { s with fm := t.fm, seq := { s.seq with resume := t.seq.resume }, mbx := t.mbx, ctr := t.ctr, free := t.free }

/-- The row reductions with an output of 8, 16 or 32 bits: element r of the output is the reduction of row r in its fixed order; every byte
outside the output keeps its value; an in-place move resumes at the vector of results that a cancelled run left (R169, R172). VLNORM, VRMSN
and VSMAX of one row of 64 elements with an output of 8, 16 or 32 bits: element e of the output is the row's result e, within the bounds of
R170 (the free value picks inside them); every byte outside the output keeps its value. One that a cancelled run has finished in place does
nothing more (R172). -/
def Obligations.RowOperationsStored : Prop :=
  (∀ (i : Instr) (f : Nat) (o : VecOpnd) (x : MoveCtx) (g : List W32 → W32) (s : State), rowReduction i = some (f, o, x, g) →
    fieldLive s f = true → fmtMx o.outFmt = false → 8 ≤ fmtBits o.outFmt → o.amaxEn = false → o.outAddr % 8 = 0 → x.resid = [] →
    memWf 0 s.fm.mem = true → (∀ e, e < 64 * o.n → vPoison s f (opA o) e = 0) → vScalarPoison s f o = 0 →
    (∀ k, k < roundUp (elemBytes o.outFmt (rowCount o)) 8 → bankOn s f (o.outAddr + k) = true) →
    ∃ t, exec i s = .next t ∧
      (∀ r, 64 * startsAt i s ≤ r → r < rowCount o → elemCode t f o.outFmt o.outAddr r =
        (convElem o.outFmt o.mode o.sat (dice s.seq.seed o.stream (streamAt s (0x500 + f) x) r)
          (dec32 (scaleOut o.outScale (g ((rowElems o r).map fun e => vElem s f (opA o) e))).1)).1 % 2 ^ fmtBits o.outFmt) ∧
      (∀ k, (k < chipAddr f o.outAddr ∨ chipAddr f o.outAddr + roundUp (elemBytes o.outFmt (rowCount o)) 8 ≤ k) →
        memRead 0 t.fm.mem k = memRead 0 s.fm.mem k) ∧
      t = { s with fm := t.fm, seq := { s.seq with resume := t.seq.resume }, mbx := t.mbx, ctr := t.ctr, free := t.free }) ∧
  (∀ (i : Instr) (f : Nat) (o : VecOpnd) (x : MoveCtx) (s : State), normRow i = some (f, o, x) → fieldLive s f = true → o.n = 1 → o.len = 64 →
    fmtMx o.outFmt = false → 8 ≤ fmtBits o.outFmt → o.amaxEn = false → o.outAddr % 8 = 0 → x.resid = [] → memWf 0 s.fm.mem = true →
    (∀ e, e < 64 → vPoison s f (opA o) e = 0 ∧ vPoison s f (opGamma o) e = 0 ∧ vPoison s f (opBeta o) e = 0) →
    vScalarPoison s f o = 0 → (∀ k, k < elemBytes o.outFmt 64 → bankOn s f (o.outAddr + k) = true) →
    ∃ t, exec i s = .next t ∧
      (startsAt i s = 0 → ∀ e, e < 64 → elemCode t f o.outFmt o.outAddr e =
        (convElem o.outFmt o.mode o.sat (dice s.seq.seed o.stream (streamAt s (0x500 + f) x) e)
          (dec32 (scaleOut o.outScale (normValue i s e)).1)).1 % 2 ^ fmtBits o.outFmt) ∧
      (startsAt i s ≠ 0 → t.fm.mem = s.fm.mem) ∧
      (∀ k, (k < chipAddr f o.outAddr ∨ chipAddr f o.outAddr + elemBytes o.outFmt 64 ≤ k) → memRead 0 t.fm.mem k = memRead 0 s.fm.mem k) ∧
      t = { s with fm := t.fm, seq := { s.seq with resume := t.seq.resume }, mbx := t.mbx, ctr := t.ctr, free := t.free })

/-- VCMP writes bit e of the mask as the comparison of element e, false where either is NaN; VTRN moves element (r, c) of each block to (c,
r), through the output stage like every result (Table 06-7, R166). Every byte outside the result keeps its value. VADAM on vectors without a
marked operand, with disjoint state, no narrow copy and no amax: the words of mv, vv and w are those of R171, with the quotient any value
within its bound (the free value), for every vector that a cancelled run has not done already (R171, R172). -/
def Obligations.VectorOtherMoves : Prop :=
  (∀ (f : Nat) (o : VecOpnd) (x : MoveCtx) (s : State), fieldLive s f = true → o.maskAddr % 8 = 0 → x.resid = [] →
    memWf 0 s.fm.mem = true → (∀ e, e < 64 * o.n → vPoison s f (opA o) e = 0 ∧ vPoison s f (opB o) e = 0) → vScalarPoison s f o = 0 →
    (∀ k, k < 8 * o.n → bankOn s f (o.maskAddr + k) = true) →
    ∃ t, exec (.vcmp f o x) s = .next t ∧
      (∀ e, 64 * startsAt (.vcmp f o x) s ≤ e → e < 64 * o.n → maskBit t f o e = cmpHolds o.cmp (vElem s f (opA o) e) (vElem s f (opB o) e)) ∧
      (∀ k, (k < chipAddr f o.maskAddr ∨ chipAddr f o.maskAddr + 8 * o.n ≤ k) → memRead 0 t.fm.mem k = memRead 0 s.fm.mem k) ∧
      t = { s with fm := t.fm, seq := { s.seq with resume := t.seq.resume }, mbx := t.mbx, ctr := t.ctr, free := t.free }) ∧
  (∀ (f : Nat) (o : VecOpnd) (x : MoveCtx) (s : State), fieldLive s f = true → 8 ≤ fmtBits o.aFmt → fmtMx o.outFmt = false →
    8 ≤ fmtBits o.outFmt → o.amaxEn = false → o.outAddr % 8 = 0 → x.resid = [] → memWf 0 s.fm.mem = true → vScalarPoison s f o = 0 →
    (∀ e, e < 256 * o.n → vPoison s f ⟨o.aFmt, o.aAddr, 256 * o.n⟩ e = 0) →
    (∀ k, k < elemBytes o.outFmt (256 * o.n) → bankOn s f (o.outAddr + k) = true) →
    ∃ t, exec (.vtrn f o x) s = .next t ∧
      (∀ b r c, startsAt (.vtrn f o x) s ≤ b → b < o.n → r < 16 → c < 16 → elemCode t f o.outFmt o.outAddr (256 * b + 16 * r + c) =
        (convElem o.outFmt o.mode o.sat (dice s.seq.seed o.stream (streamAt s (0x500 + f) x) (256 * b + 16 * r + c))
          (dec32 (scaleOut o.outScale (vElem s f ⟨o.aFmt, o.aAddr, 256 * o.n⟩ (256 * b + 16 * c + r))).1)).1 % 2 ^ fmtBits o.outFmt) ∧
      (∀ k, (k < chipAddr f o.outAddr ∨ chipAddr f o.outAddr + elemBytes o.outFmt (256 * o.n) ≤ k) →
        memRead 0 t.fm.mem k = memRead 0 s.fm.mem k) ∧
      t = { s with fm := t.fm, seq := { s.seq with resume := t.seq.resume }, mbx := t.mbx, ctr := t.ctr, free := t.free }) ∧
  (∀ (f : Nat) (o : VecOpnd) (x : MoveCtx) (s : State), fieldLive s f = true → o.outEn = false → o.amaxEn = false → x.resid = [] →
    memWf 0 s.fm.mem = true → o.bAddr % 8 = 0 → o.cAddr % 8 = 0 → o.dAddr % 8 = 0 → o.maskAddr % 8 = 0 →
    o.bAddr + 256 * o.n ≤ o.cAddr → o.cAddr + 256 * o.n ≤ o.dAddr → o.dAddr + 256 * o.n ≤ o.maskAddr →
    (∀ a, o.bAddr ≤ a → a < o.maskAddr + 8 → bankOn s f a = true ∧ fmPoisonAt s f a = 0) → vScalarPoison s f o = 0 →
    (∀ e, e < 64 * o.n → vPoison s f (opA o) e = 0) →
    ∃ t, exec (.vadam f o x) s = .next t ∧
      (∀ e, 64 * startsAt (.vadam f o x) s ≤ e → e < 64 * o.n →
        (let r := adamElem ⟨vScalar s f o 0, vScalar s f o 1, vScalar s f o 2, vScalar s f o 3, vScalar s f o 4, vScalar s f o 5,
            vScalar s f o 6, vScalar s f o 7, vScalar s f o 8⟩ (vElem s f (opA o) e)
            (vElem s f ⟨.fp32, o.bAddr, 64 * o.n⟩ e) (vElem s f ⟨.fp32, o.cAddr, 64 * o.n⟩ e) (vElem s f ⟨.fp32, o.dAddr, 64 * o.n⟩ e)
            (vFree s e)
         elemCode t f .fp32 o.bAddr e = r.1.toNat ∧ elemCode t f .fp32 o.cAddr e = r.2.1.toNat ∧
           elemCode t f .fp32 o.dAddr e = r.2.2.1.toNat)) ∧
      (∀ k, (k < chipAddr f o.bAddr ∨ chipAddr f o.maskAddr + 8 ≤ k) → memRead 0 t.fm.mem k = memRead 0 s.fm.mem k) ∧
      t = { s with fm := t.fm, seq := { s.seq with resume := t.seq.resume }, mbx := t.mbx, ctr := t.ctr, free := t.free })

/-- Every move on an array unit or a vector engine, with any formats, any unit or group, marked operands, residue mismatches, amax, in whole
or resumed: it answers a next state, and outside the bytes that its output stage may store, taken as whole groups of 8, field memory keeps
every byte; beside field memory with its marks and wrong bits, the arrays, the counters and interrupts, the tick's poison source, how far an
in-place move has come and the free-value counter, everything stays (R165, R172, R176, R186, R187). -/
def Obligations.MovesKeepOutsideStores : Prop :=
  ∀ (i : Instr) (rs : List (Nat × Nat)) (s : State), storeRanges s i = some rs → memWf 0 s.fm.mem = true →
    ∃ t, exec i s = .next t ∧ memWf 0 t.fm.mem = true ∧
      (∀ a, (∀ r ∈ rs, a < r.1 / 8 * 8 ∨ roundUp (r.1 + r.2) 8 ≤ a) → memRead 0 t.fm.mem a = memRead 0 s.fm.mem a) ∧
      ((∀ e, elementRow i ≠ some e) ∨ t.fm.arrs = s.fm.arrs) ∧
      t = { s with
        tick := { s.tick with poison := t.tick.poison }
        seq := { s.seq with resume := t.seq.resume }
        fm := { s.fm with mem := t.fm.mem, poison := t.fm.poison, flips := t.fm.flips, rewrite := t.fm.rewrite, arrs := t.fm.arrs }
        mbx := t.mbx, ctr := t.ctr, free := t.free }

/-- The set moves without a continuation token and with T in the operand block: the elements run in order within the budget from the slip of
the move's start on, the trailing output follows, and what was reached waits for SET_BUDGET_END under the move's field. An operation without
DRAM changes nothing beside field memory with its marks, the counters and interrupts and the free-value counter (R269, R270, R272).
SET_BUDGET_END at the time of a move's end: one that reached its end signals in the epoch of its start; one stopped by an error counts and
logs it and signals too; one stopped by its budget signals nothing (R269, R272, R274, R275); a move with a continuation token writes the
token, and one with elements remaining is marked as unfinished (R270, R273). At any other time nothing happens. GATHER_D_FINAL_SIGNAL
signals once no transaction of the run is in flight (R278). One element of a gather: an index inside the table copies its row, an index
outside it writes a zero row with the poison mark, and the index "none" writes a zero row without one, each through the port of its role
(R255, R259, R280, Table 10-1). -/
def Obligations.SetMoves : Prop :=
  (∀ (i : Instr) (f : Nat) (o : SetOpnd) (x : MoveCtx) (w : SetWork) (s : State), setWork i = some (f, o, x, w) → fieldLive s f = true →
    tabHas s.fm.setEnds f = false → o.cont = false → o.desc = false →
    ∃ t e, exec i s = .next t ∧ tabFind t.fm.setEnds f = some e ∧ e.o = o ∧ e.mid = x.mid ∧ e.epoch = (syncOf s o.sigObj).epoch ∧
      (let r := setLoop w.next w.tail o.budgetAc (if w.dram then o.budgetTx else 2 ^ 64) (o.budgetAc + 1)
          { s := s, t := setLate f o x s + 8, start := setStart f x s, seed := s.free, aux := w.aux0,
            base := if w.dram then o.tAddr else o.tAddr % 2 ^ 23, rows := o.nT }
       let q := w.fin r.1 r.2.2
       e.state = r.1 ∧ e.err = r.2.1 ∧ e.posA = q.posA ∧ e.posB = q.posB ∧ e.outN = q.outN ∧ e.ends = setEndsAt w.tail o q ∧
         t = { q.s with fm := { q.s.fm with setEnds := t.fm.setEnds } }) ∧
      (∀ g, g ≠ f → tabFind t.fm.setEnds g = tabFind s.fm.setEnds g) ∧
      (w.dram = false → t = { s with fm := t.fm, mbx := t.mbx, ctr := t.ctr, free := t.free })) ∧
  (∀ (f n : Nat) (e : SetEnd) (s : State), tabFind s.fm.setEnds f = some e → endsNow e n = true → e.o.cont = false → e.o.sigN ≠ 0 →
    e.epoch = (syncOf s e.o.sigObj).epoch → gatherFlies s f e.mid e.run = false →
    ∃ t, exec (.setBudgetEnd ⟨f, n⟩) s = .next t ∧ tabFind t.fm.setEnds f = none ∧
      (e.state = 2 → (syncOf t e.o.sigObj).count = min 65535 ((syncOf s e.o.sigObj).count + e.o.sigN)) ∧
      (e.state = 3 → (syncOf t e.o.sigObj).count = min 65535 ((syncOf s e.o.sigObj).count + e.o.sigN) ∧
        (ctrGet t (cSetErr f)).toNat = min (2 ^ 32 - 1) ((ctrGet s (cSetErr f)).toNat + 1)) ∧
      (e.state = 1 → t.seq = s.seq ∧ (ctrGet t (cSetExhaust f)).toNat = min (2 ^ 32 - 1) ((ctrGet s (cSetExhaust f)).toNat + 1)) ∧
      t.fm.mem = s.fm.mem ∧ t.dram = s.dram) ∧
  (∀ (f n : Nat) (e : SetEnd) (s : State), tabFind s.fm.setEnds f = some e → endsNow e n = true → e.o.cont = true →
    memWf 0 s.fm.mem = true → e.o.tokAddr % 8 = 0 → (∀ k, k < 32 → bankOn s f (e.o.tokAddr + k) = true) →
    ∃ t, exec (.setBudgetEnd ⟨f, n⟩) s = .next t ∧ tabFind t.fm.setEnds f = none ∧ fmBytes t f e.o.tokAddr 32 = tokenBytes e ∧
      (∀ k, (k < chipAddr f e.o.tokAddr ∨ chipAddr f e.o.tokAddr + 32 ≤ k) → memRead 0 t.fm.mem k = memRead 0 s.fm.mem k) ∧
      (e.state = 1 → t = { s with fm := t.fm, seq := { s.seq with flying := s.seq.flying.map fun m =>
        if m.engine = 0x520 + f ∧ m.mv.moveId = e.mid ∧ m.started.isSome = true then { m with unfinished := true } else m } })) ∧
  (∀ (f n : Nat) (s : State), (∀ e, tabFind s.fm.setEnds f = some e → endsNow e n = false) → exec (.setBudgetEnd ⟨f, n⟩) s = .next s) ∧
  (∀ (f : Nat) (e : SetEnd) (rest : List SetEnd) (s : State), tabGet [] s.fm.gatherEnds f = e :: rest → e.o.sigN ≠ 0 →
    e.epoch = (syncOf s e.o.sigObj).epoch → gatherFlies s f e.mid e.run = false →
    ∃ t, exec (.gatherDFinalSignal f) s = .next t ∧ tabGet [] t.fm.gatherEnds f = rest ∧
      (syncOf t e.o.sigObj).count = min 65535 ((syncOf s e.o.sigObj).count + e.o.sigN) ∧
      t = { s with fm := { s.fm with gatherEnds := t.fm.gatherEnds }, seq := t.seq }) ∧
  (∀ (f : Nat) (o : SetOpnd) (r : SetRun) (i : Nat), r.posA < o.nA → idxA f o r = (i, 0) →
    (i = none32 → ∃ r', nextGather f o r = .elem (rowCyc o) r' ∧ r'.posA = r.posA + 1 ∧ r'.outN = r.outN + 1 ∧
      r'.s.fm = (setRow portOut f (o.outAddr + o.row * r.posA) (zeros o.row) 0 (setScan portA f (o.aAddr + 4 * r.posA) 4 r)).s.fm) ∧
    (i ≠ none32 → r.rows ≤ i → ∃ r', nextGather f o r = .elem (rowCyc o) r' ∧ r'.posA = r.posA + 1 ∧
      r'.s.fm = (setRow portOut f (o.outAddr + o.row * r.posA) (zeros o.row) 1 (setScan portA f (o.aAddr + 4 * r.posA) 4 r)).s.fm) ∧
    (i ≠ none32 → i < r.rows → ∃ r', nextGather f o r = .elem (rowCyc o) r' ∧ r'.posA = r.posA + 1 ∧ r'.outN = r.outN + 1 ∧
      r'.s.fm = (setRow portOut f (o.outAddr + o.row * r.posA) (setRead portT r f (r.base + o.row * i) o.row).1
        (setRead portT r f (r.base + o.row * i) o.row).2
        (setScan portT f (r.base + o.row * i) o.row (setScan portA f (o.aAddr + 4 * r.posA) 4 r))).s.fm))

/-! ## The tick (chapter 01) -/

/-- TICK_EDGE: the next tick of the same or the next frame begins one period later, with the trim of the tick that ended; TICK_TOTAL counts
it, TICK_FALLBACK when it had no record or one with FALLBACK, TICK_LATE when its record was late, and a dark tick counts in TICK_TOTAL only,
since R43 leaves out every one; TICK_OUT rises; the outstanding moves of the old tick are cancelled (R8, R24, R41 to R43, R215, R537).
FE_FREE_RUN_TICK counts the same way while the compute die gives no edge and drives no pulse (R46, R537), and COMPUTE_DOWN_DETECT notes it. -/
def Obligations.TickEdges : Prop :=
  (∀ (i : TickIn) (s : State), feAlive s = true → s.boot.extest = false → s.boot.stage = .ready →
    ∃ t, exec (.tickEdge i) s = .next t ∧ t.tick.no = s.tick.no + 1 ∧
      t.tick.inFrame = (if s.tick.frameLen ≤ s.tick.inFrame + 1 then 0 else s.tick.inFrame + 1) ∧
      t.tick.frame = (if s.tick.frameLen ≤ s.tick.inFrame + 1 then s.tick.frame + 1 else s.tick.frame) ∧
      t.tick.atBoundary = decide (s.tick.frameLen ≤ s.tick.inFrame + 1) ∧
      t.tick.t0Abs = s.tick.t0Abs + ((s.tick.period : Int) + s.tick.trim).toNat ∧
      t.tick.total = s.tick.total + 1 ∧
      t.tick.fallback = (if tickDark s ∨ (s.tick.committed ∧ s.tick.last.flags.getLsbD 5 = false) then s.tick.fallback
        else s.tick.fallback + 1) ∧
      t.tick.late = (if tickDark s = false ∧ s.tick.committed ∧ s.tick.last.flags.getLsbD 0 then s.tick.late + 1 else s.tick.late) ∧
      t.tick.dark = s.tick.dark ∧ t.tick.tickOut = some t.tick.t0Abs ∧ t.tick.committed = false ∧ t.tick.lastOk = s.tick.committed ∧
      t.tick.computeUp = true ∧ t.tick.period = s.tick.period ∧ t.tick.frameLen = s.tick.frameLen ∧
      (s.seq.active.isSome = true → t.seq.flying = [] ∧ t.seq.issued = [] ∧ t.seq.slot = 0) ∧
      t.power.tjLast = i.tj ∧ t.power.icLast = i.ic ∧
      t = { s with tick := t.tick, fe := t.fe, seq := t.seq, fm := t.fm, watch := t.watch, power := t.power, links := t.links, bus := t.bus, boot := { s.boot with log := t.boot.log, logSeq := t.boot.logSeq }, mbx := t.mbx, smb := t.smb, nv := { asked s t with logPend := t.nv.logPend }, ctr := t.ctr, free := t.free }) ∧
  (∀ (i : TickIn) (s : State), feAlive s = true → s.boot.extest = false → s.boot.stage ≠ .ready →
    ∃ t, exec (.feFreeRunTick i) s = .next t ∧ t.tick.no = s.tick.no + 1 ∧
      t.tick.inFrame = (if s.tick.frameLen ≤ s.tick.inFrame + 1 then 0 else s.tick.inFrame + 1) ∧
      t.tick.frame = (if s.tick.frameLen ≤ s.tick.inFrame + 1 then s.tick.frame + 1 else s.tick.frame) ∧
      t.tick.total = s.tick.total + 1 ∧
      t.tick.fallback = (if tickDark s ∨ (s.tick.committed ∧ s.tick.last.flags.getLsbD 5 = false) then s.tick.fallback
        else s.tick.fallback + 1) ∧
      t.tick.dark = s.tick.dark ∧ t.tick.tickOut = none ∧ t.tick.computeUp = false ∧ t.tick.atBoundary = false ∧
      t = { s with tick := t.tick, fe := t.fe, bus := t.bus, mbx := t.mbx, nv := asked s t, free := t.free }) ∧
  (∀ s : State, feAlive s = true → s.boot.extest = false → s.boot.stage ≠ .ready →
    exec .computeDownDetect s = .next { s with tick := { s.tick with computeUp := false } })

/-- COMMIT_POINT commits the tick's record once: it is kept, posted to the tick ring or dropped and counted when the ring is full, and its
state crosses to the front-end die. LATE goes with an outstanding tick-critical move or a hand-over held back, and a LATE record has its
FALLBACK flag, a NaN score and `tc_margin` −32,768 (R25, R27 to R29, R32, R39, R40). -/
def Obligations.CommitPointMakesRecord : Prop :=
  (∀ (l : MList) (s : State), s.seq.active = some l → s.boot.stage = .ready → s.tick.committed = false →
    ∃ t, exec .commitPoint s = .next t ∧ t.tick.last = (formRecord s l).record ∧ t.tick.committed = true ∧ t.tick.lastOk = true ∧
      t.tick.last.tick = s.tick.no ∧ t.tick.last.frame = s.tick.frame ∧ t.tick.last.tickInFrame = s.tick.inFrame ∧
      t.tick.last.movelistId = l.movelistId ∧ t.tick.last.tier = s.seq.tierRun ∧ t.tick.last.settling = s.fe.settling ∧
      t.tick.last.rangeM = s.fe.rangeM ∧ t.tick.last.cmM = s.fe.cmM ∧
      t.tick.last.flags.getLsbD 0 = (formRecord s l).late ∧
      ((tcOutstanding s l || (runSched s).isSome && !s.seq.stopped.getLsbD 0 && buildHeld s l) = true →
        t.tick.last.flags.getLsbD 0 = true ∧ t.tick.last.flags.getLsbD 5 = true ∧ t.tick.last.score = nan32 ∧ t.tick.last.tcMargin = -32768) ∧
      (s.tick.force = true → t.tick.last.flags.getLsbD 5 = true) ∧
      t.tick.late = s.tick.late ∧ t.tick.fallback = s.tick.fallback ∧ t.tick.total = s.tick.total ∧ t.tick.dark = s.tick.dark ∧
      (∃ r, t.bus.rs = some r ∧ r.fallback = t.tick.last.flags.getLsbD 5 ∧ r.severity = t.tick.last.severity ∧ r.score = t.tick.last.score) ∧
      (s.tring.on = true → ringFull s.tring = false → t.tring.prod = s.tring.prod + 1 ∧
        t.host = memWriteN 0 (memWriteN 0 s.host (s.tring.base.toNat + 2 ^ s.tring.entryLog2 * (s.tring.prod.toNat % 2 ^ s.tring.entriesLog2))
          (recordBytes t.tick.last)) s.tring.index.toNat (leBytes 4 (s.tring.prod + 1).toNat)) ∧
      (s.tring.on = true → ringFull s.tring = true → s.tring.drop ≠ 0xFFFFFFFF →
        t.tring.prod = s.tring.prod ∧ t.tring.drop = s.tring.drop + 1 ∧ t.host = s.host) ∧
      (s.tring.on = false → t.tring = s.tring ∧ t.host = s.host) ∧
      (s.watch.run = 0 → t.watch = s.watch ∧ t.dram = s.dram) ∧
      t = { s with tick := t.tick, bus := { s.bus with rs := t.bus.rs }, tring := t.tring, mbx := t.mbx, host := t.host, smb := t.smb, watch := t.watch, dram := t.dram, fm := { s.fm with rewrite := t.fm.rewrite }, ctr := t.ctr, free := t.free }) ∧
  (∀ s : State, (s.seq.active = none ∨ s.boot.stage ≠ .ready ∨ s.tick.committed = true) → exec .commitPoint s = .next s)

/-- FRAME_BOUNDARY at the first T0 of a frame: what waits for it takes effect. A pending tick source, seed, TSQ_CTL write without a running
list, governor setting and fence set are in force, their commands complete, and a running watch's frame summary, with the levels as this
boundary evaluates them, joins the envelopes that wait for signing (R8, R9, R14, R149, R319, R491, R512, R543). Later calls at the same
boundary change nothing. -/
def Obligations.FrameBoundaryTakesEffect : Prop :=
  (∀ s : State, s.tick.atBoundary = true → computeDown s = false →
    ∃ t, exec .frameBoundary s = .next t ∧ t.tick.atBoundary = false ∧ t.tick.no = s.tick.no ∧ t.tick.frame = s.tick.frame ∧
      t.tick.inFrame = s.tick.inFrame ∧ t.tick.total = s.tick.total ∧ t.tick.late = s.tick.late ∧ t.tick.fallback = s.tick.fallback ∧
      t.tick.dark = s.tick.dark ∧ t.seq.fence = s.seq.fenceNext ∧
      (∀ p n, s.tick.pendTsq = some (p, n) → s.seq.active = none → s.seq.change = none →
        t.tick.period = p ∧ t.tick.frameLen = n ∧ t.tick.pendTsq = none) ∧
      (∀ w code e, (s.mbx.waits.find? fun w => match w.act with | .source _ _ => true | _ => false) = some w → w.act = .source code e →
        t.tick.source = code ∧ t.tick.epoch = e ∧ t.tick.holdover = false ∧
          ∃ d ∈ t.mbx.due, d.slot = w.cmd.slot % 64 ∧ d.cookie = w.cmd.cookie ∧ d.status = .ok ∧ d.data = BitVec.ofNat 256 s.tick.frame.toNat) ∧
      (∀ w v, (s.mbx.waits.find? fun w => match w.act with | .seed _ => true | _ => false) = some w → w.act = .seed v →
        t.seq.seed = v ∧ t.seq.streams = [] ∧ ∃ d ∈ t.mbx.due, d.slot = w.cmd.slot % 64 ∧ d.cookie = w.cmd.cookie ∧ d.status = .ok) ∧
      (∀ w g, s.mbx.waits = [w] → w.act = .governor g → t.power.gov = g) ∧
      (s.watch.run ≠ 0 → s.watch.envQ.length < 32 → t.watch.envQ = s.watch.envQ ++ [{ cond := false, cfg := s.trust.cfgTick, body := summaryBody (levelsNow (fadeNext s)) }]) ∧
      t.boot.stage = s.boot.stage ∧ t.nv.mem = s.nv.mem ∧ t.nv.img = s.nv.img ∧ t.fe.cfg = s.fe.cfg ∧
      t.trust = { s.trust with cfgTick := cfgDigest t } ∧
      t.links.ident = s.links.ident ∧ t.part = s.part ∧ t.pending = s.pending) ∧
  (∀ s : State, (s.tick.atBoundary = false ∨ computeDown s = true) → exec .frameBoundary s = .next s)

/-- TICK_IN_EDGE with source 1: a phase error within T trims the tick by it, one beyond T by T, and the sixteenth in a row loses the source;
an edge beyond 64 ac is none; in holdover valid edges count, and one that is none or is missing starts the count anew. SOURCE_LOSS enters
holdover, HOLDOVER_EXIT leaves it after 16 consecutive valid edges, with a realignment tick when the error is larger than T; a realignment
tick keeps its length (R11, R13, R14). -/
def Obligations.TickSourceEvents : Prop :=
  (∀ (err : Int) (s : State), computeDown s = false → s.tick.source = 1 → s.tick.holdover = false → 64 < err.natAbs →
    exec (.tickInEdge err) s = .next s) ∧
  (∀ (err : Int) (s : State), computeDown s = false → s.tick.source = 1 → s.tick.holdover = true → 64 < err.natAbs →
    exec (.tickInEdge err) s = .next { s with tick := { s.tick with good := 0 } }) ∧
  (∀ (err : Int) (s : State), computeDown s = false → s.tick.source = 1 → s.tick.holdover = false →
    err.natAbs ≤ 64 → (err.natAbs ≤ trimLimit s ∨ s.tick.bad < 15) →
    exec (.tickInEdge err) s = .next { s with tick := { s.tick with phase := err, bad := (if trimLimit s < err.natAbs then s.tick.bad + 1 else 0), trim := (if s.tick.realign then s.tick.trim else max (-(trimLimit s : Int)) (min (trimLimit s : Int) err)) } }) ∧
  (∀ (err : Int) (s : State), computeDown s = false → s.tick.source = 1 → s.tick.holdover = false → err.natAbs ≤ 64 →
    trimLimit s < err.natAbs → 15 ≤ s.tick.bad →
    ∃ t, exec (.tickInEdge err) s = .next t ∧ t.tick = { s.tick with phase := err, holdover := true, good := 0, bad := 0, trim := (if s.tick.realign then s.tick.trim else 0) } ∧
      t = { s with tick := t.tick, boot := { s.boot with log := t.boot.log, logSeq := t.boot.logSeq }, mbx := t.mbx, nv := { s.nv with logPend := t.nv.logPend }, ctr := t.ctr }) ∧
  (∀ (err : Int) (s : State), computeDown s = false → s.tick.source = 1 → s.tick.holdover = true → err.natAbs ≤ 64 →
    exec (.tickInEdge err) s = .next { s with tick := { s.tick with phase := err, good := s.tick.good + 1 } }) ∧
  (∀ s : State, computeDown s = false → s.tick.source ≠ 0 → s.tick.holdover = false →
    ∃ t, exec .sourceLoss s = .next t ∧ t.tick = { s.tick with holdover := true, good := 0, bad := 0, trim := (if s.tick.realign then s.tick.trim else 0) } ∧
      t.mbx.intStatus.getLsbD 4 = true ∧ (∃ e rest, t.boot.log = e :: rest ∧ e.code = 0x0040 ∧ e.tick = s.tick.no) ∧
      t = { s with tick := t.tick, boot := { s.boot with log := t.boot.log, logSeq := t.boot.logSeq }, mbx := t.mbx, nv := { s.nv with logPend := t.nv.logPend }, ctr := t.ctr }) ∧
  (∀ s : State, computeDown s = false → s.tick.source ≠ 0 → s.tick.holdover = true →
    exec .sourceLoss s = .next { s with tick := { s.tick with good := 0 } }) ∧
  (∀ s : State, computeDown s = false → s.tick.holdover = true → 16 ≤ s.tick.good → s.tick.inFrame = 0 → s.tick.source ≠ 2 →
    ∃ t, exec .holdoverExit s = .next t ∧ t.tick.holdover = false ∧ t.tick.good = 0 ∧ t.tick.bad = 0 ∧ t.mbx.intStatus.getLsbD 4 = true ∧
      (trimLimit s < s.tick.phase.natAbs → t.tick.realign = true ∧ t.tick.trim = s.tick.phase % (s.tick.period : Int)) ∧
      (s.tick.phase.natAbs ≤ trimLimit s → t.tick = { s.tick with holdover := false, good := 0, bad := 0 }) ∧
      t = { s with tick := t.tick, boot := { s.boot with log := t.boot.log, logSeq := t.boot.logSeq }, mbx := t.mbx, nv := { s.nv with logPend := t.nv.logPend }, ctr := t.ctr }) ∧
  (∀ s : State, computeDown s = false → s.tick.holdover = true → (s.tick.good < 16 ∨ s.tick.inFrame ≠ 0) → exec .holdoverExit s = .next s)

/-! ## The watch (chapter 11) -/

/-- The watch commands. WATCH_SETUP holds an image that passes its checks, or answers the check that failed (R315); WATCH_START, WATCH_STOP,
WATCH_FREEZE, WATCH_THAW, WATCH_PARAMS, WATCH_RELEARN, WATCH_ROLLBACK and WATCH_EXPORT wait for the frame boundary when the watch is in a
state that allows them (R291, R313, R314, R316, R318); WATCH_STATUS writes its 512 bytes into host memory (R317), WATCH_IMPORT holds an
export whose tag and image agree, or answers why not (R318, R470), and WATCH_REPORT_RING sets its ring up (R319). -/
def Obligations.WatchCommands : Prop :=
  (∀ (c : Cmd) (l : MList) (b : List Byte) (im : WImage) (s : State), TakenUp 0x0401 c s → s.watch.run = 0 → s.seq.active = some l →
    16 ≤ fld c 95 80 0 → fld c 95 80 0 ≤ 4096 → rangeOk s (fld c 255 192 0) (fld c 191 160 0) = true → polderUp s pDram = true →
    s.dram.wrong = [] → s.dram.poison = [] → (∀ g, nvGroup s g = 0) → b = dramBytes s (fld c 255 192 0) (fld c 191 160 0) →
    im = { parseWatch b with logBase := fld c 159 96 0, logFrames := fld c 95 80 0, snapLen := Config.snapshotLen b } →
    ∃ t, exec (.watchSetup c) s = .next t ∧
      (if !rangeOk s im.logBase (im.logFrames * s.tick.frameLen * rowBytes im + im.snapLen) ||
          rangeMeets im.logBase (im.logFrames * s.tick.frameLen * rowBytes im + im.snapLen) (usableBytes s - kvRegion s, kvRegion s) then
        t = { completed 0x0401 c .badParam 0 s with free := s.free + 1 }
      else match verifyImage s typeWatch im.secVer b (bitsN (wHead b) 191 160) with
        | some st => t = { completed 0x0401 c st 0 s with free := s.free + 1 }
        | none =>
          if watchImageOk s l b then t = { completed 0x0401 c .ok 0 s with watch := { s.watch with image := some im, rows := [], rowCount := 0, samples := [], heldRows := [] }, free := s.free + 1 }
          else t = { completed 0x0401 c .imageReject 0 s with free := s.free + 1 })) ∧
  (∀ (c : Cmd) (im : WImage) (s : State), TakenUp 0x0402 c s → s.watch.run = 0 → s.watch.image = some im →
    (∀ w ∈ s.mbx.waits, ∀ r, w.act ≠ .watchStart r) → (fldB c 0 false = true → ∃ b, s.watch.imported = some b ∧ importFits im b = true) →
    exec (.watchStart c) s = .next (waitsNow 0x0402 c (.watchStart (fldB c 0 false)) s)) ∧
  (∀ (c : Cmd) (s : State), TakenUp 0x0403 c s → s.watch.run ≠ 0 →
    exec (.watchStop c) s = .next (waitsNow 0x0403 c .watchStop s)) ∧
  (∀ (c : Cmd) (s : State), TakenUp 0x0404 c s → s.watch.run ≠ 0 →
    exec (.watchFreeze c) s = .next (waitsNow 0x0404 c .watchFreeze s)) ∧
  (∀ (c : Cmd) (s : State), TakenUp 0x0405 c s → s.watch.run = 2 →
    exec (.watchThaw c) s = .next (waitsNow 0x0405 c .watchThaw s)) ∧
  (∀ (c : Cmd) (s : State), TakenUp 0x0406 c s → watchParamsOk (watchParamsOf c) = true →
    (∀ w ∈ s.mbx.waits, ∀ p, w.act ≠ .watchParams p) →
    exec (.watchParams c) s = .next (waitsNow 0x0406 c (.watchParams (watchParamsOf c)) s)) ∧
  (∀ (c : Cmd) (s : State), TakenUp 0x0407 c s → s.watch.run = 1 →
    exec (.watchRelearn c) s = .next (waitsNow 0x0407 c (.watchRelearn (BitVec.ofNat 16 (fld c 15 0 0))) s)) ∧
  (∀ (c : Cmd) (s : State), TakenUp 0x0408 c s → (s.watch.fade.isSome = true ∨ (otherArea s.watch.learned).valid = true) →
    exec (.watchRollback c) s = .next (waitsNow 0x0408 c (.watchRollback (fldB c 0 false)) s)) ∧
  (∀ (c : Cmd) (s : State), TakenUp 0x0409 c s → memWf 0 s.host = true →
    ∃ t, exec (.watchStatus c) s = .next t ∧ hostRead t (fld c 63 0 0) 512 = leBytes 512 (watchStatusBits s) ∧
      (∀ a, (a < fld c 63 0 0 ∨ fld c 63 0 0 + 512 ≤ a) → memRead 0 t.host a = memRead 0 s.host a) ∧
      t = { completed 0x0409 c .ok 0 s with host := t.host }) ∧
  (∀ (c : Cmd) (im : WImage) (s : State), TakenUp 0x040A c s → s.watch.image = some im → s.watch.run ≠ 0 → exportLen im ≤ fld c 63 32 0 →
    exec (.watchExport c) s = .next (waitsNow 0x040A c (.watchExport (BitVec.ofNat 64 (fld c 127 64 0))) s)) ∧
  (∀ (c : Cmd) (im : WImage) (l : MList) (b : List Byte) (s : State), TakenUp 0x040B c s → s.watch.run = 0 → s.watch.image = some im →
    s.seq.active = some l → 112 ≤ fld c 63 32 0 → b = hostRead s (fld c 127 64 0) (fld c 63 32 0) →
    ∃ t, exec (.watchImport c) s = .next t ∧
      (if b.drop (fld c 63 32 0 - 48) ≠ digestBytes (Config.exportMac s.trust.keyHash (b.take (fld c 63 32 0 - 48))) then
        t = completed 0x040B c .signatureFail 0 s
      else if importFits im (b.take (fld c 63 32 0 - 48)) && listFits im l.movelistId then t = { completed 0x040B c .ok 0 s with watch := { s.watch with imported := some (b.take (fld c 63 32 0 - 48)) } }
      else t = completed 0x040B c .imageReject 0 s)) ∧
  (∀ (c : Cmd) (s : State), TakenUp 0x040C c s → ringOk 9 11 (ringOf c) = true → memWf 0 s.host = true →
    ∃ t, exec (.watchReportRing c) s = .next t ∧ t.rring = ringOf c ∧
      (∀ a, memRead 0 t.host a = if (ringOf c).index.toNat ≤ a ∧ a < (ringOf c).index.toNat + 4 then 0 else memRead 0 s.host a) ∧
      t = { completed 0x040C c .ok 0 s with rring := t.rring, host := t.host })

/-- The watch's own events. A regime whose condition was met moves to its next state at the boundary due, and its residual variances are 1.0
as it leaves WARMING (R290, R291); a training job starts with the oldest batch of unused samples, which it keeps as its own (R307); an
evaluation job starts once at each t that `eval_every` names and asks for the copy of the snapshot into DRAM (R310); a promotion, a fade's
start and its end move the new model into place (R297, R312, R313); and a condition report and a signed envelope go their way (R319, R466,
R469). No descriptor waits as the firmware asks for its transfers. -/
def Obligations.WatchEvents : Prop :=
  (∀ (g delay : Nat) (im : WImage) (k : W32) (s : State), s.watch.image = some im → s.watch.run = 1 → (regOfWatch s g).met = some k →
    s.tick.inFrame = 0 → computeDown s = false → s.tick.frame = k + 2 + BitVec.ofNat 32 delay → s.fm.descQueue = [] →
    ∃ t e, exec (.watchTransition g delay) s = .next t ∧ (regOfWatch t g).st = (regOfWatch s g).st + 1 ∧ (regOfWatch t g).elig = 0 ∧
      (regOfWatch t g).met = none ∧ (regOfWatch t g).promoted = false ∧
      ((regOfWatch s g).st = 1 → (regOfWatch t g).mu = (regOfWatch s g).mean) ∧
      ((regOfWatch s g).st = 1 → ∀ f, f < im.nFeat → tabGet 0 t.watch.learned.areaX.rv (256 * g + f) = one32 ∧
        tabGet 0 t.watch.learned.areaY.rv (256 * g + f) = one32) ∧
      (∀ j, j ≠ g → regOfWatch t j = regOfWatch s j) ∧ t.watch.conds = s.watch.conds ++ [e] ∧ e.cause = .regimeState ∧
      t.watch.learned.modelId = s.watch.learned.modelId ∧ t.watch.learned.t = s.watch.learned.t ∧
      t = { s with watch := t.watch, fm := areasOnly s t, mbx := t.mbx, boot := { s.boot with log := t.boot.log, logSeq := t.boot.logSeq }, nv := { s.nv with logPend := t.nv.logPend }, ctr := t.ctr, free := t.free }) ∧
  (∀ (j : Nat) (im : WImage) (s : State), s.watch.image = some im → s.watch.run = 1 → s.seq.tierRun < 2 →
    s.watch.params.batch ≤ s.watch.samples.length → classIdle s im.jcTrain j = true → s.fm.descQueue = [] →
    ∃ t, exec (.trainingTrigger j) s = .next t ∧ (jobOf t j).running = true ∧ (jobOf t j).cursor = 0 ∧
      (∀ k, k ≠ j → jobOf t k = jobOf s k) ∧
      t = { s with watch := { s.watch with stepUse := some (s.watch.samples.take s.watch.params.batch) }, seq := { s.seq with jobs := t.seq.jobs }, fm := areasOnly s t }) ∧
  (∀ (j : Nat) (im : WImage) (s : State), s.watch.image = some im → s.watch.run = 1 → s.seq.tierRun < 2 → s.watch.learned.t ≠ 0 →
    s.watch.learned.t % s.watch.params.evalEvery = 0 → s.watch.learned.t ≠ s.watch.evalT → classIdle s im.jcEval j = true →
    s.watch.promote = false → copyUnderWay s im = false → s.fm.descQueue = [] →
    ∃ t, exec (.evaluationTrigger j) s = .next t ∧ (jobOf t j).running = true ∧ (jobOf t j).cursor = 0 ∧
      (∀ k, k ≠ j → jobOf t k = jobOf s k) ∧
      (∀ k, k < im.snapLen →
        (let place := Config.snapshotFrom im.digest k
         let role := roleArea im (if place.1 then liveRole s.watch.learned else 2)
         copyAsked t .fieldMem .dram (chipAddr role.1 (role.2.1 + place.2)) (snapBase s im + k))) ∧
      t = { s with watch := { s.watch with evalOn := true, evalT := s.watch.learned.t }, seq := { s.seq with jobs := t.seq.jobs }, fm := areasOnly s t, power := t.power }) ∧
  (∀ (im : WImage) (s : State), s.watch.image = some im → s.watch.run = 1 → s.watch.promote = true → s.watch.fade = none →
    snapRuns s im = false → s.tick.atBoundary = false → s.fm.descQueue = [] →
    ∃ t, exec .promotion s = .next t ∧ (otherArea t.watch.learned).valid = false ∧ liveArea t.watch.learned = liveArea s.watch.learned ∧
      t.watch.learned.modelId = s.watch.learned.modelId ∧ t.watch.promote = false ∧ t.watch.copied = true ∧
      (otherArea t.watch.learned).rv = promotedVars s im ∧
      (∀ o k, o < (roleArea im (otherRole s.watch.learned)).2.2 → Config.snapshotInto im.digest o = some k → k < im.snapLen →
        copyAsked t .dram .fieldMem (snapBase s im + k) (chipAddr (roleArea im (otherRole s.watch.learned)).1 ((roleArea im (otherRole s.watch.learned)).2.1 + o))) ∧
      t = { s with watch := t.watch, fm := areasOnly s t, power := t.power }) ∧
  (∀ s : State, s.watch.run ≠ 0 → s.watch.copied = true → s.tick.atBoundary = true → s.watch.fade = none →
    copyDone s = true → watchWaits s = false → s.fm.descQueue = [] →
    ∃ t e, exec .watchFadeStart s = .next t ∧ e.cause = .fadeStart ∧
      t.watch = { s.watch with copied := false, conds := s.watch.conds ++ [e], fade := some { j := 1, len := s.watch.params.fadeFrames, rollback := false, reseed := false, start := s.tick.frame } } ∧
      t = { s with watch := t.watch, fm := areasOnly s t }) ∧
  (∀ (f : MFade) (im : WImage) (s : State), s.watch.image = some im → s.watch.fade = some f → s.tick.inFrame = 0 → watchWaits s = false →
    f.len ≤ (s.tick.frame - f.start).toNat → s.fm.descQueue = [] →
    ∃ t e, exec .watchFadeEnd s = .next t ∧ t.watch.fade = none ∧ t.watch.conds = s.watch.conds ++ [e] ∧ e.cause = .fadeEnd ∧
      t.watch.learned.liveY = (!s.watch.learned.liveY) ∧
      (f.rollback = false → t.watch.learned.modelId = s.watch.learned.maxId + 1 ∧ t.watch.learned.maxId = s.watch.learned.maxId + 1) ∧
      (f.rollback = true → t.watch.learned.modelId = (otherArea s.watch.learned).id ∧ t.watch.learned.maxId = s.watch.learned.maxId) ∧
      (otherArea t.watch.learned).id = s.watch.learned.modelId ∧ (otherArea t.watch.learned).valid = true ∧
      t.watch.learned.t = (if f.reseed then 0 else s.watch.learned.t) ∧
      t = { s with watch := t.watch, fm := areasOnly s t, mbx := t.mbx, ctr := t.ctr, free := t.free }) ∧
  (∀ (k : CondCause) (v : CondEvent) (s : State), computeDown s = false → (s.watch.conds.find? fun e => e.cause == k) = some v →
    ∃ t, exec (.conditionReport k) s = .next t ∧ t.watch.conds = s.watch.conds.erase v ∧
      t.watch.envQ = (s.watch.envQ.takeWhile fun x => x.cond) ++ { cond := true, cfg := s.trust.cfgTick, body := v.body } :: s.watch.envQ.dropWhile fun x => x.cond ∧
      t = { s with watch := { s.watch with conds := t.watch.conds, envQ := t.watch.envQ } }) ∧
  (∀ (e : Envelope) (rest : List Envelope) (s : State), computeDown s = false → s.watch.envQ = e :: rest →
    ∃ t, exec .envelopeSigned s = .next t ∧ t.watch = { s.watch with envQ := rest, rseq := s.watch.rseq + 1 } ∧
      (s.rring.on = true → ringFull s.rring = false → t.rring.prod = s.rring.prod + 1 ∧
        t.host = memWriteN 0 (memWriteN 0 s.host (s.rring.base.toNat + 2 ^ s.rring.entryLog2 * (s.rring.prod.toNat % 2 ^ s.rring.entriesLog2))
          (envelopeHead s e ++ e.body ++ beBytes 96 (aliasSign s (envelopeHead s e ++ e.body)).toNat)) s.rring.index.toNat
          (leBytes 4 (s.rring.prod + 1).toNat)) ∧
      (s.rring.on = false → t.rring = s.rring ∧ t.host = s.host) ∧
      t = { s with watch := t.watch, rring := t.rring, host := t.host, bus := { s.bus with ports := t.bus.ports }, mbx := t.mbx, ctr := t.ctr, free := t.free })

/-! ## The KV pool and fused attention (chapter 09) -/

/-- The pool commands: KV_POOL_SETUP clears the page table and leaves the rest of memory (R238), KV_OPEN takes a free handle and free slots
(R241), KV_CLOSE gives back a sequence's slots and pages, and ends an append of it that waits (R242), KV_APPEND advances one layer (R243),
KV_REFILL of a pinned sequence or without a hole completes at once and otherwise asks the DMA to write its ticket and to trigger the refill
job behind it, and waits (R249), and KV_STATUS answers. -/
def Obligations.PoolCommands : Prop :=
  (∀ (c : Cmd) (s : State), TakenUp 0x0501 c s → s.kv.seqs = [] → fld c 127 64 0 % 2 ^ 21 = 0 → 64 ≤ fld c 63 48 0 → fld c 63 48 0 ≤ 16384 →
    fld c 63 48 0 % 2 = 0 → fld c 47 32 8 ≤ 1024 → usableBytes s - kvRegion s ≤ fld c 127 64 0 →
    fld c 127 64 0 + fld c 63 48 0 * 2 ^ 20 ≤ usableBytes s → polderUp s pDram = true → memWf 0 s.dram.mem = true →
    ∃ t, exec (.kvPoolSetup c) s = .next t ∧ t.kv = { s.kv with pool := some { base := fld c 127 64 0, sizeMib := fld c 63 48 0, compBudget := fld c 47 32 8 }, pages := [] } ∧
      (∀ a, memRead 0 t.dram.mem a = if fld c 127 64 0 ≤ a ∧ a < fld c 127 64 0 + 2 ^ 25 then 0 else memRead 0 s.dram.mem a) ∧
      t = { completed 0x0501 c .ok 0 s with kv := t.kv, dram := { s.dram with mem := t.dram.mem, poison := t.dram.poison, wrong := t.dram.wrong } }) ∧
  (∀ (c : Cmd) (q : KvSeq) (s : State), TakenUp 0x0502 c s → s.kv.pool.isSome = true → fmtOf (fld c 111 108 0) = some q.kvFmt →
    fmtOf (fld c 107 104 0) = some q.qFmt →
    q = { srcAddr := fld c 255 192 0, srcRec := fld c 191 176 0, stgAddr := fld c 175 153 0, stgField := fld c 152 149 0, refillJc := fld c 148 145 0, pinned := fldB c 144 false, maxPos := fld c 143 127 0, compPages := fld c 126 117 0, kvFmt := q.kvFmt, qFmt := q.qFmt, layers := fld c 103 98 0 + 1, kvHeads := fld c 97 94 0 + 1, group := fld c 93 90 0 + 1, dHead := fld c 89 82 0 + 1 } →
    16 ≤ q.dHead → q.dHead % 16 = 0 → kvFormat q.kvFmt = true →
    (q.pinned = true ∨ q.srcAddr % 64 = 0 ∧ 8 ≤ q.srcRec ∧ q.srcRec ≤ 4096 ∧ q.srcRec % 8 = 0 ∧ q.refillJc ≠ 0 ∧
      sourceLogOk s q.srcAddr (q.srcRec * (q.maxPos + 1)) = true ∧ (jobOfClass s true q.refillJc).isSome = true) →
    q.stgAddr % 64 = 0 → seqPage q ≤ 2 ^ 20 → inStaging s q.stgField q.stgAddr (q.layers * seqPage q) = true →
    (usedSlots s).length + q.layers ≤ 1024 → promotes q.qFmt q.kvFmt = true →
    (q.compPages = 0 ∨ promotes q.qFmt .mxfp4 = true ∧ q.dHead % 32 = 0) → (∃ n, n < 256 ∧ tabHas s.kv.seqs n = false) →
    pageGranules (seqPage q) ≤ freeGranules s →
    ∃ t h xs, exec (.kvOpen c) s = .next t ∧ h < 256 ∧ tabHas s.kv.seqs h = false ∧ xs.length = q.layers ∧ xs.Nodup ∧
      (∀ x ∈ xs, x < 1024 ∧ x ∉ usedSlots s ∧ tabFind t.kv.layers x = none) ∧ tabFind t.kv.seqs h = some { q with slots := xs } ∧
      (∀ n, n ≠ h → tabFind t.kv.seqs n = tabFind s.kv.seqs n) ∧ (∀ x, x ∉ xs → tabFind t.kv.layers x = tabFind s.kv.layers x) ∧
      t = { answered 0x0502 c (xs.flatMap (leBytes 2)) h s with kv := { s.kv with seqs := t.kv.seqs, layers := t.kv.layers }, free := s.free + 1 }) ∧
  (∀ (c : Cmd) (s : State), TakenUp 0x0503 c s → tabHas s.kv.seqs (seqField c) = true → seqRequested s (seqField c) = false →
    (∀ r, s.kv.refill = some r → r.seq ≠ seqField c) → polderUp s pDram = true →
    ∃ t, exec (.kvClose c) s = .next t ∧ tabFind t.kv.seqs (seqField c) = none ∧
      (∀ n, n ≠ seqField c → tabFind t.kv.seqs n = tabFind s.kv.seqs n) ∧
      (∀ x ∈ (tabGet {} s.kv.seqs (seqField c)).slots, slotEntries t x = [] ∧ tabFind t.kv.layers x = none) ∧
      (∀ e, e / 1024 ∉ (tabGet {} s.kv.seqs (seqField c)).slots → pageOf t e = pageOf s e) ∧
      t.mbx.due.getLast? = some (completionOf 0x0503 c .ok 0) ∧ (∀ e ∈ s.mbx.due, e ∈ t.mbx.due) ∧
      t.mbx.waits = s.mbx.waits.filter (fun w => match w.act with | .append q _ _ => q != seqField c | _ => true) ∧
      (∀ w ∈ s.mbx.waits, w ∉ t.mbx.waits → completionOf w.opcode w.cmd .badParam 0 ∈ t.mbx.due) ∧
      t = { counted (completed 0x0503 c .ok 0 s) t with kv := { s.kv with seqs := t.kv.seqs, layers := t.kv.layers, pages := t.kv.pages }, dram := t.dram, mbx := t.mbx }) ∧
  (∀ (c : Cmd) (q n k x : Nat) (s : State), TakenUp 0x0504 c s → q = seqField c → n = fld c 21 16 0 → k = fld c 7 0 0 → x = slotOf s q n →
    layerOpen s q n = true → 1 ≤ k → (layerOf s x).length + k ≤ (tabGet {} s.kv.seqs q).maxPos + 1 → (layerOf s x).flushing = false →
    (layerOf s x).staged < 128 → (layerOf s x).staged + k ≤ 128 →
    ∃ t, exec (.kvAppend c) s = .next t ∧ layerOf t x = { length := (layerOf s x).length + k, staged := (layerOf s x).staged + k, flushing := decide ((layerOf s x).staged + k = 128) } ∧
      (∀ y, y ≠ x → layerOf t y = layerOf s y) ∧ t = { completed 0x0504 c .ok 0 s with kv := { s.kv with layers := t.kv.layers } }) ∧
  (∀ (c : Cmd) (s : State), TakenUp 0x0505 c s → tabHas s.kv.seqs (seqField c) = true → fld c 21 12 0 ≤ fld c 9 0 0 →
    (pinnedSeq s (seqField c) = true ∨ nextHole s (seqField c) (fld c 21 12 0) (fld c 9 0 0) = none) →
    exec (.kvRefill c) s = .next (completed 0x0505 c .ok 0 s)) ∧
  (∀ (c : Cmd) (i j : Nat) (e : JobDesc) (s : State), TakenUp 0x0505 c s → tabHas s.kv.seqs (seqField c) = true →
    fld c 21 12 0 ≤ fld c 9 0 0 → pinnedSeq s (seqField c) = false → nextHole s (seqField c) (fld c 21 12 0) (fld c 9 0 0) = some i →
    s.kv.refill = none → s.fm.descQueue = [] → jobOfClass s true (tabGet {} s.kv.seqs (seqField c)).refillJc = some (j, e) →
    ∃ t r, exec (.kvRefill c) s = .next t ∧
      t.kv.refill = some r ∧ r.seq = seqField c ∧ r.page = i ∧ r.last = fld c 9 0 0 ∧ r.layerMask = BitVec.ofNat 64 (holeMask s (seqField c) i) ∧
      r.seen = (syncOf s e.tktObj).hits ∧
      (∀ k, k < 32 → writeAsked t (some j) (chipAddr e.stgField (e.tktAddr + k)) (nth (leBytes 32 (pack [(0, 64, holeMask s (seqField c) i), (158, 10, i), (168, 8, seqField c), (176, 16, (tabGet {} s.kv.seqs (seqField c)).srcRec), (192, 64, (tabGet {} s.kv.seqs (seqField c)).srcAddr)])) k 0)) ∧
      t = { waitsNow 0x0505 c (.refill (seqField c) (fld c 21 12 0) (fld c 9 0 0)) s with kv := { s.kv with refill := t.kv.refill }, fm := areasOnly s t }) ∧
  (∀ (c : Cmd) (p : Pool) (s : State), TakenUp 0x0506 c s → s.kv.pool = some p →
    ∃ bs, exec (.kvStatus c) s = .next (answered 0x0506 c bs 0 s) ∧ bs.take 8 = leBytes 4 (freeGranules s) ++ leBytes 4 p.drops)

/-- The pool's own events, each with the DRAM up and in a cycle in which the firmware's DMA reaches the field memory that it needs; without
the DRAM they ask for it (R55, R336). PAGE_FLUSH moves a full staging buffer into free granules, as a page with the buffer's bytes, and its
staged count returns to 0 (R240, R244); REFILL_TICKET_DONE of the last page index puts the page of a layer that had a hole back and
completes its command (R249); COMPACTION re-encodes a due page into new granules (R251, R252). The page tables of other entries stay. -/
def Obligations.PoolEvents : Prop :=
  (∀ (q n x : Nat) (d : KvSeq) (p : Pool) (s : State), d = tabGet {} s.kv.seqs q → x = slotOf s q n → (layerOf s x).flushing = true →
    bufferReach s q n = true → dramUp s = true → s.kv.pool = some p → x < 1024 → ((layerOf s x).length - (layerOf s x).staged) / 128 < 1024 →
    freeStarts s (pageGranules (seqPage d)) ≠ [] → memWf 0 s.dram.mem = true →
    ∃ t g, exec (.pageFlush q n) s = .next t ∧ g ∈ freeStarts s (pageGranules (seqPage d)) ∧
      pageOf t (1024 * x + ((layerOf s x).length - (layerOf s x).staged) / 128) = { ageTick := s.tick.no, granule := g, len256 := seqPage d / 256, seq := q, layer := n, idx := ((layerOf s x).length - (layerOf s x).staged) / 128, fmt := d.kvFmt, state := 1, origin := 0 } ∧
      (∀ e, e ≠ 1024 * x + ((layerOf s x).length - (layerOf s x).staged) / 128 → pageOf t e = pageOf s e) ∧
      dramBytes t (p.base + 4096 * g) (seqPage d) = fmBytes s d.stgField (d.stgAddr + n * seqPage d) (seqPage d) ∧
      layerOf t x = { layerOf s x with staged := 0, flushing := false } ∧ (∀ y, y ≠ x → layerOf t y = layerOf s y) ∧
      t = { s with mbx := t.mbx, kv := { s.kv with pages := t.kv.pages, layers := t.kv.layers }, fm := areasOnly s t, dram := t.dram, ctr := t.ctr, free := t.free }) ∧
  (∀ (q n : Nat) (s : State), (layerOf s (slotOf s q n)).flushing = false → exec (.pageFlush q n) s = .next s) ∧
  (∀ (q n : Nat) (s : State), (layerOf s (slotOf s q n)).flushing = true → (bufferReach s q n = false ∨ dramUp (needDram s) = false) →
    exec (.pageFlush q n) s = .next (needDram s)) ∧
  (∀ (r : Refill) (d : KvSeq) (j n e : Nat) (k : JobDesc) (w : Wait) (s : State), s.kv.refill = some r → d = tabGet {} s.kv.seqs r.seq →
    jobOfClass s true d.refillJc = some (j, k) → (syncOf s k.tktObj).hits ≠ r.seen → dramUp s = true → fwReach s k.stgField k.stgAddr k.stgBytes = true → r.page = r.last → r.layerMask = 1#64 <<< n → n < 64 →
    e = 1024 * nth d.slots n 1024 + r.page → (pageOf s e).state = 2 → e ∉ lockedPages s →
    freeStarts s (pageGranules (seqPage d)) ≠ [] → s.mbx.waits = [w] → w.act = .refill r.seq r.page r.last →
    ∃ t g, exec .refillTicketDone s = .next t ∧ g ∈ freeStarts s (pageGranules (seqPage d)) ∧
      pageOf t e = { ageTick := s.tick.no, granule := g, len256 := seqPage d / 256, seq := r.seq, layer := n, idx := r.page, fmt := d.kvFmt, state := 1, origin := 1 } ∧
      (∀ y, y ≠ e → pageOf t y = pageOf s y) ∧ t.kv.refill = none ∧ t.mbx.waits = [] ∧
      t.mbx.due = s.mbx.due ++ [completionOf w.opcode w.cmd .ok 0] ∧
      t = { s with mbx := t.mbx, kv := { s.kv with pages := t.kv.pages, refill := none }, fm := areasOnly s t, dram := t.dram, ctr := t.ctr, free := t.free }) ∧
  (∀ (r : Refill) (j : Nat) (k : JobDesc) (s : State), s.kv.refill = some r →
    jobOfClass s true (tabGet {} s.kv.seqs r.seq).refillJc = some (j, k) →
    ((syncOf s k.tktObj).hits = r.seen → exec .refillTicketDone s = .next s) ∧
    ((syncOf s k.tktObj).hits ≠ r.seen → (dramUp (needDram s) = false ∨ fwReach s k.stgField k.stgAddr k.stgBytes = false) →
      exec .refillTicketDone s = .next (needDram s))) ∧
  (∀ (jc j e : Nat) (d : JobDesc) (p : Pool) (s : State), jobOfClass s false jc = some (j, d) → s.kv.pool = some p →
    (tabGet {} s.kv.jobs jc).compact = true → dramUp s = true → fwReach s d.stgField d.stgAddr d.stgBytes = true → duePages s d = [e] →
    1 ≤ p.compBudget → d.stgAddr % 8 = 0 → d.stgAddr + d.stgBytes ≤ 2 ^ 23 → memWf 0 s.fm.mem = true →
    freeStarts s (pageGranules (pageBytes .mxfp4 (tabGet {} s.kv.seqs (pageOf s e).seq).kvHeads (tabGet {} s.kv.seqs (pageOf s e).seq).dHead)) ≠ [] →
    ∃ t g, exec (.compaction jc) s = .next t ∧ (tabGet {} t.kv.jobs jc).compact = false ∧
      pageOf t e = { pageOf s e with granule := g, len256 := pageBytes .mxfp4 (tabGet {} s.kv.seqs (pageOf s e).seq).kvHeads (tabGet {} s.kv.seqs (pageOf s e).seq).dHead / 256, fmt := .mxfp4, origin := 2 } ∧
      (∀ y, y ≠ e → pageOf t y = pageOf s y) ∧
      (∀ a, (a < chipAddr d.stgField d.stgAddr ∨ chipAddr d.stgField d.stgAddr + d.stgBytes ≤ a) → memRead 0 t.fm.mem a = memRead 0 s.fm.mem a) ∧
      t = { counted s t with kv := { s.kv with pages := t.kv.pages, jobs := t.kv.jobs }, fm := { areasOnly s t with mem := t.fm.mem, poison := t.fm.poison, flips := t.fm.flips }, dram := t.dram, free := t.free }) ∧
  (∀ (jc j : Nat) (d : JobDesc) (p : Pool) (s : State), jobOfClass s false jc = some (j, d) → s.kv.pool = some p →
    (tabGet {} s.kv.jobs jc).compact = true → dramUp s = true → fwReach s d.stgField d.stgAddr d.stgBytes = true → duePages s d = [] →
    ∃ t, exec (.compaction jc) s = .next t ∧ (tabGet {} t.kv.jobs jc).compact = false ∧ t = { s with kv := { s.kv with jobs := t.kv.jobs } }) ∧
  (∀ (jc j : Nat) (d : JobDesc) (p : Pool) (s : State), jobOfClass s false jc = some (j, d) → s.kv.pool = some p →
    ((tabGet {} s.kv.jobs jc).compact = false → exec (.compaction jc) s = .next s) ∧
    ((tabGet {} s.kv.jobs jc).compact = true → (dramUp (needDram s) = false ∨ fwReach s d.stgField d.stgAddr d.stgBytes = false) →
      exec (.compaction jc) s = .next (needDram s)))

/-- Attention. ATTN_RUN queues a request that passes its checks: a standing one completes with ACCEPTED, a one-shot one waits for its serve
(R225); ATTN_CANCEL takes a queued request out, or marks one that is being served, its wait included; ATTN_INFO answers. SERVE starts the
next request of a run whose wait is met, with the DRAM up where it needs it, with its append made and the status of its checks; SERVE_END
writes the status word last, signals, and completes a one-shot request (R226 to R228). -/
def Obligations.AttentionRequests : Prop :=
  (∀ (c : Cmd) (r : Req) (s : State), TakenUp 0x0510 c s → s.kv.pool.isSome = true →
    r = { num := s.kv.nextReq % 65536, bits := reqBits c, oneShot := !fldB c 627 false } → reqParamOk s r = true → reqFormatOk s r = true →
    attnCarried s (rJob r) = true → (attnOf s (rJob r)).queue.length < 16 →
    ∃ t, exec (.attnRun c) s = .next t ∧ attnOf t (rJob r) = { attnOf s (rJob r) with queue := (attnOf s (rJob r)).queue ++ [r] } ∧
      (∀ j, j ≠ rJob r → attnOf t j = attnOf s j) ∧
      (r.oneShot = true → t = { waitsNow 0x0510 c (.serve r.num) s with kv := { s.kv with jobs := t.kv.jobs, nextReq := s.kv.nextReq + 1 } }) ∧
      (r.oneShot = false → t = { completed 0x0510 c .accepted r.num s with kv := { s.kv with jobs := t.kv.jobs, nextReq := s.kv.nextReq + 1 } })) ∧
  (∀ (c : Cmd) (jc : Nat) (a : AttnJob) (s : State), TakenUp 0x0511 c s →
    (s.kv.jobs.find? fun e => e.2.queue.any fun r => r.num == fld c 15 0 0) = some (jc, a) → attnOf s jc = a →
    (match a.serving with | some v => v.req.num ≠ fld c 15 0 0 | none => mayServe s jc = false ∨ a.todo.head? ≠ some (fld c 15 0 0)) →
    (∀ w ∈ s.mbx.waits, w.act ≠ .serve (fld c 15 0 0)) →
    ∃ t, exec (.attnCancel c) s = .next t ∧ attnOf t jc = { a with queue := a.queue.filter fun r => r.num != fld c 15 0 0, todo := a.todo.filter fun m => m != fld c 15 0 0 } ∧
      (∀ j, j ≠ jc → attnOf t j = attnOf s j) ∧ t = { completed 0x0511 c .ok 0 s with kv := { s.kv with jobs := t.kv.jobs } }) ∧
  (∀ (c : Cmd) (jc : Nat) (a : AttnJob) (w : Wait) (s : State), TakenUp 0x0511 c s →
    (s.kv.jobs.find? fun e => e.2.queue.any fun r => r.num == fld c 15 0 0) = some (jc, a) → attnOf s jc = a →
    (match a.serving with | some v => v.req.num ≠ fld c 15 0 0 | none => mayServe s jc = false ∨ a.todo.head? ≠ some (fld c 15 0 0)) →
    s.mbx.waits = [w] → w.act = .serve (fld c 15 0 0) →
    ∃ t, exec (.attnCancel c) s = .next t ∧ (∀ r ∈ (attnOf t jc).queue, r.num ≠ fld c 15 0 0) ∧ t.mbx.waits = [] ∧
      t.mbx.due = s.mbx.due ++ [completionOf w.opcode w.cmd .refused (fld c 15 0 0), completionOf 0x0511 c .ok 0] ∧
      t = { s with mbx := slotsOnly s t, kv := { s.kv with jobs := t.kv.jobs } }) ∧
  (∀ (c : Cmd) (jc : Nat) (a : AttnJob) (s : State), TakenUp 0x0511 c s →
    (s.kv.jobs.find? fun e => e.2.queue.any fun r => r.num == fld c 15 0 0) = some (jc, a) → attnOf s jc = a →
    (match a.serving with | some v => v.req.num = fld c 15 0 0 | none => mayServe s jc = true ∧ a.todo.head? = some (fld c 15 0 0)) →
    ∃ t, exec (.attnCancel c) s = .next t ∧
      attnOf t jc = { a with queue := a.queue.map fun r => if r.num = fld c 15 0 0 then { r with cancelled := true } else r } ∧
      (∀ j, j ≠ jc → attnOf t j = attnOf s j) ∧ t = { completed 0x0511 c .ok 0 s with kv := { s.kv with jobs := t.kv.jobs } }) ∧
  (∀ (c : Cmd) (s : State), TakenUp 0x0512 c s →
    ∃ bs, exec (.attnInfo c) s = .next (answered 0x0512 c bs 0 s) ∧
      bs.length = 72 * ((descJobs s false).length + (descJobs s true).length)) ∧
  (∀ (jc n : Nat) (rest : List Nat) (r : Req) (s : State), (attnOf s jc).serving = none → (attnOf s jc).todo = n :: rest →
    mayServe s jc = true → ((attnOf s jc).queue.find? fun x => x.num == n) = some r → rWaitTgt r ≤ (syncOf s (rWaitObj r)).count →
    (appendFlushes s r = false ∨ bufferReach s (rSeq r) (rLayer r) = true) → (serveNeeds r = true → dramUp s = true) →
    ∃ t v, exec (.serve jc) s = .next t ∧ attnOf t jc = { attnOf s jc with todo := rest, waitOver := false, serving := some v } ∧
      (let p := if rMerge r then (Status.ok, s) else appendLayer true (rSeq r) (rLayer r) (rAppend r) s
       v.status = (if p.1 ≠ .ok then p.1 else if rMerge r = false then serveCheck p.2 r else
           if mergeOk p.2 (tabGet {} p.2.kv.seqs (rSeq r)) r = true then .ok else .badParam) ∧
         v.length = (layerOf p.2 (slotOf p.2 (rSeq r) (rLayer r))).length ∧ v.posTo = servePosTo p.2 r ∧
         (v.status = .ok → rMerge r = false → v.excluded = excludedCount p.2 r) ∧
         t = { p.2 with kv := { p.2.kv with jobs := t.kv.jobs }, seq := { p.2.seq with streams := t.seq.streams } }) ∧
      v.req.num = r.num ∧ v.req.bits = r.bits ∧ v.overrun = (attnOf s jc).waitOver ∧ (∀ j, j ≠ jc → attnOf t j = attnOf s j)) ∧
  (∀ (jc : Nat) (v : Serve) (s : State), (attnOf s jc).serving = some v → (serveNeeds v.req = true → dramUp s = true) →
    ∃ t, exec (.serveEnd jc) s = .next t ∧ (attnOf t jc).serving = none ∧ (attnOf t jc).todo = (attnOf s jc).todo ∧
      (v.req.oneShot = true → ∀ r ∈ (attnOf t jc).queue, r.num ≠ v.req.num) ∧
      (∀ w ∈ s.mbx.waits, w.act = .serve v.req.num → w ∉ t.mbx.waits ∧
        ∃ e ∈ t.mbx.due, e.slot = w.cmd.slot % 64 ∧ e.cookie = w.cmd.cookie ∧ e.status = v.status) ∧
      (rStKind v.req = 0 → rSt v.req % 16 = 0 → memWf 0 s.fm.mem = true →
        bankOn s (rSt v.req / 2 ^ 23) (rSt v.req % 2 ^ 23) = true → bankOn s (rSt v.req / 2 ^ 23) (rSt v.req % 2 ^ 23 + 8) = true →
        ∃ empty poisoned, fmBytes t (rSt v.req / 2 ^ 23) (rSt v.req % 2 ^ 23) 16 = statusWord s.tick.no v empty poisoned) ∧
      (v.status ≠ .ok → rStKind v.req = 0 → t.dram = s.dram) ∧
      ((syncOf s (reqField v.req 699 690)).count ≤ 65535 →
        (syncOf t (reqField v.req 699 690)).count = min 65535 ((syncOf s (reqField v.req 699 690)).count + reqField v.req 689 686)) ∧
      (∀ j, j ≠ jc → attnOf t j = attnOf s j) ∧
      t = { s with mbx := t.mbx, kv := { s.kv with jobs := t.kv.jobs, pages := t.kv.pages }, fm := t.fm, dram := t.dram, seq := { s.seq with sync := t.seq.sync, barriers := t.seq.barriers, jobs := t.seq.jobs }, ctr := t.ctr, free := t.free }) ∧
  (∀ (jc : Nat) (s : State), (attnOf s jc).serving = none → exec (.serveEnd jc) s = .next s)

/-! ## Links and the shared tick (chapter 14) -/

/-- The link commands: LINK_IDENT queues the identity record (R377), LINK_STATE answers its block, LINK_ADMIN down floods its links and
waits for the boundary and the drain and up floods them and starts training (R400), LINK_MASTER waits for the boundary (R399), LINK_PING
answers, or LINK_DOWN without a route; LINK_ADMIN_DOWN_ENTRY, once their flits have left or 20 µs are over, takes the named links to
ADMIN_DOWN and completes the command. -/
def Obligations.LinkCommands : Prop :=
  (∀ (c : Cmd) (s : State), TakenUp 0x0701 c s → identOk (identOf (identBits c)) = true →
    (∀ l, l < 4 → (linkOf s l).phase = .disabled ∨ (linkOf s l).phase = .adminDown) →
    ∃ t, exec (.linkIdent c) s = .next t ∧ t.nv.recQ = s.nv.recQ ++ [(28, padTo 64 (leBytes 8 (identBits c)))] ∧
      t = { waitsNow 0x0701 c (.recWrite .chip) s with nv := asked s t }) ∧
  (∀ (c : Cmd) (s : State), TakenUp 0x0702 c s →
    ∃ bs, exec (.linkState c) s = .next (answered 0x0702 c bs 0 s) ∧ bs.length = 288 ∧
      (∀ l, l < 4 → (nth bs (64 * l) 0).toNat = linkCode (linkOf s l).phase)) ∧
  (∀ (c : Cmd) (s : State), TakenUp 0x0703 c s → BitVec.ofNat 4 (fld c 3 0 0) = 0 →
    exec (.linkAdmin c) s = .next (completed 0x0703 c .ok 0 s)) ∧
  (∀ (c : Cmd) (s : State), TakenUp 0x0703 c s → BitVec.ofNat 4 (fld c 3 0 0) &&& ~~~s.links.ident.linkEn = 0 → fldB c 4 false = true →
    (∀ l, l < 4 → (fld c 3 0 0).testBit l = true → (linkOf s l).phase = .up) →
    ∃ t, exec (.linkAdmin c) s = .next t ∧ (∀ l, l < 4 → t.links.avoid.getLsbD l = (s.links.avoid.getLsbD l && !(fld c 3 0 0).testBit l)) ∧
      t.links.flooded = (((List.range 4).filter fun l => (fld c 3 0 0).testBit l).map fun l => (mapKey s l, LinkWord.up)).reverse ++ s.links.flooded ∧
      t = { completed 0x0703 c .ok 0 s with links := { s.links with avoid := t.links.avoid, flooded := t.links.flooded } }) ∧
  (∀ (c : Cmd) (s : State), TakenUp 0x0703 c s → BitVec.ofNat 4 (fld c 3 0 0) &&& ~~~s.links.ident.linkEn = 0 →
    BitVec.ofNat 4 (fld c 3 0 0) ≠ 0 → fldB c 4 false = false →
    exec (.linkAdmin c) s = .next { waitsNow 0x0703 c (.linkDown (BitVec.ofNat 4 (fld c 3 0 0)) false) s with links := { s.links with
      flooded := (((List.range 4).filter fun l => (fld c 3 0 0).testBit l).map fun l => (mapKey s l, LinkWord.adminDown)).reverse ++ s.links.flooded } }) ∧
  (∀ (c : Cmd) (s : State), TakenUp 0x0703 c s → BitVec.ofNat 4 (fld c 3 0 0) &&& ~~~s.links.ident.linkEn = 0 →
    BitVec.ofNat 4 (fld c 3 0 0) ≠ 0 → fldB c 4 false = true →
    (∀ l, l < 4 → (fld c 3 0 0).testBit l = true → (linkOf s l).phase ≠ .up ∧ polderUp s (pLink l) = true) →
    ∃ t, exec (.linkAdmin c) s = .next t ∧
      (∀ l, l < 4 → (fld c 3 0 0).testBit l = true → (linkOf t l).phase = .training ∧ t.links.avoid.getLsbD l = false ∧
        (mapKey s l, LinkWord.down) ∈ t.links.flooded) ∧
      (∀ l, l < 4 → (fld c 3 0 0).testBit l = false → linkOf t l = linkOf s l ∧ t.links.avoid.getLsbD l = s.links.avoid.getLsbD l) ∧
      t = { counted (waitsNow 0x0703 c (.linkUp (BitVec.ofNat 4 (fld c 3 0 0))) s) t with links := t.links, boot := t.boot, nv := { s.nv with logPend := t.nv.logPend } }) ∧
  (∀ (c : Cmd) (s : State), TakenUp 0x0704 c s →
    exec (.linkMaster c) s = .next (waitsNow 0x0704 c .linkMaster s)) ∧
  (∀ (c : Cmd) (s : State), TakenUp 0x0705 c s → fld c 5 0 0 < (s.links.ident.dimX + 1) * (s.links.ident.dimY + 1) →
    (fld c 5 0 0 = s.links.ident.chipId ∨ (routeTo s (fld c 5 0 0)).isSome = true) →
    ∃ t d, exec (.linkPing c) s = .next t ∧ t = { completed 0x0705 c .ok d s with free := t.free }) ∧
  (∀ (c : Cmd) (s : State), TakenUp 0x0705 c s → fld c 5 0 0 < (s.links.ident.dimX + 1) * (s.links.ident.dimY + 1) →
    fld c 5 0 0 ≠ s.links.ident.chipId → routeTo s (fld c 5 0 0) = none →
    exec (.linkPing c) s = .next (completed 0x0705 c .linkDown 0 s)) ∧
  (∀ (w : Wait) (m : BitVec 4) (s : State), computeDown s = false → s.mbx.waits = [w] → w.act = .linkDown m true → adminDrained m s = true →
    ∃ t, exec .linkAdminDownEntry s = .next t ∧ (∀ l, l < 4 → m.getLsbD l = true → (linkOf t l).phase = .adminDown) ∧
      (∀ k, k < 4 → m.getLsbD k = false → linkOf t k = { linkOf s k with issuedSched := (linkOf t k).issuedSched, issuedShared := (linkOf t k).issuedShared }) ∧ t.mbx.waits = [] ∧
      t.mbx.due = s.mbx.due ++ [completionOf w.opcode w.cmd .ok 0] ∧
      t.tick = s.tick ∧ t.fe = s.fe ∧ t.host = s.host ∧ t.fm.mem = s.fm.mem ∧ t.dram = s.dram ∧ t.kv = s.kv ∧ t.watch = s.watch) ∧
  (∀ (w : Wait) (m : BitVec 4) (s : State), s.mbx.waits = [w] → w.act = .linkDown m true → adminDrained m s = false →
    exec .linkAdminDownEntry s = .next s)

/-- LINK_TRAINING ends in the state that Table 14-3 gives (R379 to R381, R401); RETRAIN_TIMER starts it again; LINK_DOWN discards the replay
buffer and fences the link (R394, R395), LINK_UNFENCE lifts that fence after a full frame UP; every change is flooded, and a flood that
tells something new is taken over and passed on; plan words are taken over (R387, R395). TICK_MARKER_RX on a chip that follows takes a
better master's epoch and chip, the parent's link and its phase error (R396, R398, R399); a master that hears a better one yields at the
next boundary; PARENT_MARKER_MISSING takes the other candidate of the tick, or enters holdover (R397). -/
def Obligations.LinkAndSharedTickEvents : Prop :=
  (∀ (l : Nat) (r : TrainResult) (s : State), l < 4 → computeDown s = false → (linkOf s l).phase = .training →
    ∃ t, exec (.linkTraining l r) s = .next t ∧
      (linkOf t l).phase = (match r with
        | .failed => .down
        | .partner chip topo dx dy far vs _ =>
          if !partnerOk s.links.ident l chip topo dx dy far then .miswired
          else if !vs.contains 0x0100 then .incompatible
          else if adminDownPending s l then .adminDown else .up) ∧
      ((linkOf t l).phase = .up → (linkOf t l).credSched = 128 ∧ (linkOf t l).credShared = 64 ∧ (linkOf t l).issuedSched = 128 ∧
        (linkOf t l).issuedShared = 64 ∧ (linkOf t l).version = 0x0100 ∧ (linkOf t l).txCount = 0 ∧ (linkOf t l).rxCount = 0 ∧ (linkOf t l).rxMissing = false) ∧
      t.links.flooded = (mapKey s l, if (linkOf t l).phase = .up then LinkWord.up else LinkWord.down) :: s.links.flooded ∧
      (∀ k, k ≠ l → linkOf t k = linkOf s k) ∧
      t = { s with mbx := t.mbx, links := { s.links with link := t.links.link, downMap := t.links.downMap, flooded := t.links.flooded }, boot := t.boot, nv := { s.nv with logPend := t.nv.logPend }, ctr := t.ctr }) ∧
  (∀ (l : Nat) (s : State), l < 4 → computeDown s = false → ((linkOf s l).phase = .down ∨ (linkOf s l).phase = .miswired) →
    polderUp s (pLink l) = true →
    ∃ t, exec (.retrainTimer l) s = .next t ∧ (linkOf t l).phase = .training ∧ (∀ k, k ≠ l → linkOf t k = linkOf s k) ∧
      t = { s with mbx := t.mbx, links := { s.links with link := t.links.link, downMap := t.links.downMap, flooded := t.links.flooded }, boot := t.boot, nv := { s.nv with logPend := t.nv.logPend }, ctr := t.ctr }) ∧
  (∀ (l : Nat) (cause : DownCause) (s : State), l < 4 → computeDown s = false → (linkOf s l).phase = .up →
    (cause = .replayed16 → 16 ≤ (linkOf s l).replayRun) →
    ∃ t, exec (.linkDown l cause) s = .next t ∧ (linkOf t l).phase = .down ∧ (linkOf t l).replay = [] ∧
      fenced t.seq.fence (272 + l) = true ∧ (mapKey s l, LinkWord.down) ∈ t.links.flooded ∧ (∀ k, k ≠ l → linkOf t k = { linkOf s k with issuedSched := (linkOf t k).issuedSched, issuedShared := (linkOf t k).issuedShared }) ∧
      t.tick = s.tick ∧ t.fe = s.fe ∧ t.host = s.host ∧ t.fm.mem = s.fm.mem ∧ t.dram = s.dram ∧ t.kv = s.kv ∧ t.watch = s.watch) ∧
  (∀ (l : Nat) (s : State), l < 4 → computeDown s = false → (linkOf s l).phase = .up → 2 ≤ (linkOf s l).upFrames → s.tick.inFrame = 0 →
    ∃ t, exec (.linkUnfence l) s = .next t ∧ fenced t.seq.fence (272 + l) = false ∧
      (∀ r, r ≠ 272 + l → fenced t.seq.fence r = fenced s.seq.fence r) ∧
      t.tick = s.tick ∧ t.fe = s.fe ∧ t.host = s.host ∧ t.fm.mem = s.fm.mem ∧ t.dram = s.dram ∧ t.kv = s.kv ∧ t.watch = s.watch) ∧
  (∀ (chip l : Nat) (w : LinkWord) (s : State), l < 4 → computeDown s = false → chip ≠ s.links.ident.chipId →
    ∃ t, exec (.linkStateFloodRx chip l w) s = .next t ∧
      (4 * chip + l ∈ t.links.downMap ↔ w = .down ∨ (w = .adminDown ∧ 4 * chip + l ∈ s.links.downMap)) ∧
      (4 * chip + l ∈ t.links.adminHeard ∨ 4 * chip + l ∈ t.links.adminAvoid ↔
        w = .adminDown ∨ (w = .down ∧ (4 * chip + l ∈ s.links.adminHeard ∨ 4 * chip + l ∈ s.links.adminAvoid))) ∧
      (∀ k, k ≠ 4 * chip + l → (k ∈ t.links.downMap ↔ k ∈ s.links.downMap) ∧ (k ∈ t.links.adminHeard ↔ k ∈ s.links.adminHeard) ∧
        (k ∈ t.links.adminAvoid ↔ k ∈ s.links.adminAvoid)) ∧
      (t = s ∨ t.links.flooded = (4 * chip + l, w) :: s.links.flooded) ∧
      t = { s with links := { s.links with downMap := t.links.downMap, adminHeard := t.links.adminHeard, adminAvoid := t.links.adminAvoid, flooded := t.links.flooded } }) ∧
  (∀ (l : Nat) (p : Option W32) (s : State), l < 4 → (linkOf s l).phase = .up →
    ∃ t, exec (.planIdRx l p) s = .next t ∧ linkOf t l = { linkOf s l with farPlan := p } ∧ (∀ k, k ≠ l → linkOf t k = linkOf s k) ∧
      t = { s with links := { s.links with link := t.links.link } }) ∧
  (∀ (l : Nat) (m : Marker) (s : State), l < 4 → computeDown s = false → (linkOf s l).phase = .up → s.links.master = false →
    s.tick.source = 2 → betterMaster s m = true → sameMaster s m = false → m.period = s.tick.period → m.frameLen = s.tick.frameLen →
    (markerErr s l m).natAbs ≤ 64 →
    ∃ t, exec (.tickMarkerRx l m) s = .next t ∧ t.links.masterChip = m.master ∧ t.links.epoch = m.epoch ∧ t.links.parent = some l ∧
      t.links.heard = some (m.tick, m.frame, m.tickInFrame) ∧ t.tick.phase = markerErr s l m ∧ t.links.link = s.links.link ∧
      t.tick.no = s.tick.no ∧ t.tick.frame = s.tick.frame ∧ t.seq = s.seq ∧ t.fe = s.fe ∧ t.host = s.host ∧ t.fm = s.fm) ∧
  (∀ (l : Nat) (m : Marker) (s : State), l < 4 → computeDown s = false → (linkOf s l).phase = .up → s.links.master = true →
    betterMaster s m = true →
    exec (.tickMarkerRx l m) s = .next { s with links := { s.links with epochMax := max s.links.epochMax m.epoch, yield_ := true } }) ∧
  (∀ s : State, computeDown s = false → s.tick.source = 2 → s.links.master = false →
    (∀ l n, s.links.best = some (l, n) → exec .parentMarkerMissing s = .next { s with links := { s.links with parent := some l } }) ∧
    (s.links.best = none → s.tick.holdover = false → ∃ t, exec .parentMarkerMissing s = .next t ∧ t.tick.holdover = true ∧
      t.links = { s.links with parent := none } ∧ t.mbx.intStatus.getLsbD 4 = true ∧
      t.tick = { s.tick with holdover := true, good := 0, bad := 0, trim := (if s.tick.realign then s.tick.trim else 0) }) ∧
    (s.links.best = none → s.tick.holdover = true → exec .parentMarkerMissing s = .next { s with links := { s.links with parent := none }, tick := { s.tick with good := 0 } }))

/-- LINK_RSV reserves slots for this tick; FLIT_SLOT, whose slots come in order, sends a scheduled flit in a reserved slot with a scheduled
credit, and else a detour or best-effort flit with a shared one, into the replay buffer, and the buffer that a forwarded flit held is free;
acknowledgements and credits take flits and give credits back; FLIT_RX takes a flit that verifies and is the next in order, acknowledges it
by count and passes it on by the route of its transfer, or opens a transfer at its destination and appends data flits to it; of the others
nothing is taken (R383, R385 to R393; the place in the order that a flit carries is the model's, log 93). -/
def Obligations.FlitsMove : Prop :=
  (∀ (l : Nat) (o : RsvOpnd) (a : Nat) (s : State), l < 4 → computeDown s = false →
    ∃ t, exec (.linkRsv l o a) s = .next t ∧
      linkOf t l = { linkOf s l with rsv := (linkOf s l).rsv ++ [{ first := (a + 5) / 6, count := o.nSlots, src := o.src }] } ∧
      (∀ k, k ≠ l → linkOf t k = linkOf s k) ∧ t = { s with links := { s.links with link := t.links.link } }) ∧
  (∀ (l slot : Nat) (x : QFlit) (r : Rsv) (s : State), l < 4 → computeDown s = false → (linkOf s l).phase = .up →
    (linkOf s l).slotNext ≤ slot → 6 * slot + 6 ≤ s.tick.period → 6 * slot + 6 ≤ ((s.tick.period : Int) + s.tick.trim).toNat →
    (linkOf s l).replayLeft = 0 → (linkOf s l).replay.length < 256 → plansAgree s l = true →
    (linkOf s l).rsv = [r] → r.first ≤ slot → slot < r.first + r.count → (linkOf s l).txq = [x] → x.flit.cls = .scheduled →
    (if x.fwd then r.src ≠ 2 else r.src ≠ 1) → 1 ≤ (linkOf s l).credSched →
    ∃ t, exec (.flitSlot l slot) s = .next t ∧
      (∀ k, linkOf t k = linkOf (issueCredit x.inLink x.inCls (setLink l (fun y => { y with txq := [], replay := y.replay ++ [x], credSched := y.credSched - 1, slotNext := slot + 1, txCount := y.txCount + 1, lineOut := some (lineFlit y.txCount x.flit) }) s)) k) ∧
      t = { s with links := { s.links with link := t.links.link } }) ∧
  (∀ (l slot : Nat) (x : QFlit) (s : State), l < 4 → computeDown s = false → (linkOf s l).phase = .up →
    (linkOf s l).slotNext ≤ slot → 6 * slot + 6 ≤ ((s.tick.period : Int) + s.tick.trim).toNat → (linkOf s l).replayLeft = 0 →
    (linkOf s l).replay.length < 256 →
    (linkOf s l).rsv = [] → (linkOf s l).txq = [x] → x.flit.cls ≠ .scheduled → 1 ≤ (linkOf s l).credShared →
    ∃ t, exec (.flitSlot l slot) s = .next t ∧
      (∀ k, linkOf t k = linkOf (issueCredit x.inLink x.inCls (setLink l (fun y => { y with txq := [], replay := y.replay ++ [x], credShared := y.credShared - 1, slotNext := slot + 1, txCount := y.txCount + 1, lineOut := some (lineFlit y.txCount x.flit) }) s)) k) ∧
      t = { s with links := { s.links with link := t.links.link } }) ∧
  (∀ (l n : Nat) (s : State), l < 4 → (linkOf s l).phase = .up →
    ∃ t, exec (.linkAckRx l n false) s = .next t ∧ (linkOf t l).replay = (linkOf s l).replay.drop n ∧
      (linkOf t l).txq = (linkOf s l).txq ∧ (linkOf t l).credSched = (linkOf s l).credSched ∧
      (∀ k, k ≠ l → linkOf t k = linkOf s k) ∧
      (∀ e ∈ s.links.sent, e ∈ t.links.sent ∨ ∃ q ∈ (linkOf s l).replay.take n, q.flit.srcChip = s.links.ident.chipId ∧ q.flit.tag = e.1) ∧
      t = { s with links := { s.links with link := t.links.link, sent := t.links.sent } }) ∧
  (∀ (l n : Nat) (s : State), l < 4 → (linkOf s l).phase = .up → n < (linkOf s l).replay.length → computeDown s = false →
    ∃ t, exec (.linkAckRx l n true) s = .next t ∧ (linkOf t l).replay = (linkOf s l).replay.drop n ∧
      (linkOf t l).replayLeft = (linkOf s l).replay.length - n ∧
      (ctrGet t (cLink l 1)).toNat = min (2 ^ 32 - 1) ((ctrGet s (cLink l 1)).toNat + 1) ∧
      t = { s with links := { s.links with link := t.links.link, sent := t.links.sent }, mbx := t.mbx, ctr := t.ctr }) ∧
  (∀ (l n : Nat) (cls : FlitClass) (s : State), l < 4 → (linkOf s l).phase = .up →
    ∃ t, exec (.creditRx l cls n) s = .next t ∧
      linkOf t l = (if cls = .scheduled then { linkOf s l with credSched := min 128 ((linkOf s l).credSched + n) } else { linkOf s l with credShared := min 64 ((linkOf s l).credShared + n) }) ∧
      (∀ k, k ≠ l → linkOf t k = linkOf s k) ∧ t = { s with links := { s.links with link := t.links.link } }) ∧
  (∀ (l out : Nat) (g : LineFlit) (f : Flit) (h : HeadFlit) (s : State), l < 4 → computeDown s = false → (linkOf s l).phase = .up →
    lineGood g = true → g.nth = (linkOf s l).rxCount → flitRead g = some f → f.body = .head h → nextHop s.links.ident h = some out →
    (linkOf s out).phase = .up →
    ∃ t, exec (.flitRx l g) s = .next t ∧
      linkOf t out = { linkOf (rxTaken l s) out with txq := (linkOf s out).txq ++ [{ fwd := true, flit := f, inLink := l, inCls := f.cls }] } ∧
      tabFind t.links.routes (xferKey f.srcChip f.tag) = some out ∧ (∀ k, k ≠ out → linkOf t k = linkOf (rxTaken l s) k) ∧
      t = { s with links := { s.links with link := t.links.link, routes := t.links.routes, dropping := s.links.dropping.filter (· != xferKey f.srcChip f.tag) }, fm := (tagBegins (xferKey f.srcChip f.tag) s).fm }) ∧
  (∀ (l : Nat) (g : LineFlit) (f : Flit) (h : HeadFlit) (s : State), l < 4 → computeDown s = false → (linkOf s l).phase = .up →
    lineGood g = true → g.nth = (linkOf s l).rxCount → flitRead g = some f → f.body = .head h → nextHop s.links.ident h = none →
    h.dst / 2 ^ 23 < nFields s.part → fenced s.seq.fence (256 + h.dst / 2 ^ 23) = false →
    polderPowered s (pFm (h.dst / 2 ^ 23)) = true → 1 ≤ h.len →
    ∃ t x, exec (.flitRx l g) s = .next t ∧ x ∈ t.fm.xfers ∧ x.id = s.fm.nextXfer ∧ x.head = some h ∧ x.chip = f.srcChip ∧ x.tag = f.tag ∧
      x.chunks = [] ∧ x.whole = false ∧ x.dst = h.dst ∧
      tabFind t.links.routes (xferKey f.srcChip f.tag) = some 4 ∧
      (∀ k, linkOf t k = linkOf (issueCredit l f.cls (rxTaken l s)) k) ∧
      t = { s with links := { s.links with link := t.links.link, routes := t.links.routes, dropping := t.links.dropping }, fm := { s.fm with xfers := t.fm.xfers, nextXfer := s.fm.nextXfer + 1 } }) ∧
  (∀ (l : Nat) (g : LineFlit) (f : Flit) (last : Bool) (p : BitVec 8) (bs : List Byte) (x : Xfer) (h : HeadFlit) (s : State), l < 4 →
    computeDown s = false → (linkOf s l).phase = .up → lineGood g = true → g.nth = (linkOf s l).rxCount → flitRead g = some f →
    f.body = .data last p bs →
    xferKey f.srcChip f.tag ∉ s.links.dropping → tabFind s.links.routes (xferKey f.srcChip f.tag) = some 4 →
    x ∈ s.fm.xfers → received x = true → x.chip = f.srcChip → x.tag = f.tag → x.whole = false → x.head = some h →
    arrivalRoom f.srcChip f.tag s = true →
    ∃ t y c, exec (.flitRx l g) s = .next t ∧ y ∈ t.fm.xfers ∧ y.id = x.id ∧ y.whole = last ∧ y.chunks = x.chunks ++ [c] ∧
      c.off = 64 * x.srcStride ∧ c.data = some (padTo c.len bs) ∧ t.fm.mem = s.fm.mem ∧
      (∀ k, linkOf t k = linkOf (issueCredit l f.cls (rxTaken l s)) k) ∧
      t = { s with links := { s.links with link := t.links.link, routes := t.links.routes }, fm := { s.fm with xfers := t.fm.xfers } }) ∧
  (∀ (l out : Nat) (g : LineFlit) (f : Flit) (last : Bool) (p : BitVec 8) (bs : List Byte) (s : State), l < 4 → out < 4 →
    computeDown s = false → (linkOf s l).phase = .up → lineGood g = true → g.nth = (linkOf s l).rxCount → flitRead g = some f →
    f.body = .data last p bs → xferKey f.srcChip f.tag ∉ s.links.dropping →
    tabFind s.links.routes (xferKey f.srcChip f.tag) = some out → (linkOf s out).phase = .up →
    ∃ t, exec (.flitRx l g) s = .next t ∧
      linkOf t out = { linkOf (rxTaken l s) out with txq := (linkOf s out).txq ++ [{ fwd := true, flit := f, inLink := l, inCls := f.cls }] } ∧
      (∀ k, k ≠ out → linkOf t k = linkOf (rxTaken l s) k) ∧
      (∀ k, tabFind t.links.routes k = if last = true ∧ k = xferKey f.srcChip f.tag then none else tabFind s.links.routes k) ∧
      t = { s with links := { s.links with link := t.links.link, routes := t.links.routes } }) ∧
  (∀ (l : Nat) (g : LineFlit) (f : Flit) (p : BitVec 8) (bs : List Byte) (s : State), l < 4 → computeDown s = false →
    (linkOf s l).phase = .up → lineGood g = true → g.nth = (linkOf s l).rxCount → flitRead g = some f → f.body = .data false p bs →
    xferKey f.srcChip f.tag ∈ s.links.dropping → exec (.flitRx l g) s = .next (issueCredit l f.cls (rxTaken l s))) ∧
  (∀ (l : Nat) (g : LineFlit) (f : Flit) (last : Bool) (p : BitVec 8) (bs : List Byte) (s : State), l < 4 → lineGood g = true →
    g.nth = (linkOf s l).rxCount → flitRead g = some f → f.body = .data last p bs →
    xferKey f.srcChip f.tag ∉ s.links.dropping → tabFind s.links.routes (xferKey f.srcChip f.tag) = some 4 →
    arrivalRoom f.srcChip f.tag s = false → exec (.flitRx l g) s = .next s) ∧
  (∀ (l : Nat) (g : LineFlit) (s : State), l < 4 → computeDown s = false → (linkOf s l).phase = .up → lineGood g = false →
    exec (.flitRx l g) s = .next (bump (cLink l 0) (setLink l (fun k => { k with rxMissing := k.rxMissing || decide (k.rxCount ≤ g.nth) }) s))) ∧
  (∀ (l : Nat) (g : LineFlit) (s : State), l < 4 → computeDown s = false → (linkOf s l).phase = .up → lineGood g = true →
    g.nth ≠ (linkOf s l).rxCount →
    exec (.flitRx l g) s = .next (setLink l (fun k => { k with rxMissing := k.rxMissing || decide (k.rxCount ≤ g.nth) }) s)) ∧
  (∀ (l : Nat) (g : LineFlit) (s : State), l < 4 → computeDown s = false → (linkOf s l).phase = .up → lineGood g = true →
    g.nth = (linkOf s l).rxCount → flitRead g = none → exec (.flitRx l g) s = .next (rxTaken l s))

/-! ## Power (chapter 18) -/

/-- PWR_STATUS answers Table 18-7, PWR_GOVERNOR waits for the frame boundary (R491). PWR_UP of a polder that is DOWN joins the queue, and of
one that drains abandons the drain; POWER_UP_GRANT powers it, POLDER_UP brings it UP after 3,600 ac with nothing of what it held, and what
waited for the DRAM goes on with its polder (R336, R474, Table 18-1). PWR_DOWN drains a polder, but not a field memory whose arrays or
engines are powered, nor the one of an enabled link while a move list runs (R58, R382), SLUICE_CLOSED takes it DOWN when nothing waits,
POWER_DOWN_ABANDON returns it to UP after 4,096 ac (R478 to R481). BANK_SET in an UP field memory: a bank that is off starts turning on with
the next grant, a retaining one wakes in 32 ac; toward retaining or off the gates of the banks that are on start to close (R478, R483).
BANK_READY turns a bank on at its time, cleared bank or kept, and SLUICE_CLOSED takes the banks of a close to off, with their contents gone,
or to retaining (Table 07-4, R191). -/
def Obligations.PowerStates : Prop :=
  (∀ (c : Cmd) (s : State), TakenUp 0x0901 c s →
    exec (.pwrStatus c) s = .next (completed 0x0901 c .ok (pwrData s) s)) ∧
  (∀ (c : Cmd) (g : GovParams) (s : State), TakenUp 0x0902 c s →
    g = { recoverFrames := fld c 95 80 500, hystA := fld c 79 72 8, hystT := fld c 71 64 3, iGov := fld c 63 56 105, tjGov := fld c 55 48 105, ceiling := fld c 1 0 0 } →
    1 ≤ g.recoverFrames → 1 ≤ g.hystA → g.hystA ≤ 50 → 1 ≤ g.hystT → g.hystT ≤ 20 → 40 ≤ g.iGov → g.iGov ≤ 110 → 70 ≤ g.tjGov →
    g.tjGov ≤ 105 → g.ceiling ≠ 3 → (∀ w ∈ s.mbx.waits, ∀ v, w.act ≠ .governor v) →
    exec (.pwrGovernor c) s = .next (waitsNow 0x0902 c (.governor g) s)) ∧
  (∀ (p : Nat) (s : State), polderPresent s.part p = true → computeDown s = false →
    (polder s p = .down → PwrReq.polder p ∉ s.power.queue → (∀ f, polderField p = some f → polder s (pFm f) = .up) →
      exec (.pwrUp p) s = .next { s with power := { s.power with queue := s.power.queue ++ [.polder p], retry := s.power.retry.erase p } }) ∧
    (∀ n, polder s p = .draining n → ∃ t, exec (.pwrUp p) s = .next t ∧ polder t p = .up ∧ (∀ q, q ≠ p → polder t q = polder s q) ∧
      t = { s with power := { s.power with polders := t.power.polders, retry := s.power.retry.erase p } }) ∧
    (polder s p = .up → exec (.pwrUp p) s = .next { s with power := { s.power with retry := s.power.retry.erase p } })) ∧
  (∀ (p a : Nat) (s : State), s.power.queue = [.polder p] → polder s p = .down →
    (∀ f, polderField p = some f → polder s (pFm f) = .up) → recentGrants s (absAt s a) < 2 →
    ∃ t, exec (.powerUpGrant a) s = .next t ∧ polder t p = .powering (absAt s a) ∧ t.power.queue = [] ∧
      t.power.grants = absAt s a :: s.power.grants.take 7 ∧ (∀ q, q ≠ p → polder t q = polder s q) ∧
      t = { s with power := { s.power with polders := t.power.polders, queue := t.power.queue, grants := t.power.grants } }) ∧
  (∀ (p a t0 : Nat) (s : State), polder s p = .powering t0 → t0 + 3600 ≤ absAt s a → p ∉ s.power.retry → memWf 0 s.fm.mem = true →
    (p = pDram → s.mbx.barQ = [] ∧ ∀ w ∈ s.mbx.waits, w.act ≠ .dram) →
    ∃ t, exec (.polderUp p a) s = .next t ∧ polder t p = .up ∧ (p < 256 → tabFind t.fm.arrs p = none) ∧
      (272 ≤ p → p < 288 → ∀ x, x < 2 ^ 23 → memRead 0 t.fm.mem (chipAddr (p - 272) x) = 0) ∧
      (∀ x, (p < 272 ∨ 288 ≤ p ∨ x < chipAddr (p - 272) 0 ∨ chipAddr (p - 271) 0 ≤ x) → memRead 0 t.fm.mem x = memRead 0 s.fm.mem x) ∧
      t.tick = s.tick ∧ t.fe = s.fe ∧ t.host = s.host ∧ t.dram = s.dram ∧ t.kv = s.kv ∧ t.watch = s.watch ∧
      (p < 289 → t.mbx = s.mbx ∧ t.nv = s.nv ∧ t.links = s.links ∧ t.boot = s.boot ∧ t.ctr = s.ctr)) ∧
  (∀ (a t0 x n : Nat) (s : State), polder s pDram = .powering t0 → t0 + 3600 ≤ absAt s a → pDram ∉ s.power.retry → s.mbx.barQ = [.read x n] →
    s.mbx.waits = [] → s.dram.wrong = [] → s.dram.poison = [] →
    ∃ t, exec (.polderUp pDram a) s = .next t ∧ polder t pDram = .up ∧ t.mbx.barQ = [] ∧
      t.mbx.readOut = (List.range n).map (fun i => memRead 0 s.dram.mem (x + i)) ∧ t.dram = s.dram ∧ t.fm = s.fm ∧ t.host = s.host) ∧
  (∀ (a t0 : Nat) (w : Wait) (s : State), polder s pDram = .powering t0 → t0 + 3600 ≤ absAt s a → pDram ∉ s.power.retry → s.mbx.barQ = [] →
    s.mbx.waits = [w] → w.act = .dram → (w.opcode = 0x0501 ∨ w.opcode = 0x0503) →
    ∃ t, exec (.polderUp pDram a) s = .next t ∧ polder t pDram = .up ∧ w ∉ t.mbx.waits ∧
      ∃ e ∈ t.mbx.due, e.slot = w.cmd.slot % 64 ∧ e.cookie = w.cmd.cookie) ∧
  (∀ (p a : Nat) (s : State), polder s p = .up → downForbidden s p = false → linkKept s p = false →
    ∃ t, exec (.pwrDown p a) s = .next t ∧ polder t p = .draining (absAt s a) ∧ (∀ q, q ≠ p → polder t q = polder s q) ∧
      t = { s with power := { s.power with polders := t.power.polders } }) ∧
  (∀ (p a : Nat) (s : State), (downForbidden s p = true ∨ linkKept s p = true) → exec (.pwrDown p a) s = .next s) ∧
  (∀ (p a t0 : Nat) (s : State), polder s p = .draining t0 → t0 ≤ absAt s a → drainBusy s p = false →
    ∃ t, exec (.sluiceClosed p a) s = .next t ∧ polder t p = .down ∧ t.tick = s.tick ∧ t.fe = s.fe ∧ t.dram = s.dram ∧
      t.host = s.host ∧ (289 ≤ p → p < 293 → (linkOf s (p - 289)).phase = .up → fenced t.seq.fence (272 + (p - 289)) = true) ∧ (p < 289 → t = { s with power := t.power, fm := t.fm })) ∧
  (∀ (p a t0 : Nat) (s : State), polder s p = .draining t0 → t0 + 4096 ≤ absAt s a → drainBusy s p = true →
    ∃ t, exec (.powerDownAbandon p a) s = .next t ∧ polder t p = .up ∧ (∀ q, q ≠ p → polder t q = polder s q) ∧
      t.fm = s.fm ∧ t.tick = s.tick ∧ t.seq = s.seq ∧ t.links = s.links ∧ t.dram = s.dram ∧ t.host = s.host) ∧
  (∀ (f a : Nat) (m : BitVec 32) (s : State), polderUp s (pFm f) = true →
    ∃ t, exec (.bankSet f m .on a) s = .next t ∧
      (∀ b, b < 32 → m.getLsbD b = true → bankSt s f b = .off → bankSt t f b = .turning none) ∧
      (∀ b, b < 32 → m.getLsbD b = true → bankSt s f b = .retaining → bankSt t f b = .waking (absAt s a + 32)) ∧
      (∀ b, b < 32 → (m.getLsbD b = false ∨ bankSt s f b = .on) → bankSt t f b = bankSt s f b) ∧
      ((∃ b, b < 32 ∧ m.getLsbD b = true ∧ bankSt s f b = .off) → ∃ x, t.power.queue = s.power.queue ++ [.banks f x] ∧
        ∀ b, b < 32 → (x.getLsbD b = true ↔ m.getLsbD b = true ∧ bankSt s f b = .off)) ∧
      t = { s with fm := { s.fm with banks := t.fm.banks }, power := { s.power with queue := t.power.queue, closing := t.power.closing } }) ∧
  (∀ (f a b : Nat) (m : BitVec 32) (off : Bool) (s : State), polderUp s (pFm f) = true → b < 32 → m.getLsbD b = true → bankSt s f b = .on →
    ∃ t g, exec (.bankSet f m (if off then .off else .retaining) a) s = .next t ∧ tabFind t.power.closing (2 * f + b2n off) = some g ∧
      g.since = absAt s a ∧ (∀ k, k < 32 → (g.mask.getLsbD k = true ↔ m.getLsbD k = true ∧ bankSt s f k = .on)) ∧
      bankSt t f b = .on ∧ t = { s with fm := t.fm, power := { s.power with closing := t.power.closing } }) ∧
  (∀ (f b a : Nat) (s : State), ((∃ t0, bankSt s f b = .turning (some t0) ∧ t0 ≤ absAt s a) ∨ ∃ t0, bankSt s f b = .waking t0 ∧ t0 ≤ absAt s a) →
    ∃ t, exec (.bankReady f b a) s = .next t ∧ bankSt t f b = .on ∧
      (∀ k, k ≠ 32 * f + b → tabGet .off t.fm.banks k = tabGet .off s.fm.banks k) ∧
      t = { s with fm := t.fm } ∧
      (f < 16 → b < 32 → memWf 0 s.fm.mem = true →
        (∀ x, x < 2 ^ 18 → memRead 0 t.fm.mem (chipAddr f (b * 2 ^ 18) + x) =
          match bankSt s f b with | .waking _ => memRead 0 s.fm.mem (chipAddr f (b * 2 ^ 18) + x) | _ => 0) ∧
        ∀ x, (x < chipAddr f (b * 2 ^ 18) ∨ chipAddr f ((b + 1) * 2 ^ 18) ≤ x) → memRead 0 t.fm.mem x = memRead 0 s.fm.mem x)) ∧
  (∀ (f a : Nat) (g : GateClose) (off : Bool) (s : State), f < 16 → polder s (pFm f) = .up → tabFind s.power.closing (2 * f + b2n off) = some g →
    tabFind s.power.closing (2 * f + (1 - b2n off)) = none → gateBusy s f g.mask = false → memWf 0 s.fm.mem = true →
    ∃ t, exec (.sluiceClosed (pFm f) a) s = .next t ∧ tabFind t.power.closing (2 * f + b2n off) = none ∧
      (∀ b, b < 32 → g.mask.getLsbD b = true → bankSt t f b = (if off then .off else .retaining)) ∧
      (∀ b, b < 32 → g.mask.getLsbD b = false → bankSt t f b = bankSt s f b) ∧
      (∀ x, x < 2 ^ 23 → memRead 0 t.fm.mem (chipAddr f x) =
        if off = true ∧ g.mask.getLsbD (bankOf x) = true then 0 else memRead 0 s.fm.mem (chipAddr f x)) ∧
      t = { s with fm := t.fm, power := { s.power with closing := t.power.closing } })

/-! ## Resets and bring-up (chapters 13, 19 and 21) -/

/-- The resets of Table 19-1 that leave the front-end die running take the compute die, and everything it holds, to stage RESET, and leave
what the front-end die, the store and the board hold: DEV_RESET scope 0, PERST_N, FUNCTION_LEVEL_RESET, RAIL_FAULT, THERMAL_TRIP and the
last core's WATCHDOG_EXPIRY (R444, R447, R490, R502, R503). With another core left, WATCHDOG_EXPIRY only takes its core off. -/
def Obligations.ComputeDieResets : Prop :=
  (∀ (c : Cmd) (s : State), TakenUp 0x0006 c s → fld c 1 0 0 = 0 →
    ∃ t, exec (.devReset c) s = .next t ∧ Restarted .devReset0 s t ∧ t.boot.perst = s.boot.perst ∧ t.boot.extest = s.boot.extest) ∧
  (∀ s : State, ∃ t, exec .perstNAssert s = .next t ∧ Restarted .perst s t ∧ t.boot.perst = true) ∧
  (∀ s : State, exec .perstNDeassert s = .next { s with boot := { s.boot with perst := false } }) ∧
  (∀ s : State, computeDown s = false → ∃ t, exec .functionLevelReset s = .next t ∧ Restarted .flr s t) ∧
  (∀ s : State, ∃ t, exec .railFault s = .next t ∧ Restarted .rail s t) ∧
  (∀ (tj : Int) (ic : Nat) (s : State), computeDown s = false → (115 * 256 ≤ tj ∨ 600 ≤ s.power.overTicks) →
    ∃ t, exec (.thermalTrip tj ic) s = .next t ∧ Restarted .trip (logEvent 0x0022 5 (wrapN 64 tj) ic s) t ∧
      (ctrGet t cThermTrip).toNat = min (2 ^ 32 - 1) ((ctrGet s cThermTrip).toNat + 1)) ∧
  (∀ (core a : Nat) (s : State), computeDown s = false → core < 4 → s.boot.cores = 1#4 <<< core →
    ∃ t, exec (.watchdogExpiry core a) s = .next t ∧ Restarted .watchdog (logEvent 0x0003 0 core 0 s) t) ∧
  (∀ (core a : Nat) (s : State), computeDown s = false → core < 4 → s.boot.cores.getLsbD core = true → s.boot.cores ≠ 1#4 <<< core →
    s.boot.lastWdt = none → (s.boot.staged = false ∨ s.tick.inFrame ≠ 0) →
    ∃ t, exec (.watchdogExpiry core a) s = .next t ∧ t.boot.cores = s.boot.cores &&& ~~~(1#4 <<< core) ∧ t.boot.stage = s.boot.stage ∧
      t.boot.lastWdt = some (absAt s a) ∧ t.seq = s.seq ∧ t.fm = s.fm ∧ t.tick = s.tick ∧ t.host = s.host)

/-- FE_POWER_ON, SUPPLY_RETURN after a power failure, DEV_RESET scope 1 and EXTEST start both dies: the compute die is in reset and the
front end has its stored configuration; only the first two clear the tick number and the counters (R41, R45, R66, R370, R464).
POWER_FAIL_DETECT drops the writes that have not started, and with them what stood behind them, and takes the health outputs to their fault
path (R368, R534); FRONT_END_SUPPLY_COLLAPSE stops the front-end die (R371). Bring-up in the order of Table 19-3: COMPUTE_DIE_START, when
nothing holds the die, makes stage ROM with a verified slot and HALTED without one (R453, R494, R498, R499); FW_START_STAGE,
DRAM_TRAINING_END, DRAM_CLEAR_END and SYNC_STAGE lead to READY (R321 to R323, R500, R501); BOOT_FLASH_EXTERNAL_WRITE changes one slot of the
flash (R496). -/
def Obligations.FrontEndPowerAndBringUp : Prop :=
  (∀ s : State, ∃ t, exec .fePowerOn s = .next t ∧ t.boot.stage = .reset ∧ t.tick.no = 0 ∧ t.tick.total = 0 ∧ feAlive t = true ∧
    t.nv.mem = s.nv.mem ∧ t.nv.powerFail = false ∧ t.fe.cfg = (match recBody t 25 with | some b => configOf b | none => {}) ∧
    t.mbx.own = 0 ∧ t.mbx.hello = none ∧ t.seq = {} ∧ t.fm = {} ∧ t.host = s.host ∧ t.boot.flash = s.boot.flash ∧ t.part = s.part) ∧
  (∀ (c : Cmd) (s : State), TakenUp 0x0006 c s → fld c 1 0 0 = 1 →
    ∃ t, exec (.devReset c) s = .next t ∧ t.boot.stage = .reset ∧ t.boot.cause = .devReset1 ∧ t.tick.no = s.tick.no ∧
      t.tick.total = s.tick.total ∧ t.tick.frame = s.tick.frame ∧ t.nv.mem = s.nv.mem ∧
      t.fe.cfg = (match recBody t 25 with | some b => configOf b | none => {}) ∧ t.seq = {} ∧ t.fm = {} ∧ t.host = s.host ∧
      t.boot.flash = s.boot.flash) ∧
  (∀ s : State, feAlive s = true → s.boot.extest = false → s.nv.powerFail = false →
    ∃ t, exec (.extestSelect true) s = .next t ∧ t.boot.extest = true ∧ t.boot.stage = .reset ∧ t.tick.no = s.tick.no ∧ t.seq = {} ∧
      t.dram = {} ∧ t.nv.mem = s.nv.mem ∧ t.host = s.host) ∧
  (∀ s : State, s.boot.extest = true → exec (.extestSelect false) s = .next { s with boot := { s.boot with extest := false } }) ∧
  (∀ s : State, feAlive s = true → s.nv.powerFail = false →
    ∃ t, exec .powerFailDetect s = .next t ∧ t.nv.powerFail = true ∧ t.nv.queue = [] ∧ t.nv.recQ = [] ∧ t.nv.recRun = [] ∧
      t.nv.ctrQ = [] ∧ t.nv.ctrRun = none ∧ t.nv.enrol = none ∧ t.nv.imgWaits = [] ∧ t.nv.modeNext = none ∧ t.nv.planes = s.nv.planes ∧
      (∀ e ∈ t.bus.ports, e.2.txq = [] ∧ e.2.plca = false) ∧
      t.nv.mem = s.nv.mem ∧ t.boot.stage = .reset ∧ (∀ e ∈ t.bus.outs, e.2.path = .fault) ∧ t.seq = {} ∧ t.host = s.host) ∧
  (∀ s : State, feAlive s = true → s.nv.powerFail = true → s.nv.planes = [] → s.nv.storing = none →
    ∃ t, exec .supplyReturn s = .next t ∧ t.nv.powerFail = false ∧ t.nv.mem = s.nv.mem ∧ t.boot.stage = .reset ∧ t.tick.no = 0 ∧
      t.tick.total = 0 ∧ t.fe.cfg = (match recBody t 25 with | some b => configOf b | none => {}) ∧ t.host = s.host) ∧
  (∀ s : State, feAlive s = true → s.nv.powerFail = true →
    ∃ t, exec .frontEndSupplyCollapse s = .next t ∧ feAlive t = false ∧ t.nv.planes = [] ∧ t.fe.cfg = {} ∧ t.smb.out = none ∧
      t.host = s.host ∧ t.boot.flash = s.boot.flash ∧ (s.nv.planes = [] → s.nv.storing = none → t.nv.mem = s.nv.mem)) ∧
  (∀ s : State, mayStart s = true →
    ∃ t, exec .computeDieStart s = .next t ∧ (t.boot.stage = .rom ∨ t.boot.stage = .halted) ∧ t.boot.cores = 1#4 ∧
      (t.boot.stage = .rom → slotOk t t.boot.slotB = true) ∧ t.power.vCore = s.part.fusedMv ∧ t.trust.debug = s.trust.debugNext ∧
      t.boot.flash = s.boot.flash ∧ t.fe = s.fe ∧ t.host = s.host ∧ t.tick = s.tick ∧ t.fm = s.fm ∧ t.dram = s.dram) ∧
  (∀ s : State, s.boot.stage = .rom →
    ∃ t, exec .fwStartStage s = .next t ∧ t.boot.stage = .fwStart ∧ t.boot.cores = 15#4 ∧
      t.boot.fwVer = Config.fwVersion (slotImage s s.boot.slotB) ∧ t.seq = s.seq ∧ t.fe = s.fe ∧ t.nv = s.nv ∧ t.dram = s.dram) ∧
  (∀ (failed : BitVec 16) (d : List Nat) (s : State), s.boot.stage = .fwStart → s.dram.trained = false →
    ∃ t, exec (.dramTrainingEnd failed d) s = .next t ∧
      (match failingChannel failed d with
       | some n => t.boot.stage = .halted ∧ t.boot.haltCause = 3 ∧ t.dram.trainFail = true ∧ t.dram.failCh = n
       | none => t.boot.stage = .dram ∧ t.dram.trained = true ∧ t.dram.ready = s.dram.ready ∧ polderUp t pDram = true) ∧
      t.dram.chGib = nth d 0 0 % 8 ∧ t.dram.mem = s.dram.mem ∧ t.fe = s.fe ∧ t.seq = s.seq ∧ t.host = s.host) ∧
  (∀ s : State, s.boot.stage = .dram → s.dram.trained = true → s.dram.ready = false →
    ∃ t, exec .dramClearEnd s = .next t ∧ t.boot.stage = .sync ∧ t.dram.ready = true ∧ t.dram.poison = [] ∧
      (∀ a, memRead 0 t.dram.mem a = 0) ∧ t.fe = s.fe ∧ t.seq = s.seq ∧ t.host = s.host) ∧
  (∀ s : State, s.boot.stage = .sync →
    ∃ t, exec .syncStage s = .next t ∧ t.boot.stage = .ready ∧ t.seq.fence = fenceClosure s.boot.sel.fence ∧
      t.seq.fenceNext = fenceClosure s.boot.sel.fence ∧ t.tick.no = s.tick.no ∧ t.links.epoch = 0 ∧
      (t.links.master = (s.links.ident.tm && s.links.ident.topo != 0)) ∧ t.fe = s.fe ∧ t.dram = s.dram ∧ t.host = s.host) ∧
  (∀ (slot off : Nat) (data : List Byte) (s : State), (s.boot.perst = true ∨ s.boot.stage = .halted) → off + data.length ≤ 0x400000 →
    memWf 0xFF#8 s.boot.flash = true →
    ∃ t, exec (.bootFlashExternalWrite slot off data) s = .next t ∧ slotOk t (slot % 2 == 1) = false ∧
      (∀ k, k < data.length → memRead 0xFF#8 t.boot.flash (slotAddr (slot % 2 == 1) + off + k) = nth data k 0) ∧
      (∀ a, (a < slotAddr (slot % 2 == 1) + off ∨ slotAddr (slot % 2 == 1) + off + data.length ≤ a) →
        memRead 0xFF#8 t.boot.flash a = memRead 0xFF#8 s.boot.flash a) ∧
      t = { s with boot := { s.boot with flash := t.boot.flash, okA := t.boot.okA, okB := t.boot.okB } })

/-! ## External memory, the host window and DMA (chapters 07, 12 and 16) -/

/-- BAR4_READ and BAR4_WRITE reach device DRAM at WIN_BASE + offset (R428); an access that R428 refuses is counted in `win_blocked`, reads
as zeros and writes nothing. A write changes the enabled bytes and no others; both wait while the DRAM polder is not up (R336). What the
bytes and the pool hold is open in the misuse cases KV-A and DR-A (the model's free values, log 77). -/
def Obligations.HostWindow : Prop :=
  (∀ (off len : Nat) (s : State), computeDown s = false → winRefused s (s.mbx.winBase.toNat + off) len = false → polderUp s pDram = true →
    s.dram.wrong = [] →
    ∃ t, exec (.bar4Read off len) s = .next t ∧
      t.mbx.readOut.length = len ∧ (s.dram.poison = [] → t.mbx.readOut = (List.range len).map (fun i => memRead 0 s.dram.mem (s.mbx.winBase.toNat + off + i))) ∧
      t.mbx.readMarks = (dramPoison s (s.mbx.winBase.toNat + off) len).map (· != 0) ∧
      t = { s with mbx := { s.mbx with readOut := t.mbx.readOut, readMarks := t.mbx.readMarks }, free := t.free }) ∧
  (∀ (off len : Nat) (s : State), computeDown s = false → winRefused s (s.mbx.winBase.toNat + off) len = true →
    ∃ t, exec (.bar4Read off len) s = .next t ∧ t.mbx.readOut = zeros len ∧
      (ctrGet t cWinBlocked).toNat = min (2 ^ 32 - 1) ((ctrGet s cWinBlocked).toNat + 1) ∧ t = { s with mbx := t.mbx, ctr := t.ctr }) ∧
  (∀ (off : Nat) (data : List Byte) (en : List Bool) (pz : Bool) (s : State), computeDown s = false →
    winRefused s (s.mbx.winBase.toNat + off) data.length = false → polderUp s pDram = true → s.dram.wrong = [] →
    memWf 0 s.dram.mem = true → meetsPool s (s.mbx.winBase.toNat + off) data.length = false →
    ∃ t, exec (.bar4Write off data en pz) s = .next t ∧
      ((meetsTransfer s (s.mbx.winBase.toNat + off) data.length = false ∧ (jobRanges s).any (rangeMeets (s.mbx.winBase.toNat + off) data.length) = false ∨
          inControl s (s.mbx.winBase.toNat + off) data.length = true) →
        ∀ k, k < data.length → memRead 0 t.dram.mem (s.mbx.winBase.toNat + off + k) =
        if nth en k true then nth data k 0 else memRead 0 s.dram.mem (s.mbx.winBase.toNat + off + k)) ∧
      (∀ a, (a < s.mbx.winBase.toNat + off ∨ s.mbx.winBase.toNat + off + data.length ≤ a) → memRead 0 t.dram.mem a = memRead 0 s.dram.mem a) ∧
      (∀ l ∈ linesOf (s.mbx.winBase.toNat + off) data.length, pz = true → linePoison t l = true) ∧
      t = { s with dram := { s.dram with mem := t.dram.mem, poison := t.dram.poison, wrong := t.dram.wrong }, free := t.free, fm := { s.fm with xfers := t.fm.xfers }, kv := { s.kv with jobs := t.kv.jobs } }) ∧
  (∀ (off : Nat) (data : List Byte) (en : List Bool) (pz : Bool) (s : State), computeDown s = false →
    winRefused s (s.mbx.winBase.toNat + off) data.length = false → polderUp s pDram = true → s.dram.wrong = [] →
    meetsPool s (s.mbx.winBase.toNat + off) data.length = true →
    ∃ t, exec (.bar4Write off data en pz) s = .next t ∧ (∀ e ∈ s.kv.pages, ∃ f ∈ t.kv.pages, f.1 = e.1) ∧
      t = { s with
        dram := { s.dram with mem := t.dram.mem, poison := t.dram.poison, wrong := t.dram.wrong }
        kv := { s.kv with pages := t.kv.pages }, free := t.free }) ∧
  (∀ (off : Nat) (data : List Byte) (en : List Bool) (pz : Bool) (s : State), computeDown s = false →
    winRefused s (s.mbx.winBase.toNat + off) data.length = true → exec (.bar4Write off data en pz) s = .next (bump cWinBlocked s)) ∧
  (∀ (off len : Nat) (s : State), computeDown s = false → winRefused s (s.mbx.winBase.toNat + off) len = false → polder s pDram = .down →
    PwrReq.polder pDram ∉ s.power.queue → polderPresent s.part pDram = true →
    ∃ t, exec (.bar4Read off len) s = .next t ∧ t.mbx.barQ = s.mbx.barQ ++ [.read (s.mbx.winBase.toNat + off) len] ∧
      t.power.queue = s.power.queue ++ [.polder pDram] ∧
      t = { s with mbx := { s.mbx with barQ := t.mbx.barQ }, power := { s.power with queue := t.power.queue, retry := t.power.retry } }) ∧
  (∀ (off : Nat) (data : List Byte) (en : List Bool) (pz : Bool) (s : State), computeDown s = false →
    winRefused s (s.mbx.winBase.toNat + off) data.length = false → polder s pDram = .down → PwrReq.polder pDram ∉ s.power.queue →
    polderPresent s.part pDram = true →
    ∃ t, exec (.bar4Write off data en pz) s = .next t ∧ t.mbx.barQ = s.mbx.barQ ++ [.write (s.mbx.winBase.toNat + off) data en pz] ∧
      t.power.queue = s.power.queue ++ [.polder pDram] ∧
      t = { s with mbx := { s.mbx with barQ := t.mbx.barQ }, power := { s.power with queue := t.power.queue, retry := t.power.retry } })

/-- A due refresh is made, or postponed once more while a tick-critical request is queued for its bank and the limit allows (R334);
PATROL_SCRUB takes the next line while no request of a higher class is queued, repairs one with one wrong byte and counts it (R327, R333); a
temperature report sets `hot`; FM_CE_REWRITE rewrites a group that `fm_ce_addr` named once a DMA port owns its bank (R185). -/
def Obligations.MemoryUpkeep : Prop :=
  (∀ (ch b : Nat) (s : State), dramUp s = true →
    ∃ t, exec (.dramRefresh ch b) s = .next t ∧
      tabGet 0 t.dram.postponed (64 * ch + b) = (if tcQueued s ch b = true ∧ tabGet 0 s.dram.postponed (64 * ch + b) < Config.refreshLimit
        then tabGet 0 s.dram.postponed (64 * ch + b) + 1 else 0) ∧
      (∀ k, k ≠ 64 * ch + b → tabGet 0 t.dram.postponed k = tabGet 0 s.dram.postponed k) ∧
      t = { s with dram := { s.dram with postponed := t.dram.postponed } }) ∧
  (∀ (l : Nat) (s : State), dramUp s = true → l = s.dram.scrub → dramTurn s 3 = true → 64 * l < usableBytes s → lineWrong s l = 1 →
    tabGet false s.dram.poison l = false → computeDown s = false →
    ∃ t, exec (.patrolScrub l) s = .next t ∧ lineWrong t l = 0 ∧ t.dram.mem = s.dram.mem ∧
      t.dram.scrub = (l + 1) % (usableBytes s / 64) ∧
      (ctrGet t cDramCe).toNat = min (2 ^ 32 - 1) ((ctrGet s cDramCe).toNat + 1) ∧
      t = { s with dram := { s.dram with wrong := t.dram.wrong, scrub := t.dram.scrub }, mbx := (counted s t).mbx, ctr := t.ctr }) ∧
  (∀ (l : Nat) (s : State), (l ≠ s.dram.scrub ∨ dramTurn s 3 = false) → exec (.patrolScrub l) s = .next s) ∧
  (∀ (l : Nat) (s : State), dramUp s = true → l = s.dram.scrub → dramTurn s 3 = true → 64 * l < usableBytes s → lineWrong s l = 0 →
    exec (.patrolScrub l) s = .next { s with dram := { s.dram with scrub := (l + 1) % (usableBytes s / 64) } }) ∧
  (∀ (hot : Bool) (s : State), computeDown s = false →
    exec (.dramTemperatureReport hot) s = .next { s with dram := { s.dram with hot := hot } }) ∧
  (∀ (f a : Nat) (s : State), computeDown s = false → tabGet [] s.fm.rewrite f = [a] →
    (tabGet 0x1F s.seq.owner (32 * f + bankOf a) = 0x15 ∨ tabGet 0x1F s.seq.owner (32 * f + bankOf a) = 0x16) → bankOn s f a = true →
    tabGet 0 s.fm.flips (fmGroup f a) ≤ 1 → tabGet 0 s.fm.poison (fmGroup f a) = 0 → a % 8 = 0 → memWf 0 s.fm.mem = true →
    ∃ t, exec (.fmCeRewrite f) s = .next t ∧ tabFind t.fm.rewrite f = none ∧ tabGet 0 t.fm.flips (fmGroup f a) = 0 ∧
      (∀ x, memRead 0 t.fm.mem x = memRead 0 s.fm.mem x) ∧ (∀ g, tabGet 0 t.fm.poison g = tabGet 0 s.fm.poison g) ∧
      (∀ g, g ≠ f → tabFind t.fm.rewrite g = tabFind s.fm.rewrite g) ∧ t = { counted s t with fm := t.fm, free := t.free })

/-- DMA: a descriptor that breaks R176 completes with BAD_PARAM and transfers nothing; another one starts when one is open to its class, as
a transfer of `rows` rows in pieces of at most 64 bytes, or with its head flit on the first link of the route to a peer, or waits in the
queue of its engine; without a route it completes with error and `ln_unreach` counts (R176, R188, R189, R384, R389). -/
def Obligations.DmaQueuesTransfer : Prop :=
  (∀ (f : Nat) (o : DmaOpnd) (x : MoveCtx) (s : State), computeDown s = false → f < nFields s.part → dmaBad o = true →
    exec (.dma f o x) s = .next { s with fm := { s.fm with descErrs := tabSet s.fm.descErrs (65536 * f + x.mid) .badParam } }) ∧
  (∀ (f : Nat) (o : DmaOpnd) (x : MoveCtx) (s : State), computeDown s = false → f < nFields s.part → dmaBad o = false → o.dstKind ≠ .peer →
    1 ≤ o.rows → 1 ≤ o.len →
    ∃ t, exec (.dma f o x) s = .next t ∧
      ((∃ y ∈ t.fm.xfers, s.fm.nextXfer ≤ y.id ∧ y.field = f ∧ y.mid = x.mid ∧ y.srcKind = o.srcKind ∧ y.src = o.src ∧ y.dstKind = o.dstKind ∧
          y.dst = o.dst ∧ y.rowLen = o.len ∧ y.srcStride = o.srcStride ∧ y.dstStride = o.dstStride ∧ y.sigObj = o.sigObj ∧ y.sigN = o.sigN ∧
          (y.chunks.map fun c => c.len).foldl (· + ·) 0 = o.rows * o.len ∧ ∀ c ∈ y.chunks, c.len ≤ 64 ∧ c.data = none) ∨
        ∃ q ∈ t.fm.descQueue, q.field = f ∧ q.o = o ∧ q.x = x) ∧
      (∀ y ∈ s.fm.xfers, y ∈ t.fm.xfers) ∧ t.fm.mem = s.fm.mem ∧ t.dram = s.dram ∧ t.host = s.host ∧ t.tick = s.tick ∧ t.fe = s.fe) ∧
  (∀ (f : Nat) (o : DmaOpnd) (x : MoveCtx) (s : State), computeDown s = false → f < nFields s.part → dmaBad o = false → s.fm.descQueue = [] →
    descOpen s (x.cls == .tickCritical) = true → o.dstKind ≠ .peer → ((o.srcKind = .dram ∨ o.dstKind = .dram) → polderUp s pDram = true) →
    1 ≤ o.rows → 1 ≤ o.len →
    ∃ t y, exec (.dma f o x) s = .next t ∧ t.fm.xfers = s.fm.xfers ++ [y] ∧ y.id = s.fm.nextXfer ∧ y.tc = (x.cls == .tickCritical) ∧ y.mcls = x.cls ∧
      t = { s with fm := { s.fm with xfers := t.fm.xfers, nextXfer := s.fm.nextXfer + 1 } }) ∧
  (∀ (f : Nat) (o : DmaOpnd) (x : MoveCtx) (s : State), computeDown s = false → f < nFields s.part → dmaBad o = false → s.fm.descQueue = [] →
    descOpen s (x.cls == .tickCritical) = false →
    ∃ q, exec (.dma f o x) s = .next { s with fm := { s.fm with descQueue := [q] } } ∧ q.field = f ∧ q.o = o ∧ q.x = x) ∧
  (∀ (f n : Nat) (o : DmaOpnd) (x : MoveCtx) (r : LinkRoute) (d : Bool) (s : State), computeDown s = false → f < nFields s.part → dmaBad o = false →
    s.fm.descQueue = [] → descOpen s (x.cls == .tickCritical) = true → o.dstKind = .peer → o.srcKind = .fieldMem → routeTo s o.peer = some (r, d) →
    freeTag s = some n → 1 ≤ o.rows → 1 ≤ o.len →
    ∃ t y q, exec (.dma f o x) s = .next t ∧ t.fm.xfers = s.fm.xfers ++ [y] ∧ y.head = some (headOf s o s.tick.no r) ∧ y.link = firstLink r ∧
      y.chip = s.links.ident.chipId ∧ y.tag = n ∧ (linkOf t (firstLink r)).txq = (linkOf s (firstLink r)).txq ++ [q] ∧
      q.flit.body = .head (headOf s o s.tick.no r) ∧ q.flit.tag = n ∧ q.fwd = false ∧
      q.flit.cls = (if d then .detour else if o.bestEffort then .bestEffort else .scheduled) ∧
      t = { s with links := { s.links with link := t.links.link, nextTag := (n + 1) % 16384, sent := tabSet s.links.sent n (firstLink r, 65536 * f + x.mid) }, fm := { s.fm with xfers := t.fm.xfers, nextXfer := s.fm.nextXfer + 1 } }) ∧
  (∀ (f : Nat) (o : DmaOpnd) (x : MoveCtx) (s : State), computeDown s = false → f < nFields s.part → dmaBad o = false → s.fm.descQueue = [] →
    descOpen s (x.cls == .tickCritical) = true → o.dstKind = .peer → o.srcKind = .fieldMem → routeTo s o.peer = none →
    ∃ t, exec (.dma f o x) s = .next t ∧ tabFind t.fm.descErrs (65536 * f + x.mid) = some .unreachable ∧
      (ctrGet t (cLink (firstLink (stdRoute s.links.ident o.peer) % 4) 6)).toNat =
        min (2 ^ 32 - 1) ((ctrGet s (cLink (firstLink (stdRoute s.links.ident o.peer) % 4) 6)).toNat + 1) ∧
      t = { counted s t with fm := { s.fm with descErrs := t.fm.descErrs } })

/-- DMA_OWNED_ACCESS: the engine of a field makes one access. It writes the first piece of the transfer that is the only one with an access
to make, whose data it has or finds in a DRAM that answers: to the host, to DRAM, to a field memory whose gates pass and whose banks a DMA
port owns, or as a data flit; the last piece ends the transfer, which signals. Or it reads a piece from banks that a DMA port owns. With no
access to make nothing happens but that waiting descriptors start while any is free (R176, R180, R189, R208, R384). -/
def Obligations.DmaOwnedAccess : Prop :=
  (∀ (f : Nat) (x : Xfer) (c : Chunk) (rest : List Chunk) (d : List Byte) (p : List (BitVec 8)) (u s : State), computeDown s = false →
    f < nFields s.part → portPiece f s = none → x ∈ s.fm.xfers → (∀ y ∈ s.fm.xfers, y ≠ x → y.id ≠ x.id ∧ xferAccess f s y = none) →
    x.chunks = c :: rest → pieceData s x c = some (d, p, u) → x.fw = false →
    (∀ a, x.dstKind = .host → x.field = f → a = rowAddr x.dst x.dstStride x.rowLen c.off → memWf 0 s.host = true →
      ∃ v, exec (.dmaOwnedAccess f) s = .next (releaseAll v) ∧
        v.fm.xfers = (if rest = [] ∧ x.whole = true then s.fm.xfers.filter (fun y => y.id != x.id)
          else s.fm.xfers.map fun y => if y.id = x.id then { x with chunks := rest } else y) ∧
        (∀ k, k < d.length → memRead 0 v.host (a + k) = nth d k 0) ∧
        (∀ b, (b < a ∨ a + d.length ≤ b) → memRead 0 v.host b = memRead 0 s.host b) ∧
        ((rest ≠ [] ∨ x.whole = false) → v.seq = s.seq ∧ v.ctr = u.ctr) ∧
        (rest = [] → x.whole = true → x.gather = false → (syncOf s x.sigObj).epoch = x.epoch → s.seq.barriers = [] →
          (syncOf v x.sigObj).count = if x.sigN = 0 then (syncOf s x.sigObj).count else min 65535 ((syncOf s x.sigObj).count + x.sigN)) ∧
        v = { counted u v with host := v.host, seq := v.seq, fm := { s.fm with xfers := v.fm.xfers, tlpPoison := v.fm.tlpPoison } }) ∧
    (∀ a, x.dstKind = .dram → x.field = f → dramUp s = true → dramTurn s (xferRank x) = true → a = rowAddr x.dst x.dstStride x.rowLen c.off →
      memWf 0 u.dram.mem = true → u.dram.wrong = [] →
      ∃ v, exec (.dmaOwnedAccess f) s = .next (releaseAll v) ∧
        v.fm.xfers = (if rest = [] ∧ x.whole = true then s.fm.xfers.filter (fun y => y.id != x.id)
          else s.fm.xfers.map fun y => if y.id = x.id then { x with chunks := rest } else y) ∧
        (∀ k, k < d.length → memRead 0 v.dram.mem (a + k) = nth d k 0) ∧
        (∀ b, (b < a ∨ a + d.length ≤ b) → memRead 0 v.dram.mem b = memRead 0 u.dram.mem b) ∧
        ((rest ≠ [] ∨ x.whole = false) → v.seq = s.seq ∧ v.ctr = u.ctr) ∧
        (rest = [] → x.whole = true → x.gather = false → (syncOf s x.sigObj).epoch = x.epoch → s.seq.barriers = [] →
          (syncOf v x.sigObj).count = if x.sigN = 0 then (syncOf s x.sigObj).count else min 65535 ((syncOf s x.sigObj).count + x.sigN)) ∧
        v = { counted u v with seq := v.seq, fm := { s.fm with xfers := v.fm.xfers }, dram := { u.dram with mem := v.dram.mem, poison := v.dram.poison, wrong := v.dram.wrong } }) ∧
    (∀ a, x.dstKind = .fieldMem → received x = false → c.off % x.rowLen + c.len ≤ x.rowLen →
      rowAddr x.dst x.dstStride x.rowLen c.off = chipAddr f a → a + c.len ≤ 2 ^ 23 → a % 8 = 0 → 1 ≤ c.len → c.len = d.length → c.len % 8 = 0 →
      gatePasses s x f a c.len = true → dmaOwns s f a c.len = true → memWf 0 s.fm.mem = true →
      ∃ v, exec (.dmaOwnedAccess f) s = .next (releaseAll v) ∧
        v.fm.xfers = (if rest = [] ∧ x.whole = true then s.fm.xfers.filter (fun y => y.id != x.id)
          else s.fm.xfers.map fun y => if y.id = x.id then { x with chunks := rest } else y) ∧
        (∀ k, k < d.length → memRead 0 v.fm.mem (chipAddr f a + k) = nth d k 0) ∧
        (∀ b, (b < chipAddr f a ∨ chipAddr f a + d.length ≤ b) → memRead 0 v.fm.mem b = memRead 0 s.fm.mem b) ∧
        ((rest ≠ [] ∨ x.whole = false) → v.seq = s.seq ∧ v.ctr = u.ctr) ∧
        (rest = [] → x.whole = true → x.gather = false → (syncOf s x.sigObj).epoch = x.epoch → s.seq.barriers = [] →
          (syncOf v x.sigObj).count = if x.sigN = 0 then (syncOf s x.sigObj).count else min 65535 ((syncOf s x.sigObj).count + x.sigN)) ∧
        v = { counted u v with seq := v.seq, fm := { s.fm with xfers := v.fm.xfers, mem := v.fm.mem, flips := v.fm.flips, poison := v.fm.poison } }) ∧
    (x.dstKind = .peer → x.field = f →
      ∃ v q, exec (.dmaOwnedAccess f) s = .next (releaseAll v) ∧
        v.fm.xfers = (if rest = [] ∧ x.whole = true then s.fm.xfers.filter (fun y => y.id != x.id)
          else s.fm.xfers.map fun y => if y.id = x.id then { x with chunks := rest } else y) ∧
        (linkOf v x.link).txq = (linkOf s x.link).txq ++ [q] ∧ q.fwd = false ∧ q.flit.cls = x.cls ∧ q.flit.srcChip = x.chip ∧ q.flit.tag = x.tag ∧
        (∃ m, q.flit.body = .data (decide (rest = [])) m d) ∧ (∀ l, l ≠ x.link → linkOf v l = linkOf s l) ∧
        v = { u with fm := { s.fm with xfers := v.fm.xfers }, links := { s.links with link := v.links.link } })) ∧
  (∀ (f a : Nat) (x : Xfer) (c h : Chunk) (s : State), computeDown s = false → f < nFields s.part → portPiece f s = none → x ∈ s.fm.xfers →
    (∀ y ∈ s.fm.xfers, y ≠ x → y.id ≠ x.id ∧ xferAccess f s y = none) → x.chunks.head? = some h → writePiece f x h s = none →
    x.srcKind = .fieldMem → x.fw = false → x.chunks.find? (fun e => e.data.isNone) = some c → (∀ e ∈ x.chunks, e.off = c.off → e = c) →
    c.off % x.rowLen + c.len ≤ x.rowLen → rowAddr x.src x.srcStride x.rowLen c.off = chipAddr f a → a + c.len ≤ 2 ^ 23 → a % 8 = 0 →
    1 ≤ c.len → c.len % 8 = 0 → dmaOwns s f a c.len = true → roomFor s x c = true → (∀ i, fmPoisonAt s f (a + 8 * i) = 0) →
    ∃ v e, exec (.dmaOwnedAccess f) s = .next (releaseAll v) ∧ e = { c with data := some (fmBytes s f a c.len), poison := e.poison } ∧
      v.fm.xfers = (s.fm.xfers.map fun y => if y.id = x.id then { x with chunks := x.chunks.map fun g => if g.off = c.off then e else g } else y) ∧
      v = { counted s v with fm := { s.fm with xfers := v.fm.xfers, rewrite := v.fm.rewrite }, free := s.free + 1 }) ∧
  (∀ (f a : Nat) (x : Xfer) (c : Chunk) (rest : List Chunk) (d : List Byte) (s : State), computeDown s = false → f < nFields s.part →
    portPiece f s = none → x ∈ s.fm.xfers → (∀ y ∈ s.fm.xfers, y ≠ x → y.id ≠ x.id ∧ xferAccess f s y = none) → x.chunks = c :: rest →
    c.data = some d → x.fw = true → x.head = none → x.dstKind = .fieldMem → c.dstAt = chipAddr f a → a + c.len ≤ 2 ^ 23 → 1 ≤ c.len → c.len = d.length →
    gatePasses s x f a c.len = true → dmaOwns s f a c.len = true → memWf 0 s.fm.mem = true → s.fm.poison = [] → s.fm.flips = [] →
    c.poison.all (· == 0) = true →
    ∃ v, exec (.dmaOwnedAccess f) s = .next (releaseAll v) ∧
      (∀ k, k < d.length → memRead 0 v.fm.mem (chipAddr f a + k) = nth d k 0) ∧
      (∀ b, (b < chipAddr f a ∨ chipAddr f a + d.length ≤ b) → memRead 0 v.fm.mem b = memRead 0 s.fm.mem b) ∧
      (∀ j, x.job = some j → rest = [] → x.whole = true → (jobOf v j).running = true) ∧
      v = { s with seq := { s.seq with jobs := v.seq.jobs }, fm := { s.fm with xfers := v.fm.xfers, mem := v.fm.mem }, free := v.free }) ∧
  (∀ (f a : Nat) (w : PortWrite) (s : State), computeDown s = false → f < nFields s.part → s.fm.portWait = [(chipAddr f a, w)] → a + 8 ≤ 2 ^ 23 →
    a % 8 = 0 → port1Owns s f a = true → bankOn s f a = true → feDropped s f a = false → w.bytes.length = 8 → memWf 0 s.fm.mem = true →
    ∃ t, exec (.dmaOwnedAccess f) s = .next t ∧ t.fm.portWait = [] ∧ (∀ k, k < 8 → memRead 0 t.fm.mem (chipAddr f a + k) = nth w.bytes k 0) ∧
      (∀ b, (b < chipAddr f a ∨ chipAddr f a + 8 ≤ b) → memRead 0 t.fm.mem b = memRead 0 s.fm.mem b) ∧
      t = { s with fm := { s.fm with portWait := [], mem := t.fm.mem, flips := t.fm.flips, poison := t.fm.poison } }) ∧
  (∀ (f : Nat) (s : State), computeDown s = false → f < nFields s.part → portPiece f s = none → (∀ x ∈ s.fm.xfers, xferAccess f s x = none) →
    exec (.dmaOwnedAccess f) s = .next (releaseAll s))

/-- HOST_READ_COMPLETION fills every piece of its transfer that it brings whole and that still lacks data, when the buffers have room for
them all; every other transfer, and this one without room, stays (R180, R427, R544). -/
def Obligations.HostReadsArrive : Prop :=
  ∀ (id off : Nat) (data : List Byte) (pz : List Bool) (s : State), computeDown s = false →
    ∃ t, exec (.hostReadCompletion id off data pz) s = .next t ∧ t.fm.xfers.length = s.fm.xfers.length ∧
      (∀ (k : Nat) (x : Xfer), s.fm.xfers[k]? = some x → ∃ y, t.fm.xfers[k]? = some y ∧ y = { x with chunks := y.chunks } ∧
        ((x.id ≠ id ∨ x.srcKind ≠ .host ∨ hostRoom s x off data.length = false) → y = x) ∧
        (x.id = id → x.srcKind = .host → hostRoom s x off data.length = true → y.chunks.length = x.chunks.length ∧
          ∀ (i : Nat) (c : Chunk), x.chunks[i]? = some c → ∃ e, y.chunks[i]? = some e ∧
            (if c.data = none ∧ off ≤ c.off ∧ c.off + c.len ≤ off + data.length
              then e = { c with data := some ((data.drop (c.off - off)).take c.len), poison := e.poison } ∧
                ∀ j, j < (c.len + 7) / 8 → (nth e.poison j 0 ≠ 0 ↔ nth pz ((c.off - off) / 8 + j) false = true)
              else e = c))) ∧
      t = { s with fm := { s.fm with xfers := t.fm.xfers } }

/-! ## The field bus and the health outputs (chapter 15) -/

/-- The field-bus and health commands: FB_PORT, FB_FILTER, FB_REPORTS and HO_CONFIG with parameters in range wait for the frame boundary
(R420), FB_SEND queues a kind-5 frame, FB_RX_RING sets the receive ring up, FB_STATUS and HO_STATUS answer (R415, R422). -/
def Obligations.FieldBusCommands : Prop :=
  (∀ (c : Cmd) (b : Nat) (s : State), TakenUp 0x0801 c s → b = paramBits c portFields → bitsN b 63 56 ≠ 0 → bitsN b 55 48 ≠ 0 →
    bitsN b 47 40 ≠ 255 → bitsN b 39 32 ≤ 127 →
    exec (.fbPort c) s = .next (waitsNow 0x0801 c (.fbPort (BitVec.ofNat 128 b)) s)) ∧
  (∀ (c : Cmd) (b : Nat) (s : State), TakenUp 0x0802 c s → b = paramBits c filterFields →
    (∀ i, i < 32 → i ≠ b % 32 → timeSource b = true → timeSource (tabGet 0 (filterNext s) i).toNat = true →
      bitsN (tabGet 0 (filterNext s) i).toNat 41 40 &&& bitsN b 41 40 = 0) →
    exec (.fbFilter c) s = .next (waitsNow 0x0802 c (.fbFilter (BitVec.ofNat 128 b)) s)) ∧
  (∀ (c : Cmd) (b : Nat) (s : State), TakenUp 0x0803 c s → b = paramBits c reportsFields → bitsN b 47 32 ≠ 0 →
    exec (.fbReports c) s = .next (waitsNow 0x0803 c (.fbReports (BitVec.ofNat 256 b)) s)) ∧
  (∀ (c : Cmd) (s : State), TakenUp 0x0804 c s → 1 ≤ fld c 47 32 0 → fld c 47 32 0 ≤ 1484 → (portOf s (fld c 0 0 0)).txq.length < 16 →
    ∃ t, exec (.fbSend c) s = .next t ∧ portOf t (fld c 0 0 0) = { portOf s (fld c 0 0 0) with txq := (portOf s (fld c 0 0 0)).txq ++ [{ kind := 5, frame := s.tick.frame, body := hostRead s (fld c 127 64 0) (fld c 47 32 0), host := some s.bus.nextHost }] } ∧
      (∀ p, p ≠ fld c 0 0 0 → portOf t p = portOf s p) ∧
      t = { waitsNow 0x0804 c (.fbSend (fld c 0 0 0) s.bus.nextHost) s with bus := { s.bus with ports := t.bus.ports, nextHost := s.bus.nextHost + 1 } }) ∧
  (∀ (c : Cmd) (s : State), TakenUp 0x0805 c s → ringOk 11 11 (ringOf c) = true → memWf 0 s.host = true →
    ∃ t, exec (.fbRxRing c) s = .next t ∧ t.fring = ringOf c ∧
      (∀ a, memRead 0 t.host a = if (ringOf c).index.toNat ≤ a ∧ a < (ringOf c).index.toNat + 4 then 0 else memRead 0 s.host a) ∧
      t = { completed 0x0805 c .ok 0 s with fring := t.fring, host := t.host }) ∧
  (∀ (c : Cmd) (s : State), TakenUp 0x0806 c s →
    ∃ bs, exec (.fbStatus c) s = .next (answered 0x0806 c bs 0 s) ∧ bs.length = 128 ∧
      ∀ p, p < 2 → (nth bs (64 * p) 0).toNat = b2n (portOf s p).plca + 2 * b2n (portOf s p).gptpOk ∧
        (∀ i, i < 9 → leNat ((bs.drop (64 * p + 20 + 4 * i)).take 4) = (ctrGet s (cFb p i)).toNat)) ∧
  (∀ (c : Cmd) (s : State), TakenUp 0x0807 c s → hoOk (paramBits c hoFields) = true →
    exec (.hoConfig c) s = .next (waitsNow 0x0807 c (.hoConfig (BitVec.ofNat 256 (paramBits c hoFields))) s)) ∧
  (∀ (c : Cmd) (s : State), TakenUp 0x0808 c s →
    exec (.hoStatus c) s = .next (completed 0x0808 c .ok (healthState s) s))

/-- HEALTH_PATH_CHOICE of Table 15-6: an output that is off or not configured is at the fault level; one with a record state whose FALLBACK
is clear takes the learned set point; without a hold the others take the safe or alarm point. HOLD_EXPIRY goes to the fault level,
HO_PERIOD_START takes up the set point chosen (R415 to R418); VHO_TOLERANCE_CHANGE only notes the supply (R538). -/
def Obligations.HealthOutputs : Prop :=
  (∀ s : State, feAlive s = true → s.boot.extest = false → s.bus.owed = none → s.bus.chosen = false →
    ∃ t, exec .healthPathChoice s = .next t ∧
      (∀ k, k < 4 → ((outOf s k).configured = false ∨ hoMode (outOf s k) = 0 ∨ s.nv.powerFail = true) →
        (outOf t k).path = .fault ∧ (outOf t k).pin = none) ∧
      (∀ k, k < 4 → hoField (outOf s k) 111 88 &&& s.fe.cmM.toNat ≠ 0 → (outOf t k).path = .fault ∧ (outOf t k).pin = none) ∧
      (∀ k r, k < 4 → (outOf s k).configured = true → hoMode (outOf s k) ≠ 0 → s.nv.powerFail = false →
        hoField (outOf s k) 111 88 &&& s.fe.cmM.toNat = 0 → s.bus.rs = some r → r.fallback = false →
        (outOf t k).path = .learned ∧ (outOf t k).sp = learnedPoint (outOf s k) r) ∧
      (∀ k, k < 4 → (outOf s k).configured = true → hoMode (outOf s k) ≠ 0 → s.nv.powerFail = false →
        hoField (outOf s k) 111 88 &&& s.fe.cmM.toNat = 0 → (∀ r, s.bus.rs = some r → r.fallback = true) →
        (∀ n ∈ maskList 48 (hoField (outOf s k) 159 112), evHeld s n = false) →
        (outOf t k).path = .fallback ∧ (outOf t k).sp = (if (maskList 48 (hoField (outOf s k) 159 112)).any fun n => (evRun s n).active
          then hoField (outOf s k) 255 240 else hoField (outOf s k) 239 224)) ∧
      (∀ k, k < 4 → (outOf t k).cfg = (outOf s k).cfg) ∧
      t = { s with bus := { s.bus with outs := t.bus.outs, rs := none, owed := none, chosen := true } }) ∧
  (∀ (k n : Nat) (s : State), k < 4 → (outOf s k).path = .held → (outOf s k).holdTicks = some n → hoField (outOf s k) 31 16 ≤ n + 1 →
    ∃ t, exec (.holdExpiry k) s = .next t ∧ outOf t k = { outOf s k with path := .fault, pin := none, expired := true } ∧
      (∀ j, j ≠ k → outOf t j = outOf s j) ∧ t = { s with bus := { s.bus with outs := t.bus.outs } }) ∧
  (∀ (k : Nat) (s : State), k < 4 → feAlive s = true → (outOf s k).pin.isSome = true →
    ∃ t, exec (.hoPeriodStart k) s = .next t ∧ outOf t k = { outOf s k with pin := some (outOf s k).sp } ∧
      (∀ j, j ≠ k → outOf t j = outOf s j) ∧ t = { s with bus := { s.bus with outs := t.bus.outs } }) ∧
  (∀ (ok : Bool) (s : State), exec (.vhoToleranceChange ok) s = .next { s with bus := { s.bus with vhoOk := ok } })

/-- HEALTH_STATE_POST and FRAME_DATA_POST queue a kind-4 and a kind-3 frame on the ports that FB_REPORTS names; a transmit opportunity sends
the next frame of a port, and under PLCA with `burst_cnt` those behind it (that it sends every one that it may is the model's choice, log
86), and counts them in `seq`; received frames are filtered, and used or posted (R403 to R411). PLCA status and the loss of gPTP change
their port only. -/
def Obligations.FieldBusFrames : Prop :=
  (∀ s : State, feRuns s = true → s.tick.inFrame = 0 → s.tick.frame.toNat % max 1 (reportField s 47 32) = 0 →
    (∀ p, p < 2 → (portOf s p).txq.length < 16) →
    ∃ t, exec .healthStatePost s = .next t ∧
      (∀ p, p < 2 → portOf t p = if (reportField s 7 6).testBit p then { portOf s p with txq := (portOf s p).txq ++ [{ kind := 4, frame := s.tick.frame, body := leBytes 32 (healthState s), host := none }] } else portOf s p) ∧
      t = { s with bus := { s.bus with ports := t.bus.ports } }) ∧
  (∀ s : State, feRuns s = true → computeDown s = false → recordOfFrame s = true → s.tick.inFrame = 0 → reportField s 63 48 ≠ 0 →
    s.tick.frame.toNat % reportField s 63 48 = 0 → (∀ p, p < 2 → (portOf s p).txq.length < 16) →
    ∃ t body, exec .frameDataPost s = .next t ∧ body.take 8 = leBytes 8 s.tick.last.tick.toNat ∧
      body.length = 16 + 4 * s.tick.last.features.length ∧
      (∀ p, p < 2 → portOf t p = if (reportField s 5 4).testBit p then { portOf s p with txq := (portOf s p).txq ++ [{ kind := 3, frame := s.tick.frame, body := body, host := none }] } else portOf s p) ∧
      t = { s with bus := { s.bus with ports := t.bus.ports } }) ∧
  (∀ (p : Nat) (x : FbQ) (s : State), p < 2 → feRuns s = true → portOn (portOf s p) = true → nextFrame (portOf s p).txq = some x →
    (∃ t k, exec (.fbTransmitOpportunity p .sent) s = .next t ∧ k = min (1 + burstOf (portOf s p)) (portOf s p).txq.length ∧
      (portOf t p).txq.length = (portOf s p).txq.length - k ∧ (portOf t p).seq = (portOf s p).seq + BitVec.ofNat 32 k ∧
      (portOf t p).sent.length = (portOf s p).sent.length + k ∧ (∀ y ∈ (portOf t p).txq, y ∈ (portOf s p).txq) ∧
      (∀ q, q ≠ p → portOf t q = portOf s q) ∧ t = { s with bus := { s.bus with ports := t.bus.ports }, mbx := slotsOnly s t }) ∧
    (burstOf (portOf s p) = 0 → ∃ t, exec (.fbTransmitOpportunity p .sent) s = .next t ∧
      portOf t p = { portOf s p with txq := (portOf s p).txq.erase x, seq := (portOf s p).seq + 1, attempts := 0, sent := frameBytes s p x :: (portOf s p).sent } ∧
      (∀ w n, w ∈ s.mbx.waits → x.host = some n → w.act = .fbSend p n → w ∉ t.mbx.waits ∧
        ∃ e ∈ t.mbx.due, e.slot = w.cmd.slot % 64 ∧ e.cookie = w.cmd.cookie ∧ e.status = .ok) ∧
      (∀ q, q ≠ p → portOf t q = portOf s q) ∧ t = { s with bus := { s.bus with ports := t.bus.ports }, mbx := slotsOnly s t }) ∧
    ((portOf s p).plca = false → (portOf s p).attempts < 15 → ∃ t, exec (.fbTransmitOpportunity p .collided) s = .next t ∧
      portOf t p = { portOf s p with attempts := (portOf s p).attempts + 1 } ∧ (∀ q, q ≠ p → portOf t q = portOf s q) ∧
      t = { s with bus := { s.bus with ports := t.bus.ports } }) ∧
    (∀ r, (r = .failed16 ∨ (r = .collided ∧ (portOf s p).plca = false ∧ 15 ≤ (portOf s p).attempts)) → x.host = none →
      ∃ t, exec (.fbTransmitOpportunity p r) s = .next t ∧
        portOf t p = { portOf s p with txq := (portOf s p).txq.erase x, attempts := 0 } ∧
        (ctrGet t (cFb p 5)).toNat = min (2 ^ 32 - 1) ((ctrGet s (cFb p 5)).toNat + 1) ∧ (∀ q, q ≠ p → portOf t q = portOf s q) ∧
        t = { counted s t with bus := { s.bus with ports := t.bus.ports } })) ∧
  (∀ (p i : Nat) (f : FbFrame) (s : State), p < 2 → feRuns s = true → portOn (portOf s p) = true → f.beacon = false → f.tooLong = false →
    f.crcOk = true → matchFilter s p f.src.toNat = some i → bitsN (filterOf s i) 79 64 = 0 → f.etherType ≠ 0x88F7 →
    f.etherType.toNat = reportField s 207 192 → bitN (filterOf s i) 45 = true → computeDown s = false → s.fring.on = true →
    ringFull s.fring = false → memWf 0 s.host = true →
    ∃ t, exec (.fbFrameRx p f) s = .next t ∧ t.fring.prod = s.fring.prod + 1 ∧
      hostRead t s.fring.index.toNat 4 = leBytes 4 (s.fring.prod + 1).toNat ∧
      t = { s with fring := t.fring, host := t.host, mbx := t.mbx }) ∧
  (∀ (p i : Nat) (f : FbFrame) (ns : Nat) (corr log2 : Int) (s : State), p < 2 → feRuns s = true → portOn (portOf s p) = true →
    f.beacon = false → f.tooLong = false → f.crcOk = true → matchFilter s p f.src.toNat = some i → bitsN (filterOf s i) 79 64 = 0 →
    f.etherType = 0x88F7 → bitN (filterOf s i) 46 = true → bitN (portOf s p).cfg.toNat 4 = true → f.domain = portField (portOf s p) 39 32 →
    f.gptp = .sync ns corr log2 →
    ∃ t, exec (.fbFrameRx p f) s = .next t ∧ (portOf t p).gptpOk = true ∧ (portOf t p).gptpNs = ns + corr + portField (portOf s p) 31 16 ∧
      (portOf t p).gptpLog2 = log2 ∧ (portOf t p).txq = (portOf s p).txq ∧ (∀ q, q ≠ p → portOf t q = portOf s q) ∧
      t = { s with bus := { s.bus with ports := t.bus.ports } }) ∧
  (∀ (p : Nat) (st : Bool) (s : State), p < 2 → feRuns s = true →
    ∃ t, exec (.plcaStatusChange p st) s = .next t ∧ portOf t p = { portOf s p with plca := st && bitN (portOf s p).cfg.toNat 3 } ∧
      (∀ q, q ≠ p → portOf t q = portOf s q) ∧ t = { s with bus := { s.bus with ports := t.bus.ports } }) ∧
  (∀ (p : Nat) (s : State), p < 2 → feRuns s = true → (portOf s p).gptpOk = true → gptpDue s p = true →
    ∃ t, exec (.gptpLoss p) s = .next t ∧ portOf t p = { portOf s p with gptpOk := false } ∧
      (ctrGet t (cFb p 8)).toNat = min (2 ^ 32 - 1) ((ctrGet s (cFb p 8)).toNat + 1) ∧ (∀ q, q ≠ p → portOf t q = portOf s q) ∧
      t = { counted s t with bus := { s.bus with ports := t.bus.ports } })

/-! ## Reset and the invariant -/

/-- The machine right after the front-end power-on, as the spec states it: stage RESET with the boot control cores held, the mailbox
disabled with every slot the host's, no list, watch or pool, a tick of 2,400 ac in frames of 1,000 ticks from the internal source, the
applied configuration disabled, the health outputs at the fault level, the counters 0 and every polder down (R7 to R9, R41, R66, R414, R435,
R500, Tables 01-7, 20-3 to 20-9). -/
def Obligations.ResetState : Prop :=
  State.reset.pending = [] ∧ computeDown State.reset = true ∧ State.reset.tick.period = 2400 ∧ State.reset.tick.frameLen = 1000 ∧
    State.reset.tick.spill = 240 ∧ State.reset.tick.commitOff = 120 ∧ State.reset.tick.source = 0 ∧ State.reset.tick.holdover = false ∧
    State.reset.tick.total = 0 ∧ State.reset.tick.late = 0 ∧ State.reset.tick.fallback = 0 ∧ State.reset.tick.dark = 0 ∧
    cqEnable State.reset = false ∧ State.reset.mbx.own = 0 ∧ State.reset.mbx.due = [] ∧ State.reset.mbx.waits = [] ∧ State.reset.mbx.hello = none ∧
    State.reset.mbx.intStatus = 0 ∧ State.reset.mbx.intEnable = 0 ∧ State.reset.mbx.errSum = 0 ∧ State.reset.mbx.winBase = 0 ∧
    State.reset.seq.active = none ∧ State.reset.seq.standby = none ∧ State.reset.watch.run = 0 ∧ State.reset.kv.pool = none ∧
    State.reset.tring.on = false ∧ State.reset.rring.on = false ∧ State.reset.fring.on = false ∧
    (∀ ch, chanOn State.reset ch = false) ∧ (∀ n, (srcOf State.reset.fe.cfg n).enable = false) ∧
    (∀ k, (outOf State.reset k).configured = false ∧ (outOf State.reset k).path = .fault ∧ (outOf State.reset k).pin = none) ∧
    (∀ off, ctrGet State.reset off = 0) ∧ (∀ p, polderUp State.reset p = false) ∧
    (∀ a, memRead 0 State.reset.fm.mem a = 0 ∧ memRead 0 State.reset.dram.mem a = 0)

/-- The invariant holds after reset. -/
def Obligations.InvariantAtReset : Prop :=
  Inv State.reset

/-- Every step keeps every memory in its canonical form and the reserved register bits at 0, and puts no command into the queue. -/
def Obligations.InvariantKept : Prop :=
  ∀ s t : State, Inv s → step s = .next t → Inv t ∧ t.pending = s.pending.drop 1

/-- No command stops: each of them answers a next state in every state. No command touches the queue, and none changes the part's fixed
values. -/
def Obligations.EveryCommandAnswers : Prop :=
  ∀ (c : Instr) (s : State), ∃ t, exec c s = .next t ∧ t.pending = s.pending ∧ t.part = s.part

/-! ## The trust block (chapter 17) -/

/-- TRUST_ENROL of an unlocked page programs the owner page's bytes; as that program ends and they read back, the lock is programmed, and as
that one ends the page is locked and the command completes (R353, R459); a locked page answers LOCKED. TRUST_CERTS puts the chain into host
memory, TRUST_STATUS answers its measurements, TRUST_ARB_RAISE asks for the program that raises the counter of an image in force, and
completes at once where the counter stands there already (R359, R462), and TRUST_DEBUG takes a token that passes R465 for the next start, or
answers the check that fails. SPDM: once the firmware has started each request gets its response, formed from the state then in force; in
stage ROM and in HALTED the answer is Busy, and nothing but the answer changes (R455 to R457, Table 17-2). -/
def Obligations.TrustAndSpdm : Prop :=
  (∀ (c : Cmd) (s : State), TakenUp 0x0A01 c s → fld c 31 0 0 = 0x454E524F → fld c 447 64 0 ≠ 0 → ownerLocked s = false → StoreIdle s →
    exec (.trustEnrol c) s = .next { waitsNow 0x0A01 c (.nvWrite s.nv.nextSeq) s with
      nv := { programming s (s.nv.nextSeq + 1) 0 (placed 0 (ownerBytes (fld c 63 32 0) (fld c 447 64 0) (fld c 959 448 0))) with
        enrol := some { bytes := ownerBytes (fld c 63 32 0) (fld c 447 64 0) (fld c 959 448 0), prog := s.nv.nextSeq + 1, wait := s.nv.nextSeq } } }) ∧
  (∀ (x : Enrol) (w : NvProg) (s : State), s.nv.enrol = some x → x.lock = false → x.prog = w.seq → x.wait ≠ w.seq → s.nv.planes = [(0, w)] →
    s.nv.queue = [] → s.nv.storing = none → s.nv.powerFail = false → s.nv.ctrRun = none → s.nv.ctrQ = [] → s.nv.recRun = [] → w.page = 0 →
    w.bytes = placed 0 x.bytes → x.bytes.length = 248 → leNat (x.bytes.drop 244) = (crc32c (x.bytes.take 244)).toNat →
    (∀ g, nvGroup s g = 0) → memWf 0xFF#8 s.nv.mem = true → s.nv.wear < 4095 → s.mbx.waits.all (fun v => v.act == .nvWrite x.wait) = true →
    ∃ t, exec (.nvProgramEnd { plane := 0 }) s = .next t ∧ nvBytes t 0 248 = x.bytes ∧ (∀ a, 248 ≤ a → nvByte t a = nvByte s a) ∧
      t = { s with nv := { programming s s.nv.nextSeq 0 (placed 248 (leBytes 8 lockedValue)) with
        mem := t.nv.mem, wear := s.nv.wear + 1, enrol := some { x with lock := true, prog := s.nv.nextSeq } } }) ∧
  (∀ (x : Enrol) (w : NvProg) (v : Wait) (s : State), s.nv.enrol = some x → x.lock = true → x.prog = w.seq → x.wait ≠ w.seq →
    s.nv.planes = [(0, w)] → s.nv.queue = [] → s.nv.storing = none → s.nv.powerFail = false → s.nv.ctrRun = none → s.nv.ctrQ = [] →
    s.nv.recRun = [] → w.page = 0 → w.bytes = placed 248 (leBytes 8 lockedValue) → (∀ g, nvGroup s g = 0) → memWf 0xFF#8 s.nv.mem = true →
    s.nv.wear < 4095 → s.mbx.waits = [v] → v.act = .nvWrite x.wait →
    ∃ t, exec (.nvProgramEnd { plane := 0 }) s = .next t ∧ ownerLocked t = true ∧ (∀ a, (a < 248 ∨ 256 ≤ a) → nvByte t a = nvByte s a) ∧
      t.trust = { s.trust with enrolled := true } ∧ t.mbx.waits = [] ∧ t.mbx.due = s.mbx.due ++ [completionOf v.opcode v.cmd .ok 0] ∧
      t = { s with mbx := slotsOnly s t, trust := t.trust, nv := { s.nv with mem := t.nv.mem, planes := [], wear := s.nv.wear + 1, enrol := none } }) ∧
  (∀ (c : Cmd) (s : State), TakenUp 0x0A01 c s → fld c 31 0 0 = 0x454E524F → fld c 447 64 0 ≠ 0 → ownerLocked s = true →
    exec (.trustEnrol c) s = .next (completed 0x0A01 c .locked 0 s)) ∧
  (∀ (c : Cmd) (s : State), TakenUp 0x0A02 c s → memWf 0 s.host = true →
    ∃ t, exec (.trustCerts c) s = .next t ∧
      (if (certChain s).length ≤ fld c 47 32 0 then
        (∀ k, k < (certChain s).length → memRead 0 t.host (fld c 127 64 0 + k) = nth (certChain s) k 0) ∧
        (∀ a, (a < fld c 127 64 0 ∨ fld c 127 64 0 + (certChain s).length ≤ a) → memRead 0 t.host a = memRead 0 s.host a) ∧
        t = { completed 0x0A02 c .ok (certChain s).length s with host := t.host }
      else t = completed 0x0A02 c .badLength 0 s)) ∧
  (∀ (c : Cmd) (s : State), TakenUp 0x0A03 c s →
    exec (.trustStatus c) s = .next (answered 0x0A03 c (measurement s 3 ++ measurement s 8 ++ measurement s 9 ++ aliasId s ++
      leBytes 4 (ctrGet s cSignDrop).toNat ++ digestBytes (cfgDigest s)) 0 s)) ∧
  (∀ (c : Cmd) (i v g : Nat) (s : State), TakenUp 0x0A04 c s → fld c 2 0 0 = 1 → StoreIdle s → spreadCell s 0 = some (i, v, g) →
    v < s.trust.fwSecVer → s.trust.fwSecVer < 2 ^ 40 → (∀ g, nvGroup s g = 0) →
    exec (.trustArbRaise c) s = .next { waitsNow 0x0A04 c (.nvWrite s.nv.nextSeq) s with
      nv := { programming s (s.nv.nextSeq + 1) (256 + (i + 1) % 64 / 32) (placed (cellAddr 0 ((i + 1) % 64)) (cellBytes s.trust.fwSecVer ((g + 1) % 65535))) with
        ctrRun := some { op := { n := 0, raise := some s.trust.fwSecVer, wait := some s.nv.nextSeq }, cell := (i + 1) % 64, value := s.trust.fwSecVer, gen := (g + 1) % 65535, progs := [s.nv.nextSeq + 1] } } }) ∧
  (∀ (c : Cmd) (i v g : Nat) (s : State), TakenUp 0x0A04 c s → fld c 2 0 0 = 1 → StoreIdle s → spreadCell s 0 = some (i, v, g) →
    s.trust.fwSecVer ≤ v → (∀ g, nvGroup s g = 0) → (∀ w ∈ s.mbx.waits, w.act ≠ .nvWrite s.nv.nextSeq) →
    exec (.trustArbRaise c) s = .next { completed 0x0A04 c .ok 0 s with nv := { s.nv with nextSeq := s.nv.nextSeq + 1 } }) ∧
  (∀ (c : Cmd) (s : State), TakenUp 0x0A05 c s → fld c 47 32 0 = 256 →
    ∃ t, exec (.trustDebug c) s = .next t ∧ t.trust.debug = s.trust.debug ∧
      (match tokenCheck s (hostRead s (fld c 127 64 0) 256) with
       | some st => t = completed 0x0A05 c st 0 s
       | none => t = { completed 0x0A05 c .ok 0 s with trust := { s.trust with debugNext := true } })) ∧
  (∀ s : State, spdmUp s = true →
    exec .getVersion s = .next { s with trust := { s.trust with spdm := .version :: s.trust.spdm } } ∧
    exec .getCapabilities s = .next { s with trust := { s.trust with spdm := .capabilities :: s.trust.spdm } } ∧
    exec (.negotiateAlgorithms true true) s = .next { s with trust := { s.trust with spdm := .algorithms :: s.trust.spdm } } ∧
    (∀ a b, (a = false ∨ b = false) →
      exec (.negotiateAlgorithms a b) s = .next { s with trust := { s.trust with spdm := .error :: s.trust.spdm } }) ∧
    exec .getDigests s = .next { s with trust := { s.trust with spdm := .digests (Config.sha384 (slotChain s)) :: s.trust.spdm } } ∧
    (∀ o n, exec (.getCertificate 0 o n) s =
      .next { s with trust := { s.trust with spdm := .certificate (((slotChain s).drop o).take n) :: s.trust.spdm } })) ∧
  (∀ (nonce : BitVec 256) (s : State), spdmUp s = true →
    ∃ own sig, exec (.challenge 0 nonce) s = .next { s with trust := { s.trust with spdm := .challengeAuth own sig :: s.trust.spdm }, free := s.free + 1 } ∧
      sig = Config.ecdsaSign s.trust.cdi1 (Config.sha384 (leBytes 32 nonce.toNat ++ leBytes 32 own.toNat ++ digestBytes (Config.sha384 (slotChain s)))) s.free) ∧
  (∀ (n : Nat) (nonce : BitVec 256) (s : State), spdmUp s = true → 1 ≤ n → n ≤ 9 →
    ∃ own sig, exec (.getMeasurements n nonce) s =
      .next { s with trust := { s.trust with spdm := .measurements [(n, measurement s n)] own sig :: s.trust.spdm }, free := s.free + 1 }) ∧
  (∀ (nonce : BitVec 256) (s : State), spdmUp s = true →
    ∃ own sig, exec (.getMeasurements 255 nonce) s =
      .next { s with
        trust := { s.trust with spdm := .measurements [(1, measurement s 1), (2, measurement s 2), (3, measurement s 3), (4, measurement s 4), (5, measurement s 5), (6, measurement s 6), (7, measurement s 7), (8, measurement s 8), (9, measurement s 9)] own sig :: s.trust.spdm }
        free := s.free + 1 }) ∧
  (∀ s : State, (s.boot.stage = .rom ∨ s.boot.stage = .halted) →
    exec .getVersion s = .next { s with trust := { s.trust with spdm := .busy :: s.trust.spdm } } ∧
    exec .getDigests s = .next { s with trust := { s.trust with spdm := .busy :: s.trust.spdm } })

end
end

