-- ==== Sys2Proof/Laws/Data.lean ====
section
/-! SUPPORT. Laws of the plain data: sparse tables and sparse memories, reading after writing, and the canonical form. -/

namespace Sys2Proof.Machine

/-! ## Tables -/

@[simp] theorem tabFind_tabSet_self {α : Type} (t : Tab α) (i : Nat) (v : α) : tabFind (tabSet t i v) i = some v := by
  induction t with
  | nil => simp [tabFind, tabSet]
  | cons e t ih =>
    obtain ⟨k, w⟩ := e
    simp only [tabSet]
    split
    · simp [tabFind]
    · split
      · simp [tabFind]
      · rename_i h1 h2
        have hk : (i == k) = false := by simp [h2]
        simpa [tabFind, List.lookup, hk] using ih

theorem tabFind_tabSet_ne {α : Type} (t : Tab α) {i j : Nat} (v : α) (h : j ≠ i) : tabFind (tabSet t i v) j = tabFind t j := by
  induction t with
  | nil =>
    have hj : (j == i) = false := by simp [h]
    simp [tabFind, tabSet, List.lookup, hj]
  | cons e t ih =>
    obtain ⟨k, w⟩ := e
    have hj : (j == i) = false := by simp [h]
    simp only [tabSet]
    split
    · simp [tabFind, List.lookup, hj]
    · split
      · rename_i h1 h2
        subst h2
        simp [tabFind, List.lookup, hj]
      · simp only [tabFind, List.lookup] at ih ⊢
        split <;> simp_all

theorem tabGet_eq {α : Type} (d : α) (t : Tab α) (i : Nat) : tabGet d t i = (tabFind t i).getD d := rfl

@[simp] theorem tabGet_tabSet_self {α : Type} (d : α) (t : Tab α) (i : Nat) (v : α) : tabGet d (tabSet t i v) i = v := by
  simp [tabGet_eq]

theorem tabGet_tabSet_ne {α : Type} (d : α) (t : Tab α) {i j : Nat} (v : α) (h : j ≠ i) :
    tabGet d (tabSet t i v) j = tabGet d t j := by
  simp [tabGet_eq, tabFind_tabSet_ne t v h]

theorem tabFind_tabDel_self {α : Type} (t : Tab α) (i : Nat) : tabFind (tabDel t i) i = none := by
  induction t with
  | nil => rfl
  | cons e t ih =>
    obtain ⟨k, w⟩ := e
    simp only [tabDel, List.filter] at ih ⊢
    by_cases hk : k = i
    · subst hk; simpa using ih
    · have h1 : (k != i) = true := by simp [hk]
      have h2 : (i == k) = false := by simp [Ne.symm hk]
      simpa [h1, tabFind, List.lookup, h2] using ih

theorem tabFind_tabDel_ne {α : Type} (t : Tab α) {i j : Nat} (h : j ≠ i) : tabFind (tabDel t i) j = tabFind t j := by
  induction t with
  | nil => rfl
  | cons e t ih =>
    obtain ⟨k, w⟩ := e
    simp only [tabDel, List.filter] at ih ⊢
    by_cases hk : k = i
    · subst hk
      have h2 : (j == k) = false := by simp [h]
      simpa [tabFind, List.lookup, h2] using ih
    · have h1 : (k != i) = true := by simp [hk]
      simp only [h1, tabFind, List.lookup] at ih ⊢
      split <;> simp_all

/-! ## Memories: the canonical form -/

theorem memWfFrom_mono {d : Byte} {lo lo' : Nat} {m : Mem} (h : memWfFrom d lo m = true) (hl : lo' ≤ lo) : memWfFrom d lo' m = true := by
  cases m with
  | nil => rfl
  | cons c t =>
    obtain ⟨k, b⟩ := c
    simp only [memWfFrom, Bool.and_eq_true, decide_eq_true_eq] at h ⊢
    exact ⟨⟨by omega, h.1.2⟩, h.2⟩

/-- A write keeps the canonical form. -/
theorem memWfFrom_memWrite {d : Byte} {m : Mem} {lo a : Nat} (b : Byte) (h : memWfFrom d lo m = true) (hl : lo ≤ a) :
    memWfFrom d lo (memWrite d m a b) = true := by
  induction m generalizing lo with
  | nil =>
    simp only [memWrite]
    split
    · rfl
    · rename_i hb
      simp [memWfFrom, hl, hb]
  | cons c t ih =>
    obtain ⟨k, w⟩ := c
    simp only [memWfFrom, Bool.and_eq_true, decide_eq_true_eq] at h
    obtain ⟨⟨h1, h2⟩, h3⟩ := h
    simp only [memWrite]
    split
    · rename_i hak
      split
      · simp [memWfFrom, h1, h2, h3]
      · rename_i hb
        simp only [memWfFrom, Bool.and_eq_true, decide_eq_true_eq]
        exact ⟨⟨hl, hb⟩, ⟨by omega, h2⟩, h3⟩
    · rename_i hak
      split
      · rename_i he
        split
        · exact memWfFrom_mono h3 (by omega)
        · rename_i hb
          subst he
          simp only [memWfFrom, Bool.and_eq_true, decide_eq_true_eq]
          exact ⟨⟨h1, hb⟩, h3⟩
      · rename_i he
        simp only [memWfFrom, Bool.and_eq_true, decide_eq_true_eq]
        exact ⟨⟨h1, h2⟩, ih h3 (by omega)⟩

theorem memWf_memWrite {d : Byte} {m : Mem} (a : Nat) (b : Byte) (h : memWf d m = true) : memWf d (memWrite d m a b) = true :=
  memWfFrom_memWrite b h (Nat.zero_le _)

theorem memWf_memWriteN {d : Byte} (bs : List Byte) (m : Mem) (a : Nat) (h : memWf d m = true) : memWf d (memWriteN d m a bs) = true := by
  induction bs generalizing m a with
  | nil => exact h
  | cons b t ih => exact ih _ _ (memWf_memWrite a b h)

theorem memWf_foldl_memWrite {d : Byte} {α : Type} (f : α → Nat) (g : α → Byte) (xs : List α) (m : Mem) (h : memWf d m = true) :
    memWf d (xs.foldl (fun m x => memWrite d m (f x) (g x)) m) = true := by
  induction xs generalizing m with
  | nil => exact h
  | cons x t ih => exact ih _ (memWf_memWrite _ _ h)

theorem memWfFrom_filter {d : Byte} (p : Host.Cell → Bool) {m : Mem} {lo : Nat} (h : memWfFrom d lo m = true) :
    memWfFrom d lo (m.filter p) = true := by
  induction m generalizing lo with
  | nil => rfl
  | cons c t ih =>
    obtain ⟨k, b⟩ := c
    simp only [memWfFrom, Bool.and_eq_true, decide_eq_true_eq] at h
    obtain ⟨⟨h1, h2⟩, h3⟩ := h
    simp only [List.filter]
    split
    · simp only [memWfFrom, Bool.and_eq_true, decide_eq_true_eq]
      exact ⟨⟨h1, h2⟩, ih h3⟩
    · exact ih (memWfFrom_mono h3 (by omega))

theorem memWf_filter {d : Byte} (p : Host.Cell → Bool) {m : Mem} (h : memWf d m = true) : memWf d (m.filter p) = true :=
  memWfFrom_filter p h

theorem memWf_memClear {d : Byte} (lo hi : Nat) {m : Mem} (h : memWf d m = true) : memWf d (memClear lo hi m) = true :=
  memWfFrom_filter _ h

/-! ## Memories: reading after writing -/

theorem memRead_memWrite_self (d : Byte) (m : Mem) (a : Nat) (b : Byte) (h : memWf d m = true) : memRead d (memWrite d m a b) a = b := by
  suffices hs : ∀ lo, memWfFrom d lo m = true → memRead d (memWrite d m a b) a = b from hs 0 h
  clear h
  induction m with
  | nil =>
    intro lo _
    simp only [memWrite]
    split
    · rename_i hb; simp [memRead, hb]
    · simp [memRead]
  | cons c t ih =>
    obtain ⟨k, w⟩ := c
    intro lo h
    simp only [memWfFrom, Bool.and_eq_true, decide_eq_true_eq] at h
    obtain ⟨_, h3⟩ := h
    simp only [memWrite]
    split
    · rename_i hak
      split
      · rename_i hb
        simp [memRead, hb, hak, Nat.ne_of_lt hak]
      · simp [memRead]
    · split
      · rename_i hak he
        split
        · rename_i hb
          subst he
          cases t with
          | nil => simp [memRead, hb]
          | cons c' t' =>
            obtain ⟨k', w'⟩ := c'
            simp only [memWfFrom, Bool.and_eq_true, decide_eq_true_eq] at h3
            have : a < k' := by omega
            simp [memRead, hb, Nat.ne_of_lt this, this]
        · simp [memRead]
      · rename_i hak he
        simp [memRead, he, hak, ih _ h3]

theorem memRead_lt {d : Byte} {m : Mem} {lo a : Nat} (h : memWfFrom d lo m = true) (ha : a < lo) : memRead d m a = d := by
  cases m with
  | nil => rfl
  | cons c t =>
    obtain ⟨k, w⟩ := c
    simp only [memWfFrom, Bool.and_eq_true, decide_eq_true_eq] at h
    have h1 : a < k := by omega
    simp [memRead, Nat.ne_of_lt h1, h1]

theorem memRead_memWrite_ne (d : Byte) (m : Mem) {a x : Nat} (b : Byte) (h : memWf d m = true) (hx : x ≠ a) :
    memRead d (memWrite d m a b) x = memRead d m x := by
  suffices hs : ∀ lo, memWfFrom d lo m = true → memRead d (memWrite d m a b) x = memRead d m x from hs 0 h
  clear h
  induction m with
  | nil =>
    intro lo _
    simp only [memWrite]
    split
    · rfl
    · simp [memRead, hx]
  | cons c t ih =>
    obtain ⟨k, w⟩ := c
    intro lo h
    simp only [memWfFrom, Bool.and_eq_true, decide_eq_true_eq] at h
    obtain ⟨_, h3⟩ := h
    simp only [memWrite]
    split
    · rename_i hak
      split
      · rfl
      · by_cases hxa : x < a
        · have h1 : x < k := by omega
          simp [memRead, hx, hxa, h1, Nat.ne_of_lt h1]
        · simp [memRead, hx, hxa]
    · split
      · rename_i hak he
        subst he
        split
        · by_cases hxa : x < a
          · rw [memRead_lt h3 (by omega)]
            simp [memRead, hx, hxa]
          · simp [memRead, hx, hxa]
        · simp [memRead, hx]
      · rename_i hak he
        simp only [memRead]
        split
        · rfl
        · split
          · rfl
          · exact ih _ h3

theorem memRead_memWriteN_out (d : Byte) (bs : List Byte) (m : Mem) (a x : Nat) (h : memWf d m = true)
    (hx : x < a ∨ a + bs.length ≤ x) : memRead d (memWriteN d m a bs) x = memRead d m x := by
  induction bs generalizing m a with
  | nil => rfl
  | cons b t ih =>
    simp only [memWriteN]
    simp only [List.length_cons] at hx
    rw [ih _ _ (memWf_memWrite a b h) (by omega), memRead_memWrite_ne d m b h (by omega)]

theorem memRead_memWriteN_in (d : Byte) (bs : List Byte) (m : Mem) (a j : Nat) (h : memWf d m = true) (hj : j < bs.length) :
    memRead d (memWriteN d m a bs) (a + j) = nth bs j 0 := by
  induction bs generalizing m a j with
  | nil => simp at hj
  | cons b t ih =>
    simp only [memWriteN]
    cases j with
    | zero =>
      rw [memRead_memWriteN_out d t _ _ _ (memWf_memWrite a b h) (by omega)]
      simpa [nth] using memRead_memWrite_self d m a b h
    | succ j =>
      have := ih (memWrite d m a b) (a + 1) j (memWf_memWrite a b h) (by simpa using hj)
      rw [show a + (j + 1) = a + 1 + j by omega, this]
      simp [nth]

/-- A range reads back as it was written. -/
theorem memReadN_memWriteN (d : Byte) (bs : List Byte) (m : Mem) (a : Nat) (h : memWf d m = true) :
    memReadN d (memWriteN d m a bs) a bs.length = bs := by
  apply List.ext_getElem
  · simp [memReadN]
  · intro i h1 h2
    simp only [memReadN, List.getElem_map, List.getElem_range]
    rw [memRead_memWriteN_in d bs m a i h h2]
    simp [nth, h2]

/-- Clearing a range leaves every byte outside it, and the range reads as nothing written. -/
theorem memRead_memClear (d : Byte) (lo hi : Nat) (m : Mem) (a : Nat) (h : memWf d m = true) :
    memRead d (memClear lo hi m) a = if lo ≤ a ∧ a < hi then d else memRead d m a := by
  suffices hs : ∀ l, memWfFrom d l m = true → memRead d (memClear lo hi m) a = if lo ≤ a ∧ a < hi then d else memRead d m a from hs 0 h
  clear h
  induction m with
  | nil => intro l _; simp [memClear, memRead]
  | cons c t ih =>
    obtain ⟨k, w⟩ := c
    intro l h
    simp only [memWfFrom, Bool.and_eq_true, decide_eq_true_eq] at h
    obtain ⟨_, h3⟩ := h
    have ih' := ih _ h3
    by_cases hk : k < lo ∨ hi ≤ k
    · have hc : memClear lo hi ((k, w) :: t) = (k, w) :: memClear lo hi t := by simp [memClear, hk]
      rw [hc]
      simp only [memRead]
      split
      · rename_i he
        subst he
        rw [if_neg (by omega)]
      · split
        · simp
        · exact ih'
    · have hc : memClear lo hi ((k, w) :: t) = memClear lo hi t := by simp [memClear, hk]
      rw [hc, ih']
      split
      · rfl
      · rename_i hn
        simp only [memRead]
        have hak : a ≠ k := by intro he; subst he; omega
        rw [if_neg hak]
        split
        · exact memRead_lt h3 (by omega)
        · rfl

end Sys2Proof.Machine
end

