-- ==== Sys2Proof/Laws/State.lean ====
section
/-! SUPPORT. Small laws of State: one lemma per field per update of a unit, and for each shared operation the fields that it leaves as they
were. Each is proved by cases on the state, so that simp rewrites with it: left to unfolding, a check of such an equation compares whole
units. -/

namespace Sys2Proof.Machine

/-! ## setTick -/

@[simp] theorem setTick_part (f : TickSt → TickSt) (s : State) : (setTick f s).part = s.part := by cases s; rfl
@[simp] theorem setTick_tick (f : TickSt → TickSt) (s : State) : (setTick f s).tick = f s.tick := by cases s; rfl
@[simp] theorem setTick_fe (f : TickSt → TickSt) (s : State) : (setTick f s).fe = s.fe := by cases s; rfl
@[simp] theorem setTick_mbx (f : TickSt → TickSt) (s : State) : (setTick f s).mbx = s.mbx := by cases s; rfl
@[simp] theorem setTick_tring (f : TickSt → TickSt) (s : State) : (setTick f s).tring = s.tring := by cases s; rfl
@[simp] theorem setTick_rring (f : TickSt → TickSt) (s : State) : (setTick f s).rring = s.rring := by cases s; rfl
@[simp] theorem setTick_fring (f : TickSt → TickSt) (s : State) : (setTick f s).fring = s.fring := by cases s; rfl
@[simp] theorem setTick_smb (f : TickSt → TickSt) (s : State) : (setTick f s).smb = s.smb := by cases s; rfl
@[simp] theorem setTick_seq (f : TickSt → TickSt) (s : State) : (setTick f s).seq = s.seq := by cases s; rfl
@[simp] theorem setTick_fm (f : TickSt → TickSt) (s : State) : (setTick f s).fm = s.fm := by cases s; rfl
@[simp] theorem setTick_dram (f : TickSt → TickSt) (s : State) : (setTick f s).dram = s.dram := by cases s; rfl
@[simp] theorem setTick_nv (f : TickSt → TickSt) (s : State) : (setTick f s).nv = s.nv := by cases s; rfl
@[simp] theorem setTick_kv (f : TickSt → TickSt) (s : State) : (setTick f s).kv = s.kv := by cases s; rfl
@[simp] theorem setTick_watch (f : TickSt → TickSt) (s : State) : (setTick f s).watch = s.watch := by cases s; rfl
@[simp] theorem setTick_links (f : TickSt → TickSt) (s : State) : (setTick f s).links = s.links := by cases s; rfl
@[simp] theorem setTick_bus (f : TickSt → TickSt) (s : State) : (setTick f s).bus = s.bus := by cases s; rfl
@[simp] theorem setTick_trust (f : TickSt → TickSt) (s : State) : (setTick f s).trust = s.trust := by cases s; rfl
@[simp] theorem setTick_power (f : TickSt → TickSt) (s : State) : (setTick f s).power = s.power := by cases s; rfl
@[simp] theorem setTick_boot (f : TickSt → TickSt) (s : State) : (setTick f s).boot = s.boot := by cases s; rfl
@[simp] theorem setTick_ctr (f : TickSt → TickSt) (s : State) : (setTick f s).ctr = s.ctr := by cases s; rfl
@[simp] theorem setTick_host (f : TickSt → TickSt) (s : State) : (setTick f s).host = s.host := by cases s; rfl
@[simp] theorem setTick_free (f : TickSt → TickSt) (s : State) : (setTick f s).free = s.free := by cases s; rfl
@[simp] theorem setTick_pending (f : TickSt → TickSt) (s : State) : (setTick f s).pending = s.pending := by cases s; rfl

/-! ## setFe -/

@[simp] theorem setFe_part (f : FrontEnd → FrontEnd) (s : State) : (setFe f s).part = s.part := by cases s; rfl
@[simp] theorem setFe_tick (f : FrontEnd → FrontEnd) (s : State) : (setFe f s).tick = s.tick := by cases s; rfl
@[simp] theorem setFe_fe (f : FrontEnd → FrontEnd) (s : State) : (setFe f s).fe = f s.fe := by cases s; rfl
@[simp] theorem setFe_mbx (f : FrontEnd → FrontEnd) (s : State) : (setFe f s).mbx = s.mbx := by cases s; rfl
@[simp] theorem setFe_tring (f : FrontEnd → FrontEnd) (s : State) : (setFe f s).tring = s.tring := by cases s; rfl
@[simp] theorem setFe_rring (f : FrontEnd → FrontEnd) (s : State) : (setFe f s).rring = s.rring := by cases s; rfl
@[simp] theorem setFe_fring (f : FrontEnd → FrontEnd) (s : State) : (setFe f s).fring = s.fring := by cases s; rfl
@[simp] theorem setFe_smb (f : FrontEnd → FrontEnd) (s : State) : (setFe f s).smb = s.smb := by cases s; rfl
@[simp] theorem setFe_seq (f : FrontEnd → FrontEnd) (s : State) : (setFe f s).seq = s.seq := by cases s; rfl
@[simp] theorem setFe_fm (f : FrontEnd → FrontEnd) (s : State) : (setFe f s).fm = s.fm := by cases s; rfl
@[simp] theorem setFe_dram (f : FrontEnd → FrontEnd) (s : State) : (setFe f s).dram = s.dram := by cases s; rfl
@[simp] theorem setFe_nv (f : FrontEnd → FrontEnd) (s : State) : (setFe f s).nv = s.nv := by cases s; rfl
@[simp] theorem setFe_kv (f : FrontEnd → FrontEnd) (s : State) : (setFe f s).kv = s.kv := by cases s; rfl
@[simp] theorem setFe_watch (f : FrontEnd → FrontEnd) (s : State) : (setFe f s).watch = s.watch := by cases s; rfl
@[simp] theorem setFe_links (f : FrontEnd → FrontEnd) (s : State) : (setFe f s).links = s.links := by cases s; rfl
@[simp] theorem setFe_bus (f : FrontEnd → FrontEnd) (s : State) : (setFe f s).bus = s.bus := by cases s; rfl
@[simp] theorem setFe_trust (f : FrontEnd → FrontEnd) (s : State) : (setFe f s).trust = s.trust := by cases s; rfl
@[simp] theorem setFe_power (f : FrontEnd → FrontEnd) (s : State) : (setFe f s).power = s.power := by cases s; rfl
@[simp] theorem setFe_boot (f : FrontEnd → FrontEnd) (s : State) : (setFe f s).boot = s.boot := by cases s; rfl
@[simp] theorem setFe_ctr (f : FrontEnd → FrontEnd) (s : State) : (setFe f s).ctr = s.ctr := by cases s; rfl
@[simp] theorem setFe_host (f : FrontEnd → FrontEnd) (s : State) : (setFe f s).host = s.host := by cases s; rfl
@[simp] theorem setFe_free (f : FrontEnd → FrontEnd) (s : State) : (setFe f s).free = s.free := by cases s; rfl
@[simp] theorem setFe_pending (f : FrontEnd → FrontEnd) (s : State) : (setFe f s).pending = s.pending := by cases s; rfl

/-! ## setMbx -/

@[simp] theorem setMbx_part (f : Mbx → Mbx) (s : State) : (setMbx f s).part = s.part := by cases s; rfl
@[simp] theorem setMbx_tick (f : Mbx → Mbx) (s : State) : (setMbx f s).tick = s.tick := by cases s; rfl
@[simp] theorem setMbx_fe (f : Mbx → Mbx) (s : State) : (setMbx f s).fe = s.fe := by cases s; rfl
@[simp] theorem setMbx_mbx (f : Mbx → Mbx) (s : State) : (setMbx f s).mbx = f s.mbx := by cases s; rfl
@[simp] theorem setMbx_tring (f : Mbx → Mbx) (s : State) : (setMbx f s).tring = s.tring := by cases s; rfl
@[simp] theorem setMbx_rring (f : Mbx → Mbx) (s : State) : (setMbx f s).rring = s.rring := by cases s; rfl
@[simp] theorem setMbx_fring (f : Mbx → Mbx) (s : State) : (setMbx f s).fring = s.fring := by cases s; rfl
@[simp] theorem setMbx_smb (f : Mbx → Mbx) (s : State) : (setMbx f s).smb = s.smb := by cases s; rfl
@[simp] theorem setMbx_seq (f : Mbx → Mbx) (s : State) : (setMbx f s).seq = s.seq := by cases s; rfl
@[simp] theorem setMbx_fm (f : Mbx → Mbx) (s : State) : (setMbx f s).fm = s.fm := by cases s; rfl
@[simp] theorem setMbx_dram (f : Mbx → Mbx) (s : State) : (setMbx f s).dram = s.dram := by cases s; rfl
@[simp] theorem setMbx_nv (f : Mbx → Mbx) (s : State) : (setMbx f s).nv = s.nv := by cases s; rfl
@[simp] theorem setMbx_kv (f : Mbx → Mbx) (s : State) : (setMbx f s).kv = s.kv := by cases s; rfl
@[simp] theorem setMbx_watch (f : Mbx → Mbx) (s : State) : (setMbx f s).watch = s.watch := by cases s; rfl
@[simp] theorem setMbx_links (f : Mbx → Mbx) (s : State) : (setMbx f s).links = s.links := by cases s; rfl
@[simp] theorem setMbx_bus (f : Mbx → Mbx) (s : State) : (setMbx f s).bus = s.bus := by cases s; rfl
@[simp] theorem setMbx_trust (f : Mbx → Mbx) (s : State) : (setMbx f s).trust = s.trust := by cases s; rfl
@[simp] theorem setMbx_power (f : Mbx → Mbx) (s : State) : (setMbx f s).power = s.power := by cases s; rfl
@[simp] theorem setMbx_boot (f : Mbx → Mbx) (s : State) : (setMbx f s).boot = s.boot := by cases s; rfl
@[simp] theorem setMbx_ctr (f : Mbx → Mbx) (s : State) : (setMbx f s).ctr = s.ctr := by cases s; rfl
@[simp] theorem setMbx_host (f : Mbx → Mbx) (s : State) : (setMbx f s).host = s.host := by cases s; rfl
@[simp] theorem setMbx_free (f : Mbx → Mbx) (s : State) : (setMbx f s).free = s.free := by cases s; rfl
@[simp] theorem setMbx_pending (f : Mbx → Mbx) (s : State) : (setMbx f s).pending = s.pending := by cases s; rfl

/-! ## setSmb -/

@[simp] theorem setSmb_part (f : Smb → Smb) (s : State) : (setSmb f s).part = s.part := by cases s; rfl
@[simp] theorem setSmb_tick (f : Smb → Smb) (s : State) : (setSmb f s).tick = s.tick := by cases s; rfl
@[simp] theorem setSmb_fe (f : Smb → Smb) (s : State) : (setSmb f s).fe = s.fe := by cases s; rfl
@[simp] theorem setSmb_mbx (f : Smb → Smb) (s : State) : (setSmb f s).mbx = s.mbx := by cases s; rfl
@[simp] theorem setSmb_tring (f : Smb → Smb) (s : State) : (setSmb f s).tring = s.tring := by cases s; rfl
@[simp] theorem setSmb_rring (f : Smb → Smb) (s : State) : (setSmb f s).rring = s.rring := by cases s; rfl
@[simp] theorem setSmb_fring (f : Smb → Smb) (s : State) : (setSmb f s).fring = s.fring := by cases s; rfl
@[simp] theorem setSmb_smb (f : Smb → Smb) (s : State) : (setSmb f s).smb = f s.smb := by cases s; rfl
@[simp] theorem setSmb_seq (f : Smb → Smb) (s : State) : (setSmb f s).seq = s.seq := by cases s; rfl
@[simp] theorem setSmb_fm (f : Smb → Smb) (s : State) : (setSmb f s).fm = s.fm := by cases s; rfl
@[simp] theorem setSmb_dram (f : Smb → Smb) (s : State) : (setSmb f s).dram = s.dram := by cases s; rfl
@[simp] theorem setSmb_nv (f : Smb → Smb) (s : State) : (setSmb f s).nv = s.nv := by cases s; rfl
@[simp] theorem setSmb_kv (f : Smb → Smb) (s : State) : (setSmb f s).kv = s.kv := by cases s; rfl
@[simp] theorem setSmb_watch (f : Smb → Smb) (s : State) : (setSmb f s).watch = s.watch := by cases s; rfl
@[simp] theorem setSmb_links (f : Smb → Smb) (s : State) : (setSmb f s).links = s.links := by cases s; rfl
@[simp] theorem setSmb_bus (f : Smb → Smb) (s : State) : (setSmb f s).bus = s.bus := by cases s; rfl
@[simp] theorem setSmb_trust (f : Smb → Smb) (s : State) : (setSmb f s).trust = s.trust := by cases s; rfl
@[simp] theorem setSmb_power (f : Smb → Smb) (s : State) : (setSmb f s).power = s.power := by cases s; rfl
@[simp] theorem setSmb_boot (f : Smb → Smb) (s : State) : (setSmb f s).boot = s.boot := by cases s; rfl
@[simp] theorem setSmb_ctr (f : Smb → Smb) (s : State) : (setSmb f s).ctr = s.ctr := by cases s; rfl
@[simp] theorem setSmb_host (f : Smb → Smb) (s : State) : (setSmb f s).host = s.host := by cases s; rfl
@[simp] theorem setSmb_free (f : Smb → Smb) (s : State) : (setSmb f s).free = s.free := by cases s; rfl
@[simp] theorem setSmb_pending (f : Smb → Smb) (s : State) : (setSmb f s).pending = s.pending := by cases s; rfl

/-! ## setSeq -/

@[simp] theorem setSeq_part (f : Seq → Seq) (s : State) : (setSeq f s).part = s.part := by cases s; rfl
@[simp] theorem setSeq_tick (f : Seq → Seq) (s : State) : (setSeq f s).tick = s.tick := by cases s; rfl
@[simp] theorem setSeq_fe (f : Seq → Seq) (s : State) : (setSeq f s).fe = s.fe := by cases s; rfl
@[simp] theorem setSeq_mbx (f : Seq → Seq) (s : State) : (setSeq f s).mbx = s.mbx := by cases s; rfl
@[simp] theorem setSeq_tring (f : Seq → Seq) (s : State) : (setSeq f s).tring = s.tring := by cases s; rfl
@[simp] theorem setSeq_rring (f : Seq → Seq) (s : State) : (setSeq f s).rring = s.rring := by cases s; rfl
@[simp] theorem setSeq_fring (f : Seq → Seq) (s : State) : (setSeq f s).fring = s.fring := by cases s; rfl
@[simp] theorem setSeq_smb (f : Seq → Seq) (s : State) : (setSeq f s).smb = s.smb := by cases s; rfl
@[simp] theorem setSeq_seq (f : Seq → Seq) (s : State) : (setSeq f s).seq = f s.seq := by cases s; rfl
@[simp] theorem setSeq_fm (f : Seq → Seq) (s : State) : (setSeq f s).fm = s.fm := by cases s; rfl
@[simp] theorem setSeq_dram (f : Seq → Seq) (s : State) : (setSeq f s).dram = s.dram := by cases s; rfl
@[simp] theorem setSeq_nv (f : Seq → Seq) (s : State) : (setSeq f s).nv = s.nv := by cases s; rfl
@[simp] theorem setSeq_kv (f : Seq → Seq) (s : State) : (setSeq f s).kv = s.kv := by cases s; rfl
@[simp] theorem setSeq_watch (f : Seq → Seq) (s : State) : (setSeq f s).watch = s.watch := by cases s; rfl
@[simp] theorem setSeq_links (f : Seq → Seq) (s : State) : (setSeq f s).links = s.links := by cases s; rfl
@[simp] theorem setSeq_bus (f : Seq → Seq) (s : State) : (setSeq f s).bus = s.bus := by cases s; rfl
@[simp] theorem setSeq_trust (f : Seq → Seq) (s : State) : (setSeq f s).trust = s.trust := by cases s; rfl
@[simp] theorem setSeq_power (f : Seq → Seq) (s : State) : (setSeq f s).power = s.power := by cases s; rfl
@[simp] theorem setSeq_boot (f : Seq → Seq) (s : State) : (setSeq f s).boot = s.boot := by cases s; rfl
@[simp] theorem setSeq_ctr (f : Seq → Seq) (s : State) : (setSeq f s).ctr = s.ctr := by cases s; rfl
@[simp] theorem setSeq_host (f : Seq → Seq) (s : State) : (setSeq f s).host = s.host := by cases s; rfl
@[simp] theorem setSeq_free (f : Seq → Seq) (s : State) : (setSeq f s).free = s.free := by cases s; rfl
@[simp] theorem setSeq_pending (f : Seq → Seq) (s : State) : (setSeq f s).pending = s.pending := by cases s; rfl

/-! ## setFm -/

@[simp] theorem setFm_part (f : Fm → Fm) (s : State) : (setFm f s).part = s.part := by cases s; rfl
@[simp] theorem setFm_tick (f : Fm → Fm) (s : State) : (setFm f s).tick = s.tick := by cases s; rfl
@[simp] theorem setFm_fe (f : Fm → Fm) (s : State) : (setFm f s).fe = s.fe := by cases s; rfl
@[simp] theorem setFm_mbx (f : Fm → Fm) (s : State) : (setFm f s).mbx = s.mbx := by cases s; rfl
@[simp] theorem setFm_tring (f : Fm → Fm) (s : State) : (setFm f s).tring = s.tring := by cases s; rfl
@[simp] theorem setFm_rring (f : Fm → Fm) (s : State) : (setFm f s).rring = s.rring := by cases s; rfl
@[simp] theorem setFm_fring (f : Fm → Fm) (s : State) : (setFm f s).fring = s.fring := by cases s; rfl
@[simp] theorem setFm_smb (f : Fm → Fm) (s : State) : (setFm f s).smb = s.smb := by cases s; rfl
@[simp] theorem setFm_seq (f : Fm → Fm) (s : State) : (setFm f s).seq = s.seq := by cases s; rfl
@[simp] theorem setFm_fm (f : Fm → Fm) (s : State) : (setFm f s).fm = f s.fm := by cases s; rfl
@[simp] theorem setFm_dram (f : Fm → Fm) (s : State) : (setFm f s).dram = s.dram := by cases s; rfl
@[simp] theorem setFm_nv (f : Fm → Fm) (s : State) : (setFm f s).nv = s.nv := by cases s; rfl
@[simp] theorem setFm_kv (f : Fm → Fm) (s : State) : (setFm f s).kv = s.kv := by cases s; rfl
@[simp] theorem setFm_watch (f : Fm → Fm) (s : State) : (setFm f s).watch = s.watch := by cases s; rfl
@[simp] theorem setFm_links (f : Fm → Fm) (s : State) : (setFm f s).links = s.links := by cases s; rfl
@[simp] theorem setFm_bus (f : Fm → Fm) (s : State) : (setFm f s).bus = s.bus := by cases s; rfl
@[simp] theorem setFm_trust (f : Fm → Fm) (s : State) : (setFm f s).trust = s.trust := by cases s; rfl
@[simp] theorem setFm_power (f : Fm → Fm) (s : State) : (setFm f s).power = s.power := by cases s; rfl
@[simp] theorem setFm_boot (f : Fm → Fm) (s : State) : (setFm f s).boot = s.boot := by cases s; rfl
@[simp] theorem setFm_ctr (f : Fm → Fm) (s : State) : (setFm f s).ctr = s.ctr := by cases s; rfl
@[simp] theorem setFm_host (f : Fm → Fm) (s : State) : (setFm f s).host = s.host := by cases s; rfl
@[simp] theorem setFm_free (f : Fm → Fm) (s : State) : (setFm f s).free = s.free := by cases s; rfl
@[simp] theorem setFm_pending (f : Fm → Fm) (s : State) : (setFm f s).pending = s.pending := by cases s; rfl

/-! ## setDram -/

@[simp] theorem setDram_part (f : Dram → Dram) (s : State) : (setDram f s).part = s.part := by cases s; rfl
@[simp] theorem setDram_tick (f : Dram → Dram) (s : State) : (setDram f s).tick = s.tick := by cases s; rfl
@[simp] theorem setDram_fe (f : Dram → Dram) (s : State) : (setDram f s).fe = s.fe := by cases s; rfl
@[simp] theorem setDram_mbx (f : Dram → Dram) (s : State) : (setDram f s).mbx = s.mbx := by cases s; rfl
@[simp] theorem setDram_tring (f : Dram → Dram) (s : State) : (setDram f s).tring = s.tring := by cases s; rfl
@[simp] theorem setDram_rring (f : Dram → Dram) (s : State) : (setDram f s).rring = s.rring := by cases s; rfl
@[simp] theorem setDram_fring (f : Dram → Dram) (s : State) : (setDram f s).fring = s.fring := by cases s; rfl
@[simp] theorem setDram_smb (f : Dram → Dram) (s : State) : (setDram f s).smb = s.smb := by cases s; rfl
@[simp] theorem setDram_seq (f : Dram → Dram) (s : State) : (setDram f s).seq = s.seq := by cases s; rfl
@[simp] theorem setDram_fm (f : Dram → Dram) (s : State) : (setDram f s).fm = s.fm := by cases s; rfl
@[simp] theorem setDram_dram (f : Dram → Dram) (s : State) : (setDram f s).dram = f s.dram := by cases s; rfl
@[simp] theorem setDram_nv (f : Dram → Dram) (s : State) : (setDram f s).nv = s.nv := by cases s; rfl
@[simp] theorem setDram_kv (f : Dram → Dram) (s : State) : (setDram f s).kv = s.kv := by cases s; rfl
@[simp] theorem setDram_watch (f : Dram → Dram) (s : State) : (setDram f s).watch = s.watch := by cases s; rfl
@[simp] theorem setDram_links (f : Dram → Dram) (s : State) : (setDram f s).links = s.links := by cases s; rfl
@[simp] theorem setDram_bus (f : Dram → Dram) (s : State) : (setDram f s).bus = s.bus := by cases s; rfl
@[simp] theorem setDram_trust (f : Dram → Dram) (s : State) : (setDram f s).trust = s.trust := by cases s; rfl
@[simp] theorem setDram_power (f : Dram → Dram) (s : State) : (setDram f s).power = s.power := by cases s; rfl
@[simp] theorem setDram_boot (f : Dram → Dram) (s : State) : (setDram f s).boot = s.boot := by cases s; rfl
@[simp] theorem setDram_ctr (f : Dram → Dram) (s : State) : (setDram f s).ctr = s.ctr := by cases s; rfl
@[simp] theorem setDram_host (f : Dram → Dram) (s : State) : (setDram f s).host = s.host := by cases s; rfl
@[simp] theorem setDram_free (f : Dram → Dram) (s : State) : (setDram f s).free = s.free := by cases s; rfl
@[simp] theorem setDram_pending (f : Dram → Dram) (s : State) : (setDram f s).pending = s.pending := by cases s; rfl

/-! ## setNv -/

@[simp] theorem setNv_part (f : Nv → Nv) (s : State) : (setNv f s).part = s.part := by cases s; rfl
@[simp] theorem setNv_tick (f : Nv → Nv) (s : State) : (setNv f s).tick = s.tick := by cases s; rfl
@[simp] theorem setNv_fe (f : Nv → Nv) (s : State) : (setNv f s).fe = s.fe := by cases s; rfl
@[simp] theorem setNv_mbx (f : Nv → Nv) (s : State) : (setNv f s).mbx = s.mbx := by cases s; rfl
@[simp] theorem setNv_tring (f : Nv → Nv) (s : State) : (setNv f s).tring = s.tring := by cases s; rfl
@[simp] theorem setNv_rring (f : Nv → Nv) (s : State) : (setNv f s).rring = s.rring := by cases s; rfl
@[simp] theorem setNv_fring (f : Nv → Nv) (s : State) : (setNv f s).fring = s.fring := by cases s; rfl
@[simp] theorem setNv_smb (f : Nv → Nv) (s : State) : (setNv f s).smb = s.smb := by cases s; rfl
@[simp] theorem setNv_seq (f : Nv → Nv) (s : State) : (setNv f s).seq = s.seq := by cases s; rfl
@[simp] theorem setNv_fm (f : Nv → Nv) (s : State) : (setNv f s).fm = s.fm := by cases s; rfl
@[simp] theorem setNv_dram (f : Nv → Nv) (s : State) : (setNv f s).dram = s.dram := by cases s; rfl
@[simp] theorem setNv_nv (f : Nv → Nv) (s : State) : (setNv f s).nv = f s.nv := by cases s; rfl
@[simp] theorem setNv_kv (f : Nv → Nv) (s : State) : (setNv f s).kv = s.kv := by cases s; rfl
@[simp] theorem setNv_watch (f : Nv → Nv) (s : State) : (setNv f s).watch = s.watch := by cases s; rfl
@[simp] theorem setNv_links (f : Nv → Nv) (s : State) : (setNv f s).links = s.links := by cases s; rfl
@[simp] theorem setNv_bus (f : Nv → Nv) (s : State) : (setNv f s).bus = s.bus := by cases s; rfl
@[simp] theorem setNv_trust (f : Nv → Nv) (s : State) : (setNv f s).trust = s.trust := by cases s; rfl
@[simp] theorem setNv_power (f : Nv → Nv) (s : State) : (setNv f s).power = s.power := by cases s; rfl
@[simp] theorem setNv_boot (f : Nv → Nv) (s : State) : (setNv f s).boot = s.boot := by cases s; rfl
@[simp] theorem setNv_ctr (f : Nv → Nv) (s : State) : (setNv f s).ctr = s.ctr := by cases s; rfl
@[simp] theorem setNv_host (f : Nv → Nv) (s : State) : (setNv f s).host = s.host := by cases s; rfl
@[simp] theorem setNv_free (f : Nv → Nv) (s : State) : (setNv f s).free = s.free := by cases s; rfl
@[simp] theorem setNv_pending (f : Nv → Nv) (s : State) : (setNv f s).pending = s.pending := by cases s; rfl

/-! ## setKv -/

@[simp] theorem setKv_part (f : Kv → Kv) (s : State) : (setKv f s).part = s.part := by cases s; rfl
@[simp] theorem setKv_tick (f : Kv → Kv) (s : State) : (setKv f s).tick = s.tick := by cases s; rfl
@[simp] theorem setKv_fe (f : Kv → Kv) (s : State) : (setKv f s).fe = s.fe := by cases s; rfl
@[simp] theorem setKv_mbx (f : Kv → Kv) (s : State) : (setKv f s).mbx = s.mbx := by cases s; rfl
@[simp] theorem setKv_tring (f : Kv → Kv) (s : State) : (setKv f s).tring = s.tring := by cases s; rfl
@[simp] theorem setKv_rring (f : Kv → Kv) (s : State) : (setKv f s).rring = s.rring := by cases s; rfl
@[simp] theorem setKv_fring (f : Kv → Kv) (s : State) : (setKv f s).fring = s.fring := by cases s; rfl
@[simp] theorem setKv_smb (f : Kv → Kv) (s : State) : (setKv f s).smb = s.smb := by cases s; rfl
@[simp] theorem setKv_seq (f : Kv → Kv) (s : State) : (setKv f s).seq = s.seq := by cases s; rfl
@[simp] theorem setKv_fm (f : Kv → Kv) (s : State) : (setKv f s).fm = s.fm := by cases s; rfl
@[simp] theorem setKv_dram (f : Kv → Kv) (s : State) : (setKv f s).dram = s.dram := by cases s; rfl
@[simp] theorem setKv_nv (f : Kv → Kv) (s : State) : (setKv f s).nv = s.nv := by cases s; rfl
@[simp] theorem setKv_kv (f : Kv → Kv) (s : State) : (setKv f s).kv = f s.kv := by cases s; rfl
@[simp] theorem setKv_watch (f : Kv → Kv) (s : State) : (setKv f s).watch = s.watch := by cases s; rfl
@[simp] theorem setKv_links (f : Kv → Kv) (s : State) : (setKv f s).links = s.links := by cases s; rfl
@[simp] theorem setKv_bus (f : Kv → Kv) (s : State) : (setKv f s).bus = s.bus := by cases s; rfl
@[simp] theorem setKv_trust (f : Kv → Kv) (s : State) : (setKv f s).trust = s.trust := by cases s; rfl
@[simp] theorem setKv_power (f : Kv → Kv) (s : State) : (setKv f s).power = s.power := by cases s; rfl
@[simp] theorem setKv_boot (f : Kv → Kv) (s : State) : (setKv f s).boot = s.boot := by cases s; rfl
@[simp] theorem setKv_ctr (f : Kv → Kv) (s : State) : (setKv f s).ctr = s.ctr := by cases s; rfl
@[simp] theorem setKv_host (f : Kv → Kv) (s : State) : (setKv f s).host = s.host := by cases s; rfl
@[simp] theorem setKv_free (f : Kv → Kv) (s : State) : (setKv f s).free = s.free := by cases s; rfl
@[simp] theorem setKv_pending (f : Kv → Kv) (s : State) : (setKv f s).pending = s.pending := by cases s; rfl

/-! ## setWatch -/

@[simp] theorem setWatch_part (f : Watch → Watch) (s : State) : (setWatch f s).part = s.part := by cases s; rfl
@[simp] theorem setWatch_tick (f : Watch → Watch) (s : State) : (setWatch f s).tick = s.tick := by cases s; rfl
@[simp] theorem setWatch_fe (f : Watch → Watch) (s : State) : (setWatch f s).fe = s.fe := by cases s; rfl
@[simp] theorem setWatch_mbx (f : Watch → Watch) (s : State) : (setWatch f s).mbx = s.mbx := by cases s; rfl
@[simp] theorem setWatch_tring (f : Watch → Watch) (s : State) : (setWatch f s).tring = s.tring := by cases s; rfl
@[simp] theorem setWatch_rring (f : Watch → Watch) (s : State) : (setWatch f s).rring = s.rring := by cases s; rfl
@[simp] theorem setWatch_fring (f : Watch → Watch) (s : State) : (setWatch f s).fring = s.fring := by cases s; rfl
@[simp] theorem setWatch_smb (f : Watch → Watch) (s : State) : (setWatch f s).smb = s.smb := by cases s; rfl
@[simp] theorem setWatch_seq (f : Watch → Watch) (s : State) : (setWatch f s).seq = s.seq := by cases s; rfl
@[simp] theorem setWatch_fm (f : Watch → Watch) (s : State) : (setWatch f s).fm = s.fm := by cases s; rfl
@[simp] theorem setWatch_dram (f : Watch → Watch) (s : State) : (setWatch f s).dram = s.dram := by cases s; rfl
@[simp] theorem setWatch_nv (f : Watch → Watch) (s : State) : (setWatch f s).nv = s.nv := by cases s; rfl
@[simp] theorem setWatch_kv (f : Watch → Watch) (s : State) : (setWatch f s).kv = s.kv := by cases s; rfl
@[simp] theorem setWatch_watch (f : Watch → Watch) (s : State) : (setWatch f s).watch = f s.watch := by cases s; rfl
@[simp] theorem setWatch_links (f : Watch → Watch) (s : State) : (setWatch f s).links = s.links := by cases s; rfl
@[simp] theorem setWatch_bus (f : Watch → Watch) (s : State) : (setWatch f s).bus = s.bus := by cases s; rfl
@[simp] theorem setWatch_trust (f : Watch → Watch) (s : State) : (setWatch f s).trust = s.trust := by cases s; rfl
@[simp] theorem setWatch_power (f : Watch → Watch) (s : State) : (setWatch f s).power = s.power := by cases s; rfl
@[simp] theorem setWatch_boot (f : Watch → Watch) (s : State) : (setWatch f s).boot = s.boot := by cases s; rfl
@[simp] theorem setWatch_ctr (f : Watch → Watch) (s : State) : (setWatch f s).ctr = s.ctr := by cases s; rfl
@[simp] theorem setWatch_host (f : Watch → Watch) (s : State) : (setWatch f s).host = s.host := by cases s; rfl
@[simp] theorem setWatch_free (f : Watch → Watch) (s : State) : (setWatch f s).free = s.free := by cases s; rfl
@[simp] theorem setWatch_pending (f : Watch → Watch) (s : State) : (setWatch f s).pending = s.pending := by cases s; rfl

/-! ## setLinks -/

@[simp] theorem setLinks_part (f : Links → Links) (s : State) : (setLinks f s).part = s.part := by cases s; rfl
@[simp] theorem setLinks_tick (f : Links → Links) (s : State) : (setLinks f s).tick = s.tick := by cases s; rfl
@[simp] theorem setLinks_fe (f : Links → Links) (s : State) : (setLinks f s).fe = s.fe := by cases s; rfl
@[simp] theorem setLinks_mbx (f : Links → Links) (s : State) : (setLinks f s).mbx = s.mbx := by cases s; rfl
@[simp] theorem setLinks_tring (f : Links → Links) (s : State) : (setLinks f s).tring = s.tring := by cases s; rfl
@[simp] theorem setLinks_rring (f : Links → Links) (s : State) : (setLinks f s).rring = s.rring := by cases s; rfl
@[simp] theorem setLinks_fring (f : Links → Links) (s : State) : (setLinks f s).fring = s.fring := by cases s; rfl
@[simp] theorem setLinks_smb (f : Links → Links) (s : State) : (setLinks f s).smb = s.smb := by cases s; rfl
@[simp] theorem setLinks_seq (f : Links → Links) (s : State) : (setLinks f s).seq = s.seq := by cases s; rfl
@[simp] theorem setLinks_fm (f : Links → Links) (s : State) : (setLinks f s).fm = s.fm := by cases s; rfl
@[simp] theorem setLinks_dram (f : Links → Links) (s : State) : (setLinks f s).dram = s.dram := by cases s; rfl
@[simp] theorem setLinks_nv (f : Links → Links) (s : State) : (setLinks f s).nv = s.nv := by cases s; rfl
@[simp] theorem setLinks_kv (f : Links → Links) (s : State) : (setLinks f s).kv = s.kv := by cases s; rfl
@[simp] theorem setLinks_watch (f : Links → Links) (s : State) : (setLinks f s).watch = s.watch := by cases s; rfl
@[simp] theorem setLinks_links (f : Links → Links) (s : State) : (setLinks f s).links = f s.links := by cases s; rfl
@[simp] theorem setLinks_bus (f : Links → Links) (s : State) : (setLinks f s).bus = s.bus := by cases s; rfl
@[simp] theorem setLinks_trust (f : Links → Links) (s : State) : (setLinks f s).trust = s.trust := by cases s; rfl
@[simp] theorem setLinks_power (f : Links → Links) (s : State) : (setLinks f s).power = s.power := by cases s; rfl
@[simp] theorem setLinks_boot (f : Links → Links) (s : State) : (setLinks f s).boot = s.boot := by cases s; rfl
@[simp] theorem setLinks_ctr (f : Links → Links) (s : State) : (setLinks f s).ctr = s.ctr := by cases s; rfl
@[simp] theorem setLinks_host (f : Links → Links) (s : State) : (setLinks f s).host = s.host := by cases s; rfl
@[simp] theorem setLinks_free (f : Links → Links) (s : State) : (setLinks f s).free = s.free := by cases s; rfl
@[simp] theorem setLinks_pending (f : Links → Links) (s : State) : (setLinks f s).pending = s.pending := by cases s; rfl

/-! ## setBus -/

@[simp] theorem setBus_part (f : Bus → Bus) (s : State) : (setBus f s).part = s.part := by cases s; rfl
@[simp] theorem setBus_tick (f : Bus → Bus) (s : State) : (setBus f s).tick = s.tick := by cases s; rfl
@[simp] theorem setBus_fe (f : Bus → Bus) (s : State) : (setBus f s).fe = s.fe := by cases s; rfl
@[simp] theorem setBus_mbx (f : Bus → Bus) (s : State) : (setBus f s).mbx = s.mbx := by cases s; rfl
@[simp] theorem setBus_tring (f : Bus → Bus) (s : State) : (setBus f s).tring = s.tring := by cases s; rfl
@[simp] theorem setBus_rring (f : Bus → Bus) (s : State) : (setBus f s).rring = s.rring := by cases s; rfl
@[simp] theorem setBus_fring (f : Bus → Bus) (s : State) : (setBus f s).fring = s.fring := by cases s; rfl
@[simp] theorem setBus_smb (f : Bus → Bus) (s : State) : (setBus f s).smb = s.smb := by cases s; rfl
@[simp] theorem setBus_seq (f : Bus → Bus) (s : State) : (setBus f s).seq = s.seq := by cases s; rfl
@[simp] theorem setBus_fm (f : Bus → Bus) (s : State) : (setBus f s).fm = s.fm := by cases s; rfl
@[simp] theorem setBus_dram (f : Bus → Bus) (s : State) : (setBus f s).dram = s.dram := by cases s; rfl
@[simp] theorem setBus_nv (f : Bus → Bus) (s : State) : (setBus f s).nv = s.nv := by cases s; rfl
@[simp] theorem setBus_kv (f : Bus → Bus) (s : State) : (setBus f s).kv = s.kv := by cases s; rfl
@[simp] theorem setBus_watch (f : Bus → Bus) (s : State) : (setBus f s).watch = s.watch := by cases s; rfl
@[simp] theorem setBus_links (f : Bus → Bus) (s : State) : (setBus f s).links = s.links := by cases s; rfl
@[simp] theorem setBus_bus (f : Bus → Bus) (s : State) : (setBus f s).bus = f s.bus := by cases s; rfl
@[simp] theorem setBus_trust (f : Bus → Bus) (s : State) : (setBus f s).trust = s.trust := by cases s; rfl
@[simp] theorem setBus_power (f : Bus → Bus) (s : State) : (setBus f s).power = s.power := by cases s; rfl
@[simp] theorem setBus_boot (f : Bus → Bus) (s : State) : (setBus f s).boot = s.boot := by cases s; rfl
@[simp] theorem setBus_ctr (f : Bus → Bus) (s : State) : (setBus f s).ctr = s.ctr := by cases s; rfl
@[simp] theorem setBus_host (f : Bus → Bus) (s : State) : (setBus f s).host = s.host := by cases s; rfl
@[simp] theorem setBus_free (f : Bus → Bus) (s : State) : (setBus f s).free = s.free := by cases s; rfl
@[simp] theorem setBus_pending (f : Bus → Bus) (s : State) : (setBus f s).pending = s.pending := by cases s; rfl

/-! ## setTrust -/

@[simp] theorem setTrust_part (f : Trust → Trust) (s : State) : (setTrust f s).part = s.part := by cases s; rfl
@[simp] theorem setTrust_tick (f : Trust → Trust) (s : State) : (setTrust f s).tick = s.tick := by cases s; rfl
@[simp] theorem setTrust_fe (f : Trust → Trust) (s : State) : (setTrust f s).fe = s.fe := by cases s; rfl
@[simp] theorem setTrust_mbx (f : Trust → Trust) (s : State) : (setTrust f s).mbx = s.mbx := by cases s; rfl
@[simp] theorem setTrust_tring (f : Trust → Trust) (s : State) : (setTrust f s).tring = s.tring := by cases s; rfl
@[simp] theorem setTrust_rring (f : Trust → Trust) (s : State) : (setTrust f s).rring = s.rring := by cases s; rfl
@[simp] theorem setTrust_fring (f : Trust → Trust) (s : State) : (setTrust f s).fring = s.fring := by cases s; rfl
@[simp] theorem setTrust_smb (f : Trust → Trust) (s : State) : (setTrust f s).smb = s.smb := by cases s; rfl
@[simp] theorem setTrust_seq (f : Trust → Trust) (s : State) : (setTrust f s).seq = s.seq := by cases s; rfl
@[simp] theorem setTrust_fm (f : Trust → Trust) (s : State) : (setTrust f s).fm = s.fm := by cases s; rfl
@[simp] theorem setTrust_dram (f : Trust → Trust) (s : State) : (setTrust f s).dram = s.dram := by cases s; rfl
@[simp] theorem setTrust_nv (f : Trust → Trust) (s : State) : (setTrust f s).nv = s.nv := by cases s; rfl
@[simp] theorem setTrust_kv (f : Trust → Trust) (s : State) : (setTrust f s).kv = s.kv := by cases s; rfl
@[simp] theorem setTrust_watch (f : Trust → Trust) (s : State) : (setTrust f s).watch = s.watch := by cases s; rfl
@[simp] theorem setTrust_links (f : Trust → Trust) (s : State) : (setTrust f s).links = s.links := by cases s; rfl
@[simp] theorem setTrust_bus (f : Trust → Trust) (s : State) : (setTrust f s).bus = s.bus := by cases s; rfl
@[simp] theorem setTrust_trust (f : Trust → Trust) (s : State) : (setTrust f s).trust = f s.trust := by cases s; rfl
@[simp] theorem setTrust_power (f : Trust → Trust) (s : State) : (setTrust f s).power = s.power := by cases s; rfl
@[simp] theorem setTrust_boot (f : Trust → Trust) (s : State) : (setTrust f s).boot = s.boot := by cases s; rfl
@[simp] theorem setTrust_ctr (f : Trust → Trust) (s : State) : (setTrust f s).ctr = s.ctr := by cases s; rfl
@[simp] theorem setTrust_host (f : Trust → Trust) (s : State) : (setTrust f s).host = s.host := by cases s; rfl
@[simp] theorem setTrust_free (f : Trust → Trust) (s : State) : (setTrust f s).free = s.free := by cases s; rfl
@[simp] theorem setTrust_pending (f : Trust → Trust) (s : State) : (setTrust f s).pending = s.pending := by cases s; rfl

/-! ## setPower -/

@[simp] theorem setPower_part (f : Power → Power) (s : State) : (setPower f s).part = s.part := by cases s; rfl
@[simp] theorem setPower_tick (f : Power → Power) (s : State) : (setPower f s).tick = s.tick := by cases s; rfl
@[simp] theorem setPower_fe (f : Power → Power) (s : State) : (setPower f s).fe = s.fe := by cases s; rfl
@[simp] theorem setPower_mbx (f : Power → Power) (s : State) : (setPower f s).mbx = s.mbx := by cases s; rfl
@[simp] theorem setPower_tring (f : Power → Power) (s : State) : (setPower f s).tring = s.tring := by cases s; rfl
@[simp] theorem setPower_rring (f : Power → Power) (s : State) : (setPower f s).rring = s.rring := by cases s; rfl
@[simp] theorem setPower_fring (f : Power → Power) (s : State) : (setPower f s).fring = s.fring := by cases s; rfl
@[simp] theorem setPower_smb (f : Power → Power) (s : State) : (setPower f s).smb = s.smb := by cases s; rfl
@[simp] theorem setPower_seq (f : Power → Power) (s : State) : (setPower f s).seq = s.seq := by cases s; rfl
@[simp] theorem setPower_fm (f : Power → Power) (s : State) : (setPower f s).fm = s.fm := by cases s; rfl
@[simp] theorem setPower_dram (f : Power → Power) (s : State) : (setPower f s).dram = s.dram := by cases s; rfl
@[simp] theorem setPower_nv (f : Power → Power) (s : State) : (setPower f s).nv = s.nv := by cases s; rfl
@[simp] theorem setPower_kv (f : Power → Power) (s : State) : (setPower f s).kv = s.kv := by cases s; rfl
@[simp] theorem setPower_watch (f : Power → Power) (s : State) : (setPower f s).watch = s.watch := by cases s; rfl
@[simp] theorem setPower_links (f : Power → Power) (s : State) : (setPower f s).links = s.links := by cases s; rfl
@[simp] theorem setPower_bus (f : Power → Power) (s : State) : (setPower f s).bus = s.bus := by cases s; rfl
@[simp] theorem setPower_trust (f : Power → Power) (s : State) : (setPower f s).trust = s.trust := by cases s; rfl
@[simp] theorem setPower_power (f : Power → Power) (s : State) : (setPower f s).power = f s.power := by cases s; rfl
@[simp] theorem setPower_boot (f : Power → Power) (s : State) : (setPower f s).boot = s.boot := by cases s; rfl
@[simp] theorem setPower_ctr (f : Power → Power) (s : State) : (setPower f s).ctr = s.ctr := by cases s; rfl
@[simp] theorem setPower_host (f : Power → Power) (s : State) : (setPower f s).host = s.host := by cases s; rfl
@[simp] theorem setPower_free (f : Power → Power) (s : State) : (setPower f s).free = s.free := by cases s; rfl
@[simp] theorem setPower_pending (f : Power → Power) (s : State) : (setPower f s).pending = s.pending := by cases s; rfl

/-! ## setBoot -/

@[simp] theorem setBoot_part (f : Boot → Boot) (s : State) : (setBoot f s).part = s.part := by cases s; rfl
@[simp] theorem setBoot_tick (f : Boot → Boot) (s : State) : (setBoot f s).tick = s.tick := by cases s; rfl
@[simp] theorem setBoot_fe (f : Boot → Boot) (s : State) : (setBoot f s).fe = s.fe := by cases s; rfl
@[simp] theorem setBoot_mbx (f : Boot → Boot) (s : State) : (setBoot f s).mbx = s.mbx := by cases s; rfl
@[simp] theorem setBoot_tring (f : Boot → Boot) (s : State) : (setBoot f s).tring = s.tring := by cases s; rfl
@[simp] theorem setBoot_rring (f : Boot → Boot) (s : State) : (setBoot f s).rring = s.rring := by cases s; rfl
@[simp] theorem setBoot_fring (f : Boot → Boot) (s : State) : (setBoot f s).fring = s.fring := by cases s; rfl
@[simp] theorem setBoot_smb (f : Boot → Boot) (s : State) : (setBoot f s).smb = s.smb := by cases s; rfl
@[simp] theorem setBoot_seq (f : Boot → Boot) (s : State) : (setBoot f s).seq = s.seq := by cases s; rfl
@[simp] theorem setBoot_fm (f : Boot → Boot) (s : State) : (setBoot f s).fm = s.fm := by cases s; rfl
@[simp] theorem setBoot_dram (f : Boot → Boot) (s : State) : (setBoot f s).dram = s.dram := by cases s; rfl
@[simp] theorem setBoot_nv (f : Boot → Boot) (s : State) : (setBoot f s).nv = s.nv := by cases s; rfl
@[simp] theorem setBoot_kv (f : Boot → Boot) (s : State) : (setBoot f s).kv = s.kv := by cases s; rfl
@[simp] theorem setBoot_watch (f : Boot → Boot) (s : State) : (setBoot f s).watch = s.watch := by cases s; rfl
@[simp] theorem setBoot_links (f : Boot → Boot) (s : State) : (setBoot f s).links = s.links := by cases s; rfl
@[simp] theorem setBoot_bus (f : Boot → Boot) (s : State) : (setBoot f s).bus = s.bus := by cases s; rfl
@[simp] theorem setBoot_trust (f : Boot → Boot) (s : State) : (setBoot f s).trust = s.trust := by cases s; rfl
@[simp] theorem setBoot_power (f : Boot → Boot) (s : State) : (setBoot f s).power = s.power := by cases s; rfl
@[simp] theorem setBoot_boot (f : Boot → Boot) (s : State) : (setBoot f s).boot = f s.boot := by cases s; rfl
@[simp] theorem setBoot_ctr (f : Boot → Boot) (s : State) : (setBoot f s).ctr = s.ctr := by cases s; rfl
@[simp] theorem setBoot_host (f : Boot → Boot) (s : State) : (setBoot f s).host = s.host := by cases s; rfl
@[simp] theorem setBoot_free (f : Boot → Boot) (s : State) : (setBoot f s).free = s.free := by cases s; rfl
@[simp] theorem setBoot_pending (f : Boot → Boot) (s : State) : (setBoot f s).pending = s.pending := by cases s; rfl

/-! ## draw -/

@[simp] theorem draw_part (s : State) : (draw s).part = s.part := by cases s; rfl
@[simp] theorem draw_tick (s : State) : (draw s).tick = s.tick := by cases s; rfl
@[simp] theorem draw_fe (s : State) : (draw s).fe = s.fe := by cases s; rfl
@[simp] theorem draw_mbx (s : State) : (draw s).mbx = s.mbx := by cases s; rfl
@[simp] theorem draw_tring (s : State) : (draw s).tring = s.tring := by cases s; rfl
@[simp] theorem draw_rring (s : State) : (draw s).rring = s.rring := by cases s; rfl
@[simp] theorem draw_fring (s : State) : (draw s).fring = s.fring := by cases s; rfl
@[simp] theorem draw_smb (s : State) : (draw s).smb = s.smb := by cases s; rfl
@[simp] theorem draw_seq (s : State) : (draw s).seq = s.seq := by cases s; rfl
@[simp] theorem draw_fm (s : State) : (draw s).fm = s.fm := by cases s; rfl
@[simp] theorem draw_dram (s : State) : (draw s).dram = s.dram := by cases s; rfl
@[simp] theorem draw_nv (s : State) : (draw s).nv = s.nv := by cases s; rfl
@[simp] theorem draw_kv (s : State) : (draw s).kv = s.kv := by cases s; rfl
@[simp] theorem draw_watch (s : State) : (draw s).watch = s.watch := by cases s; rfl
@[simp] theorem draw_links (s : State) : (draw s).links = s.links := by cases s; rfl
@[simp] theorem draw_bus (s : State) : (draw s).bus = s.bus := by cases s; rfl
@[simp] theorem draw_trust (s : State) : (draw s).trust = s.trust := by cases s; rfl
@[simp] theorem draw_power (s : State) : (draw s).power = s.power := by cases s; rfl
@[simp] theorem draw_boot (s : State) : (draw s).boot = s.boot := by cases s; rfl
@[simp] theorem draw_ctr (s : State) : (draw s).ctr = s.ctr := by cases s; rfl
@[simp] theorem draw_host (s : State) : (draw s).host = s.host := by cases s; rfl
@[simp] theorem draw_pending (s : State) : (draw s).pending = s.pending := by cases s; rfl

/-! ## hostWrite -/

@[simp] theorem hostWrite_part (a : Nat) (bs : List Byte) (s : State) : (hostWrite a bs s).part = s.part := by cases s; rfl
@[simp] theorem hostWrite_tick (a : Nat) (bs : List Byte) (s : State) : (hostWrite a bs s).tick = s.tick := by cases s; rfl
@[simp] theorem hostWrite_fe (a : Nat) (bs : List Byte) (s : State) : (hostWrite a bs s).fe = s.fe := by cases s; rfl
@[simp] theorem hostWrite_mbx (a : Nat) (bs : List Byte) (s : State) : (hostWrite a bs s).mbx = s.mbx := by cases s; rfl
@[simp] theorem hostWrite_tring (a : Nat) (bs : List Byte) (s : State) : (hostWrite a bs s).tring = s.tring := by cases s; rfl
@[simp] theorem hostWrite_rring (a : Nat) (bs : List Byte) (s : State) : (hostWrite a bs s).rring = s.rring := by cases s; rfl
@[simp] theorem hostWrite_fring (a : Nat) (bs : List Byte) (s : State) : (hostWrite a bs s).fring = s.fring := by cases s; rfl
@[simp] theorem hostWrite_smb (a : Nat) (bs : List Byte) (s : State) : (hostWrite a bs s).smb = s.smb := by cases s; rfl
@[simp] theorem hostWrite_seq (a : Nat) (bs : List Byte) (s : State) : (hostWrite a bs s).seq = s.seq := by cases s; rfl
@[simp] theorem hostWrite_fm (a : Nat) (bs : List Byte) (s : State) : (hostWrite a bs s).fm = s.fm := by cases s; rfl
@[simp] theorem hostWrite_dram (a : Nat) (bs : List Byte) (s : State) : (hostWrite a bs s).dram = s.dram := by cases s; rfl
@[simp] theorem hostWrite_nv (a : Nat) (bs : List Byte) (s : State) : (hostWrite a bs s).nv = s.nv := by cases s; rfl
@[simp] theorem hostWrite_kv (a : Nat) (bs : List Byte) (s : State) : (hostWrite a bs s).kv = s.kv := by cases s; rfl
@[simp] theorem hostWrite_watch (a : Nat) (bs : List Byte) (s : State) : (hostWrite a bs s).watch = s.watch := by cases s; rfl
@[simp] theorem hostWrite_links (a : Nat) (bs : List Byte) (s : State) : (hostWrite a bs s).links = s.links := by cases s; rfl
@[simp] theorem hostWrite_bus (a : Nat) (bs : List Byte) (s : State) : (hostWrite a bs s).bus = s.bus := by cases s; rfl
@[simp] theorem hostWrite_trust (a : Nat) (bs : List Byte) (s : State) : (hostWrite a bs s).trust = s.trust := by cases s; rfl
@[simp] theorem hostWrite_power (a : Nat) (bs : List Byte) (s : State) : (hostWrite a bs s).power = s.power := by cases s; rfl
@[simp] theorem hostWrite_boot (a : Nat) (bs : List Byte) (s : State) : (hostWrite a bs s).boot = s.boot := by cases s; rfl
@[simp] theorem hostWrite_ctr (a : Nat) (bs : List Byte) (s : State) : (hostWrite a bs s).ctr = s.ctr := by cases s; rfl
@[simp] theorem hostWrite_free (a : Nat) (bs : List Byte) (s : State) : (hostWrite a bs s).free = s.free := by cases s; rfl
@[simp] theorem hostWrite_pending (a : Nat) (bs : List Byte) (s : State) : (hostWrite a bs s).pending = s.pending := by cases s; rfl

/-! ## ctrSet -/

@[simp] theorem ctrSet_part (off : Nat) (v : W32) (s : State) : (ctrSet off v s).part = s.part := by cases s; rfl
@[simp] theorem ctrSet_tick (off : Nat) (v : W32) (s : State) : (ctrSet off v s).tick = s.tick := by cases s; rfl
@[simp] theorem ctrSet_fe (off : Nat) (v : W32) (s : State) : (ctrSet off v s).fe = s.fe := by cases s; rfl
@[simp] theorem ctrSet_mbx (off : Nat) (v : W32) (s : State) : (ctrSet off v s).mbx = s.mbx := by cases s; rfl
@[simp] theorem ctrSet_tring (off : Nat) (v : W32) (s : State) : (ctrSet off v s).tring = s.tring := by cases s; rfl
@[simp] theorem ctrSet_rring (off : Nat) (v : W32) (s : State) : (ctrSet off v s).rring = s.rring := by cases s; rfl
@[simp] theorem ctrSet_fring (off : Nat) (v : W32) (s : State) : (ctrSet off v s).fring = s.fring := by cases s; rfl
@[simp] theorem ctrSet_smb (off : Nat) (v : W32) (s : State) : (ctrSet off v s).smb = s.smb := by cases s; rfl
@[simp] theorem ctrSet_seq (off : Nat) (v : W32) (s : State) : (ctrSet off v s).seq = s.seq := by cases s; rfl
@[simp] theorem ctrSet_fm (off : Nat) (v : W32) (s : State) : (ctrSet off v s).fm = s.fm := by cases s; rfl
@[simp] theorem ctrSet_dram (off : Nat) (v : W32) (s : State) : (ctrSet off v s).dram = s.dram := by cases s; rfl
@[simp] theorem ctrSet_nv (off : Nat) (v : W32) (s : State) : (ctrSet off v s).nv = s.nv := by cases s; rfl
@[simp] theorem ctrSet_kv (off : Nat) (v : W32) (s : State) : (ctrSet off v s).kv = s.kv := by cases s; rfl
@[simp] theorem ctrSet_watch (off : Nat) (v : W32) (s : State) : (ctrSet off v s).watch = s.watch := by cases s; rfl
@[simp] theorem ctrSet_links (off : Nat) (v : W32) (s : State) : (ctrSet off v s).links = s.links := by cases s; rfl
@[simp] theorem ctrSet_bus (off : Nat) (v : W32) (s : State) : (ctrSet off v s).bus = s.bus := by cases s; rfl
@[simp] theorem ctrSet_trust (off : Nat) (v : W32) (s : State) : (ctrSet off v s).trust = s.trust := by cases s; rfl
@[simp] theorem ctrSet_power (off : Nat) (v : W32) (s : State) : (ctrSet off v s).power = s.power := by cases s; rfl
@[simp] theorem ctrSet_boot (off : Nat) (v : W32) (s : State) : (ctrSet off v s).boot = s.boot := by cases s; rfl
@[simp] theorem ctrSet_host (off : Nat) (v : W32) (s : State) : (ctrSet off v s).host = s.host := by cases s; rfl
@[simp] theorem ctrSet_free (off : Nat) (v : W32) (s : State) : (ctrSet off v s).free = s.free := by cases s; rfl
@[simp] theorem ctrSet_pending (off : Nat) (v : W32) (s : State) : (ctrSet off v s).pending = s.pending := by cases s; rfl

/-! ## takeSlot -/

@[simp] theorem takeSlot_part (n : Nat) (s : State) : (takeSlot n s).part = s.part := setMbx_part _ s
@[simp] theorem takeSlot_tick (n : Nat) (s : State) : (takeSlot n s).tick = s.tick := setMbx_tick _ s
@[simp] theorem takeSlot_fe (n : Nat) (s : State) : (takeSlot n s).fe = s.fe := setMbx_fe _ s
@[simp] theorem takeSlot_tring (n : Nat) (s : State) : (takeSlot n s).tring = s.tring := setMbx_tring _ s
@[simp] theorem takeSlot_rring (n : Nat) (s : State) : (takeSlot n s).rring = s.rring := setMbx_rring _ s
@[simp] theorem takeSlot_fring (n : Nat) (s : State) : (takeSlot n s).fring = s.fring := setMbx_fring _ s
@[simp] theorem takeSlot_smb (n : Nat) (s : State) : (takeSlot n s).smb = s.smb := setMbx_smb _ s
@[simp] theorem takeSlot_seq (n : Nat) (s : State) : (takeSlot n s).seq = s.seq := setMbx_seq _ s
@[simp] theorem takeSlot_fm (n : Nat) (s : State) : (takeSlot n s).fm = s.fm := setMbx_fm _ s
@[simp] theorem takeSlot_dram (n : Nat) (s : State) : (takeSlot n s).dram = s.dram := setMbx_dram _ s
@[simp] theorem takeSlot_nv (n : Nat) (s : State) : (takeSlot n s).nv = s.nv := setMbx_nv _ s
@[simp] theorem takeSlot_kv (n : Nat) (s : State) : (takeSlot n s).kv = s.kv := setMbx_kv _ s
@[simp] theorem takeSlot_watch (n : Nat) (s : State) : (takeSlot n s).watch = s.watch := setMbx_watch _ s
@[simp] theorem takeSlot_links (n : Nat) (s : State) : (takeSlot n s).links = s.links := setMbx_links _ s
@[simp] theorem takeSlot_bus (n : Nat) (s : State) : (takeSlot n s).bus = s.bus := setMbx_bus _ s
@[simp] theorem takeSlot_trust (n : Nat) (s : State) : (takeSlot n s).trust = s.trust := setMbx_trust _ s
@[simp] theorem takeSlot_power (n : Nat) (s : State) : (takeSlot n s).power = s.power := setMbx_power _ s
@[simp] theorem takeSlot_boot (n : Nat) (s : State) : (takeSlot n s).boot = s.boot := setMbx_boot _ s
@[simp] theorem takeSlot_ctr (n : Nat) (s : State) : (takeSlot n s).ctr = s.ctr := setMbx_ctr _ s
@[simp] theorem takeSlot_host (n : Nat) (s : State) : (takeSlot n s).host = s.host := setMbx_host _ s
@[simp] theorem takeSlot_free (n : Nat) (s : State) : (takeSlot n s).free = s.free := setMbx_free _ s
@[simp] theorem takeSlot_pending (n : Nat) (s : State) : (takeSlot n s).pending = s.pending := setMbx_pending _ s

/-! ## complete -/

@[simp] theorem complete_part (op : Nat) (c : Cmd) (st : Status) (detail data respLen : Nat) (s : State) : (complete op c st detail data respLen s).part = s.part := setMbx_part _ s
@[simp] theorem complete_tick (op : Nat) (c : Cmd) (st : Status) (detail data respLen : Nat) (s : State) : (complete op c st detail data respLen s).tick = s.tick := setMbx_tick _ s
@[simp] theorem complete_fe (op : Nat) (c : Cmd) (st : Status) (detail data respLen : Nat) (s : State) : (complete op c st detail data respLen s).fe = s.fe := setMbx_fe _ s
@[simp] theorem complete_tring (op : Nat) (c : Cmd) (st : Status) (detail data respLen : Nat) (s : State) : (complete op c st detail data respLen s).tring = s.tring := setMbx_tring _ s
@[simp] theorem complete_rring (op : Nat) (c : Cmd) (st : Status) (detail data respLen : Nat) (s : State) : (complete op c st detail data respLen s).rring = s.rring := setMbx_rring _ s
@[simp] theorem complete_fring (op : Nat) (c : Cmd) (st : Status) (detail data respLen : Nat) (s : State) : (complete op c st detail data respLen s).fring = s.fring := setMbx_fring _ s
@[simp] theorem complete_smb (op : Nat) (c : Cmd) (st : Status) (detail data respLen : Nat) (s : State) : (complete op c st detail data respLen s).smb = s.smb := setMbx_smb _ s
@[simp] theorem complete_seq (op : Nat) (c : Cmd) (st : Status) (detail data respLen : Nat) (s : State) : (complete op c st detail data respLen s).seq = s.seq := setMbx_seq _ s
@[simp] theorem complete_fm (op : Nat) (c : Cmd) (st : Status) (detail data respLen : Nat) (s : State) : (complete op c st detail data respLen s).fm = s.fm := setMbx_fm _ s
@[simp] theorem complete_dram (op : Nat) (c : Cmd) (st : Status) (detail data respLen : Nat) (s : State) : (complete op c st detail data respLen s).dram = s.dram := setMbx_dram _ s
@[simp] theorem complete_nv (op : Nat) (c : Cmd) (st : Status) (detail data respLen : Nat) (s : State) : (complete op c st detail data respLen s).nv = s.nv := setMbx_nv _ s
@[simp] theorem complete_kv (op : Nat) (c : Cmd) (st : Status) (detail data respLen : Nat) (s : State) : (complete op c st detail data respLen s).kv = s.kv := setMbx_kv _ s
@[simp] theorem complete_watch (op : Nat) (c : Cmd) (st : Status) (detail data respLen : Nat) (s : State) : (complete op c st detail data respLen s).watch = s.watch := setMbx_watch _ s
@[simp] theorem complete_links (op : Nat) (c : Cmd) (st : Status) (detail data respLen : Nat) (s : State) : (complete op c st detail data respLen s).links = s.links := setMbx_links _ s
@[simp] theorem complete_bus (op : Nat) (c : Cmd) (st : Status) (detail data respLen : Nat) (s : State) : (complete op c st detail data respLen s).bus = s.bus := setMbx_bus _ s
@[simp] theorem complete_trust (op : Nat) (c : Cmd) (st : Status) (detail data respLen : Nat) (s : State) : (complete op c st detail data respLen s).trust = s.trust := setMbx_trust _ s
@[simp] theorem complete_power (op : Nat) (c : Cmd) (st : Status) (detail data respLen : Nat) (s : State) : (complete op c st detail data respLen s).power = s.power := setMbx_power _ s
@[simp] theorem complete_boot (op : Nat) (c : Cmd) (st : Status) (detail data respLen : Nat) (s : State) : (complete op c st detail data respLen s).boot = s.boot := setMbx_boot _ s
@[simp] theorem complete_ctr (op : Nat) (c : Cmd) (st : Status) (detail data respLen : Nat) (s : State) : (complete op c st detail data respLen s).ctr = s.ctr := setMbx_ctr _ s
@[simp] theorem complete_host (op : Nat) (c : Cmd) (st : Status) (detail data respLen : Nat) (s : State) : (complete op c st detail data respLen s).host = s.host := setMbx_host _ s
@[simp] theorem complete_free (op : Nat) (c : Cmd) (st : Status) (detail data respLen : Nat) (s : State) : (complete op c st detail data respLen s).free = s.free := setMbx_free _ s
@[simp] theorem complete_pending (op : Nat) (c : Cmd) (st : Status) (detail data respLen : Nat) (s : State) : (complete op c st detail data respLen s).pending = s.pending := setMbx_pending _ s

/-! ## completeOk -/

@[simp] theorem completeOk_part (op : Nat) (c : Cmd) (data : Nat) (s : State) : (completeOk op c data s).part = s.part := complete_part _ _ _ _ _ _ s
@[simp] theorem completeOk_tick (op : Nat) (c : Cmd) (data : Nat) (s : State) : (completeOk op c data s).tick = s.tick := complete_tick _ _ _ _ _ _ s
@[simp] theorem completeOk_fe (op : Nat) (c : Cmd) (data : Nat) (s : State) : (completeOk op c data s).fe = s.fe := complete_fe _ _ _ _ _ _ s
@[simp] theorem completeOk_tring (op : Nat) (c : Cmd) (data : Nat) (s : State) : (completeOk op c data s).tring = s.tring := complete_tring _ _ _ _ _ _ s
@[simp] theorem completeOk_rring (op : Nat) (c : Cmd) (data : Nat) (s : State) : (completeOk op c data s).rring = s.rring := complete_rring _ _ _ _ _ _ s
@[simp] theorem completeOk_fring (op : Nat) (c : Cmd) (data : Nat) (s : State) : (completeOk op c data s).fring = s.fring := complete_fring _ _ _ _ _ _ s
@[simp] theorem completeOk_smb (op : Nat) (c : Cmd) (data : Nat) (s : State) : (completeOk op c data s).smb = s.smb := complete_smb _ _ _ _ _ _ s
@[simp] theorem completeOk_seq (op : Nat) (c : Cmd) (data : Nat) (s : State) : (completeOk op c data s).seq = s.seq := complete_seq _ _ _ _ _ _ s
@[simp] theorem completeOk_fm (op : Nat) (c : Cmd) (data : Nat) (s : State) : (completeOk op c data s).fm = s.fm := complete_fm _ _ _ _ _ _ s
@[simp] theorem completeOk_dram (op : Nat) (c : Cmd) (data : Nat) (s : State) : (completeOk op c data s).dram = s.dram := complete_dram _ _ _ _ _ _ s
@[simp] theorem completeOk_nv (op : Nat) (c : Cmd) (data : Nat) (s : State) : (completeOk op c data s).nv = s.nv := complete_nv _ _ _ _ _ _ s
@[simp] theorem completeOk_kv (op : Nat) (c : Cmd) (data : Nat) (s : State) : (completeOk op c data s).kv = s.kv := complete_kv _ _ _ _ _ _ s
@[simp] theorem completeOk_watch (op : Nat) (c : Cmd) (data : Nat) (s : State) : (completeOk op c data s).watch = s.watch := complete_watch _ _ _ _ _ _ s
@[simp] theorem completeOk_links (op : Nat) (c : Cmd) (data : Nat) (s : State) : (completeOk op c data s).links = s.links := complete_links _ _ _ _ _ _ s
@[simp] theorem completeOk_bus (op : Nat) (c : Cmd) (data : Nat) (s : State) : (completeOk op c data s).bus = s.bus := complete_bus _ _ _ _ _ _ s
@[simp] theorem completeOk_trust (op : Nat) (c : Cmd) (data : Nat) (s : State) : (completeOk op c data s).trust = s.trust := complete_trust _ _ _ _ _ _ s
@[simp] theorem completeOk_power (op : Nat) (c : Cmd) (data : Nat) (s : State) : (completeOk op c data s).power = s.power := complete_power _ _ _ _ _ _ s
@[simp] theorem completeOk_boot (op : Nat) (c : Cmd) (data : Nat) (s : State) : (completeOk op c data s).boot = s.boot := complete_boot _ _ _ _ _ _ s
@[simp] theorem completeOk_ctr (op : Nat) (c : Cmd) (data : Nat) (s : State) : (completeOk op c data s).ctr = s.ctr := complete_ctr _ _ _ _ _ _ s
@[simp] theorem completeOk_host (op : Nat) (c : Cmd) (data : Nat) (s : State) : (completeOk op c data s).host = s.host := complete_host _ _ _ _ _ _ s
@[simp] theorem completeOk_free (op : Nat) (c : Cmd) (data : Nat) (s : State) : (completeOk op c data s).free = s.free := complete_free _ _ _ _ _ _ s
@[simp] theorem completeOk_pending (op : Nat) (c : Cmd) (data : Nat) (s : State) : (completeOk op c data s).pending = s.pending := complete_pending _ _ _ _ _ _ s

/-! ## fail -/

@[simp] theorem fail_part (op : Nat) (c : Cmd) (st : Status) (s : State) : (fail op c st s).part = s.part := complete_part _ _ _ _ _ _ s
@[simp] theorem fail_tick (op : Nat) (c : Cmd) (st : Status) (s : State) : (fail op c st s).tick = s.tick := complete_tick _ _ _ _ _ _ s
@[simp] theorem fail_fe (op : Nat) (c : Cmd) (st : Status) (s : State) : (fail op c st s).fe = s.fe := complete_fe _ _ _ _ _ _ s
@[simp] theorem fail_tring (op : Nat) (c : Cmd) (st : Status) (s : State) : (fail op c st s).tring = s.tring := complete_tring _ _ _ _ _ _ s
@[simp] theorem fail_rring (op : Nat) (c : Cmd) (st : Status) (s : State) : (fail op c st s).rring = s.rring := complete_rring _ _ _ _ _ _ s
@[simp] theorem fail_fring (op : Nat) (c : Cmd) (st : Status) (s : State) : (fail op c st s).fring = s.fring := complete_fring _ _ _ _ _ _ s
@[simp] theorem fail_smb (op : Nat) (c : Cmd) (st : Status) (s : State) : (fail op c st s).smb = s.smb := complete_smb _ _ _ _ _ _ s
@[simp] theorem fail_seq (op : Nat) (c : Cmd) (st : Status) (s : State) : (fail op c st s).seq = s.seq := complete_seq _ _ _ _ _ _ s
@[simp] theorem fail_fm (op : Nat) (c : Cmd) (st : Status) (s : State) : (fail op c st s).fm = s.fm := complete_fm _ _ _ _ _ _ s
@[simp] theorem fail_dram (op : Nat) (c : Cmd) (st : Status) (s : State) : (fail op c st s).dram = s.dram := complete_dram _ _ _ _ _ _ s
@[simp] theorem fail_nv (op : Nat) (c : Cmd) (st : Status) (s : State) : (fail op c st s).nv = s.nv := complete_nv _ _ _ _ _ _ s
@[simp] theorem fail_kv (op : Nat) (c : Cmd) (st : Status) (s : State) : (fail op c st s).kv = s.kv := complete_kv _ _ _ _ _ _ s
@[simp] theorem fail_watch (op : Nat) (c : Cmd) (st : Status) (s : State) : (fail op c st s).watch = s.watch := complete_watch _ _ _ _ _ _ s
@[simp] theorem fail_links (op : Nat) (c : Cmd) (st : Status) (s : State) : (fail op c st s).links = s.links := complete_links _ _ _ _ _ _ s
@[simp] theorem fail_bus (op : Nat) (c : Cmd) (st : Status) (s : State) : (fail op c st s).bus = s.bus := complete_bus _ _ _ _ _ _ s
@[simp] theorem fail_trust (op : Nat) (c : Cmd) (st : Status) (s : State) : (fail op c st s).trust = s.trust := complete_trust _ _ _ _ _ _ s
@[simp] theorem fail_power (op : Nat) (c : Cmd) (st : Status) (s : State) : (fail op c st s).power = s.power := complete_power _ _ _ _ _ _ s
@[simp] theorem fail_boot (op : Nat) (c : Cmd) (st : Status) (s : State) : (fail op c st s).boot = s.boot := complete_boot _ _ _ _ _ _ s
@[simp] theorem fail_ctr (op : Nat) (c : Cmd) (st : Status) (s : State) : (fail op c st s).ctr = s.ctr := complete_ctr _ _ _ _ _ _ s
@[simp] theorem fail_host (op : Nat) (c : Cmd) (st : Status) (s : State) : (fail op c st s).host = s.host := complete_host _ _ _ _ _ _ s
@[simp] theorem fail_free (op : Nat) (c : Cmd) (st : Status) (s : State) : (fail op c st s).free = s.free := complete_free _ _ _ _ _ _ s
@[simp] theorem fail_pending (op : Nat) (c : Cmd) (st : Status) (s : State) : (fail op c st s).pending = s.pending := complete_pending _ _ _ _ _ _ s

/-! ## respond -/

@[simp] theorem respond_part (op : Nat) (c : Cmd) (bs : List Byte) (data : Nat) (s : State) : (respond op c bs data s).part = s.part := by simp only [respond, complete_part, setMbx_part]
@[simp] theorem respond_tick (op : Nat) (c : Cmd) (bs : List Byte) (data : Nat) (s : State) : (respond op c bs data s).tick = s.tick := by simp only [respond, complete_tick, setMbx_tick]
@[simp] theorem respond_fe (op : Nat) (c : Cmd) (bs : List Byte) (data : Nat) (s : State) : (respond op c bs data s).fe = s.fe := by simp only [respond, complete_fe, setMbx_fe]
@[simp] theorem respond_tring (op : Nat) (c : Cmd) (bs : List Byte) (data : Nat) (s : State) : (respond op c bs data s).tring = s.tring := by simp only [respond, complete_tring, setMbx_tring]
@[simp] theorem respond_rring (op : Nat) (c : Cmd) (bs : List Byte) (data : Nat) (s : State) : (respond op c bs data s).rring = s.rring := by simp only [respond, complete_rring, setMbx_rring]
@[simp] theorem respond_fring (op : Nat) (c : Cmd) (bs : List Byte) (data : Nat) (s : State) : (respond op c bs data s).fring = s.fring := by simp only [respond, complete_fring, setMbx_fring]
@[simp] theorem respond_smb (op : Nat) (c : Cmd) (bs : List Byte) (data : Nat) (s : State) : (respond op c bs data s).smb = s.smb := by simp only [respond, complete_smb, setMbx_smb]
@[simp] theorem respond_seq (op : Nat) (c : Cmd) (bs : List Byte) (data : Nat) (s : State) : (respond op c bs data s).seq = s.seq := by simp only [respond, complete_seq, setMbx_seq]
@[simp] theorem respond_fm (op : Nat) (c : Cmd) (bs : List Byte) (data : Nat) (s : State) : (respond op c bs data s).fm = s.fm := by simp only [respond, complete_fm, setMbx_fm]
@[simp] theorem respond_dram (op : Nat) (c : Cmd) (bs : List Byte) (data : Nat) (s : State) : (respond op c bs data s).dram = s.dram := by simp only [respond, complete_dram, setMbx_dram]
@[simp] theorem respond_nv (op : Nat) (c : Cmd) (bs : List Byte) (data : Nat) (s : State) : (respond op c bs data s).nv = s.nv := by simp only [respond, complete_nv, setMbx_nv]
@[simp] theorem respond_kv (op : Nat) (c : Cmd) (bs : List Byte) (data : Nat) (s : State) : (respond op c bs data s).kv = s.kv := by simp only [respond, complete_kv, setMbx_kv]
@[simp] theorem respond_watch (op : Nat) (c : Cmd) (bs : List Byte) (data : Nat) (s : State) : (respond op c bs data s).watch = s.watch := by simp only [respond, complete_watch, setMbx_watch]
@[simp] theorem respond_links (op : Nat) (c : Cmd) (bs : List Byte) (data : Nat) (s : State) : (respond op c bs data s).links = s.links := by simp only [respond, complete_links, setMbx_links]
@[simp] theorem respond_bus (op : Nat) (c : Cmd) (bs : List Byte) (data : Nat) (s : State) : (respond op c bs data s).bus = s.bus := by simp only [respond, complete_bus, setMbx_bus]
@[simp] theorem respond_trust (op : Nat) (c : Cmd) (bs : List Byte) (data : Nat) (s : State) : (respond op c bs data s).trust = s.trust := by simp only [respond, complete_trust, setMbx_trust]
@[simp] theorem respond_power (op : Nat) (c : Cmd) (bs : List Byte) (data : Nat) (s : State) : (respond op c bs data s).power = s.power := by simp only [respond, complete_power, setMbx_power]
@[simp] theorem respond_boot (op : Nat) (c : Cmd) (bs : List Byte) (data : Nat) (s : State) : (respond op c bs data s).boot = s.boot := by simp only [respond, complete_boot, setMbx_boot]
@[simp] theorem respond_ctr (op : Nat) (c : Cmd) (bs : List Byte) (data : Nat) (s : State) : (respond op c bs data s).ctr = s.ctr := by simp only [respond, complete_ctr, setMbx_ctr]
@[simp] theorem respond_host (op : Nat) (c : Cmd) (bs : List Byte) (data : Nat) (s : State) : (respond op c bs data s).host = s.host := by simp only [respond, complete_host, setMbx_host]
@[simp] theorem respond_free (op : Nat) (c : Cmd) (bs : List Byte) (data : Nat) (s : State) : (respond op c bs data s).free = s.free := by simp only [respond, complete_free, setMbx_free]
@[simp] theorem respond_pending (op : Nat) (c : Cmd) (bs : List Byte) (data : Nat) (s : State) : (respond op c bs data s).pending = s.pending := by simp only [respond, complete_pending, setMbx_pending]

/-! ## waitFor -/

@[simp] theorem waitFor_part (op : Nat) (c : Cmd) (a : PendAct) (s : State) : (waitFor op c a s).part = s.part := setMbx_part _ s
@[simp] theorem waitFor_tick (op : Nat) (c : Cmd) (a : PendAct) (s : State) : (waitFor op c a s).tick = s.tick := setMbx_tick _ s
@[simp] theorem waitFor_fe (op : Nat) (c : Cmd) (a : PendAct) (s : State) : (waitFor op c a s).fe = s.fe := setMbx_fe _ s
@[simp] theorem waitFor_tring (op : Nat) (c : Cmd) (a : PendAct) (s : State) : (waitFor op c a s).tring = s.tring := setMbx_tring _ s
@[simp] theorem waitFor_rring (op : Nat) (c : Cmd) (a : PendAct) (s : State) : (waitFor op c a s).rring = s.rring := setMbx_rring _ s
@[simp] theorem waitFor_fring (op : Nat) (c : Cmd) (a : PendAct) (s : State) : (waitFor op c a s).fring = s.fring := setMbx_fring _ s
@[simp] theorem waitFor_smb (op : Nat) (c : Cmd) (a : PendAct) (s : State) : (waitFor op c a s).smb = s.smb := setMbx_smb _ s
@[simp] theorem waitFor_seq (op : Nat) (c : Cmd) (a : PendAct) (s : State) : (waitFor op c a s).seq = s.seq := setMbx_seq _ s
@[simp] theorem waitFor_fm (op : Nat) (c : Cmd) (a : PendAct) (s : State) : (waitFor op c a s).fm = s.fm := setMbx_fm _ s
@[simp] theorem waitFor_dram (op : Nat) (c : Cmd) (a : PendAct) (s : State) : (waitFor op c a s).dram = s.dram := setMbx_dram _ s
@[simp] theorem waitFor_nv (op : Nat) (c : Cmd) (a : PendAct) (s : State) : (waitFor op c a s).nv = s.nv := setMbx_nv _ s
@[simp] theorem waitFor_kv (op : Nat) (c : Cmd) (a : PendAct) (s : State) : (waitFor op c a s).kv = s.kv := setMbx_kv _ s
@[simp] theorem waitFor_watch (op : Nat) (c : Cmd) (a : PendAct) (s : State) : (waitFor op c a s).watch = s.watch := setMbx_watch _ s
@[simp] theorem waitFor_links (op : Nat) (c : Cmd) (a : PendAct) (s : State) : (waitFor op c a s).links = s.links := setMbx_links _ s
@[simp] theorem waitFor_bus (op : Nat) (c : Cmd) (a : PendAct) (s : State) : (waitFor op c a s).bus = s.bus := setMbx_bus _ s
@[simp] theorem waitFor_trust (op : Nat) (c : Cmd) (a : PendAct) (s : State) : (waitFor op c a s).trust = s.trust := setMbx_trust _ s
@[simp] theorem waitFor_power (op : Nat) (c : Cmd) (a : PendAct) (s : State) : (waitFor op c a s).power = s.power := setMbx_power _ s
@[simp] theorem waitFor_boot (op : Nat) (c : Cmd) (a : PendAct) (s : State) : (waitFor op c a s).boot = s.boot := setMbx_boot _ s
@[simp] theorem waitFor_ctr (op : Nat) (c : Cmd) (a : PendAct) (s : State) : (waitFor op c a s).ctr = s.ctr := setMbx_ctr _ s
@[simp] theorem waitFor_host (op : Nat) (c : Cmd) (a : PendAct) (s : State) : (waitFor op c a s).host = s.host := setMbx_host _ s
@[simp] theorem waitFor_free (op : Nat) (c : Cmd) (a : PendAct) (s : State) : (waitFor op c a s).free = s.free := setMbx_free _ s
@[simp] theorem waitFor_pending (op : Nat) (c : Cmd) (a : PendAct) (s : State) : (waitFor op c a s).pending = s.pending := setMbx_pending _ s

/-! ## polderSet -/

@[simp] theorem polderSet_part (p : Nat) (st : PolderSt) (s : State) : (polderSet p st s).part = s.part := setPower_part _ s
@[simp] theorem polderSet_tick (p : Nat) (st : PolderSt) (s : State) : (polderSet p st s).tick = s.tick := setPower_tick _ s
@[simp] theorem polderSet_fe (p : Nat) (st : PolderSt) (s : State) : (polderSet p st s).fe = s.fe := setPower_fe _ s
@[simp] theorem polderSet_mbx (p : Nat) (st : PolderSt) (s : State) : (polderSet p st s).mbx = s.mbx := setPower_mbx _ s
@[simp] theorem polderSet_tring (p : Nat) (st : PolderSt) (s : State) : (polderSet p st s).tring = s.tring := setPower_tring _ s
@[simp] theorem polderSet_rring (p : Nat) (st : PolderSt) (s : State) : (polderSet p st s).rring = s.rring := setPower_rring _ s
@[simp] theorem polderSet_fring (p : Nat) (st : PolderSt) (s : State) : (polderSet p st s).fring = s.fring := setPower_fring _ s
@[simp] theorem polderSet_smb (p : Nat) (st : PolderSt) (s : State) : (polderSet p st s).smb = s.smb := setPower_smb _ s
@[simp] theorem polderSet_seq (p : Nat) (st : PolderSt) (s : State) : (polderSet p st s).seq = s.seq := setPower_seq _ s
@[simp] theorem polderSet_fm (p : Nat) (st : PolderSt) (s : State) : (polderSet p st s).fm = s.fm := setPower_fm _ s
@[simp] theorem polderSet_dram (p : Nat) (st : PolderSt) (s : State) : (polderSet p st s).dram = s.dram := setPower_dram _ s
@[simp] theorem polderSet_nv (p : Nat) (st : PolderSt) (s : State) : (polderSet p st s).nv = s.nv := setPower_nv _ s
@[simp] theorem polderSet_kv (p : Nat) (st : PolderSt) (s : State) : (polderSet p st s).kv = s.kv := setPower_kv _ s
@[simp] theorem polderSet_watch (p : Nat) (st : PolderSt) (s : State) : (polderSet p st s).watch = s.watch := setPower_watch _ s
@[simp] theorem polderSet_links (p : Nat) (st : PolderSt) (s : State) : (polderSet p st s).links = s.links := setPower_links _ s
@[simp] theorem polderSet_bus (p : Nat) (st : PolderSt) (s : State) : (polderSet p st s).bus = s.bus := setPower_bus _ s
@[simp] theorem polderSet_trust (p : Nat) (st : PolderSt) (s : State) : (polderSet p st s).trust = s.trust := setPower_trust _ s
@[simp] theorem polderSet_boot (p : Nat) (st : PolderSt) (s : State) : (polderSet p st s).boot = s.boot := setPower_boot _ s
@[simp] theorem polderSet_ctr (p : Nat) (st : PolderSt) (s : State) : (polderSet p st s).ctr = s.ctr := setPower_ctr _ s
@[simp] theorem polderSet_host (p : Nat) (st : PolderSt) (s : State) : (polderSet p st s).host = s.host := setPower_host _ s
@[simp] theorem polderSet_free (p : Nat) (st : PolderSt) (s : State) : (polderSet p st s).free = s.free := setPower_free _ s
@[simp] theorem polderSet_pending (p : Nat) (st : PolderSt) (s : State) : (polderSet p st s).pending = s.pending := setPower_pending _ s

/-! ## smbCopy -/

@[simp] theorem smbCopy_part (s : State) : (smbCopy s).part = s.part := setSmb_part _ s
@[simp] theorem smbCopy_tick (s : State) : (smbCopy s).tick = s.tick := setSmb_tick _ s
@[simp] theorem smbCopy_fe (s : State) : (smbCopy s).fe = s.fe := setSmb_fe _ s
@[simp] theorem smbCopy_mbx (s : State) : (smbCopy s).mbx = s.mbx := setSmb_mbx _ s
@[simp] theorem smbCopy_tring (s : State) : (smbCopy s).tring = s.tring := setSmb_tring _ s
@[simp] theorem smbCopy_rring (s : State) : (smbCopy s).rring = s.rring := setSmb_rring _ s
@[simp] theorem smbCopy_fring (s : State) : (smbCopy s).fring = s.fring := setSmb_fring _ s
@[simp] theorem smbCopy_seq (s : State) : (smbCopy s).seq = s.seq := setSmb_seq _ s
@[simp] theorem smbCopy_fm (s : State) : (smbCopy s).fm = s.fm := setSmb_fm _ s
@[simp] theorem smbCopy_dram (s : State) : (smbCopy s).dram = s.dram := setSmb_dram _ s
@[simp] theorem smbCopy_nv (s : State) : (smbCopy s).nv = s.nv := setSmb_nv _ s
@[simp] theorem smbCopy_kv (s : State) : (smbCopy s).kv = s.kv := setSmb_kv _ s
@[simp] theorem smbCopy_watch (s : State) : (smbCopy s).watch = s.watch := setSmb_watch _ s
@[simp] theorem smbCopy_links (s : State) : (smbCopy s).links = s.links := setSmb_links _ s
@[simp] theorem smbCopy_bus (s : State) : (smbCopy s).bus = s.bus := setSmb_bus _ s
@[simp] theorem smbCopy_trust (s : State) : (smbCopy s).trust = s.trust := setSmb_trust _ s
@[simp] theorem smbCopy_power (s : State) : (smbCopy s).power = s.power := setSmb_power _ s
@[simp] theorem smbCopy_boot (s : State) : (smbCopy s).boot = s.boot := setSmb_boot _ s
@[simp] theorem smbCopy_ctr (s : State) : (smbCopy s).ctr = s.ctr := setSmb_ctr _ s
@[simp] theorem smbCopy_host (s : State) : (smbCopy s).host = s.host := setSmb_host _ s
@[simp] theorem smbCopy_free (s : State) : (smbCopy s).free = s.free := setSmb_free _ s
@[simp] theorem smbCopy_pending (s : State) : (smbCopy s).pending = s.pending := setSmb_pending _ s

/-! ## msixSend -/

@[simp] theorem msixSend_part (v : Nat) (s : State) : (msixSend v s).part = s.part := by unfold msixSend; rfl
@[simp] theorem msixSend_tick (v : Nat) (s : State) : (msixSend v s).tick = s.tick := by unfold msixSend; rfl
@[simp] theorem msixSend_fe (v : Nat) (s : State) : (msixSend v s).fe = s.fe := by unfold msixSend; rfl
@[simp] theorem msixSend_tring (v : Nat) (s : State) : (msixSend v s).tring = s.tring := by unfold msixSend; rfl
@[simp] theorem msixSend_rring (v : Nat) (s : State) : (msixSend v s).rring = s.rring := by unfold msixSend; rfl
@[simp] theorem msixSend_fring (v : Nat) (s : State) : (msixSend v s).fring = s.fring := by unfold msixSend; rfl
@[simp] theorem msixSend_smb (v : Nat) (s : State) : (msixSend v s).smb = s.smb := by unfold msixSend; rfl
@[simp] theorem msixSend_seq (v : Nat) (s : State) : (msixSend v s).seq = s.seq := by unfold msixSend; rfl
@[simp] theorem msixSend_fm (v : Nat) (s : State) : (msixSend v s).fm = s.fm := by unfold msixSend; rfl
@[simp] theorem msixSend_dram (v : Nat) (s : State) : (msixSend v s).dram = s.dram := by unfold msixSend; rfl
@[simp] theorem msixSend_nv (v : Nat) (s : State) : (msixSend v s).nv = s.nv := by unfold msixSend; rfl
@[simp] theorem msixSend_kv (v : Nat) (s : State) : (msixSend v s).kv = s.kv := by unfold msixSend; rfl
@[simp] theorem msixSend_watch (v : Nat) (s : State) : (msixSend v s).watch = s.watch := by unfold msixSend; rfl
@[simp] theorem msixSend_links (v : Nat) (s : State) : (msixSend v s).links = s.links := by unfold msixSend; rfl
@[simp] theorem msixSend_bus (v : Nat) (s : State) : (msixSend v s).bus = s.bus := by unfold msixSend; rfl
@[simp] theorem msixSend_trust (v : Nat) (s : State) : (msixSend v s).trust = s.trust := by unfold msixSend; rfl
@[simp] theorem msixSend_power (v : Nat) (s : State) : (msixSend v s).power = s.power := by unfold msixSend; rfl
@[simp] theorem msixSend_boot (v : Nat) (s : State) : (msixSend v s).boot = s.boot := by unfold msixSend; rfl
@[simp] theorem msixSend_ctr (v : Nat) (s : State) : (msixSend v s).ctr = s.ctr := by unfold msixSend; rfl
@[simp] theorem msixSend_host (v : Nat) (s : State) : (msixSend v s).host = s.host := by unfold msixSend; rfl
@[simp] theorem msixSend_free (v : Nat) (s : State) : (msixSend v s).free = s.free := by unfold msixSend; rfl
@[simp] theorem msixSend_pending (v : Nat) (s : State) : (msixSend v s).pending = s.pending := by unfold msixSend; rfl

/-! ## raiseInt -/

@[simp] theorem raiseInt_part (b : Nat) (s : State) : (raiseInt b s).part = s.part := by simp only [raiseInt, apply_ite State.part, ite_self, msixSend_part]
@[simp] theorem raiseInt_tick (b : Nat) (s : State) : (raiseInt b s).tick = s.tick := by simp only [raiseInt, apply_ite State.tick, ite_self, msixSend_tick]
@[simp] theorem raiseInt_fe (b : Nat) (s : State) : (raiseInt b s).fe = s.fe := by simp only [raiseInt, apply_ite State.fe, ite_self, msixSend_fe]
@[simp] theorem raiseInt_tring (b : Nat) (s : State) : (raiseInt b s).tring = s.tring := by simp only [raiseInt, apply_ite State.tring, ite_self, msixSend_tring]
@[simp] theorem raiseInt_rring (b : Nat) (s : State) : (raiseInt b s).rring = s.rring := by simp only [raiseInt, apply_ite State.rring, ite_self, msixSend_rring]
@[simp] theorem raiseInt_fring (b : Nat) (s : State) : (raiseInt b s).fring = s.fring := by simp only [raiseInt, apply_ite State.fring, ite_self, msixSend_fring]
@[simp] theorem raiseInt_smb (b : Nat) (s : State) : (raiseInt b s).smb = s.smb := by simp only [raiseInt, apply_ite State.smb, ite_self, msixSend_smb]
@[simp] theorem raiseInt_seq (b : Nat) (s : State) : (raiseInt b s).seq = s.seq := by simp only [raiseInt, apply_ite State.seq, ite_self, msixSend_seq]
@[simp] theorem raiseInt_fm (b : Nat) (s : State) : (raiseInt b s).fm = s.fm := by simp only [raiseInt, apply_ite State.fm, ite_self, msixSend_fm]
@[simp] theorem raiseInt_dram (b : Nat) (s : State) : (raiseInt b s).dram = s.dram := by simp only [raiseInt, apply_ite State.dram, ite_self, msixSend_dram]
@[simp] theorem raiseInt_nv (b : Nat) (s : State) : (raiseInt b s).nv = s.nv := by simp only [raiseInt, apply_ite State.nv, ite_self, msixSend_nv]
@[simp] theorem raiseInt_kv (b : Nat) (s : State) : (raiseInt b s).kv = s.kv := by simp only [raiseInt, apply_ite State.kv, ite_self, msixSend_kv]
@[simp] theorem raiseInt_watch (b : Nat) (s : State) : (raiseInt b s).watch = s.watch := by simp only [raiseInt, apply_ite State.watch, ite_self, msixSend_watch]
@[simp] theorem raiseInt_links (b : Nat) (s : State) : (raiseInt b s).links = s.links := by simp only [raiseInt, apply_ite State.links, ite_self, msixSend_links]
@[simp] theorem raiseInt_bus (b : Nat) (s : State) : (raiseInt b s).bus = s.bus := by simp only [raiseInt, apply_ite State.bus, ite_self, msixSend_bus]
@[simp] theorem raiseInt_trust (b : Nat) (s : State) : (raiseInt b s).trust = s.trust := by simp only [raiseInt, apply_ite State.trust, ite_self, msixSend_trust]
@[simp] theorem raiseInt_power (b : Nat) (s : State) : (raiseInt b s).power = s.power := by simp only [raiseInt, apply_ite State.power, ite_self, msixSend_power]
@[simp] theorem raiseInt_boot (b : Nat) (s : State) : (raiseInt b s).boot = s.boot := by simp only [raiseInt, apply_ite State.boot, ite_self, msixSend_boot]
@[simp] theorem raiseInt_ctr (b : Nat) (s : State) : (raiseInt b s).ctr = s.ctr := by simp only [raiseInt, apply_ite State.ctr, ite_self, msixSend_ctr]
@[simp] theorem raiseInt_host (b : Nat) (s : State) : (raiseInt b s).host = s.host := by simp only [raiseInt, apply_ite State.host, ite_self, msixSend_host]
@[simp] theorem raiseInt_free (b : Nat) (s : State) : (raiseInt b s).free = s.free := by simp only [raiseInt, apply_ite State.free, ite_self, msixSend_free]
@[simp] theorem raiseInt_pending (b : Nat) (s : State) : (raiseInt b s).pending = s.pending := by simp only [raiseInt, apply_ite State.pending, ite_self, msixSend_pending]

/-! ## raiseErr -/

@[simp] theorem raiseErr_part (b : Nat) (s : State) : (raiseErr b s).part = s.part := by simp only [raiseErr, apply_ite State.part, ite_self, raiseInt_part]
@[simp] theorem raiseErr_tick (b : Nat) (s : State) : (raiseErr b s).tick = s.tick := by simp only [raiseErr, apply_ite State.tick, ite_self, raiseInt_tick]
@[simp] theorem raiseErr_fe (b : Nat) (s : State) : (raiseErr b s).fe = s.fe := by simp only [raiseErr, apply_ite State.fe, ite_self, raiseInt_fe]
@[simp] theorem raiseErr_tring (b : Nat) (s : State) : (raiseErr b s).tring = s.tring := by simp only [raiseErr, apply_ite State.tring, ite_self, raiseInt_tring]
@[simp] theorem raiseErr_rring (b : Nat) (s : State) : (raiseErr b s).rring = s.rring := by simp only [raiseErr, apply_ite State.rring, ite_self, raiseInt_rring]
@[simp] theorem raiseErr_fring (b : Nat) (s : State) : (raiseErr b s).fring = s.fring := by simp only [raiseErr, apply_ite State.fring, ite_self, raiseInt_fring]
@[simp] theorem raiseErr_smb (b : Nat) (s : State) : (raiseErr b s).smb = s.smb := by simp only [raiseErr, apply_ite State.smb, ite_self, raiseInt_smb]
@[simp] theorem raiseErr_seq (b : Nat) (s : State) : (raiseErr b s).seq = s.seq := by simp only [raiseErr, apply_ite State.seq, ite_self, raiseInt_seq]
@[simp] theorem raiseErr_fm (b : Nat) (s : State) : (raiseErr b s).fm = s.fm := by simp only [raiseErr, apply_ite State.fm, ite_self, raiseInt_fm]
@[simp] theorem raiseErr_dram (b : Nat) (s : State) : (raiseErr b s).dram = s.dram := by simp only [raiseErr, apply_ite State.dram, ite_self, raiseInt_dram]
@[simp] theorem raiseErr_nv (b : Nat) (s : State) : (raiseErr b s).nv = s.nv := by simp only [raiseErr, apply_ite State.nv, ite_self, raiseInt_nv]
@[simp] theorem raiseErr_kv (b : Nat) (s : State) : (raiseErr b s).kv = s.kv := by simp only [raiseErr, apply_ite State.kv, ite_self, raiseInt_kv]
@[simp] theorem raiseErr_watch (b : Nat) (s : State) : (raiseErr b s).watch = s.watch := by simp only [raiseErr, apply_ite State.watch, ite_self, raiseInt_watch]
@[simp] theorem raiseErr_links (b : Nat) (s : State) : (raiseErr b s).links = s.links := by simp only [raiseErr, apply_ite State.links, ite_self, raiseInt_links]
@[simp] theorem raiseErr_bus (b : Nat) (s : State) : (raiseErr b s).bus = s.bus := by simp only [raiseErr, apply_ite State.bus, ite_self, raiseInt_bus]
@[simp] theorem raiseErr_trust (b : Nat) (s : State) : (raiseErr b s).trust = s.trust := by simp only [raiseErr, apply_ite State.trust, ite_self, raiseInt_trust]
@[simp] theorem raiseErr_power (b : Nat) (s : State) : (raiseErr b s).power = s.power := by simp only [raiseErr, apply_ite State.power, ite_self, raiseInt_power]
@[simp] theorem raiseErr_boot (b : Nat) (s : State) : (raiseErr b s).boot = s.boot := by simp only [raiseErr, apply_ite State.boot, ite_self, raiseInt_boot]
@[simp] theorem raiseErr_ctr (b : Nat) (s : State) : (raiseErr b s).ctr = s.ctr := by simp only [raiseErr, apply_ite State.ctr, ite_self, raiseInt_ctr]
@[simp] theorem raiseErr_host (b : Nat) (s : State) : (raiseErr b s).host = s.host := by simp only [raiseErr, apply_ite State.host, ite_self, raiseInt_host]
@[simp] theorem raiseErr_free (b : Nat) (s : State) : (raiseErr b s).free = s.free := by simp only [raiseErr, apply_ite State.free, ite_self, raiseInt_free]
@[simp] theorem raiseErr_pending (b : Nat) (s : State) : (raiseErr b s).pending = s.pending := by simp only [raiseErr, apply_ite State.pending, ite_self, raiseInt_pending]

/-! ## bumpBy -/

@[simp] theorem bumpBy_part (off n : Nat) (s : State) : (bumpBy off n s).part = s.part := by
  unfold bumpBy; split
  · rfl
  · dsimp only; split <;> simp only [raiseErr_part, ctrSet_part]
@[simp] theorem bumpBy_tick (off n : Nat) (s : State) : (bumpBy off n s).tick = s.tick := by
  unfold bumpBy; split
  · rfl
  · dsimp only; split <;> simp only [raiseErr_tick, ctrSet_tick]
@[simp] theorem bumpBy_fe (off n : Nat) (s : State) : (bumpBy off n s).fe = s.fe := by
  unfold bumpBy; split
  · rfl
  · dsimp only; split <;> simp only [raiseErr_fe, ctrSet_fe]
@[simp] theorem bumpBy_tring (off n : Nat) (s : State) : (bumpBy off n s).tring = s.tring := by
  unfold bumpBy; split
  · rfl
  · dsimp only; split <;> simp only [raiseErr_tring, ctrSet_tring]
@[simp] theorem bumpBy_rring (off n : Nat) (s : State) : (bumpBy off n s).rring = s.rring := by
  unfold bumpBy; split
  · rfl
  · dsimp only; split <;> simp only [raiseErr_rring, ctrSet_rring]
@[simp] theorem bumpBy_fring (off n : Nat) (s : State) : (bumpBy off n s).fring = s.fring := by
  unfold bumpBy; split
  · rfl
  · dsimp only; split <;> simp only [raiseErr_fring, ctrSet_fring]
@[simp] theorem bumpBy_smb (off n : Nat) (s : State) : (bumpBy off n s).smb = s.smb := by
  unfold bumpBy; split
  · rfl
  · dsimp only; split <;> simp only [raiseErr_smb, ctrSet_smb]
@[simp] theorem bumpBy_seq (off n : Nat) (s : State) : (bumpBy off n s).seq = s.seq := by
  unfold bumpBy; split
  · rfl
  · dsimp only; split <;> simp only [raiseErr_seq, ctrSet_seq]
@[simp] theorem bumpBy_fm (off n : Nat) (s : State) : (bumpBy off n s).fm = s.fm := by
  unfold bumpBy; split
  · rfl
  · dsimp only; split <;> simp only [raiseErr_fm, ctrSet_fm]
@[simp] theorem bumpBy_dram (off n : Nat) (s : State) : (bumpBy off n s).dram = s.dram := by
  unfold bumpBy; split
  · rfl
  · dsimp only; split <;> simp only [raiseErr_dram, ctrSet_dram]
@[simp] theorem bumpBy_nv (off n : Nat) (s : State) : (bumpBy off n s).nv = s.nv := by
  unfold bumpBy; split
  · rfl
  · dsimp only; split <;> simp only [raiseErr_nv, ctrSet_nv]
@[simp] theorem bumpBy_kv (off n : Nat) (s : State) : (bumpBy off n s).kv = s.kv := by
  unfold bumpBy; split
  · rfl
  · dsimp only; split <;> simp only [raiseErr_kv, ctrSet_kv]
@[simp] theorem bumpBy_watch (off n : Nat) (s : State) : (bumpBy off n s).watch = s.watch := by
  unfold bumpBy; split
  · rfl
  · dsimp only; split <;> simp only [raiseErr_watch, ctrSet_watch]
@[simp] theorem bumpBy_links (off n : Nat) (s : State) : (bumpBy off n s).links = s.links := by
  unfold bumpBy; split
  · rfl
  · dsimp only; split <;> simp only [raiseErr_links, ctrSet_links]
@[simp] theorem bumpBy_bus (off n : Nat) (s : State) : (bumpBy off n s).bus = s.bus := by
  unfold bumpBy; split
  · rfl
  · dsimp only; split <;> simp only [raiseErr_bus, ctrSet_bus]
@[simp] theorem bumpBy_trust (off n : Nat) (s : State) : (bumpBy off n s).trust = s.trust := by
  unfold bumpBy; split
  · rfl
  · dsimp only; split <;> simp only [raiseErr_trust, ctrSet_trust]
@[simp] theorem bumpBy_power (off n : Nat) (s : State) : (bumpBy off n s).power = s.power := by
  unfold bumpBy; split
  · rfl
  · dsimp only; split <;> simp only [raiseErr_power, ctrSet_power]
@[simp] theorem bumpBy_boot (off n : Nat) (s : State) : (bumpBy off n s).boot = s.boot := by
  unfold bumpBy; split
  · rfl
  · dsimp only; split <;> simp only [raiseErr_boot, ctrSet_boot]
@[simp] theorem bumpBy_host (off n : Nat) (s : State) : (bumpBy off n s).host = s.host := by
  unfold bumpBy; split
  · rfl
  · dsimp only; split <;> simp only [raiseErr_host, ctrSet_host]
@[simp] theorem bumpBy_free (off n : Nat) (s : State) : (bumpBy off n s).free = s.free := by
  unfold bumpBy; split
  · rfl
  · dsimp only; split <;> simp only [raiseErr_free, ctrSet_free]
@[simp] theorem bumpBy_pending (off n : Nat) (s : State) : (bumpBy off n s).pending = s.pending := by
  unfold bumpBy; split
  · rfl
  · dsimp only; split <;> simp only [raiseErr_pending, ctrSet_pending]

/-! ## bump -/

@[simp] theorem bump_part (off : Nat) (s : State) : (bump off s).part = s.part := by simp only [bump, bumpBy_part]
@[simp] theorem bump_tick (off : Nat) (s : State) : (bump off s).tick = s.tick := by simp only [bump, bumpBy_tick]
@[simp] theorem bump_fe (off : Nat) (s : State) : (bump off s).fe = s.fe := by simp only [bump, bumpBy_fe]
@[simp] theorem bump_tring (off : Nat) (s : State) : (bump off s).tring = s.tring := by simp only [bump, bumpBy_tring]
@[simp] theorem bump_rring (off : Nat) (s : State) : (bump off s).rring = s.rring := by simp only [bump, bumpBy_rring]
@[simp] theorem bump_fring (off : Nat) (s : State) : (bump off s).fring = s.fring := by simp only [bump, bumpBy_fring]
@[simp] theorem bump_smb (off : Nat) (s : State) : (bump off s).smb = s.smb := by simp only [bump, bumpBy_smb]
@[simp] theorem bump_seq (off : Nat) (s : State) : (bump off s).seq = s.seq := by simp only [bump, bumpBy_seq]
@[simp] theorem bump_fm (off : Nat) (s : State) : (bump off s).fm = s.fm := by simp only [bump, bumpBy_fm]
@[simp] theorem bump_dram (off : Nat) (s : State) : (bump off s).dram = s.dram := by simp only [bump, bumpBy_dram]
@[simp] theorem bump_nv (off : Nat) (s : State) : (bump off s).nv = s.nv := by simp only [bump, bumpBy_nv]
@[simp] theorem bump_kv (off : Nat) (s : State) : (bump off s).kv = s.kv := by simp only [bump, bumpBy_kv]
@[simp] theorem bump_watch (off : Nat) (s : State) : (bump off s).watch = s.watch := by simp only [bump, bumpBy_watch]
@[simp] theorem bump_links (off : Nat) (s : State) : (bump off s).links = s.links := by simp only [bump, bumpBy_links]
@[simp] theorem bump_bus (off : Nat) (s : State) : (bump off s).bus = s.bus := by simp only [bump, bumpBy_bus]
@[simp] theorem bump_trust (off : Nat) (s : State) : (bump off s).trust = s.trust := by simp only [bump, bumpBy_trust]
@[simp] theorem bump_power (off : Nat) (s : State) : (bump off s).power = s.power := by simp only [bump, bumpBy_power]
@[simp] theorem bump_boot (off : Nat) (s : State) : (bump off s).boot = s.boot := by simp only [bump, bumpBy_boot]
@[simp] theorem bump_host (off : Nat) (s : State) : (bump off s).host = s.host := by simp only [bump, bumpBy_host]
@[simp] theorem bump_free (off : Nat) (s : State) : (bump off s).free = s.free := by simp only [bump, bumpBy_free]
@[simp] theorem bump_pending (off : Nat) (s : State) : (bump off s).pending = s.pending := by simp only [bump, bumpBy_pending]

/-! ## logEvent -/

@[simp] theorem logEvent_part (code src arg arg2 : Nat) (s : State) : (logEvent code src arg arg2 s).part = s.part := by simp only [logEvent, apply_ite State.part, ite_self, raiseInt_part, bump_part]
@[simp] theorem logEvent_tick (code src arg arg2 : Nat) (s : State) : (logEvent code src arg arg2 s).tick = s.tick := by simp only [logEvent, apply_ite State.tick, ite_self, raiseInt_tick, bump_tick]
@[simp] theorem logEvent_fe (code src arg arg2 : Nat) (s : State) : (logEvent code src arg arg2 s).fe = s.fe := by simp only [logEvent, apply_ite State.fe, ite_self, raiseInt_fe, bump_fe]
@[simp] theorem logEvent_tring (code src arg arg2 : Nat) (s : State) : (logEvent code src arg arg2 s).tring = s.tring := by simp only [logEvent, apply_ite State.tring, ite_self, raiseInt_tring, bump_tring]
@[simp] theorem logEvent_rring (code src arg arg2 : Nat) (s : State) : (logEvent code src arg arg2 s).rring = s.rring := by simp only [logEvent, apply_ite State.rring, ite_self, raiseInt_rring, bump_rring]
@[simp] theorem logEvent_fring (code src arg arg2 : Nat) (s : State) : (logEvent code src arg arg2 s).fring = s.fring := by simp only [logEvent, apply_ite State.fring, ite_self, raiseInt_fring, bump_fring]
@[simp] theorem logEvent_smb (code src arg arg2 : Nat) (s : State) : (logEvent code src arg arg2 s).smb = s.smb := by simp only [logEvent, apply_ite State.smb, ite_self, raiseInt_smb, bump_smb]
@[simp] theorem logEvent_seq (code src arg arg2 : Nat) (s : State) : (logEvent code src arg arg2 s).seq = s.seq := by simp only [logEvent, apply_ite State.seq, ite_self, raiseInt_seq, bump_seq]
@[simp] theorem logEvent_fm (code src arg arg2 : Nat) (s : State) : (logEvent code src arg arg2 s).fm = s.fm := by simp only [logEvent, apply_ite State.fm, ite_self, raiseInt_fm, bump_fm]
@[simp] theorem logEvent_dram (code src arg arg2 : Nat) (s : State) : (logEvent code src arg arg2 s).dram = s.dram := by simp only [logEvent, apply_ite State.dram, ite_self, raiseInt_dram, bump_dram]
@[simp] theorem logEvent_kv (code src arg arg2 : Nat) (s : State) : (logEvent code src arg arg2 s).kv = s.kv := by simp only [logEvent, apply_ite State.kv, ite_self, raiseInt_kv, bump_kv]
@[simp] theorem logEvent_watch (code src arg arg2 : Nat) (s : State) : (logEvent code src arg arg2 s).watch = s.watch := by simp only [logEvent, apply_ite State.watch, ite_self, raiseInt_watch, bump_watch]
@[simp] theorem logEvent_links (code src arg arg2 : Nat) (s : State) : (logEvent code src arg arg2 s).links = s.links := by simp only [logEvent, apply_ite State.links, ite_self, raiseInt_links, bump_links]
@[simp] theorem logEvent_bus (code src arg arg2 : Nat) (s : State) : (logEvent code src arg arg2 s).bus = s.bus := by simp only [logEvent, apply_ite State.bus, ite_self, raiseInt_bus, bump_bus]
@[simp] theorem logEvent_trust (code src arg arg2 : Nat) (s : State) : (logEvent code src arg arg2 s).trust = s.trust := by simp only [logEvent, apply_ite State.trust, ite_self, raiseInt_trust, bump_trust]
@[simp] theorem logEvent_power (code src arg arg2 : Nat) (s : State) : (logEvent code src arg arg2 s).power = s.power := by simp only [logEvent, apply_ite State.power, ite_self, raiseInt_power, bump_power]
@[simp] theorem logEvent_host (code src arg arg2 : Nat) (s : State) : (logEvent code src arg arg2 s).host = s.host := by simp only [logEvent, apply_ite State.host, ite_self, raiseInt_host, bump_host]
@[simp] theorem logEvent_free (code src arg arg2 : Nat) (s : State) : (logEvent code src arg arg2 s).free = s.free := by simp only [logEvent, apply_ite State.free, ite_self, raiseInt_free, bump_free]
@[simp] theorem logEvent_pending (code src arg arg2 : Nat) (s : State) : (logEvent code src arg arg2 s).pending = s.pending := by simp only [logEvent, apply_ite State.pending, ite_self, raiseInt_pending, bump_pending]

/-! ## setStage -/

@[simp] theorem setStage_part (st : Stage) (s : State) : (setStage st s).part = s.part := by simp only [setStage, apply_ite State.part, ite_self, smbCopy_part, raiseInt_part, setBoot_part]
@[simp] theorem setStage_tick (st : Stage) (s : State) : (setStage st s).tick = s.tick := by simp only [setStage, apply_ite State.tick, ite_self, smbCopy_tick, raiseInt_tick, setBoot_tick]
@[simp] theorem setStage_fe (st : Stage) (s : State) : (setStage st s).fe = s.fe := by simp only [setStage, apply_ite State.fe, ite_self, smbCopy_fe, raiseInt_fe, setBoot_fe]
@[simp] theorem setStage_tring (st : Stage) (s : State) : (setStage st s).tring = s.tring := by simp only [setStage, apply_ite State.tring, ite_self, smbCopy_tring, raiseInt_tring, setBoot_tring]
@[simp] theorem setStage_rring (st : Stage) (s : State) : (setStage st s).rring = s.rring := by simp only [setStage, apply_ite State.rring, ite_self, smbCopy_rring, raiseInt_rring, setBoot_rring]
@[simp] theorem setStage_fring (st : Stage) (s : State) : (setStage st s).fring = s.fring := by simp only [setStage, apply_ite State.fring, ite_self, smbCopy_fring, raiseInt_fring, setBoot_fring]
@[simp] theorem setStage_seq (st : Stage) (s : State) : (setStage st s).seq = s.seq := by simp only [setStage, apply_ite State.seq, ite_self, smbCopy_seq, raiseInt_seq, setBoot_seq]
@[simp] theorem setStage_fm (st : Stage) (s : State) : (setStage st s).fm = s.fm := by simp only [setStage, apply_ite State.fm, ite_self, smbCopy_fm, raiseInt_fm, setBoot_fm]
@[simp] theorem setStage_dram (st : Stage) (s : State) : (setStage st s).dram = s.dram := by simp only [setStage, apply_ite State.dram, ite_self, smbCopy_dram, raiseInt_dram, setBoot_dram]
@[simp] theorem setStage_nv (st : Stage) (s : State) : (setStage st s).nv = s.nv := by simp only [setStage, apply_ite State.nv, ite_self, smbCopy_nv, raiseInt_nv, setBoot_nv]
@[simp] theorem setStage_kv (st : Stage) (s : State) : (setStage st s).kv = s.kv := by simp only [setStage, apply_ite State.kv, ite_self, smbCopy_kv, raiseInt_kv, setBoot_kv]
@[simp] theorem setStage_watch (st : Stage) (s : State) : (setStage st s).watch = s.watch := by simp only [setStage, apply_ite State.watch, ite_self, smbCopy_watch, raiseInt_watch, setBoot_watch]
@[simp] theorem setStage_links (st : Stage) (s : State) : (setStage st s).links = s.links := by simp only [setStage, apply_ite State.links, ite_self, smbCopy_links, raiseInt_links, setBoot_links]
@[simp] theorem setStage_bus (st : Stage) (s : State) : (setStage st s).bus = s.bus := by simp only [setStage, apply_ite State.bus, ite_self, smbCopy_bus, raiseInt_bus, setBoot_bus]
@[simp] theorem setStage_trust (st : Stage) (s : State) : (setStage st s).trust = s.trust := by simp only [setStage, apply_ite State.trust, ite_self, smbCopy_trust, raiseInt_trust, setBoot_trust]
@[simp] theorem setStage_power (st : Stage) (s : State) : (setStage st s).power = s.power := by simp only [setStage, apply_ite State.power, ite_self, smbCopy_power, raiseInt_power, setBoot_power]
@[simp] theorem setStage_ctr (st : Stage) (s : State) : (setStage st s).ctr = s.ctr := by simp only [setStage, apply_ite State.ctr, ite_self, smbCopy_ctr, raiseInt_ctr, setBoot_ctr]
@[simp] theorem setStage_host (st : Stage) (s : State) : (setStage st s).host = s.host := by simp only [setStage, apply_ite State.host, ite_self, smbCopy_host, raiseInt_host, setBoot_host]
@[simp] theorem setStage_free (st : Stage) (s : State) : (setStage st s).free = s.free := by simp only [setStage, apply_ite State.free, ite_self, smbCopy_free, raiseInt_free, setBoot_free]
@[simp] theorem setStage_pending (st : Stage) (s : State) : (setStage st s).pending = s.pending := by simp only [setStage, apply_ite State.pending, ite_self, smbCopy_pending, raiseInt_pending, setBoot_pending]

/-! ## requestPolder -/

@[simp] theorem requestPolder_part (p : Nat) (s : State) : (requestPolder p s).part = s.part := by
  simp only [requestPolder]; split
  · simp only [setPower_part]
  · split <;> simp only [abandonDrain, polderSet_part, apply_ite State.part, setPower_part, ite_self]
@[simp] theorem requestPolder_tick (p : Nat) (s : State) : (requestPolder p s).tick = s.tick := by
  simp only [requestPolder]; split
  · simp only [setPower_tick]
  · split <;> simp only [abandonDrain, polderSet_tick, apply_ite State.tick, setPower_tick, ite_self]
@[simp] theorem requestPolder_fe (p : Nat) (s : State) : (requestPolder p s).fe = s.fe := by
  simp only [requestPolder]; split
  · simp only [setPower_fe]
  · split <;> simp only [abandonDrain, polderSet_fe, apply_ite State.fe, setPower_fe, ite_self]
@[simp] theorem requestPolder_mbx (p : Nat) (s : State) : (requestPolder p s).mbx = s.mbx := by
  simp only [requestPolder]; split
  · simp only [setPower_mbx]
  · split <;> simp only [abandonDrain, polderSet_mbx, apply_ite State.mbx, setPower_mbx, ite_self]
@[simp] theorem requestPolder_tring (p : Nat) (s : State) : (requestPolder p s).tring = s.tring := by
  simp only [requestPolder]; split
  · simp only [setPower_tring]
  · split <;> simp only [abandonDrain, polderSet_tring, apply_ite State.tring, setPower_tring, ite_self]
@[simp] theorem requestPolder_rring (p : Nat) (s : State) : (requestPolder p s).rring = s.rring := by
  simp only [requestPolder]; split
  · simp only [setPower_rring]
  · split <;> simp only [abandonDrain, polderSet_rring, apply_ite State.rring, setPower_rring, ite_self]
@[simp] theorem requestPolder_fring (p : Nat) (s : State) : (requestPolder p s).fring = s.fring := by
  simp only [requestPolder]; split
  · simp only [setPower_fring]
  · split <;> simp only [abandonDrain, polderSet_fring, apply_ite State.fring, setPower_fring, ite_self]
@[simp] theorem requestPolder_smb (p : Nat) (s : State) : (requestPolder p s).smb = s.smb := by
  simp only [requestPolder]; split
  · simp only [setPower_smb]
  · split <;> simp only [abandonDrain, polderSet_smb, apply_ite State.smb, setPower_smb, ite_self]
@[simp] theorem requestPolder_seq (p : Nat) (s : State) : (requestPolder p s).seq = s.seq := by
  simp only [requestPolder]; split
  · simp only [setPower_seq]
  · split <;> simp only [abandonDrain, polderSet_seq, apply_ite State.seq, setPower_seq, ite_self]
@[simp] theorem requestPolder_fm (p : Nat) (s : State) : (requestPolder p s).fm = s.fm := by
  simp only [requestPolder]; split
  · simp only [setPower_fm]
  · split <;> simp only [abandonDrain, polderSet_fm, apply_ite State.fm, setPower_fm, ite_self]
@[simp] theorem requestPolder_dram (p : Nat) (s : State) : (requestPolder p s).dram = s.dram := by
  simp only [requestPolder]; split
  · simp only [setPower_dram]
  · split <;> simp only [abandonDrain, polderSet_dram, apply_ite State.dram, setPower_dram, ite_self]
@[simp] theorem requestPolder_nv (p : Nat) (s : State) : (requestPolder p s).nv = s.nv := by
  simp only [requestPolder]; split
  · simp only [setPower_nv]
  · split <;> simp only [abandonDrain, polderSet_nv, apply_ite State.nv, setPower_nv, ite_self]
@[simp] theorem requestPolder_kv (p : Nat) (s : State) : (requestPolder p s).kv = s.kv := by
  simp only [requestPolder]; split
  · simp only [setPower_kv]
  · split <;> simp only [abandonDrain, polderSet_kv, apply_ite State.kv, setPower_kv, ite_self]
@[simp] theorem requestPolder_watch (p : Nat) (s : State) : (requestPolder p s).watch = s.watch := by
  simp only [requestPolder]; split
  · simp only [setPower_watch]
  · split <;> simp only [abandonDrain, polderSet_watch, apply_ite State.watch, setPower_watch, ite_self]
@[simp] theorem requestPolder_links (p : Nat) (s : State) : (requestPolder p s).links = s.links := by
  simp only [requestPolder]; split
  · simp only [setPower_links]
  · split <;> simp only [abandonDrain, polderSet_links, apply_ite State.links, setPower_links, ite_self]
@[simp] theorem requestPolder_bus (p : Nat) (s : State) : (requestPolder p s).bus = s.bus := by
  simp only [requestPolder]; split
  · simp only [setPower_bus]
  · split <;> simp only [abandonDrain, polderSet_bus, apply_ite State.bus, setPower_bus, ite_self]
@[simp] theorem requestPolder_trust (p : Nat) (s : State) : (requestPolder p s).trust = s.trust := by
  simp only [requestPolder]; split
  · simp only [setPower_trust]
  · split <;> simp only [abandonDrain, polderSet_trust, apply_ite State.trust, setPower_trust, ite_self]
@[simp] theorem requestPolder_boot (p : Nat) (s : State) : (requestPolder p s).boot = s.boot := by
  simp only [requestPolder]; split
  · simp only [setPower_boot]
  · split <;> simp only [abandonDrain, polderSet_boot, apply_ite State.boot, setPower_boot, ite_self]
@[simp] theorem requestPolder_ctr (p : Nat) (s : State) : (requestPolder p s).ctr = s.ctr := by
  simp only [requestPolder]; split
  · simp only [setPower_ctr]
  · split <;> simp only [abandonDrain, polderSet_ctr, apply_ite State.ctr, setPower_ctr, ite_self]
@[simp] theorem requestPolder_host (p : Nat) (s : State) : (requestPolder p s).host = s.host := by
  simp only [requestPolder]; split
  · simp only [setPower_host]
  · split <;> simp only [abandonDrain, polderSet_host, apply_ite State.host, setPower_host, ite_self]
@[simp] theorem requestPolder_free (p : Nat) (s : State) : (requestPolder p s).free = s.free := by
  simp only [requestPolder]; split
  · simp only [setPower_free]
  · split <;> simp only [abandonDrain, polderSet_free, apply_ite State.free, setPower_free, ite_self]
@[simp] theorem requestPolder_pending (p : Nat) (s : State) : (requestPolder p s).pending = s.pending := by
  simp only [requestPolder]; split
  · simp only [setPower_pending]
  · split <;> simp only [abandonDrain, polderSet_pending, apply_ite State.pending, setPower_pending, ite_self]

/-! ## needDram -/

@[simp] theorem needDram_part (s : State) : (needDram s).part = s.part := by simp only [needDram, apply_ite State.part, ite_self, requestPolder_part]
@[simp] theorem needDram_tick (s : State) : (needDram s).tick = s.tick := by simp only [needDram, apply_ite State.tick, ite_self, requestPolder_tick]
@[simp] theorem needDram_fe (s : State) : (needDram s).fe = s.fe := by simp only [needDram, apply_ite State.fe, ite_self, requestPolder_fe]
@[simp] theorem needDram_mbx (s : State) : (needDram s).mbx = s.mbx := by simp only [needDram, apply_ite State.mbx, ite_self, requestPolder_mbx]
@[simp] theorem needDram_tring (s : State) : (needDram s).tring = s.tring := by simp only [needDram, apply_ite State.tring, ite_self, requestPolder_tring]
@[simp] theorem needDram_rring (s : State) : (needDram s).rring = s.rring := by simp only [needDram, apply_ite State.rring, ite_self, requestPolder_rring]
@[simp] theorem needDram_fring (s : State) : (needDram s).fring = s.fring := by simp only [needDram, apply_ite State.fring, ite_self, requestPolder_fring]
@[simp] theorem needDram_smb (s : State) : (needDram s).smb = s.smb := by simp only [needDram, apply_ite State.smb, ite_self, requestPolder_smb]
@[simp] theorem needDram_seq (s : State) : (needDram s).seq = s.seq := by simp only [needDram, apply_ite State.seq, ite_self, requestPolder_seq]
@[simp] theorem needDram_fm (s : State) : (needDram s).fm = s.fm := by simp only [needDram, apply_ite State.fm, ite_self, requestPolder_fm]
@[simp] theorem needDram_dram (s : State) : (needDram s).dram = s.dram := by simp only [needDram, apply_ite State.dram, ite_self, requestPolder_dram]
@[simp] theorem needDram_nv (s : State) : (needDram s).nv = s.nv := by simp only [needDram, apply_ite State.nv, ite_self, requestPolder_nv]
@[simp] theorem needDram_kv (s : State) : (needDram s).kv = s.kv := by simp only [needDram, apply_ite State.kv, ite_self, requestPolder_kv]
@[simp] theorem needDram_watch (s : State) : (needDram s).watch = s.watch := by simp only [needDram, apply_ite State.watch, ite_self, requestPolder_watch]
@[simp] theorem needDram_links (s : State) : (needDram s).links = s.links := by simp only [needDram, apply_ite State.links, ite_self, requestPolder_links]
@[simp] theorem needDram_bus (s : State) : (needDram s).bus = s.bus := by simp only [needDram, apply_ite State.bus, ite_self, requestPolder_bus]
@[simp] theorem needDram_trust (s : State) : (needDram s).trust = s.trust := by simp only [needDram, apply_ite State.trust, ite_self, requestPolder_trust]
@[simp] theorem needDram_boot (s : State) : (needDram s).boot = s.boot := by simp only [needDram, apply_ite State.boot, ite_self, requestPolder_boot]
@[simp] theorem needDram_ctr (s : State) : (needDram s).ctr = s.ctr := by simp only [needDram, apply_ite State.ctr, ite_self, requestPolder_ctr]
@[simp] theorem needDram_host (s : State) : (needDram s).host = s.host := by simp only [needDram, apply_ite State.host, ite_self, requestPolder_host]
@[simp] theorem needDram_free (s : State) : (needDram s).free = s.free := by simp only [needDram, apply_ite State.free, ite_self, requestPolder_free]
@[simp] theorem needDram_pending (s : State) : (needDram s).pending = s.pending := by simp only [needDram, apply_ite State.pending, ite_self, requestPolder_pending]

/-- The waits of a kind complete in one pass: what `finish` leaves. -/
theorem foldl_complete (d : Nat) (st : Status) (ws : List Wait) (s : State) :
    ws.foldl (fun t w => complete w.opcode w.cmd st 0 d 0 t) s =
      setMbx (fun m => { m with due := m.due ++ ws.map fun w =>
        { slot := w.cmd.slot % 64, cookie := w.cmd.cookie, opcode := w.opcode, quiet := w.cmd.quiet, status := st,
          data := BitVec.ofNat 256 d } }) s := by
  induction ws generalizing s with
  | nil => simp [setMbx]
  | cons w t ih => rw [List.foldl_cons, ih]; simp [complete, setMbx]

/-- `finish` as one update of the mailbox. -/
theorem finish_eq (p : PendAct → Bool) (st : Status) (d : Nat) (s : State) :
    finish p st d s = setMbx (fun m => { m with
      waits := m.waits.filter fun w => !p w.act
      due := m.due ++ (m.waits.filter fun w => p w.act).map fun w =>
        { slot := w.cmd.slot % 64, cookie := w.cmd.cookie, opcode := w.opcode, quiet := w.cmd.quiet, status := st,
          data := BitVec.ofNat 256 d } }) s := by
  simp [finish, foldl_complete, setMbx]

@[simp] theorem finish_part (p : PendAct → Bool) (st : Status) (d : Nat) (s : State) : (finish p st d s).part = s.part := by simp [finish_eq]
@[simp] theorem finish_tick (p : PendAct → Bool) (st : Status) (d : Nat) (s : State) : (finish p st d s).tick = s.tick := by simp [finish_eq]
@[simp] theorem finish_fe (p : PendAct → Bool) (st : Status) (d : Nat) (s : State) : (finish p st d s).fe = s.fe := by simp [finish_eq]
@[simp] theorem finish_tring (p : PendAct → Bool) (st : Status) (d : Nat) (s : State) : (finish p st d s).tring = s.tring := by simp [finish_eq]
@[simp] theorem finish_rring (p : PendAct → Bool) (st : Status) (d : Nat) (s : State) : (finish p st d s).rring = s.rring := by simp [finish_eq]
@[simp] theorem finish_fring (p : PendAct → Bool) (st : Status) (d : Nat) (s : State) : (finish p st d s).fring = s.fring := by simp [finish_eq]
@[simp] theorem finish_smb (p : PendAct → Bool) (st : Status) (d : Nat) (s : State) : (finish p st d s).smb = s.smb := by simp [finish_eq]
@[simp] theorem finish_seq (p : PendAct → Bool) (st : Status) (d : Nat) (s : State) : (finish p st d s).seq = s.seq := by simp [finish_eq]
@[simp] theorem finish_fm (p : PendAct → Bool) (st : Status) (d : Nat) (s : State) : (finish p st d s).fm = s.fm := by simp [finish_eq]
@[simp] theorem finish_dram (p : PendAct → Bool) (st : Status) (d : Nat) (s : State) : (finish p st d s).dram = s.dram := by simp [finish_eq]
@[simp] theorem finish_nv (p : PendAct → Bool) (st : Status) (d : Nat) (s : State) : (finish p st d s).nv = s.nv := by simp [finish_eq]
@[simp] theorem finish_kv (p : PendAct → Bool) (st : Status) (d : Nat) (s : State) : (finish p st d s).kv = s.kv := by simp [finish_eq]
@[simp] theorem finish_watch (p : PendAct → Bool) (st : Status) (d : Nat) (s : State) : (finish p st d s).watch = s.watch := by simp [finish_eq]
@[simp] theorem finish_links (p : PendAct → Bool) (st : Status) (d : Nat) (s : State) : (finish p st d s).links = s.links := by simp [finish_eq]
@[simp] theorem finish_bus (p : PendAct → Bool) (st : Status) (d : Nat) (s : State) : (finish p st d s).bus = s.bus := by simp [finish_eq]
@[simp] theorem finish_trust (p : PendAct → Bool) (st : Status) (d : Nat) (s : State) : (finish p st d s).trust = s.trust := by simp [finish_eq]
@[simp] theorem finish_power (p : PendAct → Bool) (st : Status) (d : Nat) (s : State) : (finish p st d s).power = s.power := by simp [finish_eq]
@[simp] theorem finish_boot (p : PendAct → Bool) (st : Status) (d : Nat) (s : State) : (finish p st d s).boot = s.boot := by simp [finish_eq]
@[simp] theorem finish_ctr (p : PendAct → Bool) (st : Status) (d : Nat) (s : State) : (finish p st d s).ctr = s.ctr := by simp [finish_eq]
@[simp] theorem finish_host (p : PendAct → Bool) (st : Status) (d : Nat) (s : State) : (finish p st d s).host = s.host := by simp [finish_eq]
@[simp] theorem finish_free (p : PendAct → Bool) (st : Status) (d : Nat) (s : State) : (finish p st d s).free = s.free := by simp [finish_eq]
@[simp] theorem finish_pending (p : PendAct → Bool) (st : Status) (d : Nat) (s : State) : (finish p st d s).pending = s.pending := by simp [finish_eq]
@[simp] theorem finishFirst_part (p : PendAct → Bool) (st : Status) (d : Nat) (s : State) : (finishFirst p st d s).part = s.part := by
  unfold finishFirst; split <;> simp
@[simp] theorem finishFirst_tick (p : PendAct → Bool) (st : Status) (d : Nat) (s : State) : (finishFirst p st d s).tick = s.tick := by
  unfold finishFirst; split <;> simp
@[simp] theorem finishFirst_fe (p : PendAct → Bool) (st : Status) (d : Nat) (s : State) : (finishFirst p st d s).fe = s.fe := by
  unfold finishFirst; split <;> simp
@[simp] theorem finishFirst_tring (p : PendAct → Bool) (st : Status) (d : Nat) (s : State) : (finishFirst p st d s).tring = s.tring := by
  unfold finishFirst; split <;> simp
@[simp] theorem finishFirst_rring (p : PendAct → Bool) (st : Status) (d : Nat) (s : State) : (finishFirst p st d s).rring = s.rring := by
  unfold finishFirst; split <;> simp
@[simp] theorem finishFirst_fring (p : PendAct → Bool) (st : Status) (d : Nat) (s : State) : (finishFirst p st d s).fring = s.fring := by
  unfold finishFirst; split <;> simp
@[simp] theorem finishFirst_smb (p : PendAct → Bool) (st : Status) (d : Nat) (s : State) : (finishFirst p st d s).smb = s.smb := by
  unfold finishFirst; split <;> simp
@[simp] theorem finishFirst_seq (p : PendAct → Bool) (st : Status) (d : Nat) (s : State) : (finishFirst p st d s).seq = s.seq := by
  unfold finishFirst; split <;> simp
@[simp] theorem finishFirst_fm (p : PendAct → Bool) (st : Status) (d : Nat) (s : State) : (finishFirst p st d s).fm = s.fm := by
  unfold finishFirst; split <;> simp
@[simp] theorem finishFirst_dram (p : PendAct → Bool) (st : Status) (d : Nat) (s : State) : (finishFirst p st d s).dram = s.dram := by
  unfold finishFirst; split <;> simp
@[simp] theorem finishFirst_nv (p : PendAct → Bool) (st : Status) (d : Nat) (s : State) : (finishFirst p st d s).nv = s.nv := by
  unfold finishFirst; split <;> simp
@[simp] theorem finishFirst_kv (p : PendAct → Bool) (st : Status) (d : Nat) (s : State) : (finishFirst p st d s).kv = s.kv := by
  unfold finishFirst; split <;> simp
@[simp] theorem finishFirst_watch (p : PendAct → Bool) (st : Status) (d : Nat) (s : State) : (finishFirst p st d s).watch = s.watch := by
  unfold finishFirst; split <;> simp
@[simp] theorem finishFirst_links (p : PendAct → Bool) (st : Status) (d : Nat) (s : State) : (finishFirst p st d s).links = s.links := by
  unfold finishFirst; split <;> simp
@[simp] theorem finishFirst_bus (p : PendAct → Bool) (st : Status) (d : Nat) (s : State) : (finishFirst p st d s).bus = s.bus := by
  unfold finishFirst; split <;> simp
@[simp] theorem finishFirst_trust (p : PendAct → Bool) (st : Status) (d : Nat) (s : State) : (finishFirst p st d s).trust = s.trust := by
  unfold finishFirst; split <;> simp
@[simp] theorem finishFirst_power (p : PendAct → Bool) (st : Status) (d : Nat) (s : State) : (finishFirst p st d s).power = s.power := by
  unfold finishFirst; split <;> simp
@[simp] theorem finishFirst_boot (p : PendAct → Bool) (st : Status) (d : Nat) (s : State) : (finishFirst p st d s).boot = s.boot := by
  unfold finishFirst; split <;> simp
@[simp] theorem finishFirst_ctr (p : PendAct → Bool) (st : Status) (d : Nat) (s : State) : (finishFirst p st d s).ctr = s.ctr := by
  unfold finishFirst; split <;> simp
@[simp] theorem finishFirst_host (p : PendAct → Bool) (st : Status) (d : Nat) (s : State) : (finishFirst p st d s).host = s.host := by
  unfold finishFirst; split <;> simp
@[simp] theorem finishFirst_free (p : PendAct → Bool) (st : Status) (d : Nat) (s : State) : (finishFirst p st d s).free = s.free := by
  unfold finishFirst; split <;> simp
@[simp] theorem finishFirst_pending (p : PendAct → Bool) (st : Status) (d : Nat) (s : State) : (finishFirst p st d s).pending = s.pending := by
  unfold finishFirst; split <;> simp

/-! ## Interrupts and counters -/

/-- Nothing but the interrupt status and the messages of the mailbox changes. -/
theorem raiseInt_mbx (b : Nat) (s : State) :
    (raiseInt b s).mbx = { s.mbx with intStatus := (raiseInt b s).mbx.intStatus, msix := (raiseInt b s).mbx.msix } := by
  unfold raiseInt
  split
  · rfl
  · dsimp only
    split <;> rfl

/-- An interrupt bit rises and stays, while the compute die runs (R521). -/
theorem raiseInt_intStatus (b : Nat) (s : State) (h : computeDown s = false) :
    (raiseInt b s).mbx.intStatus = s.mbx.intStatus ||| (1#32 <<< b) := by
  unfold raiseInt
  rw [if_neg (by simp [h])]
  dsimp only
  split <;> rfl

/-- Nothing but the error summary, the interrupt status and the messages of the mailbox changes. -/
theorem raiseErr_mbx (b : Nat) (s : State) :
    (raiseErr b s).mbx =
      { s.mbx with errSum := (raiseErr b s).mbx.errSum, intStatus := (raiseErr b s).mbx.intStatus, msix := (raiseErr b s).mbx.msix } := by
  unfold raiseErr
  split
  · rfl
  · dsimp only
    split
    · rw [raiseInt_mbx]
    · rfl

/-- A group's bit of ERR_SUM rises and stays, while the compute die runs (R520). -/
theorem raiseErr_errSum (b : Nat) (s : State) (h : computeDown s = false) :
    (raiseErr b s).mbx.errSum = s.mbx.errSum ||| (1#32 <<< b) := by
  unfold raiseErr
  rw [if_neg (by simp [h])]
  dsimp only
  split
  · rw [raiseInt_mbx]
  · rfl

end Sys2Proof.Machine
end

