-- ==== Sys2Proof/Laws/Mailbox.lean ====
section
/-! SUPPORT. Laws of the operations that every mailbox row shares: what delivery does with a row, in its three cases, and what completing,
failing, responding and waiting leave in the mailbox. -/

namespace Sys2Proof.Machine

open Sys2Proof Sys2Proof.Safety

/-! ## Delivery (R432 to R446) -/

/-- A row for a slot that is in use counts a bad doorbell and does nothing else. -/
theorem deliver_owned (op : Nat) (body : Cmd → State → State) (c : Cmd) (s : State) (h : computeDown s = false)
    (ho : owned s (c.slot % 64) = true) : deliver op body c s = bump cMbxBadDb s := by
  simp [deliver, h, ho]

/-- A row that fails a check of R432 to R446 takes its slot and fails with that status. -/
theorem deliver_fails (op : Nat) (body : Cmd → State → State) (c : Cmd) (s : State) (st : Status) (h : computeDown s = false)
    (ho : owned s (c.slot % 64) = false) (hc : commandChecks op c (slotTaken c s) = some st) :
    deliver op body c s = fail op c st (slotTaken c s) := by
  simp only [slotTaken] at hc
  simp [deliver, h, ho, hc, slotTaken]

/-- A command that is taken up passes the checks 2 to 5 of R441. -/
theorem commandChecks_takenUp (op : Nat) (c : Cmd) (s : State) (h : TakenUp op c s) : commandChecks op c (slotTaken c s) = none := by
  obtain ⟨_, _, hl, hcrc, htr, hst⟩ := h
  have hb : (slotTaken c s).boot = s.boot := by cases s; rfl
  have hh : (slotTaken c s).mbx.hello = s.mbx.hello := by cases s; rfl
  have h1 : ¬ 224 < c.paramLen := by omega
  have h2 : (c.crcEn && crc32c (paramBytes c) != c.pcrc) = false := by
    cases hc : c.crcEn
    · rfl
    · simp [hcrc hc]
  have h3 : (op / 256 == 0x0A && !c.crcEn) = false := by
    by_cases ho : op / 256 = 0x0A
    · simp [htr ho]
    · simp [ho]
  have h4 : (op / 256 != 0 && s.boot.stage != .ready) = false := by
    by_cases ho : op / 256 = 0
    · simp [ho]
    · simp [(hst ho).1]
  have h5 : (op / 256 != 0 && s.mbx.hello.isNone) = false := by
    by_cases ho : op / 256 = 0
    · simp [ho]
    · have := (hst ho).2
      cases hx : s.mbx.hello
      · exact absurd hx this
      · simp
  simp [commandChecks, h1, h2, h3, h4, h5, hb, hh]

/-- A row that passes its checks takes its slot and runs its body. -/
theorem deliver_runs (op : Nat) (body : Cmd → State → State) (c : Cmd) (s : State) (h : TakenUp op c s) :
    deliver op body c s = body c (slotTaken c s) := by
  have hc := commandChecks_takenUp op c s h
  have ho : owned s (c.slot % 64) = false := h.2.1
  simp only [slotTaken] at hc
  simp [deliver, h.1, ho, hc, slotTaken]

/-- Completing the taken slot leaves exactly `completed`. -/
theorem completeOk_taken (op : Nat) (c : Cmd) (data : Nat) (s : State) :
    completeOk op c data (slotTaken c s) = completed op c .ok data s := by cases s; rfl

theorem fail_taken (op : Nat) (c : Cmd) (st : Status) (s : State) : fail op c st (slotTaken c s) = completed op c st 0 s := by cases s; rfl

/-- A command that waits leaves exactly `waitsNow`. -/
theorem waitFor_taken (op : Nat) (c : Cmd) (a : PendAct) (s : State) : waitFor op c a (slotTaken c s) = waitsNow op c a s := by cases s; rfl

/-- A command that answers leaves exactly `answered`. -/
theorem respond_taken (op : Nat) (c : Cmd) (bs : List Byte) (data : Nat) (s : State) :
    respond op c bs data (slotTaken c s) = answered op c bs data s := by cases s; rfl

/-- Every mailbox row delivers its command to the body of its opcode. -/
theorem row_delivers (i : Instr) (op : Nat) (c : Cmd) (s : State) (h : mailboxRow i = some (op, c)) :
    ∃ body, bodyOf op = some body ∧ exec i s = .next (deliver op body c s) := by
  cases i <;> simp only [mailboxRow, reduceCtorEq, Option.some.injEq, Prod.mk.injEq] at h <;> (obtain ⟨rfl, rfl⟩ := h; exact ⟨_, rfl, rfl⟩)

/-! ## Taking a slot -/

@[simp] theorem slotTaken_pending (c : Cmd) (s : State) : (slotTaken c s).pending = s.pending := by cases s; rfl
@[simp] theorem slotTaken_due (c : Cmd) (s : State) : (slotTaken c s).mbx.due = s.mbx.due := by cases s; rfl
@[simp] theorem slotTaken_waits (c : Cmd) (s : State) : (slotTaken c s).mbx.waits = s.mbx.waits := by cases s; rfl

/-! ## Completing, failing, waiting -/

theorem complete_waits (op : Nat) (c : Cmd) (st : Status) (detail data respLen : Nat) (s : State) :
    (complete op c st detail data respLen s).mbx.waits = s.mbx.waits := by cases s; rfl

theorem completeOk_waits (op : Nat) (c : Cmd) (data : Nat) (s : State) : (completeOk op c data s).mbx.waits = s.mbx.waits := by cases s; rfl

theorem fail_waits (op : Nat) (c : Cmd) (st : Status) (s : State) : (fail op c st s).mbx.waits = s.mbx.waits := by cases s; rfl

theorem waitFor_due (op : Nat) (c : Cmd) (a : PendAct) (s : State) : (waitFor op c a s).mbx.due = s.mbx.due := by cases s; rfl

/-- A completion appends one entry with the command's slot and cookie. -/
theorem complete_due (op : Nat) (c : Cmd) (st : Status) (detail data respLen : Nat) (s : State) :
    ∃ e, (complete op c st detail data respLen s).mbx.due = s.mbx.due ++ [e] ∧ e.slot = c.slot % 64 ∧ e.cookie = c.cookie ∧ e.status = st := by
  cases s; exact ⟨_, rfl, rfl, rfl, rfl⟩

theorem fail_due (op : Nat) (c : Cmd) (st : Status) (s : State) :
    ∃ e, (fail op c st s).mbx.due = s.mbx.due ++ [e] ∧ e.slot = c.slot % 64 ∧ e.cookie = c.cookie ∧ e.status = st :=
  complete_due op c st 0 0 0 s

theorem completeOk_due (op : Nat) (c : Cmd) (data : Nat) (s : State) :
    ∃ e, (completeOk op c data s).mbx.due = s.mbx.due ++ [e] ∧ e.slot = c.slot % 64 ∧ e.cookie = c.cookie ∧ e.status = .ok :=
  complete_due op c .ok 0 data 0 s

end Sys2Proof.Machine
end

