-- ==== Sys2Proof/WellFormed.lean ====
section
/-! DEFINITION. Which commands are well formed: the operands that the manual's encodings can hold. The meanings are total, so a
command that is not well formed has a next state too; no sender can form it. -/

namespace Sys2Proof

/-- A command slot: one of 64 slots (R433), a 16-bit `param_len` of which at most 224 bytes are the block (Table 16-4). -/
def cmdOk (c : Cmd) : Bool := decide (c.slot < 64) && decide (c.paramLen < 65536)

/-- Move identifier of 16 bits, job class of 4 bits (Table 08-3). -/
def ctxOk (x : MoveCtx) : Bool := decide (x.mid < 65536) && decide (x.jclass < 16)

/-- A field address of 23 bits (R174). -/
def addrOk (a : Nat) : Bool := decide (a < 2 ^ 23)

/-- Widths of Table 08-6: rows 1 to 64, K 1 to 65,536, strides of 16 bits, 1,024 streams. -/
def arrOk (o : ArrOpnd) : Bool :=
  addrOk o.inAddr && addrOk o.wAddr && addrOk o.outAddr && addrOk o.inSc && addrOk o.wSc && addrOk o.outSc &&
  addrOk o.amaxAddr && decide (o.inStride < 65536) && decide (o.outStride < 65536) &&
  decide (1 ≤ o.m ∧ o.m ≤ 64) && decide (1 ≤ o.kLen ∧ o.kLen ≤ 65536) && decide (o.stream < 1024)

/-- Widths of Table 08-7: vectors and row length 1 to 65,536, 1,024 streams. -/
def vecOk (o : VecOpnd) : Bool :=
  addrOk o.aAddr && addrOk o.bAddr && addrOk o.cAddr && addrOk o.dAddr && addrOk o.outAddr && addrOk o.scAddr &&
  addrOk o.maskAddr && addrOk o.amaxAddr && decide (1 ≤ o.n ∧ o.n ≤ 65536) && decide (1 ≤ o.len ∧ o.len ≤ 65536) &&
  decide (o.stream < 1024)

/-- Widths of the DMA operand block (R200); a peer is a destination only. -/
def dmaOk (o : DmaOpnd) : Bool :=
  decide (o.src < 2 ^ 64) && decide (o.dst < 2 ^ 64) && decide (o.len < 2 ^ 32) && decide (1 ≤ o.rows ∧ o.rows ≤ 65536) &&
  decide (o.srcStride < 2 ^ 32) && decide (o.dstStride < 2 ^ 32) && decide (o.srcKind ≠ .peer) && decide (o.peer < 64) &&
  decide (o.sigObj < 1024) && decide (o.sigN < 16)

/-- Widths of the set operand block and its immediate (Table 10-4, R266). -/
def setOk (o : SetOpnd) : Bool :=
  decide (o.tAddr < 2 ^ 64) && addrOk o.aAddr && addrOk o.bAddr && addrOk o.outAddr && addrOk o.out2Addr && addrOk o.tokAddr &&
  addrOk o.auxAddr && decide (o.nA < 2 ^ 24) && decide (o.nT < 2 ^ 24) && decide (o.row % 8 = 0 ∧ 8 ≤ o.row ∧ o.row ≤ 256) &&
  decide (o.sub < 8) && decide (o.tLog2 < 32) && decide (1 ≤ o.k ∧ o.k ≤ 64) && decide (o.budgetAc < 2 ^ 20) &&
  decide (o.budgetTx < 2 ^ 16) && decide (o.sigObj < 1024) && decide (o.sigN < 16)

/-- LINK_RSV: `src` 0 to 2 (Table 14-6), 16-bit slot count. -/
def rsvOk (o : RsvOpnd) : Bool := decide (o.nSlots < 65536) && decide (o.src < 3)

/-- A tick marker's fields (R396). -/
def markerOk (m : Marker) : Bool := decide (m.master < 64) && decide (m.epoch < 65536) && decide (m.tickInFrame < 65536)

/-- A flit on the line has 64 payload bytes (R383). -/
def flitOk (f : LineFlit) : Bool := decide (f.payload.length = 64)

/-- Readings of every one of the 24 channels. -/
def tickInOk (i : TickIn) : Bool := decide (i.cm.length = 24) && decide (i.mag.length = 24)

/-- A calibration record names one of 24 channels (Table 13-3). -/
def recOk : RecId → Bool
  | .calib ch => decide (ch < 24)
  | .ratios | .feConfig | .fieldBus | .boot | .chip | .store | .seal => true

/-- A register access lies inside BAR0, of 64 KiB (Table 16-2); R517 says what an access of another form than 32 or 64 bits does. -/
def accessForm (off size : Nat) : Bool := decide (1 ≤ size ∧ off + size ≤ 0x10000)

/-- Every operand of a command fits the field that the manual gives it. -/
def Instr.wf : Instr → Bool
  | .hello c | .echo c | .devInfo c | .devStatus c | .cmdIndex c | .devReset c | .fwInfo c | .fwWrite c | .fwVerify c
  | .fwActivate c | .fwConfirm c | .mlLoad c | .mlStart c | .mlStop c | .mlStatus c | .tickSetSource c | .tringSetup c
  | .tringStop c | .tickForceFallback c | .tickCounters c | .diceSeed c | .feRoute c | .feSource c | .feRange c | .feCmWindow c
  | .feCurve c | .feCalRead c | .feCalWrite c | .feStatus c | .chChain c | .chEvent c | .chFirLoad c | .chFirSwap c
  | .chFirAbort c | .applySet c | .discardSet c | .chReset c | .chState c | .watchSetup c | .watchStart c | .watchStop c
  | .watchFreeze c | .watchThaw c | .watchParams c | .watchRelearn c | .watchRollback c | .watchStatus c | .watchExport c
  | .watchImport c | .watchReportRing c | .kvPoolSetup c | .kvOpen c | .kvClose c | .kvAppend c | .kvRefill c | .kvStatus c
  | .attnRun c | .attnCancel c | .attnInfo c | .nvRead c | .nvWrite c | .nvStatus c | .nvCtr c | .nvProtect c | .nvMode c
  | .nvImgStore c | .nvImgRecall c | .linkIdent c | .linkState c | .linkAdmin c | .linkMaster c | .linkPing c | .fbPort c
  | .fbFilter c | .fbReports c | .fbSend c | .fbRxRing c | .fbStatus c | .hoConfig c | .hoStatus c | .pwrStatus c
  | .pwrGovernor c | .trustEnrol c | .trustCerts c | .trustStatus c | .trustArbRaise c | .trustDebug c | .logRead c
  | .counterDump c | .fence c | .fencePolicy c => cmdOk c
  | .liveFirmwareHandover | .getVersion | .getCapabilities | .negotiateAlgorithms _ _ | .getDigests | .getMeasurements _ _
  | .smbStage | .smbIdent | .smbSerial | .smbStatus | .smbTick | .smbHealth | .smbAvail | .smbPower | .smbOwner
  | .mbxDoorbell _ | .completionPost | .mbxCqCons _ | .ringConsumerWrite _ _ | .winBase _ _ | .errSum _ | .intStatus _
  | .intEnable _ | .tsqCtl _ _ | .slotStart _ | .feSummaryDelivery _ | .sampleDeadline _ | .fineWindow | .moveIssue _ _
  | .syncWaitSatisfied _ _ | .moveDelayedStart _ _ | .moveComplete _ _ | .step _ _ | .commitPoint | .healthPathChoice
  | .frameBoundary | .healthStatePost | .frameDataPost | .scheduleChange | .tickInEdge _ | .sourceLoss | .holdoverExit
  | .parentMarkerMissing | .computeDownDetect | .applyTakesEffect | .calibrationEffect | .fePowerOn | .powerFailDetect
  | .supplyReturn | .perstNAssert | .perstNDeassert | .functionLevelReset | .railFault | .thermalTrip _ _ | .extestSelect _
  | .computeDieStart | .dramClearEnd | .syncStage | .powerUpGrant _ | .patrolScrub _ | .logPageProgram | .operatingMinute
  | .imageStoreEnd | .trainingTrigger _ | .evaluationTrigger _ | .promotion | .watchFadeStart | .watchFadeEnd
  | .conditionReport _ | .envelopeSigned | .pageFlush _ _ | .refillTicketDone | .hostReadCompletion _ _ _ _
  | .dramTemperatureReport _ | .vexcToleranceChange _ | .vhoToleranceChange _ | .frontEndSupplyCollapse | .linkAdminDownEntry
  | .fwStartStage | .smbusRejectedTransaction _ _ => true
  | .getCertificate slot _ _ | .challenge slot _ => decide (slot < 8)
  | .mbxCq word _ _ => decide (word < 4)
  | .bar4Read off len => decide (off + len ≤ 2 ^ 32)
  | .bar4Write off data enable _ => decide (off + data.length ≤ 2 ^ 32) && decide (data.length = enable.length)
  | .latchingRead off size | .registerWrite off size _ _ _ => accessForm off size
  | .tickEdge inp | .feFreeRunTick inp => tickInOk inp
  | .mm unit o x | .mmt unit o x | .tload unit o x | .drain unit o x => decide (unit < 0x500) && arrOk o && ctxOk x
  | .azero unit _ _ => decide (unit < 0x500)
  | .vadd field o x | .vsub field o x | .vmul field o x | .vfma field o x | .vscale field o x | .vmax field o x
  | .vmin field o x | .vabs field o x | .vclamp field o x | .vcvt field o x | .vcmp field o x | .vsel field o x
  | .vtrn field o x | .vdiv field o x | .vsqrt field o x | .vrcp field o x | .vrsqrt field o x | .vexp field o x
  | .vlog field o x | .vtanh field o x | .vsigm field o x | .vgelu field o x | .vsilu field o x | .vsin field o x
  | .vcos field o x | .vrsum field o x | .vrmax field o x | .vrmin field o x | .vrssq field o x | .vargmax field o x
  | .vlnorm field o x | .vrmsn field o x | .vsmax field o x | .vadam field o x => decide (field < 16) && vecOk o && ctxOk x
  | .dma field o x => decide (field < 16) && dmaOk o && ctxOk x
  | .dmaOwnedAccess field | .bankSet field _ _ _ | .gatherDFinalSignal field | .fmCeRewrite field => decide (field < 16)
  | .setBudgetEnd e => decide (e.field < 16)
  | .linkRsv link o _ => decide (link < 4) && rsvOk o
  | .pwrUp polder | .pwrDown polder _ | .polderUp polder _ | .sluiceClosed polder _ | .powerDownAbandon polder _ => decide (polder < 293)
  | .signal obj n => decide (obj < 1024) && decide (1 ≤ n && n ≤ 15)
  | .barrier _ obj _ _ => decide (obj < 1024)
  | .gather field o x | .gatherD field o x | .scatter field o x | .scatterAdd field o x | .segReduce field o x
  | .scan field o x | .sinter field o x | .sunion field o x | .sdiff field o x | .hprobe field o x | .hinsert field o x
  | .hclear field o x | .gbucket field o x | .gplace field o x | .nbr field o x | .twalk field o x => decide (field < 16) && setOk o && ctxOk x
  | .holdExpiry output | .hoPeriodStart output => decide (output < 4)
  | .tickMarkerRx link m => decide (link < 4) && markerOk m
  | .fineOutput ch _ | .detectorsStart ch | .autoRangeUp ch _ _ | .autoRangeDown ch | .rangeTransientEnd ch | .cmFaultEnter ch
  | .cmFaultExit ch | .synchronisingReset ch _ | .firSwapStart ch | .firFadeEnd ch | .firAbortEffect ch => decide (ch < 24)
  | .eventActivate ch ev | .eventDeactivate ch ev => decide (ch < 24) && decide (ev < 2)
  | .sourceCurrentLimit src _ | .chopReversal src => decide (src < 4)
  | .watchdogExpiry core _ => decide (core < 4)
  | .dramTrainingEnd _ density => decide (density.length = 16)
  | .bankReady field bank _ => decide (field < 16) && decide (bank < 32)
  | .dramRefresh chan bank => decide (chan < 16) && decide (bank < 64)
  | .linkTraining link _ | .retrainTimer link | .linkDown link _ | .linkUnfence link | .planIdRx link _ | .linkAckRx link _ _
  | .creditRx link _ _ | .flitSlot link _ => decide (link < 4)
  | .linkStateFloodRx chip link _ => decide (chip < 64) && decide (link < 4)
  | .flitRx link f => decide (link < 4) && flitOk f
  | .fbFrameRx port _ | .gptpLoss port | .fbTransmitOpportunity port _ | .plcaStatusChange port _ => decide (port < 2)
  | .nvProgramEnd e => decide (e.plane < 8) && e.bad.all fun g => decide (g < 32)
  | .recordWrite r rb => recOk r && decide (rb.length = 3)
  | .watchTransition regime _ => decide (regime < 16)
  | .serve job | .serveEnd job | .compaction job => decide (job < 16)
  | .bar2Write off data _ => decide (off + data.length ≤ 0x4000)
  | .msixVectorUnmask vec => vec.all fun v => decide (v < 64)
  | .bootFlashExternalWrite slot _ _ => decide (slot < 2)

end Sys2Proof
end

