-- ==== Sys2Proof/Tests/Slice0.lean ====
section
/-! SUPPORT. The model's own tests: the well-formedness checks refuse an ill-formed command each, a few results worked out from the spec's
own figures, and for every statement with hypotheses states and operands that meet them, clause by clause. -/

namespace Sys2Proof.Tests

set_option Elab.async false

open Sys2Proof.Machine Sys2Proof.Safety

/-! ## Small states and commands -/

/-- A device in stage READY with HELLO 1.0 in force. -/
def rdy : State :=
  { boot := { stage := .ready }, mbx := { hello := some 0x0100 }, dram := { chGib := 8, ready := true },
    power := { polders := [(288, .up)] } }

/-- A command in slot 0 with `n` parameter bytes. -/
def cm (n bits : Nat) : Cmd :=
  { slot := 0, cookie := 7, quiet := false, crcEn := false, pcrc := 0, paramLen := n, params := BitVec.ofNat 1792 bits }

/-- A command of group 0x0A, whose parameter bytes carry their checksum. -/
def cmc (n bits : Nat) : Cmd := { cm n bits with crcEn := true, pcrc := crc32c (leBytes n bits) }

/-- `rdy` with one command waiting. -/
def waitingFor (a : PendAct) : State := { rdy with mbx := { rdy.mbx with waits := [{ cmd := cm 0 0, opcode := 0, act := a }] } }

/-- `TakenUp` as a Bool, which `decide` computes. -/
def takesUp (op : Nat) (c : Cmd) (s : State) : Bool :=
  decide (computeDown s = false) && decide (s.mbx.own.getLsbD (c.slot % 64) = false) && decide (c.paramLen ≤ 224) &&
    decide (c.crcEn = true → crc32c (paramBytes c) = c.pcrc) && decide (op / 256 = 0x0A → c.crcEn = true) &&
    decide (op / 256 ≠ 0 → s.boot.stage = .ready ∧ s.mbx.hello ≠ none)

theorem takenUp_iff (op : Nat) (c : Cmd) (s : State) : TakenUp op c s ↔ takesUp op c s = true := by
  simp only [TakenUp, takesUp, Bool.and_eq_true, decide_eq_true_eq, and_assoc]
/-! ## States that meet the hypotheses of the statements, one theorem a statement, clause by clause -/

theorem witness_StepRunsFrontCommand :
    ({ rdy with pending := [.mbxDoorbell 0] } : State).pending = .mbxDoorbell 0 :: [] ∧ rdy.pending = [] := by decide +kernel

theorem witness_MailboxRowTurnedAway :
    (mailboxRow (.fwInfo (cm 0 0)) = some (0x0101, cm 0 0) ∧ computeDown rdy = false ∧
      owned { rdy with mbx := { rdy.mbx with own := 1 } } 0 = true) ∧
    (owned { rdy with mbx := {} } 0 = false ∧ commandChecks 0x0101 (cm 0 0) (slotTaken (cm 0 0) { rdy with mbx := {} }) = some .notReady) := by
  decide +kernel

/-- A slot with opcode 1. -/
def helloSlot : State := { rdy with mbx := { rdy.mbx with slots := [(2, 1)] } }

theorem witness_DoorbellRunsNamedRow :
    mailboxRow (.hello (slotCmd helloSlot 0)) = some (slotOpcode helloSlot 0, slotCmd helloSlot 0) ∧
    (∀ i : Instr, ∀ c : Cmd, mailboxRow i ≠ some (slotOpcode rdy 63, c)) ∧ computeDown rdy = false ∧ owned rdy 63 = false := by
  refine ⟨by decide +kernel, ?_, by decide +kernel, by decide +kernel⟩
  intro i c h
  have e : slotOpcode rdy 63 = 0 := by decide +kernel
  rw [e] at h
  cases i <;> simp [mailboxRow] at h

theorem witness_ServiceCommandsComplete :
    (TakenUp 0x0001 (cm 4 0x01000001) rdy ∧ rdy.boot.stage ≠ .rom ∧ rdy.boot.stage ≠ .halted ∧ 1 ≤ fld (cm 4 0x01000001) 7 0 0 ∧
      fld (cm 4 0x01000001) 7 0 0 ≤ 16 ∧ (0 < fld (cm 4 0x01000001) 7 0 0 ∧ fld (cm 4 0x01000001) 31 16 0 = 0x0100) ∧ rdy.mbx.own = 0) ∧
    TakenUp 0x0002 (cm 224 5) rdy ∧ TakenUp 0x0003 (cm 0 0) rdy ∧ TakenUp 0x0004 (cm 0 0) rdy ∧ TakenUp 0x0005 (cm 0 0) rdy := by
  simp only [takenUp_iff]; decide +kernel

/-- A completion ring of 64 entries is set up, and one completion is due. -/
def posting : State := { rdy with mbx := { rdy.mbx with cq := 0x106, due := [completionOf 0x0002 (cm 0 0) .ok 0], own := 1 } }

theorem witness_CompletionPostReturnsSlot :
    posting.mbx.due = completionOf 0x0002 (cm 0 0) .ok 0 :: [] ∧ cqEnable posting = true ∧ cqFull posting = false ∧
      computeDown posting = false ∧ memWf 0 posting.host = true := by decide +kernel

theorem witness_RegisterRowsWrite :
    (computeDown rdy = false ∧ 1 ≤ 3 ∧ 3 < 4) ∧
    (rdy.mbx.own = 0 ∧ (0x106#64).getLsbD 8 = true ∧
      cqValid (((0x106#64).toNat + (cqWord rdy 1).toNat * 2 ^ 64 + (cqWord rdy 2).toNat * 2 ^ 128 + (cqWord rdy 3).toNat * 2 ^ 192) &&&
        cqMask) = true) ∧
    posting.mbx.own ≠ 0 ∧
    (rdy.seq.active = none ∧ 1200 ≤ bitsN (0x1000004B0#64).toNat 16 0 ∧ bitsN (0x1000004B0#64).toNat 16 0 ≤ 120000 ∧
      1 ≤ bitsN (0x1000004B0#64).toNat 47 32 ∧ gptpSource rdy = false) ∧
    (0x3FFF + [0x55#8].length ≤ 0x4000 ∧ memWf 0 rdy.mbx.slots = true) ∧
    (63 < 64 ∧ ({ enabled := true, pba := 1#64 <<< 63 } : Msix).enabled = true) := by decide +kernel

theorem witness_RegisterWriteReachesRows :
    computeDown rdy = false ∧ accessOk 0x10A 4 = false ∧ accessOk 0x108 2 = false := by decide +kernel

theorem witness_WideReadLatches :
    (computeDown rdy = false ∧ regOf 0x120 = some (0x120, 32) ∧ regOf (0x120 + 4 * 7) = some (0x120, 32) ∧ 4 < 32 ∧ 1 ≤ 7 ∧ 4 * 7 + 4 ≤ 32 ∧
      0x120 % 4 = 0) ∧
    (regOf 0x1E00 = some (0x1E00, 8) ∧ regOf (0x1E00 + 4) = some (0x1E00, 8) ∧ 8 ≤ 8 ∧ 0x1E00 % 8 = 0) := by decide +kernel

theorem witness_SmbusAnswers :
    feAlive rdy = true ∧ computeDown rdy = false ∧ computeDown State.reset = true ∧ feAlive State.reset = true ∧ 9 < (10#8).toNat := by
  decide +kernel

theorem witness_CounterRises : errBitOf cDramCe = some 5 ∧ errBitOf (cArrErr 255) = some 2 ∧ computeDown rdy = false := by decide +kernel

/-- `rdy` with an empty list running. -/
def running : State := { rdy with seq := { rdy.seq with active := some {} } }

theorem witness_FirmwareCommands :
    (TakenUp 0x0101 (cm 0 0) rdy) ∧
    (TakenUp 0x0102 (cm 16 (23 * 2 ^ 48)) rdy ∧ fld (cm 16 (23 * 2 ^ 48)) 55 48 0 = 23 ∧ (selNext rdy).trial = false ∧
      memWf 0xFF#8 rdy.boot.flash = true) ∧
    TakenUp 0x0103 (cm 0 0) rdy ∧
    (TakenUp 0x0104 (cm 0 0) { rdy with boot := { rdy.boot with okB := true } } ∧
      slotOk { rdy with boot := { rdy.boot with okB := true } } true = true ∧ rdy.mbx.waits = [] ∧ fldB (cm 0 0) 0 false = false) ∧
    (TakenUp 0x0105 (cm 0 0) { rdy with boot := { rdy.boot with sel := { trial := true } } } ∧
      (selNext { rdy with boot := { rdy.boot with sel := { trial := true } } }).trial = true) ∧
    (({ rdy with boot := { rdy.boot with staged := true } } : State).boot.staged = true ∧ rdy.tick.inFrame = 0 ∧ rdy.boot.stage = .ready) := by
  simp only [takenUp_iff]; decide +kernel

theorem witness_ServiceInOperation :
    (TakenUp 0x0B03 (cm 4 (255 + 2 ^ 9)) rdy ∧ resPresent rdy.part (fld (cm 4 (255 + 2 ^ 9)) 8 0 0) = true ∧
      fldB (cm 4 (255 + 2 ^ 9)) 9 false = true ∧ fldB (cm 4 (255 + 2 ^ 9)) 10 false = false) ∧
    (TakenUp 0x0B03 (cm 4 (271 + 3 * 2 ^ 9)) rdy ∧ resPresent rdy.part (fld (cm 4 (271 + 3 * 2 ^ 9)) 8 0 0) = true ∧
      fldB (cm 4 (271 + 3 * 2 ^ 9)) 9 false = true ∧ fldB (cm 4 (271 + 3 * 2 ^ 9)) 10 false = true ∧
      fld (cm 4 (271 + 3 * 2 ^ 9)) 8 0 0 < 272) ∧
    (TakenUp 0x0B03 (cm 4 256) rdy ∧ resPresent rdy.part (fld (cm 4 256) 8 0 0) = true ∧ fldB (cm 4 256) 9 false = false ∧
      fldB (cm 4 256) 10 false = false ∧ 256 ≤ fld (cm 4 256) 8 0 0 ∧ fld (cm 4 256) 8 0 0 < 272) ∧
    (TakenUp 0x0B03 (cm 4 (255 + 2 ^ 10)) rdy ∧ resPresent rdy.part (fld (cm 4 (255 + 2 ^ 10)) 8 0 0) = true ∧
      fldB (cm 4 (255 + 2 ^ 10)) 9 false = false ∧ fenced rdy.seq.fenceNext (256 + fld (cm 4 (255 + 2 ^ 10)) 8 0 0 / 16) = false ∧
      fldB (cm 4 (255 + 2 ^ 10)) 10 false = true ∧ fld (cm 4 (255 + 2 ^ 10)) 8 0 0 < 272) ∧
    (TakenUp 0x0B04 (cm 8 (1 + 2 ^ 1 + 2 ^ 16 + 2 ^ 32 + 2 ^ 48)) rdy ∧ fld (cm 8 (1 + 2 ^ 1 + 2 ^ 16 + 2 ^ 32 + 2 ^ 48)) 63 48 1000 = 1 ∧
      fld (cm 8 (1 + 2 ^ 1 + 2 ^ 16 + 2 ^ 32 + 2 ^ 48)) 47 32 16 = 1 ∧ fld (cm 8 (1 + 2 ^ 1 + 2 ^ 16 + 2 ^ 32 + 2 ^ 48)) 31 16 16 = 1 ∧
      fld (cm 8 (1 + 2 ^ 1 + 2 ^ 16 + 2 ^ 32 + 2 ^ 48)) 15 1 4 = 1) ∧
    (TakenUp 0x0B01 (cm 16 (4096 * 2 ^ 16)) rdy ∧ fld (cm 16 (4096 * 2 ^ 16)) 31 16 0 = 4096 ∧ fldB (cm 16 (4096 * 2 ^ 16)) 0 false = false ∧
      memWf 0 rdy.host = true) ∧
    (TakenUp 0x0B01 (cm 16 (1 + 2 ^ 16)) rdy ∧ fld (cm 16 (1 + 2 ^ 16)) 31 16 0 = 1 ∧ fldB (cm 16 (1 + 2 ^ 16)) 0 false = true ∧
      ∀ g, nvGroup rdy g = 0) ∧
    TakenUp 0x0B02 (cm 8 0) rdy := by
  simp only [takenUp_iff]
  exact ⟨by decide +kernel, by decide +kernel, by decide +kernel, by decide +kernel, by decide +kernel, by decide +kernel,
    ⟨by decide +kernel, by decide +kernel, by decide +kernel, fun _ => rfl⟩, by decide +kernel⟩

theorem witness_MoveListCommands :
    (TakenUp 0x0110 (cm 16 (2 ^ 32 + 2 ^ 33 * 2 ^ 64)) rdy ∧ fld (cm 16 (2 ^ 32 + 2 ^ 33 * 2 ^ 64)) 127 64 0 % 64 = 0 ∧
      rangeOk rdy (fld (cm 16 (2 ^ 32 + 2 ^ 33 * 2 ^ 64)) 127 64 0) (fld (cm 16 (2 ^ 32 + 2 ^ 33 * 2 ^ 64)) 63 32 0) = true ∧
      fld (cm 16 (2 ^ 32 + 2 ^ 33 * 2 ^ 64)) 63 32 0 = 1 ∧ startPending rdy = false ∧ loadRuns rdy = false ∧ polder rdy 288 = .up ∧ rdy.dram.wrong = []) ∧
    (∀ i, linePoison rdy i = false) ∧
    (TakenUp 0x0111 (cm 0 0) { rdy with seq := { rdy.seq with standby := some {} } } ∧
      startPending { rdy with seq := { rdy.seq with standby := some {} } } = false ∧
      loadRuns { rdy with seq := { rdy.seq with standby := some {} } } = false ∧
      recordsTooLong { rdy with seq := { rdy.seq with standby := some {} } } {} = false ∧ gptpSource rdy = false) ∧
    (TakenUp 0x0112 (cm 0 0) rdy ∧ rdy.seq.active = none) ∧ (TakenUp 0x0112 (cm 0 0) running ∧ running.seq.active = some {}) ∧
    TakenUp 0x0113 (cm 0 0) rdy := by
  simp only [takenUp_iff]; refine ⟨by decide +kernel, fun i => rfl, by decide +kernel⟩

/-- A chip of a ring that is not its master. -/
def follower : State := { rdy with links := { ident := { topo := 1, dimX := 1 } } }

theorem witness_TickCommands :
    (TakenUp 0x0201 (cm 12 1) rdy ∧ (inRing rdy = true ∧ rdy.links.master = false ↔ fld (cm 12 1) 3 0 0 = 2) ∧ tickGroupPending rdy = false) ∧
    (TakenUp 0x0201 (cm 12 2) follower ∧ (inRing follower = true ∧ follower.links.master = false ↔ fld (cm 12 2) 3 0 0 = 2)) ∧
    (TakenUp 0x0201 (cm 12 4) (waitingFor (.source 0 0)) ∧ fld (cm 12 4) 3 0 0 ≤ 4 ∧
      (∀ p ∈ periodsNext (waitingFor (.source 0 0)), p % 6 = 0) ∧ tickGroupPending (waitingFor (.source 0 0)) = true) ∧
    (TakenUp 0x0202 (cm 22 (2 ^ 168 + 10 * 2 ^ 132 + 10 * 2 ^ 128)) rdy ∧ ringOk 8 11 (ringOf (cm 22 (2 ^ 168 + 10 * 2 ^ 132 + 10 * 2 ^ 128))) = true ∧
      fld (cm 22 (2 ^ 168 + 10 * 2 ^ 132 + 10 * 2 ^ 128)) 175 168 8 = 1 ∧ rdy.seq.active = none ∧ running.seq.active = some {} ∧
      recordLen ({} : MList).nFeat ({} : MList).nCorr ≤ 2 ^ (ringOf (cm 22 (2 ^ 168 + 10 * 2 ^ 132 + 10 * 2 ^ 128))).entryLog2) ∧
    (TakenUp 0x0203 (cm 0 0) rdy ∧ rdy.seq.active = none) ∧
    (TakenUp 0x0203 (cm 0 0) running ∧ running.seq.active = some {} ∧ running.tick.committed = false) ∧
    TakenUp 0x0204 (cm 1 1) rdy ∧ TakenUp 0x0205 (cm 0 0) rdy ∧ (TakenUp 0x0206 (cm 12 (2 ^ 64)) rdy ∧ fldB (cm 12 (2 ^ 64)) 64 false = true) ∧
    (TakenUp 0x0206 (cm 12 5) rdy ∧ fldB (cm 12 5) 64 false = false ∧ rdy.mbx.waits = []) := by
  simp only [takenUp_iff]; decide +kernel

/-- `rdy` with counters 0, 4, 8 and 11 of a new part in the store. -/
def stored : State := { rdy with nv := { mem := [0, 4, 8, 11].flatMap fun n => placed (cellAddr n 0) (cellBytes 0 0) } }

/-- A program of page 1,024 runs on plane 0. -/
def pageRuns : State :=
  { rdy with nv := { planes := [(0, { seq := 3, page := 1024, bytes := [(0x40000, 1)] })] }
             mbx := { rdy.mbx with waits := [{ cmd := cm 0 0, opcode := 0x0602, act := .nvWrite 3 }] } }

/-- The program of cell 1 of counter 11, and the increment that it belongs to. -/
def prog11 : NvProg := { seq := 1, page := 278, bytes := placed (cellAddr 11 1) (cellBytes 1 1) }
def ctrRun11 : CtrRun := { op := { n := 11, wait := some 0 }, cell := 1, value := 1, gen := 1, progs := [1] }

/-- `stored` while that program runs. -/
def ctrRuns : State :=
  { waitingFor (.nvWrite 0) with nv := { stored.nv with planes := [(6, prog11)], nextSeq := 2, ctrRun := some ctrRun11 } }

theorem witness_StoreReadsAndCounters :
    (TakenUp 0x0601 (cm 16 (4096 * 2 ^ 32 + 0x7F000)) rdy ∧ fld (cm 16 (4096 * 2 ^ 32 + 0x7F000)) 44 32 0 = 4096 ∧
      fld (cm 16 (4096 * 2 ^ 32 + 0x7F000)) 18 0 0 + 4096 ≤ 0x80000 ∧ nvReadWaits rdy 0x7F000 4096 = false ∧ memWf 0 rdy.host = true) ∧
    (TakenUp 0x0601 (cm 16 (2 ^ 32 + 0x400FF)) pageRuns ∧ fld (cm 16 (2 ^ 32 + 0x400FF)) 44 32 0 = 1 ∧
      nvReadWaits pageRuns (fld (cm 16 (2 ^ 32 + 0x400FF)) 18 0 0) 1 = true) ∧
    TakenUp 0x0603 (cm 0 0) rdy ∧
    (TakenUp 0x0604 (cm 1 8) stored ∧ fldB (cm 1 8) 4 false = false ∧ (spreadCell stored (fld (cm 1 8) 3 0 0)).isSome = true) ∧
    (TakenUp 0x0604 (cm 1 8) rdy ∧ fldB (cm 1 8) 4 false = false ∧ spreadCell rdy (fld (cm 1 8) 3 0 0) = none) ∧
    (TakenUp 0x0604 (cm 1 0x1B) stored ∧ fldB (cm 1 0x1B) 4 false = true ∧ fld (cm 1 0x1B) 3 0 0 = 11 ∧ StoreIdle stored ∧
      spreadCell stored 11 = some (0, 0, 0)) ∧
    (feAlive stored = true ∧ spreadCell stored 4 = some (0, 0, 0)) ∧
    (spreadCell ctrRuns 11 = some (0, 0, 0) ∧ ((List.range 64).all fun j => match cellRaw ctrRuns 11 j with | some r => r.1 == 0 | none => true) = true ∧
      ctrRuns.nv.ctrRun = some ctrRun11 ∧ tabFind ctrRuns.nv.planes 6 = some prog11 ∧ ctrRun11.progs = [prog11.seq] ∧ ctrRuns.nv.wear < 4095 ∧
      ctrRuns.nv.ctrQ = [] ∧ ctrRuns.nv.enrol = none ∧ ctrRuns.nv.powerFail = false ∧
      prog11.bytes = placed (cellAddr 11 1) (cellBytes 1 1) ∧ memWf 0xFF#8 ctrRuns.nv.mem = true) := by
  simp only [takenUp_iff, StoreIdle]; decide +kernel

/-- No group of a store without wrong bits reads wrong. -/
theorem witness_noWrongBits : ∀ g, nvGroup stored g = 0 ∧ nvGroup ctrRuns g = 0 ∧ nvGroup rdy g = 0 := fun _ => ⟨rfl, rfl, rfl⟩

theorem witness_StoreWrites :
    (TakenUp 0x0602 (cm 16 (256 * 2 ^ 32 + 0x7FF00)) rdy ∧ fld (cm 16 (256 * 2 ^ 32 + 0x7FF00)) 44 32 0 = 256 ∧
      inImage rdy (fld (cm 16 (256 * 2 ^ 32 + 0x7FF00)) 18 0 0) = false ∧
      nvWritable rdy (fld (cm 16 (256 * 2 ^ 32 + 0x7FF00)) 18 0 0 / 256) = true ∧ rdy.nv.powerFail = false ∧ rdy.nv.queue = [] ∧
      rdy.nv.storing = none ∧ tabHas rdy.nv.planes (planeOf (fld (cm 16 (256 * 2 ^ 32 + 0x7FF00)) 18 0 0 / 256)) = false) ∧
    (TakenUp 0x0602 (cm 16 (2 ^ 32 + 0x2FFFF)) rdy ∧ inImage rdy (fld (cm 16 (2 ^ 32 + 0x2FFFF)) 18 0 0) = false ∧
      nvWritable rdy (fld (cm 16 (2 ^ 32 + 0x2FFFF)) 18 0 0 / 256) = false) ∧
    ((tabFind pageRuns.nv.planes 0).isSome = true ∧ memWf 0xFF#8 pageRuns.nv.mem = true) := by
  simp only [takenUp_iff]; decide +kernel

theorem witness_StoreRecords :
    TakenUp 0x0605 (cm 2 0x300) rdy ∧
    (StoreIdle rdy ∧ feAlive rdy = true ∧ tabGet {} rdy.nv.picks (recIndex .seal) = recChoose rdy (recIndex .seal) ∧ nth [] 0 true = true ∧
      memWf 0xFF#8 rdy.nv.mem = true) ∧
    (StoreIdle (waitingFor (.recWrite .chip)) ∧ (waitingFor (.recWrite .chip)).mbx.waits.length = 1) ∧
    (({ rdy with nv := { logPend := List.replicate 8 { seq := 0, tick := 0, code := 1, src := 0, arg := 0, arg2 := 0 } } } : State).nv.logPend ≠ [] ∧
      (List.replicate 8 ({ seq := 0, tick := 0, code := 1, src := 0, arg := 0, arg2 := 0 } : LogEntry)).length ≤ 8) := by
  simp only [takenUp_iff, StoreIdle]; decide +kernel

/-- `rdy` in image mode. -/
def imaging : State := { rdy with nv := { image := true, dirty := true } }

theorem witness_StoreImage :
    (TakenUp 0x0602 (cm 16 (256 * 2 ^ 32 + 0x3FF00)) imaging ∧ inImage imaging (fld (cm 16 (256 * 2 ^ 32 + 0x3FF00)) 18 0 0) = true ∧
      fld (cm 16 (256 * 2 ^ 32 + 0x3FF00)) 18 0 0 + fld (cm 16 (256 * 2 ^ 32 + 0x3FF00)) 44 32 0 ≤ 0x40000 ∧ imaging.nv.storing = none ∧
      memWf 0xFF#8 imaging.nv.img = true) ∧
    (TakenUp 0x0607 (cm 2 0) imaging ∧ imaging.nv.dirty = true) ∧ (TakenUp 0x0607 (cm 2 0x1000) rdy ∧ fldB (cm 2 0x1000) 12 false = true) ∧
    (TakenUp 0x0607 (cm 2 0) rdy ∧ rdy.nv.dirty = false ∧ fldB (cm 2 0) 12 false = false) ∧
    (TakenUp 0x0606 (cm 2 0) imaging ∧ fldB (cm 2 0) 10 false = false ∧ imaging.nv.image = true ∧ imaging.nv.dirty = true ∧
      imaging.nv.storing = none) ∧
    (TakenUp 0x0606 (cm 2 0) rdy ∧ rdy.nv.image = false) ∧ (TakenUp 0x0606 (cm 2 0x400) rdy ∧ fldB (cm 2 0x400) 10 false = true) ∧
    (StoreIdle rdy ∧ feAlive rdy = true ∧ nth [true] 0 true = true ∧
      (nth [(0#8), 1] 1 0).getLsbD 0 = true ∧ rdy.nv.image = false) ∧
    TakenUp 0x0608 (cm 0 0) imaging ∧ (({ rdy with nv := { storing := some [(5, 0)] } } : State).nv.storing = some [(5, 0)]) := by
  simp only [takenUp_iff, StoreIdle]; decide +kernel

/-- `rdy` with an applied configuration and a run state of channel 3. -/
def feWith (g : FeCfg) (x : Chan) : State := { rdy with fe := { cfg := g, chans := [(3, x)] } }

/-- Channel 3 is enabled. -/
def ch3 : FeCfg := { routes := [(3, { enable := true })] }

theorem witness_FrontEndCommands :
    (TakenUp 0x0301 (cm 8 (23 + 47 * 2 ^ 16 + 2 ^ 42 + 3 * 2 ^ 43)) rdy ∧ fld (cm 8 (23 + 47 * 2 ^ 16 + 2 ^ 42 + 3 * 2 ^ 43)) 4 0 0 = 23 ∧
      fld (cm 8 (23 + 47 * 2 ^ 16 + 2 ^ 42 + 3 * 2 ^ 43)) 21 16 0 = 47 ∧ fld (cm 8 (23 + 47 * 2 ^ 16 + 2 ^ 42 + 3 * 2 ^ 43)) 42 41 0 = 2 ∧
      fld (cm 8 (23 + 47 * 2 ^ 16 + 2 ^ 42 + 3 * 2 ^ 43)) 45 43 0 = 3) ∧
    (TakenUp 0x0302 (cm 16 (2 + 3 * 16 + 250 * 2 ^ 96 + 2 ^ 116)) rdy ∧
      srcInRange 2 { enable := true, value := 250, polarity := false, chop := 0, pins := 0 } (srcIndex 2 3) = true) ∧
    (TakenUp 0x0303 (cm 8 (23 + 1 * 2 ^ 48)) rdy ∧ fld (cm 8 (23 + 1 * 2 ^ 48)) 63 48 1000 = 1) ∧
    (TakenUp 0x0304 (cm 11 (23 + wrapN 16 (-1000) * 2 ^ 64 + 2 ^ 80)) rdy ∧
      signedN 16 (fld (cm 11 (23 + wrapN 16 (-1000) * 2 ^ 64 + 2 ^ 80)) 79 64 25000) = -1000) ∧
    (TakenUp 0x0305 (cm 13 (23 + 31 * 2 ^ 88 + 0xFF * 2 ^ 96)) rdy ∧ curveKnown (fld (cm 13 (23 + 31 * 2 ^ 88 + 0xFF * 2 ^ 96)) 95 88 0) = true ∧
      fld (cm 13 (23 + 31 * 2 ^ 88 + 0xFF * 2 ^ 96)) 103 96 0xFF = 0xFF) ∧
    (TakenUp 0x0309 (cm 1 23) rdy ∧ fld (cm 1 23) 26 16 1 = 1 ∧ fld (cm 1 23) 60 56 6 = 6 ∧ fld (cm 1 23) 76 64 256 = 256 ∧
      fld (cm 1 23) 84 80 6 = 6) ∧
    (TakenUp 0x030A (cm 1 (23 + 32)) rdy ∧ fld (cm 1 (23 + 32)) 111 96 1 = 1 ∧ fld (cm 1 (23 + 32)) 127 112 1 = 1) ∧
    TakenUp 0x030F (cm 0 0) rdy ∧
    (TakenUp 0x030E (cm 0 0) rdy ∧ rdy.fe.sealed_ = none ∧ applyCheck rdy (laid rdy.fe.cfg rdy.fe.pend) = none) ∧
    (applyCheck { rdy with fe := { pend := { chains := [(0, { maLen := 1024 })], routes := [(0, { enable := true })] } } }
      (laid {} { chains := [(0, { maLen := 1024 })], routes := [(0, { enable := true })] })).isSome = true ∧
    (TakenUp 0x0306 (cm 3 23) rdy ∧ fldB (cm 3 23) 16 false = false ∧ fld (cm 3 23) 4 0 0 = 23) ∧
    (TakenUp 0x0306 (cm 4 (2 ^ 16 + 39 * 2 ^ 24)) rdy ∧ fldB (cm 4 (2 ^ 16 + 39 * 2 ^ 24)) 16 false = true ∧
      fld (cm 4 (2 ^ 16 + 39 * 2 ^ 24)) 29 24 0 = 39) ∧
    (TakenUp 0x0307 (cm 12 (2 ^ 16 + 39 * 2 ^ 24)) rdy ∧ fldB (cm 12 (2 ^ 16 + 39 * 2 ^ 24)) 16 false = true ∧
      fld (cm 12 (2 ^ 16 + 39 * 2 ^ 24)) 29 24 0 = 39) ∧
    (TakenUp 0x0307 (cm 12 23) rdy ∧ fldB (cm 12 23) 16 false = false ∧ fld (cm 12 23) 4 0 0 = 23) ∧
    TakenUp 0x0308 (cm 0 0) rdy ∧ TakenUp 0x0311 (cm 0 0) rdy ∧
    (TakenUp 0x030B (cm 19 (0x800000 + 64 * 2 ^ 80 + 64 * 2 ^ 88 + 128 * 2 ^ 96 + 7 * 2 ^ 128)) rdy ∧
      fld (cm 19 (0x800000 + 64 * 2 ^ 80 + 64 * 2 ^ 88 + 128 * 2 ^ 96 + 7 * 2 ^ 128)) 87 80 0 = 64 ∧
      fld (cm 19 (0x800000 + 64 * 2 ^ 80 + 64 * 2 ^ 88 + 128 * 2 ^ 96 + 7 * 2 ^ 128)) 95 88 1 = 64 ∧
      fld (cm 19 (0x800000 + 64 * 2 ^ 80 + 64 * 2 ^ 88 + 128 * 2 ^ 96 + 7 * 2 ^ 128)) 103 96 1 = 128) ∧
    (TakenUp 0x030C (cm 3 8) rdy ∧ fldB (cm 3 8) 49 false = false ∧ fld (cm 3 8) 44 32 16 = 16 ∧ chanList (fld (cm 3 8) 23 0 0) = [3] ∧
      swapCheck rdy (chanList (fld (cm 3 8) 23 0 0)) = none) ∧
    (TakenUp 0x030C (cm 7 (8 + 2 ^ 49)) rdy ∧ fldB (cm 7 (8 + 2 ^ 49)) 49 false = true) ∧
    (TakenUp 0x030D (cm 3 8) (feWith {} { fade := some { len := 16, i := 2 } }) ∧
      fadeRuns (chanOf (feWith {} { fade := some { len := 16, i := 2 } }) 3) = true) ∧
    (TakenUp 0x0310 (cm 3 8) rdy ∧ chanList (fld (cm 3 8) 23 0 0) = [3]) := by
  simp only [takenUp_iff]
  repeat' apply And.intro
  all_goals decide +kernel

theorem witness_FrontEndCommands_banks :
    (∀ ch, (chanOf rdy ch).swap = none) ∧ (∀ ch, (chanOf rdy ch).fade = none ∧ (chanOf rdy ch).swap = none) :=
  ⟨fun _ => rfl, fun _ => ⟨rfl, rfl⟩⟩

/-- A sealed set that enables channel 3 is due. -/
def sealedSet : State :=
  { rdy with fe := { sealed_ := some ch3, sealedDue := true }
             mbx := { rdy.mbx with waits := [{ cmd := cm 0 0, opcode := 0x030E, act := .applySet }] } }

/-- Channel 3 with auto-ranging from range 0 to 7. -/
def auto3 : FeCfg := { ch3 with ranges := [(3, { range := 5, auto := true, dwell := 4 })] }

theorem witness_FrontEndEvents :
    (sealedSet.fe.sealed_ = some ch3 ∧ sealedSet.fe.sealedDue = true ∧ (routeOf (laid sealedSet.fe.cfg ch3) 3).enable = true ∧
      (routeOf sealedSet.fe.cfg 3).enable = false ∧ (sealedSet.mbx.waits.any fun w => w.act == .applySet) = true) ∧
    ResetCause.source ∈ (chanOf (feWith ch3 { due := [.source] }) 3).due ∧
    (({ rdy with fe := { cfg := ch3, calDue := [.set 3 0 5 6] } } : State).fe.calDue = [.set 3 0 5 6] ∧
      chanOn { rdy with fe := { cfg := ch3, calDue := [.set 3 0 5 6] } } 3 = true) ∧
    (({ rdy with fe := { chopDue := 8 } } : State).fe.chopDue.getLsbD 3 = true) ∧
    ((srcOf ({ rdy with fe := { cfg := { srcs := [(11, { enable := true })] } } } : State).fe.cfg (8 + 3)).enable = true ∧ rdy.fe.vexcOk = true ∧
      rdy.fe.srcFault.getLsbD 3 = !true ∧ computeDown rdy = false) ∧
    (chanOn (feWith { ch3 with cms := [(3, { hi := 1 })] } { cmOut := 4 }) 3 = true ∧ cmOff { hi := 1 } = false ∧
      (cmOf { ch3 with cms := [(3, { hi := 1 })] } 3).persist = 4) ∧
    ((chanOf (feWith ch3 { cmFault := true, cmIn := 4 }) 3).cmFault = true ∧ (cmOf ch3 3).persist ≤ 4) ∧
    (chanOn (feWith auto3 { range := 5 }) 3 = true ∧ (rangeOf auto3 3).auto = true ∧ overUp 1000000 5 10000000 = true ∧ (rangeOf auto3 3).wide < 5 ∧
      (chanOf (feWith auto3 { range := 5 }) 3).cmFault = false ∧
      (feWith auto3 { range := 5 }).fe.sealed_ = none) ∧
    ((rangeOf auto3 3).dwell ≤ 4 ∧ 6 < (rangeOf auto3 3).narrow ∧ (feWith auto3 { range := 6, dwell := 4 }).fe.sealedDue = false) ∧
    ((chanOf (feWith ch3 { transient := true, flagLeft := 0 }) 3).transient = true ∧
      (chanOf (feWith ch3 { transient := true, flagLeft := 0 }) 3).flagLeft = 0) := by decide +kernel

/-- Channel 3 with both of its events enabled. -/
def events3 : FeCfg := { ch3 with events := [(6, { enable := true, persistOn := 2, persistOff := 2 }), (7, { enable := true })] }

theorem witness_ChainEvents :
    (chanOn (feWith ch3 {}) 3 = true ∧ 3 < 24 ∧ (feWith ch3 {}).nv.powerFail = false ∧ (feWith ch3 {}).boot.extest = false ∧
      (chanOf (feWith ch3 {}) 3).due = [] ∧ (feWith ch3 {}).fe.sealedDue = false ∧ (feWith ch3 {}).fe.calDue = [] ∧ (feWith ch3 {}).fe.chopDue = 0) ∧
    ((eventOf events3 (2 * 3 + 0)).enable = true ∧ (eventOf events3 (2 * 3 + 0)).persistOn ≤ 2 ∧
      (chanOf (feWith events3 { ev0 := { cntOn := 2 } }) 3).ev0 = { active := false, cntOn := 2 }) ∧
    ((eventOf events3 (2 * 3 + 1)).persistOff ≤ 1 ∧
      (chanOf (feWith events3 { ev1 := { active := true, cntOff := 1 } }) 3).ev1 = { active := true, cntOff := 1 }) ∧
    ((chanOf (feWith ch3 { held := true, settleTo := 2, k := 2 }) 3).held = true) ∧
    ((chanOf (feWith ch3 { swap := some { len := 16, behind := false }, swapArmed := true }) 3).swap = some { len := 16, behind := false } ∧
      (chanOf (feWith ch3 { swap := some { len := 16, behind := false }, swapArmed := true }) 3).fade = none ∧
      (chanOf (feWith ch3 { swap := some { len := 16, behind := false }, swapArmed := true }) 3).swapHold = false) ∧
    (chanOf (feWith ch3 { fade := some { len := 16, i := 16 } }) 3).fade = some { len := 16, i := 16 } ∧
    ((chanOf (feWith ch3 { fade := some { len := 16, i := 1 }, abortReq := true, abortArmed := true }) 3).abortReq = true ∧ 1 < 16) := by decide +kernel

/-- A list whose sample areas start in bank 0 of field 0, DMA port 1 owning every bank. -/
def sampling : State :=
  { rdy with fm := { banks := (List.range 32).map fun b => (b, .on) }
             seq := { active := some { ingestAddr := 0x40, fineAddr := 0x1000 }, owner := [(0, 0x16)] }
             fe := { ready := [(23, 0x123456789)], stream := [(2, [5, 6])] }
             tick := { period := 12000 } }

/-- The gate of bank 0 of field 0 is closing. -/
def closingGate : State :=
  { sampling with power := { sampling.power with closing := [(0, { mask := 1, since := 0 })] } }

theorem witness_SampleAreasWritten :
    (computeDown sampling = false ∧ sampling.nv.powerFail = false ∧ memWf 0 sampling.fm.mem = true ∧
      (∀ i, i < 384 → port1Owns sampling 0 (0x40 + i) = true ∧ bankOn sampling 0 (0x40 + i) = true ∧
        gateClosing sampling 0 (bankOf (0x40 + i)) = false) ∧
      (1#24 <<< 23).getLsbD 23 = true ∧ tabHas sampling.fe.delivered 23 = false ∧ sampling.fe.lost.getLsbD 23 = false) ∧
    (port1Owns { sampling with seq := { sampling.seq with owner := [] } } 0 (0x40 + 16 * 23) = false ∧
      feDropped { sampling with seq := { sampling.seq with owner := [] } } 0 (0x40 + 16 * 23) = false) ∧
    feDropped closingGate 0 (0x40 + 16 * 23) = true ∧
    groupsOf (chipAddr 0 (0x40 + 16 * 23)) 16 ≠ [] ∧
    (fineSlots sampling.tick.period = 4 ∧
      ∀ i, i < 8 * (24 * fineSlots sampling.tick.period) → port1Owns sampling 0 (0x1000 + i) = true ∧ bankOn sampling 0 (0x1000 + i) = true ∧
        gateClosing sampling 0 (bankOf (0x1000 + i)) = false) := by
  decide +kernel

/-- A move of the vector engine of field 0 at offset 10, which waits for nothing and signals object 4. -/
def aMove : Move := { moveId := 1, offset := 10, target := 0x500, opcode := 0x20, sigN := 1, sigObj := 4 }

/-- A list of one schedule with that move, two slots, and a window of job 0, whose one step has no moves. -/
def aList : MList :=
  { jobs := [{}]
    scheds := [{ slots := [{}, { start := 100 }], tick := [aMove], wins := [{ start := 50, len := 100 }], jsteps := [(0, 1)], steps := [{ opcode := 0x7F }] }] }

/-- That list runs on powered engines, with some moves in flight. -/
def moving (fs : List Flying) : State :=
  { rdy with power := { polders := [(288, .up), (256, .up)] }, seq := { active := some aList, sched := some 0, flying := fs } }

/-- The move in flight. -/
def inFlight (st : Option Nat) : Flying :=
  { key := 0, ref := .tickProg 0, mv := aMove, engine := 0x500, planned := 10, started := st, epoch := 0, streamC := 0, job := none }

theorem witness_SignalsAndBarriers :
    (1 ≠ 0 ∧ min 65535 ((syncOf rdy 3).count + 1) < 2 ∧ 1 ≤ min 65535 ((syncOf rdy 3).count + 1)) := by decide +kernel

theorem witness_SlotsAndSteps :
    (runSched (moving []) = some (nth aList.scheds 0 {}) ∧ (nth aList.scheds 0 {}).slots[1]? = some { start := 100 } ∧ (moving []).seq.slot < 1 ∧
      (∀ u ∈ lateUses (moving []) 100, u.bank ≠ 511) ∧ slotAt (nth aList.scheds 0 {}) 100 = 1 ∧ bankSlip (lateUses (moving [inFlight none]) 100) 0 = 90) ∧
    (let s := { moving [] with seq := { (moving []).seq with jobs := [(0, { running := true })] } }
     (nth aList.scheds 0 {}).wins[0]? = some { start := 50, len := 100 } ∧ (jobOf s 0).running = true ∧ (jobOf s 0).busy = false ∧
       stepWindow (nth aList.scheds 0 {}) 0 (jobOf s 0).cursor = some 0 ∧ s.seq.stopped.getLsbD (nth aList.jobs 0 {}).jclass = false ∧
       suppressed s (nth aList.scheds 0 {}) (nth aList.jobs 0 {}) = false ∧ s.seq.ranWins.contains 0 = false ∧
       (let k := { nth aList.scheds 0 {} with steps := [{ opcode := 0x7F }, aMove, { opcode := 0x7F }], jsteps := [(0, 3)] }
        (∃ i ∈ stepMoves k 0 0, s.seq.issued.contains (.stepArea i) = false) ∧ stepWindow k 0 0 = some 0) ∧
       (let k := { nth aList.scheds 0 {} with steps := [{ opcode := 0x7F }, { opcode := 0x7F }], jsteps := [(0, 2)] }
        stepMoves k 0 0 = [] ∧ 0 + 1 < (stepStarts k 0).length ∧ stepWindow k 0 0 = some 0)) := by decide +kernel

theorem witness_MovesInFlight :
    (let s := moving []
     moveOf (nth aList.scheds 0 {}) (.tickProg 0) = some aMove ∧ plannedStart s (nth aList.scheds 0 {}) (.tickProg 0) aMove = some 10 ∧
       aMove.opcode ≠ 0x7F ∧ s.seq.issued.contains (.tickProg 0) = false ∧ targetFenced s aList aMove.target = false ∧
       waitingOn s aList aMove.target < 16 ∧ earlierLeft s aList (nth aList.scheds 0 {}) (.tickProg 0) aMove = false ∧
       s.seq.stopped.getLsbD aMove.jclass = false) ∧
    (let s := { moving [] with seq := { (moving []).seq with fence := 1#276 <<< 256 } }
     targetFenced s aList aMove.target = true ∧ runSched s = some (nth aList.scheds 0 {})) ∧
    (let s := moving [inFlight none]
     flyingOf s 0 = some (inFlight none) ∧ startBlocked s aList 10 (inFlight none) = false ∧
       (inFlight none).planned + slipOf s aList (inFlight none).engine ≤ 10) ∧
    (let s := moving [inFlight (some 10)]
     flyingOf s 0 = some (inFlight (some 10)) ∧ mayComplete s aList (inFlight (some 10)) 10 (10 + moveDone aList aMove false) = true ∧ stillWorks s (inFlight (some 10)) = false ∧
       aMove.cls = .tickCritical ∧ ownSignal aMove.opcode = false ∧ aMove.sigN ≠ 0 ∧ (inFlight (some 10)).epoch = (syncOf s aMove.sigObj).epoch) := by
  decide +kernel

theorem witness_ScheduleChangeTakesEffect :
    (let c : Change := { swap := false, sched := some 1, polders := 0, dueTick := some 4 }
     let s := { moving [] with tick := { no := 6 }, seq := { (moving []).seq with change := some c } }
     changeDue s = true ∧ s.boot.stage = .ready ∧ s.seq.active = some aList ∧ s.seq.change = some c ∧ c.sched ≠ s.seq.sched) := by decide +kernel

/-- A ready device whose banks of field 0 are on. -/
def banksOn : State := { rdy with fm := { banks := (List.range 32).map fun b => (b, .on) } }

/-- Operands of an array move: one row of one INT8 tile, output in INT8. -/
def arrOp : ArrOpnd :=
  { inAddr := 0, wAddr := 0x40000, outAddr := 0x80000, inSc := 0, wSc := 0, outSc := 0, amaxAddr := 0, inStride := 1, outStride := 1, inFmt := .int8, wFmt := .int8, outFmt := .int8, m := 1, kLen := 16, half := false, acc := false, keep := false, drain := false, outScale := one32, mode := .nearest, sat := true, stream := 0, amaxEn := false }

/-- A move outside any list. -/
def ctx : MoveCtx := { mid := 1, cls := .tickCritical, jclass := 0, streamC := 0, resid := [] }

/-- Array 255, or 0, holds a valid half. -/
def halfValid : State := { banksOn with fm := { banksOn.fm with arrs := [(0, { h0 := { valid := true } })] } }

theorem witness_ArrayMoves :
    (unitLive rdy (unitGrid rdy 63).2.2 = true ∧ 63 ∈ (unitGrid rdy 63).2.2) ∧
    (0 < nArrays rdy.part ∧ pairOf arrOp.inFmt arrOp.wFmt = some (.int32, 16, 1) ∧ 1 ≤ arrOp.kLen ∧ arrOp.kLen ≤ 16) ∧
    (computeDown halfValid = false ∧ fmtMx arrOp.outFmt = false ∧ 8 ≤ fmtBits arrOp.outFmt ∧ arrOp.outAddr % 8 = 0 ∧
      memWf 0 halfValid.fm.mem = true ∧ (halfOf (arrOf halfValid 0) arrOp.half).valid = true ∧
      (halfOf (arrOf halfValid 0) arrOp.half).poison = [] ∧
      ∀ i, i < elemBytes arrOp.outFmt 16 → bankOn halfValid (fieldOf 0) (arrOp.outAddr + i) = true) := by decide +kernel

theorem witness_ArrayProductAccumulates :
    0 < nArrays banksOn.part ∧ computeDown banksOn = false ∧ pairOf arrOp.inFmt arrOp.wFmt = some (.int32, 16, 1) ∧ arrOp.keep = false ∧
      arrOp.drain = false := by decide +kernel

/-- Operands of a vector move over one vector, from FP16 to FP16. -/
def vecOp : VecOpnd :=
  { aAddr := 0, bAddr := 0x40000, cAddr := 0x80000, dAddr := 0xC0000, outAddr := 0x100000, scAddr := 0x140000, maskAddr := 0x180000, amaxAddr := 0, aFmt := .fp16, bFmt := .fp16, cFmt := .fp16, outFmt := .fp16, cmp := .lt, outEn := false, n := 1, len := 64, outScale := one32, mode := .nearest, sat := false, stream := 0, amaxEn := false }

theorem witness_VectorElementsStored :
    (elementRow (.vadd 0 vecOp ctx) = some (0, vecOp, ctx) ∧ fieldLive banksOn 0 = true ∧ fmtMx vecOp.outFmt = false ∧ 8 ≤ fmtBits vecOp.outFmt ∧
      vecOp.outAddr % 8 = 0 ∧ memWf 0 banksOn.fm.mem = true) ∧
    Unmarked banksOn 0 vecOp ∧ (∀ k, k < elemBytes vecOp.outFmt (64 * vecOp.n) → bankOn banksOn 0 (vecOp.outAddr + k) = true) := by
  unfold Unmarked; decide +kernel

theorem witness_RowOperationsStored :
    (rowReduction (.vrsum 0 vecOp ctx) = some (0, vecOp, ctx, sumRow) ∧ normRow (.vsmax 0 vecOp ctx) = some (0, vecOp, ctx)) ∧
    (vecOp.n = 1 ∧ vecOp.len = 64 ∧ rowCount vecOp = 1) ∧
    (∀ e, e < 64 → vPoison banksOn 0 (opA vecOp) e = 0 ∧ vPoison banksOn 0 (opGamma vecOp) e = 0 ∧ vPoison banksOn 0 (opBeta vecOp) e = 0) ∧
    vScalarPoison banksOn 0 vecOp = 0 ∧
    (∀ k, k < roundUp (elemBytes vecOp.outFmt (rowCount vecOp)) 8 → bankOn banksOn 0 (vecOp.outAddr + k) = true) :=
  ⟨⟨rfl, rfl⟩, by decide +kernel⟩

theorem witness_VectorOtherMoves :
    (vecOp.maskAddr % 8 = 0 ∧ ∀ k, k < 8 * vecOp.n → bankOn banksOn 0 (vecOp.maskAddr + k) = true) ∧
    (8 ≤ fmtBits vecOp.aFmt ∧ (∀ e, e < 256 * vecOp.n → elemPoison banksOn 0 vecOp.aFmt vecOp.aAddr e = 0)) ∧
    (let o := { vecOp with aFmt := .fp32, bAddr := 256, cAddr := 512, dAddr := 768, maskAddr := 1024 }
     o.bAddr + 256 * o.n ≤ o.cAddr ∧ o.cAddr + 256 * o.n ≤ o.dAddr ∧ o.dAddr + 256 * o.n ≤ o.maskAddr ∧
       (∀ i, i < 776 → bankOn banksOn 0 (o.bAddr + i) = true ∧ fmPoisonAt banksOn 0 (o.bAddr + i) = 0) ∧ vScalarPoison banksOn 0 o = 0 ∧
       ∀ e, e < 64 * o.n → vPoison banksOn 0 (opA o) e = 0) := by decide +kernel

theorem witness_MovesKeepOutsideStores :
    (storeRanges banksOn (.drain 0 arrOp ctx)).isSome = true ∧ (storeRanges banksOn (.vexp 0 { vecOp with outFmt := .mxfp4, amaxEn := true } ctx)).isSome = true ∧
      (storeRanges banksOn (.vadam 0 vecOp ctx)).isSome = true := by decide +kernel

/-- Operands of a set move over one index. -/
def setOp : SetOpnd :=
  { tAddr := 0x40000, aAddr := 0, bAddr := 0, outAddr := 0x80000, out2Addr := 0, tokAddr := 0xC0000, auxAddr := 0, nA := 1, nT := 4, row := 32, kfmt := .u32, vint := true, sub := 0, tLog2 := 4, k := 1, desc := false, clear := false, radius2 := 0, budgetAc := 100, budgetTx := 0, cont := false, late := 0, job := 0, sigObj := 4, sigN := 1 }

/-- A set move that has run and reached a state at the given end. -/
def setDone (st : Nat) (c : Bool) : SetEnd :=
  { o := { setOp with cont := c }, mid := 1, epoch := 0, state := st, err := 5, outN := 0, posA := 0, posB := 0, aux := 0, txUsed := 0, acUsed := 0, moves := 0, run := 0, ends := some (5, 9) }

/-- Field 0 holds that move at its end. -/
def setEnding (st : Nat) (c : Bool) : State := { banksOn with fm := { banksOn.fm with setEnds := [(0, setDone st c)] } }

theorem witness_SetMoves :
    ((setWork (.gather 0 setOp ctx)).isSome = true ∧ (setWork (.gatherD 0 setOp ctx)).isSome = true ∧ fieldLive banksOn 0 = true ∧
      tabHas banksOn.fm.setEnds 0 = false ∧ setOp.cont = false ∧ setOp.desc = false) ∧
    (∀ st ∈ [1, 2, 3], tabFind (setEnding st false).fm.setEnds 0 = some (setDone st false) ∧ endsNow (setDone st false) 9 = true ∧
      (setDone st false).o.sigN ≠ 0 ∧ (setDone st false).epoch = (syncOf (setEnding st false) 4).epoch ∧
      gatherFlies (setEnding st false) 0 1 0 = false) ∧
    (∀ st ∈ [1, 2, 3], tabFind (setEnding st true).fm.setEnds 0 = some (setDone st true) ∧ endsNow (setDone st true) 5 = true ∧
      memWf 0 (setEnding st true).fm.mem = true ∧ setOp.tokAddr % 8 = 0 ∧ ∀ k, k < 32 → bankOn (setEnding st true) 0 (setOp.tokAddr + k) = true) ∧
    endsNow (setDone 2 false) 10 = false ∧
    (let s := { banksOn with fm := { banksOn.fm with gatherEnds := [(0, [setDone 2 false])] } }
     tabGet [] s.fm.gatherEnds 0 = [setDone 2 false] ∧ (setDone 2 false).epoch = (syncOf s 4).epoch ∧ gatherFlies s 0 1 0 = false) := by
  decide +kernel

theorem witness_GatherElementCopiesRow :
    (let r : SetRun := { s := banksOn, rows := 4 }
     r.posA < setOp.nA ∧ idxA 0 setOp r = (0, 0) ∧ 0 ≠ none32 ∧ 0 < r.rows ∧
       idxA 0 setOp { r with s := { banksOn with fm := { banksOn.fm with mem := [(0, 9)] } } } = (9, 0) ∧ r.rows ≤ 9 ∧
       idxA 0 setOp { r with s := { banksOn with fm := { banksOn.fm with mem := [(0, 255), (1, 255), (2, 255), (3, 255)] } } } = (none32, 0)) := by
  decide +kernel

/-- A ready device in the last tick of a frame of 1,000, with a record committed. -/
def lastTick : State := { running with tick := { inFrame := 999, no := 5999, frame := 5, committed := true, trim := -2 } }

/-- What the front end and the sensors bring to a tick. -/
def quietTick : TickIn := { phase := 0, cm := [], mag := [], tj := 0, ic := 0 }

theorem witness_TickEdges :
    (feAlive lastTick = true ∧ lastTick.boot.extest = false ∧ lastTick.boot.stage = .ready ∧ lastTick.seq.active.isSome = true ∧
      lastTick.tick.frameLen ≤ lastTick.tick.inFrame + 1) ∧
    (feAlive State.reset = true ∧ State.reset.boot.extest = false ∧ State.reset.boot.stage ≠ .ready) := by decide +kernel

/-- A tick ring of 1,024 entries, empty or full. -/
def ticksRing (full : Bool) : Ring := { on := true, index := 0x1000000, prod := if full then 1024 else 0 }

theorem witness_CommitPointMakesRecord :
    (running.seq.active = some {} ∧ running.boot.stage = .ready ∧ running.tick.committed = false ∧ running.watch.run = 0 ∧
      running.tring.on = false) ∧
    ((tcOutstanding { moving [inFlight none] with boot := rdy.boot } aList) = true ∧ (moving [inFlight none]).tick.committed = false) ∧
    ((ticksRing false).on = true ∧ ringFull (ticksRing false) = false ∧ ringFull (ticksRing true) = true ∧ (ticksRing true).drop ≠ 0xFFFFFFFF) ∧
    ({ running with tick := { force := true } } : State).tick.force = true ∧ rdy.seq.active = none := by decide +kernel

/-- The first T0 of a frame, with one waiting command. -/
def boundaryWith (a : PendAct) : State := { waitingFor a with tick := { atBoundary := true, frame := 6, pendTsq := some (4800, 500) } }

theorem witness_FrameBoundaryTakesEffect :
    ((boundaryWith (.source 1 5)).tick.atBoundary = true ∧ computeDown (boundaryWith (.source 1 5)) = false ∧
      (boundaryWith (.source 1 5)).tick.pendTsq = some (4800, 500) ∧ (boundaryWith (.source 1 5)).seq.active = none ∧
      ((boundaryWith (.source 1 5)).mbx.waits.any fun w => w.act == .source 1 5) = true) ∧
    ((boundaryWith (.seed 9)).mbx.waits.any fun w => w.act == .seed 9) = true ∧
    ((boundaryWith (.governor {})).mbx.waits.map fun w => w.act) = [.governor {}] ∧
    (let s := { boundaryWith (.seed 9) with watch := { run := 1 } }; s.watch.run ≠ 0 ∧ s.watch.envQ.length < 32) ∧ rdy.tick.atBoundary = false := by
  decide +kernel

/-- A running PCIe-disciplined tick, or one in holdover with a phase error. -/
def sourced (hold : Bool) (bad good : Nat) (phase : Int) : State :=
  { rdy with tick := { source := 1, holdover := hold, bad := bad, good := good, phase := phase } }

theorem witness_TickSourceEvents :
    (computeDown (sourced false 0 0 0) = false ∧ (sourced false 0 0 0).tick.source = 1 ∧ 64 < (-65 : Int).natAbs ∧ (64 : Int).natAbs ≤ 64 ∧
      (2 : Int).natAbs ≤ trimLimit (sourced false 15 0 0) ∧ (sourced false 14 0 0).tick.bad < 15) ∧
    (trimLimit (sourced false 15 0 0) < (3 : Int).natAbs ∧ 15 ≤ (sourced false 15 0 0).tick.bad) ∧
    ((sourced true 0 3 0).tick.holdover = true ∧ (sourced true 0 3 0).tick.good < 16 ∧ 64 < (65 : Int).natAbs) ∧
    (computeDown (sourced true 0 3 0) = false ∧ (sourced true 0 3 0).tick.source ≠ 0 ∧ (sourced true 0 3 0).tick.source ≠ 2) ∧
    ((sourced true 0 16 40).tick.inFrame = 0 ∧ 16 ≤ (sourced true 0 16 40).tick.good ∧ trimLimit (sourced true 0 16 40) < (40 : Int).natAbs ∧
      (1 : Int).natAbs ≤ trimLimit (sourced true 0 16 1)) := by decide +kernel

/-- A ready device with a list of job class 3 and a watch image in a run state. -/
def watching (r : Nat) (w : Watch → Watch) : State :=
  { running with
    seq := { running.seq with active := some { jobs := [{ jclass := 3 }] } }
    watch := w { run := r, image := some { jcTrain := 3, jcEval := 3 } } }

theorem witness_WatchCommands :
    (TakenUp 0x0401 (cm 32 (2 ^ 225 + 64 * 2 ^ 160 + 16 * 2 ^ 80)) (watching 0 id) ∧ fld (cm 32 (2 ^ 225 + 64 * 2 ^ 160 + 16 * 2 ^ 80)) 95 80 0 = 16 ∧
      rangeOk (watching 0 id) (fld (cm 32 (2 ^ 225 + 64 * 2 ^ 160 + 16 * 2 ^ 80)) 255 192 0) (fld (cm 32 (2 ^ 225 + 64 * 2 ^ 160 + 16 * 2 ^ 80)) 191 160 0) = true ∧
      polderUp (watching 0 id) pDram = true ∧ (watching 0 id).dram.wrong = [] ∧ (watching 0 id).dram.poison = []) ∧
    (TakenUp 0x0402 (cm 1 0) (watching 0 id) ∧ fldB (cm 1 0) 0 false = false ∧ (watching 0 id).mbx.waits = []) ∧
    (TakenUp 0x0403 (cm 0 0) (watching 1 id) ∧ (watching 1 id).watch.run ≠ 0) ∧ TakenUp 0x0404 (cm 0 0) (watching 1 id) ∧
    (TakenUp 0x0405 (cm 0 0) (watching 2 id) ∧ (watching 2 id).watch.run = 2) ∧
    (TakenUp 0x0406 (cm 0 0) rdy ∧ watchParamsOk (watchParamsOf (cm 0 0)) = true) ∧
    (TakenUp 0x0407 (cm 2 0) (watching 1 id)) ∧
    (TakenUp 0x0408 (cm 1 0) (watching 1 fun w => { w with learned := { areaY := { valid := true } } }) ∧
      (otherArea ({ areaY := { valid := true } } : Learned)).valid = true) ∧
    TakenUp 0x0409 (cm 8 0) rdy ∧
    (TakenUp 0x040A (cm 16 (0xFFFF * 2 ^ 32)) (watching 1 id) ∧ exportLen { jcTrain := 3, jcEval := 3 } ≤ fld (cm 16 (0xFFFF * 2 ^ 32)) 63 32 0) ∧
    (TakenUp 0x040B (cm 16 (112 * 2 ^ 32)) (watching 0 id) ∧ fld (cm 16 (112 * 2 ^ 32)) 63 32 0 = 112) ∧
    (TakenUp 0x040C (cm 22 (9 * 2 ^ 132 + 6 * 2 ^ 128)) rdy ∧ ringOk 9 11 (ringOf (cm 22 (9 * 2 ^ 132 + 6 * 2 ^ 128))) = true) := by
  simp only [takenUp_iff]
  repeat' apply And.intro
  all_goals decide +kernel

theorem witness_WatchEvents :
    (let s := { watching 1 fun w => { w with learned := { regimes := [(0, { st := 1, met := some 3 })] } } with tick := { frame := 6 } }
     s.watch.image.isSome = true ∧ s.watch.run = 1 ∧ (regOfWatch s 0).met = some 3 ∧ s.tick.inFrame = 0 ∧ computeDown s = false ∧
       s.tick.frame = 3 + 2 + BitVec.ofNat 32 1) ∧
    (let s := watching 1 fun w => { w with samples := List.replicate 256 0 }
     s.watch.params.batch ≤ s.watch.samples.length ∧ classIdle s 3 0 = true ∧ s.seq.tierRun < 2 ∧ s.fm.descQueue = []) ∧
    (let s := watching 1 fun w => { w with learned := { t := 2000 } }
     s.watch.learned.t ≠ 0 ∧ s.watch.learned.t % s.watch.params.evalEvery = 0 ∧ s.watch.learned.t ≠ s.watch.evalT ∧ classIdle s 3 0 = true ∧
       s.seq.tierRun < 2 ∧ s.watch.promote = false ∧ copyUnderWay s { jcTrain := 3, jcEval := 3 } = false) ∧
    (let s := watching 1 fun w => { w with promote := true }; s.watch.promote = true ∧ s.watch.fade = none ∧
       snapRuns s { jcTrain := 3, jcEval := 3 } = false ∧ s.tick.atBoundary = false) ∧
    (let s := { watching 1 fun w => { w with copied := true } with tick := { atBoundary := true } }
     s.watch.copied = true ∧ s.tick.atBoundary = true ∧ s.watch.fade = none ∧ copyDone s = true ∧ watchWaits s = false) ∧
    (let s := { watching 1 fun w => { w with fade := some { j := 17, len := 16, rollback := false, reseed := false, start := 4 } } with tick := { frame := 20 } }
     s.watch.fade = some { j := 17, len := 16, rollback := false, reseed := false, start := 4 } ∧ watchWaits s = false ∧ s.tick.inFrame = 0 ∧
       16 ≤ (s.tick.frame - 4).toNat) ∧
    (let s := watching 1 fun w => { w with conds := [{ cause := .level, body := [1] }] }
     computeDown s = false ∧ (s.watch.conds.find? fun e => e.cause == .level) = some { cause := .level, body := [1] }) ∧
    (let s := watching 1 fun w => { w with envQ := [{ cond := true, cfg := 0, body := [] }] }; s.watch.envQ = [{ cond := true, cfg := 0, body := [] }] ∧ s.rring.on = false) := by
  decide +kernel

/-- A list with an attention job of class 5, whose staging region is the first 64 KiB of field 0, and a refill job of class 6. -/
def kvList : MList :=
  { jobs := [{ jclass := 5 }, { jclass := 6 }]
    scheds := [{ jsteps := [(0, 1), (1, 1)], steps := [{ opcode := 0x7F, opnd := 1 }, { opcode := 0x7F, opnd := 2 }] }]
    opnds := [0, 0x10000#512 <<< 480, (1#512 <<< 415) + (7#512 <<< 443)] }

/-- That list runs with a pool of 64 MiB, the first banks of field 0 with a DMA port. -/
def kvWith (k : Kv → Kv) : State :=
  { rdy with seq := { active := some kvList, sched := some 0, owner := [(0, 0x15), (1, 0x16)] }, kv := k { pool := some { base := 104 * 2 ^ 30, sizeMib := 64, compBudget := 8 } } }

/-- One sequence of one layer in slot 0. -/
def kvSeq : KvSeq := { refillJc := 6, maxPos := 1023, compPages := 1, dHead := 32, slots := [0] }

/-- KV_OPEN of a pinned sequence of one layer with one head of 16. -/
def openBits : Nat := 9 * 2 ^ 108 + 9 * 2 ^ 104 + 15 * 2 ^ 82 + 2 ^ 144 + 127 * 2 ^ 127

/-- The sequence that it opens, before its slots. -/
def opened : KvSeq := { pinned := true, maxPos := 127, dHead := 16 }

theorem witness_PoolCommands :
    (let b := 104 * 2 ^ 30 * 2 ^ 64 + 64 * 2 ^ 48
     TakenUp 0x0501 (cm 16 b) rdy ∧ rdy.kv.seqs = [] ∧ fld (cm 16 b) 127 64 0 = 104 * 2 ^ 30 ∧ fld (cm 16 b) 63 48 0 = 64 ∧
       fld (cm 16 b) 47 32 8 = 0 ∧ usableBytes rdy - kvRegion rdy ≤ 104 * 2 ^ 30 ∧ 104 * 2 ^ 30 + 64 * 2 ^ 20 ≤ usableBytes rdy ∧
       polderUp rdy pDram = true) ∧
    (let s := kvWith id
     TakenUp 0x0502 (cm 32 openBits) s ∧ fmtOf (fld (cm 32 openBits) 111 108 0) = some .bf16 ∧ fmtOf (fld (cm 32 openBits) 107 104 0) = some .bf16 ∧
       opened = { srcAddr := fld (cm 32 openBits) 255 192 0, srcRec := fld (cm 32 openBits) 191 176 0, stgAddr := fld (cm 32 openBits) 175 153 0, stgField := fld (cm 32 openBits) 152 149 0, refillJc := fld (cm 32 openBits) 148 145 0, pinned := fldB (cm 32 openBits) 144 false, maxPos := fld (cm 32 openBits) 143 127 0, compPages := fld (cm 32 openBits) 126 117 0, kvFmt := .bf16, qFmt := .bf16, layers := fld (cm 32 openBits) 103 98 0 + 1, kvHeads := fld (cm 32 openBits) 97 94 0 + 1, group := fld (cm 32 openBits) 93 90 0 + 1, dHead := fld (cm 32 openBits) 89 82 0 + 1 } ∧
       kvFormat opened.kvFmt = true ∧ seqPage opened ≤ 2 ^ 20 ∧ inStaging s opened.stgField opened.stgAddr (opened.layers * seqPage opened) = true ∧
       (usedSlots s).length + opened.layers ≤ 1024 ∧ promotes opened.qFmt opened.kvFmt = true ∧ tabHas s.kv.seqs 255 = false ∧
       pageGranules (seqPage opened) ≤ freeGranules s) ∧
    (let s := kvWith fun k => { k with seqs := [(2, kvSeq)] }
     TakenUp 0x0503 (cm 4 (2 * 2 ^ 24)) s ∧ seqField (cm 4 (2 * 2 ^ 24)) = 2 ∧ tabHas s.kv.seqs 2 = true ∧ seqRequested s 2 = false ∧
       polderUp s pDram = true ∧ s.kv.refill = none) ∧
    (let s := kvWith fun k => { k with seqs := [(2, kvSeq)], layers := [(0, { length := 127, staged := 127 })] }
     TakenUp 0x0504 (cm 4 (2 * 2 ^ 24 + 1)) s ∧ seqField (cm 4 (2 * 2 ^ 24 + 1)) = 2 ∧ layerOpen s 2 0 = true ∧ slotOf s 2 0 = 0 ∧
       fld (cm 4 (2 * 2 ^ 24 + 1)) 7 0 0 = 1 ∧ (layerOf s 0).flushing = false ∧ (layerOf s 0).staged = 127 ∧ (layerOf s 0).length = 127) ∧
    (let s := kvWith fun k => { k with seqs := [(2, kvSeq)] }
     TakenUp 0x0505 (cm 4 (2 * 2 ^ 24)) s ∧ nextHole s 2 (fld (cm 4 (2 * 2 ^ 24)) 21 12 0) (fld (cm 4 (2 * 2 ^ 24)) 9 0 0) = none) ∧
    (let s := kvWith fun k => { k with seqs := [(2, kvSeq)], pages := [(0, { state := 2 })] }
     TakenUp 0x0505 (cm 4 (2 * 2 ^ 24)) s ∧ pinnedSeq s 2 = false ∧ s.kv.refill = none ∧ s.fm.descQueue = [] ∧ (jobOfClass s true 6).isSome = true ∧
       nextHole s 2 (fld (cm 4 (2 * 2 ^ 24)) 21 12 0) (fld (cm 4 (2 * 2 ^ 24)) 9 0 0) = some 0) ∧
    TakenUp 0x0506 (cm 4 0) (kvWith id) := by
  simp only [takenUp_iff]; decide +kernel

/-- A full staging buffer. -/
def flushing : State := kvWith fun k => { k with seqs := [(2, kvSeq)], layers := [(0, { length := 128, staged := 128, flushing := true })] }

/-- A refill of one page, whose ticket the refill job has done. -/
def refilling : State :=
  let s := kvWith fun k => { k with seqs := [(2, kvSeq)], pages := [(0, { state := 2 })], refill := some { seq := 2, page := 0, last := 0, layerMask := 1, seen := 0 } }
  { s with
    mbx := { s.mbx with waits := [{ cmd := cm 0 0, opcode := 0x0505, act := .refill 2 0 0 }] }
    seq := { s.seq with sync := [(7, { count := 1, hits := 1 })] } }

/-- A resident page that is due for compaction. -/
def compacting (due : Bool) : State :=
  kvWith fun k => { k with
    seqs := [(2, kvSeq)], layers := [(0, { length := 256 })], jobs := [(5, { compact := true })]
    pages := if due then [(0, { granule := 8192, len256 := 64, seq := 2, fmt := .bf16, state := 1 })] else [] }

theorem witness_PoolEvents :
    (slotOf flushing 2 0 = 0 ∧ (layerOf flushing 0).flushing = true ∧ flushing.kv.pool.isSome = true ∧
      bufferReach flushing 2 0 = true ∧ dramUp flushing = true ∧ (layerOf flushing 0).length - (layerOf flushing 0).staged = 0 ∧
      freeStarts flushing (pageGranules (seqPage kvSeq)) ≠ [] ∧ memWf 0 flushing.dram.mem = true) ∧
    (slotOf (kvWith id) 2 0 = 1024 ∧ (layerOf (kvWith id) 1024).flushing = false) ∧
    bufferReach { flushing with seq := { flushing.seq with owner := [] } } 2 0 = false ∧
    dramUp (needDram { flushing with power := {} }) = false ∧
    (((jobOfClass refilling true kvSeq.refillJc).map fun e => (e.1, (syncOf refilling e.2.tktObj).hits)) = some (1, 1) ∧
      ((jobOfClass refilling true kvSeq.refillJc).map fun e => fwReach refilling e.2.stgField e.2.stgAddr e.2.stgBytes) = some true ∧ (pageOf refilling 0).state = 2 ∧
      0 ∉ lockedPages refilling ∧ dramUp refilling = true ∧ freeStarts refilling (pageGranules (seqPage kvSeq)) ≠ []) ∧
    ((jobOfClass (compacting true) false 5).map fun e => (e.1, duePages (compacting true) e.2, fwReach (compacting true) e.2.stgField e.2.stgAddr e.2.stgBytes)) =
      some (0, [0], true) ∧ dramUp (compacting true) = true ∧
    freeStarts (compacting true) (pageGranules (pageBytes .mxfp4 kvSeq.kvHeads kvSeq.dHead)) ≠ [] ∧
    ((jobOfClass (compacting false) false 5).map fun e => (e.1, duePages (compacting false) e.2)) = some (0, []) := by
  decide +kernel

/-- A request to job class 5, one row of BF16. -/
def reqNum (standing : Bool) : Nat := (5 <<< 622) + (9 <<< 740) + (9 <<< 736) + (1 <<< 716) + (2 <<< 758) + if standing then 1 <<< 627 else 0

/-- That request in the queue. -/
def aReq : Req := { num := 0, bits := reqBits (cm 128 (reqNum false)), oneShot := true }

/-- A pool with one open sequence and an attention job's state. -/
def attending (a : AttnJob) : State :=
  kvWith fun k => { k with seqs := [(2, kvSeq)], layers := [(0, { length := 4, staged := 4 })], jobs := [(5, a)] }

theorem witness_AttentionRequests :
    (TakenUp 0x0510 (cm 128 (reqNum false)) (attending {}) ∧ reqParamOk (attending {}) aReq = true ∧ reqFormatOk (attending {}) aReq = true ∧
      rJob aReq = 5 ∧ attnCarried (attending {}) 5 = true ∧ (attnOf (attending {}) 5).queue = [] ∧ fldB (cm 128 (reqNum true)) 627 false = true) ∧
    (TakenUp 0x0511 (cm 2 0) (attending { queue := [aReq] }) ∧
      (attending { queue := [aReq] }).kv.jobs.find? (fun e => e.2.queue.any fun r => r.num == fld (cm 2 0) 15 0 0) = some (5, { queue := [aReq] })) ∧
    (TakenUp 0x0511 (cm 2 0) (attending { queue := [aReq], serving := some { req := aReq } }) ∧ aReq.num = fld (cm 2 0) 15 0 0) ∧
    (TakenUp 0x0511 (cm 2 0) (attending { queue := [aReq], todo := [0] }) ∧ (attnOf (attending { queue := [aReq], todo := [0] }) 5).todo.head? = some (fld (cm 2 0) 15 0 0)) ∧
    (let s := attending { queue := [aReq] }
     TakenUp 0x0511 (cm 2 0) { s with mbx := { s.mbx with waits := [{ cmd := { cm 0 0 with slot := 1 }, opcode := 0x0510, act := .serve 0 }] } }) ∧
    TakenUp 0x0512 (cm 0 0) (attending {}) ∧
    (let s := attending { queue := [aReq], todo := [0] }
     mayServe s 5 = true ∧ (attnOf s 5).queue.find? (fun x => x.num == 0) = some aReq ∧ rWaitTgt aReq ≤ (syncOf s (rWaitObj aReq)).count ∧
       rMerge aReq = false ∧ rAppend aReq = 0 ∧ appendFlushes s aReq = false ∧ dramUp s = true) ∧
    (rStKind aReq = 0 ∧ rSt aReq % 16 = 0 ∧ memWf 0 banksOn.fm.mem = true ∧ bankOn banksOn (rSt aReq / 2 ^ 23) (rSt aReq % 2 ^ 23) = true ∧ bankOn banksOn (rSt aReq / 2 ^ 23) (rSt aReq % 2 ^ 23 + 8) = true) := by
  simp only [takenUp_iff]; decide +kernel

/-- Chip 0 of a ring of two, its links 0 and 1 in a state. -/
def ringOf2 (l : Link) (ls : Links → Links) : State :=
  { rdy with
    power := { polders := [(288, .up), (289, .up), (290, .up)] }
    links := ls { ident := { topo := 1, dimX := 1, linkEn := 3 }, link := [(0, l), (1, { l with phase := .up })] } }

/-- The head of a transfer of 64 bytes to field 0 of a chip. -/
def headTo (chip : Nat) : HeadFlit :=
  { len := 64, rows := 0, dstStride := 0, dst := 0, sigObj := 0, sigN := 0, sigScope := 0, tick := 0, planId := 0, dstChip := chip, hopsX := 1, dirX := false, hopsY := 0, dirY := false, yFirst := false }

/-- A flit of chip 1's transfer 5. -/
def flitOf (b : FlitBody) : Flit := { cls := .scheduled, srcChip := 1, tag := 5, body := b }

/-- A queued own flit. -/
def ownFlit (c : FlitClass) : QFlit := { fwd := false, flit := { flitOf (.head (headTo 1)) with srcChip := 0, cls := c } }

theorem witness_LinkCommands :
    (let b := 1 * 2 ^ 8 + 1 * 2 ^ 16 + 3 * 2 ^ 24 + 100 * 2 ^ 32
     TakenUp 0x0701 (cm 8 b) rdy ∧ identOk (identOf (identBits (cm 8 b))) = true ∧ ∀ l, l < 4 → (linkOf rdy l).phase = .disabled) ∧
    TakenUp 0x0702 (cm 0 0) rdy ∧
    (let s := ringOf2 { phase := .up } id
     TakenUp 0x0703 (cm 1 3) s ∧ BitVec.ofNat 4 (fld (cm 1 3) 3 0 0) &&& ~~~s.links.ident.linkEn = 0 ∧ BitVec.ofNat 4 (fld (cm 1 3) 3 0 0) ≠ 0 ∧
       fldB (cm 1 3) 4 false = false) ∧
    (TakenUp 0x0703 (cm 1 0x10) rdy ∧ BitVec.ofNat 4 (fld (cm 1 0x10) 3 0 0) = 0) ∧
    (let s := ringOf2 { phase := .up } fun k => { k with avoid := 1 }
     TakenUp 0x0703 (cm 1 0x13) s ∧ fldB (cm 1 0x13) 4 false = true ∧ BitVec.ofNat 4 (fld (cm 1 0x13) 3 0 0) &&& ~~~s.links.ident.linkEn = 0 ∧
       ∀ l, l < 4 → (fld (cm 1 0x13) 3 0 0).testBit l = true → (linkOf s l).phase = .up) ∧
    (let s := ringOf2 { phase := .adminDown } id
     TakenUp 0x0703 (cm 1 0x11) s ∧ BitVec.ofNat 4 (fld (cm 1 0x11) 3 0 0) = 1 ∧
       BitVec.ofNat 4 (fld (cm 1 0x11) 3 0 0) &&& ~~~s.links.ident.linkEn = 0 ∧ fldB (cm 1 0x11) 4 false = true ∧
       (linkOf s 0).phase ≠ .up ∧ polderUp s (pLink 0) = true) ∧
    TakenUp 0x0704 (cm 0 0) rdy ∧
    (let s := ringOf2 { phase := .up } id
     TakenUp 0x0705 (cm 1 1) s ∧ fld (cm 1 1) 5 0 0 < (s.links.ident.dimX + 1) * (s.links.ident.dimY + 1) ∧ (routeTo s 1).isSome = true) ∧
    (let s := ringOf2 {} fun k => { k with link := [], downMap := [0, 1, 4, 5] }
     TakenUp 0x0705 (cm 1 1) s ∧ fld (cm 1 1) 5 0 0 ≠ s.links.ident.chipId ∧ routeTo s 1 = none) ∧
    (computeDown (waitingFor (.linkDown 1 true)) = false ∧ ((waitingFor (.linkDown 1 true)).mbx.waits.map fun w => w.act) = [.linkDown 1 true] ∧
      adminDrained 1 (waitingFor (.linkDown 1 true)) = true) ∧
    adminDrained 1 (ringOf2 { phase := .up, txq := [ownFlit .bestEffort] } id) = false := by
  simp only [takenUp_iff]
  repeat' apply And.intro
  all_goals decide +kernel

/-- A marker of chip 0's tick in epoch 1. -/
def marker : Marker := { tick := 10, frame := 0, tickInFrame := 10, period := 2400, frameLen := 1000, master := 0, epoch := 1, hops := 0, arrPs := 2500 }

theorem witness_LinkAndSharedTickEvents :
    ((linkOf (ringOf2 { phase := .training } id) 0).phase = .training ∧ computeDown (ringOf2 { phase := .training } id) = false ∧
      partnerOk (ringOf2 {} id).links.ident 0 1 1 1 0 1 = true) ∧
    ((linkOf (ringOf2 { phase := .down } id) 0).phase = .down ∧ polderUp (ringOf2 { phase := .down } id) (pLink 0) = true) ∧
    ((linkOf (ringOf2 { phase := .up, replayRun := 16 } id) 0).phase = .up ∧ 16 ≤ (linkOf (ringOf2 { phase := .up, replayRun := 16 } id) 0).replayRun) ∧
    (2 ≤ (linkOf (ringOf2 { phase := .up, upFrames := 2 } id) 0).upFrames ∧ (ringOf2 {} id).tick.inFrame = 0) ∧
    1 ≠ (ringOf2 {} id).links.ident.chipId ∧
    (let s := { ringOf2 { phase := .up } id with tick := { source := 2 } }
     (linkOf s 0).phase = .up ∧ s.links.master = false ∧ s.tick.source = 2 ∧ betterMaster s marker = true ∧ sameMaster s marker = false ∧
       marker.period = s.tick.period ∧ marker.frameLen = s.tick.frameLen ∧ (markerErr s 0 marker).natAbs ≤ 64) ∧
    (let s := ringOf2 { phase := .up } fun k => { k with master := true }; s.links.master = true ∧ betterMaster s marker = true) ∧
    (let s := { ringOf2 {} (fun k => { k with best := some (1, 1) }) with tick := { source := 2 } }
     computeDown s = false ∧ s.tick.source = 2 ∧ s.links.master = false ∧ s.links.best = some (1, 1)) ∧
    (let s := { ringOf2 {} id with tick := { source := 2 } }; s.links.best = none ∧ s.tick.holdover = false) ∧
    (let s := { ringOf2 {} id with tick := { source := 2, holdover := true, good := 5 } }; s.links.best = none ∧ s.tick.holdover = true) := by decide +kernel

/-- The transfer that its head opened. -/
def arriving : Xfer :=
  { id := 0, field := 0, mid := 0, tc := false, srcKind := .peer, src := 0, srcStride := 0, dstKind := .fieldMem, dst := 0, dstStride := 0, rowLen := 64, chunks := [], sigObj := 0, sigN := 0, epoch := 0, registered := true, gather := false, head := some (headTo 0), link := 0, chip := 1, tag := 5, whole := false, cls := .scheduled }

/-- Field 0's engine buffer is full of data that wait for their bank. -/
def crowded (n : Nat) : State :=
  { ringOf2 { phase := .up } (fun k => { k with routes := [(xferKey 1 5, 4)] }) with
    fm := { xfers := [{ arriving with chunks := List.replicate n { off := 0, len := 64, data := some [], poison := [] } }] } }

theorem witness_FlitsMove :
    computeDown (ringOf2 { phase := .up } id) = false ∧
    (let k : Link := { phase := .up, rsv := [{ first := 3, count := 2, src := 0 }], txq := [ownFlit .scheduled], credSched := 1, farPlan := some 9 }
     let s := { ringOf2 k id with seq := { active := some {}, planId := some 9 } }
     (linkOf s 0) = k ∧ 6 * 4 + 6 ≤ s.tick.period ∧ (linkOf s 0).slotNext ≤ 4 ∧ 6 * 4 + 6 ≤ ((s.tick.period : Int) + s.tick.trim).toNat ∧ plansAgree s 0 = true ∧ 3 ≤ 4 ∧ 4 < 3 + 2 ∧ (ownFlit .scheduled).fwd = false ∧ 0 ≠ 1) ∧
    (let k : Link := { phase := .up, txq := [ownFlit .bestEffort], credShared := 1 }
     (linkOf (ringOf2 k id) 0) = k ∧ (ownFlit .bestEffort).flit.cls ≠ .scheduled) ∧
    (let k : Link := { phase := .up, replay := [ownFlit .scheduled, ownFlit .detour] }
     (linkOf (ringOf2 k id) 0).phase = .up ∧ 1 < (linkOf (ringOf2 k id) 0).replay.length) ∧
    (nextHop (ringOf2 { phase := .up } id).links.ident (headTo 1) = some 0 ∧ (linkOf (ringOf2 { phase := .up } id) 0).phase = .up ∧
      lineGood (lineFlit 0 (flitOf (.head (headTo 1)))) = true ∧ flitRead (lineFlit 0 (flitOf (.head (headTo 1)))) = some (flitOf (.head (headTo 1))) ∧
      (lineFlit 0 (flitOf (.head (headTo 1)))).nth = (linkOf (ringOf2 { phase := .up } id) 0).rxCount) ∧
    (let s := { ringOf2 { phase := .up } id with power := { polders := [(272, .up)] } }
     nextHop s.links.ident (headTo 0) = none ∧ flitRead (lineFlit 0 (flitOf (.head (headTo 0)))) = some (flitOf (.head (headTo 0))) ∧ (headTo 0).dst / 2 ^ 23 < nFields s.part ∧ fenced s.seq.fence (256 + (headTo 0).dst / 2 ^ 23) = false ∧
       polderPowered s (pFm ((headTo 0).dst / 2 ^ 23)) = true ∧ 1 ≤ (headTo 0).len) ∧
    (let s := { ringOf2 { phase := .up } (fun k => { k with routes := [(xferKey 1 5, 4)] }) with fm := { xfers := [arriving] } }
     xferKey 1 5 ∉ s.links.dropping ∧ tabFind s.links.routes (xferKey 1 5) = some 4 ∧ arriving ∈ s.fm.xfers ∧ received arriving = true ∧
       arriving.head = some (headTo 0) ∧ flitRead (lineFlit 0 (flitOf (.data true 0 (zeros 64)))) = some (flitOf (.data true 0 (zeros 64))) ∧ arrivalRoom 1 5 s = true) ∧
    (let s := ringOf2 { phase := .up } fun k => { k with routes := [(xferKey 1 5, 1)] }
     tabFind s.links.routes (xferKey 1 5) = some 1 ∧ (linkOf s 1).phase = .up ∧ xferKey 1 5 ∉ s.links.dropping ∧
       lineGood (lineFlit 0 (flitOf (.data true 0 (zeros 64)))) = true) ∧
    (let s := ringOf2 { phase := .up } fun k => { k with dropping := [xferKey 1 5] }
     xferKey 1 5 ∈ s.links.dropping ∧ flitRead (lineFlit 0 (flitOf (.data false 0 (zeros 64)))) = some (flitOf (.data false 0 (zeros 64)))) ∧
    arrivalRoom 1 5 (crowded 64) = false ∧
    lineGood { lineFlit 0 (flitOf (.data true 0 (zeros 64))) with payload := 1 :: zeros 63 } = false ∧
    lineGood (lineFlit 1 (flitOf (.data true 0 (zeros 64)))) = true ∧ (lineFlit 1 (flitOf (.data true 0 (zeros 64)))).nth ≠ 0 ∧
    (let h : W32 := 3#32 <<< 30
     lineGood { nth := 0, header := h, payload := zeros 64, crc := flitCrc h (zeros 64) } = true ∧
       flitRead { nth := 0, header := h, payload := zeros 64, crc := flitCrc h (zeros 64) } = none) := by decide +kernel

/-- `rdy` with polders in given states. -/
def poldersAre (ps : Tab PolderSt) (w : Power → Power) : State := { rdy with power := w { polders := ps } }

theorem witness_PowerStates :
    TakenUp 0x0901 (cm 0 0) rdy ∧ (TakenUp 0x0902 (cm 0 0) rdy ∧ rdy.mbx.waits = []) ∧
    (polderPresent rdy.part 0 = true ∧ polder (poldersAre [(272, .up)] id) 0 = .down ∧ PwrReq.polder 0 ∉ (poldersAre [(272, .up)] id).power.queue ∧
      polderField 0 = some 0 ∧ polder (poldersAre [(272, .up)] id) (pFm 0) = .up) ∧
    polder (poldersAre [(292, .draining 5)] id) 292 = .draining 5 ∧ polder rdy 288 = .up ∧
    (let s := poldersAre [] fun w => { w with queue := [.polder 272] }
     s.power.queue = [.polder 272] ∧ polder s 272 = .down ∧ polderField 272 = none ∧ recentGrants s (absAt s 0) < 2) ∧
    (let s := poldersAre [(272, .powering 0)] id; polder s 272 = .powering 0 ∧ 0 + 3600 ≤ absAt s 3600 ∧ 272 ∉ s.power.retry ∧ memWf 0 s.fm.mem = true) ∧
    (let s := poldersAre [(272, .up)] id; polder s 272 = .up ∧ downForbidden s 272 = false) ∧
    (let s := poldersAre [(272, .draining 5)] id; 5 ≤ absAt s 5 ∧ drainBusy s 272 = false) ∧
    (let s := { poldersAre [(0, .draining 5)] id with seq := { flying := [{ inFlight (some 1) with engine := 0 }] } }
     polder s 0 = .draining 5 ∧ 5 + 4096 ≤ absAt s 4101 ∧ drainBusy s 0 = true) ∧
    (let s := { poldersAre [(272, .up)] id with fm := { banks := [(31, .retaining), (30, .on)] } }
     polderUp s (pFm 0) = true ∧ bankSt s 0 0 = .off ∧ bankSt s 0 31 = .retaining ∧ bankSt s 0 30 = .on ∧ (0xFFFFFFFF#32).getLsbD 31 = true ∧ (0xFFFFFFFF#32).getLsbD 30 = true) ∧
    (let s := { rdy with fm := { banks := [(31, .turning (some 7)), (30, .waking 7)] } }
     bankSt s 0 31 = .turning (some 7) ∧ bankSt s 0 30 = .waking 7 ∧ 7 ≤ absAt s 7 ∧ memWf 0 s.fm.mem = true) ∧
    (let s := { poldersAre [(272, .up)] (fun w => { w with closing := [(1, { mask := 1, since := 0 })] }) with fm := { banks := [(0, .on)] } }
     polder s (pFm 0) = .up ∧ tabFind s.power.closing (2 * 0 + b2n true) = some { mask := 1, since := 0 } ∧
       tabFind s.power.closing (2 * 0 + (1 - b2n true)) = none ∧ gateBusy s 0 1 = false ∧ bankSt s 0 0 = .on ∧ memWf 0 s.fm.mem = true) ∧
    (let s := { poldersAre [(288, .powering 0)] id with mbx := { rdy.mbx with barQ := [.read 64 8] } }
     polder s pDram = .powering 0 ∧ 0 + 3600 ≤ absAt s 3600 ∧ pDram ∉ s.power.retry ∧ s.mbx.barQ = [.read 64 8] ∧ s.mbx.waits = [] ∧
       s.dram.wrong = [] ∧ s.dram.poison = []) ∧
    (let s := { waitingFor .dram with power := { polders := [(288, .powering 0)] } }
     polder s pDram = .powering 0 ∧ s.mbx.barQ = [] ∧ (s.mbx.waits.map fun w => w.act) = [.dram]) ∧
    linkKept (poldersAre [(272, .up)] id) 272 = false ∧ downForbidden (poldersAre [(272, .up), (0, .up)] id) 272 = true ∧
    (let s := { ringOf2 { phase := .up } id with power := { polders := [(289, .draining 5)] } }
     polder s 289 = .draining 5 ∧ drainBusy s 289 = false ∧ (linkOf s 0).phase = .up) := by
  simp only [takenUp_iff]; decide +kernel

theorem witness_ComputeDieResets :
    (TakenUp 0x0006 (cm 1 0) rdy ∧ fld (cm 1 0) 1 0 0 = 0) ∧ computeDown rdy = false ∧
    (115 * 256 ≤ (29440 : Int) ∧ ({ rdy with power := { overTicks := 600 } } : State).power.overTicks = 600) ∧
    (let s := { rdy with boot := { rdy.boot with cores := 8 } }; computeDown s = false ∧ s.boot.cores = 1#4 <<< 3) ∧
    (let s := { rdy with boot := { rdy.boot with cores := 15 } }
     s.boot.cores.getLsbD 3 = true ∧ s.boot.cores ≠ 1#4 <<< 3 ∧ s.boot.lastWdt = none ∧ s.boot.staged = false) := by
  simp only [takenUp_iff]; decide +kernel

/-- A die at a bring-up stage. -/
def staged (g : Stage) (b : Boot → Boot) : State := { rdy with boot := b { stage := g, perst := false } }

theorem witness_FrontEndPowerAndBringUp :
    (TakenUp 0x0006 (cm 1 1) rdy ∧ fld (cm 1 1) 1 0 0 = 1) ∧ (feAlive rdy = true ∧ rdy.boot.extest = false ∧ rdy.nv.powerFail = false) ∧
    (staged .reset fun b => { b with extest := true }).boot.extest = true ∧
    (let s := { rdy with nv := { powerFail := true } }; feAlive s = true ∧ s.nv.powerFail = true ∧ s.nv.planes = [] ∧ s.nv.storing = none) ∧
    mayStart (staged .reset id) = true ∧ (staged .rom id).boot.stage = .rom ∧
    ((staged .fwStart id).boot.stage = .fwStart ∧ (staged .fwStart id).dram.trained = false ∧ failingChannel 0 (List.replicate 16 4) = none ∧
      (failingChannel 1 (List.replicate 16 4)).isSome = true) ∧
    (let s := { staged .dram id with dram := { trained := true } }; s.boot.stage = .dram ∧ s.dram.trained = true ∧ s.dram.ready = false) ∧
    (staged .sync id).boot.stage = .sync ∧
    ((staged .halted id).boot.stage = .halted ∧ 0x3FFFFF + [1#8].length ≤ 0x400000 ∧ memWf 0xFF#8 (staged .halted id).boot.flash = true) := by
  simp only [takenUp_iff]; decide +kernel

/-- A device whose DRAM answers. -/
def dramReady (d : Dram → Dram) : State := { rdy with dram := d { chGib := 4, ready := true, trained := true } }

theorem witness_HostWindow :
    (computeDown (dramReady id) = false ∧ winRefused (dramReady id) ((dramReady id).mbx.winBase.toNat + 2 ^ 29) 64 = false ∧
      polderUp (dramReady id) pDram = true ∧ (dramReady id).dram.wrong = [] ∧ memWf 0 (dramReady id).dram.mem = true ∧
      meetsPool (dramReady id) ((dramReady id).mbx.winBase.toNat + 2 ^ 29) 64 = false ∧
      meetsTransfer (dramReady id) ((dramReady id).mbx.winBase.toNat + 2 ^ 29) 64 = false ∧ jobRanges (dramReady id) = []) ∧
    (let s := { dramReady id with power := {} }
     polder s pDram = .down ∧ PwrReq.polder pDram ∉ s.power.queue ∧ polderPresent s.part pDram = true ∧
       winRefused s (s.mbx.winBase.toNat + 2 ^ 29) 64 = false) ∧
    (let s := { dramReady id with kv := { pool := some { base := 0, sizeMib := 1024, compBudget := 8 } } }
     meetsPool s (s.mbx.winBase.toNat + 2 ^ 29) 64 = true ∧ winRefused s (s.mbx.winBase.toNat + 2 ^ 29) 64 = false) ∧
    winRefused (dramReady id) ((dramReady id).mbx.winBase.toNat + (2 ^ 29 - 1)) 1 = true ∧
    linesOf ((dramReady id).mbx.winBase.toNat + 2 ^ 29) 64 ≠ [] := by decide +kernel

theorem witness_MemoryUpkeep :
    dramUp (dramReady id) = true ∧ computeDown (dramReady id) = false ∧
    (let s := dramReady fun d => { d with wrong := [(5, 1)], scrub := 5 }
     dramUp s = true ∧ s.dram.scrub = 5 ∧ dramTurn s 3 = true ∧ 64 * 5 < usableBytes s ∧ lineWrong s 5 = 1 ∧ tabGet false s.dram.poison 5 = false ∧ lineWrong (dramReady id) 0 = 0 ∧ 6 ≠ s.dram.scrub) ∧
    (let s := { banksOn with fm := { banksOn.fm with rewrite := [(0, [8])], flips := [(1, 1)] }, seq := { owner := [(0, 0x15)] } }
     tabGet [] s.fm.rewrite 0 = [8] ∧ tabGet 0x1F s.seq.owner (32 * 0 + bankOf 8) = 0x15 ∧ bankOn s 0 8 = true ∧
       tabGet 0 s.fm.flips (fmGroup 0 8) = 1 ∧ tabGet 0 s.fm.poison (fmGroup 0 8) = 0 ∧ memWf 0 s.fm.mem = true) := by decide +kernel

/-- A DMA move of two rows of 64 bytes from field memory. -/
def dmaOp (k : DmaKind) : DmaOpnd :=
  { src := 0, dst := 0, len := 64, rows := 2, srcStride := 64, dstStride := 64, srcKind := .fieldMem, dstKind := k, bestEffort := false, peer := 1, sigObj := 4, sigN := 1 }

/-- A transfer of two pieces, the first with its data. -/
def twoPieces (k : DmaKind) : Xfer :=
  { arriving with dstKind := k, head := none, rowLen := 16, whole := true, chunks := [{ off := 0, len := 8, data := some (List.replicate 8 1), poison := [] }, { off := 8, len := 8, data := none, poison := [] }] }

theorem witness_DmaQueuesTransfer :
    (computeDown rdy = false ∧ 0 < nFields rdy.part ∧ dmaBad { dmaOp .dram with len := 12 } = true) ∧
    (dmaBad (dmaOp .dram) = false ∧ (dmaOp .dram).dstKind ≠ .peer ∧ 1 ≤ (dmaOp .dram).rows ∧ 1 ≤ (dmaOp .dram).len) ∧
    (rdy.fm.descQueue = [] ∧ descOpen rdy true = true ∧ polderUp rdy pDram = true) ∧
    descOpen { rdy with fm := { xfers := List.replicate 512 (twoPieces .dram) } } true = false ∧
    (let s := ringOf2 { phase := .up } id
     dmaBad (dmaOp .peer) = false ∧ (routeTo s (dmaOp .peer).peer).isSome = true ∧ freeTag s = some 0 ∧ descOpen s true = true) ∧
    routeTo rdy 1 = none := by decide +kernel

/-- A transfer waits alone in field 0, whose bank 0 a DMA port owns. -/
def owning (x : Xfer) : State := { banksOn with fm := { banksOn.fm with xfers := [x] }, seq := { owner := [(0, 0x16)] } }

theorem witness_DmaOwnedAccess :
    (let x := twoPieces .fieldMem
     let s := owning x
     portPiece 0 s = none ∧ (pieceData s x { off := 0, len := 8, data := some (List.replicate 8 1), poison := [] }).map (fun e => e.1) =
         some (List.replicate 8 1) ∧ x.fw = false ∧ received x = false ∧
       0 % x.rowLen + 8 ≤ x.rowLen ∧ memWf 0 s.fm.mem = true ∧ rowAddr x.dst x.dstStride x.rowLen 0 = chipAddr 0 0 ∧
       gatePasses s x 0 0 8 = true ∧ dmaOwns s 0 0 8 = true) ∧
    ((twoPieces .host).field = 0 ∧ dramUp (owning (twoPieces .dram)) = true ∧ dramTurn (owning (twoPieces .dram)) (xferRank (twoPieces .dram)) = true) ∧
    (let x := { twoPieces .host with srcKind := .fieldMem, chunks := [{ off := 0, len := 8, data := none, poison := [] }] }
     let s := owning x
     (writePiece 0 x { off := 0, len := 8, data := none, poison := [] } s).isNone = true ∧ roomFor s x { off := 0, len := 8, data := none, poison := [] } = true ∧
       rowAddr x.src x.srcStride x.rowLen 0 = chipAddr 0 0 ∧ dmaOwns s 0 0 8 = true) ∧
    (let x := { twoPieces .fieldMem with fw := true, chunks := [{ off := 0, len := 8, data := some (List.replicate 8 1), poison := [0], dstAt := chipAddr 0 3 }] }
     let s := owning x
     x.head = none ∧ gatePasses s x 0 3 8 = true ∧ dmaOwns s 0 3 8 = true ∧ s.fm.poison = [] ∧ s.fm.flips = []) ∧
    (let s := { sampling with fm := { sampling.fm with portWait := [(chipAddr 0 8, { bytes := zeros 8, poison := 0 })] } }
     port1Owns s 0 8 = true ∧ bankOn s 0 8 = true ∧ feDropped s 0 8 = false ∧ memWf 0 s.fm.mem = true) ∧
    banksOn.fm.xfers = [] := by decide +kernel

theorem witness_HostReadsArrive :
    (let x := { twoPieces .dram with srcKind := .host }
     hostRoom { rdy with fm := { xfers := [x] } } x 0 16 = true ∧ ∃ c ∈ x.chunks, c.data = none ∧ 0 ≤ c.off ∧ c.off + c.len ≤ 0 + (List.replicate 16 0#8).length) := by
  decide +kernel

/-- A running front end with port 0 enabled. -/
def ported (x : Port) (b : Bus → Bus) : State :=
  { rdy with bus := b { ports := [(0, { x with cfg := BitVec.ofNat 128 (2 ^ 4 + 2 ^ 2) })] } }

theorem witness_FieldBusCommands :
    (TakenUp 0x0801 (cm 0 0) rdy ∧ bitsN (paramBits (cm 0 0) portFields) 63 56 ≠ 0 ∧ bitsN (paramBits (cm 0 0) portFields) 55 48 ≠ 0 ∧
      bitsN (paramBits (cm 0 0) portFields) 47 40 ≠ 255 ∧ bitsN (paramBits (cm 0 0) portFields) 39 32 ≤ 127) ∧
    (let b := paramBits (cm 16 (2 ^ 46 + 2 ^ 47 + 2 ^ 40 + 31)) filterFields
     TakenUp 0x0802 (cm 16 (2 ^ 46 + 2 ^ 47 + 2 ^ 40 + 31)) rdy ∧ timeSource b = true ∧
       ∀ i, i < 32 → i ≠ b % 32 → timeSource (tabGet 0 (filterNext rdy) i).toNat = true →
         bitsN (tabGet 0 (filterNext rdy) i).toNat 41 40 &&& bitsN b 41 40 = 0) ∧
    (TakenUp 0x0803 (cm 0 0) rdy ∧ bitsN (paramBits (cm 0 0) reportsFields) 47 32 ≠ 0) ∧
    (TakenUp 0x0804 (cm 16 (1484 * 2 ^ 32)) (ported {} id) ∧ fld (cm 16 (1484 * 2 ^ 32)) 47 32 0 = 1484 ∧
      (portOf (ported {} id) (fld (cm 16 (1484 * 2 ^ 32)) 0 0 0)).txq.length < 16) ∧
    (TakenUp 0x0805 (cm 22 (11 * 2 ^ 132 + 6 * 2 ^ 128)) rdy ∧ ringOk 11 11 (ringOf (cm 22 (11 * 2 ^ 132 + 6 * 2 ^ 128))) = true) ∧
    TakenUp 0x0806 (cm 0 0) rdy ∧ (TakenUp 0x0807 (cm 0 0) rdy ∧ hoOk (paramBits (cm 0 0) hoFields) = true) ∧ TakenUp 0x0808 (cm 0 0) rdy := by
  simp only [takenUp_iff]
  repeat' apply And.intro
  all_goals decide +kernel

/-- Output 3 of the front end in PWM mode. -/
def output3 (x : HoOut) (b : Bus → Bus) : State := { rdy with bus := b { outs := [(3, { x with configured := true, cfg := BitVec.ofNat 256 (2 ^ 5 + 8 * 2 ^ 16) })] } }

theorem witness_HealthOutputs :
    (feAlive rdy = true ∧ rdy.boot.extest = false ∧ rdy.bus.owed = none ∧ rdy.bus.chosen = false ∧ (outOf rdy 0).configured = false) ∧
    (let s := output3 {} fun b => { b with rs := some { fallback := false, severity := 0, score := 0, levels := [] } }
     (outOf s 3).configured = true ∧ hoMode (outOf s 3) ≠ 0 ∧ s.nv.powerFail = false ∧ hoField (outOf s 3) 111 88 &&& s.fe.cmM.toNat = 0 ∧
       (s.bus.rs.map fun r => r.fallback) = some false) ∧
    (let s := output3 {} id; s.bus.rs = none ∧ ∀ n ∈ maskList 48 (hoField (outOf s 3) 159 112), evHeld s n = false) ∧
    (let s := { rdy with bus := { outs := [(3, { cfg := BitVec.ofNat 256 (2 ^ 88) })] }, fe := { cmM := 1 } }
     hoField (outOf s 3) 111 88 &&& s.fe.cmM.toNat ≠ 0) ∧
    (let s := output3 { path := .held, holdTicks := some 7 } id
     (outOf s 3).path = .held ∧ (outOf s 3).holdTicks = some 7 ∧ hoField (outOf s 3) 31 16 ≤ 7 + 1) ∧
    (outOf (output3 { pin := some 100 } id) 3).pin.isSome = true := by decide +kernel

/-- A host frame in a port's queue. -/
def hostFrame : FbQ := { kind := 5, frame := 0, body := [1], host := some 7 }

/-- A received frame. -/
def received1 (e : W16) (g : GptpKind) : FbFrame :=
  { src := 9, etherType := e, domain := 0, crcOk := true, tooLong := false, beacon := false, gptp := g, bytes := [1, 2] }

/-- Port 0 listens to address 9, for gPTP and the host. -/
def listening : State :=
  let s := ported {} fun b => { b with filters := [(31, BitVec.ofNat 128 (9 * 2 ^ 80 + 2 ^ 47 + 2 ^ 46 + 2 ^ 45 + 2 ^ 40))] }
  { s with fring := { on := true, entriesLog2 := 6, entryLog2 := 11, index := 0x1000000 } }

theorem witness_FieldBusFrames :
    (feRuns rdy = true ∧ rdy.tick.inFrame = 0 ∧ rdy.tick.frame.toNat % max 1 (reportField rdy 47 32) = 0 ∧ (portOf rdy 1).txq.length < 16) ∧
    (let s := { ported {} (fun b => { b with reports := BitVec.ofNat 256 (2 ^ 48 + 2 ^ 4) }) with tick := { no := 1000, last := { tick := 999, features := [one32] } } }
     feRuns s = true ∧ computeDown s = false ∧ recordOfFrame s = true ∧ s.tick.inFrame = 0 ∧ reportField s 63 48 ≠ 0 ∧ s.tick.frame.toNat % reportField s 63 48 = 0 ∧
       (reportField s 5 4).testBit 0 = true) ∧
    (let s := { ported { txq := [hostFrame] } id with mbx := { rdy.mbx with waits := [{ cmd := cm 0 0, opcode := 0x0804, act := .fbSend 0 7 }] } }
     portOn (portOf s 0) = true ∧ nextFrame (portOf s 0).txq = some hostFrame ∧ (portOf s 0).plca = false ∧ (portOf s 0).attempts < 15 ∧
       (s.mbx.waits.any fun w => w.act == .fbSend 0 7) = true) ∧
    nextFrame [{ hostFrame with host := none }] = some { hostFrame with host := none } ∧
    (let f := received1 0x88B5 .none
     matchFilter listening 0 f.src.toNat = some 31 ∧ bitsN (filterOf listening 31) 79 64 = 0 ∧ f.etherType ≠ 0x88F7 ∧
       f.etherType.toNat = reportField listening 207 192 ∧ bitN (filterOf listening 31) 45 = true ∧ listening.fring.on = true ∧
       ringFull listening.fring = false) ∧
    (let f := received1 0x88F7 (.sync 100 0 0)
     f.etherType = 0x88F7 ∧ bitN (filterOf listening 31) 46 = true ∧ bitN (portOf listening 0).cfg.toNat 4 = true ∧
       f.domain = portField (portOf listening 0) 39 32) ∧
    burstOf (portOf (ported {} id) 0) = 0 ∧
    (let y : Port := { plca := true, cfg := BitVec.ofNat 128 (2 ^ 4 + 2 ^ 3 + 2 ^ 2 + 2 * 2 ^ 64), txq := [hostFrame, hostFrame] }
     portOn y = true ∧ burstOf y = 2) ∧
    (portOf (ported { gptpOk := true } id) 0).gptpOk = true ∧ gptpDue (ported { gptpOk := true } id) 0 = true := by decide +kernel

theorem witness_InvariantKept : Inv State.reset ∧ step State.reset = .next State.reset := by
  refine ⟨⟨?_, ?_⟩, rfl⟩
  · unfold Canonical; decide +kernel
  · unfold ReservedZero; decide +kernel

/-- The bytes of an owner page. -/
def ownerPage : List Byte := ownerBytes 1 1 0

theorem leNat_leBytes4 (n : Nat) (h : n < 2 ^ 32) : leNat (leBytes 4 n) = n := by
  simp [leNat, leBytes, List.range_succ]; omega

theorem ownerPage_crc : leNat (ownerPage.drop 244) = (crc32c (ownerPage.take 244)).toNat := by
  unfold ownerPage ownerBytes
  rw [List.drop_left' (by decide +kernel), List.take_left' (by decide +kernel)]
  exact leNat_leBytes4 _ (BitVec.isLt _)

theorem ownerPage_length : ownerPage.length = 248 := by decide +kernel

/-- An enrolment whose first program, or whose lock program, runs. -/
def enrolling (lock : Bool) : State :=
  { waitingFor (.nvWrite 0) with nv := {
      nextSeq := 2, enrol := some { bytes := ownerPage, prog := 1, wait := 0, lock := lock }
      planes := [(0, { seq := 1, page := 0, bytes := if lock then placed 248 (leBytes 8 lockedValue) else placed 0 ownerPage })] } }

theorem enrolling_wear (b : Bool) : (enrolling b).nv.wear < 4095 := by unfold enrolling; dsimp only; decide

theorem enrol_taken : TakenUp 0x0A01 (cmc 120 (0x454E524F + 2 ^ 64)) rdy := by
  refine ⟨by decide +kernel, by decide +kernel, by decide +kernel, fun _ => ?_, by decide +kernel, by decide +kernel⟩
  show crc32c _ = crc32c _
  exact congrArg crc32c (by decide +kernel)

theorem witness_TrustAndSpdm :
    (TakenUp 0x0A01 (cmc 120 (0x454E524F + 2 ^ 64)) rdy ∧ fld (cmc 120 (0x454E524F + 2 ^ 64)) 31 0 0 = 0x454E524F ∧
      fld (cmc 120 (0x454E524F + 2 ^ 64)) 447 64 0 ≠ 0 ∧ ownerLocked rdy = false ∧ StoreIdle rdy ∧ (∀ g, nvGroup rdy g = 0)) ∧
    (∀ b, (enrolling b).nv.enrol = some { bytes := ownerPage, prog := 1, wait := 0, lock := b } ∧
      (enrolling b).nv.planes = [(0, { seq := 1, page := 0, bytes := if b then placed 248 (leBytes 8 lockedValue) else placed 0 ownerPage })] ∧
      ownerPage.length = 248 ∧ memWf 0xFF#8 (enrolling b).nv.mem = true ∧
      ((enrolling b).mbx.waits.map fun w => w.act) = [.nvWrite 0] ∧ (enrolling b).nv.wear < 4095) ∧
    (ownerLocked { rdy with nv := { mem := memWriteN 0xFF#8 [] 248 (leBytes 8 lockedValue) } } = true) ∧
    TakenUp 0x0A02 (cmc 16 0) rdy ∧ TakenUp 0x0A03 (cmc 0 0) rdy ∧
    (TakenUp 0x0A04 (cmc 1 1) { stored with trust := { fwSecVer := 5 } } ∧ fld (cmc 1 1) 2 0 0 = 1 ∧
      spreadCell { stored with trust := { fwSecVer := 5 } } 0 = some (0, 0, 0) ∧ StoreIdle stored ∧ stored.mbx.waits = []) ∧
    (TakenUp 0x0A05 (cmc 16 (256 * 2 ^ 32)) rdy ∧ fld (cmc 16 (256 * 2 ^ 32)) 47 32 0 = 256) ∧
    (spdmUp rdy = true ∧ (staged .rom id).boot.stage = .rom) := by
  refine ⟨⟨enrol_taken, by decide +kernel, by decide +kernel, by decide +kernel, by unfold StoreIdle; decide +kernel, fun _ => rfl⟩,
    fun b => ⟨rfl, rfl, ownerPage_length, rfl, rfl, enrolling_wear b⟩, by decide +kernel, ?_, ?_, ?_, ?_⟩ <;> simp only [takenUp_iff, StoreIdle] <;> decide +kernel

/-! ## Ill-formed commands -/

/-- Operands that every check passes. -/
theorem test_wf_holds :
    (Instr.hello (cm 0 0)).wf = true ∧ (Instr.mm 0 arrOp ctx).wf = true ∧ (Instr.vadd 0 vecOp ctx).wf = true ∧
      (Instr.dma 0 (dmaOp .dram) ctx).wf = true ∧ (Instr.gather 0 setOp ctx).wf = true ∧ (Instr.tickMarkerRx 0 marker).wf = true ∧
      (Instr.flitRx 0 (lineFlit 0 (flitOf (.head (headTo 0))))).wf = true ∧
      (Instr.tickEdge { quietTick with cm := List.replicate 24 0, mag := List.replicate 24 0 }).wf = true := by decide +kernel

theorem test_wf_slot : (Instr.echo { cm 0 0 with slot := 64 }).wf = false ∧ (Instr.echo { cm 0 0 with paramLen := 65536 }).wf = false := by
  decide +kernel

theorem test_wf_context :
    (Instr.mm 0 arrOp { ctx with mid := 65536 }).wf = false ∧ (Instr.mm 0 arrOp { ctx with jclass := 16 }).wf = false := by decide +kernel

theorem test_wf_array :
    (∀ o ∈ [{ arrOp with inAddr := 2 ^ 23 }, { arrOp with wAddr := 2 ^ 23 }, { arrOp with outAddr := 2 ^ 23 }, { arrOp with inSc := 2 ^ 23 },
        { arrOp with wSc := 2 ^ 23 }, { arrOp with outSc := 2 ^ 23 }, { arrOp with amaxAddr := 2 ^ 23 }, { arrOp with inStride := 65536 },
        { arrOp with outStride := 65536 }, { arrOp with m := 0 }, { arrOp with m := 65 }, { arrOp with kLen := 0 },
        { arrOp with kLen := 65537 }, { arrOp with stream := 1024 }], (Instr.mmt 0 o ctx).wf = false) ∧
      (Instr.tload 0x500 arrOp ctx).wf = false ∧ (Instr.azero 0x500 false .fp32).wf = false := by decide +kernel

theorem test_wf_vector :
    (∀ o ∈ [{ vecOp with aAddr := 2 ^ 23 }, { vecOp with bAddr := 2 ^ 23 }, { vecOp with cAddr := 2 ^ 23 }, { vecOp with dAddr := 2 ^ 23 },
        { vecOp with outAddr := 2 ^ 23 }, { vecOp with scAddr := 2 ^ 23 }, { vecOp with maskAddr := 2 ^ 23 },
        { vecOp with amaxAddr := 2 ^ 23 }, { vecOp with n := 0 }, { vecOp with n := 65537 }, { vecOp with len := 0 },
        { vecOp with len := 65537 }, { vecOp with stream := 1024 }], (Instr.vcmp 0 o ctx).wf = false) ∧
      (Instr.vadd 16 vecOp ctx).wf = false := by decide +kernel

theorem test_wf_dma :
    (∀ o ∈ [{ dmaOp .dram with src := 1 <<< 64 }, { dmaOp .dram with dst := 1 <<< 64 }, { dmaOp .dram with len := 2 ^ 32 },
        { dmaOp .dram with rows := 0 }, { dmaOp .dram with rows := 65537 }, { dmaOp .dram with srcStride := 2 ^ 32 },
        { dmaOp .dram with dstStride := 2 ^ 32 }, { dmaOp .dram with srcKind := .peer }, { dmaOp .dram with peer := 64 },
        { dmaOp .dram with sigObj := 1024 }, { dmaOp .dram with sigN := 16 }], (Instr.dma 0 o ctx).wf = false) ∧
      (Instr.dma 16 (dmaOp .dram) ctx).wf = false ∧ (Instr.bankSet 16 0 .on 0).wf = false := by decide +kernel

theorem test_wf_set :
    (∀ o ∈ [{ setOp with tAddr := 1 <<< 64 }, { setOp with aAddr := 2 ^ 23 }, { setOp with bAddr := 2 ^ 23 }, { setOp with outAddr := 2 ^ 23 },
        { setOp with out2Addr := 2 ^ 23 }, { setOp with tokAddr := 2 ^ 23 }, { setOp with auxAddr := 2 ^ 23 }, { setOp with nA := 2 ^ 24 },
        { setOp with nT := 2 ^ 24 }, { setOp with row := 12 }, { setOp with row := 0 }, { setOp with row := 264 }, { setOp with sub := 8 },
        { setOp with tLog2 := 32 }, { setOp with k := 0 }, { setOp with k := 65 }, { setOp with budgetAc := 2 ^ 20 },
        { setOp with budgetTx := 65536 }, { setOp with sigObj := 1024 }, { setOp with sigN := 16 }], (Instr.scan 0 o ctx).wf = false) ∧
      (Instr.nbr 16 setOp ctx).wf = false ∧ (Instr.setBudgetEnd ⟨16, 0⟩).wf = false := by decide +kernel

theorem test_wf_link :
    (Instr.linkRsv 4 { planId := 0, nSlots := 1, src := 0 } 0).wf = false ∧
      (Instr.linkRsv 0 { planId := 0, nSlots := 65536, src := 0 } 0).wf = false ∧
      (Instr.linkRsv 0 { planId := 0, nSlots := 1, src := 3 } 0).wf = false ∧ (Instr.tickMarkerRx 4 marker).wf = false ∧
      (∀ m ∈ [{ marker with master := 64 }, { marker with epoch := 65536 }, { marker with tickInFrame := 65536 }],
        (Instr.tickMarkerRx 0 m).wf = false) ∧
      (Instr.flitRx 0 { nth := 0, header := 0, payload := zeros 65, crc := 0 }).wf = false ∧
      (Instr.flitRx 4 (lineFlit 0 (flitOf (.head (headTo 0))))).wf = false ∧ (Instr.linkUnfence 4).wf = false ∧
      (Instr.linkStateFloodRx 64 0 .up).wf = false ∧ (Instr.linkStateFloodRx 0 4 .up).wf = false := by decide +kernel

theorem test_wf_readings :
    (Instr.tickEdge { quietTick with cm := List.replicate 23 0, mag := List.replicate 24 0 }).wf = false ∧
      (Instr.feFreeRunTick { quietTick with cm := List.replicate 24 0, mag := List.replicate 25 0 }).wf = false := by decide +kernel

theorem test_wf_numbers :
    (∀ i ∈ [Instr.getCertificate 8 0 1, .challenge 8 0, .mbxCq 4 .lo 0, .latchingRead 0 0, .latchingRead 0xFFFF 2,
        .registerWrite 0x10000 4 0 false false, .pwrUp 293, .pwrDown 293 0, .polderUp 293 0, .sluiceClosed 293 0, .powerDownAbandon 293 0,
        .signal 1024 1, .signal 0 0, .signal 0 16, .barrier 0 1024 0 0, .holdExpiry 4, .hoPeriodStart 4, .fineOutput 24 [],
        .detectorsStart 24, .eventActivate 24 0, .eventActivate 0 2, .eventDeactivate 24 0, .eventDeactivate 0 2, .sourceCurrentLimit 4 true,
        .chopReversal 4, .watchdogExpiry 4 0, .dramTrainingEnd 0 (List.replicate 15 1), .bankReady 16 0 0, .bankReady 0 32 0,
        .dramRefresh 16 0, .dramRefresh 0 64, .fbFrameRx 2 (received1 0 .none), .gptpLoss 2, .nvProgramEnd { plane := 8 }, .watchTransition 16 0,
        .serve 16, .serveEnd 16, .compaction 16, .msixVectorUnmask (some 64), .bootFlashExternalWrite 2 0 []], i.wf = false) ∧
      (Instr.recordWrite (.calib 24) [true, true, true]).wf = false ∧ (Instr.recordWrite .chip [true]).wf = false := by decide +kernel

theorem test_wf_windows :
    (Instr.bar4Read (2 ^ 32) 1).wf = false ∧ (Instr.bar4Write (2 ^ 32 - 1) [1, 2] [true, true] false).wf = false ∧
      (Instr.bar4Write 0 [1] [] false).wf = false ∧ (Instr.bar2Write 0x3FFF [1, 2] false).wf = false := by decide +kernel

/-! ## Results that the manual works out -/

/-- Table 05-4: the block 15.0, −0.7, 2.5, 5.0 in MXFP4, to nearest even and toward zero; a draw of 32,768 or more takes element 3 up. -/
theorem test_mxfp4_block :
    let vs (d : Nat) : List (Fp × Nat) := [(.fin false 15 0, d), (dec32 0xBF333333, d), (.fin false 5 (-1), d), (.fin false 5 0, d)]
    mxEncode .mxfp4 .nearest (vs 0) = (0x80, [7, 9, 2, 4]) ∧ mxEncode .mxfp4 .zero (vs 0) = (0x80, [7, 8, 2, 4]) ∧
      ((mxEncode .mxfp4 .stochastic (vs 32768)).2.getD 3 0) = 5 ∧ ((mxEncode .mxfp4 .stochastic (vs 32767)).2.getD 3 0) = 4 := by decide +kernel

/-- Table 05-8: 0x3E99999A in E4M3 by the modes, and 26,215 as the first draw that rounds up. -/
theorem test_e4m3_modes :
    let at_ (m : Rnd) (d : Nat) := (convElem .e4m3 m true d (dec32 0x3E99999A)).1
    at_ .nearest 0 = 0x2A ∧ at_ .zero 0 = 0x29 ∧ at_ .stochastic 0x8000 = 0x2A ∧ at_ .stochastic 0x1000 = 0x29 ∧
      at_ .stochastic 26215 = 0x2A ∧ at_ .stochastic 26214 = 0x29 := by decide +kernel

/-- The last row of the example of Table 09-5: 2.31397 is 0x4014 in BF16. -/
theorem test_bf16_rescale : (convElem .bf16 .nearest true 0 (.fin false 231397 0 |> fun v => fpDiv v (.fin false 100000 0))).1 = 0x4014 := by
  decide +kernel

/-- Table 16-13: of CH_FIR_SWAP's block of three bytes, `fade_len` takes 16 and `cancel` 0. -/
theorem test_fir_swap_defaults : fld (cm 3 8) 23 0 0 = 8 ∧ fld (cm 3 8) 44 32 16 = 16 ∧ fldB (cm 3 8) 49 false = false := by decide +kernel

/-- Table 12-6: with 32 GiB raw, the usable 30 GiB, the 15 GiB of the pool region and the 1,920 MiB of the source log. -/
theorem test_dram_map :
    let s : State := { dram := { chGib := 2 } }
    usableBytes s = 0x780000000 ∧ kvRegion s = 15 * 2 ^ 30 ∧ logRegion s = 1920 * 2 ^ 20 := by decide +kernel

/-- The example of chapter 16: HELLO with n = 2 and the versions 1.0 and 2.0 chooses 1.0, `arch_level` 1 and `order` 1. -/
theorem test_hello_example :
    (match exec (.hello (cm 6 0x020001000002)) { rdy with mbx := {} } with
    | .next t => (t.mbx.due.map fun e => (e.status, e.data &&& 0xFFFF)) == [(.ok, 0x0100)]
    | _ => false) = true := by decide +kernel

/-- The `cm_ch` and `ev_mask` of HO1 in the example of chapter 15 name channels 7 to 13 and 22 and their events 0. -/
theorem test_ho1_masks :
    maskList 24 0x403F80 = [7, 8, 9, 10, 11, 12, 13, 22] ∧ maskList 48 0x100005554000 = [14, 16, 18, 20, 22, 24, 26, 44] := by decide +kernel

end Sys2Proof.Tests
end

section
/-! PROOFS. The tick (chapter 01): the tick commands (O14) and the commit point (O34), with the facts on packed fields, bit masks and frames
that they rest on. -/

namespace Sys2Proof.Machine

open Sys2Proof Sys2Proof.Safety

/-! ## Packed fields

The powers of two stay symbolic in these lemmas: a check that computes with the packed number itself recurses too deep. -/

theorem put_lt {lo w acc : Nat} (x : Nat) (h : acc < 2 ^ lo) : put lo w x acc < 2 ^ (lo + w) := by
  have hx : x % 2 ^ w + 1 ≤ 2 ^ w := Nat.mod_lt _ (by positivity)
  calc put lo w x acc < (x % 2 ^ w + 1) * 2 ^ lo := by rw [put, Nat.add_mul]; omega
    _ ≤ 2 ^ w * 2 ^ lo := Nat.mul_le_mul_right _ hx
    _ = 2 ^ (lo + w) := by rw [pow_add, Nat.mul_comm]

theorem bitsN_put_self {lo w hi acc : Nat} (x : Nat) (h : acc < 2 ^ lo) (hw : hi + 1 - lo = w) :
    bitsN (put lo w x acc) hi lo = x % 2 ^ w := by
  rw [bitsN, put, Nat.shiftRight_eq_div_pow, hw, Nat.add_mul_div_right _ _ (by positivity), Nat.div_eq_of_lt h, Nat.zero_add,
    Nat.mod_mod]

theorem bitsN_put_above {lo' hi lo : Nat} (w x acc : Nat) (h : hi < lo') (hl : lo ≤ hi) :
    bitsN (put lo' w x acc) hi lo = bitsN acc hi lo := by
  have hp : (2 : Nat) ^ lo' = 2 ^ (lo' - (hi + 1)) * 2 ^ (hi + 1 - lo) * 2 ^ lo := by
    rw [← pow_add, ← pow_add]; congr 1; omega
  rw [bitsN, put, bitsN, Nat.shiftRight_eq_div_pow, Nat.shiftRight_eq_div_pow, hp, ← Nat.mul_assoc,
    Nat.add_mul_div_right _ _ (by positivity), ← Nat.mul_assoc, Nat.add_mul_mod_self_right]

theorem bitsN_foldl_put_above {hi lo : Nat} (gs : List (Nat × Nat × Nat)) (acc : Nat) (hl : lo ≤ hi) (hg : ∀ g ∈ gs, hi < g.1) :
    bitsN (gs.foldl (fun a f => put f.1 f.2.1 f.2.2 a) acc) hi lo = bitsN acc hi lo := by
  induction gs generalizing acc with
  | nil => rfl
  | cons g gs ih =>
    rw [List.foldl_cons, ih _ fun x hx => hg x (List.mem_cons_of_mem _ hx), bitsN_put_above _ _ _ (hg g List.mem_cons_self) hl]

theorem pack_nil_lt (lo : Nat) : pack [] < 2 ^ lo := Nat.two_pow_pos lo

theorem pack_snoc_lt {fs : List (Nat × Nat × Nat)} {lo w : Nat} (x : Nat) (h : pack fs < 2 ^ lo) :
    pack (fs ++ [(lo, w, x)]) < 2 ^ (lo + w) := by
  have hp : pack (fs ++ [(lo, w, x)]) = put lo w x (pack fs) := by simp [pack]
  rw [hp]
  exact put_lt x h

/-- A field reads back when the fields packed before it end below it and those after it begin above it. -/
theorem bitsN_pack_field (fs gs : List (Nat × Nat × Nat)) {lo w hi x : Nat} (hfs : pack fs < 2 ^ lo) (hx : x < 2 ^ w)
    (hw : hi + 1 - lo = w) (hl : lo ≤ hi) (hgs : ∀ g ∈ gs, hi < g.1) : bitsN (pack (fs ++ (lo, w, x) :: gs)) hi lo = x := by
  rw [pack, List.foldl_append, List.foldl_cons, bitsN_foldl_put_above _ _ hl hgs]
  exact (bitsN_put_self x hfs hw).trans (Nat.mod_eq_of_lt hx)

theorem bitsN_pack_words (a b c d : W64) :
    let n := pack [(0, 64, a.toNat), (64, 64, b.toNat), (128, 64, c.toNat), (192, 64, d.toNat)]
    bitsN n 63 0 = a.toNat ∧ bitsN n 127 64 = b.toNat ∧ bitsN n 191 128 = c.toNat ∧ bitsN n 255 192 = d.toNat := by
  have h1 : pack [(0, 64, a.toNat)] < 2 ^ 64 := pack_snoc_lt (fs := []) _ (pack_nil_lt 0)
  have h2 : pack [(0, 64, a.toNat), (64, 64, b.toNat)] < 2 ^ 128 := pack_snoc_lt (fs := [_]) _ h1
  have h3 : pack [(0, 64, a.toNat), (64, 64, b.toNat), (128, 64, c.toNat)] < 2 ^ 192 := pack_snoc_lt (fs := [_, _]) _ h2
  exact ⟨bitsN_pack_field [] [_, _, _] (pack_nil_lt 0) a.isLt rfl (by decide) (by simp),
    bitsN_pack_field [_] [_, _] h1 b.isLt rfl (by decide) (by simp),
    bitsN_pack_field [_, _] [_] h2 c.isLt rfl (by decide) (by simp),
    bitsN_pack_field [_, _, _] [] h3 d.isLt rfl (by decide) (by simp)⟩

theorem bitsN_pack_word_half (a : W64) (b : W32) :
    let n := pack [(0, 64, a.toNat), (64, 32, b.toNat)]
    bitsN n 63 0 = a.toNat ∧ bitsN n 95 64 = b.toNat :=
  ⟨bitsN_pack_field [] [_] (pack_nil_lt 0) a.isLt rfl (by decide) (by simp),
    bitsN_pack_field [_] [] (pack_snoc_lt (fs := []) _ (pack_nil_lt 0)) b.isLt rfl (by decide) (by simp)⟩

/-! ## Masks of bits -/

theorem testBit_foldl_setBits (xs : List Nat) (a i : Nat) :
    (xs.foldl (fun a i => a ||| 2 ^ i) a).testBit i = (a.testBit i || decide (i ∈ xs)) := by
  induction xs generalizing a with
  | nil => simp
  | cons x xs ih =>
    rw [List.foldl_cons, ih, Nat.testBit_or, Nat.testBit_two_pow]
    by_cases h : x = i
    · simp [h]
    · simp [h, Ne.symm h]

theorem testBit_listMask (xs : List Nat) (i : Nat) : (listMask xs).testBit i = decide (i ∈ xs) := by
  simp [listMask, testBit_foldl_setBits]

/-- Bit i of the mask of the positions below `n` that pass a test says whether i passes it. -/
theorem getLsbD_listMask_filter {w n i : Nat} (p : Nat → Bool) (hw : i < w) (hn : i < n) :
    (BitVec.ofNat w (listMask ((List.range n).filter p))).getLsbD i = p i := by
  simp only [BitVec.getLsbD_ofNat, testBit_listMask, hw, decide_true, Bool.true_and, List.mem_filter, List.mem_range, hn, true_and,
    Bool.decide_eq_true]

/-! ## A command that is taken up -/

/-- A mailbox row whose command is taken up runs the body of its opcode on the state with the slot taken. -/
theorem exec_row_runs {i : Instr} {op : Nat} {body : Cmd → State → State} {c : Cmd} {s : State} (hi : mailboxRow i = some (op, c))
    (hb : bodyOf op = some body) (h : TakenUp op c s) : exec i s = .next (body c (slotTaken c s)) := by
  obtain ⟨body', hb', he⟩ := row_delivers i op c s hi
  obtain rfl : body' = body := Option.some.inj (hb'.symm.trans hb)
  rw [he, deliver_runs op body' c s h]

@[simp] theorem slotTaken_tick (c : Cmd) (s : State) : (slotTaken c s).tick = s.tick := takeSlot_tick _ s
@[simp] theorem slotTaken_seq (c : Cmd) (s : State) : (slotTaken c s).seq = s.seq := takeSlot_seq _ s
@[simp] theorem slotTaken_links (c : Cmd) (s : State) : (slotTaken c s).links = s.links := takeSlot_links _ s
@[simp] theorem inRing_slotTaken (c : Cmd) (s : State) : inRing (slotTaken c s) = inRing s := by cases s; rfl
@[simp] theorem periodsNext_slotTaken (c : Cmd) (s : State) : periodsNext (slotTaken c s) = periodsNext s := by cases s; rfl
@[simp] theorem tickGroupPending_slotTaken (c : Cmd) (s : State) : tickGroupPending (slotTaken c s) = tickGroupPending s := by
  cases s; rfl

/-! ## The tick commands (R15 to R17, R36 to R38, R149) -/

/-- A source that the chip may select is BUSY or waits. -/
theorem bodyTickSetSource_legal (c : Cmd) (s : State) (hc : fld c 3 0 0 ≤ 4)
    (hr : inRing s = true ∧ s.links.master = false ↔ fld c 3 0 0 = 2) (hp : 3 ≤ fld c 3 0 0 → ∀ p ∈ periodsNext s, p % 6 = 0) :
    bodyTickSetSource c s = if tickGroupPending s then fail 0x0201 c .busy s
      else waitFor 0x0201 c (.source (fld c 3 0 0) (BitVec.ofNat 64 (fld c 95 32 0))) s := by
  have hring : (inRing s && !s.links.master) = (fld c 3 0 0 == 2) := by
    rw [Bool.eq_iff_iff]
    simpa using hr
  have hper : ¬((fld c 3 0 0 = 3 ∨ fld c 3 0 0 = 4) ∧ (periodsNext s).any (fun p => p % 6 != 0) = true) := by
    rintro ⟨hcode, hany⟩
    obtain ⟨p, hmem, hne⟩ := List.any_eq_true.mp hany
    simp [hp (by omega) p hmem] at hne
  simp only [bodyTickSetSource]
  rw [if_neg (by omega), if_neg (by simp [hring]), if_neg hper]

/-- A ring setup in range whose entries hold the running list's records is BUSY or waits. -/
theorem bodyTringSetup_legal (c : Cmd) (s : State) (hr : ringOk 8 11 (ringOf c) = true) (hh : 1 ≤ fld c 175 168 8)
    (hl : ∀ l, s.seq.active = some l → recordLen l.nFeat l.nCorr ≤ 2 ^ (ringOf c).entryLog2) :
    bodyTringSetup c s = if tickGroupPending s then fail 0x0202 c .busy s
      else waitFor 0x0202 c (.tring (ringOf c) (fld c 175 168 8)) s := by
  simp only [bodyTringSetup]
  rw [if_neg]
  rintro (hbad | hzero | hshort)
  · simp [hr] at hbad
  · omega
  · split at hshort
    · exact absurd (hl _ ‹_›) (Nat.not_le.mpr hshort)
    · exact absurd hshort (Nat.not_lt_zero _)

theorem bodyTringStop_now (c : Cmd) (s : State) (h : s.seq.active = none ∨ s.tick.committed = true) :
    bodyTringStop c s = completeOk 0x0203 c 0 { s with tring := { s.tring with on := false } } := by
  obtain ha | hc := h <;> simp [bodyTringStop, *]

theorem bodyDiceSeed_set (c : Cmd) (s : State) (hr : fldB c 64 false = false) (hw : ∀ w ∈ s.mbx.waits, ∀ v, w.act ≠ .seed v) :
    bodyDiceSeed c s = waitFor 0x0206 c (.seed (BitVec.ofNat 64 (fld c 63 0 0))) s := by
  unfold bodyDiceSeed
  rw [if_neg (by simp [hr]), if_neg]
  rw [waiting, List.any_eq_true]
  rintro ⟨w, hmem, hseed⟩
  split at hseed
  · exact hw w hmem _ ‹_›
  · contradiction

/-- Settles O14: each row runs its body on the state with the slot taken, and each body completes or waits under its clause's hypotheses. -/
theorem tickCommands : Obligations.TickCommands := by
  unfold Obligations.TickCommands
  refine ⟨?source, ?ring, ?stopNow, ?stopLater, ?force, ?counters, ?seedRead, ?seedSet⟩
  case source =>
    intro c s h hc hr hp
    rw [exec_row_runs rfl rfl h, bodyTickSetSource_legal c (slotTaken c s) hc (by simpa using hr) (by simpa using hp),
      fail_taken, waitFor_taken, tickGroupPending_slotTaken]
    exact ⟨fun hn => by rw [hn]; rfl, fun hy => by rw [hy]; rfl⟩
  case ring =>
    intro c s h hr hh hl
    rw [exec_row_runs rfl rfl h, bodyTringSetup_legal c (slotTaken c s) hr hh (by simpa using hl), fail_taken, waitFor_taken,
      tickGroupPending_slotTaken]
    exact ⟨fun hn => by rw [hn]; rfl, fun hy => by rw [hy]; rfl⟩
  case stopNow =>
    intro c s h hs
    rw [exec_row_runs rfl rfl h, bodyTringStop_now c (slotTaken c s) (by simpa using hs)]
    cases s; rfl
  case stopLater =>
    intro c s l h ha hc
    rw [exec_row_runs rfl rfl h, bodyTringStop, if_neg (by simp [ha, hc]), waitFor_taken]
  case force =>
    intro c s h
    rw [exec_row_runs rfl rfl h, bodyTickForceFallback, waitFor_taken]
  case counters =>
    intro c s h
    rw [exec_row_runs rfl rfl h, bodyTickCounters, completeOk_taken, slotTaken_tick]
    exact ⟨_, rfl, bitsN_pack_words ..⟩
  case seedRead =>
    intro c s h hr
    rw [exec_row_runs rfl rfl h, bodyDiceSeed, if_pos hr, completeOk_taken, slotTaken_tick, slotTaken_seq]
    exact ⟨_, rfl, bitsN_pack_word_half ..⟩
  case seedSet =>
    intro c s h hr hw
    rw [exec_row_runs rfl rfl h, bodyDiceSeed_set c (slotTaken c s) hr (by simpa using hw), waitFor_taken]

/-! ## The record (R25, R28, R29, R32) -/

theorem recordFlags_late (s : State) (late poisoned : Bool) (score : F32) (why : BitVec 8) :
    (recordFlags s late poisoned score why).getLsbD 0 = late :=
  getLsbD_listMask_filter _ (by decide) (by decide)

theorem recordFlags_fallback (s : State) (late poisoned : Bool) (score : F32) (why : BitVec 8) :
    (recordFlags s late poisoned score why).getLsbD 5 =
      (late || poisoned || f32isNan score || decide (watchStateNow s ≤ 2) || s.seq.stopped.getLsbD 0 || s.tick.force) :=
  getLsbD_listMask_filter _ (by decide) (by decide)

theorem formRecord_flags (s : State) (l : MList) : (formRecord s l).record.flags =
    recordFlags s (formRecord s l).late (formRecord s l).poisoned (formRecord s l).record.score (degradedWhy s) := rfl

theorem formRecord_late (s : State) (l : MList) : (formRecord s l).late =
    (tcOutstanding s l || !((runSched s).isNone || s.seq.stopped.getLsbD 0) && buildHeld s l) := rfl

theorem formRecord_score (s : State) (l : MList) : (formRecord s l).record.score =
    scoreOf s ((formRecord s l).late || (formRecord s l).poisoned || ((runSched s).isNone || s.seq.stopped.getLsbD 0)) none
      (formRecord s l).ex (formRecord s l).resX (formRecord s l).resY := rfl

theorem formRecord_tcMargin (s : State) (l : MList) : (formRecord s l).record.tcMargin = tcMargin s (formRecord s l).late := rfl

/-- What the header takes from the state at the commit point as it stands (R28). -/
theorem formRecord_header (s : State) (l : MList) :
    let r := (formRecord s l).record
    r.tick = s.tick.no ∧ r.frame = s.tick.frame ∧ r.tickInFrame = s.tick.inFrame ∧ r.movelistId = l.movelistId ∧
      r.tier = s.seq.tierRun ∧ r.settling = s.fe.settling ∧ r.rangeM = s.fe.rangeM ∧ r.cmM = s.fe.cmM :=
  ⟨rfl, rfl, rfl, rfl, rfl, rfl, rfl, rfl⟩

theorem formRecord_flags_late (s : State) (l : MList) : (formRecord s l).record.flags.getLsbD 0 = (formRecord s l).late := by
  rw [formRecord_flags, recordFlags_late]

/-- An outstanding tick-critical move or a hand-over of the build area held back makes the record LATE (R25, R203). -/
theorem formRecord_late_of_outstanding {s : State} {l : MList}
    (h : (tcOutstanding s l || (runSched s).isSome && !s.seq.stopped.getLsbD 0 && buildHeld s l) = true) :
    (formRecord s l).late = true := by
  rw [formRecord_late, Bool.not_or, Option.not_isNone]; exact h

/-- A LATE record has its FALLBACK flag, a NaN score and the smallest `tc_margin` (R28, R32). -/
theorem formRecord_of_late {s : State} {l : MList} (h : (formRecord s l).late = true) :
    (formRecord s l).record.flags.getLsbD 5 = true ∧ (formRecord s l).record.score = nan32 ∧
      (formRecord s l).record.tcMargin = -32768 := by
  refine ⟨?_, ?_, ?_⟩
  · simp [formRecord_flags, recordFlags_fallback, h]
  · simp [formRecord_score, scoreOf, h]
  · simp [formRecord_tcMargin, tcMargin, h]

theorem formRecord_of_forced {s : State} (l : MList) (h : s.tick.force = true) :
    (formRecord s l).record.flags.getLsbD 5 = true := by
  simp [formRecord_flags, recordFlags_fallback, h]

/-! ## What the shared operations may change

Each lemma names the parts of the state that the operation may leave with another value. -/

theorem raiseInt_eq (b : Nat) (s : State) : ∃ m, raiseInt b s = { s with mbx := m } := by
  unfold raiseInt
  split
  · exact ⟨_, rfl⟩
  · dsimp only
    split <;> exact ⟨_, rfl⟩

theorem raiseErr_eq (b : Nat) (s : State) : ∃ m, raiseErr b s = { s with mbx := m } := by
  unfold raiseErr
  split
  · exact ⟨_, rfl⟩
  · dsimp only
    split
    · obtain ⟨m, h⟩ := raiseInt_eq 1 { s with mbx := { s.mbx with errSum := s.mbx.errSum ||| (1#32 <<< b) } }
      exact ⟨m, h⟩
    · exact ⟨_, rfl⟩

theorem bumpBy_eq (off n : Nat) (s : State) : ∃ m c, bumpBy off n s = { s with mbx := m, ctr := c } := by
  unfold bumpBy
  split
  · exact ⟨_, _, rfl⟩
  · dsimp only
    split
    · rename_i b _
      obtain ⟨m, h⟩ := raiseErr_eq b (ctrSet off (BitVec.ofNat 32 (min (2 ^ 32 - 1) ((ctrGet s off).toNat + n))) s)
      exact ⟨m, _, h⟩
    · exact ⟨_, _, rfl⟩

theorem fmCheckGroup_eq (f g : Nat) (s : State) :
    ∃ m c r, fmCheckGroup f s g = { s with mbx := m, ctr := c, fm := { s.fm with rewrite := r } } := by
  obtain ⟨m, c, hce⟩ := bumpBy_eq (cFmCe f) 1 s
  obtain ⟨m', c', hue⟩ := bumpBy_eq (cFmUe f) 1 s
  unfold fmCheckGroup
  split
  · exact ⟨_, _, _, rfl⟩
  · rw [bump, hce]; exact ⟨_, _, _, rfl⟩
  · rw [bump, hue]; exact ⟨_, _, _, rfl⟩

theorem foldl_fmCheckGroup_eq (f : Nat) (gs : List Nat) (s : State) :
    ∃ m c r, gs.foldl (fmCheckGroup f) s = { s with mbx := m, ctr := c, fm := { s.fm with rewrite := r } } := by
  induction gs generalizing s with
  | nil => exact ⟨_, _, _, rfl⟩
  | cons g gs ih =>
    obtain ⟨m, c, r, h⟩ := fmCheckGroup_eq f g s
    obtain ⟨m', c', r', h'⟩ := ih (fmCheckGroup f s g)
    rw [List.foldl_cons, h', h]
    exact ⟨_, _, _, rfl⟩

theorem fmScan_eq (w f a n : Nat) (s : State) :
    ∃ m c r, fmScan w f a n s = { s with mbx := m, ctr := c, fm := { s.fm with rewrite := r } } := by
  obtain ⟨m, c, h⟩ := bumpBy_eq (cFmOff f) ((accesses w a n).filter (bankOffAt s f)).length s
  dsimp only [fmScan]
  rw [h]
  exact foldl_fmCheckGroup_eq _ _ _

theorem dramCheckLine_eq (l : Nat) (s : State) :
    ∃ m c d, dramCheckLine s l = { s with mbx := m, ctr := c, dram := d } := by
  unfold dramCheckLine
  split
  · exact ⟨_, _, _, rfl⟩
  · split
    · exact ⟨_, _, _, rfl⟩
    · obtain ⟨m, c, h⟩ := bumpBy_eq cDramCe 1 s
      rw [bump, bump, h]
      obtain ⟨m', c', h'⟩ := bumpBy_eq (0x1940 + 4 * dramChannel (64 * l)) 1 (ctrSet 0x190C (BitVec.ofNat 32 (64 * l / 2 ^ 32))
        (ctrSet 0x1908 (BitVec.ofNat 32 (64 * l))
          (setDram (fun d => { d with wrong := tabDel d.wrong l }) { s with mbx := m, ctr := c })))
      exact ⟨m', c', _, h'⟩
    · split
      · exact ⟨_, _, _, rfl⟩
      · obtain ⟨m, c, h⟩ := bumpBy_eq cDramUe 1 s
        rw [bump, h]
        exact ⟨_, _, _, rfl⟩

theorem dramPutLine_eq (l : Nat) (bs : List (Nat × Byte)) (p : Bool) (s : State) :
    ∃ m c d, dramPutLine l bs p s = { s with mbx := m, ctr := c, dram := d } := by
  unfold dramPutLine
  extract_lets whole bad s1 old
  have hread : ∃ m c d, s1 = { s with mbx := m, ctr := c, dram := d } := by
    unfold s1
    split
    · exact ⟨_, _, _, rfl⟩
    · exact dramCheckLine_eq l s
  obtain ⟨m, c, d, h⟩ := hread
  rw [h]
  exact ⟨_, _, _, rfl⟩

theorem foldl_dram_eq {α : Type} (f : State → α → State) (hf : ∀ s x, ∃ m c d, f s x = { s with mbx := m, ctr := c, dram := d })
    (xs : List α) (s : State) : ∃ m c d, xs.foldl f s = { s with mbx := m, ctr := c, dram := d } := by
  induction xs generalizing s with
  | nil => exact ⟨_, _, _, rfl⟩
  | cons x xs ih =>
    obtain ⟨m, c, d, h⟩ := hf s x
    obtain ⟨m', c', d', h'⟩ := ih (f s x)
    rw [List.foldl_cons, h', h]
    exact ⟨_, _, _, rfl⟩

theorem dramWrite_eq (a : Nat) (bs : List Byte) (ps : List (BitVec 8)) (s : State) :
    ∃ m c d, dramWrite a bs ps s = { s with mbx := m, ctr := c, dram := d } :=
  foldl_dram_eq _ (fun t l => dramPutLine_eq l _ _ t) _ s

theorem logRow_eq (im : WImage) (k : WatchTick) (elig sample : Bool) (s : State) :
    ∃ m c d w, logRow im k elig sample s = { s with mbx := m, ctr := c, dram := d, watch := w } := by
  obtain ⟨m, c, d, h⟩ := dramWrite_eq (im.logBase + rowBytes im * (s.watch.rowCount % max 1 (logRows s im)))
    (logRowBytes s im k k.resX k.resY) [] s
  simp only [logRow, h]
  exact ⟨_, _, _, _, rfl⟩

/-- A watch that does not run takes nothing over. -/
theorem watchCommit_eq (k : WatchTick) (s : State) :
    ∃ m c d w, watchCommit k s = { s with mbx := m, ctr := c, dram := d, watch := w } ∧
      (s.watch.run = 0 → w = s.watch ∧ d = s.dram) := by
  unfold watchCommit
  split
  · exact ⟨_, _, _, _, rfl, fun _ => ⟨rfl, rfl⟩⟩
  · rename_i im _
    split
    · exact ⟨_, _, _, _, rfl, fun _ => ⟨rfl, rfl⟩⟩
    · rename_i hrun
      obtain ⟨m, c, d, w, h⟩ := logRow_eq im k (tickEligible s k) (tickSample s k (tickEligible s k)) (setWatch (addSums s k) s)
      simp only [h]
      split <;> exact ⟨_, _, _, _, rfl, fun h0 => absurd h0 hrun⟩

/-! ## Posting (R39, R40) -/

theorem postTick_off (bs : List Byte) {s : State} (h : s.tring.on = false) : postTick bs s = s := by
  simp [postTick, ringPost, h]

theorem postTick_full (bs : List Byte) {s : State} (hon : s.tring.on = true) (hf : ringFull s.tring = true) :
    postTick bs s = { s with tring := { s.tring with
      drop := if s.tring.drop = 0xFFFFFFFF then s.tring.drop else s.tring.drop + 1 } } := by
  simp [postTick, ringPost, hon, hf]

theorem postTick_room (bs : List Byte) {s : State} (hon : s.tring.on = true) (hf : ringFull s.tring = false) :
    ∃ m n, postTick bs s = { s with
      mbx := m
      host := memWriteN 0 (memWriteN 0 s.host (s.tring.base.toNat + 2 ^ s.tring.entryLog2 * (s.tring.prod.toNat % 2 ^ s.tring.entriesLog2)) bs)
        s.tring.index.toNat (leBytes 4 (s.tring.prod + 1).toNat)
      tring := { s.tring with prod := s.tring.prod + 1, since := n } } := by
  simp only [postTick, ringPost, hon, hf, Bool.not_true, Bool.false_eq_true, if_false]
  split <;> exact ⟨_, _, rfl⟩

/-- What posting `bs` makes of a ring and of host memory (R39, R40): an entry and the new producer count, a count of the entry dropped, or
nothing while posting is off. -/
def Posted (bs : List Byte) (r : Ring) (host : Mem) (r' : Ring) (host' : Mem) : Prop :=
  (r.on = true → ringFull r = false → r'.prod = r.prod + 1 ∧
    host' = memWriteN 0 (memWriteN 0 host (r.base.toNat + 2 ^ r.entryLog2 * (r.prod.toNat % 2 ^ r.entriesLog2)) bs)
      r.index.toNat (leBytes 4 (r.prod + 1).toNat)) ∧
  (r.on = true → ringFull r = true → r.drop ≠ 0xFFFFFFFF → r'.prod = r.prod ∧ r'.drop = r.drop + 1 ∧ host' = host) ∧
  (r.on = false → r' = r ∧ host' = host)

theorem postTick_eq (bs : List Byte) (s : State) :
    ∃ m h r, postTick bs s = { s with mbx := m, host := h, tring := r } ∧ Posted bs s.tring s.host r h := by
  cases hon : s.tring.on with
  | false => exact ⟨_, _, _, postTick_off bs hon, by simp [Posted, hon]⟩
  | true =>
    cases hf : ringFull s.tring with
    | true => exact ⟨_, _, _, postTick_full bs hon hf, by simp +contextual [Posted, hon, hf]⟩
    | false =>
      obtain ⟨m, n, h⟩ := postTick_room bs hon hf
      exact ⟨_, _, _, h, by simp [Posted, hon, hf]⟩

/-- Turning off the posting of a ring takes nothing from what has been posted to it. -/
theorem Posted.setOn {bs : List Byte} {r r' : Ring} {host host' : Mem} {b : Bool} (h : Posted bs r host r' host')
    (hb : r'.on = false → b = false) : Posted bs r host { r' with on := b } host' := by
  obtain ⟨hroom, hfull, hoff⟩ := h
  refine ⟨hroom, hfull, fun ho => ?_⟩
  obtain ⟨rfl, hh⟩ := hoff ho
  rw [hb ho, ← ho]
  exact ⟨rfl, hh⟩

/-! ## The commit point (R27) -/

/-- TRING_STOP, when one waits, turns the ring's posting off and leaves its counts (R543). -/
theorem ringStopNow_eq (s : State) :
    ∃ m b, ringStopNow s = { s with mbx := m, tring := { s.tring with on := b } } ∧ (s.tring.on = false → b = false) := by
  unfold ringStopNow
  split
  · rw [finish_eq]
    exact ⟨_, false, rfl, fun _ => rfl⟩
  · exact ⟨_, _, rfl, id⟩

theorem smbCopy_eq (s : State) : ∃ m, smbCopy s = { s with smb := m } := ⟨_, rfl⟩

/-- For any `st`, so that a check never computes TICK_STAT itself. -/
theorem smbCopy_setStat (st : BitVec 256) (s : State) : ∃ m, smbCopy (setTick (fun t => { t with stat := st }) s) =
    { s with tick := { s.tick with stat := st }, smb := m } :=
  smbCopy_eq _

theorem statNow_eq (committed : Bool) (s : State) :
    ∃ st m, statNow committed s = { s with tick := { s.tick with stat := st }, smb := m } :=
  ⟨statOf s committed, smbCopy_setStat _ s⟩

/-- What the record's state tells the front-end die (Table 02-1). -/
def recStateOf (s : State) (l : MList) : RecState :=
  let f := formRecord s l
  { fallback := f.record.flags.getLsbD 5, severity := f.record.severity, score := f.record.score, groups := f.groups
    levels := if s.watch.run = 0 then [] else s.watch.learned.levels }

/-- What the watch takes over of the record. -/
def watchTickOf (s : State) (l : MList) : WatchTick :=
  let f := formRecord s l
  { late := f.late, poisoned := f.poisoned, forced := s.tick.force, flags := f.record.flags, feats := f.record.features
    ps := f.record.fscores, ex := f.ex, score := f.record.score, groups := f.groups, resX := f.resX, resY := f.resY
    entry := f.entry }

/-- The tick with its record committed. -/
def tickCommitted (f : Formed) (t : TickSt) : TickSt :=
  { t with last := f.record, lastOk := true, committed := true, corr := f.corr, corrAge := f.corrAge }

/-- The commit point up to the posting: the record is kept and its state crosses to the front-end die. -/
def recordKept (l : MList) (s : State) : State :=
  setBus (fun b => { b with rs := some (recStateOf s l) })
    (draw (setTick (tickCommitted (formRecord s l)) (if (formRecord s l).read then readBuild l s else s)))

theorem recordKept_eq (l : MList) (s : State) :
    ∃ m c r, recordKept l s = { s with
      tick := tickCommitted (formRecord s l) s.tick
      bus := { s.bus with rs := some (recStateOf s l) }
      mbx := m
      ctr := c
      fm := { s.fm with rewrite := r }
      free := s.free + 1 } := by
  unfold recordKept
  generalize recStateOf s l = st
  generalize formRecord s l = f
  split
  · obtain ⟨m, c, r, h⟩ := fmScan_eq 64 l.recField l.recAddr (recordLen l.nFeat l.nCorr - 64) s
    rw [readBuild, h]
    exact ⟨m, c, r, rfl⟩
  · exact ⟨_, _, _, rfl⟩

/-- The commit point as its five operations, one after the other. -/
theorem commitPoint_commits {l : MList} {s : State} (ha : s.seq.active = some l) (hr : s.boot.stage = .ready)
    (hc : s.tick.committed = false) : commitPoint s = statNow true (ringStopNow (watchCommit (watchTickOf s l)
      (postTick (recordBytes (formRecord s l).record) (recordKept l s)))) := by
  have hgo : ¬(s.boot.stage ≠ .ready ∨ s.tick.committed = true) := by simp [hr, hc]
  simp only [commitPoint, ha, if_neg hgo]
  rfl

theorem commitPoint_stays {s : State} (h : s.seq.active = none ∨ s.boot.stage ≠ .ready ∨ s.tick.committed = true) :
    commitPoint s = s := by
  unfold commitPoint
  split
  · rfl
  · rename_i l ha
    rw [if_pos (h.resolve_left (by simp [ha]))]

/-- What a commit leaves: the record and its state, a posting, and what the watch and the counters make of them. -/
theorem commitPoint_eq {l : MList} {s : State} (ha : s.seq.active = some l) (hr : s.boot.stage = .ready)
    (hc : s.tick.committed = false) : ∃ st m h r x w d c y, commitPoint s = { s with
      tick := { tickCommitted (formRecord s l) s.tick with stat := st }
      bus := { s.bus with rs := some (recStateOf s l) }
      tring := r
      mbx := m
      host := h
      smb := x
      watch := w
      dram := d
      fm := { s.fm with rewrite := y }
      ctr := c
      free := s.free + 1 } ∧
    Posted (recordBytes (formRecord s l).record) s.tring s.host r h ∧ (s.watch.run = 0 → w = s.watch ∧ d = s.dram) := by
  rw [commitPoint_commits ha hr hc]
  obtain ⟨_, _, y, hkept⟩ := recordKept_eq l s
  generalize recordKept l s = kept at hkept ⊢
  obtain ⟨_, h, r, hpost, hposted⟩ := postTick_eq (recordBytes (formRecord s l).record) kept
  generalize postTick (recordBytes (formRecord s l).record) kept = posted at hpost ⊢
  obtain ⟨_, c, d, w, hwatch, hidle⟩ := watchCommit_eq (watchTickOf s l) posted
  generalize watchCommit (watchTickOf s l) posted = watched at hwatch ⊢
  obtain ⟨m, b, hstop, hon⟩ := ringStopNow_eq watched
  obtain ⟨st, x, hstat⟩ := statNow_eq true (ringStopNow watched)
  rw [hstat, hstop]
  subst hwatch hpost hkept
  exact ⟨st, m, h, { r with on := b }, x, w, d, c, y, rfl, hposted.setOn hon, hidle⟩

/-- Settles O34: a commit's record is the one that `formRecord` forms (its header, its LATE flag and what follows from it), `Posted` says what
the ring and host memory hold, and every part that no operation of the commit reaches is the part of `s`. -/
theorem commitPointMakesRecord : Obligations.CommitPointMakesRecord := by
  unfold Obligations.CommitPointMakesRecord
  refine ⟨fun l s ha hr hc => ?_, fun s h => congrArg Host.Outcome.next (commitPoint_stays h)⟩
  obtain ⟨st, m, h, r, x, w, d, c, y, heq, ⟨hroom, hfull, hoff⟩, hidle⟩ := commitPoint_eq ha hr hc
  obtain ⟨hno, hframe, hinFrame, hlist, htier, hsettling, hrange, hcm⟩ := formRecord_header s l
  have hflag := formRecord_flags_late s l
  have hlate (ho : (tcOutstanding s l || (runSched s).isSome && !s.seq.stopped.getLsbD 0 && buildHeld s l) = true) :=
    formRecord_late_of_outstanding ho
  refine ⟨_, congrArg Host.Outcome.next heq, ?_⟩
  exact ⟨rfl, rfl, rfl, hno, hframe, hinFrame, hlist, htier, hsettling, hrange, hcm, hflag,
    fun ho => ⟨hflag.trans (hlate ho), formRecord_of_late (hlate ho)⟩, formRecord_of_forced l, rfl, rfl, rfl, rfl,
    ⟨recStateOf s l, rfl, rfl, rfl, rfl⟩, hroom, hfull, hoff, hidle, rfl⟩

end Sys2Proof.Machine
end

section
/-! PROOFS. Resets of the compute die (chapter 19): what one leaves, stated once for `computeReset`, and the rows that make one (O46). -/

namespace Sys2Proof.Machine

open Sys2Proof Sys2Proof.Safety

/-! ## A reset of the compute die (R67, R447, R502) -/

/-- A filter on the index keeps the entries that pass it and no others. -/
theorem tabGet_filter {α : Type} (d : α) (p : Nat → Bool) (t : Tab α) (i : Nat) :
    tabGet d (t.filter fun e => p e.1) i = if p i then tabGet d t i else d := by
  induction t with
  | nil => simp [tabGet]
  | cons e t ih =>
    obtain ⟨k, w⟩ := e
    by_cases hk : i = k
    · subst hk
      cases hp : p i
      · simpa [hp] using ih
      · simp [tabGet, hp]
    · have hne : (i == k) = false := by simp [hk]
      cases hp : p k <;> simpa [tabGet, List.lookup, hne, hp] using ih

theorem ctrGet_computeReset (src : ResetSrc) (s : State) (off : Nat) :
    ctrGet (computeReset src s) off = if feCounter off then ctrGet s off else 0 :=
  tabGet_filter 0 feCounter s.ctr off

theorem computeReset_restarted (src : ResetSrc) (s : State) : Restarted src s (computeReset src s) :=
  ⟨⟨rfl, rfl, rfl, rfl, rfl, rfl, rfl, rfl, rfl, rfl, rfl, rfl, rfl⟩,
    ⟨rfl, rfl, rfl, rfl, rfl, rfl, rfl, rfl, rfl, rfl, rfl, rfl⟩,
    ⟨rfl, rfl, rfl, rfl, rfl, rfl⟩, fun off _ => ctrGet_computeReset src s off⟩

/-! ## What a reset may find changed before it, or change after it

`Restarted` names only parts that taking a slot and the hold of PERST_N leave, and excepts the counter `therm_trip`. -/

theorem restarted_slotTaken {src : ResetSrc} {c : Cmd} {s t : State} : Restarted src (slotTaken c s) t ↔ Restarted src s t := Iff.rfl

theorem restarted_setPerst {src : ResetSrc} {b : Bool} {s t : State} :
    Restarted src (setBoot (fun x => { x with perst := b }) s) t ↔ Restarted src s t := Iff.rfl

theorem ctrGet_ctrSet_self (off : Nat) (v : W32) (s : State) : ctrGet (ctrSet off v s) off = v := tabGet_tabSet_self 0 s.ctr off v

theorem ctrGet_ctrSet_ne {off o : Nat} (v : W32) (s : State) (h : o ≠ off) : ctrGet (ctrSet off v s) o = ctrGet s o :=
  tabGet_tabSet_ne 0 s.ctr v h

theorem restarted_ctrSet_thermTrip {src : ResetSrc} {s t : State} (v : W32) (h : Restarted src s t) :
    Restarted src s (ctrSet cThermTrip v t) := by
  obtain ⟨hdie, hkept, htick, hctr⟩ := h
  exact ⟨hdie, hkept, htick, fun off hne => (ctrGet_ctrSet_ne v t hne).trans (hctr off hne)⟩

/-! ## The rows -/

theorem bodyDevReset_scope0 {c : Cmd} (s : State) (h : fld c 1 0 0 = 0) : bodyDevReset c s = computeReset .devReset0 s := by
  simp [bodyDevReset, h]

theorem thermalTrip_trips {tj : Int} {ic : Nat} {s : State} (hup : computeDown s = false)
    (h : 115 * 256 ≤ tj ∨ 600 ≤ s.power.overTicks) : thermalTrip tj ic s =
      ctrSet cThermTrip (BitVec.ofNat 32 (min (2 ^ 32 - 1) ((ctrGet s cThermTrip).toNat + 1)))
        (computeReset .trip (logEvent 0x0022 5 (wrapN 64 tj) ic s)) := by
  have hreached : (decide (115 * 256 ≤ tj) || decide (600 ≤ s.power.overTicks)) = true := by
    simpa only [Bool.or_eq_true, decide_eq_true_eq] using h
  rw [thermalTrip, hup, hreached]
  rfl

theorem toNat_ofNat_saturated (n : Nat) : (BitVec.ofNat 32 (min (2 ^ 32 - 1) n)).toNat = min (2 ^ 32 - 1) n := by
  rw [BitVec.toNat_ofNat, Nat.mod_eq_of_lt (by omega)]

/-- The core that expires is the last running one exactly when its bit is the only one. -/
theorem coresLeft_eq_zero_iff {cores : BitVec 4} {core : Nat} (hlt : core < 4) (hon : cores.getLsbD core = true) :
    cores &&& ~~~(1#4 <<< core) = 0 ↔ cores = 1#4 <<< core := by
  interval_cases core <;> revert cores <;> decide

theorem watchdogExpiry_lastCore {core a : Nat} {s : State} (hup : computeDown s = false) (hlt : core < 4)
    (h : s.boot.cores = 1#4 <<< core) :
    watchdogExpiry core a s = computeReset .watchdog (logEvent 0x0003 0 core 0 s) := by
  have hon : s.boot.cores.getLsbD core = true := by simp [h, hlt]
  have hleft := (coresLeft_eq_zero_iff hlt hon).mpr h
  rw [watchdogExpiry, if_neg (by simp [hup, hon])]
  exact if_pos (by simp [hleft])

theorem watchdogExpiry_coreOff {core a : Nat} {s : State} (hup : computeDown s = false) (hlt : core < 4)
    (hon : s.boot.cores.getLsbD core = true) (hmore : s.boot.cores ≠ 1#4 <<< core) (hfirst : s.boot.lastWdt = none)
    (hlive : s.boot.staged = false ∨ s.tick.inFrame ≠ 0) :
    watchdogExpiry core a s = setBoot (fun b => { b with cores := s.boot.cores &&& ~~~(1#4 <<< core), lastWdt := some (absAt s a) })
      (logEvent 0x0003 0 core 0 s) := by
  have hleft := mt (coresLeft_eq_zero_iff hlt hon).mp hmore
  have hstaged : (s.boot.staged && s.tick.inFrame == 0) = false := by
    obtain h | h := hlive <;> simp [h]
  rw [watchdogExpiry, if_neg (by simp [hup, hon])]
  exact if_neg (by simpa [hfirst, hstaged] using hleft)

theorem logEvent_stage (code src arg arg2 : Nat) (s : State) : (logEvent code src arg arg2 s).boot.stage = s.boot.stage := by
  simp only [logEvent, apply_ite State.boot, raiseInt_boot, bump_boot, ite_self]

/-- Settles O46: `computeReset` leaves `Restarted`, and each row that resets is `computeReset` on a state that agrees with the clause's in all
that `Restarted` names; `therm_trip` is set after its own reset (log 54). With another core left, the event is logged
and the core goes off (log 63). -/
theorem computeDieResets : Obligations.ComputeDieResets := by
  unfold Obligations.ComputeDieResets
  refine ⟨?devReset, ?perstAssert, ?perstDeassert, ?flr, ?rail, ?trip, ?lastCore, ?coreOff⟩
  case devReset =>
    intro c s h hscope
    rw [exec_row_runs rfl rfl h, bodyDevReset_scope0 _ hscope]
    exact ⟨_, rfl, restarted_slotTaken.mp (computeReset_restarted _ _), rfl, rfl⟩
  case perstAssert => exact fun s => ⟨_, rfl, restarted_setPerst.mp (computeReset_restarted _ _), rfl⟩
  case perstDeassert => exact fun s => rfl
  case flr =>
    intro s hup
    refine ⟨computeReset .flr s, congrArg Host.Outcome.next (if_neg ?_), computeReset_restarted _ s⟩
    simp [hup]
  case rail => exact fun s => ⟨_, rfl, computeReset_restarted _ s⟩
  case trip =>
    intro tj ic s hup htrip
    refine ⟨_, congrArg Host.Outcome.next (thermalTrip_trips hup htrip),
      restarted_ctrSet_thermTrip _ (computeReset_restarted _ _), ?_⟩
    rw [ctrGet_ctrSet_self, toNat_ofNat_saturated]
  case lastCore =>
    intro core a s hup hlt hlast
    exact ⟨_, congrArg Host.Outcome.next (watchdogExpiry_lastCore hup hlt hlast), computeReset_restarted _ _⟩
  case coreOff =>
    intro core a s hup hlt hon hmore hfirst hlive
    refine ⟨_, congrArg Host.Outcome.next (watchdogExpiry_coreOff hup hlt hon hmore hfirst hlive), ?_⟩
    simp [logEvent_stage]

end Sys2Proof.Machine
end

section
/-! PROOFS. The registers (chapter 20): the latching read (O8), with the facts on little-endian bytes and one lemma per kind of word
read that it rests on. -/

namespace Sys2Proof.Machine

open Sys2Proof Sys2Proof.Safety

/-! ## Little-endian bytes (R6) -/

theorem leBytes_succ (k x : Nat) : leBytes (k + 1) x = BitVec.ofNat 8 x :: leBytes k (x >>> 8) := by
  simp [leBytes, List.range_succ_eq_map, Function.comp_def, ← Nat.shiftRight_add, Nat.mul_add, Nat.add_comm]

theorem leNat_leBytes (k x : Nat) : leNat (leBytes k x) = x % 2 ^ (8 * k) := by
  induction k generalizing x with
  | zero => simp [leBytes, leNat, Nat.mod_one]
  | succ k ih =>
    have hpow : 2 ^ (8 * (k + 1)) = 256 * 2 ^ (8 * k) := by ring
    rw [leBytes_succ, leNat, ih, hpow, Nat.mod_mul, Nat.shiftRight_eq_div_pow, BitVec.toNat_ofNat]

theorem leBytes_mod (k x : Nat) : leBytes k (x % 2 ^ (8 * k)) = leBytes k x := by
  refine List.map_congr_left fun i hi => BitVec.eq_of_getLsbD_eq fun j hj => ?_
  have hbit : 8 * i + j < 8 * k := by have := List.mem_range.mp hi; omega
  simp only [BitVec.getLsbD_ofNat, Nat.testBit_shiftRight, Nat.testBit_mod_two_pow, hbit, decide_true, Bool.true_and]

theorem take_drop_leBytes {j m n : Nat} (x : Nat) (h : j + m ≤ n) :
    ((leBytes n x).drop j).take m = leBytes m (x >>> (8 * j)) := by
  refine List.ext_getElem (by simp [leBytes]; omega) fun i _ _ => ?_
  simp [leBytes, ← Nat.shiftRight_add, Nat.mul_add]

/-! ## One word of a wide register (R518) -/

/-- The register at `b`, of `n` bytes, is latched with the value that it holds. -/
def latchReg (b n : Nat) (s : State) : State :=
  setMbx (fun m => { m with latch := tabSet m.latch b (leBytes n (regVal s b)) }) s

@[simp] theorem tabFind_latchReg (b n : Nat) (s : State) :
    tabFind (latchReg b n s).mbx.latch b = some (leBytes n (regVal s b)) := by
  simp [latchReg]

/-- A word of bytes latched earlier is the word of the value that they were made of. -/
theorem leNat_word_leBytes {k n : Nat} (x : Nat) (hk : 4 * k + 4 ≤ n) :
    leNat (((leBytes n x).drop (4 * k)).take 4) = (x >>> (32 * k)) % 2 ^ 32 := by
  rw [take_drop_leBytes x hk, leNat_leBytes, ← Nat.mul_assoc]

theorem readWord_lowest {b n : Nat} (s : State) (hreg : regOf b = some (b, n)) (hwide : 4 < n) :
    readWord b s = (regVal s b % 2 ^ 32, latchReg b n s) := by
  have hword := leNat_word_leBytes (k := 0) (regVal s b) (Nat.le_of_lt hwide)
  simp only [readWord, hreg, Nat.not_le.mpr hwide, if_false, if_true]
  rw [← latchReg, tabGet_eq, tabFind_latchReg, Nat.sub_self]
  exact congrArg (·, latchReg b n s) hword

theorem readWord_latched {b n k x : Nat} {s : State} (hreg : regOf (b + 4 * k) = some (b, n)) (hk : 1 ≤ k) (hn : 4 * k + 4 ≤ n)
    (hlatch : tabFind s.mbx.latch b = some (leBytes n x)) :
    readWord (b + 4 * k) s = ((x >>> (32 * k)) % 2 ^ 32, s) := by
  have hwide : ¬ n ≤ 4 := by omega
  have hother : b + 4 * k ≠ b := by omega
  simp only [readWord, hreg, hwide, hother, if_false, tabGet_eq, hlatch, Option.getD_some, Nat.add_sub_cancel_left,
    leNat_word_leBytes x hn]

/-! ## Reads of one and of two words (R517) -/

/-- What a read answers is put in `readOut`. -/
def readAnswered (bs : List Byte) (s : State) : State := setMbx (fun m => { m with readOut := bs }) s

theorem latchingRead_oneWord {off : Nat} {s : State} (hup : computeDown s = false) (halign : off % 4 = 0) :
    latchingRead off 4 s = readAnswered (leBytes 4 (readWord off s).1) (readWord off s).2 := by
  simp [latchingRead, hup, accessOk, halign, readAnswered]

theorem latchingRead_twoWords {off : Nat} {s : State} (hup : computeDown s = false) (halign : off % 8 = 0) :
    latchingRead off 8 s =
      readAnswered (leBytes 8 ((readWord off s).1 + (readWord (off + 4) (readWord off s).2).1 * 2 ^ 32))
        (readWord (off + 4) (readWord off s).2).2 := by
  simp [latchingRead, hup, accessOk, halign, readAnswered]

theorem latchingRead_lowest {b n : Nat} {s : State} (hup : computeDown s = false) (hreg : regOf b = some (b, n)) (hwide : 4 < n)
    (halign : b % 4 = 0) : latchingRead b 4 s = readAnswered (leBytes 4 (regVal s b)) (latchReg b n s) := by
  rw [latchingRead_oneWord hup halign, readWord_lowest s hreg hwide]
  exact congrArg (readAnswered · _) (leBytes_mod 4 _)

theorem latchingRead_latched {b n k x : Nat} {s : State} (hup : computeDown s = false) (hreg : regOf (b + 4 * k) = some (b, n))
    (hk : 1 ≤ k) (hn : 4 * k + 4 ≤ n) (halign : b % 4 = 0) (hlatch : tabFind s.mbx.latch b = some (leBytes n x)) :
    latchingRead (b + 4 * k) 4 s = readAnswered (leBytes 4 (x >>> (32 * k))) s := by
  rw [latchingRead_oneWord hup (by omega), readWord_latched hreg hk hn hlatch]
  exact congrArg (readAnswered · _) (leBytes_mod 4 _)

theorem leBytes_twoWords (x : Nat) : leBytes 8 (x % 2 ^ 32 + (x >>> 32) % 2 ^ 32 * 2 ^ 32) = leBytes 8 x := by
  have hwords : x % 2 ^ 32 + (x >>> 32) % 2 ^ 32 * 2 ^ 32 = x % 2 ^ (8 * 8) := by
    rw [Nat.shiftRight_eq_div_pow]; omega
  rw [hwords, leBytes_mod]

/-- Of the two words the first latches the register, so the second is read from the same latched value. -/
theorem latchingRead_lowestTwo {b n : Nat} {s : State} (hup : computeDown s = false) (hlo : regOf b = some (b, n))
    (hhi : regOf (b + 4) = some (b, n)) (hn : 8 ≤ n) (halign : b % 8 = 0) :
    latchingRead b 8 s = readAnswered (leBytes 8 (regVal s b)) (latchReg b n s) := by
  have hfirst := readWord_lowest s hlo (by omega)
  have hsecond := readWord_latched (k := 1) hhi le_rfl hn (tabFind_latchReg b n s)
  rw [latchingRead_twoWords hup halign, hfirst, hsecond]
  exact congrArg (readAnswered · _) (leBytes_twoWords _)

/-- Settles O8: the lowest word's read puts the register's bytes into the latch table, and a read of another word answers from
that table, in every state whose table is the same. -/
theorem wideReadLatches : Obligations.WideReadLatches := by
  unfold Obligations.WideReadLatches
  refine ⟨?oneWord, ?twoWords⟩
  case oneWord =>
    intro b n k s u hs hu hlo hword hwide hk hn halign
    refine ⟨_, congrArg Host.Outcome.next (latchingRead_lowest hs hlo hwide halign), rfl, rfl, fun hsame => ?_⟩
    have hlatch : tabFind u.mbx.latch b = some (leBytes n (regVal s b)) := hsame ▸ tabFind_latchReg b n s
    exact ⟨_, congrArg Host.Outcome.next (latchingRead_latched hu hword hk hn halign hlatch), rfl, rfl⟩
  case twoWords =>
    intro b n s hs hlo hhi hn halign
    exact ⟨_, congrArg Host.Outcome.next (latchingRead_lowestTwo hs hlo hhi hn halign), rfl, tabFind_latchReg b n s, rfl⟩

end Sys2Proof.Machine
end

section
/-! PROOFS. What every operation keeps: the invariant (its memories canonical, its reserved bits 0), the queue and the part. One lemma per
operation of the model, in the order of the model; each says that a state kept from `r` is kept by the operation too, and its proof follows
the branches of the operation. -/

namespace Sys2Proof.Machine

open Sys2Proof Sys2Proof.Safety

/-- A state reached from `r` by operations that keep the invariant, the queue and the part. -/
structure Kept (r s : State) : Prop where
  inv : Safety.Inv r → Safety.Inv s
  pending : s.pending = r.pending
  part : s.part = r.part

/-- What the invariant asks of the mailbox. -/
abbrev MbxInv (m : Mbx) : Prop :=
  (memWf 0 m.slots = true ∧ memWf 0 m.msix.table = true) ∧
    m.intStatus &&& ~~~0x3FF = 0 ∧ m.intEnable &&& ~~~0x3FF = 0 ∧ m.errSum &&& ~~~0x7FFF = 0 ∧ m.winBase &&& ~~~0xFC0000000 = 0

/-- What the invariant asks of the store. -/
abbrev NvInv (v : Nv) : Prop :=
  memWf 0xFF#8 v.mem = true ∧ memWf 0xFF#8 v.img = true ∧ ∀ m, v.storing = some m → memWf 0xFF#8 m = true

/-- The invariant unit by unit. -/
theorem inv_iff (s : State) : Safety.Inv s ↔
    memWf 0 s.fm.mem = true ∧ memWf 0 s.dram.mem = true ∧ NvInv s.nv ∧ memWf 0xFF#8 s.boot.flash = true ∧ MbxInv s.mbx ∧
      memWf 0 s.host = true := by
  simp only [Safety.Inv, Canonical, ReservedZero, NvInv, MbxInv]; tauto

variable {r s t : State}

theorem Kept.refl (s : State) : Kept s s := ⟨id, rfl, rfl⟩

theorem Kept.trans {q : State} (h : Kept q r) (k : Kept r s) : Kept q s :=
  ⟨k.inv ∘ h.inv, k.pending.trans h.pending, k.part.trans h.part⟩

theorem Kept.ite {c : Prop} [Decidable c] {a b : State} (h : Kept r a) (k : Kept r b) : Kept r (if c then a else b) := by
  split <;> assumption

theorem Kept.ite2 {α : Type} {c : Prop} [Decidable c] {p q : α × State} (h : Kept r p.2) (k : Kept r q.2) :
    Kept r (if c then p else q).2 := by
  split <;> assumption

theorem Kept.when {c : Prop} [Decidable c] {a b : State} (ha : Kept r b → Kept r a) (h : Kept r b) : Kept r (if c then a else b) :=
  .ite (ha h) h

theorem Kept.unless {c : Prop} [Decidable c] {a b : State} (hb : Kept r a → Kept r b) (h : Kept r a) : Kept r (if c then a else b) :=
  .ite h (hb h)

theorem Kept.pair {α : Type} {a : α} (h : Kept r s) : Kept r (a, s).2 := h

theorem Kept.foldl {α : Type} {f : State → α → State} {xs : List α} (hf : ∀ t x, Kept r t → Kept r (f t x)) (h : Kept r s) :
    Kept r (xs.foldl f s) := by
  induction xs generalizing s with
  | nil => exact h
  | cons x xs ih => exact ih (hf s x h)

theorem Kept.snd {α : Type} {p : α × State} {a : α} (h : Kept r p.2) (e : p = (a, t)) : Kept r t := by
  subst e; exact h

/-! ## The unit updates -/

theorem setTick_kept {f : TickSt → TickSt} (h : Kept r s) : Kept r (setTick f s) := h.trans ⟨id, rfl, rfl⟩
theorem setFe_kept {f : FrontEnd → FrontEnd} (h : Kept r s) : Kept r (setFe f s) := h.trans ⟨id, rfl, rfl⟩
theorem setSmb_kept {f : Smb → Smb} (h : Kept r s) : Kept r (setSmb f s) := h.trans ⟨id, rfl, rfl⟩
theorem setSeq_kept {f : Seq → Seq} (h : Kept r s) : Kept r (setSeq f s) := h.trans ⟨id, rfl, rfl⟩
theorem setKv_kept {f : Kv → Kv} (h : Kept r s) : Kept r (setKv f s) := h.trans ⟨id, rfl, rfl⟩
theorem setWatch_kept {f : Watch → Watch} (h : Kept r s) : Kept r (setWatch f s) := h.trans ⟨id, rfl, rfl⟩
theorem setLinks_kept {f : Links → Links} (h : Kept r s) : Kept r (setLinks f s) := h.trans ⟨id, rfl, rfl⟩
theorem setBus_kept {f : Bus → Bus} (h : Kept r s) : Kept r (setBus f s) := h.trans ⟨id, rfl, rfl⟩
theorem setTrust_kept {f : Trust → Trust} (h : Kept r s) : Kept r (setTrust f s) := h.trans ⟨id, rfl, rfl⟩
theorem setPower_kept {f : Power → Power} (h : Kept r s) : Kept r (setPower f s) := h.trans ⟨id, rfl, rfl⟩
theorem draw_kept (h : Kept r s) : Kept r (draw s) := h.trans ⟨id, rfl, rfl⟩
theorem ctrSet_kept {off : Nat} {v : W32} (h : Kept r s) : Kept r (ctrSet off v s) := h.trans ⟨id, rfl, rfl⟩

theorem setMbx_kept {f : Mbx → Mbx} (e : MbxInv s.mbx → MbxInv (f s.mbx)) (h : Kept r s) : Kept r (setMbx f s) := by
  refine h.trans ⟨fun hi => ?_, setMbx_pending f s, setMbx_part f s⟩
  obtain ⟨hfm, hdram, hnv, hflash, hmbx, hhost⟩ := (inv_iff s).mp hi
  exact (inv_iff _).mpr ⟨hfm, hdram, hnv, hflash, e hmbx, hhost⟩

theorem setFm_kept {f : Fm → Fm} (e : memWf 0 s.fm.mem = true → memWf 0 (f s.fm).mem = true) (h : Kept r s) : Kept r (setFm f s) := by
  refine h.trans ⟨fun hi => ?_, setFm_pending f s, setFm_part f s⟩
  obtain ⟨hfm, hrest⟩ := (inv_iff s).mp hi
  exact (inv_iff _).mpr ⟨e hfm, hrest⟩

theorem setDram_kept {f : Dram → Dram} (e : memWf 0 s.dram.mem = true → memWf 0 (f s.dram).mem = true) (h : Kept r s) :
    Kept r (setDram f s) := by
  refine h.trans ⟨fun hi => ?_, setDram_pending f s, setDram_part f s⟩
  obtain ⟨hfm, hdram, hrest⟩ := (inv_iff s).mp hi
  exact (inv_iff _).mpr ⟨hfm, e hdram, hrest⟩

theorem setNv_kept {f : Nv → Nv} (e : NvInv s.nv → NvInv (f s.nv)) (h : Kept r s) : Kept r (setNv f s) := by
  refine h.trans ⟨fun hi => ?_, setNv_pending f s, setNv_part f s⟩
  obtain ⟨hfm, hdram, hnv, hrest⟩ := (inv_iff s).mp hi
  exact (inv_iff _).mpr ⟨hfm, hdram, e hnv, hrest⟩

theorem setBoot_kept {f : Boot → Boot} (e : memWf 0xFF#8 s.boot.flash = true → memWf 0xFF#8 (f s.boot).flash = true) (h : Kept r s) :
    Kept r (setBoot f s) := by
  refine h.trans ⟨fun hi => ?_, setBoot_pending f s, setBoot_part f s⟩
  obtain ⟨hfm, hdram, hnv, hflash, hrest⟩ := (inv_iff s).mp hi
  exact (inv_iff _).mpr ⟨hfm, hdram, hnv, e hflash, hrest⟩

theorem hostWrite_kept {a : Nat} {bs : List Byte} (h : Kept r s) : Kept r (hostWrite a bs s) := by
  refine h.trans ⟨fun hi => ?_, hostWrite_pending a bs s, hostWrite_part a bs s⟩
  obtain ⟨hfm, hdram, hnv, hflash, hmbx, hhost⟩ := (inv_iff s).mp hi
  exact (inv_iff _).mpr ⟨hfm, hdram, hnv, hflash, hmbx, memWf_memWriteN bs _ a hhost⟩

/-! ## Interrupts, counters and the event log -/

theorem msixSend_kept {vec : Nat} (h : Kept r s) : Kept r (msixSend vec s) := by
  refine setMbx_kept (f := fun m => { m with msix := _ }) (fun hm => ?_) h
  split <;> exact hm

theorem reserved_or_bit {x mask : W32} {b : Nat} (hb : (1#32 <<< b) &&& ~~~mask = 0) (hx : x &&& ~~~mask = 0) :
    (x ||| (1#32 <<< b)) &&& ~~~mask = 0 := by
  rw [BitVec.and_or_distrib_right, hb, hx]; rfl

theorem raiseInt_kept {b : Nat} (hb : (1#32 <<< b) &&& ~~~0x3FF = 0) (h : Kept r s) : Kept r (raiseInt b s) := by
  have hset : Kept r (setMbx (fun m => { m with intStatus := m.intStatus ||| (1#32 <<< b) }) s) :=
    setMbx_kept (fun ⟨hmem, hint, hrest⟩ => ⟨hmem, reserved_or_bit hb hint, hrest⟩) h
  exact .ite h (.ite (msixSend_kept hset) hset)

theorem raiseErr_kept {b : Nat} (hb : (1#32 <<< b) &&& ~~~0x7FFF = 0) (h : Kept r s) : Kept r (raiseErr b s) := by
  have hset : Kept r (setMbx (fun m => { m with errSum := m.errSum ||| (1#32 <<< b) }) s) :=
    setMbx_kept (fun ⟨hmem, hint, hen, herr, hwin⟩ => ⟨hmem, hint, hen, reserved_or_bit hb herr, hwin⟩) h
  exact .ite h (.ite (raiseInt_kept (by decide) hset) hset)

/-- The group of a counter is one of the bits 0 to 14 of ERR_SUM (Table 20-4). -/
theorem errBitOf_defined {off b : Nat} (h : errBitOf off = some b) : (1#32 <<< b) &&& ~~~0x7FFF = 0 := by
  have hb : b ∈ List.range 15 := by
    revert h
    fun_cases errBitOf off <;> simp +contextual [eq_comm]
  exact (by decide : ∀ b ∈ List.range 15, (1#32 <<< b) &&& ~~~0x7FFF#32 = 0) b hb

theorem bumpBy_kept {off n : Nat} (h : Kept r s) : Kept r (bumpBy off n s) := by
  unfold bumpBy
  refine .ite h ?_
  dsimp only
  split
  case h_1 b hb => exact raiseErr_kept (errBitOf_defined hb) (ctrSet_kept h)
  case h_2 => exact ctrSet_kept h

theorem bump_kept {off : Nat} (h : Kept r s) : Kept r (bump off s) :=
  bumpBy_kept h

theorem logEvent_kept {code src arg arg2 : Nat} (h : Kept r s) : Kept r (logEvent code src arg arg2 s) := by
  have hlog : ∀ n l, Kept r (setBoot (fun b => { b with logSeq := n, log := l }) s) := fun _ _ => setBoot_kept id h
  have hint : ∀ n l, Kept r (raiseInt 7 (setBoot (fun b => { b with logSeq := n, log := l }) s)) := fun n l => raiseInt_kept (by decide) (hlog n l)
  exact .ite (.ite (setNv_kept (f := fun v => { v with logPend := _ }) id (hint _ _)) (bump_kept (hint _ _))) (hlog _ _)

end Sys2Proof.Machine
end

section
/-! PROOFS. What the accesses, the counts and the transfers of a set move keep, each element of it and its run keep (section 10 of the spec). The
kept property is a parameter: the frame of a move and the invariant of the block are both instances. -/

namespace Sys2Proof.Machine
open Sys2Proof Sys2Proof.Safety

/-- What every access and every count of a set move keeps of the state. -/
structure SetClosed (P : State → Prop) : Prop where
  draw : ∀ {s}, P s → P (draw s)
  scan : ∀ {w f a n s}, P s → P (fmScan w f a n s)
  store : ∀ {w f a bs ps s}, P s → P (fmStore w f a bs ps s)
  put : ∀ {f g bs p s}, P s → P (fmPutGroup f g bs p s)
  bumpBy : ∀ {off n s}, P s → P (bumpBy off n s)

/-- The element's run, where there is one, has the property. -/
def SetNext.Meets (P : State → Prop) : SetNext → Prop
  | .finish => True
  | .error _ _ r => P r.s
  | .elem _ r => P r.s

variable {P : State → Prop} {r : SetRun} {f : Nat} {o : SetOpnd}

theorem SetNext.Meets.ite {c : Prop} [Decidable c] {a b : SetNext} (h : a.Meets P) (k : b.Meets P) :
    SetNext.Meets P (if c then a else b) := by
  split <;> assumption

theorem run_ite {c : Prop} [Decidable c] {a b : SetRun} (h : P a.s) (k : P b.s) : P (if c then a else b).s := by
  split <;> assumption

theorem run_foldl {α : Type} {g : SetRun → α → SetRun} {xs : List α} (hg : ∀ t x, P t.s → P (g t x).s) (h : P r.s) :
    P (xs.foldl g r).s := by
  induction xs generalizing r with
  | nil => exact h
  | cons x xs ih => exact ih (hg r x h)

namespace SetClosed

/-! ## Accesses and counts -/

theorem spoil (hP : SetClosed P) {a n : Nat} (h : P r.s) : P (setSpoil f a n r).s := by
  have hfold : ∀ (hit : List Nat) (k : Nat) (t : State), P t → P (hit.foldl (fun t g =>
      if Config.freeBool k g then fmPutGroup f g ((List.range 8).map fun i => Config.freeByte k (g + i)) 0 t else t) t) := by
    intro hit
    induction hit with
    | nil => exact fun _ _ h => h
    | cons g hit ih =>
      intro k t h
      rw [List.foldl_cons]
      split
      · exact ih k _ (hP.put h)
      · exact ih k _ h
  exact hP.draw (hfold _ _ _ h)

theorem setScan (hP : SetClosed P) {ps : List Nat} {a n : Nat} (h : P r.s) : P (setScan ps f a n r).s :=
  run_ite (hP.spoil h) (hP.draw (hP.scan h))

theorem setWrite (hP : SetClosed P) {ps : List Nat} {a : Nat} {bs : List Byte} {p : BitVec 8} (h : P r.s) :
    P (setWrite ps f a bs p r).s :=
  run_ite (hP.spoil h) (hP.draw (hP.store h))

theorem setPatch (hP : SetClosed P) {ps : List Nat} {a : Nat} {bs : List Byte} {p : BitVec 8} (h : P r.s) :
    P (setPatch ps f a bs p r).s :=
  hP.setWrite h

theorem setRow (hP : SetClosed P) {ps : List Nat} {a : Nat} {bs : List Byte} {p : BitVec 8} (h : P r.s) :
    P (setRow ps f a bs p r).s :=
  hP.setWrite h

theorem setOut32 (hP : SetClosed P) {a v : Nat} {p : BitVec 8} (h : P r.s) : P (setOut32 f a v p r).s :=
  hP.setWrite h

theorem noteSat (hP : SetClosed P) {n : Nat} (h : P r.s) : P (noteSat f n r).s :=
  hP.bumpBy h

theorem bump (hP : SetClosed P) {off : Nat} {s : State} (h : P s) : P (bump off s) :=
  hP.bumpBy h

theorem noteOob (hP : SetClosed P) (h : P r.s) : P (noteOob f r).s :=
  hP.bump h

theorem scanSlots (hP : SetClosed P) {home n : Nat} (h : P r.s) : P (scanSlots f o home n r).s :=
  run_foldl (fun _ _ k => hP.setScan k) h

/-! ## One element of each operation -/

theorem nextGather (hP : SetClosed P) (h : P r.s) : (nextGather f o r).Meets P := by
  dsimp only [Machine.nextGather]
  exact .ite trivial (.ite (hP.setScan h) (.ite (hP.setRow (hP.setScan h))
    (.ite (hP.noteOob (hP.setRow (hP.setScan h))) (hP.setRow (hP.setScan (hP.setScan h))))))

/-- A gather from DRAM starts transfers beside its accesses. -/
theorem nextGatherD (hP : SetClosed P) (hrow : ∀ {x a out s}, P s → P (gatherRow f o x a out s)) (hfill : ∀ {w s}, P s → P (descEnqueue w s))
    {x : MoveCtx} (h : P r.s) : (nextGatherD f o x r).Meets P := by
  dsimp only [Machine.nextGatherD]
  exact .ite trivial (.ite (hP.setScan h) (.ite (hfill (hP.setScan h)) (.ite (hP.noteOob (hfill (hP.setScan h))) (hrow (hP.setScan h)))))

theorem nextScatter (hP : SetClosed P) (h : P r.s) : (nextScatter f o r).Meets P := by
  dsimp only [Machine.nextScatter]
  exact .ite trivial (.ite (hP.setScan h) (.ite (hP.setScan h) (.ite (hP.noteOob (hP.setScan h)) (hP.setRow (hP.setScan (hP.setScan h))))))

theorem nextScatterAdd (hP : SetClosed P) (h : P r.s) : (nextScatterAdd f o r).Meets P := by
  dsimp only [Machine.nextScatterAdd]
  exact .ite trivial (.ite (hP.setScan h) (.ite (hP.setScan h) (.ite (hP.noteOob (hP.setScan h))
    (hP.noteSat (hP.setRow (hP.setScan (hP.setScan (hP.setScan h))))))))

theorem nextSegReduce (hP : SetClosed P) (h : P r.s) : (nextSegReduce f o r).Meets P := by
  have h1 := hP.setScan (ps := portA) (f := f) (a := o.aAddr + 4 * r.posA) (n := 4) h
  dsimp only [Machine.nextSegReduce]
  refine .ite trivial (.ite h1 (.ite (run_ite h1 h1) (.ite h1 (.ite h1 ?_))))
  split
  · exact hP.setRow (run_ite h1 (hP.setScan h1))
  · exact hP.noteSat (hP.setRow (hP.setScan (run_ite h1 (hP.setScan h1))))

theorem nextScan (hP : SetClosed P) (h : P r.s) : (nextScan f o r).Meets P := by
  have both : ∀ (i v : Nat) (m : BitVec 8) (t : SetRun), P t.s →
      P (if o.sub % 2 = 1 then Machine.setOut32 f (o.out2Addr + 4 * i) v m (Machine.setOut32 f (o.outAddr + 4 * i) v m t)
        else Machine.setOut32 f (o.outAddr + 4 * i) v m t).s :=
    fun _ _ _ _ k => run_ite (hP.setOut32 (hP.setOut32 k)) (hP.setOut32 k)
  have h1 := hP.setScan (ps := portA) (f := f) (a := o.aAddr + 4 * r.posA) (n := 4) h
  dsimp only [Machine.nextScan]
  exact .ite trivial (both _ _ _ _ (run_ite (both _ _ _ _ h1) h1))

theorem nextSorted (hP : SetClosed P) {k : SortedOp} (h : P r.s) : (nextSorted k f o r).Meets P := by
  dsimp only [Machine.nextSorted]
  refine .ite trivial ?_
  generalize (if decide (r.rows ≤ r.posB) = true then (0, 0) else keyAt f o r portT r.base r.posB) = kb
  generalize (if decide (o.nA ≤ r.posA) = true then (0, 0) else keyAt f o r portA o.aAddr r.posA) = ka
  have h2 : ∀ (a b : Prop) [Decidable a] [Decidable b] (x y n m : Nat) (ps qs : List Nat), P (if a then (if b then r else Machine.setScan ps f x n r)
      else Machine.setScan qs f y m (if b then r else Machine.setScan ps f x n r)).s := by
    intro a b _ _ x y n m ps qs
    exact run_ite (run_ite h (hP.setScan h)) (hP.setScan (run_ite h (hP.setScan h)))
  refine .ite (h2 ..) (.ite (h2 ..) (.ite ?_ (.ite ?_ ?_)))
  · cases k
    · exact run_ite (hP.setWrite (h2 ..)) (hP.setWrite (h2 ..))
    · exact hP.setWrite (h2 ..)
    · exact h2 ..
  · cases k
    · exact h2 ..
    · exact hP.setWrite (h2 ..)
    · exact hP.setWrite (h2 ..)
  · cases k
    · exact h2 ..
    · exact hP.setWrite (h2 ..)
    · exact h2 ..

theorem nextHprobe (hP : SetClosed P) (h : P r.s) : (nextHprobe f o r).Meets P := by
  have h1 := hP.setScan (ps := portA) (f := f) (a := o.aAddr + keyLen o * r.posA) (n := keyLen o) h
  dsimp only [Machine.nextHprobe]
  refine .ite trivial (.ite h1 (.ite (hP.setWrite (hP.setOut32 h1)) ?_))
  split
  · exact hP.scanSlots h1
  · exact hP.setWrite (hP.setOut32 (hP.scanSlots h1))
  · exact hP.setWrite (hP.setOut32 (hP.scanSlots h1))
  · exact hP.setWrite (hP.setOut32 (hP.scanSlots h1))

theorem nextHinsert (hP : SetClosed P) (h : P r.s) : (nextHinsert f o r).Meets P := by
  have h1 := hP.setScan (ps := portT) (f := f) (a := o.bAddr + 4 * r.posA) (n := 4)
    (hP.setScan (ps := portA) (f := f) (a := o.aAddr + keyLen o * r.posA) (n := keyLen o) h)
  dsimp only [Machine.nextHinsert]
  refine .ite trivial (.ite h1 (.ite (hP.setOut32 h1) ?_))
  split
  · exact hP.scanSlots h1
  · exact hP.setOut32 (hP.bump (hP.scanSlots h1))
  · exact hP.setOut32 (hP.setWrite (hP.scanSlots h1))
  · refine hP.setOut32 ?_
    split
    · exact hP.setWrite (hP.scanSlots h1)
    · exact hP.setWrite (hP.noteSat (hP.scanSlots h1))
    · exact hP.scanSlots h1

theorem nextHclear (hP : SetClosed P) (h : P r.s) : (nextHclear f o r).Meets P :=
  .ite trivial (hP.setWrite h)

theorem nextGbucket (hP : SetClosed P) (h : P r.s) : (nextGbucket f o r).Meets P := by
  have h1 := hP.setScan (ps := portT) (f := f) (a := o.auxAddr) (n := 32)
    (hP.setScan (ps := portA) (f := f) (a := o.aAddr + pointLen o * r.posA) (n := pointLen o) h)
  dsimp only [Machine.nextGbucket]
  exact .ite trivial (.ite h1 (.ite h1 (.ite (hP.setOut32 h1) (hP.setPatch (hP.setScan (hP.setOut32 h1))))))

theorem nextGplace (hP : SetClosed P) (h : P r.s) : (nextGplace f o r).Meets P := by
  have h1 := hP.setScan (ps := portT) (f := f) (a := o.bAddr + 4 * r.posA) (n := 4) h
  dsimp only [Machine.nextGplace]
  exact .ite trivial (.ite h1 (.ite h1 (.ite h1 (.ite (hP.setScan (hP.setScan h1))
    (hP.setPatch (hP.setPatch (hP.setWrite (hP.setScan (hP.setScan h1)))))))))

theorem nextNbr (hP : SetClosed P) (h : P r.s) : (nextNbr f o r).Meets P := by
  have h1 := hP.setScan (ps := portT) (f := f) (a := o.auxAddr) (n := 32)
    (hP.setScan (ps := portA) (f := f) (a := o.aAddr + pointLen o * r.posA) (n := pointLen o) h)
  have answer : ∀ (ps : List Nat) (c : Nat) (t : SetRun), P t.s →
      P (Machine.setOut32 f (o.out2Addr + 4 * r.posA) c 0 ((List.range o.k).foldl (fun u i =>
        Machine.setOut32 f (o.outAddr + 4 * (o.k * r.posA + i)) (nth ps i none32) 0 u) t)).s :=
    fun _ _ _ k => hP.setOut32 (run_foldl (fun _ _ k => hP.setOut32 k) k)
  dsimp only [Machine.nextNbr]
  refine .ite trivial (.ite h1 ?_)
  split
  · exact answer _ _ _ h1
  · refine .ite h1 ?_
    split
    · exact h1
    · split
      · exact h1
      · exact answer _ _ _ (run_foldl (fun _ _ k => hP.setScan k) (run_foldl (fun _ _ k => hP.setScan k) h1))

theorem nextTwalkPath (hP : SetClosed P) (h : P r.s) : (nextTwalkPath f o r).Meets P := by
  have h1 := hP.setScan (ps := portA) (f := f) (a := o.aAddr + 4 * r.posA) (n := 4) h
  dsimp only [Machine.nextTwalkPath]
  refine .ite trivial (.ite h1 ?_)
  split
  · exact run_foldl (fun _ _ k => hP.setScan k) h1
  · exact run_foldl (fun _ _ k => hP.setScan k) h1
  · exact hP.setOut32 (run_foldl (fun _ _ k => hP.setScan k) (run_foldl (fun _ _ k => hP.setOut32 k) h1))

theorem nextTwalkLevel (hP : SetClosed P) (h : P r.s) : (nextTwalkLevel f o r).Meets P := by
  dsimp only [Machine.nextTwalkLevel]
  exact .ite trivial (.ite (hP.setScan h) (.ite (hP.setScan h) (hP.setWrite (hP.setScan h))))

theorem nextTwalkAcc (hP : SetClosed P) (h : P r.s) : (nextTwalkAcc f o r).Meets P := by
  have h1 := hP.setScan (ps := portT) (f := f) (a := o.bAddr + o.row * r.posA) (n := o.row)
    (hP.setScan (ps := portT) (f := f) (a := r.base + 4 * r.posA) (n := 4) h)
  dsimp only [Machine.nextTwalkAcc]
  exact .ite trivial (.ite h1 (.ite h1 (.ite (hP.setRow h1) (hP.noteSat (hP.setRow (hP.setScan h1))))))

/-! ## The trailing outputs -/

theorem countFin (hP : SetClosed P) {st : Nat} (h : P r.s) : P (countFin f o st r).s :=
  run_ite h (hP.setOut32 h)

theorem scanFin (hP : SetClosed P) {st : Nat} (h : P r.s) : P (scanFin f o st r).s :=
  run_ite (run_ite (P := P) (hP.setOut32 (hP.setOut32 h)) (hP.setOut32 h)) h

theorem levelOut (hP : SetClosed P) {st : Nat} (h : P r.s) : P (levelOut f o st r).s := by
  unfold Machine.levelOut
  split
  · exact h
  · exact run_foldl (fun _ _ k => hP.setOut32 k) (run_foldl (fun _ _ k => hP.setOut32 k) (hP.setScan h))

end SetClosed

/-! ## The run of a set move -/

theorem setLook_meets {next : SetRun → SetNext} {d : Nat} (hn : ∀ q : SetRun, P q.s → (next q).Meets P) (h : P r.s) :
    (setLook next d r).Meets P := by
  unfold setLook
  dsimp only
  split
  · trivial
  · exact hn _ h
  · exact hn _ h

theorem setLoop_keeps {next : SetRun → SetNext} {d budget txMax : Nat} (hn : ∀ q : SetRun, P q.s → (next q).Meets P)
    (fuel : Nat) (h : P r.s) : P (setLoop next d budget txMax fuel r).2.2.s := by
  induction fuel generalizing r with
  | zero => exact h
  | succ fuel ih =>
    unfold setLoop
    have hl := setLook_meets (d := d) hn h
    split
    case h_1 => exact h
    case h_2 c e q hq =>
      rw [hq] at hl
      split
      · exact h
      · exact hl
    case h_3 c q hq =>
      rw [hq] at hl
      split
      · exact h
      · exact ih hl

end Sys2Proof.Machine

namespace Sys2Proof.Machine
open Sys2Proof Sys2Proof.Safety
variable {P : State → Prop} {r : SetRun} {f : Nat} {o : SetOpnd}

/-! ## The set moves by their work (`setWork`) -/

/-- A set move runs its work. -/
theorem exec_setWork {i : Instr} {x : MoveCtx} {w : SetWork} (e : setWork i = some (f, o, x, w)) (s : State) :
    exec i s = .next (setRunMove w.next w.fin w.tail w.aux0 w.dram f o x s) := by
  unfold setWork at e
  split at e
  case h_16 f o x =>
    have hx : exec (.twalk f o x) s = .next (twalk f o x s) := rfl
    rw [hx, twalk]
    split at e <;> cases e <;> simp [*]
  case h_17 => cases e
  all_goals cases e; rfl

/-- Each element and the trailing output of a set move keep what its accesses, counts and, from DRAM, its transfers keep. -/
theorem setWork_keeps (hP : SetClosed P) {i : Instr} {x : MoveCtx} {w : SetWork} (e : setWork i = some (f, o, x, w))
    (hq : w.dram = true → ∀ {q s}, P s → P (descEnqueue q s)) :
    (∀ q : SetRun, P q.s → (w.next q).Meets P) ∧ ∀ (st : Nat) (q : SetRun), P q.s → P (w.fin st q).s := by
  unfold setWork at e
  split at e
  case h_1 => cases e; exact ⟨fun _ => hP.nextGather, fun _ _ => id⟩
  case h_2 => cases e; exact ⟨fun _ => hP.nextGatherD (hq rfl) (hq rfl), fun _ _ => id⟩
  case h_3 => cases e; exact ⟨fun _ => hP.nextScatter, fun _ _ => id⟩
  case h_4 => cases e; exact ⟨fun _ => hP.nextScatterAdd, fun _ _ => id⟩
  case h_5 => cases e; exact ⟨fun _ => hP.nextSegReduce, fun _ _ => id⟩
  case h_6 => cases e; exact ⟨fun _ => hP.nextScan, fun _ _ => hP.scanFin⟩
  case h_7 => cases e; exact ⟨fun q => by dsimp only; exact hP.nextSorted, fun _ _ => hP.countFin⟩
  case h_8 => cases e; exact ⟨fun q => by dsimp only; exact hP.nextSorted, fun _ _ => hP.countFin⟩
  case h_9 => cases e; exact ⟨fun q => by dsimp only; exact hP.nextSorted, fun _ _ => hP.countFin⟩
  case h_10 => cases e; exact ⟨fun _ => hP.nextHprobe, fun _ _ => id⟩
  case h_11 => cases e; exact ⟨fun _ => hP.nextHinsert, fun _ _ => id⟩
  case h_12 => cases e; exact ⟨fun _ => hP.nextHclear, fun _ _ => id⟩
  case h_13 => cases e; exact ⟨fun _ => hP.nextGbucket, fun _ _ => id⟩
  case h_14 => cases e; exact ⟨fun _ => hP.nextGplace, fun _ _ => id⟩
  case h_15 => cases e; exact ⟨fun _ => hP.nextNbr, fun _ _ => id⟩
  case h_16 =>
    split at e
    · cases e; exact ⟨fun _ => hP.nextTwalkPath, fun _ _ => id⟩
    · cases e; exact ⟨fun _ => hP.nextTwalkLevel, fun _ _ => hP.levelOut⟩
    · cases e; exact ⟨fun _ => hP.nextTwalkAcc, fun _ _ => id⟩
  case h_17 => cases e

end Sys2Proof.Machine
end

section
/-! PROOFS. What every operation of the model keeps, from the shared operations to the bodies of the rows. -/

namespace Sys2Proof.Machine
open Sys2Proof Sys2Proof.Safety

variable {r s t : State}

/-! ## Operations of `Machine.Store` -/

theorem nvCheckGroup_kept {g : Nat} (h : Kept r s) : Kept r (nvCheckGroup s g) := by
  unfold nvCheckGroup
  split
  · exact h
  · exact ctrSet_kept (bump_kept h)
  · exact ctrSet_kept (bump_kept h)

theorem nvCheck_kept {a n : Nat} (h : Kept r s) : Kept r (nvCheck a n s) :=
  Kept.foldl (fun _ _ k => nvCheckGroup_kept k) h

theorem nvInv_mem {v : Nv} {m : Mem} (hm : memWf 0xFF#8 v.mem = true → memWf 0xFF#8 m = true) (h : NvInv v) : NvInv { v with mem := m } :=
  ⟨hm h.1, h.2⟩

theorem nvPut_kept {bs : List (Nat × Byte)} (h : Kept r s) : Kept r (nvPut bs s) := by
  unfold nvPut
  exact setNv_kept (fun ⟨hmem, hrest⟩ => ⟨memWf_foldl_memWrite _ _ _ _ hmem, hrest⟩) (.foldl (fun _ _ k => nvCheckGroup_kept k) h)

theorem nvWear_kept {n : Nat} (h : Kept r s) : Kept r (nvWear n s) :=
  setNv_kept id h

theorem nvPump_kept {n : Nat} (h : Kept r s) : Kept r (nvPump n s) := by
  induction n generalizing s with
  | zero => exact h
  | succ n ih =>
    unfold nvPump
    split
    · exact h
    · exact .ite h (ih (setNv_kept id h))

theorem nvSubmit_kept {page : Nat} {bytes : List (Nat × Byte)} (h : Kept r s) : Kept r (nvSubmit page bytes s) :=
  nvPump_kept (setNv_kept id h)

theorem cellProgram_kept {n i v gen : Nat} (h : Kept r s) : Kept r (cellProgram n i v gen s) :=
  nvWear_kept (nvPut_kept h)

theorem spreadWrite_kept {n v : Nat} (h : Kept r s) : Kept r (spreadWrite n v s) := by
  unfold spreadWrite
  split
  · exact cellProgram_kept h
  · exact cellProgram_kept (setNv_kept (nvInv_mem (memWf_memClear _ _)) (nvWear_kept h))

theorem spreadIncr_kept {n : Nat} (h : Kept r s) : Kept r (spreadIncr n s) := by
  unfold spreadIncr
  split
  · exact .ite h (spreadWrite_kept h)
  · exact .ite h (spreadWrite_kept h)

theorem wearTick_kept (h : Kept r s) : Kept r (wearTick s) :=
  Kept.ite h (setNv_kept id h)

theorem recPickNow_kept {k₀ : Nat} (h : Kept r s) : Kept r (recPickNow k₀ s) := by
  dsimp only [recPickNow]
  exact .when (fun k => logEvent_kept (ctrSet_kept (bump_kept k))) (setNv_kept id (nvCheck_kept (nvCheck_kept h)))

theorem recProgram_kept {k₀ : Nat} {copyB : Bool} {seq : W32} {body : List Byte} (h : Kept r s) : Kept r
    (recProgram k₀ copyB seq body s) :=
  nvWear_kept (nvPut_kept h)

theorem recRead_kept {k : Nat} {copyB ok : Bool} (h : Kept r s) : Kept r (recRead k copyB ok s).2 :=
  Kept.ite2 h (setNv_kept (f := fun v => { v with flips := _ }) id h)

theorem recTry_kept {k : Nat} {copyB ok : Bool} {seq : W32} {body : List Byte} {p : Bool × State} (h : Kept r p.2) :
    Kept r (if p.1 then p else recRead k copyB ok (recProgram k copyB seq body p.2)).2 :=
  .ite2 h (recRead_kept (recProgram_kept h))

theorem recAttempts_kept {k : Nat} {copyB : Bool} {seq : W32} {body : List Byte} {oks : List Bool} (h : Kept r s) :
    Kept r (recAttempts k copyB seq body oks s).2 := by
  unfold recAttempts
  extract_lets again p
  have hagain : ∀ (q : Bool × State) i, Kept r q.2 → Kept r (again q i).2 := fun q i hq => recTry_kept hq
  clear_value again
  have hp : Kept r p.2 := hagain _ _ (hagain _ _ (recRead_kept h))
  clear_value p
  exact .ite2 (.pair (wearTick_kept (recPickNow_kept hp))) (.pair (wearTick_kept (logEvent_kept (recPickNow_kept hp))))

theorem recWriteNow_kept {k : Nat} {body : List Byte} {oks : List Bool} (h : Kept r s) : Kept r (recWriteNow k body oks s).2 :=
  recAttempts_kept (recProgram_kept h)

theorem recStart_kept {k₀ : Nat} (h : Kept r s) : Kept r (recStart k₀ s) := by
  unfold recStart
  refine .ite h ?_
  split
  · exact h
  · split
    · exact .foldl (fun _ _ k => nvSubmit_kept k) (setNv_kept id h)

theorem recQueue_kept {k₀ : Nat} {body : List Byte} (h : Kept r s) : Kept r (recQueue k₀ body s) :=
  recStart_kept (setNv_kept id h)

theorem memWfFrom_shift {d : Byte} {lo base : Nat} {m : Mem} (hm : memWfFrom d lo m = true) (hlo : base ≤ lo) :
    memWfFrom d (lo - base) (m.map fun c => (c.1 - base, c.2)) = true := by
  induction m generalizing lo with
  | nil => rfl
  | cons c m ih =>
    obtain ⟨a, b⟩ := c
    simp only [memWfFrom, Bool.and_eq_true, decide_eq_true_eq, List.map_cons] at hm ⊢
    obtain ⟨⟨ha, hb⟩, hm⟩ := hm
    have hrest := ih hm (by omega)
    rw [show a + 1 - base = a - base + 1 by omega] at hrest
    exact ⟨⟨by omega, hb⟩, hrest⟩

theorem memWfFrom_filter_lower {d : Byte} {lo base : Nat} {p : Host.Cell → Bool} {m : Mem} (hm : memWfFrom d lo m = true)
    (hp : ∀ c, p c = true → base ≤ c.1) : memWfFrom d base (m.filter p) = true := by
  induction m generalizing lo with
  | nil => rfl
  | cons c m ih =>
    have hrest : memWfFrom d (c.1 + 1) m = true := by
      simp only [memWfFrom, Bool.and_eq_true] at hm; exact hm.2
    by_cases hc : p c = true
    · simp only [memWfFrom, Bool.and_eq_true, decide_eq_true_eq] at hm
      rw [List.filter_cons_of_pos hc]
      simp only [memWfFrom, Bool.and_eq_true, decide_eq_true_eq]
      exact ⟨⟨hp c hc, hm.1.2⟩, memWfFrom_filter _ hrest⟩
    · rw [List.filter_cons_of_neg hc]
      exact ih hrest

/-- The image pages taken out of the store are canonical as a memory of their own. -/
theorem memWf_imgPages {m : Mem} (hm : memWf 0xFF#8 m = true) :
    memWf 0xFF#8 ((m.filter fun c => decide (0x30000 ≤ c.1 ∧ c.1 < 0x40000)).map fun c => (c.1 - 0x30000, c.2)) = true :=
  memWfFrom_mono (memWfFrom_shift (memWfFrom_filter_lower hm fun _ hc => (of_decide_eq_true hc).1) le_rfl) (Nat.zero_le _)

theorem imgTaken_kept {torn : Bool} (h : Kept r s) : Kept r (setNv (fun v => { v with
    img := (v.mem.filter fun c => decide (0x30000 ≤ c.1 ∧ c.1 < 0x40000)).map fun c => (c.1 - 0x30000, c.2)
    dirty := false, torn := v.torn || torn }) s) :=
  setNv_kept (fun ⟨hmem, _, hstore⟩ => ⟨hmem, memWf_imgPages hmem, hstore⟩) h

theorem imgRecall_kept (h : Kept r s) : Kept r (imgRecall s) :=
  imgTaken_kept (nvCheck_kept h)

theorem imgStoreStart_kept {fail : Bool} (h : Kept r s) : Kept r (imgStoreStart fail s) :=
  setNv_kept (fun ⟨hmem, himg, _⟩ => ⟨hmem, himg, fun _ hm => Option.some.inj hm ▸ himg⟩) h

theorem imgStoreDo_kept {img : Mem} (h : Kept r s) : Kept r (imgStoreDo img s).2 := by
  unfold imgStoreDo
  extract_lets bs s1 count
  have h1 : Kept r s1 := nvPut_kept h
  clear_value s1 count
  exact draw_kept (setNv_kept (fun ⟨hmem, himg, _⟩ => ⟨hmem, himg, fun _ hm => nomatch hm⟩) (recWriteNow_kept (nvWear_kept h1)))

/-! ## Operations of `Machine.Registers` -/

theorem polderSet_kept {p : Nat} {st : PolderSt} (h : Kept r s) : Kept r (polderSet p st s) :=
  setPower_kept h

theorem smbCopy_kept (h : Kept r s) : Kept r (smbCopy s) :=
  setSmb_kept h

theorem setStage_kept {st : Stage} (h : Kept r s) : Kept r (setStage st s) :=
  Kept.ite h (smbCopy_kept (raiseInt_kept (by decide) (setBoot_kept id h)))

/-! ## Operations of `Machine.FieldMem` -/

theorem fmCheckGroup_kept {f g : Nat} (h : Kept r s) : Kept r (fmCheckGroup f s g) := by
  unfold fmCheckGroup
  split
  · exact h
  · exact setFm_kept id (ctrSet_kept (bump_kept h))
  · exact ctrSet_kept (bump_kept h)

theorem fmScan_kept {w f a n : Nat} (h : Kept r s) : Kept r (fmScan w f a n s) :=
  Kept.foldl (fun _ _ k => fmCheckGroup_kept k) (bumpBy_kept h)

theorem fmPutGroup_kept {f a : Nat} {bs : List Byte} {p : BitVec 8} (h : Kept r s) : Kept r (fmPutGroup f a bs p s) :=
  Kept.ite h (setFm_kept (memWf_memWriteN _ _ _) h)

theorem fmStore_kept {w f a : Nat} {bs : List Byte} {ps : List (BitVec 8)} (h : Kept r s) : Kept r (fmStore w f a bs ps s) :=
  Kept.foldl (fun _ _ k => fmPutGroup_kept k) (bumpBy_kept h)

theorem storeCodes_kept {w fi : Nat} {f : Fmt} {a : Nat} {cs : List Nat} {ps : List (BitVec 8)} (h : Kept r s) : Kept r
    (storeCodes w fi f a cs ps s) :=
  fmStore_kept h

theorem storeWord_kept {w fi a : Nat} {v : W32} {p : BitVec 8} (h : Kept r s) : Kept r (storeWord w fi a v p s) :=
  fmStore_kept h

theorem notePoison_kept {x : MoveCtx} {p : BitVec 8} (h : Kept r s) : Kept r (notePoison x p s) :=
  Kept.ite (setTick_kept h) h

theorem countAx_kept {f : Nat} {fs : List AxFlag} (h : Kept r s) : Kept r (countAx f fs s) :=
  bumpBy_kept (bumpBy_kept (bumpBy_kept h))

theorem fmCeRewrite_kept {f : Nat} (h : Kept r s) : Kept r (fmCeRewrite f s) := by
  unfold fmCeRewrite
  refine .ite h ?_
  split
  · exact h
  · exact draw_kept (setFm_kept id (.ite h (fmPutGroup_kept (fmCheckGroup_kept h))))

/-! ## Operations of `Machine.Arrays` -/

theorem setArr_kept {a : Nat} {f : Arr → Arr} (h : Kept r s) : Kept r (setArr a f s) :=
  setFm_kept id h

theorem tileScan_kept {o : ArrOpnd} {f d gr gc t i j : Nat} (h : Kept r s) : Kept r (tileScan o f d gr gc t i j s) :=
  Kept.when fmScan_kept (fmScan_kept h)

theorem tileLoad_kept {o : ArrOpnd} {gr gc d a t i j : Nat} (h : Kept r s) : Kept r (tileLoad o gr gc d a t i j s) := by
  dsimp only [tileLoad]
  exact setArr_kept (tileScan_kept h)

theorem residCount_kept {gr gc m : Nat} {as : List Nat} {x : MoveCtx} (h : Kept r s) : Kept r (residCount gr gc m as x s) :=
  Kept.foldl (fun _ _ k => bump_kept k) h

theorem outStage_kept {unit gr gc : Nat} {as : List Nat} {ty : AccTy} {before : Nat → Bool} {o : ArrOpnd} {x : MoveCtx} (h : Kept r s) :
    Kept r (outStage unit gr gc as ty before o x s) := by
  unfold outStage
  refine draw_kept ?_
  refine notePoison_kept ?_
  refine residCount_kept ?_
  refine .when storeWord_kept ?_
  refine .when (fun k => .foldl (fun _ _ k => storeCodes_kept k) k) ?_
  refine .foldl (fun _ _ k => ?_) h
  split
  · exact .foldl (fun _ _ k => bumpBy_kept (countAx_kept k)) (.foldl (fun _ _ k => storeCodes_kept k) k)

theorem inScan_kept {o : ArrOpnd} {d gr gc : Nat} {as : List Nat} (h : Kept r s) : Kept r (inScan o d gr gc as s) :=
  Kept.foldl (fun _ _ k => .foldl (fun _ _ k => .foldl (fun _ _ k => .foldl (fun _ _ k => fmScan_kept k) k) k) k) h

theorem matMove_kept {trans : Bool} {unit : Nat} {o : ArrOpnd} {x : MoveCtx} (h : Kept r s) : Kept r (matMove trans unit o x s) := by
  dsimp only [matMove]
  split
  · exact h
  · refine .ite h ?_
    refine .ite (outStage_kept (.foldl (fun _ _ k => setArr_kept k) (.ite (inScan_kept h) (.foldl (fun _ _ k => .foldl (fun _ _ k =>
      tileLoad_kept k) k) (inScan_kept h))))) ?_
    refine residCount_kept (.foldl (fun _ _ k => ?_) (.foldl (fun _ _ k => setArr_kept k) (.ite (inScan_kept h) (.foldl (fun _ _ k =>
      .foldl (fun _ _ k => tileLoad_kept k) k) (inScan_kept h)))))
    split <;> exact bumpBy_kept k

theorem tloadMove_kept {unit : Nat} {o : ArrOpnd} (h : Kept r s) : Kept r (tloadMove unit o s) := by
  unfold tloadMove
  split
  · split
    · exact h
    · exact .ite h (.foldl (fun _ _ k => .foldl (fun _ _ k => tileLoad_kept k) k) h)

theorem drainMove_kept {unit : Nat} {o : ArrOpnd} {x : MoveCtx} (h : Kept r s) : Kept r (drainMove unit o x s) := by
  unfold drainMove
  split
  · exact .ite h (outStage_kept h)

theorem azeroMove_kept {unit : Nat} {h₀ : Bool} {ty : AccTy} (h : Kept r s) : Kept r (azeroMove unit h₀ ty s) :=
  Kept.ite h (.foldl (fun _ _ k => setArr_kept k) h)

/-! ## Operations of `Machine.Mailbox` -/

theorem complete_kept {op : Nat} {c : Cmd} {st : Status} {detail data respLen : Nat} (h : Kept r s) : Kept r
    (complete op c st detail data respLen s) := by
  dsimp only [complete]
  exact setMbx_kept id h

theorem completeOk_kept {op : Nat} {c : Cmd} {data : Nat} (h : Kept r s) : Kept r (completeOk op c data s) :=
  complete_kept h

theorem fail_kept {op : Nat} {c : Cmd} {st : Status} (h : Kept r s) : Kept r (fail op c st s) :=
  complete_kept h

theorem respond_kept {op : Nat} {c : Cmd} {bs : List Byte} {data : Nat} (h : Kept r s) : Kept r (respond op c bs data s) :=
  complete_kept (setMbx_kept id h)

theorem waitFor_kept {op : Nat} {c : Cmd} {a : PendAct} (h : Kept r s) : Kept r (waitFor op c a s) :=
  setMbx_kept id h

theorem finish_kept {p : PendAct → Bool} {st : Status} {data : Nat} (h : Kept r s) : Kept r (finish p st data s) :=
  Kept.foldl (fun _ _ k => complete_kept k) (setMbx_kept id h)

theorem finishFirst_kept {p : PendAct → Bool} {st : Status} {data : Nat} (h : Kept r s) : Kept r (finishFirst p st data s) := by
  unfold finishFirst
  split
  · exact h
  · exact complete_kept (setMbx_kept id h)

theorem takeSlot_kept {n : Nat} (h : Kept r s) : Kept r (takeSlot n s) :=
  setMbx_kept id h

theorem aerReport_kept (h : Kept r s) : Kept r (aerReport s) :=
  setMbx_kept id h

theorem deliver_kept {op : Nat} {body : Cmd → State → State} {c : Cmd} (hbody : ∀ t, Kept r t → Kept r (body c t)) (h : Kept r s) :
    Kept r (deliver op body c s) := by
  refine .ite h (.ite (bump_kept h) ?_)
  dsimp only
  split
  · exact fail_kept (takeSlot_kept h)
  · exact hbody _ (takeSlot_kept h)

theorem postEntry_kept {e : Completion} (h : Kept r s) : Kept r (postEntry e s) :=
  Kept.when msixSend_kept (setMbx_kept id (hostWrite_kept (hostWrite_kept h)))

theorem completionPost_kept (h : Kept r s) : Kept r (completionPost s) := by
  unfold completionPost
  split
  · exact h
  · exact .ite (postEntry_kept (setMbx_kept id h)) h

theorem mbxInv_reset : MbxInv {} := ⟨⟨rfl, rfl⟩, rfl, rfl, rfl, rfl⟩

theorem computeReset_kept {src : ResetSrc} (h : Kept r s) : Kept r (computeReset src s) := by
  refine h.trans ⟨fun hi => ?_, rfl, rfl⟩
  obtain ⟨-, -, hnv, hflash, -, hhost⟩ := (inv_iff s).mp hi
  exact (inv_iff _).mpr ⟨rfl, rfl, hnv, hflash, mbxInv_reset, hhost⟩

theorem bodyHello_kept {c : Cmd} (h : Kept r s) : Kept r (bodyHello c s) := by
  dsimp only [bodyHello]
  refine .ite (fail_kept h) ?_
  refine .ite (fail_kept h) ?_
  split
  · exact complete_kept h
  · exact .ite (fail_kept h) (completeOk_kept h)

theorem bodyEcho_kept {c : Cmd} (h : Kept r s) : Kept r (bodyEcho c s) :=
  completeOk_kept h

theorem bodyDevInfo_kept {c : Cmd} (h : Kept r s) : Kept r (bodyDevInfo c s) :=
  respond_kept h

theorem bodyDevStatus_kept {c : Cmd} (h : Kept r s) : Kept r (bodyDevStatus c s) :=
  respond_kept h

theorem bodyCmdIndex_kept {c : Cmd} (h : Kept r s) : Kept r (bodyCmdIndex c s) :=
  respond_kept h

theorem mbxCqWrite_kept {k : Nat} {p : WPart} {v : W64} (h : Kept r s) : Kept r (mbxCqWrite k p v s) := by
  unfold mbxCqWrite
  extract_lets k w full
  clear_value full
  exact .ite h (.ite (setMbx_kept id h) (.ite (bump_kept h) (.ite
    (.ite (hostWrite_kept (setMbx_kept (fun ⟨hmem, hrest⟩ => ⟨hmem, hrest⟩) h)) (bump_kept (setMbx_kept (fun ⟨hmem, hrest⟩ => ⟨hmem,
      hrest⟩) h)))
    (setMbx_kept (fun ⟨hmem, hrest⟩ => ⟨hmem, hrest⟩) h))))

theorem mbxCqCons_kept {v : W32} (h : Kept r s) : Kept r (mbxCqCons v s) :=
  Kept.ite h (setMbx_kept id h)

theorem ringConsWrite_kept {ring : RingId} {v : W32} (h : Kept r s) : Kept r (ringConsWrite ring v s) := by
  unfold ringConsWrite
  refine .ite h ?_
  cases ring <;> exact h.trans ⟨id, rfl, rfl⟩

theorem winBaseWrite_kept {p : WPart} {v : W64} (h : Kept r s) : Kept r (winBaseWrite p v s) := by
  refine .ite h (setMbx_kept (fun ⟨hmem, hint, hen, herr, _⟩ => ⟨hmem, hint, hen, herr, ?_⟩) h)
  rw [BitVec.and_assoc, BitVec.and_not_self]; exact BitVec.and_zero

theorem reserved_and {x y mask : W32} (hx : x &&& ~~~mask = 0) : (x &&& y) &&& ~~~mask = 0 := by
  rw [BitVec.and_assoc, BitVec.and_comm y, ← BitVec.and_assoc, hx]; exact BitVec.zero_and

theorem errSumWrite_kept {v : W32} (h : Kept r s) : Kept r (errSumWrite v s) :=
  Kept.ite h (setMbx_kept (fun ⟨hmem, hint, hen, herr, hwin⟩ => ⟨hmem, hint, hen, reserved_and herr, hwin⟩) h)

theorem intStatusWrite_kept {v : W32} (h : Kept r s) : Kept r (intStatusWrite v s) :=
  Kept.ite h (setMbx_kept (fun ⟨hmem, hint, hrest⟩ => ⟨hmem, reserved_and hint, hrest⟩) h)

theorem intEnableWrite_kept {v : W32} (h : Kept r s) : Kept r (intEnableWrite v s) := by
  have hset : Kept r (setMbx (fun m => { m with intEnable := v &&& 0x3FF }) s) := by
    refine setMbx_kept (fun ⟨hmem, hint, _, herr, hwin⟩ => ⟨hmem, hint, ?_, herr, hwin⟩) h
    rw [BitVec.and_assoc, BitVec.and_not_self]; exact BitVec.and_zero
  exact .ite h (.ite (msixSend_kept hset) hset)

theorem readWord_kept {off : Nat} (h : Kept r s) : Kept r (readWord off s).2 := by
  unfold readWord
  split
  · exact h
  · exact .ite2 h (.ite (setMbx_kept id h) h)

theorem latchingRead_kept {off size : Nat} (h : Kept r s) : Kept r (latchingRead off size s) := by
  unfold latchingRead
  refine .ite h (.ite (bump_kept (setMbx_kept id h)) ?_)
  exact setMbx_kept id (.ite2 (readWord_kept (readWord_kept h)) (readWord_kept h))

theorem msixUnmask_kept {vec : Option Nat} (h : Kept r s) : Kept r (msixUnmask vec s) := by
  refine .ite h (.foldl (fun _ _ k => msixSend_kept (setMbx_kept (f := fun b => { b with msix := { b.msix with pba := _ } }) id k))
    (setMbx_kept (f := fun b => { b with msix := _ }) (fun hm => ?_) h))
  cases vec <;> exact hm

theorem bar2Write_kept {off : Nat} {data : List Byte} {poisoned : Bool} (h : Kept r s) : Kept r (bar2Write off data poisoned s) :=
  Kept.ite h (.ite (aerReport_kept h)
    (setMbx_kept (fun ⟨⟨hslots, htable⟩, hrest⟩ => ⟨⟨memWf_foldl_memWrite _ _ _ _ hslots, htable⟩, hrest⟩) h))

theorem smbAnswer_kept {always : Bool} {bs : List Byte} (h : Kept r s) : Kept r (smbAnswer always bs s) :=
  Kept.ite h (.ite (setSmb_kept h) (setSmb_kept h))

/-! ## Operations of `Machine.FrontEnd` -/

theorem setChan_kept {ch : Nat} {f : Chan → Chan} (h : Kept r s) : Kept r (setChan ch f s) :=
  setFe_kept h

theorem bodyFeRoute_kept {c : Cmd} (h : Kept r s) : Kept r (bodyFeRoute c s) :=
  Kept.ite (fail_kept h) (completeOk_kept (setFe_kept h))

theorem bodyFeSource_kept {c : Cmd} (h : Kept r s) : Kept r (bodyFeSource c s) :=
  Kept.ite (fail_kept h) (.ite (fail_kept h) (completeOk_kept (setFe_kept h)))

theorem bodyFeRange_kept {c : Cmd} (h : Kept r s) : Kept r (bodyFeRange c s) :=
  Kept.ite (fail_kept h) (completeOk_kept (setFe_kept h))

theorem bodyFeCmWindow_kept {c : Cmd} (h : Kept r s) : Kept r (bodyFeCmWindow c s) :=
  Kept.ite (fail_kept h) (completeOk_kept (setFe_kept h))

theorem bodyFeCurve_kept {c : Cmd} (h : Kept r s) : Kept r (bodyFeCurve c s) :=
  Kept.ite (fail_kept h) (completeOk_kept (setFe_kept h))

theorem bodyChChain_kept {c : Cmd} (h : Kept r s) : Kept r (bodyChChain c s) :=
  Kept.ite (fail_kept h) (completeOk_kept (setFe_kept h))

theorem bodyChEvent_kept {c : Cmd} (h : Kept r s) : Kept r (bodyChEvent c s) :=
  Kept.ite (fail_kept h) (completeOk_kept (setFe_kept h))

theorem bodyDiscard_kept {c : Cmd} (h : Kept r s) : Kept r (bodyDiscard c s) :=
  completeOk_kept (setFe_kept h)

theorem bodyApply_kept {c : Cmd} (h : Kept r s) : Kept r (bodyApply c s) := by
  unfold bodyApply
  refine .ite (fail_kept h) ?_
  split
  · exact complete_kept h
  · exact waitFor_kept (setFe_kept h)

theorem storeConfig_kept (h : Kept r s) : Kept r (storeConfig s) :=
  recQueue_kept h

theorem askReset_kept {cause : ResetCause} {ch : Nat} (h : Kept r s) : Kept r (askReset cause ch s) :=
  setChan_kept h

theorem swapStarted_kept {ch : Nat} (h : Kept r s) : Kept r (swapStarted ch s) := by
  dsimp only [swapStarted]
  exact finish_kept (setMbx_kept id h)

theorem syncReset_kept {ch : Nat} {cause : ResetCause} (h : Kept r s) : Kept r (syncReset ch cause s) :=
  Kept.ite h (.when storeConfig_kept (.when swapStarted_kept (.when finish_kept (setChan_kept h))))

theorem rangeUp_kept {volt ch mag sample : Nat} (h : Kept r s) : Kept r (rangeUp volt ch mag sample s) :=
  Kept.ite (setChan_kept h) h

theorem autoRangeUp_kept {ch mag sample : Nat} (h : Kept r s) : Kept r (autoRangeUp ch mag sample s) :=
  rangeUp_kept h

theorem autoRangeDown_kept {ch : Nat} (h : Kept r s) : Kept r (autoRangeDown ch s) :=
  Kept.ite (setChan_kept h) h

theorem rangeTransientEnd_kept {ch : Nat} (h : Kept r s) : Kept r (rangeTransientEnd ch s) :=
  Kept.ite (setChan_kept h) h

theorem cmEnter_kept {ch : Nat} (h : Kept r s) : Kept r (cmEnter ch s) :=
  Kept.ite (setChan_kept h) h

theorem cmExit_kept {ch : Nat} (h : Kept r s) : Kept r (cmExit ch s) :=
  Kept.ite (setChan_kept h) h

theorem sourceLimit_kept {n : Nat} {reached : Bool} (h : Kept r s) : Kept r (sourceLimit n reached s) :=
  Kept.ite (raiseInt_kept (by decide) (setFe_kept h)) h

theorem chopReversal_kept {n : Nat} (h : Kept r s) : Kept r (chopReversal n s) :=
  Kept.ite h (.foldl (fun _ _ k => askReset_kept k) (setFe_kept h))

theorem chopTick_kept (h : Kept r s) : Kept r (chopTick s) :=
  Kept.foldl (fun _ _ k => .ite (.ite (setFe_kept k) (setFe_kept k)) k) h

theorem bodyFeCalRead_kept {c : Cmd} (h : Kept r s) : Kept r (bodyFeCalRead c s) := by
  unfold bodyFeCalRead
  split
  · exact fail_kept h
  · exact completeOk_kept h
  · exact completeOk_kept h

theorem bodyFeCalWrite_kept {c : Cmd} (h : Kept r s) : Kept r (bodyFeCalWrite c s) := by
  unfold bodyFeCalWrite
  split
  · exact fail_kept h
  · exact waitFor_kept (recQueue_kept (setFe_kept h))

theorem calWritten_kept {k₀ : Nat} (h : Kept r s) : Kept r (calWritten k₀ s) := by
  unfold calWritten
  split
  · exact h
  · exact setFe_kept h

theorem calFailed_kept {k₀ : Nat} (h : Kept r s) : Kept r (calFailed k₀ s) := by
  unfold calFailed
  split
  · exact h
  · exact setNv_kept id (setFe_kept h)

theorem calibrationEffect_kept (h : Kept r s) : Kept r (calibrationEffect s) :=
  Kept.foldl (fun _ _ k => .foldl (fun _ _ k => askReset_kept k) (setFe_kept k)) h

theorem bodyFeStatus_kept {c : Cmd} (h : Kept r s) : Kept r (bodyFeStatus c s) :=
  respond_kept h

theorem applyChan_kept {old new : FeCfg} {ch : Nat} (h : Kept r s) : Kept r (applyChan old new ch s) :=
  Kept.when askReset_kept (.when askReset_kept (setChan_kept h))

theorem applySrc_kept {old new : FeCfg} {n : Nat} (h : Kept r s) : Kept r (applySrc old new n s) :=
  Kept.ite h (.foldl (fun _ _ k => askReset_kept k) (.ite (setFe_kept h) h))

theorem applyTakesEffect_kept (h : Kept r s) : Kept r (applyTakesEffect s) := by
  unfold applyTakesEffect
  split
  · exact h
  · exact .ite h (finish_kept (storeConfig_kept (.when (fun k => raiseInt_kept (by decide) k) (.foldl (fun _ _ k => applySrc_kept k)
      (.foldl (fun _ _ k => applyChan_kept k) (setFe_kept h))))))

theorem vexcChange_kept {ok : Bool} (h : Kept r s) : Kept r (vexcChange ok s) :=
  Kept.when (fun k => raiseInt_kept (by decide) k) (setFe_kept h)

/-! ## Operations of `Machine.Power` -/

theorem abandonDrain_kept {p : Nat} (h : Kept r s) : Kept r (abandonDrain p s) :=
  polderSet_kept h

theorem requestPolder_kept {p : Nat} (h : Kept r s) : Kept r (requestPolder p s) := by
  unfold requestPolder
  refine .ite (setPower_kept h) ?_
  split
  · exact setPower_kept h
  · exact setPower_kept h
  · exact abandonDrain_kept (setPower_kept h)
  · exact .when setPower_kept (setPower_kept h)

theorem needDram_kept (h : Kept r s) : Kept r (needDram s) :=
  Kept.ite h (requestPolder_kept h)

theorem grantNow_kept {now : Nat} {r₀ : PwrReq} (h : Kept r s) : Kept r (grantNow now r₀ s) := by
  unfold grantNow
  split
  · exact polderSet_kept (setPower_kept h)
  · exact .foldl (fun _ _ k => .ite (setFm_kept id k) k) (setPower_kept h)

theorem logRefusedUp_kept {p : Nat} (h : Kept r s) : Kept r (logRefusedUp p s) :=
  draw_kept (setBoot_kept id h)

theorem powerUpGrant_kept {at_ : Nat} (h : Kept r s) : Kept r (powerUpGrant at_ s) := by
  dsimp only [powerUpGrant]
  split
  · exact setPower_kept (.foldl (fun _ _ k => logRefusedUp_kept k) h)
  · exact .when (fun k => grantNow_kept (setPower_kept k)) (setPower_kept (.foldl (fun _ _ k => logRefusedUp_kept k) h))

theorem pwrUp_kept {p : Nat} (h : Kept r s) : Kept r (pwrUp p s) :=
  Kept.ite (logRefusedUp_kept h) (requestPolder_kept h)

theorem changeRequests_kept (h : Kept r s) : Kept r (changeRequests s) := by
  unfold changeRequests
  split
  · exact h
  · refine .foldl (fun _ _ k => ?_) h
    split
    · exact .ite (requestPolder_kept k) k
    · exact requestPolder_kept k

theorem noteUp_kept {lead : Nat} (h : Kept r s) : Kept r (noteUp lead s) := by
  unfold noteUp
  split
  · exact h
  · exact .ite (setSeq_kept h) h

theorem setLink_kept {l : Nat} {f : Link → Link} (h : Kept r s) : Kept r (setLink l f s) :=
  setLinks_kept h

theorem flood_kept {key : Nat} {w : LinkWord} (h : Kept r s) : Kept r (flood key w s) :=
  setLinks_kept h

theorem setPhase_kept {l : Nat} {p : LinkPhase} (h : Kept r s) : Kept r (setPhase l p s) :=
  Kept.ite h (raiseInt_kept (by decide) (logEvent_kept (flood_kept (setLinks_kept (setLink_kept h)))))

theorem clearBank_wf {f b : Nat} {m : Fm} (h : memWf 0 m.mem = true) : memWf 0 (clearBank f b m).mem = true :=
  memWf_memClear _ _ h

theorem polderLost_kept {p : Nat} (h : Kept r s) : Kept r (polderLost p s) :=
  Kept.ite (setFm_kept id h) (.ite (setFm_kept (memWf_memClear _ _) h) (.ite (setLinks_kept (setPhase_kept h)) h))

theorem startDown_kept {p now : Nat} (h : Kept r s) : Kept r (startDown p now s) :=
  Kept.ite (polderSet_kept h) h

theorem retryDown_kept {now : Nat} (h : Kept r s) : Kept r (retryDown now s) :=
  Kept.foldl (fun _ _ k => .ite k (startDown_kept k)) (setPower_kept h)

theorem polderComesUp_kept {p at_ : Nat} (h : Kept r s) : Kept r (polderComesUp p at_ s) := by
  unfold polderComesUp
  split
  · exact .ite (retryDown_kept (noteUp_kept (changeRequests_kept (.when setPhase_kept (polderSet_kept (polderLost_kept h)))))) h
  · exact h

theorem retryBoundary_kept (h : Kept r s) : Kept r (retryBoundary s) :=
  retryDown_kept (setPower_kept h)

theorem banksTo_kept {f : Nat} {mask : BitVec 32} {off : Bool} (h : Kept r s) : Kept r (banksTo f mask off s) := by
  refine .foldl (fun _ _ k => setFm_kept (fun hm => ?_) k) h
  cases off
  · exact hm
  · exact clearBank_wf hm

theorem bankSet_kept {f : Nat} {mask : BitVec 32} {req : BankReq} {now : Nat} (h : Kept r s) : Kept r (bankSet f mask req now s) := by
  unfold bankSet
  refine .ite h ?_
  split
  · exact .unless (fun k => setPower_kept (.foldl (fun _ _ k => setFm_kept id k) k)) (.foldl (fun _ _ k => setFm_kept id k) (setPower_kept
      h))
  · exact .unless setPower_kept (.ite (banksTo_kept h) h)

theorem bankReady_kept {f b at_ : Nat} (h : Kept r s) : Kept r (bankReady f b at_ s) := by
  unfold bankReady
  extract_lets ready go clear
  clear_value clear
  refine .ite (setFm_kept (fun hm => ?_) h) h
  cases clear
  · exact hm
  · exact clearBank_wf hm

theorem closeDone_kept {f : Nat} (h : Kept r s) : Kept r (closeDone f s) := by
  unfold closeDone
  refine .foldl (fun _ _ k => ?_) h
  split
  · exact k
  · exact .ite k (banksTo_kept (setPower_kept k))

theorem abandonCount_kept {f : Nat} {mask : BitVec 32} (h : Kept r s) : Kept r (abandonCount f mask s) :=
  logEvent_kept (bump_kept h)

theorem powerDownAbandon_kept {p at_ : Nat} (h : Kept r s) : Kept r (powerDownAbandon p at_ s) := by
  unfold powerDownAbandon
  split
  · exact .ite (abandonCount_kept (setPower_kept (polderSet_kept h))) h
  · refine .ite ?_ h
    refine .foldl (fun _ _ k => ?_) h
    split
    · exact .ite (abandonCount_kept (setPower_kept k)) k
    · exact k
  · exact h

theorem bodyPwrStatus_kept {c : Cmd} (h : Kept r s) : Kept r (bodyPwrStatus c s) :=
  completeOk_kept h

theorem bodyPwrGovernor_kept {c : Cmd} (h : Kept r s) : Kept r (bodyPwrGovernor c s) :=
  Kept.ite (fail_kept h) (.ite (fail_kept h) (waitFor_kept h))

/-! ## Operations of `Machine.Chain` -/

theorem eventActivate_kept {ch ev : Nat} (h : Kept r s) : Kept r (eventActivate ch ev s) :=
  Kept.ite (setChan_kept h) (setChan_kept h)

theorem eventDeactivate_kept {ch ev : Nat} (h : Kept r s) : Kept r (eventDeactivate ch ev s) :=
  Kept.ite (setChan_kept h) (setChan_kept h)

theorem detectorsStart_kept {ch : Nat} (h : Kept r s) : Kept r (detectorsStart ch s) :=
  Kept.ite (setChan_kept h) h

theorem bodyChFirLoad_kept {c : Cmd} (h : Kept r s) : Kept r (bodyChFirLoad c s) :=
  Kept.ite (fail_kept h) (.ite (fail_kept h) (completeOk_kept (.foldl (fun _ _ k => setChan_kept k) h)))

theorem swapDropped_kept {ch : Nat} (h : Kept r s) : Kept r (swapDropped ch s) :=
  Kept.ite (swapStarted_kept (setChan_kept h)) h

theorem bodyChFirSwap_kept {c : Cmd} (h : Kept r s) : Kept r (bodyChFirSwap c s) := by
  unfold bodyChFirSwap
  refine .ite (completeOk_kept (.foldl (fun _ _ k => swapDropped_kept k) h)) ?_
  refine .ite (fail_kept h) ?_
  split
  · exact complete_kept h
  · exact .ite (complete_kept (.foldl (fun _ _ k => setChan_kept (swapDropped_kept k)) h)) (.ite (completeOk_kept (.foldl (fun _ _ k =>
      setChan_kept (swapDropped_kept k)) h)) (waitFor_kept (.foldl (fun _ _ k => setChan_kept (swapDropped_kept k)) h)))

theorem bodyChFirAbort_kept {c : Cmd} (h : Kept r s) : Kept r (bodyChFirAbort c s) :=
  completeOk_kept (.foldl (fun _ _ k => setChan_kept k) h)

theorem bodyChReset_kept {c : Cmd} (h : Kept r s) : Kept r (bodyChReset c s) :=
  Kept.ite (completeOk_kept h) (waitFor_kept (.foldl (fun _ _ k => setChan_kept k) h))

theorem bodyChState_kept {c : Cmd} (h : Kept r s) : Kept r (bodyChState c s) :=
  respond_kept h

theorem firSwapStart_kept {ch : Nat} (h : Kept r s) : Kept r (firSwapStart ch s) := by
  dsimp only [firSwapStart]
  split
  · exact h
  · exact .ite h (swapStarted_kept (setChan_kept h))

theorem firFadeEnd_kept {ch : Nat} (h : Kept r s) : Kept r (firFadeEnd ch s) := by
  unfold firFadeEnd
  split
  · exact h
  · exact .ite (storeConfig_kept (setChan_kept h)) h

theorem firAbortEffect_kept {ch : Nat} (h : Kept r s) : Kept r (firAbortEffect ch s) :=
  Kept.ite (storeConfig_kept (setChan_kept h)) h

theorem formFine_kept {ch : Nat} (h : Kept r s) : Kept r (formFine ch s) := by
  unfold formFine
  exact draw_kept (setChan_kept h)

theorem eventsSettle_kept {ch : Nat} (h : Kept r s) : Kept r (eventsSettle ch s) :=
  eventDeactivate_kept (eventDeactivate_kept (eventActivate_kept (eventActivate_kept h)))

theorem beforeFine_kept {ch : Nat} (h : Kept r s) : Kept r (beforeFine ch s) :=
  firSwapStart_kept (firAbortEffect_kept (firFadeEnd_kept (eventsSettle_kept h)))

theorem beforeSamples_kept {ch : Nat} (h : Kept r s) : Kept r (beforeSamples ch s) :=
  Kept.foldl (fun _ _ k => syncReset_kept k) (.foldl (fun _ _ k => chopReversal_kept k) (calibrationEffect_kept (applyTakesEffect_kept
    (autoRangeDown_kept h))))

theorem sampleIn_kept {ch : Nat} {raw : Int} (h : Kept r s) : Kept r (sampleIn ch s raw) := by
  have hservo := Kept.ite (c := (chanOf s ch).servoDue = true)
    (setChan_kept (ch := ch) (f := fun y => { y with servo := raw * 2 ^ 32, servoDue := false }) h) h
  exact rangeUp_kept (.ite (formFine_kept (beforeFine_kept (setChan_kept hservo))) (setChan_kept hservo))

theorem fineOutput_kept {ch : Nat} {samples : List Int} (h : Kept r s) : Kept r (fineOutput ch samples s) :=
  Kept.ite (.ite h (.foldl (fun _ _ k => sampleIn_kept k) (beforeSamples_kept h))) h

theorem chanTickEnd_kept {i : TickIn} {ch : Nat} (h : Kept r s) : Kept r (chanTickEnd i ch s) :=
  Kept.when (fun k => askReset_kept (setChan_kept k)) (setChan_kept (setFe_kept (cmExit_kept (cmEnter_kept (setChan_kept
    (eventsSettle_kept (.foldl (fun _ _ k => syncReset_kept k) h)))))))

theorem feTickEnd_kept {i : TickIn} (h : Kept r s) : Kept r (feTickEnd i s) :=
  chopTick_kept (setFe_kept (.foldl (fun _ _ k => chanTickEnd_kept k) h))

theorem fmPut_kept {f a : Nat} {bs : List Byte} {poison : BitVec 8} (h : Kept r s) : Kept r (fmPut f a bs poison s) :=
  Kept.ite (logEvent_kept (bump_kept h)) (.ite (fmStore_kept h) (setFm_kept id h))

theorem feSummaryDelivery_kept {chans : BitVec 24} (h : Kept r s) : Kept r (feSummaryDelivery chans s) := by
  dsimp only [feSummaryDelivery]
  refine .ite h (.foldl (fun _ _ k => .ite k ?_) h)
  split
  · exact fmPut_kept (setFe_kept k)
  · exact setFe_kept k

theorem sampleDeadline_kept {late : List (Nat × Nat)} (h : Kept r s) : Kept r (sampleDeadline late s) := by
  unfold sampleDeadline
  refine .ite h ?_
  split
  · exact h
  · exact .foldl (fun _ _ k => fmPut_kept k) (setFe_kept h)

theorem fineWindow_kept (h : Kept r s) : Kept r (fineWindow s) := by
  unfold fineWindow
  refine .ite h ?_
  split
  · exact h
  · exact .foldl (fun _ _ k => fmPut_kept k) h

/-! ## Operations of `Machine.Dram` -/

theorem dramCheckLine_kept {l : Nat} (h : Kept r s) : Kept r (dramCheckLine s l) := by
  unfold dramCheckLine
  refine .ite h ?_
  split
  · exact h
  · exact bump_kept (ctrSet_kept (ctrSet_kept (setDram_kept id (bump_kept h))))
  · exact .ite h (ctrSet_kept (ctrSet_kept (bump_kept h)))

theorem dramScan_kept {a n : Nat} (h : Kept r s) : Kept r (dramScan a n s) :=
  Kept.foldl (fun _ _ k => dramCheckLine_kept k) h

theorem dramPutLine_kept {l : Nat} {bs : List (Nat × Byte)} {poisoned : Bool} (h : Kept r s) : Kept r (dramPutLine l bs poisoned s) := by
  unfold dramPutLine
  exact setDram_kept (memWf_foldl_memWrite _ _ _ _) (.ite h (dramCheckLine_kept h))

theorem dramWrite_kept {a : Nat} {bs : List Byte} {ps : List (BitVec 8)} (h : Kept r s) : Kept r (dramWrite a bs ps s) :=
  Kept.foldl (fun _ _ k => dramPutLine_kept k) h

theorem haltNow_kept {cause : Nat} (h : Kept r s) : Kept r (haltNow cause s) :=
  logEvent_kept (setStage_kept (setBoot_kept id h))

theorem dramTrainingEnd_kept {failed : BitVec 16} {density : List Nat} (h : Kept r s) : Kept r (dramTrainingEnd failed density s) := by
  have hstage := Kept.ite (c := s.boot.stage = .fwStart) (setStage_kept (st := .dram) (polderSet_kept (p := pDram) (st := .up) h)) h
  unfold dramTrainingEnd
  extract_lets s0 s1
  refine .ite hstage ?_
  have h1 : Kept r s1 := setDram_kept id hstage
  clear_value s1
  split
  · exact haltNow_kept (setDram_kept id h1)
  · exact draw_kept (draw_kept (setDram_kept id h1))

theorem dramClearEnd_kept (h : Kept r s) : Kept r (dramClearEnd s) :=
  Kept.ite (setStage_kept (setDram_kept (fun _ => rfl) h)) h

theorem dramRefresh_kept {chan bank : Nat} (h : Kept r s) : Kept r (dramRefresh chan bank s) :=
  Kept.ite h (.ite (setDram_kept id h) (setDram_kept id h))

theorem patrolScrub_kept {line : Nat} (h : Kept r s) : Kept r (patrolScrub line s) :=
  Kept.ite (setDram_kept id (dramCheckLine_kept h)) h

theorem barRead_kept {a len : Nat} (h : Kept r s) : Kept r (barRead a len s) := by
  dsimp only [barRead]
  exact setMbx_kept id (draw_kept (dramScan_kept h))

theorem bar4Read_kept {off len : Nat} (h : Kept r s) : Kept r (bar4Read off len s) :=
  Kept.ite h (.ite (setMbx_kept id (bump_kept h)) (.ite (barRead_kept (needDram_kept h)) (setMbx_kept id (needDram_kept h))))

theorem dramGo_kept {op : Nat} {c : Cmd} {go : State → State} (hgo : ∀ t, Kept r t → Kept r (go t)) (h : Kept r s) :
    Kept r (dramGo op c go s) :=
  Kept.ite (hgo _ (needDram_kept h)) (waitFor_kept (needDram_kept h))

theorem poolSpoil_kept (h : Kept r s) : Kept r (poolSpoil s) := by
  unfold poolSpoil
  split
  · exact h
  · exact draw_kept (.foldl (fun _ _ k => dramPutLine_kept k) (setKv_kept h))

theorem readersSpoil_kept {a n : Nat} (h : Kept r s) : Kept r (readersSpoil a n s) := by
  dsimp only [readersSpoil]
  exact setKv_kept (setFm_kept id h)

theorem barWrite_kept {a : Nat} {data : List Byte} {enable : List Bool} {poisoned : Bool} (h : Kept r s) : Kept r
    (barWrite a data enable poisoned s) :=
  Kept.when poolSpoil_kept (draw_kept (.foldl (fun _ _ k => dramPutLine_kept k) (.ite (readersSpoil_kept h) h)))

theorem bar4Write_kept {off : Nat} {data : List Byte} {enable : List Bool} {poisoned : Bool} (h : Kept r s) : Kept r
    (bar4Write off data enable poisoned s) :=
  Kept.ite h (.ite (bump_kept h) (.ite (barWrite_kept (needDram_kept h)) (setMbx_kept id (needDram_kept h))))

theorem barGo_kept (h : Kept r s) : Kept r (barGo s) := by
  unfold barGo
  refine .foldl (fun _ _ k => ?_) (setMbx_kept id h)
  split
  · exact barRead_kept k
  · exact barWrite_kept k

/-! ## Operations of `Machine.Schedule` -/

theorem releaseBarriers_kept (h : Kept r s) : Kept r (releaseBarriers s) :=
  setSeq_kept h

theorem addSignal_kept {obj n epoch : Nat} (h : Kept r s) : Kept r (addSignal obj n epoch s) :=
  Kept.ite h (.ite (bump_kept h) (releaseBarriers_kept (setSeq_kept h)))

theorem resetSync_kept {obj : Nat} (h : Kept r s) : Kept r (resetSync obj s) := by
  dsimp only [resetSync]
  exact setSeq_kept h

theorem resetScope_kept {sc : Scope} (h : Kept r s) : Kept r (resetScope sc s) := by
  unfold resetScope
  split
  · exact h
  · exact .foldl (fun _ _ k => resetSync_kept k) h

theorem barrier_kept {engine obj tgt : Nat} (h : Kept r s) : Kept r (barrier engine obj tgt s) :=
  releaseBarriers_kept (addSignal_kept (setSeq_kept h))

theorem dueNotBefore_kept {old : Option Change} (h : Kept r s) : Kept r (dueNotBefore old s) :=
  setSeq_kept h

theorem decideChange_kept {lead : Nat} (h : Kept r s) : Kept r (decideChange lead s) := by
  unfold decideChange
  split
  · exact h
  · exact dueNotBefore_kept (noteUp_kept (changeRequests_kept (setSeq_kept h)))

theorem changeF_kept {lead : Nat} {f : BitVec 276} (h : Kept r s) : Kept r (changeF lead f s) :=
  Kept.ite h (decideChange_kept (setSeq_kept h))

theorem changeTier_kept {lead t : Nat} (h : Kept r s) : Kept r (changeTier lead t s) :=
  Kept.ite h (decideChange_kept (setSeq_kept h))

theorem linkFence_kept {l : Nat} {on : Bool} (h : Kept r s) : Kept r (linkFence l on s) :=
  Kept.ite h (logEvent_kept (changeF_kept (setSeq_kept h)))

theorem setJob_kept {j : Nat} {f : Job → Job} (h : Kept r s) : Kept r (setJob j f s) :=
  setSeq_kept h

theorem startJob_kept {j : Nat} (h : Kept r s) : Kept r (startJob j s) :=
  setJob_kept h

theorem triggerJob_kept {j : Nat} (h : Kept r s) : Kept r (triggerJob j s) :=
  Kept.ite h (startJob_kept h)

/-! ## Operations of `Machine.Dma` -/

theorem queueFlit_kept {l : Nat} {fwd : Bool} {f : Flit} (h : Kept r s) : Kept r (queueFlit l fwd f s) :=
  setLink_kept h

theorem issueCredit_kept {l : Nat} {cls : FlitClass} (h : Kept r s) : Kept r (issueCredit l cls s) :=
  Kept.ite h (setLink_kept h)

theorem forwardFlit_kept {l out : Nat} {f g : Flit} (h : Kept r s) : Kept r (forwardFlit l out f g s) :=
  setLink_kept h

theorem addXfer_kept {x : Xfer} (h : Kept r s) : Kept r (addXfer x s) :=
  setFm_kept id h

theorem descFails_kept {field mid : Nat} {e : DescErr} (h : Kept r s) : Kept r (descFails field mid e s) :=
  setFm_kept id h

theorem sendPeer_kept {field : Nat} {o : DmaOpnd} {x : MoveCtx} {tick : W64} (h : Kept r s) : Kept r (sendPeer field o x tick s) := by
  unfold sendPeer
  split
  · exact descFails_kept (bump_kept h)
  · exact h
  · exact .unless addXfer_kept (queueFlit_kept (setLinks_kept h))

theorem localDone_kept {x : Xfer} (h : Kept r s) : Kept r (localDone x s) := by
  unfold localDone
  refine .ite ?_ (.ite h (addSignal_kept h))
  split
  · exact triggerJob_kept h
  · exact h

theorem descStart_kept {q : DescWait} (h : Kept r s) : Kept r (descStart q s) :=
  Kept.ite (sendPeer_kept (.ite (needDram_kept h) h)) (.ite (localDone_kept (.ite (needDram_kept h) h)) (addXfer_kept (.ite (needDram_kept
    h) h)))

theorem descRelease_kept {n : Nat} (h : Kept r s) : Kept r (descRelease n s) := by
  induction n generalizing s with
  | zero => exact h
  | succ n ih =>
    unfold descRelease
    extract_lets order
    split
    · exact h
    · exact ih (descStart_kept (setFm_kept id h))

theorem releaseAll_kept (h : Kept r s) : Kept r (releaseAll s) :=
  descRelease_kept h

theorem descEnqueue_kept {q : DescWait} (h : Kept r s) : Kept r (descEnqueue q s) :=
  releaseAll_kept (setFm_kept id h)

theorem dmaIssue_kept {field : Nat} {o : DmaOpnd} {x : MoveCtx} (h : Kept r s) : Kept r (dmaIssue field o x s) :=
  Kept.ite h (.ite (descFails_kept h) (descEnqueue_kept h))

theorem destSignal_kept {h₀ : HeadFlit} {l : Nat} (h : Kept r s) : Kept r (destSignal h₀ l s) :=
  Kept.ite h (.ite (addSignal_kept h) (bump_kept h))

theorem fwPut_kept {f a : Nat} {bs : List Byte} {ps : List (BitVec 8)} (h : Kept r s) : Kept r (fwPut f a bs ps s) :=
  fmStore_kept (.foldl (fun _ _ k => fmScan_kept k) h)

theorem fwWriteThen_kept {job : Option Nat} {f : Nat} {items : List (Nat × List Byte)} (h : Kept r s) : Kept r
    (fwWriteThen job f items s) :=
  Kept.ite h (descEnqueue_kept h)

theorem fwWrite_kept {f : Nat} {items : List (Nat × List Byte)} (h : Kept r s) : Kept r (fwWrite f items s) :=
  fwWriteThen_kept h

theorem fwCopy_kept {f : Nat} {sk dk : DmaKind} {bytes : List (Nat × Nat)} (h : Kept r s) : Kept r (fwCopy f sk dk bytes s) :=
  Kept.ite h (descEnqueue_kept h)

theorem fwRead_kept {f a n : Nat} (h : Kept r s) : Kept r (fwRead f a n s).2 :=
  draw_kept (fmScan_kept h)

theorem putXfer_kept {x : Xfer} (h : Kept r s) : Kept r (putXfer x s) :=
  setFm_kept id h

theorem dropXfer_kept {x : Xfer} (h : Kept r s) : Kept r (dropXfer x s) :=
  setFm_kept id h

theorem sluiceDrop_kept {x : Xfer} {addr : Nat} (h : Kept r s) : Kept r (sluiceDrop x addr s) :=
  Kept.when (fun k => .unless setLinks_kept (logEvent_kept (bump_kept k))) (.unless descFails_kept (logEvent_kept (bump_kept
    (dropXfer_kept h))))

theorem chunkDone_kept {x : Xfer} (h : Kept r s) : Kept r (chunkDone x s) := by
  unfold chunkDone
  refine .ite ?_ (putXfer_kept h)
  split
  · exact destSignal_kept (dropXfer_kept h)
  · exact localDone_kept (dropXfer_kept h)

theorem storeRuns_kept {f : Nat} {runs : List (Nat × Nat)} {bs : List Byte} {ps : List (BitVec 8)} (h : Kept r s) :
    Kept r (storeRuns f runs bs ps s) := by
  induction runs generalizing s bs ps with
  | nil => exact h
  | cons run runs ih => exact ih (fmStore_kept h)

theorem tlpMarks_kept {a : Nat} {ps : List (BitVec 8)} (h : Kept r s) : Kept r (tlpMarks a ps s) :=
  setFm_kept id h

theorem pieceData_kept {x : Xfer} {c : Chunk} {p : List Byte × List (BitVec 8) × State} (h : Kept r s) (e : pieceData s x c = some p) :
    Kept r p.2.2 := by
  unfold pieceData at e
  split at e
  · cases e; exact h
  · split at e
    · cases e; exact draw_kept (.foldl (fun _ _ k => dramScan_kept k) h)
    · cases e

theorem writePiece_kept {f : Nat} {x : Xfer} {c : Chunk} (h : Kept r s) (e : writePiece f x c s = some t) : Kept r t := by
  unfold writePiece at e
  extract_lets a at e
  split at e <;> (replace e := (Option.ite_none_left_eq_some.mp e).2; split at e)
  · cases e
  case _ d p s1 hd =>
    have h1 : Kept r s1 := pieceData_kept h hd
    split at e
    · cases e; exact sluiceDrop_kept h
    · cases (Option.ite_none_right_eq_some.mp e).2
      exact chunkDone_kept (.ite (draw_kept (fwPut_kept h1)) (storeRuns_kept h1))
  · cases e
  case _ d p s1 hd =>
    have h1 : Kept r s1 := pieceData_kept h hd
    cases e; exact chunkDone_kept (.ite (dramWrite_kept h1) (dramWrite_kept h1))
  · cases e
  case _ d p s1 hd => cases e; exact chunkDone_kept (tlpMarks_kept (hostWrite_kept (pieceData_kept h hd)))
  · cases e
  case _ d p s1 hd => cases e; exact chunkDone_kept (queueFlit_kept (pieceData_kept h hd))

theorem readPiece_kept {f : Nat} {x : Xfer} (h : Kept r s) (e : readPiece f x s = some t) : Kept r t := by
  unfold readPiece at e
  split at e
  · cases e
  · split at e
    · cases e
    · dsimp only at e
      split at e
      · split at e
        · cases e; exact draw_kept (putXfer_kept (fmScan_kept h))
        · cases e
      · split at e
        · cases e; exact draw_kept (putXfer_kept (.foldl (fun _ _ k => fmScan_kept k) h))
        · cases e

theorem portPiece_kept {f : Nat} (h : Kept r s) (e : portPiece f s = some t) : Kept r t := by
  unfold portPiece at e
  split at e
  · cases e
  · cases e; exact fmPut_kept (setFm_kept id h)

theorem xferAccess_kept {f : Nat} {x : Xfer} (h : Kept r s) (e : xferAccess f s x = some t) : Kept r t := by
  unfold xferAccess at e
  split at e
  · cases e
  · split at e
    case h_1 u hu => cases e; exact writePiece_kept h hu
    case h_2 => exact readPiece_kept h e

theorem dmaAccess_kept {f : Nat} (h : Kept r s) : Kept r (dmaAccess f s) := by
  unfold dmaAccess
  refine .ite h ?_
  extract_lets order
  split
  case h_1 t ht => exact portPiece_kept h ht
  case h_2 =>
    split
    case h_1 t ht =>
      obtain ⟨x, -, hx⟩ := List.exists_of_findSome?_eq_some ht
      exact releaseAll_kept (xferAccess_kept h hx)
    case h_2 => exact releaseAll_kept h

theorem hostReadCompletion_kept {xid off : Nat} {data : List Byte} {poison : List Bool} (h : Kept r s) :
    Kept r (hostReadCompletion xid off data poison s) :=
  Kept.ite h (setFm_kept id h)

/-! ## Operations of `Machine.Vector` -/

theorem vScan_kept {f : Nat} {v : VOp} (h : Kept r s) : Kept r (vScan f v s) :=
  Kept.when fmScan_kept (fmScan_kept h)

theorem vScanPart_kept {f : Nat} {v : VOp} {lo n : Nat} (h : Kept r s) : Kept r (vScanPart f v lo n s) :=
  Kept.when fmScan_kept (fmScan_kept h)

theorem keepResume_kept {op f : Nat} {o : VecOpnd} {x : MoveCtx} {u : VRun} {r₀ : VecResume} (h : Kept r s) : Kept r
    (keepResume op f o x u r₀ s) :=
  Kept.ite (setSeq_kept h) h

theorem storeScales_kept {f scAddr off : Nat} {cs : List Nat} {ps : List (BitVec 8)} (h : Kept r s) : Kept r
    (storeScales f scAddr off cs ps s) :=
  storeCodes_kept h

theorem vWrite_kept {f : Nat} {o : VecOpnd} {x : MoveCtx} {addr base total : Nat} {rs : List VRes} (h : Kept r s) : Kept r
    (vWrite f o x addr base total rs s) :=
  notePoison_kept (bumpBy_kept (countAx_kept (.when storeScales_kept (storeCodes_kept h))))

theorem vFinish_kept {op f : Nat} {o : VecOpnd} {x : MoveCtx} {u : VRun} {r₀ : VecResume} (h : Kept r s) : Kept r
    (vFinish op f o x u r₀ s) :=
  draw_kept (keepResume_kept (.ite (storeWord_kept h) h))

theorem elemMove_kept {op f : Nat} {o : VecOpnd} {x : MoveCtx} {u : VRun} {ops : List VOp} {useMask : Bool} {g : Nat → W32}
    (h : Kept r s) : Kept r (elemMove op f o x u ops useMask g s) :=
  Kept.ite h (vFinish_kept (vWrite_kept (.when fmScan_kept (.foldl (fun _ _ k => vScanPart_kept k) (fmScan_kept h)))))

theorem unary_kept {op f : Nat} {o : VecOpnd} {x : MoveCtx} {u : VRun} {g : W32 → Nat → W32} (h : Kept r s) : Kept r
    (unary op f o x u g s) :=
  elemMove_kept h

theorem binary_kept {op f : Nat} {o : VecOpnd} {x : MoveCtx} {u : VRun} {g : W32 → W32 → W32} (h : Kept r s) : Kept r
    (binary op f o x u g s) :=
  elemMove_kept h

theorem cmpMove_kept {f : Nat} {o : VecOpnd} {x : MoveCtx} {u : VRun} (h : Kept r s) : Kept r (cmpMove f o x u s) :=
  Kept.ite h (draw_kept (keepResume_kept (notePoison_kept (bumpBy_kept (fmStore_kept (vScanPart_kept (vScanPart_kept (fmScan_kept
    h))))))))

theorem trnMove_kept {f : Nat} {o : VecOpnd} {x : MoveCtx} {u : VRun} (h : Kept r s) : Kept r (trnMove f o x u s) :=
  Kept.ite h (vFinish_kept (vWrite_kept (vScanPart_kept (fmScan_kept h))))

theorem rowMove_kept {op f : Nat} {o : VecOpnd} {x : MoveCtx} {u : VRun} {g : List W32 → W32 × Bool} (h : Kept r s) : Kept r
    (rowMove op f o x u g s) :=
  Kept.ite h (vFinish_kept (vWrite_kept (vScanPart_kept (fmScan_kept h))))

theorem normMove_kept {op f : Nat} {o : VecOpnd} {x : MoveCtx} {u : VRun} {passes : Nat} {vecs : List VOp}
    {g : Nat → List W32 → List W32 × Bool} {post : Nat → W32 → W32} (h : Kept r s) : Kept r (normMove op f o x u passes vecs g post s) :=
  Kept.ite h (vFinish_kept (.foldl (fun _ _ k => vWrite_kept k) (.foldl (fun _ _ k => .foldl (fun _ _ k => vScan_kept k) (.foldl (fun _ _
    k => vScanPart_kept k) k)) (fmScan_kept h))))

theorem adamMove_kept {f : Nat} {o : VecOpnd} {x : MoveCtx} {u : VRun} (h : Kept r s) : Kept r (adamMove f o x u s) :=
  Kept.ite h (vFinish_kept (notePoison_kept (bumpBy_kept (.when storeWord_kept (.when vWrite_kept (.foldl (fun _ _ k => .ite k
    (fmStore_kept k)) (.foldl (fun _ _ k => .ite k (fmStore_kept k)) (.foldl (fun _ _ k => .ite k (fmStore_kept k)) (.foldl (fun _ _ k =>
    vScanPart_kept k) (fmScan_kept h))))))))))

theorem vecRun_kept {op f : Nat} {o : VecOpnd} {x : MoveCtx} {u : VRun} (h : Kept r s) : Kept r (vecRun op f o x u s) := by
  unfold vecRun
  split
  · exact binary_kept h
  · exact binary_kept h
  · exact binary_kept h
  · exact elemMove_kept h
  · exact elemMove_kept h
  · exact binary_kept h
  · exact binary_kept h
  · exact unary_kept h
  · exact elemMove_kept h
  · exact unary_kept h
  · exact cmpMove_kept h
  · exact elemMove_kept h
  · exact trnMove_kept h
  · exact elemMove_kept h
  · exact unary_kept h
  · exact unary_kept h
  · exact unary_kept h
  · exact unary_kept h
  · exact unary_kept h
  · exact unary_kept h
  · exact unary_kept h
  · exact unary_kept h
  · exact unary_kept h
  · exact unary_kept h
  · exact unary_kept h
  · exact rowMove_kept h
  · exact rowMove_kept h
  · exact rowMove_kept h
  · exact rowMove_kept h
  · exact rowMove_kept h
  · exact normMove_kept h
  · exact normMove_kept h
  · exact normMove_kept h
  · exact adamMove_kept h
  · exact h

theorem vecWhole_kept {op f : Nat} {o : VecOpnd} {x : MoveCtx} (h : Kept r s) : Kept r (vecWhole op f o x s) :=
  vecRun_kept h

/-! ## Operations of `Machine.SetEngine` -/

theorem setClosed_kept (r : State) : SetClosed (Kept r) :=
  ⟨draw_kept, fmScan_kept, fmStore_kept, fmPutGroup_kept, bumpBy_kept⟩

theorem setRunMove_kept {next : SetRun → SetNext} {fin : Nat → SetRun → SetRun} {d aux0 : Nat} {dram : Bool} {f : Nat} {o : SetOpnd}
    {x : MoveCtx} (hn : ∀ q : SetRun, Kept r q.s → (next q).Meets (Kept r)) (hf : ∀ (st : Nat) (q : SetRun), Kept r q.s → Kept r (fin st
      q).s)
    (h : Kept r s) : Kept r (setRunMove next fin d aux0 dram f o x s) := by
  have hP := setClosed_kept r
  dsimp only [setRunMove]
  generalize tokenAt f o _ = tp
  generalize setBase f dram o _ = b
  have h0 : Kept r (if o.cont = true then (setScan portSlot f o.tokAddr 32
      { s := s, t := setLate f o x s, start := setStart f x s, span := 8, seed := s.free }).s else s) :=
    .ite (hP.setScan h) h
  have h1 := Kept.ite (c := o.desc = true) (hP.setScan (ps := portT) (f := f) (a := o.tAddr) (n := 16) (r :=
    { s := if o.cont = true then (setScan portSlot f o.tokAddr 32
        { s := s, t := setLate f o x s, start := setStart f x s, span := 8, seed := s.free }).s else s
      t := setLate f o x s, start := setStart f x s, span := 8, seed := s.free }) h0) h0
  exact .ite h (.ite (.ite (setFm_kept id h0) (addSignal_kept h0)) (.ite (setFm_kept id h1) (.ite (setFm_kept id h1)
    (setFm_kept id (hf _ _ (setLoop_keeps hn _ h1))))))

theorem setWork_kept {i : Instr} {f : Nat} {o : SetOpnd} {x : MoveCtx} {w : SetWork} (e : setWork i = some (f, o, x, w)) (h : Kept r s) :
    Kept r (setRunMove w.next w.fin w.tail w.aux0 w.dram f o x s) :=
  have hw := setWork_keeps (setClosed_kept r) e (fun _ => descEnqueue_kept)
  setRunMove_kept hw.1 hw.2 h

theorem twalk_kept {f : Nat} {o : SetOpnd} {x : MoveCtx} (h : Kept r s) : Kept r (twalk f o x s) := by
  unfold twalk
  split
  · exact setWork_kept (i := .twalk f o x) (w := ⟨nextTwalkPath f o, noFin, 10, 0, false⟩) (by simp [setWork, *]) h
  · exact setWork_kept (i := .twalk f o x) (w := ⟨nextTwalkLevel f o, levelOut f o, 10, 0, false⟩) (by simp [setWork, *]) h
  · exact setWork_kept (i := .twalk f o x) (w := ⟨nextTwalkAcc f o, noFin, 10, 0, false⟩) (by simp [setWork, *]) h

theorem markUnfinished_kept {f mid : Nat} (h : Kept r s) : Kept r (markUnfinished f mid s) :=
  setSeq_kept h

theorem setBudgetEnd_kept {f at_ : Nat} (h : Kept r s) : Kept r (setBudgetEnd f at_ s) := by
  unfold setBudgetEnd
  split
  case h_1 => exact h
  case h_2 e _ =>
    have h3 : ∀ t, Kept r t → Kept r (if e.state = 3 then logEvent 0x0060 4 e.err e.mid (bump (cSetErr f) t) else t) :=
      fun t => .when fun k => logEvent_kept (bump_kept k)
    replace h3 := h3 _ (.when (c := e.o.cont = true) (fmStore_kept (w := 8) (f := f) (a := e.o.tokAddr) (bs := tokenBytes e) (ps := []))
      (setFm_kept (f := fun m => { m with setEnds := tabDel m.setEnds f }) id h))
    exact .ite h (.ite (.ite (markUnfinished_kept h3) (bump_kept h3)) (.ite (setFm_kept id h3) (addSignal_kept h3)))

theorem gatherFinal_kept {f : Nat} (h : Kept r s) : Kept r (gatherFinal f s) := by
  dsimp only [gatherFinal]
  split
  · exact h
  · exact addSignal_kept (setFm_kept id h)

theorem settleSets_kept (h : Kept r s) : Kept r (settleSets s) :=
  Kept.foldl (fun _ _ k => setBudgetEnd_kept k) h

/-! ## Operations of `Machine.Training` -/

theorem setLearned_kept {f : Learned → Learned} (h : Kept r s) : Kept r (setLearned f s) :=
  setWatch_kept h

theorem setReg_kept {g : Nat} {f : Regime → Regime} (h : Kept r s) : Kept r (setReg g f s) :=
  setLearned_kept h

theorem oweEvent_kept {k₀ : CondCause} {prev : Nat} {sev : BitVec 8} {chg : BitVec 16} (h : Kept r s) : Kept r
    (oweEvent k₀ prev sev chg s) :=
  setWatch_kept h

theorem oweReport_kept {k₀ : CondCause} (h : Kept r s) : Kept r (oweReport k₀ s) :=
  oweEvent_kept h

theorem roleWrite_kept {i : Nat} {items : List (Nat × List Byte)} (h : Kept r s) : Kept r (roleWrite i items s) := by
  unfold roleWrite
  split
  · exact h
  · split
    · exact fwWrite_kept h

theorem roleItem_kept {im : WImage} {i k₀ n : Nat} (h : Kept r s) : Kept r (roleItem im i k₀ n s).2 := by
  unfold roleItem
  split
  · exact fwRead_kept h

theorem writeVars_kept {g : Nat} (h : Kept r s) : Kept r (writeVars g s) := by
  unfold writeVars
  split
  · exact h
  · exact roleWrite_kept (roleWrite_kept h)

theorem writeNorm_kept {g : Nat} (h : Kept r s) : Kept r (writeNorm g s) := by
  unfold writeNorm
  split
  · exact h
  · exact roleWrite_kept h

theorem writeScalars_kept (h : Kept r s) : Kept r (writeScalars s) := by
  unfold writeScalars
  split
  · exact h
  · split
    · exact roleWrite_kept h

theorem writeInitial_kept {role : Nat} {im : WImage} (h : Kept r s) : Kept r (writeInitial role im s) :=
  roleWrite_kept h

theorem reseedCandidate_kept (h : Kept r s) : Kept r (reseedCandidate s) := by
  unfold reseedCandidate
  split
  · exact h
  case h_2 im him =>
    extract_lets role one
    have hone : ∀ js (acc : List (Nat × List Byte) × State), Kept r acc.2 → Kept r (List.foldl one acc js).2 := by
      intro js
      induction js with
      | nil => exact fun _ k => k
      | cons j js ih => exact fun acc k => ih _ (roleItem_kept (roleItem_kept k))
    exact setWatch_kept (roleWrite_kept (hone _ _ h))

theorem seedCandidate_kept {im : WImage} (h : Kept r s) : Kept r (seedCandidate im s) :=
  roleWrite_kept h

theorem fwWord_kept {f a : Nat} (h : Kept r s) : Kept r (fwWord f a s).2 :=
  fwRead_kept h

theorem findMove_kept {im : WImage} {l : MList} {acc : StepFound × State} {m : Move} (h : Kept r acc.2) :
    Kept r (findMove im l acc m).2 := by
  obtain ⟨found, s⟩ := acc
  have hamax : Kept r (match amaxPlace l m, Config.tensorOf im.digest m.moveId with
      | some (f, a), some i => ({ found with amax := tabSet found.amax i (amaxJoin (tabGet 0 found.amax i) (fwWord f a s).1) }, (fwWord f
        a s).2)
      | _, _ => (found, s)).2 := by
    split
    · exact fwWord_kept h
    · exact h
  dsimp only [findMove]
  split
  · exact fwWord_kept hamax
  · exact hamax

theorem stepFound_kept {im : WImage} {j : Nat} (h : Kept r s) : Kept r (stepFound im j s).2 := by
  unfold stepFound
  split
  case h_1 l k hl hk =>
    have hfold : ∀ (ms : List Move) (acc : StepFound × State), Kept r acc.2 → Kept r (ms.foldl (findMove im l) acc).2 := by
      intro ms
      induction ms with
      | nil => exact fun _ k => k
      | cons m ms ih => exact fun acc k => ih _ (findMove_kept k)
    exact hfold _ _ h
  case h_2 => exact h

theorem writeScales_kept (h : Kept r s) : Kept r (writeScales s) :=
  roleWrite_kept h

theorem stepEnded_kept {im : WImage} {j : Nat} (h : Kept r s) : Kept r (stepEnded im j s) := by
  unfold stepEnded
  refine .ite h ?_
  split
  · exact writeScales_kept (setWatch_kept (.snd (stepFound_kept h) ‹_›))

theorem writeAdam_kept {t f addr : Nat} (h : Kept r s) : Kept r (writeAdam t f addr s) :=
  fwWrite_kept h

theorem vadamReached_kept {job run : Nat} (h : Kept r s) : Kept r (vadamReached job run s) :=
  Kept.ite h (setWatch_kept h)

theorem takeSnapshot_kept {im : WImage} (h : Kept r s) : Kept r (takeSnapshot im s) :=
  fwCopy_kept (fwCopy_kept h)

theorem copySnapshot_kept {im : WImage} (h : Kept r s) : Kept r (copySnapshot im s) := by
  unfold copySnapshot
  split
  · exact fwCopy_kept h

theorem evalEnded_kept {im : WImage} (h : Kept r s) : Kept r (evalEnded im s) :=
  Kept.ite h (draw_kept (setWatch_kept (.foldl (fun _ _ k => dramScan_kept k) h)))

theorem watchJobEnded_kept {jclass j : Nat} (h : Kept r s) : Kept r (watchJobEnded jclass j s) := by
  unfold watchJobEnded
  split
  · exact h
  · exact .ite (stepEnded_kept h) (.ite (evalEnded_kept h) h)

/-! ## Operations of `Machine.Sequencer` -/

theorem stepDone_kept {j : Nat} (h : Kept r s) : Kept r (stepDone j s) := by
  dsimp only [stepDone]
  split
  · exact h
  · refine .ite ?_ h
    split
    · exact watchJobEnded_kept (setJob_kept (setSeq_kept h))
    · exact setJob_kept (setSeq_kept h)

theorem stepIssue_kept {w at_ : Nat} (h : Kept r s) : Kept r (stepIssue w at_ s) := by
  unfold stepIssue
  split
  · split
    · exact h
    · exact .ite (stepDone_kept (.foldl (fun _ _ k => resetSync_kept k) (setSeq_kept (setJob_kept h)))) h
  · exact h

theorem applyOwners_kept {t : Nat} (h : Kept r s) : Kept r (applyOwners t s) := by
  unfold applyOwners
  split
  · exact h
  · exact setSeq_kept h

theorem slotStart_kept {n : Nat} (h : Kept r s) : Kept r (slotStart n s) := by
  unfold slotStart
  split
  · exact h
  · split
    · exact h
    · exact .ite (applyOwners_kept (setSeq_kept h)) h

theorem takeStream_kept {l : MList} {ref : MoveRef} {m : Move} (h : Kept r s) : Kept r (takeStream l ref m s).2 := by
  unfold takeStream
  split
  · exact h
  · extract_lets kept
    clear_value kept
    cases kept with
    | none => exact .pair (setSeq_kept h)
    | some c => exact h

theorem noteVadam_kept {m : Flying} (h : Kept r s) : Kept r (noteVadam m s) := by
  unfold noteVadam
  split
  · exact .ite (vadamReached_kept h) h
  · exact h

theorem startAt_kept {t : Nat} {l : MList} {m : Flying} (h : Kept r s) : Kept r (startAt t l m s) :=
  noteVadam_kept (setSeq_kept h)

theorem moveIssue_kept {r₀ : MoveRef} {t : Nat} (h : Kept r s) : Kept r (moveIssue r₀ t s) := by
  unfold moveIssue
  split
  · split
    · exact h
    · split
      · exact h
      · refine .ite h ?_
        split
        · exact .unless startAt_kept (setSeq_kept (.snd (takeStream_kept h) ‹_›))
  · exact h

theorem startWaiting_kept {needWait : Bool} {key t : Nat} (h : Kept r s) : Kept r (startWaiting needWait key t s) := by
  unfold startWaiting
  split
  · exact .ite h (startAt_kept h)
  · exact h

theorem acceptControl_kept (h : Kept r s) : Kept r (acceptControl s) := by
  unfold acceptControl
  split
  · exact h
  · split
    · split
      · exact .ite (setWatch_kept (.snd (fwRead_kept h) ‹_›)) (setWatch_kept (.snd (fwRead_kept h) ‹_›))

theorem moveComplete_kept {key t : Nat} (h : Kept r s) : Kept r (moveComplete key t s) := by
  dsimp only [moveComplete]
  split
  · split
    · exact h
    · refine .ite h ?_
      split
      · exact stepDone_kept (applyOwners_kept (.when acceptControl_kept (.when setTick_kept (.unless addSignal_kept (setSeq_kept h)))))
      · exact applyOwners_kept (.when acceptControl_kept (.when setTick_kept (.unless addSignal_kept (setSeq_kept h))))
  · exact h

theorem cancelMove_kept {l : MList} {m : Flying} (h : Kept r s) : Kept r (cancelMove l s m) := by
  dsimp only [cancelMove]
  split
  · refine setSeq_kept ?_
    refine .ite (.foldl (fun _ _ k => setArr_kept k) h) ?_
    refine .ite ?_ h
    split
    · exact .ite h (vecRun_kept h)
    · exact h
  · refine setSeq_kept ?_
    refine .ite (.foldl (fun _ _ k => setArr_kept k) h) ?_
    refine .ite ?_ h
    split
    · exact .ite h (vecRun_kept h)
    · exact h
  · refine .ite (.foldl (fun _ _ k => setArr_kept k) h) ?_
    refine .ite ?_ h
    split
    · exact .ite h (vecRun_kept h)
    · exact h

theorem cancelOutstanding_kept (h : Kept r s) : Kept r (cancelOutstanding s) := by
  unfold cancelOutstanding
  split
  · exact h
  · exact setSeq_kept (.foldl (fun _ _ k => cancelMove_kept k) h)

/-! ## Operations of `Machine.Nv` -/

theorem nvReadDone_kept {c : Cmd} {host len a : Nat} (h : Kept r s) : Kept r (nvReadDone c host len a s) :=
  completeOk_kept (hostWrite_kept (.foldl (fun _ _ k => nvCheckGroup_kept k) h))

theorem bodyNvRead_kept {c : Cmd} (h : Kept r s) : Kept r (bodyNvRead c s) :=
  Kept.ite (fail_kept h) (.ite (waitFor_kept h) (nvReadDone_kept h))

theorem imgPut_kept {bs : List (Nat × Byte)} (h : Kept r s) : Kept r (imgPut bs s) :=
  setNv_kept (fun ⟨hmem, himg, hstore⟩ => ⟨hmem, memWf_foldl_memWrite _ _ _ _ himg, hstore⟩) h

theorem nvNext_kept (h : Kept r s) : Kept r (nvNext s) :=
  setNv_kept id h

theorem bodyNvWrite_kept {c : Cmd} (h : Kept r s) : Kept r (bodyNvWrite c s) :=
  Kept.ite (fail_kept h) (.ite (.ite (fail_kept h) (.ite (waitFor_kept (nvNext_kept (setNv_kept id h))) (completeOk_kept (imgPut_kept
    h)))) (.ite (fail_kept h) (.unless (fun k => nvPump_kept (setNv_kept id k)) (waitFor_kept (nvNext_kept h)))))

theorem nvServeReads_kept (h : Kept r s) : Kept r (nvServeReads s) := by
  unfold nvServeReads
  refine .foldl (fun _ _ k => ?_) h
  split
  · exact .ite k (nvReadDone_kept (setMbx_kept id k))
  · exact k

theorem ctrScan_kept {n : Nat} (h : Kept r s) : Kept r (ctrScan n s) :=
  nvCheck_kept h

theorem ctrEnd_kept {op : CtrOp} {st : Status} (h : Kept r s) : Kept r (ctrEnd op st s) := by
  unfold ctrEnd
  split
  · exact h
  · exact .ite (finish_kept (setNv_kept id h)) h

theorem ctrCell_kept {x : CtrRun} (h : Kept r s) : Kept r (ctrCell x s) :=
  nvSubmit_kept (setNv_kept id h)

theorem ctrRebuild_kept {op : CtrOp} (h : Kept r s) : Kept r (ctrRebuild op s) :=
  nvSubmit_kept (nvSubmit_kept (setNv_kept id h))

theorem ctrGo_kept {n : Nat} (h : Kept r s) : Kept r (ctrGo n s) := by
  induction n generalizing s with
  | zero => exact h
  | succ n ih =>
    unfold ctrGo
    refine .ite h ?_
    split
    · exact h
    · extract_lets s1
      have h1 : Kept r s1 := ctrScan_kept (setNv_kept id h)
      clear_value s1
      split
      · exact .ite (ih (ctrEnd_kept h1)) (.ite (ih (ctrEnd_kept h1)) (ctrCell_kept h1))
      · exact .ite (ih (ctrEnd_kept h1)) (ctrRebuild_kept h1)

theorem ctrGoAll_kept (h : Kept r s) : Kept r (ctrGoAll s) :=
  ctrGo_kept h

theorem ctrAsk_kept {ops : List CtrOp} (h : Kept r s) : Kept r (ctrAsk ops s) :=
  ctrGoAll_kept (setNv_kept id h)

theorem ctrProgram_kept {seq : Nat} (h : Kept r s) : Kept r (ctrProgram seq s) := by
  unfold ctrProgram
  split
  · exact h
  · exact .ite h (.ite (setNv_kept id h) (.ite (ctrCell_kept h) (.ite (ctrGoAll_kept (ctrEnd_kept (setNv_kept id (nvCheck_kept h)))) (.ite
      (ctrCell_kept (nvCheck_kept h)) (ctrGoAll_kept (ctrEnd_kept (setNv_kept id (nvCheck_kept h))))))))

theorem enrolProgram_kept {seq : Nat} (h : Kept r s) : Kept r (enrolProgram seq s) := by
  unfold enrolProgram
  split
  · exact h
  · extract_lets submit done s1
    have hsubmit : ∀ y bs t, Kept r t → Kept r (submit y bs t) := fun _ _ _ k => nvSubmit_kept (setNv_kept id k)
    have hdone : ∀ st t, Kept r t → Kept r (done st t) := fun _ _ k => finish_kept (setTrust_kept (setNv_kept id k))
    have h1 : Kept r s1 := nvCheck_kept h
    clear_value submit done s1
    exact .ite h (.ite (hdone _ _ (nvCheck_kept h)) (.ite (hsubmit _ _ _ h1) (.ite (hsubmit _ _ _ h1) (hdone _ _ h1))))

theorem nvFaulty_kept {page : Nat} {bad : List Nat} (h : Kept r s) : Kept r (nvFaulty page bad s) :=
  setNv_kept id h

theorem nvProgramEnd_kept {e : ProgEnd} (h : Kept r s) : Kept r (nvProgramEnd e s) := by
  unfold nvProgramEnd
  split
  · exact h
  · exact .unless (fun k => ctrGoAll_kept (wearTick_kept (enrolProgram_kept (ctrProgram_kept (nvPump_kept k))))) (nvServeReads_kept
      (setNv_kept id (finish_kept (nvFaulty_kept (nvWear_kept (nvPut_kept (setNv_kept id h)))))))

theorem bodyNvStatus_kept {c : Cmd} (h : Kept r s) : Kept r (bodyNvStatus c s) :=
  respond_kept h

theorem nvHeld_kept {op : Nat} {c : Cmd} (h : Kept r s) : Kept r (nvHeld op c s) :=
  waitFor_kept (nvNext_kept h)

theorem bodyNvCtr_kept {c : Cmd} (h : Kept r s) : Kept r (bodyNvCtr c s) :=
  Kept.ite (completeOk_kept (ctrScan_kept h)) (.ite (fail_kept h) (.unless ctrAsk_kept (nvHeld_kept h)))

theorem bodyNvProtect_kept {c : Cmd} (h : Kept r s) : Kept r (bodyNvProtect c s) := by
  unfold bodyNvProtect
  split
  · exact waitFor_kept (recQueue_kept h)

theorem bodyNvMode_kept {c : Cmd} (h : Kept r s) : Kept r (bodyNvMode c s) := by
  unfold bodyNvMode
  split
  · exact .ite (fail_kept h) (.ite (waitFor_kept (setNv_kept id (imgStoreStart_kept h))) (waitFor_kept (recQueue_kept h)))

theorem bodyNvImgStore_kept {c : Cmd} (h : Kept r s) : Kept r (bodyNvImgStore c s) :=
  Kept.ite (fail_kept h) (.ite (waitFor_kept (imgStoreStart_kept h)) (completeOk_kept h))

theorem bodyNvImgRecall_kept {c : Cmd} (h : Kept r s) : Kept r (bodyNvImgRecall c s) := by
  dsimp only [bodyNvImgRecall]
  exact .ite (fail_kept h) (.ite (fail_kept h) (completeOk_kept (imgRecall_kept h)))

theorem modeGoes_kept {ok : Bool} (h : Kept r s) : Kept r (modeGoes ok s) := by
  unfold modeGoes
  split
  · exact h
  · exact .ite (finish_kept (setNv_kept id h)) (recQueue_kept (setMbx_kept id (setNv_kept id h)))

theorem imageStoreEnd_kept (h : Kept r s) : Kept r (imageStoreEnd s) := by
  unfold imageStoreEnd
  split
  · exact h
  · refine .ite h ?_
    split
    · exact ctrGoAll_kept (modeGoes_kept (nvPump_kept (nvServeReads_kept (.foldl (fun _ _ k => finish_kept (imgPut_kept k)) (setNv_kept id
        (finish_kept (.snd (imgStoreDo_kept h) ‹_›)))))))

theorem operatingMinute_kept (h : Kept r s) : Kept r (operatingMinute s) :=
  Kept.ite (ctrAsk_kept h) h

/-! ## Operations of `Machine.Trust` -/

theorem verifyScan_kept {ty secVer : Nat} {img : List Byte} {sigOff : Nat} (h : Kept r s) : Kept r
    (verifyScan ty secVer img sigOff s) := by
  unfold verifyScan
  split
  · exact ctrScan_kept h
  · exact ctrScan_kept h
  · exact h

theorem formAlias_kept {digest : BitVec 384} {secVer : Nat} (h : Kept r s) : Kept r (formAlias digest secVer s) :=
  setTrust_kept h

theorem readOwner_kept (h : Kept r s) : Kept r (readOwner s) := by
  dsimp only [readOwner]
  exact setTrust_kept (nvCheck_kept h)

theorem bodyTrustEnrol_kept {c : Cmd} (h : Kept r s) : Kept r (bodyTrustEnrol c s) :=
  Kept.ite (fail_kept h) (.ite (fail_kept h) (.ite (fail_kept h) (.unless (fun k => nvSubmit_kept (setNv_kept id k)) (waitFor_kept
    (setNv_kept id h)))))

theorem bodyTrustCerts_kept {c : Cmd} (h : Kept r s) : Kept r (bodyTrustCerts c s) :=
  Kept.ite (fail_kept h) (completeOk_kept (hostWrite_kept h))

theorem bodyTrustStatus_kept {c : Cmd} (h : Kept r s) : Kept r (bodyTrustStatus c s) :=
  respond_kept h

theorem bodyTrustArbRaise_kept {c : Cmd} (h : Kept r s) : Kept r (bodyTrustArbRaise c s) :=
  Kept.ite (fail_kept h) (.ite (completeOk_kept h) (.unless ctrAsk_kept (waitFor_kept (setNv_kept id h))))

theorem bodyTrustDebug_kept {c : Cmd} (h : Kept r s) : Kept r (bodyTrustDebug c s) := by
  unfold bodyTrustDebug
  refine .ite (fail_kept h) ?_
  split
  · exact fail_kept h
  · exact completeOk_kept (setTrust_kept h)

theorem spdmAnswer_kept {r₀ : State → SpdmResp} (h : Kept r s) : Kept r (spdmAnswer r₀ s) :=
  Kept.ite h (setTrust_kept h)

/-! ## Operations of `Machine.MoveLists` -/

theorem loadFails_kept {st : Status} {c : Cmd} (h : Kept r s) : Kept r (loadFails st c s) :=
  fail_kept (.ite h (setSeq_kept h))

theorem loadImage_kept {c : Cmd} {src len : Nat} (h : Kept r s) : Kept r (loadImage c src len s) := by
  dsimp only [loadImage]
  split
  · exact fail_kept (verifyScan_kept (draw_kept (dramScan_kept h)))
  · split
    · exact complete_kept (verifyScan_kept (draw_kept (dramScan_kept h)))
    · exact completeOk_kept (setSeq_kept (verifyScan_kept (draw_kept (dramScan_kept h))))

theorem bodyMlLoad_kept {c : Cmd} (h : Kept r s) : Kept r (bodyMlLoad c s) :=
  Kept.ite (loadFails_kept h) (.ite (loadFails_kept h) (.ite (fail_kept h) (dramGo_kept (fun _ k => loadImage_kept k) (setSeq_kept h))))

theorem bodyMlStart_kept {c : Cmd} (h : Kept r s) : Kept r (bodyMlStart c s) := by
  unfold bodyMlStart
  refine .ite (fail_kept h) ?_
  split
  · exact fail_kept h
  · exact .ite (fail_kept h) (.ite (fail_kept h) (decideChange_kept (waitFor_kept h)))

theorem bodyMlStop_kept {c : Cmd} (h : Kept r s) : Kept r (bodyMlStop c s) :=
  Kept.ite (completeOk_kept h) (waitFor_kept h)

theorem bodyMlStatus_kept {c : Cmd} (h : Kept r s) : Kept r (bodyMlStatus c s) :=
  respond_kept h

theorem abandonJobs_kept {l : MList} (h : Kept r s) : Kept r (abandonJobs l s) :=
  Kept.foldl (fun _ _ k => .ite (setJob_kept k) k) h

theorem trainStart_kept {j : Nat} (h : Kept r s) : Kept r (trainStart j s) := by
  unfold trainStart
  split
  · exact h
  · exact .ite h (.foldl (fun _ _ k => writeAdam_kept k) (setWatch_kept (triggerJob_kept h)))

theorem evalStart_kept {j : Nat} (h : Kept r s) : Kept r (evalStart j s) := by
  unfold evalStart
  split
  · exact h
  · exact .ite h (takeSnapshot_kept (setWatch_kept (triggerJob_kept h)))

theorem freshGaps_kept {classes : List Nat} (h : Kept r s) : Kept r (freshGaps classes s) := by
  unfold freshGaps
  split
  · exact h
  · exact .foldl (fun _ _ k => .ite k (.ite (trainStart_kept k) (.ite (evalStart_kept k) (.ite k (triggerJob_kept k))))) h

theorem startFrameJobs_kept (h : Kept r s) : Kept r (startFrameJobs s) := by
  unfold startFrameJobs
  split
  · exact h
  · exact .foldl (fun _ _ k => .ite k (.ite (setJob_kept k) (startJob_kept k))) h

/-! ## Operations of `Machine.Kv` -/

theorem pagePut_kept {e : Nat} {p : Page} (h : Kept r s) : Kept r (pagePut e p s) :=
  dramWrite_kept (setKv_kept h)

theorem dropPage_kept {e : Nat} (h : Kept r s) : Kept r (dropPage e s) := by
  dsimp only [dropPage]
  exact setKv_kept (pagePut_kept h)

theorem poolClear_kept {c : Cmd} {base mib budget : Nat} (h : Kept r s) : Kept r (poolClear c base mib budget s) :=
  completeOk_kept (setKv_kept (setDram_kept (memWf_memClear _ _) h))

theorem bodyKvPoolSetup_kept {c : Cmd} (h : Kept r s) : Kept r (bodyKvPoolSetup c s) :=
  Kept.ite (fail_kept h) (.ite (fail_kept h) (.ite (fail_kept h) (dramGo_kept (fun _ k => poolClear_kept k) h)))

theorem bodyKvOpen_kept {c : Cmd} (h : Kept r s) : Kept r (bodyKvOpen c s) := by
  dsimp only [bodyKvOpen]
  split
  · exact fail_kept h
  · refine .ite (fail_kept h) ?_
    refine .ite (fail_kept h) ?_
    split
    · exact fail_kept h
    · exact .ite (fail_kept h) (.ite (fail_kept h) (respond_kept (draw_kept (setKv_kept h))))

theorem closeSeq_kept {c : Cmd} {q : Nat} (h : Kept r s) : Kept r (closeSeq c q s) :=
  completeOk_kept (setKv_kept (finish_kept (.foldl (fun _ _ k => pagePut_kept k) h)))

theorem bodyKvClose_kept {c : Cmd} (h : Kept r s) : Kept r (bodyKvClose c s) :=
  Kept.ite (fail_kept h) (.ite (fail_kept h) (dramGo_kept (fun _ k => closeSeq_kept k) h))

theorem setLayer_kept {slot : Nat} {f : KvLayer → KvLayer} (h : Kept r s) : Kept r (setLayer slot f s) :=
  setKv_kept h

theorem copyPage_kept {f a bytes g e : Nat} {p : Page} (h : Kept r s) : Kept r (copyPage f a bytes g e p s) :=
  pagePut_kept (dramWrite_kept (fmScan_kept h))

theorem dropUntil_kept {n : Nat} {es : List Nat} (h : Kept r s) (e : dropUntil n es s = some t) : Kept r t := by
  induction es generalizing s with
  | nil => unfold dropUntil at e; split at e <;> cases e; exact h
  | cons x es ih =>
    unfold dropUntil at e
    split at e
    · exact ih (dropPage_kept h) e
    · cases e; exact h

theorem allocPage_kept {flush : Bool} {n : Nat} {p : Nat × State} (h : Kept r s) (e : allocPage flush n s = some p) : Kept r p.2 := by
  unfold allocPage at e
  split at e
  · cases e
  case h_2 u hu =>
    obtain ⟨g, -, rfl⟩ := Option.map_eq_some_iff.mp e
    exact draw_kept (dropUntil_kept h hu)

theorem flushLayer_kept {q n : Nat} (h : Kept r s) (e : flushLayer q n s = some t) : Kept r t := by
  unfold flushLayer at e
  extract_lets d slot x bytes idx at e
  split at e
  · cases e
  case h_2 g u hu =>
    cases e
    exact setLayer_kept (copyPage_kept (allocPage_kept h hu))

theorem appendLayer_kept {now : Bool} {q n cnt : Nat} (h : Kept r s) : Kept r (appendLayer now q n cnt s).2 := by
  unfold appendLayer
  extract_lets d slot x
  refine .ite2 h (.ite2 h (.ite2 h ?_))
  split
  · exact h
  case h_2 t ht =>
    have hstaged : Kept r t := by
      split at ht
      · exact flushLayer_kept h ht
      · cases ht; exact h
    extract_lets y t1
    have h1 : Kept r t1 := setLayer_kept hstaged
    clear_value t1
    refine .ite2 h (.ite2 h1 (.ite2 ?_ (.pair (setLayer_kept h1))))
    show Kept r ((flushLayer q n t1).getD t1)
    cases hf : flushLayer q n t1 with
    | none => exact h1
    | some u => exact flushLayer_kept h1 hf

theorem bodyKvAppend_kept {c : Cmd} (h : Kept r s) : Kept r (bodyKvAppend c s) := by
  unfold bodyKvAppend
  refine .ite (fail_kept h) ?_
  split
  · exact .ite (waitFor_kept (setLayer_kept h)) (complete_kept (.snd (appendLayer_kept h) ‹_›))

theorem appendGo_kept {q n : Nat} (h : Kept r s) : Kept r (appendGo q n s) := by
  unfold appendGo
  split
  · exact h
  · split
    · split
      · exact complete_kept (.snd (appendLayer_kept (setMbx_kept id h)) ‹_›)
    · exact h

theorem pageFlush_kept {q n : Nat} (h : Kept r s) : Kept r (pageFlush q n s) := by
  unfold pageFlush
  extract_lets slot s1
  have h1 : Kept r s1 := needDram_kept h
  clear_value s1
  refine .ite h (.ite h1 ?_)
  split
  case h_1 t ht => exact appendGo_kept (flushLayer_kept h1 ht)
  case h_2 => exact finish_kept (setLayer_kept h1)

theorem refillDone_kept {st : Status} (h : Kept r s) : Kept r (refillDone st s) :=
  finish_kept (setKv_kept h)

theorem writeTicket_kept {q idx last : Nat} (h : Kept r s) : Kept r (writeTicket q idx last s) := by
  dsimp only [writeTicket]
  split
  · exact refillDone_kept h
  · exact fwWriteThen_kept (setKv_kept h)

theorem bodyKvRefill_kept {c : Cmd} (h : Kept r s) : Kept r (bodyKvRefill c s) := by
  unfold bodyKvRefill
  refine .ite (fail_kept h) ?_
  refine .ite (completeOk_kept h) ?_
  split
  · exact completeOk_kept h
  · exact .ite (fail_kept h) (.ite (fail_kept h) (writeTicket_kept (waitFor_kept h)))

theorem refillPages_kept {d : KvSeq} {e : JobDesc} {f : Refill} {ns : List Nat} {k : Nat} (h : Kept r s) :
    Kept r (refillPages d e f ns k s).2 := by
  induction ns generalizing k s with
  | nil => exact h
  | cons n ns ih =>
    unfold refillPages
    extract_lets bytes
    split
    · exact h
    case h_2 g t ht => exact ih (copyPage_kept (allocPage_kept h ht))

theorem refillTicketDone_kept (h : Kept r s) : Kept r (refillTicketDone s) := by
  unfold refillTicketDone
  split
  · exact h
  · extract_lets d u locked
    split
    · exact h
    · have hu : Kept r u := needDram_kept h
      clear_value u
      refine .ite h (.ite hu ?_)
      split
      case h_1 t ht => exact refillDone_kept (.snd (refillPages_kept hu) ht)
      case h_2 t ht =>
        have h1 : Kept r t := .snd (refillPages_kept hu) ht
        split
        · exact refillDone_kept h1
        · exact writeTicket_kept h1

theorem bodyKvStatus_kept {c : Cmd} (h : Kept r s) : Kept r (bodyKvStatus c s) :=
  Kept.ite (fail_kept h) (respond_kept h)

theorem stagePage_kept {d : JobDesc} {bs : List Byte} {ps : List (BitVec 8)} (h : Kept r s) : Kept r (stagePage d bs ps s) := by
  unfold stagePage
  split
  · exact h
  · exact draw_kept (fmStore_kept h)

theorem compactPage_kept {d : JobDesc} {e : Nat} (h : Kept r s) (he : compactPage d e s = some t) : Kept r t := by
  unfold compactPage at he
  extract_lets p q bytes at he
  split at he
  · cases he
  case h_2 g u hu =>
    cases he
    exact pagePut_kept (dramWrite_kept (stagePage_kept (dramScan_kept (allocPage_kept h hu))))

theorem compactPages_kept {d : JobDesc} {es : List Nat} {n : Nat} (h : Kept r s) : Kept r (compactPages d es n s) := by
  induction es generalizing n s with
  | nil => exact h
  | cons e es ih =>
    cases n with
    | zero => exact h
    | succ n =>
      unfold compactPages
      split
      case h_1 t ht => exact ih (compactPage_kept h ht)
      case h_2 => exact ih h

theorem compaction_kept {jc : Nat} (h : Kept r s) : Kept r (compaction jc s) := by
  unfold compaction
  split
  · exact .ite h (.unless (fun k => compactPages_kept (setKv_kept k)) (needDram_kept h))
  · exact h

/-! ## Operations of `Machine.Attention` -/

theorem setAttn_kept {jc : Nat} {f : AttnJob → AttnJob} (h : Kept r s) : Kept r (setAttn jc f s) :=
  setKv_kept h

theorem bodyAttnRun_kept {c : Cmd} (h : Kept r s) : Kept r (bodyAttnRun c s) :=
  Kept.ite (fail_kept h) (.ite (fail_kept h) (.ite (fail_kept h) (.ite (fail_kept h) (.ite (fail_kept h) (.ite (waitFor_kept (setAttn_kept
    (setKv_kept h))) (complete_kept (setAttn_kept (setKv_kept h))))))))

theorem runEnds_kept {jc : Nat} (h : Kept r s) : Kept r (runEnds jc s) := by
  dsimp only [runEnds]
  split
  · exact setJob_kept (setAttn_kept h)
  · exact setAttn_kept h

theorem bodyAttnCancel_kept {c : Cmd} (h : Kept r s) : Kept r (bodyAttnCancel c s) := by
  dsimp only [bodyAttnCancel]
  split
  · exact fail_kept h
  · exact .ite (completeOk_kept (setAttn_kept h)) (completeOk_kept (finish_kept (setAttn_kept h)))

theorem bodyAttnInfo_kept {c : Cmd} (h : Kept r s) : Kept r (bodyAttnInfo c s) :=
  respond_kept h

theorem passBoundary_kept {jc : Nat} (h : Kept r s) : Kept r (passBoundary jc s) :=
  setAttn_kept h

theorem beginRun_kept {jc : Nat} (h : Kept r s) : Kept r (beginRun jc s) :=
  setAttn_kept h

theorem attnBoundary_kept (h : Kept r s) : Kept r (attnBoundary s) :=
  Kept.foldl (fun _ _ k => .ite k (.ite (passBoundary_kept (setJob_kept k)) (.ite k (beginRun_kept k)))) h

theorem emptyRuns_kept (h : Kept r s) : Kept r (emptyRuns s) :=
  Kept.foldl (fun _ _ k => .ite (runEnds_kept k) k) h

theorem attnAbandon_kept (h : Kept r s) : Kept r (attnAbandon s) :=
  setKv_kept h

theorem endScan_kept {kind a n : Nat} (h : Kept r s) : Kept r (endScan kind a n s) :=
  Kept.ite (fmScan_kept h) (dramScan_kept h)

theorem endWrite_kept {kind a : Nat} {bs : List Byte} {ps : List (BitVec 8)} (h : Kept r s) : Kept r (endWrite kind a bs ps s) :=
  Kept.ite (fmStore_kept h) (.ite (poolSpoil_kept (dramWrite_kept h)) (dramWrite_kept h))

theorem serveStream_kept {q : Req} (h : Kept r s) : Kept r (serveStream q s).2 := by
  unfold serveStream
  refine .ite2 ?_ h
  cases q.streamC with
  | none => exact .pair (setSeq_kept h)
  | some c => exact h

theorem serveStart_kept {jc : Nat} (h : Kept r s) : Kept r (serveStart jc s) := by
  unfold serveStart
  extract_lets a
  split
  · refine .ite h ?_
    split
    · exact setAttn_kept h
    case h_2 q hq =>
      extract_lets u
      have hu : Kept r u := .ite (needDram_kept h) h
      clear_value u
      exact .ite h (.ite hu (setAttn_kept (serveStream_kept (.ite2 hu (appendLayer_kept hu)))))
  · exact h

theorem serveScan_kept {v : Serve} (h : Kept r s) : Kept r (serveScan v s) := by
  unfold serveScan
  refine .ite (.foldl (fun _ _ k => endScan_kept k) (endScan_kept h)) ?_
  refine .foldl (fun _ _ k => ?_) (endScan_kept h)
  split
  · exact dramScan_kept k
  · exact fmScan_kept k
  · exact k

theorem serveEnd_kept {jc : Nat} (h : Kept r s) : Kept r (serveEnd jc s) := by
  unfold serveEnd
  extract_lets a
  split
  · exact h
  case h_2 v hv =>
    extract_lets u q d good ps
    have hu : Kept r u := .ite (needDram_kept h) h
    clear_value u
    refine .ite hu ?_
    split
    extract_lets bs poisoned s0 s0' s1 s2 s3 s4 s5
    have h0 : Kept r s0 := .ite (countAx_kept (serveScan_kept hu)) hu
    clear_value s0
    have h0' : Kept r s0' := .ite (poolSpoil_kept h0) h0
    clear_value s0'
    have h1 : Kept r s1 := .ite (draw_kept (endWrite_kept h0')) h0'
    clear_value s1
    have h5 : Kept r s5 := finish_kept (setAttn_kept (addSignal_kept (endWrite_kept h1)))
    clear_value s5
    exact .ite (runEnds_kept h5) h5

/-! ## Operations of `Machine.Source` -/

theorem enterHoldover_kept (h : Kept r s) : Kept r (enterHoldover s) :=
  Kept.ite h (raiseInt_kept (by decide) (logEvent_kept (setTick_kept h)))

theorem sourceEdge_kept {err : Int} (h : Kept r s) : Kept r (sourceEdge err s) :=
  Kept.ite (.ite (setTick_kept h) h) (.ite (setTick_kept h) (.ite (enterHoldover_kept (setTick_kept h)) (setTick_kept h)))

theorem sourceMissed_kept (h : Kept r s) : Kept r (sourceMissed s) :=
  enterHoldover_kept (setTick_kept h)

theorem retrim_kept (h : Kept r s) : Kept r (retrim s) := by
  dsimp only [retrim]
  exact setTick_kept h

theorem realignNow_kept (h : Kept r s) : Kept r (realignNow s) :=
  Kept.ite (setTick_kept h) h

theorem holdoverExit_kept (h : Kept r s) : Kept r (holdoverExit s) := by
  unfold holdoverExit
  refine .ite h ?_
  refine realignNow_kept ?_
  split
  · exact setTick_kept (raiseInt_kept (by decide) (logEvent_kept (setTick_kept h)))
  · exact raiseInt_kept (by decide) (logEvent_kept (setTick_kept h))

/-! ## Operations of `Machine.Links` -/

theorem bodyLinkIdent_kept {c : Cmd} (h : Kept r s) : Kept r (bodyLinkIdent c s) :=
  Kept.ite (fail_kept h) (.ite (fail_kept h) (waitFor_kept (recQueue_kept h)))

theorem linksOn_kept {all : Bool} (h : Kept r s) : Kept r (linksOn all s) :=
  Kept.foldl (fun _ _ k => .ite (.ite (.ite (setPhase_kept k) k) (requestPolder_kept k)) k) h

theorem identInForce_kept (h : Kept r s) : Kept r (identInForce s) :=
  Kept.unless linksOn_kept (setLinks_kept h)

theorem adminUpCheck_kept {l : Nat} (h : Kept r s) : Kept r (adminUpCheck l s) :=
  Kept.ite (finish_kept h) (finish_kept h)

theorem linkTraining_kept {l : Nat} {r₀ : TrainResult} (h : Kept r s) : Kept r (linkTraining l r₀ s) := by
  unfold linkTraining
  refine .ite h ?_
  refine adminUpCheck_kept ?_
  split
  · exact setPhase_kept h
  · refine .ite (setPhase_kept (setLink_kept h)) ?_
    split
    · exact setPhase_kept (setLink_kept h)
    · exact .ite (setPhase_kept (setLink_kept h)) (setPhase_kept (setLink_kept (setLink_kept h)))

theorem linkDiscard_kept {l : Nat} {all : Bool} (h : Kept r s) : Kept r (linkDiscard l all s) := by
  dsimp only [linkDiscard]
  exact setFm_kept id (setLinks_kept (setLink_kept (setFm_kept id (.foldl (fun _ _ k => issueCredit_kept k) h))))

theorem linkLeavesUp_kept {l : Nat} {p : LinkPhase} (h : Kept r s) : Kept r (linkLeavesUp l p s) :=
  linkFence_kept (setPhase_kept (linkDiscard_kept h))

theorem linkCut_kept {l : Nat} (h : Kept r s) : Kept r (linkCut l s) :=
  Kept.when linkFence_kept (linkDiscard_kept h)

theorem sluiceClosed_kept {p at_ : Nat} (h : Kept r s) : Kept r (sluiceClosed p at_ s) := by
  unfold sluiceClosed
  split
  · exact .ite (.ite (requestPolder_kept (setPower_kept (polderSet_kept (polderLost_kept (.ite (linkCut_kept h) h))))) (retryDown_kept
      (setPower_kept (polderSet_kept (polderLost_kept (.ite (linkCut_kept h) h)))))) h
  · exact .ite (closeDone_kept h) h
  · exact h

theorem linkDown_kept {l : Nat} {cause : DownCause} (h : Kept r s) : Kept r (linkDown l cause s) :=
  Kept.ite h (linkLeavesUp_kept (bump_kept h))

theorem linkUnfence_kept {l : Nat} (h : Kept r s) : Kept r (linkUnfence l s) :=
  Kept.ite (linkFence_kept h) h

theorem linkStateFloodRx_kept {chip l : Nat} {w : LinkWord} (h : Kept r s) : Kept r (linkStateFloodRx chip l w s) :=
  Kept.ite h (flood_kept (setLinks_kept h))

theorem planTick_kept (h : Kept r s) : Kept r (planTick s) :=
  Kept.foldl (fun _ _ k => .ite (bump_kept k) k) h

theorem sendFlit_kept {l : Nat} {cls : FlitClass} {x : QFlit} {rest : List QFlit} (h : Kept r s) : Kept r (sendFlit l cls x rest s) :=
  issueCredit_kept (setLink_kept h)

theorem slotFlit_kept {l slot : Nat} (h : Kept r s) : Kept r (slotFlit l slot s) := by
  dsimp only [slotFlit]
  refine .ite (setLink_kept h) ?_
  refine .ite h ?_
  split
  · refine .ite ?_ (sendFlit_kept h)
    refine .ite (bump_kept h) ?_
    split
    · exact sendFlit_kept (bump_kept h)
    · split
      · exact sendFlit_kept (bump_kept h)
      · exact bump_kept h
  · refine .ite h ?_
    split
    · exact sendFlit_kept h
    · split
      · exact sendFlit_kept h
      · exact h

theorem flitSlot_kept {l slot : Nat} (h : Kept r s) : Kept r (flitSlot l slot s) :=
  Kept.ite h (slotFlit_kept (setLink_kept h))

theorem linkAckRx_kept {l count : Nat} {missing : Bool} (h : Kept r s) : Kept r (linkAckRx l count missing s) :=
  Kept.ite h (.when bump_kept (setLink_kept (setLinks_kept h)))

theorem dropAtDest_kept {h₀ : HeadFlit} {l chip tag : Nat} {last : Bool} (h : Kept r s) : Kept r (dropAtDest h₀ l chip tag last s) :=
  Kept.unless setLinks_kept (logEvent_kept (bump_kept h))

theorem headArrives_kept {h₀ : HeadFlit} {l chip tag : Nat} (h : Kept r s) : Kept r (headArrives h₀ l chip tag s) :=
  Kept.ite (dropAtDest_kept h) (.ite (destSignal_kept h) (setFm_kept id (setLinks_kept (addXfer_kept h))))

theorem dataArrives_kept {chip tag : Nat} {last : Bool} {poison : BitVec 8} {bytes : List Byte} (h : Kept r s) : Kept r
    (dataArrives chip tag last poison bytes s) :=
  Kept.when setLinks_kept (setFm_kept id h)

theorem rxTaken_kept {l : Nat} (h : Kept r s) : Kept r (rxTaken l s) :=
  setLink_kept h

theorem tagBegins_kept {key : Nat} (h : Kept r s) : Kept r (tagBegins key s) :=
  setFm_kept id (setLinks_kept h)

theorem flitTaken_kept {l : Nat} {f : Flit} (h : Kept r s) : Kept r (flitTaken l f s) := by
  dsimp only [flitTaken]
  split
  · split
    · exact issueCredit_kept (headArrives_kept (tagBegins_kept (rxTaken_kept h)))
    · exact .ite (forwardFlit_kept (setLinks_kept (tagBegins_kept (rxTaken_kept h)))) (issueCredit_kept (.unless setLinks_kept
        (setLinks_kept (tagBegins_kept (rxTaken_kept h)))))
  · refine .ite (issueCredit_kept (.when setLinks_kept (rxTaken_kept h))) ?_
    split
    · exact issueCredit_kept (rxTaken_kept h)
    · exact .ite (issueCredit_kept (dataArrives_kept (rxTaken_kept h))) h
    · exact .when setLinks_kept (.ite (forwardFlit_kept (rxTaken_kept h)) (issueCredit_kept (.unless setLinks_kept (rxTaken_kept h))))

theorem flitRx_kept {l : Nat} {g : LineFlit} (h : Kept r s) : Kept r (flitRx l g s) := by
  unfold flitRx
  refine .ite h ?_
  refine .ite (bump_kept (setLink_kept h)) ?_
  refine .ite (setLink_kept h) ?_
  split
  · exact rxTaken_kept h
  · exact flitTaken_kept h

theorem followMarker_kept {l : Nat} {m : Marker} (h : Kept r s) : Kept r (followMarker l m s) :=
  Kept.ite (sourceMissed_kept (bump_kept (setLinks_kept h))) (sourceEdge_kept (setLinks_kept h))

theorem followBetter_kept {l : Nat} {m : Marker} (h : Kept r s) : Kept r (followBetter l m s) := by
  dsimp only [followBetter]
  exact setTick_kept h

theorem tickMarkerRx_kept {l : Nat} {m : Marker} (h : Kept r s) : Kept r (tickMarkerRx l m s) :=
  Kept.ite h (.ite (.when setLinks_kept (setLinks_kept h)) (.unless (fun k => .when (fun k => .when (fun k => .ite (followMarker_kept k)
    (followBetter_kept k)) (setLinks_kept k)) (.unless setLinks_kept k)) (setLinks_kept h)))

theorem bodyLinkState_kept {c : Cmd} (h : Kept r s) : Kept r (bodyLinkState c s) :=
  respond_kept h

theorem bodyLinkAdmin_kept {c : Cmd} (h : Kept r s) : Kept r (bodyLinkAdmin c s) := by
  dsimp only [bodyLinkAdmin]
  refine .ite (fail_kept h) (.ite ?_ (.ite (completeOk_kept h) (waitFor_kept (.foldl (fun _ _ k => flood_kept k) h))))
  generalize hup : List.foldl _ _ _ = u
  have hu : Kept r u := by
    subst hup
    refine .foldl (fun t l k => ?_) h
    have hflood := flood_kept (key := mapKey t l) (w := if (linkOf t l).phase == .up then .up else .down)
      (setLinks_kept (f := fun k => { k with avoid := k.avoid &&& ~~~(1#4 <<< l) }) k)
    exact .ite hflood (.ite (setPhase_kept hflood) (requestPolder_kept (setPhase_kept hflood)))
  exact .ite (completeOk_kept hu) (waitFor_kept hu)

theorem linkAdminDownEntry_kept (h : Kept r s) : Kept r (linkAdminDownEntry s) := by
  unfold linkAdminDownEntry
  split
  · exact h
  · split
    · exact .ite h (finishFirst_kept (.foldl (fun _ _ k => .ite (linkLeavesUp_kept k) (setPhase_kept k)) h))
    · exact h

theorem bodyLinkMaster_kept {c : Cmd} (h : Kept r s) : Kept r (bodyLinkMaster c s) :=
  waitFor_kept h

theorem bodyLinkPing_kept {c : Cmd} (h : Kept r s) : Kept r (bodyLinkPing c s) :=
  Kept.ite (fail_kept h) (.ite (draw_kept (completeOk_kept h)) (fail_kept h))

/-! ## Operations of `Machine.Rings` -/

theorem ringStart_kept {r₀ : Ring} (h : Kept r s) : Kept r (ringStart r₀ s) :=
  hostWrite_kept h

theorem ringPost_kept {r₀ : Ring} {bs : List Byte} (h : Kept r s) : Kept r (ringPost r₀ bs s).2 :=
  Kept.ite2 h (.ite2 h (.when msixSend_kept (hostWrite_kept (hostWrite_kept h))))

theorem postTick_kept {bs : List Byte} (h : Kept r s) : Kept r (postTick bs s) :=
  (ringPost_kept (r₀ := s.tring) (bs := bs) h).trans ⟨id, rfl, rfl⟩

theorem postReport_kept {bs : List Byte} (h : Kept r s) : Kept r (postReport bs s) :=
  (ringPost_kept (r₀ := s.rring) (bs := bs) h).trans ⟨id, rfl, rfl⟩

theorem postRx_kept {bs : List Byte} (h : Kept r s) : Kept r (postRx bs s) :=
  (ringPost_kept (r₀ := s.fring) (bs := bs) h).trans ⟨id, rfl, rfl⟩

/-! ## Operations of `Machine.FieldBus` -/

theorem setPort_kept {p : Nat} {f : Port → Port} (h : Kept r s) : Kept r (setPort p f s) :=
  setBus_kept h

theorem setOut_kept {k₀ : Nat} {f : HoOut → HoOut} (h : Kept r s) : Kept r (setOut k₀ f s) :=
  setBus_kept h

theorem hostDropped_kept {q : FbQ} (h : Kept r s) : Kept r (hostDropped q s) := by
  unfold hostDropped
  split
  · exact finish_kept h
  · exact h

theorem fbQueue_kept {p : Nat} {x : FbQ} (h : Kept r s) : Kept r (fbQueue p x s) := by
  unfold fbQueue
  refine .ite (setPort_kept h) ?_
  split
  · exact hostDropped_kept (bump_kept (setPort_kept h))
  · exact hostDropped_kept (bump_kept h)

theorem fbRoute_kept {kind : Nat} {body : List Byte} (h : Kept r s) : Kept r (fbRoute kind body s) :=
  Kept.foldl (fun _ _ k => fbQueue_kept k) h

theorem portRestart_kept {p : Nat} (h : Kept r s) : Kept r (portRestart p s) :=
  Kept.foldl (fun _ _ k => hostDropped_kept k) (bumpBy_kept (setPort_kept h))

theorem sendFrames_kept {p n : Nat} (h : Kept r s) : Kept r (sendFrames p n s) := by
  induction n generalizing s with
  | zero => exact h
  | succ n ih =>
    unfold sendFrames
    split
    · exact h
    · extract_lets s1
      have h1 : Kept r s1 := setPort_kept h
      clear_value s1
      apply ih
      split
      · exact finish_kept h1
      · exact h1

theorem fbTransmit_kept {p : Nat} {r₀ : TxOutcome} (h : Kept r s) : Kept r (fbTransmit p r₀ s) := by
  unfold fbTransmit
  refine .ite h ?_
  split
  · exact h
  · split
    · exact sendFrames_kept h
    · exact .ite (setPort_kept (.ite (logEvent_kept (bump_kept h)) h)) (hostDropped_kept (bump_kept (setPort_kept (.ite (logEvent_kept
        (bump_kept h)) h))))
    · exact hostDropped_kept (bump_kept (setPort_kept (setPort_kept h)))

theorem takeToken_kept {i rate : Nat} (h : Kept r s) : Kept r (takeToken s i rate).2 :=
  Kept.ite2 h (setBus_kept (f := fun b => { b with buckets := _ }) h)

theorem gptpSync_kept {p originNs : Nat} {corrNs log2 : Int} (h : Kept r s) : Kept r (gptpSync p originNs corrNs log2 s) :=
  setPort_kept h

theorem gptpFrame_kept {p i : Nat} {f : FbFrame} (h : Kept r s) : Kept r (gptpFrame p i f s) := by
  unfold gptpFrame
  refine .ite h ?_
  split
  · exact .ite (gptpSync_kept h) h
  · exact h

theorem fbFrameRx_kept {p : Nat} {f : FbFrame} (h : Kept r s) : Kept r (fbFrameRx p f s) := by
  unfold fbFrameRx
  refine .ite h (.ite (.ite (bump_kept h) h) (.ite (bump_kept h) ?_))
  split
  case h_1 => exact .unless (fun k => logEvent_kept (setBus_kept k)) (bump_kept h)
  case h_2 =>
    split
    case h_1 ok s1 htok =>
      have h1 : Kept r s1 := .snd (takeToken_kept h) htok
      exact .ite (bump_kept h1) (.ite (gptpFrame_kept h1) (.ite (.ite h1 (postRx_kept h1)) (bump_kept h1)))

theorem chooseOut_kept {s₀ : State} {cm : BitVec 24} {k₀ : Nat} (h : Kept r s) : Kept r (chooseOut s₀ cm k₀ s) := by
  dsimp only [chooseOut]
  exact setOut_kept h

theorem healthChoice_kept (h : Kept r s) : Kept r (healthChoice s) :=
  Kept.ite h (setBus_kept (.foldl (fun _ _ k => chooseOut_kept k) h))

theorem choiceEdge_kept (h : Kept r s) : Kept r (choiceEdge s) := by
  dsimp only [choiceEdge]
  exact setBus_kept (.unless healthChoice_kept (.ite (healthChoice_kept h) h))

theorem holdExpiry_kept {k₀ : Nat} (h : Kept r s) : Kept r (holdExpiry k₀ s) := by
  dsimp only [holdExpiry]
  split
  · exact .ite (setOut_kept h) h
  · exact h

theorem bodyFbPort_kept {c : Cmd} (h : Kept r s) : Kept r (bodyFbPort c s) :=
  Kept.ite (fail_kept h) (waitFor_kept h)

theorem bodyFbFilter_kept {c : Cmd} (h : Kept r s) : Kept r (bodyFbFilter c s) :=
  Kept.ite (fail_kept h) (waitFor_kept h)

theorem bodyFbReports_kept {c : Cmd} (h : Kept r s) : Kept r (bodyFbReports c s) :=
  Kept.ite (fail_kept h) (waitFor_kept h)

theorem bodyFbSend_kept {c : Cmd} (h : Kept r s) : Kept r (bodyFbSend c s) :=
  Kept.ite (fail_kept h) (.ite (fail_kept h) (fbQueue_kept (waitFor_kept (setBus_kept h))))

theorem bodyFbRxRing_kept {c : Cmd} (h : Kept r s) : Kept r (bodyFbRxRing c s) :=
  Kept.ite (fail_kept h) (completeOk_kept (ringStart_kept (h.trans ⟨id, rfl, rfl⟩)))

theorem bodyFbStatus_kept {c : Cmd} (h : Kept r s) : Kept r (bodyFbStatus c s) :=
  respond_kept h

theorem bodyHoConfig_kept {c : Cmd} (h : Kept r s) : Kept r (bodyHoConfig c s) :=
  Kept.ite (waitFor_kept h) (fail_kept h)

theorem bodyHoStatus_kept {c : Cmd} (h : Kept r s) : Kept r (bodyHoStatus c s) :=
  completeOk_kept h

theorem portApply_kept {b : BitVec 128} (h : Kept r s) : Kept r (portApply b s) := by
  unfold portApply
  extract_lets p old new restart s1
  exact setPort_kept (.ite (portRestart_kept h) h)

theorem busBoundary_kept (h : Kept r s) : Kept r (busBoundary s) := by
  unfold busBoundary
  refine .ite h ?_
  refine finish_kept ?_
  refine recQueue_kept ?_
  refine .foldl (fun _ _ k => ?_) h
  split
  · exact portApply_kept k
  · exact setBus_kept k
  · exact setBus_kept k
  · exact setOut_kept k
  · exact k

/-! ## Operations of `Machine.Watch` -/

theorem setupImage_kept {c : Cmd} {src len logBase frames : Nat} {l : MList} (h : Kept r s) : Kept r
    (setupImage c src len logBase frames l s) := by
  unfold setupImage
  refine .ite (fail_kept (verifyScan_kept (draw_kept (dramScan_kept h)))) ?_
  split
  · exact fail_kept (verifyScan_kept (draw_kept (dramScan_kept h)))
  · exact .ite (fail_kept (verifyScan_kept (draw_kept (dramScan_kept h)))) (completeOk_kept (setWatch_kept (verifyScan_kept (draw_kept
      (dramScan_kept h)))))

theorem bodyWatchSetup_kept {c : Cmd} (h : Kept r s) : Kept r (bodyWatchSetup c s) := by
  unfold bodyWatchSetup
  refine .ite (fail_kept h) ?_
  split
  · exact fail_kept h
  · exact .ite (fail_kept h) (dramGo_kept (fun _ k => setupImage_kept k) h)

theorem watchStop_kept (h : Kept r s) : Kept r (watchStop s) :=
  Kept.ite h (oweEvent_kept (writeScalars_kept (setWatch_kept h)))

theorem startFresh_kept {im : WImage} (h : Kept r s) : Kept r (startFresh im s) :=
  writeScalars_kept (writeScales_kept (seedCandidate_kept (writeInitial_kept (setWatch_kept h))))

theorem exportState_kept {im : WImage} (h : Kept r s) : Kept r (exportState s im).2 := by
  unfold exportState
  extract_lets l n w32 reg area core hist scale areas
  have hareas : ∀ es (acc : List Byte × State), Kept r acc.2 → Kept r (List.foldl areas acc es).2 := by
    intro es
    induction es with
    | nil => exact fun _ k => k
    | cons e es ih => exact fun acc k => ih _ (fwRead_kept k)
  exact hareas _ _ h

theorem exportBytes_kept {im : WImage} (h : Kept r s) : Kept r (exportBytes s im).2 := by
  unfold exportBytes
  split
  · exact .snd (exportState_kept h) ‹_›

theorem importAreas_kept {im : WImage} {b : List Byte} (h : Kept r s) : Kept r (importAreas im b s) := by
  unfold importAreas
  extract_lets go
  have hgo : ∀ es (acc : State × Nat), Kept r acc.1 → Kept r (List.foldl go acc es).1 := by
    intro es
    induction es with
    | nil => exact fun _ k => k
    | cons e es ih => exact fun acc k => ih _ (fwWrite_kept k)
  exact hgo _ _ h

theorem startResumed_kept {im : WImage} {file : List Byte} (h : Kept r s) : Kept r (startResumed im file s) :=
  writeScalars_kept (importAreas_kept (setWatch_kept h))

theorem setLevels_kept {levels : List Nat} (h : Kept r s) : Kept r (setLevels levels s) :=
  setWatch_kept h

theorem levelsNow_kept (h : Kept r s) : Kept r (levelsNow s) := by
  unfold levelsNow
  extract_lets is p s1
  have h1 : Kept r s1 := finish_kept (setWatch_kept h)
  clear_value s1
  split
  · exact h1
  · extract_lets new s2
    have h2 : Kept r s2 := setLevels_kept (setWatch_kept h1)
    exact .ite (oweEvent_kept h2) h2

theorem closeFrame_kept (h : Kept r s) : Kept r (closeFrame s) :=
  setLevels_kept (setWatch_kept h)

theorem logRow_kept {im : WImage} {w : WatchTick} {elig sample : Bool} (h : Kept r s) : Kept r (logRow im w elig sample s) := by
  unfold logRow
  extract_lets logged cap num fading row s1 lost
  exact setWatch_kept (dramWrite_kept h)

theorem watchCommit_kept {k₀ : WatchTick} (h : Kept r s) : Kept r (watchCommit k₀ s) := by
  unfold watchCommit
  split
  · exact h
  · exact .ite h (.when closeFrame_kept (setWatch_kept (logRow_kept (setWatch_kept h))))

theorem watchEdge_kept (h : Kept r s) : Kept r (watchEdge s) := by
  unfold watchEdge
  refine .ite (setWatch_kept h) ?_
  split
  dsimp only
  split
  · exact setWatch_kept h
  · exact draw_kept (setWatch_kept h)

theorem statRow_kept {r₀ : Row} (h : Kept r s) : Kept r (statRow s r₀) := by
  unfold statRow
  split
  · exact h
  · exact .when setLearned_kept (setReg_kept h)

theorem statistics_kept (h : Kept r s) : Kept r (statistics s) :=
  Kept.ite h (.foldl (fun _ _ k => writeVars_kept k) (.foldl (fun _ _ k => statRow_kept k) (setWatch_kept h)))

theorem stepRun_kept {w at_ : Nat} (h : Kept r s) : Kept r (stepRun w at_ s) := by
  unfold stepRun
  split
  · split
    · exact stepIssue_kept h
    · exact .when statistics_kept (stepIssue_kept h)
  · exact stepIssue_kept h

theorem watchTransition_kept {g delay : Nat} (h : Kept r s) : Kept r (watchTransition g delay s) := by
  unfold watchTransition
  split
  · exact h
  · extract_lets w go s1 s2 s3 s4
    split
    · exact h
    · have h1 : Kept r s1 := setReg_kept h
      clear_value s1
      have h2 : Kept r s2 := .ite (writeVars_kept (writeNorm_kept (setLearned_kept (draw_kept h1)))) h1
      clear_value s2
      exact .ite h (oweEvent_kept (.ite (writeScalars_kept h2) (logEvent_kept (writeScalars_kept h2))))

theorem trainingTrigger_kept {job : Nat} (h : Kept r s) : Kept r (trainingTrigger job s) :=
  trainStart_kept h

theorem evaluationTrigger_kept {job : Nat} (h : Kept r s) : Kept r (evaluationTrigger job s) :=
  Kept.ite h (evalStart_kept h)

theorem promotion_kept (h : Kept r s) : Kept r (promotion s) := by
  unfold promotion
  split
  · exact h
  · exact .ite h (.foldl (fun _ _ k => writeVars_kept k) (copySnapshot_kept (setWatch_kept h)))

theorem fadeStart_kept (h : Kept r s) : Kept r (fadeStart s) :=
  Kept.ite h (oweReport_kept (writeScalars_kept (setWatch_kept h)))

theorem watchFadeStart_kept (h : Kept r s) : Kept r (watchFadeStart s) :=
  Kept.ite h (fadeStart_kept h)

theorem fadeEnd_kept (h : Kept r s) : Kept r (fadeEnd s) := by
  unfold fadeEnd
  split
  · exact h
  · exact .ite h (oweEvent_kept (.when reseedCandidate_kept (writeScalars_kept (setWatch_kept h))))

theorem watchFadeEnd_kept (h : Kept r s) : Kept r (watchFadeEnd s) :=
  Kept.ite h (fadeEnd_kept h)

theorem rollBack_kept {reseed : Bool} (h : Kept r s) : Kept r (rollBack reseed s) := by
  unfold rollBack
  split
  · exact oweReport_kept (oweReport_kept (.when reseedCandidate_kept (writeScalars_kept (setWatch_kept (setWatch_kept h)))))
  · exact oweReport_kept (oweReport_kept (writeScalars_kept (setWatch_kept (setWatch_kept h))))

theorem conditionReport_kept {k₀ : CondCause} (h : Kept r s) : Kept r (conditionReport k₀ s) := by
  unfold conditionReport
  refine .ite h ?_
  split
  · exact h
  · exact setWatch_kept h

theorem frameSummary_kept (h : Kept r s) : Kept r (frameSummary s) :=
  Kept.ite h (.ite (setWatch_kept (bump_kept h)) (setWatch_kept h))

theorem envelopeSigned_kept (h : Kept r s) : Kept r (envelopeSigned s) := by
  unfold envelopeSigned
  split
  · exact h
  · exact fbRoute_kept (postReport_kept (draw_kept (setWatch_kept h)))

theorem bodyWatchStart_kept {c : Cmd} (h : Kept r s) : Kept r (bodyWatchStart c s) := by
  unfold bodyWatchStart
  refine .ite (fail_kept h) ?_
  split
  · exact fail_kept h
  · exact .ite (fail_kept h) (waitFor_kept h)

theorem bodyWatchStop_kept {c : Cmd} (h : Kept r s) : Kept r (bodyWatchStop c s) :=
  Kept.ite (fail_kept h) (waitFor_kept h)

theorem bodyWatchFreeze_kept {c : Cmd} (h : Kept r s) : Kept r (bodyWatchFreeze c s) :=
  Kept.ite (fail_kept h) (waitFor_kept h)

theorem bodyWatchThaw_kept {c : Cmd} (h : Kept r s) : Kept r (bodyWatchThaw c s) :=
  Kept.ite (fail_kept h) (waitFor_kept h)

theorem bodyWatchParams_kept {c : Cmd} (h : Kept r s) : Kept r (bodyWatchParams c s) :=
  Kept.ite (fail_kept h) (.ite (fail_kept h) (waitFor_kept h))

theorem bodyWatchRelearn_kept {c : Cmd} (h : Kept r s) : Kept r (bodyWatchRelearn c s) :=
  Kept.ite (fail_kept h) (.ite (fail_kept h) (waitFor_kept h))

theorem bodyWatchRollback_kept {c : Cmd} (h : Kept r s) : Kept r (bodyWatchRollback c s) :=
  Kept.ite (fail_kept h) (waitFor_kept h)

theorem bodyWatchStatus_kept {c : Cmd} (h : Kept r s) : Kept r (bodyWatchStatus c s) :=
  completeOk_kept (hostWrite_kept h)

theorem bodyWatchExport_kept {c : Cmd} (h : Kept r s) : Kept r (bodyWatchExport c s) := by
  unfold bodyWatchExport
  split
  · exact fail_kept h
  · exact .ite (fail_kept h) (.ite (fail_kept h) (waitFor_kept h))

theorem bodyWatchImport_kept {c : Cmd} (h : Kept r s) : Kept r (bodyWatchImport c s) := by
  unfold bodyWatchImport
  refine .ite (fail_kept h) ?_
  refine .ite (fail_kept h) ?_
  split
  · exact .ite (fail_kept h) (completeOk_kept (setWatch_kept h))
  · exact fail_kept h

theorem bodyWatchReportRing_kept {c : Cmd} (h : Kept r s) : Kept r (bodyWatchReportRing c s) :=
  Kept.ite (fail_kept h) (completeOk_kept (ringStart_kept (h.trans ⟨id, rfl, rfl⟩)))

theorem relearn_kept {mask : BitVec 16} (h : Kept r s) : Kept r (relearn mask s) := by
  unfold relearn
  split
  · exact h
  · exact .unless oweEvent_kept (writeScalars_kept (.foldl (fun _ _ k => writeVars_kept (writeNorm_kept k)) (.foldl (fun _ _ k =>
      setLearned_kept (setReg_kept k)) h)))

theorem fadeNext_kept (h : Kept r s) : Kept r (fadeNext s) :=
  Kept.ite h (writeScalars_kept (setWatch_kept h))

theorem watchAct_kept {a : PendAct} {p : Status × Nat × State} (h : Kept r s) (e : watchAct a s = some p) : Kept r p.2.2 := by
  unfold watchAct at e
  split at e
  · cases e
    split
    · exact h
    · split
      · exact startResumed_kept h
      · exact startFresh_kept h
  · cases e; exact watchStop_kept h
  · cases e; exact .ite (oweReport_kept (writeScalars_kept (setWatch_kept h))) h
  · cases e; exact .ite (oweReport_kept (writeScalars_kept (setWatch_kept h))) h
  · cases e; exact .ite h (relearn_kept h)
  · cases e
    split
    · exact rollBack_kept h
    · exact h
  · cases e
    split
    · split
      · exact h
      · exact hostWrite_kept (exportBytes_kept h)
    · exact h
  · cases e

theorem watchBoundary_kept (h : Kept r s) : Kept r (watchBoundary s) := by
  refine fadeStart_kept (fadeEnd_kept (.foldl (fun t w k => ?_) h))
  split
  · exact k
  case h_2 st d u hu => exact complete_kept (setMbx_kept id (watchAct_kept k hu))

/-! ## Operations of `Machine.Commit` -/

theorem statNow_kept {committed : Bool} (h : Kept r s) : Kept r (statNow committed s) :=
  smbCopy_kept (setTick_kept h)

theorem ringStopNow_kept (h : Kept r s) : Kept r (ringStopNow s) :=
  Kept.ite (finish_kept (h.trans ⟨id, rfl, rfl⟩)) h

theorem readBuild_kept {l : MList} (h : Kept r s) : Kept r (readBuild l s) :=
  fmScan_kept h

theorem commitPoint_kept (h : Kept r s) : Kept r (commitPoint s) := by
  unfold commitPoint
  split
  · exact h
  · exact .ite h (statNow_kept (ringStopNow_kept (watchCommit_kept (postTick_kept (setBus_kept (draw_kept (setTick_kept (.ite
      (readBuild_kept h) h))))))))

/-! ## Operations of `Machine.Edge` -/

theorem tickCounts_kept (h : Kept r s) : Kept r (tickCounts s) :=
  Kept.unless (fun k => .when (fun k => raiseInt_kept (by decide) (setTick_kept k)) (setTick_kept k)) (setTick_kept h)

theorem advance_kept (h : Kept r s) : Kept r (advance s) :=
  setTick_kept h

theorem feEdge_kept {i : TickIn} (h : Kept r s) : Kept r (feEdge i s) :=
  advance_kept (setFe_kept (feTickEnd_kept (tickCounts_kept (choiceEdge_kept h))))

theorem readPower_kept {i : TickIn} (h : Kept r s) : Kept r (readPower i s) :=
  setPower_kept h

theorem edgePhase_kept {i : TickIn} (h : Kept r s) : Kept r (edgePhase i s) :=
  Kept.when (fun k => .ite (sourceEdge_kept k) (sourceMissed_kept k)) (.ite (setTick_kept h) h)

theorem tickOutRise_kept (h : Kept r s) : Kept r (tickOutRise s) :=
  setTick_kept h

theorem forceNow_kept (h : Kept r s) : Kept r (forceNow s) := by
  unfold forceNow
  exact finish_kept (setTick_kept h)

theorem linkEdge_kept (h : Kept r s) : Kept r (linkEdge s) :=
  planTick_kept (setLinks_kept (.ite (setTick_kept h) h))

theorem tickEdge_kept {i : TickIn} (h : Kept r s) : Kept r (tickEdge i s) :=
  Kept.ite h (.when statNow_kept (forceNow_kept (edgePhase_kept (tickOutRise_kept (setTick_kept (linkEdge_kept (resetScope_kept
    (cancelOutstanding_kept (feEdge_kept (readPower_kept (watchEdge_kept (settleSets_kept h))))))))))))

theorem feFreeRunTick_kept {i : TickIn} (h : Kept r s) : Kept r (feFreeRunTick i s) :=
  Kept.ite h (setBus_kept (setTick_kept (feEdge_kept h)))

/-! ## Operations of `Machine.Frame` -/

theorem selQueue_kept {f : BootSel → BootSel} (h : Kept r s) : Kept r (selQueue f s) :=
  recQueue_kept h

theorem finishFences_kept (h : Kept r s) : Kept r (finishFences s) := by
  unfold finishFences
  exact setMbx_kept id (finish_kept h)

theorem fenceBoundary_kept {lead : Nat} (h : Kept r s) : Kept r (fenceBoundary lead s) := by
  unfold fenceBoundary
  refine .when finishFences_kept ?_
  refine .unless (fun k => raiseInt_kept (by decide) (changeF_kept k)) ?_
  refine setMbx_kept id ?_
  refine .foldl (fun _ _ k => ?_) h
  split
  · exact logEvent_kept k
  · exact k

theorem autoFence_kept (h : Kept r s) : Kept r (autoFence s) :=
  Kept.foldl (fun _ _ k => .when (fun k => selQueue_kept (setSeq_kept k)) (logEvent_kept k)) (setBoot_kept id h)

theorem governor_kept {changed : Bool} {cur lead : Nat} (h : Kept r s) : Kept r (governor changed cur lead s) :=
  changeTier_kept (setPower_kept h)

theorem trimCore_kept (h : Kept r s) : Kept r (trimCore s) :=
  draw_kept (setPower_kept h)

theorem governorSet_kept (h : Kept r s) : Kept r (governorSet s) := by
  unfold governorSet
  exact finish_kept (setPower_kept h)

theorem policySet_kept (h : Kept r s) : Kept r (policySet s) := by
  unfold policySet
  exact finish_kept (setBoot_kept id h)

theorem newPeriod_kept {period : Nat} (h : Kept r s) : Kept r (newPeriod period s) :=
  Kept.ite h (.foldl (fun _ _ k => askReset_kept k) (setTick_kept h))

theorem swapLists_kept {l : MList} (h : Kept r s) : Kept r (swapLists l s) := by
  unfold swapLists
  refine newPeriod_kept ?_
  refine setTick_kept ?_
  refine resetScope_kept ?_
  refine resetScope_kept ?_
  refine resetScope_kept ?_
  refine resetScope_kept ?_
  refine setSeq_kept ?_
  split
  · exact abandonJobs_kept h
  · exact h

theorem watchChange_kept {swap back : Bool} {l : MList} (h : Kept r s) : Kept r (watchChange swap back l s) := by
  unfold watchChange
  split
  · exact h
  · exact .ite h (.ite (watchStop_kept h) (setWatch_kept h))

theorem tilesOff_kept (h : Kept r s) : Kept r (tilesOff s) :=
  setFm_kept id h

theorem polderChange_kept {old new : BitVec 293} (h : Kept r s) : Kept r (polderChange old new s) :=
  retryDown_kept (setPower_kept h)

theorem takeChange_kept {swap : Bool} {l : MList} {sel : Option Nat} (h : Kept r s) : Kept r (takeChange swap l sel s) :=
  finishFences_kept (.when finish_kept (slotStart_kept (polderChange_kept (freshGaps_kept (tilesOff_kept (watchChange_kept (.when (fun k
    => setPower_kept (raiseInt_kept (by decide) k)) (.when (fun k => raiseInt_kept (by decide) k) (.when logEvent_kept (setSeq_kept (.ite
    (swapLists_kept (attnAbandon_kept (cancelOutstanding_kept h))) (abandonJobs_kept (attnAbandon_kept (cancelOutstanding_kept
    h))))))))))))))

theorem scheduleChange_kept (h : Kept r s) : Kept r (scheduleChange s) := by
  unfold scheduleChange
  refine .ite h ?_
  split
  · exact h
  · refine .ite ?_ ?_
    · split
      · exact setSeq_kept h
      · exact .ite (.ite (decideChange_kept (finish_kept (setSeq_kept h))) (finishFences_kept (finish_kept (setSeq_kept h))))
          (takeChange_kept h)
    · split
      · exact finishFences_kept (setSeq_kept h)
      · exact .ite (finishFences_kept (setSeq_kept h)) (takeChange_kept h)

theorem stopList_kept (h : Kept r s) : Kept r (stopList s) := by
  unfold stopList
  refine .when finishFences_kept ?_
  refine finish_kept ?_
  refine retryDown_kept ?_
  refine setPower_kept ?_
  refine tilesOff_kept ?_
  refine setSeq_kept ?_
  split
  · exact abandonJobs_kept (watchStop_kept (attnAbandon_kept (cancelOutstanding_kept h)))
  · exact watchStop_kept (attnAbandon_kept (cancelOutstanding_kept h))

theorem listChanges_kept (h : Kept r s) : Kept r (listChanges s) :=
  Kept.ite (scheduleChange_kept (stopList_kept h)) (.when stopList_kept (scheduleChange_kept h))

theorem sourceTo_kept {code : Nat} (h : Kept r s) : Kept r (sourceTo code s) :=
  realignNow_kept (retrim_kept (setTick_kept (.ite (raiseInt_kept (by decide) (logEvent_kept h)) h)))

theorem rolesNow_kept (h : Kept r s) : Kept r (rolesNow s) := by
  have h1 : ∀ g g' : Links → Links, Kept r (if waiting s (· == .linkMaster) = true then
      finish (· == .linkMaster) .ok 0 (if (setLinks g s).tick.source = 2 then sourceTo (ownSource (setLinks g s)) (setLinks g s) else
        setLinks g s)
      else if s.links.yield_ = true then setLinks g' s else s) :=
    fun _ _ => .ite (finish_kept (.when sourceTo_kept (setLinks_kept h))) (.ite (setLinks_kept h) h)
  exact .ite (sourceTo_kept (h1 _ _)) (.when sourceTo_kept (h1 _ _))

theorem sourceChange_kept (h : Kept r s) : Kept r (sourceChange s) := by
  unfold sourceChange
  split
  · exact h
  · split
    · exact finishFirst_kept (sourceTo_kept (setTick_kept h))
    · exact h

theorem ringChange_kept (h : Kept r s) : Kept r (ringChange s) := by
  unfold ringChange
  split
  · exact h
  · split
    · exact finishFirst_kept (ringStart_kept (setTick_kept (h.trans ⟨id, rfl, rfl⟩)))
    · exact h

theorem seedChange_kept (h : Kept r s) : Kept r (seedChange s) := by
  unfold seedChange
  split
  · exact h
  · split
    · exact finishFirst_kept (setSeq_kept h)
    · exact h

theorem tsqNow_kept (h : Kept r s) : Kept r (tsqNow s) := by
  unfold tsqNow
  split
  · exact h
  · exact .ite (setTick_kept h) (newPeriod_kept (setTick_kept h))

theorem linkBoundary_kept (h : Kept r s) : Kept r (linkBoundary s) := by
  unfold linkBoundary
  exact setMbx_kept id (setLinks_kept (setLinks_kept h))

theorem frameBoundary_kept (h : Kept r s) : Kept r (frameBoundary s) :=
  Kept.ite h (setTrust_kept (emptyRuns_kept (startFrameJobs_kept (attnBoundary_kept (retryBoundary_kept (linkBoundary_kept (setBus_kept
    (busBoundary_kept (watchBoundary_kept (.when watchStop_kept (seedChange_kept (ringChange_kept (retrim_kept (sourceChange_kept
    (rolesNow_kept (.when (fun k => realignNow_kept (setTick_kept k)) (policySet_kept (autoFence_kept (governorSet_kept (trimCore_kept
    (.unless (fun k => governor_kept (fenceBoundary_kept k)) (tsqNow_kept (listChanges_kept (.when (fun k => governor_kept
    (fenceBoundary_kept k)) (resetScope_kept (frameSummary_kept (levelsNow_kept (fadeNext_kept (setTick_kept
    h)))))))))))))))))))))))))))))

theorem bodyTickSetSource_kept {c : Cmd} (h : Kept r s) : Kept r (bodyTickSetSource c s) :=
  Kept.ite (fail_kept h) (.ite (fail_kept h) (.ite (fail_kept h) (.ite (fail_kept h) (waitFor_kept h))))

theorem bodyTringSetup_kept {c : Cmd} (h : Kept r s) : Kept r (bodyTringSetup c s) :=
  Kept.ite (fail_kept h) (.ite (fail_kept h) (waitFor_kept h))

theorem bodyTringStop_kept {c : Cmd} (h : Kept r s) : Kept r (bodyTringStop c s) :=
  Kept.ite (completeOk_kept (h.trans ⟨id, rfl, rfl⟩)) (waitFor_kept h)

theorem bodyTickForceFallback_kept {c : Cmd} (h : Kept r s) : Kept r (bodyTickForceFallback c s) :=
  waitFor_kept h

theorem bodyTickCounters_kept {c : Cmd} (h : Kept r s) : Kept r (bodyTickCounters c s) :=
  completeOk_kept h

theorem bodyDiceSeed_kept {c : Cmd} (h : Kept r s) : Kept r (bodyDiceSeed c s) :=
  Kept.ite (completeOk_kept h) (.ite (fail_kept h) (waitFor_kept h))

theorem tsqWrite_kept {p : WPart} {v : W64} (h : Kept r s) : Kept r (tsqWrite p v s) := by
  unfold tsqWrite
  refine .ite h ?_
  split
  · exact .ite (bump_kept h) (setTick_kept h)

/-! ## Operations of `Machine.Reset` -/

theorem storeCleared_kept (h : Kept r s) : Kept r (setNv (fun v => { mem := v.mem, flips := v.flips }) s) :=
  setNv_kept (fun ⟨hmem, _, _⟩ => ⟨hmem, rfl, fun _ hm => nomatch hm⟩) h

theorem storeSettings_kept {l : Nat} {i a : Bool} (h : Kept r s) :
    Kept r (setNv (fun v => { v with level := l, image := i, autostore := a }) s) :=
  setNv_kept id h

theorem logScan_kept {page : Nat} (h : Kept r s) :
    Kept r (let s4 := (logPages s).foldl (fun t p => nvCheck (pageAddr p) 256 t) (setNv (fun v => { v with logPage := page }) s)
      if s4.nv.image then imgRecall s4 else s4) := by
  have h4 : Kept r ((logPages s).foldl (fun t p => nvCheck (pageAddr p) 256 t) (setNv (fun v => { v with logPage := page }) s)) :=
    .foldl (fun _ _ k => nvCheck_kept k) (setNv_kept id h)
  exact .ite (imgRecall_kept h4) h4

/-- The large states in `storeUp` stay arguments of lemmas here: the kernel must not compare their fields. -/
theorem storeUp_kept (h : Kept r s) : Kept r (storeUp s) := by
  rw [storeUp]
  rcases logNext _ with ⟨page, _⟩
  refine logScan_kept ?_
  split
  · exact storeSettings_kept (.foldl (fun _ _ k => recPickNow_kept k) (nvCheck_kept (nvCheck_kept (storeCleared_kept h))))
  · exact .foldl (fun _ _ k => recPickNow_kept k) (nvCheck_kept (nvCheck_kept (storeCleared_kept h)))

theorem frontEndTaken_kept {fe : FrontEnd} {bus : Bus} {links : Links} {trust : Trust} {sel : BootSel} {n : W32} (h : Kept r s) :
    Kept r { s with fe := fe, bus := bus, links := links, trust := trust, boot := { s.boot with sel := sel, logSeq := n } } :=
  h.trans ⟨id, rfl, rfl⟩

theorem frontEndCleared_kept {power : Bool} (h : Kept r s) :
    Kept r (if power then { s with tick := {}, ctr := [], smb := {} } else { s with smb := {} }) :=
  .ite (h.trans ⟨id, rfl, rfl⟩) (h.trans ⟨id, rfl, rfl⟩)

theorem frontEndUp_kept {src : ResetSrc} {power : Bool} (h : Kept r s) : Kept r (frontEndUp src power s) := by
  rw [frontEndUp]
  exact frontEndTaken_kept (storeUp_kept (setBus_kept (frontEndCleared_kept (computeReset_kept h))))

theorem fePowerOn_kept (h : Kept r s) : Kept r (fePowerOn s) :=
  frontEndUp_kept h

theorem powerFailDetect_kept (h : Kept r s) : Kept r (powerFailDetect s) := by
  unfold powerFailDetect
  extract_lets s1 s2 s3 s4 s5
  have h2 : Kept r s2 := setNv_kept id (logEvent_kept h)
  clear_value s2
  have h4 : Kept r s4 := setBus_kept (h2.trans ⟨id, rfl, rfl⟩)
  clear_value s4
  exact .ite h (computeReset_kept (.ite (imgStoreStart_kept h4) h4))

theorem failSequence_kept (h : Kept r s) : Kept r (failSequence s) := by
  unfold failSequence
  extract_lets s1 s2
  have h2 : Kept r s2 := setNv_kept id (.foldl (fun _ _ k => nvPut_kept k) h)
  clear_value s2
  split
  · exact imgStoreDo_kept h2
  · exact h2

theorem supplyReturn_kept (h : Kept r s) : Kept r (supplyReturn s) :=
  Kept.ite (frontEndUp_kept (failSequence_kept h)) h

theorem torn_kept {bs : List (Nat × Byte)} (h : Kept r s) : Kept r (torn bs s) :=
  draw_kept (draw_kept (setNv_kept id (nvPut_kept h)))

theorem supplyCollapse_kept (h : Kept r s) : Kept r (supplyCollapse s) := by
  unfold supplyCollapse
  extract_lets s1 s2 s3
  have h1 : Kept r s1 := .foldl (fun _ _ k => torn_kept k) h
  clear_value s1
  have h2 : Kept r s2 := by
    unfold s2
    split
    · exact torn_kept h1
    · exact h1
  clear_value s2
  have h3 : Kept r s3 := setNv_kept (fun ⟨hmem, _, _⟩ => ⟨hmem, rfl, fun _ hm => nomatch hm⟩) h2
  exact .ite h (h3.trans ⟨id, rfl, rfl⟩)

theorem thermalTrip_kept {tj : Int} {ic : Nat} (h : Kept r s) : Kept r (thermalTrip tj ic s) :=
  Kept.ite h (ctrSet_kept (computeReset_kept (logEvent_kept h)))

theorem watchdogExpiry_kept {core at_ : Nat} (h : Kept r s) : Kept r (watchdogExpiry core at_ s) :=
  Kept.ite h (.ite (computeReset_kept (logEvent_kept h)) (setBoot_kept id (logEvent_kept h)))

theorem extestSelect_kept {selected : Bool} (h : Kept r s) : Kept r (extestSelect selected s) :=
  Kept.ite h (.ite (frontEndUp_kept (setBoot_kept id h)) (.when computeReset_kept (setBoot_kept id h)))

theorem bodyDevReset_kept {c : Cmd} (h : Kept r s) : Kept r (bodyDevReset c s) := by
  unfold bodyDevReset
  split
  · exact computeReset_kept h
  · exact frontEndUp_kept h
  · exact fail_kept h

theorem slotScan_kept {b : Bool} (h : Kept r s) : Kept r (slotScan b s) :=
  verifyScan_kept h

theorem slotMark_kept {b ok : Bool} (h : Kept r s) : Kept r (slotMark b ok s) := by
  cases b <;> exact setBoot_kept id h

theorem selWrite_kept {sel : BootSel} (h : Kept r s) : Kept r (selWrite sel s) := by
  unfold selWrite
  split
  · exact draw_kept (.ite (setBoot_kept id (.snd (recWriteNow_kept h) ‹_›)) (.snd (recWriteNow_kept h) ‹_›))

theorem selFlush_kept (h : Kept r s) : Kept r (selFlush s) :=
  Kept.ite (setNv_kept id (selWrite_kept (setNv_kept id h))) h

theorem slotPick_kept (h : Kept r s) : Kept r (slotPick s).2 :=
  Kept.ite2 (.pair (logEvent_kept (selWrite_kept h))) (.ite2 (.pair (selWrite_kept h)) h)

theorem slotSelect_kept (h : Kept r s) : Kept r (slotSelect s).2 := by
  unfold slotSelect
  split
  case h_1 b s0 hpick =>
    have h1 : Kept r (slotScan b s0) := slotScan_kept (.snd (slotPick_kept h) hpick)
    have hbad : Kept r (slotScan (!b) (slotMark b false (slotScan b s0))) := slotScan_kept (slotMark_kept h1)
    exact .ite2 (slotMark_kept h1) (.ite2 (slotMark_kept (selWrite_kept hbad)) (slotMark_kept hbad))

theorem startState_kept (h : Kept r s) : Kept r (startState s) := by
  refine readOwner_kept (setTrust_kept (setPower_kept (draw_kept (setSeq_kept (setMbx_kept (fun ⟨hmem, hint, hen, herr, hwin⟩ => ?_)
    h)))))
  exact ⟨hmem, hint, hen, reserved_and herr, hwin⟩

theorem computeDieStart_kept (h : Kept r s) : Kept r (computeDieStart s) := by
  unfold computeDieStart
  refine .ite h ?_
  extract_lets s1 s2 s3
  have h1 : Kept r s1 := spreadIncr_kept (ctrScan_kept (selFlush_kept h))
  clear_value s1
  have h2 : Kept r s2 := startState_kept (setStage_kept (setBoot_kept id h1))
  clear_value s2
  have h3 : Kept r s3 := .ite h2 (raiseInt_kept (by decide) h2)
  clear_value s3
  split
  case _ slot s4 h4 =>
    have h4 : Kept r s4 := .snd (slotSelect_kept h3) h4
    extract_lets booted s5
    have h5 : Kept r s5 := logEvent_kept h4
    clear_value s5
    split
    · exact haltNow_kept h5
    · exact formAlias_kept (setBoot_kept id h5)

theorem fwStartStage_kept (h : Kept r s) : Kept r (fwStartStage s) :=
  Kept.ite h (setStage_kept (setBoot_kept id h))

theorem syncStage_kept (h : Kept r s) : Kept r (syncStage s) :=
  Kept.ite h (setStage_kept (linksOn_kept (setLinks_kept (setTick_kept (setSeq_kept (.foldl (fun _ _ k => logEvent_kept k) h))))))

theorem bootFlashWrite_kept {slot off : Nat} {data : List Byte} (h : Kept r s) : Kept r (bootFlashWrite slot off data s) :=
  Kept.ite h (slotMark_kept (setBoot_kept (memWf_foldl_memWrite _ _ _ _) h))

/-! ## Operations of `Machine.Service` -/

theorem bodyFwInfo_kept {c : Cmd} (h : Kept r s) : Kept r (bodyFwInfo c s) :=
  completeOk_kept h

theorem bodyFwWrite_kept {c : Cmd} (h : Kept r s) : Kept r (bodyFwWrite c s) :=
  Kept.ite (fail_kept h) (.ite (fail_kept h) (completeOk_kept (slotMark_kept (setBoot_kept
    (fun hm => memWf_memWriteN _ _ _ (memWf_memClear _ _ hm)) h))))

theorem bodyFwVerify_kept {c : Cmd} (h : Kept r s) : Kept r (bodyFwVerify c s) := by
  unfold bodyFwVerify
  extract_lets b s1
  have h1 : Kept r s1 := slotScan_kept h
  clear_value s1
  split
  · exact fail_kept h1
  · exact waitFor_kept (selQueue_kept (slotMark_kept h1))

theorem bodyFwActivate_kept {c : Cmd} (h : Kept r s) : Kept r (bodyFwActivate c s) := by
  unfold bodyFwActivate
  extract_lets b live s1
  have h1 : Kept r s1 := .ite (slotScan_kept h) h
  clear_value s1
  refine .ite (fail_kept h) (.ite (fail_kept h) (.ite (fail_kept h) ?_))
  split
  · exact fail_kept h1
  · exact waitFor_kept (selQueue_kept h1)

theorem bodyFwConfirm_kept {c : Cmd} (h : Kept r s) : Kept r (bodyFwConfirm c s) :=
  Kept.ite (fail_kept h) (waitFor_kept (selQueue_kept h))

theorem liveHandover_kept (h : Kept r s) : Kept r (liveHandover s) :=
  Kept.ite h (finish_kept (formAlias_kept (setBoot_kept id (logEvent_kept h))))

theorem dramResume_kept {w : Wait} (h : Kept r s) : Kept r (dramResume w s) := by
  unfold dramResume
  split
  · exact bodyMlLoad_kept (setMbx_kept id h)
  · exact bodyWatchSetup_kept (setMbx_kept id h)
  · exact bodyKvPoolSetup_kept (setMbx_kept id h)
  · exact bodyKvClose_kept (setMbx_kept id h)

theorem dramWake_kept (h : Kept r s) : Kept r (dramWake s) :=
  Kept.foldl (fun _ _ k => dramResume_kept k) (barGo_kept h)

theorem polderUpDone_kept {p at_ : Nat} (h : Kept r s) : Kept r (polderUpDone p at_ s) :=
  Kept.when dramWake_kept (polderComesUp_kept h)

theorem bodyFence_kept {c : Cmd} (h : Kept r s) : Kept r (bodyFence c s) :=
  Kept.ite (fail_kept h) (.ite (fail_kept h) (.ite (fail_kept h) (waitFor_kept (.when selQueue_kept (setSeq_kept h)))))

theorem bodyFencePolicy_kept {c : Cmd} (h : Kept r s) : Kept r (bodyFencePolicy c s) :=
  Kept.ite (fail_kept h) (waitFor_kept h)

theorem bodyLogRead_kept {c : Cmd} (h : Kept r s) : Kept r (bodyLogRead c s) :=
  Kept.ite (fail_kept h) (completeOk_kept (hostWrite_kept (.ite (.foldl (fun _ _ k => nvCheck_kept k) h) h)))

theorem bodyCounterDump_kept {c : Cmd} (h : Kept r s) : Kept r (bodyCounterDump c s) :=
  completeOk_kept (hostWrite_kept h)

theorem recordInForce_kept {r₀ : RecId} {body : List Byte} (h : Kept r s) : Kept r (recordInForce r₀ body s) := by
  unfold recordInForce
  split
  · exact calWritten_kept h
  · exact calWritten_kept h
  · exact .unless (fun k => setMbx_kept id k) (setBoot_kept id h)
  · exact identInForce_kept h
  · exact .when imgRecall_kept (setNv_kept id h)
  · exact h

theorem recordDone_kept {r₀ : RecId} {st : Status} (h : Kept r s) : Kept r (recordDone r₀ st s) := by
  unfold recordDone
  split
  · exact finishFirst_kept h
  · exact finishFirst_kept h
  · exact .ite h (finish_kept h)

theorem recPagesEnd_kept {x : RecRun} (h : Kept r s) : Kept r (recPagesEnd x s) :=
  Kept.foldl (fun _ _ k => nvWear_kept (nvPut_kept k)) (setNv_kept id h)

theorem recordWrite_kept {id : RecId} {oks : List Bool} (h : Kept r s) : Kept r (recordWrite id oks s) := by
  unfold recordWrite
  refine .ite h ?_
  split
  · exact h
  · refine .ite h ?_
    extract_lets s0
    have h0 : Kept r s0 := recPagesEnd_kept (setNv_kept (fun hv => hv) h)
    clear_value s0
    split
    case _ ok s1 hs1 =>
      have h1 : Kept r s1 := .snd (recAttempts_kept h0) hs1
      exact ctrGoAll_kept (recStart_kept (nvPump_kept (nvServeReads_kept
        (.ite (recordDone_kept (recordInForce_kept h1)) (recordDone_kept (calFailed_kept h1))))))

theorem logPageProgram_kept (h : Kept r s) : Kept r (logPageProgram s) :=
  Kept.ite h (nvSubmit_kept (setNv_kept id h))

/-! ## Operations of `Machine.Doorbell` -/

theorem bodyServiceGroup_kept {op : Nat} {body : Cmd → State → State} {c : Cmd} (e : bodyServiceGroup op = some body) (h : Kept r s) :
    Kept r (body c s) := by
  unfold bodyServiceGroup at e
  split at e
  · cases e; exact bodyHello_kept h
  · cases e; exact bodyEcho_kept h
  · cases e; exact bodyDevInfo_kept h
  · cases e; exact bodyDevStatus_kept h
  · cases e; exact bodyCmdIndex_kept h
  · cases e; exact bodyDevReset_kept h
  · cases e

theorem bodyFirmwareGroup_kept {op : Nat} {body : Cmd → State → State} {c : Cmd} (e : bodyFirmwareGroup op = some body) (h : Kept r s) :
    Kept r (body c s) := by
  unfold bodyFirmwareGroup at e
  split at e
  · cases e; exact bodyFwInfo_kept h
  · cases e; exact bodyFwWrite_kept h
  · cases e; exact bodyFwVerify_kept h
  · cases e; exact bodyFwActivate_kept h
  · cases e; exact bodyFwConfirm_kept h
  · cases e; exact bodyMlLoad_kept h
  · cases e; exact bodyMlStart_kept h
  · cases e; exact bodyMlStop_kept h
  · cases e; exact bodyMlStatus_kept h
  · cases e

theorem bodyTickGroup_kept {op : Nat} {body : Cmd → State → State} {c : Cmd} (e : bodyTickGroup op = some body) (h : Kept r s) :
    Kept r (body c s) := by
  unfold bodyTickGroup at e
  split at e
  · cases e; exact bodyTickSetSource_kept h
  · cases e; exact bodyTringSetup_kept h
  · cases e; exact bodyTringStop_kept h
  · cases e; exact bodyTickForceFallback_kept h
  · cases e; exact bodyTickCounters_kept h
  · cases e; exact bodyDiceSeed_kept h
  · cases e

theorem bodyFrontEndGroup_kept {op : Nat} {body : Cmd → State → State} {c : Cmd} (e : bodyFrontEndGroup op = some body) (h : Kept r s) :
    Kept r (body c s) := by
  unfold bodyFrontEndGroup at e
  split at e
  · cases e; exact bodyFeRoute_kept h
  · cases e; exact bodyFeSource_kept h
  · cases e; exact bodyFeRange_kept h
  · cases e; exact bodyFeCmWindow_kept h
  · cases e; exact bodyFeCurve_kept h
  · cases e; exact bodyFeCalRead_kept h
  · cases e; exact bodyFeCalWrite_kept h
  · cases e; exact bodyFeStatus_kept h
  · cases e; exact bodyChChain_kept h
  · cases e; exact bodyChEvent_kept h
  · cases e; exact bodyChFirLoad_kept h
  · cases e; exact bodyChFirSwap_kept h
  · cases e; exact bodyChFirAbort_kept h
  · cases e; exact bodyApply_kept h
  · cases e; exact bodyDiscard_kept h
  · cases e; exact bodyChReset_kept h
  · cases e; exact bodyChState_kept h
  · cases e

theorem bodyWatchGroup_kept {op : Nat} {body : Cmd → State → State} {c : Cmd} (e : bodyWatchGroup op = some body) (h : Kept r s) :
    Kept r (body c s) := by
  unfold bodyWatchGroup at e
  split at e
  · cases e; exact bodyWatchSetup_kept h
  · cases e; exact bodyWatchStart_kept h
  · cases e; exact bodyWatchStop_kept h
  · cases e; exact bodyWatchFreeze_kept h
  · cases e; exact bodyWatchThaw_kept h
  · cases e; exact bodyWatchParams_kept h
  · cases e; exact bodyWatchRelearn_kept h
  · cases e; exact bodyWatchRollback_kept h
  · cases e; exact bodyWatchStatus_kept h
  · cases e; exact bodyWatchExport_kept h
  · cases e; exact bodyWatchImport_kept h
  · cases e; exact bodyWatchReportRing_kept h
  · cases e

theorem bodyKvGroup_kept {op : Nat} {body : Cmd → State → State} {c : Cmd} (e : bodyKvGroup op = some body) (h : Kept r s) :
    Kept r (body c s) := by
  unfold bodyKvGroup at e
  split at e
  · cases e; exact bodyKvPoolSetup_kept h
  · cases e; exact bodyKvOpen_kept h
  · cases e; exact bodyKvClose_kept h
  · cases e; exact bodyKvAppend_kept h
  · cases e; exact bodyKvRefill_kept h
  · cases e; exact bodyKvStatus_kept h
  · cases e; exact bodyAttnRun_kept h
  · cases e; exact bodyAttnCancel_kept h
  · cases e; exact bodyAttnInfo_kept h
  · cases e

theorem bodyNvGroup_kept {op : Nat} {body : Cmd → State → State} {c : Cmd} (e : bodyNvGroup op = some body) (h : Kept r s) :
    Kept r (body c s) := by
  unfold bodyNvGroup at e
  split at e
  · cases e; exact bodyNvRead_kept h
  · cases e; exact bodyNvWrite_kept h
  · cases e; exact bodyNvStatus_kept h
  · cases e; exact bodyNvCtr_kept h
  · cases e; exact bodyNvProtect_kept h
  · cases e; exact bodyNvMode_kept h
  · cases e; exact bodyNvImgStore_kept h
  · cases e; exact bodyNvImgRecall_kept h
  · cases e

theorem bodyLinkGroup_kept {op : Nat} {body : Cmd → State → State} {c : Cmd} (e : bodyLinkGroup op = some body) (h : Kept r s) :
    Kept r (body c s) := by
  unfold bodyLinkGroup at e
  split at e
  · cases e; exact bodyLinkIdent_kept h
  · cases e; exact bodyLinkState_kept h
  · cases e; exact bodyLinkAdmin_kept h
  · cases e; exact bodyLinkMaster_kept h
  · cases e; exact bodyLinkPing_kept h
  · cases e

theorem bodyFieldBusGroup_kept {op : Nat} {body : Cmd → State → State} {c : Cmd} (e : bodyFieldBusGroup op = some body) (h : Kept r s) :
    Kept r (body c s) := by
  unfold bodyFieldBusGroup at e
  split at e
  · cases e; exact bodyFbPort_kept h
  · cases e; exact bodyFbFilter_kept h
  · cases e; exact bodyFbReports_kept h
  · cases e; exact bodyFbSend_kept h
  · cases e; exact bodyFbRxRing_kept h
  · cases e; exact bodyFbStatus_kept h
  · cases e; exact bodyHoConfig_kept h
  · cases e; exact bodyHoStatus_kept h
  · cases e

theorem bodyPowerGroup_kept {op : Nat} {body : Cmd → State → State} {c : Cmd} (e : bodyPowerGroup op = some body) (h : Kept r s) :
    Kept r (body c s) := by
  unfold bodyPowerGroup at e
  split at e
  · cases e; exact bodyPwrStatus_kept h
  · cases e; exact bodyPwrGovernor_kept h
  · cases e

theorem bodyTrustGroup_kept {op : Nat} {body : Cmd → State → State} {c : Cmd} (e : bodyTrustGroup op = some body) (h : Kept r s) :
    Kept r (body c s) := by
  unfold bodyTrustGroup at e
  split at e
  · cases e; exact bodyTrustEnrol_kept h
  · cases e; exact bodyTrustCerts_kept h
  · cases e; exact bodyTrustStatus_kept h
  · cases e; exact bodyTrustArbRaise_kept h
  · cases e; exact bodyTrustDebug_kept h
  · cases e

theorem bodyLogGroup_kept {op : Nat} {body : Cmd → State → State} {c : Cmd} (e : bodyLogGroup op = some body) (h : Kept r s) :
    Kept r (body c s) := by
  unfold bodyLogGroup at e
  split at e
  · cases e; exact bodyLogRead_kept h
  · cases e; exact bodyCounterDump_kept h
  · cases e; exact bodyFence_kept h
  · cases e; exact bodyFencePolicy_kept h
  · cases e

theorem bodyOf_kept {op : Nat} {body : Cmd → State → State} {c : Cmd} (e : bodyOf op = some body) (h : Kept r s) : Kept r (body c s) := by
  unfold bodyOf at e
  split at e
  · exact bodyServiceGroup_kept e h
  · exact bodyFirmwareGroup_kept e h
  · exact bodyTickGroup_kept e h
  · exact bodyFrontEndGroup_kept e h
  · exact bodyWatchGroup_kept e h
  · exact bodyKvGroup_kept e h
  · exact bodyNvGroup_kept e h
  · exact bodyLinkGroup_kept e h
  · exact bodyFieldBusGroup_kept e h
  · exact bodyPowerGroup_kept e h
  · exact bodyTrustGroup_kept e h
  · exact bodyLogGroup_kept e h
  · cases e

theorem doorbell_kept {v : W32} (h : Kept r s) : Kept r (doorbell v s) := by
  unfold doorbell
  extract_lets n op c
  split
  case h_1 body hbody => exact deliver_kept (fun _ k => bodyOf_kept hbody k) h
  case h_2 => exact .ite h (.ite (bump_kept h) (fail_kept (takeSlot_kept h)))

theorem msixTableWrite_kept {off : Nat} {v : W32} (h : Kept r s) : Kept r (msixTableWrite off v s) :=
  Kept.ite (.ite (setMbx_kept id h) (msixUnmask_kept h))
    (setMbx_kept (fun ⟨⟨hslots, htable⟩, hrest⟩ => ⟨⟨hslots, memWf_memWriteN _ _ _ htable⟩, hrest⟩) h)

theorem writeWord_kept {off : Nat} {v : W32} (h : Kept r s) : Kept r (writeWord off v s) :=
  Kept.ite (errSumWrite_kept h) (.ite (intStatusWrite_kept h) (.ite (intEnableWrite_kept h) (.ite (doorbell_kept h) (.ite (mbxCqCons_kept
    h) (.ite (ringConsWrite_kept h) (.ite (ringConsWrite_kept h) (.ite (ringConsWrite_kept h) (.ite (msixTableWrite_kept h) h))))))))

theorem writeWide_kept {off : Nat} {p : WPart} {v : W64} (h : Kept r s) (e : writeWide off p v s = some t) : Kept r t := by
  unfold writeWide at e
  extract_lets b at e
  split at e
  · cases e; exact mbxCqWrite_kept h
  · split at e
    · cases e; exact winBaseWrite_kept h
    · split at e
      · cases e; exact tsqWrite_kept h
      · cases e

theorem registerPut_kept {off size : Nat} {v : W64} (h : Kept r s) : Kept r (registerPut off size v s) := by
  unfold registerPut
  extract_lets part t
  split
  case h_1 u hu => exact writeWide_kept h hu
  case h_2 =>
    have ht : Kept r t := writeWord_kept h
    exact .ite (writeWord_kept ht) ht

theorem registerWrite_kept {off size : Nat} {v : W64} {partialBe poisoned : Bool} (h : Kept r s) : Kept r
    (registerWrite off size v partialBe poisoned s) :=
  Kept.ite h (.ite (aerReport_kept h) (.ite (bump_kept h) (registerPut_kept h)))

end Sys2Proof.Machine
end

section
/-! PROOFS. Every command answers and keeps the invariant, the queue and the part; the state at reset. -/

namespace Sys2Proof.Machine
open Sys2Proof Sys2Proof.Safety
variable {r s : State}

/-! ## Every command -/

theorem execRow_kept {i : Instr} {op : Nat} {c : Cmd} (e : mailboxRow i = some (op, c)) (h : Kept r s) :
    ∃ t, exec i s = .next t ∧ Kept r t := by
  obtain ⟨body, hbody, hexec⟩ := row_delivers i op c s e
  exact ⟨_, hexec, deliver_kept (fun _ k => bodyOf_kept hbody k) h⟩

theorem execSet_kept {i : Instr} {f : Nat} {o : SetOpnd} {x : MoveCtx} {w : SetWork} (e : setWork i = some (f, o, x, w)) (h : Kept r s) :
    ∃ t, exec i s = .next t ∧ Kept r t :=
  ⟨_, exec_setWork e s, setWork_kept e h⟩

theorem parentMarkerMissing_kept (h : Kept r s) : ∃ t, exec .parentMarkerMissing s = .next t ∧ Kept r t := by
  refine ⟨_, rfl, .ite h ?_⟩
  split
  · exact setLinks_kept h
  · exact sourceMissed_kept (setLinks_kept h)

/-- Every command answers a next state that is kept. -/
theorem exec_kept (i : Instr) (h : Kept r s) : ∃ t, exec i s = .next t ∧ Kept r t :=
  match i with
  | .hello _ | .echo _ | .devInfo _ | .devStatus _ | .cmdIndex _ | .devReset _ | .fwInfo _ | .fwWrite _ | .fwVerify _
  | .fwActivate _ | .fwConfirm _ => execRow_kept rfl h
  | .liveFirmwareHandover => ⟨_, rfl, liveHandover_kept h⟩
  | .mlLoad _ | .mlStart _ | .mlStop _ | .mlStatus _ | .tickSetSource _ | .tringSetup _ | .tringStop _ | .tickForceFallback _
  | .tickCounters _ | .diceSeed _ | .feRoute _ | .feSource _ | .feRange _ | .feCmWindow _ | .feCurve _ | .feCalRead _
  | .feCalWrite _ | .feStatus _ | .chChain _ | .chEvent _ | .chFirLoad _ | .chFirSwap _ | .chFirAbort _ | .applySet _
  | .discardSet _ | .chReset _ | .chState _ | .watchSetup _ | .watchStart _ | .watchStop _ | .watchFreeze _ | .watchThaw _
  | .watchParams _ | .watchRelearn _ | .watchRollback _ | .watchStatus _ | .watchExport _ | .watchImport _ | .watchReportRing _
  | .kvPoolSetup _ | .kvOpen _ | .kvClose _ | .kvAppend _ | .kvRefill _ | .kvStatus _ | .attnRun _ | .attnCancel _ | .attnInfo _
  | .nvRead _ | .nvWrite _ | .nvStatus _ | .nvCtr _ | .nvProtect _ | .nvMode _ | .nvImgStore _ | .nvImgRecall _ | .linkIdent _
  | .linkState _ | .linkAdmin _ | .linkMaster _ | .linkPing _ | .fbPort _ | .fbFilter _ | .fbReports _ | .fbSend _ | .fbRxRing _
  | .fbStatus _ | .hoConfig _ | .hoStatus _ | .pwrStatus _ | .pwrGovernor _ | .trustEnrol _ | .trustCerts _ | .trustStatus _
  | .trustArbRaise _ | .trustDebug _ | .logRead _ | .counterDump _ | .fence _ | .fencePolicy _ => execRow_kept rfl h
  | .getVersion | .getCapabilities | .negotiateAlgorithms _ _ | .getDigests | .getCertificate _ _ _ => ⟨_, rfl, spdmAnswer_kept h⟩
  | .challenge _ _ | .getMeasurements _ _ => ⟨_, rfl, draw_kept (spdmAnswer_kept h)⟩
  | .smbStage | .smbIdent | .smbSerial | .smbStatus | .smbTick | .smbHealth | .smbAvail | .smbPower | .smbOwner
    => ⟨_, rfl, smbAnswer_kept h⟩
  | .mbxDoorbell _ => ⟨_, rfl, doorbell_kept h⟩
  | .completionPost => ⟨_, rfl, completionPost_kept h⟩
  | .mbxCq _ _ _ => ⟨_, rfl, mbxCqWrite_kept h⟩
  | .mbxCqCons _ => ⟨_, rfl, mbxCqCons_kept h⟩
  | .ringConsumerWrite _ _ => ⟨_, rfl, ringConsWrite_kept h⟩
  | .winBase _ _ => ⟨_, rfl, winBaseWrite_kept h⟩
  | .bar4Read _ _ => ⟨_, rfl, bar4Read_kept h⟩
  | .bar4Write _ _ _ _ => ⟨_, rfl, bar4Write_kept h⟩
  | .errSum _ => ⟨_, rfl, errSumWrite_kept h⟩
  | .intStatus _ => ⟨_, rfl, intStatusWrite_kept h⟩
  | .intEnable _ => ⟨_, rfl, intEnableWrite_kept h⟩
  | .tsqCtl _ _ => ⟨_, rfl, tsqWrite_kept h⟩
  | .latchingRead _ _ => ⟨_, rfl, latchingRead_kept h⟩
  | .registerWrite _ _ _ _ _ => ⟨_, rfl, registerWrite_kept h⟩
  | .tickEdge _ => ⟨_, rfl, tickEdge_kept h⟩
  | .slotStart _ => ⟨_, rfl, slotStart_kept h⟩
  | .feSummaryDelivery _ => ⟨_, rfl, feSummaryDelivery_kept h⟩
  | .sampleDeadline _ => ⟨_, rfl, sampleDeadline_kept h⟩
  | .fineWindow => ⟨_, rfl, fineWindow_kept h⟩
  | .moveIssue _ _ => ⟨_, rfl, moveIssue_kept h⟩
  | .syncWaitSatisfied _ _ | .moveDelayedStart _ _ => ⟨_, rfl, startWaiting_kept h⟩
  | .moveComplete _ _ => ⟨_, rfl, moveComplete_kept h⟩
  | .mm _ _ _ | .mmt _ _ _ => ⟨_, rfl, matMove_kept h⟩
  | .tload _ _ _ => ⟨_, rfl, tloadMove_kept h⟩
  | .drain _ _ _ => ⟨_, rfl, drainMove_kept h⟩
  | .azero _ _ _ => ⟨_, rfl, azeroMove_kept h⟩
  | .vadd _ _ _ | .vsub _ _ _ | .vmul _ _ _ | .vfma _ _ _ | .vscale _ _ _ | .vmax _ _ _ | .vmin _ _ _ | .vabs _ _ _
  | .vclamp _ _ _ | .vcvt _ _ _ | .vcmp _ _ _ | .vsel _ _ _ | .vtrn _ _ _ | .vdiv _ _ _ | .vsqrt _ _ _ | .vrcp _ _ _
  | .vrsqrt _ _ _ | .vexp _ _ _ | .vlog _ _ _ | .vtanh _ _ _ | .vsigm _ _ _ | .vgelu _ _ _ | .vsilu _ _ _ | .vsin _ _ _
  | .vcos _ _ _ | .vrsum _ _ _ | .vrmax _ _ _ | .vrmin _ _ _ | .vrssq _ _ _ | .vargmax _ _ _ | .vlnorm _ _ _ | .vrmsn _ _ _
  | .vsmax _ _ _ | .vadam _ _ _ => ⟨_, rfl, vecWhole_kept h⟩
  | .dma _ _ _ => ⟨_, rfl, dmaIssue_kept h⟩
  | .dmaOwnedAccess _ => ⟨_, rfl, dmaAccess_kept h⟩
  | .linkRsv _ _ _ => ⟨_, rfl, Kept.ite h (setLink_kept h)⟩
  | .pwrUp _ => ⟨_, rfl, pwrUp_kept h⟩
  | .pwrDown _ _ => ⟨_, rfl, startDown_kept h⟩
  | .bankSet _ _ _ _ => ⟨_, rfl, bankSet_kept h⟩
  | .signal _ _ => ⟨_, rfl, addSignal_kept h⟩
  | .barrier _ _ _ _ => ⟨_, rfl, barrier_kept h⟩
  | .step _ _ => ⟨_, rfl, stepRun_kept h⟩
  | .gather _ _ _ | .gatherD _ _ _ => execSet_kept rfl h
  | .gatherDFinalSignal _ => ⟨_, rfl, gatherFinal_kept h⟩
  | .scatter _ _ _ | .scatterAdd _ _ _ | .segReduce _ _ _ | .scan _ _ _ | .sinter _ _ _ | .sunion _ _ _ | .sdiff _ _ _
  | .hprobe _ _ _ | .hinsert _ _ _ | .hclear _ _ _ | .gbucket _ _ _ | .gplace _ _ _ | .nbr _ _ _ => execSet_kept rfl h
  | .twalk _ _ _ => ⟨_, rfl, twalk_kept h⟩
  | .setBudgetEnd _ => ⟨_, rfl, setBudgetEnd_kept h⟩
  | .commitPoint => ⟨_, rfl, commitPoint_kept h⟩
  | .healthPathChoice => ⟨_, rfl, healthChoice_kept h⟩
  | .holdExpiry _ => ⟨_, rfl, holdExpiry_kept h⟩
  | .hoPeriodStart _ => ⟨_, rfl, Kept.ite (setOut_kept h) h⟩
  | .frameBoundary => ⟨_, rfl, frameBoundary_kept h⟩
  | .healthStatePost | .frameDataPost => ⟨_, rfl, Kept.ite (fbRoute_kept h) h⟩
  | .scheduleChange => ⟨_, rfl, scheduleChange_kept h⟩
  | .tickInEdge _ => ⟨_, rfl, Kept.ite (sourceEdge_kept h) h⟩
  | .sourceLoss => ⟨_, rfl, Kept.ite (sourceMissed_kept h) h⟩
  | .holdoverExit => ⟨_, rfl, holdoverExit_kept h⟩
  | .tickMarkerRx _ _ => ⟨_, rfl, tickMarkerRx_kept h⟩
  | .parentMarkerMissing => parentMarkerMissing_kept h
  | .feFreeRunTick _ => ⟨_, rfl, feFreeRunTick_kept h⟩
  | .computeDownDetect => ⟨_, rfl, Kept.ite (setTick_kept h) h⟩
  | .fineOutput _ _ => ⟨_, rfl, fineOutput_kept h⟩
  | .eventActivate _ _ => ⟨_, rfl, eventActivate_kept h⟩
  | .eventDeactivate _ _ => ⟨_, rfl, eventDeactivate_kept h⟩
  | .detectorsStart _ => ⟨_, rfl, detectorsStart_kept h⟩
  | .autoRangeUp _ _ _ => ⟨_, rfl, autoRangeUp_kept h⟩
  | .autoRangeDown _ => ⟨_, rfl, autoRangeDown_kept h⟩
  | .rangeTransientEnd _ => ⟨_, rfl, rangeTransientEnd_kept h⟩
  | .cmFaultEnter _ => ⟨_, rfl, cmEnter_kept h⟩
  | .cmFaultExit _ => ⟨_, rfl, cmExit_kept h⟩
  | .sourceCurrentLimit _ _ => ⟨_, rfl, sourceLimit_kept h⟩
  | .chopReversal _ => ⟨_, rfl, chopReversal_kept h⟩
  | .applyTakesEffect => ⟨_, rfl, applyTakesEffect_kept h⟩
  | .synchronisingReset _ _ => ⟨_, rfl, syncReset_kept h⟩
  | .firSwapStart _ => ⟨_, rfl, firSwapStart_kept h⟩
  | .firFadeEnd _ => ⟨_, rfl, firFadeEnd_kept h⟩
  | .firAbortEffect _ => ⟨_, rfl, firAbortEffect_kept h⟩
  | .calibrationEffect => ⟨_, rfl, calibrationEffect_kept h⟩
  | .fePowerOn => ⟨_, rfl, fePowerOn_kept h⟩
  | .powerFailDetect => ⟨_, rfl, powerFailDetect_kept h⟩
  | .supplyReturn => ⟨_, rfl, supplyReturn_kept h⟩
  | .perstNAssert => ⟨_, rfl, computeReset_kept (setBoot_kept id h)⟩
  | .perstNDeassert => ⟨_, rfl, setBoot_kept id h⟩
  | .functionLevelReset => ⟨_, rfl, Kept.ite h (computeReset_kept h)⟩
  | .railFault => ⟨_, rfl, computeReset_kept h⟩
  | .thermalTrip _ _ => ⟨_, rfl, thermalTrip_kept h⟩
  | .watchdogExpiry _ _ => ⟨_, rfl, watchdogExpiry_kept h⟩
  | .extestSelect _ => ⟨_, rfl, extestSelect_kept h⟩
  | .computeDieStart => ⟨_, rfl, computeDieStart_kept h⟩
  | .dramTrainingEnd _ _ => ⟨_, rfl, dramTrainingEnd_kept h⟩
  | .dramClearEnd => ⟨_, rfl, dramClearEnd_kept h⟩
  | .syncStage => ⟨_, rfl, syncStage_kept h⟩
  | .powerUpGrant _ => ⟨_, rfl, powerUpGrant_kept h⟩
  | .polderUp _ _ => ⟨_, rfl, polderUpDone_kept h⟩
  | .bankReady _ _ _ => ⟨_, rfl, bankReady_kept h⟩
  | .sluiceClosed _ _ => ⟨_, rfl, sluiceClosed_kept h⟩
  | .powerDownAbandon _ _ => ⟨_, rfl, powerDownAbandon_kept h⟩
  | .dramRefresh _ _ => ⟨_, rfl, dramRefresh_kept h⟩
  | .patrolScrub _ => ⟨_, rfl, patrolScrub_kept h⟩
  | .fmCeRewrite _ => ⟨_, rfl, fmCeRewrite_kept h⟩
  | .linkTraining _ _ => ⟨_, rfl, linkTraining_kept h⟩
  | .retrainTimer _ => ⟨_, rfl, Kept.ite (setPhase_kept h) h⟩
  | .linkDown _ _ => ⟨_, rfl, linkDown_kept h⟩
  | .linkUnfence _ => ⟨_, rfl, linkUnfence_kept h⟩
  | .linkStateFloodRx _ _ _ => ⟨_, rfl, linkStateFloodRx_kept h⟩
  | .planIdRx _ _ => ⟨_, rfl, Kept.ite (setLink_kept h) h⟩
  | .flitRx _ _ => ⟨_, rfl, flitRx_kept h⟩
  | .linkAckRx _ _ _ => ⟨_, rfl, linkAckRx_kept h⟩
  | .creditRx _ _ _ => ⟨_, rfl, Kept.ite h (setLink_kept h)⟩
  | .flitSlot _ _ => ⟨_, rfl, flitSlot_kept h⟩
  | .fbFrameRx _ _ => ⟨_, rfl, fbFrameRx_kept h⟩
  | .gptpLoss _ => ⟨_, rfl, Kept.ite (bump_kept (setPort_kept h)) h⟩
  | .fbTransmitOpportunity _ _ => ⟨_, rfl, fbTransmit_kept h⟩
  | .nvProgramEnd _ => ⟨_, rfl, nvProgramEnd_kept h⟩
  | .recordWrite _ _ => ⟨_, rfl, recordWrite_kept h⟩
  | .logPageProgram => ⟨_, rfl, logPageProgram_kept h⟩
  | .operatingMinute => ⟨_, rfl, operatingMinute_kept h⟩
  | .imageStoreEnd => ⟨_, rfl, imageStoreEnd_kept h⟩
  | .watchTransition _ _ => ⟨_, rfl, watchTransition_kept h⟩
  | .trainingTrigger _ => ⟨_, rfl, trainingTrigger_kept h⟩
  | .evaluationTrigger _ => ⟨_, rfl, evaluationTrigger_kept h⟩
  | .promotion => ⟨_, rfl, promotion_kept h⟩
  | .watchFadeStart => ⟨_, rfl, watchFadeStart_kept h⟩
  | .watchFadeEnd => ⟨_, rfl, watchFadeEnd_kept h⟩
  | .conditionReport _ => ⟨_, rfl, conditionReport_kept h⟩
  | .envelopeSigned => ⟨_, rfl, Kept.ite h (envelopeSigned_kept h)⟩
  | .serve _ => ⟨_, rfl, serveStart_kept h⟩
  | .serveEnd _ => ⟨_, rfl, serveEnd_kept h⟩
  | .pageFlush _ _ => ⟨_, rfl, pageFlush_kept h⟩
  | .refillTicketDone => ⟨_, rfl, refillTicketDone_kept h⟩
  | .compaction _ => ⟨_, rfl, compaction_kept h⟩
  | .hostReadCompletion _ _ _ _ => ⟨_, rfl, hostReadCompletion_kept h⟩
  | .bar2Write _ _ _ => ⟨_, rfl, bar2Write_kept h⟩
  | .msixVectorUnmask _ => ⟨_, rfl, msixUnmask_kept h⟩
  | .dramTemperatureReport _ => ⟨_, rfl, Kept.ite h (setDram_kept id h)⟩
  | .vexcToleranceChange _ => ⟨_, rfl, vexcChange_kept h⟩
  | .vhoToleranceChange _ => ⟨_, rfl, setBus_kept h⟩
  | .frontEndSupplyCollapse => ⟨_, rfl, supplyCollapse_kept h⟩
  | .plcaStatusChange _ _ => ⟨_, rfl, Kept.ite (setPort_kept h) h⟩
  | .linkAdminDownEntry => ⟨_, rfl, Kept.ite h (linkAdminDownEntry_kept h)⟩
  | .fwStartStage => ⟨_, rfl, fwStartStage_kept h⟩
  | .bootFlashExternalWrite _ _ _ => ⟨_, rfl, bootFlashWrite_kept h⟩
  | .smbusRejectedTransaction _ _ => ⟨_, rfl, Kept.ite h (.ite (setSmb_kept h) h)⟩

/-- Settles O59: every command answers, and its next state is kept. -/
theorem everyCommandAnswers : Obligations.EveryCommandAnswers := by
  intro i s
  obtain ⟨t, ht, hk⟩ := exec_kept i (.refl s)
  exact ⟨t, ht, hk.pending, hk.part⟩

end Sys2Proof.Machine

namespace Sys2Proof.Machine
open Sys2Proof Sys2Proof.Safety

/-- Settles O58: each command keeps the invariant and the queue that it is run with. -/
theorem invariantKept : Obligations.InvariantKept := by
  intro s t hinv hstep
  unfold step at hstep
  split at hstep
  case h_1 hq => cases hstep; exact ⟨hinv, by simp [hq]⟩
  case h_2 c rest hq =>
    obtain ⟨u, hu, hk⟩ := exec_kept c (.refl { s with pending := rest })
    obtain rfl : u = t := by simpa [hu] using hstep
    exact ⟨hk.inv hinv, by simp [hk.pending, hq]⟩

/-- Settles O1: both cases are the two arms of `step`. -/
theorem stepRunsFrontCommand : Obligations.StepRunsFrontCommand :=
  ⟨fun c rest s h => by simp [step, h], fun s h => by simp [step, h]⟩
/-- Settles O57: the memories are empty, but the store, which holds the bytes of `factoryStore` in ascending order. -/
theorem invariantAtReset : Obligations.InvariantAtReset := by
  have hstore : memWf 0xFF#8 factoryStore = true := by decide +kernel
  exact (inv_iff _).mpr ⟨rfl, rfl, ⟨hstore, rfl, fun _ h => nomatch h⟩, rfl, ⟨⟨rfl, rfl⟩, rfl, rfl, rfl, rfl⟩, rfl⟩

/-- Settles O56: each field of the reset state as the model's constants give it. -/
theorem resetState : Obligations.ResetState :=
  ⟨rfl, rfl, rfl, rfl, rfl, rfl, rfl, rfl, rfl, rfl, rfl, rfl, rfl, rfl, rfl, rfl, rfl, rfl, rfl, rfl, rfl, rfl, rfl, rfl, rfl, rfl, rfl, rfl,
    fun _ => rfl, fun _ => rfl, fun _ => ⟨rfl, rfl, rfl⟩, fun _ => rfl, fun _ => rfl, fun _ => ⟨rfl, rfl⟩⟩

end Sys2Proof.Machine
end

section
/-! PROOFS. The mailbox rows that a check turns away, and the doorbell (R432 to R446). -/

namespace Sys2Proof.Machine
open Sys2Proof Sys2Proof.Safety

/-! ## The opcodes that have a body are those of Table 16-9 -/

theorem bodyServiceGroup_named {op : Nat} {body : Cmd → State → State} (e : bodyServiceGroup op = some body) (c : Cmd) :
    ∃ i, mailboxRow i = some (op, c) := by
  unfold bodyServiceGroup at e
  split at e
  · exact ⟨.hello c, rfl⟩
  · exact ⟨.echo c, rfl⟩
  · exact ⟨.devInfo c, rfl⟩
  · exact ⟨.devStatus c, rfl⟩
  · exact ⟨.cmdIndex c, rfl⟩
  · exact ⟨.devReset c, rfl⟩
  · cases e

theorem bodyFirmwareGroup_named {op : Nat} {body : Cmd → State → State} (e : bodyFirmwareGroup op = some body) (c : Cmd) :
    ∃ i, mailboxRow i = some (op, c) := by
  unfold bodyFirmwareGroup at e
  split at e
  · exact ⟨.fwInfo c, rfl⟩
  · exact ⟨.fwWrite c, rfl⟩
  · exact ⟨.fwVerify c, rfl⟩
  · exact ⟨.fwActivate c, rfl⟩
  · exact ⟨.fwConfirm c, rfl⟩
  · exact ⟨.mlLoad c, rfl⟩
  · exact ⟨.mlStart c, rfl⟩
  · exact ⟨.mlStop c, rfl⟩
  · exact ⟨.mlStatus c, rfl⟩
  · cases e

theorem bodyTickGroup_named {op : Nat} {body : Cmd → State → State} (e : bodyTickGroup op = some body) (c : Cmd) :
    ∃ i, mailboxRow i = some (op, c) := by
  unfold bodyTickGroup at e
  split at e
  · exact ⟨.tickSetSource c, rfl⟩
  · exact ⟨.tringSetup c, rfl⟩
  · exact ⟨.tringStop c, rfl⟩
  · exact ⟨.tickForceFallback c, rfl⟩
  · exact ⟨.tickCounters c, rfl⟩
  · exact ⟨.diceSeed c, rfl⟩
  · cases e

theorem bodyFrontEndGroup_named {op : Nat} {body : Cmd → State → State} (e : bodyFrontEndGroup op = some body) (c : Cmd) :
    ∃ i, mailboxRow i = some (op, c) := by
  unfold bodyFrontEndGroup at e
  split at e
  · exact ⟨.feRoute c, rfl⟩
  · exact ⟨.feSource c, rfl⟩
  · exact ⟨.feRange c, rfl⟩
  · exact ⟨.feCmWindow c, rfl⟩
  · exact ⟨.feCurve c, rfl⟩
  · exact ⟨.feCalRead c, rfl⟩
  · exact ⟨.feCalWrite c, rfl⟩
  · exact ⟨.feStatus c, rfl⟩
  · exact ⟨.chChain c, rfl⟩
  · exact ⟨.chEvent c, rfl⟩
  · exact ⟨.chFirLoad c, rfl⟩
  · exact ⟨.chFirSwap c, rfl⟩
  · exact ⟨.chFirAbort c, rfl⟩
  · exact ⟨.applySet c, rfl⟩
  · exact ⟨.discardSet c, rfl⟩
  · exact ⟨.chReset c, rfl⟩
  · exact ⟨.chState c, rfl⟩
  · cases e

theorem bodyWatchGroup_named {op : Nat} {body : Cmd → State → State} (e : bodyWatchGroup op = some body) (c : Cmd) :
    ∃ i, mailboxRow i = some (op, c) := by
  unfold bodyWatchGroup at e
  split at e
  · exact ⟨.watchSetup c, rfl⟩
  · exact ⟨.watchStart c, rfl⟩
  · exact ⟨.watchStop c, rfl⟩
  · exact ⟨.watchFreeze c, rfl⟩
  · exact ⟨.watchThaw c, rfl⟩
  · exact ⟨.watchParams c, rfl⟩
  · exact ⟨.watchRelearn c, rfl⟩
  · exact ⟨.watchRollback c, rfl⟩
  · exact ⟨.watchStatus c, rfl⟩
  · exact ⟨.watchExport c, rfl⟩
  · exact ⟨.watchImport c, rfl⟩
  · exact ⟨.watchReportRing c, rfl⟩
  · cases e

theorem bodyKvGroup_named {op : Nat} {body : Cmd → State → State} (e : bodyKvGroup op = some body) (c : Cmd) :
    ∃ i, mailboxRow i = some (op, c) := by
  unfold bodyKvGroup at e
  split at e
  · exact ⟨.kvPoolSetup c, rfl⟩
  · exact ⟨.kvOpen c, rfl⟩
  · exact ⟨.kvClose c, rfl⟩
  · exact ⟨.kvAppend c, rfl⟩
  · exact ⟨.kvRefill c, rfl⟩
  · exact ⟨.kvStatus c, rfl⟩
  · exact ⟨.attnRun c, rfl⟩
  · exact ⟨.attnCancel c, rfl⟩
  · exact ⟨.attnInfo c, rfl⟩
  · cases e

theorem bodyNvGroup_named {op : Nat} {body : Cmd → State → State} (e : bodyNvGroup op = some body) (c : Cmd) :
    ∃ i, mailboxRow i = some (op, c) := by
  unfold bodyNvGroup at e
  split at e
  · exact ⟨.nvRead c, rfl⟩
  · exact ⟨.nvWrite c, rfl⟩
  · exact ⟨.nvStatus c, rfl⟩
  · exact ⟨.nvCtr c, rfl⟩
  · exact ⟨.nvProtect c, rfl⟩
  · exact ⟨.nvMode c, rfl⟩
  · exact ⟨.nvImgStore c, rfl⟩
  · exact ⟨.nvImgRecall c, rfl⟩
  · cases e

theorem bodyLinkGroup_named {op : Nat} {body : Cmd → State → State} (e : bodyLinkGroup op = some body) (c : Cmd) :
    ∃ i, mailboxRow i = some (op, c) := by
  unfold bodyLinkGroup at e
  split at e
  · exact ⟨.linkIdent c, rfl⟩
  · exact ⟨.linkState c, rfl⟩
  · exact ⟨.linkAdmin c, rfl⟩
  · exact ⟨.linkMaster c, rfl⟩
  · exact ⟨.linkPing c, rfl⟩
  · cases e

theorem bodyFieldBusGroup_named {op : Nat} {body : Cmd → State → State} (e : bodyFieldBusGroup op = some body) (c : Cmd) :
    ∃ i, mailboxRow i = some (op, c) := by
  unfold bodyFieldBusGroup at e
  split at e
  · exact ⟨.fbPort c, rfl⟩
  · exact ⟨.fbFilter c, rfl⟩
  · exact ⟨.fbReports c, rfl⟩
  · exact ⟨.fbSend c, rfl⟩
  · exact ⟨.fbRxRing c, rfl⟩
  · exact ⟨.fbStatus c, rfl⟩
  · exact ⟨.hoConfig c, rfl⟩
  · exact ⟨.hoStatus c, rfl⟩
  · cases e

theorem bodyPowerGroup_named {op : Nat} {body : Cmd → State → State} (e : bodyPowerGroup op = some body) (c : Cmd) :
    ∃ i, mailboxRow i = some (op, c) := by
  unfold bodyPowerGroup at e
  split at e
  · exact ⟨.pwrStatus c, rfl⟩
  · exact ⟨.pwrGovernor c, rfl⟩
  · cases e

theorem bodyTrustGroup_named {op : Nat} {body : Cmd → State → State} (e : bodyTrustGroup op = some body) (c : Cmd) :
    ∃ i, mailboxRow i = some (op, c) := by
  unfold bodyTrustGroup at e
  split at e
  · exact ⟨.trustEnrol c, rfl⟩
  · exact ⟨.trustCerts c, rfl⟩
  · exact ⟨.trustStatus c, rfl⟩
  · exact ⟨.trustArbRaise c, rfl⟩
  · exact ⟨.trustDebug c, rfl⟩
  · cases e

theorem bodyLogGroup_named {op : Nat} {body : Cmd → State → State} (e : bodyLogGroup op = some body) (c : Cmd) :
    ∃ i, mailboxRow i = some (op, c) := by
  unfold bodyLogGroup at e
  split at e
  · exact ⟨.logRead c, rfl⟩
  · exact ⟨.counterDump c, rfl⟩
  · exact ⟨.fence c, rfl⟩
  · exact ⟨.fencePolicy c, rfl⟩
  · cases e

theorem bodyOf_named {op : Nat} {body : Cmd → State → State} (e : bodyOf op = some body) (c : Cmd) : ∃ i, mailboxRow i = some (op, c) := by
  unfold bodyOf at e
  split at e
  · exact bodyServiceGroup_named e c
  · exact bodyFirmwareGroup_named e c
  · exact bodyTickGroup_named e c
  · exact bodyFrontEndGroup_named e c
  · exact bodyWatchGroup_named e c
  · exact bodyKvGroup_named e c
  · exact bodyNvGroup_named e c
  · exact bodyLinkGroup_named e c
  · exact bodyFieldBusGroup_named e c
  · exact bodyPowerGroup_named e c
  · exact bodyTrustGroup_named e c
  · exact bodyLogGroup_named e c
  · cases e

/-! ## Settled -/

/-- Settles O2: delivery in the cases of an owned slot and of each check that fails first. -/
theorem mailboxRowTurnedAway : Obligations.MailboxRowTurnedAway := by
  intro i op c s hrow hup
  obtain ⟨body, -, hexec⟩ := row_delivers i op c s hrow
  have hboot : (slotTaken c s).boot = s.boot := by cases s; rfl
  have hhello : (slotTaken c s).mbx.hello = s.mbx.hello := by cases s; rfl
  refine ⟨fun howned => by rw [hexec, deliver_owned op body c s hup howned], fun howned => ?_⟩
  have hfails : ∀ st, commandChecks op c (slotTaken c s) = some st → exec i s = .next (completed op c st 0 s) := fun st hst => by
    rw [hexec, deliver_fails op body c s st hup howned hst, fail_taken]
  refine ⟨hfails, fun hlen => ?_, fun hlen hen hcrc => ?_, fun hlen hen htrust => ?_, fun hlen hcrc htrust hgroup hready => ?_⟩
  all_goals apply hfails
  · simp [commandChecks, hlen]
  · simp [commandChecks, hlen, hen, hcrc]
  · simp [commandChecks, hlen, hen, htrust]
  · have hcrc' : (c.crcEn && crc32c (paramBytes c) != c.pcrc) = false := by
      cases hen : c.crcEn <;> simp [hen, hcrc]
    have htrust' : (op / 256 == 0x0A && !c.crcEn) = false := by
      by_cases h : op / 256 = 0x0A <;> simp [h, htrust]
    have hgroup' : (op / 256 != 0) = true := by simpa using hgroup
    rw [commandChecks, if_neg (by omega), if_neg (by simp [hcrc']), if_neg (by simp [htrust']), hgroup', hboot, hhello]
    obtain hstage | hnone := hready
    · simp [hstage]
    · simp [hnone]

/-- Settles O3: the doorbell delivers to the body that its row delivers to; without one it fails with BAD_OPCODE. -/
theorem doorbellRunsNamedRow : Obligations.DoorbellRunsNamedRow := by
  have hexec : ∀ v s, exec (.mbxDoorbell v) s = .next (doorbell v s) := fun _ _ => rfl
  constructor
  · rintro i c v s hrow rfl
    obtain ⟨body, hbody, hi⟩ := row_delivers i _ _ s hrow
    refine ⟨_, hexec v s, ?_⟩
    rw [hi, doorbell, hbody]
  · intro v s hno hup howned
    rw [hexec, doorbell]
    cases hbody : bodyOf (slotOpcode s (v.toNat % 64)) with
    | some body =>
      obtain ⟨i, hi⟩ := bodyOf_named hbody (slotCmd s (v.toNat % 64))
      exact absurd hi (hno i _)
    | none =>
      have hslot : takeSlot (v.toNat % 64) s = slotTaken (slotCmd s (v.toNat % 64)) s := by simp [slotTaken, slotCmd]
      simp only [hup, howned, hslot, fail_taken, Bool.false_eq_true, if_false]

end Sys2Proof.Machine
end

section
/-! PROOFS. A completion is posted (R437, R438). -/

namespace Sys2Proof.Machine
open Sys2Proof Sys2Proof.Safety

/-- Two states that agree in each unit are the same. -/
theorem State.eq_of_fields {s t : State} (part : s.part = t.part) (tick : s.tick = t.tick) (fe : s.fe = t.fe) (mbx : s.mbx = t.mbx)
    (tring : s.tring = t.tring) (rring : s.rring = t.rring) (fring : s.fring = t.fring) (smb : s.smb = t.smb) (seq : s.seq = t.seq)
    (fm : s.fm = t.fm) (dram : s.dram = t.dram) (nv : s.nv = t.nv) (kv : s.kv = t.kv) (watch : s.watch = t.watch)
    (links : s.links = t.links) (bus : s.bus = t.bus) (trust : s.trust = t.trust) (power : s.power = t.power) (boot : s.boot = t.boot)
    (ctr : s.ctr = t.ctr) (host : s.host = t.host) (free : s.free = t.free) (pending : s.pending = t.pending) : s = t := by
  cases s; cases t; simp_all

/-! ## Posting a completion (R437, R438) -/

theorem setMbx_setMbx (f g : Mbx → Mbx) (s : State) : setMbx f (setMbx g s) = setMbx (fun m => f (g m)) s := by cases s; rfl

theorem setMbx_congr {f g : Mbx → Mbx} {s : State} (h : f s.mbx = g s.mbx) : setMbx f s = setMbx g s := by rw [setMbx, setMbx, h]

@[simp] theorem hostWrite_host (a : Nat) (bs : List Byte) (s : State) : (hostWrite a bs s).host = memWriteN 0 s.host a bs := by cases s; rfl

@[simp] theorem leBytes_length (k x : Nat) : (leBytes k x).length = k := by simp [leBytes]

theorem msixSend_eq (v : Nat) (s : State) : ∃ x, msixSend v s = setMbx (fun m => { m with msix := x }) s := by
  unfold msixSend
  exact ⟨_, rfl⟩

/-- The mailbox with an entry posted: `since` and `x` are what the coalescing of interrupts makes of them. -/
def entryPosted (e : Completion) (since : Nat) (x : Msix) (m : Mbx) : Mbx :=
  { m with
    prod := m.prod + 1, since := since, own := m.own &&& ~~~(1#64 <<< e.slot), msix := x
    hello := if e.opcode = 1 ∧ e.status = .ok then some (e.data.setWidth 16) else m.hello }

/-- Posting an entry writes the entry and the producer count into host memory and changes the mailbox. -/
theorem postEntry_eq (e : Completion) (s : State) : ∃ since x, postEntry e s = setMbx (entryPosted e since x)
    (hostWrite (cqField s 191 128) (leBytes 4 (s.mbx.prod + 1).toNat)
      (hostWrite (cqField s 255 192 + 64 * (s.mbx.prod.toNat % 2 ^ cqField s 3 0)) (entryBytes s.tick.no e) s)) := by
  unfold postEntry
  extract_lets at_ s1 p s2 since every due s3
  have hs3 : s3 = setMbx (entryPosted e (if due = true then 0 else since) s.mbx.msix) s2 :=
    setMbx_congr (by rw [hostWrite_mbx, hostWrite_mbx]; rfl)
  split
  · obtain ⟨x, hx⟩ := msixSend_eq (cqField s 69 64) s3
    exact ⟨if due = true then 0 else since, x, by rw [hx, hs3, setMbx_setMbx]; rfl⟩
  · exact ⟨_, s.mbx.msix, hs3⟩

theorem owned_returned (own : BitVec 64) (slot n : Nat) :
    (own &&& ~~~(1#64 <<< slot)).getLsbD n = (own.getLsbD n && !decide (n = slot)) := by
  by_cases hn : n < 64
  · have hbit : (1#64 <<< slot).getLsbD n = decide (n = slot) := by
      rw [BitVec.getLsbD_shiftLeft, BitVec.getLsbD_one]
      simp only [hn, decide_true, Bool.true_and]
      grind
    rw [BitVec.getLsbD_and, BitVec.getLsbD_not, hbit, decide_eq_true hn, Bool.true_and]
  · simp [BitVec.getLsbD_of_ge own n (by omega)]

/-- Settles O5: the first completion is posted; its entry and the producer count are the two writes to host memory. -/
theorem completionPostReturnsSlot : Obligations.CompletionPostReturnsSlot := by
  intro e rest s hdue hen hfull hup hhost
  have hexec : exec .completionPost s = .next (postEntry e (setMbx (fun m => { m with due := rest }) s)) := by
    change Host.Outcome.next (completionPost s) = _
    simp [completionPost, hdue, hen, hfull, hup]
  obtain ⟨since, x, hpost⟩ := postEntry_eq e (setMbx (fun m => { m with due := rest }) s)
  rw [hpost] at hexec
  have hentry : memWf 0 (memWriteN 0 s.host (cqField s 255 192 + 64 * (s.mbx.prod.toNat % 2 ^ cqField s 3 0)) (entryBytes s.tick.no e)) = true :=
    memWf_memWriteN _ _ _ hhost
  simp only [cqField, setMbx_mbx, setMbx_tick] at hentry hexec ⊢
  refine ⟨_, hexec, ?_, ?_, fun n => ?_, ?_, ?_, fun a hcount hbytes => ?_, ?_⟩
  · simp [entryPosted]
  · simp [entryPosted]
  · simpa [entryPosted, owned] using owned_returned s.mbx.own e.slot n
  · simpa only [leBytes_length, hostRead, setMbx_host, hostWrite_host] using
      memReadN_memWriteN 0 (leBytes 4 (s.mbx.prod + 1).toNat) _ (bitsN s.mbx.cq.toNat 191 128) hentry
  · simp [entryPosted]
  · simp only [setMbx_host, hostWrite_host]
    refine (memRead_memWriteN_out 0 _ _ _ _ hentry ?_).trans (memRead_memWriteN_out 0 _ _ _ _ hhost ?_)
    · simpa only [leBytes_length] using hcount
    · simpa only [entryBytes, leBytes_length] using hbytes
  · apply State.eq_of_fields <;> simp

end Sys2Proof.Machine
end

section
/-! PROOFS. Sync objects (R207 to R210) and data from the host (R180, R544). -/

namespace Sys2Proof.Machine
open Sys2Proof Sys2Proof.Safety

/-! ## Sync objects (R207, R210) -/

theorem tabFind_filter {α : Type} (p : Nat × α → Bool) {t : Tab α} {i : Nat} {v : α} (h : tabFind t i = some v) (hp : p (i, v) = true) :
    tabFind (t.filter p) i = some v := by
  induction t with
  | nil => cases h
  | cons e t ih =>
    obtain ⟨k, w⟩ := e
    by_cases hk : i = k
    · subst hk
      obtain rfl : w = v := by simpa [tabFind] using h
      simp [tabFind, hp]
    · have hne : (i == k) = false := by simp [hk]
      have ih' := ih (by simpa [tabFind, List.lookup, hne] using h)
      cases hkw : p (k, w) <;> simpa [tabFind, List.lookup, hne, hkw] using ih'

/-- A sync object after n signals of its epoch. -/
def signalled (n : Nat) (x : Sync) : Sync := { x with count := min 65535 (x.count + n), hits := x.hits + 1 }

/-- A signal in the object's own epoch raises its count, and the engines whose target it reaches go on. -/
theorem addSignal_current {n : Nat} (obj : Nat) (s : State) (hn : n ≠ 0) : addSignal obj n (syncOf s obj).epoch s =
    releaseBarriers (setSeq (fun q => { q with sync := tabSet q.sync obj (signalled n (syncOf s obj)) }) s) := by
  simp [addSignal, hn, signalled]

@[simp] theorem syncOf_releaseBarriers (s : State) (o : Nat) : syncOf (releaseBarriers s) o = syncOf s o := by
  simp [syncOf, releaseBarriers]

theorem releaseBarriers_barriers (s : State) : (releaseBarriers s).seq.barriers =
    s.seq.barriers.filter fun b => decide ((syncOf s b.2.1).count < b.2.2) := by
  cases s; rfl

theorem syncOf_addSignal_self {n : Nat} (obj : Nat) (s : State) (hn : n ≠ 0) :
    syncOf (addSignal obj n (syncOf s obj).epoch s) obj = signalled n (syncOf s obj) := by
  rw [addSignal_current obj s hn, syncOf_releaseBarriers]; simp [syncOf]

theorem syncOf_addSignal_ne {n o : Nat} (obj : Nat) (s : State) (hn : n ≠ 0) (h : o ≠ obj) :
    syncOf (addSignal obj n (syncOf s obj).epoch s) o = syncOf s o := by
  rw [addSignal_current obj s hn, syncOf_releaseBarriers]; simp [syncOf, tabGet_tabSet_ne _ _ _ h]

/-- A signal changes the sync objects and the engines held. -/
theorem addSignal_frame {n : Nat} (obj : Nat) (s : State) (hn : n ≠ 0) : addSignal obj n (syncOf s obj).epoch s = { s with
    seq := { s.seq with
      sync := (addSignal obj n (syncOf s obj).epoch s).seq.sync, barriers := (addSignal obj n (syncOf s obj).epoch s).seq.barriers } } := by
  rw [addSignal_current obj s hn]; apply State.eq_of_fields <;> simp [releaseBarriers]

/-- Settles O22: a signal and the release of the engines it brings; a barrier holds its engine and signals. -/
theorem signalsAndBarriers : Obligations.SignalsAndBarriers := by
  refine ⟨fun obj n s hn => ?_, fun obj s => ?_, fun engine obj tgt at_ s => ?_⟩
  · refine ⟨_, rfl, ?_, ?_, fun o ho => syncOf_addSignal_ne obj s hn ho, fun b hb => ?_, addSignal_frame obj s hn⟩
    · rw [syncOf_addSignal_self obj s hn]; rfl
    · rw [syncOf_addSignal_self obj s hn]; rfl
    · rw [addSignal_current obj s hn] at hb ⊢
      rw [releaseBarriers_barriers] at hb
      simpa using (List.mem_filter.mp hb).2
  · change Host.Outcome.next (addSignal obj 0 (syncOf s obj).epoch s) = _
    simp [addSignal]
  · let u := setSeq (fun q => { q with barriers := tabSet q.barriers engine (obj, tgt) }) s
    have hu : ∀ o, syncOf u o = syncOf s o := fun o => by simp [u, syncOf]
    have hexec : exec (.barrier engine obj tgt at_) s = .next (releaseBarriers (addSignal obj 1 (syncOf u obj).epoch u)) := by
      rw [hu]; rfl
    have hcount : (syncOf (addSignal obj 1 (syncOf u obj).epoch u) obj).count = min 65535 ((syncOf s obj).count + 1) := by
      rw [syncOf_addSignal_self obj u one_ne_zero, hu]; rfl
    have hbar : (addSignal obj 1 (syncOf u obj).epoch u).seq.barriers =
        (tabSet s.seq.barriers engine (obj, tgt)).filter fun b =>
          decide ((syncOf (addSignal obj 1 (syncOf u obj).epoch u) b.2.1).count < b.2.2) := by
      rw [addSignal_current obj u one_ne_zero, releaseBarriers_barriers]; simp [u]
    refine ⟨_, hexec, ?_, fun o ho => ?_, fun hlt => ?_, fun hle => ?_, ?_⟩
    · rw [syncOf_releaseBarriers, hcount]
    · rw [syncOf_releaseBarriers, syncOf_addSignal_ne obj u one_ne_zero ho, hu]
    · rw [releaseBarriers_barriers, hbar]
      have hp : decide ((syncOf (addSignal obj 1 (syncOf u obj).epoch u) obj).count < tgt) = true := by rw [hcount]; exact decide_eq_true hlt
      exact tabFind_filter _ (tabFind_filter _ (tabFind_tabSet_self _ _ _) hp) hp
    · rw [releaseBarriers_barriers]
      intro hmem
      have hlt := (List.mem_filter.mp hmem).2
      simp only [hcount, decide_eq_true_eq] at hlt
      omega
    · rw [addSignal_current obj u one_ne_zero]; apply State.eq_of_fields <;> simp [releaseBarriers, u]

/-! ## Data from the host (R180, R544) -/

theorem chunks_hostData (off : Nat) (data : List Byte) (pz : List Bool) (x : Xfer) (i : Nat) (c : Chunk) (h : x.chunks[i]? = some c) :
    (hostData off data pz x).chunks[i]? = some (if brings off data.length c then
      { c with
        data := some ((data.drop (c.off - off)).take c.len)
        poison := (List.range ((c.len + 7) / 8)).map fun i =>
          if nth pz ((c.off - off) / 8 + i) false then (if x.dstKind == .dram then 2 else 1) else 0 } else c) := by
  simp [hostData, h]

theorem nth_map_range {α : Type} (f : Nat → α) (d : α) {n j : Nat} (h : j < n) : nth ((List.range n).map f) j d = f j := by
  simp [nth, h]

theorem brings_iff (off n : Nat) (c : Chunk) : brings off n c = true ↔ c.data = none ∧ off ≤ c.off ∧ c.off + c.len ≤ off + n := by
  simp [brings]

/-- A transfer after a completion: its pieces filled where it is the one named and the buffers have room. -/
def arrived (id off : Nat) (data : List Byte) (pz : List Bool) (s : State) (x : Xfer) : Xfer :=
  if x.id = id && x.srcKind == .host && hostRoom s x off data.length then hostData off data pz x else x

/-- Settles O52: each transfer is mapped by itself, and each of its pieces. -/
theorem hostReadsArrive : Obligations.HostReadsArrive := by
  intro id off data pz s hup
  have hexec : exec (.hostReadCompletion id off data pz) s =
      .next (setFm (fun m => { m with xfers := m.xfers.map (arrived id off data pz s) }) s) := by
    change Host.Outcome.next (hostReadCompletion id off data pz s) = _
    rw [hostReadCompletion, hup]; rfl
  refine ⟨_, hexec, by simp, fun k x hx => ?_, by cases s; rfl⟩
  refine ⟨arrived id off data pz s x, by simp [hx], ?_, fun hnot => ?_, fun hid hkind hroom => ?_⟩
  · unfold arrived
    split <;> rfl
  · rw [arrived, if_neg]
    simpa [not_and_or, or_assoc, -not_and] using hnot
  · rw [arrived, if_pos (by simp [hid, hkind, hroom])]
    refine ⟨by simp [hostData], fun i c hc => ⟨_, chunks_hostData off data pz x i c hc, ?_⟩⟩
    by_cases hb : brings off data.length c = true
    · rw [if_pos ((brings_iff _ _ _).mp hb), if_pos hb]
      refine ⟨rfl, fun j hj => ?_⟩
      have hbit : (if x.dstKind == .dram then 2 else 1 : BitVec 8) ≠ 0 := by split <;> decide
      rw [nth_map_range _ _ hj]
      split
      case isTrue h => exact ⟨fun _ => h, fun _ => hbit⟩
      case isFalse h => exact ⟨fun h0 => absurd rfl h0, fun h1 => absurd h1 h⟩
    · rw [if_neg (fun h => hb ((brings_iff _ _ _).mpr h)), if_neg hb]

end Sys2Proof.Machine
end

section
/-! PROOFS. Counters (R520, R526) and the registers of BAR0 (R428, R435, R520 to R524). -/

namespace Sys2Proof.Machine
open Sys2Proof Sys2Proof.Safety

/-! ## Counters (R520, R526) -/

theorem ctrGet_raiseErr (b off : Nat) (s : State) : ctrGet (raiseErr b s) off = ctrGet s off := by simp [ctrGet]

/-- A counter that rises by n, in any group. -/
theorem ctrGet_bumpBy_self (off n : Nat) (s : State) :
    (ctrGet (bumpBy off n s) off).toNat = min (2 ^ 32 - 1) ((ctrGet s off).toNat + n) := by
  unfold bumpBy
  split
  case isTrue h => have := (ctrGet s off).isLt; omega
  case isFalse =>
    have hset := congrArg BitVec.toNat (ctrGet_ctrSet_self off (BitVec.ofNat 32 (min (2 ^ 32 - 1) ((ctrGet s off).toNat + n))) s)
    rw [toNat_ofNat_saturated] at hset
    dsimp only
    split
    · rw [ctrGet_raiseErr]; exact hset
    · exact hset

theorem ctrGet_bumpBy_ne {off o : Nat} (n : Nat) (s : State) (h : o ≠ off) : ctrGet (bumpBy off n s) o = ctrGet s o := by
  unfold bumpBy
  split
  · rfl
  · dsimp only
    split
    · rw [ctrGet_raiseErr]; exact ctrGet_ctrSet_ne _ s h
    · exact ctrGet_ctrSet_ne _ s h

theorem computeDown_ctrSet (off : Nat) (v : W32) (s : State) : computeDown (ctrSet off v s) = computeDown s := by cases s; rfl

/-- Settles O10: the counter, the bit of its group and every other counter after `bump`. -/
theorem counterRises : Obligations.CounterRises := by
  intro off b s hb hup
  refine ⟨ctrGet_bumpBy_self off 1 s, ?_, fun o ho => ctrGet_bumpBy_ne 1 s ho⟩
  simp only [bump, bumpBy, hb, one_ne_zero, if_false]
  rw [raiseErr_errSum b _ (by rw [computeDown_ctrSet, hup]), ctrSet_mbx]

/-! ## Registers of BAR0 (R428, R435, R520 to R524) -/

theorem placed_cons (a : Nat) (b : Byte) (bs : List Byte) : placed a (b :: bs) = (a, b) :: placed (a + 1) bs := by
  simp only [placed, List.length_cons, List.range_succ_eq_map, List.map_cons, List.map_map, Nat.add_zero]
  refine congrArg₂ _ (by simp [nth]) (List.map_congr_left fun i _ => ?_)
  simp [nth, Nat.add_assoc, Nat.add_comm 1 i]

/-- Writing the bytes of a range one by one writes the range. -/
theorem foldl_placed (d : Byte) (bs : List Byte) (m : Mem) (a : Nat) :
    (placed a bs).foldl (fun t b => memWrite d t b.1 b.2) m = memWriteN d m a bs := by
  induction bs generalizing m a with
  | nil => rfl
  | cons b bs ih => rw [placed_cons, List.foldl_cons, ih]; rfl

theorem mem_placed {a x : Nat} {v : Byte} {bs : List Byte} (h : (x, v) ∈ placed a bs) : a ≤ x ∧ x < a + bs.length := by
  simp only [placed, List.mem_map, List.mem_range, Prod.mk.injEq] at h
  obtain ⟨i, hi, rfl, -⟩ := h
  omega

theorem cqMask_testBit8 : cqMask.testBit 8 = true := by decide

/-- Bit 8 of the four words of MBX_CQ is that of word 0. -/
theorem testBit8_cqWords (v a b c : Nat) : ((v + a * 2 ^ 64 + b * 2 ^ 128 + c * 2 ^ 192) &&& cqMask).testBit 8 = v.testBit 8 := by
  rw [Nat.testBit_and, cqMask_testBit8, Bool.and_true, Nat.testBit_eq_decide_div_mod_eq, Nat.testBit_eq_decide_div_mod_eq]
  congr 2; omega

/-- MBX_CQ, a valid word 0 with enable set, no slot in use: the ring is set up with its counts at 0. -/
theorem mbxCqWrite_enables {v : W64} {s : State} (hup : computeDown s = false) (hown : s.mbx.own = 0) (hen : v.getLsbD 8 = true) {full : Nat}
    (hfull : full = (v.toNat + (cqWord s 1).toNat * 2 ^ 64 + (cqWord s 2).toNat * 2 ^ 128 + (cqWord s 3).toNat * 2 ^ 192) &&& cqMask)
    (hvalid : cqValid full = true) : mbxCqWrite 0 .both v s = hostWrite (bitsN full 191 128) (zeros 4)
      (setMbx (fun m => { m with cq := BitVec.ofNat 256 full, staged := [], prod := 0, cons := 0, since := 0 }) s) := by
  have hbit : full.testBit 8 = true := by rw [hfull, testBit8_cqWords]; exact hen
  subst hfull
  rw [mbxCqWrite, if_neg (by simp [hup])]
  dsimp only
  rw [if_neg (by simp), if_neg (by simp [hown])]
  exact (if_pos hbit).trans (if_pos hvalid)

theorem intEnableWrite_eq (v : W32) {s : State} (hup : computeDown s = false) : ∃ x, intEnableWrite v s =
    setMbx (fun m => { m with intEnable := v &&& 0x3FF, msix := x }) s ∧
      (v &&& 0x3FF &&& ~~~s.mbx.intEnable &&& s.mbx.intStatus = 0 → x = s.mbx.msix) := by
  unfold intEnableWrite
  rw [if_neg (by simp [hup])]
  dsimp only
  split
  case isTrue h =>
    obtain ⟨x, hx⟩ := msixSend_eq (evtVec s) (setMbx (fun m => { m with intEnable := v &&& 0x3FF }) s)
    exact ⟨x, by rw [hx, setMbx_setMbx], fun h0 => absurd h0 h.1⟩
  case isFalse => exact ⟨s.mbx.msix, setMbx_congr rfl, fun _ => rfl⟩

/-- The one vector that is pending and enabled. -/
theorem filter_pending {v : Nat} (hv : v < 64) (u : BitVec 64) :
    ((List.range 64).filter fun k => true && (u ||| (1#64 <<< (v % 64))).getLsbD k && (1#64 <<< v).getLsbD k) = [v] := by
  have hp : ∀ k ∈ List.range 64, (true && (u ||| (1#64 <<< (v % 64))).getLsbD k && (1#64 <<< v).getLsbD k) = decide (k = v) := by
    intro k hk
    have hk : k < 64 := List.mem_range.mp hk
    have hbit : (1#64 <<< v).getLsbD k = decide (k = v) := by
      rw [BitVec.getLsbD_shiftLeft, BitVec.getLsbD_one]; grind
    rw [Nat.mod_eq_of_lt hv, BitVec.getLsbD_or, hbit]
    grind
  rw [List.filter_congr hp]
  exact (by decide : ∀ v < 64, (List.range 64).filter (fun k => decide (k = v)) = [v]) v hv

/-- Settles O6: each register's row writes its own field; BAR2 its bytes; an unmasked vector with a pending message sends it. -/
theorem registerRowsWrite : Obligations.RegisterRowsWrite := by
  refine ⟨fun k v s hup h1 h4 => ?_, fun v s hup hown hen hvalid => ?_, fun v s hup hown => ?_, fun v s hup => ?_, fun v s hup => ?_,
    fun v s hup => ?_, fun v s hup => ?_, fun v s hup => ?_, fun v s hup hidle hlo hhi hlen hg => ?_, fun off data s hup hin hwf => ?_,
    fun off data s hup => ?_, fun v s hup hv hen hpba => ?_⟩
  · have hexec : exec (.mbxCq k .both v) s = .next (setMbx (fun m => { m with staged := tabSet m.staged k v }) s) := by
      change Host.Outcome.next (mbxCqWrite k .both v s) = _
      have hk : k % 4 = k := Nat.mod_eq_of_lt h4
      have hk0 : k ≠ 0 := by omega
      simp [mbxCqWrite, hup, hk, hk0, mergePart]
    exact ⟨_, hexec, by simp, by cases s; rfl⟩
  · have hexec := mbxCqWrite_enables hup hown hen rfl hvalid
    refine ⟨_, congrArg Host.Outcome.next hexec, ?_, by simp, by simp, by simp, by apply State.eq_of_fields <;> simp⟩
    rw [cqEnable, hostWrite_mbx, setMbx_mbx]
    rw [BitVec.getLsbD_ofNat, testBit8_cqWords]
    exact hen
  · change Host.Outcome.next (mbxCqWrite 0 .both v s) = _
    rw [mbxCqWrite, if_neg (by simp [hup])]
    exact congrArg Host.Outcome.next ((if_neg (by simp)).trans (if_pos hown))
  · change Host.Outcome.next (mbxCqCons v s) = _
    simp [mbxCqCons, hup, setMbx]
  · have hring : ∀ ring, exec (.ringConsumerWrite ring v) s = .next (ringConsWrite ring v s) := fun _ => rfl
    simp [hring, ringConsWrite, hup]
  · change Host.Outcome.next (winBaseWrite .both v s) = _
    simp [winBaseWrite, hup, setMbx, mergePart]
  · have herr : exec (.errSum v) s = .next (errSumWrite v s) := rfl
    have hint : exec (.intStatus v) s = .next (intStatusWrite v s) := rfl
    simp [herr, hint, errSumWrite, intStatusWrite, hup, setMbx]
  · obtain ⟨x, hx, hsame⟩ := intEnableWrite_eq v hup
    exact ⟨_, congrArg Host.Outcome.next hx, by simp, by cases s; rfl, fun h => by simpa using hsame h⟩
  · change Host.Outcome.next (tsqWrite .both v s) = _
    have hlen' : bitsN v.toNat 47 32 ≠ 0 := by omega
    simp [tsqWrite, hup, hidle, mergePart, hg, hlen', setTick, Nat.not_lt.mpr hlo, Nat.not_lt.mpr hhi]
  · have hinside : ((placed off data).filter fun b => decide (b.1 < 0x4000)) = placed off data := by
      refine List.filter_eq_self.mpr fun b hb => decide_eq_true ?_
      have := (mem_placed hb).2
      omega
    have hexec : exec (.bar2Write off data false) s = .next (setMbx (fun m => { m with slots := memWriteN 0 m.slots off data }) s) := by
      change Host.Outcome.next (bar2Write off data false s) = _
      simp only [bar2Write, hup, hinside, foldl_placed, Bool.false_eq_true, if_false]
    refine ⟨_, hexec, fun j hj => ?_, fun a ha => ?_, by cases s; rfl⟩
    · rw [setMbx_mbx]; exact memRead_memWriteN_in 0 data _ off j hwf hj
    · rw [setMbx_mbx]; exact memRead_memWriteN_out 0 data _ off a hwf ha
  · change Host.Outcome.next (bar2Write off data true s) = _
    simp [bar2Write, hup, aerReport, setMbx]
  · have hexec : exec (.msixVectorUnmask (some v)) s = .next (setMbx (fun m => { m with msix := { m.msix with
        pba := 0, sent := v :: m.msix.sent, unmasked := m.msix.unmasked ||| (1#64 <<< v) } }) s) := by
      change Host.Outcome.next (msixUnmask (some v) s) = _
      unfold msixUnmask
      rw [if_neg (by simp [hup])]
      dsimp only
      rw [hen, hpba, filter_pending hv]
      have hunmasked : (s.mbx.msix.unmasked ||| (1#64 <<< v)).getLsbD v = true := by
        simp [hv]
      simp only [List.foldl_cons, List.foldl_nil, msixSend, setMbx, hen, Nat.mod_eq_of_lt hv, hunmasked, Bool.and_self, if_true,
        BitVec.and_not_self]
    exact ⟨_, hexec, by simp, by simp, by simp, by cases s; rfl⟩

end Sys2Proof.Machine
end

section
/-! PROOFS. Register writes reach their rows (R517), and the service commands (R443). -/

namespace Sys2Proof.Machine
open Sys2Proof Sys2Proof.Safety

/-! ## Register writes reach their rows (R517, Tables 20-1 and 20-7) -/

/-- A write that the mailbox accepts reaches the registers. -/
theorem registerWrite_ok {off size : Nat} (v : W64) {s : State} (hup : computeDown s = false) (hok : accessOk off size = true) :
    exec (.registerWrite off size v false false) s = .next (registerPut off size v s) := by
  change Host.Outcome.next (registerWrite off size v false false s) = _
  simp [registerWrite, hup, hok]

/-- A 4-byte write of a 32-bit register. -/
theorem registerWrite_word {off : Nat} {v : W64} {s : State} (hup : computeDown s = false) (hok : accessOk off 4 = true)
    (hnarrow : ∀ p, writeWide off p v s = none) :
    exec (.registerWrite off 4 v false false) s = .next (writeWord off (v.setWidth 32) s) := by
  rw [registerWrite_ok v hup hok]
  simp [registerPut, hnarrow]

/-- A write of a 64-bit register, or of one of its words. -/
theorem registerWrite_wide {off size : Nat} {v : W64} {s t : State} (hup : computeDown s = false) (hok : accessOk off size = true)
    (hwide : writeWide off (if size = 8 then .both else if off % 8 = 0 then .lo else .hi) v s = some t) :
    exec (.registerWrite off size v false false) s = .next t := by
  rw [registerWrite_ok v hup hok]
  simp only [registerPut, hwide]

theorem writeWide_belowMailbox {off : Nat} (h : off < 0x220) (p : WPart) (v : W64) (s : State) : writeWide off p v s = none := by
  have hb : ¬ (0x220 ≤ off / 8 * 8 ∧ off / 8 * 8 < 0x240) := by omega
  have hw : off / 8 * 8 ≠ 0x240 := by omega
  have ht : off / 8 * 8 ≠ 0x300 := by omega
  simp only [writeWide, hb, hw, ht, if_false]

/-- Nothing writes the identification block. -/
theorem writeWord_identification {off : Nat} (h : off < 0x100) (v : W32) (s : State) : writeWord off v s = s := by
  have hne : ∀ n, 0x100 ≤ n → off ≠ n := fun n hn => by omega
  have ht : ¬ (0x8000 ≤ off ∧ off < 0x8400) := by omega
  simp only [writeWord, hne _ (by decide : 0x100 ≤ 0x108), hne _ (by decide : 0x100 ≤ 0x110), hne _ (by decide : 0x100 ≤ 0x118),
    hne _ (by decide : 0x100 ≤ 0x200), hne _ (by decide : 0x100 ≤ 0x204), hne _ (by decide : 0x100 ≤ 0x280),
    hne _ (by decide : 0x100 ≤ 0x288), hne _ (by decide : 0x100 ≤ 0x290), ht, if_false]

/-- Settles O7: a register's row by its offset and width; an access that is not one is dropped. -/
theorem registerWriteReachesRows : Obligations.RegisterWriteReachesRows := by
  refine ⟨fun v off size row s hup hrow => ?_, fun v off size s hup hok hid => ?_, fun off size v pb s hup hbad => ?_,
    fun off size v pb s => ⟨fun hup => ?_, fun hdown => ?_⟩⟩
  · simp only [List.mem_cons, List.not_mem_nil, or_false, Prod.mk.injEq] at hrow
    rcases hrow with ⟨rfl, rfl, rfl⟩ | ⟨rfl, rfl, rfl⟩ | ⟨rfl, rfl, rfl⟩ | ⟨rfl, rfl, rfl⟩ | ⟨rfl, rfl, rfl⟩ | ⟨rfl, rfl, rfl⟩ | ⟨rfl, rfl, rfl⟩ |
      ⟨rfl, rfl, rfl⟩ | ⟨rfl, rfl, rfl⟩ | ⟨rfl, rfl, rfl⟩ | ⟨rfl, rfl, rfl⟩ | ⟨rfl, rfl, rfl⟩ | ⟨rfl, rfl, rfl⟩ | ⟨rfl, rfl, rfl⟩ | ⟨rfl, rfl, rfl⟩ |
      ⟨rfl, rfl, rfl⟩ | ⟨rfl, rfl, rfl⟩ | ⟨rfl, rfl, rfl⟩
    iterate 8 exact ⟨_, registerWrite_word hup rfl fun _ => rfl, rfl⟩
    all_goals exact ⟨_, registerWrite_wide hup rfl rfl, rfl⟩
  · have hlow : off + size ≤ 0x100 ∧ (size = 4 ∨ size = 8) := ⟨hid, by simp [accessOk] at hok; exact hok.1⟩
    rw [registerWrite_ok v hup hok, registerPut, writeWide_belowMailbox (by omega)]
    dsimp only
    rw [writeWord_identification (off := off) (by omega)]
    split
    case isTrue h8 => rw [writeWord_identification (by omega)]
    case isFalse => rfl
  · refine ⟨_, ?_, rfl⟩
    change Host.Outcome.next (registerWrite off size v pb false s) = _
    rcases hbad with rfl | hacc
    · simp [registerWrite, hup]
    · simp [registerWrite, hup, hacc]
  · change Host.Outcome.next (registerWrite off size v pb true s) = _
    simp [registerWrite, hup, aerReport, setMbx]
  · change Host.Outcome.next (registerWrite off size v pb true s) = _
    simp [registerWrite, hdown]

/-! ## The service commands (R443, Table 16-9) -/

theorem leBytes_getLsbD {n x k : Nat} (h : k < 8 * n) : (nth (leBytes n x) (k / 8) 0).getLsbD (k % 8) = x.testBit k := by
  have hk : k / 8 < n := by omega
  have hmod : k % 8 < 8 := Nat.mod_lt k (by decide)
  rw [leBytes, nth_map_range _ _ hk, BitVec.getLsbD_ofNat, decide_eq_true hmod, Bool.true_and, Nat.testBit_shiftRight, Nat.div_add_mod]

theorem mailboxRow_mem_opcodes {i : Instr} {op : Nat} {c : Cmd} (h : mailboxRow i = some (op, c)) : op ∈ opcodes := by
  cases i <;> simp only [mailboxRow, reduceCtorEq, Option.some.injEq, Prod.mk.injEq] at h <;> (obtain ⟨rfl, rfl⟩ := h; decide)

theorem bodyOf_isSome_of_mem {op : Nat} (h : op ∈ opcodes) : (bodyOf op).isSome = true :=
  (by decide : ∀ op ∈ opcodes, (bodyOf op).isSome = true) op h

/-- Bit k of the command index: row k stands in Table 16-9. -/
theorem cmdIndex_bit {k : Nat} (h : k < 65536) :
    (nth (leBytes 8192 (listMask opcodes)) (k / 8) 0).getLsbD (k % 8) = true ↔ ∃ i c, mailboxRow i = some (k, c) := by
  rw [leBytes_getLsbD (by omega), testBit_listMask, decide_eq_true_iff]
  constructor
  · intro hmem
    obtain ⟨body, hbody⟩ := Option.isSome_iff_exists.mp (bodyOf_isSome_of_mem hmem)
    obtain ⟨i, hi⟩ := bodyOf_named hbody (slotCmd State.reset 0)
    exact ⟨i, _, hi⟩
  · rintro ⟨i, c, hi⟩
    exact mailboxRow_mem_opcodes hi

theorem bar0Bytes_length (s : State) (off n : Nat) : (bar0Bytes s off (4 * n)).length = 4 * n := by
  simp [bar0Bytes, List.length_flatMap, Nat.mul_comm]

/-- HELLO that lists version 1.0 with no other command in flight chooses it. -/
theorem bodyHello_chooses {c : Cmd} {s : State} (hrom : s.boot.stage ≠ .rom) (hhalt : s.boot.stage ≠ .halted) (hlo : 1 ≤ fld c 7 0 0)
    (hhi : fld c 7 0 0 ≤ 16) (hlists : ∃ k, k < fld c 7 0 0 ∧ fld c (16 * k + 31) (16 * k + 16) 0 = 0x0100) (hown : s.mbx.own = 0) :
    bodyHello c (slotTaken c s) = completed 0x0001 c .ok (helloData (slotTaken c s) 0x0100) s := by
  have hboot : (slotTaken c s).boot = s.boot := by cases s; rfl
  have hslot : (slotTaken c s).mbx.own &&& ~~~(1#64 <<< (c.slot % 64)) = 0 := by
    have : (slotTaken c s).mbx.own = s.mbx.own ||| (1#64 <<< (c.slot % 64)) := by cases s; rfl
    rw [this, hown]; simp
  have hfind : versions.find? (fun v => ((List.range (fld c 7 0 0)).map fun k => fld c (16 * k + 31) (16 * k + 16) 0).contains v) = some 0x0100 := by
    simpa [versions, List.find?] using hlists
  rw [bodyHello, hboot, if_neg (by simp [hrom, hhalt])]
  dsimp only
  rw [if_neg (by omega), hfind]
  dsimp only
  rw [if_neg (by simp [hslot]), completeOk_taken]

/-- Settles O4: each body on the slot as it is taken up. -/
theorem serviceCommandsComplete : Obligations.ServiceCommandsComplete := by
  refine ⟨fun c s h hrom hhalt hlo hhi hlists hown => ?_, fun c s h => ?_, fun c s h => ⟨?_, bar0Bytes_length _ _ 64⟩,
    fun c s h => ⟨?_, bar0Bytes_length _ _ 64⟩, fun c s h => ⟨leBytes 8192 (listMask opcodes), ?_, leBytes_length _ _, fun k => cmdIndex_bit⟩⟩
  · rw [exec_row_runs rfl rfl h, bodyHello_chooses hrom hhalt hlo hhi hlists hown]
  · rw [exec_row_runs rfl rfl h, bodyEcho, completeOk_taken]
  · rw [exec_row_runs rfl rfl h, bodyDevInfo, respond_taken]
  · rw [exec_row_runs rfl rfl h, bodyDevStatus, respond_taken]
  · rw [exec_row_runs rfl rfl h, bodyCmdIndex, respond_taken]

end Sys2Proof.Machine
end

section
/-! PROOFS. The event log (R513) and the tick source (R11 to R14). -/

namespace Sys2Proof.Machine
open Sys2Proof Sys2Proof.Safety

/-! ## Logging an event (R513) -/

/-- The state with an event in its log. -/
def eventLogged (e : LogEntry) (s : State) : State := setBoot (fun b => { b with
  logSeq := b.logSeq + 1, log := if computeDown s then b.log else (e :: b.log).take 4096 }) s

theorem logEvent_cases (code src arg arg2 : Nat) (s : State) : ∃ e,
    logEvent code src arg arg2 s = eventLogged e s ∨ logEvent code src arg arg2 s = bump cLogNvDrop (raiseInt 7 (eventLogged e s)) ∨
      logEvent code src arg arg2 s = setNv (fun v => { v with logPend := v.logPend ++ [e] }) (raiseInt 7 (eventLogged e s)) := by
  let e : LogEntry := { seq := s.boot.logSeq, tick := s.tick.no, code := code, src := src, arg := BitVec.ofNat 64 arg, arg2 := BitVec.ofNat 32 arg2 }
  refine ⟨e, ?_⟩
  by_cases hp : eventPersistent code = true
  · by_cases hl : (raiseInt 7 (eventLogged e s)).nv.logPend.length < 8
    · exact .inr (.inr ((if_pos hp).trans (if_pos hl)))
    · exact .inr (.inl ((if_pos hp).trans (if_neg hl)))
  · exact .inl (if_neg hp)

/-- An event changes the log, the entries that wait for the log region, the mailbox's counts and the counters. -/
theorem logEvent_frame (code src arg arg2 : Nat) (s : State) : logEvent code src arg arg2 s = { s with
    boot := { s.boot with log := (logEvent code src arg arg2 s).boot.log, logSeq := (logEvent code src arg arg2 s).boot.logSeq }
    nv := { s.nv with logPend := (logEvent code src arg arg2 s).nv.logPend }
    mbx := (logEvent code src arg arg2 s).mbx, ctr := (logEvent code src arg arg2 s).ctr } := by
  obtain ⟨e, h | h | h⟩ := logEvent_cases code src arg arg2 s <;> rw [h] <;> apply State.eq_of_fields <;> simp [eventLogged]

theorem logEvent_eq (code src arg arg2 : Nat) (s : State) : ∃ l n p m c, logEvent code src arg arg2 s =
    { s with boot := { s.boot with log := l, logSeq := n }, nv := { s.nv with logPend := p }, mbx := m, ctr := c } :=
  ⟨_, _, _, _, _, logEvent_frame code src arg arg2 s⟩

/-- The log of a device whose compute die is up begins with the event. -/
theorem logEvent_log (code src arg arg2 : Nat) {s : State} (hup : computeDown s = false) : (logEvent code src arg arg2 s).boot.log =
    ({ seq := s.boot.logSeq, tick := s.tick.no, code := code, src := src, arg := BitVec.ofNat 64 arg, arg2 := BitVec.ofNat 32 arg2 } ::
      s.boot.log).take 4096 := by
  simp only [logEvent, apply_ite State.boot, raiseInt_boot, bump_boot, ite_self, hup, Bool.false_eq_true, if_false]

@[simp] theorem logEvent_computeDown (code src arg arg2 : Nat) (s : State) : computeDown (logEvent code src arg arg2 s) = computeDown s := by
  rw [computeDown, logEvent_stage]; rfl

/-- What may change where an event is logged with a change of the tick. -/
def TickLogged (s t : State) : Prop := t = { s with
  tick := t.tick, boot := { s.boot with log := t.boot.log, logSeq := t.boot.logSeq }, mbx := t.mbx, nv := { s.nv with logPend := t.nv.logPend }
  ctr := t.ctr }

theorem TickLogged.setTick {s t : State} (h : TickLogged s t) (f : TickSt → TickSt) : TickLogged s (setTick f t) := by
  rw [h]; rfl

theorem TickLogged.logEvent {s t : State} (h : TickLogged s t) (code src arg arg2 : Nat) : TickLogged s (logEvent code src arg arg2 t) := by
  obtain ⟨l, n, p, m, c, he⟩ := logEvent_eq code src arg arg2 t
  rw [he, h]; rfl

theorem TickLogged.raiseInt {s t : State} (h : TickLogged s t) (b : Nat) : TickLogged s (raiseInt b t) := by
  obtain ⟨m, he⟩ := raiseInt_eq b t
  rw [he, h]; rfl

theorem TickLogged.refl (s : State) : TickLogged s s := rfl

/-! ## The tick source (R11 to R14) -/

theorem computeDown_setTick (f : TickSt → TickSt) (s : State) : computeDown (setTick f s) = computeDown s := by cases s; rfl

/-- The tick in holdover. -/
def heldOver (t : TickSt) : TickSt := { t with holdover := true, good := 0, bad := 0, trim := if t.realign then t.trim else 0 }

theorem enterHoldover_eq {s : State} (h : s.tick.holdover = false) :
    enterHoldover s = raiseInt 4 (logEvent 0x0040 4 1 s.tick.source (setTick heldOver s)) := if_neg (by simp [h])

theorem enterHoldover_tick {s : State} (h : s.tick.holdover = false) : (enterHoldover s).tick = heldOver s.tick := by
  rw [enterHoldover_eq h]; simp

theorem enterHoldover_logged {s t : State} (hs : TickLogged s t) (h : t.tick.holdover = false) : TickLogged s (enterHoldover t) := by
  rw [enterHoldover_eq h]
  exact ((hs.setTick _).logEvent _ _ _ _).raiseInt _

/-- A chip that enters holdover interrupts and logs event 0x0040. -/
theorem enterHoldover_reports {s : State} (h : s.tick.holdover = false) (hup : computeDown s = false) :
    (enterHoldover s).mbx.intStatus.getLsbD 4 = true ∧
      ∃ e rest, (enterHoldover s).boot.log = e :: rest ∧ e.code = 0x0040 ∧ e.tick = s.tick.no := by
  have hup' : computeDown (setTick heldOver s) = false := by rw [computeDown_setTick, hup]
  rw [enterHoldover_eq h, raiseInt_boot, logEvent_log _ _ _ _ hup', raiseInt_intStatus 4 _ (by simp [hup'])]
  refine ⟨by simp, _, _, rfl, rfl, by rw [setTick_tick]; rfl⟩

/-- A phase error of a chip that follows its source. -/
def trimmed (s : State) (err : Int) (t : TickSt) : TickSt := { t with
  phase := err
  bad := if trimLimit s < err.natAbs then s.tick.bad + 1 else 0
  trim := if t.realign then t.trim else max (-(trimLimit s : Int)) (min (trimLimit s : Int) err) }

theorem sourceEdge_follows {err : Int} {s : State} (h : s.tick.holdover = false) (hnear : err.natAbs ≤ 64) : sourceEdge err s =
    if 16 ≤ (if trimLimit s < err.natAbs then s.tick.bad + 1 else 0) then enterHoldover (setTick (trimmed s err) s)
    else setTick (trimmed s err) s := by
  unfold sourceEdge
  rw [if_neg (by omega), if_neg (by simp [h])]
  rfl

theorem realignNow_cases (s : State) : realignNow s = if trimLimit s < s.tick.phase.natAbs then
    setTick (fun t => { t with realign := true, trim := t.phase % (t.period : Int), bad := 0 }) s else s := rfl

/-- A chip that leaves holdover, its source not a ring's. -/
theorem holdoverExit_leaves {s : State} (hup : computeDown s = false) (h : s.tick.holdover = true) (hgood : 16 ≤ s.tick.good)
    (hframe : s.tick.inFrame = 0) (hsource : s.tick.source ≠ 2) : holdoverExit s =
    realignNow (raiseInt 4 (logEvent 0x0040 4 0 s.tick.source (setTick (fun t => { t with holdover := false, good := 0, bad := 0 }) s))) := by
  unfold holdoverExit
  rw [if_neg (by simp [hup, h, hframe]; omega)]
  extract_lets s1 s2
  have hs2 : s2 = s1 := by
    have : (s1.tick.source == 2) = false := by simp [s1, hsource]
    simp only [s2, this]
  rw [hs2]

/-- Settles O36: the edge in its cases, holdover entered and left with event 0x0040. -/
theorem tickSourceEvents : Obligations.TickSourceEvents := by
  have hedge : ∀ err s, computeDown s = false → s.tick.source = 1 → exec (.tickInEdge err) s = .next (sourceEdge err s) := fun err s hup h1 => by
    change Host.Outcome.next _ = _
    rw [if_pos (by simp [hup, h1])]
  have hloss : ∀ s, computeDown s = false → s.tick.source ≠ 0 → exec .sourceLoss s = .next (sourceMissed s) := fun s hup h0 => by
    change Host.Outcome.next _ = _
    rw [if_pos (by simp [hup, h0])]
  refine ⟨fun err s hup h1 h hfar => ?_, fun err s hup h1 h hfar => ?_, fun err s hup h1 h hnear hok => ?_, fun err s hup h1 h hnear hlim hbad => ?_,
    fun err s hup h1 h hnear => ?_, fun s hup h0 h => ?_, fun s hup h0 h => ?_, fun s hup h hgood hframe hsource => ?_, fun s hup h hnot => ?_⟩
  · rw [hedge err s hup h1, sourceEdge, if_pos hfar, if_neg (by simp [h])]
  · rw [hedge err s hup h1, sourceEdge, if_pos hfar, if_pos h]; rfl
  · rw [hedge err s hup h1, sourceEdge_follows h hnear, if_neg (by split <;> omega)]; rfl
  · have hhold : (setTick (trimmed s err) s).tick.holdover = false := by simpa [trimmed] using h
    have hexec := hedge err s hup h1
    rw [sourceEdge_follows h hnear, if_pos (by rw [if_pos hlim]; omega)] at hexec
    refine ⟨_, hexec, ?_, enterHoldover_logged ((TickLogged.refl s).setTick _) hhold⟩
    rw [enterHoldover_tick hhold]
    cases hr : s.tick.realign <;> simp [heldOver, trimmed, hr]
  · rw [hedge err s hup h1, sourceEdge, if_neg (by omega), if_pos h]; rfl
  · have hhold : (setTick (fun t => { t with good := 0 }) s).tick.holdover = false := by simpa using h
    obtain ⟨hint, hlog⟩ := enterHoldover_reports hhold (by rw [computeDown_setTick, hup])
    refine ⟨_, hloss s hup h0, ?_, hint, ?_, enterHoldover_logged ((TickLogged.refl s).setTick _) hhold⟩
    · rw [sourceMissed, enterHoldover_tick hhold]; simp [heldOver]
    · rwa [setTick_tick] at hlog
  · rw [hloss s hup h0, sourceMissed, enterHoldover, if_pos (by simpa using h)]; rfl
  · have hexec : exec .holdoverExit s = .next (holdoverExit s) := rfl
    rw [holdoverExit_leaves hup h hgood hframe hsource] at hexec
    refine ⟨_, hexec, ?_⟩
    generalize hx : raiseInt 4 (logEvent 0x0040 4 0 s.tick.source (setTick (fun t => { t with holdover := false, good := 0, bad := 0 }) s)) = x
    have htick : x.tick = { s.tick with holdover := false, good := 0, bad := 0 } := by rw [← hx]; simp
    have hlim : trimLimit x = trimLimit s := by simp [trimLimit, htick]
    have hlogged : TickLogged s x := by rw [← hx]; exact (((TickLogged.refl s).setTick _).logEvent _ _ _ _).raiseInt _
    have hint : x.mbx.intStatus.getLsbD 4 = true := by
      rw [← hx, raiseInt_intStatus 4 _ (by rw [logEvent_computeDown, computeDown_setTick, hup])]; simp
    rw [realignNow_cases]
    split
    case isTrue hbig =>
      rw [hlim, htick] at hbig
      refine ⟨by simp [htick], by simp [htick], by simp [htick], by simpa using hint, fun _ => by simp [htick], fun hsmall => ?_,
        hlogged.setTick _⟩
      exact absurd hbig (Nat.not_lt.mpr hsmall)
    case isFalse hsmall =>
      rw [hlim, htick] at hsmall
      exact ⟨by rw [htick], by rw [htick], by rw [htick], hint, fun hbig => absurd hbig hsmall, fun _ => htick, hlogged⟩
  · change Host.Outcome.next (holdoverExit s) = _
    rw [holdoverExit, if_pos]
    rcases hnot with hg | hf
    · simp [hg]
    · simp [hf]

end Sys2Proof.Machine
end

section
/-! PROOFS. The health outputs (R415 to R418) and the commands of the field bus (group 0x08). -/

namespace Sys2Proof.Machine
open Sys2Proof Sys2Proof.Safety

/-! ## The health outputs (R415 to R418) -/

theorem outOf_setOut_self (k : Nat) (f : HoOut → HoOut) (s : State) : outOf (setOut k f s) k = f (outOf s k) := by
  simp [outOf, setOut]

theorem outOf_setOut_ne {k j : Nat} (f : HoOut → HoOut) (s : State) (h : j ≠ k) : outOf (setOut k f s) j = outOf s j := by
  simp [outOf, setOut, tabGet_tabSet_ne _ _ _ h]

theorem outOf_chooseOut_ne {k j : Nat} (s : State) (cm : BitVec 24) (t : State) (h : j ≠ k) : outOf (chooseOut s cm k t) j = outOf t j :=
  outOf_setOut_ne _ t h

/-- The choices change the outputs of the health bus. -/
theorem foldl_chooseOut_frame (s : State) (cm : BitVec 24) (ks : List Nat) (t : State) : ∃ o,
    ks.foldl (fun t k => chooseOut s cm k t) t = setBus (fun b => { b with outs := o }) t := by
  induction ks generalizing t with
  | nil => exact ⟨t.bus.outs, by cases t; rfl⟩
  | cons k ks ih =>
    obtain ⟨o, h⟩ := ih (chooseOut s cm k t)
    exact ⟨o, by rw [List.foldl_cons, h]; cases t; rfl⟩

theorem outOf_foldl_chooseOut_of_not_mem {k : Nat} (s : State) (cm : BitVec 24) {ks : List Nat} (t : State) (h : k ∉ ks) :
    outOf (ks.foldl (fun t k => chooseOut s cm k t) t) k = outOf t k := by
  induction ks generalizing t with
  | nil => rfl
  | cons j ks ih =>
    obtain ⟨hj, hks⟩ := not_or.mp (mt List.mem_cons.mpr h)
    rw [List.foldl_cons, ih _ hks, outOf_chooseOut_ne s cm t hj]

/-- Each output of a duplicate-free list is chosen once. -/
theorem outOf_foldl_chooseOut {k : Nat} (s : State) (cm : BitVec 24) {ks : List Nat} (t : State) (hmem : k ∈ ks) (hnodup : ks.Nodup) :
    ∃ u, outOf (ks.foldl (fun t k => chooseOut s cm k t) t) k = outOf (chooseOut s cm k u) k := by
  induction ks generalizing t with
  | nil => cases hmem
  | cons j ks ih =>
    obtain ⟨hj, hks⟩ := List.nodup_cons.mp hnodup
    rw [List.foldl_cons]
    by_cases hk : k = j
    · subst hk
      exact ⟨t, outOf_foldl_chooseOut_of_not_mem s cm _ hj⟩
    · exact ih _ ((List.mem_cons.mp hmem).resolve_left hk) hks

theorem takePath_cfg (p : HoPath) (sp : Option Nat) (x : HoOut) : (takePath p sp x).cfg = x.cfg := by
  cases sp <;> rfl

section Choices
variable {s : State} {cm : BitVec 24} {k : Nat} (t : State)

theorem chooseOut_cfg : (outOf (chooseOut s cm k t) k).cfg = (outOf s k).cfg := by
  rw [chooseOut, outOf_setOut_self]
  split
  · exact takePath_cfg ..
  · split
    · exact takePath_cfg ..
    · split <;> (repeat' split) <;> exact takePath_cfg ..

theorem chooseOut_off (h : (outOf s k).configured = false ∨ hoMode (outOf s k) = 0 ∨ s.nv.powerFail = true) :
    (outOf (chooseOut s cm k t) k).path = .fault ∧ (outOf (chooseOut s cm k t) k).pin = none := by
  rw [chooseOut, outOf_setOut_self, if_pos]
  · exact ⟨rfl, rfl⟩
  · rcases h with h | h | h <;> simp [h]

theorem chooseOut_cm (h : hoField (outOf s k) 111 88 &&& cm.toNat ≠ 0) :
    (outOf (chooseOut s cm k t) k).path = .fault ∧ (outOf (chooseOut s cm k t) k).pin = none := by
  rw [chooseOut, outOf_setOut_self]
  split
  · exact ⟨rfl, rfl⟩
  · exact ⟨rfl, rfl⟩

variable (hconf : (outOf s k).configured = true) (hmode : hoMode (outOf s k) ≠ 0) (hpower : s.nv.powerFail = false)
  (hcm : hoField (outOf s k) 111 88 &&& cm.toNat = 0)
include hconf hmode hpower hcm

theorem chooseOut_learned {r : RecState} (hr : s.bus.rs = some r) (hfb : r.fallback = false) :
    (outOf (chooseOut s cm k t) k).path = .learned ∧ (outOf (chooseOut s cm k t) k).sp = learnedPoint (outOf s k) r := by
  rw [chooseOut, outOf_setOut_self, if_neg (by simp [hconf, hmode, hpower]), if_neg (by simpa using hcm), hr]
  simp [hfb, takePath]

theorem chooseOut_fallback (hr : ∀ r, s.bus.rs = some r → r.fallback = true)
    (hheld : ∀ n ∈ maskList 48 (hoField (outOf s k) 159 112), evHeld s n = false) :
    (outOf (chooseOut s cm k t) k).path = .fallback ∧ (outOf (chooseOut s cm k t) k).sp =
      (if (maskList 48 (hoField (outOf s k) 159 112)).any fun n => (evRun s n).active then hoField (outOf s k) 255 240
        else hoField (outOf s k) 239 224) := by
  have hany : (maskList 48 (hoField (outOf s k) 159 112)).any (evHeld s) = false := by simpa using hheld
  rw [chooseOut, outOf_setOut_self, if_neg (by simp [hconf, hmode, hpower]), if_neg (by simpa using hcm)]
  simp only [hany, Bool.false_and, Bool.false_eq_true, if_false]
  split
  case h_1 r hrs => simp [hr r hrs, takePath]
  case h_2 => simp [takePath]

end Choices

/-- The choice of the four outputs at a tick that owes none. -/
theorem healthChoice_chooses {s : State} (hfe : feAlive s = true) (hext : s.boot.extest = false) (howed : s.bus.owed = none)
    (hchosen : s.bus.chosen = false) : healthChoice s = setBus (fun b => { b with rs := none, owed := none, chosen := b.owed.isNone })
      ((List.range 4).foldl (fun t k => chooseOut s s.fe.cmM k t) s) := by
  simp [healthChoice, hfe, hext, howed, hchosen]

/-- Settles O54: each output's choice is that of `chooseOut` on the state before it. -/
theorem healthOutputs : Obligations.HealthOutputs := by
  refine ⟨fun s hfe hext howed hchosen => ?_, fun k n s hk hpath hticks hexp => ?_, fun k s hk hfe hpin => ?_, fun ok s => rfl⟩
  · have hexec : exec .healthPathChoice s = .next (healthChoice s) := rfl
    rw [healthChoice_chooses hfe hext howed hchosen] at hexec
    have hout : ∀ k, k < 4 → ∃ u, outOf (setBus (fun b => { b with rs := none, owed := none, chosen := b.owed.isNone })
        ((List.range 4).foldl (fun t k => chooseOut s s.fe.cmM k t) s)) k = outOf (chooseOut s s.fe.cmM k u) k := fun k hk => by
      obtain ⟨u, hu⟩ := outOf_foldl_chooseOut s s.fe.cmM s (List.mem_range.mpr hk) List.nodup_range
      exact ⟨u, by rw [← hu]; simp [outOf]⟩
    refine ⟨_, hexec, fun k hk h => ?_, fun k hk h => ?_, fun k r hk hconf hmode hpower hcm hr hfb => ?_,
      fun k hk hconf hmode hpower hcm hr hheld => ?_, fun k hk => ?_, ?_⟩
    · obtain ⟨u, hu⟩ := hout k hk; rw [hu]; exact chooseOut_off u h
    · obtain ⟨u, hu⟩ := hout k hk; rw [hu]; exact chooseOut_cm u h
    · obtain ⟨u, hu⟩ := hout k hk; rw [hu]; exact chooseOut_learned u hconf hmode hpower hcm hr hfb
    · obtain ⟨u, hu⟩ := hout k hk; rw [hu]; exact chooseOut_fallback u hconf hmode hpower hcm hr hheld
    · obtain ⟨u, hu⟩ := hout k hk; rw [hu]; exact chooseOut_cfg u
    · obtain ⟨o, ho⟩ := foldl_chooseOut_frame s s.fe.cmM (List.range 4) s
      rw [ho]; apply State.eq_of_fields <;> simp [howed]
  · have hexec : exec (.holdExpiry k) s = .next (setOut k (fun y => { takePath .fault none y with expired := true }) s) := by
      change Host.Outcome.next (holdExpiry (k % 4) s) = _
      rw [Nat.mod_eq_of_lt hk, holdExpiry, hticks]
      exact congrArg Host.Outcome.next (if_pos ⟨hpath, hexp⟩)
    exact ⟨_, hexec, outOf_setOut_self .., fun j hj => outOf_setOut_ne _ s hj, by cases s; rfl⟩
  · have hexec : exec (.hoPeriodStart k) s = .next (setOut k (fun y => { y with pin := some y.sp }) s) := by
      change Host.Outcome.next _ = _
      rw [Nat.mod_eq_of_lt hk, if_pos (by simp [hfe, hpin])]
    exact ⟨_, hexec, outOf_setOut_self .., fun j hj => outOf_setOut_ne _ s hj, by cases s; rfl⟩

/-! ## The commands of the field bus (group 0x08) -/

theorem portOf_setPort_self (p : Nat) (f : Port → Port) (s : State) : portOf (setPort p f s) p = f (portOf s p) := by
  simp [portOf, setPort]

theorem portOf_setPort_ne {p j : Nat} (f : Port → Port) (s : State) (h : j ≠ p) : portOf (setPort p f s) j = portOf s j := by
  simp [portOf, setPort, tabGet_tabSet_ne _ _ _ h]

theorem portOf_slotTaken (c : Cmd) (s : State) (p : Nat) : portOf (slotTaken c s) p = portOf s p := by cases s; rfl

theorem filterNext_slotTaken (c : Cmd) (s : State) : filterNext (slotTaken c s) = filterNext s := by cases s; rfl

/-- The kind-5 frame that FB_SEND queues. -/
def hostFrame (c : Cmd) (s : State) : FbQ :=
  { kind := 5, frame := s.tick.frame, body := hostRead s (fld c 127 64 0) (fld c 47 32 0), host := some s.bus.nextHost }

theorem hostFrame_slotTaken (c : Cmd) (s : State) : hostFrame c (slotTaken c s) = hostFrame c s := by cases s; rfl

theorem bodyFbSend_queues {c : Cmd} {s : State} (hlo : 1 ≤ fld c 47 32 0) (hhi : fld c 47 32 0 ≤ 1484)
    (hroom : (portOf s (fld c 0 0 0)).txq.length < 16) : bodyFbSend c s =
    setPort (fld c 0 0 0) (fun y => { y with txq := y.txq ++ [hostFrame c s] })
      (waitFor 0x0804 c (.fbSend (fld c 0 0 0) s.bus.nextHost) (setBus (fun b => { b with nextHost := s.bus.nextHost + 1 }) s)) := by
  have hport : ∀ n, portOf (waitFor 0x0804 c (.fbSend (fld c 0 0 0) s.bus.nextHost) (setBus (fun b => { b with nextHost := n }) s)) (fld c 0 0 0) =
      portOf s (fld c 0 0 0) := fun n => by simp [portOf]
  unfold bodyFbSend
  dsimp only
  rw [if_neg (by omega), if_neg (by omega), fbQueue]
  exact if_pos (by rw [hport]; exact hroom)

/-- One port's block of FB_STATUS. -/
def portBlock (s : State) (p : Nat) : List Byte :=
  padTo 64 (leBytes 4 (b2n (portOf s p).plca + 2 * b2n (portOf s p).gptpOk) ++ leBytes 8 (wrapN 64 (gptpOffset (portOf s p))) ++
    leBytes 8 (wrapN 64 (portOf s p).gptpRate) ++ (List.range 9).flatMap fun i => leBytes 4 (ctrGet s (cFb p i)).toNat)

theorem padTo_length (n : Nat) (bs : List Byte) : (padTo n bs).length = n := by
  simp [padTo, zeros]; omega

/-- The block is the port's flags, its two times, its nine counters and 8 zeros. -/
theorem portBlock_eq (s : State) (p : Nat) : portBlock s p =
    leBytes 4 (b2n (portOf s p).plca + 2 * b2n (portOf s p).gptpOk) ++ (leBytes 8 (wrapN 64 (gptpOffset (portOf s p))) ++
      (leBytes 8 (wrapN 64 (portOf s p).gptpRate) ++ ((List.range 9).flatMap (fun i => leBytes 4 (ctrGet s (cFb p i)).toNat) ++ zeros 8))) := by
  have hlen : ((List.range 9).flatMap fun i => leBytes 4 (ctrGet s (cFb p i)).toNat).length = 36 := by simp [List.length_flatMap]
  rw [portBlock, padTo, List.take_of_length_le (by simp [zeros, hlen])]
  simp [hlen, List.append_assoc]

/-- The bytes of a table of words from word i on. -/
theorem drop_flatMap_leBytes {α : Type} (f : α → Nat) (k i : Nat) (xs : List α) :
    (xs.flatMap fun x => leBytes k (f x)).drop (k * i) = (xs.drop i).flatMap fun x => leBytes k (f x) := by
  induction i generalizing xs with
  | zero => rfl
  | succ i ih =>
    cases xs with
    | nil => simp
    | cons x xs =>
      rw [List.flatMap_cons, Nat.mul_succ, Nat.add_comm, ← List.drop_drop, List.drop_left' (leBytes_length k _), ih]
      rfl

/-- One word of a table of words. -/
theorem take_drop_flatMap_leBytes (f : Nat → Nat) {k i n : Nat} (h : i < n) :
    (((List.range n).flatMap fun x => leBytes k (f x)).drop (k * i)).take k = leBytes k (f i) := by
  rw [drop_flatMap_leBytes, List.drop_eq_getElem_cons (by simpa using h), List.flatMap_cons, List.take_left' (leBytes_length k _)]
  simp

theorem portBlock_flags (s : State) (p : Nat) (rest : List Byte) : (nth (portBlock s p ++ rest) 0 0).toNat =
    b2n (portOf s p).plca + 2 * b2n (portOf s p).gptpOk := by
  rw [portBlock_eq, leBytes_succ]
  cases (portOf s p).plca <;> cases (portOf s p).gptpOk <;> rfl

theorem portBlock_counter (s : State) (p : Nat) (rest : List Byte) {i : Nat} (h : i < 9) :
    leNat (((portBlock s p ++ rest).drop (20 + 4 * i)).take 4) = (ctrGet s (cFb p i)).toNat := by
  have hlen : ((List.range 9).flatMap fun i => leBytes 4 (ctrGet s (cFb p i)).toNat).length = 36 := by simp [List.length_flatMap]
  rw [portBlock_eq, ← List.drop_drop, show 20 = 4 + (8 + 8) by rfl, ← List.drop_drop, ← List.drop_drop]
  simp only [List.append_assoc]
  rw [List.drop_left' (leBytes_length _ _), List.drop_left' (leBytes_length _ _), List.drop_left' (leBytes_length _ _),
    List.drop_append_of_le_length (by omega), List.take_append_of_le_length (by rw [List.length_drop]; omega),
    take_drop_flatMap_leBytes _ h, leNat_leBytes, Nat.mod_eq_of_lt (ctrGet s (cFb p i)).isLt]

/-- Settles O53: each body on the slot as it is taken up; the status blocks by their parts. -/
theorem fieldBusCommands : Obligations.FieldBusCommands := by
  refine ⟨?_, ?_, ?_, fun c s h hlo hhi hroom => ?_, fun c s h hok hwf => ?_, fun c s h => ?_, fun c s h hok => ?_, fun c s h => ?_⟩
  · rintro c _ s h rfl h56 h48 h40 h32
    rw [exec_row_runs rfl rfl h, bodyFbPort, if_neg (by omega), waitFor_taken]
  · rintro c _ s h rfl hclash
    have hnone : (timeSource (paramBits c filterFields) && (List.range 32).any fun i =>
        i != paramBits c filterFields % 32 && timeSource (tabGet 0 (filterNext s) i).toNat &&
          bitsN (tabGet 0 (filterNext s) i).toNat 41 40 &&& bitsN (paramBits c filterFields) 41 40 != 0) = false := by
      cases hts : timeSource (paramBits c filterFields)
      · rfl
      · simp only [Bool.true_and, List.any_eq_false, List.mem_range, Bool.and_eq_true, bne_iff_ne, not_and]
        exact fun i hi hne hti => hti (hclash i hi hne.1 hts hne.2)
    rw [exec_row_runs rfl rfl h, bodyFbFilter]
    simp only [filterNext_slotTaken]
    rw [if_neg (Bool.eq_false_iff.mp hnone), waitFor_taken]
  · rintro c _ s h rfl h47
    rw [exec_row_runs rfl rfl h, bodyFbReports, if_neg h47, waitFor_taken]
  · have hexec := exec_row_runs (i := .fbSend c) rfl rfl h
    have htaken : bodyFbSend c (slotTaken c s) = setPort (fld c 0 0 0) (fun y => { y with txq := y.txq ++ [hostFrame c s] })
        (setBus (fun b => { b with nextHost := s.bus.nextHost + 1 }) (waitsNow 0x0804 c (.fbSend (fld c 0 0 0) s.bus.nextHost) s)) := by
      rw [bodyFbSend_queues hlo hhi (by rwa [portOf_slotTaken]), hostFrame_slotTaken, ← waitFor_taken]
      cases s; rfl
    rw [htaken] at hexec
    refine ⟨_, hexec, ?_, fun p hp => ?_, by cases s; rfl⟩
    · rw [portOf_setPort_self]; cases s; rfl
    · rw [portOf_setPort_ne _ _ hp]; cases s; rfl
  · have hexec := exec_row_runs (i := .fbRxRing c) rfl rfl h
    have htaken : bodyFbRxRing c (slotTaken c s) =
        { completed 0x0805 c .ok 0 s with fring := ringOf c, host := memWriteN 0 s.host (ringOf c).index.toNat (zeros 4) } := by
      rw [bodyFbRxRing]
      dsimp only
      rw [if_neg (by simp [hok])]
      cases s; rfl
    rw [htaken] at hexec
    refine ⟨_, hexec, rfl, fun a => ?_, rfl⟩
    dsimp only
    split
    case isTrue hin =>
      have hread := memRead_memWriteN_in 0 (zeros 4) s.host (ringOf c).index.toNat (a - (ringOf c).index.toNat) hwf (by simp [zeros]; omega)
      rw [Nat.add_sub_cancel' hin.1] at hread
      rw [hread, nth, zeros, List.getElem?_replicate]
      split <;> rfl
    case isFalse hout => exact memRead_memWriteN_out 0 _ _ _ _ hwf (by simp [zeros]; omega)
  · have hexec := exec_row_runs (i := .fbStatus c) rfl rfl h
    have htaken : bodyFbStatus c (slotTaken c s) = answered 0x0806 c (portBlock s 0 ++ portBlock s 1) 0 s := by
      rw [← respond_taken]; cases s; rfl
    rw [htaken] at hexec
    refine ⟨_, hexec, by simp [portBlock, padTo_length], fun p hp => ?_⟩
    have hblock : ∃ rest, (portBlock s 0 ++ portBlock s 1).drop (64 * p) = portBlock s p ++ rest := by
      obtain rfl | rfl : p = 0 ∨ p = 1 := by omega
      · exact ⟨_, rfl⟩
      · exact ⟨[], by rw [List.append_nil]; exact List.drop_left' (padTo_length 64 _)⟩
    obtain ⟨rest, hrest⟩ := hblock
    constructor
    · rw [← portBlock_flags s p rest, ← hrest]; simp [nth]
    · intro i hi
      rw [← portBlock_counter s p rest hi, ← hrest, List.drop_drop, Nat.add_assoc]
  · rw [exec_row_runs rfl rfl h, bodyHoConfig, if_pos hok, waitFor_taken]
  · rw [exec_row_runs rfl rfl h, bodyHoStatus, completeOk_taken]
    cases s; rfl

end Sys2Proof.Machine
end

section
/-! PROOFS. The upkeep of the memories (R181, R321 to R330). -/

namespace Sys2Proof.Machine
open Sys2Proof Sys2Proof.Safety

/-! ## What counting leaves (R520, R526) -/

/-- Of the mailbox, counting changes the error summary, the interrupt status and the messages. -/
def Counts (m m' : Mbx) : Prop := m' = { m with errSum := m'.errSum, intStatus := m'.intStatus, msix := m'.msix }

theorem Counts.refl (m : Mbx) : Counts m m := rfl

theorem Counts.trans {m m' m'' : Mbx} (h : Counts m m') (k : Counts m' m'') : Counts m m'' := by
  rw [Counts, k, h]

theorem bumpBy_counts (off n : Nat) (s : State) : Counts s.mbx (bumpBy off n s).mbx := by
  unfold bumpBy
  split
  · exact .refl _
  · dsimp only
    split
    · exact raiseErr_mbx _ _
    · exact .refl _

theorem bump_counts (off : Nat) (s : State) : Counts s.mbx (bump off s).mbx := bumpBy_counts off 1 s

/-! ## The upkeep of the memories (R321 to R330, R181) -/

theorem dramCheckLine_repairs {l : Nat} {s : State} (hwrong : lineWrong s l = 1) (hp : tabGet false s.dram.poison l = false) :
    dramCheckLine s l = bump (0x1940 + 4 * dramChannel (64 * l)) (ctrSet 0x190C (BitVec.ofNat 32 (64 * l / 2 ^ 32))
      (ctrSet 0x1908 (BitVec.ofNat 32 (64 * l)) (setDram (fun d => { d with wrong := tabDel d.wrong l }) (bump cDramCe s)))) := by
  rw [dramCheckLine, if_neg (by simp [hp]), hwrong]; rfl

theorem dramCheckLine_clean {l : Nat} {s : State} (hwrong : lineWrong s l = 0) : dramCheckLine s l = s := by
  rw [dramCheckLine, hwrong]; exact ite_self s

theorem patrolScrub_takes {l : Nat} {s : State} (hup : dramUp s = true) (hl : l = s.dram.scrub) (hturn : dramTurn s 3 = true)
    (hin : 64 * l < usableBytes s) :
    patrolScrub l s = setDram (fun d => { d with scrub := (l + 1) % (usableBytes s / 64) }) (dramCheckLine s l) := by
  rw [patrolScrub, if_pos (by simp [hup, hturn, hin, ← hl])]

theorem dmaPortOwns_of_owner {f a : Nat} {s : State} (h : tabGet 0x1F s.seq.owner (32 * f + bankOf a) = 0x15 ∨
    tabGet 0x1F s.seq.owner (32 * f + bankOf a) = 0x16) : dmaPortOwns s f a = true := by
  simpa [dmaPortOwns] using h

/-- Writing the bytes that stand there changes no byte. -/
theorem memRead_memWriteN_same {d : Byte} {bs : List Byte} {m : Mem} {a : Nat} (h : memWf d m = true)
    (hbs : ∀ i, i < bs.length → nth bs i 0 = memRead d m (a + i)) (x : Nat) : memRead d (memWriteN d m a bs) x = memRead d m x := by
  by_cases hx : a ≤ x ∧ x < a + bs.length
  · have hin := memRead_memWriteN_in d bs m a (x - a) h (by omega)
    rw [hbs _ (by omega), Nat.add_sub_cancel' hx.1] at hin
    exact hin
  · exact memRead_memWriteN_out d bs m a x h (by omega)

/-- Checking a group with one wrong bit counts it and names it for a rewrite. -/
theorem fmCheckGroup_one {f g : Nat} {s : State} (h : tabGet 0 s.fm.flips (fmGroup f (8 * g)) = 1) : fmCheckGroup f s g =
    setFm (fun m => { m with rewrite := tabSet m.rewrite f (tabGet [] m.rewrite f ++ [8 * g]) })
      (ctrSet (cFmCeAddr f) (BitVec.ofNat 32 (8 * g)) (bump (cFmCe f) s)) := by
  rw [fmCheckGroup, h]; rfl

/-- The rewrite of a group with no poison writes the bytes that stand there. -/
theorem freePoisoned_clean (k a : Nat) (bs : List Byte) : freePoisoned k a bs [0] = bs := by
  refine List.ext_getElem (by simp [freePoisoned]) fun i h1 h2 => ?_
  simp [freePoisoned, nth, h2]

theorem fmPutGroup_on {f a : Nat} {bs : List Byte} {s : State} (h : bankOn s f a = true) : fmPutGroup f a bs 0 s = setFm (fun m => { m with
    mem := memWriteN 0 m.mem (chipAddr f a) (padTo 8 bs), flips := tabDel m.flips (fmGroup f a), poison := tabDel m.poison (fmGroup f a) }) s := by
  rw [fmPutGroup, if_neg (by simp [h])]; rfl

theorem tabGet_tabDel (d : BitVec 8) (t : Tab (BitVec 8)) {k g : Nat} (h : tabGet d t k = d) : tabGet d (tabDel t k) g = tabGet d t g := by
  rw [tabGet_eq, tabGet_eq]
  by_cases hg : g = k
  · subst hg; rw [tabFind_tabDel_self]; exact h.symm
  · rw [tabFind_tabDel_ne t hg]

theorem padTo_fmBytes (s : State) (f a : Nat) : padTo 8 (fmBytes s f a 8) = fmBytes s f a 8 := by simp [padTo, fmBytes, zeros]

/-- Writing a group's own bytes changes no byte. -/
theorem memRead_rewriteGroup {f a : Nat} {s : State} (hwf : memWf 0 s.fm.mem = true) (x : Nat) :
    memRead 0 (memWriteN 0 s.fm.mem (chipAddr f a) (padTo 8 (fmBytes s f a 8))) x = memRead 0 s.fm.mem x := by
  rw [padTo_fmBytes]
  refine memRead_memWriteN_same hwf (fun i hi => ?_) x
  rw [fmBytes, nth_map_range _ _ (by simpa [fmBytes] using hi), fmByte, chipAddr, chipAddr, Nat.add_assoc]

/-- FM_CE_REWRITE of the one group that `fm_ce_addr` names, with at most one wrong bit and no poison. -/
theorem fmCeRewrite_cases {f a : Nat} {s : State} (hup : computeDown s = false) (hlist : tabGet [] s.fm.rewrite f = [a])
    (howner : dmaPortOwns s f a = true) (hon : bankOn s f a = true) (hflips : tabGet 0 s.fm.flips (fmGroup f a) ≤ 1)
    (hp : tabGet 0 s.fm.poison (fmGroup f a) = 0) : fmCeRewrite f s = draw (setFm (fun m => { m with rewrite := tabDel m.rewrite f })
      (if tabGet 0 s.fm.flips (fmGroup f a) = 0 then s else fmPutGroup f a (fmBytes s f a 8) 0 (fmCheckGroup f s (a / 8)))) := by
  have hpoison : fmPoisonAt s f a = 0 := by
    rw [fmPoisonAt, if_neg (by simp [hon]), if_neg (by simp; omega), hp]
  rw [fmCeRewrite, if_neg (by simp [hup]), hlist, List.find?_cons_of_pos (by simp [howner, hon])]
  dsimp only
  rw [hpoison, freePoisoned_clean, List.erase_cons_head]
  rfl

theorem ctrGet_setDram (f : Dram → Dram) (s : State) (o : Nat) : ctrGet (setDram f s) o = ctrGet s o := rfl

/-- A repair counts once in `dram_ce`; its address and its channel stand in other counters. -/
theorem repaired_cDramCe (a : Nat) (f : Dram → Dram) (s : State) :
    (ctrGet (bump (0x1940 + 4 * dramChannel a) (ctrSet 0x190C (BitVec.ofNat 32 (a / 2 ^ 32)) (ctrSet 0x1908 (BitVec.ofNat 32 a)
      (setDram f (bump cDramCe s))))) cDramCe).toNat = min (2 ^ 32 - 1) ((ctrGet s cDramCe).toNat + 1) := by
  have hch : cDramCe ≠ 0x1940 + 4 * dramChannel a := by have h : cDramCe = 0x1900 := rfl; omega
  have hlo : cDramCe ≠ 0x1908 := by decide
  have hhi : cDramCe ≠ 0x190C := by decide
  have hself := ctrGet_bumpBy_self cDramCe 1 s
  have hother := ctrGet_bumpBy_ne 1 (ctrSet 0x190C (BitVec.ofNat 32 (a / 2 ^ 32)) (ctrSet 0x1908 (BitVec.ofNat 32 a)
      (setDram f (bump cDramCe s)))) hch
  rw [ctrGet_ctrSet_ne _ _ hhi, ctrGet_ctrSet_ne _ _ hlo, ctrGet_setDram] at hother
  rw [bump, hother]
  exact hself

/-- A repair changes the counters and what counting leaves, and of the DRAM what the repair writes. -/
theorem repaired_frame (off : Nat) (v w : W32) (f : Dram → Dram) (s : State) :
    ∃ u, bump off (ctrSet 0x190C w (ctrSet 0x1908 v (setDram f (bump cDramCe s)))) = u ∧ u = { counted s u with dram := f s.dram } := by
  have hfirst := bump_counts cDramCe s
  have hthen := bump_counts off (ctrSet 0x190C w (ctrSet 0x1908 v (setDram f (bump cDramCe s))))
  rw [ctrSet_mbx, ctrSet_mbx, setDram_mbx] at hthen
  have hcounts := hfirst.trans hthen
  refine ⟨_, rfl, ?_⟩
  apply State.eq_of_fields
  case mbx => simpa [counted, Counts] using hcounts
  all_goals simp [counted]

/-- The check of a line with one wrong byte repairs and counts it (R325). -/
theorem dramCheckLine_one {l : Nat} {s : State} (hwrong : lineWrong s l = 1) (hp : tabGet false s.dram.poison l = false) :
    ∃ u, dramCheckLine s l = u ∧ u = { counted s u with dram := { s.dram with wrong := tabDel s.dram.wrong l } } ∧
      (ctrGet u cDramCe).toNat = min (2 ^ 32 - 1) ((ctrGet s cDramCe).toNat + 1) := by
  rw [dramCheckLine_repairs hwrong hp]
  have hce := repaired_cDramCe (64 * l) (fun d => { d with wrong := tabDel d.wrong l }) s
  obtain ⟨u, hu, hframe⟩ := repaired_frame (0x1940 + 4 * dramChannel (64 * l)) (BitVec.ofNat 32 (64 * l))
    (BitVec.ofNat 32 (64 * l / 2 ^ 32)) (fun d => { d with wrong := tabDel d.wrong l }) s
  rw [hu] at hce
  exact ⟨u, hu, hframe, hce⟩

/-- Settles O49: a refresh made or postponed, one line scrubbed, one group rewritten with its own bytes. -/
theorem memoryUpkeep : Obligations.MemoryUpkeep := by
  refine ⟨fun ch b s hup => ?_, fun l s hup hl hturn hin hwrong hp hdown => ?_, fun l s hnot => ?_, fun l s hup hl hturn hin hwrong => ?_,
    fun hot s hup => ?_, fun f a s hup hlist howner hon hflips hp ha hwf => ?_⟩
  · have hexec : exec (.dramRefresh ch b) s = .next (dramRefresh ch b s) := rfl
    rw [dramRefresh, if_neg (by simp [hup])] at hexec
    dsimp only at hexec
    split at hexec
    case isTrue h =>
      refine ⟨_, hexec, ?_, fun k hk => ?_, by cases s; rfl⟩
      · rw [if_pos (by simpa using h)]; simp
      · simp [tabGet_tabSet_ne _ _ _ hk]
    case isFalse h =>
      refine ⟨_, hexec, ?_, fun k hk => ?_, by cases s; rfl⟩
      · rw [if_neg (by simpa using h)]; simp
      · simp [tabGet_tabSet_ne _ _ _ hk]
  · have hexec : exec (.patrolScrub l) s = .next (patrolScrub l s) := rfl
    obtain ⟨u, hu, hframe, hce⟩ := dramCheckLine_one hwrong hp
    have hdram : u.dram = { s.dram with wrong := tabDel s.dram.wrong l } := by rw [hframe]
    rw [patrolScrub_takes hup hl hturn hin, hu] at hexec
    refine ⟨_, hexec, ?_, by simp [hdram], by simp, by rw [ctrGet_setDram]; exact hce, ?_⟩
    · simp [lineWrong, hdram, tabGet_eq, tabFind_tabDel_self]
    · rw [setDram, hdram]
      conv_lhs => rw [hframe]
      rfl
  · change Host.Outcome.next (patrolScrub l s) = _
    rw [patrolScrub, if_neg]
    rcases hnot with h | h <;> simp [h]
  · change Host.Outcome.next (patrolScrub l s) = _
    rw [patrolScrub_takes hup hl hturn hin, dramCheckLine_clean hwrong]; rfl
  · change Host.Outcome.next _ = _
    simp [hup, setDram]
  · have hexec : exec (.fmCeRewrite f) s = .next (fmCeRewrite f s) := rfl
    rw [fmCeRewrite_cases hup hlist (dmaPortOwns_of_owner howner) hon hflips hp] at hexec
    split at hexec
    case isTrue h0 =>
      refine ⟨_, hexec, by simp [tabFind_tabDel_self], by simpa using h0, fun x => by simp, fun g => by simp,
        fun g hg => by simp [tabFind_tabDel_ne _ hg], ?_⟩
      apply State.eq_of_fields <;> simp [counted]
    case isFalse h0 =>
      have hgroup : 8 * (a / 8) = a := by omega
      have hcheck := fmCheckGroup_one (f := f) (g := a / 8) (s := s) (by rw [hgroup]; omega)
      have hon' : bankOn (fmCheckGroup f s (a / 8)) f a = true := by rw [hcheck]; simpa [bankOn, bankOffAt, bankSt] using hon
      rw [fmPutGroup_on hon', hcheck] at hexec
      refine ⟨_, hexec, by simp [tabFind_tabDel_self], by simp [tabGet_eq, tabFind_tabDel_self], fun x => ?_, fun g => ?_, fun g hg => ?_, ?_⟩
      · simpa using memRead_rewriteGroup hwf x
      · simpa using tabGet_tabDel 0 s.fm.poison hp
      · simp [tabFind_tabDel_ne _ hg, tabFind_tabSet_ne _ _ hg]
      · apply State.eq_of_fields
        case mbx => simpa [counted, Counts] using bump_counts (cFmCe f) s
        all_goals simp [counted]

end Sys2Proof.Machine
end

section
/-! PROOFS. Writes to a DRAM without wrong bytes, and the host's window to it (R324 to R328, R427, R428, R336). -/

namespace Sys2Proof.Machine
open Sys2Proof Sys2Proof.Safety

/-! ## Writes to a DRAM without wrong bytes (R324 to R328) -/

theorem mem_linesOf {a n l : Nat} : l ∈ linesOf a n ↔ 0 < n ∧ a / 64 ≤ l ∧ l ≤ (a + n - 1) / 64 := by
  unfold linesOf
  split
  · simp; omega
  · simp only [List.mem_map, List.mem_range]
    constructor
    · rintro ⟨i, hi, rfl⟩; omega
    · intro h; exact ⟨l - a / 64, by omega, by omega⟩

theorem lineMissed_clean {s : State} (h : s.dram.wrong = []) (l : Nat) : lineMissed s l = false := by
  simp [lineMissed, lineWrong, h, tabGet]

theorem dramCheckLine_noWrong {s : State} (h : s.dram.wrong = []) (l : Nat) : dramCheckLine s l = s :=
  dramCheckLine_clean (by simp [lineWrong, h, tabGet])

theorem dramScan_clean {s : State} (h : s.dram.wrong = []) (a n : Nat) : dramScan a n s = s := by
  unfold dramScan
  induction linesOf a n with
  | nil => rfl
  | cons l ls ih => rw [List.foldl_cons, dramCheckLine_noWrong h]; exact ih

theorem dramByte_clean {s : State} (h : s.dram.wrong = []) (a : Nat) : dramByte s a = memRead 0 s.dram.mem a := by
  simp [dramByte, lineMissed_clean h]

/-- Bytes into one line of a DRAM without wrong bytes. -/
theorem dramPutLine_clean {s : State} (h : s.dram.wrong = []) (l : Nat) (bs : List (Nat × Byte)) (p : Bool) :
    ∃ poison, dramPutLine l bs p s = setDram (fun d => { d with mem := bs.foldl (fun m b => memWrite 0 m b.1 b.2) d.mem, poison := poison }) s ∧
      (p = true → tabGet false poison l = true ∧ ∀ k, tabGet false s.dram.poison k = true → tabGet false poison k = true) := by
  refine ⟨if p || (!decide (64 ≤ (bs.map Prod.fst).eraseDups.length) && linePoison s l) then tabSet s.dram.poison l true
    else tabDel s.dram.poison l, ?_, fun hp => ?_⟩
  · rw [dramPutLine]
    simp only [lineMissed_clean h, dramCheckLine_noWrong h, ite_self, Bool.and_false, Bool.false_eq_true, if_false, List.nil_append]
    simp [setDram, h, tabDel]
  · refine ⟨by simp [hp], fun k hk => ?_⟩
    rw [hp, Bool.true_or, if_pos rfl]
    by_cases e : k = l
    · rw [e, tabGet_tabSet_self]
    · rw [tabGet_tabSet_ne _ _ _ e]; exact hk

/-- Bytes written one after the other: an address that every entry for it gives one value reads that value. -/
theorem memRead_foldl_memWrite (bs : List (Nat × Byte)) {m : Mem} {x : Nat} {v : Byte} (h : memWf 0 m = true)
    (hv : ∀ b ∈ bs, b.1 = x → b.2 = v) :
    memWf 0 (bs.foldl (fun m b => memWrite 0 m b.1 b.2) m) = true ∧
    memRead 0 (bs.foldl (fun m b => memWrite 0 m b.1 b.2) m) x = if x ∈ bs.map Prod.fst then v else memRead 0 m x := by
  induction bs generalizing m with
  | nil => exact ⟨h, by simp⟩
  | cons b bs ih =>
    obtain ⟨hwf, hread⟩ := ih (memWf_memWrite b.1 b.2 h) (fun c hc => hv c (List.mem_cons_of_mem _ hc))
    refine ⟨hwf, ?_⟩
    rw [List.foldl_cons, hread]
    by_cases hin : x ∈ bs.map Prod.fst
    · simp [hin]
    · by_cases hx : b.1 = x
      · rw [if_neg hin, if_pos (by simp [hx]), ← hv b (by simp) hx, ← hx, memRead_memWrite_self 0 m _ _ h]
      · rw [if_neg hin, if_neg (by simp only [List.map_cons, List.mem_cons, not_or]; exact ⟨fun e => hx e.symm, hin⟩),
          memRead_memWrite_ne 0 m _ h (fun e => hx e.symm)]

/-- The lines of a write, each with its own bytes, in a DRAM without wrong bytes. -/
def putLines (bs : List (Nat × Byte)) (p : Bool) (ls : List Nat) (s : State) : State :=
  ls.foldl (fun t l => dramPutLine l (bs.filter fun b => b.1 / 64 == l) p t) s

theorem putLines_cons (bs : List (Nat × Byte)) (p : Bool) (l : Nat) (ls : List Nat) (s : State) :
    putLines bs p (l :: ls) s = putLines bs p ls (dramPutLine l (bs.filter fun b => b.1 / 64 == l) p s) := rfl

theorem putLines_frame (bs : List (Nat × Byte)) (p : Bool) (ls : List Nat) {s : State} (h : s.dram.wrong = []) :
    ∃ m q, putLines bs p ls s = setDram (fun d => { d with mem := m, poison := q }) s := by
  induction ls generalizing s with
  | nil => exact ⟨s.dram.mem, s.dram.poison, rfl⟩
  | cons l ls ih =>
    obtain ⟨poison, hput, -⟩ := dramPutLine_clean h l (bs.filter fun b => b.1 / 64 == l) p
    obtain ⟨m, q, hrest⟩ := ih (s := dramPutLine l (bs.filter fun b => b.1 / 64 == l) p s) (by rw [hput]; exact h)
    exact ⟨m, q, by rw [putLines_cons, hrest, hput]; rfl⟩

theorem putLines_read (bs : List (Nat × Byte)) (p : Bool) (ls : List Nat) {s : State} (h : s.dram.wrong = []) (hwf : memWf 0 s.dram.mem = true)
    {x : Nat} {v : Byte} (hv : ∀ b ∈ bs, b.1 = x → b.2 = v) :
    memRead 0 (putLines bs p ls s).dram.mem x =
      if x ∈ bs.map Prod.fst ∧ x / 64 ∈ ls then v else memRead 0 s.dram.mem x := by
  induction ls generalizing s with
  | nil => simp [putLines]
  | cons l ls ih =>
    obtain ⟨poison, hput, -⟩ := dramPutLine_clean h l (bs.filter fun b => b.1 / 64 == l) p
    obtain ⟨hwf', hread⟩ := memRead_foldl_memWrite (bs.filter fun b => b.1 / 64 == l) (x := x) (v := v) hwf
      (fun b hb => hv b (List.mem_filter.mp hb).1)
    have hin : x ∈ (bs.filter fun b => b.1 / 64 == l).map Prod.fst ↔ x ∈ bs.map Prod.fst ∧ x / 64 = l := by
      simp only [List.mem_map, List.mem_filter, beq_iff_eq]
      constructor
      · rintro ⟨b, ⟨hb, hl⟩, rfl⟩; exact ⟨⟨b, hb, rfl⟩, hl⟩
      · rintro ⟨⟨b, hb, rfl⟩, hl⟩; exact ⟨b, ⟨hb, hl⟩, rfl⟩
    rw [putLines_cons, ih (by rw [hput]; exact h) (by rw [hput]; exact hwf'), hput]
    dsimp only [setDram]
    rw [hread]
    by_cases hb : x ∈ bs.map Prod.fst <;> by_cases hl : x / 64 = l <;> by_cases hls : x / 64 ∈ ls <;> simp_all

theorem putLines_poison (bs : List (Nat × Byte)) (ls : List Nat) {s : State} (h : s.dram.wrong = []) {l : Nat}
    (hl : l ∈ ls ∨ tabGet false s.dram.poison l = true) : tabGet false (putLines bs true ls s).dram.poison l = true := by
  induction ls generalizing s with
  | nil => simpa [putLines] using hl
  | cons k ls ih =>
    obtain ⟨poison, hput, hpoison⟩ := dramPutLine_clean h k (bs.filter fun b => b.1 / 64 == k) true
    obtain ⟨hself, hkeep⟩ := hpoison rfl
    rw [putLines_cons]
    refine ih (by rw [hput]; exact h) ?_
    rcases hl with hl | hl
    · rcases List.mem_cons.mp hl with rfl | hl
      · exact .inr (by rw [hput]; exact hself)
      · exact .inl hl
    · exact .inr (by rw [hput]; exact hkeep l hl)

/-! ## The host's window (R427, R428, R336) -/

/-- The bytes of a window write that it enables. -/
def enabledBytes (a : Nat) (data : List Byte) (en : List Bool) : List (Nat × Byte) :=
  (List.range data.length).filterMap fun i => if nth en i true then some (a + i, nth data i 0) else none

theorem mem_enabledBytes {a : Nat} {data : List Byte} {en : List Bool} {b : Nat × Byte} :
    b ∈ enabledBytes a data en ↔ ∃ i, i < data.length ∧ nth en i true = true ∧ b = (a + i, nth data i 0) := by
  simp only [enabledBytes, List.mem_filterMap, List.mem_range, Option.ite_none_right_eq_some, Option.some.injEq]
  constructor
  · rintro ⟨i, hi, he, rfl⟩; exact ⟨i, hi, he, rfl⟩
  · rintro ⟨i, hi, he, rfl⟩; exact ⟨i, hi, he, rfl⟩

theorem mem_misused {bad : Bool} {free : Nat} {bs : List (Nat × Byte)} {b : Nat × Byte} (h : b ∈ misused bad free bs) : b ∈ bs := by
  unfold misused at h
  split at h
  · exact (List.mem_filter.mp h).1
  · exact h

/-- A window write is the misuse DR-A: it meets a range that a transfer or a job uses, outside the watch's control block (Table 12-5). -/
def windowMisuse (s : State) (a n : Nat) : Bool :=
  !meetsPool s a n && !inControl s a n && (meetsTransfer s a n || (jobRanges s).any (rangeMeets a n))

theorem barWrite_noPool {a : Nat} {data : List Byte} {en : List Bool} {pz : Bool} {s : State} (h : meetsPool s a data.length = false) :
    barWrite a data en pz s = draw (putLines (misused (windowMisuse s a data.length) s.free (enabledBytes a data en)) pz
      (linesOf a data.length) (if windowMisuse s a data.length then readersSpoil a data.length s else s)) := by
  rw [barWrite, if_neg (by simp [h])]
  rfl

theorem barWrite_pool {a : Nat} {data : List Byte} {en : List Bool} {pz : Bool} {s : State} (h : meetsPool s a data.length = true) :
    barWrite a data en pz s = poolSpoil (draw (putLines (enabledBytes a data en) pz (linesOf a data.length) s)) := by
  rw [barWrite]
  simp only [h, Bool.not_true, Bool.false_and, Bool.false_eq_true, if_false, if_true]
  rfl

theorem out_of_enabledBytes {a x free : Nat} {bad : Bool} {data : List Byte} {en : List Bool} (hx : x < a ∨ a + data.length ≤ x) :
    x ∉ (misused bad free (enabledBytes a data en)).map Prod.fst := by
  rintro h
  obtain ⟨b, hb, rfl⟩ := List.mem_map.mp h
  obtain ⟨i, hi, -, rfl⟩ := mem_enabledBytes.mp (mem_misused hb)
  dsimp only at hx
  omega

/-- Of a write that is no misuse each enabled byte lands, and no other. -/
theorem putLines_enabled {a k : Nat} {data : List Byte} {en : List Bool} (pz : Bool) {s : State} (h : s.dram.wrong = [])
    (hwf : memWf 0 s.dram.mem = true) (hk : k < data.length) :
    memRead 0 (putLines (enabledBytes a data en) pz (linesOf a data.length) s).dram.mem (a + k) =
      if nth en k true then nth data k 0 else memRead 0 s.dram.mem (a + k) := by
  rw [putLines_read _ pz _ h hwf (v := nth data k 0) fun b hb he => ?_]
  · have hline : (a + k) / 64 ∈ linesOf a data.length := mem_linesOf.mpr (by omega)
    refine if_congr ⟨fun ⟨hin, _⟩ => ?_, fun hen => ⟨List.mem_map.mpr ⟨_, mem_enabledBytes.mpr ⟨k, hk, hen, rfl⟩, rfl⟩, hline⟩⟩ rfl rfl
    obtain ⟨b, hb, he⟩ := List.mem_map.mp hin
    obtain ⟨i, -, hen, rfl⟩ := mem_enabledBytes.mp hb
    rwa [show k = i by dsimp only at he; omega]
  · obtain ⟨i, -, -, rfl⟩ := mem_enabledBytes.mp hb
    rw [show k = i by dsimp only at he; omega]

theorem readersSpoil_frame (a n : Nat) (s : State) :
    ∃ xs js, readersSpoil a n s = setKv (fun v => { v with jobs := js }) (setFm (fun m => { m with xfers := xs }) s) := ⟨_, _, rfl⟩

theorem windowReaders_frame (b : Bool) (a n : Nat) (s : State) :
    ∃ xs js, (if b then readersSpoil a n s else s) = setKv (fun v => { v with jobs := js }) (setFm (fun m => { m with xfers := xs }) s) := by
  cases b
  · exact ⟨s.fm.xfers, s.kv.jobs, rfl⟩
  · exact readersSpoil_frame a n s

theorem needDram_up {s : State} (h : polderUp s pDram = true) : needDram s = s := by rw [needDram, if_pos h]

/-- A DRAM polder that is down joins the power-up queue, and what needs it waits. -/
theorem needDram_down {s : State} (hdown : computeDown s = false) (hd : polder s pDram = .down) (hq : PwrReq.polder pDram ∉ s.power.queue)
    (hpres : polderPresent s.part pDram = true) :
    needDram s = setPower (fun w => { w with queue := w.queue ++ [.polder pDram], retry := w.retry.erase pDram }) s := by
  have hnot : polderUp s pDram = false := by rw [polderUp, hd]; rfl
  have hsame : polder (setPower (fun w => { w with retry := w.retry.erase pDram }) s) pDram = .down := by
    rw [← hd]; rfl
  have hgo : (!polderPresent s.part pDram || computeDown (setPower (fun w => { w with retry := w.retry.erase pDram }) s)) = false := by
    rw [hpres]; exact hdown
  have hfree : s.power.queue.contains (.polder pDram) = false := by simpa using hq
  have hfield : polderField pDram = none := by decide
  rw [needDram, if_neg (by simp [hnot]), requestPolder]
  dsimp only
  rw [setPower_part, hgo, if_neg (by simp), hsame]
  dsimp only
  rw [hfield]
  dsimp only
  rw [setPower_power, hfree, if_pos (by rfl)]
  rfl

theorem polderUp_needDram_down {s : State} (hdown : computeDown s = false) (hd : polder s pDram = .down)
    (hq : PwrReq.polder pDram ∉ s.power.queue) (hpres : polderPresent s.part pDram = true) : polderUp (needDram s) pDram = false := by
  rw [needDram_down hdown hd hq hpres]
  have h : polder (setPower (fun w => { w with queue := w.queue ++ [.polder pDram], retry := w.retry.erase pDram }) s) pDram = .down := by
    rw [← hd]; rfl
  rw [polderUp, h]; rfl

theorem dramPoison_clean {s : State} (hw : s.dram.wrong = []) (hp : s.dram.poison = []) (a n : Nat) :
    dramPoison s a n = List.replicate ((n + 7) / 8) 0 := by
  have hline : ∀ l, linePoison s l = false := fun l => by simp [linePoison, hp, lineWrong, hw, tabGet]
  simp [dramPoison, hline]

theorem freePoisoned_none (k a n : Nat) (bs : List Byte) : freePoisoned k a bs (List.replicate n 0) = bs := by
  refine List.ext_getElem (by simp [freePoisoned]) fun i h1 h2 => ?_
  have hz : nth (List.replicate n (0 : BitVec 8)) (i / 8) 0 = 0 := by
    by_cases h : i / 8 < n <;> simp [nth, h]
  simp only [freePoisoned, List.getElem_map, List.getElem_range, hz, if_true]
  simp [nth, h2]

/-! ### Pages of the pool after misuse (R254) -/

theorem mem_tabSet_key {α : Type} (t : Tab α) (i : Nat) (v : α) {k : Nat} (h : ∃ f ∈ t, f.1 = k) : ∃ f ∈ tabSet t i v, f.1 = k := by
  induction t with
  | nil => obtain ⟨f, hf, -⟩ := h; cases hf
  | cons e t ih =>
    obtain ⟨j, w⟩ := e
    obtain ⟨f, hf, hk⟩ := h
    rw [tabSet]
    split
    · exact ⟨f, List.mem_cons_of_mem _ hf, hk⟩
    · rcases List.mem_cons.mp hf with rfl | hf
      · split
        case isTrue hi => exact ⟨(i, v), by simp, by rw [hi]; exact hk⟩
        case isFalse => exact ⟨(j, w), by simp, hk⟩
      · split
        · exact ⟨f, List.mem_cons_of_mem _ hf, hk⟩
        · obtain ⟨g, hg, hgk⟩ := ih ⟨f, hf, hk⟩
          exact ⟨g, List.mem_cons_of_mem _ hg, hgk⟩

theorem mem_foldl_tabSet_key {α : Type} (g : Tab α → Nat → α) (es : List Nat) (t : Tab α) {k : Nat} (h : ∃ f ∈ t, f.1 = k) :
    ∃ f ∈ es.foldl (fun t e => tabSet t (e % 2 ^ 20) (g t e)) t, f.1 = k := by
  induction es generalizing t with
  | nil => exact h
  | cons e es ih => exact ih _ (mem_tabSet_key t _ _ h)

/-- Single lines written one after the other into a DRAM without wrong bytes. -/
theorem foldl_dramPutLine_frame {β : Type} (l : β → Nat) (bs : β → List (Nat × Byte)) (es : List β) {s : State} (h : s.dram.wrong = []) :
    ∃ m q, es.foldl (fun t e => dramPutLine (l e) (bs e) false t) s = setDram (fun d => { d with mem := m, poison := q }) s := by
  induction es generalizing s with
  | nil => exact ⟨s.dram.mem, s.dram.poison, rfl⟩
  | cons e es ih =>
    obtain ⟨poison, hput, -⟩ := dramPutLine_clean h (l e) (bs e) false
    obtain ⟨m, q, hrest⟩ := ih (s := dramPutLine (l e) (bs e) false s) (by rw [hput]; exact h)
    exact ⟨m, q, by rw [List.foldl_cons, hrest, hput]; rfl⟩

/-- The page headers that misuse of a pool of `n` granules leaves. -/
def spoiledPages (n : Nat) (s : State) : Tab Page :=
  (Config.freeNats s.free).foldl (fun t e => tabSet t (e % 2 ^ 20) (spoiledPage n s.free (e % 2 ^ 20) (tabGet {} t (e % 2 ^ 20))))
    (s.kv.pages.map fun e => (e.1, spoiledPage n s.free e.1 e.2))

/-- The state with its count of free values at `n`. -/
def freeAt (n : Nat) (s : State) : State := { s with free := n }

/-- Misuse of the pool leaves every page header in the table and changes bytes of DRAM. -/
theorem poolSpoil_frame {s : State} (h : s.dram.wrong = []) :
    ∃ pages m q n, poolSpoil s = freeAt n (setDram (fun d => { d with mem := m, poison := q }) (setKv (fun v => { v with pages := pages }) s)) ∧
      ∀ e ∈ s.kv.pages, ∃ f ∈ pages, f.1 = e.1 := by
  unfold poolSpoil
  split
  · exact ⟨s.kv.pages, s.dram.mem, s.dram.poison, s.free, rfl, fun e he => ⟨e, he, rfl⟩⟩
  · next p _ =>
    dsimp only
    obtain ⟨m, q, hfold⟩ := foldl_dramPutLine_frame (fun e : Nat × Byte => (p.base + e.1 % (p.sizeMib * 2 ^ 20)) / 64)
      (fun e => [(p.base + e.1 % (p.sizeMib * 2 ^ 20), e.2)]) (Config.freeCells s.free)
      (s := setKv (fun v => { v with pages := spoiledPages (256 * p.sizeMib) s }) s) h
    refine ⟨spoiledPages (256 * p.sizeMib) s, m, q, s.free + 1, congrArg draw hfold, fun e he => ?_⟩
    exact mem_foldl_tabSet_key _ _ _ ⟨_, List.mem_map.mpr ⟨e, he, rfl⟩, rfl⟩

/-- Settles O48: reads, refused accesses, writes, writes into the pool, and accesses that wait for the DRAM. -/
theorem hostWindow : Obligations.HostWindow := by
  refine ⟨fun off len s hdown hin hup hw => ?_, fun off len s hdown hre => ?_, fun off data en pz s hdown hin hup hw hwf hpool => ?_,
    fun off data en pz s hdown hin hup hw hpool => ?_, fun off data en pz s hdown hre => ?_, fun off len s hdown hin hd hq hpres => ?_,
    fun off data en pz s hdown hin hd hq hpres => ?_⟩
  · have hexec : exec (.bar4Read off len) s = .next (bar4Read off len s) := rfl
    rw [bar4Read, if_neg (by simp [hdown])] at hexec
    dsimp only at hexec
    rw [if_neg (by simp [hin]), needDram_up hup, if_pos hup, barRead, dramScan_clean hw] at hexec
    refine ⟨_, hexec, by simp [freePoisoned, dramBytes], fun hp => ?_, rfl, by cases s; rfl⟩
    simp only [setMbx_mbx, dramPoison_clean hw hp, freePoisoned_none, dramBytes, dramByte_clean hw]
  · have hexec : exec (.bar4Read off len) s = .next (bar4Read off len s) := rfl
    rw [bar4Read, if_neg (by simp [hdown])] at hexec
    dsimp only at hexec
    rw [if_pos hre] at hexec
    refine ⟨_, hexec, by simp, ?_, ?_⟩
    · exact ctrGet_bumpBy_self cWinBlocked 1 s
    · apply State.eq_of_fields <;> simp
  · have hexec : exec (.bar4Write off data en pz) s = .next (bar4Write off data en pz s) := rfl
    rw [bar4Write, if_neg (by simp [hdown])] at hexec
    dsimp only at hexec
    rw [if_neg (by simp [hin]), needDram_up hup, if_pos hup, barWrite_noPool hpool] at hexec
    obtain ⟨xs, js, hreaders⟩ := windowReaders_frame (windowMisuse s (s.mbx.winBase.toNat + off) data.length)
      (s.mbx.winBase.toNat + off) data.length s
    rw [hreaders] at hexec
    have hw0 : (setKv (fun v => { v with jobs := js }) (setFm (fun m => { m with xfers := xs }) s)).dram.wrong = [] := hw
    refine ⟨_, hexec, fun huse k hk => ?_, fun x hx => ?_, fun l hl hpz => ?_, ?_⟩
    · have hno : windowMisuse s (s.mbx.winBase.toNat + off) data.length = false := by
        rcases huse with ⟨h1, h2⟩ | h <;> simp [windowMisuse, *]
      rw [hno, draw_dram]
      exact putLines_enabled pz hw0 hwf hk
    · rw [draw_dram, putLines_read _ pz _ hw0 hwf (v := 0) fun b hb he => ?_]
      · exact if_neg fun h => out_of_enabledBytes hx h.1
      · exact absurd (List.mem_map.mpr ⟨b, hb, he⟩) (out_of_enabledBytes hx)
    · subst hpz
      have hp := putLines_poison (misused (windowMisuse s (s.mbx.winBase.toNat + off) data.length) s.free
        (enabledBytes (s.mbx.winBase.toNat + off) data en)) (linesOf (s.mbx.winBase.toNat + off) data.length) hw0 (.inl hl)
      simp [linePoison, hp]
    · obtain ⟨m, q, hput⟩ := putLines_frame (misused (windowMisuse s (s.mbx.winBase.toNat + off) data.length) s.free
        (enabledBytes (s.mbx.winBase.toNat + off) data en)) pz (linesOf (s.mbx.winBase.toNat + off) data.length) hw0
      rw [hput]
      apply State.eq_of_fields <;> simp
  · have hexec : exec (.bar4Write off data en pz) s = .next (bar4Write off data en pz s) := rfl
    rw [bar4Write, if_neg (by simp [hdown])] at hexec
    dsimp only at hexec
    rw [if_neg (by simp [hin]), needDram_up hup, if_pos hup, barWrite_pool hpool] at hexec
    obtain ⟨m, q, hput⟩ := putLines_frame (enabledBytes (s.mbx.winBase.toNat + off) data en) pz
      (linesOf (s.mbx.winBase.toNat + off) data.length) hw
    rw [hput] at hexec
    obtain ⟨pages, m', q', n, hspoil, hkeys⟩ := poolSpoil_frame (s := draw (setDram (fun d => { d with mem := m, poison := q }) s)) hw
    rw [hspoil] at hexec
    refine ⟨_, hexec, hkeys, ?_⟩
    apply State.eq_of_fields <;> simp [freeAt]
  · change Host.Outcome.next (bar4Write off data en pz s) = _
    rw [bar4Write, if_neg (by simp [hdown])]
    dsimp only
    rw [if_pos hre]
  · have hexec : exec (.bar4Read off len) s = .next (bar4Read off len s) := rfl
    rw [bar4Read, if_neg (by simp [hdown])] at hexec
    dsimp only at hexec
    rw [if_neg (by simp [hin]), if_neg (by simp [polderUp_needDram_down hdown hd hq hpres]), needDram_down hdown hd hq hpres] at hexec
    exact ⟨_, hexec, rfl, rfl, by cases s; rfl⟩
  · have hexec : exec (.bar4Write off data en pz) s = .next (bar4Write off data en pz s) := rfl
    rw [bar4Write, if_neg (by simp [hdown])] at hexec
    dsimp only at hexec
    rw [if_neg (by simp [hin]), if_neg (by simp [polderUp_needDram_down hdown hd hq hpres]), needDram_down hdown hd hq hpres] at hexec
    exact ⟨_, hexec, rfl, rfl, by cases s; rfl⟩

end Sys2Proof.Machine
end

section
/-! PROOFS. The move-list commands (R218 to R223). -/

namespace Sys2Proof.Machine
open Sys2Proof Sys2Proof.Safety

/-! ## Reads without errors -/

theorem nvCheck_clean {s : State} (h : ∀ g, nvGroup s g = 0) (a n : Nat) : nvCheck a n s = s := by
  have hgroup : ∀ g, nvCheckGroup s g = s := fun g => by rw [nvCheckGroup, h]; rfl
  unfold nvCheck
  induction groupsOf a n with
  | nil => rfl
  | cons g gs ih => rw [List.foldl_cons, hgroup]; exact ih

theorem verifyScan_clean {s : State} (h : ∀ g, nvGroup s g = 0) (ty ver : Nat) (img : List Byte) (off : Nat) :
    verifyScan ty ver img off s = s := by
  unfold verifyScan
  split
  · exact nvCheck_clean h _ _
  · exact nvCheck_clean h _ _
  · rfl

theorem dramImage_clean {s : State} (h : ∀ i, linePoison s i = false) (a n : Nat) :
    dramImage s a n = (List.range n).map fun i => dramByte s (a + i) := by
  simp [dramImage, h]

/-! ## Loading a list (R221) -/

/-- What an ML_LOAD leaves of an image `b` that it has read, `v` being what its verification answers and `r` the check that it fails. -/
def imageLoaded (c : Cmd) (b : List Byte) (v : Option Status) (r : Option (Nat × Nat × Nat)) (s : State) : State :=
  match v with
  | some st => fail 0x0110 c st s
  | none =>
    match r with
    | some (n, i, mid) => complete 0x0110 c .imageReject n (pack [(0, 32, i), (32, 16, mid)]) 0 s
    | none => completeOk 0x0110 c 0 (setSeq (fun q => { q with standby := some (parseList b) }) s)

/-- A load in a store and a DRAM without errors reads the bytes that stand there. -/
theorem loadImage_clean {c : Cmd} {src len : Nat} {s : State} {b : List Byte} (hb : ((List.range len).map fun i => dramByte s (src + i)) = b)
    (hline : ∀ i, linePoison s i = false) (hw : s.dram.wrong = []) (hnv : ∀ g, nvGroup s g = 0) :
    loadImage c src len s =
      imageLoaded c b (verifyImage s typeMoveList (bitsN (mlHead b) 415 384) b (bitsN (mlHead b) 447 416))
        (loaderFails s.part b) (draw s) := by
  rw [loadImage, dramScan_clean hw, dramImage_clean hline, hb, verifyScan_clean (s := draw s) hnv]
  rfl

theorem complete_load (c : Cmd) (st : Status) (n data : Nat) (s : State) :
    complete 0x0110 c st n data 0 (draw (setSeq (fun q => { q with standby := none }) (slotTaken c s))) =
      { completed 0x0110 c st 0 s with
        mbx := { (completed 0x0110 c st 0 s).mbx with due := s.mbx.due ++ [{ completionOf 0x0110 c st data with detail := n }] }
        seq := { s.seq with standby := none }
        free := s.free + 1 } := by cases s; rfl

theorem fail_load (c : Cmd) (st : Status) (s : State) : fail 0x0110 c st (draw (setSeq (fun q => { q with standby := none }) (slotTaken c s))) =
    { completed 0x0110 c st 0 s with seq := { s.seq with standby := none }, free := s.free + 1 } := by cases s; rfl

theorem completeOk_load (c : Cmd) (l : MList) (s : State) :
    completeOk 0x0110 c 0 (setSeq (fun q => { q with standby := some l }) (draw (setSeq (fun q => { q with standby := none }) (slotTaken c s)))) =
      { completed 0x0110 c .ok 0 s with seq := { s.seq with standby := some l }, free := s.free + 1 } := by cases s; rfl

theorem slotTaken_part (c : Cmd) (s : State) : (slotTaken c s).part = s.part := by cases s; rfl

/-! ## A decided change (R218) -/

theorem requestPolder_frame (p : Nat) (s : State) : ∃ w, requestPolder p s = { s with power := w } := by
  refine ⟨(requestPolder p s).power, ?_⟩
  apply State.eq_of_fields <;> simp

theorem changeRequests_frame (s : State) : ∃ w, changeRequests s = { s with power := w } := by
  have hstep : ∀ t : State, ∀ p, ∃ w, (match polderField p with
      | some f => if polderUp t (pFm f) then requestPolder p t else t
      | none => requestPolder p t) = { t with power := w } := fun t p => by
    split
    · split
      · exact requestPolder_frame p t
      · exact ⟨t.power, rfl⟩
    · exact requestPolder_frame p t
  have hfold : ∀ (ps : List Nat) (t : State), ∃ w, ps.foldl (fun t p => match polderField p with
      | some f => if polderUp t (pFm f) then requestPolder p t else t
      | none => requestPolder p t) t = { t with power := w } := fun ps => by
    induction ps with
    | nil => exact fun t => ⟨t.power, rfl⟩
    | cons p ps ih =>
      intro t
      obtain ⟨w, hw⟩ := hstep t p
      obtain ⟨w', hw'⟩ := ih _
      exact ⟨w', by rw [List.foldl_cons, hw', hw]⟩
  unfold changeRequests
  split
  · exact ⟨s.power, rfl⟩
  · exact hfold _ s

/-- Noting that a decided change's polders are up sets its due tick. -/
theorem noteUp_change (lead : Nat) {c : Change} {s : State} (h : s.seq.change = some c) :
    ∃ d, noteUp lead s = setSeq (fun q => { q with change := some { c with dueTick := d } }) s := by
  unfold noteUp
  rw [h]
  dsimp only
  split
  · exact ⟨_, rfl⟩
  · refine ⟨c.dueTick, ?_⟩
    rw [setSeq, ← h]

/-- A change as it is decided: nothing but the change and the polders that it asks for tell of it. -/
theorem decided_frame (lead : Nat) (c : Change) (old : Option Change) (s : State) :
    ∃ ch w, dueNotBefore old (noteUp lead (changeRequests (setSeq (fun q => { q with change := some c }) s))) =
      { s with seq := { s.seq with change := some ch }, power := w } ∧ ch.swap = c.swap := by
  obtain ⟨w, hw⟩ := changeRequests_frame (setSeq (fun q => { q with change := some c }) s)
  obtain ⟨d, hd⟩ := noteUp_change lead (c := c) (s := { setSeq (fun q => { q with change := some c }) s with power := w }) rfl
  rw [hw, hd]
  exact ⟨_, w, rfl, rfl⟩

/-- A change that ML_START decides is a swap. -/
theorem decideChange_swap (lead : Nat) {l : MList} {s : State} (hp : startPending s = true) (hl : s.seq.standby = some l) :
    ∃ ch w, decideChange lead s = { s with seq := { s.seq with change := some ch }, power := w } ∧ ch.swap = true := by
  rw [decideChange, targetList, if_pos hp, hl]
  dsimp only
  rw [← hp]
  exact decided_frame lead _ _ s

theorem polderUp_of_up {s : State} {p : Nat} (h : polder s p = .up) : polderUp s p = true := by rw [polderUp, h]; rfl

/-- Settles O13: the four move-list commands, each the body of its row on the slot taken. -/
theorem moveListCommands : Obligations.MoveListCommands := by
  refine ⟨fun c s h halign hrange hlo hhi hstart hload hup hline hw hnv => ?_, fun c s l h hstart hload hl hlong hgptp => ?_,
    fun c s h => ⟨fun hnone => ?_, fun l hl => ?_⟩, fun c s h => ?_⟩
  · have hexec : exec (.mlLoad c) s = .next (bodyMlLoad c (slotTaken c s)) := exec_row_runs rfl rfl h
    have hgo := polderUp_of_up (s := setSeq (fun q => { q with standby := none }) (slotTaken c s)) (p := pDram) hup
    have hrange' : rangeOk (slotTaken c s) (fld c 127 64 0) (fld c 63 32 0) = true := hrange
    have hfree : (startPending (slotTaken c s) || loadRuns (slotTaken c s)) = false := by
      rw [show startPending (slotTaken c s) = false from hstart, show loadRuns (slotTaken c s) = false from hload]; rfl
    obtain ⟨b, hb⟩ : ∃ b, ((List.range (fld c 63 32 0)).map fun i => dramByte s (fld c 127 64 0 + i)) = b := ⟨_, rfl⟩
    rw [bodyMlLoad, if_neg (by simp [halign, hrange']), if_neg (by omega), if_neg (by simp [hfree]), dramGo, needDram_up hgo, if_pos hgo,
      loadImage_clean (s := setSeq (fun q => { q with standby := none }) (slotTaken c s)) hb hline hw hnv] at hexec
    refine ⟨_, hexec, ?_⟩
    dsimp only
    rw [hb]
    have hv : verifyImage (setSeq (fun q => { q with standby := none }) (slotTaken c s)) typeMoveList (bitsN (mlHead b) 415 384) b
        (bitsN (mlHead b) 447 416) = verifyImage s typeMoveList (bitsN (mlHead b) 415 384) b (bitsN (mlHead b) 447 416) := rfl
    have hpart : (setSeq (fun q => { q with standby := none }) (slotTaken c s)).part = s.part := slotTaken_part c s
    rw [hv, hpart]
    cases verifyImage s typeMoveList (bitsN (mlHead b) 415 384) b (bitsN (mlHead b) 447 416) with
    | some st => exact fail_load c st s
    | none =>
      cases loaderFails s.part b with
      | some r => exact complete_load c .imageReject r.1 _ s
      | none => exact completeOk_load c (parseList b) s
  · have hexec : exec (.mlStart c) s = .next (bodyMlStart c (slotTaken c s)) := exec_row_runs rfl rfl h
    have hbody : bodyMlStart c (slotTaken c s) = decideChange 3 (waitFor 0x0111 c .mlStart (slotTaken c s)) := by
      have hfree : (startPending (slotTaken c s) || loadRuns (slotTaken c s)) = false := by
        rw [show startPending (slotTaken c s) = false from hstart, show loadRuns (slotTaken c s) = false from hload]; rfl
      have hlong' : recordsTooLong (slotTaken c s) l = false := hlong
      have hgptp' : gptpSource (slotTaken c s) = false ∨ l.period % 6 = 0 := hgptp
      rw [bodyMlStart, if_neg (by simp [hfree]), slotTaken_seq, hl]
      dsimp only
      rw [if_neg (by simp [hlong']), if_neg (by rcases hgptp' with h | h <;> simp [h])]
    have hpending : startPending (waitsNow 0x0111 c .mlStart s) = true := by simp [startPending, waiting, waitsNow]
    rw [hbody, waitFor_taken] at hexec
    obtain ⟨ch, w, hchange, hswap⟩ := decideChange_swap 3 hpending (l := l) hl
    rw [hchange] at hexec
    exact ⟨_, ch, hexec, rfl, hswap, rfl⟩
  · rw [exec_row_runs (i := .mlStop c) rfl rfl h, bodyMlStop, if_pos (by simp [hnone]), completeOk_taken]
  · rw [exec_row_runs (i := .mlStop c) rfl rfl h, bodyMlStop, if_neg (by simp [hl]), waitFor_taken]
  · rw [exec_row_runs (i := .mlStatus c) rfl rfl h, bodyMlStatus, respond_taken]
    rfl

end Sys2Proof.Machine
end

section
/-! PROOFS. What accesses to field memory leave and what stores of whole groups write (R176, R184 to R192). -/

namespace Sys2Proof.Machine
open Sys2Proof Sys2Proof.Safety

/-! ## What accesses to field memory leave -/

/-- A byte of the chip lies outside every range, each taken as whole groups of 8. -/
def Outside (rs : List (Nat × Nat)) (a : Nat) : Prop := ∀ r ∈ rs, a < r.1 / 8 * 8 ∨ roundUp (r.1 + r.2) 8 ≤ a

/-- A range lies inside one of those given. -/
def Within (rs : List (Nat × Nat)) (r : Nat × Nat) : Prop := ∃ q ∈ rs, q.1 ≤ r.1 ∧ r.1 + r.2 ≤ q.1 + q.2

theorem Outside.of_within {rs : List (Nat × Nat)} {r : Nat × Nat} {a : Nat} (h : Outside rs a) (hr : Within rs r) :
    a < r.1 / 8 * 8 ∨ roundUp (r.1 + r.2) 8 ≤ a := by
  obtain ⟨q, hq, hlo, hhi⟩ := hr
  have ho := h q hq
  unfold roundUp at *
  omega

/-- Accesses change field memory with its marks and wrong bits, the counters and interrupts, and the count of free values; bytes outside the
ranges stay. -/
structure Stores (rs : List (Nat × Nat)) (s t : State) : Prop where
  frame : ∃ mem poison flips rewrite mbx ctr free, t = { s with
    fm := { s.fm with mem := mem, poison := poison, flips := flips, rewrite := rewrite }
    mbx := mbx, ctr := ctr, free := free }
  wf : memWf 0 s.fm.mem = true → memWf 0 t.fm.mem = true
  out : memWf 0 s.fm.mem = true → ∀ a, Outside rs a → memRead 0 t.fm.mem a = memRead 0 s.fm.mem a

namespace Stores

variable {rs : List (Nat × Nat)} {s t u : State}

theorem refl (s : State) : Stores rs s s := ⟨⟨_, _, _, _, _, _, _, rfl⟩, id, fun _ _ _ => rfl⟩

theorem trans (h : Stores rs s t) (k : Stores rs t u) : Stores rs s u := by
  refine ⟨?_, fun hwf => k.wf (h.wf hwf), fun hwf a ha => (k.out (h.wf hwf) a ha).trans (h.out hwf a ha)⟩
  obtain ⟨_, _, _, _, _, _, _, rfl⟩ := h.frame
  obtain ⟨_, _, _, _, _, _, _, rfl⟩ := k.frame
  exact ⟨_, _, _, _, _, _, _, rfl⟩

/-- Folding an operation that stores inside the ranges. -/
theorem foldl {α : Type} {g : State → α → State} {xs : List α} (hg : ∀ t, ∀ x ∈ xs, Stores rs t (g t x)) (s : State) :
    Stores rs s (xs.foldl g s) := by
  induction xs generalizing s with
  | nil => exact .refl s
  | cons x xs ih => exact (hg s x (by simp)).trans (ih (fun t y hy => hg t y (List.mem_cons_of_mem _ hy)) _)

theorem bankOn_eq (h : Stores rs s t) (f a : Nat) : bankOn t f a = bankOn s f a := by
  obtain ⟨_, _, _, _, _, _, _, rfl⟩ := h.frame; rfl

theorem part_eq (h : Stores rs s t) : t.part = s.part := by obtain ⟨_, _, _, _, _, _, _, rfl⟩ := h.frame; rfl
theorem seq_eq (h : Stores rs s t) : t.seq = s.seq := by obtain ⟨_, _, _, _, _, _, _, rfl⟩ := h.frame; rfl
theorem tick_eq (h : Stores rs s t) : t.tick = s.tick := by obtain ⟨_, _, _, _, _, _, _, rfl⟩ := h.frame; rfl
theorem arrs_eq (h : Stores rs s t) : t.fm.arrs = s.fm.arrs := by obtain ⟨_, _, _, _, _, _, _, rfl⟩ := h.frame; rfl

theorem ite {c : Prop} [Decidable c] (h : Stores rs s t) (k : Stores rs s u) : Stores rs s (if c then t else u) := by
  split
  · exact h
  · exact k

end Stores

/-- Accesses that store nothing: they count, and note groups for their rewrite. -/
structure Reads (s t : State) : Prop where
  frame : ∃ mbx ctr rewrite, t = { s with mbx := mbx, ctr := ctr, fm := { s.fm with rewrite := rewrite } }

namespace Reads

variable {s t u : State}

theorem refl (s : State) : Reads s s := ⟨_, _, _, rfl⟩

theorem trans (h : Reads s t) (k : Reads t u) : Reads s u := by
  obtain ⟨_, _, _, rfl⟩ := h
  obtain ⟨_, _, _, rfl⟩ := k
  exact ⟨_, _, _, rfl⟩

theorem foldl {α : Type} {g : State → α → State} (hg : ∀ t x, Reads t (g t x)) (xs : List α) (s : State) : Reads s (xs.foldl g s) := by
  induction xs generalizing s with
  | nil => exact .refl s
  | cons x xs ih => exact (hg s x).trans (ih _)

theorem ite {c : Prop} [Decidable c] (h : Reads s t) (k : Reads s u) : Reads s (if c then t else u) := by
  split
  · exact h
  · exact k

theorem stores (rs : List (Nat × Nat)) (h : Reads s t) : Stores rs s t := by
  obtain ⟨_, _, _, rfl⟩ := h
  exact ⟨⟨_, _, _, _, _, _, _, rfl⟩, id, fun _ _ _ => rfl⟩

theorem mem_eq (h : Reads s t) : t.fm.mem = s.fm.mem := by obtain ⟨_, _, _, rfl⟩ := h; rfl
theorem poison_eq (h : Reads s t) : t.fm.poison = s.fm.poison := by obtain ⟨_, _, _, rfl⟩ := h; rfl
theorem arrs_eq (h : Reads s t) : t.fm.arrs = s.fm.arrs := by obtain ⟨_, _, _, rfl⟩ := h; rfl
theorem tick_eq (h : Reads s t) : t.tick = s.tick := by obtain ⟨_, _, _, rfl⟩ := h; rfl
theorem seq_eq (h : Reads s t) : t.seq = s.seq := by obtain ⟨_, _, _, rfl⟩ := h; rfl
theorem bankOn_eq (h : Reads s t) (f a : Nat) : bankOn t f a = bankOn s f a := by obtain ⟨_, _, _, rfl⟩ := h; rfl

end Reads

theorem bumpBy_reads (off n : Nat) (s : State) : Reads s (bumpBy off n s) := by
  obtain ⟨m, c, h⟩ := bumpBy_eq off n s
  exact h ▸ ⟨_, _, _, rfl⟩

theorem bump_reads (off : Nat) (s : State) : Reads s (bump off s) := bumpBy_reads off 1 s

theorem fmScan_reads (w f a n : Nat) (s : State) : Reads s (fmScan w f a n s) := by
  obtain ⟨m, c, r, h⟩ := fmScan_eq w f a n s
  exact h ▸ ⟨_, _, _, rfl⟩

theorem countAx_reads (f : Nat) (fs : List AxFlag) (s : State) : Reads s (countAx f fs s) :=
  ((bumpBy_reads _ _ _).trans (bumpBy_reads _ _ _)).trans (bumpBy_reads _ _ _)

theorem draw_stores (rs : List (Nat × Nat)) (s : State) : Stores rs s (draw s) :=
  ⟨⟨_, _, _, _, _, _, _, rfl⟩, id, fun _ _ _ => rfl⟩

/-! ## Stores of whole groups (R176) -/

theorem padTo_length8 (bs : List Byte) : (padTo 8 bs).length = 8 := padTo_length 8 bs

theorem nth_padTo {n i : Nat} (bs : List Byte) (h : i < n) : nth (padTo n bs) i 0 = nth bs i 0 := by
  by_cases hi : i < bs.length
  · simp [padTo, nth, h, List.getElem?_append_left hi]
  · have hz : (zeros (n - bs.length))[i - bs.length]?.getD 0 = 0 := by
      by_cases hl : i - bs.length < n - bs.length <;> simp [zeros, hl]
    simp only [padTo, nth, List.getElem?_take_of_lt h, List.getElem?_append_right (Nat.le_of_not_lt hi)]
    rw [hz]
    simp [List.getElem?_eq_none (Nat.le_of_not_lt hi)]

theorem nth_drop_take (bs : List Byte) {i k : Nat} (h : i < 8) : nth ((bs.drop k).take 8) i 0 = nth bs (k + i) 0 := by
  simp [nth, h]

theorem fmPutGroup_stores {rs : List (Nat × Nat)} {f a : Nat} (bs : List Byte) (p : BitVec 8) (s : State)
    (h : ∀ x, Outside rs x → x < chipAddr f a ∨ chipAddr f a + 8 ≤ x) : Stores rs s (fmPutGroup f a bs p s) := by
  unfold fmPutGroup
  split
  · exact .refl s
  · refine ⟨⟨_, _, _, _, _, _, _, rfl⟩, fun hwf => memWf_memWriteN _ _ _ hwf, fun hwf x hx => ?_⟩
    exact memRead_memWriteN_out 0 _ _ _ _ hwf (by rw [padTo_length8]; exact h x hx)

theorem chipAddr_group (f a : Nat) : chipAddr f (a / 8 * 8) = chipAddr f a / 8 * 8 := by
  unfold chipAddr; omega

theorem fmStore_stores {rs : List (Nat × Nat)} {w f a : Nat} (bs : List Byte) (ps : List (BitVec 8)) (s : State)
    (h : Within rs (chipAddr f a, bs.length)) : Stores rs s (fmStore w f a bs ps s) := by
  refine ((bumpBy_reads _ _ s).stores rs).trans (Stores.foldl (fun t i hi => ?_) _)
  have hlen : (zeros (a - a / 8 * 8) ++ bs).length = a - a / 8 * 8 + bs.length := by simp [zeros]
  rw [List.mem_range, hlen] at hi
  refine fmPutGroup_stores _ _ _ fun x hx => ?_
  have ho := hx.of_within h
  have hg : chipAddr f (a / 8 * 8 + 8 * i) = chipAddr f a / 8 * 8 + 8 * i := by
    rw [← chipAddr_group]; unfold chipAddr; omega
  have ha : a - a / 8 * 8 = chipAddr f a - chipAddr f a / 8 * 8 := by unfold chipAddr; omega
  unfold roundUp at ho
  rw [hg]
  dsimp only at ho
  omega

/-- Bytes stored from an aligned address on, in banks that are on: each byte stands at its place, the rest of the last group is zero. -/
theorem fmStore_read {w f a : Nat} {bs : List Byte} {ps : List (BitVec 8)} {s : State} (ha : a % 8 = 0) (hwf : memWf 0 s.fm.mem = true)
    (hon : ∀ k, k < bs.length → bankOn s f (a + k) = true) (x : Nat) :
    memRead 0 (fmStore w f a bs ps s).fm.mem x =
      if chipAddr f a ≤ x ∧ x < chipAddr f a + roundUp bs.length 8 then nth bs (x - chipAddr f a) 0 else memRead 0 s.fm.mem x := by
  have hgroups : ∀ n, n ≤ (bs.length + 7) / 8 → ∀ u : State, Stores [(chipAddr f a, bs.length)] s u →
      memRead 0 ((List.range n).foldl (fun t i => fmPutGroup f (a + 8 * i) ((bs.drop (8 * i)).take 8) (nth ps i 0) t) u).fm.mem x =
        if chipAddr f a ≤ x ∧ x < chipAddr f a + 8 * n then nth bs (x - chipAddr f a) 0 else memRead 0 u.fm.mem x := by
    intro n hn u hu
    induction n with
    | zero => rw [if_neg (by omega)]; rfl
    | succ n ih =>
      have hih := ih (by omega)
      have hs : Stores [(chipAddr f a, bs.length)] s
          ((List.range n).foldl (fun t i => fmPutGroup f (a + 8 * i) ((bs.drop (8 * i)).take 8) (nth ps i 0) t) u) := by
        refine hu.trans (Stores.foldl (fun t i hi => fmPutGroup_stores _ _ _ fun y hy => ?_) _)
        rw [List.mem_range] at hi
        have ho := hy _ (List.mem_singleton.mpr rfl)
        unfold roundUp chipAddr at *
        dsimp only at ho
        omega
      have hbank : bankOn ((List.range n).foldl (fun t i => fmPutGroup f (a + 8 * i) ((bs.drop (8 * i)).take 8) (nth ps i 0) t) u) f
          (a + 8 * n) = true := by
        rw [hs.bankOn_eq]; exact hon _ (by omega)
      rw [List.range_succ, List.foldl_append, List.foldl_cons, List.foldl_nil, fmPutGroup, if_neg (by rw [hbank]; decide),
        setFm_fm]
      have hchip : chipAddr f (a + 8 * n) = chipAddr f a + 8 * n := by unfold chipAddr; omega
      by_cases hx : chipAddr f a + 8 * n ≤ x ∧ x < chipAddr f a + 8 * n + 8
      · obtain ⟨j, rfl⟩ : ∃ j, x = chipAddr f a + 8 * n + j := ⟨x - (chipAddr f a + 8 * n), by omega⟩
        rw [hchip, memRead_memWriteN_in 0 _ _ _ j (hs.wf hwf) (by rw [padTo_length8]; omega), nth_padTo _ (by omega),
          nth_drop_take _ (by omega), if_pos (by omega)]
        congr 1; omega
      · rw [hchip, memRead_memWriteN_out 0 _ _ _ _ (hs.wf hwf) (by rw [padTo_length8]; omega), hih]
        by_cases hin : chipAddr f a ≤ x ∧ x < chipAddr f a + 8 * n
        · rw [if_pos hin, if_pos (by omega)]
        · rw [if_neg hin, if_neg (by omega)]
  have ha0 : a / 8 * 8 = a := by omega
  have hbump := bumpBy_reads (cFmOff f) ((accesses w a (8 * ((bs.length + 7) / 8))).filter (bankOffAt s f)).length s
  have hread := hgroups _ (Nat.le_refl _) _ (hbump.stores _)
  rw [hbump.mem_eq] at hread
  rw [fmStore, ha0, Nat.sub_self, zeros, List.replicate_zero, List.nil_append, hread]
  unfold roundUp
  refine if_congr ?_ rfl rfl
  omega

/-! ## Element codes in memory (R129, R176) -/

theorem packCodes_length (f : Fmt) (cs : List Nat) : (packCodes f cs).length = elemBytes f cs.length := by
  unfold packCodes elemBytes
  cases f <;> simp [fmtBits] <;> omega

theorem freePoisoned_length (k a : Nat) (bs : List Byte) (ps : List (BitVec 8)) : (freePoisoned k a bs ps).length = bs.length := by
  simp [freePoisoned]

theorem storeCodes_stores {rs : List (Nat × Nat)} {w fi a : Nat} {f : Fmt} {cs : List Nat} (ps : List (BitVec 8)) (s : State)
    (h : Within rs (chipAddr fi a, elemBytes f cs.length)) : Stores rs s (storeCodes w fi f a cs ps s) := by
  refine fmStore_stores _ _ s ?_
  rwa [freePoisoned_length, packCodes_length]

theorem storeWord_stores {rs : List (Nat × Nat)} {w fi a : Nat} (v : W32) (p : BitVec 8) (s : State) (h : Within rs (chipAddr fi a, 4)) :
    Stores rs s (storeWord w fi a v p s) := by
  refine fmStore_stores _ _ s ?_
  have hlen : (if p = 0 then leBytes 4 v.toNat else (List.range 4).map fun i => Config.freeByte s.free (a + i)).length = 4 := by
    split <;> simp
  rwa [hlen]

theorem foldl_or_zero (ps : List (BitVec 8)) (h : ∀ p ∈ ps, p = 0) : ps.foldl (fun a p => a ||| p) 0 = 0 := by
  induction ps with
  | nil => rfl
  | cons p ps ih => rw [List.foldl_cons, h p (by simp)]; exact ih fun q hq => h q (List.mem_cons_of_mem _ hq)

theorem packPoison_zero (f : Fmt) (ps : List (BitVec 8)) (h : ∀ p ∈ ps, p = 0) (i : Nat) : nth (packPoison f ps) i 0 = 0 := by
  have hall : ∀ q ∈ packPoison f ps, q = 0 := by
    intro q hq
    simp only [packPoison, List.mem_map] at hq
    obtain ⟨g, -, rfl⟩ := hq
    exact foldl_or_zero _ fun p hp => h p (List.mem_of_mem_drop (List.mem_of_mem_take hp))
  unfold nth
  cases e : (packPoison f ps)[i]? with
  | none => rfl
  | some q => exact hall q (List.mem_of_getElem? e)

theorem freePoisoned_unmarked {k a : Nat} {bs : List Byte} {ps : List (BitVec 8)} (h : ∀ i, nth ps i 0 = 0) : freePoisoned k a bs ps = bs := by
  refine List.ext_getElem (by simp [freePoisoned]) fun i h1 h2 => ?_
  simp only [freePoisoned, List.getElem_map, List.getElem_range, h, if_true]
  simp [nth, h2]

/-- Codes of 8, 16 or 32 bits without a mark stored from an aligned address on, in banks that are on. -/
theorem storeCodes_read {w fi a : Nat} {f : Fmt} {cs : List Nat} {ps : List (BitVec 8)} {s : State} (ha : a % 8 = 0)
    (hwf : memWf 0 s.fm.mem = true) (hps : ∀ p ∈ ps, p = 0) (hon : ∀ k, k < elemBytes f cs.length → bankOn s fi (a + k) = true) (x : Nat) :
    memRead 0 (storeCodes w fi f a cs ps s).fm.mem x =
      if chipAddr fi a ≤ x ∧ x < chipAddr fi a + roundUp (elemBytes f cs.length) 8 then nth (packCodes f cs) (x - chipAddr fi a) 0
      else memRead 0 s.fm.mem x := by
  rw [storeCodes, freePoisoned_unmarked (packPoison_zero f ps hps),
    fmStore_read ha hwf (fun k hk => hon k (by rwa [packCodes_length] at hk)), packCodes_length]

/-- A code read from bytes that hold packed codes. -/
theorem elemCode_of_packed {t : State} {fi a j : Nat} {f : Fmt} {cs : List Nat} (hw : 8 ≤ fmtBits f) (hj : j < cs.length)
    (hread : ∀ k, k < elemBytes f cs.length → fmByte t fi (a + k) = nth (packCodes f cs) k 0) :
    elemCode t fi f a j = nth cs j 0 % 2 ^ fmtBits f := by
  have hcode : ∀ k, 0 < k → fmtBits f = 8 * k → elemCode t fi f a j = leNat (fmBytes t fi (a + j * k) k) ∧
      packCodes f cs = cs.flatMap fun c => leBytes k c := by
    intro k hk h8
    have h4 : fmtBits f ≠ 4 := by omega
    unfold elemCode packCodes
    have hdiv : fmtBits f / 8 = k := by omega
    constructor
    · split
      · next h => exact absurd h h4
      · rw [hdiv]
    · split
      · next h => exact absurd h h4
      · rw [hdiv]
  have hbits : fmtBits f = 4 ∨ fmtBits f = 8 ∨ fmtBits f = 16 ∨ fmtBits f = 32 := by cases f <;> simp [fmtBits]
  obtain ⟨k, hk, h8⟩ : ∃ k, 0 < k ∧ fmtBits f = 8 * k := ⟨fmtBits f / 8, by omega, by omega⟩
  obtain ⟨he, hp⟩ := hcode k hk h8
  have hbytes : fmBytes t fi (a + j * k) k = leBytes k (nth cs j 0) := by
    have hcs : cs = (List.range cs.length).map fun i => nth cs i 0 := by
      refine List.ext_getElem (by simp) fun i h1 h2 => ?_
      simp [nth, h1]
    have hslice := take_drop_flatMap_leBytes (fun i => nth cs i 0) (k := k) hj
    have hpk : packCodes f cs = (List.range cs.length).flatMap fun i => leBytes k (nth cs i 0) := by
      rw [hp]
      conv_lhs => rw [hcs]
      rw [List.flatMap_map]
    rw [← hslice, ← hpk]
    have hlen : (packCodes f cs).length = k * cs.length := by rw [packCodes_length, elemBytes, h8, Nat.mul_left_comm, Nat.mul_comm cs.length k]; omega
    have hjk : k * (j + 1) ≤ k * cs.length := Nat.mul_le_mul_left k hj
    have hexp : k * (j + 1) = j * k + k := by rw [Nat.mul_succ, Nat.mul_comm]
    have hcomm : k * j = j * k := Nat.mul_comm k j
    refine List.ext_getElem (by simp [fmBytes, hlen]; omega) fun i h1 h2 => ?_
    have hi : i < k := by simpa [fmBytes] using h1
    have hin : j * k + i < (packCodes f cs).length := by omega
    have hr := hread (j * k + i) (by rw [← packCodes_length]; exact hin)
    simp only [fmBytes, List.getElem_map, List.getElem_range, List.getElem_take, List.getElem_drop]
    rw [Nat.add_assoc, hr]
    simp [nth, hcomm, hin]
  rw [he, hbytes, leNat_leBytes, h8]

end Sys2Proof.Machine
end

section
/-! PROOFS. The array moves: AZERO, TLOAD, MM, MMT and DRAIN (Table 06-3, R138 to R165, R545). -/

namespace Sys2Proof.Machine
open Sys2Proof Sys2Proof.Safety

/-! ## The output stage of a unit (Table 05-6), in its steps -/

/-- An output on its way through the stage: what step 5 is given, its mark, whether it overflowed before, its dice value and its number. -/
abbrev OutCell := OutVal × BitVec 8 × Bool × Nat × Nat

/-- Output c of row r. -/
def outCell (unit gr gc : Nat) (as : List Nat) (ty : AccTy) (before : Nat → Bool) (o : ArrOpnd) (x : MoveCtx) (s : State) (r c : Nat) : OutCell :=
  let (w, p, hit) := mergeCol s o.half ty ((List.range gr).map fun i => nth as (i * gc + c / 16) 0) (16 * r + c % 16)
  let e := r * (16 * gc) + c
  let p := if residHit x gr (o.m * (16 * gc)) e then p ||| 1 else p
  (outVal ty o.outFmt o.outScale w, p, hit || before e, dice s.seq.seed o.stream (streamAt s unit x) e, e)

/-- Row r of the outputs. -/
def outRow (unit gr gc : Nat) (as : List Nat) (ty : AccTy) (before : Nat → Bool) (o : ArrOpnd) (x : MoveCtx) (s : State) (r : Nat) :
    List OutCell :=
  (List.range (16 * gc)).map fun c => outCell unit gr gc as ty before o x s r c

/-- What the conversion is given of an output. -/
def cellValue (v : OutCell) : W32 × Nat := match v.1 with | .val w _ => (w, v.2.2.2.1) | .code _ _ => (0, 0)

/-- The conversion of a row. -/
def rowConv (o : ArrOpnd) (row : List OutCell) : List Nat × List Nat × List AxFlag := convRow o.outFmt o.mode o.sat (row.map cellValue)

/-- The codes of a row. -/
def rowCodes (o : ArrOpnd) (row : List OutCell) : List Nat :=
  if fmtMx o.outFmt then (rowConv o row).1 else (List.range row.length).map fun c =>
    match (nth row c (.code 0 .none, 0, false, 0, 0)).1 with | .code k _ => k | .val _ _ => nth (rowConv o row).1 c 0

/-- The marks of a row's codes. -/
def rowMarks (o : ArrOpnd) (row : List OutCell) : List (BitVec 8) :=
  let ps := row.map fun v => v.2.1
  ps ++ List.replicate ((rowCodes o row).length - ps.length) (ps.getLastD 0)

/-- Field that outputs of grid column j go to. -/
def outField (gr gc : Nat) (as : List Nat) (j : Nat) : Nat := fieldOf (nth as ((gr - 1) * gc + min j (gc - 1)) 0)

/-- A row is stored, 16 codes at a time. -/
def storeRow (gr gc : Nat) (as : List Nat) (o : ArrOpnd) (r : Nat) (row : List OutCell) (t : State) : State :=
  (List.range (((rowCodes o row).length + 15) / 16)).foldl (fun u j =>
    storeCodes 32 (outField gr gc as j) o.outFmt (o.outAddr + r * 32 * o.outStride + elemBytes o.outFmt (16 * j))
      (((rowCodes o row).drop (16 * j)).take 16) (((rowMarks o row).drop (16 * j)).take 16) u) t

/-- The exceptions of a row are counted. -/
def countRow (gr gc : Nat) (as : List Nat) (ty : AccTy) (o : ArrOpnd) (row : List OutCell) (t : State) : State :=
  (List.range gc).foldl (fun u j =>
    let mine := (List.range 16).map fun c => nth row (16 * j + c) (.code 0 .none, 0, false, 0, 0)
    let flags := (List.range 16).map fun c =>
      let v := nth mine c (.code 0 .none, 0, false, 0, 0)
      if v.2.2.1 then (if ty == .fp32 then AxFlag.ovf else AxFlag.none)
      else match v.1 with
        | .code _ f => f
        | .val _ true => .ovf
        | .val _ false => nth (rowConv o row).2.2 (16 * j + c) .none
    bumpBy (cAxAcc (outField gr gc as j)) (mine.filter fun v => v.2.2.1 && ty == .int32).length
      (countAx (outField gr gc as j) flags u)) t

/-- The scale vector of an MX output. -/
def storeRowScales (gr gc : Nat) (as : List Nat) (o : ArrOpnd) (rows : List (List OutCell)) (s : State) : State :=
  if fmtMx o.outFmt then
    (((List.range gc).map fun j => outField gr gc as j).eraseDups).foldl (fun t f =>
      storeCodes 32 f .int8 o.outSc (rows.flatMap fun row => (rowConv o row).2.1)
        (rows.flatMap fun row => (List.range ((16 * gc + 31) / 32)).map fun b =>
          ((row.drop (32 * b)).take 32).foldl (fun a v => a ||| v.2.1) (0 : BitVec 8)) t) s
  else s

/-- The marks of a unit's outputs together. -/
def rowsPoison (rows : List (List OutCell)) : BitVec 8 := rows.foldl (fun a row => row.foldl (fun b v => b ||| v.2.1) a) 0

theorem outStage_eq (unit gr gc : Nat) (as : List Nat) (ty : AccTy) (before : Nat → Bool) (o : ArrOpnd) (x : MoveCtx) (s : State) :
    ∃ amax, outStage unit gr gc as ty before o x s =
      (let rows := (List.range o.m).map (outRow unit gr gc as ty before o x s)
       let stored := ((List.range o.m).zip rows).foldl (fun t rr => countRow gr gc as ty o rr.2 (storeRow gr gc as o rr.1 rr.2 t)) s
       let scaled := storeRowScales gr gc as o rows stored
       let whole := if o.amaxEn then storeWord 32 (outField gr gc as 0) o.amaxAddr amax (rowsPoison rows) scaled else scaled
       draw (notePoison x (rowsPoison rows) (residCount gr gc o.m as x whole))) := ⟨_, rfl⟩

theorem countRow_reads (gr gc : Nat) (as : List Nat) (ty : AccTy) (o : ArrOpnd) (row : List OutCell) (t : State) :
    Reads t (countRow gr gc as ty o row t) :=
  Reads.foldl (fun u _ => (countAx_reads _ _ u).trans (bumpBy_reads _ _ _)) _ t

theorem residCount_reads (gr gc m : Nat) (as : List Nat) (x : MoveCtx) (s : State) : Reads s (residCount gr gc m as x s) :=
  Reads.foldl (fun t _ => bump_reads _ t) _ s

/-! ## Arrays and tiles -/

theorem unitGrid_single {a : Nat} (s : State) (h : a < 256) : unitGrid s a = (1, 1, [a]) := by
  unfold unitGrid
  split <;> simp [gridOf, h]

theorem arrOf_setArr_self (a : Nat) (f : Arr → Arr) (s : State) : arrOf (setArr a f s) a = f (arrOf s a) :=
  tabGet_tabSet_self _ _ _ _

theorem arrOf_setArr_ne {a b : Nat} (f : Arr → Arr) (s : State) (h : b ≠ a) : arrOf (setArr a f s) b = arrOf s b :=
  tabGet_tabSet_ne _ _ _ h

theorem setHalf_setHalf (h : Bool) (v w : Half) (x : Arr) : setHalf h v (setHalf h w x) = setHalf h v x := by cases h <;> rfl

theorem halfOf_setHalf_self (h : Bool) (v : Half) (x : Arr) : halfOf (setHalf h v x) h = v := by cases h <;> rfl

theorem halfOf_setHalf_not (h : Bool) (v : Half) (x : Arr) : halfOf (setHalf h v x) (!h) = halfOf x (!h) := by cases h <;> rfl

theorem Reads.arrOf_eq {s t : State} (h : Reads s t) (a : Nat) : arrOf t a = arrOf s a := by rw [arrOf, h.arrs_eq]; rfl

/-- Reads and array writes: everything but the counters, the notes for rewrites and the arrays stays. -/
def Loads (s t : State) : Prop := ∃ mbx ctr rewrite arrs, t = { s with mbx := mbx, ctr := ctr, fm := { s.fm with rewrite := rewrite, arrs := arrs } }

namespace Loads

variable {s t u : State}

theorem refl (s : State) : Loads s s := ⟨_, _, _, _, rfl⟩

theorem trans (h : Loads s t) (k : Loads t u) : Loads s u := by
  obtain ⟨_, _, _, _, rfl⟩ := h
  obtain ⟨_, _, _, _, rfl⟩ := k
  exact ⟨_, _, _, _, rfl⟩

theorem foldl {α : Type} {g : State → α → State} (hg : ∀ t x, Loads t (g t x)) (xs : List α) (s : State) : Loads s (xs.foldl g s) := by
  induction xs generalizing s with
  | nil => exact .refl s
  | cons x xs ih => exact (hg s x).trans (ih _)

theorem mem_eq (h : Loads s t) : t.fm.mem = s.fm.mem := by obtain ⟨_, _, _, _, rfl⟩ := h; rfl
theorem poison_eq (h : Loads s t) : t.fm.poison = s.fm.poison := by obtain ⟨_, _, _, _, rfl⟩ := h; rfl
theorem frame (h : Loads s t) : t = { s with fm := t.fm, mbx := t.mbx, ctr := t.ctr } := by obtain ⟨_, _, _, _, rfl⟩ := h; rfl

end Loads

theorem Reads.loads {s t : State} (h : Reads s t) : Loads s t := by obtain ⟨_, _, _, rfl⟩ := h; exact ⟨_, _, _, _, rfl⟩

theorem setArr_loads (a : Nat) (f : Arr → Arr) (s : State) : Loads s (setArr a f s) := ⟨_, _, _, _, rfl⟩

theorem tileScan_reads (o : ArrOpnd) (f d gr gc t i j : Nat) (s : State) : Reads s (tileScan o f d gr gc t i j s) := by
  unfold tileScan
  exact .ite ((fmScan_reads _ _ _ _ _).trans (fmScan_reads _ _ _ _ _)) (fmScan_reads _ _ _ _ _)

theorem tileLoad_loads (o : ArrOpnd) (gr gc d a t i j : Nat) (s : State) : Loads s (tileLoad o gr gc d a t i j s) := by
  unfold tileLoad
  exact (tileScan_reads _ _ _ _ _ _ _ _ _).loads.trans (setArr_loads _ _ _)

/-- Loading a tile leaves the halves of its array. -/
theorem halfOf_tileLoad (o : ArrOpnd) (gr gc d a t i j b : Nat) (h : Bool) (s : State) :
    halfOf (arrOf (tileLoad o gr gc d a t i j s) b) h = halfOf (arrOf s b) h := by
  have hscan := tileScan_reads o (fieldOf a) d gr gc t i j s
  by_cases hb : b = a
  · subst hb
    rw [tileLoad, arrOf_setArr_self, hscan.arrOf_eq]
    cases h <;> rfl
  · rw [tileLoad, arrOf_setArr_ne _ _ hb, hscan.arrOf_eq]

theorem arrOf_tileLoad_ne {a b : Nat} (o : ArrOpnd) (gr gc d t i j : Nat) (s : State) (hb : b ≠ a) :
    arrOf (tileLoad o gr gc d a t i j s) b = arrOf s b := by
  rw [tileLoad, arrOf_setArr_ne _ _ hb, (tileScan_reads o (fieldOf a) d gr gc t i j s).arrOf_eq]

/-! ## AZERO, TLOAD, DRAIN -/

theorem foldl_setHalf (h : Bool) (v : Half) (as : List Nat) (s : State) :
    ∃ arrs, as.foldl (fun t a => setArr a (setHalf h v) t) s = { s with fm := { s.fm with arrs := arrs } } ∧
      ∀ a, tabGet {} arrs a = if a ∈ as then setHalf h v (arrOf s a) else arrOf s a := by
  induction as generalizing s with
  | nil => exact ⟨s.fm.arrs, rfl, fun a => by simp [arrOf]⟩
  | cons b as ih =>
    obtain ⟨arrs, he, hget⟩ := ih (setArr b (setHalf h v) s)
    refine ⟨arrs, he, fun a => ?_⟩
    rw [hget]
    by_cases hab : a = b
    · subst hab; simp [arrOf_setArr_self, setHalf_setHalf]
    · simp [arrOf_setArr_ne _ _ hab, hab]

theorem unitLive_single {a : Nat} {s : State} (ha : a < nArrays s.part) (hdown : computeDown s = false) : unitLive s [a] = true := by
  simp [unitLive, hdown, ha]

/-- A tile load on one array. -/
theorem tload_single {a d b : Nat} {ty : AccTy} {o : ArrOpnd} {s : State} (h256 : a < 256) (ha : a < nArrays s.part) (hdown : computeDown s = false)
    (hp : pairOf o.inFmt o.wFmt = some (ty, d, b)) (hlo : 1 ≤ o.kLen) (hhi : o.kLen ≤ d) :
    tloadMove a o s = tileLoad o 1 1 d a 0 0 0 s := by
  have hnt : min 2 ((o.kLen + 1 * d - 1) / (1 * d)) = 1 := by
    have : (o.kLen + 1 * d - 1) / (1 * d) = 1 := Nat.div_eq_of_lt_le (by omega) (by omega)
    omega
  have hgrid := unitGrid_single s h256
  have hlive := unitLive_single ha hdown
  unfold tloadMove
  rw [hgrid]
  dsimp only
  rw [hp]
  dsimp only
  rw [hlive, if_neg (by decide), hnt]
  rfl

theorem notePoison_zero (x : MoveCtx) (s : State) : notePoison x 0 s = s := by
  unfold notePoison
  split
  · simp [setTick]
  · rfl

/-! ### DRAIN of one row of one array -/

theorem mergeCol_single {s : State} {h : Bool} (ty : AccTy) {a : Nat} (i : Nat) (hv : (halfOf (arrOf s a) h).valid = true)
    (hp : (halfOf (arrOf s a) h).poison = []) : mergeCol s h ty [a] i = (tabGet 0 (halfOf (arrOf s a) h).vals i, 0, false) := by
  simp [mergeCol, hv, hp, tabGet]

/-- An output of a single array without a mark. -/
theorem outCell_single {a : Nat} {ty : AccTy} {o : ArrOpnd} {x : MoveCtx} {s : State} {c : Nat} (hc : c < 16) (hr : x.resid = [])
    (hv : (halfOf (arrOf s a) o.half).valid = true) (hp : (halfOf (arrOf s a) o.half).poison = []) :
    outCell a 1 1 [a] ty (fun _ => false) o x s 0 c =
      (outVal ty o.outFmt o.outScale (tabGet 0 (halfOf (arrOf s a) o.half).vals c), 0, false, dice s.seq.seed o.stream (streamAt s a x) c, c) := by
  have hcol : ((List.range 1).map fun i => nth [a] (i * 1 + c / 16) 0) = [a] := by
    simp [Nat.div_eq_of_lt hc, nth]
  rw [outCell, hcol, mergeCol_single ty _ hv hp]
  simp [residHit, residAt, hr, Nat.mod_eq_of_lt hc]

theorem nth_map {α β : Type} (f : α → β) (xs : List α) {i : Nat} (d : α) (e : β) (h : i < xs.length) : nth (xs.map f) i e = f (nth xs i d) := by
  simp [nth, h]

/-- A code of a row in a format without scales. -/
theorem nth_rowCodes {o : ArrOpnd} {row : List OutCell} (hmx : fmtMx o.outFmt = false) {c : Nat} (hc : c < row.length) :
    nth (rowCodes o row) c 0 = match (nth row c (.code 0 .none, 0, false, 0, 0)).1 with
      | .code k _ => k
      | .val w _ => (convElem o.outFmt o.mode o.sat (nth row c (.code 0 .none, 0, false, 0, 0)).2.2.2.1 (dec32 w)).1 := by
  have hconv : nth (rowConv o row).1 c 0 = (convElem o.outFmt o.mode o.sat (cellValue (nth row c (.code 0 .none, 0, false, 0, 0))).2
      (dec32 (cellValue (nth row c (.code 0 .none, 0, false, 0, 0))).1)).1 := by
    simp only [rowConv, convRow, hmx, Bool.false_eq_true, if_false, List.map_map]
    exact nth_map _ row _ _ hc
  rw [rowCodes, hmx, if_neg (by decide), nth_map_range _ _ hc, hconv]
  generalize nth row c (.code 0 .none, 0, false, 0, 0) = v
  obtain ⟨v, rest⟩ := v
  cases v <;> rfl

theorem rowCodes_length {o : ArrOpnd} {row : List OutCell} (hmx : fmtMx o.outFmt = false) : (rowCodes o row).length = row.length := by
  simp [rowCodes, hmx]

/-! ### MM and MMT on one array -/

theorem zip_range_map {α : Type} (g : Nat → α) (n : Nat) : (List.range n).zip ((List.range n).map g) = (List.range n).map fun i => (i, g i) :=
  List.ext_getElem (by simp) fun i h1 h2 => by simp

theorem lookup_map_pair {α : Type} (g : Nat → α) (i : Nat) (ks : List Nat) (h : i ∈ ks) : (ks.map fun k => (k, g k)).lookup i = some (g i) := by
  induction ks with
  | nil => cases h
  | cons k ks ih =>
    by_cases hk : i = k
    · subst hk; simp
    · have hb : (i == k) = false := by simpa using hk
      rw [List.map_cons, List.lookup_cons, hb]
      exact ih (by simpa [hk] using h)

theorem tabGet_zip_range {α : Type} (d : α) (g : Nat → α) (rest : Tab α) {i n : Nat} (h : i < n) :
    tabGet d ((List.range n).zip ((List.range n).map g) ++ rest) i = g i := by
  rw [tabGet, List.lookup_append, zip_range_map, lookup_map_pair g i _ (by simpa using h)]
  rfl

theorem inScan_reads (o : ArrOpnd) (d gr gc : Nat) (as : List Nat) (s : State) : Reads s (inScan o d gr gc as s) :=
  Reads.foldl (fun t _ => Reads.foldl (fun u _ => Reads.foldl (fun v _ => Reads.foldl (fun w _ => fmScan_reads _ _ _ _ w) _ v) _ u) _ t) _ s

/-- The tiles of a move on one array, loaded one after the other. -/
def tilesLoaded (a d : Nat) (o : ArrOpnd) (s : State) : State :=
  (List.range ((o.kLen + 1 * d - 1) / (1 * d))).foldl (fun u k => tileLoad o 1 1 d a k 0 0 u) (inScan o d 1 1 [a] s)

theorem tilesLoaded_loads (a d : Nat) (o : ArrOpnd) (s : State) : Loads s (tilesLoaded a d o s) :=
  (inScan_reads _ _ _ _ _ s).loads.trans (Loads.foldl (fun _ _ => tileLoad_loads _ _ _ _ _ _ _ _ _) _ _)

theorem tilesLoaded_arrs (a d : Nat) (o : ArrOpnd) (s : State) :
    (∀ h, halfOf (arrOf (tilesLoaded a d o s) a) h = halfOf (arrOf s a) h) ∧ ∀ b, b ≠ a → arrOf (tilesLoaded a d o s) b = arrOf s b := by
  have hfold : ∀ (ks : List Nat) (u : State), (∀ h, halfOf (arrOf (ks.foldl (fun u k => tileLoad o 1 1 d a k 0 0 u) u) a) h = halfOf (arrOf u a) h) ∧
      ∀ b, b ≠ a → arrOf (ks.foldl (fun u k => tileLoad o 1 1 d a k 0 0 u) u) b = arrOf u b := fun ks => by
    induction ks with
    | nil => exact fun u => ⟨fun _ => rfl, fun _ _ => rfl⟩
    | cons k ks ih =>
      intro u
      obtain ⟨hh, hne⟩ := ih (tileLoad o 1 1 d a k 0 0 u)
      exact ⟨fun h => (hh h).trans (halfOf_tileLoad _ _ _ _ _ _ _ _ _ _ _), fun b hb => (hne b hb).trans (arrOf_tileLoad_ne _ _ _ _ _ _ _ _ hb)⟩
  obtain ⟨hh, hne⟩ := hfold (List.range ((o.kLen + 1 * d - 1) / (1 * d))) (inScan o d 1 1 [a] s)
  have hscan := inScan_reads o d 1 1 [a] s
  exact ⟨fun h => (hh h).trans (by rw [hscan.arrOf_eq]), fun b hb => (hne b hb).trans (hscan.arrOf_eq b)⟩

/-- A product on one array without the output stage: it loads its tiles, puts the new half and counts. -/
theorem matMove_single {trans : Bool} {a d b : Nat} {ty : AccTy} {o : ArrOpnd} (x : MoveCtx) {s : State} (h256 : a < 256)
    (ha : a < nArrays s.part) (hdown : computeDown s = false) (hp : pairOf o.inFmt o.wFmt = some (ty, d, b)) (hkeep : o.keep = false)
    (hdrain : o.drain = false) : ∃ H t, matMove trans a o x s = t ∧ Reads (setArr a (setHalf o.half H) (tilesLoaded a d o s)) t ∧ H.ty = ty ∧
      ∀ i, i < 16 * o.m → tabGet 0 H.vals i = (accumulate s o ty d 1 0 (fieldOf a) (i / 16) (i % 16) trans
        ((List.range ((o.kLen + 1 * d - 1) / (1 * d))).map fun k => (k, tileRead s o (fieldOf a) d 1 1 k 0 0))
        (if o.acc then tabGet 0 (halfOf (arrOf s a) o.half).vals i else 0, false)).1 := by
  have hgrid := unitGrid_single s h256
  have hlive := unitLive_single ha hdown
  have hnth : nth [a] (0 * 1 + 0) 0 = a := rfl
  unfold matMove
  rw [hgrid]
  dsimp only
  rw [hp]
  dsimp only
  rw [hlive, if_neg (by decide)]
  cases ty
  all_goals
    simp only [hkeep, hdrain, Bool.false_and, Bool.false_eq_true, if_false, List.range_one, List.map_cons, List.map_nil, List.flatMap_cons,
      List.flatMap_nil, List.append_nil, List.foldl_cons, List.foldl_nil, List.map_map, hnth]
    exact ⟨_, _, rfl, (bumpBy_reads _ _ _).trans (residCount_reads _ _ _ _ _ _), rfl, fun i hi => tabGet_zip_range _ _ _ hi⟩

theorem rowMarks_length {o : ArrOpnd} {row : List OutCell} (hmx : fmtMx o.outFmt = false) : (rowMarks o row).length = row.length := by
  simp [rowMarks, rowCodes_length hmx]

/-- DRAIN of one row of one array without marks: its codes are stored, and what the row counts is counted. -/
theorem drain_single {a : Nat} {o : ArrOpnd} (x : MoveCtx) {s : State} (h256 : a < 256) (ha : a < nArrays s.part) (hdown : computeDown s = false)
    (hm : o.m = 1) (hmx : fmtMx o.outFmt = false) (ham : o.amaxEn = false) (hal : o.outAddr % 8 = 0) (hr : x.resid = [])
    (hwf : memWf 0 s.fm.mem = true) (hv : (halfOf (arrOf s a) o.half).valid = true) (hp : (halfOf (arrOf s a) o.half).poison = [])
    (hon : ∀ i, i < elemBytes o.outFmt 16 → bankOn s (fieldOf a) (o.outAddr + i) = true) :
    ∃ t, drainMove a o x s = t ∧
      (∀ i, memRead 0 t.fm.mem i =
        (let cs := rowCodes o (outRow a 1 1 [a] (halfOf (arrOf s a) o.half).ty (fun _ => false) o x s 0)
         if chipAddr (fieldOf a) o.outAddr ≤ i ∧ i < chipAddr (fieldOf a) o.outAddr + roundUp (elemBytes o.outFmt cs.length) 8 then
          nth (packCodes o.outFmt cs) (i - chipAddr (fieldOf a) o.outAddr) 0 else memRead 0 s.fm.mem i)) ∧
      t = { s with fm := { t.fm with arrs := s.fm.arrs }, mbx := t.mbx, ctr := t.ctr, free := t.free } := by
  obtain ⟨amax, hstage⟩ := outStage_eq a 1 1 [a] (halfOf (arrOf s a) o.half).ty (fun _ => false) o x s
  have hgrid := unitGrid_single s h256
  have hlive := unitLive_single ha hdown
  obtain ⟨row, hrow⟩ : ∃ row, row = outRow a 1 1 [a] (halfOf (arrOf s a) o.half).ty (fun _ => false) o x s 0 := ⟨_, rfl⟩
  have hmarks : ∀ v ∈ row, v.2.1 = 0 := by
    intro v hv'
    rw [hrow] at hv'
    obtain ⟨c, hc, rfl⟩ := List.mem_map.mp hv'
    rw [outCell_single (by simpa using hc) hr hv hp]
  have hlen : (rowCodes o row).length = 16 := by rw [rowCodes_length hmx, hrow]; simp [outRow]
  have hpoison : rowsPoison [row] = 0 := by
    rw [rowsPoison, List.foldl_cons, List.foldl_nil, ← List.foldl_map]
    exact foldl_or_zero _ fun p hp' => by obtain ⟨v, hv', rfl⟩ := List.mem_map.mp hp'; exact hmarks v hv'
  have hdrain : drainMove a o x s = draw (residCount 1 1 1 [a] x (countRow 1 1 [a] (halfOf (arrOf s a) o.half).ty o row
      (storeCodes 32 (fieldOf a) o.outFmt o.outAddr (rowCodes o row) (rowMarks o row) s))) := by
    have hstore : storeRow 1 1 [a] o 0 row s = storeCodes 32 (fieldOf a) o.outFmt o.outAddr (rowCodes o row) (rowMarks o row) s := by
      have hmlen : (rowMarks o row).length = 16 := by rw [rowMarks_length hmx, ← rowCodes_length hmx, hlen]
      rw [storeRow, hlen]
      simp [List.range_one, elemBytes, outField, nth, List.take_of_length_le, hlen, hmlen]
    rw [drainMove, hgrid]
    dsimp only
    rw [hlive, if_neg (by decide), show nth [a] ((1 - 1) * 1) 0 = a from rfl, hstage, hm]
    simp only [List.range_one, List.map_cons, List.map_nil, List.zip_cons_cons, List.zip_nil_left, List.foldl_cons, List.foldl_nil, ham,
      Bool.false_eq_true, if_false, storeRowScales, hmx, ← hrow, hpoison, notePoison_zero, hstore]
  have hreads := (countRow_reads 1 1 [a] (halfOf (arrOf s a) o.half).ty o row
    (storeCodes 32 (fieldOf a) o.outFmt o.outAddr (rowCodes o row) (rowMarks o row) s)).trans (residCount_reads 1 1 1 [a] x _)
  have hstores : Stores [(chipAddr (fieldOf a) o.outAddr, elemBytes o.outFmt (rowCodes o row).length)] s (drainMove a o x s) := by
    rw [hdrain]
    exact ((storeCodes_stores _ s ⟨_, List.mem_singleton.mpr rfl, Nat.le_refl _, Nat.le_refl _⟩).trans (hreads.stores _)).trans (draw_stores _ _)
  refine ⟨_, rfl, fun i => ?_, ?_⟩
  · rw [hdrain, draw_fm, hreads.mem_eq]
    refine (storeCodes_read hal hwf (fun p hp' => ?_) (fun k hk => hon k (by rwa [hlen] at hk)) i).trans (by rw [hrow])
    simp only [rowMarks, List.mem_append, List.mem_map, List.mem_replicate] at hp'
    rcases hp' with ⟨v, hv', rfl⟩ | ⟨hn, -⟩
    · exact hmarks v hv'
    · exact absurd (by rw [rowCodes_length hmx]; simp) hn
  · obtain ⟨_, _, _, _, _, _, _, he⟩ := hstores.frame
    rw [he]

/-- Settles O26: the named half of every array; one tile; one row converted and stored. -/
theorem arrayMoves : Obligations.ArrayMoves := by
  refine ⟨fun unit h ty s hlive => ?_, fun a d b ty o x s h256 ha hdown hp hlo hhi => ?_,
    fun a o x s h256 ha hdown hm hmx hbits ham hal hr hwf hv hp hon => ?_⟩
  · have hexec : exec (.azero unit h ty) s = .next (azeroMove unit h ty s) := rfl
    obtain ⟨arrs, hfold, hget⟩ := foldl_setHalf h { ty := ty, valid := true, vals := [], poison := [] } (unitGrid s unit).2.2 s
    rw [azeroMove, hlive, if_neg (by decide), hfold] at hexec
    exact ⟨_, hexec, fun a ha => (hget a).trans (if_pos ha), fun a ha => (hget a).trans (if_neg ha), rfl⟩
  · have hexec : exec (.tload a o x) s = .next (tloadMove a o s) := rfl
    have hscan := tileScan_reads o (fieldOf a) d 1 1 0 0 0 s
    have hload := tileLoad_loads o 1 1 d a 0 0 0 s
    rw [tload_single h256 ha hdown hp hlo hhi] at hexec
    refine ⟨_, hexec, ?_, ?_, halfOf_tileLoad o 1 1 d a 0 0 0 a false s, halfOf_tileLoad o 1 1 d a 0 0 0 a true s,
      fun a' ha' => arrOf_tileLoad_ne o 1 1 d 0 0 0 s ha', hload.mem_eq, hload.frame⟩
    · rw [tileLoad, arrOf_setArr_self]
    · rw [tileLoad, arrOf_setArr_self, hscan.arrOf_eq]
      cases (arrOf s a).tr <;> rfl
  · have hexec : exec (.drain a o x) s = .next (drainMove a o x s) := rfl
    obtain ⟨t, ht, hmem, hframe⟩ := drain_single x h256 ha hdown hm hmx ham hal hr hwf hv hp hon
    rw [ht] at hexec
    have hlen : (rowCodes o (outRow a 1 1 [a] (halfOf (arrOf s a) o.half).ty (fun _ => false) o x s 0)).length = 16 := by
      rw [rowCodes_length hmx]; simp [outRow]
    have hround : roundUp (elemBytes o.outFmt 16) 8 = elemBytes o.outFmt 16 := by cases o.outFmt <;> rfl
    simp only [hlen, hround] at hmem
    refine ⟨t, hexec, fun n hn => ?_, fun i hi => ?_, ?_, ?_⟩
    · rw [elemCode_of_packed (cs := rowCodes o (outRow a 1 1 [a] (halfOf (arrOf s a) o.half).ty (fun _ => false) o x s 0)) hbits
        (by omega) fun k hk => ?_, nth_rowCodes hmx (by simpa [outRow] using hn)]
      · rw [outRow, nth_map_range _ _ (by omega), outCell_single hn hr hv hp] <;> rfl
      · rw [hlen] at hk
        rw [fmByte, hmem, if_pos (by unfold chipAddr; omega)]
        congr 1; unfold chipAddr; omega
    · rw [hmem, if_neg (by omega)]
    · rw [hframe]
    · rw [hframe]

/-- Settles O27: the products of one array, from the half that `matMove_single` names. -/
theorem arrayProductAccumulates : Obligations.ArrayProductAccumulates := by
  intro trans a d b ty o x s h256 ha hdown hp hkeep hdrain
  obtain ⟨H, t, ht, hreads, hty, hvals⟩ := matMove_single (trans := trans) x h256 ha hdown hp hkeep hdrain
  obtain ⟨hhalf, hother⟩ := tilesLoaded_arrs a d o s
  have hloads := (tilesLoaded_loads a d o s).trans ((setArr_loads a (setHalf o.half H) _).trans hreads.loads)
  have hnew : halfOf (arrOf t a) o.half = H := by rw [hreads.arrOf_eq, arrOf_setArr_self, halfOf_setHalf_self]
  have hexec : exec (if trans then .mmt a o x else .mm a o x) s = .next t := by rw [← ht]; cases trans <;> rfl
  refine ⟨t, hexec, by rw [hnew, hty], fun r n hr hn => ?_, ?_, fun a' ha' => ?_, hloads.mem_eq, hloads.poison_eq, hloads.frame⟩
  · rw [hnew, hvals _ (by omega), show (16 * r + n) / 16 = r by omega, show (16 * r + n) % 16 = n by omega]
  · rw [hreads.arrOf_eq, arrOf_setArr_self, halfOf_setHalf_not, hhalf]
  · rw [hreads.arrOf_eq, arrOf_setArr_ne _ _ ha', hother a' ha']

end Sys2Proof.Machine
end

section
/-! PROOFS. A row reduction that stores outside its output (R169, R172, R176). -/

namespace Sys2Proof.Machine
open Sys2Proof Sys2Proof.Safety

/-! ## A row reduction that stores outside its output (R169, R172) -/

/-- A row reduction of one row of 64 elements to one word at address 4, in place: its output lies in its operand. -/
def doneReduction : VecOpnd :=
  { aAddr := 0, bAddr := 0, cAddr := 0, dAddr := 0, outAddr := 4, scAddr := 0, maskAddr := 0, amaxAddr := 0, aFmt := .fp32, bFmt := .fp32,
    cFmt := .fp32, outFmt := .fp32, cmp := .lt, outEn := false, n := 1, len := 64, outScale := one32, mode := .nearest, sat := false,
    stream := 0, amaxEn := false }

def doneContext : MoveCtx := { mid := 1, cls := .frame, jclass := 0, streamC := 0, resid := [] }

/-- A cancelled run has done the move's one vector of results, bank 0 is on, and the byte at address 256 is 1. -/
def doneState : State :=
  { boot := { stage := .ready }, fm := { mem := [(256, 1)], banks := [(0, .on)] }, seq := { resume := [(1, { next := 1 })] } }

/-- The rest of the move writes no result, yet it clears the group at address 256. -/
theorem doneReduction_clears : (vecWhole 0x41 0 doneReduction doneContext doneState).fm.mem = [] := by decide +kernel

/-- Refutes O31: a row reduction that a cancelled run has finished in place writes an empty list of results at the place of result 64; with an
output that is not aligned to a group this clears the group there, behind the output. -/
theorem not_movesKeepOutsideStores : ¬ Obligations.MovesKeepOutsideStores := by
  unfold Obligations.MovesKeepOutsideStores
  intro h
  obtain ⟨t, hexec, -, hkeep, -⟩ := h (.vrmax 0 doneReduction doneContext) [(4, 4)] doneState (by decide) (by decide)
  obtain rfl : vecWhole 0x41 0 doneReduction doneContext doneState = t := by
    injection hexec
  have hbyte := hkeep 256 (by decide)
  rw [doneReduction_clears] at hbyte
  exact absurd hbyte (by decide)

end Sys2Proof.Machine
end

section
/-! PROOFS. The element operations of the vector engine (R166 to R172). -/

namespace Sys2Proof.Machine
open Sys2Proof Sys2Proof.Safety

/-! ## Vector moves without marks (R166 to R172) -/

/-- The codes of results without scales, as steps 3 to 6 give them. -/
def vCodes (f : Nat) (o : VecOpnd) (x : MoveCtx) (rs : List VRes) (s : State) : List Nat :=
  rs.map fun r => (convElem o.outFmt o.mode o.sat (dice s.seq.seed o.stream (streamAt s (0x500 + f) x) r.e) (dec32 (scaleOut o.outScale r.v).1)).1

theorem convRow_codes {o : VecOpnd} (hmx : fmtMx o.outFmt = false) (f : Nat) (x : MoveCtx) (rs : List VRes) (s : State) :
    (convRow o.outFmt o.mode o.sat (((rs.map fun r => scaleOut o.outScale r.v).map Prod.fst).zip
      (rs.map fun r => dice s.seq.seed o.stream (streamAt s (0x500 + f) x) r.e))).1 = vCodes f o x rs s := by
  rw [convRow, hmx, if_neg (by decide), List.map_map, List.zip_map', List.map_map]
  simp [vCodes, Function.comp_def]

theorem resPoison_clean {x : MoveCtx} {r : VRes} (hr : x.resid = []) (hp : r.p = 0) : resPoison x r = 0 := by simp [resPoison, hr, hp]

theorem resPoisons_clean {x : MoveCtx} {rs : List VRes} (hr : x.resid = []) (hp : ∀ r ∈ rs, r.p = 0) : resPoisons x rs = 0 := by
  rw [resPoisons, ← List.foldl_map]
  refine foldl_or_zero _ fun p hp' => ?_
  obtain ⟨r, hr', rfl⟩ := List.mem_map.mp hp'
  exact resPoison_clean hr (hp r hr')

theorem vCodes_length (f : Nat) (o : VecOpnd) (x : MoveCtx) (rs : List VRes) (s : State) : (vCodes f o x rs s).length = rs.length := by
  simp [vCodes]

/-- Writing results without marks to a format without scales: their codes are stored, and exceptions are counted. -/
theorem vWrite_clean {f addr base total : Nat} {o : VecOpnd} {x : MoveCtx} {rs : List VRes} {s : State} (hmx : fmtMx o.outFmt = false)
    (hr : x.resid = []) (hp : ∀ r ∈ rs, r.p = 0) :
    Reads (storeCodes 256 f o.outFmt (addr + elemBytes o.outFmt base) (vCodes f o x rs s) (List.replicate rs.length 0) s)
      (vWrite f o x addr base total rs s) := by
  have hps : rs.map (resPoison x) = List.replicate rs.length 0 :=
    List.eq_replicate_iff.mpr ⟨by simp, fun b hb => by
      obtain ⟨r, hr', rfl⟩ := List.mem_map.mp hb; exact resPoison_clean hr (hp r hr')⟩
  unfold vWrite
  dsimp only
  rw [convRow_codes hmx, hps, vCodes_length, List.length_replicate, Nat.sub_self, List.replicate_zero, List.append_nil,
    resPoisons_clean hr hp, notePoison_zero, hmx, if_neg (by decide)]
  exact (countAx_reads _ _ _).trans (bumpBy_reads _ _ _)

/-- A move without an amax word ends: it keeps how far it has come. -/
theorem vFinish_plain (op f : Nat) {o : VecOpnd} (x : MoveCtx) (u : VRun) (r : VecResume) (s : State) (h : o.amaxEn = false) :
    ∃ resume, vFinish op f o x u r s = draw (setSeq (fun q => { q with resume := resume }) s) := by
  rw [vFinish, h, Bool.and_false, if_neg (by decide), keepResume]
  split
  · exact ⟨_, rfl⟩
  · exact ⟨s.seq.resume, rfl⟩

theorem elemBytes_words {f : Fmt} (h : 8 ≤ fmtBits f) (n : Nat) : elemBytes f n = n * (fmtBits f / 8) := by
  unfold elemBytes
  cases f <;> simp [fmtBits] at h ⊢ <;> omega

theorem elemBytes_vectors {f : Fmt} (h : 8 ≤ fmtBits f) (n : Nat) : elemBytes f (64 * n) % 8 = 0 := by
  rw [elemBytes_words h, Nat.mul_assoc]; omega

theorem elemBytes_add {f : Fmt} (h : 8 ≤ fmtBits f) (m n : Nat) : elemBytes f (m + n) = elemBytes f m + elemBytes f n := by
  rw [elemBytes_words h, elemBytes_words h, elemBytes_words h, Nat.add_mul]

theorem elemCode_add {f : Fmt} (h : 8 ≤ fmtBits f) (s : State) (fi a base j : Nat) :
    elemCode s fi f a (base + j) = elemCode s fi f (a + elemBytes f base) j := by
  have h4 : fmtBits f ≠ 4 := by omega
  unfold elemCode
  split
  · next e => exact absurd e h4
  · rw [elemBytes_words h, Nat.add_mul, Nat.add_assoc]

/-- What the end of a vector move leaves, whose results without marks are stored densely from result `base` on: every stored result reads its
code, every byte outside them keeps its value. -/
theorem vEnd_clean {op f base total : Nat} {o : VecOpnd} {x : MoveCtx} {u : VRun} {r : VecResume} {rs : List VRes} {s s3 : State}
    (hreads : Reads s s3) (hmx : fmtMx o.outFmt = false) (hbits : 8 ≤ fmtBits o.outFmt) (ham : o.amaxEn = false) (hal : o.outAddr % 8 = 0)
    (hbase : elemBytes o.outFmt base % 8 = 0) (hr : x.resid = []) (hwf : memWf 0 s.fm.mem = true) (hp : ∀ r ∈ rs, r.p = 0)
    (hon : ∀ k, k < elemBytes o.outFmt rs.length → bankOn s f (o.outAddr + elemBytes o.outFmt base + k) = true) :
    ∃ t, vFinish op f o x u r (vWrite f o x o.outAddr base total rs s3) = t ∧
      (∀ j, j < rs.length → elemCode t f o.outFmt o.outAddr (base + j) = nth (vCodes f o x rs s) j 0 % 2 ^ fmtBits o.outFmt) ∧
      (∀ k, (k < chipAddr f o.outAddr + elemBytes o.outFmt base ∨
        chipAddr f o.outAddr + elemBytes o.outFmt base + roundUp (elemBytes o.outFmt rs.length) 8 ≤ k) →
        memRead 0 t.fm.mem k = memRead 0 s.fm.mem k) ∧
      t = { s with fm := t.fm, seq := { s.seq with resume := t.seq.resume }, mbx := t.mbx, ctr := t.ctr, free := t.free } := by
  obtain ⟨resume, hfin⟩ := vFinish_plain op f x u r (vWrite f o x o.outAddr base total rs s3) ham
  have hwrite := vWrite_clean (addr := o.outAddr) (base := base) (total := total) (f := f) (s := s3) hmx hr hp
  have hcodes : vCodes f o x rs s3 = vCodes f o x rs s := by
    have hseq := hreads.seq_eq
    unfold vCodes streamAt issuedRun
    rw [hseq]
  rw [hcodes] at hwrite
  have hlen := vCodes_length f o x rs s
  have hmem : ∀ k, memRead 0 (vWrite f o x o.outAddr base total rs s3).fm.mem k =
      if chipAddr f (o.outAddr + elemBytes o.outFmt base) ≤ k ∧
        k < chipAddr f (o.outAddr + elemBytes o.outFmt base) + roundUp (elemBytes o.outFmt rs.length) 8 then
        nth (packCodes o.outFmt (vCodes f o x rs s)) (k - chipAddr f (o.outAddr + elemBytes o.outFmt base)) 0
      else memRead 0 s.fm.mem k := by
    intro k
    rw [hwrite.mem_eq, storeCodes_read (by omega) (by rw [hreads.mem_eq]; exact hwf) (fun p hp' => List.eq_of_mem_replicate hp')
      (fun k hk => by rw [hreads.bankOn_eq]; exact hon k (by rwa [hlen] at hk)), hlen, hreads.mem_eq]
  have hstores : Stores [(chipAddr f (o.outAddr + elemBytes o.outFmt base), elemBytes o.outFmt rs.length)] s
      (vWrite f o x o.outAddr base total rs s3) := by
    have hin : Within [(chipAddr f (o.outAddr + elemBytes o.outFmt base), elemBytes o.outFmt rs.length)]
        (chipAddr f (o.outAddr + elemBytes o.outFmt base), elemBytes o.outFmt (vCodes f o x rs s).length) :=
      ⟨_, List.mem_singleton.mpr rfl, Nat.le_refl _, by rw [hlen]⟩
    exact (hreads.stores _).trans ((storeCodes_stores _ s3 hin).trans (hwrite.stores _))
  refine ⟨_, rfl, fun j hj => ?_, fun k hk => ?_, ?_⟩
  · rw [elemCode_add hbits, hfin]
    refine elemCode_of_packed hbits (by rwa [hlen]) fun k hk => ?_
    rw [hlen] at hk
    have hround : elemBytes o.outFmt rs.length ≤ roundUp (elemBytes o.outFmt rs.length) 8 := by unfold roundUp; omega
    refine (hmem _).trans ?_
    rw [if_pos (by unfold chipAddr; omega)]
    congr 1; unfold chipAddr; omega
  · rw [hfin]
    refine (hmem k).trans (if_neg ?_)
    unfold chipAddr at *
    omega
  · rw [hfin]
    obtain ⟨_, _, _, _, _, _, _, he⟩ := hstores.frame
    rw [he]
    rfl

/-! ## The element operations (Table 06-7) -/

theorem vScanPart_reads (f : Nat) (v : VOp) (lo n : Nat) (s : State) : Reads s (vScanPart f v lo n s) := by
  unfold vScanPart
  exact .ite ((fmScan_reads _ _ _ _ _).trans (fmScan_reads _ _ _ _ _)) (fmScan_reads _ _ _ _ _)

theorem vScan_reads (f : Nat) (v : VOp) (s : State) : Reads s (vScan f v s) := by
  unfold vScan
  exact .ite ((fmScan_reads _ _ _ _ _).trans (fmScan_reads _ _ _ _ _)) (fmScan_reads _ _ _ _ _)

/-- Every row of `elementRow` is an element operation on operands among a, b and c, whose value is `elementValue`. -/
theorem elementRow_elemMove {i : Instr} {f : Nat} {o : VecOpnd} {x : MoveCtx} (s : State) (h : elementRow i = some (f, o, x)) :
    ∃ op ops m, exec i s = .next (elemMove op f o x (wholeRun s op o x) ops m (elementValue i s) s) ∧ vecUnits op o = o.n ∧
      startsAt i s = (resumeOf s op o x).next ∧ ∀ v ∈ ops, v = opA o ∨ v = opB o ∨ v = opC o := by
  have hone : ∀ v ∈ [opA o], v = opA o ∨ v = opB o ∨ v = opC o := by simp
  have htwo : ∀ v ∈ [opA o, opB o], v = opA o ∨ v = opB o ∨ v = opC o := by simp
  have hthree : ∀ v ∈ [opA o, opB o, opC o], v = opA o ∨ v = opB o ∨ v = opC o := by simp
  unfold elementRow at h
  split at h
  case h_24 => cases h
  all_goals obtain ⟨rfl, rfl, rfl⟩ : _ ∧ _ ∧ _ := by simpa using h
  · exact ⟨0x20, [opA _, opB _], false, rfl, rfl, rfl, htwo⟩
  · exact ⟨0x21, [opA _, opB _], false, rfl, rfl, rfl, htwo⟩
  · exact ⟨0x22, [opA _, opB _], false, rfl, rfl, rfl, htwo⟩
  · exact ⟨0x23, [opA _, opB _, opC _], false, rfl, rfl, rfl, hthree⟩
  · exact ⟨0x24, [opA _], false, rfl, rfl, rfl, hone⟩
  · exact ⟨0x25, [opA _, opB _], false, rfl, rfl, rfl, htwo⟩
  · exact ⟨0x26, [opA _, opB _], false, rfl, rfl, rfl, htwo⟩
  · exact ⟨0x27, [opA _], false, rfl, rfl, rfl, hone⟩
  · exact ⟨0x28, [opA _], false, rfl, rfl, rfl, hone⟩
  · exact ⟨0x29, [opA _], false, rfl, rfl, rfl, hone⟩
  · exact ⟨0x2B, [opA _, opB _], true, rfl, rfl, rfl, htwo⟩
  · exact ⟨0x30, [opA _, opB _], false, rfl, rfl, rfl, htwo⟩
  · exact ⟨0x31, [opA _], false, rfl, rfl, rfl, hone⟩
  · exact ⟨0x32, [opA _], false, rfl, rfl, rfl, hone⟩
  · exact ⟨0x33, [opA _], false, rfl, rfl, rfl, hone⟩
  · exact ⟨0x34, [opA _], false, rfl, rfl, rfl, hone⟩
  · exact ⟨0x35, [opA _], false, rfl, rfl, rfl, hone⟩
  · exact ⟨0x36, [opA _], false, rfl, rfl, rfl, hone⟩
  · exact ⟨0x37, [opA _], false, rfl, rfl, rfl, hone⟩
  · exact ⟨0x38, [opA _], false, rfl, rfl, rfl, hone⟩
  · exact ⟨0x39, [opA _], false, rfl, rfl, rfl, hone⟩
  · exact ⟨0x3A, [opA _], false, rfl, rfl, rfl, hone⟩
  · exact ⟨0x3B, [opA _], false, rfl, rfl, rfl, hone⟩

/-- The marks of the operands of an element without marks. -/
theorem foldl_vPoison_zero {s : State} {f : Nat} {e : Nat} {ops : List VOp} (h : ∀ v ∈ ops, vPoison s f v e = 0) :
    ops.foldl (fun a v => a ||| vPoison s f v e) 0 = 0 := by
  rw [← List.foldl_map (f := fun v => vPoison s f v e) (g := fun a p => a ||| p)]
  exact foldl_or_zero _ fun p hp => by obtain ⟨v, hv, rfl⟩ := List.mem_map.mp hp; exact h v hv

/-- Result e of an element operation, with the marks of its operands. -/
def elemResult (f : Nat) (o : VecOpnd) (ops : List VOp) (m : Bool) (g : Nat → W32) (s : State) (e : Nat) : VRes :=
  let p := ops.foldl (fun a v => a ||| vPoison s f v e) (vScalarPoison s f o)
  ⟨g e, if m then p ||| fmPoisonAt s f (o.maskAddr + e / 8) else p, e, false⟩

/-- The results of a run of an element operation. -/
def elemResults (f : Nat) (o : VecOpnd) (u : VRun) (ops : List VOp) (m : Bool) (g : Nat → W32) (s : State) : List VRes :=
  (List.range (64 * (u.hi - u.lo))).map fun k => elemResult f o ops m g s (64 * u.lo + k)

/-- An element operation reads its operands, writes its results and ends. -/
theorem elemMove_writes {f : Nat} {s : State} (op : Nat) (o : VecOpnd) (x : MoveCtx) (u : VRun) (ops : List VOp) (m : Bool) (g : Nat → W32)
    (h : fieldLive s f = true) : ∃ r s3, Reads s s3 ∧ elemMove op f o x u ops m g s =
      vFinish op f o x u r (vWrite f o x o.outAddr (64 * u.lo) (64 * o.n) (elemResults f o u ops m g s) s3) := by
  rw [elemMove, h, if_neg (by decide)]
  refine ⟨_, _, ?_, rfl⟩
  have hops := (fmScan_reads 256 f o.scAddr 64 s).trans
    (Reads.foldl (fun t v => vScanPart_reads f v (64 * u.lo) (64 * (u.hi - u.lo)) t) ops _)
  exact .ite (hops.trans (fmScan_reads _ _ _ _ _)) hops

/-- Settles O28: the results of an element operation from the vector it resumes at. -/
theorem vectorElementsStored : Obligations.VectorElementsStored := by
  intro i f o x s hrow hlive hmx hbits ham hal hr hwf hun hon
  obtain ⟨op, ops, m, hexec, hunits, hstart, hops⟩ := elementRow_elemMove s hrow
  obtain ⟨hmarks, hsc⟩ := hun
  obtain ⟨lo, hlo⟩ : ∃ lo, lo = min (startsAt i s) o.n := ⟨_, rfl⟩
  have hrun : wholeRun s op o x = { lo := lo, hi := o.n, fin := true } := by rw [wholeRun, hunits, ← hstart, hlo]
  obtain ⟨r, s3, hreads, hwrites⟩ := elemMove_writes op o x (wholeRun s op o x) ops m (elementValue i s) hlive
  rw [hwrites, hrun] at hexec
  have hlen : (elemResults f o ⟨lo, o.n, true⟩ ops m (elementValue i s) s).length = 64 * (o.n - lo) := by simp [elemResults]
  have hadd := elemBytes_add hbits (64 * lo) (64 * (o.n - lo))
  rw [show 64 * lo + 64 * (o.n - lo) = 64 * o.n by omega] at hadd
  have hvec := elemBytes_vectors hbits (o.n - lo)
  have hclean : ∀ e, e < 64 * o.n → (elemResult f o ops m (elementValue i s) s e).p = 0 := by
    intro e he
    obtain ⟨ha, hb, hc, hm⟩ := hmarks e he
    have hfold : ops.foldl (fun a v => a ||| vPoison s f v e) 0 = 0 := foldl_vPoison_zero fun v hv => by
      rcases hops v hv with rfl | rfl | rfl
      · exact ha
      · exact hb
      · exact hc
    simp only [elemResult, hsc, hfold, hm]
    cases m <;> rfl
  obtain ⟨t, ht, hcodes, hkeep, hframe⟩ := vEnd_clean (op := op) (total := 64 * o.n) (u := ⟨lo, o.n, true⟩) (r := r) hreads hmx hbits ham hal
    (elemBytes_vectors hbits lo) hr hwf (rs := elemResults f o ⟨lo, o.n, true⟩ ops m (elementValue i s) s)
    (fun v hv => by
      obtain ⟨k, hk, rfl⟩ := List.mem_map.mp hv
      rw [List.mem_range] at hk
      exact hclean _ (by dsimp only at hk ⊢; omega))
    (fun k hk => by rw [hlen] at hk; rw [Nat.add_assoc]; exact hon _ (by omega))
  rw [ht] at hexec
  refine ⟨t, hexec, fun e hlo' he => ?_, fun k hk => hkeep k ?_, hframe⟩
  · have hcode := hcodes (e - 64 * lo) (by rw [hlen]; omega)
    rw [show 64 * lo + (e - 64 * lo) = e by omega] at hcode
    rw [hcode, vCodes, elemResults, List.map_map, nth_map_range _ _ (by dsimp only; omega)]
    simp only [Function.comp_apply, elemResult, show 64 * lo + (e - 64 * lo) = e by omega]
  · rw [hlen]
    unfold roundUp
    rw [← hlo] at hk
    omega

end Sys2Proof.Machine
end

section
/-! PROOFS. The row operations of the vector engine, VCMP, VTRN and VADAM (R169 to R172). -/

namespace Sys2Proof.Machine
open Sys2Proof Sys2Proof.Safety

/-! ## Row reductions (R169) -/

theorem rowReduction_rowMove {i : Instr} {f : Nat} {o : VecOpnd} {x : MoveCtx} {g : List W32 → W32} (s : State)
    (h : rowReduction i = some (f, o, x, g)) :
    ∃ op gg, exec i s = .next (rowMove op f o x (wholeRun s op o x) gg s) ∧ vecUnits op o = (rowCount o + 63) / 64 ∧
      startsAt i s = (resumeOf s op o x).next ∧ ∀ xs, (gg xs).1 = g xs := by
  unfold rowReduction at h
  split at h
  case h_6 => cases h
  all_goals obtain ⟨rfl, rfl, rfl, rfl⟩ : _ ∧ _ ∧ _ ∧ _ := by simpa using h
  · exact ⟨0x40, sumOvf, rfl, rfl, rfl, fun _ => rfl⟩
  · exact ⟨0x41, fun xs => (maxRow xs, false), rfl, rfl, rfl, fun _ => rfl⟩
  · exact ⟨0x42, fun xs => (minRow xs, false), rfl, rfl, rfl, fun _ => rfl⟩
  · exact ⟨0x43, ssqOvf, rfl, rfl, rfl, fun _ => rfl⟩
  · exact ⟨0x44, fun xs => (argmaxRow xs, false), rfl, rfl, rfl, fun _ => rfl⟩

/-- Result r of a row reduction. -/
def reduceResult (f : Nat) (o : VecOpnd) (g : List W32 → W32 × Bool) (s : State) (r : Nat) : VRes :=
  let y := g ((rowElems o r).map fun e => vElem s f (opA o) e)
  ⟨y.1, rowPoison s f o r ||| vScalarPoison s f o, r, y.2⟩

def reduceResults (f : Nat) (o : VecOpnd) (u : VRun) (g : List W32 → W32 × Bool) (s : State) : List VRes :=
  (List.range (min (64 * u.hi) (rowCount o) - 64 * u.lo)).map fun k => reduceResult f o g s (64 * u.lo + k)

theorem rowMove_writes {f : Nat} {s : State} (op : Nat) (o : VecOpnd) (x : MoveCtx) (u : VRun) (g : List W32 → W32 × Bool)
    (h : fieldLive s f = true) : ∃ r s3, Reads s s3 ∧ rowMove op f o x u g s =
      vFinish op f o x u r (vWrite f o x o.outAddr (64 * u.lo) (rowCount o) (reduceResults f o u g s) s3) := by
  rw [rowMove, h, if_neg (by decide)]
  exact ⟨_, _, (fmScan_reads 256 f o.scAddr 64 s).trans (vScanPart_reads _ _ _ _ _), rfl⟩

/-- An element of a row lies in the move's operand. -/
theorem rowElems_lt {o : VecOpnd} {r e : Nat} (hr : r < rowCount o) (he : e ∈ rowElems o r) : e < 64 * o.n := by
  obtain ⟨i, hi, rfl⟩ := List.mem_map.mp he
  rw [List.mem_range] at hi
  have hlen : o.len ≤ 64 * rowVecs o := by unfold rowVecs; omega
  have hrows : rowVecs o * (r + 1) ≤ o.n := (Nat.mul_le_mul_left _ hr).trans (Nat.mul_div_le o.n (rowVecs o))
  have hexp : 64 * (rowVecs o * (r + 1)) = 64 * rowVecs o * r + 64 * rowVecs o := by rw [← Nat.mul_assoc, Nat.mul_succ]
  omega

theorem rowPoison_zero {s : State} {f : Nat} {o : VecOpnd} {r : Nat} (h : ∀ e, e ∈ rowElems o r → vPoison s f (opA o) e = 0) :
    rowPoison s f o r = 0 := by
  rw [rowPoison, ← List.foldl_map (f := fun e => vPoison s f (opA o) e) (g := fun a p => a ||| p)]
  exact foldl_or_zero _ fun p hp => by obtain ⟨e, he, rfl⟩ := List.mem_map.mp hp; exact h e he

theorem roundUp_add {a b : Nat} (h : a % 8 = 0) : roundUp (a + b) 8 = a + roundUp b 8 := by unfold roundUp; omega

/-! ## Normalisations and softmax of one row (R170) -/

theorem normRow_normMove {i : Instr} {f : Nat} {o : VecOpnd} {x : MoveCtx} (s : State) (h : normRow i = some (f, o, x)) :
    ∃ op passes vecs g post, exec i s = .next (normMove op f o x (wholeRun s op o x) passes vecs g post s) ∧
      vecUnits op o = rowCount o * rowVecs o ∧ startsAt i s = (resumeOf s op o x).next ∧ (∀ v ∈ vecs, v = opGamma o ∨ v = opBeta o) ∧
      ∀ e, post e (nth (g 0 ((rowElems o 0).map fun k => vElem s f (opA o) k)).1 e 0) = normValue i s e := by
  unfold normRow at h
  split at h
  case h_4 => cases h
  case h_1 f o x =>
    cases h
    refine ⟨0x48, 3, [opGamma o, opBeta o],
      fun r xs => lnormRow xs (vScalar s f o 0) fun i => vFree s (64 * rowVecs o * r + i),
      fun i v => f32add (f32mul v (vElem s f (opGamma o) i)) (vElem s f (opBeta o) i), rfl, rfl, rfl, by simp, fun e => ?_⟩
    simp only [normValue, Nat.mul_zero, Nat.zero_add]
  case h_2 f o x =>
    cases h
    refine ⟨0x49, 2, [opGamma o],
      fun r xs => rmsnRow xs (vScalar s f o 0) fun i => vFree s (64 * rowVecs o * r + i),
      fun i v => f32mul v (vElem s f (opGamma o) i), rfl, rfl, rfl, by simp, fun e => ?_⟩
    simp only [normValue, Nat.mul_zero, Nat.zero_add]
  case h_3 f o x =>
    cases h
    refine ⟨0x4A, 3, [], fun r xs => smaxRow xs fun i => vFree s (64 * rowVecs o * r + i), fun _ v => v, rfl, rfl, rfl, by simp, fun e => ?_⟩
    simp only [normValue, Nat.mul_zero, Nat.zero_add]

/-- Result e of a row operation of one row of 64 elements. -/
def normResult (f : Nat) (o : VecOpnd) (vecs : List VOp) (g : Nat → List W32 → List W32 × Bool) (post : Nat → W32 → W32) (s : State) (e : Nat) :
    VRes :=
  let ys := g 0 ((rowElems o 0).map fun k => vElem s f (opA o) k)
  ⟨post e (nth ys.1 e 0), rowPoison s f o 0 |||
    vecs.foldl (fun a v => (List.range o.len).foldl (fun b i => b ||| vPoison s f v i) a) (vScalarPoison s f o), e, ys.2⟩

/-- A row operation of one row of 64 elements from its start. -/
theorem normMove_whole {f : Nat} {s : State} {o : VecOpnd} (op : Nat) (x : MoveCtx) (passes : Nat) (vecs : List VOp)
    (g : Nat → List W32 → List W32 × Bool) (post : Nat → W32 → W32) (h : fieldLive s f = true) (hlen : o.len = 64) :
    ∃ r s3, Reads s s3 ∧ normMove op f o x ⟨0, 1, true⟩ passes vecs g post s =
      vFinish op f o x ⟨0, 1, true⟩ r (vWrite f o x o.outAddr (64 * 0) (64 * o.n)
        ((List.range 64).map (normResult f o vecs g post s)) s3) := by
  have hw : max 1 (rowVecs o) = 1 := by simp [rowVecs, hlen]
  have hes : (List.range 64).filter (fun i => decide (0 ≤ i / 64 ∧ i / 64 < 1)) = List.range 64 := by decide
  rw [normMove, h, if_neg (by decide)]
  have htouched : (List.range ((1 + 1 - 1) / 1 - 0 / 1)).map (fun x => 0 / 1 + x) = [0] := rfl
  have hfirst : nth (List.range 64) 0 0 = 0 := rfl
  simp only [hw, hlen, htouched, List.map_cons, List.map_nil, List.foldl_cons, List.foldl_nil, hes, hfirst, Nat.mul_zero, Nat.zero_add]
  have hres : normResult f o vecs g post s = fun e =>
      ⟨post e (nth (g 0 ((rowElems o 0).map fun k => vElem s f (opA o) k)).1 e 0), rowPoison s f o 0 |||
        vecs.foldl (fun a v => (List.range 64).foldl (fun b i => b ||| vPoison s f v i) a) (vScalarPoison s f o), e,
        (g 0 ((rowElems o 0).map fun k => vElem s f (opA o) k)).2⟩ := funext fun e => by rw [normResult, hlen]
  rw [hres]
  refine ⟨_, _, ?_, rfl⟩
  exact (fmScan_reads 256 f o.scAddr 64 s).trans
    ((Reads.foldl (fun t _ => vScanPart_reads _ _ _ _ t) (List.range passes) _).trans (Reads.foldl (fun t v => vScan_reads f v t) vecs _))

/-- A row operation that a cancelled run has finished stores nothing. -/
theorem normMove_done {f : Nat} {s : State} {o : VecOpnd} (op : Nat) (x : MoveCtx) (passes : Nat) (vecs : List VOp)
    (g : Nat → List W32 → List W32 × Bool) (post : Nat → W32 → W32) (h : fieldLive s f = true) (hlen : o.len = 64) :
    ∃ r, normMove op f o x ⟨1, 1, true⟩ passes vecs g post s = vFinish op f o x ⟨1, 1, true⟩ r (fmScan 256 f o.scAddr 64 s) := by
  have hw : max 1 (rowVecs o) = 1 := by simp [rowVecs, hlen]
  rw [normMove, h, if_neg (by decide)]
  simp only [hw]
  exact ⟨_, rfl⟩

theorem foldl_marks_zero {s : State} {f n : Nat} {vecs : List VOp} (h : ∀ v ∈ vecs, ∀ e, e < n → vPoison s f v e = 0) :
    vecs.foldl (fun a v => (List.range n).foldl (fun b i => b ||| vPoison s f v i) a) 0 = 0 := by
  induction vecs with
  | nil => rfl
  | cons v vecs ih =>
    have hv : (List.range n).foldl (fun b i => b ||| vPoison s f v i) 0 = 0 := by
      rw [← List.foldl_map (f := fun i => vPoison s f v i) (g := fun a p => a ||| p)]
      exact foldl_or_zero _ fun p hp => by
        obtain ⟨e, he, rfl⟩ := List.mem_map.mp hp
        exact h v (by simp) e (by simpa using he)
    rw [List.foldl_cons, hv]
    exact ih fun w hw => h w (List.mem_cons_of_mem _ hw)

/-- The results of a row reduction from the vector of results it resumes at. -/
theorem rowReduction_stored (i : Instr) (f : Nat) (o : VecOpnd) (x : MoveCtx) (g : List W32 → W32) (s : State)
    (hrow : rowReduction i = some (f, o, x, g)) (hlive : fieldLive s f = true) (hmx : fmtMx o.outFmt = false) (hbits : 8 ≤ fmtBits o.outFmt)
    (ham : o.amaxEn = false) (hal : o.outAddr % 8 = 0) (hr : x.resid = []) (hwf : memWf 0 s.fm.mem = true)
    (hmarks : ∀ e, e < 64 * o.n → vPoison s f (opA o) e = 0) (hsc : vScalarPoison s f o = 0)
    (hon : ∀ k, k < roundUp (elemBytes o.outFmt (rowCount o)) 8 → bankOn s f (o.outAddr + k) = true) :
    ∃ t, exec i s = .next t ∧
      (∀ r, 64 * startsAt i s ≤ r → r < rowCount o → elemCode t f o.outFmt o.outAddr r =
        (convElem o.outFmt o.mode o.sat (dice s.seq.seed o.stream (streamAt s (0x500 + f) x) r)
          (dec32 (scaleOut o.outScale (g ((rowElems o r).map fun e => vElem s f (opA o) e))).1)).1 % 2 ^ fmtBits o.outFmt) ∧
      (∀ k, (k < chipAddr f o.outAddr ∨ chipAddr f o.outAddr + roundUp (elemBytes o.outFmt (rowCount o)) 8 ≤ k) →
        memRead 0 t.fm.mem k = memRead 0 s.fm.mem k) ∧
      t = { s with fm := t.fm, seq := { s.seq with resume := t.seq.resume }, mbx := t.mbx, ctr := t.ctr, free := t.free } := by
  obtain ⟨op, gg, hexec, hunits, hstart, hg⟩ := rowReduction_rowMove s hrow
  obtain ⟨lo, hlo⟩ : ∃ lo, lo = min (startsAt i s) ((rowCount o + 63) / 64) := ⟨_, rfl⟩
  have hrun : wholeRun s op o x = { lo := lo, hi := (rowCount o + 63) / 64, fin := true } := by rw [wholeRun, hunits, ← hstart, hlo]
  obtain ⟨r, s3, hreads, hwrites⟩ := rowMove_writes op o x (wholeRun s op o x) gg hlive
  rw [hwrites, hrun] at hexec
  obtain ⟨n, hn⟩ : ∃ n, n = rowCount o - 64 * lo := ⟨_, rfl⟩
  have hlen : (reduceResults f o ⟨lo, (rowCount o + 63) / 64, true⟩ gg s).length = n := by
    simp only [reduceResults, List.length_map, List.length_range]; omega
  have hbase := elemBytes_vectors hbits lo
  have hin : n ≠ 0 → elemBytes o.outFmt (rowCount o) = elemBytes o.outFmt (64 * lo) + elemBytes o.outFmt n := fun h => by
    rw [← elemBytes_add hbits]; congr 1; omega
  have hnone : elemBytes o.outFmt 0 = 0 := by rw [elemBytes_words hbits, Nat.zero_mul]
  have hclean : ∀ r, r < rowCount o → (reduceResult f o gg s r).p = 0 := by
    intro r hr'
    simp only [reduceResult, hsc, rowPoison_zero fun e he => hmarks e (rowElems_lt hr' he)]
    rfl
  obtain ⟨t, ht, hcodes, hkeep, hframe⟩ := vEnd_clean (op := op) (total := rowCount o) (u := ⟨lo, (rowCount o + 63) / 64, true⟩) (r := r) hreads
    hmx hbits ham hal hbase hr hwf (rs := reduceResults f o ⟨lo, (rowCount o + 63) / 64, true⟩ gg s)
    (fun v hv => by
      obtain ⟨k, hk, rfl⟩ := List.mem_map.mp hv
      rw [List.mem_range] at hk
      exact hclean _ (by dsimp only at hk ⊢; omega))
    (fun k hk => by
      rw [hlen] at hk
      have hne : n ≠ 0 := fun h => by rw [h, hnone] at hk; omega
      rw [Nat.add_assoc]
      refine hon _ ?_
      rw [hin hne]
      unfold roundUp
      omega)
  rw [ht] at hexec
  refine ⟨t, hexec, fun r hlo' hr' => ?_, fun k hk => hkeep k ?_, hframe⟩
  · have hcode := hcodes (r - 64 * lo) (by rw [hlen]; omega)
    rw [show 64 * lo + (r - 64 * lo) = r by omega] at hcode
    rw [hcode, vCodes, reduceResults, List.map_map, nth_map_range _ _ (by dsimp only; omega)]
    simp only [Function.comp_apply, reduceResult, show 64 * lo + (r - 64 * lo) = r by omega, hg]
  · rw [hlen]
    by_cases hne : n = 0
    · rw [hne, hnone, show roundUp 0 8 = 0 from rfl]
      omega
    · rw [hin hne, roundUp_add hbase] at hk
      omega

/-- Settles O29: the row reductions, and one row of a normalisation or softmax. -/
theorem rowOperationsStored : Obligations.RowOperationsStored := by
  refine ⟨rowReduction_stored, fun i f o x s hrow hlive hn hlen64 hmx hbits ham hal hr hwf hmarks hsc hon => ?_⟩
  obtain ⟨op, passes, vecs, g, post, hexec, hunits, hstart, hvecs, hpost⟩ := normRow_normMove s hrow
  have hone : rowVecs o = 1 ∧ rowCount o = 1 := by simp [rowCount, rowVecs, hlen64, hn]
  obtain ⟨hrv, hrc⟩ := hone
  have hrun : wholeRun s op o x = { lo := min (startsAt i s) 1, hi := 1, fin := true } := by rw [wholeRun, hunits, ← hstart, hrv, hrc]
  rw [hrun] at hexec
  by_cases h0 : startsAt i s = 0
  · rw [h0, Nat.zero_min] at hexec
    obtain ⟨r, s3, hreads, hwrites⟩ := normMove_whole op x passes vecs g post hlive hlen64
    have hpoison : ∀ e, e < 64 → (normResult f o vecs g post s e).p = 0 := by
      intro e he
      have hrowp : rowPoison s f o 0 = 0 := rowPoison_zero fun e he => by
        have hlt := rowElems_lt (o := o) (r := 0) (by omega) he
        exact (hmarks e (by omega)).1
      have hvp : vecs.foldl (fun a v => (List.range o.len).foldl (fun b i => b ||| vPoison s f v i) a) 0 = 0 :=
        foldl_marks_zero fun v hv e he => by
          obtain ⟨-, hg, hb⟩ := hmarks e (by omega)
          rcases hvecs v hv with rfl | rfl
          · exact hg
          · exact hb
      simp only [normResult, hrowp, hsc, hvp]
      rfl
    have hlen : ((List.range 64).map (normResult f o vecs g post s)).length = 64 := by simp
    have hzero : elemBytes o.outFmt (64 * 0) = 0 := by rw [elemBytes_words hbits, Nat.mul_zero, Nat.zero_mul]
    have hround : roundUp (elemBytes o.outFmt 64) 8 = elemBytes o.outFmt 64 := by
      have := elemBytes_vectors hbits 1
      rw [Nat.mul_one] at this
      unfold roundUp; omega
    obtain ⟨t, ht, hcodes, hkeep, hframe⟩ := vEnd_clean (op := op) (total := 64 * o.n) (u := ⟨0, 1, true⟩) (r := r) hreads hmx hbits ham hal
      (elemBytes_vectors hbits 0) hr hwf (rs := (List.range 64).map (normResult f o vecs g post s))
      (fun v hv => by obtain ⟨e, he, rfl⟩ := List.mem_map.mp hv; exact hpoison e (by simpa using he))
      (fun k hk => by rw [hlen] at hk; rw [hzero]; exact hon k hk)
    rw [hwrites, ht] at hexec
    refine ⟨t, hexec, fun _ e he => ?_, fun h => absurd h0 h, fun k hk => hkeep k (by rw [hlen, hzero, hround]; omega), hframe⟩
    have hcode := hcodes e (by rw [hlen]; exact he)
    rw [Nat.mul_zero, Nat.zero_add] at hcode
    rw [hcode, vCodes, List.map_map, nth_map_range _ _ he]
    simp only [Function.comp_apply, normResult, hpost]
  · rw [show min (startsAt i s) 1 = 1 by omega] at hexec
    obtain ⟨r, hdone⟩ := normMove_done op x passes vecs g post hlive hlen64
    obtain ⟨resume, hfin⟩ := vFinish_plain op f x ⟨1, 1, true⟩ r (fmScan 256 f o.scAddr 64 s) ham
    obtain ⟨_, _, _, he⟩ := (fmScan_reads 256 f o.scAddr 64 s).frame
    rw [hdone, hfin, he] at hexec
    exact ⟨_, hexec, fun h => absurd h h0, fun _ => rfl, fun _ _ => rfl, rfl⟩

end Sys2Proof.Machine
end

section
/-! PROOFS. Compare, transpose and the optimiser step of the vector engine (R167, R171). -/

namespace Sys2Proof.Machine
open Sys2Proof Sys2Proof.Safety

/-! ## VCMP (Table 06-7) -/

/-- The mask word of vector v. -/
def cmpWord (f : Nat) (o : VecOpnd) (s : State) (v : Nat) : Nat :=
  listMask ((List.range 64).filter fun l => cmpHolds o.cmp (vElem s f (opA o) (64 * v + l)) (vElem s f (opB o) (64 * v + l)))

/-- The bytes of the mask words of a run. -/
def cmpBytes (f : Nat) (o : VecOpnd) (lo n : Nat) (s : State) : List Byte :=
  (List.range n).flatMap fun k => leBytes 8 (cmpWord f o s (lo + k))

theorem cmpBytes_length (f : Nat) (o : VecOpnd) (lo n : Nat) (s : State) : (cmpBytes f o lo n s).length = 8 * n := by
  simp [cmpBytes, List.length_flatMap, Nat.mul_comm]

theorem nth_flatMap_leBytes (g : Nat → Nat) {k i j n : Nat} (hi : i < n) (hj : j < k) :
    nth ((List.range n).flatMap fun x => leBytes k (g x)) (k * i + j) 0 = nth (leBytes k (g i)) j 0 := by
  rw [← take_drop_flatMap_leBytes g hi]
  simp [nth, hj]

theorem maskBit_cmpBytes {f lo n e : Nat} {o : VecOpnd} {s : State} (h : e < 64 * n) :
    (nth (cmpBytes f o lo n s) (e / 8) 0).getLsbD (e % 8) =
      cmpHolds o.cmp (vElem s f (opA o) (64 * lo + e)) (vElem s f (opB o) (64 * lo + e)) := by
  have hsplit : e / 8 = 8 * (e / 64) + e % 64 / 8 := by omega
  have hmod : e % 8 = e % 64 % 8 := by omega
  have he : 64 * (lo + e / 64) + e % 64 = 64 * lo + e := by omega
  rw [cmpBytes, hsplit, nth_flatMap_leBytes _ (by omega) (by omega), hmod, leBytes_getLsbD (by omega), cmpWord, testBit_listMask]
  simp [he, Nat.mod_lt]

/-- The mask word of vector v with its mark. -/
def cmpGroup (f : Nat) (o : VecOpnd) (x : MoveCtx) (s : State) (v : Nat) : List Byte × BitVec 8 :=
  (leBytes 8 (cmpWord f o s v), (List.range 64).foldl (fun a l =>
    a ||| vPoison s f (opA o) (64 * v + l) ||| vPoison s f (opB o) (64 * v + l) |||
      (if x.resid.contains (64 * v + l) then 1 else 0)) (vScalarPoison s f o))

/-- A comparison reads its operands, stores its mask words and ends. -/
theorem cmpMove_writes {f : Nat} {s : State} (o : VecOpnd) (x : MoveCtx) (u : VRun) (h : fieldLive s f = true) :
    ∃ s1 errs, Reads s s1 ∧ cmpMove f o x u s =
      (let groups := (List.range (u.hi - u.lo)).map fun k => cmpGroup f o x s (u.lo + k)
       let ps := groups.map Prod.snd
       draw (keepResume 0x2A f o x u {} (notePoison x (ps.foldl (fun a p => a ||| p) 0) (bumpBy (cVecErr f) errs
        (fmStore 256 f (o.maskAddr + 8 * u.lo) (freePoisoned s.free o.maskAddr (groups.flatMap Prod.fst) ps) ps s1))))) := by
  rw [cmpMove, h, if_neg (by decide)]
  exact ⟨_, _, ((fmScan_reads 256 f o.scAddr 64 s).trans (vScanPart_reads _ _ _ _ _)).trans (vScanPart_reads _ _ _ _ _), rfl⟩

theorem cmpGroup_clean {f v : Nat} {o : VecOpnd} {x : MoveCtx} {s : State} (hr : x.resid = []) (hsc : vScalarPoison s f o = 0)
    (hp : ∀ l, l < 64 → vPoison s f (opA o) (64 * v + l) = 0 ∧ vPoison s f (opB o) (64 * v + l) = 0) :
    cmpGroup f o x s v = (leBytes 8 (cmpWord f o s v), 0) := by
  have hall : ∀ ls : List Nat, (∀ l ∈ ls, l < 64) → ls.foldl (fun a l =>
      a ||| vPoison s f (opA o) (64 * v + l) ||| vPoison s f (opB o) (64 * v + l) |||
        (if x.resid.contains (64 * v + l) then 1 else 0)) (0 : BitVec 8) = 0 := by
    intro ls
    induction ls with
    | nil => exact fun _ => rfl
    | cons l ls ih =>
      intro hl
      obtain ⟨ha, hb⟩ := hp l (hl l (by simp))
      have hnone : x.resid.contains (64 * v + l) = false := by rw [hr]; rfl
      rw [List.foldl_cons, ha, hb, hnone]
      exact ih fun m hm => hl m (List.mem_cons_of_mem _ hm)
  rw [cmpGroup, hsc, hall _ fun l hl => by simpa using hl]

/-- Keeping how far a move has come changes the sequencer's table of it alone. -/
theorem keepResume_eq (op f : Nat) (o : VecOpnd) (x : MoveCtx) (u : VRun) (r : VecResume) (s : State) :
    ∃ resume, keepResume op f o x u r s = setSeq (fun q => { q with resume := resume }) s := by
  unfold keepResume
  split
  · exact ⟨_, rfl⟩
  · exact ⟨s.seq.resume, rfl⟩

/-- The comparison's mask bits from the vector it resumes at. -/
theorem vcmp_stored (f : Nat) (o : VecOpnd) (x : MoveCtx) (s : State) (hlive : fieldLive s f = true) (hal : o.maskAddr % 8 = 0)
    (hr : x.resid = []) (hwf : memWf 0 s.fm.mem = true)
    (hmarks : ∀ e, e < 64 * o.n → vPoison s f (opA o) e = 0 ∧ vPoison s f (opB o) e = 0) (hsc : vScalarPoison s f o = 0)
    (hon : ∀ k, k < 8 * o.n → bankOn s f (o.maskAddr + k) = true) :
    ∃ t, exec (.vcmp f o x) s = .next t ∧
      (∀ e, 64 * startsAt (.vcmp f o x) s ≤ e → e < 64 * o.n → maskBit t f o e = cmpHolds o.cmp (vElem s f (opA o) e) (vElem s f (opB o) e)) ∧
      (∀ k, (k < chipAddr f o.maskAddr ∨ chipAddr f o.maskAddr + 8 * o.n ≤ k) → memRead 0 t.fm.mem k = memRead 0 s.fm.mem k) ∧
      t = { s with fm := t.fm, seq := { s.seq with resume := t.seq.resume }, mbx := t.mbx, ctr := t.ctr, free := t.free } := by
  obtain ⟨lo, hlo⟩ : ∃ lo, lo = min (startsAt (.vcmp f o x) s) o.n := ⟨_, rfl⟩
  have hexec : exec (.vcmp f o x) s = .next (cmpMove f o x ⟨lo, o.n, true⟩ s) := by rw [hlo]; rfl
  obtain ⟨s1, errs, hreads, hmove⟩ := cmpMove_writes o x ⟨lo, o.n, true⟩ hlive
  have hgroups : ((List.range (o.n - lo)).map fun k => cmpGroup f o x s (lo + k)) =
      (List.range (o.n - lo)).map fun k => (leBytes 8 (cmpWord f o s (lo + k)), (0 : BitVec 8)) :=
    List.map_congr_left fun k hk => by
      rw [List.mem_range] at hk
      exact cmpGroup_clean hr hsc fun l hl => hmarks _ (by omega)
  have hps : ((List.range (o.n - lo)).map fun k => (leBytes 8 (cmpWord f o s (lo + k)), (0 : BitVec 8))).map Prod.snd =
      List.replicate (o.n - lo) 0 := by simp [Function.comp_def]
  have hbytes : ((List.range (o.n - lo)).map fun k => (leBytes 8 (cmpWord f o s (lo + k)), (0 : BitVec 8))).flatMap Prod.fst =
      cmpBytes f o lo (o.n - lo) s := by rw [List.flatMap_map]; rfl
  have hall : (List.replicate (o.n - lo) (0 : BitVec 8)).foldl (fun a p => a ||| p) 0 = 0 :=
    foldl_or_zero _ fun p hp => List.eq_of_mem_replicate hp
  dsimp only at hmove
  rw [hgroups, hps, hbytes, hall, notePoison_zero, freePoisoned_none] at hmove
  obtain ⟨v, hv⟩ : ∃ v, v = fmStore 256 f (o.maskAddr + 8 * lo) (cmpBytes f o lo (o.n - lo) s) (List.replicate (o.n - lo) 0) s1 := ⟨_, rfl⟩
  rw [← hv] at hmove
  have hbump := bumpBy_reads (cVecErr f) errs v
  obtain ⟨resume, hres⟩ := keepResume_eq 0x2A f o x ⟨lo, o.n, true⟩ {} (bumpBy (cVecErr f) errs v)
  have hlen := cmpBytes_length f o lo (o.n - lo) s
  have hmem : ∀ k, memRead 0 v.fm.mem k =
      if chipAddr f (o.maskAddr + 8 * lo) ≤ k ∧ k < chipAddr f (o.maskAddr + 8 * lo) + 8 * (o.n - lo) then
        nth (cmpBytes f o lo (o.n - lo) s) (k - chipAddr f (o.maskAddr + 8 * lo)) 0 else memRead 0 s.fm.mem k := by
    intro k
    have hround : roundUp (8 * (o.n - lo)) 8 = 8 * (o.n - lo) := by unfold roundUp; omega
    rw [hv, fmStore_read (by omega) (by rw [hreads.mem_eq]; exact hwf) (fun k hk => by
      rw [hlen] at hk; rw [hreads.bankOn_eq, Nat.add_assoc]; exact hon _ (by omega)), hlen, hround, hreads.mem_eq]
  have hstores : Stores [(chipAddr f (o.maskAddr + 8 * lo), 8 * (o.n - lo))] s (bumpBy (cVecErr f) errs v) := by
    have hin : Within [(chipAddr f (o.maskAddr + 8 * lo), 8 * (o.n - lo))]
        (chipAddr f (o.maskAddr + 8 * lo), (cmpBytes f o lo (o.n - lo) s).length) :=
      ⟨_, List.mem_singleton.mpr rfl, Nat.le_refl _, by rw [hlen]⟩
    exact (hreads.stores _).trans ((hv ▸ fmStore_stores _ _ s1 hin).trans (hbump.stores _))
  rw [hmove, hres] at hexec
  refine ⟨_, hexec, fun e hlo' he => ?_, fun k hk => ?_, ?_⟩
  · have hbyte : fmByte (draw (setSeq (fun q => { q with resume := resume }) (bumpBy (cVecErr f) errs v))) f (o.maskAddr + e / 8) =
        nth (cmpBytes f o lo (o.n - lo) s) ((e - 64 * lo) / 8) 0 := by
      have hread := hmem (chipAddr f (o.maskAddr + e / 8))
      rw [if_pos (by unfold chipAddr; omega)] at hread
      rw [fmByte, draw_fm, setSeq_fm, hbump.mem_eq, hread]
      congr 1; unfold chipAddr; omega
    rw [maskBit, hbyte, show e % 8 = (e - 64 * lo) % 8 by omega, maskBit_cmpBytes (by omega), show 64 * lo + (e - 64 * lo) = e by omega]
  · rw [draw_fm, setSeq_fm, hbump.mem_eq, hmem, if_neg (by unfold chipAddr at *; omega)]
  · obtain ⟨_, _, _, _, _, _, _, he⟩ := hstores.frame
    rw [he]
    rfl

/-! ## VTRN -/

/-- Result e of a transposition: the element across the diagonal of its block. -/
def trnResult (f : Nat) (o : VecOpnd) (s : State) (e : Nat) : VRes :=
  let src := e / 256 * 256 + (e % 16) * 16 + e % 256 / 16
  ⟨vElem s f ⟨o.aFmt, o.aAddr, 256 * o.n⟩ src, vScalarPoison s f o ||| vPoison s f ⟨o.aFmt, o.aAddr, 256 * o.n⟩ src, e, false⟩

theorem trnMove_writes {f : Nat} {s : State} {o : VecOpnd} (x : MoveCtx) (u : VRun) (h : fieldLive s f = true) (ha : 8 ≤ fmtBits o.aFmt) :
    ∃ r s3, Reads s s3 ∧ trnMove f o x u s = vFinish 0x2C f o x u r (vWrite f o x o.outAddr (64 * u.lo) (256 * o.n)
      ((List.range (64 * (u.hi - u.lo))).map fun k => trnResult f o s (64 * u.lo + k)) s3) := by
  have h4 : (!fieldLive s f || fmtBits o.aFmt == 4) = false := by
    have : fmtBits o.aFmt ≠ 4 := by omega
    simp [h, this]
  rw [trnMove, h4, if_neg (by decide)]
  exact ⟨_, _, (fmScan_reads 256 f o.scAddr 64 s).trans (vScanPart_reads _ _ _ _ _), rfl⟩

/-- The elements of transposed blocks from the vector that the move resumes at. -/
theorem vtrn_stored (f : Nat) (o : VecOpnd) (x : MoveCtx) (s : State) (hlive : fieldLive s f = true) (ha : 8 ≤ fmtBits o.aFmt)
    (hmx : fmtMx o.outFmt = false) (hbits : 8 ≤ fmtBits o.outFmt) (ham : o.amaxEn = false) (hal : o.outAddr % 8 = 0) (hr : x.resid = [])
    (hwf : memWf 0 s.fm.mem = true) (hsc : vScalarPoison s f o = 0)
    (hmarks : ∀ e, e < 256 * o.n → vPoison s f ⟨o.aFmt, o.aAddr, 256 * o.n⟩ e = 0)
    (hon : ∀ k, k < elemBytes o.outFmt (256 * o.n) → bankOn s f (o.outAddr + k) = true) :
    ∃ t, exec (.vtrn f o x) s = .next t ∧
      (∀ b r c, startsAt (.vtrn f o x) s ≤ b → b < o.n → r < 16 → c < 16 → elemCode t f o.outFmt o.outAddr (256 * b + 16 * r + c) =
        (convElem o.outFmt o.mode o.sat (dice s.seq.seed o.stream (streamAt s (0x500 + f) x) (256 * b + 16 * r + c))
          (dec32 (scaleOut o.outScale (vElem s f ⟨o.aFmt, o.aAddr, 256 * o.n⟩ (256 * b + 16 * c + r))).1)).1 % 2 ^ fmtBits o.outFmt) ∧
      (∀ k, (k < chipAddr f o.outAddr ∨ chipAddr f o.outAddr + elemBytes o.outFmt (256 * o.n) ≤ k) →
        memRead 0 t.fm.mem k = memRead 0 s.fm.mem k) ∧
      t = { s with fm := t.fm, seq := { s.seq with resume := t.seq.resume }, mbx := t.mbx, ctr := t.ctr, free := t.free } := by
  obtain ⟨lo, hlo⟩ : ∃ lo, lo = min (startsAt (.vtrn f o x) s) (4 * o.n) := ⟨_, rfl⟩
  have hexec : exec (.vtrn f o x) s = .next (trnMove f o x ⟨lo, 4 * o.n, true⟩ s) := by rw [hlo]; rfl
  obtain ⟨r, s3, hreads, hwrites⟩ := trnMove_writes x ⟨lo, 4 * o.n, true⟩ hlive ha
  rw [hwrites] at hexec
  dsimp only at hexec
  have hlen : ((List.range (64 * (4 * o.n - lo))).map fun k => trnResult f o s (64 * lo + k)).length = 64 * (4 * o.n - lo) := by simp
  have hadd := elemBytes_add hbits (64 * lo) (64 * (4 * o.n - lo))
  rw [show 64 * lo + 64 * (4 * o.n - lo) = 256 * o.n by omega] at hadd
  have hvec := elemBytes_vectors hbits (4 * o.n - lo)
  obtain ⟨t, ht, hcodes, hkeep, hframe⟩ := vEnd_clean (op := 0x2C) (total := 256 * o.n) (u := ⟨lo, 4 * o.n, true⟩) (r := r) hreads hmx hbits ham
    hal (elemBytes_vectors hbits lo) hr hwf (rs := (List.range (64 * (4 * o.n - lo))).map fun k => trnResult f o s (64 * lo + k))
    (fun v hv => by
      obtain ⟨k, hk, rfl⟩ := List.mem_map.mp hv
      rw [List.mem_range] at hk
      simp only [trnResult, hsc]
      rw [hmarks _ (by omega)]
      rfl)
    (fun k hk => by rw [hlen] at hk; rw [Nat.add_assoc]; exact hon _ (by omega))
  rw [ht] at hexec
  refine ⟨t, hexec, fun b r c hb hbn hr' hc => ?_, fun k hk => hkeep k ?_, hframe⟩
  · obtain ⟨e, he⟩ : ∃ e, e = 256 * b + 16 * r + c := ⟨_, rfl⟩
    have hcode := hcodes (e - 64 * lo) (by rw [hlen]; omega)
    rw [show 64 * lo + (e - 64 * lo) = e by omega] at hcode
    have hsrc : e / 256 * 256 + (e % 16) * 16 + e % 256 / 16 = 256 * b + 16 * c + r := by omega
    rw [← he, hcode, vCodes, List.map_map, nth_map_range _ _ (by omega)]
    simp only [Function.comp_apply, trnResult, show 64 * lo + (e - 64 * lo) = e by omega, hsrc]
  · rw [hlen]
    unfold roundUp
    omega

/-! ## VADAM (R171) -/

/-- The scalars of VADAM in memory. -/
def adamScalars (f : Nat) (o : VecOpnd) (s : State) : AdamSc :=
  ⟨vScalar s f o 0, vScalar s f o 1, vScalar s f o 2, vScalar s f o 3, vScalar s f o 4, vScalar s f o 5, vScalar s f o 6, vScalar s f o 7,
    vScalar s f o 8⟩

/-- Element e has a marked operand. -/
def adamBad (f : Nat) (o : VecOpnd) (s : State) (e : Nat) : Bool :=
  (vPoison s f (opA o) e ||| vPoison s f ⟨.fp32, o.bAddr, 64 * o.n⟩ e ||| vPoison s f ⟨.fp32, o.cAddr, 64 * o.n⟩ e |||
    vPoison s f ⟨.fp32, o.dAddr, 64 * o.n⟩ e) != 0

/-- The update of element e. -/
def adamNew (f : Nat) (o : VecOpnd) (s : State) (e : Nat) : W32 × W32 × W32 × Bool :=
  adamElem (adamScalars f o s) (vElem s f (opA o) e) (vElem s f ⟨.fp32, o.bAddr, 64 * o.n⟩ e) (vElem s f ⟨.fp32, o.cAddr, 64 * o.n⟩ e)
    (vElem s f ⟨.fp32, o.dAddr, 64 * o.n⟩ e) (vFree s e)

/-- Element e with its update, or as stored where an operand is marked. -/
def adamRes (f : Nat) (o : VecOpnd) (s : State) (e : Nat) : Nat × W32 × W32 × W32 × Bool :=
  if adamBad f o s e then (e, vElem s f ⟨.fp32, o.bAddr, 64 * o.n⟩ e, vElem s f ⟨.fp32, o.cAddr, 64 * o.n⟩ e,
    vElem s f ⟨.fp32, o.dAddr, 64 * o.n⟩ e, false)
  else (e, adamNew f o s e)

/-- One of the three vectors of an update, stored in pairs of words. -/
def adamPut (f : Nat) (o : VecOpnd) (x : MoveCtx) (lo : Nat) (res : List (Nat × W32 × W32 × W32 × Bool)) (s : State) (base : Nat)
    (pick : W32 × W32 × W32 × Bool → W32) (t : State) : State :=
  (List.range (res.length / 2)).foldl (fun t1 i =>
    let e := 64 * lo + 2 * i
    if vScalarPoison s f o = 0 && adamBad f o s e && adamBad f o s (e + 1) then t1
    else
      let r0 := nth res (2 * i) (0, 0, 0, 0, false)
      let r1 := nth res (2 * i + 1) (0, 0, 0, 0, false)
      let p := vScalarPoison s f o ||| (if x.resid.contains e then 1 else 0) ||| (if x.resid.contains (e + 1) then 1 else 0)
      let bs := leBytes 4 (pick r0.2).toNat ++ leBytes 4 (pick r1.2).toNat
      fmStore 256 f (base + 4 * e) (freePoisoned s.free e bs [p]) [p] t1) t

/-- VADAM without a narrow copy reads its operands, stores the three vectors and the count of elements left, and ends. -/
theorem adamMove_writes {f : Nat} {s : State} {o : VecOpnd} (x : MoveCtx) (lo hi : Nat) (h : fieldLive s f = true) (hout : o.outEn = false) :
    ∃ r s1 left errs, Reads s s1 ∧ adamMove f o x ⟨lo, hi, true⟩ s =
      (let res := ((List.range (64 * (hi - lo))).map fun i => 64 * lo + i).map (adamRes f o s)
       vFinish 0x50 f o x ⟨lo, hi, true⟩ r (notePoison x (vScalarPoison s f o) (bumpBy (cVecErr f) errs
        (storeWord 256 f o.maskAddr left (vScalarPoison s f o)
          (adamPut f o x lo res s o.dAddr (fun r => r.2.2.1) (adamPut f o x lo res s o.cAddr (fun r => r.2.1)
            (adamPut f o x lo res s o.bAddr (fun r => r.1) s1))))))) := by
  rw [adamMove, h, if_neg (by decide)]
  simp only [hout, Bool.false_eq_true, if_false, if_true]
  exact ⟨_, _, _, _, (fmScan_reads 256 f o.scAddr 64 s).trans (Reads.foldl (fun t v => vScanPart_reads f v _ _ t) _ _), rfl⟩

/-- Pairs of words stored from element 64 `lo` of a vector on. -/
def putWords (f base lo n : Nat) (w : Nat → W32) (t : State) : State :=
  (List.range n).foldl (fun t1 i => fmStore 256 f (base + 4 * (64 * lo + 2 * i))
    (leBytes 4 (w (64 * lo + 2 * i)).toNat ++ leBytes 4 (w (64 * lo + 2 * i + 1)).toNat) [0] t1) t

theorem adamRes_clean {f : Nat} {o : VecOpnd} {s : State} {e : Nat} (h : adamBad f o s e = false) : adamRes f o s e = (e, adamNew f o s e) := by
  rw [adamRes, h, if_neg (by decide)]

theorem adamPut_clean {f : Nat} {o : VecOpnd} {x : MoveCtx} {lo n : Nat} {s : State} (base : Nat) (pick : W32 × W32 × W32 × Bool → W32)
    (t : State) (hr : x.resid = []) (hsc : vScalarPoison s f o = 0) (hbad : ∀ e, e < 64 * (lo + n) → adamBad f o s e = false) :
    adamPut f o x lo (((List.range (64 * n)).map fun i => 64 * lo + i).map (adamRes f o s)) s base pick t =
      putWords f base lo (32 * n) (fun e => pick (adamNew f o s e)) t := by
  have hlen : (((List.range (64 * n)).map fun i => 64 * lo + i).map (adamRes f o s)).length / 2 = 32 * n := by
    simp only [List.length_map, List.length_range]; omega
  rw [adamPut, hlen, putWords]
  refine List.foldl_ext _ _ _ fun u i hi => ?_
  rw [List.mem_range] at hi
  have hb0 := hbad (64 * lo + 2 * i) (by omega)
  have hb1 := hbad (64 * lo + 2 * i + 1) (by omega)
  have hres : ∀ j, j < 64 * n → nth (((List.range (64 * n)).map fun i => 64 * lo + i).map (adamRes f o s)) j (0, 0, 0, 0, false) =
      adamRes f o s (64 * lo + j) := fun j hj => by rw [List.map_map, nth_map_range _ _ hj]; rfl
  have hnone : ∀ e, x.resid.contains e = false := fun e => by rw [hr]; rfl
  have hone : freePoisoned s.free (64 * lo + 2 * i) (leBytes 4 (pick (adamNew f o s (64 * lo + 2 * i))).toNat ++
      leBytes 4 (pick (adamNew f o s (64 * lo + 2 * i + 1))).toNat) [0] = _ := freePoisoned_clean _ _ _
  simp only [hb0, hb1, hres _ (show 2 * i < 64 * n by omega), hres _ (show 2 * i + 1 < 64 * n by omega), hnone, hsc, Bool.and_false,
    Bool.false_eq_true, if_false, ← Nat.add_assoc, adamRes_clean]
  exact congrArg (fun bs => fmStore 256 f (base + 4 * (64 * lo + 2 * i)) bs [0] u) hone

theorem putWords_stores {rs : List (Nat × Nat)} {f base lo n : Nat} (w : Nat → W32) (t : State)
    (h : Within rs (chipAddr f base + 256 * lo, 8 * n)) : Stores rs t (putWords f base lo n w t) := by
  refine Stores.foldl (fun u i hi => fmStore_stores _ _ u ?_) t
  rw [List.mem_range] at hi
  have hchip : chipAddr f (base + 4 * (64 * lo + 2 * i)) = chipAddr f base + 256 * lo + 8 * i := by unfold chipAddr; omega
  obtain ⟨q, hq, hlo, hhi⟩ := h
  dsimp only at hlo hhi
  rw [hchip]
  refine ⟨q, hq, ?_, ?_⟩ <;> simp only [List.length_append, leBytes_length] <;> omega

theorem nth_append_left {α : Type} (xs ys : List α) (d : α) {i : Nat} (h : i < xs.length) : nth (xs ++ ys) i d = nth xs i d := by
  simp [nth, List.getElem?_append_left h]

theorem nth_append_right {α : Type} (xs ys : List α) (d : α) {i : Nat} (h : xs.length ≤ i) : nth (xs ++ ys) i d = nth ys (i - xs.length) d := by
  simp [nth, List.getElem?_append_right h]

/-- The bytes of words from element `lo` of a vector on. -/
def wordBytes (w : Nat → W32) (lo n : Nat) : List Byte := (List.range n).flatMap fun j => leBytes 4 (w (lo + j)).toNat

theorem wordBytes_length (w : Nat → W32) (lo n : Nat) : (wordBytes w lo n).length = 4 * n := by
  simp [wordBytes, List.length_flatMap, Nat.mul_comm]

theorem wordBytes_pair (w : Nat → W32) (lo n : Nat) :
    wordBytes w lo (n + 2) = wordBytes w lo n ++ (leBytes 4 (w (lo + n)).toNat ++ leBytes 4 (w (lo + n + 1)).toNat) := by
  simp [wordBytes, List.range_succ, Nat.add_assoc]

theorem putWords_read {f base lo n : Nat} (w : Nat → W32) {t : State} (hal : base % 8 = 0) (hwf : memWf 0 t.fm.mem = true)
    (hon : ∀ k, k < 8 * n → bankOn t f (base + 256 * lo + k) = true) (x : Nat) :
    memRead 0 (putWords f base lo n w t).fm.mem x =
      if chipAddr f base + 256 * lo ≤ x ∧ x < chipAddr f base + 256 * lo + 8 * n then
        nth (wordBytes w (64 * lo) (2 * n)) (x - (chipAddr f base + 256 * lo)) 0
      else memRead 0 t.fm.mem x := by
  induction n with
  | zero => rw [if_neg (by omega)]; rfl
  | succ n ih =>
    have hih := ih fun k hk => hon k (by omega)
    have hstores := putWords_stores (rs := [(chipAddr f base + 256 * lo, 8 * n)]) (lo := lo) (n := n) w t
      ⟨_, List.mem_singleton.mpr rfl, Nat.le_refl _, Nat.le_refl _⟩
    have hstep : putWords f base lo (n + 1) w t = fmStore 256 f (base + 4 * (64 * lo + 2 * n))
        (leBytes 4 (w (64 * lo + 2 * n)).toNat ++ leBytes 4 (w (64 * lo + 2 * n + 1)).toNat) [0] (putWords f base lo n w t) := by
      rw [putWords, List.range_succ, List.foldl_append]; rfl
    have hlen : (leBytes 4 (w (64 * lo + 2 * n)).toNat ++ leBytes 4 (w (64 * lo + 2 * n + 1)).toNat).length = 8 := by
      rw [List.length_append, leBytes_length, leBytes_length]
    have hchip : chipAddr f (base + 4 * (64 * lo + 2 * n)) = chipAddr f base + 256 * lo + 8 * n := by unfold chipAddr; omega
    have hwords := wordBytes_length w (64 * lo) (2 * n)
    rw [hstep, fmStore_read (by omega) (hstores.wf hwf) (fun k hk => by
      rw [hlen] at hk
      rw [hstores.bankOn_eq, show base + 4 * (64 * lo + 2 * n) + k = base + 256 * lo + (8 * n + k) by omega]
      exact hon _ (by omega)), hlen, hchip, show roundUp 8 8 = 8 from rfl, hih, show 2 * (n + 1) = 2 * n + 2 by omega, wordBytes_pair]
    by_cases hlast : chipAddr f base + 256 * lo + 8 * n ≤ x ∧ x < chipAddr f base + 256 * lo + 8 * n + 8
    · rw [if_pos hlast, if_pos (by omega), nth_append_right (wordBytes w (64 * lo) (2 * n)) _ _ (by omega), hwords]
      congr 1; omega
    · rw [if_neg hlast]
      by_cases hin : chipAddr f base + 256 * lo ≤ x ∧ x < chipAddr f base + 256 * lo + 8 * n
      · rw [if_pos hin, if_pos (by omega), nth_append_left _ _ _ (by omega)]
      · rw [if_neg hin, if_neg (by omega)]

/-- A word read back from bytes of words. -/
theorem elemCode_of_words {t : State} {f base lo n j : Nat} {w : Nat → W32} (hj : j < n)
    (hread : ∀ k, k < 4 * n → fmByte t f (base + 4 * lo + k) = nth (wordBytes w lo n) k 0) :
    elemCode t f .fp32 base (lo + j) = (w (lo + j)).toNat := by
  have hbits : 8 ≤ fmtBits .fp32 := by decide
  have hbytes : elemBytes .fp32 lo = 4 * lo := by rw [elemBytes_words hbits, show fmtBits .fp32 / 8 = 4 from rfl, Nat.mul_comm]
  have hcs : packCodes .fp32 ((List.range n).map fun k => (w (lo + k)).toNat) = wordBytes w lo n := by
    change ((List.range n).map fun k => (w (lo + k)).toNat).flatMap (leBytes 4) = _
    rw [List.flatMap_map]; rfl
  rw [elemCode_add hbits, hbytes, elemCode_of_packed (cs := (List.range n).map fun k => (w (lo + k)).toNat) hbits (by simpa using hj)
    (fun k hk => by
      rw [hcs]
      refine hread k ?_
      rw [elemBytes_words hbits, show fmtBits .fp32 / 8 = 4 from rfl] at hk
      simp only [List.length_map, List.length_range] at hk
      omega), nth_map_range _ _ hj]
  exact Nat.mod_eq_of_lt (w (lo + j)).isLt

theorem adamBad_clean {f e : Nat} {o : VecOpnd} {s : State} (ha : vPoison s f (opA o) e = 0) (hb : fmPoisonAt s f (o.bAddr + 4 * e) = 0)
    (hc : fmPoisonAt s f (o.cAddr + 4 * e) = 0) (hd : fmPoisonAt s f (o.dAddr + 4 * e) = 0) : adamBad f o s e = false := by
  have hword : ∀ a, vPoison s f ⟨.fp32, a, 64 * o.n⟩ e = fmPoisonAt s f (a + 4 * e) := fun a => by
    have h4 : e * fmtBits .fp32 / 8 = 4 * e := by rw [show fmtBits .fp32 = 32 from rfl]; omega
    simp [vPoison, elemPoison, h4, fmtMx]
  rw [adamBad, hword, hword, hword, ha, hb, hc, hd]
  rfl

/-- The memory that VADAM leaves: the three vectors, then the count of elements left. -/
structure AdamStored (f lo m bA cA dA mA : Nat) (wb wc wd : Nat → W32) (s t : State) : Prop where
  atB : ∀ k, k < 256 * m → fmByte t f (bA + 256 * lo + k) = nth (wordBytes wb (64 * lo) (64 * m)) k 0
  atC : ∀ k, k < 256 * m → fmByte t f (cA + 256 * lo + k) = nth (wordBytes wc (64 * lo) (64 * m)) k 0
  atD : ∀ k, k < 256 * m → fmByte t f (dA + 256 * lo + k) = nth (wordBytes wd (64 * lo) (64 * m)) k 0
  outside : ∀ x, (x < chipAddr f bA ∨ chipAddr f mA + 8 ≤ x) → memRead 0 t.fm.mem x = memRead 0 s.fm.mem x

/-- Three disjoint vectors stored one after the other, and a word behind them. -/
theorem adamPuts_stored {f lo m bA cA dA mA : Nat} (wb wc wd : Nat → W32) (left : W32) {s : State} (hwf : memWf 0 s.fm.mem = true)
    (hb : bA % 8 = 0) (hc : cA % 8 = 0) (hd : dA % 8 = 0) (hm : mA % 8 = 0) (hbc : bA + 256 * (lo + m) ≤ cA) (hcd : cA + 256 * (lo + m) ≤ dA)
    (hdm : dA + 256 * (lo + m) ≤ mA) (hon : ∀ a, bA ≤ a → a < mA + 8 → bankOn s f a = true) :
    AdamStored f lo m bA cA dA mA wb wc wd s (storeWord 256 f mA left 0 (putWords f dA lo (32 * m) wd (putWords f cA lo (32 * m) wc
      (putWords f bA lo (32 * m) wb s)))) := by
  obtain ⟨B, hB⟩ : ∃ B, B = putWords f bA lo (32 * m) wb s := ⟨_, rfl⟩
  obtain ⟨C, hC⟩ : ∃ C, C = putWords f cA lo (32 * m) wc B := ⟨_, rfl⟩
  obtain ⟨D, hD⟩ : ∃ D, D = putWords f dA lo (32 * m) wd C := ⟨_, rfl⟩
  have hin : ∀ a, Within [(chipAddr f a + 256 * lo, 8 * (32 * m))] (chipAddr f a + 256 * lo, 8 * (32 * m)) := fun a =>
    ⟨_, List.mem_singleton.mpr rfl, Nat.le_refl _, Nat.le_refl _⟩
  have hsB : Stores _ s B := hB ▸ putWords_stores wb s (hin bA)
  have hsC : Stores _ B C := hC ▸ putWords_stores wc B (hin cA)
  have hsD : Stores _ C D := hD ▸ putWords_stores wd C (hin dA)
  have hwfB := hsB.wf hwf
  have hwfC := hsC.wf hwfB
  have hwfD := hsD.wf hwfC
  have hbankB : ∀ a, bankOn B f a = bankOn s f a := hsB.bankOn_eq f
  have hbankC : ∀ a, bankOn C f a = bankOn s f a := fun a => (hsC.bankOn_eq f a).trans (hbankB a)
  have hbankD : ∀ a, bankOn D f a = bankOn s f a := fun a => (hsD.bankOn_eq f a).trans (hbankC a)
  have hrB := fun x => hB ▸ putWords_read (f := f) (lo := lo) (n := 32 * m) wb hb hwf (fun k hk => hon _ (by omega) (by omega)) x
  have hrC := fun x => hC ▸ putWords_read (f := f) (lo := lo) (n := 32 * m) wc hc hwfB
    (fun k hk => by rw [hbankB]; exact hon _ (by omega) (by omega)) x
  have hrD := fun x => hD ▸ putWords_read (f := f) (lo := lo) (n := 32 * m) wd hd hwfC
    (fun k hk => by rw [hbankC]; exact hon _ (by omega) (by omega)) x
  have hrW : ∀ x, x < chipAddr f mA ∨ chipAddr f mA + 8 ≤ x → memRead 0 (storeWord 256 f mA left 0 D).fm.mem x = memRead 0 D.fm.mem x := by
    intro x hx
    rw [storeWord, if_pos rfl, fmStore_read hm hwfD (fun k hk => by
      rw [leBytes_length] at hk; rw [hbankD]; exact hon _ (by omega) (by omega)), leBytes_length, show roundUp 4 8 = 8 from rfl,
      if_neg (by omega)]
  rw [← hB, ← hC, ← hD]
  have h64 : 2 * (32 * m) = 64 * m := by omega
  rw [h64] at hrB hrC hrD
  unfold chipAddr at *
  refine ⟨fun k hk => ?_, fun k hk => ?_, fun k hk => ?_, fun x hx => ?_⟩
  · rw [fmByte, chipAddr, hrW _ (by omega), hrD, if_neg (by omega), hrC, if_neg (by omega), hrB, if_pos (by omega)]
    congr 1; omega
  · rw [fmByte, chipAddr, hrW _ (by omega), hrD, if_neg (by omega), hrC, if_pos (by omega)]
    congr 1; omega
  · rw [fmByte, chipAddr, hrW _ (by omega), hrD, if_pos (by omega)]
    congr 1; omega
  · unfold chipAddr at hx
    rw [hrW _ (by omega), hrD, if_neg (by omega), hrC, if_neg (by omega), hrB, if_neg (by omega)]

/-- VADAM without marks from the vector it resumes at. -/
theorem vadam_stored (f : Nat) (o : VecOpnd) (x : MoveCtx) (s : State) (hlive : fieldLive s f = true) (hout : o.outEn = false)
    (ham : o.amaxEn = false) (hr : x.resid = []) (hwf : memWf 0 s.fm.mem = true) (hb : o.bAddr % 8 = 0) (hc : o.cAddr % 8 = 0)
    (hd : o.dAddr % 8 = 0) (hm : o.maskAddr % 8 = 0) (hbc : o.bAddr + 256 * o.n ≤ o.cAddr) (hcd : o.cAddr + 256 * o.n ≤ o.dAddr)
    (hdm : o.dAddr + 256 * o.n ≤ o.maskAddr)
    (hon : ∀ a, o.bAddr ≤ a → a < o.maskAddr + 8 → bankOn s f a = true ∧ fmPoisonAt s f a = 0) (hsc : vScalarPoison s f o = 0)
    (hmarks : ∀ e, e < 64 * o.n → vPoison s f (opA o) e = 0) :
    ∃ t, exec (.vadam f o x) s = .next t ∧
      (∀ e, 64 * startsAt (.vadam f o x) s ≤ e → e < 64 * o.n →
        elemCode t f .fp32 o.bAddr e = (adamNew f o s e).1.toNat ∧ elemCode t f .fp32 o.cAddr e = (adamNew f o s e).2.1.toNat ∧
          elemCode t f .fp32 o.dAddr e = (adamNew f o s e).2.2.1.toNat) ∧
      (∀ k, (k < chipAddr f o.bAddr ∨ chipAddr f o.maskAddr + 8 ≤ k) → memRead 0 t.fm.mem k = memRead 0 s.fm.mem k) ∧
      t = { s with fm := t.fm, seq := { s.seq with resume := t.seq.resume }, mbx := t.mbx, ctr := t.ctr, free := t.free } := by
  obtain ⟨lo, hlo⟩ : ∃ lo, lo = min (startsAt (.vadam f o x) s) o.n := ⟨_, rfl⟩
  have hexec : exec (.vadam f o x) s = .next (adamMove f o x ⟨lo, o.n, true⟩ s) := by rw [hlo]; rfl
  obtain ⟨r, s1, left, errs, hreads, hmove⟩ := adamMove_writes x lo o.n hlive hout
  obtain ⟨m, hm64⟩ : ∃ m, m = o.n - lo := ⟨_, rfl⟩
  have hbad : ∀ e, e < 64 * (lo + m) → adamBad f o s e = false := fun e he =>
    adamBad_clean (hmarks e (by omega)) (hon _ (by omega) (by omega)).2 (hon _ (by omega) (by omega)).2 (hon _ (by omega) (by omega)).2
  dsimp only at hmove
  rw [← hm64, adamPut_clean _ _ _ hr hsc hbad, adamPut_clean _ _ _ hr hsc hbad, adamPut_clean _ _ _ hr hsc hbad, hsc, notePoison_zero] at hmove
  have hstored := adamPuts_stored (lo := lo) (m := m) (fun e => (adamNew f o s e).1) (fun e => (adamNew f o s e).2.1)
    (fun e => (adamNew f o s e).2.2.1) left (s := s1) (by rw [hreads.mem_eq]; exact hwf) hb hc hd hm (by omega) (by omega) (by omega)
    (fun a h1 h2 => by rw [hreads.bankOn_eq]; exact (hon a h1 h2).1)
  obtain ⟨v, hv⟩ : ∃ v, v = storeWord 256 f o.maskAddr left 0 (putWords f o.dAddr lo (32 * m) (fun e => (adamNew f o s e).2.2.1)
    (putWords f o.cAddr lo (32 * m) (fun e => (adamNew f o s e).2.1) (putWords f o.bAddr lo (32 * m) (fun e => (adamNew f o s e).1) s1))) :=
    ⟨_, rfl⟩
  rw [← hv] at hmove hstored
  have hbump := bumpBy_reads (cVecErr f) errs v
  obtain ⟨resume, hfin⟩ := vFinish_plain 0x50 f x ⟨lo, o.n, true⟩ r (bumpBy (cVecErr f) errs v) ham
  rw [hmove, hfin] at hexec
  have hmem : (draw (setSeq (fun q => { q with resume := resume }) (bumpBy (cVecErr f) errs v))).fm.mem = v.fm.mem := by
    rw [draw_fm, setSeq_fm, hbump.mem_eq]
  have hbyte : ∀ a, fmByte (draw (setSeq (fun q => { q with resume := resume }) (bumpBy (cVecErr f) errs v))) f a = fmByte v f a := fun a => by
    rw [fmByte, hmem]; rfl
  have hframe : Stores [(chipAddr f o.bAddr, o.maskAddr + 8 - o.bAddr)] s (bumpBy (cVecErr f) errs v) := by
    have hput : ∀ (a : Nat) (w : Nat → W32) (u : State), o.bAddr ≤ a → a + 256 * o.n ≤ o.maskAddr →
        Stores [(chipAddr f o.bAddr, o.maskAddr + 8 - o.bAddr)] u (putWords f a lo (32 * m) w u) := fun a w u h1 h2 =>
      putWords_stores w u ⟨_, List.mem_singleton.mpr rfl, by unfold chipAddr; dsimp only; omega, by unfold chipAddr; dsimp only; omega⟩
    have hword := storeWord_stores (w := 256) left 0 (putWords f o.dAddr lo (32 * m) (fun e => (adamNew f o s e).2.2.1)
      (putWords f o.cAddr lo (32 * m) (fun e => (adamNew f o s e).2.1) (putWords f o.bAddr lo (32 * m) (fun e => (adamNew f o s e).1) s1)))
      (rs := [(chipAddr f o.bAddr, o.maskAddr + 8 - o.bAddr)]) (fi := f) (a := o.maskAddr)
      ⟨_, List.mem_singleton.mpr rfl, by unfold chipAddr; dsimp only; omega, by unfold chipAddr; dsimp only; omega⟩
    rw [← hv] at hword
    exact (hreads.stores _).trans ((hput _ _ _ (by omega) (by omega)).trans ((hput _ _ _ (by omega) (by omega)).trans
      ((hput _ _ _ (by omega) (by omega)).trans (hword.trans (hbump.stores _)))))
  refine ⟨_, hexec, fun e he1 he2 => ?_, fun k hk => ?_, ?_⟩
  · have he : 64 * lo + (e - 64 * lo) = e := by omega
    have hj : e - 64 * lo < 64 * m := by omega
    have h4 : ∀ a, a + 4 * (64 * lo) = a + 256 * lo := fun a => by omega
    refine ⟨?_, ?_, ?_⟩
    · have h := elemCode_of_words (t := draw (setSeq (fun q => { q with resume := resume }) (bumpBy (cVecErr f) errs v))) (f := f)
        (base := o.bAddr) (lo := 64 * lo) (w := fun e => (adamNew f o s e).1) hj (fun k hk => by
          rw [hbyte, h4]; exact hstored.atB k (by omega))
      rwa [he] at h
    · have h := elemCode_of_words (t := draw (setSeq (fun q => { q with resume := resume }) (bumpBy (cVecErr f) errs v))) (f := f)
        (base := o.cAddr) (lo := 64 * lo) (w := fun e => (adamNew f o s e).2.1) hj (fun k hk => by
          rw [hbyte, h4]; exact hstored.atC k (by omega))
      rwa [he] at h
    · have h := elemCode_of_words (t := draw (setSeq (fun q => { q with resume := resume }) (bumpBy (cVecErr f) errs v))) (f := f)
        (base := o.dAddr) (lo := 64 * lo) (w := fun e => (adamNew f o s e).2.2.1) hj (fun k hk => by
          rw [hbyte, h4]; exact hstored.atD k (by omega))
      rwa [he] at h
  · rw [hmem, hstored.outside k hk, hreads.mem_eq]
  · obtain ⟨_, _, _, _, _, _, _, he⟩ := hframe.frame
    rw [he]
    rfl

/-- Settles O30: comparison, transposition and optimiser step. -/
theorem vectorOtherMoves : Obligations.VectorOtherMoves := ⟨vcmp_stored, vtrn_stored, vadam_stored⟩

end Sys2Proof.Machine
end

section
/-! PROOFS. What the run of a move and its cancelling leave (R167 to R172, R24). -/

namespace Sys2Proof.Machine
open Sys2Proof Sys2Proof.Safety

/-! ## What the run of a move leaves -/

/-- A run changes field memory with its marks and wrong bits, the arrays, the counters and interrupts, the free values' count, how far in-place
moves and kept streams have come, and the tick's poison source. -/
structure RunKeeps (s t : State) : Prop where
  frame : ∃ mem poison flips rewrite arrs err int msix ctr free resume keptC src, t = { s with
    fm := { s.fm with mem := mem, poison := poison, flips := flips, rewrite := rewrite, arrs := arrs }
    mbx := { s.mbx with errSum := err, intStatus := int, msix := msix }
    ctr := ctr, free := free
    seq := { s.seq with resume := resume, keptC := keptC }
    tick := { s.tick with poison := src } }

namespace RunKeeps

variable {s t u : State}

theorem refl (s : State) : RunKeeps s s := ⟨_, _, _, _, _, _, _, _, _, _, _, _, _, rfl⟩

theorem trans (h : RunKeeps s t) (k : RunKeeps t u) : RunKeeps s u := by
  obtain ⟨_, _, _, _, _, _, _, _, _, _, _, _, _, rfl⟩ := h
  obtain ⟨_, _, _, _, _, _, _, _, _, _, _, _, _, rfl⟩ := k
  exact ⟨_, _, _, _, _, _, _, _, _, _, _, _, _, rfl⟩

theorem foldl {α : Type} {g : State → α → State} (hg : ∀ t x, RunKeeps t (g t x)) (xs : List α) (s : State) : RunKeeps s (xs.foldl g s) := by
  induction xs generalizing s with
  | nil => exact .refl s
  | cons x xs ih => exact (hg s x).trans (ih _)

theorem ite {c : Prop} [Decidable c] (h : RunKeeps s t) (k : RunKeeps s u) : RunKeeps s (if c then t else u) := by
  split
  · exact h
  · exact k

theorem seq_tierReq (h : RunKeeps s t) : t.seq.tierReq = s.seq.tierReq := by obtain ⟨_, _, _, _, _, _, _, _, _, _, _, _, _, rfl⟩ := h; rfl
theorem dram_eq (h : RunKeeps s t) : t.dram = s.dram := by obtain ⟨_, _, _, _, _, _, _, _, _, _, _, _, _, rfl⟩ := h; rfl
theorem pending_eq (h : RunKeeps s t) : t.pending = s.pending := by obtain ⟨_, _, _, _, _, _, _, _, _, _, _, _, _, rfl⟩ := h; rfl

end RunKeeps

theorem draw_runKeeps (s : State) : RunKeeps s (draw s) := ⟨_, _, _, _, _, _, _, _, _, _, _, _, _, rfl⟩

theorem bumpBy_runKeeps (off n : Nat) (s : State) : RunKeeps s (bumpBy off n s) := by
  obtain ⟨m, c, h⟩ := bumpBy_eq off n s
  have hm := bumpBy_counts off n s
  rw [h] at hm ⊢
  exact ⟨s.fm.mem, s.fm.poison, s.fm.flips, s.fm.rewrite, s.fm.arrs, m.errSum, m.intStatus, m.msix, c, s.free, s.seq.resume, s.seq.keptC,
    s.tick.poison, congrArg (fun x => ({ s with mbx := x, ctr := c } : State)) hm⟩

theorem countAx_runKeeps (f : Nat) (fs : List AxFlag) (s : State) : RunKeeps s (countAx f fs s) :=
  ((bumpBy_runKeeps _ _ _).trans (bumpBy_runKeeps _ _ _)).trans (bumpBy_runKeeps _ _ _)

theorem fmCheckGroup_runKeeps (f g : Nat) (s : State) : RunKeeps s (fmCheckGroup f s g) := by
  unfold fmCheckGroup
  split
  · exact .refl s
  · exact (bumpBy_runKeeps _ _ s).trans ⟨_, _, _, _, _, _, _, _, _, _, _, _, _, rfl⟩
  · exact (bumpBy_runKeeps _ _ s).trans ⟨_, _, _, _, _, _, _, _, _, _, _, _, _, rfl⟩

theorem fmScan_runKeeps (w f a n : Nat) (s : State) : RunKeeps s (fmScan w f a n s) :=
  (bumpBy_runKeeps _ _ s).trans (.foldl (fun t g => fmCheckGroup_runKeeps f g t) _ _)

theorem vScanPart_runKeeps (f : Nat) (v : VOp) (lo n : Nat) (s : State) : RunKeeps s (vScanPart f v lo n s) :=
  .ite ((fmScan_runKeeps _ _ _ _ s).trans (fmScan_runKeeps _ _ _ _ _)) (fmScan_runKeeps _ _ _ _ s)

theorem vScan_runKeeps (f : Nat) (v : VOp) (s : State) : RunKeeps s (vScan f v s) :=
  .ite ((fmScan_runKeeps _ _ _ _ s).trans (fmScan_runKeeps _ _ _ _ _)) (fmScan_runKeeps _ _ _ _ s)

theorem fmStore_runKeeps (w f a : Nat) (bs : List Byte) (ps : List (BitVec 8)) (s : State) : RunKeeps s (fmStore w f a bs ps s) := by
  refine (bumpBy_runKeeps _ _ s).trans (.foldl (fun t i => ?_) _ _)
  exact .ite (.refl t) ⟨_, _, _, _, _, _, _, _, _, _, _, _, _, rfl⟩

theorem storeWord_runKeeps (w f a : Nat) (v : W32) (p : BitVec 8) (s : State) : RunKeeps s (storeWord w f a v p s) :=
  fmStore_runKeeps _ _ _ _ _ s

theorem setArr_runKeeps (a : Nat) (g : Arr → Arr) (s : State) : RunKeeps s (setArr a g s) := ⟨_, _, _, _, _, _, _, _, _, _, _, _, _, rfl⟩

theorem notePoison_runKeeps (x : MoveCtx) (p : BitVec 8) (s : State) : RunKeeps s (notePoison x p s) :=
  RunKeeps.ite ⟨_, _, _, _, _, _, _, _, _, _, _, _, _, rfl⟩ (.refl s)

theorem keepResume_runKeeps (op f : Nat) (o : VecOpnd) (x : MoveCtx) (u : VRun) (r : VecResume) (s : State) :
    RunKeeps s (keepResume op f o x u r s) := RunKeeps.ite ⟨_, _, _, _, _, _, _, _, _, _, _, _, _, rfl⟩ (.refl s)

theorem vFinish_runKeeps (op f : Nat) (o : VecOpnd) (x : MoveCtx) (u : VRun) (r : VecResume) (s : State) :
    RunKeeps s (vFinish op f o x u r s) :=
  ((RunKeeps.ite (storeWord_runKeeps _ _ _ _ _ s) (.refl s)).trans (keepResume_runKeeps _ _ _ _ _ _ _)).trans (draw_runKeeps _)

theorem vWrite_runKeeps (f : Nat) (o : VecOpnd) (x : MoveCtx) (addr base total : Nat) (rs : List VRes) (s : State) :
    RunKeeps s (vWrite f o x addr base total rs s) := by
  unfold vWrite
  refine RunKeeps.trans ?_ (notePoison_runKeeps _ _ _)
  refine RunKeeps.trans ?_ (bumpBy_runKeeps _ _ _)
  refine RunKeeps.trans ?_ (countAx_runKeeps _ _ _)
  exact (fmStore_runKeeps _ _ _ _ _ s).trans (RunKeeps.ite (fmStore_runKeeps _ _ _ _ _ _) (.refl _))

theorem vScans_runKeeps (f : Nat) (lo n : Nat) (vs : List VOp) (s : State) : RunKeeps s (vs.foldl (fun t v => vScanPart f v lo n t) s) :=
  RunKeeps.foldl (fun t v => vScanPart_runKeeps f v lo n t) vs s

theorem elemMove_runKeeps (op f : Nat) (o : VecOpnd) (x : MoveCtx) (u : VRun) (ops : List VOp) (useMask : Bool) (g : Nat → W32) (s : State) :
    RunKeeps s (elemMove op f o x u ops useMask g s) := by
  refine RunKeeps.ite (.refl s) ?_
  refine RunKeeps.trans ?_ (vFinish_runKeeps _ _ _ _ _ _ _)
  refine RunKeeps.trans ?_ (vWrite_runKeeps _ _ _ _ _ _ _ _)
  have hscans := (fmScan_runKeeps 256 f o.scAddr 64 s).trans (vScans_runKeeps f (64 * u.lo) (64 * (u.hi - u.lo)) ops _)
  exact (hscans.trans (RunKeeps.ite (fmScan_runKeeps _ _ _ _ _) (.refl _)))

theorem unary_runKeeps (op f : Nat) (o : VecOpnd) (x : MoveCtx) (u : VRun) (g : W32 → Nat → W32) (s : State) :
    RunKeeps s (unary op f o x u g s) := elemMove_runKeeps _ _ _ _ _ _ _ _ _

theorem binary_runKeeps (op f : Nat) (o : VecOpnd) (x : MoveCtx) (u : VRun) (g : W32 → W32 → W32) (s : State) :
    RunKeeps s (binary op f o x u g s) := elemMove_runKeeps _ _ _ _ _ _ _ _ _

theorem rowMove_runKeeps (op f : Nat) (o : VecOpnd) (x : MoveCtx) (u : VRun) (g : List W32 → W32 × Bool) (s : State) :
    RunKeeps s (rowMove op f o x u g s) := by
  refine RunKeeps.ite (.refl s) ?_
  refine RunKeeps.trans ?_ (vFinish_runKeeps _ _ _ _ _ _ _)
  refine RunKeeps.trans ?_ (vWrite_runKeeps _ _ _ _ _ _ _ _)
  exact ((fmScan_runKeeps _ _ _ _ s).trans (vScanPart_runKeeps _ _ _ _ _))

theorem normMove_runKeeps (op f : Nat) (o : VecOpnd) (x : MoveCtx) (u : VRun) (passes : Nat) (vecs : List VOp)
    (g : Nat → List W32 → List W32 × Bool) (post : Nat → W32 → W32) (s : State) : RunKeeps s (normMove op f o x u passes vecs g post s) := by
  refine RunKeeps.ite (.refl s) ?_
  refine RunKeeps.trans ?_ (vFinish_runKeeps _ _ _ _ _ _ _)
  refine RunKeeps.trans ?_ (RunKeeps.foldl (fun t row => vWrite_runKeeps _ _ _ _ _ _ _ t) _ _)
  refine ((fmScan_runKeeps 256 f o.scAddr 64 s).trans (RunKeeps.foldl (fun t r => ?_) _ _))
  exact (RunKeeps.foldl (fun v _ => vScanPart_runKeeps _ _ _ _ v) _ t).trans (RunKeeps.foldl (fun v w => vScan_runKeeps f w v) vecs _)

theorem cmpMove_runKeeps (f : Nat) (o : VecOpnd) (x : MoveCtx) (u : VRun) (s : State) : RunKeeps s (cmpMove f o x u s) := by
  refine RunKeeps.ite (.refl s) ?_
  refine RunKeeps.trans ?_ (draw_runKeeps _)
  refine RunKeeps.trans ?_ (keepResume_runKeeps _ _ _ _ _ _ _)
  refine RunKeeps.trans ?_ (notePoison_runKeeps _ _ _)
  refine RunKeeps.trans ?_ (bumpBy_runKeeps _ _ _)
  refine RunKeeps.trans ?_ (fmStore_runKeeps _ _ _ _ _ _)
  exact ((fmScan_runKeeps _ _ _ _ s).trans ((vScanPart_runKeeps _ _ _ _ _).trans (vScanPart_runKeeps _ _ _ _ _)))

theorem trnMove_runKeeps (f : Nat) (o : VecOpnd) (x : MoveCtx) (u : VRun) (s : State) : RunKeeps s (trnMove f o x u s) := by
  refine RunKeeps.ite (.refl s) ?_
  refine RunKeeps.trans ?_ (vFinish_runKeeps _ _ _ _ _ _ _)
  refine RunKeeps.trans ?_ (vWrite_runKeeps _ _ _ _ _ _ _ _)
  exact ((fmScan_runKeeps _ _ _ _ s).trans (vScanPart_runKeeps _ _ _ _ _))

theorem adamMove_runKeeps (f : Nat) (o : VecOpnd) (x : MoveCtx) (u : VRun) (s : State) : RunKeeps s (adamMove f o x u s) := by
  unfold adamMove
  refine RunKeeps.ite (.refl s) ?_
  extract_lets old sc k sp cnt g mv vv w es bad res left hit s1 put s2 qs o1 s3 s4
  have hput : ∀ base pick t, RunKeeps t (put base pick t) := fun base pick t =>
    RunKeeps.foldl (fun t1 i => RunKeeps.ite (.refl t1) (fmStore_runKeeps _ _ _ _ _ t1)) _ t
  have h1 : RunKeeps s s1 := ((fmScan_runKeeps 256 f o.scAddr 64 s).trans (vScans_runKeeps f (64 * u.lo) (64 * (u.hi - u.lo)) _ _))
  clear_value put s1
  have h2 : RunKeeps s s2 := ((h1.trans (hput _ _ s1)).trans (hput _ _ _)).trans (hput _ _ _)
  clear_value s2
  have h3 : RunKeeps s s3 := h2.trans (RunKeeps.ite (vWrite_runKeeps _ _ _ _ _ _ _ s2) (.refl s2))
  have h4 : RunKeeps s s4 := h3.trans (RunKeeps.ite (storeWord_runKeeps _ _ _ _ _ s3) (.refl s3))
  exact ((h4.trans (bumpBy_runKeeps _ _ s4)).trans (notePoison_runKeeps _ _ _)).trans (vFinish_runKeeps _ _ _ _ _ _ _)

theorem vecRun_runKeeps (op f : Nat) (o : VecOpnd) (x : MoveCtx) (u : VRun) (s : State) : RunKeeps s (vecRun op f o x u s) := by
  unfold vecRun
  split
  any_goals with_reducible exact elemMove_runKeeps _ _ _ _ _ _ _ _ _
  any_goals with_reducible exact unary_runKeeps _ _ _ _ _ _ _
  any_goals with_reducible exact binary_runKeeps _ _ _ _ _ _ _
  any_goals with_reducible exact rowMove_runKeeps _ _ _ _ _ _ _
  any_goals with_reducible exact normMove_runKeeps _ _ _ _ _ _ _ _ _ _
  · exact cmpMove_runKeeps _ _ _ _ _
  · exact trnMove_runKeeps _ _ _ _ _
  · exact adamMove_runKeeps _ _ _ _ _
  · exact .refl s

theorem cancelMove_runKeeps (l : MList) (s : State) (m : Flying) : RunKeeps s (cancelMove l s m) := by
  unfold cancelMove
  extract_lets half uses x s1
  have h1 : RunKeeps s s1 := by
    refine RunKeeps.ite (RunKeeps.foldl (fun t a => setArr_runKeeps _ _ _) _ s) (RunKeeps.ite ?_ (.refl s))
    split
    · exact RunKeeps.ite (.refl s) (vecRun_runKeeps _ _ _ _ _ _)
    · exact .refl s
  refine h1.trans ?_
  split
  · exact ⟨_, _, _, _, _, _, _, _, _, _, _, _, _, rfl⟩
  · exact ⟨_, _, _, _, _, _, _, _, _, _, _, _, _, rfl⟩
  · exact .refl _

end Sys2Proof.Machine
end

section
/-! PROOFS. The schedule change (R215 to R219). -/

namespace Sys2Proof.Machine
open Sys2Proof Sys2Proof.Safety

/-! ## What descriptors leave as they start (R176, R188, R389) -/

/-- Descriptors that start or end change the transfers, the sync objects with the engines they hold, the jobs, the links, the counters and
interrupts, and what is asked of power. -/
structure DescKeeps (s t : State) : Prop where
  frame : ∃ xfers next queue errs sync barriers jobs link sent tag ctr err int msix polders retry asked, t = { s with
    fm := { s.fm with xfers := xfers, nextXfer := next, descQueue := queue, descErrs := errs }
    seq := { s.seq with sync := sync, barriers := barriers, jobs := jobs }
    mbx := { s.mbx with errSum := err, intStatus := int, msix := msix }
    links := { s.links with link := link, sent := sent, nextTag := tag }
    power := { s.power with polders := polders, retry := retry, queue := asked }
    ctr := ctr }

namespace DescKeeps

variable {s t u : State}

theorem refl (s : State) : DescKeeps s s := ⟨_, _, _, _, _, _, _, _, _, _, _, _, _, _, _, _, _, rfl⟩

theorem trans (h : DescKeeps s t) (k : DescKeeps t u) : DescKeeps s u := by
  obtain ⟨_, _, _, _, _, _, _, _, _, _, _, _, _, _, _, _, _, rfl⟩ := h
  obtain ⟨_, _, _, _, _, _, _, _, _, _, _, _, _, _, _, _, _, rfl⟩ := k
  exact ⟨_, _, _, _, _, _, _, _, _, _, _, _, _, _, _, _, _, rfl⟩

theorem foldl {α : Type} {g : State → α → State} (hg : ∀ t x, DescKeeps t (g t x)) (xs : List α) (s : State) : DescKeeps s (xs.foldl g s) := by
  induction xs generalizing s with
  | nil => exact .refl s
  | cons x xs ih => exact (hg s x).trans (ih _)

theorem ite {c : Prop} [Decidable c] (h : DescKeeps s t) (k : DescKeeps s u) : DescKeeps s (if c then t else u) := by
  split
  · exact h
  · exact k

end DescKeeps

theorem bump_descKeeps (off : Nat) (s : State) : DescKeeps s (bump off s) := by
  obtain ⟨m, c, h⟩ := bumpBy_eq off 1 s
  have hm := bumpBy_counts off 1 s
  rw [bump, h] at *
  exact ⟨_, _, _, _, _, _, _, s.links.link, s.links.sent, s.links.nextTag, _, m.errSum, m.intStatus, m.msix, s.power.polders, s.power.retry,
    s.power.queue, congrArg (fun x => ({ s with mbx := x, ctr := c } : State)) hm⟩

theorem requestPolder_descKeeps (p : Nat) (s : State) : DescKeeps s (requestPolder p s) := by
  have hset (w : Power → List PwrReq) (t : State) (ho : DescKeeps s t) : DescKeeps s (setPower (fun v => { v with queue := w v }) t) :=
    ho.trans ⟨_, _, _, _, _, _, _, _, _, _, _, _, _, _, _, _, _, rfl⟩
  have h0 : DescKeeps s (setPower (fun w => { w with retry := w.retry.erase p }) s) := ⟨_, _, _, _, _, _, _, _, _, _, _, _, _, _, _, _, _, rfl⟩
  unfold requestPolder
  extract_lets t ok
  refine .ite h0 ?_
  split
  · exact h0
  · exact h0
  · exact h0.trans ⟨_, _, _, _, _, _, _, _, _, _, _, _, _, _, _, _, _, rfl⟩
  · exact .ite (hset _ _ h0) h0

theorem needDram_descKeeps (s : State) : DescKeeps s (needDram s) := .ite (.refl s) (requestPolder_descKeeps _ s)

theorem setJob_descKeeps (j : Nat) (f : Job → Job) (s : State) : DescKeeps s (setJob j f s) := ⟨_, _, _, _, _, _, _, _, _, _, _, _, _, _, _, _, _, rfl⟩

theorem addXfer_descKeeps (x : Xfer) (s : State) : DescKeeps s (addXfer x s) := ⟨_, _, _, _, _, _, _, _, _, _, _, _, _, _, _, _, _, rfl⟩

theorem descFails_descKeeps (f m : Nat) (e : DescErr) (s : State) : DescKeeps s (descFails f m e s) := ⟨_, _, _, _, _, _, _, _, _, _, _, _, _, _, _, _, _, rfl⟩

theorem queueFlit_descKeeps (l : Nat) (fwd : Bool) (x : Flit) (s : State) : DescKeeps s (queueFlit l fwd x s) :=
  ⟨_, _, _, _, _, _, _, _, _, _, _, _, _, _, _, _, _, rfl⟩

theorem triggerJob_descKeeps (j : Nat) (s : State) : DescKeeps s (triggerJob j s) := .ite (.refl s) (setJob_descKeeps _ _ s)

theorem addSignal_descKeeps (o n e : Nat) (s : State) : DescKeeps s (addSignal o n e s) :=
  .ite (.refl s) (.ite (bump_descKeeps _ s) ⟨_, _, _, _, _, _, _, _, _, _, _, _, _, _, _, _, _, rfl⟩)

theorem localDone_descKeeps (x : Xfer) (s : State) : DescKeeps s (localDone x s) := by
  refine .ite ?_ (.ite (.refl s) (addSignal_descKeeps _ _ _ s))
  split
  · exact triggerJob_descKeeps _ s
  · exact .refl s

theorem sendPeer_descKeeps (f : Nat) (o : DmaOpnd) (x : MoveCtx) (tick : W64) (s : State) : DescKeeps s (sendPeer f o x tick s) := by
  unfold sendPeer
  split
  · exact (bump_descKeeps _ s).trans (descFails_descKeeps _ _ _ _)
  · exact .refl s
  · rename_i tag _ _
    have hhead (g : Links → Tab (Nat × Nat)) (l : Nat) (x : Flit) : DescKeeps s (queueFlit l false x (setLinks (fun k => { k with nextTag := (tag + 1) % 16384, sent := g k }) s)) :=
      DescKeeps.trans ⟨_, _, _, _, _, _, _, _, _, _, _, _, _, _, _, _, _, rfl⟩ (queueFlit_descKeeps l false x _)
    exact .ite (hhead _ _ _) ((hhead _ _ _).trans (addXfer_descKeeps _ _))

theorem descStart_descKeeps (q : DescWait) (s : State) : DescKeeps s (descStart q s) := by
  have hneed : DescKeeps s (if q.o.srcKind == .dram || q.o.dstKind == .dram then needDram s else s) := .ite (needDram_descKeeps s) (.refl s)
  exact .ite (hneed.trans (sendPeer_descKeeps _ _ _ _ _)) (.ite (hneed.trans (localDone_descKeeps _ _)) (hneed.trans (addXfer_descKeeps _ _)))

theorem descRelease_descKeeps (n : Nat) (s : State) : DescKeeps s (descRelease n s) := by
  induction n generalizing s with
  | zero => exact .refl s
  | succ n ih =>
    unfold descRelease
    dsimp only
    split
    · exact .refl s
    · refine DescKeeps.trans ?_ (ih _)
      exact DescKeeps.trans ⟨_, _, _, _, _, _, _, _, _, _, _, _, _, _, _, _, _, rfl⟩ (descStart_descKeeps _ _)

theorem descEnqueue_descKeeps (q : DescWait) (s : State) : DescKeeps s (descEnqueue q s) :=
  DescKeeps.trans ⟨_, _, _, _, _, _, _, _, _, _, _, _, _, _, _, _, _, rfl⟩ (descRelease_descKeeps _ _)

theorem fwWriteThen_descKeeps (job : Option Nat) (f : Nat) (items : List (Nat × List Byte)) (s : State) :
    DescKeeps s (fwWriteThen job f items s) := .ite (.refl s) (descEnqueue_descKeeps _ s)

theorem fwWrite_descKeeps (f : Nat) (items : List (Nat × List Byte)) (s : State) : DescKeeps s (fwWrite f items s) :=
  fwWriteThen_descKeeps none f items s

theorem fwCopy_descKeeps (f : Nat) (sk dk : DmaKind) (bytes : List (Nat × Nat)) (s : State) : DescKeeps s (fwCopy f sk dk bytes s) :=
  .ite (.refl s) (descEnqueue_descKeeps _ s)

/-! ## A schedule change takes effect (R215 to R219) -/

/-- The parts that a change's work behind the new schedule leaves. -/
structure ChangeKeeps (s t : State) : Prop where
  frame : ∃ xfers next queue errs sync barriers jobs owner links ctr mbx power nv boot watch kv, t = { s with
    fm := { s.fm with xfers := xfers, nextXfer := next, descQueue := queue, descErrs := errs }
    seq := { s.seq with sync := sync, barriers := barriers, jobs := jobs, owner := owner, slot := t.seq.slot }
    links := links, ctr := ctr, mbx := mbx, power := power, nv := nv, boot := boot, watch := watch, kv := kv }
  slot : s.seq.slot = 0 → t.seq.slot = 0

namespace ChangeKeeps

variable {s t u : State}

theorem refl (s : State) : ChangeKeeps s s := ⟨⟨_, _, _, _, _, _, _, _, _, _, _, _, _, _, _, _, rfl⟩, id⟩

theorem trans (h : ChangeKeeps s t) (k : ChangeKeeps t u) : ChangeKeeps s u := by
  refine ⟨?_, fun hs => k.slot (h.slot hs)⟩
  obtain ⟨_, _, _, _, _, _, _, _, _, _, _, _, _, _, _, _, ht⟩ := h.frame
  obtain ⟨_, _, _, _, _, _, _, _, _, _, _, _, _, _, _, _, hu⟩ := k.frame
  rw [ht] at hu
  exact ⟨_, _, _, _, _, _, _, _, _, _, _, _, _, _, _, _, hu⟩

theorem foldl {α : Type} {g : State → α → State} (hg : ∀ t x, ChangeKeeps t (g t x)) (xs : List α) (s : State) : ChangeKeeps s (xs.foldl g s) := by
  induction xs generalizing s with
  | nil => exact .refl s
  | cons x xs ih => exact (hg s x).trans (ih _)

theorem ite {c : Prop} [Decidable c] (h : ChangeKeeps s t) (k : ChangeKeeps s u) : ChangeKeeps s (if c then t else u) := by
  split
  · exact h
  · exact k

end ChangeKeeps

theorem DescKeeps.changeKeeps {s t : State} (h : DescKeeps s t) : ChangeKeeps s t := by
  obtain ⟨_, _, _, _, _, _, _, _, _, _, _, _, _, _, _, _, _, rfl⟩ := h
  exact ⟨⟨_, _, _, _, _, _, _, _, _, _, _, _, _, _, _, _, rfl⟩, id⟩

theorem setPower_changeKeeps (f : Power → Power) (s : State) : ChangeKeeps s (setPower f s) :=
  ⟨⟨_, _, _, _, _, _, _, _, _, _, _, _, _, _, _, _, rfl⟩, id⟩

theorem setWatch_changeKeeps (f : Watch → Watch) (s : State) : ChangeKeeps s (setWatch f s) :=
  ⟨⟨_, _, _, _, _, _, _, _, _, _, _, _, _, _, _, _, rfl⟩, id⟩

theorem setMbx_changeKeeps (f : Mbx → Mbx) (s : State) : ChangeKeeps s (setMbx f s) :=
  ⟨⟨_, _, _, _, _, _, _, _, _, _, _, _, _, _, _, _, rfl⟩, id⟩

theorem raiseInt_changeKeeps (b : Nat) (s : State) : ChangeKeeps s (raiseInt b s) := by
  obtain ⟨m, h⟩ := raiseInt_eq b s
  exact h ▸ ⟨⟨_, _, _, _, _, _, _, _, _, _, _, _, _, _, _, _, rfl⟩, id⟩

theorem logEvent_changeKeeps (code src a b : Nat) (s : State) : ChangeKeeps s (logEvent code src a b s) := by
  obtain ⟨_, _, _, _, _, h⟩ := logEvent_eq code src a b s
  exact h ▸ ⟨⟨_, _, _, _, _, _, _, _, _, _, _, _, _, _, _, _, rfl⟩, id⟩

theorem finish_changeKeeps (p : PendAct → Bool) (st : Status) (d : Nat) (s : State) : ChangeKeeps s (finish p st d s) := by
  obtain ⟨m, h⟩ : ∃ m, finish p st d s = { s with mbx := m } := ⟨(finish p st d s).mbx, by apply State.eq_of_fields <;> simp⟩
  exact h ▸ ⟨⟨_, _, _, _, _, _, _, _, _, _, _, _, _, _, _, _, rfl⟩, id⟩

theorem finishFences_changeKeeps (s : State) : ChangeKeeps s (finishFences s) := by
  unfold finishFences
  exact (finish_changeKeeps _ _ _ s).trans (setMbx_changeKeeps _ _)

theorem trainStart_changeKeeps (j : Nat) (s : State) : ChangeKeeps s (trainStart j s) := by
  unfold trainStart
  split
  · exact .refl s
  · refine .ite (.refl s) ?_
    refine ((triggerJob_descKeeps j s).changeKeeps.trans (setWatch_changeKeeps _ _)).trans (.foldl (fun t e => ?_) _ _)
    exact (fwWrite_descKeeps _ _ t).changeKeeps

theorem takeSnapshot_changeKeeps (im : WImage) (s : State) : ChangeKeeps s (takeSnapshot im s) :=
  ((fwCopy_descKeeps _ _ _ _ s).trans (fwCopy_descKeeps _ _ _ _ _)).changeKeeps

theorem evalStart_changeKeeps (j : Nat) (s : State) : ChangeKeeps s (evalStart j s) := by
  unfold evalStart
  split
  · exact .refl s
  · exact .ite (.refl s) (((triggerJob_descKeeps j s).changeKeeps.trans (setWatch_changeKeeps _ _)).trans (takeSnapshot_changeKeeps _ _))

theorem freshGaps_changeKeeps (cs : List Nat) (s : State) : ChangeKeeps s (freshGaps cs s) := by
  unfold freshGaps
  split
  · exact .refl s
  · exact .foldl (fun t j => .ite (.refl t) (.ite (trainStart_changeKeeps j t) (.ite (evalStart_changeKeeps j t)
      (.ite (.refl t) (triggerJob_descKeeps j t).changeKeeps)))) _ s

theorem retryDown_changeKeeps (now : Nat) (s : State) : ChangeKeeps s (retryDown now s) :=
  (setPower_changeKeeps _ s).trans (.foldl (fun t _ => .ite (.refl t) (.ite (setPower_changeKeeps _ t) (.refl t))) _ _)

theorem polderChange_changeKeeps (old new : BitVec 293) (s : State) : ChangeKeeps s (polderChange old new s) :=
  (setPower_changeKeeps _ s).trans (retryDown_changeKeeps _ _)

theorem slotStart_changeKeeps (s : State) : ChangeKeeps s (slotStart 0 s) := by
  unfold slotStart
  split
  · exact .refl s
  · split
    · exact .refl s
    · rw [if_pos (Or.inl rfl)]
      unfold applyOwners
      split
      · exact ⟨⟨_, _, _, _, _, _, _, _, _, _, _, _, _, _, _, _, rfl⟩, fun _ => rfl⟩
      · exact ⟨⟨_, _, _, _, _, _, _, _, _, _, _, _, _, _, _, _, rfl⟩, fun _ => rfl⟩

theorem watchChange_changeKeeps (back : Bool) (l : MList) (s : State) : ChangeKeeps s (watchChange false back l s) := by
  unfold watchChange
  split
  · exact .refl s
  · rw [Bool.false_and, if_neg (c := false = true) (by decide)]
    exact .ite (.refl s) (setWatch_changeKeeps _ s)

/-- What precedes the new schedule: cancelled moves and abandoned jobs leave DRAM, and memory where no move was in flight. -/
theorem cancelled_keeps {l : MList} {s : State} (ha : s.seq.active = some l) :
    ∃ t, RunKeeps s t ∧ (s.seq.flying = [] → t = s) ∧ cancelOutstanding s = setSeq (fun q => { q with
      flying := [], issued := [], slip := [], barriers := [], slot := 0, ranWins := [], arrRuns := [], late := []
      jobs := q.jobs.map fun e => (e.1, { e.2 with busy := false }) }) t := by
  unfold cancelOutstanding
  rw [ha]
  refine ⟨_, RunKeeps.foldl (fun t m => cancelMove_runKeeps l t m) _ s, fun h => ?_, rfl⟩
  rw [h]; rfl

theorem abandonJobs_changeKeeps (l : MList) (s : State) : ChangeKeeps s (abandonJobs l s) :=
  .foldl (fun t j => .ite (setJob_descKeeps j _ t).changeKeeps (.refl t)) _ s

theorem attnAbandon_changeKeeps (s : State) : ChangeKeeps s (attnAbandon s) :=
  ⟨⟨_, _, _, _, _, _, _, _, _, _, _, _, _, _, _, _, rfl⟩, id⟩

namespace ChangeKeeps

variable {s t : State}

theorem seq_eq (h : ChangeKeeps s t) : t.seq.sched = s.seq.sched ∧ t.seq.tierRun = s.seq.tierRun ∧ t.seq.tierReq = s.seq.tierReq ∧
    t.seq.change = s.seq.change ∧ t.seq.flying = s.seq.flying ∧ t.seq.stopped = s.seq.stopped := by
  obtain ⟨_, _, _, _, _, _, _, _, _, _, _, _, _, _, _, _, h⟩ := h.frame
  rw [h]; exact ⟨rfl, rfl, rfl, rfl, rfl, rfl⟩

theorem rest_eq (h : ChangeKeeps s t) : t.fm.mem = s.fm.mem ∧ t.fm.arrs = s.fm.arrs ∧ t.dram = s.dram ∧ t.pending = s.pending := by
  obtain ⟨_, _, _, _, _, _, _, _, _, _, _, _, _, _, _, _, h⟩ := h.frame
  rw [h]; exact ⟨rfl, rfl, rfl, rfl⟩

end ChangeKeeps

/-- The sequencer as the new schedule opens. -/
def scheduleOpened (l : MList) (sel : Option Nat) (plan : Option W32) (q : Seq) : Seq :=
  { q with
    sched := sel
    stopped := stoppedClasses l sel
    tierRun := q.tierReq
    change := none
    keptC := []
    slot := 0
    owner := []
    planId := plan }

/-- A change of schedule or tier: the state right behind the new schedule, and what follows it. -/
theorem takeChange_decomp (l : MList) (sel : Option Nat) (s : State) :
    ∃ plan u v, ChangeKeeps (attnAbandon (cancelOutstanding s)) u ∧
      ChangeKeeps (setSeq (scheduleOpened l sel plan) u) v ∧ ChangeKeeps (tilesOff v) (takeChange false l sel s) := by
  unfold takeChange
  extract_lets oldSet oldStop gaps s1 s2 stop newSched place tierNew s3 fresh s4 s5 s6 s7 s8 s9 s10
  have h4 : ChangeKeeps s3 s4 := .ite (logEvent_changeKeeps _ _ _ _ s3) (.refl s3)
  have h5 : ChangeKeeps s3 s5 := h4.trans (.ite (raiseInt_changeKeeps 6 s4) (.refl s4))
  have h6 : ChangeKeeps s3 s6 := h5.trans (.ite ((raiseInt_changeKeeps 5 s5).trans (setPower_changeKeeps _ _)) (.refl s5))
  refine ⟨_, s2, _, abandonJobs_changeKeeps l s1, h6.trans (watchChange_changeKeeps (oldStop.getLsbD 0 && !stop.getLsbD 0) l s6), ?_⟩
  refine ChangeKeeps.trans ?_ (finishFences_changeKeeps _)
  exact ((freshGaps_changeKeeps _ _).trans (polderChange_changeKeeps _ _ _)).trans (slotStart_changeKeeps _)

/-- Settles O25: the frames of what precedes and what follows the new schedule. -/
theorem scheduleChangeTakesEffect : Obligations.ScheduleChangeTakesEffect := by
  intro l c s hdue hstage hactive hchange hswap hnew
  have hexec : exec .scheduleChange s = .next (takeChange false l c.sched s) := by
    change Host.Outcome.next (scheduleChange s) = _
    unfold scheduleChange
    simp only [hdue, hstage, hchange, hswap, hactive]
    rw [if_neg (by decide), if_neg (by decide), if_neg]
    rintro ⟨hs, ht⟩
    exact hnew.elim (· hs) (· ht)
  obtain ⟨w, hrun, hidle, hcancel⟩ := cancelled_keeps hactive
  obtain ⟨plan, u, v, hu, hv, ht⟩ := takeChange_decomp l c.sched s
  rw [hcancel] at hu
  have hu' := (attnAbandon_changeKeeps _).trans hu
  obtain ⟨-, -, hreq, -, hfly, -⟩ := hu'.seq_eq
  obtain ⟨hmemu, -, hdramu, hpendu⟩ := hu'.rest_eq
  obtain ⟨hschedv, htierv, -, hchangev, hflyv, hstopv⟩ := hv.seq_eq
  obtain ⟨hmemv, -, hdramv, hpendv⟩ := hv.rest_eq
  obtain ⟨hsched, htier, -, hchg, hfl, hstop⟩ := ht.seq_eq
  obtain ⟨hmem, harrs, hdram, hpend⟩ := ht.rest_eq
  refine ⟨_, hexec, hsched.trans hschedv, ?_, hchg.trans hchangev, ht.slot (hv.slot rfl), ?_, hstop.trans hstopv, ?_, ?_, fun h => ?_, ?_⟩
  · exact (htier.trans htierv).trans (hreq.trans hrun.seq_tierReq)
  · exact (hfl.trans hflyv).trans hfly
  · rw [harrs]
    intro e he
    obtain ⟨x, -, rfl⟩ := List.mem_map.mp he
    rfl
  · exact (hdram.trans hdramv).trans (hdramu.trans hrun.dram_eq)
  · rw [hidle h] at hmemu
    exact (hmem.trans hmemv).trans hmemu
  · exact (hpend.trans hpendv).trans (hpendu.trans hrun.pending_eq)

end Sys2Proof.Machine
end

section
/-! PROOFS. Received gPTP frames (R406, R411). -/

namespace Sys2Proof.Machine
open Sys2Proof Sys2Proof.Safety

/-- A Sync whose announced interval lies outside what R411 allows is not taken up. -/
theorem gptpFrame_interval (p i : Nat) (f : FbFrame) {ns : Nat} {corr log2 : Int} (s : State) (hg : f.gptp = .sync ns corr log2)
    (hl : ¬(-5 ≤ log2 ∧ log2 ≤ 0)) : gptpFrame p i f s = s := by
  simp only [gptpFrame, hg, if_neg hl, ite_self]

/-- Port 0 is on, with gPTP, and listens to address 9 through entry 31 of its filter. -/
def gptpListener : State :=
  { boot := { stage := .ready }
    bus := { ports := [(0, { cfg := BitVec.ofNat 128 (2 ^ 4 + 2 ^ 2) })]
             filters := [(31, BitVec.ofNat 128 (9 * 2 ^ 80 + 2 ^ 47 + 2 ^ 46 + 2 ^ 40))] } }

/-- A Sync of address 9 that announces an interval of 2 s. -/
def slowSync : FbFrame :=
  { src := 9, etherType := 0x88F7, domain := 0, crcOk := true, tooLong := false, beacon := false, gptp := .sync 100 0 1, bytes := [] }

/-- Refutes O55: a listed source announces a Sync interval of 2 s (exponent 1), which R411 does not allow; the port keeps its lost gPTP time. -/
theorem not_fieldBusFrames : ¬ Obligations.FieldBusFrames := by
  intro h
  obtain ⟨-, -, -, -, hsync, -⟩ := h
  obtain ⟨t, hexec, hok, -⟩ := hsync 0 31 slowSync 100 0 1 gptpListener (by decide) (by decide +kernel) (by decide +kernel)
    rfl rfl rfl (by decide +kernel) (by decide +kernel) rfl (by decide +kernel) (by decide +kernel) (by decide +kernel) rfl
  have hrx : fbFrameRx 0 slowSync gptpListener = gptpListener := by
    have hm : matchFilter gptpListener 0 slowSync.src.toNat = some 31 := by decide +kernel
    have hrun : (!feRuns gptpListener || !portOn (portOf gptpListener 0)) = false := by decide +kernel
    have htok : bitsN (filterOf gptpListener 31) 79 64 = 0 := by decide +kernel
    rw [fbFrameRx]
    simp only [hrun, hm, htok, takeToken]
    exact gptpFrame_interval 0 31 slowSync gptpListener (log2 := 1) rfl (by decide)
  have ht : t = gptpListener := by
    have hnext : Host.Outcome.next t = Host.Outcome.next (fbFrameRx 0 slowSync gptpListener) := hexec.symm
    rw [hrx] at hnext
    exact Host.Outcome.next.inj hnext
  rw [ht] at hok
  exact absurd hok (by decide +kernel)

end Sys2Proof.Machine
end

section
/-! PROOFS. Counting and logging, record writes asked for, and the link commands (R377, R394, R395, R400). -/

namespace Sys2Proof.Machine
open Sys2Proof Sys2Proof.Safety

/-! ## Counting, interrupting and logging -/

/-- Counters, interrupts and the event log may change, nothing else. -/
structure Logged (s t : State) : Prop where
  frame : ∃ log n pend err int msix ctr, t = { s with
    boot := { s.boot with log := log, logSeq := n }
    nv := { s.nv with logPend := pend }
    mbx := { s.mbx with errSum := err, intStatus := int, msix := msix }
    ctr := ctr }

namespace Logged

variable {s t u : State}

theorem refl (s : State) : Logged s s := ⟨_, _, _, _, _, _, _, rfl⟩

theorem trans (h : Logged s t) (k : Logged t u) : Logged s u := by
  obtain ⟨_, _, _, _, _, _, _, rfl⟩ := h
  obtain ⟨_, _, _, _, _, _, _, rfl⟩ := k
  exact ⟨_, _, _, _, _, _, _, rfl⟩

theorem ite {c : Prop} [Decidable c] (h : Logged s t) (k : Logged s u) : Logged s (if c then t else u) := by
  split
  · exact h
  · exact k

theorem foldl {α : Type} {g : State → α → State} (hg : ∀ t x, Logged t (g t x)) (xs : List α) (s : State) : Logged s (xs.foldl g s) := by
  induction xs generalizing s with
  | nil => exact .refl s
  | cons x xs ih => exact (hg s x).trans (ih _)

end Logged

theorem raiseInt_logged (b : Nat) (s : State) : Logged s (raiseInt b s) := by
  unfold raiseInt msixSend
  dsimp only
  split
  · exact .refl s
  · split
    · exact ⟨_, _, _, _, _, _, _, rfl⟩
    · exact ⟨_, _, _, _, _, _, _, rfl⟩

theorem bumpBy_logged (off n : Nat) (s : State) : Logged s (bumpBy off n s) := by
  obtain ⟨m, c, h⟩ := bumpBy_eq off n s
  have hm := bumpBy_counts off n s
  rw [h] at hm ⊢
  exact ⟨s.boot.log, s.boot.logSeq, s.nv.logPend, m.errSum, m.intStatus, m.msix, c, congrArg (fun x => ({ s with mbx := x, ctr := c } : State)) hm⟩

theorem bump_logged (off : Nat) (s : State) : Logged s (bump off s) := bumpBy_logged off 1 s

theorem logEvent_logged (code src arg arg2 : Nat) (s : State) : Logged s (logEvent code src arg arg2 s) := by
  unfold logEvent
  extract_lets e b s1 s2
  have h1 : Logged s s1 := ⟨_, _, _, _, _, _, _, rfl⟩
  have h2 : Logged s s2 := h1.trans (raiseInt_logged 7 s1)
  refine .ite (.ite ?_ (h2.trans (bump_logged _ s2))) h1
  exact h2.trans ⟨_, _, _, _, _, _, _, rfl⟩

/-! ## Asking for the write of a record (R357) -/

theorem nvPump_frame (n : Nat) (s : State) : ∃ q p, nvPump n s = { s with nv := { s.nv with queue := q, planes := p } } := by
  induction n generalizing s with
  | zero => exact ⟨_, _, rfl⟩
  | succ n ih =>
    unfold nvPump
    split
    · exact ⟨_, _, rfl⟩
    · split
      · exact ⟨_, _, rfl⟩
      · exact ih _

theorem nvSubmit_frame (page : Nat) (bytes : List (Nat × Byte)) (s : State) :
    ∃ q p n, nvSubmit page bytes s = { s with nv := { s.nv with queue := q, planes := p, nextSeq := n } } := by
  obtain ⟨q, p, h⟩ := nvPump_frame 2048 (setNv (fun v =>
    { v with queue := v.queue ++ [{ seq := v.nextSeq, page := page, bytes := bytes }], nextSeq := v.nextSeq + 1 }) s)
  exact ⟨q, p, _, h⟩

theorem nvSubmits_frame {α : Type} (pg : α → Nat) (bs : α → List (Nat × Byte)) (xs : List α) (s : State) :
    ∃ q p n, xs.foldl (fun t x => nvSubmit (pg x) (bs x) t) s = { s with nv := { s.nv with queue := q, planes := p, nextSeq := n } } := by
  induction xs generalizing s with
  | nil => exact ⟨_, _, _, rfl⟩
  | cons x xs ih =>
    obtain ⟨q, p, n, h⟩ := nvSubmit_frame (pg x) (bs x) s
    obtain ⟨q', p', n', h'⟩ := ih (nvSubmit (pg x) (bs x) s)
    rw [List.foldl_cons, h', h]
    exact ⟨_, _, _, rfl⟩

theorem recStart_frame (k : Nat) (s : State) :
    ∃ r q p n, recStart k s = { s with nv := { s.nv with recRun := r, queue := q, planes := p, nextSeq := n } } := by
  unfold recStart
  split
  · exact ⟨_, _, _, _, rfl⟩
  · split
    · exact ⟨_, _, _, _, rfl⟩
    · obtain ⟨q, p, n, h⟩ := nvSubmits_frame (fun p : Nat × List (Nat × Byte) => p.1) (fun p => p.2) _ _
      exact ⟨_, q, p, n, h⟩

/-- A record of a kind that is not replaced joins the queue. -/
theorem recQueue_asked {k : Nat} (body : List Byte) (s : State) (hk : recReplaces k = false) : ∃ r q p n, recQueue k body s =
    { s with nv := { s.nv with recQ := s.nv.recQ ++ [(k, body)], recRun := r, queue := q, planes := p, nextSeq := n } } := by
  rw [recQueue, hk, Bool.false_and]
  exact recStart_frame _ _

/-! ## The link commands that answer at once (R377, R389, R400) -/

theorem decideChange_frame (lead : Nat) (s : State) : ∃ ch w, decideChange lead s = { s with seq := { s.seq with change := ch }, power := w } := by
  unfold decideChange
  split
  · exact ⟨_, _, rfl⟩
  · obtain ⟨ch, w, h, -⟩ := decided_frame lead _ s.seq.change s
    exact ⟨_, w, h⟩

/-- Byte i of block l, in a list of equal blocks. -/
theorem nth_flatMap_blocks {k n l i : Nat} {g : Nat → List Byte} (hg : ∀ j, (g j).length = k) (hl : l < n) (hi : i < k) :
    nth ((List.range n).flatMap g) (k * l + i) 0 = nth (g l) i 0 := by
  induction n with
  | zero => omega
  | succ n ih =>
    have hlen : ((List.range n).flatMap g).length = k * n := by simp [List.length_flatMap, hg, Nat.mul_comm]
    rw [List.range_succ, List.flatMap_append]
    by_cases h : l = n
    · subst h
      rw [nth_append_right _ _ _ (by omega), hlen, Nat.add_sub_cancel_left]
      simp
    · have hlt : k * l + i < k * n := by
        have := Nat.mul_le_mul_left k (show l + 1 ≤ n by omega)
        rw [Nat.mul_succ] at this; omega
      rw [nth_append_left _ _ _ (by omega), ih (by omega)]

theorem linkOf_slotTaken (c : Cmd) (s : State) (l : Nat) : linkOf (slotTaken c s) l = linkOf s l := by cases s; rfl

/-- The block of one link in LINK_STATE's answer. -/
def linkStateBlock (s : State) (l : Nat) : List Byte :=
  let k := linkOf s l
  padTo 64 (leBytes 1 (linkCode k.phase) ++ leBytes 1 k.farChip ++ leBytes 2 k.version ++ leBytes 4 k.latencyPs ++
    leBytes 4 (b2n (s.links.parent == some l)) ++ (List.range 8).flatMap fun i => leBytes 4 (ctrGet s (cLink l i)).toNat)

theorem nth_linkStateBlock (s : State) (l : Nat) : (nth (linkStateBlock s l) 0 0).toNat = linkCode (linkOf s l).phase := by
  rw [linkStateBlock, nth_padTo _ (by decide)]
  cases (linkOf s l).phase <;> rfl

/-! ### LINK_ADMIN (R400) -/

/-- One link of a LINK_ADMIN up. -/
def linkRaised (t : State) (l : Nat) : State :=
  let t1 := flood (mapKey t l) (if (linkOf t l).phase == .up then .up else .down) (setLinks (fun k => { k with avoid := k.avoid &&& ~~~(1#4 <<< l) }) t)
  if (linkOf t1 l).phase == .up || (linkOf t1 l).phase == .training then t1
  else if polderUp t1 (pLink l) then setPhase l .training t1
  else requestPolder (pLink l) (setPhase l .disabled t1)

/-- The links that a LINK_ADMIN names. -/
def adminLinks (c : Cmd) : List Nat := (List.range 4).filter fun l => (BitVec.ofNat 4 (fld c 3 0 0)).getLsbD l

theorem adminLinks_eq (c : Cmd) : adminLinks c = (List.range 4).filter fun l => (fld c 3 0 0).testBit l := by
  refine List.filter_congr fun l hl => ?_
  rw [List.mem_range] at hl
  rw [BitVec.getLsbD_ofNat, decide_eq_true hl, Bool.true_and]

theorem mem_adminLinks {c : Cmd} {l : Nat} : l ∈ adminLinks c ↔ l < 4 ∧ (fld c 3 0 0).testBit l = true := by
  rw [adminLinks_eq, List.mem_filter, List.mem_range]

theorem bodyLinkAdmin_up {c : Cmd} {s : State} (he : BitVec.ofNat 4 (fld c 3 0 0) &&& ~~~s.links.ident.linkEn = 0) (hu : fldB c 4 false = true) :
    bodyLinkAdmin c s =
      if (adminLinks c).all fun l => (linkOf ((adminLinks c).foldl linkRaised s) l).phase == .up
      then completeOk 0x0703 c 0 ((adminLinks c).foldl linkRaised s)
      else waitFor 0x0703 c (.linkUp (BitVec.ofNat 4 (fld c 3 0 0))) ((adminLinks c).foldl linkRaised s) := by
  unfold bodyLinkAdmin
  rw [if_neg (by simpa using he), if_pos hu]
  rfl

theorem bodyLinkAdmin_down {c : Cmd} {s : State} (he : BitVec.ofNat 4 (fld c 3 0 0) &&& ~~~s.links.ident.linkEn = 0) (hd : fldB c 4 false = false)
    (hm : BitVec.ofNat 4 (fld c 3 0 0) ≠ 0) : bodyLinkAdmin c s = waitFor 0x0703 c (.linkDown (BitVec.ofNat 4 (fld c 3 0 0)) false)
      ((adminLinks c).foldl (fun t l => flood (mapKey t l) .adminDown t) s) := by
  unfold bodyLinkAdmin
  rw [if_neg (by simpa using he), hd, if_neg (by decide), if_neg hm]
  rfl

/-- A link kept away from is used again. -/
def avoidLess (a : BitVec 4) (l : Nat) : BitVec 4 := a &&& ~~~(1#4 <<< l)

theorem getLsbD_avoidLess (a : BitVec 4) {l k : Nat} (hk : k < 4) : (avoidLess a l).getLsbD k = (a.getLsbD k && !decide (k = l)) := by
  unfold avoidLess
  simp only [BitVec.getLsbD_and, BitVec.getLsbD_not, hk, decide_true, Bool.true_and, BitVec.getLsbD_shiftLeft, BitVec.getLsbD_one]
  congr 2
  by_cases h : k = l
  · simp [h]
  · simp [h]; omega

theorem getLsbD_avoidLess_foldl (ls : List Nat) (a : BitVec 4) {k : Nat} (hk : k < 4) :
    (ls.foldl avoidLess a).getLsbD k = (a.getLsbD k && !decide (k ∈ ls)) := by
  induction ls generalizing a with
  | nil => simp
  | cons l ls ih => rw [List.foldl_cons, ih, getLsbD_avoidLess _ hk]; simp [Bool.and_assoc]

theorem linkRaised_of_up {t : State} {l : Nat} (h : (linkOf t l).phase = .up) : linkRaised t l =
    setLinks (fun k => { k with avoid := avoidLess k.avoid l, flooded := (mapKey t l, .up) :: k.flooded }) t := by
  unfold linkRaised
  rw [h]
  extract_lets t1
  have h1 : (linkOf t1 l).phase = .up := h
  rw [h1]
  rfl

/-- Links that are UP already are flooded as UP, and sources use them again. -/
theorem foldl_linkRaised_of_up (ls : List Nat) {t : State} (h : ∀ l ∈ ls, (linkOf t l).phase = .up) : ls.foldl linkRaised t =
    setLinks (fun k => { k with
      avoid := ls.foldl avoidLess k.avoid
      flooded := (ls.map fun l => (mapKey t l, LinkWord.up)).reverse ++ k.flooded }) t := by
  induction ls generalizing t with
  | nil => rfl
  | cons l ls ih =>
    have hl := linkRaised_of_up (h l (by simp))
    have hrest : ∀ k ∈ ls, (linkOf (linkRaised t l) k).phase = .up := fun k hk => by rw [hl]; exact h k (by simp [hk])
    rw [List.foldl_cons, ih hrest, hl]
    simp [setLinks, mapKey]

theorem foldl_flood (w : LinkWord) (ls : List Nat) (t : State) : ls.foldl (fun t l => flood (mapKey t l) w t) t =
    setLinks (fun k => { k with flooded := (ls.map fun l => (mapKey t l, w)).reverse ++ k.flooded }) t := by
  induction ls generalizing t with
  | nil => rfl
  | cons l ls ih =>
    rw [List.foldl_cons, ih]
    simp [setLinks, flood, mapKey]

/-- Links that a LINK_ADMIN up takes to TRAINING, with what else it may change. -/
structure Raised (ls : List Nat) (s t : State) : Prop where
  frame : ∃ k, Logged (setLinks (fun _ => k) s) t
  ident : t.links.ident = s.links.ident
  flooded : ∀ e ∈ s.links.flooded, e ∈ t.links.flooded
  named : ∀ l ∈ ls, (linkOf t l).phase = .training ∧ t.links.avoid.getLsbD l = false ∧ (mapKey s l, LinkWord.down) ∈ t.links.flooded
  other : ∀ l, l ∉ ls → linkOf t l = linkOf s l ∧ (l < 4 → t.links.avoid.getLsbD l = s.links.avoid.getLsbD l)

theorem Logged.links_eq {s t : State} (h : Logged s t) : t.links = s.links := by obtain ⟨_, _, _, _, _, _, _, rfl⟩ := h; rfl
theorem Logged.power_eq {s t : State} (h : Logged s t) : t.power = s.power := by obtain ⟨_, _, _, _, _, _, _, rfl⟩ := h; rfl

/-- The links as one changes its phase, before the change is logged. -/
def phased (l : Nat) (p : LinkPhase) (s : State) : State :=
  let s1 := setLink l (fun k => { k with phase := p, upFrames := 0 }) s
  let key := mapKey s l
  flood key (if p == .up then .up else .down) (setLinks (fun k => { k with
      downMap := if p == .up then k.downMap.filter (· != key) else if k.downMap.contains key then k.downMap else key :: k.downMap }) s1)

theorem setPhase_logged {l : Nat} {p : LinkPhase} {s : State} (h : (linkOf s l).phase ≠ p) : Logged (phased l p s) (setPhase l p s) := by
  rw [setPhase, if_neg h]
  exact (logEvent_logged _ _ _ _ (phased l p s)).trans (raiseInt_logged _ _)

theorem phased_frame (l : Nat) (p : LinkPhase) (s : State) : ∃ k, phased l p s = setLinks (fun _ => k) s := ⟨_, rfl⟩
theorem phased_ident (l : Nat) (p : LinkPhase) (s : State) : (phased l p s).links.ident = s.links.ident := rfl
theorem phased_avoid (l : Nat) (p : LinkPhase) (s : State) : (phased l p s).links.avoid = s.links.avoid := rfl
theorem phased_flooded (l : Nat) (p : LinkPhase) (s : State) :
    (phased l p s).links.flooded = (mapKey s l, if p == .up then LinkWord.up else .down) :: s.links.flooded := rfl

theorem linkOf_setLink_self (l : Nat) (f : Link → Link) (s : State) : linkOf (setLink l f s) l = f (linkOf s l) := by
  simp [linkOf, setLink, setLinks]

theorem linkOf_setLink_ne {l k : Nat} (f : Link → Link) (s : State) (h : k ≠ l) : linkOf (setLink l f s) k = linkOf s k := by
  simp [linkOf, setLink, setLinks, tabGet_tabSet_ne _ _ _ h]

theorem linkOf_phased (l : Nat) (p : LinkPhase) (s : State) (k : Nat) :
    linkOf (phased l p s) k = linkOf (setLink l (fun k => { k with phase := p, upFrames := 0 }) s) k := rfl

theorem Logged.linkOf_eq {s t : State} (h : Logged s t) (l : Nat) : linkOf t l = linkOf s l := by rw [linkOf, linkOf, h.links_eq]

theorem linkRaised_raised {t : State} {l : Nat} (h4 : l < 4) (h : (linkOf t l).phase ≠ .up) (hp : polderUp t (pLink l) = true) :
    Raised [l] t (linkRaised t l) := by
  have hb : ((linkOf t l).phase == .up) = false := by simpa using h
  unfold linkRaised
  rw [hb]
  extract_lets t1
  have hof : ∀ k, linkOf t1 k = linkOf t k := fun k => rfl
  have hne : ((linkOf t1 l).phase == .up) = false := by simpa [hof] using h
  have hup1 : polderUp t1 (pLink l) = true := hp
  have hav : ∀ k, k < 4 → t1.links.avoid.getLsbD k = (t.links.avoid.getLsbD k && !decide (k = l)) := fun k hk => getLsbD_avoidLess _ hk
  rw [hne, Bool.false_or]
  split
  case isTrue htr =>
    refine ⟨⟨_, Logged.refl _⟩, rfl, fun e he => List.mem_cons_of_mem _ he, fun k hk => ?_, fun k hk => ⟨hof k, fun h4 => ?_⟩⟩
    · rw [List.mem_singleton.mp hk]
      exact ⟨by simpa using htr, by rw [hav l h4]; simp, List.mem_cons_self⟩
    · rw [hav k h4]; simp only [List.mem_singleton] at hk; simp [hk]
  case isFalse htr =>
    have hlog := setPhase_logged (l := l) (p := .training) (s := t1) (by simpa using htr)
    have hlinks := hlog.links_eq
    obtain ⟨k, hk⟩ := phased_frame l .training t1
    refine ⟨⟨k, ?_⟩, by rw [hlinks, phased_ident]; rfl, fun e he => ?_, fun k hk => ?_, fun k hk => ⟨?_, fun h4 => ?_⟩⟩
    · rw [hk] at hlog; exact Logged.trans ⟨_, _, _, _, _, _, _, rfl⟩ hlog
    · rw [hlinks, phased_flooded]
      exact List.mem_cons_of_mem _ (List.mem_cons_of_mem _ he)
    · rw [List.mem_singleton.mp hk]
      refine ⟨by rw [hlog.linkOf_eq, linkOf_phased, linkOf_setLink_self], by rw [hlinks, phased_avoid]; exact (hav l h4).trans (by simp), ?_⟩
      rw [hlinks, phased_flooded]
      exact List.mem_cons_of_mem _ List.mem_cons_self
    · rw [hlog.linkOf_eq, linkOf_phased, linkOf_setLink_ne _ _ (by simpa using hk)]
      exact hof k
    · rw [hlinks, phased_avoid]
      refine (hav k h4).trans ?_
      simp only [List.mem_singleton] at hk; simp [hk]

theorem Raised.cons {l : Nat} {ls : List Nat} {s t u : State} (h4 : l < 4) (h : Raised [l] s t) (k : Raised ls t u) : Raised (l :: ls) s u := by
  obtain ⟨a, ha⟩ := h.frame
  obtain ⟨b, hb⟩ := k.frame
  have hkey : ∀ i, mapKey t i = mapKey s i := fun i => by rw [mapKey, mapKey, h.ident]
  refine ⟨⟨b, ?_⟩, k.ident.trans h.ident, fun e he => k.flooded e (h.flooded e he), fun i hi => ?_, fun i hi => ?_⟩
  · obtain ⟨_, _, _, _, _, _, _, rfl⟩ := ha
    exact Logged.trans ⟨_, _, _, _, _, _, _, rfl⟩ hb
  · by_cases hin : i ∈ ls
    · obtain ⟨h1, h2, h3⟩ := k.named i hin
      exact ⟨h1, h2, hkey i ▸ h3⟩
    · obtain rfl : i = l := by simpa [hin] using hi
      obtain ⟨h1, h2, h3⟩ := h.named i (by simp)
      obtain ⟨hsame, havoid⟩ := k.other i hin
      exact ⟨by rw [hsame]; exact h1, (havoid h4).trans h2, k.flooded _ h3⟩
  · simp only [List.mem_cons, not_or] at hi
    obtain ⟨h1, h2⟩ := h.other i (by simpa using hi.1)
    obtain ⟨k1, k2⟩ := k.other i hi.2
    exact ⟨k1.trans h1, fun h4 => (k2 h4).trans (h2 h4)⟩

theorem Raised.of_foldl {ls : List Nat} {t : State} (h : ∀ l ∈ ls, l < 4 ∧ (linkOf t l).phase ≠ .up ∧ polderUp t (pLink l) = true) :
    Raised ls t (ls.foldl linkRaised t) := by
  induction ls generalizing t with
  | nil => exact ⟨⟨_, Logged.refl _⟩, rfl, fun _ he => he, fun _ hl => absurd hl (by simp), fun _ _ => ⟨rfl, fun _ => rfl⟩⟩
  | cons l ls ih =>
    obtain ⟨h4, hup, hp⟩ := h l (by simp)
    have hl := linkRaised_raised h4 hup hp
    refine Raised.cons h4 hl (ih fun k hk => ?_)
    obtain ⟨k4, kup, kp⟩ := h k (by simp [hk])
    refine ⟨k4, ?_, ?_⟩
    · by_cases hkl : k ∈ [l]
      · rw [(hl.named k hkl).1]; decide
      · rw [(hl.other k hkl).1]; exact kup
    · obtain ⟨_, hlog⟩ := hl.frame
      rw [polderUp, polder, hlog.power_eq]; exact kp

/-! ### Links that go down (R394, R395) -/

/-- What a link that goes down may change: the links, the transfers on them, F with the change of schedule that it brings, and the log. -/
structure LinkDrops (s t : State) : Prop where
  frame : ∃ links errs xs fence fenceNext change power log n pend err int msix ctr, t = { s with
    links := links
    fm := { s.fm with descErrs := errs, xfers := xs }
    seq := { s.seq with fence := fence, fenceNext := fenceNext, change := change }
    power := power
    boot := { s.boot with log := log, logSeq := n }
    nv := { s.nv with logPend := pend }
    mbx := { s.mbx with errSum := err, intStatus := int, msix := msix }
    ctr := ctr }

namespace LinkDrops

variable {s t u : State}

theorem of_logged (h : Logged s t) : LinkDrops s t := by
  obtain ⟨_, _, _, _, _, _, _, rfl⟩ := h
  exact ⟨_, _, _, _, _, _, _, _, _, _, _, _, _, _, rfl⟩

theorem of_links (k : Links) (h : Logged (setLinks (fun _ => k) s) t) : LinkDrops s t := by
  obtain ⟨_, _, _, _, _, _, _, rfl⟩ := h
  exact ⟨_, _, _, _, _, _, _, _, _, _, _, _, _, _, rfl⟩

theorem refl (s : State) : LinkDrops s s := of_logged (.refl s)

theorem trans (h : LinkDrops s t) (k : LinkDrops t u) : LinkDrops s u := by
  obtain ⟨_, _, _, _, _, _, _, _, _, _, _, _, _, _, rfl⟩ := h
  obtain ⟨_, _, _, _, _, _, _, _, _, _, _, _, _, _, rfl⟩ := k
  exact ⟨_, _, _, _, _, _, _, _, _, _, _, _, _, _, rfl⟩

end LinkDrops

/-- Link k is as it was but for the credits issued to its far end. -/
def CreditsOnly (s t : State) (k : Nat) : Prop :=
  linkOf t k = { linkOf s k with issuedSched := (linkOf t k).issuedSched, issuedShared := (linkOf t k).issuedShared }

theorem CreditsOnly.of_eq {s t : State} {k : Nat} (h : linkOf t k = linkOf s k) : CreditsOnly s t k := by rw [CreditsOnly, h]

theorem CreditsOnly.trans {s t u : State} {k : Nat} (h : CreditsOnly s t k) (h' : CreditsOnly t u k) : CreditsOnly s u k := by
  rw [CreditsOnly, h', h]

theorem CreditsOnly.phase {s t : State} {k : Nat} (h : CreditsOnly s t k) : (linkOf t k).phase = (linkOf s k).phase := by rw [h]

theorem issueCredit_links (l : Nat) (cls : FlitClass) (s : State) : ∃ k, issueCredit l cls s = setLinks (fun _ => k) s := by
  unfold issueCredit
  split
  · exact ⟨s.links, rfl⟩
  · exact ⟨_, rfl⟩

theorem issueCredit_creditsOnly (l : Nat) (cls : FlitClass) (s : State) (k : Nat) : CreditsOnly s (issueCredit l cls s) k := by
  unfold issueCredit
  split
  · exact .of_eq rfl
  · by_cases h : k = l
    · subst h
      rw [CreditsOnly, linkOf_setLink_self]
      split <;> rfl
    · exact .of_eq (linkOf_setLink_ne _ _ h)

theorem issueCredits_links (qs : List QFlit) (s : State) :
    (∃ k, qs.foldl (fun t q => issueCredit q.inLink q.inCls t) s = setLinks (fun _ => k) s) ∧
      ∀ k, CreditsOnly s (qs.foldl (fun t q => issueCredit q.inLink q.inCls t) s) k := by
  induction qs generalizing s with
  | nil => exact ⟨⟨s.links, rfl⟩, fun k => .of_eq rfl⟩
  | cons q qs ih =>
    obtain ⟨⟨k, hk⟩, hc⟩ := ih (issueCredit q.inLink q.inCls s)
    obtain ⟨a, ha⟩ := issueCredit_links q.inLink q.inCls s
    refine ⟨⟨k, ?_⟩, fun i => (issueCredit_creditsOnly _ _ s i).trans (hc i)⟩
    rw [List.foldl_cons, hk, ha]; rfl

theorem linkDiscard_drops (l : Nat) (all : Bool) (s : State) :
    (∃ k errs xs, linkDiscard l all s = { s with links := k, fm := { s.fm with descErrs := errs, xfers := xs } }) ∧
      (∀ k, k ≠ l → CreditsOnly s (linkDiscard l all s) k) ∧ (linkOf (linkDiscard l all s) l).phase = (linkOf s l).phase := by
  unfold linkDiscard
  extract_lets k keys me gone ended opened lost freed s0 s1 s2
  obtain ⟨⟨a, ha⟩, hc⟩ := issueCredits_links (k.txq.filter gone) s
  refine ⟨⟨s2.links, s0.fm.descErrs, s2.fm.xfers.filter fun x => !(x.dstKind == .peer && keys.contains (xferKey x.chip x.tag)), ?_⟩,
    fun i hi => ?_, ?_⟩
  · have hfreed : freed = setLinks (fun _ => a) s := ha
    clear_value freed
    subst hfreed
    rfl
  · have h1 : linkOf s1 i = linkOf freed i := linkOf_setLink_ne _ s0 hi
    exact (hc i).trans (.of_eq h1)
  · have h1 : (linkOf s1 l).phase = (linkOf freed l).phase := by rw [linkOf_setLink_self]; rfl
    exact h1.trans (hc l).phase

theorem linkFence_drops (l : Nat) (on : Bool) (s : State) :
    LinkDrops s (linkFence l on s) ∧ (linkFence l on s).links = s.links := by
  unfold linkFence
  extract_lets bit set
  split
  · exact ⟨.refl s, rfl⟩
  · have hF : ∃ f ch w, changeF 3 (set s.seq.fence) (setSeq (fun q => { q with fenceNext := set q.fenceNext }) s) =
        { s with seq := { s.seq with fence := f, fenceNext := set s.seq.fenceNext, change := ch }, power := w } := by
      unfold changeF
      split
      · exact ⟨_, _, _, rfl⟩
      · obtain ⟨ch, w, h⟩ := decideChange_frame 3 (setSeq (fun q => { q with fence := set s.seq.fence })
          (setSeq (fun q => { q with fenceNext := set q.fenceNext }) s))
        exact ⟨_, ch, w, h⟩
    obtain ⟨f, ch, w, hF⟩ := hF
    have hlog := logEvent_logged 0x0010 0 (272 + l % 4) 3 (changeF 3 (set s.seq.fence) (setSeq (fun q => { q with fenceNext := set q.fenceNext }) s))
    refine ⟨?_, hlog.links_eq.trans (by rw [hF])⟩
    rw [hF] at hlog ⊢
    exact LinkDrops.trans ⟨_, _, _, _, _, _, _, _, _, _, _, _, _, _, rfl⟩ (.of_logged hlog)

theorem setPhase_drops (l : Nat) (p : LinkPhase) (s : State) :
    LinkDrops s (setPhase l p s) ∧ (∀ k, k ≠ l → linkOf (setPhase l p s) k = linkOf s k) ∧ (linkOf (setPhase l p s) l).phase = p := by
  by_cases h : (linkOf s l).phase = p
  · have hsame : setPhase l p s = s := if_pos h
    rw [hsame]
    exact ⟨.refl s, fun _ _ => rfl, h⟩
  · have hlog := setPhase_logged h
    obtain ⟨a, ha⟩ := phased_frame l p s
    refine ⟨?_, fun k hk => ?_, ?_⟩
    · rw [ha] at hlog; exact .of_links a hlog
    · rw [hlog.linkOf_eq, linkOf_phased, linkOf_setLink_ne _ _ hk]
    · rw [hlog.linkOf_eq, linkOf_phased, linkOf_setLink_self]

/-- A link leaves UP: its phase is the given one, and of the others only credits change. -/
theorem linkLeavesUp_drops (l : Nat) (p : LinkPhase) (s : State) :
    LinkDrops s (linkLeavesUp l p s) ∧ (∀ k, k ≠ l → CreditsOnly s (linkLeavesUp l p s) k) ∧ (linkOf (linkLeavesUp l p s) l).phase = p := by
  obtain ⟨⟨a, errs, xs, hd⟩, hdo, hdp⟩ := linkDiscard_drops l false s
  obtain ⟨hpd, hpo, hpp⟩ := setPhase_drops l p (linkDiscard l false s)
  obtain ⟨hfd, hfl⟩ := linkFence_drops l true (setPhase l p (linkDiscard l false s))
  have hof : ∀ k, linkOf (linkLeavesUp l p s) k = linkOf (setPhase l p (linkDiscard l false s)) k := fun k => by
    rw [linkOf, linkLeavesUp, hfl]; rfl
  have hdrop : LinkDrops s (linkDiscard l false s) := by
    rw [hd]; exact ⟨_, _, _, _, _, _, _, _, _, _, _, _, _, _, rfl⟩
  exact ⟨(hdrop.trans hpd).trans hfd, fun k hk => (hdo k hk).trans (.of_eq (by rw [hof, hpo k hk])), by rw [hof, hpp]⟩

/-- One link of a LINK_ADMIN down. -/
def linkAdminDowned (t : State) (l : Nat) : State :=
  if (linkOf t l).phase == .up then linkLeavesUp l .adminDown t else setPhase l .adminDown t

theorem linkAdminDowned_drops (t : State) (l : Nat) :
    LinkDrops t (linkAdminDowned t l) ∧ (∀ k, k ≠ l → CreditsOnly t (linkAdminDowned t l) k) ∧ (linkOf (linkAdminDowned t l) l).phase = .adminDown := by
  unfold linkAdminDowned
  split
  · exact linkLeavesUp_drops l .adminDown t
  · obtain ⟨hd, ho, hp⟩ := setPhase_drops l .adminDown t
    exact ⟨hd, fun k hk => .of_eq (ho k hk), hp⟩

theorem linkAdminDowned_foldl (ls : List Nat) (t : State) :
    LinkDrops t (ls.foldl linkAdminDowned t) ∧ (∀ k, k ∉ ls → CreditsOnly t (ls.foldl linkAdminDowned t) k) ∧
      ∀ l ∈ ls, (linkOf (ls.foldl linkAdminDowned t) l).phase = .adminDown := by
  induction ls generalizing t with
  | nil => exact ⟨.refl t, fun _ _ => .of_eq rfl, fun _ h => absurd h (by simp)⟩
  | cons l ls ih =>
    obtain ⟨hd, ho, hp⟩ := linkAdminDowned_drops t l
    obtain ⟨id, io, ip⟩ := ih (linkAdminDowned t l)
    refine ⟨hd.trans id, fun k hk => ?_, fun k hk => ?_⟩
    · simp only [List.mem_cons, not_or] at hk
      exact (ho k hk.1).trans (io k hk.2)
    · by_cases hin : k ∈ ls
      · exact ip k hin
      · obtain rfl : k = l := by simpa [hin] using hk
        exact (io k hin).phase.trans hp

/-! ### The link commands -/

theorem phase_ne_of_admin {s : State} {l : Nat} (h : (linkOf s l).phase = .disabled ∨ (linkOf s l).phase = .adminDown) :
    ((linkOf s l).phase != .disabled && (linkOf s l).phase != .adminDown) = false := by
  rcases h with h | h <;> rw [h] <;> rfl

theorem ping_frame (c : Cmd) (d : Nat) (s : State) :
    ∃ n, draw (completeOk 0x0705 c d (slotTaken c s)) = { completed 0x0705 c .ok d s with free := n } :=
  ⟨_, congrArg draw (completeOk_taken 0x0705 c d s)⟩

theorem complete_setLinks (op : Nat) (c : Cmd) (k : Links → Links) (s : State) :
    completeOk op c 0 (setLinks k s) = setLinks k (completeOk op c 0 s) := rfl

theorem waitFor_setLinks (op : Nat) (c : Cmd) (a : PendAct) (k : Links → Links) (s : State) :
    waitFor op c a (setLinks k s) = setLinks k (waitFor op c a s) := rfl

theorem waitFor_logged {op : Nat} {c : Cmd} {a : PendAct} {s t : State} (h : Logged s t) : Logged (waitFor op c a s) (waitFor op c a t) := by
  obtain ⟨_, _, _, _, _, _, _, rfl⟩ := h
  exact ⟨_, _, _, _, _, _, _, rfl⟩

/-- A LINK_ADMIN up with links to bring up waits, with them in TRAINING. -/
theorem linkAdmin_raises {c : Cmd} {s : State} (h : TakenUp 0x0703 c s) (he : BitVec.ofNat 4 (fld c 3 0 0) &&& ~~~s.links.ident.linkEn = 0)
    (hm : BitVec.ofNat 4 (fld c 3 0 0) ≠ 0) (hu : fldB c 4 false = true)
    (hl : ∀ l, l < 4 → (fld c 3 0 0).testBit l = true → (linkOf s l).phase ≠ .up ∧ polderUp s (pLink l) = true) :
    ∃ u, Raised (adminLinks c) (slotTaken c s) u ∧
      exec (.linkAdmin c) s = .next (waitFor 0x0703 c (.linkUp (BitVec.ofNat 4 (fld c 3 0 0))) u) := by
  have hraise := Raised.of_foldl (ls := adminLinks c) (t := slotTaken c s) fun l hin => by
    obtain ⟨h4, hbit⟩ := mem_adminLinks.mp hin
    exact ⟨h4, hl l h4 hbit⟩
  obtain ⟨l, hin⟩ : ∃ l, l ∈ adminLinks c := by
    by_contra hno
    refine hm (BitVec.eq_of_getLsbD_eq fun i hi => ?_)
    have := mt (Exists.intro i) hno
    rw [adminLinks, List.mem_filter, List.mem_range] at this
    simpa [hi] using this
  refine ⟨_, hraise, ?_⟩
  rw [exec_row_runs (i := .linkAdmin c) rfl rfl h, bodyLinkAdmin_up (s := slotTaken c s) he hu, if_neg]
  intro hall
  have hup := List.all_eq_true.mp hall l hin
  rw [(hraise.named l hin).1] at hup
  exact absurd hup (by decide)

/-- LINK_ADMIN_DOWN_ENTRY with one command waiting. -/
theorem linkAdminDownEntry_one {w : Wait} {m : BitVec 4} {s : State} (hw : s.mbx.waits = [w]) (ha : w.act = .linkDown m true) :
    linkAdminDownEntry s = if !adminDrained m s then s else finishFirst (· == w.act) .ok 0
      (((List.range 4).filter fun l => m.getLsbD l).foldl linkAdminDowned s) := by
  unfold linkAdminDownEntry
  simp only [hw, List.find?_cons, ha]
  rfl

theorem mem_named {m : BitVec 4} {l : Nat} : (l ∈ (List.range 4).filter fun l => m.getLsbD l) ↔ l < 4 ∧ m.getLsbD l = true := by
  rw [List.mem_filter, List.mem_range]

/-- The only command that waits is finished. -/
theorem finishFirst_only {w : Wait} {s : State} (st : Status) (d : Nat) (hw : s.mbx.waits = [w]) :
    finishFirst (· == w.act) st d s = setMbx (fun m => { m with waits := [], due := m.due ++ [completionOf w.opcode w.cmd st d] }) s := by
  have hf : s.mbx.waits.find? (fun v => v.act == w.act) = some w := by rw [hw]; simp
  rw [finishFirst, hf]
  simp only [complete, setMbx, hw]
  simp [completionOf]

/-- Settles O42: the bodies of the link commands on the slot taken, and the entry into ADMIN_DOWN. -/
theorem linkCommands : Obligations.LinkCommands := by
  refine ⟨fun c s h hok hphase => ?_, fun c s h => ?_, fun c s h hm => ?_, fun c s h he hu hl => ?_, fun c s h he hm hd => ?_,
    fun c s h he hm hu hl => ?_, fun c s h => ?_, fun c s h hlt hr => ?_, fun c s h hlt hne hr => ?_, fun w m s hup hw ha hd => ?_,
    fun w m s hw ha hd => ?_⟩
  · obtain ⟨r, q, p, n, hrec⟩ := recQueue_asked (k := 28) (padTo 64 (leBytes 8 (identBits c))) (slotTaken c s) rfl
    have hany : ((List.range 4).any fun l => (linkOf (slotTaken c s) l).phase != .disabled && (linkOf (slotTaken c s) l).phase != .adminDown) = false := by
      rw [List.any_eq_false]
      intro l hl
      rw [linkOf_slotTaken, phase_ne_of_admin (hphase l (List.mem_range.mp hl))]
      decide
    refine ⟨{ waitsNow 0x0701 c (.recWrite .chip) s with nv := { s.nv with
      recQ := s.nv.recQ ++ [(28, padTo 64 (leBytes 8 (identBits c)))], recRun := r, queue := q, planes := p, nextSeq := n } }, ?_, rfl, rfl⟩
    rw [exec_row_runs (i := .linkIdent c) rfl rfl h, bodyLinkIdent, hok, hany, hrec, if_neg (by decide), if_neg (by decide)]
    rfl
  · refine ⟨(List.range 4).flatMap (linkStateBlock (slotTaken c s)) ++ leBytes 32 (listMask s.links.downMap), ?_, ?_, fun l hl => ?_⟩
    · rw [exec_row_runs (i := .linkState c) rfl rfl h, bodyLinkState]
      exact congrArg Host.Outcome.next (respond_taken 0x0702 c _ 0 s)
    · simp [List.length_flatMap, linkStateBlock, padTo_length]
    · have hlen : ((List.range 4).flatMap (linkStateBlock (slotTaken c s))).length = 256 := by
        simp [List.length_flatMap, linkStateBlock, padTo_length]
      rw [nth_append_left _ _ _ (by omega)]
      have hnth := nth_flatMap_blocks (g := linkStateBlock (slotTaken c s)) (i := 0) (fun _ => padTo_length 64 _) hl (by decide)
      rw [Nat.add_zero] at hnth
      rw [hnth, nth_linkStateBlock, linkOf_slotTaken]
  · have hls : adminLinks c = [] := by rw [adminLinks, hm]; rfl
    have he : BitVec.ofNat 4 (fld c 3 0 0) &&& ~~~(slotTaken c s).links.ident.linkEn = 0 := by rw [hm]; exact BitVec.zero_and
    rw [exec_row_runs (i := .linkAdmin c) rfl rfl h]
    by_cases hu : fldB c 4 false = true
    · rw [bodyLinkAdmin_up he hu, hls]
      exact congrArg Host.Outcome.next (completeOk_taken 0x0703 c 0 s)
    · rw [bodyLinkAdmin, if_neg (by simpa using he), if_neg hu, hm, if_pos rfl]
      exact congrArg Host.Outcome.next (completeOk_taken 0x0703 c 0 s)
  · have hphase : ∀ l ∈ adminLinks c, (linkOf (slotTaken c s) l).phase = .up := fun l hin => by
      obtain ⟨h4, hbit⟩ := mem_adminLinks.mp hin
      rw [linkOf_slotTaken]; exact hl l h4 hbit
    have hfold := foldl_linkRaised_of_up (adminLinks c) hphase
    refine ⟨setLinks (fun k => { k with
      avoid := (adminLinks c).foldl avoidLess k.avoid
      flooded := ((adminLinks c).map fun l => (mapKey s l, LinkWord.up)).reverse ++ k.flooded }) (completed 0x0703 c .ok 0 s), ?_,
      fun l hl4 => ?_, ?_, rfl⟩
    · rw [exec_row_runs (i := .linkAdmin c) rfl rfl h, bodyLinkAdmin_up (s := slotTaken c s) he hu, hfold, if_pos, complete_setLinks, completeOk_taken]
      · rfl
      · rw [List.all_eq_true]
        intro l hin
        have hsame : linkOf (setLinks (fun k => { k with
          avoid := (adminLinks c).foldl avoidLess k.avoid
          flooded := ((adminLinks c).map fun l => (mapKey (slotTaken c s) l, LinkWord.up)).reverse ++ k.flooded }) (slotTaken c s)) l =
            linkOf (slotTaken c s) l := rfl
        rw [hsame, hphase l hin]; rfl
    · refine (getLsbD_avoidLess_foldl _ _ hl4).trans ?_
      congr 2
      exact Bool.eq_iff_iff.mpr (by simp [mem_adminLinks, hl4])
    · rw [← adminLinks_eq]; rfl
  · rw [exec_row_runs (i := .linkAdmin c) rfl rfl h, bodyLinkAdmin_down (s := slotTaken c s) he hd hm, foldl_flood, waitFor_setLinks, waitFor_taken, adminLinks_eq]
    rfl
  · obtain ⟨u, hu', hexec⟩ := linkAdmin_raises h he hm hu hl
    obtain ⟨k, hk⟩ := hu'.frame
    obtain ⟨log, n, pend, err, int, msix, ctr, hw⟩ := waitFor_logged (op := 0x0703) (c := c) (a := .linkUp (BitVec.ofNat 4 (fld c 3 0 0))) hk
    refine ⟨_, hexec, fun l h4 hbit => hu'.named l (mem_adminLinks.mpr ⟨h4, hbit⟩), fun l h4 hbit => ?_, ?_⟩
    · have hnot : l ∉ adminLinks c := fun hin => by
        rw [(mem_adminLinks.mp hin).2] at hbit
        exact absurd hbit (by decide)
      obtain ⟨ho, ha⟩ := hu'.other l hnot
      exact ⟨ho.trans (linkOf_slotTaken c s l), ha h4⟩
    · rw [waitFor_setLinks, waitFor_taken] at hw
      rw [hw]
      rfl
  · rw [exec_row_runs (i := .linkMaster c) rfl rfl h, bodyLinkMaster, waitFor_taken]
  · have hr' : fld c 5 0 0 = (slotTaken c s).links.ident.chipId ∨ (routeTo (slotTaken c s) (fld c 5 0 0)).isSome = true := hr
    obtain ⟨n, hn⟩ := ping_frame c (Config.freeNat (slotTaken c s).free (fld c 5 0 0)) s
    refine ⟨{ completed 0x0705 c .ok (Config.freeNat (slotTaken c s).free (fld c 5 0 0)) s with free := n }, _, ?_, rfl⟩
    rw [exec_row_runs (i := .linkPing c) rfl rfl h, bodyLinkPing, if_neg (by simpa using hlt), if_pos hr', hn]
  · have hne' : ¬(fld c 5 0 0 = (slotTaken c s).links.ident.chipId ∨ (routeTo (slotTaken c s) (fld c 5 0 0)).isSome = true) := by
      rintro (h1 | h1)
      · exact hne h1
      · have : routeTo (slotTaken c s) (fld c 5 0 0) = none := hr
        rw [this] at h1; exact absurd h1 (by decide)
    rw [exec_row_runs (i := .linkPing c) rfl rfl h, bodyLinkPing, if_neg (by simpa using hlt), if_neg hne', fail_taken]
  · have hexec : exec .linkAdminDownEntry s = .next (if computeDown s then s else linkAdminDownEntry s) := rfl
    rw [hup, if_neg (by decide), linkAdminDownEntry_one hw ha, hd, if_neg (by decide)] at hexec
    obtain ⟨hdrop, ho, hp⟩ := linkAdminDowned_foldl ((List.range 4).filter fun l => m.getLsbD l) s
    obtain ⟨links, errs, xs, fence, fenceNext, change, power, log, n, pend, err, int, msix, ctr, ht⟩ := hdrop
    have hwaits : (((List.range 4).filter fun l => m.getLsbD l).foldl linkAdminDowned s).mbx.waits = [w] := by rw [ht]; exact hw
    rw [finishFirst_only .ok 0 hwaits] at hexec
    refine ⟨_, hexec, fun l h4 hbit => hp l (mem_named.mpr ⟨h4, hbit⟩), fun k h4 hbit => ho k ?_, rfl, ?_, ?_⟩
    · intro hin
      rw [(mem_named.mp hin).2] at hbit
      exact absurd hbit (by decide)
    · rw [setMbx_mbx, ht]
    · rw [ht]; exact ⟨rfl, rfl, rfl, rfl, rfl, rfl, rfl⟩
  · have hexec : exec .linkAdminDownEntry s = .next (if computeDown s then s else linkAdminDownEntry s) := rfl
    have hstay : linkAdminDownEntry s = s := by rw [linkAdminDownEntry_one hw ha, hd, if_pos (by rfl)]
    rw [hexec, hstay, ite_self]

end Sys2Proof.Machine
end

section
/-! PROOFS. The events of the links and of the shared tick (R395 to R399, Tables 14-3 and 14-4). -/

namespace Sys2Proof.Machine
open Sys2Proof Sys2Proof.Safety

/-- A fold keeps what each of its steps keeps. -/
theorem foldl_keeps {α β : Type} (π : State → β) {g : State → α → State} (hg : ∀ t x, π (g t x) = π t) (xs : List α) (s : State) :
    π (xs.foldl g s) = π s := by
  induction xs generalizing s with
  | nil => rfl
  | cons x xs ih => exact (ih _).trans (hg s x)

/-! ## Training (Table 14-3, Table 14-4) -/

theorem finish_frame (p : PendAct → Bool) (st : Status) (d : Nat) (s : State) : ∃ m, finish p st d s = { s with mbx := m } :=
  ⟨(finish p st d s).mbx, by apply State.eq_of_fields <;> simp⟩

theorem adminUpCheck_frame (l : Nat) (s : State) : ∃ m, adminUpCheck l s = { s with mbx := m } := by
  unfold adminUpCheck
  dsimp only
  split
  · exact finish_frame _ _ _ s
  · exact finish_frame _ _ _ s

/-- What a change of a link's phase may touch. -/
structure PhaseKeeps (s t : State) : Prop where
  frame : ∃ m link downMap flooded boot pend ctr, t = { s with
    mbx := m
    links := { s.links with link := link, downMap := downMap, flooded := flooded }
    boot := boot
    nv := { s.nv with logPend := pend }
    ctr := ctr }

theorem setLink_phaseKeeps (l : Nat) (f : Link → Link) (s : State) : PhaseKeeps s (setLink l f s) := ⟨_, _, _, _, _, _, _, rfl⟩

theorem phased_phaseKeeps (l : Nat) (p : LinkPhase) (s : State) : PhaseKeeps s (phased l p s) := ⟨_, _, _, _, _, _, _, rfl⟩

theorem PhaseKeeps.refl (s : State) : PhaseKeeps s s := ⟨_, _, _, _, _, _, _, rfl⟩

theorem PhaseKeeps.trans {s t u : State} (h : PhaseKeeps s t) (k : PhaseKeeps t u) : PhaseKeeps s u := by
  obtain ⟨_, _, _, _, _, _, _, rfl⟩ := h
  obtain ⟨_, _, _, _, _, _, _, rfl⟩ := k
  exact ⟨_, _, _, _, _, _, _, rfl⟩

theorem PhaseKeeps.logged {s t u : State} (h : PhaseKeeps s t) (k : Logged t u) : PhaseKeeps s u := by
  obtain ⟨_, _, _, _, _, _, _, rfl⟩ := h
  obtain ⟨_, _, _, _, _, _, _, rfl⟩ := k
  exact ⟨_, _, _, _, _, _, _, rfl⟩

theorem PhaseKeeps.mbx {s t : State} (h : PhaseKeeps s t) (m : Mbx) : PhaseKeeps s { t with mbx := m } := by
  obtain ⟨_, _, _, _, _, _, _, rfl⟩ := h
  exact ⟨_, _, _, _, _, _, _, rfl⟩

/-- The word that a link's phase floods. -/
def phaseWord (p : LinkPhase) : LinkWord := if p = .up then .up else .down

/-- A link in training takes a phase, and what waits for it completes: the change is flooded. -/
theorem trained {l : Nat} {p : LinkPhase} {s : State} (h : (linkOf s l).phase = .training) (hp : p ≠ .training) :
    linkOf (adminUpCheck l (setPhase l p s)) l = { linkOf s l with phase := p, upFrames := 0 } ∧
      (adminUpCheck l (setPhase l p s)).links.flooded = (mapKey s l, phaseWord p) :: s.links.flooded ∧
      (∀ k, k ≠ l → linkOf (adminUpCheck l (setPhase l p s)) k = linkOf s k) ∧ PhaseKeeps s (adminUpCheck l (setPhase l p s)) := by
  obtain ⟨m, hm⟩ := adminUpCheck_frame l (setPhase l p s)
  have hlog := setPhase_logged (l := l) (p := p) (s := s) (by rw [h]; exact fun hc => hp hc.symm)
  have hof : ∀ k, linkOf (adminUpCheck l (setPhase l p s)) k = linkOf (phased l p s) k := fun k => by
    rw [hm]; exact hlog.linkOf_eq k
  refine ⟨?_, ?_, fun k hk => ?_, ?_⟩
  · rw [hof, linkOf_phased, linkOf_setLink_self]
  · rw [hm]
    change (setPhase l p s).links.flooded = _
    rw [hlog.links_eq, phased_flooded, phaseWord]
    cases p <;> rfl
  · rw [hof, linkOf_phased, linkOf_setLink_ne _ _ hk]
  · rw [hm]
    exact ((phased_phaseKeeps l p s).logged hlog).mbx m

/-- What a link in training learns of its partner, and the phase that Table 14-3 gives it. -/
def trainPhase (s : State) (l : Nat) : TrainResult → LinkPhase
  | .failed => .down
  | .partner chip topo dx dy far vs _ =>
    if !partnerOk s.links.ident l chip topo dx dy far then .miswired
    else if !vs.contains 0x0100 then .incompatible
    else if adminDownPending s l then .adminDown else .up

/-- A link that comes up, before its phase changes. -/
def linkOpened (v rt : Nat) (k : Link) : Link := { k with
  version := v
  latencyPs := rt / 2
  credSched := 128
  credShared := 64
  issuedSched := 128
  issuedShared := 64
  txCount := 0
  rxCount := 0
  rxMissing := false
  farPlan := none }

/-- The state before the phase of a trained link changes. -/
def trainBase (s : State) (l : Nat) : TrainResult → State
  | .failed => s
  | .partner chip topo dx dy far vs rt =>
    let s0 := setLink l (fun k => { k with farChip := chip }) s
    if trainPhase s l (.partner chip topo dx dy far vs rt) = .up then setLink l (linkOpened 0x0100 rt) s0 else s0

theorem trainPhase_ne (s : State) (l : Nat) (r : TrainResult) : trainPhase s l r ≠ .training := by
  cases r with
  | failed => exact fun hc => by cases hc
  | partner => simp only [trainPhase]; split <;> (try split) <;> (try split) <;> decide

theorem linkTraining_eq {l : Nat} (r : TrainResult) {s : State} (hup : computeDown s = false) (h : (linkOf s l).phase = .training) :
    linkTraining l r s = adminUpCheck l (setPhase l (trainPhase s l r) (trainBase s l r)) := by
  have hb : (computeDown s || (linkOf s l).phase != .training) = false := by rw [hup, h]; rfl
  unfold linkTraining
  rw [hb, if_neg (by decide)]
  cases r with
  | failed => rfl
  | partner chip topo dx dy far vs rt =>
    have hpend : adminDownPending (setLink l (fun k => { k with farChip := chip }) s) l = adminDownPending s l := rfl
    simp only [trainBase, trainPhase, linkVersion]
    by_cases hpo : partnerOk s.links.ident l chip topo dx dy far = true
    · by_cases hv : vs.contains 0x0100 = true
      · by_cases ha : adminDownPending s l = true
        · simp only [hpo, hv, ha, Bool.not_true, Bool.false_eq_true, if_false, if_true, reduceCtorEq]
        · simp only [hpo, hv, ha, Bool.not_true, Bool.false_eq_true, if_false, if_true]
          rfl
      · simp only [hpo, hv, Bool.not_true, Bool.not_false, Bool.false_eq_true, if_false, if_true, reduceCtorEq]
    · simp only [hpo, Bool.not_false, if_false, if_true, reduceCtorEq]

theorem trainBase_keeps (s : State) (l : Nat) (r : TrainResult) : PhaseKeeps s (trainBase s l r) ∧
    (linkOf (trainBase s l r) l).phase = (linkOf s l).phase ∧ (trainBase s l r).links.flooded = s.links.flooded ∧
    mapKey (trainBase s l r) l = mapKey s l ∧ ∀ k, k ≠ l → linkOf (trainBase s l r) k = linkOf s k := by
  cases r with
  | failed => exact ⟨.refl s, rfl, rfl, rfl, fun _ _ => rfl⟩
  | partner chip topo dx dy far vs rt =>
    simp only [trainBase]
    split
    · refine ⟨(setLink_phaseKeeps _ _ s).trans (setLink_phaseKeeps _ _ _), ?_, rfl, rfl, fun k hk => ?_⟩
      · rw [linkOf_setLink_self, linkOf_setLink_self]; rfl
      · rw [linkOf_setLink_ne _ _ hk, linkOf_setLink_ne _ _ hk]
    · refine ⟨setLink_phaseKeeps _ _ s, ?_, rfl, rfl, fun k hk => ?_⟩
      · rw [linkOf_setLink_self]
      · rw [linkOf_setLink_ne _ _ hk]

/-- A link that comes up holds its credits. -/
theorem trainBase_up {s : State} {l : Nat} {r : TrainResult} (h : trainPhase s l r = .up) :
    ∃ rt, linkOf (trainBase s l r) l = linkOpened 0x0100 rt (linkOf (trainBase s l r) l) := by
  cases r with
  | failed => cases h
  | partner chip topo dx dy far vs rt =>
    refine ⟨rt, ?_⟩
    simp only [trainBase]
    rw [if_pos h, linkOf_setLink_self]
    rfl

/-! ## Fences of links (R394, R395) -/

theorem changeF_fence (lead : Nat) (f : BitVec 276) (s : State) : (changeF lead f s).seq.fence = f := by
  unfold changeF
  split
  · assumption
  · obtain ⟨ch, w, h⟩ := decideChange_frame lead (setSeq (fun q => { q with fence := f }) s)
    rw [h]; rfl

/-- A link's fence joins or leaves F, and no other does. -/
theorem linkFence_fence {l : Nat} (on : Bool) (s : State) (h4 : l < 4) :
    ∀ r, fenced (linkFence l on s).seq.fence r = if r = 272 + l then on else fenced s.seq.fence r := by
  intro r
  unfold linkFence
  extract_lets bit set
  have hl : l % 4 = l := Nat.mod_eq_of_lt h4
  have hbit : ∀ r, bit.getLsbD r = decide (r = 272 + l) := fun r => by
    simp only [bit, hl, BitVec.getLsbD_shiftLeft, BitVec.getLsbD_one]
    by_cases hr : r = 272 + l
    · subst hr; simp; omega
    · simp [hr]; omega
  by_cases hsame : fenced s.seq.fence (272 + l % 4) = on
  · rw [if_pos (by simpa using hsame)]
    by_cases hr : r = 272 + l
    · rw [if_pos hr, hr, ← hsame, hl]
    · rw [if_neg hr]
  · rw [if_neg (by simpa using hsame), logEvent_seq, changeF_fence]
    by_cases hr : r = 272 + l
    · subst hr
      rw [if_pos rfl]
      cases on with
      | true => simp only [set, if_true, fenced, BitVec.getLsbD_or, hbit]; simp
      | false => simp only [set, Bool.false_eq_true, if_false, fenced, BitVec.getLsbD_and, BitVec.getLsbD_not, hbit]; simp
    · rw [if_neg hr]
      cases on with
      | true => simp only [set, if_true, fenced, BitVec.getLsbD_or, hbit]; simp [hr]
      | false =>
        simp only [set, Bool.false_eq_true, if_false, fenced, BitVec.getLsbD_and, BitVec.getLsbD_not, hbit]
        by_cases hlt : r < 276
        · simp [hr, hlt]
        · simp [hlt, BitVec.getLsbD_of_ge _ _ (Nat.le_of_not_lt hlt)]

/-! ## The link map (R395, R400) -/

/-- A key joins a list of keys once. -/
def addKey (key : Nat) (m : List Nat) : List Nat := if m.contains key then m else key :: m

theorem mapWord_down (key : Nat) (k : Links) : mapWord key .down k = { k with downMap := addKey key k.downMap } := rfl

theorem mapWord_adminDown (key : Nat) (k : Links) : mapWord key .adminDown k =
    { k with adminHeard := if k.adminAvoid.contains key then k.adminHeard else addKey key k.adminHeard } := rfl

theorem mem_addKey {k key : Nat} {m : List Nat} : k ∈ addKey key m ↔ k = key ∨ k ∈ m := by
  unfold addKey
  split
  case isTrue h =>
    constructor
    · exact Or.inr
    · rintro (rfl | hm)
      · simpa using h
      · exact hm
  case isFalse => exact List.mem_cons

theorem mem_lessKey {k key : Nat} (m : List Nat) : k ∈ m.filter (· != key) ↔ k ∈ m ∧ k ≠ key := by simp

theorem mapWord_frame (key : Nat) (w : LinkWord) (k : Links) :
    ∃ d h a, mapWord key w k = { k with downMap := d, adminHeard := h, adminAvoid := a } := by
  cases w <;> exact ⟨_, _, _, rfl⟩

theorem floodRx_stays {chip l : Nat} {w : LinkWord} {s : State} (h : mapWord (4 * chip + l) w s.links = s.links) :
    linkStateFloodRx chip l w s = s := by
  unfold linkStateFloodRx
  simp [h]

theorem floodRx_new {chip l : Nat} {w : LinkWord} {s : State} (hup : computeDown s = false) (hc : chip ≠ s.links.ident.chipId)
    (h : mapWord (4 * chip + l) w s.links ≠ s.links) :
    linkStateFloodRx chip l w s = flood (4 * chip + l) w (setLinks (fun _ => mapWord (4 * chip + l) w s.links) s) := by
  unfold linkStateFloodRx
  simp [hup, hc, h]

/-- The link map and the links to keep away from, behind a received word. -/
theorem mapWord_mem (key : Nat) (w : LinkWord) (k : Links) :
    (key ∈ (mapWord key w k).downMap ↔ w = .down ∨ (w = .adminDown ∧ key ∈ k.downMap)) ∧
      (key ∈ (mapWord key w k).adminHeard ∨ key ∈ (mapWord key w k).adminAvoid ↔
        w = .adminDown ∨ (w = .down ∧ (key ∈ k.adminHeard ∨ key ∈ k.adminAvoid))) ∧
      ∀ x, x ≠ key → (x ∈ (mapWord key w k).downMap ↔ x ∈ k.downMap) ∧ (x ∈ (mapWord key w k).adminHeard ↔ x ∈ k.adminHeard) ∧
        (x ∈ (mapWord key w k).adminAvoid ↔ x ∈ k.adminAvoid) := by
  cases w with
  | up =>
    refine ⟨by simp [mapWord], by simp [mapWord], fun x hx => ?_⟩
    simp only [mapWord, mem_lessKey]
    exact ⟨and_iff_left hx, and_iff_left hx, and_iff_left hx⟩
  | down =>
    rw [mapWord_down]
    exact ⟨by simp [mem_addKey], by simp, fun x hx => ⟨mem_addKey.trans (or_iff_right hx), Iff.rfl, Iff.rfl⟩⟩
  | adminDown =>
    rw [mapWord_adminDown]
    refine ⟨by simp, ?_, fun x hx => ⟨Iff.rfl, ?_, Iff.rfl⟩⟩
    · by_cases ha : key ∈ k.adminAvoid
      · simp [ha]
      · simp [ha, mem_addKey]
    · by_cases ha : key ∈ k.adminAvoid
      · simp [ha]
      · simpa [ha] using mem_addKey.trans (or_iff_right hx)

/-! ## Tick markers (R396 to R399) -/

/-- The follower of a better master, before its marker sets the phase. -/
def following (l : Nat) (m : Marker) (s : State) : State :=
  setLinks (fun k => { k with
    epochMax := max k.epochMax m.epoch
    epoch := m.epoch
    masterChip := m.master
    best := some (l, m.hops)
    parent := some l }) s

theorem tickMarkerRx_better {l : Nat} {m : Marker} {s : State} (hup : computeDown s = false) (hphase : (linkOf s l).phase = .up)
    (hmaster : s.links.master = false) (hsrc : s.tick.source = 2) (hbetter : betterMaster s m = true) (hsame : sameMaster s m = false)
    (herr : (markerErr s l m).natAbs ≤ 64) : tickMarkerRx l m s = followMarker l m (following l m s) := by
  have hb : (computeDown s || (linkOf s l).phase != .up) = false := by rw [hup, hphase]; rfl
  have hbetter1 : betterMaster (setLinks (fun k => { k with epochMax := max k.epochMax m.epoch }) s) m = true := hbetter
  have hsame1 : sameMaster (setLinks (fun k => { k with epochMax := max k.epochMax m.epoch }) s) m = false := hsame
  unfold tickMarkerRx
  rw [hb, if_neg (by decide)]
  extract_lets s1 s2 far take first s3
  have hm1 : s1.links.master = false := hmaster
  have h2 : s2 = setLinks (fun k => { k with epoch := m.epoch, masterChip := m.master, best := none }) s1 := by
    simp only [s2, s1, hsame1, Bool.false_eq_true, if_false]
  have hfar : far = false := by
    have : markerErr s2 l m = markerErr s l m := by rw [h2]; rfl
    simp only [far, this, decide_eq_false (Nat.not_lt.mpr herr), Bool.and_false, Bool.false_and]
  have htake : take = true := by
    simp only [take, hfar, h2]
    rfl
  have hfirst : first = true := by simp only [first, h2]; rfl
  have h3 : s3 = following l m s := by simp only [s3, h2]; rfl
  have hsrc3 : s3.tick.source = 2 := by rw [h3]; exact hsrc
  have hbs : (!(betterMaster s1 m || sameMaster s1 m)) = false := by rw [hbetter1]; rfl
  rw [hm1, if_neg (by decide), hbs, if_neg (by decide), if_pos htake, if_pos hsrc3, if_pos hfirst, h3]

theorem sourceEdge_phase {err : Int} (s : State) (h : err.natAbs ≤ 64) : (sourceEdge err s).tick.phase = err := by
  unfold sourceEdge
  rw [if_neg (by omega)]
  split
  · rfl
  · extract_lets lim bad s1
    split
    · by_cases hh : s1.tick.holdover = false
      · rw [enterHoldover_tick hh]; rfl
      · rw [enterHoldover, if_pos (by simpa using hh)]; rfl
    · rfl

theorem sourceEdge_logged {err : Int} (s : State) (h : err.natAbs ≤ 64) : TickLogged s (sourceEdge err s) := by
  unfold sourceEdge
  rw [if_neg (by omega)]
  split
  · exact (TickLogged.refl s).setTick _
  · extract_lets lim bad s1
    have h1 : TickLogged s s1 := (TickLogged.refl s).setTick _
    split
    · by_cases hh : s1.tick.holdover = false
      · exact enterHoldover_logged h1 hh
      · rw [enterHoldover, if_pos (by simpa using hh)]; exact h1
    · exact h1

/-- The numbers of a tick and its frame are not the source's. -/
theorem sourceEdge_no (err : Int) (s : State) : (sourceEdge err s).tick.no = s.tick.no ∧ (sourceEdge err s).tick.frame = s.tick.frame := by
  have hhold : ∀ t : State, (enterHoldover t).tick.no = t.tick.no ∧ (enterHoldover t).tick.frame = t.tick.frame := fun t => by
    by_cases hh : t.tick.holdover = false
    · rw [enterHoldover_tick hh]; exact ⟨rfl, rfl⟩
    · rw [enterHoldover, if_pos (by simpa using hh)]; exact ⟨rfl, rfl⟩
  unfold sourceEdge
  split
  · split
    · exact ⟨rfl, rfl⟩
    · exact ⟨rfl, rfl⟩
  · split
    · exact ⟨rfl, rfl⟩
    · extract_lets lim bad s1
      split
      · exact hhold s1
      · exact ⟨rfl, rfl⟩

theorem linkDiscard_clears (l : Nat) (all : Bool) (s : State) :
    (linkOf (linkDiscard l all s) l).replay = [] ∧ (linkDiscard l all s).links.ident = s.links.ident := by
  unfold linkDiscard
  extract_lets k keys me gone ended opened lost freed s0 s1 s2
  have hident : freed.links.ident = s.links.ident := foldl_keeps (fun t => t.links.ident) (fun t q => by
    obtain ⟨x, hx⟩ : ∃ f, issueCredit q.inLink q.inCls t = if 4 ≤ q.inLink then t else setLink q.inLink f t := ⟨_, rfl⟩
    rw [hx]
    split <;> rfl) _ s
  have h1 : (linkOf s1 l).replay = [] := by rw [linkOf_setLink_self]
  exact ⟨h1, hident⟩

/-- A link that leaves UP for another phase holds no replay buffer any more, and its word is flooded. -/
theorem linkLeavesUp_discards {l : Nat} {s : State} (h : (linkOf s l).phase ≠ .down) :
    (linkOf (linkLeavesUp l .down s) l).replay = [] ∧ (mapKey s l, LinkWord.down) ∈ (linkLeavesUp l .down s).links.flooded := by
  obtain ⟨hreplay, hident⟩ := linkDiscard_clears l false s
  obtain ⟨-, -, hphase⟩ := linkDiscard_drops l false s
  obtain ⟨-, hlinks⟩ := linkFence_drops l true (setPhase l .down (linkDiscard l false s))
  have hlog := setPhase_logged (l := l) (p := .down) (s := linkDiscard l false s) (by rw [hphase]; exact h)
  have hall : (linkLeavesUp l .down s).links = (phased l .down (linkDiscard l false s)).links := hlinks.trans hlog.links_eq
  refine ⟨?_, ?_⟩
  · have : linkOf (linkLeavesUp l .down s) l = linkOf (phased l .down (linkDiscard l false s)) l := by rw [linkOf, hall]; rfl
    rw [this, linkOf_phased, linkOf_setLink_self]
    exact hreplay
  · rw [hall, phased_flooded, mapKey, hident]
    exact List.mem_cons_self

/-- Settles O43: training through `trained`, fences through `linkFence_fence`, markers through `sourceEdge`. -/
theorem linkAndSharedTickEvents : Obligations.LinkAndSharedTickEvents := by
  have hmissing : ∀ s : State, computeDown s = false → s.tick.source = 2 → s.links.master = false → exec .parentMarkerMissing s =
      .next (match s.links.best with
        | some (l, _) => setLinks (fun k => { k with parent := some l }) s
        | none => sourceMissed (setLinks (fun k => { k with parent := none }) s)) := fun s hup hsrc hmaster => by
    exact congrArg Host.Outcome.next (if_neg (by simp [hup, hsrc, hmaster]))
  refine ⟨fun l r s h4 hup h => ?_, fun l s h4 hup h hp => ?_, fun l cause s h4 hup h hc => ?_, fun l s h4 hup h hu hf => ?_,
    fun chip l w s h4 hup hc => ?_, fun l p s h4 h => ?_, fun l m s h4 hup h hmaster hsrc hbetter hsame hper hlen herr => ?_,
    fun l m s h4 hup h hmaster hbetter => ?_, fun s hup hsrc hmaster => ⟨fun l n hbest => ?_, fun hbest hhold => ?_, fun hbest hhold => ?_⟩⟩
  · have hexec : exec (.linkTraining l r) s = .next (linkTraining (l % 4) r s) := rfl
    rw [Nat.mod_eq_of_lt h4, linkTraining_eq r hup h] at hexec
    obtain ⟨hbase, hbphase, hbflood, hbkey, hbother⟩ := trainBase_keeps s l r
    obtain ⟨hl, hflood, hother, hkeeps⟩ := trained (hbphase.trans h) (trainPhase_ne s l r)
    have hphase : (linkOf (adminUpCheck l (setPhase l (trainPhase s l r) (trainBase s l r))) l).phase = trainPhase s l r := by rw [hl]
    refine ⟨_, hexec, ?_, fun hu => ?_, ?_, fun k hk => (hother k hk).trans (hbother k hk), ?_⟩
    · rw [hphase]; cases r <;> rfl
    · obtain ⟨rt, hopen⟩ := trainBase_up (hphase.symm.trans hu)
      rw [hl, hopen]
      exact ⟨rfl, rfl, rfl, rfl, rfl, rfl, rfl, rfl⟩
    · rw [hflood, hbflood, hbkey, phaseWord, hphase]
    · obtain ⟨_, _, _, _, _, _, _, ht⟩ := (hbase.trans hkeeps).frame
      rw [ht]
  · have hexec : exec (.retrainTimer l) s = .next (if !computeDown s && ((linkOf s (l % 4)).phase == .down || (linkOf s (l % 4)).phase == .miswired) &&
        polderUp s (pLink (l % 4)) then setPhase (l % 4) .training s else s) := rfl
    have hdown : ((linkOf s l).phase == .down || (linkOf s l).phase == .miswired) = true := by rcases h with h | h <;> rw [h] <;> rfl
    rw [Nat.mod_eq_of_lt h4, hup, hdown, hp, if_pos (by rfl)] at hexec
    have hlog := setPhase_logged (l := l) (p := .training) (s := s) (by rcases h with h | h <;> rw [h] <;> decide)
    refine ⟨_, hexec, ?_, fun k hk => ?_, ?_⟩
    · rw [hlog.linkOf_eq, linkOf_phased, linkOf_setLink_self]
    · rw [hlog.linkOf_eq, linkOf_phased, linkOf_setLink_ne _ _ hk]
    · obtain ⟨_, _, _, _, _, _, _, ht⟩ := ((phased_phaseKeeps l .training s).logged hlog).frame
      rw [ht]
  · have hexec : exec (.linkDown l cause) s = .next (linkDown (l % 4) cause s) := rfl
    have hcond : (computeDown s || (linkOf s l).phase != .up || (cause == .replayed16 && decide ((linkOf s l).replayRun < 16))) = false := by
      rw [hup, h]
      cases cause with
      | replayed16 => simpa using hc rfl
      | _ => rfl
    rw [Nat.mod_eq_of_lt h4, linkDown, hcond, if_neg (by decide)] at hexec
    have hbump := bump_logged (cLink l 2) s
    obtain ⟨hd, hother, hphase⟩ := linkLeavesUp_drops l .down (bump (cLink l 2) s)
    have hupb : (linkOf (bump (cLink l 2) s) l).phase ≠ .down := by rw [hbump.linkOf_eq, h]; decide
    obtain ⟨hreplay, hflood⟩ := linkLeavesUp_discards hupb
    have hkey : mapKey (bump (cLink l 2) s) l = mapKey s l := by rw [mapKey, hbump.links_eq]; rfl
    obtain ⟨_, _, _, _, _, _, _, _, _, _, _, _, _, _, ht⟩ := ((LinkDrops.of_logged hbump).trans hd).frame
    refine ⟨_, hexec, hphase, hreplay, ?_, hkey ▸ hflood, fun k hk => ?_, ?_⟩
    · rw [linkLeavesUp, linkFence_fence true _ h4, if_pos rfl]
    · have hk' := hother k hk
      rw [CreditsOnly, hbump.linkOf_eq] at hk'
      exact hk'
    · rw [ht]
      exact ⟨rfl, rfl, rfl, rfl, rfl, rfl, rfl⟩
  · have hexec : exec (.linkUnfence l) s = .next (linkUnfence (l % 4) s) := rfl
    rw [Nat.mod_eq_of_lt h4, linkUnfence, if_pos (by simp [hup, h, hu, hf])] at hexec
    have hfence := linkFence_fence false s h4
    obtain ⟨hd, -⟩ := linkFence_drops l false s
    obtain ⟨_, _, _, _, _, _, _, _, _, _, _, _, _, _, ht⟩ := hd.frame
    refine ⟨_, hexec, by rw [hfence, if_pos rfl], fun r hr => by rw [hfence, if_neg hr], ?_⟩
    rw [ht]
    exact ⟨rfl, rfl, rfl, rfl, rfl, rfl, rfl⟩
  · have hexec : exec (.linkStateFloodRx chip l w) s = .next (linkStateFloodRx chip (l % 4) w s) := rfl
    rw [Nat.mod_eq_of_lt h4] at hexec
    obtain ⟨hdown, hadmin, hkeep⟩ := mapWord_mem (4 * chip + l) w s.links
    by_cases hsame : mapWord (4 * chip + l) w s.links = s.links
    · rw [floodRx_stays hsame] at hexec
      rw [hsame] at hdown hadmin
      exact ⟨s, hexec, hdown, hadmin, fun _ _ => ⟨Iff.rfl, Iff.rfl, Iff.rfl⟩, .inl rfl, rfl⟩
    · rw [floodRx_new hup hc hsame] at hexec
      obtain ⟨d, hh, a, hw⟩ := mapWord_frame (4 * chip + l) w s.links
      refine ⟨_, hexec, hdown, hadmin, hkeep, .inr ?_, ?_⟩
      · rw [hw]; rfl
      · rw [hw]; rfl
  · have hexec : exec (.planIdRx l p) s = .next (if (linkOf s (l % 4)).phase == .up then setLink (l % 4) (fun k => { k with farPlan := p }) s else s) := rfl
    rw [Nat.mod_eq_of_lt h4, if_pos (by rw [h]; rfl)] at hexec
    exact ⟨_, hexec, linkOf_setLink_self _ _ _, fun k hk => linkOf_setLink_ne _ _ hk, rfl⟩
  · have hexec : exec (.tickMarkerRx l m) s = .next (tickMarkerRx (l % 4) m s) := rfl
    rw [Nat.mod_eq_of_lt h4, tickMarkerRx_better hup h hmaster hsrc hbetter hsame herr] at hexec
    have hfollow : followMarker l m (following l m s) =
        sourceEdge (markerErr s l m) (setLinks (fun k => { k with heard := some (m.tick, m.frame, m.tickInFrame) }) (following l m s)) := by
      rw [followMarker, if_neg]
      · rfl
      · rintro (hp | hf)
        · exact hp hper
        · exact hf hlen
    rw [hfollow] at hexec
    have hlogged := sourceEdge_logged (setLinks (fun k => { k with heard := some (m.tick, m.frame, m.tickInFrame) }) (following l m s)) herr
    obtain ⟨hno, hframe⟩ := sourceEdge_no (markerErr s l m)
      (setLinks (fun k => { k with heard := some (m.tick, m.frame, m.tickInFrame) }) (following l m s))
    have hlinks := congrArg State.links hlogged
    refine ⟨_, hexec, by rw [hlinks]; rfl, by rw [hlinks]; rfl, by rw [hlinks]; rfl, by rw [hlinks]; rfl, sourceEdge_phase _ herr, by rw [hlinks]; rfl,
      hno, hframe, (congrArg State.seq hlogged).trans rfl, (congrArg State.fe hlogged).trans rfl,
      (congrArg State.host hlogged).trans rfl, (congrArg State.fm hlogged).trans rfl⟩
  · have hexec : exec (.tickMarkerRx l m) s = .next (tickMarkerRx (l % 4) m s) := rfl
    have hb : (computeDown s || (linkOf s l).phase != .up) = false := by rw [hup, h]; rfl
    rw [Nat.mod_eq_of_lt h4, tickMarkerRx, hb, if_neg (by decide)] at hexec
    have hm1 : (setLinks (fun k => { k with epochMax := max k.epochMax m.epoch }) s).links.master = true := hmaster
    have hb1 : betterMaster (setLinks (fun k => { k with epochMax := max k.epochMax m.epoch }) s) m = true := hbetter
    rw [hexec]
    simp only [hm1, hb1, if_true]
    rfl
  · have hexec := hmissing s hup hsrc hmaster
    simp only [hbest] at hexec
    exact hexec
  · have hexec := hmissing s hup hsrc hmaster
    simp only [hbest] at hexec
    have hhold1 : (setTick (fun t => { t with good := 0 }) (setLinks (fun k => { k with parent := none }) s)).tick.holdover = false := hhold
    obtain ⟨hint, -⟩ := enterHoldover_reports hhold1 hup
    have hlogged := enterHoldover_logged (((TickLogged.refl (setLinks (fun k => { k with parent := none }) s)).setTick _)) hhold1
    refine ⟨_, hexec, ?_, (congrArg State.links hlogged).trans rfl, hint, ?_⟩
    · rw [sourceMissed, enterHoldover_tick hhold1]; rfl
    · rw [sourceMissed, enterHoldover_tick hhold1]; rfl
  · have hexec := hmissing s hup hsrc hmaster
    simp only [hbest] at hexec
    rw [hexec, sourceMissed, enterHoldover, if_pos (by exact hhold)]
    rfl

end Sys2Proof.Machine
end

section
/-! PROOFS. Reservations, flits, acknowledgements and credits (R385 to R393). -/

namespace Sys2Proof.Machine
open Sys2Proof Sys2Proof.Safety

/-! ## Sending flits (R385 to R388) -/

theorem setLink_setLink_linkOf (l : Nat) (f g : Link → Link) (s : State) (k : Nat) :
    linkOf (setLink l f (setLink l g s)) k = linkOf (setLink l (fun x => f (g x)) s) k := by
  by_cases h : k = l
  · subst h; rw [linkOf_setLink_self, linkOf_setLink_self, linkOf_setLink_self]
  · rw [linkOf_setLink_ne _ _ h, linkOf_setLink_ne _ _ h, linkOf_setLink_ne _ _ h]

/-- A credit issued where the links stand alike leaves them alike. -/
theorem linkOf_issueCredit_congr {s t : State} (l : Nat) (cls : FlitClass) (h : ∀ k, linkOf s k = linkOf t k) (k : Nat) :
    linkOf (issueCredit l cls s) k = linkOf (issueCredit l cls t) k := by
  unfold issueCredit
  split
  · exact h k
  · by_cases hk : k = l
    · subst hk; rw [linkOf_setLink_self, linkOf_setLink_self, h]
    · rw [linkOf_setLink_ne _ _ hk, linkOf_setLink_ne _ _ hk, h]

/-- Only the table of the links changes. -/
def LinkOnly (s t : State) : Prop := t = { s with links := { s.links with link := t.links.link } }

theorem LinkOnly.setLink {s t : State} (h : LinkOnly s t) (l : Nat) (f : Link → Link) : LinkOnly s (setLink l f t) := by
  unfold LinkOnly at *
  rw [h]; rfl

theorem LinkOnly.refl (s : State) : LinkOnly s s := rfl

theorem LinkOnly.issueCredit {s t : State} (h : LinkOnly s t) (l : Nat) (cls : FlitClass) : LinkOnly s (issueCredit l cls t) := by
  unfold Machine.issueCredit
  split
  · exact h
  · exact h.setLink l _

theorem LinkOnly.sendFlit {s t : State} (h : LinkOnly s t) (l : Nat) (cls : FlitClass) (x : QFlit) (rest : List QFlit) :
    LinkOnly s (sendFlit l cls x rest t) := (h.setLink l _).issueCredit _ _

theorem takeFlit_single {p : QFlit → Bool} {x : QFlit} (h : p x = true) : takeFlit p [x] = some (x, []) := by
  have hfirst : flitFirst [x] x = true := by simp [flitFirst]
  unfold takeFlit
  simp [h, hfirst]

theorem takeFlit_none {p : QFlit → Bool} {x : QFlit} (h : p x = false) : takeFlit p [x] = none := by
  unfold takeFlit
  simp [h]

/-- The only queued flit is the first of its class, where its origin may send. -/
theorem firstFlit_single {fwd own : Bool} {p : Flit → Bool} {x : QFlit} (hp : p x.flit = true) (ho : if x.fwd then fwd = true else own = true) :
    firstFlit fwd own p [x] = some (x, []) := by
  unfold firstFlit
  by_cases hf : x.fwd = true
  · rw [if_pos hf] at ho
    rw [if_pos ho, takeFlit_single (by simp [hf, hp])]
  · rw [if_neg hf] at ho
    have hfwd : x.fwd = false := by simpa using hf
    have hnone : takeFlit (fun x => x.fwd && p x.flit) [x] = none := takeFlit_none (by simp [hfwd])
    rw [hnone, ite_self, if_pos ho, takeFlit_single (by simp [hfwd, hp])]

theorem firstFlit_none {fwd own : Bool} {p : Flit → Bool} {x : QFlit} (hp : p x.flit = false) : firstFlit fwd own p [x] = none := by
  unfold firstFlit
  rw [takeFlit_none (by simp [hp]), takeFlit_none (by simp [hp]), ite_self, ite_self]

/-- A slot as it begins. -/
def slotBegun (slot : Nat) (k : Link) : Link := { k with slotNext := slot + 1, lineOut := none }

theorem flitSlot_begins {l slot : Nat} {s : State} (hup : computeDown s = false) (h : (linkOf s l).phase = .up) (hn : (linkOf s l).slotNext ≤ slot)
    (ht : 6 * slot + 6 ≤ ((s.tick.period : Int) + s.tick.trim).toNat) : flitSlot l slot s = slotFlit l slot (setLink l (slotBegun slot) s) := by
  have hn' : decide (slot < (linkOf s l).slotNext) = false := by simpa using hn
  have ht' : decide ((s.tick.period + s.tick.trim).toNat < 6 * slot + 6) = false := decide_eq_false (Nat.not_lt.mpr ht)
  unfold flitSlot
  rw [hup, h, hn', ht', if_neg (by decide)]
  rfl

/-- A link with one flit queued, as it leaves in its own class. -/
def flitSent (cls : FlitClass) (x : QFlit) (k : Link) : Link := { k with
  txq := []
  txCount := k.txCount + 1
  lineOut := some (lineFlit k.txCount x.flit)
  replay := k.replay ++ [x]
  credSched := if cls == .scheduled then k.credSched - 1 else k.credSched
  credShared := if cls == .scheduled then k.credShared else k.credShared - 1 }

theorem sendFlit_own (l : Nat) (x : QFlit) (s : State) :
    sendFlit l x.flit.cls x [] s = issueCredit x.inLink x.inCls (setLink l (flitSent x.flit.cls x) s) := rfl

theorem slotFlit_scheduled {l slot : Nat} {x : QFlit} {r : Rsv} {s : State} (hrl : (linkOf s l).replayLeft = 0) (hlen : (linkOf s l).replay.length < 256)
    (hagree : plansAgree s l = true) (hper : 6 * slot + 6 ≤ s.tick.period) (hr : (linkOf s l).rsv = [r]) (hlo : r.first ≤ slot)
    (hhi : slot < r.first + r.count) (hq : (linkOf s l).txq = [x]) (hc : x.flit.cls = .scheduled) (ho : if x.fwd then r.src ≠ 2 else r.src ≠ 1)
    (hcred : 1 ≤ (linkOf s l).credSched) : slotFlit l slot s = sendFlit l x.flit.cls x [] s := by
  have hfind : [r].find? (fun r => decide (r.first ≤ slot ∧ slot < r.first + r.count)) = some r := by simp [hlo, hhi]
  have hfirst : firstFlit (r.src != 2) (r.src != 1) (fun f => f.cls == .scheduled && true) [x] = some (x, []) :=
    firstFlit_single (by rw [hc]; rfl) (by split <;> simp_all)
  unfold slotFlit
  simp only [hrl, ne_eq, not_true_eq_false, if_false, if_neg (Nat.not_le.mpr hlen), if_neg (Nat.not_lt.mpr hper), hr, hfind, hagree, hq, hfirst,
    if_neg (show ¬(linkOf s l).credSched = 0 by omega), hc]

theorem slotFlit_shared {l slot : Nat} {x : QFlit} {s : State} (hrl : (linkOf s l).replayLeft = 0) (hlen : (linkOf s l).replay.length < 256)
    (hr : (linkOf s l).rsv = []) (hq : (linkOf s l).txq = [x]) (hc : x.flit.cls ≠ .scheduled) (hcred : 1 ≤ (linkOf s l).credShared) :
    slotFlit l slot s = sendFlit l x.flit.cls x [] s := by
  unfold slotFlit
  simp only [hrl, ne_eq, not_true_eq_false, if_false, if_neg (Nat.not_le.mpr hlen), hr, List.find?_nil, ite_self, hq,
    if_neg (show ¬(linkOf s l).credShared = 0 by omega)]
  cases hcls : x.flit.cls with
  | scheduled => exact absurd hcls hc
  | detour => rw [firstFlit_single (by rw [hcls]; rfl) (by split <;> rfl)]
  | bestEffort => rw [firstFlit_none (by rw [hcls]; rfl), firstFlit_single (by rw [hcls]; rfl) (by split <;> rfl)]

/-! ## Receiving flits (R390 to R393) -/

/-- A link that waits for the replay of a flit. -/
def rxMissed (l : Nat) (g : LineFlit) (s : State) : State :=
  setLink l (fun k => { k with rxMissing := k.rxMissing || decide (k.rxCount ≤ g.nth) }) s

theorem flitRx_open {l : Nat} (g : LineFlit) {s : State} (hup : computeDown s = false) (h : (linkOf s l).phase = .up) :
    flitRx l g s = if !lineGood g then bump (cLink l 0) (rxMissed l g s)
      else if g.nth ≠ (linkOf s l).rxCount then rxMissed l g s
      else match flitRead g with
      | none => rxTaken l s
      | some f => flitTaken l f s := if_neg (by rw [hup, h]; decide)

theorem flitRx_closed {l : Nat} (g : LineFlit) {s : State} (h : ¬(computeDown s = false ∧ (linkOf s l).phase = .up)) : flitRx l g s = s :=
  if_pos (by
    rw [Bool.or_eq_true, bne_iff_ne]
    by_cases hup : computeDown s = true
    · exact .inl hup
    · exact .inr fun hp => h ⟨by simpa using hup, hp⟩)

theorem flitRx_taken {l : Nat} {g : LineFlit} {f : Flit} {s : State} (hup : computeDown s = false) (h : (linkOf s l).phase = .up)
    (hgood : lineGood g = true) (hn : g.nth = (linkOf s l).rxCount) (hf : flitRead g = some f) : flitRx l g s = flitTaken l f s := by
  rw [flitRx_open g hup h, hgood, if_neg (by decide), if_neg (by simpa using hn), hf]

theorem rxTaken_phase (l : Nat) (s : State) (k : Nat) : (linkOf (rxTaken l s) k).phase = (linkOf s k).phase ∧
    (linkOf (rxTaken l s) k).txq = (linkOf s k).txq := by
  unfold rxTaken
  by_cases h : k = l
  · subst h; rw [linkOf_setLink_self]; exact ⟨rfl, rfl⟩
  · rw [linkOf_setLink_ne _ _ h]; exact ⟨rfl, rfl⟩

/-- A forwarded flit joins its out link's queue. -/
theorem forwardFlit_linkOf (l out : Nat) (f : Flit) {s t : State} (h : ∀ k, linkOf t k = linkOf (rxTaken l s) k) :
    linkOf (forwardFlit l out f f t) out =
        { linkOf (rxTaken l s) out with txq := (linkOf s out).txq ++ [{ fwd := true, flit := f, inLink := l, inCls := f.cls }] } ∧
      ∀ k, k ≠ out → linkOf (forwardFlit l out f f t) k = linkOf (rxTaken l s) k := by
  unfold forwardFlit
  refine ⟨?_, fun k hk => ?_⟩
  · rw [linkOf_setLink_self, h, (rxTaken_phase l s out).2]
  · rw [linkOf_setLink_ne _ _ hk, h]

/-- A head flit on its way on. -/
theorem flitTaken_head {l out : Nat} {f : Flit} {h : HeadFlit} {s : State} (hb : f.body = .head h) (hh : nextHop s.links.ident h = some out)
    (hout : (linkOf s out).phase = .up) : flitTaken l f s = forwardFlit l out f f
      (setLinks (fun k => { k with routes := tabSet k.routes (xferKey f.srcChip f.tag) out }) (tagBegins (xferKey f.srcChip f.tag) (rxTaken l s))) := by
  have hp : (linkOf (setLinks (fun k => { k with routes := tabSet k.routes (xferKey f.srcChip f.tag) out })
      (tagBegins (xferKey f.srcChip f.tag) (rxTaken l s))) out).phase = .up := (rxTaken_phase l s out).1.trans hout
  unfold flitTaken
  simp only [hb, hh, hp]
  rfl

/-- A head flit at its destination. -/
theorem flitTaken_arrives {l : Nat} {f : Flit} {h : HeadFlit} {s : State} (hb : f.body = .head h) (hh : nextHop s.links.ident h = none) :
    flitTaken l f s = issueCredit l f.cls (headArrives h l f.srcChip f.tag (tagBegins (xferKey f.srcChip f.tag) (rxTaken l s))) := by
  unfold flitTaken
  simp only [hb, hh]

/-- The transfer that a head flit opens. -/
def openedXfer (h : HeadFlit) (l chip tag : Nat) (s : State) : Xfer :=
  { id := s.fm.nextXfer, field := h.dst / 2 ^ 23, mid := 0, tc := false
    srcKind := .peer, src := 0, srcStride := 0
    dstKind := .fieldMem, dst := h.dst, dstStride := h.dstStride, rowLen := h.len
    chunks := flitChunks (h.len * (h.rows + 1))
    sigObj := h.sigObj, sigN := h.sigN, epoch := 0, registered := false, gather := false
    head := some h, link := l, chip := chip, tag := tag, whole := true, cls := .scheduled }

theorem headArrives_opens {h : HeadFlit} {l chip tag : Nat} {s : State} (hf : h.dst / 2 ^ 23 < nFields s.part)
    (hfence : fenced s.seq.fence (256 + h.dst / 2 ^ 23) = false) (hp : polderPowered s (pFm (h.dst / 2 ^ 23)) = true) (hlen : 1 ≤ h.len) :
    ∃ x xs, x ∈ xs ∧ x.id = s.fm.nextXfer ∧ x.head = some h ∧ x.chip = chip ∧ x.tag = tag ∧ x.chunks = [] ∧ x.whole = false ∧ x.dst = h.dst ∧
      headArrives h l chip tag s = { s with
        links := { s.links with routes := tabSet s.links.routes (xferKey chip tag) 4 }
        fm := { s.fm with xfers := xs, nextXfer := s.fm.nextXfer + 1 } } := by
  have htot : ¬h.len * (h.rows + 1) = 0 := Nat.mul_ne_zero (by omega) (by omega)
  refine ⟨{ openedXfer h l chip tag s with chunks := [], whole := false, registered := registers s { openedXfer h l chip tag s with id := 0 } },
    (s.fm.xfers ++ [{ openedXfer h l chip tag s with registered := registers s { openedXfer h l chip tag s with id := 0 } }]).map fun y : Xfer =>
      if y.id = s.fm.nextXfer then { y with chunks := [], whole := false } else y, ?_, rfl, rfl, rfl, rfl, rfl, rfl, rfl, ?_⟩
  · simp [openedXfer]
  · unfold headArrives
    simp only [decide_eq_false (Nat.not_le.mpr hf), hfence, hp, Bool.not_true, Bool.or_false, Bool.false_eq_true, if_false, if_neg htot]
    rfl

/-- The piece that a data flit brings to its transfer. -/
def flitChunk (x : Xfer) (h : HeadFlit) (poison : BitVec 8) (bytes : List Byte) : Chunk :=
  let off := 64 * x.srcStride
  let n := min 64 (h.len * (h.rows + 1) - off)
  { off := off, len := n, data := some (padTo n bytes), poison := (List.range ((n + 7) / 8)).map fun i => if poison.getLsbD i then 4 else 0 }

/-- A transfer as a data flit of a tag arrives. -/
def dataJoined (chip tag : Nat) (last : Bool) (poison : BitVec 8) (bytes : List Byte) (x : Xfer) : Xfer :=
  if received x && x.chip == chip && x.tag == tag && !x.whole then
    match x.head with
    | none => x
    | some h => { x with srcStride := x.srcStride + 1, whole := last, chunks := x.chunks ++ [flitChunk x h poison bytes] }
  else x

theorem dataArrives_eq (chip tag : Nat) (last : Bool) (poison : BitVec 8) (bytes : List Byte) (s : State) : ∃ routes,
    dataArrives chip tag last poison bytes s = { s with
      links := { s.links with routes := routes }
      fm := { s.fm with xfers := s.fm.xfers.map (dataJoined chip tag last poison bytes) } } := by
  cases last with
  | true => exact ⟨_, rfl⟩
  | false => exact ⟨_, rfl⟩

theorem dataJoined_own {chip tag : Nat} (last : Bool) (poison : BitVec 8) (bytes : List Byte) {x : Xfer} {h : HeadFlit} (hr : received x = true)
    (hc : x.chip = chip) (ht : x.tag = tag) (hw : x.whole = false) (hh : x.head = some h) :
    (dataJoined chip tag last poison bytes x).id = x.id ∧ (dataJoined chip tag last poison bytes x).whole = last ∧
      (dataJoined chip tag last poison bytes x).chunks = x.chunks ++ [flitChunk x h poison bytes] := by
  have hmine : (received x && x.chip == chip && x.tag == tag && !x.whole) = true := by simp [hr, hc, ht, hw]
  simp only [dataJoined, hmine, if_true, hh, and_self]

/-- A data flit of a transfer that is not dropped. -/
theorem flitTaken_data {l : Nat} {f : Flit} {last : Bool} {p : BitVec 8} {bs : List Byte} {s : State} (hb : f.body = .data last p bs)
    (hd : xferKey f.srcChip f.tag ∉ s.links.dropping) : flitTaken l f s =
      match tabFind s.links.routes (xferKey f.srcChip f.tag) with
      | none => issueCredit l f.cls (rxTaken l s)
      | some 4 => if arrivalRoom f.srcChip f.tag s then issueCredit l f.cls (dataArrives f.srcChip f.tag last p bs (rxTaken l s)) else s
      | some out =>
        let s1 := if (linkOf (rxTaken l s) out).phase == .up then forwardFlit l out f f (rxTaken l s)
          else issueCredit l f.cls (if flitLast f then rxTaken l s
            else setLinks (fun k => { k with
              dropping := xferKey f.srcChip f.tag :: k.dropping, routes := tabDel k.routes (xferKey f.srcChip f.tag) }) (rxTaken l s))
        if last then setLinks (fun k => { k with routes := tabDel k.routes (xferKey f.srcChip f.tag) }) s1 else s1 := by
  unfold flitTaken
  simp only [hb, List.contains_iff_mem, hd, if_false] <;> rfl

theorem flitTaken_dropped {l : Nat} {f : Flit} {p : BitVec 8} {bs : List Byte} {s : State} (hb : f.body = .data false p bs)
    (hd : xferKey f.srcChip f.tag ∈ s.links.dropping) : flitTaken l f s = issueCredit l f.cls (rxTaken l s) := by
  unfold flitTaken
  simp only [hb, List.contains_iff_mem, hd, if_true, Bool.false_eq_true, if_false]

/-- A data flit on its way on over a link. -/
theorem flitTaken_forwarded {l out : Nat} {f : Flit} {last : Bool} {p : BitVec 8} {bs : List Byte} {s : State} (hb : f.body = .data last p bs)
    (hd : xferKey f.srcChip f.tag ∉ s.links.dropping) (hr : tabFind s.links.routes (xferKey f.srcChip f.tag) = some out) (h4 : out < 4)
    (hout : (linkOf s out).phase = .up) : flitTaken l f s =
      if last then setLinks (fun k => { k with routes := tabDel k.routes (xferKey f.srcChip f.tag) }) (forwardFlit l out f f (rxTaken l s))
      else forwardFlit l out f f (rxTaken l s) := by
  have hp : (linkOf (rxTaken l s) out).phase = .up := (rxTaken_phase l s out).1.trans hout
  rw [flitTaken_data hb hd, hr]
  split
  case h_1 h => cases h
  case h_2 h => cases h; omega
  case h_3 o _ h =>
    cases h
    simp only [hp]
    rfl

/-! ## Acknowledgements and credits (R388, R392, R393) -/

/-- The own transfers among acknowledged flits. -/
def ackedTags (s : State) (l n : Nat) : List Nat :=
  (((linkOf s l).replay.take n).filter fun q => q.flit.srcChip == s.links.ident.chipId && flitLast q.flit).map fun q => q.flit.tag

/-- A link as flits of it are acknowledged. -/
def ackTaken (n : Nat) (again : Bool) (k : Link) (left : List QFlit) : Link := { k with
  replay := left
  replayLeft := if again then left.length else min k.replayLeft left.length
  replayRun := if again then (if n = 0 then k.replayRun + 1 else 1) else if n = 0 then k.replayRun else 0 }

/-- The links behind an acknowledgement. -/
def ackedLinks (l n : Nat) (again : Bool) (s : State) : State :=
  setLink l (fun k => ackTaken n again k ((linkOf s l).replay.drop n))
    (setLinks (fun x => { x with sent := x.sent.filter fun e => !(ackedTags s l n).contains e.1 }) s)

theorem linkAckRx_up {l : Nat} (n : Nat) (missing : Bool) {s : State} (h : (linkOf s l).phase = .up) : linkAckRx l n missing s =
    if missing && !((linkOf s l).replay.drop n).isEmpty
    then bump (cLink l 1) (ackedLinks l n (missing && !((linkOf s l).replay.drop n).isEmpty) s)
    else ackedLinks l n (missing && !((linkOf s l).replay.drop n).isEmpty) s := if_neg (by rw [h]; decide)

theorem linkOf_ackedLinks_self (l n : Nat) (again : Bool) (s : State) :
    linkOf (ackedLinks l n again s) l = ackTaken n again (linkOf s l) ((linkOf s l).replay.drop n) := linkOf_setLink_self l _ _

theorem linkOf_ackedLinks_ne {l k : Nat} (n : Nat) (again : Bool) (s : State) (h : k ≠ l) : linkOf (ackedLinks l n again s) k = linkOf s k :=
  linkOf_setLink_ne _ _ h

/-- A head flit at its destination opens a transfer. -/
theorem headFlit_opens {l : Nat} {g : LineFlit} {f : Flit} {hd : HeadFlit} {s : State} (h4 : l < 4) (hup : computeDown s = false)
    (h : (linkOf s l).phase = .up) (hgood : lineGood g = true) (hn : g.nth = (linkOf s l).rxCount) (hf : flitRead g = some f)
    (hb : f.body = .head hd) (hh : nextHop s.links.ident hd = none) (hfield : hd.dst / 2 ^ 23 < nFields s.part)
    (hfence : fenced s.seq.fence (256 + hd.dst / 2 ^ 23) = false) (hp : polderPowered s (pFm (hd.dst / 2 ^ 23)) = true) (hlen : 1 ≤ hd.len) :
    ∃ t x, exec (.flitRx l g) s = .next t ∧ x ∈ t.fm.xfers ∧ x.id = s.fm.nextXfer ∧ x.head = some hd ∧ x.chip = f.srcChip ∧ x.tag = f.tag ∧
      x.chunks = [] ∧ x.whole = false ∧ x.dst = hd.dst ∧
      tabFind t.links.routes (xferKey f.srcChip f.tag) = some 4 ∧
      (∀ k, linkOf t k = linkOf (issueCredit l f.cls (rxTaken l s)) k) ∧
      t = { s with links := { s.links with link := t.links.link, routes := t.links.routes, dropping := t.links.dropping }, fm := { s.fm with xfers := t.fm.xfers, nextXfer := s.fm.nextXfer + 1 } } := by
  have hexec : exec (.flitRx l g) s = .next (flitRx (l % 4) g s) := rfl
  rw [Nat.mod_eq_of_lt h4, flitRx_taken hup h hgood hn hf, flitTaken_arrives hb hh] at hexec
  obtain ⟨x, xs, hx, hid, hhead, hchip, htag, hchunks, hwhole, hdst, harr⟩ := headArrives_opens (h := hd) (l := l) (chip := f.srcChip) (tag := f.tag)
    (s := tagBegins (xferKey f.srcChip f.tag) (rxTaken l s)) hfield hfence hp hlen
  generalize headArrives hd l f.srcChip f.tag (tagBegins (xferKey f.srcChip f.tag) (rxTaken l s)) = u at hexec harr
  have hof := linkOf_issueCredit_congr l f.cls (s := u) (t := rxTaken l s) fun k => by rw [harr]; rfl
  have honly := (LinkOnly.refl u).issueCredit l f.cls
  generalize issueCredit l f.cls u = t at hexec hof honly
  refine ⟨t, x, hexec, ?_, hid, hhead, hchip, htag, hchunks, hwhole, hdst, ?_, hof, ?_⟩
  · rw [honly, harr]; exact hx
  · rw [honly, harr]; exact tabFind_tabSet_self _ _ _
  · rw [honly, harr]; rfl

/-- A data flit at its destination joins its transfer. -/
theorem dataFlit_joins {l : Nat} {g : LineFlit} {f : Flit} {last : Bool} {p : BitVec 8} {bs : List Byte} {x : Xfer} {hd : HeadFlit} {s : State}
    (h4 : l < 4) (hup : computeDown s = false) (h : (linkOf s l).phase = .up) (hgood : lineGood g = true) (hn : g.nth = (linkOf s l).rxCount)
    (hf : flitRead g = some f) (hb : f.body = .data last p bs) (hdrop : xferKey f.srcChip f.tag ∉ s.links.dropping)
    (hroute : tabFind s.links.routes (xferKey f.srcChip f.tag) = some 4) (hx : x ∈ s.fm.xfers) (hrec : received x = true)
    (hchip : x.chip = f.srcChip) (htag : x.tag = f.tag) (hwhole : x.whole = false) (hhead : x.head = some hd)
    (hroom : arrivalRoom f.srcChip f.tag s = true) :
    ∃ t y c, exec (.flitRx l g) s = .next t ∧ y ∈ t.fm.xfers ∧ y.id = x.id ∧ y.whole = last ∧ y.chunks = x.chunks ++ [c] ∧
      c.off = 64 * x.srcStride ∧ c.data = some (padTo c.len bs) ∧ t.fm.mem = s.fm.mem ∧
      (∀ k, linkOf t k = linkOf (issueCredit l f.cls (rxTaken l s)) k) ∧
      t = { s with links := { s.links with link := t.links.link, routes := t.links.routes }, fm := { s.fm with xfers := t.fm.xfers } } := by
  have hexec : exec (.flitRx l g) s = .next (flitRx (l % 4) g s) := rfl
  rw [Nat.mod_eq_of_lt h4, flitRx_taken hup h hgood hn hf, flitTaken_data hb hdrop, hroute] at hexec
  obtain ⟨hid, hw, hchunks⟩ := dataJoined_own last p bs hrec hchip htag hwhole hhead
  obtain ⟨routes, harr⟩ := dataArrives_eq f.srcChip f.tag last p bs (rxTaken l s)
  simp only [hroom, if_true] at hexec
  generalize dataArrives f.srcChip f.tag last p bs (rxTaken l s) = u at hexec harr
  have hof := linkOf_issueCredit_congr l f.cls (s := u) (t := rxTaken l s) fun k => by rw [harr]; rfl
  have honly := (LinkOnly.refl u).issueCredit l f.cls
  generalize issueCredit l f.cls u = t at hexec hof honly
  refine ⟨t, _, _, hexec, ?_, hid, hw, hchunks, rfl, rfl, ?_, hof, ?_⟩
  · rw [honly, harr]; exact List.mem_map_of_mem hx
  · rw [honly, harr]; rfl
  · rw [honly, harr]; rfl

/-- A data flit goes on over the link of its transfer's route, which ends with the last flit. -/
theorem dataFlit_forwarded {l out : Nat} {g : LineFlit} {f : Flit} {last : Bool} {p : BitVec 8} {bs : List Byte} {s : State} (h4 : l < 4)
    (ho4 : out < 4) (hup : computeDown s = false) (h : (linkOf s l).phase = .up) (hgood : lineGood g = true) (hn : g.nth = (linkOf s l).rxCount)
    (hf : flitRead g = some f) (hb : f.body = .data last p bs) (hdrop : xferKey f.srcChip f.tag ∉ s.links.dropping)
    (hroute : tabFind s.links.routes (xferKey f.srcChip f.tag) = some out) (hout : (linkOf s out).phase = .up) :
    ∃ t, exec (.flitRx l g) s = .next t ∧
      linkOf t out = { linkOf (rxTaken l s) out with txq := (linkOf s out).txq ++ [{ fwd := true, flit := f, inLink := l, inCls := f.cls }] } ∧
      (∀ k, k ≠ out → linkOf t k = linkOf (rxTaken l s) k) ∧
      (∀ k, tabFind t.links.routes k = if last = true ∧ k = xferKey f.srcChip f.tag then none else tabFind s.links.routes k) ∧
      t = { s with links := { s.links with link := t.links.link, routes := t.links.routes } } := by
  have hexec : exec (.flitRx l g) s = .next (flitRx (l % 4) g s) := rfl
  rw [Nat.mod_eq_of_lt h4, flitRx_taken hup h hgood hn hf, flitTaken_forwarded hb hdrop hroute ho4 hout] at hexec
  obtain ⟨hself, hother⟩ := forwardFlit_linkOf l out f (s := s) (t := rxTaken l s) fun k => rfl
  cases last with
  | false =>
    refine ⟨_, hexec, hself, hother, fun k => ?_, rfl⟩
    rw [if_neg (by simp)]; rfl
  | true =>
    refine ⟨_, hexec, hself, hother, fun k => ?_, rfl⟩
    by_cases hk : k = xferKey f.srcChip f.tag
    · simp only [hk, and_self, if_true]
      exact tabFind_tabDel_self _ _
    · simp only [hk, and_false, if_false]
      exact tabFind_tabDel_ne _ hk

/-- Settles O44: each form of the rows through the lemma that gives its flit. -/
theorem flitsMove : Obligations.FlitsMove := by
  refine ⟨fun l o a s h4 hup => ?_, fun l slot x r s h4 hup h hn hper ht hrl hlen hagree hr hlo hhi hq hc ho hcred => ?_,
    fun l slot x s h4 hup h hn ht hrl hlen hr hq hc hcred => ?_, fun l n s h4 h => ?_, fun l n s h4 h hlt hup => ?_, fun l n cls s h4 h => ?_,
    fun l out g f hd s h4 hup h hgood hn hf hb hh hout => ?_, fun l g f hd s h4 hup h hgood hn hf hb hh hfield hfence hp hlen => ?_,
    fun l g f last p bs x hd s h4 hup h hgood hn hf hb hdrop hroute hx hrec hchip htag hwhole hhead hroom => ?_,
    fun l out g f last p bs s h4 ho4 hup h hgood hn hf hb hdrop hroute hout => ?_, fun l g f p bs s h4 hup h hgood hn hf hb hdrop => ?_,
    fun l g f last p bs s h4 hgood hn hf hb hdrop hroute hroom => ?_, fun l g s h4 hup h hbad => ?_, fun l g s h4 hup h hgood hn => ?_,
    fun l g s h4 hup h hgood hn hf => ?_⟩
  · have hexec : exec (.linkRsv l o a) s = .next (if computeDown s then s
        else setLink (l % 4) (fun k => { k with rsv := k.rsv ++ [{ first := (a + 5) / 6, count := o.nSlots, src := o.src }] }) s) := rfl
    rw [Nat.mod_eq_of_lt h4, hup, if_neg (by decide)] at hexec
    exact ⟨_, hexec, linkOf_setLink_self _ _ _, fun k hk => linkOf_setLink_ne _ _ hk, rfl⟩
  · have hexec : exec (.flitSlot l slot) s = .next (flitSlot (l % 4) slot s) := rfl
    have hof : linkOf (setLink l (slotBegun slot) s) l = slotBegun slot (linkOf s l) := linkOf_setLink_self _ _ _
    have hsend := slotFlit_scheduled (l := l) (slot := slot) (x := x) (r := r) (s := setLink l (slotBegun slot) s) (by rw [hof]; exact hrl)
      (by rw [hof]; exact hlen) (by rw [plansAgree, hof]; exact hagree) hper (by rw [hof]; exact hr) hlo hhi (by rw [hof]; exact hq) hc ho
      (by rw [hof]; exact hcred)
    rw [Nat.mod_eq_of_lt h4, flitSlot_begins hup h hn ht, hsend] at hexec
    refine ⟨_, hexec, fun k => ?_, ((LinkOnly.refl s).setLink _ _).sendFlit _ _ _ _⟩
    rw [sendFlit_own, hc]
    exact linkOf_issueCredit_congr _ _ (fun i => setLink_setLink_linkOf l _ _ s i) k
  · have hexec : exec (.flitSlot l slot) s = .next (flitSlot (l % 4) slot s) := rfl
    have hof : linkOf (setLink l (slotBegun slot) s) l = slotBegun slot (linkOf s l) := linkOf_setLink_self _ _ _
    have hsend := slotFlit_shared (l := l) (slot := slot) (x := x) (s := setLink l (slotBegun slot) s) (by rw [hof]; exact hrl)
      (by rw [hof]; exact hlen) (by rw [hof]; exact hr) (by rw [hof]; exact hq) hc (by rw [hof]; exact hcred)
    rw [Nat.mod_eq_of_lt h4, flitSlot_begins hup h hn ht, hsend] at hexec
    refine ⟨_, hexec, fun k => ?_, ((LinkOnly.refl s).setLink _ _).sendFlit _ _ _ _⟩
    have hb : (x.flit.cls == FlitClass.scheduled) = false := by simpa using hc
    have hsent : flitSent x.flit.cls x = fun y => { y with
        txq := [], txCount := y.txCount + 1, lineOut := some (lineFlit y.txCount x.flit), replay := y.replay ++ [x]
        credShared := y.credShared - 1 } := by
      funext y
      simp only [flitSent, hb, Bool.false_eq_true, if_false]
    rw [sendFlit_own, hsent]
    exact linkOf_issueCredit_congr _ _ (fun i => setLink_setLink_linkOf l _ _ s i) k
  · have hexec : exec (.linkAckRx l n false) s = .next (linkAckRx (l % 4) n false s) := rfl
    rw [Nat.mod_eq_of_lt h4, linkAckRx_up n false h, Bool.false_and, if_neg (by decide)] at hexec
    refine ⟨_, hexec, by rw [linkOf_ackedLinks_self]; rfl, by rw [linkOf_ackedLinks_self]; rfl, by rw [linkOf_ackedLinks_self]; rfl,
      fun k hk => linkOf_ackedLinks_ne _ _ _ hk, fun e he => ?_, rfl⟩
    · by_cases hin : e.1 ∈ ackedTags s l n
      · right
        obtain ⟨q, hq, htag⟩ := List.mem_map.mp hin
        obtain ⟨hqin, hqc⟩ := List.mem_filter.mp hq
        simp only [Bool.and_eq_true, beq_iff_eq] at hqc
        exact ⟨q, hqin, hqc.1, htag⟩
      · exact .inl (List.mem_filter.mpr ⟨he, by simpa using hin⟩)
  · have hexec : exec (.linkAckRx l n true) s = .next (linkAckRx (l % 4) n true s) := rfl
    have hagain : (true && !((linkOf s l).replay.drop n).isEmpty) = true := by
      simpa [List.isEmpty_iff, List.drop_eq_nil_iff] using hlt
    rw [Nat.mod_eq_of_lt h4, linkAckRx_up n true h, hagain, if_pos rfl] at hexec
    obtain ⟨m, ctr, hb⟩ := bumpBy_eq (cLink l 1) 1 (ackedLinks l n true s)
    have hof : linkOf (bump (cLink l 1) (ackedLinks l n true s)) l = ackTaken n true (linkOf s l) ((linkOf s l).replay.drop n) :=
      ((bump_logged _ _).linkOf_eq l).trans (linkOf_ackedLinks_self l n true s)
    refine ⟨_, hexec, by rw [hof]; rfl, by rw [hof]; simp [ackTaken], ctrGet_bumpBy_self _ _ _, ?_⟩
    rw [bump, hb]
    rfl
  · have hexec : exec (.creditRx l cls n) s = .next (if (linkOf s (l % 4)).phase != .up then s
        else setLink (l % 4) (fun k => if cls == .scheduled then { k with credSched := min 128 (k.credSched + n) }
          else { k with credShared := min 64 (k.credShared + n) }) s) := rfl
    rw [Nat.mod_eq_of_lt h4, h, if_neg (by decide)] at hexec
    refine ⟨_, hexec, ?_, fun k hk => linkOf_setLink_ne _ _ hk, rfl⟩
    rw [linkOf_setLink_self]
    simp only [beq_iff_eq]
  · have hexec : exec (.flitRx l g) s = .next (flitRx (l % 4) g s) := rfl
    rw [Nat.mod_eq_of_lt h4, flitRx_taken hup h hgood hn hf, flitTaken_head hb hh hout] at hexec
    obtain ⟨hself, hother⟩ := forwardFlit_linkOf l out f (s := s) (t := setLinks (fun k => { k with
      routes := tabSet k.routes (xferKey f.srcChip f.tag) out }) (tagBegins (xferKey f.srcChip f.tag) (rxTaken l s))) fun k => rfl
    refine ⟨_, hexec, hself, tabFind_tabSet_self _ _ _, hother, ?_⟩
    apply State.eq_of_fields <;> rfl
  · exact headFlit_opens h4 hup h hgood hn hf hb hh hfield hfence hp hlen
  · exact dataFlit_joins h4 hup h hgood hn hf hb hdrop hroute hx hrec hchip htag hwhole hhead hroom
  · exact dataFlit_forwarded h4 ho4 hup h hgood hn hf hb hdrop hroute hout
  · have hexec : exec (.flitRx l g) s = .next (flitRx (l % 4) g s) := rfl
    rw [hexec, Nat.mod_eq_of_lt h4, flitRx_taken hup h hgood hn hf, flitTaken_dropped hb hdrop]
  · have hexec : exec (.flitRx l g) s = .next (flitRx (l % 4) g s) := rfl
    rw [hexec, Nat.mod_eq_of_lt h4]
    by_cases hopen : computeDown s = false ∧ (linkOf s l).phase = .up
    · rw [flitRx_taken hopen.1 hopen.2 hgood hn hf, flitTaken_data hb hdrop, hroute]
      simp only [hroom, Bool.false_eq_true, if_false]
    · rw [flitRx_closed g hopen]
  · have hexec : exec (.flitRx l g) s = .next (flitRx (l % 4) g s) := rfl
    rw [hexec, Nat.mod_eq_of_lt h4, flitRx_open g hup h, hbad]
    rfl
  · have hexec : exec (.flitRx l g) s = .next (flitRx (l % 4) g s) := rfl
    rw [hexec, Nat.mod_eq_of_lt h4, flitRx_open g hup h, hgood, if_neg (by decide), if_pos hn]
    rfl
  · have hexec : exec (.flitRx l g) s = .next (flitRx (l % 4) g s) := rfl
    rw [hexec, Nat.mod_eq_of_lt h4, flitRx_open g hup h, hgood, if_neg (by decide), if_neg (by simpa using hn), hf]

end Sys2Proof.Machine
end

section
/-! PROOFS. Power states (O45): polders under requests and power-downs, POLDER_UP with what waited for DRAM, SLUICE_CLOSED, BANK_SET and BANK_READY
(R58, R191, R474 to R483). -/

namespace Sys2Proof.Machine
open Sys2Proof Sys2Proof.Safety

/-! ## Polders: their states under requests and power-downs (R474, R478) -/

theorem polder_polderSet_self (p : Nat) (st : PolderSt) (s : State) : polder (polderSet p st s) p = st := by
  rw [polder, polderSet, setPower_power, tabGet_tabSet_self]

theorem polder_polderSet_ne {p q : Nat} (st : PolderSt) (s : State) (h : q ≠ p) : polder (polderSet p st s) q = polder s q := by
  rw [polder, polderSet, setPower_power, tabGet_tabSet_ne _ _ _ h, polder]

theorem requestPolder_up {p : Nat} {s : State} (h : polder s p = .up) :
    requestPolder p s = setPower (fun w => { w with retry := w.retry.erase p }) s := by
  have hp : polder (setPower (fun w => { w with retry := w.retry.erase p }) s) p = .up := h
  rw [requestPolder]
  dsimp only
  rw [hp, ite_self]

theorem requestPolder_draining {p n : Nat} {s : State} (hpres : polderPresent s.part p = true) (hdown : computeDown s = false)
    (h : polder s p = .draining n) :
    requestPolder p s = polderSet p .up (setPower (fun w => { w with retry := w.retry.erase p }) s) := by
  have hp : polder (setPower (fun w => { w with retry := w.retry.erase p }) s) p = .draining n := h
  have hd : computeDown (setPower (fun w => { w with retry := w.retry.erase p }) s) = false := hdown
  rw [requestPolder]
  dsimp only
  rw [hp, setPower_part, hpres, hd]
  rfl

theorem breaksR58_up {p : Nat} {s : State} (hf : ∀ f, polderField p = some f → polder s (pFm f) = .up) : breaksR58 s p = false := by
  rw [breaksR58]
  cases h : polderField p with
  | none => simp
  | some f => simp [hf f h]

theorem breaksR58_notDown {p : Nat} {s : State} (h : polder s p ≠ .down) : breaksR58 s p = false := by simp [breaksR58, h]

theorem requestPolder_down {p : Nat} {s : State} (hpres : polderPresent s.part p = true) (hdown : computeDown s = false)
    (h : polder s p = .down) (hq : PwrReq.polder p ∉ s.power.queue) (hf : ∀ f, polderField p = some f → polder s (pFm f) = .up) :
    requestPolder p s = { s with power := { s.power with queue := s.power.queue ++ [.polder p], retry := s.power.retry.erase p } } := by
  have hp : polder (setPower (fun w => { w with retry := w.retry.erase p }) s) p = .down := h
  have hd : computeDown (setPower (fun w => { w with retry := w.retry.erase p }) s) = false := hdown
  have hff : ∀ f, polderField p = some f → polder (setPower (fun w => { w with retry := w.retry.erase p }) s) (pFm f) = .up := hf
  rw [requestPolder]
  dsimp only
  rw [hp, setPower_part, hpres, hd]
  dsimp only
  rw [if_neg (by simp)]
  cases hpf : polderField p with
  | none => exact if_pos (by simpa [setPower] using hq)
  | some f =>
    exact if_pos (by simp only [hff f hpf, Bool.true_and]; simpa [setPower] using hq)

/-- A request never takes a polder out of UP, and asks again for none that is to go down. -/
def StaysUp (p : Nat) (s : State) : Prop := polder s p = .up ∧ p ∉ s.power.retry

theorem StaysUp.ite {p : Nat} {c : Prop} [Decidable c] {s t : State} (h : StaysUp p s) (k : StaysUp p t) : StaysUp p (if c then s else t) := by
  split
  · exact h
  · exact k

theorem requestPolder_staysUp {p : Nat} (q : Nat) {s : State} (h : StaysUp p s) : StaysUp p (requestPolder q s) := by
  obtain ⟨hup, hno⟩ := h
  have hbase : StaysUp p (setPower (fun w => { w with retry := w.retry.erase q }) s) := ⟨hup, fun hm => hno (List.mem_of_mem_erase hm)⟩
  unfold requestPolder
  dsimp only
  split
  · exact hbase
  · split
    · exact hbase
    · exact hbase
    · refine ⟨?_, hbase.2⟩
      by_cases hq : p = q
      · subst hq; exact polder_polderSet_self _ _ _
      · exact (polder_polderSet_ne _ _ hq).trans hbase.1
    · exact .ite (hbase : StaysUp p (setPower _ (setPower _ s))) hbase

theorem changeRequests_staysUp {p : Nat} {s : State} (h : StaysUp p s) : StaysUp p (changeRequests s) := by
  unfold changeRequests
  split
  · exact h
  · refine List.foldlRecOn _ _ h fun t ht q _ => ?_
    split
    · split
      · exact requestPolder_staysUp q ht
      · exact ht
    · exact requestPolder_staysUp q ht

theorem noteUp_frame (lead : Nat) (s : State) : ∃ c, noteUp lead s = { s with seq := { s.seq with change := c } } := by
  unfold noteUp
  split
  · exact ⟨_, rfl⟩
  · split
    · exact ⟨_, rfl⟩
    · exact ⟨_, rfl⟩

theorem requestPolder_staysDown {p : Nat} {s : State} (h : polder s p = .down) : polder (requestPolder p s) p = .down := by
  have hp : polder (setPower (fun w => { w with retry := w.retry.erase p }) s) p = .down := h
  unfold requestPolder
  dsimp only
  rw [hp]
  split
  · exact hp
  · dsimp only
    rw [apply_ite (polder · p)]
    exact (if_congr Iff.rfl hp hp).trans (ite_self _)

/-- The polders that are to go down drain; those already DOWN and those that are not asked for stay. -/
structure Drains (s t : State) : Prop where
  frame : ∃ ps rs, t = { s with power := { s.power with polders := ps, retry := rs } }
  down : ∀ p, polder s p = .down → polder t p = .down

theorem Drains.trans {s t u : State} (h : Drains s t) (k : Drains t u) : Drains s u := by
  obtain ⟨⟨_, _, rfl⟩, hd⟩ := h
  obtain ⟨⟨_, _, rfl⟩, kd⟩ := k
  exact ⟨⟨_, _, rfl⟩, fun p hp => kd p (hd p hp)⟩

theorem startDown_drains (p now : Nat) (s : State) : Drains s (startDown p now s) := by
  unfold startDown
  split
  · rename_i hup
    refine ⟨⟨_, _, rfl⟩, fun q hq => ?_⟩
    by_cases he : q = p
    · subst he; simp [polderUp, hq] at hup
    · rw [polder_polderSet_ne _ _ he, hq]
  · exact ⟨⟨_, _, rfl⟩, fun _ h => h⟩

theorem startDown_polder_ne {p q : Nat} (now : Nat) (s : State) (h : q ≠ p) : polder (startDown p now s) q = polder s q := by
  unfold startDown
  split
  · exact polder_polderSet_ne _ _ h
  · rfl

theorem retryDown_drains (now : Nat) (s : State) : Drains s (retryDown now s) := by
  unfold retryDown
  refine List.foldlRecOn (motive := fun t => Drains s t) _ _ ⟨⟨_, _, rfl⟩, fun _ h => h⟩ fun t ht p _ => ?_
  split
  · exact ht
  · exact ht.trans (startDown_drains p now t)

theorem retryDown_polder {p : Nat} (now : Nat) {s : State} (h : p ∉ s.power.retry) : polder (retryDown now s) p = polder s p := by
  unfold retryDown
  refine List.foldlRecOn (motive := fun t => polder t p = polder s p) _ _ rfl fun t ht q hq => ?_
  have hne : p ≠ q := by
    rintro rfl
    exact h (List.mem_of_mem_filter hq)
  split
  · exact ht
  · rw [startDown_polder_ne now t hne, ht]

theorem startDown_up {p now : Nat} {s : State} (hup : polder s p = .up) (hf : downForbidden s p = false) (hk : linkKept s p = false) :
    startDown p now s = polderSet p (.draining now) s := if_pos (by simp [polderUp, hup, hf, hk])

theorem startDown_forbidden {p now : Nat} {s : State} (h : downForbidden s p = true ∨ linkKept s p = true) : startDown p now s = s :=
  if_neg (by rcases h with h | h <;> simp [h])


/-! ## Accesses to DRAM: what they count (R319, R326) -/

/-- An access to DRAM may change DRAM, and counts what it finds. -/
structure DramCounts (s t : State) : Prop where
  frame : ∃ e i x c d, t = { s with
    mbx := { s.mbx with errSum := e, intStatus := i, msix := x }
    ctr := c
    dram := d }

namespace DramCounts

variable {s t u : State}

theorem refl (s : State) : DramCounts s s := ⟨_, _, _, _, _, rfl⟩

theorem trans (h : DramCounts s t) (k : DramCounts t u) : DramCounts s u := by
  obtain ⟨_, _, _, _, _, rfl⟩ := h
  obtain ⟨_, _, _, _, _, rfl⟩ := k
  exact ⟨_, _, _, _, _, rfl⟩

theorem foldl {α : Type} {g : State → α → State} (hg : ∀ t x, DramCounts t (g t x)) (xs : List α) (s : State) :
    DramCounts s (xs.foldl g s) := by
  induction xs generalizing s with
  | nil => exact .refl s
  | cons x xs ih => exact (hg s x).trans (ih _)

/-- Counters of an access over another DRAM. -/
theorem setDram (f : Dram → Dram) (h : DramCounts s t) : DramCounts s (setDram f t) := by
  obtain ⟨_, _, _, _, _, rfl⟩ := h
  exact ⟨_, _, _, _, _, rfl⟩

end DramCounts

theorem bump_dramCounts (off : Nat) (s : State) : DramCounts s (bump off s) := by
  obtain ⟨m, c, h⟩ := bumpBy_eq off 1 s
  have hm := bumpBy_counts off 1 s
  rw [bump, h] at *
  exact ⟨_, _, _, _, _, congrArg (fun m => { s with mbx := m, ctr := c }) hm⟩

theorem dramCheckLine_dramCounts (l : Nat) (s : State) : DramCounts s (dramCheckLine s l) := by
  unfold dramCheckLine
  split
  · exact .refl s
  · split
    · exact .refl s
    · have h1 : DramCounts s (setDram (fun d => { d with wrong := tabDel d.wrong l }) (bump cDramCe s)) := (bump_dramCounts _ s).setDram _
      refine DramCounts.trans ?_ (bump_dramCounts _ _)
      obtain ⟨_, _, _, _, _, h⟩ := h1.frame
      rw [h]
      exact ⟨_, _, _, _, _, rfl⟩
    · split
      · exact .refl s
      · obtain ⟨_, _, _, _, _, h⟩ := (bump_dramCounts cDramUe s).frame
        rw [h]
        exact ⟨_, _, _, _, _, rfl⟩

theorem dramPutLine_dramCounts (l : Nat) (bs : List (Nat × Byte)) (p : Bool) (s : State) : DramCounts s (dramPutLine l bs p s) := by
  unfold dramPutLine
  extract_lets whole bad s1 old
  have h1 : DramCounts s s1 := by
    unfold s1
    split
    · exact .refl s
    · exact dramCheckLine_dramCounts l s
  exact h1.setDram _

theorem dramWrite_dramCounts (a : Nat) (bs : List Byte) (ps : List (BitVec 8)) (s : State) : DramCounts s (dramWrite a bs ps s) :=
  .foldl (fun t l => dramPutLine_dramCounts l _ _ t) _ s

/-- An entry of the page table takes a page; its header goes to DRAM. -/
theorem pagePut_frame (e : Nat) (p : Page) (s : State) :
    DramCounts { s with kv := { s.kv with pages := if p = {} then tabDel s.kv.pages e else tabSet s.kv.pages e p } } (pagePut e p s) :=
  dramWrite_dramCounts _ _ _ _

/-- What the writing of page headers may change. -/
structure PoolCounts (s t : State) : Prop where
  frame : ∃ e i x c d pages, t = { s with
    mbx := { s.mbx with errSum := e, intStatus := i, msix := x }
    ctr := c
    dram := d
    kv := { s.kv with pages := pages } }

theorem PoolCounts.trans {s t u : State} (h : PoolCounts s t) (k : PoolCounts t u) : PoolCounts s u := by
  obtain ⟨_, _, _, _, _, _, rfl⟩ := h
  obtain ⟨_, _, _, _, _, _, rfl⟩ := k
  exact ⟨_, _, _, _, _, _, rfl⟩

theorem pagePut_poolCounts (e : Nat) (p : Page) (s : State) : PoolCounts s (pagePut e p s) := by
  obtain ⟨_, _, _, _, _, h⟩ := (pagePut_frame e p s).frame
  rw [h]
  exact ⟨_, _, _, _, _, _, rfl⟩

theorem foldl_pagePut_poolCounts (es : List Nat) (s : State) : PoolCounts s (es.foldl (fun t e => pagePut e {} t) s) :=
  List.foldlRecOn (motive := fun t => PoolCounts s t) _ _ ⟨_, _, _, _, _, _, rfl⟩ fun t ht e _ => ht.trans (pagePut_poolCounts e {} t)

/-! ## POLDER_UP (R157, R191, R378) -/

theorem setPhase_phaseKeeps (l : Nat) (p : LinkPhase) (s : State) : PhaseKeeps s (setPhase l p s) := by
  by_cases h : (linkOf s l).phase = p
  · rw [setPhase, if_pos h]; exact .refl s
  · exact (phased_phaseKeeps l p s).logged (setPhase_logged h)

/-- A field memory that loses its banks. -/
def lostField (f : Nat) (m : Fm) : Fm :=
  { m with
    mem := memClear (chipAddr f 0) (chipAddr (f + 1) 0) m.mem
    poison := m.poison.filter fun e => e.1 / 2 ^ 20 != f
    flips := m.flips.filter fun e => e.1 / 2 ^ 20 != f
    rewrite := tabDel m.rewrite f
    banks := m.banks.filter fun e => e.1 / 32 != f }

theorem polderLost_array {p : Nat} (h : p < 256) (s : State) : polderLost p s = setFm (fun m => { m with arrs := tabDel m.arrs p }) s :=
  if_pos h

theorem polderLost_field {p : Nat} (h : 272 ≤ p ∧ p < 288) (s : State) : polderLost p s = setFm (lostField (p - 272)) s := by
  rw [polderLost, if_neg (by omega), if_pos h]
  rfl

theorem polderLost_none {p : Nat} (h : 256 ≤ p ∧ p < 272 ∨ p = 288) (s : State) : polderLost p s = s := by
  rw [polderLost, if_neg (by omega), if_neg (by omega), if_neg (by omega)]

theorem polderLost_link {p : Nat} (h : 289 ≤ p) (s : State) : PhaseKeeps s (polderLost p s) := by
  rw [polderLost, if_neg (by omega), if_neg (by omega), if_pos h]
  exact (setPhase_phaseKeeps _ _ s).trans ⟨_, _, _, _, _, _, _, rfl⟩

/-- What a polder below the links holds lies in the field memories. -/
theorem polderLost_below {p : Nat} (h : p < 289) (s : State) : ∃ m, polderLost p s = { s with fm := m } := by
  by_cases ha : p < 256
  · exact ⟨_, polderLost_array ha s⟩
  · by_cases hf : 272 ≤ p ∧ p < 288
    · exact ⟨_, polderLost_field hf s⟩
    · exact ⟨s.fm, polderLost_none (by omega) s⟩

/-- What a polder that comes or goes loses of field memory. -/
theorem polderLost_mem {p : Nat} {s : State} (hwf : memWf 0 s.fm.mem = true) (x : Nat) :
    memRead 0 (polderLost p s).fm.mem x = if 272 ≤ p ∧ p < 288 ∧ chipAddr (p - 272) 0 ≤ x ∧ x < chipAddr (p - 271) 0 then 0 else memRead 0 s.fm.mem x := by
  by_cases hf : 272 ≤ p ∧ p < 288
  · have hsub : p - 271 = p - 272 + 1 := by omega
    rw [polderLost_field hf, setFm_fm, lostField, memRead_memClear _ _ _ _ _ hwf, ← hsub]
    simp [hf]
  · rw [if_neg (by omega)]
    by_cases ha : p < 256
    · rw [polderLost_array ha]; rfl
    · by_cases hl : 289 ≤ p
      · obtain ⟨_, _, _, _, _, _, _, h⟩ := (polderLost_link hl s).frame
        rw [h]
      · rw [polderLost_none (by omega)]

/-- The polder is up with nothing of what it held; an enabled link starts its training. -/
def polderRaised (p : Nat) (s : State) : State :=
  if 289 ≤ p ∧ linkWanted s (p - 289) then setPhase (p - 289) .training (polderSet p .up (polderLost p s)) else polderSet p .up (polderLost p s)

theorem polderRaised_below {p : Nat} (h : p < 289) (s : State) : polderRaised p s = polderSet p .up (polderLost p s) := if_neg (by omega)

theorem polderRaised_link {p : Nat} (h : 289 ≤ p) (s : State) : PhaseKeeps (polderSet p .up s) (polderRaised p s) := by
  have hset : PhaseKeeps (polderSet p .up s) (polderSet p .up (polderLost p s)) := by
    obtain ⟨_, _, _, _, _, _, _, hl⟩ := (polderLost_link h s).frame
    rw [hl]
    exact ⟨_, _, _, _, _, _, _, rfl⟩
  unfold polderRaised
  split
  · exact hset.trans (setPhase_phaseKeeps _ _ _)
  · exact hset

/-- A polder that comes up, with the requests and power-downs that it lets go on. -/
theorem polderComesUp_eq {p a t0 : Nat} {s : State} (h : polder s p = .powering t0) (hdue : t0 + 3600 ≤ absAt s a)
    (hstay : StaysUp p (polderRaised p s)) :
    ∃ c w, polderComesUp p a s = { polderRaised p s with seq := { (polderRaised p s).seq with change := c }, power := w } ∧
      polder (polderComesUp p a s) p = .up := by
  have heq : polderComesUp p a s = retryDown (absAt s a) (noteUp (if a = 0 then 2 else 3) (changeRequests (polderRaised p s))) := by
    rw [polderComesUp, h]
    exact if_pos hdue
  obtain ⟨w, hw⟩ := changeRequests_frame (polderRaised p s)
  obtain ⟨c, hc⟩ := noteUp_frame (if a = 0 then 2 else 3) (changeRequests (polderRaised p s))
  obtain ⟨hup, hno⟩ := changeRequests_staysUp hstay
  rw [hw] at hc hup hno
  rw [heq, hw, hc]
  obtain ⟨ps, rs, hr⟩ := (retryDown_drains (absAt s a) { polderRaised p s with seq := { (polderRaised p s).seq with change := c }, power := w }).frame
  refine ⟨c, _, hr, ?_⟩
  refine (retryDown_polder _ ?_).trans ?_
  · exact hno
  · exact hup

theorem polderRaised_staysUp {p : Nat} {s : State} (h : p ∉ s.power.retry) : StaysUp p (polderRaised p s) := by
  have hset : StaysUp p (polderSet p .up s) := ⟨polder_polderSet_self _ _ _, h⟩
  by_cases hl : 289 ≤ p
  · obtain ⟨_, _, _, _, _, _, _, hk⟩ := (polderRaised_link hl s).frame
    rw [hk]
    exact hset
  · obtain ⟨m, hm⟩ := polderLost_below (by omega : p < 289) s
    rw [polderRaised_below (by omega), hm]
    exact hset

/-- A polder that comes up keeps what the other parts hold. -/
theorem polderRaised_keeps (p : Nat) (s : State) :
    ∃ m mbx link downMap flooded boot pend ctr w, polderRaised p s = { s with
      fm := m
      mbx := mbx
      links := { s.links with link := link, downMap := downMap, flooded := flooded }
      boot := boot
      nv := { s.nv with logPend := pend }
      ctr := ctr
      power := w } ∧ m = (polderLost p s).fm := by
  by_cases hl : 289 ≤ p
  · obtain ⟨_, _, _, _, _, _, _, hk⟩ := (polderRaised_link hl s).frame
    obtain ⟨_, _, _, _, _, _, _, hlost⟩ := (polderLost_link hl s).frame
    rw [hk, hlost]
    exact ⟨_, _, _, _, _, _, _, _, _, rfl, rfl⟩
  · obtain ⟨m, hm⟩ := polderLost_below (by omega : p < 289) s
    rw [polderRaised_below (by omega), hm]
    exact ⟨_, _, _, _, _, _, _, _, _, rfl, rfl⟩

theorem polderUpDone_not {p a : Nat} {s : State} (h : p ≠ pDram) : polderUpDone p a s = polderComesUp p a s := if_neg fun hc => h hc.1

theorem polderUpDone_dram {a t0 : Nat} {s : State} (h : polder s pDram = .powering t0) (hup : polder (polderComesUp pDram a s) pDram = .up) :
    polderUpDone pDram a s = dramWake (polderComesUp pDram a s) := if_pos ⟨rfl, polderUp_of_up hup, by simp [polderUp, h]⟩

/-- The DRAM polder comes up: a change and the polders apart, the state is as it was. -/
theorem dramComesUp {a t0 : Nat} {s : State} (h : polder s pDram = .powering t0) (hdue : t0 + 3600 ≤ absAt s a) (hno : pDram ∉ s.power.retry) :
    ∃ c w, polderUpDone pDram a s = dramWake { s with seq := { s.seq with change := c }, power := w } ∧ tabGet .down w.polders pDram = .up := by
  obtain ⟨c, w, he, hup⟩ := polderComesUp_eq h hdue (polderRaised_staysUp hno)
  rw [polderUpDone_dram h hup]
  rw [he] at hup ⊢
  have hr : polderRaised pDram s = polderSet pDram .up s := by rw [polderRaised_below (by decide), polderLost_none (by decide)]
  refine ⟨c, w, ?_, hup⟩
  rw [hr]
  rfl

theorem barGo_idle {s : State} (h : s.mbx.barQ = []) : barGo s = s := by
  have hm : ({ s.mbx with barQ := [] } : Mbx) = s.mbx := by rw [← h]
  rw [barGo, h, List.foldl_nil, setMbx, hm]

/-- With no access and no command that waits for it, DRAM comes up and nothing goes on. -/
theorem dramWake_idle {s : State} (h : s.mbx.barQ = []) (hw : ∀ w ∈ s.mbx.waits, w.act ≠ .dram) : dramWake s = s := by
  have hnone : (s.mbx.waits.filter fun w => w.act == .dram) = [] := by simpa using hw
  rw [dramWake, hnone, List.foldl_nil, barGo_idle h]

/-- POLDER_UP (R157, R191). -/
theorem polderUpDone_eq {p a t0 : Nat} {s : State} (h : polder s p = .powering t0) (hdue : t0 + 3600 ≤ absAt s a) (hno : p ∉ s.power.retry)
    (hidle : p = pDram → s.mbx.barQ = [] ∧ ∀ w ∈ s.mbx.waits, w.act ≠ .dram) :
    ∃ c w, polderUpDone p a s = { polderRaised p s with seq := { (polderRaised p s).seq with change := c }, power := w } ∧
      polder (polderUpDone p a s) p = .up := by
  obtain ⟨c, w, he, hup⟩ := polderComesUp_eq h hdue (polderRaised_staysUp hno)
  by_cases hp : p = pDram
  · subst hp
    obtain ⟨hb, hw⟩ := hidle rfl
    have hr : polderRaised pDram s = polderSet pDram .up s := by rw [polderRaised_below (by decide), polderLost_none (by decide)]
    have hi : dramWake (polderComesUp pDram a s) = polderComesUp pDram a s := by
      rw [he, hr]
      exact dramWake_idle hb hw
    rw [polderUpDone_dram h hup, hi]
    exact ⟨c, w, he, hup⟩
  · rw [polderUpDone_not hp]
    exact ⟨c, w, he, hup⟩

/-- A read of the host's window out of a clean DRAM. -/
theorem barRead_clean {s : State} (a n : Nat) (hw : s.dram.wrong = []) (hp : s.dram.poison = []) :
    ∃ marks, barRead a n s = setMbx (fun m => { m with
      readOut := (List.range n).map fun i => memRead 0 s.dram.mem (a + i)
      readMarks := marks }) (draw s) := by
  have hb : dramBytes s a n = (List.range n).map fun i => memRead 0 s.dram.mem (a + i) := by
    simp only [dramBytes, dramByte_clean hw]
  refine ⟨(dramPoison s a n).map (· != 0), ?_⟩
  rw [barRead, dramScan_clean hw, hb, dramPoison_clean hw hp, freePoisoned_none]

/-! ## What waited for DRAM goes on (R336) -/

/-- A command that waited for DRAM waits no more and has its completion; the power manager is as it was. -/
def Answered (c : Cmd) (w : Power) (t : State) : Prop :=
  t.mbx.waits = [] ∧ t.power = w ∧ ∃ e ∈ t.mbx.due, e.slot = c.slot % 64 ∧ e.cookie = c.cookie

theorem complete_answered (op : Nat) (c : Cmd) (st : Status) (n data len : Nat) {s : State} (h : s.mbx.waits = []) :
    Answered c s.power (complete op c st n data len s) :=
  ⟨h, rfl, _, List.mem_append_right _ (List.mem_singleton_self _), rfl, rfl⟩

theorem Answered.ite {c : Cmd} {w : Power} {p : Prop} [Decidable p] {s t : State} (h : Answered c w s) (k : Answered c w t) :
    Answered c w (if p then s else t) := by
  split
  · exact h
  · exact k

theorem poolSetup_answered {c : Cmd} {s : State} (hup : polderUp s pDram = true) (h : s.mbx.waits = []) : Answered c s.power (bodyKvPoolSetup c s) := by
  have hfail : ∀ st, Answered c s.power (fail 0x0501 c st s) := fun st => complete_answered _ _ _ _ _ _ h
  refine .ite (hfail _) (.ite (hfail _) (.ite (hfail _) ?_))
  rw [dramGo, needDram_up hup, if_pos hup]
  exact complete_answered _ _ _ _ _ _ h

theorem closeSeq_answered {c : Cmd} {q : Nat} {s : State} (h : s.mbx.waits = []) : Answered c s.power (closeSeq c q s) := by
  unfold closeSeq
  dsimp only
  obtain ⟨_, _, _, _, _, _, hp⟩ := (foldl_pagePut_poolCounts ((tabGet {} s.kv.seqs q).slots.flatMap (slotEntries s)) s).frame
  rw [hp, finish_eq]
  exact complete_answered _ _ _ _ _ _ (by simp [setMbx, setKv, h])

theorem kvClose_answered {c : Cmd} {s : State} (hup : polderUp s pDram = true) (h : s.mbx.waits = []) : Answered c s.power (bodyKvClose c s) := by
  have hfail : ∀ st, Answered c s.power (fail 0x0503 c st s) := fun st => complete_answered _ _ _ _ _ _ h
  refine .ite (hfail _) (.ite (hfail _) ?_)
  rw [dramGo, needDram_up hup, if_pos hup]
  exact closeSeq_answered h

theorem dramResume_answered {w : Wait} {s : State} (ho : w.opcode = 0x0501 ∨ w.opcode = 0x0503) (hup : polderUp s pDram = true)
    (hw : s.mbx.waits = [w]) : Answered w.cmd s.power (dramResume w s) := by
  have hw' : (setMbx (fun m => { m with waits := m.waits.erase w }) s).mbx.waits = [] := by simp [setMbx, hw]
  unfold dramResume
  rcases ho with ho | ho
  · rw [ho]; exact poolSetup_answered hup hw'
  · rw [ho]; exact kvClose_answered hup hw'

/-! ## A drain that ends (R478, R382) -/

/-- What a link polder that goes down first gives up. -/
def linkGone (p : Nat) (s : State) : State := if 289 ≤ p then linkCut (p - 289) s else s

theorem linkCut_drops (l : Nat) (s : State) : LinkDrops s (linkCut l s) := by
  obtain ⟨⟨k, errs, xs, hd⟩, _, _⟩ := linkDiscard_drops l true s
  have hdrop : LinkDrops s (linkDiscard l true s) := by
    rw [hd]; exact ⟨_, _, _, _, _, _, _, _, _, _, _, _, _, _, rfl⟩
  unfold linkCut
  dsimp only
  split
  · exact hdrop.trans (linkFence_drops l true _).1
  · exact hdrop

theorem linkCut_fences {l : Nat} {s : State} (h4 : l < 4) (h : (linkOf s l).phase = .up) :
    fenced (linkCut l s).seq.fence (272 + l) = true := by
  rw [linkCut, h]
  exact (linkFence_fence true _ h4 _).trans (if_pos rfl)

/-- The polder is down with nothing of what it held, its gates open and no power-down of it waiting. -/
def polderGone (p : Nat) (s : State) : State :=
  setPower (fun w => { w with
    retry := w.retry.erase p
    closing := if 272 ≤ p ∧ p < 288 then w.closing.filter fun e => e.1 / 2 != p - 272 else w.closing })
    (polderSet p .down (polderLost p (linkGone p s)))

theorem polderGone_down (p : Nat) (s : State) : polder (polderGone p s) p = .down := polder_polderSet_self _ _ _

theorem sluiceClosed_drained {p a t0 : Nat} {s : State} (h : polder s p = .draining t0) (hdue : t0 ≤ absAt s a) (hb : drainBusy s p = false) :
    sluiceClosed p a s = if 289 ≤ p ∧ linkWanted s (p - 289) then requestPolder p (polderGone p s) else retryDown (absAt s a) (polderGone p s) := by
  rw [sluiceClosed, h]
  exact if_pos (by simp [hdue, hb])

/-- SLUICE_CLOSED takes a polder down, and asks for nothing but polders. -/
theorem sluiceClosed_eq {p a t0 : Nat} {s : State} (h : polder s p = .draining t0) (hdue : t0 ≤ absAt s a) (hb : drainBusy s p = false) :
    (∃ w, sluiceClosed p a s = { polderGone p s with power := w }) ∧ polder (sluiceClosed p a s) p = .down := by
  rw [sluiceClosed_drained h hdue hb]
  split
  · exact ⟨requestPolder_frame p _, requestPolder_staysDown (polderGone_down p s)⟩
  · obtain ⟨⟨ps, rs, hf⟩, hd⟩ := retryDown_drains (absAt s a) (polderGone p s)
    exact ⟨⟨_, hf⟩, hd p (polderGone_down p s)⟩

theorem polderGone_below {p : Nat} (h : p < 289) (s : State) : ∃ m w, polderGone p s = { s with fm := m, power := w } := by
  obtain ⟨m, hm⟩ := polderLost_below h s
  rw [polderGone, linkGone, if_neg (by omega), hm]
  exact ⟨_, _, rfl⟩

/-- A link polder that goes down keeps F as the cut of the link leaves it. -/
theorem polderGone_link {p : Nat} (h : 289 ≤ p) (s : State) : (polderGone p s).tick = s.tick ∧ (polderGone p s).fe = s.fe ∧
    (polderGone p s).dram = s.dram ∧ (polderGone p s).host = s.host ∧ (polderGone p s).seq.fence = (linkCut (p - 289) s).seq.fence := by
  obtain ⟨_, _, _, _, _, _, _, hlost⟩ := (polderLost_link h (linkCut (p - 289) s)).frame
  have hfence : (polderLost p (linkCut (p - 289) s)).seq.fence = (linkCut (p - 289) s).seq.fence := by rw [hlost]
  obtain ⟨_, _, _, _, _, _, _, _, _, _, _, _, _, _, hcut⟩ := (linkCut_drops (p - 289) s).frame
  rw [polderGone, linkGone, if_pos h]
  refine ⟨?_, ?_, ?_, ?_, hfence⟩
  · rw [hlost, hcut]; rfl
  · rw [hlost, hcut]; rfl
  · rw [hlost, hcut]; rfl
  · rw [hlost, hcut]; rfl

/-- SLUICE_CLOSED of a draining polder. -/
theorem sluiceClosed_down {p a t0 : Nat} {s : State} (h : polder s p = .draining t0) (hdue : t0 ≤ absAt s a) (hb : drainBusy s p = false) :
    ∃ t, sluiceClosed p a s = t ∧ polder t p = .down ∧ t.tick = s.tick ∧ t.fe = s.fe ∧ t.dram = s.dram ∧
      t.host = s.host ∧ (289 ≤ p → p < 293 → (linkOf s (p - 289)).phase = .up → fenced t.seq.fence (272 + (p - 289)) = true) ∧
      (p < 289 → t = { s with power := t.power, fm := t.fm }) := by
  obtain ⟨⟨w, he⟩, hd⟩ := sluiceClosed_eq h hdue hb
  refine ⟨_, rfl, hd, ?_⟩
  rw [he]
  by_cases hl : 289 ≤ p
  · obtain ⟨htick, hfe, hdram, hhost, hfence⟩ := polderGone_link hl s
    refine ⟨htick, hfe, hdram, hhost, fun _ h4 hup => ?_, fun hlt => absurd hl (by omega)⟩
    have h4' : p - 289 < 4 := by omega
    change fenced (polderGone p s).seq.fence _ = true
    rw [hfence]
    exact linkCut_fences h4' hup
  · obtain ⟨m, w', hg⟩ := polderGone_below (by omega : p < 289) s
    rw [hg]
    exact ⟨rfl, rfl, rfl, rfl, fun h289 => absurd h289 hl, fun _ => rfl⟩

/-! ## Drains and closes that are abandoned (R480, R481) -/

theorem powerDownAbandon_drained {p a t0 : Nat} {s : State} (h : polder s p = .draining t0) (hdue : t0 + 4096 ≤ absAt s a)
    (hb : drainBusy s p = true) : ∃ t, powerDownAbandon p a s = t ∧ polder t p = .up ∧ (∀ q, q ≠ p → polder t q = polder s q) ∧
      t.fm = s.fm ∧ t.tick = s.tick ∧ t.seq = s.seq ∧ t.links = s.links ∧ t.dram = s.dram ∧ t.host = s.host := by
  have he : ∃ f m, powerDownAbandon p a s = abandonCount f m (setPower (fun w => { w with
      abandoned := if w.retry.contains p then p :: w.abandoned else w.abandoned }) (polderSet p .up s)) := by
    rw [powerDownAbandon, h]
    exact ⟨_, _, if_pos (by simp [hdue, hb])⟩
  obtain ⟨f, m, he⟩ := he
  have hlog := (bump_logged cSluiceAbandon _).trans (logEvent_logged 0x0021 5 f m.toNat (bump cSluiceAbandon (setPower (fun w => { w with
      abandoned := if w.retry.contains p then p :: w.abandoned else w.abandoned }) (polderSet p .up s))))
  refine ⟨_, he, ?_, fun q hq => ?_, ?_⟩
  · rw [abandonCount, polder, hlog.power_eq]
    exact polder_polderSet_self _ _ _
  · rw [abandonCount, polder, hlog.power_eq]
    exact polder_polderSet_ne _ _ hq
  · obtain ⟨_, _, _, _, _, _, _, hf⟩ := hlog.frame
    rw [abandonCount, hf]
    exact ⟨rfl, rfl, rfl, rfl, rfl, rfl⟩

/-! ## Grants (R474) -/

theorem refusedNow_one {p : Nat} {s : State} (hq : s.power.queue = [.polder p]) (hf : ∀ f, polderField p = some f → polder s (pFm f) = .up) :
    refusedNow s = [] := by simp [refusedNow, hq, breaksR58_up hf]

theorem reqNow_grant {p : Nat} {s : State} (h : polder s p = .down) (hf : ∀ f, polderField p = some f → polder s (pFm f) = .up) :
    reqNow s (.polder p) = .grant := by
  rw [reqNow]
  simp only [h, bne_self_eq_false, Bool.false_eq_true, if_false]
  cases hpf : polderField p with
  | none => rfl
  | some f => simp only [hf f hpf]

/-- The one request that waits is granted. -/
theorem powerUpGrant_one {p a : Nat} {s : State} (hq : s.power.queue = [.polder p]) (h : polder s p = .down)
    (hf : ∀ f, polderField p = some f → polder s (pFm f) = .up) (hn : recentGrants s (absAt s a) < 2) :
    powerUpGrant a s = polderSet p (.powering (absAt s a)) { s with power := { s.power with queue := [], grants := absAt s a :: s.power.grants.take 7 } } := by
  have hr : ∀ w : Power, w.polders = s.power.polders → reqNow { s with power := w } (.polder p) = .grant := fun w hw =>
    reqNow_grant (by rw [polder, hw]; exact h) fun f hpf => by rw [polder, hw]; exact hf f hpf
  have hkeep : (s.power.queue.filter fun r => reqNow s r != .drop) = [.polder p] := by
    rw [hq, List.filter_cons_of_pos (by rw [reqNow_grant h hf]; rfl), List.filter_nil]
  have hfirst : setPower (fun w => { w with queue := w.queue.filter fun r => reqNow s r != .drop }) s = s := by
    rw [setPower, hkeep, ← hq]
  rw [powerUpGrant]
  dsimp only
  rw [refusedNow_one hq hf, List.foldl_nil, hfirst, hq, List.find?_cons_of_pos (by rw [reqNow_grant h hf]; rfl)]
  refine (if_pos hn).trans ?_
  simp only [grantNow, setPower, hq, List.erase_cons_head]

/-! ## Banks (R478, R483, Table 07-4) -/

theorem mem_maskList {n m i : Nat} : i ∈ maskList n m ↔ i < n ∧ m.testBit i = true := by simp [maskList]

theorem getLsbD_banksIn (s : State) (f : Nat) (mask : BitVec 32) (p : BankSt → Bool) {b : Nat} (hb : b < 32) :
    (banksIn s f mask p).getLsbD b = (mask.getLsbD b && p (bankSt s f b)) := by
  rw [Bool.eq_iff_iff, banksIn, BitVec.getLsbD_ofNat, testBit_listMask]
  simp [mem_maskList, hb, BitVec.testBit_toNat]

theorem mem_banksIn {s : State} {f : Nat} {mask : BitVec 32} {p : BankSt → Bool} {b : Nat} (hb : b < 32) :
    b ∈ maskList 32 (banksIn s f mask p).toNat ↔ mask.getLsbD b = true ∧ p (bankSt s f b) = true := by
  rw [mem_maskList, BitVec.testBit_toNat, getLsbD_banksIn s f mask p hb]
  simp [hb]

theorem mem_mask {mask : BitVec 32} {b : Nat} (hb : b < 32) : b ∈ maskList 32 mask.toNat ↔ mask.getLsbD b = true := by
  rw [mem_maskList, BitVec.testBit_toNat]
  simp [hb]

/-- Banks of a field take one state. -/
def banksSet (f : Nat) (v : BankSt) (bs : List Nat) (s : State) : State :=
  bs.foldl (fun t b => setFm (fun m => { m with banks := tabSet m.banks (32 * f + b) v }) t) s

theorem banksSet_eq (f : Nat) (v : BankSt) (bs : List Nat) (s : State) :
    (∃ x, banksSet f v bs s = setFm (fun m => { m with banks := x }) s) ∧
      ∀ b, bankSt (banksSet f v bs s) f b = if b ∈ bs then v else bankSt s f b := by
  induction bs generalizing s with
  | nil => exact ⟨⟨s.fm.banks, rfl⟩, fun b => by simp [banksSet]⟩
  | cons c bs ih =>
    obtain ⟨⟨x, hx⟩, hst⟩ := ih (setFm (fun m => { m with banks := tabSet m.banks (32 * f + c) v }) s)
    refine ⟨⟨x, hx⟩, fun b => (hst b).trans ?_⟩
    by_cases hin : b ∈ bs
    · simp [hin]
    · by_cases hc : b = c
      · subst hc
        simp [hin, bankSt, setFm]
      · have hne : 32 * f + b ≠ 32 * f + c := by omega
        simp [hin, hc, bankSt, setFm, tabGet_tabSet_ne _ _ _ hne]

/-- A bank that leaves the on state. -/
def bankTo (f : Nat) (off : Bool) (b : Nat) (m : Fm) : Fm :=
  if off then { clearBank f b m with banks := tabDel m.banks (32 * f + b) } else { m with banks := tabSet m.banks (32 * f + b) .retaining }

theorem tabGet_tabDel_ite {α : Type} (d : α) (t : Tab α) (i j : Nat) : tabGet d (tabDel t i) j = if j = i then d else tabGet d t j := by
  rw [tabDel, tabGet_filter d (fun k => k != i)]
  by_cases h : j = i <;> simp [h]

theorem bankTo_banks (f : Nat) (off : Bool) (b : Nat) (m : Fm) (k : Nat) :
    tabGet .off (bankTo f off b m).banks k = if k = 32 * f + b then (if off then .off else .retaining) else tabGet .off m.banks k := by
  cases off with
  | true => simp [bankTo, tabGet_tabDel_ite]
  | false =>
    by_cases h : k = 32 * f + b
    · simp [bankTo, h]
    · simp [bankTo, h, tabGet_tabSet_ne _ _ _ h]

/-- Address x of field f lies in bank b. -/
def inBank (f b x : Nat) : Bool := decide (chipAddr f (b * 2 ^ 18) ≤ x ∧ x < chipAddr f (b * 2 ^ 18) + 2 ^ 18)

theorem clearBank_mem (f b : Nat) {m : Fm} (h : memWf 0 m.mem = true) (x : Nat) :
    memRead 0 (clearBank f b m).mem x = if inBank f b x = true then 0 else memRead 0 m.mem x := by
  simp only [inBank, decide_eq_true_eq]
  exact memRead_memClear _ _ _ _ _ h

theorem bankTo_mem (f : Nat) (off : Bool) (b : Nat) {m : Fm} (h : memWf 0 m.mem = true) (x : Nat) :
    memRead 0 (bankTo f off b m).mem x = if off = true ∧ inBank f b x = true then 0 else memRead 0 m.mem x := by
  cases off with
  | true => simpa [bankTo] using clearBank_mem f b h x
  | false => simp [bankTo]

theorem bankTo_wf (f : Nat) (off : Bool) (b : Nat) {m : Fm} (h : memWf 0 m.mem = true) : memWf 0 (bankTo f off b m).mem = true := by
  cases off with
  | true => exact clearBank_wf h
  | false => exact h

theorem banksTo_eq (f : Nat) (mask : BitVec 32) (off : Bool) (s : State) :
    banksTo f mask off s = setFm (fun m => (maskList 32 mask.toNat).foldl (fun m b => bankTo f off b m) m) s := by
  have hfold : ∀ (bs : List Nat) (t : State), bs.foldl (fun t b => setFm (bankTo f off b) t) t =
      setFm (fun m => bs.foldl (fun m b => bankTo f off b m) m) t := fun bs => by
    induction bs with
    | nil => exact fun t => rfl
    | cons b bs ih => exact fun t => ih _
  exact hfold _ s

theorem foldl_bankTo_banks (f : Nat) (off : Bool) (bs : List Nat) (m : Fm) (b : Nat) :
    tabGet .off (bs.foldl (fun m b => bankTo f off b m) m).banks (32 * f + b) =
      if b ∈ bs then (if off then .off else .retaining) else tabGet .off m.banks (32 * f + b) := by
  induction bs generalizing m with
  | nil => simp
  | cons c bs ih =>
    rw [List.foldl_cons, ih, bankTo_banks]
    by_cases hin : b ∈ bs <;> by_cases hc : b = c <;> simp [hin, hc]

theorem foldl_bankTo_mem (f : Nat) (off : Bool) (bs : List Nat) {m : Fm} (h : memWf 0 m.mem = true) (x : Nat) :
    memRead 0 (bs.foldl (fun m b => bankTo f off b m) m).mem x = if off = true ∧ ∃ b ∈ bs, inBank f b x = true then 0 else memRead 0 m.mem x := by
  induction bs generalizing m with
  | nil => simp
  | cons c bs ih =>
    rw [List.foldl_cons, ih (bankTo_wf f off c h), bankTo_mem f off c h]
    by_cases ho : off = true
    · by_cases hin : ∃ b ∈ bs, inBank f b x = true
      · simp [ho, hin]
      · by_cases hc : inBank f c x = true
        · simp [ho, hc]
        · simp [ho, hin, hc]
    · simp [ho]

theorem bankSt_banksTo (f : Nat) (mask : BitVec 32) (off : Bool) (s : State) {b : Nat} (hb : b < 32) :
    bankSt (banksTo f mask off s) f b = if mask.getLsbD b = true then (if off then .off else .retaining) else bankSt s f b := by
  rw [banksTo_eq, bankSt, setFm_fm, foldl_bankTo_banks]
  simp only [mem_mask hb]
  rfl

/-- A byte of a field lies in the bank that its address names. -/
theorem inBank_iff {f b x : Nat} (hx : x < 2 ^ 23) : inBank f b (chipAddr f x) = true ↔ b = bankOf x := by
  have hb : bankOf x = x / 2 ^ 18 := by
    rw [bankOf, bitsN, Nat.shiftRight_eq_div_pow, Nat.mod_eq_of_lt (by omega)]
  rw [inBank, decide_eq_true_eq, hb, chipAddr, chipAddr]
  omega

theorem memRead_banksTo (f : Nat) (mask : BitVec 32) (off : Bool) {s : State} (h : memWf 0 s.fm.mem = true) {x : Nat} (hx : x < 2 ^ 23) :
    memRead 0 (banksTo f mask off s).fm.mem (chipAddr f x) =
      if off = true ∧ mask.getLsbD (bankOf x) = true then 0 else memRead 0 s.fm.mem (chipAddr f x) := by
  have hb : bankOf x < 32 := by
    simp only [bankOf, bitsN, Nat.shiftRight_eq_div_pow]
    omega
  rw [banksTo_eq, setFm_fm, foldl_bankTo_mem f off _ h]
  simp only [inBank_iff hx, exists_eq_right, mem_mask hb]

/-- What BANK_SET asks of a bank that is to turn on. -/
def bankTurned (now : Nat) (asked : Bool) (v : BankSt) : BankSt :=
  if asked = true ∧ v = .off then .turning none else if asked = true ∧ v = .retaining then .waking (now + 32) else v

/-- The banks of a field that are to turn on from off. -/
def offBanks (s : State) (f : Nat) (m : BitVec 32) : BitVec 32 := banksIn s f m fun b => b == .off

theorem getLsbD_offBanks (s : State) (f : Nat) (m : BitVec 32) {b : Nat} (hb : b < 32) :
    (offBanks s f m).getLsbD b = true ↔ m.getLsbD b = true ∧ bankSt s f b = .off := by
  rw [offBanks, getLsbD_banksIn s f m _ hb]
  simp

/-- BANK_SET to on: the banks that are off wait for a grant, those that retain wake. -/
theorem bankSet_on {f now : Nat} {m : BitVec 32} {s : State} (hup : polderUp s (pFm f) = true) :
    ∃ x cl, bankSet f m .on now s = { s with
        fm := { s.fm with banks := x }
        power := { s.power with closing := cl, queue := if offBanks s f m = 0 then s.power.queue else s.power.queue ++ [.banks f (offBanks s f m)] } } ∧
      ∀ b, b < 32 → tabGet .off x (32 * f + b) = bankTurned now (m.getLsbD b) (bankSt s f b) := by
  obtain ⟨cl, hcl⟩ : ∃ cl, setPower (fun w => { w with closing := (w.closing.map fun e =>
      if e.1 / 2 = f then (e.1, { e.2 with mask := e.2.mask &&& ~~~m }) else e).filter fun e => e.2.mask != 0 }) s =
      { s with power := { s.power with closing := cl } } := ⟨_, rfl⟩
  have hs1 : bankSet f m .on now s =
      (fun s1 : State =>
        if offBanks s1 f m = 0 then banksSet f (.waking (now + 32)) (maskList 32 (banksIn s1 f m fun b => b == .retaining).toNat) s1
        else setPower (fun w => { w with queue := w.queue ++ [.banks f (offBanks s1 f m)] }) (banksSet f (.turning none) (maskList 32 (offBanks s1 f m).toNat)
          (banksSet f (.waking (now + 32)) (maskList 32 (banksIn s1 f m fun b => b == .retaining).toNat) s1)))
        { s with power := { s.power with closing := cl } } := by
    rw [← hcl]
    exact if_neg (by simp [hup])
  rw [hs1]
  dsimp only
  have hoffs : offBanks { s with power := { s.power with closing := cl } } f m = offBanks s f m := rfl
  rw [hoffs]
  obtain ⟨⟨x, hx⟩, hwake⟩ := banksSet_eq f (.waking (now + 32)) (maskList 32 (banksIn { s with power := { s.power with closing := cl } } f m
    fun b => b == .retaining).toNat) { s with power := { s.power with closing := cl } }
  have hret : ∀ b, b < 32 → (b ∈ maskList 32 (banksIn { s with power := { s.power with closing := cl } } f m fun b => b == .retaining).toNat ↔
      m.getLsbD b = true ∧ bankSt s f b = .retaining) := fun b hb => by
    rw [mem_banksIn hb]
    simp [bankSt]
  have hoff : ∀ b, b < 32 → (b ∈ maskList 32 (offBanks s f m).toNat ↔ m.getLsbD b = true ∧ bankSt s f b = .off) := fun b hb => by
    rw [mem_mask hb, getLsbD_offBanks s f m hb]
  rw [hx] at hwake ⊢
  obtain ⟨⟨y, hy⟩, hturn⟩ := banksSet_eq f (.turning none) (maskList 32 (offBanks s f m).toNat)
    (setFm (fun m => { m with banks := x }) { s with power := { s.power with closing := cl } })
  rw [hy] at hturn ⊢
  by_cases h0 : offBanks s f m = 0
  · rw [if_pos h0, if_pos h0]
    refine ⟨x, cl, rfl, fun b hb => (hwake b).trans ?_⟩
    have hno : ¬(m.getLsbD b = true ∧ bankSt s f b = .off) := fun h => by
      have := (getLsbD_offBanks s f m hb).mpr h
      simp [h0] at this
    rw [bankTurned, if_neg hno]
    simp only [hret b hb]
    rfl
  · rw [if_neg h0, if_neg h0]
    refine ⟨y, cl, rfl, fun b hb => (hturn b).trans ?_⟩
    rw [bankTurned, hwake b]
    simp only [hoff b hb, hret b hb]
    rfl

/-- BANK_SET to off or retaining: the gates of the banks that are on start to close. -/
theorem bankSet_close {f b now : Nat} {m : BitVec 32} (off : Bool) {s : State} (hup : polderUp s (pFm f) = true) (hb : b < 32)
    (hm : m.getLsbD b = true) (hon : bankSt s f b = .on) :
    ∃ t, bankSet f m (if off then .off else .retaining) now s = t ∧ bankSt t f b = .on ∧ t = { s with
      fm := t.fm
      power := { s.power with closing := tabSet s.power.closing (2 * f + b2n off) { mask := banksIn s f m fun b => b == .on, since := now } } } := by
  have hons : banksIn s f m (fun b => b == .on) ≠ 0 := fun h0 => by
    have := (getLsbD_banksIn s f m (fun b => b == .on) hb).symm
    simp [h0, hm, hon] at this
  cases off with
  | false =>
    refine ⟨_, (if_neg (by simp [hup])).trans (if_neg hons), hon, rfl⟩
  | true =>
    have hst := bankSt_banksTo f (banksIn s f m fun b => b == .retaining) true s hb
    rw [getLsbD_banksIn s f m _ hb, hon] at hst
    rw [banksTo_eq] at hst
    have he : bankSet f m .off now s = setPower (fun w => { w with
        closing := tabSet w.closing (2 * f + b2n true) { mask := banksIn s f m fun b => b == .on, since := now } }) (banksTo f (banksIn s f m fun b => b == .retaining) true s) :=
      (if_neg (by simp [hup])).trans (if_neg hons)
    rw [banksTo_eq] at he
    exact ⟨_, he, hst.trans (by simp), rfl⟩

/-- BANK_READY at its time. -/
theorem bankReady_eq {f b a : Nat} {s : State} (h : (∃ t0, bankSt s f b = .turning (some t0) ∧ t0 ≤ absAt s a) ∨ ∃ t0, bankSt s f b = .waking t0 ∧ t0 ≤ absAt s a) :
    bankReady f b a s = setFm (fun m => { (match bankSt s f b with | .waking _ => m | _ => clearBank f b m) with
      banks := tabSet m.banks (32 * f + b) .on }) s := by
  rcases h with ⟨t0, h, hdue⟩ | ⟨t0, h, hdue⟩
  · simp [bankReady, h, hdue]
  · simp [bankReady, h, hdue]

/-- One close of a field that nothing holds up any more. -/
def closeOne (f : Nat) (t : State) (k : Nat) : State :=
  match tabFind t.power.closing (2 * f + k) with
  | none => t
  | some g =>
    if gateBusy t f g.mask then t
    else banksTo f g.mask (k == 1) (setPower (fun w => { w with closing := tabDel w.closing (2 * f + k) }) t)

theorem closeDone_eq (f : Nat) (s : State) : closeDone f s = closeOne f (closeOne f s 0) 1 := rfl

theorem closeOne_none {f k : Nat} {t : State} (h : tabFind t.power.closing (2 * f + k) = none) : closeOne f t k = t := by rw [closeOne, h]

theorem closeOne_some {f k : Nat} {g : GateClose} {t : State} (h : tabFind t.power.closing (2 * f + k) = some g) (hb : gateBusy t f g.mask = false) :
    closeOne f t k = banksTo f g.mask (k == 1) (setPower (fun w => { w with closing := tabDel w.closing (2 * f + k) }) t) := by
  rw [closeOne, h]
  exact if_neg (by simp [hb])

/-- The one close of a field is done. -/
theorem closeDone_one {f : Nat} {g : GateClose} {off : Bool} {s : State} (h : tabFind s.power.closing (2 * f + b2n off) = some g)
    (hother : tabFind s.power.closing (2 * f + (1 - b2n off)) = none) (hb : gateBusy s f g.mask = false) :
    closeDone f s = banksTo f g.mask off (setPower (fun w => { w with closing := tabDel w.closing (2 * f + b2n off) }) s) := by
  cases off with
  | false =>
    rw [closeDone_eq, closeOne_some (k := 0) h hb]
    refine closeOne_none ?_
    rw [banksTo_eq]
    exact (tabFind_tabDel_ne s.power.closing (by simp)).trans hother
  | true =>
    rw [closeDone_eq, closeOne_none (k := 0) hother]
    exact closeOne_some (k := 1) h hb

theorem sluiceClosed_up {f a : Nat} {s : State} (hf : f < 16) (h : polder s (pFm f) = .up) : sluiceClosed (pFm f) a s = closeDone f s := by
  have hp : pFm f - 272 = f := by rw [pFm]; omega
  rw [sluiceClosed, h]
  refine (if_pos ?_).trans (by rw [hp])
  rw [pFm]; omega

/-- Settles O45: each event of the polders and banks through the lemma that says what it does. -/
theorem powerStates : Obligations.PowerStates := by
  refine ⟨fun c s h => ?_, fun c g s h hg hr ha1 ha2 ht1 ht2 hi1 hi2 hj1 hj2 hc hw => ?_,
    fun p s hpres hdown => ⟨fun h hq hf => ?_, fun n h => ?_, fun h => ?_⟩, fun p a s hq h hf hn => ?_,
    fun p a t0 s h hdue hno hwf hidle => ?_, fun a t0 x n s h hdue hno hq hw hwrong hpoison => ?_,
    fun a t0 w s h hdue hno hq hw hact hop => ?_, fun p a s h hf hk => ?_, fun p a s h => ?_, fun p a t0 s h hdue hb => ?_,
    fun p a t0 s h hdue hb => ?_, fun f a m s hup => ?_, fun f a b m off s hup hb hm hon => ?_, fun f b a s h => ?_,
    fun f a g off s hf hup h hother hb hwf => ?_⟩
  · rw [exec_row_runs (i := .pwrStatus c) rfl rfl h]
    exact congrArg Host.Outcome.next (completeOk_taken _ _ _ _)
  · subst hg
    rw [exec_row_runs (i := .pwrGovernor c) rfl rfl h]
    refine congrArg Host.Outcome.next (((if_neg ?_).trans (if_neg ?_)).trans (waitFor_taken _ _ _ _))
    · dsimp only at hr ha1 ha2 ht1 ht2 hi1 hi2 hj1 hj2 hc ⊢
      omega
    · simp only [waiting, List.any_eq_true, not_exists, not_and]
      intro w hin hact
      have hin' : w ∈ s.mbx.waits := hin
      cases ha : w.act with
      | governor v => exact hw w hin' v ha
      | _ => simp [ha] at hact
  · have hexec : exec (.pwrUp p) s = .next (pwrUp p s) := rfl
    rw [hexec, pwrUp, if_neg (by simp [breaksR58_up hf]), requestPolder_down hpres hdown h hq hf]
  · have hexec : exec (.pwrUp p) s = .next (pwrUp p s) := rfl
    rw [pwrUp, if_neg (by simp [breaksR58_notDown (p := p) (s := s) (by simp [h])]), requestPolder_draining hpres hdown h] at hexec
    exact ⟨_, hexec, polder_polderSet_self _ _ _, fun q hq => polder_polderSet_ne _ _ hq, rfl⟩
  · have hexec : exec (.pwrUp p) s = .next (pwrUp p s) := rfl
    rw [hexec, pwrUp, if_neg (by simp [breaksR58_notDown (p := p) (s := s) (by simp [h])]), requestPolder_up h]
    rfl
  · have hexec : exec (.powerUpGrant a) s = .next (powerUpGrant a s) := rfl
    rw [powerUpGrant_one hq h hf hn] at hexec
    exact ⟨_, hexec, polder_polderSet_self _ _ _, rfl, rfl, fun q hq => polder_polderSet_ne _ _ hq, rfl⟩
  · have hexec : exec (.polderUp p a) s = .next (polderUpDone p a s) := rfl
    obtain ⟨c, w, he, hup⟩ := polderUpDone_eq h hdue hno hidle
    refine ⟨_, hexec, hup, ?_⟩
    rw [he]
    obtain ⟨m, mbx, link, dm, fl, boot, pend, ctr, pw, hkeep, hm⟩ := polderRaised_keeps p s
    rw [hkeep, hm]
    refine ⟨fun h256 => ?_, fun hlo hhi x hx => ?_, fun x hx => ?_, rfl, rfl, rfl, rfl, rfl, rfl, fun hlt => ?_⟩
    · rw [polderLost_array h256]
      exact tabFind_tabDel_self _ _
    · refine (polderLost_mem hwf _).trans (if_pos ⟨hlo, hhi, ?_, ?_⟩)
      · simp only [chipAddr]; omega
      · simp only [chipAddr]; omega
    · exact (polderLost_mem hwf x).trans (if_neg (by omega))
    · obtain ⟨m', hb⟩ := polderLost_below hlt s
      have hback := hkeep
      rw [polderRaised_below hlt, hb] at hback
      exact ⟨(congrArg State.mbx hback).symm, (congrArg State.nv hback).symm, (congrArg State.links hback).symm,
        (congrArg State.boot hback).symm, (congrArg State.ctr hback).symm⟩
  · have hexec : exec (.polderUp pDram a) s = .next (polderUpDone pDram a s) := rfl
    obtain ⟨c, w, he, hup⟩ := dramComesUp h hdue hno
    rw [he] at hexec
    have hb : barGo { s with seq := { s.seq with change := c }, power := w } =
        barRead x n { s with seq := { s.seq with change := c }, power := w, mbx := { s.mbx with barQ := [] } } := by
      rw [barGo]
      dsimp only
      rw [hq]
      rfl
    obtain ⟨marks, hr⟩ := barRead_clean (s := { s with seq := { s.seq with change := c }, power := w, mbx := { s.mbx with barQ := [] } }) x n hwrong hpoison
    have hnone : (s.mbx.waits.filter fun w => w.act == .dram) = [] := by rw [hw]; rfl
    rw [dramWake, hnone, List.foldl_nil, hb, hr] at hexec
    exact ⟨_, hexec, hup, rfl, rfl, rfl, rfl, rfl⟩
  · have hexec : exec (.polderUp pDram a) s = .next (polderUpDone pDram a s) := rfl
    obtain ⟨c, w', he, hup⟩ := dramComesUp h hdue hno
    rw [he] at hexec
    have hwake : dramWake { s with seq := { s.seq with change := c }, power := w' } =
        dramResume w { s with seq := { s.seq with change := c }, power := w' } := by
      rw [dramWake, barGo_idle (by exact hq)]
      dsimp only
      rw [hw, List.filter_cons_of_pos (by simp [hact])]
      rfl
    obtain ⟨hnone, hpow, hdue⟩ := dramResume_answered (w := w) (s := { s with seq := { s.seq with change := c }, power := w' }) hop (polderUp_of_up hup) hw
    rw [hwake] at hexec
    refine ⟨_, hexec, ?_, by rw [hnone]; exact List.not_mem_nil, hdue⟩
    rw [polder, hpow]
    exact hup
  · have hexec : exec (.pwrDown p a) s = .next (startDown p (absAt s a) s) := rfl
    rw [startDown_up h hf hk] at hexec
    exact ⟨_, hexec, polder_polderSet_self _ _ _, fun q hq => polder_polderSet_ne _ _ hq, rfl⟩
  · exact congrArg Host.Outcome.next (startDown_forbidden h)
  · obtain ⟨t, he, hrest⟩ := sluiceClosed_down h hdue hb
    exact ⟨t, congrArg Host.Outcome.next he, hrest⟩
  · obtain ⟨t, he, hrest⟩ := powerDownAbandon_drained h hdue hb
    exact ⟨t, congrArg Host.Outcome.next he, hrest⟩
  · obtain ⟨x, cl, he, hst⟩ := bankSet_on (now := absAt s a) (m := m) hup
    have hexec : exec (.bankSet f m .on a) s = .next (bankSet f m .on (absAt s a) s) := rfl
    rw [he] at hexec
    refine ⟨_, hexec, fun b hb hm ho => ?_, fun b hb hm hr => ?_, fun b hb hk => ?_, fun ⟨b, hb, hm, ho⟩ => ?_, rfl⟩
    · exact (hst b hb).trans (by simp [bankTurned, hm, ho])
    · exact (hst b hb).trans (by simp [bankTurned, hm, hr])
    · refine (hst b hb).trans ?_
      rcases hk with hk | hk <;> simp [bankTurned, hk]
    · refine ⟨offBanks s f m, if_neg fun h0 => ?_, fun k hk => getLsbD_offBanks s f m hk⟩
      have := (getLsbD_offBanks s f m hb).mpr ⟨hm, ho⟩
      simp [h0] at this
  · obtain ⟨t, he, hon', hframe⟩ := bankSet_close (now := absAt s a) off hup hb hm hon
    have hcl : t.power.closing = tabSet s.power.closing (2 * f + b2n off) { mask := banksIn s f m fun b => b == .on, since := absAt s a } := by
      rw [hframe]
    refine ⟨t, { mask := banksIn s f m fun b => b == .on, since := absAt s a }, congrArg Host.Outcome.next he, ?_, rfl, fun k hk => ?_, hon', ?_⟩
    · rw [hcl]; exact tabFind_tabSet_self _ _ _
    · rw [getLsbD_banksIn s f m _ hk]; simp
    · rw [hcl]; exact hframe
  · have hexec : exec (.bankReady f b a) s = .next (bankReady f b a s) := rfl
    rw [bankReady_eq h] at hexec
    refine ⟨_, hexec, by simp [bankSt, setFm], fun k hk => ?_, rfl, fun hf hb hwf => ⟨fun x hx => ?_, fun x hx => ?_⟩⟩
    · exact tabGet_tabSet_ne _ _ _ hk
    · rcases h with ⟨t0, h, _⟩ | ⟨t0, h, _⟩
      · rw [h]
        refine (clearBank_mem f b hwf _).trans (if_pos ?_)
        rw [inBank, decide_eq_true_eq]
        omega
      · rw [h]; rfl
    · rcases h with ⟨t0, h, _⟩ | ⟨t0, h, _⟩
      · rw [h]
        refine (clearBank_mem f b hwf _).trans (if_neg ?_)
        rw [inBank, decide_eq_true_eq]
        simp only [chipAddr] at hx ⊢
        omega
      · rw [h]; rfl
  · have hexec : exec (.sluiceClosed (pFm f) a) s = .next (sluiceClosed (pFm f) a s) := rfl
    rw [sluiceClosed_up hf hup, closeDone_one h hother hb] at hexec
    refine ⟨_, hexec, ?_, fun b hb' hm => ?_, fun b hb' hm => ?_, fun x hx => ?_, ?_⟩
    · rw [banksTo_eq]; exact tabFind_tabDel_self _ _
    · rw [bankSt_banksTo _ _ _ _ hb', if_pos hm]
    · rw [bankSt_banksTo _ _ _ _ hb', if_neg (by simp [hm])]; rfl
    · exact memRead_banksTo f g.mask off (s := setPower (fun w => { w with closing := tabDel w.closing (2 * f + b2n off) }) s) hwf hx
    · rw [banksTo_eq]; rfl

end Sys2Proof.Machine
end

section
/-! PROOFS. The commands of the page pool (O39): transfers that the firmware asks for (R55), the page table, choices of slots, and the bodies of KV_OPEN to KV_STATUS (R239 to R249). -/

namespace Sys2Proof.Machine
open Sys2Proof Sys2Proof.Safety

/-! ## Transfers that the firmware asks for (R55) -/

/-- Every byte of a stretch lies in one of its pieces. -/
theorem exists_piece {a n k : Nat} (h : k < n) : ∃ q ∈ piecesOf a n, q.1 ≤ k ∧ k < q.1 + q.2 ∧ q.1 + q.2 ≤ n := by
  refine ⟨(max a ((a + k) / 64 * 64) - a, min (a + n) ((a + k) / 64 * 64 + 64) - max a ((a + k) / 64 * 64)), ?_, ?_, ?_, ?_⟩
  · refine List.mem_map.mpr ⟨(a + k) / 64 * 64, ?_, rfl⟩
    rw [accesses, if_neg (by omega)]
    refine List.mem_map.mpr ⟨(a + k) / 64 - a / 64, List.mem_range.mpr ?_, ?_⟩
    · omega
    · rw [show a / 64 + ((a + k) / 64 - a / 64) = (a + k) / 64 by omega]
  · dsimp only; omega
  · dsimp only; omega
  · dsimp only; omega

/-- The pieces of the firmware's writes into a field memory. -/
def writeChunks (f : Nat) (items : List (Nat × List Byte)) : List Chunk :=
  items.flatMap fun e => (piecesOf e.1 e.2.length).map fun q =>
    { off := 0, len := q.2, data := some ((e.2.drop q.1).take q.2), poison := [], dstAt := chipAddr f (e.1 + q.1) }

/-- Every byte of an item stands in a piece at its address. -/
theorem mem_writeChunks {f : Nat} {items : List (Nat × List Byte)} {e : Nat × List Byte} (he : e ∈ items) {k : Nat} (hk : k < e.2.length) :
    ∃ c ∈ writeChunks f items, ∃ d, c.data = some d ∧ ∃ i, i < c.len ∧ c.dstAt + i = chipAddr f (e.1 + k) ∧ nth d i 0 = nth e.2 k 0 := by
  obtain ⟨q, hq, hlo, hhi, hn⟩ := exists_piece (a := e.1) hk
  refine ⟨_, List.mem_flatMap.mpr ⟨e, he, List.mem_map.mpr ⟨q, hq, rfl⟩⟩, _, rfl, k - q.1, ?_, ?_, ?_⟩
  · dsimp only; omega
  · simp only [chipAddr]; omega
  · rw [nth, nth, List.getElem?_take, if_pos (by omega), List.getElem?_drop,
      Nat.add_sub_cancel' hlo]

/-- A firmware transfer starts at once where no descriptor waits and one is open, and waits otherwise. -/
theorem descEnqueue_idle {q : DescWait} {s : State} (hs : s.fm.descQueue = []) :
    descEnqueue q s = descStart q s ∨ descEnqueue q s = setFm (fun m => { m with descQueue := [q] }) s := by
  have hq : setFm (fun m => { m with descQueue := m.descQueue ++ [q] }) s = setFm (fun m => { m with descQueue := [q] }) s := by
    rw [setFm, setFm, hs, List.nil_append]
  have hback : setFm (fun m => { m with descQueue := m.descQueue.erase q }) (setFm (fun m => { m with descQueue := [q] }) s) = s := by
    have hm : ({ s.fm with descQueue := [] } : Fm) = s.fm := by rw [← hs]
    simp only [setFm, List.erase_cons_head, hm]
  rw [descEnqueue, hq, releaseAll, show (setFm (fun m => { m with descQueue := [q] }) s).fm.descQueue.length = 1 from rfl, descRelease]
  split
  · exact .inr rfl
  · rename_i q' hfound
    have hq' : q' = q := by
      have hmem := List.mem_of_find?_eq_some hfound
      simp only [setFm, List.mem_append, List.mem_filter, List.mem_singleton] at hmem
      exact hmem.elim (·.1) (·.1)
    subst hq'
    rw [hback]
    exact .inl rfl

/-- What asking for a firmware transfer changes. -/
structure AsksOnly (s t : State) : Prop where
  frame : ∃ xs n qs, t = { s with fm := { s.fm with xfers := xs, nextXfer := n, descQueue := qs } }

/-- A firmware transfer of these pieces is under way or waits. -/
def AskedFor (t : State) (sk dk : DmaKind) (job : Option Nat) (cs : List Chunk) : Prop :=
  (∃ x ∈ t.fm.xfers, x.fw = true ∧ x.srcKind = sk ∧ x.dstKind = dk ∧ x.job = job ∧ x.chunks = cs) ∨
  ∃ q ∈ t.fm.descQueue, q.o.srcKind = sk ∧ q.o.dstKind = dk ∧ q.job = job ∧ q.fw = cs

/-- The transfer of a firmware descriptor. -/
def fwXfer (f : Nat) (sk dk : DmaKind) (job : Option Nat) (cs : List Chunk) : Xfer :=
  { id := 0, field := f, mid := 2 ^ 32, tc := false, srcKind := sk, src := 0, srcStride := 0, dstKind := dk, dst := 0
    dstStride := 0, rowLen := 0, chunks := cs, sigObj := 0, sigN := 0, epoch := 0, registered := false, gather := false, head := none
    link := 0, chip := 0, tag := 0, whole := true, cls := .scheduled, run := 0, fw := true, mcls := .service, job := job }

theorem descStart_fw {f : Nat} {sk dk : DmaKind} {job : Option Nat} {cs : List Chunk} {s : State} (hc : cs ≠ []) (hdk : dk ≠ .peer)
    (hd : sk ≠ .dram ∧ dk ≠ .dram ∨ polderUp s pDram = true) :
    descStart { fwWait f sk dk cs with job := job } s = addXfer (fwXfer f sk dk job cs) s := by
  have hne : cs.isEmpty = false := by simpa using hc
  unfold descStart
  extract_lets w o s1 t
  have hs1 : s1 = s := by
    unfold s1
    rcases hd with ⟨h1, h2⟩ | hup
    · exact if_neg (by simp [w, o, fwWait, h1, h2])
    · rw [needDram_up hup, ite_self]
  have hchunks : t.chunks = cs := if_neg (by simp [w, fwWait, hne])
  have ht : t = fwXfer f sk dk job cs := by
    have hfw : t.fw = true := by simp [t, w, fwWait, hne]
    exact congrArg₂ (fun a b => ({ fwXfer f sk dk job cs with chunks := a, fw := b } : Xfer)) hchunks hfw
  rw [if_neg (by simpa [o, w, fwWait] using hdk), hs1, hchunks, hne, ht]
  rfl

/-- A firmware transfer that is asked for changes nothing but the transfers. -/
theorem descEnqueue_fw {f : Nat} {sk dk : DmaKind} {job : Option Nat} {cs : List Chunk} {s : State} (hs : s.fm.descQueue = []) (hc : cs ≠ [])
    (hdk : dk ≠ .peer) (hd : sk ≠ .dram ∧ dk ≠ .dram ∨ polderUp s pDram = true) :
    AsksOnly s (descEnqueue { fwWait f sk dk cs with job := job } s) ∧ AskedFor (descEnqueue { fwWait f sk dk cs with job := job } s) sk dk job cs := by
  rcases descEnqueue_idle (q := { fwWait f sk dk cs with job := job }) hs with hr | hr
  · rw [hr, descStart_fw hc hdk hd]
    exact ⟨⟨_, _, _, rfl⟩, .inl ⟨_, List.mem_append_right _ (List.mem_singleton_self _), rfl, rfl, rfl, rfl, rfl⟩⟩
  · rw [hr]
    exact ⟨⟨_, _, _, rfl⟩, .inr ⟨_, List.mem_singleton_self _, rfl, rfl, rfl, rfl⟩⟩

/-- The firmware's writes into a field memory: every byte is asked for, and nothing else changes. -/
theorem fwWriteThen_asks {job : Option Nat} {f : Nat} {items : List (Nat × List Byte)} {s : State} (hs : s.fm.descQueue = [])
    (hc : writeChunks f items ≠ []) :
    AsksOnly s (fwWriteThen job f items s) ∧ AskedFor (fwWriteThen job f items s) .host .fieldMem job (writeChunks f items) := by
  have he : fwWriteThen job f items s = descEnqueue { fwWait f .host .fieldMem (writeChunks f items) with job := job } s :=
    if_neg (show ¬(writeChunks f items).isEmpty = true by simpa using hc)
  rw [he]
  exact descEnqueue_fw hs hc (by decide) (.inl ⟨by decide, by decide⟩)

theorem writeAsked_of_asked {t : State} {job : Option Nat} {f : Nat} {items : List (Nat × List Byte)}
    (h : AskedFor t .host .fieldMem job (writeChunks f items)) {e : Nat × List Byte} (he : e ∈ items) {k : Nat} (hk : k < e.2.length) :
    writeAsked t job (chipAddr f (e.1 + k)) (nth e.2 k 0) := by
  rcases h with ⟨x, hx, hfw, _, hdk, hj, hcs⟩ | ⟨q, hq, _, hdk, hj, hcs⟩
  · exact .inl ⟨x, hx, hfw, hdk, hj, hcs ▸ mem_writeChunks he hk⟩
  · exact .inr ⟨q, hq, hdk, hj, hcs ▸ mem_writeChunks he hk⟩

/-! ## The page table (R239, R243) -/

theorem foldl_tabDel {α : Type} (es : List Nat) (t : Tab α) : es.foldl (fun t e => tabDel t e) t = t.filter fun e => !es.contains e.1 := by
  induction es generalizing t with
  | nil => simp
  | cons e es ih =>
    rw [List.foldl_cons, ih, tabDel, List.filter_filter]
    refine List.filter_congr fun x _ => ?_
    by_cases h : x.1 = e <;> simp [h]

theorem tabFind_foldl_tabDel {α : Type} (es : List Nat) (t : Tab α) (i : Nat) :
    tabFind (es.foldl (fun t e => tabDel t e) t) i = if i ∈ es then none else tabFind t i := by
  induction es generalizing t with
  | nil => simp
  | cons e es ih =>
    rw [List.foldl_cons, ih]
    by_cases h : i = e
    · subst h; simp [tabFind_tabDel_self]
    · simp [h, tabFind_tabDel_ne t h]

/-- Entries of the page table are emptied. -/
theorem foldl_pagePut_empty (es : List Nat) (s : State) :
    DramCounts { s with kv := { s.kv with pages := es.foldl (fun t e => tabDel t e) s.kv.pages } } (es.foldl (fun t e => pagePut e {} t) s) := by
  induction es generalizing s with
  | nil => exact .refl s
  | cons e es ih =>
    have hput := pagePut_frame e {} s
    rw [if_pos rfl] at hput
    obtain ⟨er, i, x, c, d, h⟩ := hput.frame
    have hrest := ih (pagePut e {} s)
    rw [List.foldl_cons, List.foldl_cons]
    generalize es.foldl (fun t e => pagePut e {} t) (pagePut e {} s) = u at hrest ⊢
    obtain ⟨_, _, _, _, _, hu⟩ := hrest.frame
    rw [h] at hu
    exact ⟨_, _, _, _, _, hu⟩

/-! ## Choices among free slots (log 39) -/

theorem pickOne_mem {s : State} {tag : Nat} {xs : List Nat} (h : xs ≠ []) : ∃ x ∈ xs, pickOne s tag xs = some x := by
  have hlen : 0 < xs.length := List.length_pos_of_ne_nil h
  have hlt := Nat.mod_lt (Config.freeNat s.free tag) hlen
  refine ⟨xs[Config.freeNat s.free tag % xs.length], List.getElem_mem hlt, ?_⟩
  rw [pickOne, if_neg h, nth, List.getElem?_eq_getElem hlt]
  rfl

theorem length_filter_ne {xs : List Nat} (h : xs.Nodup) {x : Nat} (hx : x ∈ xs) : (xs.filter (· != x)).length + 1 = xs.length := by
  rw [← List.Nodup.erase_eq_filter h, List.length_erase_of_mem hx]
  have := List.length_pos_of_mem hx
  omega

/-- As many candidates as asked for are chosen, none twice. -/
theorem pickMany_spec (s : State) {n : Nat} (tag : Nat) {xs : List Nat} (hn : n ≤ xs.length) (hd : xs.Nodup) :
    (pickMany s n tag xs).length = n ∧ (pickMany s n tag xs).Nodup ∧ ∀ x ∈ pickMany s n tag xs, x ∈ xs := by
  induction n generalizing tag xs with
  | zero => simp [pickMany]
  | succ n ih =>
    obtain ⟨x, hx, hp⟩ := pickOne_mem (s := s) (tag := tag) (List.ne_nil_of_length_pos (Nat.lt_of_lt_of_le n.succ_pos hn))
    have hlen := length_filter_ne hd hx
    obtain ⟨hl, hnd, hsub⟩ := ih (tag + 1) (xs := xs.filter (· != x)) (by omega) (hd.filter _)
    have hout : x ∉ pickMany s n (tag + 1) (xs.filter (· != x)) := fun hin => by
      have := hsub x hin
      simp at this
    rw [pickMany, hp]
    refine ⟨by simp [hl], List.nodup_cons.mpr ⟨hout, hnd⟩, fun y hy => ?_⟩
    rcases List.mem_cons.mp hy with rfl | hy
    · exact hx
    · exact List.mem_of_mem_filter (hsub y hy)

/-- Enough layer slots are free. -/
theorem freeSlots_length (used : List Nat) {k : Nat} (h : used.length + k ≤ 1024) :
    k ≤ ((List.range 1024).filter fun n => !used.contains n).length := by
  have hsub : (List.range 1024).length ≤ ((List.range 1024).filter fun n => !used.contains n).length + used.length := by
    have hsplit := List.length_eq_length_filter_add (l := List.range 1024) fun n => used.contains n
    have hused : ((List.range 1024).filter fun n => used.contains n).length ≤ used.length :=
      (List.subperm_of_subset ((List.nodup_range (n := 1024)).filter _) fun x hx => by simpa using (List.mem_filter.mp hx).2).length_le
    omega
  rw [List.length_range] at hsub
  omega

/-! ## The bodies of the pool's rows -/

/-- One layer takes more tokens into its staging buffer. -/
theorem appendLayer_room {q n k : Nat} {s : State} (hk : 1 ≤ k) (hmax : (layerOf s (slotOf s q n)).length + k ≤ (tabGet {} s.kv.seqs q).maxPos + 1)
    (hf : (layerOf s (slotOf s q n)).flushing = false) (hlt : (layerOf s (slotOf s q n)).staged < 128) (hle : (layerOf s (slotOf s q n)).staged + k ≤ 128) :
    ∃ ls, appendLayer false q n k s = (.ok, setKv (fun v => { v with layers := ls }) s) ∧
      tabGet {} ls (slotOf s q n) = { length := (layerOf s (slotOf s q n)).length + k, staged := (layerOf s (slotOf s q n)).staged + k, flushing := decide ((layerOf s (slotOf s q n)).staged + k = 128) } ∧
      ∀ y, y ≠ slotOf s q n → tabGet {} ls y = layerOf s y := by
  generalize hx : slotOf s q n = x at *
  rw [appendLayer]
  dsimp only
  rw [hx, if_neg (by omega), if_neg (by omega), hf, if_neg (by decide), if_neg (by omega)]
  dsimp only
  rw [if_neg (by omega)]
  by_cases hfull : (layerOf s x).staged + k < 128
  · rw [if_pos hfull, decide_eq_false (by omega)]
    refine ⟨_, rfl, ?_, fun y hy => tabGet_tabSet_ne _ _ _ hy⟩
    rw [tabGet_tabSet_self]
    change KvLayer.mk ((layerOf s x).length + k) ((layerOf s x).staged + k) (layerOf s x).flushing = _
    rw [hf]
  · rw [if_neg hfull, if_neg (by decide), decide_eq_true (by omega)]
    refine ⟨_, rfl, ?_, fun y hy => (tabGet_tabSet_ne _ _ _ hy).trans (tabGet_tabSet_ne _ _ _ hy)⟩
    rw [tabGet_tabSet_self]
    change ({ tabGet {} (tabSet s.kv.layers x _) x with flushing := true } : KvLayer) = _
    rw [tabGet_tabSet_self]
    rfl

theorem kvAppend_room {c : Cmd} {s : State} (hopen : layerOpen s (seqField c) (fld c 21 16 0) = true) {t : State}
    (h : appendLayer false (seqField c) (fld c 21 16 0) (fld c 7 0 0) s = (.ok, t))
    (hlt : (layerOf s (slotOf s (seqField c) (fld c 21 16 0))).staged < 128) : bodyKvAppend c s = completeOk 0x0504 c 0 t := by
  rw [bodyKvAppend]
  dsimp only
  rw [hopen, if_neg (by decide), h]
  exact if_neg fun hc => absurd hc.2.2 (by omega)

/-- A refill that has work to do writes its ticket. -/
theorem kvRefill_hole {c : Cmd} {i : Nat} {s : State} (hseq : tabHas s.kv.seqs (seqField c) = true) (hlast : fld c 21 12 0 ≤ fld c 9 0 0)
    (hpin : pinnedSeq s (seqField c) = false) (hhole : nextHole s (seqField c) (fld c 21 12 0) (fld c 9 0 0) = some i) (hidle : s.kv.refill = none)
    (hjob : (jobOfClass s true (tabGet {} s.kv.seqs (seqField c)).refillJc).isSome = true) :
    bodyKvRefill c s = writeTicket (seqField c) i (fld c 9 0 0) (waitFor 0x0505 c (.refill (seqField c) (fld c 21 12 0) (fld c 9 0 0)) s) := by
  rw [bodyKvRefill]
  rw [if_neg (by simp [hseq, hlast]), hpin, if_neg (by decide), hhole]
  change (if s.kv.refill.isSome = true then _ else if _ then _ else _) = _
  rw [hidle, if_neg (by decide), if_neg (by simpa [Option.isSome_iff_ne_none] using hjob)]

/-- The ticket's 32 bytes. -/
def ticketBytes (s : State) (q i : Nat) : List Byte :=
  leBytes 32 (pack [(0, 64, holeMask s q i), (158, 10, i), (168, 8, q), (176, 16, (tabGet {} s.kv.seqs q).srcRec), (192, 64, (tabGet {} s.kv.seqs q).srcAddr)])

theorem ticketBytes_length (s : State) (q i : Nat) : (ticketBytes s q i).length = 32 := by simp [ticketBytes, leBytes]

/-- The DMA is asked for the ticket and to trigger its job behind it. -/
theorem writeTicket_asks {q i last j : Nat} {e : JobDesc} {s : State} (hs : s.fm.descQueue = [])
    (hjob : jobOfClass s true (tabGet {} s.kv.seqs q).refillJc = some (j, e)) :
    AsksOnly (setKv (fun k => { k with refill := some { seq := q, page := i, last := last, layerMask := BitVec.ofNat 64 (holeMask s q i), seen := (syncOf s e.tktObj).hits } }) s)
        (writeTicket q i last s) ∧
      ∀ k, k < 32 → writeAsked (writeTicket q i last s) (some j) (chipAddr e.stgField (e.tktAddr + k)) (nth (ticketBytes s q i) k 0) := by
  have hlen := ticketBytes_length s q i
  have hw : writeTicket q i last s = fwWriteThen (some j) e.stgField [(e.tktAddr, ticketBytes s q i)]
      (setKv (fun k => { k with refill := some { seq := q, page := i, last := last, layerMask := BitVec.ofNat 64 (holeMask s q i), seen := (syncOf s e.tktObj).hits } }) s) := by
    rw [writeTicket, hjob]
    rfl
  have hne : writeChunks e.stgField [(e.tktAddr, ticketBytes s q i)] ≠ [] := fun h0 => by
    obtain ⟨c, hc, _⟩ := mem_writeChunks (f := e.stgField) (List.mem_singleton_self (e.tktAddr, ticketBytes s q i)) (k := 0) (by simp [hlen])
    simp [h0] at hc
  rw [hw]
  obtain ⟨honly, hask⟩ := fwWriteThen_asks (job := some j) (f := e.stgField) (s := setKv (fun k => { k with
    refill := some { seq := q, page := i, last := last, layerMask := BitVec.ofNat 64 (holeMask s q i), seen := (syncOf s e.tktObj).hits } }) s) hs hne
  exact ⟨honly, fun k hk => writeAsked_of_asked hask (List.mem_singleton_self _) (by simpa [hlen] using hk)⟩

/-- KV_CLOSE gives back what its sequence holds. -/
theorem closeSeq_gives (c : Cmd) (q : Nat) (s : State) :
    DramCounts (completeOk 0x0503 c 0 (setKv (fun k => { k with
        seqs := tabDel k.seqs q
        layers := (tabGet {} s.kv.seqs q).slots.foldl (fun t n => tabDel t n) k.layers
        pages := ((tabGet {} s.kv.seqs q).slots.flatMap (slotEntries s)).foldl (fun t e => tabDel t e) k.pages })
      (finish (fun a => match a with | .append p _ _ => p == q | _ => false) .badParam 0 s))) (closeSeq c q s) := by
  obtain ⟨_, _, _, _, _, h⟩ := (foldl_pagePut_empty ((tabGet {} s.kv.seqs q).slots.flatMap (slotEntries s)) s).frame
  unfold closeSeq
  dsimp only
  rw [h, finish_eq, finish_eq]
  exact ⟨_, _, _, _, _, rfl⟩

/-- The sequence that KV_OPEN names, in its formats. -/
def openedSeq (c : Cmd) (kf qf : Fmt) : KvSeq :=
  { srcAddr := fld c 255 192 0, srcRec := fld c 191 176 0, stgAddr := fld c 175 153 0, stgField := fld c 152 149 0, refillJc := fld c 148 145 0
    pinned := fldB c 144 false, maxPos := fld c 143 127 0, compPages := fld c 126 117 0, kvFmt := kf, qFmt := qf, layers := fld c 103 98 0 + 1
    kvHeads := fld c 97 94 0 + 1, group := fld c 93 90 0 + 1, dHead := fld c 89 82 0 + 1 }

/-- The slots that a sequence of so many layers takes. -/
def takenSlots (s : State) (n : Nat) : List Nat := pickMany s n 1 ((List.range 1024).filter fun n => !(usedSlots s).contains n)

/-- KV_OPEN of a sequence that fits: the handle and the slots that it takes. -/
theorem kvOpen_fits {c : Cmd} {q : KvSeq} {s : State} (hpool : s.kv.pool.isSome = true) (hk : fmtOf (fld c 111 108 0) = some q.kvFmt)
    (hq : fmtOf (fld c 107 104 0) = some q.qFmt) (hc : q = openedSeq c q.kvFmt q.qFmt)
    (hd : 16 ≤ q.dHead) (hd16 : q.dHead % 16 = 0) (hkf : kvFormat q.kvFmt = true)
    (hsrc : q.pinned = true ∨ q.srcAddr % 64 = 0 ∧ 8 ≤ q.srcRec ∧ q.srcRec ≤ 4096 ∧ q.srcRec % 8 = 0 ∧ q.refillJc ≠ 0 ∧
      sourceLogOk s q.srcAddr (q.srcRec * (q.maxPos + 1)) = true ∧ (jobOfClass s true q.refillJc).isSome = true)
    (hstg : q.stgAddr % 64 = 0) (hpage : seqPage q ≤ 2 ^ 20) (hin : inStaging s q.stgField q.stgAddr (q.layers * seqPage q) = true)
    (hused : (usedSlots s).length + q.layers ≤ 1024) (hprom : promotes q.qFmt q.kvFmt = true)
    (hcomp : q.compPages = 0 ∨ promotes q.qFmt .mxfp4 = true ∧ q.dHead % 32 = 0) (hroom : pageGranules (seqPage q) ≤ freeGranules s)
    {h : Nat} (hpick : pickOne s 0 ((List.range 256).filter fun n => !tabHas s.kv.seqs n) = some h) :
    bodyKvOpen c s = respond 0x0502 c ((takenSlots s q.layers).flatMap (leBytes 2)) h (draw (setKv (fun k => { k with
        seqs := tabSet k.seqs h { q with slots := takenSlots s q.layers }
        layers := (takenSlots s q.layers).foldl (fun t n => tabDel t n) k.layers }) s)) := by
  obtain ⟨p, hp⟩ := Option.isSome_iff_exists.mp hpool
  generalize q.kvFmt = kf, q.qFmt = qf at *
  subst hc
  unfold bodyKvOpen
  rw [hp, hk, hq]
  have hbadSrc : (!(openedSeq c kf qf).pinned && ((openedSeq c kf qf).srcAddr % 64 != 0 ||
      decide ((openedSeq c kf qf).srcRec < 8 ∨ 4096 < (openedSeq c kf qf).srcRec) || (openedSeq c kf qf).srcRec % 8 != 0 ||
      (openedSeq c kf qf).refillJc == 0 || !sourceLogOk s (openedSeq c kf qf).srcAddr ((openedSeq c kf qf).srcRec * ((openedSeq c kf qf).maxPos + 1)))) = false := by
    rcases hsrc with hpin | ⟨h1, h2, h3, h4, h5, h6, _⟩
    · simp [hpin]
    · simp [h1, h4, h5, h6]
      omega
  have hbadSize : (true && (decide (2 ^ 20 < seqPage (openedSeq c kf qf)) ||
      !inStaging s (openedSeq c kf qf).stgField (openedSeq c kf qf).stgAddr ((openedSeq c kf qf).layers * seqPage (openedSeq c kf qf)))) = false := by
    rw [decide_eq_false (by omega), hin]
    rfl
  have hnoJob : ¬((!(openedSeq c kf qf).pinned) = true ∧ (jobOfClass s true (openedSeq c kf qf).refillJc).isNone = true) := by
    rcases hsrc with hpin | ⟨_, _, _, _, _, _, hj⟩
    · simp [hpin]
    · obtain ⟨x, hx⟩ := Option.isSome_iff_exists.mp hj
      simp [hx]
  refine (if_neg ?_).trans ((if_neg ?_).trans ?_)
  · rintro (h1 | h1 | h1 | h1 | h1 | h1 | h1)
    · exact absurd h1 (by exact Nat.not_lt.mpr hd)
    · exact h1 hd16
    · simp [hkf] at h1
    · exact Bool.false_ne_true (hbadSrc.symm.trans h1)
    · exact h1 hstg
    · exact Bool.false_ne_true (hbadSize.symm.trans h1)
    · exact absurd h1 (Nat.not_lt.mpr hused)
  · rintro (h1 | h1 | ⟨h1, h2⟩)
    · simp at h1
    · simp [hprom] at h1
    · rcases hcomp with h0 | ⟨h3, h4⟩
      · exact h1 h0
      · rcases h2 with h2 | h2
        · simp [h3] at h2
        · exact h2 h4
  · extract_lets handles
    rw [show pickOne s 0 handles = some h from hpick]
    refine (if_neg ?_).trans (if_neg ?_)
    · exact hnoJob
    · exact fun hfull => absurd hfull.1 (Nat.not_lt.mpr hroom)

/-- Settles O39: each command of the pool through the lemma of its body. -/
theorem poolCommands : Obligations.PoolCommands := by
  refine ⟨fun c s h hseqs ha hlo hhi heven hbud hbase htop hup hwf => ?_,
    fun c q s h hpool hk hq hc hd hd16 hkf hsrc hstg hpage hin hused hprom hcomp hfree hroom => ?_, fun c s h hseq hreq href hup => ?_,
    fun c q n k x s h hqf hn hk hx hopen hk1 hmax hf hlt hle => ?_, fun c s h hseq hlast hdone => ?_,
    fun c i j e s h hseq hlast hpin hhole hidle hdesc hjob => ?_, fun c p s h hp => ?_⟩
  · have hexec := exec_row_runs (i := .kvPoolSetup c) rfl rfl h
    have hbody : bodyKvPoolSetup c (slotTaken c s) = poolClear c (fld c 127 64 0) (fld c 63 48 0) (fld c 47 32 8) (slotTaken c s) := by
      have hseqs' : (slotTaken c s).kv.seqs = [] := by cases s; exact hseqs
      have hup' : polderUp (slotTaken c s) pDram = true := by cases s; exact hup
      have hu : usableBytes (slotTaken c s) = usableBytes s := by cases s; rfl
      have hkr : kvRegion (slotTaken c s) = kvRegion s := by cases s; rfl
      rw [bodyKvPoolSetup, hseqs', if_neg (by simp), if_neg (by omega), hu, hkr, if_neg (by omega), dramGo, needDram_up hup', if_pos hup']
    rw [hbody] at hexec
    refine ⟨_, hexec, by cases s; rfl, fun a => ?_, by cases s; rfl⟩
    refine Eq.trans ?_ (memRead_memClear _ _ _ _ _ hwf)
    cases s; rfl
  · have hexec := exec_row_runs (i := .kvOpen c) rfl rfl h
    obtain ⟨n, hn, hnfree⟩ := hfree
    obtain ⟨hd', hmem, hpick⟩ := pickOne_mem (s := slotTaken c s) (tag := 0) (xs := (List.range 256).filter fun n => !tabHas s.kv.seqs n)
      (List.ne_nil_of_mem (List.mem_filter.mpr ⟨List.mem_range.mpr hn, by simp [hnfree]⟩))
    obtain ⟨hlt, hnew⟩ := List.mem_filter.mp hmem
    have htaken : slotTaken c s = { s with mbx := (slotTaken c s).mbx } := by cases s; rfl
    have hbody := kvOpen_fits (c := c) (q := q) (s := slotTaken c s) (h := hd') (by rw [htaken]; exact hpool) hk hq hc hd hd16 hkf
      (by rw [htaken]; exact hsrc) hstg hpage (by rw [htaken]; exact hin) (by rw [htaken]; exact hused) hprom hcomp (by rw [htaken]; exact hroom)
      (by rw [← hpick, htaken])
    obtain ⟨hlen, hnodup, hsub⟩ := pickMany_spec (slotTaken c s) (n := q.layers) 1 (freeSlots_length (usedSlots s) hused) ((List.nodup_range (n := 1024)).filter _)
    have hslots : takenSlots (slotTaken c s) q.layers =
        pickMany (slotTaken c s) q.layers 1 ((List.range 1024).filter fun n => !(usedSlots s).contains n) := by cases s; rfl
    rw [hbody, hslots] at hexec
    generalize pickMany (slotTaken c s) q.layers 1 ((List.range 1024).filter fun n => !(usedSlots s).contains n) = xs at *
    refine ⟨_, hd', xs, hexec, List.mem_range.mp hlt, by simpa [htaken] using hnew, hlen, hnodup, fun x hx => ?_, ?_, fun n hn => ?_, fun x hx => ?_, ?_⟩
    · obtain ⟨hr, hu⟩ := List.mem_filter.mp (hsub x hx)
      refine ⟨List.mem_range.mp hr, by simpa using hu, ?_⟩
      refine (tabFind_foldl_tabDel xs s.kv.layers x).trans (if_pos hx)
    · exact tabFind_tabSet_self _ _ _
    · exact tabFind_tabSet_ne _ _ hn
    · exact (tabFind_foldl_tabDel xs s.kv.layers x).trans (if_neg hx)
    · cases s; rfl
  · have hexec := exec_row_runs (i := .kvClose c) rfl rfl h
    have htaken : slotTaken c s = { s with mbx := (slotTaken c s).mbx } := by cases s; rfl
    have hup' : polderUp (slotTaken c s) pDram = true := by rw [htaken]; exact hup
    have hbody : bodyKvClose c (slotTaken c s) = closeSeq c (seqField c) (slotTaken c s) := by
      have hreq' : seqRequested (slotTaken c s) (seqField c) = false := by rw [htaken]; exact hreq
      rw [bodyKvClose, dramGo, needDram_up hup', if_pos hup']
      refine (if_neg ?_).trans (if_neg ?_)
      · rw [htaken, hseq]; decide
      · rw [hreq', Bool.false_or]
        rw [htaken]
        dsimp only
        cases hr : s.kv.refill with
        | none => simp
        | some r => simpa using href r hr
    have hwaits : (slotTaken c s).mbx.waits = s.mbx.waits := by cases s; rfl
    have hdue : (slotTaken c s).mbx.due = s.mbx.due := by cases s; rfl
    rw [hbody] at hexec
    obtain ⟨er, i, x, ct, d, hgive⟩ := (closeSeq_gives c (seqField c) (slotTaken c s)).frame
    rw [hgive, finish_eq] at hexec
    have hentry : ∀ e, e ∈ (tabGet {} s.kv.seqs (seqField c)).slots.flatMap (slotEntries s) ↔
        e / 1024 ∈ (tabGet {} s.kv.seqs (seqField c)).slots ∧ e ∈ s.kv.pages.map Prod.fst := fun e => by
      simp only [slotEntries, List.mem_flatMap, List.mem_map, List.mem_filter, beq_iff_eq]
      constructor
      · rintro ⟨x, hx, p, ⟨hp, hpx⟩, rfl⟩
        exact ⟨hpx ▸ hx, p, hp, rfl⟩
      · rintro ⟨hx, p, hp, rfl⟩
        exact ⟨_, hx, p, ⟨hp, rfl⟩, rfl⟩
    refine ⟨_, hexec, tabFind_tabDel_self _ _, fun n hn => tabFind_tabDel_ne _ hn, fun x hx => ⟨?_, ?_⟩, fun e he => ?_, ?_, fun e he => ?_, ?_,
      fun w hw hout => ?_, ?_⟩
    · change (((((tabGet {} s.kv.seqs (seqField c)).slots.flatMap (slotEntries s)).foldl (fun t e => tabDel t e) s.kv.pages).filter
        fun e => e.1 / 1024 == x).map Prod.fst) = []
      rw [foldl_tabDel, List.filter_filter, List.map_eq_nil_iff, List.filter_eq_nil_iff]
      intro e he
      have hin : e.1 / 1024 = x → e.1 ∈ (tabGet {} s.kv.seqs (seqField c)).slots.flatMap (slotEntries s) := fun hex =>
        (hentry _).mpr ⟨hex ▸ hx, List.mem_map_of_mem he⟩
      simp only [Bool.and_eq_true, beq_iff_eq, Bool.not_eq_true', not_and]
      intro hex
      simp only [List.contains_iff_mem.mpr (hin hex), Bool.true_eq_false, not_false_eq_true]
    · exact (tabFind_foldl_tabDel _ s.kv.layers x).trans (if_pos hx)
    · change tabGet {} (((tabGet {} s.kv.seqs (seqField c)).slots.flatMap (slotEntries s)).foldl (fun t e => tabDel t e) s.kv.pages) e = tabGet {} s.kv.pages e
      rw [tabGet_eq, tabFind_foldl_tabDel, if_neg fun hin => he ((hentry e).mp hin).1, tabGet_eq]
    · exact List.getLast?_concat
    · exact List.mem_append_left _ (List.mem_append_left _ (hdue ▸ he))
    · change List.filter _ (slotTaken c s).mbx.waits = _
      rw [hwaits]
      refine List.filter_congr fun w _ => ?_
      cases w.act <;> rfl
    · refine List.mem_append_left _ (List.mem_append_right _ (List.mem_map.mpr ⟨w, List.mem_filter.mpr ⟨hwaits ▸ hw, ?_⟩, rfl⟩))
      by_contra hno
      exact hout (List.mem_filter.mpr ⟨hwaits ▸ hw, by simpa using hno⟩)
    · cases s; rfl
  · have hexec := exec_row_runs (i := .kvAppend c) rfl rfl h
    have htaken : slotTaken c s = { s with mbx := (slotTaken c s).mbx } := by cases s; rfl
    subst hqf hn hk hx
    obtain ⟨ls, happ, hself, hother⟩ := appendLayer_room (q := seqField c) (n := fld c 21 16 0) (s := slotTaken c s) hk1
      (by rw [htaken]; exact hmax) (by rw [htaken]; exact hf) (by rw [htaken]; exact hlt) (by rw [htaken]; exact hle)
    rw [kvAppend_room (by rw [htaken]; exact hopen) happ (by rw [htaken]; exact hlt)] at hexec
    refine ⟨_, hexec, ?_, fun y hy => ?_, by cases s; rfl⟩
    · rw [htaken] at hself; exact hself
    · rw [htaken] at hother; exact hother y hy
  · have hexec := exec_row_runs (i := .kvRefill c) rfl rfl h
    have htaken : slotTaken c s = { s with mbx := (slotTaken c s).mbx } := by cases s; rfl
    refine hexec.trans (congrArg Host.Outcome.next ?_)
    rw [← completeOk_taken]
    refine (if_neg ?_).trans ?_
    · rw [htaken]; simp [hseq, hlast]
    · by_cases hpin : pinnedSeq (slotTaken c s) (seqField c) = true
      · exact if_pos hpin
      · refine (if_neg hpin).trans ?_
        have hpin' : ¬pinnedSeq s (seqField c) = true := by rw [htaken] at hpin; exact hpin
        have hno : nextHole (slotTaken c s) (seqField c) (fld c 21 12 0) (fld c 9 0 0) = none := by
          rw [htaken]; exact hdone.resolve_left hpin'
        rw [hno]
  · have hexec := exec_row_runs (i := .kvRefill c) rfl rfl h
    have htaken : slotTaken c s = { s with mbx := (slotTaken c s).mbx } := by cases s; rfl
    have hm : ∀ m : Mbx, jobOfClass { s with mbx := m } true (tabGet {} s.kv.seqs (seqField c)).refillJc = some (j, e) := fun m => hjob
    rw [kvRefill_hole (by rw [htaken]; exact hseq) hlast (by rw [htaken]; exact hpin) (by rw [htaken]; exact hhole) (by rw [htaken]; exact hidle)
      (by rw [htaken]; rw [hm]; rfl), waitFor_taken] at hexec
    obtain ⟨honly, hask⟩ := writeTicket_asks (q := seqField c) (i := i) (last := fld c 9 0 0) (s := waitsNow 0x0505 c (.refill (seqField c) (fld c 21 12 0) (fld c 9 0 0)) s) hdesc hjob
    obtain ⟨xs, n, qs, hf⟩ := honly.frame
    refine ⟨_, _, hexec, by rw [hf]; rfl, rfl, rfl, rfl, rfl, rfl, hask, ?_⟩
    rw [hf]
    rfl
  · have hexec := exec_row_runs (i := .kvStatus c) rfl rfl h
    have htaken : slotTaken c s = { s with mbx := (slotTaken c s).mbx } := by cases s; rfl
    have hp' : (slotTaken c s).kv.pool = some p := by rw [htaken]; exact hp
    rw [bodyKvStatus, hp'] at hexec
    refine ⟨_, hexec.trans (congrArg Host.Outcome.next ((if_neg (by simp)).trans (respond_taken _ _ _ _ _))), ?_⟩
    have hfree : freeGranules (slotTaken c s) = freeGranules s := by rw [htaken]; rfl
    rw [hfree, List.take_append_of_le_length (by simp [leBytes]), List.take_of_length_le (by simp [leBytes])]

end Sys2Proof.Machine
end

section
/-! PROOFS. The store (O15): reads and what they count (R339), the page buffer (R341), programs and their bytes (R340), spread counters (R356 to R360), NV_READ, NV_STATUS and NV_CTR. -/

namespace Sys2Proof.Machine
open Sys2Proof Sys2Proof.Safety

/-! ## Reads of the store, and what they count (R339) -/

/-- Only counters and the interrupts that they raise change. -/
structure CountsOnly (s t : State) : Prop where
  frame : ∃ e i x c, t = { s with
    mbx := { s.mbx with errSum := e, intStatus := i, msix := x }
    ctr := c }

namespace CountsOnly

variable {s t u : State}

theorem refl (s : State) : CountsOnly s s := ⟨_, _, _, _, rfl⟩

theorem trans (h : CountsOnly s t) (k : CountsOnly t u) : CountsOnly s u := by
  obtain ⟨_, _, _, _, rfl⟩ := h
  obtain ⟨_, _, _, _, rfl⟩ := k
  exact ⟨_, _, _, _, rfl⟩

theorem foldl {α : Type} {g : State → α → State} (hg : ∀ t x, CountsOnly t (g t x)) (xs : List α) (s : State) :
    CountsOnly s (xs.foldl g s) := by
  induction xs generalizing s with
  | nil => exact .refl s
  | cons x xs ih => exact (hg s x).trans (ih _)

theorem ctrSet (h : CountsOnly s t) (o : Nat) (w : W32) : CountsOnly s (ctrSet o w t) := by
  obtain ⟨_, _, _, _, rfl⟩ := h
  exact ⟨_, _, _, _, rfl⟩

theorem nv_eq (h : CountsOnly s t) : t.nv = s.nv := by obtain ⟨_, _, _, _, rfl⟩ := h; rfl

end CountsOnly

theorem bump_countsOnly (off : Nat) (s : State) : CountsOnly s (bump off s) := by
  obtain ⟨m, c, h⟩ := bumpBy_eq off 1 s
  have hm := bumpBy_counts off 1 s
  rw [bump, h] at *
  exact ⟨_, _, _, _, congrArg (fun m => { s with mbx := m, ctr := c }) hm⟩

theorem nvCheckGroup_countsOnly (s : State) (g : Nat) : CountsOnly s (nvCheckGroup s g) := by
  unfold nvCheckGroup
  split
  · exact .refl s
  · exact (bump_countsOnly cNvCe s).ctrSet _ _
  · exact (bump_countsOnly cNvUe s).ctrSet _ _

theorem nvCheck_countsOnly (a n : Nat) (s : State) : CountsOnly s (nvCheck a n s) := .foldl nvCheckGroup_countsOnly _ s

theorem nvCheckGroup_clean {s : State} {g : Nat} (h : nvGroup s g = 0) : nvCheckGroup s g = s := by simp only [nvCheckGroup, h]

theorem foldl_nvCheckGroup_clean {s : State} (h : ∀ g, nvGroup s g = 0) (gs : List Nat) : gs.foldl nvCheckGroup s = s := by
  induction gs with
  | nil => rfl
  | cons g gs ih => rw [List.foldl_cons, nvCheckGroup_clean (h g), ih]

/-! ## The page buffer (R341) -/

theorem nvPump_empty (n : Nat) {s : State} (h : s.nv.queue = []) : nvPump n s = s := by
  cases n with
  | zero => rfl
  | succ n => rw [nvPump, h]

/-- The one write in the page buffer begins when its plane is idle. -/
theorem nvPump_one {n : Nat} {w : NvProg} {s : State} (hn : 0 < n) (h : s.nv.queue = [w]) (hp : tabHas s.nv.planes (planeOf w.page) = false)
    (hs : s.nv.storing = none) :
    nvPump n s = setNv (fun v => { v with queue := [], planes := tabSet v.planes (planeOf w.page) w }) s := by
  obtain ⟨n, rfl⟩ := Nat.exists_eq_add_one_of_ne_zero hn.ne'
  rw [nvPump, h]
  refine (if_neg ?_).trans (nvPump_empty n rfl)
  simp [hp, hs]

/-- A page program that is asked for in an idle store begins. -/
theorem nvSubmit_idle {page : Nat} {bytes : List (Nat × Byte)} {s : State} (hs : s.nv.storing = none) (hp : s.nv.planes = [])
    (hq : s.nv.queue = []) : nvSubmit page bytes s = { s with nv := programming s s.nv.nextSeq page bytes } := by
  have hone := nvPump_one (n := 2048) (w := { seq := s.nv.nextSeq, page := page, bytes := bytes }) (s := setNv (fun v => { v with
    queue := v.queue ++ [{ seq := v.nextSeq, page := page, bytes := bytes }], nextSeq := v.nextSeq + 1 }) s) (by decide) (by simp [setNv, hq])
    (by simp [setNv, hp, tabHas]) hs
  rw [nvSubmit, hone]
  simp only [setNv, hp, tabSet, programming, ← hq]

/-! ## Counter writes (R356 to R360) -/

theorem ctrGoAll_idle {s : State} (h : s.nv.ctrQ = []) : ctrGoAll s = s := by
  rw [ctrGoAll, h, List.length_nil, ctrGo]
  refine ite_eq_left_iff.mpr fun _ => ?_
  rw [h]

theorem ctrScan_clean {s : State} (h : ∀ g, nvGroup s g = 0) (n : Nat) : ctrScan n s = s := nvCheck_clean h _ _

/-- A counter write that is asked for in an idle store begins with the program of its cell. -/
theorem ctrAsk_idle {op : CtrOp} {i v g : Nat} {s : State} (hidle : StoreIdle s) (hcell : spreadCell s op.n = some (i, v, g))
    (hclean : ∀ g, nvGroup s g = 0) (hnew : op.raise.isSome = true → v < ctrNew s op v) (hmax : ctrNew s op v < 2 ^ 40) :
    ctrAsk [op] s = { s with nv := { programming s s.nv.nextSeq (256 + 2 * op.n + (i + 1) % 64 / 32)
        (placed (cellAddr op.n ((i + 1) % 64)) (cellBytes (ctrNew s op v) ((g + 1) % 65535))) with
      ctrRun := some { op := op, cell := (i + 1) % 64, value := ctrNew s op v, gen := (g + 1) % 65535, progs := [s.nv.nextSeq] } } } := by
  obtain ⟨hpf, hst, hpl, hq, hrq, hrr, hcq, hcr, hen⟩ := hidle
  have hgo : ctrGoAll (setNv (fun v => { v with ctrQ := [op] }) s) =
      ctrCell { op := op, cell := (i + 1) % 64, value := ctrNew s op v, gen := (g + 1) % 65535 } s := by
    have hback : setNv (fun v => { v with ctrQ := [] }) (setNv (fun v => { v with ctrQ := [op] }) s) = s := by
      have hm : ({ s.nv with ctrQ := [] } : Nv) = s.nv := by rw [← hcq]
      simp only [setNv, hm]
    have hcell' : spreadCell (setNv (fun v => { v with ctrQ := [op] }) s) op.n = some (i, v, g) := hcell
    have hnew' : ctrNew (setNv (fun v => { v with ctrQ := [op] }) s) op v = ctrNew s op v := rfl
    rw [ctrGoAll, show (setNv (fun v => { v with ctrQ := [op] }) s).nv.ctrQ = [op] from rfl, ctrGo]
    refine (if_neg (by simp [setNv, hpf, hcr])).trans ?_
    rw [show (setNv (fun v => { v with ctrQ := [op] }) s).nv.ctrQ = [op] from rfl]
    dsimp only
    rw [hcell', hback, ctrScan_clean hclean]
    dsimp only
    rw [hnew']
    refine (if_neg ?_).trans (if_neg (by omega))
    simp only [Bool.and_eq_true, decide_eq_true_eq, not_and, not_le]
    exact hnew
  have hask : setNv (fun v => { v with ctrQ := v.ctrQ ++ [op] }) s = setNv (fun v => { v with ctrQ := [op] }) s := by
    simp only [setNv, hcq, List.nil_append]
  rw [ctrAsk, hask, hgo, ctrCell, nvSubmit_idle (by exact hst) (by exact hpl) (by exact hq)]
  rfl

/-! ## What a program leaves in the cells (R340) -/

/-- The byte that a program leaves at an address: the last one that it writes there. -/
def lastWrite (bs : List (Nat × Byte)) (a : Nat) (old : Byte) : Byte :=
  match bs.reverse.find? (fun b => b.1 == a) with | some b => b.2 | none => old

theorem lastWrite_cons (b : Nat × Byte) (bs : List (Nat × Byte)) (a : Nat) (old : Byte) :
    lastWrite (b :: bs) a old = lastWrite bs a (if b.1 = a then b.2 else old) := by
  rw [lastWrite, lastWrite, List.reverse_cons, List.find?_append]
  cases h : bs.reverse.find? (fun b => b.1 == a) with
  | some x => rfl
  | none =>
    rw [Option.none_or]
    by_cases hb : b.1 = a
    · rw [List.find?_cons_of_pos (by simpa using hb), if_pos hb]
    · rw [List.find?_cons_of_neg (by simpa using hb), if_neg hb, List.find?_nil]

theorem foldl_memWrite_wf (d : Byte) (bs : List (Nat × Byte)) {m : Mem} (h : memWf d m = true) :
    memWf d (bs.foldl (fun m b => memWrite d m b.1 b.2) m) = true :=
  List.foldlRecOn (motive := fun m => memWf d m = true) _ _ h fun _ hm b _ => memWf_memWrite b.1 b.2 hm

theorem memRead_foldl_lastWrite (d : Byte) (bs : List (Nat × Byte)) {m : Mem} (h : memWf d m = true) (a : Nat) :
    memRead d (bs.foldl (fun m b => memWrite d m b.1 b.2) m) a = lastWrite bs a (memRead d m a) := by
  induction bs generalizing m with
  | nil => rfl
  | cons b bs ih =>
    rw [List.foldl_cons, ih (memWf_memWrite b.1 b.2 h), lastWrite_cons]
    by_cases hb : b.1 = a
    · rw [if_pos hb, ← hb, memRead_memWrite_self d m _ _ h]
    · rw [if_neg hb, memRead_memWrite_ne d m _ h fun e => hb e.symm]

theorem lastWrite_out {bs : List (Nat × Byte)} {a : Nat} (h : ∀ b ∈ bs, b.1 ≠ a) (old : Byte) : lastWrite bs a old = old := by
  have hnone : bs.reverse.find? (fun b => b.1 == a) = none :=
    List.find?_eq_none.mpr fun b hb => by simpa using h b (List.mem_reverse.mp hb)
  rw [lastWrite, hnone]

theorem lastWrite_placed_in {a j : Nat} {bs : List Byte} (hj : j < bs.length) (old : Byte) : lastWrite (placed a bs) (a + j) old = nth bs j 0 := by
  induction bs generalizing a j old with
  | nil => simp at hj
  | cons b bs ih =>
    rw [placed_cons, lastWrite_cons]
    cases j with
    | zero =>
      rw [if_pos (by simp), lastWrite_out fun c hc he => ?_]
      · rfl
      · obtain ⟨hlo, _⟩ := mem_placed (x := c.1) (v := c.2) hc
        omega
    | succ j =>
      rw [show a + (j + 1) = a + 1 + j by omega, ih (by simpa using hj)]
      rfl

theorem lastWrite_placed_out {a x : Nat} {bs : List Byte} (h : x < a ∨ a + bs.length ≤ x) (old : Byte) : lastWrite (placed a bs) x old = old :=
  lastWrite_out (fun b hb he => by
    obtain ⟨hlo, hhi⟩ := mem_placed (x := b.1) (v := b.2) hb
    omega) old

/-- A program of the store: the reads that its merges make count, the cells take its bytes, and its groups are right. -/
theorem nvPut_eq (bs : List (Nat × Byte)) (s : State) : ∃ t, CountsOnly s t ∧ nvPut bs s = setNv (fun v => { v with
    mem := bs.foldl (fun m b => memWrite 0xFF#8 m b.1 b.2) v.mem
    flips := v.flips.filter fun e => !((bs.map fun b => b.1 / 8).eraseDups).contains e.1 }) t :=
  ⟨_, .foldl nvCheckGroup_countsOnly (nvMergeGroups bs) s, rfl⟩

theorem nvPut_clean {bs : List (Nat × Byte)} {s : State} (h : ∀ g, nvGroup s g = 0) : nvPut bs s = setNv (fun v => { v with
    mem := bs.foldl (fun m b => memWrite 0xFF#8 m b.1 b.2) v.mem
    flips := v.flips.filter fun e => !((bs.map fun b => b.1 / 8).eraseDups).contains e.1 }) s := by
  rw [nvPut, foldl_nvCheckGroup_clean h]

theorem nvPut_byte (bs : List (Nat × Byte)) {s : State} (h : memWf 0xFF#8 s.nv.mem = true) (a : Nat) :
    nvByte (nvPut bs s) a = lastWrite bs a (nvByte s a) := by
  obtain ⟨t, ht, he⟩ := nvPut_eq bs s
  have hm : t.nv.mem = s.nv.mem := by rw [ht.nv_eq]
  rw [nvByte, he, setNv_nv, memRead_foldl_lastWrite _ _ (by rw [hm]; exact h), hm, nvByte]

theorem nvPut_group (bs : List (Nat × Byte)) (s : State) (g : Nat) :
    nvGroup (nvPut bs s) g = if g ∈ bs.map (fun b => b.1 / 8) then 0 else nvGroup s g := by
  obtain ⟨t, ht, he⟩ := nvPut_eq bs s
  rw [nvGroup, he, setNv_nv, tabGet_filter 0 fun k => !((bs.map fun b => b.1 / 8).eraseDups).contains k, ht.nv_eq]
  generalize bs.map (fun b => b.1 / 8) = gs
  by_cases hg : g ∈ gs
  · simp [hg]
  · simp [hg, nvGroup]

theorem nvPut_wf (bs : List (Nat × Byte)) {s : State} (h : memWf 0xFF#8 s.nv.mem = true) : memWf 0xFF#8 (nvPut bs s).nv.mem = true := by
  obtain ⟨t, ht, he⟩ := nvPut_eq bs s
  rw [he, setNv_nv]
  exact foldl_memWrite_wf _ _ (by rw [ht.nv_eq]; exact h)

/-! ## Cells of the spread counters (R356 to R358) -/

theorem cellBytes_length (v g : Nat) : (cellBytes v g).length = 8 := by simp [cellBytes]

/-- A cell that holds the bytes of a value reads it. -/
theorem cellRaw_written {s : State} {n i v g : Nat} (hb : nvBytes s (cellAddr n i) 8 = cellBytes v g) (hgr : nvGroup s (cellAddr n i / 8) ≠ 2)
    (hg : g < 65535) (hv : v < 2 ^ 40) : cellRaw s n i = some (v, g) := by
  have hx : leNat (cellBytes v g) = (crc8 (leBytes 7 (g + v * 2 ^ 16))).toNat + 256 * (g + v * 2 ^ 16) := by
    rw [cellBytes, leNat, leNat_leBytes, Nat.mod_eq_of_lt (by omega)]
  have hc : (crc8 (leBytes 7 (g + v * 2 ^ 16))).toNat < 256 := (crc8 _).isLt
  have h1 : bitsN (leNat (cellBytes v g)) 23 8 = g := by
    rw [hx, bitsN, Nat.shiftRight_eq_div_pow]
    omega
  have h2 : bitsN (leNat (cellBytes v g)) 63 24 = v := by
    rw [hx, bitsN, Nat.shiftRight_eq_div_pow]
    omega
  rw [cellRaw, hb, h1, h2, if_neg (by simpa using hgr), if_neg (by simp [cellBytes, nth]), if_neg (by omega)]

/-- A cell's reading is a matter of its bytes and its group. -/
theorem cellRaw_congr {s t : State} {n i : Nat} (hb : nvBytes t (cellAddr n i) 8 = nvBytes s (cellAddr n i) 8)
    (hg : nvGroup t (cellAddr n i / 8) = nvGroup s (cellAddr n i / 8)) : cellRaw t n i = cellRaw s n i := by
  rw [cellRaw, cellRaw, hb, hg]

theorem cellRaw_of_valid {s : State} {n i : Nat} {r : Nat × Nat} (h : cellValid s n i = some r) : cellRaw s n i = some r := by
  unfold cellValid at h
  split at h
  · cases h
  · rename_i v g hr
    split at h
    · rw [hr, h]
    · split at h
      · rw [hr, h]
      · cases h

/-- The choice between the best cell so far and the next one (R358). -/
def betterCell (s : State) (n : Nat) (best : Option (Nat × Nat × Nat)) (i : Nat) : Option (Nat × Nat × Nat) :=
  match cellValid s n i, best with
  | none, b => b
  | some (v, g), none => some (i, v, g)
  | some (v, g), some (j, w, h) => if w < v then some (i, v, g) else some (j, w, h)

theorem spreadCell_eq (s : State) (n : Nat) : spreadCell s n = (List.range 64).foldl (betterCell s n) none := rfl

/-- The current cell of a counter is a valid one. -/
theorem spreadCell_valid {s : State} {n i v g : Nat} (h : spreadCell s n = some (i, v, g)) : cellValid s n i = some (v, g) ∧ i < 64 := by
  have hinv : ∀ i v g, spreadCell s n = some (i, v, g) → cellValid s n i = some (v, g) ∧ i < 64 := by
    rw [spreadCell_eq]
    refine List.foldlRecOn (motive := fun b => ∀ i v g, b = some (i, v, g) → cellValid s n i = some (v, g) ∧ i < 64) _ _ (fun _ _ _ h => nomatch h)
      fun b hb j hj i v g h => ?_
    have hj' := List.mem_range.mp hj
    cases hv : cellValid s n j with
    | none =>
      simp only [betterCell, hv] at h
      exact hb _ _ _ h
    | some r =>
      cases b with
      | none =>
        simp only [betterCell, hv, Option.some.injEq, Prod.mk.injEq] at h
        obtain ⟨rfl, rfl, rfl⟩ := h
        exact ⟨hv, hj'⟩
      | some c =>
        simp only [betterCell, hv] at h
        split at h
        · simp only [Option.some.injEq, Prod.mk.injEq] at h
          obtain ⟨rfl, rfl, rfl⟩ := h
          exact ⟨hv, hj'⟩
        · exact hb _ _ _ h
  exact hinv i v g h

theorem foldl_betterCell_stays {s : State} {n i v g : Nat} {xs : List Nat} (h : ∀ j ∈ xs, ∀ r, cellValid s n j = some r → r.1 ≤ v) :
    xs.foldl (betterCell s n) (some (i, v, g)) = some (i, v, g) := by
  refine List.foldlRecOn (motive := fun b => b = some (i, v, g)) _ _ rfl fun b hb j hj => ?_
  subst hb
  cases hv : cellValid s n j with
  | none => simp only [betterCell, hv]
  | some r =>
    have hle := h j hj r hv
    simp only [betterCell, hv]
    exact if_neg (by omega)

/-- A valid cell with a value above all the others is the current one. -/
theorem spreadCell_max {s : State} {n i v g : Nat} (hi : i < 64) (hv : cellValid s n i = some (v, g))
    (h : ∀ j, j < 64 → j ≠ i → ∀ r, cellValid s n j = some r → r.1 < v) : spreadCell s n = some (i, v, g) := by
  have hfold : ∀ (xs : List Nat) (b : Option (Nat × Nat × Nat)), i ∈ xs → (∀ j ∈ xs, j < 64) → (∀ c, b = some c → c.2.1 < v) →
      xs.foldl (betterCell s n) b = some (i, v, g) := fun xs => by
    induction xs with
    | nil => simp
    | cons j xs ih =>
      intro b hin hlt hb
      rw [List.foldl_cons]
      by_cases hj : j = i
      · subst hj
        have hnow : betterCell s n b j = some (j, v, g) := by
          cases b with
          | none => simp only [betterCell, hv]
          | some c =>
            simp only [betterCell, hv]
            exact if_pos (hb c rfl)
        rw [hnow]
        refine foldl_betterCell_stays fun k hk r hr => ?_
        by_cases hki : k = j
        · subst hki
          rw [hv] at hr
          cases hr
          exact Nat.le_refl _
        · exact (h k (hlt k (List.mem_cons_of_mem _ hk)) hki r hr).le
      · refine ih _ ((List.mem_cons.mp hin).resolve_left (Ne.symm hj)) (fun k hk => hlt k (List.mem_cons_of_mem _ hk)) fun c hc => ?_
        cases hvj : cellValid s n j with
        | none =>
          simp only [betterCell, hvj] at hc
          exact hb c hc
        | some r =>
          have hr := h j (hlt j List.mem_cons_self) hj r hvj
          cases b with
          | none =>
            simp only [betterCell, hvj, Option.some.injEq] at hc
            subst hc
            exact hr
          | some d =>
            simp only [betterCell, hvj] at hc
            split at hc
            · cases hc
              exact hr
            · exact hb c hc
  exact hfold _ _ (List.mem_range.mpr hi) (fun j hj => List.mem_range.mp hj) (fun _ h => nomatch h)

/-! ## The end of a program that nothing else waits for (R340 to R342) -/

theorem finish_none {p : PendAct → Bool} {s : State} (st : Status) (d : Nat) (h : ∀ w ∈ s.mbx.waits, p w.act = false) : finish p st d s = s := by
  have h1 : (s.mbx.waits.filter fun w => p w.act) = [] := by simpa using h
  have h2 : (s.mbx.waits.filter fun w => !p w.act) = s.mbx.waits := List.filter_eq_self.mpr fun w hw => by rw [h w hw]; rfl
  rw [finish_eq, setMbx, h1, h2, List.map_nil, List.append_nil]

theorem nvServeReads_none {s : State} (h : ∀ w ∈ s.mbx.waits, ∀ x l a, w.act ≠ .nvRead x l a) : nvServeReads s = s := by
  rw [nvServeReads]
  refine List.foldlRecOn (motive := fun t => t = s) _ _ rfl fun t ht w hw => ?_
  subst ht
  split
  · rename_i x l a hact
    exact absurd hact (h w hw x l a)
  · rfl

/-- The cells take a program, and its plane is idle. -/
def programEnded (p : Nat) (w : NvProg) (s : State) : State :=
  setNv (fun v => { v with
    planes := tabDel v.planes p
    mem := w.bytes.foldl (fun m b => memWrite 0xFF#8 m b.1 b.2) v.mem
    flips := v.flips.filter fun e => !((w.bytes.map fun b => b.1 / 8).eraseDups).contains e.1
    wear := v.wear + 1
    recRun := v.recRun.map fun x => { x with left := x.left.erase w.seq } }) s

/-- A program without faults ends in a store without wrong bits, and no command waits for it or for its page. -/
theorem nvProgramEnd_quiet {p : Nat} {w : NvProg} {s : State} (hw : tabFind s.nv.planes p = some w) (hclean : ∀ g, nvGroup s g = 0)
    (hpf : s.nv.powerFail = false) (hwait : ∀ x ∈ s.mbx.waits, (x.act == .nvWrite w.seq) = false)
    (hread : ∀ x ∈ s.mbx.waits, ∀ h l a, x.act ≠ .nvRead h l a) :
    nvProgramEnd { plane := p } s =
      ctrGoAll (wearTick (enrolProgram w.seq (ctrProgram w.seq (nvPump 2048 (programEnded p w s))))) := by
  have hput := nvPut_clean (bs := w.bytes) (s := setNv (fun v => { v with planes := tabDel v.planes p }) s) hclean
  have hs2 : setNv (fun v => { v with recRun := v.recRun.map fun x => { x with left := x.left.erase w.seq } })
      (nvFaulty w.page [] (nvWear 1 (nvPut w.bytes (setNv (fun v => { v with planes := tabDel v.planes p }) s)))) = programEnded p w s := by
    rw [hput]
    simp only [programEnded, nvFaulty, nvWear, setNv, List.foldl_nil]
  have hfin : finish (· == .nvWrite w.seq) .ok 0 (nvFaulty w.page [] (nvWear 1 (nvPut w.bytes (setNv (fun v => { v with planes := tabDel v.planes p }) s)))) =
      nvFaulty w.page [] (nvWear 1 (nvPut w.bytes (setNv (fun v => { v with planes := tabDel v.planes p }) s))) :=
    finish_none .ok 0 fun x hx => hwait x (by rw [hput] at hx; exact hx)
  rw [nvProgramEnd, hw]
  dsimp only
  rw [hfin, hs2, nvServeReads_none (s := programEnded p w s) hread, hpf]
  exact if_neg (by decide)

/-! ## A counter's cell after its program (R357 to R359) -/

/-- The store with one cell of a counter programmed. -/
structure CellWritten (s t : State) (n i v g : Nat) : Prop where
  byte : ∀ a, nvByte t a = lastWrite (placed (cellAddr n i) (cellBytes v g)) a (nvByte s a)
  clean : ∀ k, nvGroup t k = 0

theorem nvBytes_congr {s t : State} {a n : Nat} (h : ∀ k, k < n → nvByte t (a + k) = nvByte s (a + k)) : nvBytes t a n = nvBytes s a n :=
  List.map_congr_left fun k hk => h k (List.mem_range.mp hk)

theorem nvBytes_placed {t : State} {a : Nat} {bs : List Byte} (h : ∀ k, k < bs.length → nvByte t (a + k) = nth bs k 0) :
    nvBytes t a bs.length = bs := by
  refine List.ext_getElem (by simp [nvBytes, memReadN]) fun k h1 h2 => ?_
  have hk := h k h2
  rw [nth, List.getElem?_eq_getElem h2, Option.getD_some] at hk
  simpa [nvBytes, memReadN, nvByte] using hk

namespace CellWritten

variable {s t : State} {n i v g : Nat}

theorem raw_self (h : CellWritten s t n i v g) (hg : g < 65535) (hv : v < 2 ^ 40) : cellRaw t n i = some (v, g) := by
  refine cellRaw_written ?_ (by rw [h.clean]; decide) hg hv
  have hlen := cellBytes_length v g
  have hb := nvBytes_placed (t := t) (a := cellAddr n i) (bs := cellBytes v g) fun k hk => by rw [h.byte, lastWrite_placed_in hk]
  rwa [hlen] at hb

theorem raw_ne (h : CellWritten s t n i v g) (hs : ∀ k, nvGroup s k = 0) {j : Nat} (hj : j ≠ i) : cellRaw t n j = cellRaw s n j := by
  refine cellRaw_congr (nvBytes_congr fun k hk => ?_) (by rw [h.clean, hs])
  rw [h.byte, lastWrite_placed_out]
  rw [cellBytes_length, cellAddr, cellAddr]
  omega

/-- The cell after the current one holds the next value: it is valid, and the current one. -/
theorem current (h : CellWritten s t n i v g) (hs : ∀ k, nvGroup s k = 0) {j w e : Nat} (hcur : spreadCell s n = some (j, w, e))
    (hall : ∀ k r, k < 64 → cellRaw s n k = some r → r.1 ≤ w) (hi : i = (j + 1) % 64) (hv : v = w + 1) (hg : g = (e + 1) % 65535) (hv40 : v < 2 ^ 40) :
    cellValid t n i = some (v, g) ∧ spreadCell t n = some (i, v, g) := by
  obtain ⟨hval, hj⟩ := spreadCell_valid hcur
  have hraw := h.raw_self (by omega) hv40
  have hpred : (i + 63) % 64 = j := by omega
  have hprev : cellRaw t n j = some (w, e) := by rw [h.raw_ne hs (by omega), cellRaw_of_valid hval]
  have hvalid : cellValid t n i = some (v, g) := by
    rw [cellValid, hraw]
    simp only [hpred, hprev]
    exact if_pos hg.symm
  refine ⟨hvalid, spreadCell_max (by omega) hvalid fun k hk hki r hr => ?_⟩
  have hold := cellRaw_of_valid hr
  rw [h.raw_ne hs hki] at hold
  have := hall k r hk hold
  omega

end CellWritten

theorem programEnded_byte {p : Nat} {w : NvProg} {s : State} (h : memWf 0xFF#8 s.nv.mem = true) (a : Nat) :
    nvByte (programEnded p w s) a = lastWrite w.bytes a (nvByte s a) := memRead_foldl_lastWrite _ _ h a

theorem programEnded_clean {p : Nat} {w : NvProg} {s : State} (h : ∀ g, nvGroup s g = 0) (g : Nat) : nvGroup (programEnded p w s) g = 0 := by
  refine (tabGet_filter 0 (fun k => !((w.bytes.map fun b => b.1 / 8).eraseDups).contains k) s.nv.flips g).trans ?_
  rw [show tabGet 0 s.nv.flips g = 0 from h g, ite_self]

/-- The write of a user counter ends as its cell reads back. -/
theorem ctrProgram_verified {x : CtrRun} {seq : Nat} {s : State} (hx : s.nv.ctrRun = some x) (hp : x.progs = [seq]) (hr : x.rebuild = false)
    (hclean : ∀ g, nvGroup s g = 0) (hv : cellValid s x.op.n x.cell = some (x.value, x.gen)) :
    ctrProgram seq s = ctrGoAll (ctrEnd x.op .ok (setNv (fun v => { v with ctrRun := none }) s)) := by
  rw [ctrProgram, hx]
  dsimp only
  rw [hp, if_neg (by simp), List.erase_cons_head, hr, nvCheck_clean hclean, hv]
  rw [if_neg (by simp), if_neg (by decide), if_pos (by simp)]

theorem wearTick_low {s : State} (h : s.nv.wear < 4096) : wearTick s = s := if_pos (by simp [h])

theorem enrolProgram_none {s : State} (seq : Nat) (h : s.nv.enrol = none) : enrolProgram seq s = s := by simp only [enrolProgram, h]

/-! ## Reading the store into host memory (R342) -/

theorem groupsOf_length_le (a n : Nat) : (groupsOf a n).length ≤ n + 1 := by
  unfold groupsOf
  split
  · simp
  · rw [List.length_map, List.length_range]
    omega

/-- NV_READ of a range that no plane programs. -/
theorem nvReadDone_spec {c : Cmd} {host len a : Nat} {s : State} (hlen : len ≤ 4096) (hwf : memWf 0 s.host = true) :
    ∃ t d, nvReadDone c host len a (slotTaken c s) = t ∧ bitsN d 31 0 = ((nvGroups s a len).filter fun g => nvGroup s g == 2).length ∧
      (∀ k, k < len → memRead 0 t.host (host + k) = nvReadByte s (a + k)) ∧
      (∀ x, (x < host ∨ host + len ≤ x) → memRead 0 t.host x = memRead 0 s.host x) ∧
      t.mbx.due = s.mbx.due ++ [completionOf 0x0601 c .ok d] ∧ t.mbx.own = s.mbx.own ||| slotBit c ∧
      t = { s with mbx := t.mbx, host := t.host, ctr := t.ctr } ∧
      ((∀ g, nvGroup s g = 0) → t = { completed 0x0601 c .ok d s with host := t.host }) := by
  have hdata : ((List.range len).map fun i => nvReadByte (slotTaken c s) (a + i)) = (List.range len).map fun i => nvReadByte s (a + i) := by cases s; rfl
  have hgs : nvGroups (slotTaken c s) a len = nvGroups s a len := by cases s; rfl
  have hbad : ((nvGroups s a len).filter fun g => nvGroup (slotTaken c s) g == 2) = (nvGroups s a len).filter fun g => nvGroup s g == 2 := by cases s; rfl
  have hcount : ((nvGroups s a len).filter fun g => nvGroup s g == 2).length < 2 ^ 32 := by
    have h1 := List.length_filter_le (fun g => nvGroup s g == 2) (nvGroups s a len)
    have h2 := List.length_filter_le (fun g => !inImage s (8 * g)) (groupsOf a len)
    have h3 := groupsOf_length_le a len
    rw [nvGroups] at *
    omega
  obtain ⟨er, i, x, ctr, hcheck⟩ := (CountsOnly.foldl nvCheckGroup_countsOnly (nvGroups s a len) (slotTaken c s)).frame
  rw [nvReadDone, hdata, hgs, hbad]
  dsimp only
  have hhost : ∀ t : State, t.host = s.host → (∀ k, k < len → memRead 0 (hostWrite host ((List.range len).map fun i => nvReadByte s (a + i)) t).host (host + k) = nvReadByte s (a + k)) ∧
      ∀ x, (x < host ∨ host + len ≤ x) → memRead 0 (hostWrite host ((List.range len).map fun i => nvReadByte s (a + i)) t).host x = memRead 0 s.host x := fun t ht => by
    rw [hostWrite, ht]
    refine ⟨fun k hk => ?_, fun x hx => memRead_memWriteN_out _ _ _ _ _ hwf (by simpa using hx)⟩
    refine (memRead_memWriteN_in 0 _ s.host host k hwf (by simpa using hk)).trans ?_
    exact nth_map_range _ 0 hk
  obtain ⟨hin, hout⟩ := hhost ((nvGroups s a len).foldl nvCheckGroup (slotTaken c s)) (by rw [hcheck]; cases s; rfl)
  generalize ((nvGroups s a len).filter fun g => nvGroup s g == 2) = bad at hcount ⊢
  refine ⟨_, pack [(0, 32, bad.length), (32, 32, 8 * nth bad 0 0)], rfl, bitsN_pack_field [] [(32, 32, 8 * nth bad 0 0)] (pack_nil_lt 0) hcount rfl (by decide) (by simp), hin, hout, ?_, ?_, ?_, fun hclean => ?_⟩
  · rw [hcheck]; cases s; rfl
  · rw [hcheck]; cases s; rfl
  · rw [hcheck]; cases s; rfl
  · have hclean' : ∀ g, nvGroup (slotTaken c s) g = 0 := by cases s; exact hclean
    rw [foldl_nvCheckGroup_clean hclean']
    cases s; rfl

/-- A counter write that its command waits for ends well. -/
theorem ctrEnd_ok {op : CtrOp} {k : Nat} {s : State} (hw : op.wait = some k) (hl : op.last = true) (hr : op.raise = none) (hq : s.nv.ctrQ = []) :
    ctrEnd op .ok s = finish (· == .nvWrite k) .ok (ctrData s op.n) s := by
  have hback : setNv (fun v => { v with ctrQ := v.ctrQ.filter fun x => x.wait != some k }) s = s := by
    have hm : ({ s.nv with ctrQ := [] } : Nv) = s.nv := by rw [← hq]
    simp only [setNv, hq, List.filter_nil, hm]
  simp only [ctrEnd, hw, hl, hr, hback]
  rfl

/-- With no counter write waiting, no enrolment and no wear due, the end of a program ends there. -/
theorem programEnd_settles {s : State} (seq : Nat) (hq : s.nv.ctrQ = []) (hen : s.nv.enrol = none) (hwear : s.nv.wear < 4096) :
    ctrGoAll (wearTick (enrolProgram seq s)) = s := by
  rw [enrolProgram_none seq hen, wearTick_low hwear, ctrGoAll_idle hq]

/-- The one command that waits for a write completes. -/
theorem finish_one {p : PendAct → Bool} {w : Wait} {s : State} (st : Status) (d : Nat) (hw : s.mbx.waits = [w]) (hp : p w.act = true) :
    finish p st d s = setMbx (fun m => { m with waits := [], due := m.due ++ [completionOf w.opcode w.cmd st d] }) s := by
  rw [finish_eq, setMbx, hw]
  simp only [List.filter_cons, hp]
  rfl

/-- Settles O15: reads and counters of the store, each through the lemma of its body. -/
theorem storeReadsAndCounters : Obligations.StoreReadsAndCounters := by
  refine ⟨fun c s h hlo hhi htop hw hwf => ?_, fun c s h hlo hhi htop hw => ?_, fun c s h => ?_, fun c s h hinc => ?_,
    fun c s i v g h hinc hlo hhi hidle hcell hmax hclean => ?_, fun s i v g hfe hidle hcell hmax hclean => ?_,
    fun p k x w c s i v g hlo hhi hcell hall hop hxc hxv hxg hmax hreb hprogs hne hpf hrun hq hen hp hbytes hclean hwf hwear hwaits => ?_⟩
  · have hexec := exec_row_runs (i := .nvRead c) rfl rfl h
    have hw' : nvReadWaits (slotTaken c s) (fld c 18 0 0) (fld c 44 32 0) = false := by cases s; exact hw
    rw [show bodyNvRead c (slotTaken c s) = nvReadDone c (fld c 127 64 0) (fld c 44 32 0) (fld c 18 0 0) (slotTaken c s) from
      (if_neg (by omega)).trans (if_neg (by simp [hw']))] at hexec
    obtain ⟨t, d, he, hrest⟩ := nvReadDone_spec (c := c) (host := fld c 127 64 0) (a := fld c 18 0 0) hhi hwf
    exact ⟨t, d, he ▸ hexec, hrest⟩
  · have hw' : nvReadWaits (slotTaken c s) (fld c 18 0 0) (fld c 44 32 0) = true := by cases s; exact hw
    rw [exec_row_runs (i := .nvRead c) rfl rfl h]
    exact congrArg Host.Outcome.next (((if_neg (by omega)).trans (if_pos hw')).trans (waitFor_taken _ _ _ _))
  · rw [exec_row_runs (i := .nvStatus c) rfl rfl h]
    refine congrArg Host.Outcome.next ((respond_taken _ _ _ _ _).trans ?_)
    cases s; rfl
  · have hexec := exec_row_runs (i := .nvCtr c) rfl rfl h
    rw [show bodyNvCtr c (slotTaken c s) = completeOk 0x0604 c (ctrData (slotTaken c s) (fld c 3 0 0)) (ctrScan (fld c 3 0 0) (slotTaken c s)) from
      if_pos (by simp [hinc])] at hexec
    obtain ⟨er, e, x, ctr, hcheck⟩ := (nvCheck_countsOnly (cellAddr (fld c 3 0 0) 0) 512 (slotTaken c s)).frame
    have hdata : ctrData (slotTaken c s) (fld c 3 0 0) = ctrData s (fld c 3 0 0) := by cases s; rfl
    rw [hdata] at hexec
    refine ⟨_, hexec, ?_, ?_, ?_, fun hclean => ?_⟩
    · rw [ctrScan, hcheck]; cases s; rfl
    · rw [ctrScan, hcheck]; cases s; rfl
    · rw [ctrScan, hcheck]; cases s; rfl
    · have hclean' : ∀ g, nvGroup (slotTaken c s) g = 0 := by cases s; exact hclean
      rw [ctrScan_clean hclean']; cases s; rfl
  · have hidle' : StoreIdle (nvHeld 0x0604 c (slotTaken c s)) := by cases s; exact hidle
    have hask := ctrAsk_idle (op := { n := fld c 3 0 0, wait := some s.nv.nextSeq }) (i := i) (v := v) (g := g) hidle' (by cases s; exact hcell)
      (by cases s; exact hclean) (by simp) (by exact hmax)
    have hpf : (slotTaken c s).nv.powerFail = false := by cases s; exact hidle.1
    rw [exec_row_runs (i := .nvCtr c) rfl rfl h]
    refine congrArg Host.Outcome.next ((((if_neg (by simp [hinc])).trans (if_neg (by omega))).trans (if_neg (by simp [hpf]))).trans ?_)
    refine Eq.trans ?_ (hask.trans ?_)
    · cases s; rfl
    · cases s; rfl
  · have hask := ctrAsk_idle (op := { n := 4 }) hidle hcell hclean (by simp) (by exact hmax)
    refine congrArg Host.Outcome.next ((if_pos ?_).trans hask)
    rw [hfe, hidle.1]; rfl
  · have hexec : exec (.nvProgramEnd { plane := p }) s = .next (nvProgramEnd { plane := p } s) := rfl
    have hact : ∀ y ∈ s.mbx.waits, y.act = .nvWrite k := by simp [hwaits]
    have hquiet := nvProgramEnd_quiet hp hclean hpf (fun y hy => by rw [hact y hy]; simpa using hne) (fun y hy _ _ _ => by rw [hact y hy]; nofun)
    obtain ⟨qs, ps, hpump⟩ := nvPump_frame 2048 (programEnded p w s)
    have hwritten : CellWritten s (nvPump 2048 (programEnded p w s)) x.op.n x.cell x.value x.gen := by
      rw [hpump]
      refine ⟨fun a => ?_, programEnded_clean (p := p) hclean⟩
      rw [← hbytes]
      exact programEnded_byte (p := p) hwf a
    obtain ⟨hvalid, hcur⟩ := hwritten.current hclean hcell (fun j r hj => hall j r hj) hxc hxv hxg (by omega)
    have hprog := ctrProgram_verified (seq := w.seq) (s := nvPump 2048 (programEnded p w s)) (by rw [hpump]; exact hrun) hprogs hreb hwritten.clean hvalid
    have hdone := finish_one (p := (· == .nvWrite k)) (w := { cmd := c, opcode := 0x0604, act := .nvWrite k })
      (s := setNv (fun v => { v with ctrRun := none }) (nvPump 2048 (programEnded p w s))) .ok
      (ctrData (setNv (fun v => { v with ctrRun := none }) (nvPump 2048 (programEnded p w s))) x.op.n) (by rw [hpump]; exact hwaits) (by simp)
    have hdata : ctrData (setNv (fun v => { v with ctrRun := none }) (nvPump 2048 (programEnded p w s))) x.op.n = pack [(0, 40, v + 1), (40, 16, x.gen)] := by
      have hcur' : spreadCell (setNv (fun v => { v with ctrRun := none }) (nvPump 2048 (programEnded p w s))) x.op.n = some (x.cell, x.value, x.gen) := hcur
      rw [ctrData, hcur', hxv]
    have hend := ctrEnd_ok (op := x.op) (k := k) (s := setNv (fun v => { v with ctrRun := none }) (nvPump 2048 (programEnded p w s)))
      (by rw [hop]) (by rw [hop]) (by rw [hop]) (by rw [hpump]; exact hq)
    rw [hdone, hdata] at hend
    have hended := hprog.trans ((congrArg ctrGoAll hend).trans (ctrGoAll_idle (by rw [hpump]; exact hq)))
    rw [hquiet, hended, programEnd_settles w.seq (by rw [hpump]; exact hq) (by rw [hpump]; exact hen)
      (by rw [hpump]; exact Nat.succ_lt_succ hwear)] at hexec
    refine ⟨_, hexec, ?_, rfl, rfl, ⟨completionOf 0x0604 c .ok (pack [(0, 40, v + 1), (40, 16, x.gen)]), ?_, rfl, rfl, rfl, rfl⟩, ?_⟩
    · rw [← hxv]; exact hcur
    · rw [hpump]; rfl
    · rw [hpump]; rfl

end Sys2Proof.Machine
end

section
/-! PROOFS. Native writes of the store (O16): what goes on behind the end of a program, and the host's writes into the page buffer (R340 to R342, R345). -/

namespace Sys2Proof.Machine
open Sys2Proof Sys2Proof.Safety

/-! ## What goes on in the store behind an end (R341, R342, R353, R359) -/

/-- Commands of the store complete and programs begin: the cells, the records and the image stay, no command joins those that wait, and every
completion that is due stays due. -/
structure Progress (s t : State) : Prop where
  frame : ∃ m h c wear qs ps n cq cr, t = { s with
    mbx := m
    host := h
    ctr := c
    nv := { s.nv with wear := wear, queue := qs, planes := ps, nextSeq := n, ctrQ := cq, ctrRun := cr } }
  waits : ∀ w ∈ t.mbx.waits, w ∈ s.mbx.waits
  due : ∀ e ∈ s.mbx.due, e ∈ t.mbx.due
  quiet : s.mbx.waits = [] → t.mbx.waits = [] ∧ t.mbx.due = s.mbx.due ∧ t.host = s.host

namespace Progress

variable {s t u : State}

theorem refl (s : State) : Progress s s := ⟨⟨_, _, _, _, _, _, _, _, _, rfl⟩, fun _ h => h, fun _ h => h, fun h => ⟨h, rfl, rfl⟩⟩

theorem trans (h : Progress s t) (k : Progress t u) : Progress s u := by
  refine ⟨?_, fun w hw => h.waits w (k.waits w hw), fun e he => k.due e (h.due e he), fun hq => ?_⟩
  · obtain ⟨_, _, _, _, _, _, _, _, _, rfl⟩ := h.frame
    obtain ⟨_, _, _, _, _, _, _, _, _, rfl⟩ := k.frame
    exact ⟨_, _, _, _, _, _, _, _, _, rfl⟩
  · obtain ⟨h1, h2, h3⟩ := h.quiet hq
    obtain ⟨k1, k2, k3⟩ := k.quiet h1
    exact ⟨k1, k2.trans h2, k3.trans h3⟩

theorem ite {c : Prop} [Decidable c] (h : Progress s t) (k : Progress s u) : Progress s (if c then t else u) := by
  split
  · exact h
  · exact k

theorem foldl {α : Type} {g : State → α → State} (hg : ∀ t x, Progress t (g t x)) (xs : List α) (s : State) : Progress s (xs.foldl g s) := by
  induction xs generalizing s with
  | nil => exact .refl s
  | cons x xs ih => exact (hg s x).trans (ih _)

/-- A step of the store that leaves the mailbox and host memory. -/
theorem of_nv (h : ∃ wear qs ps n cq cr, t = { s with
    nv := { s.nv with wear := wear, queue := qs, planes := ps, nextSeq := n, ctrQ := cq, ctrRun := cr } }) : Progress s t := by
  obtain ⟨_, _, _, _, _, _, rfl⟩ := h
  exact ⟨⟨_, _, _, _, _, _, _, _, _, rfl⟩, fun _ h => h, fun _ h => h, fun h => ⟨h, rfl, rfl⟩⟩

end Progress

theorem CountsOnly.progress {s t : State} (h : CountsOnly s t) : Progress s t := by
  obtain ⟨_, _, _, _, rfl⟩ := h
  exact ⟨⟨_, _, _, _, _, _, _, _, _, rfl⟩, fun _ h => h, fun _ h => h, fun h => ⟨h, rfl, rfl⟩⟩

theorem finish_progress (p : PendAct → Bool) (st : Status) (d : Nat) (s : State) : Progress s (finish p st d s) := by
  rw [finish_eq]
  refine ⟨⟨_, _, _, _, _, _, _, _, _, rfl⟩, fun w hw => List.mem_of_mem_filter hw, fun e he => List.mem_append_left _ he, fun h => ?_⟩
  simp [setMbx, h]

theorem nvPump_progress (n : Nat) (s : State) : Progress s (nvPump n s) := by
  obtain ⟨q, p, h⟩ := nvPump_frame n s
  exact .of_nv ⟨_, q, p, _, _, _, h⟩

theorem nvSubmit_progress (page : Nat) (bytes : List (Nat × Byte)) (s : State) : Progress s (nvSubmit page bytes s) := by
  obtain ⟨q, p, n, h⟩ := nvSubmit_frame page bytes s
  exact .of_nv ⟨_, q, p, n, _, _, h⟩

/-- What serving reads does, apart from whether there are any. -/
structure ReadsServed (s t : State) : Prop where
  frame : ∃ m h c, t = { s with mbx := m, host := h, ctr := c }
  waits : ∀ w ∈ t.mbx.waits, w ∈ s.mbx.waits
  due : ∀ e ∈ s.mbx.due, e ∈ t.mbx.due

theorem nvReadDone_served (w : Wait) (x l a : Nat) (s : State) :
    ReadsServed s (nvReadDone w.cmd x l a (setMbx (fun m => { m with waits := m.waits.erase w }) s)) := by
  obtain ⟨_, _, _, _, hc⟩ := (CountsOnly.foldl nvCheckGroup_countsOnly (nvGroups s a l) (setMbx (fun m => { m with waits := m.waits.erase w }) s)).frame
  have hdone : ∃ bs d, nvReadDone w.cmd x l a (setMbx (fun m => { m with waits := m.waits.erase w }) s) =
      completeOk 0x0601 w.cmd d (hostWrite x bs ((nvGroups s a l).foldl nvCheckGroup (setMbx (fun m => { m with waits := m.waits.erase w }) s))) :=
    ⟨_, _, rfl⟩
  obtain ⟨bs, d, hd⟩ := hdone
  rw [hd, hc]
  exact ⟨⟨_, _, _, rfl⟩, fun v hv => List.mem_of_mem_erase hv, fun e he => List.mem_append_left _ he⟩

theorem nvServeReads_served (s : State) : ReadsServed s (nvServeReads s) := by
  unfold nvServeReads
  refine List.foldlRecOn (motive := fun t => ReadsServed s t) _ _ ⟨⟨_, _, _, rfl⟩, fun _ h => h, fun _ h => h⟩ fun t ht w _ => ?_
  split
  · split
    · exact ht
    · rename_i x l a _ _
      have hs := nvReadDone_served w x l a t
      refine ⟨?_, fun v hv => ht.waits v (hs.waits v hv), fun e he => hs.due e (ht.due e he)⟩
      obtain ⟨_, _, _, h⟩ := hs.frame
      rw [h]
      obtain ⟨_, _, _, rfl⟩ := ht.frame
      exact ⟨_, _, _, rfl⟩
  · exact ht

theorem nvServeReads_progress (s : State) : Progress s (nvServeReads s) := by
  obtain ⟨⟨_, _, _, hf⟩, hw, hd⟩ := nvServeReads_served s
  refine ⟨⟨_, _, _, _, _, _, _, _, _, hf⟩, hw, hd, fun h => ?_⟩
  rw [nvServeReads_none (by simp [h])]
  exact ⟨h, rfl, rfl⟩

theorem ctrEnd_progress (op : CtrOp) (st : Status) (s : State) : Progress s (ctrEnd op st s) := by
  unfold ctrEnd
  split
  · exact .refl s
  · exact .ite (Progress.trans (.of_nv ⟨_, _, _, _, _, _, rfl⟩) (finish_progress _ _ _ _)) (.refl s)

theorem ctrCell_progress (x : CtrRun) (s : State) : Progress s (ctrCell x s) :=
  Progress.trans (.of_nv ⟨_, _, _, _, _, _, rfl⟩) (nvSubmit_progress _ _ _)

theorem ctrRebuild_progress (op : CtrOp) (s : State) : Progress s (ctrRebuild op s) :=
  (Progress.trans (.of_nv ⟨_, _, _, _, _, _, rfl⟩) (nvSubmit_progress _ _ _)).trans (nvSubmit_progress _ _ _)

theorem ctrGo_progress (n : Nat) (s : State) : Progress s (ctrGo n s) := by
  induction n generalizing s with
  | zero => exact .refl s
  | succ n ih =>
    unfold ctrGo
    split
    · exact .refl s
    · split
      · exact .refl s
      · rename_i op rest _
        have hscan : Progress s (ctrScan op.n (setNv (fun v => { v with ctrQ := rest }) s)) :=
          Progress.trans (.of_nv ⟨_, _, _, _, _, _, rfl⟩) (nvCheck_countsOnly _ _ _).progress
        have hend : ∀ st, Progress s (ctrGo n (ctrEnd op st (ctrScan op.n (setNv (fun v => { v with ctrQ := rest }) s)))) := fun st =>
          (hscan.trans (ctrEnd_progress op st _)).trans (ih _)
        dsimp only
        split
        · exact .ite (hend _) (.ite (hend _) (hscan.trans (ctrCell_progress _ _)))
        · exact .ite (hend _) (hscan.trans (ctrRebuild_progress _ _))

theorem ctrGoAll_progress (s : State) : Progress s (ctrGoAll s) := ctrGo_progress _ s

theorem wearTick_progress (s : State) : Progress s (wearTick s) := .ite (.refl s) (.of_nv ⟨_, _, _, _, _, _, rfl⟩)

theorem ctrProgram_progress (seq : Nat) (s : State) : Progress s (ctrProgram seq s) := by
  unfold ctrProgram
  split
  · exact .refl s
  · rename_i x _
    refine .ite (.refl s) ?_
    extract_lets y s1 done
    have hcheck : Progress s s1 := (nvCheck_countsOnly _ _ _).progress
    have hdone : ∀ st, Progress s (done st) := fun st =>
      ((hcheck.trans (.of_nv ⟨_, _, _, _, _, _, rfl⟩)).trans (ctrEnd_progress _ _ _)).trans (ctrGoAll_progress _)
    exact .ite (.of_nv ⟨_, _, _, _, _, _, rfl⟩) (.ite (ctrCell_progress _ _) (.ite (hdone _) (.ite (hcheck.trans (ctrCell_progress _ _)) (hdone _))))

/-- The same with the enrolment of the owner going on between (R462). -/
def EnrolProgress (s t : State) : Prop := ∃ u tr en, Progress s u ∧ Progress { u with trust := tr, nv := { u.nv with enrol := en } } t

theorem EnrolProgress.due {s t : State} (h : EnrolProgress s t) : ∀ e ∈ s.mbx.due, e ∈ t.mbx.due := by
  obtain ⟨u, _, _, h1, h2⟩ := h
  exact fun e he => h2.due e (h1.due e he)

theorem EnrolProgress.waits {s t : State} (h : EnrolProgress s t) : ∀ w ∈ t.mbx.waits, w ∈ s.mbx.waits := by
  obtain ⟨u, _, _, h1, h2⟩ := h
  exact fun w hw => h1.waits w (h2.waits w hw)

theorem EnrolProgress.frame {s t : State} (h : EnrolProgress s t) : ∃ m h c tr wear qs ps n cq cr en, t = { s with
    mbx := m
    host := h
    ctr := c
    trust := tr
    nv := { s.nv with wear := wear, queue := qs, planes := ps, nextSeq := n, ctrQ := cq, ctrRun := cr, enrol := en } } := by
  obtain ⟨u, _, _, h1, h2⟩ := h
  obtain ⟨_, _, _, _, _, _, _, _, _, rfl⟩ := h1.frame
  obtain ⟨_, _, _, _, _, _, _, _, _, rfl⟩ := h2.frame
  exact ⟨_, _, _, _, _, _, _, _, _, _, _, rfl⟩

theorem Progress.enrols {s t : State} (h : Progress s t) : EnrolProgress s t := ⟨s, s.trust, s.nv.enrol, .refl s, h⟩

theorem Progress.transEnrols {s t u : State} (h : Progress s t) (k : EnrolProgress t u) : EnrolProgress s u := by
  obtain ⟨v, tr, en, h1, h2⟩ := k
  exact ⟨v, tr, en, h.trans h1, h2⟩

theorem EnrolProgress.trans {s t u : State} (h : EnrolProgress s t) (k : Progress t u) : EnrolProgress s u := by
  obtain ⟨v, tr, en, h1, h2⟩ := h
  exact ⟨v, tr, en, h1, h2.trans k⟩

theorem EnrolProgress.ite {c : Prop} [Decidable c] {s t u : State} (h : EnrolProgress s t) (k : EnrolProgress s u) :
    EnrolProgress s (if c then t else u) := by
  split
  · exact h
  · exact k

theorem enrolProgram_progress (seq : Nat) (s : State) : EnrolProgress s (enrolProgram seq s) := by
  unfold enrolProgram
  split
  · exact (Progress.refl s).enrols
  · rename_i x _
    refine .ite (Progress.refl s).enrols ?_
    extract_lets submit done s1
    have hsub : ∀ y bs t, EnrolProgress t (submit y bs t) := fun y bs t => ⟨t, t.trust, _, .refl t, nvSubmit_progress _ _ _⟩
    have hdone : ∀ st t, EnrolProgress t (done st t) := fun st t => ⟨t, _, _, .refl t, finish_progress _ _ _ _⟩
    have h1 : Progress s s1 := (nvCheck_countsOnly _ _ _).progress
    exact .ite ((nvCheck_countsOnly _ _ _).progress.transEnrols (hdone _ _))
      (.ite (h1.transEnrols (hsub _ _ _)) (.ite (h1.transEnrols (hsub _ _ _)) (h1.transEnrols (hdone _ _))))

/-! ## Native writes (R340, R341, R345) -/

theorem tabGet_foldl_two (page : Nat) (bad : List Nat) (t : Tab Nat) {g : Nat} (hg : g ∈ bad) :
    tabGet 0 (bad.foldl (fun t g => tabSet t (32 * page + g % 32) 2) t) (32 * page + g % 32) = 2 := by
  have hkeep : ∀ (bs : List Nat) (t : Tab Nat) (k : Nat), tabGet 0 t k = 2 → tabGet 0 (bs.foldl (fun t g => tabSet t (32 * page + g % 32) 2) t) k = 2 :=
    fun bs t k ht => List.foldlRecOn (motive := fun t => tabGet 0 t k = 2) _ _ ht fun t ht b _ => by
      by_cases hb : k = 32 * page + b % 32
      · rw [hb, tabGet_tabSet_self]
      · rw [tabGet_tabSet_ne _ _ _ hb, ht]
  induction bad generalizing t with
  | nil => cases hg
  | cons b bad ih =>
    rcases List.mem_cons.mp hg with rfl | hg
    · exact hkeep bad _ _ (tabGet_tabSet_self _ _ _ _)
    · exact ih _ hg

/-- The program of a plane ends: its bytes stand in the cells with the groups that failed, and no command waits for it. -/
def cellsTaken (e : ProgEnd) (w : NvProg) (s : State) : State :=
  nvFaulty w.page e.bad (nvWear 1 (nvPut w.bytes (setNv (fun v => { v with planes := tabDel v.planes e.plane }) s)))

theorem cellsTaken_frame (e : ProgEnd) (w : NvProg) (s : State) : ∃ er i x c n, cellsTaken e w s = { s with
    mbx := { s.mbx with errSum := er, intStatus := i, msix := x }
    ctr := c
    nv := n } := by
  obtain ⟨t, ht, he⟩ := nvPut_eq w.bytes (setNv (fun v => { v with planes := tabDel v.planes e.plane }) s)
  obtain ⟨_, _, _, _, hf⟩ := ht.frame
  rw [cellsTaken, he, hf]
  exact ⟨_, _, _, _, _, rfl⟩

theorem nvProgramEnd_progress {e : ProgEnd} {w : NvProg} {s : State} (hw : tabFind s.nv.planes e.plane = some w) :
    EnrolProgress (setNv (fun v => { v with recRun := v.recRun.map fun x => { x with left := x.left.erase w.seq } })
      (finish (· == .nvWrite w.seq) .ok 0 (cellsTaken e w s))) (nvProgramEnd e s) := by
  rw [nvProgramEnd, hw]
  dsimp only
  refine .ite (nvServeReads_progress _).enrols ?_
  exact (((((nvServeReads_progress _).trans (nvPump_progress _ _)).trans (ctrProgram_progress _ _)).transEnrols (enrolProgram_progress _ _)).trans
    (wearTick_progress _)).trans (ctrGoAll_progress _)

/-- The page program that NV_WRITE asks for. -/
def writeAskedFor (c : Cmd) (s : State) : NvProg :=
  { seq := s.nv.nextSeq, page := fld c 18 0 0 / 256, bytes := nvPageBytes (fld c 18 0 0) (hostRead s (fld c 127 64 0) (fld c 44 32 0)) }

/-- Settles O16: the writes of the host into the page buffer, and the end of a program. -/
theorem storeWrites : Obligations.StoreWrites := by
  refine ⟨fun c s h hlo hhi him hwr hpf hq hst hplane => ?_, fun c s h hlo hhi him hwr => ?_, fun e w s hw hwf => ?_⟩
  · have hexec := exec_row_runs (i := .nvWrite c) rfl rfl h
    have him' : inImage (slotTaken c s) (fld c 18 0 0) = false := by cases s; exact him
    have hwr' : nvWritable (slotTaken c s) (fld c 18 0 0 / 256) = true := by cases s; exact hwr
    have hpf' : (slotTaken c s).nv.powerFail = false := by cases s; exact hpf
    have hbody : bodyNvWrite c (slotTaken c s) = nvPump 2048 (setNv (fun v => { v with queue := v.queue ++ [writeAskedFor c s] })
        (waitFor 0x0602 c (.nvWrite s.nv.nextSeq) (nvNext (slotTaken c s)))) := by
      refine ((((if_neg (by omega)).trans (if_neg (by simp [him']))).trans (if_neg (by simp [hwr']))).trans (if_neg (by simp [hpf']))).trans ?_
      cases s; rfl
    have hone := nvPump_one (n := 2048) (w := writeAskedFor c s) (s := setNv (fun v => { v with queue := v.queue ++ [writeAskedFor c s] })
        (waitFor 0x0602 c (.nvWrite s.nv.nextSeq) (nvNext (slotTaken c s)))) (by decide) (by cases s; exact (congrArg (· ++ [_]) hq))
      (by cases s; exact hplane) (by cases s; exact hst)
    rw [hbody, hone] at hexec
    refine ⟨_, hexec, by cases s; exact tabFind_tabSet_self _ _ _, ?_⟩
    have hnv : ({ s.nv with queue := [] } : Nv) = s.nv := by rw [← hq]
    rw [← waitFor_taken]
    conv_rhs => rw [← hnv]
    cases s
    rfl
  · rw [exec_row_runs (i := .nvWrite c) rfl rfl h]
    have him' : inImage (slotTaken c s) (fld c 18 0 0) = false := by cases s; exact him
    have hwr' : nvWritable (slotTaken c s) (fld c 18 0 0 / 256) = false := by cases s; exact hwr
    exact congrArg Host.Outcome.next ((((if_neg (by omega)).trans (if_neg (by simp [him']))).trans (if_pos (by simp [hwr']))).trans (fail_taken _ _ _ _))
  · have hexec : exec (.nvProgramEnd e) s = .next (nvProgramEnd e s) := rfl
    have hprog := nvProgramEnd_progress hw
    obtain ⟨er, i, x, c, n, hcells⟩ := cellsTaken_frame e w s
    have hmem : ∀ a, nvByte (cellsTaken e w s) a = lastWrite w.bytes a (nvByte s a) := fun a =>
      nvPut_byte w.bytes (s := setNv (fun v => { v with planes := tabDel v.planes e.plane }) s) hwf a
    have hflips : ∀ g ∈ e.bad, nvGroup (cellsTaken e w s) (32 * w.page + g % 32) = 2 := fun g hg => tabGet_foldl_two _ _ _ hg
    rw [finish_eq] at hprog
    rw [hcells] at hprog hmem hflips
    obtain ⟨_, _, _, _, _, _, _, _, _, _, _, hf⟩ := hprog.frame
    refine ⟨_, hexec, fun g hg => ?_, fun a => ?_, fun y hy hact => ⟨fun hin => ?_, ?_⟩, ?_⟩
    · rw [hf]; exact hflips g hg
    · rw [hf]; exact hmem a
    · obtain ⟨_, hno⟩ := List.mem_filter.mp (hprog.waits y hin)
      simp [hact] at hno
    · refine ⟨_, hprog.due _ (List.mem_append_right _ (List.mem_map.mpr ⟨y, List.mem_filter.mpr ⟨hy, by simp [hact]⟩, rfl⟩)), rfl, rfl, rfl⟩
    · rw [hf]; rfl

end Sys2Proof.Machine
end

section
/-! PROOFS. The pages of a two-copy record, and what the programs in flight bring to the store (R340, R348). -/

namespace Sys2Proof.Machine
open Sys2Proof Sys2Proof.Safety

/-! ## Where the copies of a record lie (Table 13-3) -/

theorem recIndex_le (r : RecId) : recIndex r ≤ 30 := by
  cases r <;> simp [recIndex]
  omega

/-- Bytes of a copy: the header and the body. -/
def copyLen (k : Nat) : Nat := 16 + recLen k

theorem copyBytes_length (k : Nat) (seq : W32) (body : List Byte) : (copyBytes k seq body).length = copyLen k := by
  simp [copyBytes, copyLen, padTo_length]
  omega

theorem copyLen_mod (k : Nat) (h : k ≤ 30) : copyLen k % 8 = 0 := by
  unfold copyLen recLen
  split
  · rfl
  · split <;> rfl

theorem recAddr_mod (k : Nat) (b : Bool) : recAddr k b % 8 = 0 := by rw [recAddr, pageAddr]; omega

theorem copyLen_pages (k : Nat) : copyLen k ≤ 256 * recPages k ∧ 256 * recPages k < copyLen k + 256 := by rw [recPages, copyLen]; omega

/-- The two copies of a record do not meet. -/
theorem copies_apart {k : Nat} (h : k ≤ 30) : recAddr k false + copyLen k ≤ recAddr k true := by
  by_cases hk : k < 24
  · simp [recAddr, pageAddr, recPage, hk, copyLen, recLen, b2n]
    omega
  · interval_cases k <;> decide

theorem copy_apart {k : Nat} (h : k ≤ 30) (b : Bool) :
    recAddr k (!b) + copyLen k ≤ recAddr k b ∨ recAddr k b + copyLen k ≤ recAddr k (!b) := by
  cases b with
  | false => exact .inr (copies_apart h)
  | true => exact .inl (copies_apart h)

/-! ## Programs in flight (R341) -/

/-- A page program stands in the page buffer or runs on its plane. -/
def inFlight (s : State) (w : NvProg) : Prop := (∃ e ∈ s.nv.planes, e.2 = w) ∨ w ∈ s.nv.queue

theorem mem_tabSet_new {α : Type} {t : Tab α} {i : Nat} {v : α} (h : tabHas t i = false) {e : Nat × α} : e ∈ tabSet t i v ↔ e = (i, v) ∨ e ∈ t := by
  induction t with
  | nil => simp [tabSet]
  | cons c t ih =>
    obtain ⟨k, w⟩ := c
    have hik : i ≠ k := by
      rintro rfl
      simp [tabHas, List.lookup] at h
    have ht : tabHas t i = false := by
      have hb : (i == k) = false := by simpa using hik
      simpa [tabHas, List.lookup, hb] using h
    rw [tabSet]
    split
    · exact List.mem_cons
    · rw [List.mem_cons, ih ht, List.mem_cons]
      exact or_left_comm

theorem nvPump_inFlight (n : Nat) (s : State) (w : NvProg) : inFlight (nvPump n s) w ↔ inFlight s w := by
  induction n generalizing s with
  | zero => exact Iff.rfl
  | succ n ih =>
    unfold nvPump
    split
    · exact Iff.rfl
    · rename_i x rest hq
      split
      · exact Iff.rfl
      · rename_i hfree
        simp only [Bool.or_eq_true, not_or, Bool.not_eq_true] at hfree
        rw [ih, inFlight, inFlight, hq]
        simp only [setNv, mem_tabSet_new hfree.1, List.mem_cons]
        constructor
        · rintro (⟨e, (rfl | he), rfl⟩ | h)
          · exact .inr (.inl rfl)
          · exact .inl ⟨e, he, rfl⟩
          · exact .inr (.inr h)
        · rintro (⟨e, he, rfl⟩ | rfl | h)
          · exact .inl ⟨e, .inr he, rfl⟩
          · exact .inl ⟨_, .inl rfl, rfl⟩
          · exact .inr h

theorem nvPump_storing (n : Nat) (s : State) : (nvPump n s).nv.storing = s.nv.storing ∧ (nvPump n s).nv.nextSeq = s.nv.nextSeq := by
  obtain ⟨q, p, h⟩ := nvPump_frame n s
  rw [h]
  exact ⟨rfl, rfl⟩

theorem nvSubmit_inFlight (page : Nat) (bytes : List (Nat × Byte)) (s : State) (w : NvProg) :
    inFlight (nvSubmit page bytes s) w ↔ inFlight s w ∨ w = { seq := s.nv.nextSeq, page := page, bytes := bytes } := by
  rw [nvSubmit, nvPump_inFlight, inFlight, inFlight]
  simp only [setNv, List.mem_append, List.mem_singleton]
  exact or_assoc.symm

theorem nvSubmit_nextSeq (page : Nat) (bytes : List (Nat × Byte)) (s : State) : (nvSubmit page bytes s).nv.nextSeq = s.nv.nextSeq + 1 :=
  (nvPump_storing _ _).2

/-- Programs that are asked for one after the other are in flight under the next numbers. -/
theorem nvSubmits_inFlight {α : Type} (pg : α → Nat) (bs : α → List (Nat × Byte)) (xs : List α) (s : State) (w : NvProg) :
    inFlight (xs.foldl (fun t x => nvSubmit (pg x) (bs x) t) s) w ↔
      inFlight s w ∨ ∃ i x, xs[i]? = some x ∧ w = { seq := s.nv.nextSeq + i, page := pg x, bytes := bs x } := by
  induction xs generalizing s with
  | nil => simp
  | cons x xs ih =>
    rw [List.foldl_cons, ih, nvSubmit_inFlight, nvSubmit_nextSeq, or_assoc]
    refine or_congr Iff.rfl ⟨?_, ?_⟩
    · rintro (rfl | ⟨i, y, hy, rfl⟩)
      · exact ⟨0, x, rfl, rfl⟩
      · exact ⟨i + 1, y, hy, by rw [Nat.add_assoc, Nat.add_comm 1 i]⟩
    · rintro ⟨i, y, hy, rfl⟩
      cases i with
      | zero =>
        cases hy
        exact .inl rfl
      | succ i => exact .inr ⟨i, y, hy, by rw [Nat.add_assoc, Nat.add_comm 1 i]⟩

/-! ## Programs of one range, in any order -/

theorem lastWrite_consistent {bs : List (Nat × Byte)} {a : Nat} {v : Byte} (h : ∀ b ∈ bs, b.1 = a → b.2 = v) (old : Byte) :
    lastWrite bs a old = if a ∈ bs.map Prod.fst then v else old := by
  induction bs generalizing old with
  | nil => rfl
  | cons b bs ih =>
    rw [lastWrite_cons, ih fun c hc => h c (List.mem_cons_of_mem _ hc)]
    by_cases hin : a ∈ bs.map Prod.fst
    · simp [hin]
    · by_cases hb : b.1 = a
      · rw [if_neg hin, if_pos hb, if_pos (by simp [hb]), h b List.mem_cons_self hb]
      · rw [if_neg hin, if_neg hb, if_neg (by simp only [List.map_cons, List.mem_cons, not_or]; exact ⟨fun e => hb e.symm, hin⟩)]

/-- The programs write the bytes of one range, and every one of them. -/
structure Covers (ws : List NvProg) (a : Nat) (bs : List Byte) : Prop where
  inside : ∀ w ∈ ws, ∀ b ∈ w.bytes, ∃ j, j < bs.length ∧ b.1 = a + j ∧ b.2 = nth bs j 0
  all : ∀ j, j < bs.length → ∃ w ∈ ws, ∃ b ∈ w.bytes, b.1 = a + j

/-- The cells take programs one after the other. -/
def nvPuts (ws : List NvProg) (s : State) : State := ws.foldl (fun t w => nvWear 1 (nvPut w.bytes t)) s

theorem nvPuts_wf (ws : List NvProg) {s : State} (h : memWf 0xFF#8 s.nv.mem = true) : memWf 0xFF#8 (nvPuts ws s).nv.mem = true :=
  List.foldlRecOn (motive := fun t : State => memWf 0xFF#8 t.nv.mem = true) _ _ h fun _ ht (w : NvProg) _ => nvPut_wf w.bytes ht

theorem nvPuts_byte {ws : List NvProg} {s : State} (h : memWf 0xFF#8 s.nv.mem = true) {x : Nat} {v : Byte}
    (hv : ∀ w ∈ ws, ∀ b ∈ w.bytes, b.1 = x → b.2 = v) :
    ((∃ w ∈ ws, ∃ b ∈ w.bytes, b.1 = x) → nvByte (nvPuts ws s) x = v) ∧ ((∀ w ∈ ws, ∀ b ∈ w.bytes, b.1 ≠ x) → nvByte (nvPuts ws s) x = nvByte s x) := by
  induction ws generalizing s with
  | nil => exact ⟨fun ⟨_, hw, _⟩ => absurd hw List.not_mem_nil, fun _ => rfl⟩
  | cons w ws ih =>
    have hput : nvByte (nvWear 1 (nvPut w.bytes s)) x = if x ∈ w.bytes.map Prod.fst then v else nvByte s x := by
      rw [← lastWrite_consistent (hv w List.mem_cons_self)]
      exact nvPut_byte w.bytes h x
    obtain ⟨hin, hout⟩ := ih (s := nvWear 1 (nvPut w.bytes s)) (nvPut_wf w.bytes h) fun y hy => hv y (List.mem_cons_of_mem _ hy)
    refine ⟨fun ⟨y, hy, b, hb, hbx⟩ => ?_, fun hno => ?_⟩
    · by_cases hlater : ∃ w ∈ ws, ∃ b ∈ w.bytes, b.1 = x
      · exact hin hlater
      · have hnow : x ∈ w.bytes.map Prod.fst := by
          rcases List.mem_cons.mp hy with rfl | hy
          · exact List.mem_map.mpr ⟨b, hb, hbx⟩
          · exact absurd ⟨y, hy, b, hb, hbx⟩ hlater
        exact (hout fun y hy b hb he => hlater ⟨y, hy, b, hb, he⟩).trans (hput.trans (if_pos hnow))
    · refine (hout fun y hy => hno y (List.mem_cons_of_mem _ hy)).trans (hput.trans (if_neg fun hm => ?_))
      obtain ⟨b, hb, hbx⟩ := List.mem_map.mp hm
      exact hno w List.mem_cons_self b hb hbx

theorem nvPuts_group (ws : List NvProg) (s : State) (g : Nat) :
    nvGroup (nvPuts ws s) g = if ∃ w ∈ ws, g ∈ w.bytes.map (fun b => b.1 / 8) then 0 else nvGroup s g := by
  induction ws generalizing s with
  | nil => simp [nvPuts]
  | cons w ws ih =>
    have hput : nvGroup (nvWear 1 (nvPut w.bytes s)) g = if g ∈ w.bytes.map (fun b => b.1 / 8) then 0 else nvGroup s g := nvPut_group w.bytes s g
    refine (ih (nvWear 1 (nvPut w.bytes s))).trans ?_
    rw [hput]
    by_cases h1 : ∃ w ∈ ws, g ∈ w.bytes.map (fun b => b.1 / 8)
    · rw [if_pos h1, if_pos]
      obtain ⟨y, hy, hg⟩ := h1
      exact ⟨y, List.mem_cons_of_mem _ hy, hg⟩
    · rw [if_neg h1]
      by_cases h2 : g ∈ w.bytes.map (fun b => b.1 / 8)
      · rw [if_pos h2, if_pos ⟨w, List.mem_cons_self, h2⟩]
      · rw [if_neg h2, if_neg]
        rintro ⟨y, hy, hg⟩
        rcases List.mem_cons.mp hy with rfl | hy
        · exact h2 hg
        · exact h1 ⟨y, hy, hg⟩

namespace Covers

variable {ws : List NvProg} {a : Nat} {bs : List Byte} {s : State}

theorem byte_in (h : Covers ws a bs) (hwf : memWf 0xFF#8 s.nv.mem = true) {j : Nat} (hj : j < bs.length) :
    nvByte (nvPuts ws s) (a + j) = nth bs j 0 := by
  refine (nvPuts_byte hwf fun w hw b hb he => ?_).1 (h.all j hj)
  obtain ⟨i, hi, h1, h2⟩ := h.inside w hw b hb
  rw [h2, show i = j by omega]

theorem byte_out (h : Covers ws a bs) (hwf : memWf 0xFF#8 s.nv.mem = true) {x : Nat} (hx : x < a ∨ a + bs.length ≤ x) :
    nvByte (nvPuts ws s) x = nvByte s x := by
  have hno : ∀ w ∈ ws, ∀ b ∈ w.bytes, b.1 ≠ x := fun w hw b hb he => by
    obtain ⟨i, hi, h1, _⟩ := h.inside w hw b hb
    omega
  exact (nvPuts_byte (v := 0) hwf fun w hw b hb he => absurd he (hno w hw b hb)).2 hno

theorem group_in (h : Covers ws a bs) (ha : a % 8 = 0) (hl : bs.length % 8 = 0) {g : Nat} (hg : a / 8 ≤ g) (hg' : g < (a + bs.length) / 8) :
    nvGroup (nvPuts ws s) g = 0 := by
  obtain ⟨w, hw, b, hb, he⟩ := h.all (8 * g - a) (by omega)
  rw [nvPuts_group, if_pos ⟨w, hw, List.mem_map.mpr ⟨b, hb, by omega⟩⟩]

theorem group_out (h : Covers ws a bs) (ha : a % 8 = 0) (hl : bs.length % 8 = 0) {g : Nat} (hg : g < a / 8 ∨ (a + bs.length) / 8 ≤ g) :
    nvGroup (nvPuts ws s) g = nvGroup s g := by
  rw [nvPuts_group, if_neg]
  rintro ⟨w, hw, hm⟩
  obtain ⟨b, hb, he⟩ := List.mem_map.mp hm
  obtain ⟨i, hi, h1, _⟩ := h.inside w hw b hb
  omega

end Covers

theorem nvPuts_frame (ws : List NvProg) (s : State) : ∃ t mem flips wear, CountsOnly s t ∧
    nvPuts ws s = setNv (fun v => { v with mem := mem, flips := flips, wear := wear }) t := by
  induction ws generalizing s with
  | nil => exact ⟨s, s.nv.mem, s.nv.flips, s.nv.wear, .refl s, rfl⟩
  | cons w ws ih =>
    obtain ⟨t, ht, he⟩ := nvPut_eq w.bytes s
    obtain ⟨u, mem, flips, wear, hu, hp⟩ := ih (nvWear 1 (nvPut w.bytes s))
    refine ⟨{ u with nv := t.nv }, mem, flips, wear, ?_, ?_⟩
    · rw [he] at hu
      obtain ⟨_, _, _, _, rfl⟩ := ht
      obtain ⟨_, _, _, _, rfl⟩ := hu
      exact ⟨_, _, _, _, rfl⟩
    · refine hp.trans ?_
      rw [he] at hu
      obtain ⟨_, _, _, _, rfl⟩ := hu
      rfl

end Sys2Proof.Machine
end

section
/-! PROOFS. A record copy stands in the store: its head, its CRC and its body (Table 13-8). -/

namespace Sys2Proof.Machine
open Sys2Proof Sys2Proof.Safety

/-! ## A copy that has been written reads valid (Table 13-2, R347) -/

theorem leNat_append (xs ys : List Byte) : leNat (xs ++ ys) = leNat xs + leNat ys * 2 ^ (8 * xs.length) := by
  induction xs with
  | nil => simp [leNat]
  | cons x xs ih =>
    rw [List.cons_append, leNat, leNat, ih, List.length_cons]
    ring

/-- Two numbers, one behind the other. -/
theorem leNat_leBytes_append {m n lo w p c : Nat} (hlo : lo = 8 * m) (hw : w = 8 * n) (h : p < 2 ^ lo) :
    leNat (leBytes m p ++ leBytes n c) = put lo w c p := by
  subst hlo hw
  rw [leNat_append, leNat_leBytes, leNat_leBytes, leBytes_length, Nat.mod_eq_of_lt h, put]

theorem pack_snoc (fs : List (Nat × Nat × Nat)) (lo w x : Nat) : pack (fs ++ [(lo, w, x)]) = put lo w x (pack fs) := by simp [pack]

/-- The first three words of a copy's header. -/
def headFields (k : Nat) (seq : W32) : List (Nat × Nat × Nat) := [(0, 16, 0x4B52), (16, 16, recIdOf k), (32, 16, recLen k), (64, 32, seq.toNat)]

/-- The CRC of a copy. -/
def copyCrc (k : Nat) (seq : W32) (body : List Byte) : W32 := crc32c (leBytes 12 (pack (headFields k seq)) ++ padTo (recLen k) body)

theorem copyBytes_eq (k : Nat) (seq : W32) (body : List Byte) : copyBytes k seq body =
    leBytes 12 (pack (headFields k seq)) ++ leBytes 4 (copyCrc k seq body).toNat ++ padTo (recLen k) body := rfl

theorem recLen_lt (k : Nat) : recLen k < 2 ^ 16 := by
  unfold recLen
  split
  · decide
  · split <;> decide

theorem headFields_lt (k : Nat) (seq : W32) : pack (headFields k seq) < 2 ^ 96 := by
  have h1 : pack [(0, 16, 0x4B52)] < 2 ^ 16 := pack_snoc_lt (fs := []) _ (pack_nil_lt 0)
  have h2 : pack [(0, 16, 0x4B52), (16, 16, recIdOf k)] < 2 ^ 32 := pack_snoc_lt (fs := [_]) _ h1
  have h3 : pack [(0, 16, 0x4B52), (16, 16, recIdOf k), (32, 16, recLen k)] < 2 ^ 48 := pack_snoc_lt (fs := [_, _]) _ h2
  exact pack_snoc_lt (fs := [_, _, _]) (lo := 64) _ (Nat.lt_of_lt_of_le h3 (Nat.pow_le_pow_right (by decide) (by decide)))

/-- The header of a copy as a number. -/
theorem leNat_head (k : Nat) (seq c : W32) : leNat (leBytes 12 (pack (headFields k seq)) ++ leBytes 4 c.toNat) =
    pack (headFields k seq ++ [(96, 32, c.toNat)]) := by
  rw [pack_snoc]
  exact leNat_leBytes_append (by decide) (by decide) (headFields_lt k seq)

theorem head_magic (k : Nat) (seq c : W32) : bitsN (pack (headFields k seq ++ [(96, 32, c.toNat)])) 15 0 = 0x4B52 :=
  bitsN_pack_field [] [(16, 16, recIdOf k), (32, 16, recLen k), (64, 32, seq.toNat), (96, 32, c.toNat)] (pack_nil_lt 0) (by decide) rfl (by decide)
    (by simp)

theorem head_id {k : Nat} (h : k ≤ 30) (seq c : W32) : bitsN (pack (headFields k seq ++ [(96, 32, c.toNat)])) 31 16 = recIdOf k :=
  bitsN_pack_field [(0, 16, 0x4B52)] [(32, 16, recLen k), (64, 32, seq.toNat), (96, 32, c.toNat)] (pack_snoc_lt (fs := []) _ (pack_nil_lt 0))
    (by unfold recIdOf; split <;> omega) rfl (by decide) (by simp)

theorem head_len (k : Nat) (seq c : W32) : bitsN (pack (headFields k seq ++ [(96, 32, c.toNat)])) 47 32 = recLen k :=
  bitsN_pack_field [(0, 16, 0x4B52), (16, 16, recIdOf k)] [(64, 32, seq.toNat), (96, 32, c.toNat)]
    (pack_snoc_lt (fs := [_]) _ (pack_snoc_lt (fs := []) (lo := 0) (w := 16) _ (pack_nil_lt 0))) (recLen_lt k) rfl (by decide) (by simp)

theorem head_seq (k : Nat) (seq c : W32) : bitsN (pack (headFields k seq ++ [(96, 32, c.toNat)])) 95 64 = seq.toNat := by
  have h3 : pack [(0, 16, 0x4B52), (16, 16, recIdOf k), (32, 16, recLen k)] < 2 ^ 48 := pack_snoc_lt (fs := [_, _]) (lo := 32) (w := 16) _
    (pack_snoc_lt (fs := [_]) (lo := 16) (w := 16) _ (pack_snoc_lt (fs := []) (lo := 0) (w := 16) _ (pack_nil_lt 0)))
  exact bitsN_pack_field [(0, 16, 0x4B52), (16, 16, recIdOf k), (32, 16, recLen k)] [(96, 32, c.toNat)]
    (Nat.lt_of_lt_of_le h3 (Nat.pow_le_pow_right (by decide) (by decide))) seq.isLt rfl (by decide) (by simp)

theorem head_crc (k : Nat) (seq c : W32) : bitsN (pack (headFields k seq ++ [(96, 32, c.toNat)])) 127 96 = c.toNat :=
  bitsN_pack_field (headFields k seq) [] (headFields_lt k seq) c.isLt rfl (by decide) (by simp)

/-- A copy stands in the cells, with right check bits. -/
structure CopyStands (s : State) (k : Nat) (b : Bool) (seq : W32) (body : List Byte) : Prop where
  bytes : nvBytes s (recAddr k b) (copyLen k) = copyBytes k seq body
  right : ∀ g, recAddr k b / 8 ≤ g → g < (recAddr k b + copyLen k) / 8 → nvGroup s g = 0

theorem nvBytes_append (s : State) (a m n : Nat) : nvBytes s a (m + n) = nvBytes s a m ++ nvBytes s (a + m) n := by
  simp [nvBytes, memReadN, List.range_add, Function.comp_def, Nat.add_assoc]

theorem nvBytes_length (s : State) (a n : Nat) : (nvBytes s a n).length = n := by simp [nvBytes, memReadN]

namespace CopyStands

variable {s : State} {k : Nat} {b : Bool} {seq : W32} {body : List Byte}

theorem head (h : CopyStands s k b seq body) :
    nvBytes s (recAddr k b) 16 = leBytes 12 (pack (headFields k seq)) ++ leBytes 4 (copyCrc k seq body).toNat ∧
      nvBytes s (recAddr k b + 16) (recLen k) = padTo (recLen k) body := by
  have hb := h.bytes
  rw [copyLen, nvBytes_append, copyBytes_eq] at hb
  exact List.append_inj hb (by simp [nvBytes_length])

theorem valid (h : CopyStands s k b seq body) (hk : k ≤ 30) : copyValid s k b = true ∧ copySeq s k b = seq := by
  obtain ⟨hhead, hbody⟩ := h.head
  have hn : leNat (nvBytes s (recAddr k b) 16) = pack (headFields k seq ++ [(96, 32, (copyCrc k seq body).toNat)]) := by rw [hhead, leNat_head]
  have hmagic : leNat (nvBytes s (recAddr k b) 16) % 2 ^ 16 = 0x4B52 := by
    rw [hn]
    exact head_magic k seq (copyCrc k seq body)
  have hbad : nvBad s (recAddr k b) (16 + recLen k) = [] := by
    refine List.filter_eq_nil_iff.mpr fun g hg => ?_
    have ha := recAddr_mod k b
    have hl := copyLen_mod k hk
    rw [copyLen] at hl
    unfold groupsOf at hg
    rw [if_neg (by omega)] at hg
    obtain ⟨i, hi, rfl⟩ := List.mem_map.mp hg
    have hi' := List.mem_range.mp hi
    rw [h.right _ (by omega) (by rw [copyLen]; omega)]
    decide
  have htake : (nvBytes s (recAddr k b) 16).take 12 = leBytes 12 (pack (headFields k seq)) := by
    rw [hhead, List.take_append_of_le_length (by simp), List.take_of_length_le (by simp)]
  refine ⟨?_, ?_⟩
  · rw [copyValid, if_neg (by rw [hmagic]; decide), hbad, htake, hbody, hn, head_id hk, head_len, head_crc]
    rw [if_neg (by simp), if_neg (by simp)]
    simp [copyCrc]
  · rw [copySeq, hn, head_seq]
    simp

end CopyStands

/-- A copy's validity and number are a matter of its bytes and groups. -/
theorem copy_congr {s t : State} {k : Nat} {b : Bool} (hk : k ≤ 30) (hb : ∀ x, recAddr k b ≤ x → x < recAddr k b + copyLen k → nvByte t x = nvByte s x)
    (hg : ∀ g, recAddr k b / 8 ≤ g → g < (recAddr k b + copyLen k) / 8 → nvGroup t g = nvGroup s g) :
    copyValid t k b = copyValid s k b ∧ copySeq t k b = copySeq s k b := by
  have h16 : nvBytes t (recAddr k b) 16 = nvBytes s (recAddr k b) 16 :=
    nvBytes_congr fun j hj => hb _ (by omega) (by rw [copyLen]; omega)
  have hbody : nvBytes t (recAddr k b + 16) (recLen k) = nvBytes s (recAddr k b + 16) (recLen k) :=
    nvBytes_congr fun j hj => hb _ (by omega) (by rw [copyLen]; omega)
  have hbad : nvBad t (recAddr k b) (16 + recLen k) = nvBad s (recAddr k b) (16 + recLen k) := by
    refine List.filter_congr fun g hg' => ?_
    have ha := recAddr_mod k b
    have hl := copyLen_mod k hk
    rw [copyLen] at hl
    unfold groupsOf at hg'
    rw [if_neg (by omega)] at hg'
    obtain ⟨i, hi, rfl⟩ := List.mem_map.mp hg'
    have hi' := List.mem_range.mp hi
    rw [hg _ (by omega) (by rw [copyLen]; omega)]
  exact ⟨by rw [copyValid, copyValid, h16, hbody, hbad], by rw [copySeq, copySeq, h16]⟩

end Sys2Proof.Machine
end

section
/-! PROOFS. The write of a record in an idle store, and the choice of its copy (R348 to R350). -/

namespace Sys2Proof.Machine
open Sys2Proof Sys2Proof.Safety

/-! ## A record write in an idle store (R348, R350) -/

/-- The write of a record that an idle store takes up. -/
def recRunOf (u : State) (k : Nat) (body : List Byte) : RecRun :=
  { k := k, body := body, copyB := (recTarget u k).1, seq := (recTarget u k).2, left := (List.range (recPages k)).map (u.nv.nextSeq + ·) }

/-- The programs of a record's pages. -/
def recProg (u : State) (k : Nat) (body : List Byte) (i : Nat) : NvProg :=
  { seq := u.nv.nextSeq + i, page := recPage k (recTarget u k).1 + i
    bytes := placed (recAddr k (recTarget u k).1 + 256 * i) (((copyBytes k (recTarget u k).2 body).drop (256 * i)).take 256) }

theorem recStart_begins {k : Nat} {e : Nat × List Byte} {s : State} (hpf : s.nv.powerFail = false) (hr : recRuns s k = false)
    (hf : s.nv.recQ.find? (fun e => e.1 == k) = some e) :
    recStart k s = (recPrograms k (recTarget s k).1 (recTarget s k).2 e.2).foldl (fun t p => nvSubmit p.1 p.2 t)
      (setNv (fun v => { v with recRun := v.recRun ++ [recRunOf s k e.2] }) s) := by
  rw [recStart]
  refine (if_neg (by simp [hpf, hr])).trans ?_
  rw [hf]
  rfl

theorem recQueue_idle {k : Nat} {body : List Byte} {u : State} (h : StoreIdle u) :
    (∃ q p n, recQueue k body u = { u with nv := { u.nv with recQ := [(k, body)], recRun := [recRunOf u k body], queue := q, planes := p, nextSeq := n } }) ∧
      ∀ w, inFlight (recQueue k body u) w ↔ ∃ i, i < recPages k ∧ w = recProg u k body i := by
  obtain ⟨hpf, hst, hpl, hq, hrq, hrr, hcq, hcr, hen⟩ := h
  have hstart : recQueue k body u = (recPrograms k (recTarget u k).1 (recTarget u k).2 body).foldl (fun t p => nvSubmit p.1 p.2 t)
      { u with nv := { u.nv with recQ := [(k, body)], recRun := [recRunOf u k body] } } := by
    have hwaits : (recReplaces k && decide (b2n (recRuns u k) < (u.nv.recQ.filter fun e => e.1 == k).length)) = false := by simp [hrq]
    have hset : setNv (fun v => { v with recQ := v.recQ ++ [(k, body)] }) u = { u with nv := { u.nv with recQ := [(k, body)] } } := by
      rw [setNv, hrq, List.nil_append]
    have hbegin := recStart_begins (k := k) (e := (k, body)) (s := { u with nv := { u.nv with recQ := [(k, body)] } }) hpf (by simp [recRuns, hrr])
      (List.find?_cons_of_pos (by simp))
    rw [recQueue]
    dsimp only
    rw [hwaits]
    simp only [Bool.false_eq_true, if_false]
    rw [hset, hbegin, setNv]
    dsimp only
    rw [hrr]
    rfl
  rw [hstart]
  refine ⟨?_, fun w => ?_⟩
  · obtain ⟨q, p, n, hf⟩ := nvSubmits_frame (fun p : Nat × List (Nat × Byte) => p.1) (fun p => p.2) (recPrograms k (recTarget u k).1 (recTarget u k).2 body)
      { u with nv := { u.nv with recQ := [(k, body)], recRun := [recRunOf u k body] } }
    exact ⟨q, p, n, hf⟩
  · rw [nvSubmits_inFlight (fun p : Nat × List (Nat × Byte) => p.1) (fun p => p.2)]
    have hnone : ¬inFlight { u with nv := { u.nv with recQ := [(k, body)], recRun := [recRunOf u k body] } } w := by
      simp [inFlight, hpl, hq]
    rw [or_iff_right hnone]
    constructor
    · rintro ⟨i, x, hx, rfl⟩
      have hi : i < recPages k := by
        by_contra hno
        rw [recPrograms, List.getElem?_eq_none (by simpa using hno)] at hx
        cases hx
      refine ⟨i, hi, ?_⟩
      rw [recPrograms, List.getElem?_map, List.getElem?_range hi] at hx
      cases hx
      rfl
    · rintro ⟨i, hi, rfl⟩
      refine ⟨i, (recPage k (recTarget u k).1 + i, placed (recAddr k (recTarget u k).1 + 256 * i)
        (((copyBytes k (recTarget u k).2 body).drop (256 * i)).take 256)), ?_, rfl⟩
      rw [recPrograms, List.getElem?_map, List.getElem?_range hi]
      rfl

/-- Every program in flight, in the order in which the record's write ends them. -/
def flyingProgs (s : State) : List NvProg := s.nv.planes.map Prod.snd ++ s.nv.queue

theorem mem_flyingProgs {s : State} {w : NvProg} : w ∈ flyingProgs s ↔ inFlight s w := by
  simp [flyingProgs, inFlight]

/-- The programs of a record's pages write its copy, whole. -/
theorem recProgs_cover {k : Nat} {body : List Byte} {u s : State} (h : ∀ w, inFlight s w ↔ ∃ i, i < recPages k ∧ w = recProg u k body i) :
    Covers (flyingProgs s) (recAddr k (recTarget u k).1) (copyBytes k (recTarget u k).2 body) := by
  have hlen := copyBytes_length k (recTarget u k).2 body
  obtain ⟨hle, hlt⟩ := copyLen_pages k
  constructor
  · intro w hw b hb
    obtain ⟨i, hi, rfl⟩ := (h w).mp (mem_flyingProgs.mp hw)
    obtain ⟨j, hj, rfl⟩ := List.mem_map.mp hb
    have hj' := List.mem_range.mp hj
    rw [List.length_take, List.length_drop] at hj'
    refine ⟨256 * i + j, by omega, by dsimp only; omega, ?_⟩
    dsimp only
    rw [nth, nth, List.getElem?_take, if_pos (by omega), List.getElem?_drop]
  · intro j hj
    refine ⟨recProg u k body (j / 256), mem_flyingProgs.mpr ((h _).mpr ⟨j / 256, by omega, rfl⟩), ?_⟩
    refine ⟨_, List.mem_map.mpr ⟨j % 256, List.mem_range.mpr ?_, rfl⟩, ?_⟩
    · rw [List.length_take, List.length_drop]; omega
    · dsimp only; omega

theorem recProg_mine {u : State} {k : Nat} {body : List Byte} {w : NvProg} (h : ∃ i, i < recPages k ∧ w = recProg u k body i) :
    (recRunOf u k body).left.contains w.seq = true := by
  obtain ⟨i, hi, rfl⟩ := h
  simpa [recRunOf, recProg] using hi

/-- The pages of a record's write end at once in a store where nothing else programs. -/
theorem recPagesEnd_all {x : RecRun} {s : State} (h : ∀ w, inFlight s w → x.left.contains w.seq = true) :
    recPagesEnd x s = nvPuts (flyingProgs s) (setNv (fun v => { v with planes := [], queue := [] }) s) := by
  have h1 : (s.nv.planes.map Prod.snd).filter (fun w => x.left.contains w.seq) = s.nv.planes.map Prod.snd := by
    refine List.filter_eq_self.mpr fun w hw => ?_
    obtain ⟨e, he, rfl⟩ := List.mem_map.mp hw
    exact h _ (.inl ⟨e, he, rfl⟩)
  have h2 : s.nv.queue.filter (fun w => x.left.contains w.seq) = s.nv.queue := List.filter_eq_self.mpr fun w hw => h _ (.inr hw)
  have h3 : s.nv.planes.filter (fun e => !x.left.contains e.2.seq) = [] :=
    List.filter_eq_nil_iff.mpr fun e he => by rw [h _ (.inl ⟨e, he, rfl⟩)]; decide
  have h4 : s.nv.queue.filter (fun w => !x.left.contains w.seq) = [] :=
    List.filter_eq_nil_iff.mpr fun w hw => by rw [h _ (.inr hw)]; decide
  rw [recPagesEnd, h1, h2, setNv]
  dsimp only
  rw [h3, h4]
  rfl

theorem recBlocked_alone {x : RecRun} {s : State} (h : ∀ w, inFlight s w → x.left.contains w.seq = true) (hs : s.nv.storing = none) :
    recBlocked s x = false := by
  have h1 : (s.nv.planes.any fun e => !x.left.contains e.2.seq) = false := by
    rw [List.any_eq_false]
    intro e he
    rw [h _ (.inl ⟨e, he, rfl⟩)]
    decide
  rw [recBlocked, h1, hs]
  cases hq : s.nv.queue with
  | nil => simp
  | cons w ws =>
    have hmine : w.seq ∈ x.left := by simpa using h w (.inr (by rw [hq]; exact List.mem_cons_self))
    simp [hmine]

/-! ## The copy that is chosen behind a write (R347, R348) -/

theorem serialGt_succ (x : W32) : serialGt (x + 1) x = true := by
  have h : x + 1 - x = 1 := add_sub_cancel_left x 1
  rw [serialGt, h]
  decide

theorem serialGt_pred (x : W32) : serialGt x (x + 1) = false := by
  have h : x - (x + 1) = -1 := sub_add_cancel_left x 1
  rw [serialGt, h]
  decide

theorem recTarget_absent {u : State} {k : Nat} (h : tabGet {} u.nv.picks k = {}) : recTarget u k = (false, 1) := by
  rw [recTarget, h]
  rfl

theorem recTarget_present {u : State} {k : Nat} {p : RecPick} (h : tabGet {} u.nv.picks k = p) (hp : p.present = true) :
    recTarget u k = (!p.copyB, p.seq + 1) := by
  rw [recTarget, h, hp, if_pos rfl, if_pos rfl]

/-- The choice where the copy `b` has the number that follows the other's, or the other is not valid. -/
theorem recChoose_next {s : State} {k : Nat} {b : Bool} {seq : W32} (hv : copyValid s k b = true) (hs : copySeq s k b = seq)
    (ho : copyValid s k (!b) = false ∨ copySeq s k (!b) + 1 = seq) : recChoose s k = { present := true, copyB := b, seq := seq } := by
  cases b with
  | false =>
    rw [recChoose, hv]
    cases hvb : copyValid s k true with
    | false => simp only [hs]
    | true =>
      have hnext : copySeq s k true + 1 = seq := ho.resolve_left (by simp [hvb])
      simp only [hs, ← hnext, serialGt_pred, serialGt_succ]
      rfl
  | true =>
    rw [recChoose, hv]
    cases hva : copyValid s k false with
    | false => simp only [hs]
    | true =>
      have hnext : copySeq s k false + 1 = seq := ho.resolve_left (by simp [hva])
      simp only [hs, ← hnext, serialGt_succ]
      rfl

/-- A record's pick in force is the choice: the copy that a write does not touch is not valid or has the number before the new one. -/
theorem recTarget_next {u : State} {k : Nat} (h : tabGet {} u.nv.picks k = recChoose u k) :
    copyValid u k (!(recTarget u k).1) = false ∨ copySeq u k (!(recTarget u k).1) + 1 = (recTarget u k).2 := by
  unfold recChoose at h
  cases ha : copyValid u k false <;> cases hb : copyValid u k true
  · simp only [ha, hb] at h
    rw [recTarget_absent h]
    exact .inl hb
  · simp only [ha, hb] at h
    rw [recTarget_present h rfl]
    exact .inr rfl
  · simp only [ha, hb] at h
    rw [recTarget_present h rfl]
    exact .inr rfl
  · simp only [ha, hb] at h
    split at h
    · rw [recTarget_present h rfl]; exact .inr rfl
    · split at h
      · rw [recTarget_present h rfl]; exact .inr rfl
      · rw [recTarget_present h rfl]; exact .inr rfl

theorem recAttempts_first {k : Nat} {b : Bool} {seq : W32} {body : List Byte} {oks : List Bool} {s : State} (hok : nth oks 0 true = true)
    (hv : copyValid s k b = true) : recAttempts k b seq body oks s = (true, wearTick (recPickNow k s)) := by
  have hread : recRead k b (nth oks 0 true) s = (true, s) := if_pos (by rw [hok, hv]; rfl)
  rw [recAttempts]
  dsimp only
  rw [hread]
  rfl

/-- A choice without a tie counts what its reads find, and is in force. -/
theorem recPickNow_chosen {k : Nat} {s : State} (h : (recChoose s k).tie = false) :
    ∃ t, CountsOnly s t ∧ recPickNow k s = setNv (fun v => { v with picks := tabSet v.picks k (recChoose s k) }) t := by
  refine ⟨_, (nvCheck_countsOnly (recAddr k false) (16 + recLen k) s).trans (nvCheck_countsOnly (recAddr k true) (16 + recLen k) _), ?_⟩
  rw [recPickNow, h, if_neg (by decide)]

end Sys2Proof.Machine
end

section
/-! PROOFS. A record write that is asked for in an idle store passes at its first read-back (R348). -/

namespace Sys2Proof.Machine
open Sys2Proof Sys2Proof.Safety

/-! ## A record write that is asked for in an idle store passes at its first read-back (R348) -/

/-- What the write of a record leaves, before the record's content is in force. -/
structure Written (u s : State) (k : Nat) (body : List Byte) : Prop where
  frame : ∃ e i x c mem flips wear n cq, s = { u with
    mbx := { u.mbx with errSum := e, intStatus := i, msix := x }
    ctr := c
    nv := { u.nv with
      mem := mem
      flips := flips
      wear := wear
      picks := tabSet u.nv.picks k { present := true, copyB := (recTarget u k).1, seq := (recTarget u k).2 }
      planes := []
      queue := []
      nextSeq := n
      recQ := []
      recRun := []
      ctrQ := cq } }
  stands : nvBytes s (recAddr k (recTarget u k).1 + 16) (recLen k) = padTo (recLen k) body
  outside : ∀ x, (x < recAddr k (recTarget u k).1 ∨ recAddr k (recTarget u k).1 + copyLen k ≤ x) → nvByte s x = nvByte u x

theorem wearTick_frame (s : State) : ∃ w q, wearTick s = { s with nv := { s.nv with wear := w, ctrQ := q } } := by
  unfold wearTick
  split
  · exact ⟨_, _, rfl⟩
  · exact ⟨_, _, rfl⟩

/-- An idle store with the pages of a record in flight gone from it. -/
def landed (u : State) (n : Nat) : State := { u with nv := { u.nv with recQ := [], recRun := [], planes := [], queue := [], nextSeq := n } }

/-- The programs of a record's pages end: its copy stands. -/
theorem recProgs_stand {k : Nat} {body : List Byte} {u : State} {ws : List NvProg} (n : Nat) (hk : k ≤ 30) (hwf : memWf 0xFF#8 u.nv.mem = true)
    (hcov : Covers ws (recAddr k (recTarget u k).1) (copyBytes k (recTarget u k).2 body)) :
    CopyStands (nvPuts ws (landed u n)) k (recTarget u k).1 (recTarget u k).2 body := by
  have hlen := copyBytes_length k (recTarget u k).2 body
  refine ⟨?_, fun g hg hg' => hcov.group_in (recAddr_mod _ _) (by rw [hlen]; exact copyLen_mod k hk) hg (by rw [hlen]; exact hg')⟩
  rw [← hlen]
  exact nvBytes_placed fun j hj => hcov.byte_in (s := landed u n) hwf hj

/-- Outside the copy nothing changes. -/
theorem recProgs_outside {k : Nat} {body : List Byte} {u : State} {ws : List NvProg} (n : Nat) (hwf : memWf 0xFF#8 u.nv.mem = true)
    (hcov : Covers ws (recAddr k (recTarget u k).1) (copyBytes k (recTarget u k).2 body)) {x : Nat}
    (hx : x < recAddr k (recTarget u k).1 ∨ recAddr k (recTarget u k).1 + copyLen k ≤ x) : nvByte (nvPuts ws (landed u n)) x = nvByte u x :=
  hcov.byte_out (s := landed u n) hwf (by rw [copyBytes_length]; exact hx)

/-- The programs of a record's pages end: its copy is the choice. -/
theorem recProgs_written {k : Nat} {body : List Byte} {u : State} {ws : List NvProg} (n : Nat) (hk : k ≤ 30) (hwf : memWf 0xFF#8 u.nv.mem = true)
    (hpick : tabGet {} u.nv.picks k = recChoose u k) (hcov : Covers ws (recAddr k (recTarget u k).1) (copyBytes k (recTarget u k).2 body)) :
    Written u (wearTick (recPickNow k (nvPuts ws (landed u n)))) k body := by
  have ha := recAddr_mod k (recTarget u k).1
  have hlen := copyBytes_length k (recTarget u k).2 body
  have hl := copyLen_mod k hk
  have hstands := recProgs_stand n hk hwf hcov
  have hout := fun {x} => recProgs_outside (x := x) n hwf hcov
  have hgout : ∀ g, (g < recAddr k (recTarget u k).1 / 8 ∨ (recAddr k (recTarget u k).1 + copyLen k) / 8 ≤ g) →
      nvGroup (nvPuts ws (landed u n)) g = nvGroup u g := fun g hg =>
    hcov.group_out (s := landed u n) ha (by rw [hlen]; exact hl) (by rw [hlen]; exact hg)
  obtain ⟨t, mem, flips, wear, ht, hp⟩ := nvPuts_frame ws (landed u n)
  obtain ⟨_, _, _, _, rfl⟩ := ht.frame
  generalize nvPuts ws (landed u n) = s0 at *
  obtain ⟨hvalid, hseq⟩ := hstands.valid hk
  obtain ⟨hov, hos⟩ := copy_congr (s := u) (t := s0) (b := !(recTarget u k).1) hk
    (fun x h1 h2 => hout (by rcases copy_apart hk (recTarget u k).1 with h | h <;> omega))
    (fun g h1 h2 => hgout g (by
      have hb := recAddr_mod k (!(recTarget u k).1)
      rcases copy_apart hk (recTarget u k).1 with h | h <;> omega))
  have hchoose : recChoose s0 k = { present := true, copyB := (recTarget u k).1, seq := (recTarget u k).2 } :=
    recChoose_next hvalid hseq (by rw [hov, hos]; exact recTarget_next hpick)
  obtain ⟨v, hv, hpn⟩ := recPickNow_chosen (s := s0) (k := k) (by rw [hchoose])
  obtain ⟨wr, cq, hwear⟩ := wearTick_frame (recPickNow k s0)
  have hmem : (wearTick (recPickNow k s0)).nv.mem = s0.nv.mem := by
    rw [hwear, hpn, setNv_nv, hv.nv_eq]
  refine ⟨?_, ?_, fun x hx => ?_⟩
  · rw [hwear, hpn, hchoose]
    obtain ⟨_, _, _, _, rfl⟩ := hv.frame
    rw [hp]
    exact ⟨_, _, _, _, _, _, _, _, _, rfl⟩
  · refine Eq.trans ?_ hstands.head.2
    rw [nvBytes, hmem, nvBytes]
  · rw [← hout hx, nvByte, hmem, nvByte]

/-- A record write whose read-back passes puts the record in force. -/
theorem recordWrite_passes {r : RecId} {oks : List Bool} {s s1 : State} {x : RecRun} (hpf : s.nv.powerFail = false) (hfe : feAlive s = true)
    (hrun : s.nv.recRun.find? (fun x => x.k == recIndex r) = some x) (hblock : recBlocked s x = false)
    (hatt : recAttempts x.k x.copyB x.seq x.body oks
      (recPagesEnd x (setNv (fun v => { v with recQ := v.recQ.erase (x.k, x.body), recRun := v.recRun.erase x }) s)) = (true, s1)) :
    recordWrite r oks s = ctrGoAll (recStart x.k (nvPump 2048 (nvServeReads (recordDone r .ok (recordInForce r x.body s1))))) := by
  rw [recordWrite]
  refine (if_neg (by simp [hpf, hfe])).trans ?_
  rw [hrun]
  refine (if_neg (by simp [hblock])).trans ?_
  dsimp only
  rw [hatt]
  exact if_pos rfl ▸ rfl

/-- RECORD_WRITE of a record whose write an idle store has taken up passes. -/
theorem recordWrite_runs {r : RecId} {oks : List Bool} {body : List Byte} {u : State} (hidle : StoreIdle u) (hfe : feAlive u = true)
    (hok : nth oks 0 true = true) (hwf : memWf 0xFF#8 u.nv.mem = true) :
    ∃ ws n, Covers ws (recAddr (recIndex r) (recTarget u (recIndex r)).1) (copyBytes (recIndex r) (recTarget u (recIndex r)).2 body) ∧
      recordWrite r oks (recQueue (recIndex r) body u) = ctrGoAll (recStart (recIndex r) (nvPump 2048 (nvServeReads (recordDone r .ok
        (recordInForce r body (wearTick (recPickNow (recIndex r) (nvPuts ws (landed u n))))))))) := by
  obtain ⟨⟨q, p, n, hq⟩, hfly⟩ := recQueue_idle (k := recIndex r) (body := body) hidle
  generalize hk : recIndex r = k at *
  have hk30 : k ≤ 30 := hk ▸ recIndex_le r
  have hpf : (recQueue k body u).nv.powerFail = false := by rw [hq]; exact hidle.1
  have hfe' : feAlive (recQueue k body u) = true := by rw [hq]; exact hfe
  have hst : (recQueue k body u).nv.storing = none := by rw [hq]; exact hidle.2.1
  have hrun : (recQueue k body u).nv.recRun.find? (fun x => x.k == k) = some (recRunOf u k body) := by
    rw [hq]
    exact List.find?_cons_of_pos (by simp [recRunOf])
  have hmine : ∀ w, inFlight (recQueue k body u) w → (recRunOf u k body).left.contains w.seq = true := fun w hw => recProg_mine ((hfly w).mp hw)
  obtain ⟨v, hv⟩ : ∃ v, v = setNv (fun v => { v with recQ := v.recQ.erase ((recRunOf u k body).k, (recRunOf u k body).body), recRun := v.recRun.erase (recRunOf u k body) })
    (recQueue k body u) := ⟨_, rfl⟩
  have hmine' : ∀ w, inFlight v w → (recRunOf u k body).left.contains w.seq = true := by
    rw [hv]
    exact hmine
  have hcov : Covers (flyingProgs v) (recAddr k (recTarget u k).1) (copyBytes k (recTarget u k).2 body) := by
    rw [hv]
    exact recProgs_cover hfly
  have herase : setNv (fun v => { v with planes := [], queue := [] }) v = landed u n := by
    rw [hv, hq]
    simp only [setNv, List.erase_cons_head, recRunOf, landed]
  have hblock := recBlocked_alone hmine hst
  have hatt := recAttempts_first (seq := (recTarget u k).2) (body := body) hok ((recProgs_stand n hk30 hwf hcov).valid hk30).1
  have hends := recPagesEnd_all hmine'
  rw [herase, hv] at hends
  rw [hv] at hatt
  rw [← hends] at hatt
  refine ⟨flyingProgs v, n, hcov, ?_⟩
  rw [hv, ← hends]
  exact recordWrite_passes (x := recRunOf u k body) hpf hfe' (hk ▸ hrun) hblock hatt

end Sys2Proof.Machine
end

section
/-! PROOFS. A record comes into force, and the command that waits for it completes (R348 to R351). -/

namespace Sys2Proof.Machine
open Sys2Proof Sys2Proof.Safety

/-! ## A record comes into force (R351, R361) -/

/-- What a record that comes into force leaves alone. -/
structure ForceKeeps (s t : State) : Prop where
  frame : ∃ fe m lv im au img d torn lp k w b c, t = { s with
    fe := fe
    mbx := m
    nv := { s.nv with
      level := lv
      image := im
      autostore := au
      img := img
      dirty := d
      torn := torn
      logPend := lp }
    links := k
    power := w
    boot := b
    ctr := c }
  due : t.mbx.due = s.mbx.due

namespace ForceKeeps

variable {s t u : State}

theorem trans (h : ForceKeeps s t) (k : ForceKeeps t u) : ForceKeeps s u := by
  obtain ⟨⟨_, _, _, _, _, _, _, _, _, _, _, _, _, rfl⟩, h⟩ := h
  obtain ⟨⟨_, _, _, _, _, _, _, _, _, _, _, _, _, rfl⟩, k⟩ := k
  exact ⟨⟨_, _, _, _, _, _, _, _, _, _, _, _, _, rfl⟩, k.trans h⟩

theorem refl (s : State) : ForceKeeps s s := ⟨⟨_, _, _, _, _, _, _, _, _, _, _, _, _, rfl⟩, rfl⟩

end ForceKeeps

theorem Logged.forceKeeps {s t : State} (h : Logged s t) : ForceKeeps s t ∧ t.mbx.waits = s.mbx.waits := by
  obtain ⟨_, _, _, _, _, _, _, rfl⟩ := h.frame
  exact ⟨⟨⟨_, _, _, _, _, _, _, _, _, _, _, _, _, rfl⟩, rfl⟩, rfl⟩

theorem CountsOnly.forceKeeps {s t : State} (h : CountsOnly s t) : ForceKeeps s t ∧ t.mbx.waits = s.mbx.waits := by
  obtain ⟨_, _, _, _, rfl⟩ := h
  exact ⟨⟨⟨_, _, _, _, _, _, _, _, _, _, _, _, _, rfl⟩, rfl⟩, rfl⟩

theorem calWritten_forceKeeps (k : Nat) (s : State) : ForceKeeps s (calWritten k s) ∧ (calWritten k s).mbx.waits = s.mbx.waits := by
  unfold calWritten
  split
  · exact ⟨.refl s, rfl⟩
  · exact ⟨⟨⟨_, _, _, _, _, _, _, _, _, _, _, _, _, rfl⟩, rfl⟩, rfl⟩

theorem setPhase_forceKeeps (l : Nat) (p : LinkPhase) (s : State) : ForceKeeps s (setPhase l p s) ∧ (setPhase l p s).mbx.waits = s.mbx.waits := by
  by_cases h : (linkOf s l).phase = p
  · rw [setPhase, if_pos h]
    exact ⟨.refl s, rfl⟩
  · have hp : ForceKeeps s (phased l p s) ∧ (phased l p s).mbx.waits = s.mbx.waits := by
      obtain ⟨k, hk⟩ : ∃ k, phased l p s = { s with links := k } := ⟨_, rfl⟩
      rw [hk]
      exact ⟨⟨⟨_, _, _, _, _, _, _, _, _, _, _, _, _, rfl⟩, rfl⟩, rfl⟩
    have hl := (setPhase_logged h).forceKeeps
    exact ⟨hp.1.trans hl.1, hl.2.trans hp.2⟩

theorem requestPolder_forceKeeps (p : Nat) (s : State) : ForceKeeps s (requestPolder p s) ∧ (requestPolder p s).mbx.waits = s.mbx.waits := by
  obtain ⟨w, h⟩ := requestPolder_frame p s
  rw [h]
  exact ⟨⟨⟨_, _, _, _, _, _, _, _, _, _, _, _, _, rfl⟩, rfl⟩, rfl⟩

theorem linksOn_forceKeeps (all : Bool) (s : State) : ForceKeeps s (linksOn all s) ∧ (linksOn all s).mbx.waits = s.mbx.waits := by
  unfold linksOn
  refine List.foldlRecOn (motive := fun t => ForceKeeps s t ∧ t.mbx.waits = s.mbx.waits) _ _ ⟨.refl s, rfl⟩ fun t ht l _ => ?_
  split
  · split
    · split
      · have h := setPhase_forceKeeps l .training t
        exact ⟨ht.1.trans h.1, h.2.trans ht.2⟩
      · exact ht
    · have h := requestPolder_forceKeeps (pLink l) t
      exact ⟨ht.1.trans h.1, h.2.trans ht.2⟩
  · exact ht

theorem identInForce_forceKeeps (s : State) : ForceKeeps s (identInForce s) ∧ (identInForce s).mbx.waits = s.mbx.waits := by
  have h1 : ForceKeeps s (setLinks (fun k => { k with ident := identStored s }) s) := ⟨⟨_, _, _, _, _, _, _, _, _, _, _, _, _, rfl⟩, rfl⟩
  unfold identInForce
  dsimp only
  split
  · exact ⟨h1, rfl⟩
  · have h2 := linksOn_forceKeeps true (setLinks (fun k => { k with ident := identStored s }) s)
    exact ⟨h1.trans h2.1, h2.2⟩

theorem imgRecall_eq (s : State) : ∃ t torn, CountsOnly s t ∧ imgRecall s = setNv (fun v => { v with
    img := (v.mem.filter fun c => decide (0x30000 ≤ c.1 ∧ c.1 < 0x40000)).map fun c => (c.1 - 0x30000, c.2)
    dirty := false
    torn := v.torn || torn }) t := ⟨_, _, nvCheck_countsOnly _ _ _, rfl⟩

theorem imgRecall_forceKeeps (s : State) : ForceKeeps s (imgRecall s) ∧ (imgRecall s).mbx.waits = s.mbx.waits := by
  obtain ⟨t, torn, ht, h⟩ := imgRecall_eq s
  rw [h]
  obtain ⟨_, _, _, _, rfl⟩ := ht.frame
  exact ⟨⟨⟨_, _, _, _, _, _, _, _, _, _, _, _, _, rfl⟩, rfl⟩, rfl⟩

/-- A record comes into force: of the commands that wait only a hand-over of a fence changes (R351). -/
theorem recordInForce_forceKeeps (r : RecId) (body : List Byte) (s : State) :
    ForceKeeps s (recordInForce r body s) ∧ ∀ w, s.mbx.waits = [w] → w.act = .recWrite r → (recordInForce r body s).mbx.waits = [w] := by
  cases r with
  | calib ch => exact ⟨(calWritten_forceKeeps ch s).1, fun w hw _ => (calWritten_forceKeeps ch s).2.trans hw⟩
  | ratios => exact ⟨(calWritten_forceKeeps 24 s).1, fun w hw _ => (calWritten_forceKeeps 24 s).2.trans hw⟩
  | chip => exact ⟨(identInForce_forceKeeps s).1, fun w hw _ => (identInForce_forceKeeps s).2.trans hw⟩
  | boot =>
    unfold recordInForce
    dsimp only
    split
    · exact ⟨⟨⟨_, _, _, _, _, _, _, _, _, _, _, _, _, rfl⟩, rfl⟩, fun w hw _ => hw⟩
    · refine ⟨⟨⟨_, _, _, _, _, _, _, _, _, _, _, _, _, rfl⟩, rfl⟩, fun w hw ha => ?_⟩
      simp [setMbx, setBoot, hw, ha]
  | store =>
    have h1 : ForceKeeps s (setNv (fun v => { v with
      level := (nth body 0 0).toNat % 4
      image := (nth body 1 0).getLsbD 0
      autostore := (nth body 1 0).getLsbD 1 }) s) := ⟨⟨_, _, _, _, _, _, _, _, _, _, _, _, _, rfl⟩, rfl⟩
    unfold recordInForce
    dsimp only
    split
    · have h2 := imgRecall_forceKeeps (setNv (fun v => { v with
        level := (nth body 0 0).toNat % 4
        image := (nth body 1 0).getLsbD 0
        autostore := (nth body 1 0).getLsbD 1 }) s)
      exact ⟨h1.trans h2.1, fun w hw _ => h2.2.trans hw⟩
    · exact ⟨h1, fun w hw _ => hw⟩
  | _ => exact ⟨.refl s, fun w hw _ => hw⟩

/-- The command that waits for a record completes as the record is in force. -/
theorem recordDone_progress (r : RecId) (st : Status) (s : State) : ∃ m, recordDone r st s = { s with mbx := m } := by
  have hff : ∀ p, ∃ m, finishFirst p st 0 s = { s with mbx := m } := fun p => by
    unfold finishFirst
    split
    · exact ⟨_, rfl⟩
    · exact ⟨_, rfl⟩
  have hf : ∀ p, ∃ m, finish p st 0 s = { s with mbx := m } := fun p => by
    rw [finish_eq]
    exact ⟨_, rfl⟩
  cases r <;> unfold recordDone <;> dsimp only
  case calib => exact hff _
  case ratios => exact hff _
  all_goals
    split
    · exact ⟨_, rfl⟩
    · exact hf _

theorem finishFirst_one {p : PendAct → Bool} {w : Wait} {s : State} (st : Status) (d : Nat) (hw : s.mbx.waits = [w]) (hp : p w.act = true) :
    (finishFirst p st d s).mbx.waits = [] ∧ (finishFirst p st d s).mbx.due = s.mbx.due ++ [completionOf w.opcode w.cmd st d] := by
  have hf : s.mbx.waits.find? (fun w => p w.act) = some w := by rw [hw]; exact List.find?_cons_of_pos hp
  rw [finishFirst, hf]
  exact ⟨by simp [complete, setMbx, hw], rfl⟩

theorem recordDone_one {r : RecId} {w : Wait} {s : State} (hq : s.nv.recQ = []) (hw : s.mbx.waits = [w]) (ha : w.act = .recWrite r) :
    (recordDone r .ok s).mbx.waits = [] ∧ (recordDone r .ok s).mbx.due = s.mbx.due ++ [completionOf w.opcode w.cmd .ok 0] := by
  have hfin : ∀ p : PendAct → Bool, p w.act = true → (finish p .ok 0 s).mbx.waits = [] ∧ (finish p .ok 0 s).mbx.due = s.mbx.due ++ [completionOf w.opcode w.cmd .ok 0] :=
    fun p hp => by
      rw [finish_one .ok 0 hw hp]
      exact ⟨rfl, rfl⟩
  cases r <;> unfold recordDone <;> dsimp only
  case calib => exact finishFirst_one .ok 0 hw (by simp [ha])
  case ratios => exact finishFirst_one .ok 0 hw (by simp [ha])
  all_goals
    rw [if_neg (by simp [hq])]
    exact hfin _ (by simp [ha])

/-- What goes on in the store behind a record write, with no other write of it asked for. -/
theorem recordWrite_tail {k : Nat} {s : State} (hq : s.nv.recQ = []) : Progress s (ctrGoAll (recStart k (nvPump 2048 (nvServeReads s)))) := by
  have h := (nvServeReads_progress s).trans (nvPump_progress 2048 _)
  have hq' : (nvPump 2048 (nvServeReads s)).nv.recQ = [] := by
    obtain ⟨_, _, _, _, _, _, _, _, _, hf⟩ := h.frame
    rw [hf]
    exact hq
  have hr : recStart k (nvPump 2048 (nvServeReads s)) = nvPump 2048 (nvServeReads s) := by
    rw [recStart, hq', ite_eq_left_iff]
    exact fun _ => rfl
  rw [hr]
  exact h.trans (ctrGoAll_progress _)

/-- RECORD_WRITE of a record whose write an idle store took up, with a read-back that passes (R348, R350). -/
theorem recordWrite_records {r : RecId} {oks : List Bool} {body : List Byte} {u : State} (hidle : StoreIdle u) (hfe : feAlive u = true)
    (hpick : tabGet {} u.nv.picks (recIndex r) = recChoose u (recIndex r)) (hok : nth oks 0 true = true) (hwf : memWf 0xFF#8 u.nv.mem = true) :
    ∃ t, recordWrite r oks (recQueue (recIndex r) body u) = t ∧ recBody t (recIndex r) = some (padTo (recLen (recIndex r)) body) ∧ t.nv.recQ = [] ∧
      (tabGet {} t.nv.picks (recIndex r)).copyB = (recTarget u (recIndex r)).1 ∧
      (∀ w, u.mbx.waits = [w] → w.act = .recWrite r → t.mbx.waits = [] ∧ ∃ d, t.mbx.due = u.mbx.due ++ [d] ∧ d.slot = w.cmd.slot % 64 ∧
        d.cookie = w.cmd.cookie ∧ d.status = .ok ∧ t.host = u.host) ∧
      t.seq = u.seq ∧ t.fm = u.fm ∧ t.watch = u.watch ∧ t.kv = u.kv := by
  obtain ⟨ws, n0, hcov, hrw⟩ := recordWrite_runs (r := r) (body := body) hidle hfe hok hwf
  obtain ⟨⟨e, i, x, c, mem, flips, wear, n, cq, hs⟩, hstands, -⟩ := recProgs_written n0 (recIndex_le r) hwf hpick hcov
  generalize wearTick (recPickNow (recIndex r) (nvPuts ws (landed u n0))) = s at *
  obtain ⟨⟨hforce, hfdue⟩, hfwaits⟩ := recordInForce_forceKeeps r body s
  obtain ⟨_, _, _, _, _, _, _, _, _, _, _, _, _, hforce⟩ := hforce
  have hq : (recordInForce r body s).nv.recQ = [] := by rw [hforce, hs]
  have hdue {w : Wait} := recordDone_one (r := r) (w := w) hq
  obtain ⟨m, hdone⟩ := recordDone_progress r .ok (recordInForce r body s)
  have htail := recordWrite_tail (k := recIndex r) (s := recordDone r .ok (recordInForce r body s)) (by rw [hdone]; exact hq)
  obtain ⟨_, _, _, _, _, _, _, _, _, hprog⟩ := htail.frame
  rw [hrw]
  refine ⟨_, rfl, ?_, ?_, ?_, fun w hw ha => ?_, ?_⟩
  · have hp : recBody s (recIndex r) = some (nvBytes s (recAddr (recIndex r) (recTarget u (recIndex r)).1 + 16) (recLen (recIndex r))) := by
      rw [recBody, hs]
      dsimp only
      rw [tabGet_tabSet_self]
      exact if_pos rfl
    rw [← hstands, ← hp, hprog, hdone, hforce]
    rfl
  · rw [hprog, hdone]
    exact hq
  · rw [hprog, hdone, hforce, hs]
    dsimp only
    rw [tabGet_tabSet_self]
  · have hws : s.mbx.waits = [w] := by rw [hs]; exact hw
    obtain ⟨h1, h2⟩ := hdue (hfwaits w hws ha) ha
    obtain ⟨k1, k2, k3⟩ := htail.quiet h1
    refine ⟨k1, completionOf w.opcode w.cmd .ok 0, ?_, rfl, rfl, rfl, ?_⟩
    · rw [k2, h2, hfdue, hs]
    · rw [k3, hdone, hforce, hs]
  · rw [hprog, hdone, hforce, hs]
    exact ⟨rfl, rfl, rfl, rfl⟩

end Sys2Proof.Machine
end

section
/-! PROOFS. The write of record 0x0044 is asked for, and the log pages (R349, R355, R361). -/

namespace Sys2Proof.Machine
open Sys2Proof Sys2Proof.Safety

/-! ## The write of record 0x0044 is asked for (R349, R361) -/

theorem mem_recReplace {k : Nat} {body : List Byte} {l : List (Nat × List Byte)} (h : ∃ e ∈ l, e.1 = k) : (k, body) ∈ recReplace k body l := by
  induction l with
  | nil => simp at h
  | cons e t ih =>
    rw [recReplace]
    split
    · exact List.mem_cons_self
    · rename_i hne
      refine List.mem_cons_of_mem _ (ih ?_)
      obtain ⟨x, hx, hk⟩ := h
      rcases List.mem_cons.mp hx with rfl | hx
      · have : (t.any fun x => x.1 == k) = true := by simpa [hk] using hne
        simpa using this
      · exact ⟨x, hx, hk⟩

/-- A record write that is asked for stands in the queue, behind the others or in the place of one that has not begun. -/
theorem recQueue_puts (k : Nat) (body : List Byte) (s : State) : (k, body) ∈ (recQueue k body s).nv.recQ ∧
    recQueue k body s = { s with nv := asked s (recQueue k body s) } := by
  obtain ⟨r, q, p, n, h⟩ := recStart_frame k (setNv (fun v => { v with
    recQ := if (recReplaces k && decide (b2n (recRuns s k) < (s.nv.recQ.filter fun e => e.1 == k).length)) = true then recReplace k body v.recQ
      else v.recQ ++ [(k, body)] }) s)
  have hq : recQueue k body s = _ := h
  rw [hq]
  refine ⟨?_, rfl⟩
  dsimp only [setNv]
  split
  · rename_i hc
    have hlen : 0 < (s.nv.recQ.filter fun e => e.1 == k).length := by
      have := (Bool.and_eq_true_iff.mp hc).2
      have := of_decide_eq_true this
      omega
    obtain ⟨e, he⟩ := List.exists_mem_of_length_pos hlen
    obtain ⟨he, hk⟩ := List.mem_filter.mp he
    exact mem_recReplace ⟨e, he, by simpa using hk⟩
  · exact List.mem_append_right _ List.mem_cons_self

/-- A command that asks for the write of record 0x0044 waits for it. -/
theorem recQueue_waits (op : Nat) (c : Cmd) (body : List Byte) (s : State) :
    ∃ t, waitFor op c (.recWrite .store) (recQueue 29 body (slotTaken c s)) = t ∧ (29, body) ∈ t.nv.recQ ∧
      t = { waitsNow op c (.recWrite .store) s with nv := asked s t } := by
  obtain ⟨hmem, hq⟩ := recQueue_puts 29 body (slotTaken c s)
  refine ⟨_, rfl, hmem, ?_⟩
  generalize recQueue 29 body (slotTaken c s) = u at *
  rw [hq]
  cases s
  rfl

/-- Settles O17: NV_PROTECT through `recQueue_waits`, RECORD_WRITE through `recordWrite_records`. -/
theorem storeRecords : Obligations.StoreRecords := by
  refine ⟨fun c s h => ?_, fun r oks body u s hidle hfe hs hpick hok hwf => ?_, fun s hidle hfe hne hlen => ?_⟩
  · obtain ⟨t, ht, hmem, hframe⟩ := recQueue_waits 0x0605 c (storeBody (fld c 9 8 0) (storeNext s).2.1 (storeNext s).2.2) s
    refine ⟨t, ?_, hmem, hframe⟩
    rw [exec_row_runs (i := .nvProtect c) rfl rfl h, ← ht]
    cases s; rfl
  · subst hs
    obtain ⟨t, ht, hrest⟩ := recordWrite_records (body := body) hidle hfe hpick hok hwf
    exact ⟨t, congrArg Host.Outcome.next ht, hrest⟩
  · obtain ⟨hpf, hst, hp, hq, -⟩ := hidle
    have hbytes : (s.nv.logPend.flatMap logEntryBytes).length = 32 * s.nv.logPend.length := by
      rw [List.length_flatMap, List.map_congr_left (g := fun _ => 32) (fun e _ => by simp [logEntryBytes]), List.map_const', List.sum_replicate]
      simp [Nat.mul_comm]
    have hbegin := nvSubmit_idle (page := s.nv.logPage) (bytes := placed (pageAddr s.nv.logPage)
        (s.nv.logPend.flatMap logEntryBytes ++ List.replicate (256 - 32 * s.nv.logPend.length) 0xFF#8)) (s := setNv (fun v => { v with
      logPend := []
      logPage := if 767 ≤ v.logPage then 288 else v.logPage + 1 }) s) hst hp hq
    refine ⟨_, congrArg Host.Outcome.next ((if_neg ?_).trans ?_), rfl⟩
    · simp [hpf, hfe, hne]
    · dsimp only
      rw [hbytes]
      exact hbegin

end Sys2Proof.Machine
end

section
/-! PROOFS. What a record write of the store does around its copy (R348, R350). -/

namespace Sys2Proof.Machine
open Sys2Proof Sys2Proof.Safety

/-! ## What goes on around a record copy, wherever it stands (R348, R350) -/

/-- Between two states of the store only the `n` bytes at `a` change, with what a check, a choice and a log entry leave. -/
structure AroundCopy (a n : Nat) (s t : State) : Prop where
  frame : ∃ er i x c log k mem flips picks lp wear cq, t = { s with
    mbx := { s.mbx with errSum := er, intStatus := i, msix := x }
    ctr := c
    boot := { s.boot with log := log, logSeq := k }
    nv := { s.nv with mem := mem, flips := flips, picks := picks, logPend := lp, wear := wear, ctrQ := cq } }
  wf : memWf 0xFF#8 s.nv.mem = true → memWf 0xFF#8 t.nv.mem = true
  bytes : memWf 0xFF#8 s.nv.mem = true → ∀ x, (x < a ∨ a + n ≤ x) → nvByte t x = nvByte s x

namespace AroundCopy

variable {a n : Nat} {s t u : State}

theorem refl (a n : Nat) (s : State) : AroundCopy a n s s := ⟨⟨_, _, _, _, _, _, _, _, _, _, _, _, rfl⟩, fun h => h, fun _ _ _ => rfl⟩

theorem trans (h : AroundCopy a n s t) (k : AroundCopy a n t u) : AroundCopy a n s u := by
  obtain ⟨⟨_, _, _, _, _, _, _, _, _, _, _, _, hf⟩, hw, hb⟩ := h
  obtain ⟨⟨_, _, _, _, _, _, _, _, _, _, _, _, kf⟩, kw, kb⟩ := k
  refine ⟨?_, fun h => kw (hw h), fun h x hx => (kb (hw h) x hx).trans (hb h x hx)⟩
  rw [kf, hf]
  exact ⟨_, _, _, _, _, _, _, _, _, _, _, _, rfl⟩

/-- A step that leaves the memory. -/
theorem of_same (h : ∃ er i x c log k flips picks lp wear cq, t = { s with
    mbx := { s.mbx with errSum := er, intStatus := i, msix := x }
    ctr := c
    boot := { s.boot with log := log, logSeq := k }
    nv := { s.nv with flips := flips, picks := picks, logPend := lp, wear := wear, ctrQ := cq } }) : AroundCopy a n s t := by
  obtain ⟨_, _, _, _, _, _, _, _, _, _, _, rfl⟩ := h
  exact ⟨⟨_, _, _, _, _, _, _, _, _, _, _, _, rfl⟩, fun h => h, fun _ _ _ => rfl⟩

theorem ite {c : Prop} [Decidable c] (h : AroundCopy a n s t) (k : AroundCopy a n s u) : AroundCopy a n s (if c then t else u) := by
  split
  · exact h
  · exact k

end AroundCopy

theorem CountsOnly.aroundCopy {a n : Nat} {s t : State} (h : CountsOnly s t) : AroundCopy a n s t := by
  obtain ⟨_, _, _, _, rfl⟩ := h.frame
  exact .of_same ⟨_, _, _, _, _, _, _, _, _, _, _, rfl⟩

theorem Logged.aroundCopy {a n : Nat} {s t : State} (h : Logged s t) : AroundCopy a n s t := by
  obtain ⟨_, _, _, _, _, _, _, rfl⟩ := h.frame
  exact .of_same ⟨_, _, _, _, _, _, _, _, _, _, _, rfl⟩

theorem nvWear_aroundCopy (a n k : Nat) (s : State) : AroundCopy a n s (nvWear k s) := .of_same ⟨_, _, _, _, _, _, _, _, _, _, _, rfl⟩

theorem wearTick_aroundCopy (a n : Nat) (s : State) : AroundCopy a n s (wearTick s) := by
  obtain ⟨w, q, h⟩ := wearTick_frame s
  rw [h]
  exact .of_same ⟨_, _, _, _, _, _, _, _, _, _, _, rfl⟩

theorem nvPut_aroundCopy {a n : Nat} {bs : List Byte} (h : bs.length = n) (s : State) : AroundCopy a n s (nvPut (placed a bs) s) := by
  refine ⟨?_, nvPut_wf _, fun hwf x hx => ?_⟩
  · obtain ⟨t, ht, he⟩ := nvPut_eq (placed a bs) s
    obtain ⟨_, _, _, _, hf⟩ := ht.frame
    rw [he, hf]
    exact ⟨_, _, _, _, _, _, _, _, _, _, _, _, rfl⟩
  · rw [nvPut_byte _ hwf, lastWrite_placed_out (h ▸ hx)]

theorem recProgram_aroundCopy (k : Nat) (b : Bool) (seq : W32) (body : List Byte) (s : State) :
    AroundCopy (recAddr k b) (copyLen k) s (recProgram k b seq body s) :=
  (nvPut_aroundCopy (copyBytes_length k seq body) s).trans (nvWear_aroundCopy _ _ _ _)

theorem recRead_aroundCopy (k : Nat) (b ok : Bool) (a n : Nat) (s : State) : AroundCopy a n s (recRead k b ok s).2 := by
  unfold recRead
  split
  · exact .refl a n s
  · exact .of_same ⟨_, _, _, _, _, _, _, _, _, _, _, rfl⟩

theorem recPickNow_aroundCopy (k a n : Nat) (s : State) : AroundCopy a n s (recPickNow k s) := by
  have hpick : AroundCopy a n s (setNv (fun v => { v with picks := tabSet v.picks k (recChoose s k) })
      (nvCheck (recAddr k true) (16 + recLen k) (nvCheck (recAddr k false) (16 + recLen k) s))) :=
    AroundCopy.trans ((nvCheck_countsOnly _ _ _).trans (nvCheck_countsOnly _ _ _)).aroundCopy (.of_same ⟨_, _, _, _, _, _, _, _, _, _, _, rfl⟩)
  unfold recPickNow
  dsimp only
  refine .ite ?_ hpick
  exact (hpick.trans (CountsOnly.ctrSet (bump_countsOnly _ _) _ _).aroundCopy).trans (logEvent_logged _ _ _ _ _).aroundCopy

/-- A read-back that failed programs the copy again. -/
def readAgain (k : Nat) (b : Bool) (seq : W32) (body : List Byte) (ok : Bool) (r : Bool × State) : Bool × State :=
  if r.1 then r else recRead k b ok (recProgram k b seq body r.2)

/-- The three read-backs of a copy. -/
def readThrice (k : Nat) (b : Bool) (seq : W32) (body : List Byte) (oks : List Bool) (s : State) : Bool × State :=
  readAgain k b seq body (nth oks 2 true) (readAgain k b seq body (nth oks 1 true) (recRead k b (nth oks 0 true) s))

theorem recAttempts_eq (k : Nat) (b : Bool) (seq : W32) (body : List Byte) (oks : List Bool) (s : State) :
    recAttempts k b seq body oks s = if (readThrice k b seq body oks s).1 then (true, wearTick (recPickNow k (readThrice k b seq body oks s).2))
      else (false, wearTick (logEvent 0x0050 7 (recIdOf k) 1 (recPickNow k (readThrice k b seq body oks s).2))) := rfl

theorem readAgain_aroundCopy {k : Nat} {b : Bool} (seq : W32) (body : List Byte) (ok : Bool) {s : State} {r : Bool × State}
    (h : AroundCopy (recAddr k b) (copyLen k) s r.2) : AroundCopy (recAddr k b) (copyLen k) s (readAgain k b seq body ok r).2 := by
  unfold readAgain
  split
  · exact h
  · exact (h.trans (recProgram_aroundCopy k b seq body r.2)).trans (recRead_aroundCopy k b ok _ _ _)

theorem readThrice_aroundCopy (k : Nat) (b : Bool) (seq : W32) (body : List Byte) (oks : List Bool) (s : State) :
    AroundCopy (recAddr k b) (copyLen k) s (readThrice k b seq body oks s).2 := by
  have h0 := recRead_aroundCopy k b (nth oks 0 true) (recAddr k b) (copyLen k) s
  have h1 := readAgain_aroundCopy seq body (nth oks 1 true) h0
  exact readAgain_aroundCopy seq body (nth oks 2 true) h1

/-- A write of a copy that is read back up to three times. -/
theorem recAttempts_aroundCopy (k : Nat) (b : Bool) (seq : W32) (body : List Byte) (oks : List Bool) (s : State) :
    AroundCopy (recAddr k b) (copyLen k) s (recAttempts k b seq body oks s).2 := by
  rw [recAttempts_eq]
  have ht := readThrice_aroundCopy k b seq body oks s
  generalize readThrice k b seq body oks s = r at *
  have hr := ht.trans (recPickNow_aroundCopy k (recAddr k b) (copyLen k) r.2)
  split
  · dsimp only
    exact hr.trans (wearTick_aroundCopy _ _ (recPickNow k r.2))
  · dsimp only
    exact (hr.trans (logEvent_logged 0x0050 7 (recIdOf k) 1 _).aroundCopy).trans (wearTick_aroundCopy _ _ _)

theorem nvWear_byte (n : Nat) (s : State) (x : Nat) : nvByte (nvWear n s) x = nvByte s x := rfl

theorem nvWear_group (n : Nat) (s : State) (g : Nat) : nvGroup (nvWear n s) g = nvGroup s g := rfl

/-- A copy that was written stands, whatever stood there. -/
theorem recProgram_valid {k : Nat} (hk : k ≤ 30) (b : Bool) (seq : W32) (body : List Byte) {s : State} (hwf : memWf 0xFF#8 s.nv.mem = true) :
    copyValid (recProgram k b seq body s) k b = true := by
  have hlen := copyBytes_length k seq body
  have hstands : CopyStands (recProgram k b seq body s) k b seq body := by
    refine ⟨?_, fun g hg hg' => ?_⟩
    · rw [← hlen]
      refine nvBytes_placed fun j hj => ?_
      rw [recProgram, nvWear_byte, nvPut_byte _ hwf, lastWrite_placed_in hj]
    · have ha := recAddr_mod k b
      rw [recProgram, nvWear_group, nvPut_group, if_pos]
      refine List.mem_map.mpr ⟨(recAddr k b + (8 * g - recAddr k b), nth (copyBytes k seq body) (8 * g - recAddr k b) 0), ?_, by dsimp only; omega⟩
      exact List.mem_map.mpr ⟨8 * g - recAddr k b, List.mem_range.mpr (by omega), rfl⟩
  exact (hstands.valid hk).1

theorem recRead_fst {k : Nat} {b ok : Bool} {s : State} (h : copyValid s k b = true) : (recRead k b ok s).1 = ok := by
  rw [recRead, h, Bool.and_true]
  cases ok <;> rfl

theorem readAgain_fst {k : Nat} (hk : k ≤ 30) {b : Bool} (seq : W32) (body : List Byte) (ok : Bool) {r : Bool × State} (hwf : memWf 0xFF#8 r.2.nv.mem = true) :
    (readAgain k b seq body ok r).1 = (r.1 || ok) := by
  unfold readAgain
  split
  · rename_i h
    rw [h, Bool.true_or]
  · rename_i h
    rw [recRead_fst (recProgram_valid hk b seq body hwf), Bool.eq_false_iff.mpr h, Bool.false_or]

/-- A write of a record is done when one of its three read-backs passes. -/
theorem recAttempts_fst {k : Nat} (hk : k ≤ 30) (b : Bool) (seq : W32) (body : List Byte) (oks : List Bool) {s : State} (hwf : memWf 0xFF#8 s.nv.mem = true) :
    (recAttempts k b seq body oks (recProgram k b seq body s)).1 = (nth oks 0 true || nth oks 1 true || nth oks 2 true) := by
  have hwf1 := (recProgram_aroundCopy k b seq body s).wf hwf
  have h0 := recRead_aroundCopy k b (nth oks 0 true) (recAddr k b) (copyLen k) (recProgram k b seq body s)
  have h1 := readAgain_aroundCopy seq body (nth oks 1 true) h0
  have hthrice : (readThrice k b seq body oks (recProgram k b seq body s)).1 = (nth oks 0 true || nth oks 1 true || nth oks 2 true) := by
    rw [readThrice, readAgain_fst hk _ _ _ (h1.wf hwf1), readAgain_fst hk _ _ _ (h0.wf hwf1), recRead_fst (recProgram_valid hk b seq body hwf)]
  rw [recAttempts_eq, ← hthrice]
  split
  · rename_i h
    exact h.symm
  · rename_i h
    exact (Bool.eq_false_iff.mpr h).symm

end Sys2Proof.Machine
end

section
/-! PROOFS. The volatile image and the end of its store (R362 to R367). -/

namespace Sys2Proof.Machine
open Sys2Proof Sys2Proof.Safety

/-! ## The volatile image (R362 to R367) -/

/-- A part of a memory, taken out and moved to 0, reads as it did. -/
theorem memRead_window {d : Byte} {lo hi l k : Nat} {m : Mem} (h : memWfFrom d l m = true) (hk : lo + k < hi) :
    memRead d ((m.filter fun c => decide (lo ≤ c.1 ∧ c.1 < hi)).map fun c => (c.1 - lo, c.2)) k = memRead d m (lo + k) := by
  induction m generalizing l with
  | nil => rfl
  | cons c t ih =>
    obtain ⟨x, b⟩ := c
    simp only [memWfFrom, Bool.and_eq_true, decide_eq_true_eq] at h
    have ih := ih h.2
    by_cases hin : lo ≤ x ∧ x < hi
    · rw [List.filter_cons_of_pos (by simpa using hin), List.map_cons, memRead, memRead, ih]
      refine if_congr (by omega) rfl (if_congr (by omega) rfl rfl)
    · rw [List.filter_cons_of_neg (by simpa using hin), ih, memRead, if_neg (by omega)]
      split
      · exact memRead_lt h.2 (by omega)
      · rfl

/-- The image that a recall brings is what the image pages hold (R365). -/
theorem imgRecall_reads {s : State} (hwf : memWf 0xFF#8 s.nv.mem = true) {k : Nat} (hk : k < 0x10000) :
    memRead 0xFF#8 (imgRecall s).nv.img k = nvByte s (0x30000 + k) := by
  obtain ⟨t, torn, ht, h⟩ := imgRecall_eq s
  rw [h, setNv_nv, ht.nv_eq]
  exact memRead_window hwf (by omega)

theorem imgRecall_clean {s : State} (h : ∀ g, nvGroup s g = 0) : ∃ torn, imgRecall s = setNv (fun v => { v with
    img := (v.mem.filter fun c => decide (0x30000 ≤ c.1 ∧ c.1 < 0x40000)).map fun c => (c.1 - 0x30000, c.2)
    dirty := false
    torn := v.torn || torn }) s := by
  rw [imgRecall, nvCheck_clean h]
  exact ⟨_, rfl⟩

theorem imgPut_reads (a : Nat) (bs : List Byte) {s : State} (hwf : memWf 0xFF#8 s.nv.img = true) (x : Nat) :
    memRead 0xFF#8 (imgPut (placed a bs) s).nv.img x = lastWrite (placed a bs) x (memRead 0xFF#8 s.nv.img x) :=
  memRead_foldl_lastWrite _ _ hwf x

/-! ## The end of a store of the image (R364, R366, R367) -/

/-- What goes on behind the end of a store of the image. -/
structure StoreTail (s t : State) : Prop where
  frame : ∃ m h c n, t = { s with mbx := m, host := h, ctr := c, nv := n }
  mem : t.nv.mem = s.nv.mem
  storing : t.nv.storing = s.nv.storing
  torn : t.nv.torn = s.nv.torn
  waits : ∀ w ∈ t.mbx.waits, w.act = .imgStore → w ∈ s.mbx.waits
  due : ∀ e ∈ s.mbx.due, e ∈ t.mbx.due

namespace StoreTail

variable {s t u : State}

theorem refl (s : State) : StoreTail s s := ⟨⟨_, _, _, _, rfl⟩, rfl, rfl, rfl, fun _ h _ => h, fun _ h => h⟩

theorem trans (h : StoreTail s t) (k : StoreTail t u) : StoreTail s u := by
  refine ⟨?_, k.mem.trans h.mem, k.storing.trans h.storing, k.torn.trans h.torn, fun w hw ha => h.waits w (k.waits w hw ha) ha, fun e he => k.due e (h.due e he)⟩
  obtain ⟨_, _, _, _, hf⟩ := h.frame
  obtain ⟨_, _, _, _, kf⟩ := k.frame
  rw [kf, hf]
  exact ⟨_, _, _, _, rfl⟩

end StoreTail

theorem Progress.storeTail {s t : State} (h : Progress s t) : StoreTail s t := by
  obtain ⟨⟨_, _, _, _, _, _, _, _, _, hf⟩, hw, hd, -⟩ := h
  refine ⟨?_, ?_, ?_, ?_, fun w h _ => hw w h, hd⟩ <;> rw [hf]
  exact ⟨_, _, _, _, rfl⟩

theorem recQueue_storeTail (k : Nat) (body : List Byte) (s : State) : StoreTail s (recQueue k body s) := by
  have h := (recQueue_puts k body s).2
  refine ⟨?_, ?_, ?_, ?_, fun w hw _ => ?_, fun e he => ?_⟩
  · exact ⟨_, _, _, _, h⟩
  · rw [h]; rfl
  · rw [h]; rfl
  · rw [h]; rfl
  · rw [h] at hw; exact hw
  · rw [h]; exact he

theorem modeGoes_storeTail (ok : Bool) (s : State) : StoreTail s (modeGoes ok s) := by
  unfold modeGoes
  extract_lets isMode
  split
  · exact .refl s
  · rename_i im au _
    have h1 : StoreTail s (setNv (fun v => { v with modeNext := none }) s) := ⟨⟨_, _, _, _, rfl⟩, rfl, rfl, rfl, fun _ h _ => h, fun _ h => h⟩
    have h2 : ∀ t, StoreTail t (setMbx (fun m => { m with
        waits := m.waits.map fun w => if isMode w.act then { w with act := .recWrite .store } else w }) t) := fun t => by
      refine ⟨⟨_, _, _, _, rfl⟩, rfl, rfl, rfl, fun w hw ha => ?_, fun _ h => h⟩
      obtain ⟨v, hv, rfl⟩ := List.mem_map.mp hw
      by_cases hm : isMode v.act = true
      · simp [hm] at ha
      · simp only [hm] at ha ⊢
        exact hv
    split
    · exact h1.trans (finish_progress _ _ _ _).storeTail
    · exact (h1.trans (h2 _)).trans (recQueue_storeTail _ _ _)

theorem lateWrites_storeTail (late : List (Nat × List (Nat × Byte))) (s : State) :
    StoreTail s (late.foldl (fun t w => finish (· == .nvWrite w.1) .ok 0 (imgPut w.2 t)) s) := by
  refine List.foldlRecOn (motive := fun t => StoreTail s t) _ _ (.refl s) fun t ht w _ => ?_
  have hput : StoreTail t (imgPut w.2 t) := ⟨⟨_, _, _, _, rfl⟩, rfl, rfl, rfl, fun _ h _ => h, fun _ h => h⟩
  exact (ht.trans hput).trans (finish_progress _ _ _ _).storeTail

/-- The image pages hold the image. -/
def imgLanded (img : Mem) (s : State) : State := nvWear 256 (nvPut (placed 0x30000 (memReadN 0xFF#8 img 0 0x10000)) s)

theorem imgLanded_around (img : Mem) (s : State) : AroundCopy 0x30000 0x10000 s (imgLanded img s) :=
  (nvPut_aroundCopy (by rw [memReadN, List.length_map, List.length_range]) s).trans (nvWear_aroundCopy _ _ _ _)

theorem imgLanded_byte {img : Mem} {s : State} (hwf : memWf 0xFF#8 s.nv.mem = true) {k : Nat} (hk : k < 0x10000) :
    nvByte (imgLanded img s) (0x30000 + k) = memRead 0xFF#8 img k := by
  have hlen : (memReadN 0xFF#8 img 0 0x10000).length = 0x10000 := by rw [memReadN, List.length_map, List.length_range]
  rw [imgLanded, nvWear_byte, nvPut_byte _ hwf, lastWrite_placed_in (by rw [hlen]; exact hk), memReadN, nth_map_range _ _ hk, Nat.zero_add]

theorem imgStoreDo_eq (img : Mem) (s : State) : ∃ sealB, imgStoreDo img s =
    ((recWriteNow 30 sealB (freeOks s) (imgLanded img s)).1,
      draw (setNv (fun v => { v with
        storing := none
        failStore := false
        dirty := v.dirty && !(recWriteNow 30 sealB (freeOks s) (imgLanded img s)).1
        torn := v.torn && !(recWriteNow 30 sealB (freeOks s) (imgLanded img s)).1 }) (recWriteNow 30 sealB (freeOks s) (imgLanded img s)).2)) :=
  ⟨_, rfl⟩

theorem freeOks_any (s : State) : (nth (freeOks s) 0 true || nth (freeOks s) 1 true || nth (freeOks s) 2 true) = (freeOks s).any id := by
  simp [freeOks, nth, List.range_succ, Bool.or_assoc]

theorem recWriteNow_aroundCopy (k : Nat) (body : List Byte) (oks : List Bool) (s : State) :
    AroundCopy (recAddr k (recTarget s k).1) (copyLen k) s (recWriteNow k body oks s).2 := by
  rw [recWriteNow]
  exact (recProgram_aroundCopy k (recTarget s k).1 (recTarget s k).2 body s).trans (recAttempts_aroundCopy k _ _ body oks _)

/-- Whether the seal of a store stands. -/
theorem imgStoreDo_fst {img : Mem} {s : State} (hwf : memWf 0xFF#8 s.nv.mem = true) : (imgStoreDo img s).1 = (freeOks s).any id := by
  obtain ⟨sealB, h⟩ := imgStoreDo_eq img s
  rw [h, recWriteNow]
  exact (recAttempts_fst (Nat.le_refl 30) _ _ sealB (freeOks s) ((imgLanded_around img s).wf hwf)).trans (freeOks_any s)

/-- What a store of the image leaves. -/
structure Stored (img : Mem) (ok : Bool) (s t : State) : Prop where
  frame : ∃ m n c b, t = { s with mbx := m, nv := n, ctr := c, boot := b, free := s.free + 1 }
  waits : t.mbx.waits = s.mbx.waits
  due : t.mbx.due = s.mbx.due
  storing : t.nv.storing = none
  torn : t.nv.torn = (s.nv.torn && !ok)
  bytes : ∀ k, k < 0x10000 → nvByte t (0x30000 + k) = memRead 0xFF#8 img k

theorem seal_below (b : Bool) : recAddr 30 b + copyLen 30 ≤ 0x30000 := by
  cases b <;> decide

theorem imgStoreDo_stored {img : Mem} {s : State} (hwf : memWf 0xFF#8 s.nv.mem = true) :
    Stored img (imgStoreDo img s).1 s (imgStoreDo img s).2 := by
  obtain ⟨sealB, h⟩ := imgStoreDo_eq img s
  have himg := imgLanded_around img s
  have hwf1 := himg.wf hwf
  have hbyte := fun {k} hk => imgLanded_byte (img := img) (k := k) hwf hk
  have hrec := recWriteNow_aroundCopy 30 sealB (freeOks s) (imgLanded img s)
  have hbelow := seal_below (recTarget (imgLanded img s) 30).1
  rw [h]
  generalize recWriteNow 30 sealB (freeOks s) (imgLanded img s) = r at *
  obtain ⟨_, _, _, _, _, _, _, _, _, _, _, _, hf⟩ := himg.frame
  obtain ⟨_, _, _, _, _, _, _, _, _, _, _, _, hr⟩ := hrec.frame
  have hbytes : ∀ k, k < 0x10000 → nvByte r.2 (0x30000 + k) = memRead 0xFF#8 img k := fun k hk =>
    (hrec.bytes hwf1 _ (.inr (by omega))).trans (hbyte hk)
  refine ⟨?_, ?_, ?_, rfl, ?_, hbytes⟩ <;> rw [hr, hf]
  · exact ⟨_, _, _, _, rfl⟩
  · rfl
  · rfl
  · rfl

/-- The end of a store of the image. -/
theorem imageStoreEnd_stored {img : Mem} {s : State} (hst : s.nv.storing = some img) (hp : s.nv.planes = []) :
    StoreTail (finish (· == .imgStore) (if (imgStoreDo img s).1 then .ok else .internal) 0 (imgStoreDo img s).2) (imageStoreEnd s) := by
  rw [imageStoreEnd, hst]
  refine Eq.mpr (congrArg (StoreTail _) (if_neg (by simp [hp]))) ?_
  dsimp only
  generalize imgStoreDo img s = r
  generalize finish (· == .imgStore) (if r.1 then .ok else .internal) 0 r.2 = u
  have h1 : StoreTail u (setNv (fun v => { v with imgWaits := [] }) u) := ⟨⟨_, _, _, _, rfl⟩, rfl, rfl, rfl, fun _ h _ => h, fun _ h => h⟩
  exact (((h1.trans (lateWrites_storeTail _ _)).trans ((nvServeReads_progress _).trans (nvPump_progress _ _)).storeTail).trans (modeGoes_storeTail _ _)).trans
    (ctrGoAll_progress _).storeTail

end Sys2Proof.Machine
end

section
/-! PROOFS. The commands of the image (R362 to R367). -/

namespace Sys2Proof.Machine
open Sys2Proof Sys2Proof.Safety

/-! ## The commands of the image (R362 to R367) -/

/-- Record 0x0044 that brings image mode recalls the image as it is in force. -/
theorem recordWrite_recalls {oks : List Bool} {body : List Byte} {u : State} (hidle : StoreIdle u) (hfe : feAlive u = true) (hok : nth oks 0 true = true)
    (hon : (nth body 1 0).getLsbD 0 = true) (hoff : u.nv.image = false) (hwf : memWf 0xFF#8 u.nv.mem = true) :
    ∃ t, recordWrite .store oks (recQueue 29 body u) = t ∧ t.nv.image = true ∧ t.nv.dirty = false ∧
      ∀ k, k < 0x10000 → memRead 0xFF#8 t.nv.img k = nvByte u (0x30000 + k) := by
  obtain ⟨ws, n, hcov, hrw⟩ := recordWrite_runs (r := .store) (body := body) hidle hfe hok hwf
  have hpick := (recPickNow_aroundCopy 29 0 0 (nvPuts ws (landed u n))).trans (wearTick_aroundCopy 0 0 (recPickNow 29 (nvPuts ws (landed u n))))
  have hwf0 : memWf 0xFF#8 (nvPuts ws (landed u n)).nv.mem = true := nvPuts_wf ws hwf
  have hbyte : ∀ k, k < 0x10000 → nvByte (nvPuts ws (landed u n)) (0x30000 + k) = nvByte u (0x30000 + k) := fun k _ => by
    have hbelow : ∀ b, recAddr 29 b + copyLen 29 ≤ 0x30000 := by decide
    exact recProgs_outside n hwf hcov (.inr (Nat.le_add_right_of_le (hbelow _)))
  obtain ⟨_, _, _, _, ht, hp⟩ := nvPuts_frame ws (landed u n)
  obtain ⟨_, _, _, _, rfl⟩ := ht.frame
  generalize nvPuts ws (landed u n) = s0 at *
  have hbyte1 := hpick.bytes hwf0
  have hwf1 := hpick.wf hwf0
  obtain ⟨_, _, _, _, _, _, _, _, _, _, _, _, hpf⟩ := hpick.frame
  have hrw' : recordWrite .store oks (recQueue 29 body u) =
    ctrGoAll (recStart 29 (nvPump 2048 (nvServeReads (recordDone .store .ok (recordInForce .store body (wearTick (recPickNow 29 s0))))))) := hrw
  generalize wearTick (recPickNow 29 s0) = s1 at *
  have himage : s1.nv.image = false := by rw [hpf, hp]; exact hoff
  have hforce : recordInForce .store body s1 = imgRecall (setNv (fun v => { v with
      level := (nth body 0 0).toNat % 4
      image := (nth body 1 0).getLsbD 0
      autostore := (nth body 1 0).getLsbD 1 }) s1) := if_pos (Bool.and_eq_true_iff.mpr ⟨hon, by rw [himage]; rfl⟩)
  have hreads : ∀ k, k < 0x10000 → memRead 0xFF#8 (recordInForce .store body s1).nv.img k = nvByte u (0x30000 + k) := fun k hk => by
    rw [hforce, imgRecall_reads (by exact hwf1) hk, ← hbyte k hk, ← hbyte1 _ (.inr (Nat.zero_le _))]
    rfl
  have hset : (recordInForce .store body s1).nv.image = true ∧ (recordInForce .store body s1).nv.dirty = false ∧ (recordInForce .store body s1).nv.recQ = [] := by
    rw [hforce]
    obtain ⟨v, torn, hv, he⟩ := imgRecall_eq (setNv (fun v => { v with
      level := (nth body 0 0).toNat % 4
      image := (nth body 1 0).getLsbD 0
      autostore := (nth body 1 0).getLsbD 1 }) s1)
    rw [he, setNv_nv, hv.nv_eq]
    refine ⟨hon, rfl, ?_⟩
    rw [setNv_nv, hpf, hp]
    rfl
  obtain ⟨m, hdone⟩ := recordDone_progress .store .ok (recordInForce .store body s1)
  have htail := recordWrite_tail (k := 29) (s := recordDone .store .ok (recordInForce .store body s1)) (by rw [hdone]; exact hset.2.2)
  obtain ⟨_, _, _, _, _, _, _, _, _, hprog⟩ := htail.frame
  rw [hrw', hprog, hdone]
  exact ⟨_, rfl, hset.1, hset.2.1, hreads⟩

/-- NV_WRITE to the image. -/
theorem nvWrite_image {c : Cmd} {s : State} (hlo : 1 ≤ fld c 44 32 0) (hhi : fld c 44 32 0 ≤ 256) (him : inImage s (fld c 18 0 0) = true)
    (htop : fld c 18 0 0 + fld c 44 32 0 ≤ 0x40000) (hst : s.nv.storing = none) :
    bodyNvWrite c (slotTaken c s) = completeOk 0x0602 c 0 (imgPut (placed (fld c 18 0 0 - 0x30000) (hostRead s (fld c 127 64 0) (fld c 44 32 0))) (slotTaken c s)) := by
  have him' : inImage (slotTaken c s) (fld c 18 0 0) = true := by cases s; exact him
  have hst' : (slotTaken c s).nv.storing.isSome = false := by cases s; exact congrArg Option.isSome hst
  refine ((((if_neg (by omega)).trans (if_pos him')).trans (if_neg (by omega))).trans (if_neg (by simp [hst']))).trans ?_
  cases s; rfl

/-- A command that starts a store of the image waits for its end. -/
theorem imgStore_taken (c : Cmd) (s : State) : waitFor 0x0607 c .imgStore (imgStoreStart false (slotTaken c s)) =
    { waitsNow 0x0607 c .imgStore s with nv := { s.nv with storing := some s.nv.img, failStore := false } } := by
  cases s; rfl

/-- NV_IMG_RECALL in image mode. -/
theorem imgRecall_command {c : Cmd} {s : State} (hwf : memWf 0xFF#8 s.nv.mem = true) :
    ∃ t, completeOk 0x0608 c 0 (imgRecall (slotTaken c s)) = t ∧ t.nv.dirty = false ∧
      (∀ k, k < 0x10000 → memRead 0xFF#8 t.nv.img k = nvByte s (0x30000 + k)) ∧ t.nv.mem = s.nv.mem ∧
      t.mbx.due = s.mbx.due ++ [completionOf 0x0608 c .ok 0] ∧ t.mbx.own = s.mbx.own ||| slotBit c ∧
      t = { s with mbx := t.mbx, nv := t.nv, ctr := t.ctr } ∧
      ((∀ g, nvGroup s g = 0) → t = { completed 0x0608 c .ok 0 s with nv := t.nv }) := by
  have htaken : slotTaken c s = { s with mbx := (slotTaken c s).mbx } := by cases s; rfl
  have hreads : ∀ k, k < 0x10000 → memRead 0xFF#8 (imgRecall (slotTaken c s)).nv.img k = nvByte s (0x30000 + k) := fun k hk => by
    rw [imgRecall_reads (by rw [htaken]; exact hwf) hk]
    cases s; rfl
  have hclean : (∀ g, nvGroup s g = 0) → completeOk 0x0608 c 0 (imgRecall (slotTaken c s)) =
      { completed 0x0608 c .ok 0 s with nv := (completeOk 0x0608 c 0 (imgRecall (slotTaken c s))).nv } := fun h => by
    obtain ⟨torn, he⟩ := imgRecall_clean (s := slotTaken c s) (by cases s; exact h)
    rw [he]
    cases s; rfl
  obtain ⟨t, torn, ht, h⟩ := imgRecall_eq (slotTaken c s)
  obtain ⟨_, _, _, _, hf⟩ := ht.frame
  refine ⟨_, rfl, ?_, hreads, ?_, ?_, ?_, ?_, hclean⟩
  · rw [h]; rfl
  · rw [h, hf]; cases s; rfl
  · rw [h, hf]; cases s; rfl
  · rw [h, hf]; cases s; rfl
  · rw [h, hf]; cases s; rfl

/-- Settles O18: the commands of the image, its recall by a record, and the end of its store. -/
theorem storeImage : Obligations.StoreImage := by
  refine ⟨fun c s h hlo hhi him htop hst hwf => ?_, fun c s h hst => ⟨fun hdirty => ?_, fun hclean hforce => ?_⟩,
    fun c s h hst hoff => ⟨fun him hdirty => ?_, fun hor => ?_⟩, fun c s h hst hon => ?_, fun oks body u s hidle hfe hs hok hon hoff hwf => ?_,
    fun c s h hst him hwf => ?_, fun img s hst hp hwf => ?_⟩
  · have hexec := exec_row_runs (i := .nvWrite c) rfl rfl h
    have hbody := (nvWrite_image hlo hhi him htop hst)
    have hwf' : memWf 0xFF#8 (slotTaken c s).nv.img = true := by cases s; exact hwf
    have himg : (slotTaken c s).nv.img = s.nv.img := by cases s; rfl
    have hlen : (hostRead s (fld c 127 64 0) (fld c 44 32 0)).length = fld c 44 32 0 := by simp [hostRead, memReadN]
    have hreads := imgPut_reads (fld c 18 0 0 - 0x30000) (hostRead s (fld c 127 64 0) (fld c 44 32 0)) hwf'
    rw [himg] at hreads
    refine ⟨_, hexec.trans (congrArg Host.Outcome.next hbody), rfl, fun k hk => ?_, fun a ha => ?_, ?_⟩
    · refine (hreads _).trans ?_
      rw [lastWrite_placed_in (by rw [hlen]; exact hk), hostRead, memReadN, nth_map_range _ _ hk]
    · refine (hreads a).trans ?_
      rw [lastWrite_placed_out (by rw [hlen]; exact ha)]
    · cases s; rfl
  · rw [exec_row_runs (i := .nvImgStore c) rfl rfl h, ← imgStore_taken]
    have hst' : (slotTaken c s).nv.storing = none := by cases s; exact hst
    have hdirty' : (slotTaken c s).nv.dirty = true ∨ fldB c 12 false = true := by cases s; exact hdirty
    exact congrArg Host.Outcome.next ((if_neg (by simp [hst'])).trans (if_pos (by simpa using hdirty')))
  · rw [exec_row_runs (i := .nvImgStore c) rfl rfl h, ← completeOk_taken]
    have hst' : (slotTaken c s).nv.storing = none := by cases s; exact hst
    have hclean' : (slotTaken c s).nv.dirty = false := by cases s; exact hclean
    exact congrArg Host.Outcome.next ((if_neg (by simp [hst'])).trans (if_neg (by simp [hclean', hforce])))
  · have hst' : (slotTaken c s).nv.storing = none := by cases s; exact hst
    have him' : (slotTaken c s).nv.image = true := by cases s; exact him
    have hdirty' : (slotTaken c s).nv.dirty = true := by cases s; exact hdirty
    rw [exec_row_runs (i := .nvMode c) rfl rfl h]
    refine congrArg Host.Outcome.next ((if_neg (by simp [hst'])).trans ((if_pos (by simp [hoff, him', hdirty'])).trans ?_))
    rw [hoff]
    cases s; rfl
  · have hst' : (slotTaken c s).nv.storing = none := by cases s; exact hst
    have hor' : (slotTaken c s).nv.image = false ∨ (slotTaken c s).nv.dirty = false := by cases s; exact hor
    obtain ⟨t, ht, hrest⟩ := recQueue_waits 0x0606 c (storeBody (storeNext s).1 false (fldB c 11 true)) s
    refine ⟨t, ?_, hrest⟩
    rw [exec_row_runs (i := .nvMode c) rfl rfl h, ← ht]
    refine congrArg Host.Outcome.next ((if_neg (by simp [hst'])).trans ((if_neg (by rcases hor' with h | h <;> simp [h])).trans ?_))
    rw [hoff]
    cases s; rfl
  · have hst' : (slotTaken c s).nv.storing = none := by cases s; exact hst
    obtain ⟨t, ht, hrest⟩ := recQueue_waits 0x0606 c (storeBody (storeNext s).1 true (fldB c 11 true)) s
    refine ⟨t, ?_, hrest⟩
    rw [exec_row_runs (i := .nvMode c) rfl rfl h, ← ht]
    refine congrArg Host.Outcome.next ((if_neg (by simp [hst'])).trans ((if_neg (by simp [hon])).trans ?_))
    rw [hon]
    cases s; rfl
  · subst hs
    obtain ⟨t, ht, hrest⟩ := recordWrite_recalls hidle hfe hok hon hoff hwf
    exact ⟨t, congrArg Host.Outcome.next ht, hrest⟩
  · have hst' : (slotTaken c s).nv.storing = none := by cases s; exact hst
    have him' : (slotTaken c s).nv.image = true := by cases s; exact him
    obtain ⟨t, ht, hrest⟩ := imgRecall_command (c := c) hwf
    refine ⟨t, ?_, hrest⟩
    rw [exec_row_runs (i := .nvImgRecall c) rfl rfl h, ← ht]
    exact congrArg Host.Outcome.next ((if_neg (by simp [hst'])).trans (if_neg (by simp [him'])))
  · obtain ⟨⟨m, n, c, b, hframe⟩, hwaits, hdue, hstoring, htorn, hbytes⟩ := imgStoreDo_stored (img := img) hwf
    have htail := imageStoreEnd_stored hst hp
    rw [imgStoreDo_fst hwf] at htail htorn
    rw [finish_eq] at htail
    obtain ⟨_, _, _, _, ht⟩ := htail.frame
    refine ⟨imageStoreEnd s, rfl, htail.storing.trans hstoring, htail.torn.trans htorn, fun k hk => ?_, fun x hx ha => ⟨fun hin => ?_, ?_⟩, ?_⟩
    · rw [← hbytes k hk, nvByte, htail.mem]
      rfl
    · obtain ⟨_, hno⟩ := List.mem_filter.mp (htail.waits x hin ha)
      simp [ha] at hno
    · refine ⟨_, htail.due _ (List.mem_append_right _ (List.mem_map.mpr ⟨x, List.mem_filter.mpr ⟨by rw [hwaits]; exact hx, by simp [ha]⟩, rfl⟩)), rfl, rfl, rfl⟩
    · rw [ht, hframe]
      rfl

end Sys2Proof.Machine
end

section
/-! PROOFS. The end of an enrolment, and the table of wrong groups (R340, R462). -/

namespace Sys2Proof.Machine
open Sys2Proof Sys2Proof.Safety

/-- The program of the owner page's lock word. -/
def lockProgram : NvProg := { seq := 7, page := 0, bytes := placed 248 (leBytes 8 lockedValue) }

/-- The lock of the owner page is being programmed, and the table of wrong groups names group 31 with none. -/
def lockingState : State :=
  { mbx := { waits := [{ cmd := { slot := 0, cookie := 0, params := 0, paramLen := 0, crcEn := true, pcrc := 0, quiet := false }
                         opcode := 0x0A01
                         act := .nvWrite 5 }] }
    nv := { planes := [(0, lockProgram)]
            flips := [(31, 0)]
            enrol := some { bytes := [], prog := 7, wait := 5, lock := true } } }

theorem lockingState_clean (g : Nat) : nvGroup lockingState g = 0 := by
  rw [nvGroup, tabGet, lockingState, List.lookup, List.lookup]
  split <;> rfl

/-- The program ends: the entry of group 31 leaves the table. -/
theorem lockingState_ends : (nvProgramEnd { plane := 0 } lockingState).nv.flips = [] := by
  rw [nvProgramEnd_quiet (w := lockProgram) rfl lockingState_clean rfl (by decide) (by simp [lockingState])]
  have hpump := nvPump_progress 2048 (programEnded 0 lockProgram lockingState)
  have hend := (((hpump.trans (ctrProgram_progress 7 _)).transEnrols (enrolProgram_progress 7 _)).trans (wearTick_progress _)).trans (ctrGoAll_progress _)
  obtain ⟨_, _, _, _, _, _, _, _, _, _, _, hf⟩ := hend.frame
  rw [show lockProgram.seq = 7 from rfl, hf]
  have hdrop : (programEnded 0 lockProgram lockingState).nv.flips = [] := by decide +kernel
  exact hdrop

/-- Refutes O60: TRUST_ENROL's last program drops the entry of its group from the table of wrong groups (as each program does, R340), also one
that names no wrong bit; the statement keeps that table. -/
theorem not_trustAndSpdm : ¬ Obligations.TrustAndSpdm := by
  intro h
  obtain ⟨-, -, hlock, -⟩ := h
  obtain ⟨t, hexec, -, -, -, -, -, ht⟩ := hlock _ lockProgram _ lockingState rfl rfl rfl (by decide) rfl rfl rfl rfl rfl rfl rfl rfl rfl
    lockingState_clean rfl (by decide) rfl rfl
  have hnext : t = nvProgramEnd { plane := 0 } lockingState := (Host.Outcome.next.inj hexec).symm
  have hflips : t.nv.flips = [(31, 0)] := by rw [ht]; rfl
  rw [hnext, lockingState_ends] at hflips
  cases hflips

end Sys2Proof.Machine
end

section
/-! PROOFS. The queues of the DMA engines (R176 to R180, R389). -/

namespace Sys2Proof.Machine
open Sys2Proof Sys2Proof.Safety

/-! ## Descriptors start in the order of their class (R176 to R180) -/

/-- Transfers stay and new ones have new numbers. -/
structure XfersGrow (s t : State) : Prop where
  stay : ∀ y ∈ s.fm.xfers, y ∈ t.fm.xfers
  next : s.fm.nextXfer ≤ t.fm.nextXfer
  queue : t.fm.descQueue = s.fm.descQueue

namespace XfersGrow

variable {s t u : State}

theorem trans (h : XfersGrow s t) (k : XfersGrow t u) : XfersGrow s u := ⟨fun y hy => k.stay y (h.stay y hy), Nat.le_trans h.next k.next, k.queue.trans h.queue⟩

theorem of_fm (h : t.fm = s.fm) : XfersGrow s t := by
  refine ⟨fun y hy => ?_, ?_, ?_⟩ <;> rw [h]
  exact hy

theorem ite {c : Prop} [Decidable c] (h : XfersGrow s t) (k : XfersGrow s u) : XfersGrow s (if c then t else u) := by
  split
  · exact h
  · exact k

end XfersGrow

theorem addXfer_grows (x : Xfer) (s : State) : XfersGrow s (addXfer x s) := ⟨fun _ hy => List.mem_append_left _ hy, Nat.le_succ _, rfl⟩

theorem addSignal_fm (o n e : Nat) (s : State) : (addSignal o n e s).fm = s.fm := by
  unfold addSignal
  split
  · rfl
  · dsimp only
    split
    · exact bump_fm _ _
    · rfl

theorem localDone_fm (x : Xfer) (s : State) : (localDone x s).fm = s.fm := by
  unfold localDone
  split
  · split
    · rw [triggerJob]
      split
      · rfl
      · rfl
    · rfl
  · split
    · rfl
    · exact addSignal_fm _ _ _ _

theorem sendPeer_grows (f : Nat) (o : DmaOpnd) (x : MoveCtx) (tick : W64) (s : State) : XfersGrow s (sendPeer f o x tick s) := by
  unfold sendPeer
  split
  · refine ⟨fun y hy => ?_, ?_, ?_⟩ <;> rw [descFails, setFm_fm, bump_fm]
    exact hy
  · exact .of_fm rfl
  · extract_lets cls me l h s1 t
    have h1 : XfersGrow s s1 := .of_fm rfl
    exact .ite h1 (h1.trans (addXfer_grows _ _))

theorem descStart_grows (q : DescWait) (s : State) : XfersGrow s (descStart q s) := by
  unfold descStart
  extract_lets o s1 t
  have h1 : XfersGrow s s1 := .ite (.of_fm (needDram_fm s)) (.of_fm rfl)
  exact .ite (h1.trans (sendPeer_grows _ _ _ _ _)) (.ite (h1.trans (.of_fm (localDone_fm _ _))) (h1.trans (addXfer_grows _ _)))

/-- The rows of a move in pieces of at most 64 bytes. -/
theorem rowChunks_sum (rows len : Nat) : ((rowChunks rows len).map fun c => c.len).sum = rows * len := by
  have hrow : ∀ n, ((List.range n).map fun i => min 64 (len - 64 * i)).sum = min (64 * n) len := fun n => by
    induction n with
    | zero => simp
    | succ n ih =>
      rw [List.range_succ, List.map_append, List.sum_append, ih]
      simp
      omega
  have hlen : ∀ r, (((List.range ((len + 63) / 64)).map fun i =>
      ({ off := r * len + 64 * i, len := min 64 (len - 64 * i), data := none, poison := [] } : Chunk)).map fun c => c.len).sum = len := fun r => by
    rw [List.map_map]
    exact (hrow _).trans (by omega)
  rw [rowChunks, List.map_flatMap, List.flatMap_def, List.sum_flatten, List.map_map]
  simp only [Function.comp_def, hlen, List.map_const', List.sum_replicate, List.length_range, smul_eq_mul]

theorem rowChunks_spec {rows len : Nat} {c : Chunk} (h : c ∈ rowChunks rows len) : c.len ≤ 64 ∧ c.data = none := by
  obtain ⟨r, -, h⟩ := List.mem_flatMap.mp h
  obtain ⟨i, -, rfl⟩ := List.mem_map.mp h
  exact ⟨Nat.min_le_left _ _, rfl⟩

theorem rowChunks_ne_nil {rows len : Nat} (hr : 1 ≤ rows) (hl : 1 ≤ len) : rowChunks rows len ≠ [] := by
  intro h
  have := rowChunks_sum rows len
  rw [h] at this
  have := Nat.mul_pos hr hl
  simp at *
  omega

/-- A move's transfer is under way. -/
def UnderWay (n : Nat) (q : DescWait) (t : State) : Prop :=
  ∃ y ∈ t.fm.xfers, n ≤ y.id ∧ y.field = q.field ∧ y.mid = q.x.mid ∧ y.srcKind = q.o.srcKind ∧ y.src = q.o.src ∧ y.dstKind = q.o.dstKind ∧
    y.dst = q.o.dst ∧ y.rowLen = q.o.len ∧ y.srcStride = q.o.srcStride ∧ y.dstStride = q.o.dstStride ∧ y.sigObj = q.o.sigObj ∧ y.sigN = q.o.sigN ∧
    y.chunks = rowChunks q.o.rows q.o.len

/-- The transfer of a move between memories. -/
def moveXfer (q : DescWait) : Xfer :=
  { id := 0, field := q.field, mid := q.x.mid, tc := q.x.cls == .tickCritical && !q.gather
    srcKind := q.o.srcKind, src := q.o.src, srcStride := q.o.srcStride
    dstKind := q.o.dstKind, dst := q.o.dst, dstStride := q.o.dstStride, rowLen := q.o.len
    chunks := rowChunks q.o.rows q.o.len
    sigObj := q.o.sigObj, sigN := q.o.sigN, epoch := q.epoch, registered := false, gather := q.gather
    head := none, link := 0, chip := 0, tag := 0, whole := true, cls := .scheduled, run := q.run
    fw := false, mcls := q.x.cls, job := q.job }

theorem descStart_move {q : DescWait} (s : State) (hp : q.o.dstKind ≠ .peer) (hfw : q.fw = []) (hr : 1 ≤ q.o.rows) (hl : 1 ≤ q.o.len) :
    descStart q s = addXfer (moveXfer q) (if q.o.srcKind == .dram || q.o.dstKind == .dram then needDram s else s) := by
  have hne : (rowChunks q.o.rows q.o.len).isEmpty = false := by simpa using rowChunks_ne_nil hr hl
  unfold descStart
  extract_lets o s1 t
  have hch : t.chunks = rowChunks q.o.rows q.o.len := if_pos (by simp [hfw])
  have ht : t = moveXfer q := by
    have hf : t.fw = false := by simp [t, hfw]
    exact congrArg₂ (fun a b => ({ moveXfer q with chunks := a, fw := b } : Xfer)) hch hf
  rw [if_neg (by simpa [o] using hp), hch, hne, ht]
  rfl

theorem descStart_underWay {q : DescWait} {s : State} (hp : q.o.dstKind ≠ .peer) (hfw : q.fw = []) (hr : 1 ≤ q.o.rows) (hl : 1 ≤ q.o.len) {n : Nat}
    (hn : n ≤ s.fm.nextXfer) : UnderWay n q (descStart q s) := by
  rw [descStart_move s hp hfw hr hl]
  have hfm : (if q.o.srcKind == .dram || q.o.dstKind == .dram then needDram s else s).fm = s.fm := by
    split
    · exact needDram_fm s
    · rfl
  generalize (if q.o.srcKind == .dram || q.o.dstKind == .dram then needDram s else s) = u at *
  refine ⟨_, List.mem_append_right _ (List.mem_singleton_self _), ?_, rfl, rfl, rfl, rfl, rfl, rfl, rfl, rfl, rfl, rfl, rfl, rfl⟩
  rw [hfm]
  exact hn

/-- As descriptors open, a move that waits starts or goes on waiting. -/
theorem descRelease_starts {q : DescWait} (hp : q.o.dstKind ≠ .peer) (hfw : q.fw = []) (hr : 1 ≤ q.o.rows) (hl : 1 ≤ q.o.len) {n : Nat} (k : Nat) {s : State}
    (hn : n ≤ s.fm.nextXfer) (h : UnderWay n q s ∨ q ∈ s.fm.descQueue) :
    (UnderWay n q (descRelease k s) ∨ q ∈ (descRelease k s).fm.descQueue) ∧ ∀ y ∈ s.fm.xfers, y ∈ (descRelease k s).fm.xfers := by
  induction k generalizing s with
  | zero => exact ⟨h, fun _ hy => hy⟩
  | succ k ih =>
    unfold descRelease
    extract_lets order
    split
    · exact ⟨h, fun _ hy => hy⟩
    · rename_i q' _
      have hgrow := descStart_grows q' (setFm (fun m => { m with descQueue := m.descQueue.erase q' }) s)
      have hnext : UnderWay n q (descStart q' (setFm (fun m => { m with descQueue := m.descQueue.erase q' }) s)) ∨
          q ∈ (descStart q' (setFm (fun m => { m with descQueue := m.descQueue.erase q' }) s)).fm.descQueue := by
        rcases h with ⟨y, hy, hspec⟩ | hq
        · exact .inl ⟨y, hgrow.stay y hy, hspec⟩
        · by_cases he : q = q'
          · subst he
            exact .inl (descStart_underWay hp hfw hr hl hn)
          · rw [hgrow.queue]
            exact .inr ((List.mem_erase_of_ne he).mpr hq)
      obtain ⟨h1, h2⟩ := ih (Nat.le_trans hn hgrow.next) hnext
      exact ⟨h1, fun y hy => h2 y (hgrow.stay y hy)⟩

/-- The descriptor of a move that is issued. -/
def moveWait (f : Nat) (o : DmaOpnd) (x : MoveCtx) (s : State) : DescWait :=
  { field := f, o := o, x := x, epoch := (syncOf s o.sigObj).epoch, tick := s.tick.no, gather := false, run := 0 }

/-- A move that is issued joins the queue of descriptors. -/
theorem dmaIssue_enqueues {f : Nat} {o : DmaOpnd} {x : MoveCtx} {s : State} (hdown : computeDown s = false) (hf : f < nFields s.part) (hbad : dmaBad o = false) :
    dmaIssue f o x s = descEnqueue (moveWait f o x s) s :=
  (if_neg (by rw [hdown]; simpa using hf)).trans (if_neg (by simp [hbad]))

theorem find_only (q : DescWait) (p : DescWait → Bool) :
    List.find? p (([q].filter waitTc) ++ [q].filter fun q => !waitTc q) = if p q then some q else none := by
  cases h : waitTc q <;> cases hp : p q <;> simp [h, hp]

/-- With no descriptor waiting, a move starts at once where one is open, and waits otherwise. -/
theorem descEnqueue_alone {q : DescWait} {s : State} (hq : s.fm.descQueue = []) :
    descEnqueue q s = if waitOpen s q then descStart q s else { s with fm := { s.fm with descQueue := [q] } } := by
  have hback : setFm (fun m => { m with descQueue := m.descQueue.erase q }) { s with fm := { s.fm with descQueue := [q] } } = s := by
    have hm : ({ s.fm with descQueue := [] } : Fm) = s.fm := by rw [← hq]
    simp only [setFm, List.erase_cons_head, hm]
  have hput : setFm (fun m => { m with descQueue := m.descQueue ++ [q] }) s = { s with fm := { s.fm with descQueue := [q] } } := by
    rw [setFm, hq, List.nil_append]
  have hopen : waitOpen { s with fm := { s.fm with descQueue := [q] } } = waitOpen s := rfl
  rw [descEnqueue, hput, releaseAll, List.length_singleton, descRelease]
  dsimp only
  rw [hopen, find_only]
  cases waitOpen s q
  · rfl
  · exact congrArg (descStart q) hback

/-- A move without a descriptor's peer is open where a descriptor is. -/
theorem waitOpen_move {f : Nat} {o : DmaOpnd} {x : MoveCtx} {s : State} (hp : o.dstKind ≠ .peer) :
    waitOpen s (moveWait f o x s) = descOpen s (x.cls == .tickCritical) := by
  simp [waitOpen, waitTc, moveWait, hp]

theorem waitOpen_closed {f : Nat} {o : DmaOpnd} {x : MoveCtx} {s : State} (h : descOpen s (x.cls == .tickCritical) = false) :
    waitOpen s (moveWait f o x s) = false := by
  simp [waitOpen, waitTc, moveWait, h]

theorem waitOpen_peer {f : Nat} {o : DmaOpnd} {x : MoveCtx} {s : State} (h : descOpen s (x.cls == .tickCritical) = true)
    (ht : (freeTag s).isSome = true ∨ (routeTo s o.peer).isNone = true) : waitOpen s (moveWait f o x s) = true := by
  simp only [waitOpen, waitTc, moveWait, h, Bool.not_false, Bool.and_true, Bool.true_and, Bool.false_and, Bool.or_false, Bool.or_eq_true]
  exact ht.elim (fun h => .inl (.inr h)) .inr

/-- A move to a peer leaves by its route. -/
theorem descStart_peer {f : Nat} {o : DmaOpnd} {x : MoveCtx} {s : State} (hp : o.dstKind = .peer) (hsrc : o.srcKind = .fieldMem) :
    descStart (moveWait f o x s) s = sendPeer f o x s.tick.no s := by
  simp only [descStart, moveWait, hp, hsrc]
  rfl

theorem flitChunks_ne_nil {n : Nat} (h : 1 ≤ n) : (flitChunks n).isEmpty = false := by
  have : (n + 63) / 64 ≠ 0 := by omega
  simp [flitChunks, this]

/-- Settles O50: each move through `dmaIssue_enqueues`, alone in the queue or among others. -/
theorem dmaQueuesTransfer : Obligations.DmaQueuesTransfer := by
  refine ⟨fun f o x s hdown hf hbad => ?_, fun f o x s hdown hf hbad hp hr hl => ?_, fun f o x s hdown hf hbad hq ho hp hup hr hl => ?_,
    fun f o x s hdown hf hbad hq ho => ?_, fun f n o x r d s hdown hf hbad hq ho hp hsrc hroute htag hr hl => ?_, fun f o x s hdown hf hbad hq ho hp hsrc hroute => ?_⟩
  · refine congrArg Host.Outcome.next ((if_neg (by rw [hdown]; simpa using hf)).trans ((if_pos hbad).trans ?_))
    rfl
  · have hissue := dmaIssue_enqueues (x := x) hdown hf hbad
    obtain ⟨hq, hstay⟩ := descRelease_starts (q := moveWait f o x s) (n := s.fm.nextXfer) hp rfl hr hl
      (s.fm.descQueue ++ [moveWait f o x s]).length (s := setFm (fun m => { m with descQueue := m.descQueue ++ [moveWait f o x s] }) s)
      (Nat.le_refl _) (.inr (List.mem_append_right _ (List.mem_singleton_self _)))
    obtain ⟨_, _, _, _, _, _, _, _, _, _, _, _, _, _, _, _, _, hkeep⟩ := (descEnqueue_descKeeps (moveWait f o x s) s).frame
    refine ⟨_, congrArg Host.Outcome.next hissue, ?_, hstay, ?_⟩
    · rcases hq with ⟨y, hy, hid, h1, h2, h3, h4, h5, h6, h7, h8, h9, h10, h11, hch⟩ | hq
      · refine .inl ⟨y, hy, hid, h1, h2, h3, h4, h5, h6, h7, h8, h9, h10, h11, ?_, fun c hc => ?_⟩
        · rw [hch, ← List.sum_eq_foldl]
          exact rowChunks_sum _ _
        · rw [hch] at hc
          exact rowChunks_spec hc
      · exact .inr ⟨_, hq, rfl, rfl, rfl⟩
    · rw [hkeep]
      exact ⟨rfl, rfl, rfl, rfl, rfl⟩
  · have hissue := dmaIssue_enqueues (x := x) hdown hf hbad
    rw [descEnqueue_alone hq, waitOpen_move hp, if_pos ho, descStart_move s hp rfl hr hl] at hissue
    have hneed : (if (moveWait f o x s).o.srcKind == .dram || (moveWait f o x s).o.dstKind == .dram then needDram s else s) = s := by
      split
      · rename_i h
        exact needDram_up (hup (by simpa [moveWait] using h))
      · rfl
    rw [hneed] at hissue
    exact ⟨_, _, congrArg Host.Outcome.next hissue, rfl, rfl, by simp [moveXfer, moveWait], rfl, rfl⟩
  · have hissue := dmaIssue_enqueues (x := x) hdown hf hbad
    rw [descEnqueue_alone hq, waitOpen_closed ho] at hissue
    exact ⟨moveWait f o x s, congrArg Host.Outcome.next hissue, rfl, rfl, rfl⟩
  · have hissue := dmaIssue_enqueues (x := x) hdown hf hbad
    have hch := flitChunks_ne_nil (Nat.mul_pos hl hr)
    rw [descEnqueue_alone hq, waitOpen_peer ho (.inl (by simp [htag])), if_pos rfl, descStart_peer hp hsrc, sendPeer, hroute, htag] at hissue
    dsimp only at hissue
    rw [hch] at hissue
    refine ⟨_, _, { fwd := false, flit := { cls := if d then .detour else if o.bestEffort then .bestEffort else .scheduled, srcChip := s.links.ident.chipId, tag := n, body := .head (headOf s o s.tick.no r) } }, congrArg Host.Outcome.next hissue, rfl, rfl, rfl, rfl, rfl, ?_, rfl, rfl, rfl, rfl, rfl⟩
    exact congrArg Link.txq (tabGet_tabSet_self _ _ _ _)
  · have hissue := dmaIssue_enqueues (x := x) hdown hf hbad
    rw [descEnqueue_alone hq, waitOpen_peer ho (.inr (by simp [hroute])), if_pos rfl, descStart_peer hp hsrc, sendPeer, hroute] at hissue
    have hctr := ctrGet_bumpBy_self (cLink (firstLink (stdRoute s.links.ident o.peer) % 4) 6) 1 s
    obtain ⟨_, _, _, _, hb⟩ := (bump_countsOnly (cLink (firstLink (stdRoute s.links.ident o.peer) % 4) 6) s).frame
    rw [← bump] at hctr
    dsimp only at hissue
    generalize bump (cLink (firstLink (stdRoute s.links.ident o.peer) % 4) 6) s = b at *
    refine ⟨descFails f x.mid .unreachable b, congrArg Host.Outcome.next hissue, tabFind_tabSet_self _ _ _, hctr, ?_⟩
    rw [hb]
    rfl

end Sys2Proof.Machine
end

section
/-! PROOFS. Bytes in DRAM and in field memory, where lines and banks are right (R320, R475). -/

namespace Sys2Proof.Machine
open Sys2Proof Sys2Proof.Safety

/-! ## Bytes written to DRAM without wrong lines (R320, R323) -/

theorem lastWrite_filter (bs : List (Nat × Byte)) (l x : Nat) (old : Byte) :
    lastWrite (bs.filter fun b => b.1 / 64 == l) x old = if x / 64 = l then lastWrite bs x old else old := by
  induction bs generalizing old with
  | nil => exact (ite_self _).symm
  | cons b bs ih =>
    by_cases hb : b.1 / 64 = l
    · rw [List.filter_cons_of_pos (by simpa using hb), lastWrite_cons, lastWrite_cons, ih]
      split
      · rfl
      · rename_i hx
        exact if_neg fun he : b.1 = x => hx (he ▸ hb)
    · rw [List.filter_cons_of_neg (by simpa using hb), lastWrite_cons, ih]
      split
      · rename_i hx
        rw [if_neg fun he => hb (by rw [he]; exact hx)]
      · rfl

theorem lastWrite_twice (bs : List (Nat × Byte)) (x : Nat) (old : Byte) : lastWrite bs x (lastWrite bs x old) = lastWrite bs x old := by
  unfold lastWrite
  split <;> rfl

/-- A write to lines without wrong bytes: its bytes stand, the others stay. -/
theorem dramWrite_clean (a : Nat) (bs : List Byte) (ps : List (BitVec 8)) {s : State} (h : s.dram.wrong = []) (hwf : memWf 0 s.dram.mem = true) :
    ∃ mem poison, dramWrite a bs ps s = setDram (fun d => { d with mem := mem, poison := poison }) s ∧
      ∀ x, memRead 0 mem x = lastWrite (placed a bs) x (memRead 0 s.dram.mem x) := by
  have hlines : ∀ ls : List Nat, ∃ mem poison, ls.foldl (fun t l =>
      dramPutLine l ((placed a bs).filter fun b => b.1 / 64 == l)
        (((placed a bs).filter fun b => b.1 / 64 == l).any fun b => nth ps ((b.1 - a) / 8) 0 != 0) t) s =
        setDram (fun d => { d with mem := mem, poison := poison }) s ∧ memWf 0 mem = true ∧
      ∀ x, memRead 0 mem x = if x / 64 ∈ ls then lastWrite (placed a bs) x (memRead 0 s.dram.mem x) else memRead 0 s.dram.mem x := by
    intro ls
    induction ls using List.reverseRecOn with
    | nil => exact ⟨s.dram.mem, s.dram.poison, rfl, hwf, fun x => by simp⟩
    | append_singleton ls l ih =>
      obtain ⟨mem, poison, he, hw, hr⟩ := ih
      rw [List.foldl_append, List.foldl_cons, List.foldl_nil, he]
      obtain ⟨poison', hput, -⟩ := dramPutLine_clean (s := setDram (fun d => { d with mem := mem, poison := poison }) s) h l
        ((placed a bs).filter fun b => b.1 / 64 == l) (((placed a bs).filter fun b => b.1 / 64 == l).any fun b => nth ps ((b.1 - a) / 8) 0 != 0)
      refine ⟨_, poison', hput, foldl_memWrite_wf 0 _ hw, fun x => ?_⟩
      refine (memRead_foldl_lastWrite 0 _ hw x).trans ?_
      rw [lastWrite_filter, hr]
      by_cases hl : x / 64 = l
      · by_cases hin : x / 64 ∈ ls
        · simp [hl, hl ▸ hin, lastWrite_twice]
        · simp [hl, hl ▸ hin]
      · by_cases hin : x / 64 ∈ ls <;> simp [hl, hin]
  obtain ⟨mem, poison, he, -, hr⟩ := hlines (linesOf a bs.length)
  refine ⟨mem, poison, he, fun x => (hr x).trans ?_⟩
  split
  · rfl
  · rename_i hx
    rw [lastWrite_placed_out]
    by_contra hc
    exact hx (mem_linesOf.mpr (by omega))

/-! ## Groups of field memory in banks that are on -/

theorem bankOf_eq (a : Nat) : bankOf a = a / 2 ^ 18 % 2 ^ 5 := by
  rw [bankOf, bitsN, Nat.shiftRight_eq_div_pow]

theorem bankOffAt_congr {s : State} {f a b : Nat} (h : a / 2 ^ 18 = b / 2 ^ 18) : bankOffAt s f a = bankOffAt s f b := by
  rw [bankOffAt, bankOffAt, bankOf_eq, bankOf_eq, h]

theorem bankOffAt_of_on {s : State} {f a : Nat} (h : bankOn s f a = true) : bankOffAt s f a = false := by
  simpa using (Bool.and_eq_true_iff.mp h).1

theorem mem_groupsOf {a n g : Nat} : g ∈ groupsOf a n ↔ n ≠ 0 ∧ a / 8 ≤ g ∧ g ≤ (a + n - 1) / 8 := by
  rw [groupsOf]
  split
  · simp [*]
  · rw [List.mem_map]
    constructor
    · rintro ⟨i, hi, rfl⟩
      have := List.mem_range.mp hi
      omega
    · rintro ⟨-, h1, h2⟩
      exact ⟨g - a / 8, List.mem_range.mpr (by omega), by omega⟩

/-- No access to banks that are on counts as one to a bank that is off. -/
theorem accesses_on {s : State} {f a n : Nat} (hon : ∀ g ∈ groupsOf a n, bankOn s f (8 * g) = true) {b m : Nat} (hb : a / 8 = b / 8)
    (hm : n ≠ 0 → (b + m - 1) / 8 ≤ (a + n - 1) / 8) (hn : n = 0 → m = 0) : (accesses 64 b m).filter (bankOffAt s f) = [] := by
  refine List.filter_eq_nil_iff.mpr fun y hy => ?_
  rw [accesses] at hy
  split at hy
  · cases hy
  · rename_i hm0
    have hn0 : n ≠ 0 := fun h => hm0 (hn h)
    have hmn := hm hn0
    obtain ⟨i, hi, rfl⟩ := List.mem_map.mp hy
    have hi := List.mem_range.mp hi
    by_cases hlow : (b / 64 + i) * 64 < b
    · have hg := hon (a / 8) (mem_groupsOf.mpr ⟨hn0, Nat.le_refl _, by omega⟩)
      rw [bankOffAt_congr (b := 8 * (a / 8)) (by omega), bankOffAt_of_on hg]
      decide
    · have hg := hon ((b / 64 + i) * 8) (mem_groupsOf.mpr ⟨hn0, by omega, by omega⟩)
      rw [bankOffAt_congr (b := 8 * ((b / 64 + i) * 8)) (by omega), bankOffAt_of_on hg]
      decide

/-- A store into banks that are on changes nothing but the bytes and marks of its groups. -/
theorem fmStore_on {f a : Nat} {bs : List Byte} (ps : List (BitVec 8)) {s : State} (hbs : 0 < bs.length)
    (hon : ∀ g ∈ groupsOf a bs.length, bankOn s f (8 * g) = true) :
    ∃ mem flips poison, fmStore 64 f a bs ps s = setFm (fun m => { m with mem := mem, flips := flips, poison := poison }) s := by
  have hlen : (zeros (a - a / 8 * 8) ++ bs).length = a - a / 8 * 8 + bs.length := by simp [zeros]
  rw [fmStore, hlen, accesses_on hon (by omega) (by omega) (by omega), List.length_nil, bumpBy, if_pos rfl]
  refine List.foldlRecOn (motive := fun t => ∃ mem flips poison, t = setFm (fun m => { m with mem := mem, flips := flips, poison := poison }) s) _ _
    ⟨_, _, _, rfl⟩ fun t ht i _ => ?_
  obtain ⟨_, _, _, rfl⟩ := ht
  unfold fmPutGroup
  split
  · exact ⟨_, _, _, rfl⟩
  · exact ⟨_, _, _, rfl⟩

end Sys2Proof.Machine
end

section
/-! PROOFS. The one access of a DMA engine, and the end of a piece (R180, R333). -/

namespace Sys2Proof.Machine
open Sys2Proof Sys2Proof.Safety

/-! ## The one access of a DMA engine (R180, R333) -/

theorem mem_insertXfer {x y : Xfer} {xs : List Xfer} : y ∈ insertXfer x xs ↔ y = x ∨ y ∈ xs := by
  induction xs with
  | nil => simp [insertXfer]
  | cons z t ih =>
    rw [insertXfer]
    split
    · rw [List.mem_cons]
    · rw [List.mem_cons, ih, List.mem_cons]
      tauto

theorem mem_accessOrder {y : Xfer} (xs : List Xfer) : y ∈ xs.foldl (fun a x => insertXfer x a) [] ↔ y ∈ xs := by
  have hgen : ∀ (as : List Xfer), y ∈ xs.foldl (fun a x => insertXfer x a) as ↔ y ∈ xs ∨ y ∈ as := by
    induction xs with
    | nil => simp
    | cons x xs ih =>
      intro as
      rw [List.foldl_cons, ih, mem_insertXfer, List.mem_cons]
      tauto
  simpa using hgen []

theorem findSome?_only {α β : Type} {g : α → Option β} {xs : List α} {x : α} {b : β} (hx : x ∈ xs) (hg : g x = some b)
    (hrest : ∀ y ∈ xs, y ≠ x → g y = none) : xs.findSome? g = some b := by
  induction xs with
  | nil => cases hx
  | cons y t ih =>
    by_cases hy : y = x
    · rw [List.findSome?_cons, hy, hg]
    · rw [List.findSome?_cons, hrest y List.mem_cons_self hy]
      exact ih ((List.mem_cons.mp hx).resolve_left fun h => hy h.symm) fun z hz => hrest z (List.mem_cons_of_mem _ hz)

/-- The engine makes the access of the only transfer that has one to make. -/
theorem dmaAccess_only {f : Nat} {x : Xfer} {s t : State} (hdown : computeDown s = false) (hf : f < nFields s.part) (hport : portPiece f s = none)
    (hx : x ∈ s.fm.xfers) (hrest : ∀ y ∈ s.fm.xfers, y ≠ x → xferAccess f s y = none) (ht : xferAccess f s x = some t) :
    dmaAccess f s = releaseAll t := by
  have hfind := findSome?_only ((mem_accessOrder s.fm.xfers).mpr hx) ht fun y hy => hrest y ((mem_accessOrder s.fm.xfers).mp hy)
  refine (if_neg (by rw [hdown]; simpa using hf)).trans ?_
  dsimp only
  rw [hport]
  dsimp only
  rw [hfind]

theorem dmaAccess_none {f : Nat} {s : State} (hdown : computeDown s = false) (hf : f < nFields s.part) (hport : portPiece f s = none)
    (hrest : ∀ y ∈ s.fm.xfers, xferAccess f s y = none) : dmaAccess f s = releaseAll s := by
  have hfind : (s.fm.xfers.foldl (fun a x => insertXfer x a) []).findSome? (xferAccess f s) = none :=
    List.findSome?_eq_none_iff.mpr fun y hy => hrest y ((mem_accessOrder s.fm.xfers).mp hy)
  refine (if_neg (by rw [hdown]; simpa using hf)).trans ?_
  dsimp only
  rw [hport]
  dsimp only
  rw [hfind]

theorem xferAccess_writes {f : Nat} {x : Xfer} {c : Chunk} {rest : List Chunk} {s t : State} (hc : x.chunks = c :: rest) (h : writePiece f x c s = some t) :
    xferAccess f s x = some t := by
  rw [xferAccess, hc]
  dsimp only
  rw [h]

/-- The data of a piece: read from DRAM they count what the reads find. -/
theorem pieceData_frame {s u : State} {x : Xfer} {c : Chunk} {d : List Byte} {p : List (BitVec 8)} (h : pieceData s x c = some (d, p, u)) :
    ∃ e i y ct dr n, u = { s with mbx := { s.mbx with errSum := e, intStatus := i, msix := y }, ctr := ct, dram := dr, free := n } := by
  unfold pieceData at h
  split at h
  · obtain ⟨-, -, rfl⟩ := Prod.mk.injEq .. ▸ Option.some.inj h
    exact ⟨_, _, _, _, _, _, rfl⟩
  · split at h
    · have hu := congrArg (fun r => r.2.2) (Option.some.inj h)
      dsimp only at hu
      obtain ⟨_, _, _, _, _, hs⟩ := (DramCounts.foldl (fun t (r : Nat × Nat) => DramCounts.foldl (fun t l => dramCheckLine_dramCounts l t) (linesOf r.1 r.2) t)
        (srcRuns x c) s).frame
      have hscan : (srcRuns x c).foldl (fun t r => dramScan r.1 r.2 t) s = _ := hs
      rw [← hu, hscan]
      exact ⟨_, _, _, _, _, _, rfl⟩
    · cases h

/-- The transfers behind a piece. -/
def pieceXfers (x : Xfer) (rest : List Chunk) (s : State) : List Xfer :=
  if rest = [] ∧ x.whole = true then s.fm.xfers.filter (fun y => y.id != x.id)
  else s.fm.xfers.map fun y => if y.id = x.id then { x with chunks := rest } else y

/-- What the end of a piece leaves: its transfer without it, or none; the last one signals. -/
structure PieceEnds (x : Xfer) (rest : List Chunk) (s t : State) : Prop where
  frame : ∃ q c e i y, t = { s with
    mbx := { s.mbx with errSum := e, intStatus := i, msix := y }
    ctr := c
    seq := q
    fm := { s.fm with xfers := pieceXfers x rest s } }
  goesOn : (rest ≠ [] ∨ x.whole = false) → t.seq = s.seq ∧ t.ctr = s.ctr
  signals : rest = [] → x.whole = true → x.gather = false → x.dstKind ≠ .peer → (syncOf s x.sigObj).epoch = x.epoch → s.seq.barriers = [] →
    (syncOf t x.sigObj).count = if x.sigN = 0 then (syncOf s x.sigObj).count else min 65535 ((syncOf s x.sigObj).count + x.sigN)

theorem addSignal_counts (o n e : Nat) (s : State) : ∃ q c er i y, addSignal o n e s = { s with
    mbx := { s.mbx with errSum := er, intStatus := i, msix := y }
    ctr := c
    seq := q } := by
  unfold addSignal
  split
  · exact ⟨_, _, _, _, _, rfl⟩
  · dsimp only
    split
    · obtain ⟨_, _, _, _, h⟩ := (bump_countsOnly cSyncStale s).frame
      rw [h]
      exact ⟨_, _, _, _, _, rfl⟩
    · exact ⟨_, _, _, _, _, rfl⟩

theorem chunkDone_ends {x : Xfer} {c : Chunk} {rest : List Chunk} (s : State) (hc : x.chunks = c :: rest) (hfw : x.fw = false) (hr : received x = false) :
    PieceEnds x rest s (chunkDone x s) := by
  have hdrop : x.chunks.drop 1 = rest := by rw [hc]; rfl
  rw [chunkDone, hdrop, hr]
  dsimp only
  by_cases hlast : rest = [] ∧ x.whole = true
  · obtain ⟨hn, hw⟩ := hlast
    have hxs : pieceXfers x rest s = s.fm.xfers.filter (fun y => y.id != x.id) := if_pos ⟨hn, hw⟩
    have hloc : localDone x (dropXfer x s) = if x.gather || x.dstKind == .peer then dropXfer x s else addSignal x.sigObj x.sigN x.epoch (dropXfer x s) :=
      if_neg (by rw [hfw]; decide)
    rw [if_pos (by simp [hn, hw]), hloc]
    refine ⟨?_, fun h => absurd h (by simp [hn, hw]), fun _ _ hg hp he _ => ?_⟩
    · rw [hxs]
      split
      · exact ⟨_, _, _, _, _, rfl⟩
      · obtain ⟨_, _, _, _, _, h⟩ := addSignal_counts x.sigObj x.sigN x.epoch (dropXfer x s)
        rw [h]
        exact ⟨_, _, _, _, _, rfl⟩
    · rw [if_neg (by simp [hg, hp])]
      by_cases hz : x.sigN = 0
      · rw [if_pos hz, addSignal, if_pos hz]
        rfl
      · have hself := syncOf_addSignal_self x.sigObj (dropXfer x s) hz
        have hep : (syncOf (dropXfer x s) x.sigObj).epoch = x.epoch := he
        rw [hep] at hself
        rw [if_neg hz, hself]
        rfl
  · have hxs : pieceXfers x rest s = s.fm.xfers.map fun y => if y.id = x.id then { x with chunks := rest } else y := if_neg hlast
    rw [if_neg (by simpa using hlast)]
    refine ⟨?_, fun _ => ⟨rfl, rfl⟩, fun h h' => absurd ⟨h, h'⟩ hlast⟩
    rw [hxs]
    exact ⟨_, _, _, _, _, rfl⟩

end Sys2Proof.Machine
end

section
/-! PROOFS. The write of a piece to each destination (R176, R180, R475). -/

namespace Sys2Proof.Machine
open Sys2Proof Sys2Proof.Safety

/-! ## A piece is written (R176, R180, R475) -/

theorem splitAddr_chipAddr {f a : Nat} (h : a < 2 ^ 23) : splitAddr (chipAddr f a) = (f, a) := by
  rw [splitAddr, chipAddr]
  exact Prod.ext (by dsimp only; omega) (by dsimp only; omega)

/-- A piece within a row is one run. -/
theorem pieceRuns_row {base stride rowLen off n : Nat} (h : off % rowLen + n ≤ rowLen) (hn : 1 ≤ n) :
    pieceRuns base stride rowLen off (n + 1) n = [(rowAddr base stride rowLen off, n)] := by
  obtain ⟨m, rfl⟩ := Nat.exists_eq_add_of_le' hn
  have hrow : rowLen ≠ 0 := fun h0 => by rw [h0] at h; omega
  have hk : min (m + 1) (rowLen - off % rowLen) = m + 1 := by omega
  rw [pieceRuns, if_neg (by omega)]
  dsimp only
  rw [if_neg hrow, hk, Nat.sub_self, pieceRuns, if_pos rfl]

/-- The write of a piece, its end, and what the access leaves of the transfers and of the sync objects. -/
theorem PieceEnds.at {x : Xfer} {rest : List Chunk} {s u w v : State} (h : PieceEnds x rest w v) (hx : w.fm.xfers = s.fm.xfers) (hs : w.seq = s.seq)
    (hc : w.ctr = u.ctr) : v.fm.xfers = pieceXfers x rest s ∧ ((rest ≠ [] ∨ x.whole = false) → v.seq = s.seq ∧ v.ctr = u.ctr) ∧
      (rest = [] → x.whole = true → x.gather = false → x.dstKind ≠ .peer → (syncOf s x.sigObj).epoch = x.epoch → s.seq.barriers = [] →
        (syncOf v x.sigObj).count = if x.sigN = 0 then (syncOf s x.sigObj).count else min 65535 ((syncOf s x.sigObj).count + x.sigN)) := by
  have hsync : syncOf w x.sigObj = syncOf s x.sigObj := by rw [syncOf, hs, syncOf]
  obtain ⟨_, _, _, _, _, hf⟩ := h.frame
  refine ⟨?_, fun hr => ?_, fun h1 h2 h3 h4 h5 h6 => ?_⟩
  · rw [hf, pieceXfers, pieceXfers, hx]
  · rw [← hs, ← hc]
    exact h.goesOn hr
  · have := h.signals h1 h2 h3 h4 (by rw [hsync]; exact h5) (by rw [hs]; exact h6)
    rw [hsync] at this
    exact this

variable {f a : Nat} {x : Xfer} {c : Chunk} {rest : List Chunk} {d : List Byte} {p : List (BitVec 8)} {u s : State}

/-- A piece to the host. -/
theorem writePiece_host (hpd : pieceData s x c = some (d, p, u)) (hk : x.dstKind = .host) (hxf : x.field = f) :
    writePiece f x c s = some (chunkDone x (tlpMarks (rowAddr x.dst x.dstStride x.rowLen c.off) p (hostWrite (rowAddr x.dst x.dstStride x.rowLen c.off) d u))) := by
  rw [writePiece, hk]
  dsimp only
  rw [if_neg (by simp [hxf]), hpd]

/-- A piece to DRAM. -/
theorem writePiece_dram (hpd : pieceData s x c = some (d, p, u)) (hk : x.dstKind = .dram) (hxf : x.field = f) (hup : dramUp s = true)
    (hturn : dramTurn s (xferRank x) = true) (hfw : x.fw = false) :
    writePiece f x c s = some (chunkDone x (dramWrite (rowAddr x.dst x.dstStride x.rowLen c.off) d p u)) := by
  rw [writePiece, hk]
  dsimp only
  rw [if_neg (by simp [hxf, hup, hturn]), hpd, hfw]
  rfl

/-- A piece to a peer. -/
theorem writePiece_peer (hpd : pieceData s x c = some (d, p, u)) (hk : x.dstKind = .peer) (hxf : x.field = f) :
    writePiece f x c s = some (chunkDone x (queueFlit x.link false
      { cls := x.cls, srcChip := x.chip, tag := x.tag
        body := .data (x.chunks.length == 1) (BitVec.ofNat 8 (listMask ((List.range 8).filter fun i => nth p i 0 != 0))) d } u)) := by
  rw [writePiece, hk]
  dsimp only
  rw [if_neg (by simp [hxf]), hpd]

/-- A piece to a field memory, within a row. -/
theorem writePiece_field (hpd : pieceData s x c = some (d, p, u)) (hk : x.dstKind = .fieldMem) (hfw : x.fw = false)
    (hrow : c.off % x.rowLen + c.len ≤ x.rowLen) (hat : rowAddr x.dst x.dstStride x.rowLen c.off = chipAddr f a) (ha : a < 2 ^ 23) (hlen : 1 ≤ c.len)
    (hd : c.len = d.length) (hgate : gatePasses s x f a c.len = true) (howns : dmaOwns s f a c.len = true) :
    ∃ ps, writePiece f x c s = some (chunkDone x (fmStore 64 f a d ps u)) := by
  have hruns : dstRuns x c = [(chipAddr f a, c.len)] := by
    rw [dstRuns, hfw, ← hat]
    exact pieceRuns_row hrow hlen
  refine ⟨p.take ((c.len + 7) / 8), ?_⟩
  rw [writePiece, hk]
  dsimp only
  rw [hfw, hat]
  refine (if_neg (by simp [splitAddr_chipAddr ha])).trans ?_
  rw [hpd]
  dsimp only
  rw [hruns]
  simp only [List.find?_cons, List.find?_nil, splitAddr_chipAddr ha, hgate, Bool.not_true, List.all_cons, List.all_nil, howns, Bool.and_true, storeRuns]
  rw [hd, List.take_length]
  rfl


end Sys2Proof.Machine
end

section
/-! PROOFS. What the write of a piece leaves (R176, R180, R475). -/

namespace Sys2Proof.Machine
open Sys2Proof Sys2Proof.Safety

/-! ## What the write of a piece leaves (R176, R180, R475) -/

/-- A bank is on for the eight bytes of a group together. -/
theorem bankOn_group {s : State} {f a : Nat} (h : bankOn s f (8 * (a / 8)) = true) : bankOn s f a = true := by
  obtain ⟨hon, hsize⟩ := Bool.and_eq_true_iff.mp h
  have h8 : bankSize s.part % 8 = 0 := by
    unfold bankSize
    split <;> rfl
  refine Bool.and_eq_true_iff.mpr ⟨?_, ?_⟩
  · rw [bankOffAt_congr (b := 8 * (a / 8)) (by omega)]
    exact hon
  · have hlt := of_decide_eq_true hsize
    rw [bankOff] at hlt
    refine decide_eq_true ?_
    rw [bankOff]
    omega

variable {f a : Nat} {x : Xfer} {c : Chunk} {rest : List Chunk} {d : List Byte} {p : List (BitVec 8)} {u s : State}

theorem received_of_kind (h : x.dstKind ≠ .fieldMem) : received x = false := by
  simp [received, h]

theorem hostPiece (hpd : pieceData s x c = some (d, p, u)) (hk : x.dstKind = .host) (hfw : x.fw = false) (hc : x.chunks = c :: rest)
    (hwf : memWf 0 s.host = true) {v : State} (hv : v = chunkDone x (tlpMarks a p (hostWrite a d u))) :
    v.fm.xfers = pieceXfers x rest s ∧ (∀ k, k < d.length → memRead 0 v.host (a + k) = nth d k 0) ∧
      (∀ b, (b < a ∨ a + d.length ≤ b) → memRead 0 v.host b = memRead 0 s.host b) ∧
      ((rest ≠ [] ∨ x.whole = false) → v.seq = s.seq ∧ v.ctr = u.ctr) ∧
      (rest = [] → x.whole = true → x.gather = false → (syncOf s x.sigObj).epoch = x.epoch → s.seq.barriers = [] →
        (syncOf v x.sigObj).count = if x.sigN = 0 then (syncOf s x.sigObj).count else min 65535 ((syncOf s x.sigObj).count + x.sigN)) ∧
      v = { counted u v with host := v.host, seq := v.seq, fm := { s.fm with xfers := v.fm.xfers, tlpPoison := v.fm.tlpPoison } } := by
  have hends := chunkDone_ends (tlpMarks a p (hostWrite a d u)) hc hfw (received_of_kind (by rw [hk]; decide))
  rw [← hv] at hends
  obtain ⟨_, _, _, _, _, _, hu⟩ := pieceData_frame hpd
  obtain ⟨hx, hgo, hsig⟩ := hends.at (s := s) (u := u) (by rw [hu]; rfl) (by rw [hu]; rfl) rfl
  obtain ⟨_, _, _, _, _, hf⟩ := hends.frame
  have hhost : v.host = memWriteN 0 s.host a d := by rw [hf, hu]; rfl
  refine ⟨hx, fun k hk => ?_, fun b hb => ?_, hgo, fun h1 h2 h3 => hsig h1 h2 h3 (by rw [hk]; decide), ?_⟩
  · rw [hhost, memRead_memWriteN_in 0 d _ _ k hwf hk]
  · rw [hhost, memRead_memWriteN_out 0 d _ _ _ hwf hb]
  · rw [hf, hu]
    rfl

theorem dramPiece (hpd : pieceData s x c = some (d, p, u)) (hk : x.dstKind = .dram) (hfw : x.fw = false) (hc : x.chunks = c :: rest)
    (hwf : memWf 0 u.dram.mem = true) (hclean : u.dram.wrong = []) {v : State} (hv : v = chunkDone x (dramWrite a d p u)) :
    v.fm.xfers = pieceXfers x rest s ∧ (∀ k, k < d.length → memRead 0 v.dram.mem (a + k) = nth d k 0) ∧
      (∀ b, (b < a ∨ a + d.length ≤ b) → memRead 0 v.dram.mem b = memRead 0 u.dram.mem b) ∧
      ((rest ≠ [] ∨ x.whole = false) → v.seq = s.seq ∧ v.ctr = u.ctr) ∧
      (rest = [] → x.whole = true → x.gather = false → (syncOf s x.sigObj).epoch = x.epoch → s.seq.barriers = [] →
        (syncOf v x.sigObj).count = if x.sigN = 0 then (syncOf s x.sigObj).count else min 65535 ((syncOf s x.sigObj).count + x.sigN)) ∧
      v = { counted u v with seq := v.seq, fm := { s.fm with xfers := v.fm.xfers }, dram := { u.dram with mem := v.dram.mem, poison := v.dram.poison, wrong := v.dram.wrong } } := by
  obtain ⟨mem, poison, hwrite, hread⟩ := dramWrite_clean a d p hclean hwf
  rw [hwrite] at hv
  have hends := chunkDone_ends (setDram (fun d => { d with mem := mem, poison := poison }) u) hc hfw (received_of_kind (by rw [hk]; decide))
  rw [← hv] at hends
  obtain ⟨_, _, _, _, _, _, hu⟩ := pieceData_frame hpd
  obtain ⟨hx, hgo, hsig⟩ := hends.at (s := s) (u := u) (by rw [hu]; rfl) (by rw [hu]; rfl) rfl
  obtain ⟨_, _, _, _, _, hf⟩ := hends.frame
  have hmem : v.dram.mem = mem := by rw [hf]; rfl
  refine ⟨hx, fun k hk => ?_, fun b hb => ?_, hgo, fun h1 h2 h3 => hsig h1 h2 h3 (by rw [hk]; decide), ?_⟩
  · rw [hmem, hread, lastWrite_placed_in hk]
  · rw [hmem, hread, lastWrite_placed_out hb]
  · rw [hf, hu]
    rfl

theorem fieldPiece (hpd : pieceData s x c = some (d, p, u)) (hk : x.dstKind = .fieldMem) (hfw : x.fw = false) (hr : received x = false) (hc : x.chunks = c :: rest)
    (ha : a % 8 = 0) (hlen : 1 ≤ d.length) (hl8 : d.length % 8 = 0) (hon : ∀ g ∈ groupsOf a d.length, bankOn s f (8 * g) = true)
    (hwf : memWf 0 s.fm.mem = true) {ps : List (BitVec 8)} {v : State} (hv : v = chunkDone x (fmStore 64 f a d ps u)) :
    v.fm.xfers = pieceXfers x rest s ∧ (∀ k, k < d.length → memRead 0 v.fm.mem (chipAddr f a + k) = nth d k 0) ∧
      (∀ b, (b < chipAddr f a ∨ chipAddr f a + d.length ≤ b) → memRead 0 v.fm.mem b = memRead 0 s.fm.mem b) ∧
      ((rest ≠ [] ∨ x.whole = false) → v.seq = s.seq ∧ v.ctr = u.ctr) ∧
      (rest = [] → x.whole = true → x.gather = false → (syncOf s x.sigObj).epoch = x.epoch → s.seq.barriers = [] →
        (syncOf v x.sigObj).count = if x.sigN = 0 then (syncOf s x.sigObj).count else min 65535 ((syncOf s x.sigObj).count + x.sigN)) ∧
      v = { counted u v with seq := v.seq, fm := { s.fm with xfers := v.fm.xfers, mem := v.fm.mem, flips := v.fm.flips, poison := v.fm.poison } } := by
  obtain ⟨_, _, _, _, _, _, hu⟩ := pieceData_frame hpd
  have honu : ∀ g ∈ groupsOf a d.length, bankOn u f (8 * g) = true := by rw [hu]; exact hon
  have hbank : ∀ k, k < d.length → bankOn u f (a + k) = true := fun k hk =>
    bankOn_group (honu _ (mem_groupsOf.mpr ⟨by omega, by omega, by omega⟩))
  have hread := fmStore_read (w := 64) (f := f) (a := a) (bs := d) (ps := ps) (s := u) ha (by rw [hu]; exact hwf) hbank
  obtain ⟨mem, flips, poison, hstore⟩ := fmStore_on ps hlen honu
  rw [hstore] at hv hread
  have hends := chunkDone_ends (setFm (fun m => { m with mem := mem, flips := flips, poison := poison }) u) hc hfw hr
  rw [← hv] at hends
  obtain ⟨hx, hgo, hsig⟩ := hends.at (s := s) (u := u) (by rw [hu]; rfl) (by rw [hu]; rfl) rfl
  obtain ⟨_, _, _, _, _, hf⟩ := hends.frame
  have hmem : ∀ y, memRead 0 v.fm.mem y = if chipAddr f a ≤ y ∧ y < chipAddr f a + roundUp d.length 8 then nth d (y - chipAddr f a) 0 else memRead 0 s.fm.mem y := fun y => by
    have := hread y
    rw [hf]
    refine Eq.trans this ?_
    rw [hu]
  have hround : roundUp d.length 8 = d.length := by unfold roundUp; omega
  rw [hround] at hmem
  refine ⟨hx, fun k hk => ?_, fun b hb => ?_, hgo, fun h1 h2 h3 => hsig h1 h2 h3 (by rw [hk]; decide), ?_⟩
  · rw [hmem, if_pos (by omega), Nat.add_sub_cancel_left]
  · rw [hmem, if_neg (by omega)]
  · rw [hf, hu]
    rfl


end Sys2Proof.Machine
end

section
/-! PROOFS. A data flit, and the read of a piece (R180, R384). -/

namespace Sys2Proof.Machine
open Sys2Proof Sys2Proof.Safety

/-! ## A data flit, a read and a firmware transfer (R55, R180, R384) -/

variable {f a : Nat} {x : Xfer} {c : Chunk} {rest : List Chunk} {d : List Byte} {p : List (BitVec 8)} {u s : State}

/-- A piece to a peer ends its transfer without a signal. -/
theorem chunkDone_peer (w : State) (hc : x.chunks = c :: rest) (hfw : x.fw = false) (hk : x.dstKind = .peer) :
    chunkDone x w = { w with fm := { w.fm with xfers := pieceXfers x rest w } } := by
  have hdrop : x.chunks.drop 1 = rest := by rw [hc]; rfl
  have hloc : ∀ t, localDone x t = t := fun t => (if_neg (by rw [hfw]; decide)).trans (if_pos (by simp [hk]))
  rw [chunkDone, hdrop, received_of_kind (by rw [hk]; decide)]
  dsimp only
  by_cases hlast : rest = [] ∧ x.whole = true
  · rw [if_pos (by simp [hlast.1, hlast.2]), hloc, pieceXfers, if_pos hlast]
    rfl
  · rw [if_neg (by simpa using hlast), pieceXfers, if_neg hlast]
    rfl

theorem peerPiece (hpd : pieceData s x c = some (d, p, u)) (hk : x.dstKind = .peer) (hfw : x.fw = false) (hc : x.chunks = c :: rest) {m : BitVec 8} {v : State}
    (hv : v = chunkDone x (queueFlit x.link false { cls := x.cls, srcChip := x.chip, tag := x.tag, body := .data (x.chunks.length == 1) m d } u)) :
    ∃ q, v.fm.xfers = pieceXfers x rest s ∧ (linkOf v x.link).txq = (linkOf s x.link).txq ++ [q] ∧ q.fwd = false ∧ q.flit.cls = x.cls ∧
      q.flit.srcChip = x.chip ∧ q.flit.tag = x.tag ∧ (∃ m, q.flit.body = .data (decide (rest = [])) m d) ∧ (∀ l, l ≠ x.link → linkOf v l = linkOf s l) ∧
      v = { u with fm := { s.fm with xfers := v.fm.xfers }, links := { s.links with link := v.links.link } } := by
  have hlast : (x.chunks.length == 1) = decide (rest = []) := by
    rw [hc]
    cases rest <;> simp
  rw [chunkDone_peer _ hc hfw hk, hlast] at hv
  obtain ⟨_, _, _, _, _, _, hu⟩ := pieceData_frame hpd
  refine ⟨{ fwd := false, flit := { cls := x.cls, srcChip := x.chip, tag := x.tag, body := .data (decide (rest = [])) m d } }, ?_, ?_, rfl, rfl, rfl, rfl, ⟨_, rfl⟩,
    fun l hl => ?_, ?_⟩
  · rw [hv, hu]
    rfl
  · rw [hv, hu]
    exact congrArg Link.txq (tabGet_tabSet_self _ _ _ _)
  · rw [hv, hu]
    exact tabGet_tabSet_ne _ _ _ hl
  · rw [hv, hu]
    rfl


/-! ### A piece is read from field memory -/

/-- What the reads of a memory count, and which groups they note. -/
structure ScanCounts (s t : State) : Prop where
  frame : ∃ e i x c r, t = { s with
    mbx := { s.mbx with errSum := e, intStatus := i, msix := x }
    ctr := c
    fm := { s.fm with rewrite := r } }

theorem fmCheckGroup_counts (f g : Nat) (s : State) : ScanCounts s (fmCheckGroup f s g) := by
  unfold fmCheckGroup
  split
  · exact ⟨_, _, _, _, _, rfl⟩
  · obtain ⟨_, _, _, _, h⟩ := (bump_countsOnly (cFmCe f) s).frame
    rw [h]
    exact ⟨_, _, _, _, _, rfl⟩
  · obtain ⟨_, _, _, _, h⟩ := (bump_countsOnly (cFmUe f) s).frame
    rw [h]
    exact ⟨_, _, _, _, _, rfl⟩

theorem bumpBy_countsOnly (off n : Nat) (s : State) : CountsOnly s (bumpBy off n s) := by
  obtain ⟨m, c, h⟩ := bumpBy_eq off n s
  have hm := bumpBy_counts off n s
  rw [h] at *
  exact ⟨_, _, _, _, congrArg (fun m => { s with mbx := m, ctr := c }) hm⟩

theorem fmScan_counts (w f a n : Nat) (s : State) : ScanCounts s (fmScan w f a n s) := by
  obtain ⟨_, _, _, _, h⟩ := (bumpBy_countsOnly (cFmOff f) ((accesses w a n).filter (bankOffAt s f)).length s).frame
  rw [fmScan, h]
  refine List.foldlRecOn (motive := fun t => ScanCounts s t) _ _ ⟨_, _, _, _, _, rfl⟩ fun t ht g _ => ?_
  obtain ⟨_, _, _, _, _, h⟩ := (fmCheckGroup_counts f g t).frame
  rw [h]
  obtain ⟨_, _, _, _, _, rfl⟩ := ht.frame
  exact ⟨_, _, _, _, _, rfl⟩

/-- The bytes of the groups of a piece, one after the other. -/
theorem flatMap_fmBytes (s : State) (f a : Nat) (n : Nat) : (List.range n).flatMap (fun i => fmBytes s f (a + 8 * i) 8) = fmBytes s f a (8 * n) := by
  induction n with
  | zero => rfl
  | succ n ih =>
    rw [List.range_succ, List.flatMap_append, ih, Nat.mul_succ]
    simp [Function.comp_def, fmBytes, List.range_add, Nat.add_assoc]

theorem rowAddr_within {base stride rowLen p k : Nat} (hr : rowLen ≠ 0) (h : p % rowLen + k < rowLen) :
    rowAddr base stride rowLen (p + k) = rowAddr base stride rowLen p + k := by
  have hp := Nat.div_add_mod p rowLen
  have hdiv : (p + k) / rowLen = p / rowLen := by
    rw [← hp, Nat.add_assoc, Nat.mul_add_div (Nat.pos_of_ne_zero hr), Nat.div_eq_of_lt h, Nat.add_zero, hp]
  have hmod : (p + k) % rowLen = p % rowLen + k := by
    rw [← hp, Nat.add_assoc, Nat.mul_add_mod, Nat.mod_eq_of_lt h, hp]
  rw [rowAddr, rowAddr, if_neg hr, if_neg hr, hdiv, hmod]
  omega

theorem dmaOwns_mono {s : State} {f a n b m : Nat} (h : dmaOwns s f a n = true) (hsub : ∀ g ∈ groupsOf b m, g ∈ groupsOf a n) : dmaOwns s f b m = true :=
  List.all_eq_true.mpr fun g hg => List.all_eq_true.mp h g (hsub g hg)

/-- A piece within a row is read from banks that a DMA port owns. -/
theorem readPiece_reads {f a : Nat} {x : Xfer} {c : Chunk} {s : State} (hsrc : x.srcKind = .fieldMem) (hfw : x.fw = false)
    (hfind : x.chunks.find? (fun e => e.data.isNone) = some c) (hsame : ∀ e ∈ x.chunks, e.off = c.off → e = c)
    (hrow : c.off % x.rowLen + c.len ≤ x.rowLen) (hat : rowAddr x.src x.srcStride x.rowLen c.off = chipAddr f a) (htop : a + c.len ≤ 2 ^ 23)
    (ha : a % 8 = 0) (hlen : 1 ≤ c.len) (hl8 : c.len % 8 = 0) (howns : dmaOwns s f a c.len = true) (hroom : roomFor s x c = true)
    (hclean : ∀ i, fmPoisonAt s f (a + 8 * i) = 0) :
    ∃ e, e = { c with data := some (fmBytes s f a c.len), poison := e.poison } ∧
      readPiece f x s = some (draw (putXfer { x with chunks := x.chunks.map fun g => if g.off = c.off then e else g } (fmScan 64 f a c.len s))) := by
  have hoff : ∀ i, 8 * i < c.len → rowAddr x.src x.srcStride x.rowLen (c.off + 8 * i) = chipAddr f (a + 8 * i) := fun i hi => by
    rw [rowAddr_within (by omega) (by omega), hat, chipAddr, chipAddr, Nat.add_assoc]
  have haddrs : ((List.range ((c.len + 7) / 8)).map fun i => splitAddr (rowAddr x.src x.srcStride x.rowLen (c.off + 8 * i))) =
      (List.range (c.len / 8)).map fun i => (f, a + 8 * i) := by
    rw [show (c.len + 7) / 8 = c.len / 8 by omega]
    refine List.map_congr_left fun i hi => ?_
    have hi := List.mem_range.mp hi
    rw [hoff i (by omega), splitAddr_chipAddr (by omega)]
  have hruns : srcRuns x c = [(chipAddr f a, c.len)] := by
    rw [srcRuns, hfw, ← hat]
    exact pieceRuns_row hrow hlen
  have hall : ((List.range (c.len / 8)).map fun i => (f, a + 8 * i)).all (fun e => e.1 == f && dmaOwns s f e.2 8) = true := by
    refine List.all_eq_true.mpr fun e he => ?_
    obtain ⟨i, hi, rfl⟩ := List.mem_map.mp he
    have hi := List.mem_range.mp hi
    have hown : dmaOwns s f (a + 8 * i) 8 = true := dmaOwns_mono howns fun g hg => by
      have hg := mem_groupsOf.mp hg
      exact mem_groupsOf.mpr ⟨by omega, by omega, by omega⟩
    rw [hown, Bool.and_true, beq_self_eq_true]
  have hps : (List.range (c.len / 8)).map (fun i => fmPoisonAt s f (a + 8 * i)) = List.replicate (c.len / 8) 0 := by
    rw [List.map_congr_left fun i _ => hclean i, List.map_const', List.length_range]
  have hbs : (List.range (c.len / 8)).flatMap (fun i => fmBytes s f (a + 8 * i) 8) = fmBytes s f a c.len := by
    rw [flatMap_fmBytes, show 8 * (c.len / 8) = c.len by omega]
  have hchunks : (x.chunks.map fun d => if d.off = c.off then { d with data := some (fmBytes s f a c.len), poison := List.replicate (c.len / 8) 0 } else d) =
      x.chunks.map fun g => if g.off = c.off then { c with data := some (fmBytes s f a c.len), poison := List.replicate (c.len / 8) 0 } else g := by
    refine List.map_congr_left fun g hg => ?_
    split
    · rename_i h
      rw [hsame g hg h]
    · rfl
  refine ⟨{ c with data := some (fmBytes s f a c.len), poison := List.replicate (c.len / 8) 0 }, rfl, ?_⟩
  rw [readPiece, hsrc]
  refine (if_neg (by decide)).trans ?_
  rw [hfind]
  dsimp only
  rw [hfw, haddrs, hall, hroom, hruns]
  refine (if_neg (by decide)).trans ((if_pos rfl).trans ?_)
  rw [List.flatMap_map, List.map_map, Function.comp_def]
  dsimp only
  rw [hps, hbs, freePoisoned_none, hchunks, List.foldl_cons, List.foldl_nil, splitAddr_chipAddr (by omega)]

end Sys2Proof.Machine
end

section
/-! PROOFS. Firmware transfers, and the writes that wait at port 1 (R55, R475). -/

namespace Sys2Proof.Machine
open Sys2Proof Sys2Proof.Safety

/-! ## A firmware transfer's piece, and a write that waits at port 1 (R55, R475) -/

/-- A store without marks, into banks that are on and without wrong groups, changes nothing but its bytes. -/
theorem fmStore_unmarked {f a : Nat} {bs : List Byte} {ps : List (BitVec 8)} {s : State} (hbs : 0 < bs.length)
    (hon : ∀ g ∈ groupsOf a bs.length, bankOn s f (8 * g) = true) (hps : ∀ i, nth ps i 0 = 0) (hflips : s.fm.flips = []) (hpoison : s.fm.poison = []) :
    ∃ mem, fmStore 64 f a bs ps s = setFm (fun m => { m with mem := mem }) s := by
  have hlen : (zeros (a - a / 8 * 8) ++ bs).length = a - a / 8 * 8 + bs.length := by simp [zeros]
  rw [fmStore, hlen, accesses_on hon (by omega) (by omega) (by omega), List.length_nil, bumpBy, if_pos rfl]
  refine List.foldlRecOn (motive := fun t => ∃ mem, t = setFm (fun m => { m with mem := mem }) s) _ _ ⟨_, rfl⟩ fun t ht i _ => ?_
  obtain ⟨m0, rfl⟩ := ht
  unfold fmPutGroup
  split
  · exact ⟨_, rfl⟩
  · refine ⟨memWriteN 0 m0 (chipAddr f (a / 8 * 8 + 8 * i)) (padTo 8 (((zeros (a - a / 8 * 8) ++ bs).drop (8 * i)).take 8)), ?_⟩
    simp only [setFm, hps, if_true, hflips, hpoison, tabDel, List.filter_nil]

theorem fmScan_unmarked {f a n : Nat} {s : State} (hon : ∀ g ∈ groupsOf a n, bankOn s f (8 * g) = true) (hflips : s.fm.flips = []) : fmScan 64 f a n s = s := by
  rw [fmScan, accesses_on hon rfl (fun _ => Nat.le_refl _) id, List.length_nil, bumpBy, if_pos rfl]
  refine List.foldlRecOn (motive := fun t => t = s) _ _ rfl fun t ht g _ => ?_
  rw [ht, fmCheckGroup, hflips]
  rfl

theorem fmPoisonAt_clean {s : State} {f a : Nat} (hon : bankOn s f a = true) (hflips : s.fm.flips = []) (hpoison : s.fm.poison = []) : fmPoisonAt s f a = 0 := by
  simp [fmPoisonAt, hon, hflips, hpoison, tabGet]

theorem freePoisoned_zero {k tag : Nat} {bs : List Byte} {ps : List (BitVec 8)} (h : ∀ i, nth ps i 0 = 0) : freePoisoned k tag bs ps = bs := by
  refine List.ext_getElem (by simp [freePoisoned]) fun i h1 h2 => ?_
  simp only [freePoisoned, List.getElem_map, List.getElem_range, h, if_true]
  simp [nth, List.getElem?_eq_getElem h2]

/-- Bytes that the firmware writes: they stand, and the rest of their groups stays. -/
theorem fwPut_writes {f a : Nat} {bs : List Byte} {ps : List (BitVec 8)} {s : State} (hbs : 0 < bs.length)
    (hon : ∀ g ∈ groupsOf a bs.length, bankOn s f (8 * g) = true) (hps : ∀ i, nth ps i 0 = 0) (hflips : s.fm.flips = []) (hpoison : s.fm.poison = [])
    (hwf : memWf 0 s.fm.mem = true) :
    ∃ mem, fwPut f a bs ps s = setFm (fun m => { m with mem := mem }) s ∧
      ∀ y, memRead 0 mem y = if chipAddr f a ≤ y ∧ y < chipAddr f a + bs.length then nth bs (y - chipAddr f a) 0 else memRead 0 s.fm.mem y := by
  unfold fwPut
  extract_lets a0 n inside part gs s1 data marks
  have ha0 : a0 = a / 8 * 8 := rfl
  have hn : n = roundUp (a + bs.length) 8 - a0 := rfl
  have hn' : 0 < n ∧ a0 + n = (a + bs.length + 7) / 8 * 8 := by
    rw [hn, ha0, roundUp]
    omega
  have hgroups : ∀ g ∈ groupsOf a0 n, bankOn s f (8 * g) = true := fun g hg => hon g (by
    have hg := mem_groupsOf.mp hg
    exact mem_groupsOf.mpr ⟨by omega, by omega, by omega⟩)
  have hon8 : ∀ g, g < n / 8 → bankOn s f (a0 + 8 * g) = true := fun g hg => by
    have := hgroups (a0 / 8 + g) (mem_groupsOf.mpr ⟨by omega, by omega, by omega⟩)
    rwa [show 8 * (a0 / 8 + g) = a0 + 8 * g by omega] at this
  have hs1 : s1 = s := by
    refine List.foldlRecOn (motive := fun t => t = s) _ _ rfl fun t ht g hg => ?_
    have hg := List.mem_range.mp (List.mem_of_mem_filter hg)
    rw [ht]
    refine fmScan_unmarked (fun k hk => ?_) hflips
    have hk := mem_groupsOf.mp hk
    have := hon8 g hg
    rwa [show a0 + 8 * g = 8 * k by omega] at this
  have hmarks : ∀ i, nth marks i 0 = 0 := fun i => by
    by_cases hi : i < n / 8
    · refine (nth_map_range _ _ hi).trans (List.foldlRecOn (motive := fun p => p = 0) _ _ rfl fun p hp j _ => ?_)
      rw [hp, hps, fmPoisonAt_clean (hon8 i hi) hflips hpoison]
      exact (ite_self _)
    · have hnone : marks[i]? = none := List.getElem?_eq_none (by simpa [marks, gs] using hi)
      rw [nth, hnone]
      rfl
  have hdlen : data.length = n := by simp [data]
  rw [hs1, freePoisoned_zero hmarks]
  obtain ⟨mem, hstore⟩ := fmStore_unmarked (f := f) (a := a0) (bs := data) (ps := marks) (s := s) (by omega) (by rw [hdlen]; exact hgroups) hmarks hflips hpoison
  have hread := fmStore_read (w := 64) (f := f) (a := a0) (bs := data) (ps := marks) (s := s) (by omega) hwf fun k hk =>
    bankOn_group (hgroups _ (mem_groupsOf.mpr ⟨by omega, by omega, by omega⟩))
  rw [hstore] at hread
  refine ⟨mem, hstore, fun y => (hread y).trans ?_⟩
  have hround : roundUp n 8 = n := by unfold roundUp; omega
  rw [hdlen, hround]
  have hchip : chipAddr f a = chipAddr f a0 + (a - a0) := by unfold chipAddr; omega
  by_cases hy : chipAddr f a0 ≤ y ∧ y < chipAddr f a0 + n
  · obtain ⟨i, rfl⟩ : ∃ i, y = chipAddr f a0 + i := ⟨y - chipAddr f a0, by omega⟩
    have hi : i < n := by omega
    rw [if_pos hy, Nat.add_sub_cancel_left]
    refine (nth_map_range _ _ hi).trans ?_
    by_cases hin : a ≤ a0 + i ∧ a0 + i < a + bs.length
    · rw [if_pos (decide_eq_true hin), if_pos (by omega)]
      congr 1
      omega
    · rw [if_neg (by simpa [inside] using hin), if_neg (by omega), fmByte, chipAddr, chipAddr, Nat.add_assoc]
  · rw [if_neg hy, if_neg (by omega)]

/-- The end of a firmware piece: its transfer ends with its last one, which triggers its job. -/
theorem chunkDone_firmware {x : Xfer} {c : Chunk} {rest : List Chunk} (w : State) (hc : x.chunks = c :: rest) (hfw : x.fw = true) (hh : x.head = none) :
    ∃ xs jobs, chunkDone x w = { w with fm := { w.fm with xfers := xs }, seq := { w.seq with jobs := jobs } } ∧
      ∀ j, x.job = some j → rest = [] → x.whole = true → (tabGet {} jobs j : Job).running = true := by
  have hdrop : x.chunks.drop 1 = rest := by rw [hc]; rfl
  have hr : received x = false := by simp [received, hh]
  rw [chunkDone, hdrop, hr]
  dsimp only
  by_cases hlast : rest = [] ∧ x.whole = true
  · rw [if_pos (by simp [hlast.1, hlast.2]), localDone, if_pos hfw]
    split
    · rename_i j hj
      rw [triggerJob]
      split
      · rename_i hrun
        refine ⟨_, _, rfl, fun k hk _ _ => ?_⟩
        cases hj.symm.trans hk
        exact hrun
      · refine ⟨_, _, rfl, fun k hk _ _ => ?_⟩
        cases hj.symm.trans hk
        rw [tabGet_tabSet_self]
    · rename_i hj
      exact ⟨_, _, rfl, fun k hk => absurd hk (by rw [hj]; nofun)⟩
  · rw [if_neg (by simpa using hlast)]
    exact ⟨_, _, rfl, fun j _ h h' => absurd ⟨h, h'⟩ hlast⟩

theorem writePiece_firmware {f a : Nat} {x : Xfer} {c : Chunk} {d : List Byte} {s : State} (hd : c.data = some d) (hfw : x.fw = true)
    (hk : x.dstKind = .fieldMem) (hat : c.dstAt = chipAddr f a) (ha : a < 2 ^ 23) (hgate : gatePasses s x f a c.len = true) (howns : dmaOwns s f a c.len = true) :
    writePiece f x c s = some (chunkDone x (draw (fwPut f a d c.poison s))) := by
  have hpd : pieceData s x c = some (d, c.poison, s) := by rw [pieceData, hd]
  have hruns : dstRuns x c = [(chipAddr f a, c.len)] := by rw [dstRuns, hfw, ← hat]; rfl
  rw [writePiece, hk]
  dsimp only
  rw [hfw, hat]
  refine (if_neg (by simp [splitAddr_chipAddr ha])).trans ?_
  rw [hpd]
  dsimp only
  rw [hruns]
  simp only [List.find?_cons, List.find?_nil, splitAddr_chipAddr ha, hgate, Bool.not_true, List.all_cons, List.all_nil, howns, Bool.and_true]
  rfl

end Sys2Proof.Machine
end

section
/-! PROOFS. The access of a DMA engine (R180). -/

namespace Sys2Proof.Machine
open Sys2Proof Sys2Proof.Safety

/-- A write that waits at port 1 is made as its bank is port 1's. -/
theorem portPiece_writes {f a : Nat} {w : PortWrite} {s : State} (hw : s.fm.portWait = [(chipAddr f a, w)]) (htop : a + 8 ≤ 2 ^ 23) (ha : a % 8 = 0)
    (hport : port1Owns s f a = true) (hon : bankOn s f a = true) (hdrop : feDropped s f a = false) (hlen : w.bytes.length = 8) (hwf : memWf 0 s.fm.mem = true) :
    ∃ t, portPiece f s = some t ∧ t.fm.portWait = [] ∧ (∀ k, k < 8 → memRead 0 t.fm.mem (chipAddr f a + k) = nth w.bytes k 0) ∧
      (∀ b, (b < chipAddr f a ∨ chipAddr f a + 8 ≤ b) → memRead 0 t.fm.mem b = memRead 0 s.fm.mem b) ∧
      t = { s with fm := { s.fm with portWait := [], mem := t.fm.mem, flips := t.fm.flips, poison := t.fm.poison } } := by
  have hsplit : splitAddr (chipAddr f a) = (f, a) := splitAddr_chipAddr (by omega)
  have hfind : (s.fm.portWait.find? fun e => (splitAddr e.1).1 == f && (port1Owns s f (splitAddr e.1).2 || feDropped s f (splitAddr e.1).2)) =
      some (chipAddr f a, w) := by
    rw [hw]
    exact List.find?_cons_of_pos (by simp [hsplit, hport])
  have hdel : setFm (fun m => { m with portWait := tabDel m.portWait (chipAddr f a) }) s = setFm (fun m => { m with portWait := [] }) s := by
    simp [setFm, hw, tabDel]
  have hput : portPiece f s = some (fmStore 64 f a w.bytes (List.replicate ((w.bytes.length + 7) / 8) w.poison) (setFm (fun m => { m with portWait := [] }) s)) := by
    rw [portPiece, hfind]
    dsimp only
    rw [hsplit, hdel]
    exact congrArg some ((if_neg (by rw [show feDropped (setFm _ s) f a = feDropped s f a from rfl, hdrop]; decide)).trans (if_pos hport))
  have hgroups : ∀ g ∈ groupsOf a w.bytes.length, bankOn (setFm (fun m => { m with portWait := [] }) s) f (8 * g) = true := fun g hg => by
    have hg := mem_groupsOf.mp hg
    rw [show 8 * g = a by omega]
    exact hon
  have hread := fmStore_read (w := 64) (f := f) (a := a) (bs := w.bytes) (ps := List.replicate ((w.bytes.length + 7) / 8) w.poison)
    (s := setFm (fun m => { m with portWait := [] }) s) ha hwf fun k hk => bankOn_group (hgroups _ (mem_groupsOf.mpr ⟨by omega, by omega, by omega⟩))
  obtain ⟨mem, flips, poison, hstore⟩ := fmStore_on (List.replicate ((w.bytes.length + 7) / 8) w.poison) (by omega) hgroups
  rw [hstore] at hput hread
  rw [hlen] at hread
  refine ⟨_, hput, rfl, fun k hk => (hread _).trans ?_, fun b hb => (hread b).trans ?_, rfl⟩
  · rw [if_pos ⟨by omega, by unfold roundUp; omega⟩, Nat.add_sub_cancel_left]
  · rw [if_neg (by unfold roundUp; omega)]
    rfl

theorem gatePasses_on {s : State} {x : Xfer} {f a n : Nat} (h : gatePasses s x f a n = true) : ∀ g ∈ groupsOf a n, bankOn s f (8 * g) = true :=
  fun g hg => (Bool.and_eq_true_iff.mp (List.all_eq_true.mp h g hg)).1

theorem nth_of_all_zero {ps : List (BitVec 8)} (h : ps.all (· == 0) = true) (i : Nat) : nth ps i 0 = 0 := by
  rw [nth]
  cases hp : ps[i]? with
  | none => rfl
  | some p =>
    have := List.all_eq_true.mp h p (List.mem_of_getElem? hp)
    simpa using this

theorem xferAccess_reads {f : Nat} {x : Xfer} {h : Chunk} {s t : State} (hhead : x.chunks.head? = some h) (hno : writePiece f x h s = none)
    (hread : readPiece f x s = some t) : xferAccess f s x = some t := by
  obtain ⟨r, hr⟩ := List.head?_eq_some_iff.mp hhead
  rw [xferAccess, hr]
  dsimp only
  rw [hno]
  exact hread

/-- Settles O51: the access of the one transfer that has one to make, by the memory that it reaches. -/
theorem dmaOwnedAccess : Obligations.DmaOwnedAccess := by
  refine ⟨fun f x c rest d p u s hdown hf hport hx hrest hc hpd hfw => ?_,
    fun f a x c h s hdown hf hport hx hrest hhead hno hsrc hfw hfind hsame hrow hat htop ha hlen hl8 howns hroom hclean => ?_,
    fun f a x c rest d s hdown hf hport hx hrest hc hd hfw hh hk hat htop hlen hdl hgate howns hwf hpoison hflips hps => ?_,
    fun f a w s hdown hf hw htop ha hport hon hdrop hlen hwf => ?_, fun f s hdown hf hport hrest => ?_⟩
  · have honly : ∀ t, writePiece f x c s = some t → exec (.dmaOwnedAccess f) s = .next (releaseAll t) := fun t ht =>
      congrArg Host.Outcome.next (dmaAccess_only hdown hf hport hx (fun y hy hne => (hrest y hy hne).2) (xferAccess_writes hc ht))
    refine ⟨fun a hk hxf hat hwf => ?_, fun a hk hxf hup hturn hat hwf hclean => ?_,
      fun a hk hr hrow hat htop ha hlen hdl hl8 hgate howns hwf => ?_, fun hk hxf => ?_⟩
    · subst hat
      exact ⟨_, honly _ (writePiece_host hpd hk hxf), hostPiece hpd hk hfw hc hwf rfl⟩
    · subst hat
      exact ⟨_, honly _ (writePiece_dram hpd hk hxf hup hturn hfw), dramPiece hpd hk hfw hc hwf hclean rfl⟩
    · obtain ⟨ps, hpiece⟩ := writePiece_field hpd hk hfw hrow hat (by omega) hlen hdl hgate howns
      exact ⟨_, honly _ hpiece, fieldPiece hpd hk hfw hr hc ha (hdl ▸ hlen) (hdl ▸ hl8) (hdl ▸ gatePasses_on hgate) hwf rfl⟩
    · obtain ⟨q, hq⟩ := peerPiece hpd hk hfw hc (rest := rest) rfl
      exact ⟨_, q, honly _ (writePiece_peer hpd hk hxf), hq⟩
  · obtain ⟨e, he, hread⟩ := readPiece_reads hsrc hfw hfind hsame hrow hat htop ha hlen hl8 howns hroom hclean
    have hacc := xferAccess_reads hhead hno hread
    obtain ⟨_, _, _, _, _, hscan⟩ := (fmScan_counts 64 f a c.len s).frame
    refine ⟨_, e, congrArg Host.Outcome.next (dmaAccess_only hdown hf hport hx (fun y hy hne => (hrest y hy hne).2) hacc), he, ?_, ?_⟩
    · rw [hscan]
      rfl
    · rw [hscan]
      rfl
  · have hpiece := writePiece_firmware hd hfw hk hat (by omega) hgate howns
    obtain ⟨mem, hput, hread⟩ := fwPut_writes (f := f) (a := a) (bs := d) (ps := c.poison) (s := s) (by omega) (hdl ▸ gatePasses_on hgate)
      (nth_of_all_zero hps) hflips hpoison hwf
    obtain ⟨xs, jobs, hdone, hjob⟩ := chunkDone_firmware (draw (fwPut f a d c.poison s)) hc hfw hh
    have hmem : ∀ y, memRead 0 (chunkDone x (draw (fwPut f a d c.poison s))).fm.mem y =
        if chipAddr f a ≤ y ∧ y < chipAddr f a + d.length then nth d (y - chipAddr f a) 0 else memRead 0 s.fm.mem y := fun y => by
      rw [hdone, hput]
      exact hread y
    refine ⟨_, congrArg Host.Outcome.next (dmaAccess_only hdown hf hport hx (fun y hy hne => (hrest y hy hne).2) (xferAccess_writes hc hpiece)),
      fun k hk => ?_, fun b hb => ?_, fun j hj h1 h2 => ?_, ?_⟩
    · rw [hmem, if_pos (by omega), Nat.add_sub_cancel_left]
    · rw [hmem, if_neg (by omega)]
    · rw [hdone]
      exact hjob j hj h1 h2
    · rw [hdone, hput]
      rfl
  · obtain ⟨t, ht, hrest⟩ := portPiece_writes hw htop ha hport hon hdrop hlen hwf
    refine ⟨t, congrArg Host.Outcome.next ((if_neg (by rw [hdown]; simpa using hf)).trans ?_), hrest⟩
    dsimp only
    rw [ht]
  · exact congrArg Host.Outcome.next (dmaAccess_none hdown hf hport hrest)

end Sys2Proof.Machine
end

section
/-! PROOFS. The flush of a page, and the append behind it (R244). -/

namespace Sys2Proof.Machine
open Sys2Proof Sys2Proof.Safety

/-! ## A flush with an append that waits behind it (R244) -/

/-- Layer 0 of sequence 0 flushes its full buffer, and an append of one token to it waits. -/
def appendBehindFlush : State :=
  { kv := { seqs := [(0, { slots := [0], maxPos := 1000, kvHeads := 0 })]
            layers := [(0, { length := 128, staged := 128, flushing := true })]
            pool := some { base := 0, sizeMib := 33, compBudget := 1 } }
    dram := { ready := true }
    power := { polders := [(pDram, .up)] }
    mbx := { waits := [{ cmd := { slot := 0, cookie := 0, params := 0, paramLen := 0, crcEn := false, pcrc := 0, quiet := false }
                         opcode := 0x0504
                         act := .append 0 0 1 }] } }

/-- The append goes on behind the flush: the layer is one token longer. -/
theorem appendBehindFlush_goes : (layerOf (pageFlush 0 0 appendBehindFlush) 0).length = 129 := by decide +kernel

/-- Refutes O40: PAGE_FLUSH lets the append that waits behind it go on (R244), so the layer's length and staged count rise again. -/
theorem not_poolEvents : ¬ Obligations.PoolEvents := by
  intro h
  obtain ⟨hflush, -⟩ := h
  obtain ⟨t, g, hexec, -, -, -, -, hlayer, -⟩ := hflush 0 0 0 _ { base := 0, sizeMib := 33, compBudget := 1 } appendBehindFlush rfl (by decide +kernel)
    (by decide +kernel) (by decide +kernel) (by decide +kernel) rfl (by decide) (by decide +kernel) (by decide +kernel) (by decide +kernel)
  have hnext : t = pageFlush 0 0 appendBehindFlush := (Host.Outcome.next.inj hexec).symm
  have hlen := appendBehindFlush_goes
  rw [← hnext, hlayer] at hlen
  exact absurd hlen (by decide +kernel)

end Sys2Proof.Machine
end

section
/-! PROOFS. What the writes of a serve change (R226, R241 to R245). -/

namespace Sys2Proof.Machine
open Sys2Proof Sys2Proof.Safety

/-! ## What a serve reads and writes (R241 to R245) -/

/-- Reads and writes of the two memories: field memory with its marks, device DRAM, the pages that a misuse spoils, the counters and the draws. -/
structure ServeKeeps (s t : State) : Prop where
  frame : ∃ e i x c mem flips poison rw d n pages, t = { s with
    mbx := { s.mbx with errSum := e, intStatus := i, msix := x }
    ctr := c
    fm := { s.fm with mem := mem, flips := flips, poison := poison, rewrite := rw }
    dram := d
    free := n
    kv := { s.kv with pages := pages } }
  wf : memWf 0 s.fm.mem = true → memWf 0 t.fm.mem = true

namespace ServeKeeps

variable {s t u : State}

theorem refl (s : State) : ServeKeeps s s := ⟨⟨_, _, _, _, _, _, _, _, _, _, _, rfl⟩, id⟩

theorem trans (h : ServeKeeps s t) (k : ServeKeeps t u) : ServeKeeps s u := by
  obtain ⟨⟨_, _, _, _, _, _, _, _, _, _, _, rfl⟩, hw⟩ := h
  obtain ⟨⟨_, _, _, _, _, _, _, _, _, _, _, rfl⟩, kw⟩ := k
  exact ⟨⟨_, _, _, _, _, _, _, _, _, _, _, rfl⟩, fun h => kw (hw h)⟩

theorem ite {c : Prop} [Decidable c] (h : ServeKeeps s t) (k : ServeKeeps s u) : ServeKeeps s (if c then t else u) := by
  split
  · exact h
  · exact k

theorem foldl {α : Type} {g : State → α → State} (hg : ∀ t x, ServeKeeps t (g t x)) (xs : List α) (s : State) : ServeKeeps s (xs.foldl g s) := by
  induction xs generalizing s with
  | nil => exact .refl s
  | cons x xs ih => exact (hg s x).trans (ih _)

end ServeKeeps

theorem CountsOnly.serveKeeps {s t : State} (h : CountsOnly s t) : ServeKeeps s t := by
  obtain ⟨_, _, _, _, rfl⟩ := h.frame
  exact ⟨⟨_, _, _, _, _, _, _, _, _, _, _, rfl⟩, id⟩

theorem DramCounts.serveKeeps {s t : State} (h : DramCounts s t) : ServeKeeps s t := by
  obtain ⟨_, _, _, _, _, rfl⟩ := h.frame
  exact ⟨⟨_, _, _, _, _, _, _, _, _, _, _, rfl⟩, id⟩

theorem ScanCounts.serveKeeps {s t : State} (h : ScanCounts s t) : ServeKeeps s t := by
  obtain ⟨_, _, _, _, _, rfl⟩ := h.frame
  exact ⟨⟨_, _, _, _, _, _, _, _, _, _, _, rfl⟩, id⟩

theorem draw_serveKeeps (s : State) : ServeKeeps s (draw s) := ⟨⟨_, _, _, _, _, _, _, _, _, _, _, rfl⟩, id⟩

theorem fmPutGroup_serveKeeps (f a : Nat) (bs : List Byte) (p : BitVec 8) (s : State) : ServeKeeps s (fmPutGroup f a bs p s) := by
  unfold fmPutGroup
  split
  · exact .refl s
  · exact ⟨⟨_, _, _, _, _, _, _, _, _, _, _, rfl⟩, fun h => memWf_memWriteN _ _ _ h⟩

theorem fmStore_serveKeeps (w f a : Nat) (bs : List Byte) (ps : List (BitVec 8)) (s : State) : ServeKeeps s (fmStore w f a bs ps s) :=
  (bumpBy_countsOnly _ _ s).serveKeeps.trans (.foldl (fun t _ => fmPutGroup_serveKeeps _ _ _ _ t) _ _)

theorem dramScan_serveKeeps (a n : Nat) (s : State) : ServeKeeps s (dramScan a n s) := .foldl (fun t l => (dramCheckLine_dramCounts l t).serveKeeps) _ s

theorem poolSpoil_serveKeeps (s : State) : ServeKeeps s (poolSpoil s) := by
  unfold poolSpoil
  split
  · exact .refl s
  · extract_lets k n pages
    have h1 : ServeKeeps s (setKv (fun v => { v with pages := pages }) s) := ⟨⟨_, _, _, _, _, _, _, _, _, _, _, rfl⟩, id⟩
    exact (h1.trans (.foldl (fun t _ => (dramPutLine_dramCounts _ _ _ t).serveKeeps) _ _)).trans (draw_serveKeeps _)

theorem endWrite_serveKeeps (kind a : Nat) (bs : List Byte) (ps : List (BitVec 8)) (s : State) : ServeKeeps s (endWrite kind a bs ps s) :=
  .ite (fmStore_serveKeeps _ _ _ _ _ _) (.ite ((dramWrite_dramCounts _ _ _ _).serveKeeps.trans (poolSpoil_serveKeeps _)) (dramWrite_dramCounts _ _ _ _).serveKeeps)

theorem endScan_serveKeeps (kind a n : Nat) (s : State) : ServeKeeps s (endScan kind a n s) :=
  .ite (fmScan_counts _ _ _ _ s).serveKeeps (dramScan_serveKeeps _ _ _)

theorem serveScan_serveKeeps (v : Serve) (s : State) : ServeKeeps s (serveScan v s) := by
  unfold serveScan
  extract_lets r q s1
  have h1 : ServeKeeps s s1 := endScan_serveKeeps _ _ _ _
  refine .ite (h1.trans (.foldl (fun t _ => endScan_serveKeeps _ _ _ t) _ _)) (h1.trans (.foldl (fun t b => ?_) _ _))
  split
  · exact dramScan_serveKeeps _ _ _
  · exact (fmScan_counts _ _ _ _ _).serveKeeps
  · exact .refl t

theorem countAx_serveKeeps (f : Nat) (fs : List AxFlag) (s : State) : ServeKeeps s (countAx f fs s) :=
  (((bumpBy_countsOnly _ _ _).trans (bumpBy_countsOnly _ _ _)).trans (bumpBy_countsOnly _ _ _)).serveKeeps

/-- The state behind the output and the status word of a serve. -/
def serveWritten (v : Serve) (s : State) : State :=
  let r := v.req
  let q := tabGet {} s.kv.seqs (rSeq r)
  let good := decide (v.status = .ok)
  let ps := if good then serveParts s v else []
  let o := serveOut s v ps
  let bs := if v.spoiled then (List.range o.1.length).map fun i => Config.freeByte s.free (rOut r + i) else o.1
  let s0 := if good then countAx q.stgField o.2.2 (serveScan v s) else s
  let inPool := good && rMerge r && rQKind r != 0 && (mergeAddrs s r).any fun x => meetsPool s x (partialBytes q r)
  let s0 := if inPool then poolSpoil s0 else s0
  if good then draw (endWrite (rOutKind r) (rOut r) (freePoisoned s.free (rOut r) bs o.2.1) o.2.1 s0) else s0

theorem serveWritten_keeps (v : Serve) (s : State) : ServeKeeps s (serveWritten v s) := by
  unfold serveWritten
  extract_lets r q good ps o bs s0 inPool s0'
  have h0 : ServeKeeps s s0 := .ite ((serveScan_serveKeeps v s).trans (countAx_serveKeeps _ _ _)) (.refl s)
  have h1 : ServeKeeps s s0' := .ite (h0.trans (poolSpoil_serveKeeps _)) h0
  exact .ite ((h1.trans (endWrite_serveKeeps _ _ _ _ _)).trans (draw_serveKeeps _)) h1

theorem serveWritten_refused {v : Serve} (s : State) (h : v.status ≠ .ok) : serveWritten v s = s := by
  unfold serveWritten
  extract_lets r q good ps o bs s0 inPool s0'
  have hg : good = false := decide_eq_false h
  simp [s0', inPool, s0, hg]

/-- What SERVE_END leaves of its job. -/
def serveLeft (v : Serve) (x : AttnJob) (gone : Bool) : AttnJob :=
  { x with
    serving := none
    queue := if gone then x.queue.filter fun y => y.num != v.req.num
      else x.queue.map fun y => if y.num = v.req.num then { y with appended := false, streamC := none } else y }

/-- SERVE_END as its writes, its signal, and the end of its request. -/
theorem serveEnd_eq {jc : Nat} {v : Serve} {s : State} (hv : (attnOf s jc).serving = some v) (hup : serveNeeds v.req = true → dramUp s = true) :
    ∃ empty poisoned gone, (v.req.oneShot = true → gone = true) ∧
      let s2 := endWrite (rStKind v.req) (rSt v.req) (statusWord s.tick.no v empty poisoned) [] (serveWritten v s)
      let s3 := addSignal (reqField v.req 699 690) (reqField v.req 689 686) (syncOf s2 (reqField v.req 699 690)).epoch s2
      let s5 := finish (· == .serve v.req.num) v.status v.req.num (setAttn jc (fun x => serveLeft v x gone) s3)
      serveEnd jc s = if (attnOf s jc).todo.isEmpty then runEnds jc s5 else s5 := by
  have hneed : (if serveNeeds v.req then needDram s else s) = s := by
    split
    · rename_i h
      exact needDram_up (Bool.and_eq_true_iff.mp (hup h)).2
    · rfl
  rw [serveEnd, hv]
  dsimp only
  rw [hneed]
  have hgo : ¬(serveNeeds v.req && !dramUp s) = true := fun h => by
    obtain ⟨h1, h2⟩ := Bool.and_eq_true_iff.mp h
    rw [hup h1] at h2
    cases h2
  refine ⟨_, _, _, ?_, if_neg hgo⟩
  intro h
  rw [h, Bool.true_or]

end Sys2Proof.Machine
end

section
/-! PROOFS. The start of a serve, and its append (R226, R240). -/

namespace Sys2Proof.Machine
open Sys2Proof Sys2Proof.Safety

/-! ## Requests and their serves (R225 to R245) -/

/-- The end of a run leaves its requests and its serve. -/
theorem runEnds_left (b : Bool) (jc : Nat) (u : State) : ∃ ks js c w, (if b then runEnds jc u else u) = { u with
      kv := { u.kv with jobs := ks }
      seq := { u.seq with jobs := js } } ∧
    tabGet {} ks jc = { attnOf u jc with compact := c, waitOver := w } ∧ ∀ j, j ≠ jc → tabGet {} ks j = attnOf u j := by
  split
  · unfold runEnds
    extract_lets s1
    split
    · exact ⟨_, _, _, _, rfl, tabGet_tabSet_self _ _ _ _, fun j hj => tabGet_tabSet_ne _ _ _ hj⟩
    · exact ⟨_, _, _, _, rfl, tabGet_tabSet_self _ _ _ _, fun j hj => tabGet_tabSet_ne _ _ _ hj⟩
  · exact ⟨_, _, _, _, rfl, rfl, fun _ _ => rfl⟩

/-- A signal in the epoch that its object has. -/
theorem addSignal_now (obj n : Nat) (s : State) : (∃ y b, addSignal obj n (syncOf s obj).epoch s = { s with seq := { s.seq with sync := y, barriers := b } }) ∧
    ((syncOf s obj).count ≤ 65535 → (syncOf (addSignal obj n (syncOf s obj).epoch s) obj).count = min 65535 ((syncOf s obj).count + n)) := by
  by_cases hn : n = 0
  · rw [addSignal, if_pos hn, hn]
    exact ⟨⟨_, _, rfl⟩, fun h => by omega⟩
  · refine ⟨⟨_, _, addSignal_frame obj s hn⟩, fun _ => ?_⟩
    rw [syncOf_addSignal_self obj s hn]
    rfl

/-- An append leaves the requests. -/
theorem dropPage_jobs (e : Nat) (s : State) : (dropPage e s).kv.jobs = s.kv.jobs := by
  obtain ⟨_, _, _, _, _, _, h⟩ := (pagePut_poolCounts e { pageOf s e with state := 2 } s).frame
  rw [dropPage, h]
  rfl

theorem dropUntil_jobs {n : Nat} {es : List Nat} {s t : State} (h : dropUntil n es s = some t) : t.kv.jobs = s.kv.jobs := by
  induction es generalizing s with
  | nil =>
    rw [dropUntil] at h
    split at h
    · cases h
    · cases h
      rfl
  | cons e rest ih =>
    rw [dropUntil] at h
    split at h
    · rw [ih h, dropPage_jobs]
    · cases h
      rfl

theorem allocPage_jobs {b : Bool} {n g : Nat} {s t : State} (h : allocPage b n s = some (g, t)) : t.kv.jobs = s.kv.jobs := by
  rw [allocPage] at h
  split at h
  · cases h
  · rename_i u hu
    obtain ⟨x, -, hx⟩ := Option.map_eq_some_iff.mp h
    cases hx
    exact dropUntil_jobs (t := u) hu

theorem copyPage_jobs (f a bytes g e : Nat) (p : Page) (s : State) : (copyPage f a bytes g e p s).kv.jobs = s.kv.jobs := by
  obtain ⟨_, _, _, _, _, hscan⟩ := (fmScan_counts 64 f a bytes s).frame
  unfold copyPage
  extract_lets base data ps
  obtain ⟨_, _, _, _, _, hw⟩ := (dramWrite_dramCounts (base + 4096 * g) data ps (fmScan 64 f a bytes s)).frame
  obtain ⟨_, _, _, _, _, _, h⟩ := (pagePut_poolCounts e { p with granule := g } (dramWrite (base + 4096 * g) data ps (fmScan 64 f a bytes s))).frame
  rw [h, hw, hscan]

theorem flushLayer_jobs {q n : Nat} {s t : State} (h : flushLayer q n s = some t) : t.kv.jobs = s.kv.jobs := by
  rw [flushLayer] at h
  split at h
  · cases h
  · rename_i g u hu
    cases h
    exact (copyPage_jobs _ _ _ _ _ _ u).trans (allocPage_jobs hu)

theorem appendLayer_jobs (now : Bool) (q n cnt : Nat) (s : State) : (appendLayer now q n cnt s).2.kv.jobs = s.kv.jobs := by
  unfold appendLayer
  extract_lets d slot x
  split
  · rfl
  · split
    · rfl
    · split
      · rfl
      · split
        · rfl
        · rename_i t ht
          have hjobs : t.kv.jobs = s.kv.jobs := by
            split at ht
            · exact flushLayer_jobs ht
            · cases ht
              rfl
          extract_lets y t1
          split
          · rfl
          · split
            · exact hjobs
            · split
              · cases hf : flushLayer q n t1 with
                | none => exact hjobs
                | some t2 => exact (flushLayer_jobs hf).trans hjobs
              · exact hjobs

theorem serveStream_frame (r : Req) (s : State) : ∃ st, (serveStream r s).2 = { s with seq := { s.seq with streams := st } } := by
  unfold serveStream
  split
  · split
    · exact ⟨_, rfl⟩
    · exact ⟨_, rfl⟩
  · exact ⟨_, rfl⟩

theorem serveCheck_streams (t : State) (st : Tab (BitVec 48)) (r : Req) :
    serveCheck { t with seq := { t.seq with streams := st } } r = serveCheck t r := rfl

theorem mergeOk_streams (t : State) (st : Tab (BitVec 48)) (q : KvSeq) (r : Req) :
    mergeOk { t with seq := { t.seq with streams := st } } q r = mergeOk t q r := rfl

theorem excludedCount_streams (t : State) (st : Tab (BitVec 48)) (r : Req) :
    excludedCount { t with seq := { t.seq with streams := st } } r = excludedCount t r := rfl

/-- SERVE of a request whose wait is met and whose memories it reaches. -/
theorem serveStart_serves {jc n : Nat} {rest : List Nat} {r : Req} {s : State} {p : Status × State} (hserve : (attnOf s jc).serving = none)
    (htodo : (attnOf s jc).todo = n :: rest) (hmay : mayServe s jc = true) (hfind : ((attnOf s jc).queue.find? fun x => x.num == n) = some r)
    (hwait : rWaitTgt r ≤ (syncOf s (rWaitObj r)).count) (hreach : appendFlushes s r = false ∨ bufferReach s (rSeq r) (rLayer r) = true)
    (hup : serveNeeds r = true → dramUp s = true)
    (hp : (if rMerge r then (Status.ok, s) else appendLayer true (rSeq r) (rLayer r) (rAppend r) s) = p) :
    ∃ v, serveStart jc s = setAttn jc (fun x => { x with todo := rest, waitOver := false, serving := some v }) (serveStream r p.2).2 ∧
      v.req.num = r.num ∧ v.req.bits = r.bits ∧ v.overrun = (attnOf s jc).waitOver ∧
      v.status = (if p.1 ≠ .ok then p.1 else if rMerge r = false then serveCheck p.2 r else
          if mergeOk p.2 (tabGet {} p.2.kv.seqs (rSeq r)) r = true then .ok else .badParam) ∧
      v.length = (layerOf p.2 (slotOf p.2 (rSeq r) (rLayer r))).length ∧ v.posTo = servePosTo p.2 r ∧
      (v.status = .ok → rMerge r = false → v.excluded = excludedCount p.2 r) := by
  have hneed : (if serveNeeds r then needDram s else s) = s := by
    split
    · rename_i h
      exact needDram_up (Bool.and_eq_true_iff.mp (hup h)).2
    · rfl
  have hgo : ¬((serveNeeds r && !dramUp s) || (appendFlushes s r && !bufferReach s (rSeq r) (rLayer r))) = true := by
    have h1 : (serveNeeds r && !dramUp s) = false := by
      cases h : serveNeeds r
      · rfl
      · rw [hup h]
        rfl
    have h2 : (appendFlushes s r && !bufferReach s (rSeq r) (rLayer r)) = false := by
      rcases hreach with h | h <;> simp [h]
    simp [h1, h2]
  obtain ⟨st, hst⟩ := serveStream_frame r p.2
  rw [serveStart, hserve, htodo]
  dsimp only
  rw [hmay, if_neg (by decide), hfind]
  dsimp only
  rw [hneed, if_neg (by simpa using hwait), if_neg hgo, hp]
  generalize serveStream r p.2 = w at *
  refine ⟨_, rfl, rfl, rfl, rfl, ?_, ?_, ?_, fun hok hm => ?_⟩
  · dsimp only
    rw [hst, serveCheck_streams, mergeOk_streams]
    simp only [Bool.not_eq_true']
  · rw [hst]
    rfl
  · rw [hst]
    rfl
  · rw [← excludedCount_streams p.2 st r, ← hst]
    exact if_pos (by rw [Bool.and_eq_true_iff]; exact ⟨decide_eq_true hok, by rw [hm]; rfl⟩)

end Sys2Proof.Machine
end

section
/-! PROOFS. ATTN_RUN, ATTN_CANCEL and the status word (R225, R229). -/

namespace Sys2Proof.Machine
open Sys2Proof Sys2Proof.Safety

/-- ATTN_RUN of a request that passes its checks. -/
theorem attnRun_queues {c : Cmd} {r : Req} {s : State} (hpool : s.kv.pool.isSome = true)
    (hr : r = { num := s.kv.nextReq % 65536, bits := reqBits c, oneShot := !fldB c 627 false }) (hparam : reqParamOk s r = true) (hfmt : reqFormatOk s r = true)
    (hjob : attnCarried s (rJob r) = true) (hroom : (attnOf s (rJob r)).queue.length < 16) :
    bodyAttnRun c s = (if r.oneShot then waitFor 0x0510 c (.serve r.num) else complete 0x0510 c .accepted 0 r.num 0)
      (setAttn (rJob r) (fun a => { a with queue := a.queue ++ [r] }) (setKv (fun k => { k with nextReq := k.nextReq + 1 }) s)) := by
  unfold bodyAttnRun
  extract_lets n r' s1
  have hrr : r' = r := hr.symm
  rw [if_neg (by simpa [Option.isNone_iff_eq_none] using Option.ne_none_iff_isSome.mpr hpool), hrr, hparam, if_neg (by decide), hfmt, if_neg (by decide), hjob,
    if_neg (by decide), if_neg (by omega)]
  have hn : n = r.num := by rw [hr]
  have hs1 : s1 = setAttn (rJob r) (fun a => { a with queue := a.queue ++ [r] }) (setKv (fun k => { k with nextReq := k.nextReq + 1 }) s) := by
    rw [← hrr]
  rw [hn, hs1]
  split <;> rfl

/-- ATTN_CANCEL of a request that is queued. -/
theorem attnCancel_queued {c : Cmd} {jc : Nat} {a : AttnJob} {s : State}
    (hfind : (s.kv.jobs.find? fun e => e.2.queue.any fun r => r.num == fld c 15 0 0) = some (jc, a))
    (hserve : match a.serving with | some v => v.req.num ≠ fld c 15 0 0 | none => mayServe s jc = false ∨ a.todo.head? ≠ some (fld c 15 0 0)) :
    bodyAttnCancel c s = completeOk 0x0511 c 0 (finish (· == .serve (fld c 15 0 0)) .refused (fld c 15 0 0) (setAttn jc (fun x => { x with
      queue := x.queue.filter fun r => r.num != fld c 15 0 0
      todo := x.todo.filter fun m => m != fld c 15 0 0 }) s)) := by
  unfold bodyAttnCancel
  extract_lets n
  rw [hfind]
  refine if_neg ?_
  cases hv : a.serving with
  | some v =>
    rw [hv] at hserve
    simpa using hserve
  | none =>
    rw [hv] at hserve
    rcases hserve with h | h
    · simp [h]
    · simp [n, h]

/-- ATTN_CANCEL of a request that is being served. -/
theorem attnCancel_serving {c : Cmd} {jc : Nat} {a : AttnJob} {s : State}
    (hfind : (s.kv.jobs.find? fun e => e.2.queue.any fun r => r.num == fld c 15 0 0) = some (jc, a))
    (hserve : match a.serving with | some v => v.req.num = fld c 15 0 0 | none => mayServe s jc = true ∧ a.todo.head? = some (fld c 15 0 0)) :
    bodyAttnCancel c s = completeOk 0x0511 c 0 (setAttn jc (fun x => { x with
      queue := x.queue.map fun r => if r.num = fld c 15 0 0 then { r with cancelled := true } else r }) s) := by
  unfold bodyAttnCancel
  extract_lets n
  rw [hfind]
  refine if_pos ?_
  cases hv : a.serving with
  | some v =>
    rw [hv] at hserve
    simpa using hserve
  | none =>
    rw [hv] at hserve
    simp [n, hserve.1, hserve.2]

theorem statusWord_length (tick : W64) (v : Serve) (e p : Bool) : (statusWord tick v e p).length = 16 := by
  simp [statusWord, leBytes]

/-- The status word of a serve in field memory. -/
theorem statusWord_reads {a : Nat} {tick : W64} {v : Serve} {e p : Bool} {s : State} (ha : a % 16 = 0) (hwf : memWf 0 s.fm.mem = true)
    (h0 : bankOn s (a / 2 ^ 23) (a % 2 ^ 23) = true) (h8 : bankOn s (a / 2 ^ 23) (a % 2 ^ 23 + 8) = true) :
    fmBytes (endWrite 0 a (statusWord tick v e p) [] s) (a / 2 ^ 23) (a % 2 ^ 23) 16 = statusWord tick v e p := by
  have hlen := statusWord_length tick v e p
  have hon : ∀ g ∈ groupsOf (a % 2 ^ 23) (statusWord tick v e p).length, bankOn s (a / 2 ^ 23) (8 * g) = true := fun g hg => by
    have hg := mem_groupsOf.mp hg
    by_cases hfirst : 8 * g = a % 2 ^ 23
    · rw [hfirst]
      exact h0
    · rw [show 8 * g = a % 2 ^ 23 + 8 by omega]
      exact h8
  have hread := fmStore_read (w := 64) (f := a / 2 ^ 23) (a := a % 2 ^ 23) (bs := statusWord tick v e p) (ps := []) (s := s) (by omega) hwf fun k hk =>
    bankOn_group (hon _ (mem_groupsOf.mpr ⟨by omega, by omega, by omega⟩))
  refine List.ext_getElem (by simp [fmBytes, hlen]) fun i h1 h2 => ?_
  have hi : i < 16 := by omega
  have hround : roundUp (statusWord tick v e p).length 8 = 16 := by rw [hlen]; rfl
  rw [hround] at hread
  simp only [fmBytes, List.getElem_map, List.getElem_range, fmByte]
  rw [show chipAddr (a / 2 ^ 23) (a % 2 ^ 23 + i) = chipAddr (a / 2 ^ 23) (a % 2 ^ 23) + i from (Nat.add_assoc _ _ _).symm]
  refine (hread _).trans ?_
  rw [if_pos (by omega), Nat.add_sub_cancel_left, nth, List.getElem?_eq_getElem h2]
  rfl

end Sys2Proof.Machine
end

section
/-! PROOFS. The end of a serve, and the attention requests (R225, R226). -/

namespace Sys2Proof.Machine
open Sys2Proof Sys2Proof.Safety

/-- SERVE_END behind its writes: the signal, and the end of the request. -/
def serveSettled (jc : Nat) (v : Serve) (gone b : Bool) (s2 : State) : State :=
  let s3 := addSignal (reqField v.req 699 690) (reqField v.req 689 686) (syncOf s2 (reqField v.req 699 690)).epoch s2
  let s5 := finish (· == .serve v.req.num) v.status v.req.num (setAttn jc (fun x => serveLeft v x gone) s3)
  if b then runEnds jc s5 else s5

/-- What it leaves. -/
structure Settles (jc : Nat) (v : Serve) (gone : Bool) (s t : State) : Prop where
  frame : ∃ ws due y b js ks, t = { s with
    mbx := { s.mbx with waits := ws, due := due }
    kv := { s.kv with jobs := ks }
    seq := { s.seq with sync := y, barriers := b, jobs := js } }
  job : ∃ c w, attnOf t jc = { serveLeft v (attnOf s jc) gone with compact := c, waitOver := w }
  others : ∀ j, j ≠ jc → attnOf t j = attnOf s j
  completes : ∀ w ∈ s.mbx.waits, w.act = .serve v.req.num → w ∉ t.mbx.waits ∧
    ∃ e ∈ t.mbx.due, e.slot = w.cmd.slot % 64 ∧ e.cookie = w.cmd.cookie ∧ e.status = v.status
  signals : (syncOf s (reqField v.req 699 690)).count ≤ 65535 →
    (syncOf t (reqField v.req 699 690)).count = min 65535 ((syncOf s (reqField v.req 699 690)).count + reqField v.req 689 686)

theorem serveSettled_settles (jc : Nat) (v : Serve) (gone b : Bool) (s : State) : Settles jc v gone s (serveSettled jc v gone b s) := by
  obtain ⟨⟨y, bs, hsig⟩, hcount⟩ := addSignal_now (reqField v.req 699 690) (reqField v.req 689 686) s
  unfold serveSettled
  extract_lets s3 s5
  change s3 = _ at hsig
  change _ → (syncOf s3 _).count = _ at hcount
  obtain ⟨ks, js, c, w, hleft, hself, hother⟩ := runEnds_left b jc s5
  rw [hleft]
  have hs5 : s5 = _ := finish_eq _ _ _ _
  have hattn : ∀ j, attnOf s5 j = if j = jc then serveLeft v (attnOf s jc) gone else attnOf s j := fun j => by
    rw [hs5]
    split
    · rename_i h
      subst h
      refine (tabGet_tabSet_self _ _ _ _).trans ?_
      rw [hsig]
      rfl
    · rename_i h
      refine (tabGet_tabSet_ne _ _ _ h).trans ?_
      rw [hsig]
      rfl
  have hsync : ∀ o, syncOf s5 o = syncOf s3 o := fun o => by rw [hs5]; rfl
  refine ⟨?_, ⟨c, w, ?_⟩, fun j hj => ?_, fun x hx ha => ⟨fun hin => ?_, ?_⟩, fun h => ?_⟩
  · rw [hs5, hsig]
    exact ⟨_, _, _, _, _, _, rfl⟩
  · refine hself.trans ?_
    rw [hattn, if_pos rfl]
  · refine (hother j hj).trans ?_
    rw [hattn, if_neg hj]
  · rw [hs5] at hin
    have hno := (List.mem_filter.mp hin).2
    simp [ha] at hno
  · rw [hs5]
    refine ⟨_, List.mem_append_right _ (List.mem_map.mpr ⟨x, List.mem_filter.mpr ⟨?_, by simp [ha]⟩, rfl⟩), rfl, rfl, rfl⟩
    rw [hsig]
    exact hx
  · rw [← hcount h, ← hsync]
    rfl

/-- SERVE_END of a serve. -/
theorem serveEnd_settles {jc : Nat} {v : Serve} {s : State} (hv : (attnOf s jc).serving = some v) (hup : serveNeeds v.req = true → dramUp s = true) :
    ∃ empty poisoned gone s2, (v.req.oneShot = true → gone = true) ∧
      s2 = endWrite (rStKind v.req) (rSt v.req) (statusWord s.tick.no v empty poisoned) [] (serveWritten v s) ∧ ServeKeeps s s2 ∧
      Settles jc v gone s2 (serveEnd jc s) := by
  obtain ⟨empty, poisoned, gone, hgone, heq⟩ := serveEnd_eq hv hup
  have hkeep := (serveWritten_keeps v s).trans (endWrite_serveKeeps (rStKind v.req) (rSt v.req) (statusWord s.tick.no v empty poisoned) [] _)
  refine ⟨empty, poisoned, gone, _, hgone, rfl, hkeep, ?_⟩
  have hset := serveSettled_settles jc v gone (attnOf s jc).todo.isEmpty
    (endWrite (rStKind v.req) (rSt v.req) (statusWord s.tick.no v empty poisoned) [] (serveWritten v s))
  rw [show serveEnd jc s = _ from heq]
  exact hset

/-- A status word in field memory leaves DRAM. -/
theorem endWrite_field_dram (a : Nat) (bs : List Byte) (s : State) : (endWrite 0 a bs [] s).dram = s.dram := by
  obtain ⟨_, _, _, _, _, _, _, h⟩ := (fmStore_stores (rs := [(chipAddr (a / 2 ^ 23) (a % 2 ^ 23), bs.length)]) (w := 64) bs [] s
    ⟨_, List.mem_singleton.mpr rfl, Nat.le_refl _, Nat.le_refl _⟩).frame
  have he : endWrite 0 a bs [] s = fmStore 64 (a / 2 ^ 23) (a % 2 ^ 23) bs [] s := rfl
  rw [he, h]

theorem attnOf_setAttn_self (jc : Nat) (f : AttnJob → AttnJob) (s : State) : attnOf (setAttn jc f s) jc = f (attnOf s jc) :=
  tabGet_tabSet_self _ _ _ _

theorem attnOf_setAttn_ne {j jc : Nat} (f : AttnJob → AttnJob) (s : State) (h : j ≠ jc) : attnOf (setAttn jc f s) j = attnOf s j :=
  tabGet_tabSet_ne _ _ _ h

/-- Settles O41: the commands by their bodies, SERVE by `serveStart_serves`, SERVE_END by `serveEnd_settles`. -/
theorem attentionRequests : Obligations.AttentionRequests := by
  refine ⟨fun c r s h hpool hr hparam hfmt hjob hroom => ?_, fun c jc a s h hfind ha hserve hno => ?_, fun c jc a w s h hfind ha hserve hw hact => ?_,
    fun c jc a s h hfind ha hserve => ?_, fun c s h => ?_, fun jc n rest r s hserve htodo hmay hfind hwait hreach hup => ?_,
    fun jc v s hv hup => ?_, fun jc s hnone => ?_⟩
  · have hbody := attnRun_queues (c := c) (r := r) (s := slotTaken c s) (by cases s; exact hpool) (by cases s; exact hr) (by cases s; exact hparam)
      (by cases s; exact hfmt) (by cases s; exact hjob) (by cases s; exact hroom)
    have hexec := exec_row_runs (i := .attnRun c) rfl rfl h
    refine ⟨_, hexec.trans (congrArg Host.Outcome.next hbody), ?_, fun j hj => ?_, fun ho => ?_, fun ho => ?_⟩
    · split
      · exact tabGet_tabSet_self _ _ _ _
      · exact tabGet_tabSet_self _ _ _ _
    · split
      · exact tabGet_tabSet_ne _ _ _ hj
      · exact tabGet_tabSet_ne _ _ _ hj
    · rw [if_pos ho]
      rfl
    · rw [if_neg (by simp [ho])]
      rfl
  · have hbody := attnCancel_queued (c := c) (jc := jc) (a := a) (s := slotTaken c s) (by cases s; exact hfind) (by cases s; exact hserve)
    rw [finish_none _ _ fun w hw => by simpa using hno w hw] at hbody
    have hexec := exec_row_runs (i := .attnCancel c) rfl rfl h
    refine ⟨_, hexec.trans (congrArg Host.Outcome.next hbody), ?_, fun j hj => tabGet_tabSet_ne _ _ _ hj, rfl⟩
    rw [← ha]
    exact tabGet_tabSet_self _ _ _ _
  · have hbody := attnCancel_queued (c := c) (jc := jc) (a := a) (s := slotTaken c s) (by cases s; exact hfind) (by cases s; exact hserve)
    rw [finish_one (w := w) _ _ (by cases s; exact hw) (by simp [hact])] at hbody
    have hexec := exec_row_runs (i := .attnCancel c) rfl rfl h
    refine ⟨_, hexec.trans (congrArg Host.Outcome.next hbody), fun r hr => ?_, rfl, ?_, rfl⟩
    · have hq : r ∈ ((attnOf (slotTaken c s) jc).queue.filter fun r => r.num != fld c 15 0 0) :=
        (congrArg (fun a : AttnJob => r ∈ a.queue) (tabGet_tabSet_self _ _ _ _)).mp hr
      simpa using (List.mem_filter.mp hq).2
    · exact List.append_assoc _ _ _
  · have hbody := attnCancel_serving (c := c) (jc := jc) (a := a) (s := slotTaken c s) (by cases s; exact hfind) (by cases s; exact hserve)
    have hexec := exec_row_runs (i := .attnCancel c) rfl rfl h
    refine ⟨_, hexec.trans (congrArg Host.Outcome.next hbody), ?_, fun j hj => tabGet_tabSet_ne _ _ _ hj, rfl⟩
    rw [← ha]
    exact tabGet_tabSet_self _ _ _ _
  · refine ⟨_, (exec_row_runs (i := .attnInfo c) rfl rfl h).trans (congrArg Host.Outcome.next (respond_taken 0x0512 c _ 0 s)), ?_⟩
    have hjobs : ∀ b, descJobs (slotTaken c s) b = descJobs s b := fun b => by cases s; rfl
    rw [hjobs, hjobs, ← List.length_append]
    simp [List.length_flatMap, leBytes, Nat.mul_comm, Nat.mul_add]
  · generalize hp : (if rMerge r then (Status.ok, s) else appendLayer true (rSeq r) (rLayer r) (rAppend r) s) = p
    obtain ⟨v, hstart, hnum, hbits, hover, hstatus, hlength, hpos, hex⟩ := serveStart_serves hserve htodo hmay hfind hwait hreach hup hp
    have hjobs : p.2.kv.jobs = s.kv.jobs := by
      rw [← hp]
      split
      · rfl
      · exact appendLayer_jobs _ _ _ _ _
    obtain ⟨st, hst⟩ := serveStream_frame r p.2
    generalize serveStream r p.2 = q at *
    have hattn : ∀ j, attnOf q.2 j = attnOf s j := fun j => by
      rw [hst]
      exact congrArg (fun t => tabGet {} t j) hjobs
    refine ⟨_, v, congrArg Host.Outcome.next hstart, ?_, ⟨hstatus, hlength, hpos, hex, ?_⟩, hnum, hbits, hover, fun j hj => ?_⟩
    · rw [attnOf_setAttn_self, hattn]
    · rw [hst]
      rfl
    · rw [attnOf_setAttn_ne _ _ hj, hattn]
  · obtain ⟨empty, poisoned, gone, s2, hgone, hs2, hkeep, hsettles⟩ := serveEnd_settles hv hup
    obtain ⟨hframe, ⟨c, w, hjob⟩, hother, hcomplete, hsignal⟩ := hsettles
    obtain ⟨⟨_, _, _, _, _, _, _, _, _, _, _, hk⟩, hwf⟩ := hkeep
    have hattn : ∀ j, attnOf s2 j = attnOf s j := fun j => by rw [hk]; rfl
    have hsync : ∀ o, syncOf s2 o = syncOf s o := fun o => by rw [hk]; rfl
    have hwaits : s2.mbx.waits = s.mbx.waits := by rw [hk]
    obtain ⟨_, _, _, _, _, _, ht⟩ := hframe
    refine ⟨_, rfl, ?_, ?_, fun ho r hr => ?_, fun x hx ha => ?_, fun hkind h16 hmem h0 h8 => ?_, fun hst hkind => ?_, fun hc => ?_, fun j hj => ?_, ?_⟩
    · rw [hjob]
      rfl
    · rw [hjob, hattn]
      rfl
    · rw [hjob, hgone ho] at hr
      simpa using (List.mem_filter.mp hr).2
    · exact hcomplete x (hwaits ▸ hx) ha
    · refine ⟨empty, poisoned, ?_⟩
      rw [ht]
      change fmBytes s2 _ _ _ = _
      rw [hs2, hkind]
      obtain ⟨⟨_, _, _, _, _, _, _, _, _, _, _, hw⟩, hwwf⟩ := serveWritten_keeps v s
      refine statusWord_reads h16 (hwwf hmem) ?_ ?_
      · rw [hw]
        exact h0
      · rw [hw]
        exact h8
    · rw [ht]
      change s2.dram = _
      rw [hs2, hkind, endWrite_field_dram, serveWritten_refused s hst]
    · rw [hsync] at hsignal
      exact hsignal hc
    · rw [hother j hj, hattn]
    · rw [ht, hk]
  · refine congrArg Host.Outcome.next ?_
    rw [serveEnd, hnone]

end Sys2Proof.Machine
end

section
/-! PROOFS. Channels, resets asked for, and the channels and sources of a set that takes effect (R75, R81, R113 to R116, R122). -/

namespace Sys2Proof.Machine
open Sys2Proof Sys2Proof.Safety

/-! ## Channels, and what a reset asked for leaves (R113 to R116) -/

theorem chanOf_setChan_self (ch : Nat) (f : Chan → Chan) (s : State) : chanOf (setChan ch f s) ch = f (chanOf s ch) := tabGet_tabSet_self _ _ _ _

theorem chanOf_setChan_ne {k ch : Nat} (f : Chan → Chan) (s : State) (h : k ≠ ch) : chanOf (setChan ch f s) k = chanOf s k := tabGet_tabSet_ne _ _ _ h

/-- Channels change only in the resets that are due, and no reset is forgotten. -/
structure AsksResets (s t : State) : Prop where
  frame : ∃ cs, t = { s with fe := { s.fe with chans := cs } }
  due : ∀ k, ∃ d, chanOf t k = { chanOf s k with due := d } ∧ ∀ c ∈ (chanOf s k).due, c ∈ d

namespace AsksResets

variable {s t u : State}

theorem refl (s : State) : AsksResets s s := ⟨⟨_, rfl⟩, fun _ => ⟨_, rfl, fun _ h => h⟩⟩

theorem trans (h : AsksResets s t) (k : AsksResets t u) : AsksResets s u := by
  obtain ⟨⟨_, rfl⟩, hd⟩ := h
  obtain ⟨⟨_, rfl⟩, kd⟩ := k
  refine ⟨⟨_, rfl⟩, fun n => ?_⟩
  obtain ⟨d, h1, h2⟩ := hd n
  obtain ⟨e, k1, k2⟩ := kd n
  exact ⟨e, by rw [k1, h1], fun c hc => k2 c (by rw [h1]; exact h2 c hc)⟩

theorem keeps (h : AsksResets s t) {k : Nat} {c : ResetCause} (hc : c ∈ (chanOf s k).due) : c ∈ (chanOf t k).due := by
  obtain ⟨d, h1, h2⟩ := h.due k
  rw [h1]
  exact h2 c hc

theorem range (h : AsksResets s t) (k : Nat) : (chanOf t k).range = (chanOf s k).range := by
  obtain ⟨d, h1, _⟩ := h.due k
  rw [h1]

end AsksResets

theorem askReset_asks (cause : ResetCause) (ch : Nat) (s : State) : AsksResets s (askReset cause ch s) := by
  refine ⟨⟨_, rfl⟩, fun k => ?_⟩
  by_cases h : k = ch
  · subst h
    refine ⟨_, chanOf_setChan_self _ _ _, fun c hc => ?_⟩
    split
    · exact hc
    · exact List.mem_append_left _ hc
  · exact ⟨_, chanOf_setChan_ne _ _ h, fun _ hc => hc⟩

theorem askReset_due (cause : ResetCause) (ch : Nat) (s : State) : cause ∈ (chanOf (askReset cause ch s) ch).due := by
  rw [askReset, chanOf_setChan_self]
  dsimp only
  split
  · exact List.contains_iff_mem.mp ‹_›
  · exact List.mem_append_right _ (List.mem_singleton.mpr rfl)

theorem askResets_asks (cause : ResetCause) (chs : List Nat) (s : State) : AsksResets s (chs.foldl (fun t ch => askReset cause ch t) s) := by
  induction chs generalizing s with
  | nil => exact .refl s
  | cons ch chs ih => exact (askReset_asks cause ch s).trans (ih _)

/-- A fold reaches what one of its steps establishes and every step keeps. -/
theorem foldl_establishes {α β : Type} {P : β → Prop} {g : β → α → β} {x : α} {xs : List α} (b : β) (hx : x ∈ xs) (hest : ∀ u, P (g u x))
    (hkeep : ∀ u y, P u → P (g u y)) : P (xs.foldl g b) := by
  have hall : ∀ (ys : List α) (u : β), P u → P (ys.foldl g u) := fun ys => by
    induction ys with
    | nil => exact fun _ h => h
    | cons y ys ih => exact fun u h => ih _ (hkeep u y h)
  obtain ⟨l, r, rfl⟩ := List.append_of_mem hx
  rw [List.foldl_append, List.foldl_cons]
  exact hall r _ (hest _)

theorem askResets_due {cause : ResetCause} {ch : Nat} {chs : List Nat} (s : State) (h : ch ∈ chs) :
    cause ∈ (chanOf (chs.foldl (fun t ch => askReset cause ch t) s) ch).due :=
  foldl_establishes (P := fun t => cause ∈ (chanOf t ch).due) s h (fun u => askReset_due cause ch u) fun u y hu => (askReset_asks cause y u).keeps hu

/-! ## A set that takes effect (R122, R75, R81) -/

theorem applyChan_frame (old new : FeCfg) (ch : Nat) (s : State) : ∃ cs, applyChan old new ch s = { s with fe := { s.fe with chans := cs } } := by
  unfold applyChan
  extract_lets r0 r1 x enabled x1 restart s1 s2
  obtain ⟨c2, h2⟩ : ∃ cs, s2 = { s with fe := { s.fe with chans := cs } } := by
    simp only [s2]
    split
    · exact ⟨_, rfl⟩
    · exact ⟨_, rfl⟩
  split
  · obtain ⟨c3, h3⟩ := (askReset_asks .apply ch s2).frame
    exact ⟨c3, by rw [h3, h2]⟩
  · exact ⟨c2, h2⟩

theorem applyChan_others (old new : FeCfg) {k ch : Nat} (s : State) (h : k ≠ ch) : chanOf (applyChan old new ch s) k = chanOf s k := by
  unfold applyChan
  extract_lets r0 r1 x enabled x1 restart s1 s2
  have h2 : chanOf s2 k = chanOf s k := by
    simp only [s2]
    split
    · exact (chanOf_setChan_ne _ _ h).trans (chanOf_setChan_ne _ _ h)
    · exact chanOf_setChan_ne _ _ h
  split
  · exact (chanOf_setChan_ne _ _ h).trans h2
  · exact h2

/-- A channel that the set enables is reset, in the range that the set gives. -/
theorem applyChan_enabled {old new : FeCfg} {ch : Nat} (s : State) (hnew : (routeOf new ch).enable = true) (hold : (routeOf old ch).enable = false) :
    ResetCause.apply ∈ (chanOf (applyChan old new ch s) ch).due ∧ (chanOf (applyChan old new ch s) ch).range = (rangeOf new ch).range := by
  unfold applyChan
  extract_lets r0 r1 x enabled x1 restart s1 s2
  have hen : enabled = true := by simp [enabled, r0, r1, hnew, hold]
  have h1 : (chanOf s1 ch).range = (rangeOf new ch).range := by
    refine (congrArg Chan.range (chanOf_setChan_self _ _ _)).trans ?_
    simp [x1, hen]
  have h2 : (chanOf s2 ch).range = (rangeOf new ch).range := by
    simp only [s2]
    split
    · exact ((askReset_asks _ _ _).range _).trans h1
    · exact h1
  rw [if_pos (by simp [hen])]
  exact ⟨askReset_due _ _ _, ((askReset_asks _ _ _).range _).trans h2⟩

/-- What `applySrc` changes of the front end. -/
structure SourceSet (s t : State) : Prop where
  frame : ∃ cs n d r f, t = { s with fe := { s.fe with chans := cs, chopCnt := n, chopDue := d, reversed := r, srcFault := f } }
  keeps : ∀ {k : Nat} {c : ResetCause}, c ∈ (chanOf s k).due → c ∈ (chanOf t k).due
  range : ∀ k, (chanOf t k).range = (chanOf s k).range

theorem applySrc_sets (old new : FeCfg) (n : Nat) (s : State) : SourceSet s (applySrc old new n s) := by
  unfold applySrc
  split
  · exact ⟨⟨_, _, _, _, _, rfl⟩, id, fun _ => rfl⟩
  · extract_lets s1
    have h1 : SourceSet s s1 := by
      simp only [s1]
      split
      · exact ⟨⟨_, _, _, _, _, rfl⟩, id, fun _ => rfl⟩
      · exact ⟨⟨_, _, _, _, _, rfl⟩, id, fun _ => rfl⟩
    have h2 := askResets_asks .source (refChans new n) s1
    refine ⟨?_, fun hc => h2.keeps (h1.keeps hc), fun k => (h2.range k).trans (h1.range k)⟩
    obtain ⟨_, _, _, _, _, e1⟩ := h1.frame
    obtain ⟨_, e2⟩ := h2.frame
    rw [e2, e1]
    exact ⟨_, _, _, _, _, rfl⟩

/-- The front end behind the channels and sources of a set that takes effect. -/
theorem applyAll_sets (old new : FeCfg) (s : State) :
    let t := (List.range 16).foldl (fun u n => applySrc old new n u) ((List.range 24).foldl (fun u ch => applyChan old new ch u) s)
    (∃ cs n d r f, t = { s with fe := { s.fe with chans := cs, chopCnt := n, chopDue := d, reversed := r, srcFault := f } }) ∧
      ∀ ch, ch < 24 → (routeOf new ch).enable = true → (routeOf old ch).enable = false →
        ResetCause.apply ∈ (chanOf t ch).due ∧ (chanOf t ch).range = (rangeOf new ch).range := by
  have hchans : ∀ (chs : List Nat) (u : State), ∃ cs, chs.foldl (fun u ch => applyChan old new ch u) u = { u with fe := { u.fe with chans := cs } } := fun chs => by
    induction chs with
    | nil => exact fun u => ⟨_, rfl⟩
    | cons ch chs ih =>
      intro u
      obtain ⟨c1, e1⟩ := applyChan_frame old new ch u
      obtain ⟨c2, e2⟩ := ih (applyChan old new ch u)
      exact ⟨c2, by rw [List.foldl_cons, e2, e1]⟩
  have hsrcs : ∀ (ns : List Nat) (u : State), SourceSet u (ns.foldl (fun u n => applySrc old new n u) u) := fun ns => by
    induction ns with
    | nil => exact fun u => ⟨⟨_, _, _, _, _, rfl⟩, id, fun _ => rfl⟩
    | cons n ns ih =>
      intro u
      have h1 := applySrc_sets old new n u
      have h2 := ih (applySrc old new n u)
      refine ⟨?_, fun hc => h2.keeps (h1.keeps hc), fun k => (h2.range k).trans (h1.range k)⟩
      obtain ⟨_, _, _, _, _, e1⟩ := h1.frame
      obtain ⟨_, _, _, _, _, e2⟩ := h2.frame
      rw [List.foldl_cons, e2, e1]
      exact ⟨_, _, _, _, _, rfl⟩
  dsimp only
  have h2 := hsrcs (List.range 16) ((List.range 24).foldl (fun u ch => applyChan old new ch u) s)
  constructor
  · obtain ⟨_, e1⟩ := hchans (List.range 24) s
    obtain ⟨_, _, _, _, _, e2⟩ := h2.frame
    rw [e2, e1]
    exact ⟨_, _, _, _, _, rfl⟩
  · intro ch hch hnew hold
    have h1 := foldl_establishes (P := fun t => ResetCause.apply ∈ (chanOf t ch).due ∧ (chanOf t ch).range = (rangeOf new ch).range)
      (g := fun u ch => applyChan old new ch u) s
      (List.mem_range.mpr hch) (fun u => applyChan_enabled u hnew hold) fun u y hu => by
        by_cases hy : ch = y
        · subst hy
          exact applyChan_enabled u hnew hold
        · rw [applyChan_others old new u hy]
          exact hu
    exact ⟨h2.keeps h1.1, (h2.range ch).trans h1.2⟩

end Sys2Proof.Machine
end

section
/-! PROOFS. APPLY_TAKES_EFFECT and SYNCHRONISING_RESET (R113 to R116, R122). -/

namespace Sys2Proof.Machine
open Sys2Proof Sys2Proof.Safety

/-- A command that `finish` ends no longer waits, and its completion is due. -/
theorem finish_ends {p : PendAct → Bool} (st : Status) (d : Nat) {s : State} {w : Wait} (hw : w ∈ s.mbx.waits) (hp : p w.act = true) :
    w ∉ (finish p st d s).mbx.waits ∧ completionOf w.opcode w.cmd st d ∈ (finish p st d s).mbx.due := by
  rw [finish_eq]
  refine ⟨fun h => ?_, List.mem_append_right _ (List.mem_map.mpr ⟨w, List.mem_filter.mpr ⟨hw, hp⟩, rfl⟩)⟩
  have hno := (List.mem_filter.mp h).2
  simp [hp] at hno

theorem finish_slots (p : PendAct → Bool) (st : Status) (d : Nat) (s : State) :
    ∃ ws due, finish p st d s = { s with mbx := { s.mbx with waits := ws, due := due } } := ⟨_, _, finish_eq p st d s⟩

/-- The body of the configuration record reads the front end only (R66). -/
theorem configBody_fe {s t : State} (h : t.fe = s.fe) : configBody t = configBody s := by
  unfold configBody chanOf
  rw [h]

theorem storeConfig_asks (s : State) : (25, configBody (storeConfig s)) ∈ (storeConfig s).nv.recQ ∧ storeConfig s = { s with nv := asked s (storeConfig s) } := by
  obtain ⟨hmem, hq⟩ := recQueue_puts 25 (configBody s) s
  have hfe : (storeConfig s).fe = s.fe := by
    have := congrArg State.fe hq
    exact this
  rw [configBody_fe hfe]
  exact ⟨hmem, hq⟩

/-- APPLY_TAKES_EFFECT of a sealed set that is due. -/
theorem applyTakesEffect_applies {f : FeCfg} {s : State} (hf : s.fe.sealed_ = some f) (hdue : s.fe.sealedDue = true) :
    ∃ u, u.fe.cfg = laid s.fe.cfg f ∧ u.fe.sealed_ = none ∧ u.mbx.waits = s.mbx.waits ∧
      (∀ ch, ch < 24 → (routeOf (laid s.fe.cfg f) ch).enable = true → (routeOf s.fe.cfg ch).enable = false →
        ResetCause.apply ∈ (chanOf u ch).due ∧ (chanOf u ch).range = (rangeOf (laid s.fe.cfg f) ch).range) ∧
      u = { s with fe := u.fe, mbx := u.mbx } ∧
      applyTakesEffect s = finish (fun a => a == .applySet) .ok s.tick.no.toNat (storeConfig u) := by
  rw [applyTakesEffect, hf]
  dsimp -zeta only
  rw [hdue, if_neg (by decide)]
  extract_lets old new s1 s2 s3 s4
  obtain ⟨⟨_, _, _, _, _, hframe⟩, hchans⟩ := applyAll_sets s.fe.cfg (laid s.fe.cfg f) s1
  change s3 = _ at hframe
  change ∀ ch, _ → _ → _ → _ ∈ (chanOf s3 ch).due ∧ (chanOf s3 ch).range = _ at hchans
  obtain ⟨m, hm, hw⟩ : ∃ m, s4 = { s3 with mbx := m } ∧ m.waits = s3.mbx.waits := by
    simp only [s4]
    split
    · obtain ⟨m, hm⟩ := raiseInt_eq 8 s3
      refine ⟨m, hm, ?_⟩
      have hmbx := raiseInt_mbx 8 s3
      rw [hm] at hmbx
      have hwaits := congrArg Mbx.waits hmbx
      exact hwaits
    · exact ⟨_, rfl, rfl⟩
  refine ⟨s4, ?_, ?_, ?_, fun ch h1 h2 h3 => ?_, ?_, rfl⟩
  · rw [hm, hframe]
    rfl
  · rw [hm, hframe]
    rfl
  · rw [hm]
    refine hw.trans ?_
    rw [hframe]
    rfl
  · rw [hm]
    exact hchans ch h1 h2 h3
  · rw [hm, hframe]
    rfl

theorem swapStarted_slots (ch : Nat) (s : State) : ∃ ws due, swapStarted ch s = { s with mbx := { s.mbx with waits := ws, due := due } } := by
  obtain ⟨ws, due, h⟩ := finish_slots (fun a => a == .firSwap 0) .ok 0 (setMbx (fun m => { m with waits := m.waits.map fun w => match w.act with
    | .firSwap x => { w with act := .firSwap (x &&& ~~~(1#24 <<< ch)) }
    | _ => w }) s)
  exact ⟨ws, due, h⟩

/-- A channel that is reset: counter, histories and swap are gone; the detectors keep their values (R113 to R116). -/
structure IsReset (cfg : FeCfg) (ch : Nat) (x y : Chan) : Prop where
  cnt : y.cnt = 0
  k : y.k = 0
  xs : y.xs = []
  held : y.held = true
  fSet : y.fSet = true
  fade : y.fade = none
  swap : y.swap = none
  settleTo : y.settleTo = (chainOf cfg ch).maLen + y.bankNew.taps
  bankNew : y.bankNew = if x.swap.isSome then x.bankLoad else x.bankNew
  peak : y.peak = x.peak
  rms : y.rms = x.rms
  env : y.env = x.env

theorem chanReset_isReset (cfg : FeCfg) (ch : Nat) (x : Chan) (d : List ResetCause) (b : Bool) :
    IsReset cfg ch x { chanReset (chainOf cfg ch).maLen x with due := d, servoDue := b } := by
  unfold chanReset
  constructor <;> cases h : x.swap <;> rfl

/-- SYNCHRONISING_RESET of a reset that is due. -/
theorem syncReset_resets {ch : Nat} {cause : ResetCause} {s : State} (h : cause ∈ (chanOf s ch).due) :
    ∃ t, syncReset ch cause s = t ∧ IsReset s.fe.cfg ch (chanOf s ch) (chanOf t ch) ∧ (∀ k, k ≠ ch → chanOf t k = chanOf s k) ∧
      ((chanOf s ch).fade = none → t.nv = s.nv) ∧ ((chanOf s ch).fade.isSome = true → (25, configBody t) ∈ t.nv.recQ) ∧
      t = { s with fe := { s.fe with chans := t.fe.chans }, mbx := slotsOnly s t, nv := asked s t } := by
  unfold syncReset
  extract_lets x had l preset s1 s2 s3
  rw [if_neg (by simpa using h)]
  have hreset : IsReset s.fe.cfg ch (chanOf s ch) (chanOf s1 ch) := by
    rw [chanOf_setChan_self]
    exact chanReset_isReset _ _ _ _ _
  have hothers : ∀ k, k ≠ ch → chanOf s1 k = chanOf s k := fun k hk => chanOf_setChan_ne _ _ hk
  obtain ⟨w2, d2, h2⟩ : ∃ ws due, s2 = { s1 with mbx := { s1.mbx with waits := ws, due := due } } := by
    simp only [s2]
    split
    · exact finish_slots _ _ _ _
    · exact ⟨_, _, rfl⟩
  obtain ⟨w3, d3, h3⟩ : ∃ ws due, s3 = { s1 with mbx := { s1.mbx with waits := ws, due := due } } := by
    simp only [s3]
    split
    · obtain ⟨w, d, e⟩ := swapStarted_slots ch s2
      exact ⟨w, d, by rw [e, h2]⟩
    · exact ⟨_, _, h2⟩
  have hchan : ∀ k, chanOf s3 k = chanOf s1 k := fun k => by rw [h3]; rfl
  have hs1 : s1 = { s with fe := { s.fe with chans := s1.fe.chans } } := rfl
  refine ⟨_, rfl, ?_⟩
  cases hf : x.fade with
  | none =>
    refine ⟨?_, fun k hk => ?_, fun _ => ?_, fun hn => ?_, ?_⟩
    · exact (hchan ch).symm ▸ hreset
    · exact (hchan k).trans (hothers k hk)
    · change s3.nv = s.nv
      rw [h3]
      rfl
    · cases hn
    · change s3 = _
      rw [h3, hs1]
      rfl
  | some y =>
    obtain ⟨hmem, hask⟩ := storeConfig_asks s3
    have hchan4 : ∀ k, chanOf (storeConfig s3) k = chanOf s1 k := fun k => by rw [hask]; exact hchan k
    refine ⟨?_, fun k hk => ?_, fun hn => ?_, fun _ => hmem, ?_⟩
    · exact (hchan4 ch).symm ▸ hreset
    · exact (hchan4 k).trans (hothers k hk)
    · cases hn
    · change storeConfig s3 = _
      generalize storeConfig s3 = u at *
      rw [hask, h3, hs1]
      rfl

end Sys2Proof.Machine
end

section
/-! PROOFS. The front end's own events (R69, R78, R82, R90). -/

namespace Sys2Proof.Machine
open Sys2Proof Sys2Proof.Safety

/-- The range that AUTO_RANGE_UP takes lies between `wide` and the range before it, and it is `wide` or one that the magnitude does not exceed (R78). -/
theorem upRange_spec {volt r wide mag : Nat} (h : wide < r) :
    wide ≤ upRange volt r wide mag ∧ upRange volt r wide mag < r ∧ (overUp volt (upRange volt r wide mag) mag = false ∨ upRange volt r wide mag = wide) := by
  unfold upRange
  cases hf : ((List.range r).reverse.filter fun c => decide (wide ≤ c)).find? fun c => !overUp volt c mag with
  | none => exact ⟨Nat.le_refl _, h, Or.inr rfl⟩
  | some c =>
    obtain ⟨hc, hwide⟩ := List.mem_filter.mp (List.mem_of_find?_eq_some hf)
    exact ⟨of_decide_eq_true hwide, List.mem_range.mp (List.mem_reverse.mp hc), Or.inl (by simpa using List.find?_some hf)⟩

theorem rangeTo_moves {new : Nat} {x : Chan} (h : x.range ≠ new) :
    rangeTo new x = { x with range := new, transient := true, flagLeft := flaggedSamples x.range new, dwell := 0 } := if_neg h

/-- AUTO_RANGE_UP above the threshold, with no set sealed. -/
theorem autoRangeUp_moves {ch mag n : Nat} {s : State} (hon : chanOn s ch = true) (hauto : (rangeOf s.fe.cfg ch).auto = true)
    (hcm : (chanOf s ch).cmFault = false) (hover : overUp 1000000 (chanOf s ch).range mag = true)
    (hwide : (rangeOf s.fe.cfg ch).wide < (chanOf s ch).range) (hseal : s.fe.sealed_ = none) :
    autoRangeUp ch mag n s = setChan ch (rangeTo (upRange 1000000 (chanOf s ch).range (rangeOf s.fe.cfg ch).wide mag)) s := by
  unfold autoRangeUp rangeUp
  exact if_pos (by simp [hon, hauto, hcm, hover, hwide, hseal])

theorem chopReversal_reverses {n : Nat} {s : State} (hn : n < 4) (hdue : s.fe.chopDue.getLsbD n = true) :
    ∃ t, chopReversal n s = t ∧ t.fe.chopDue.getLsbD n = false ∧
      tabFind t.fe.reversed n = some (!tabGet (srcOf s.fe.cfg (8 + n)).polarity s.fe.reversed n) ∧
      (∀ ch, ch < 24 → routeSrc (routeOf s.fe.cfg ch) = some (8 + n) → ResetCause.source ∈ (chanOf t ch).due) ∧
      t = { s with fe := { s.fe with chopDue := t.fe.chopDue, reversed := t.fe.reversed, chans := t.fe.chans } } := by
  unfold chopReversal
  rw [if_neg (by simp [hn, hdue])]
  extract_lets s1
  obtain ⟨_, hframe⟩ := (askResets_asks .source (refChans s1.fe.cfg (8 + n)) s1).frame
  refine ⟨_, rfl, ?_, ?_, fun ch hch hr => ?_, ?_⟩
  · rw [hframe]
    simp [s1, setFe, hn]
  · rw [hframe]
    exact tabFind_tabSet_self _ _ _
  · exact askResets_due s1 (List.mem_filter.mpr ⟨List.mem_range.mpr hch, beq_iff_eq.mpr hr⟩)
  · rw [hframe]
    rfl

/-- CALIBRATION_EFFECT of one set. -/
theorem calibrationEffect_set {ch r : Nat} {g o : W32} {s : State} (h : s.fe.calDue = [.set ch r g o]) :
    ∃ t, calibrationEffect s = t ∧ calSet t ch r = (g, o) ∧ t.fe.calDue = [] ∧
      ((chanOf s ch).range = r → ResetCause.calibration ∈ (chanOf t ch).due) ∧ t = { s with fe := t.fe } := by
  unfold calibrationEffect
  rw [h, List.foldl_cons, List.foldl_nil]
  generalize hs1 : setFe (fun f => { calInForce (.set ch r g o) f with calDue := f.calDue.erase (.set ch r g o) }) s = s1
  have hcal : tabGet (0x40000000, 0) s1.fe.cal (8 * ch + r) = (g, o) := by
    rw [← hs1]
    exact tabGet_tabSet_self _ _ _ _
  have hnone : s1.fe.calDue = [] := by
    rw [← hs1]
    simp [setFe, h]
  have hs : s1 = { s with fe := s1.fe } := by
    rw [← hs1]
    rfl
  obtain ⟨_, hframe⟩ := (askResets_asks .calibration (calResets s (.set ch r g o)) s1).frame
  refine ⟨_, rfl, ?_, ?_, fun hr => ?_, ?_⟩
  · rw [hframe]
    exact hcal
  · rw [hframe]
    exact hnone
  · refine askResets_due s1 ?_
    rw [calResets, if_pos (beq_iff_eq.mpr hr)]
    exact List.mem_singleton.mpr rfl
  · rw [hframe, hs]

/-- SOURCE_CURRENT_LIMIT that changes its bit. -/
theorem sourceLimit_changes {n : Nat} {r : Bool} {s : State} (hn : n < 4) (hen : (srcOf s.fe.cfg (8 + n)).enable = true) (hv : s.fe.vexcOk = true)
    (hbit : s.fe.srcFault.getLsbD n = !r) :
    ∃ b : BitVec 4, sourceLimit n r s = raiseInt 8 { s with fe := { s.fe with srcFault := b } } ∧ b.getLsbD n = r ∧
      ∀ k, k < 4 → k ≠ n → b.getLsbD k = s.fe.srcFault.getLsbD k := by
  refine ⟨if r then s.fe.srcFault ||| (1#4 <<< n) else s.fe.srcFault &&& ~~~(1#4 <<< n), ?_, ?_, fun k hk hne => ?_⟩
  · refine if_pos ?_
    rw [hen, hv, hbit, decide_eq_true hn]
    cases r <;> rfl
  · cases r
    · simp [hn]
    · simp [hn]
  · have hshift : (1#4 <<< n).getLsbD k = false := by
      rw [BitVec.getLsbD_shiftLeft]
      by_cases hlt : k < n
      · simp [hlt]
      · simp [show k - n ≠ 0 by omega]
    cases r
    · refine (BitVec.getLsbD_and ..).trans ?_
      rw [BitVec.getLsbD_not, hshift, decide_eq_true hk]
      exact Bool.and_true _
    · refine (BitVec.getLsbD_or ..).trans ?_
      rw [hshift, Bool.or_false]

/-- Settles O20: each event by the lemma of its function. -/
theorem frontEndEvents : Obligations.FrontEndEvents := by
  refine ⟨fun f s hf hdue => ?_, fun ch cause s h => ?_, fun ch r g o s h => ?_, fun n s hn hdue => ?_, fun n r s hn hen hv hbit hup => ?_, fun ok s => ?_,
    fun ch s hon hoff hcm hper => ?_, fun ch s hcm hper => ?_, fun ch mag n s hon hauto hcm hover hwide hseal => ?_,
    fun ch s hon hauto hcm hdwell hnarrow hseal => ?_, fun ch s htr hleft => ?_⟩
  · obtain ⟨u, hcfg, hsealed, hwaits, hchans, hu, happly⟩ := applyTakesEffect_applies hf hdue
    obtain ⟨hmem, hask⟩ := storeConfig_asks u
    have hswaits : (storeConfig u).mbx.waits = s.mbx.waits := by
      have hw := congrArg (fun t => t.mbx.waits) hask
      exact hw.trans hwaits
    have hsfe : (storeConfig u).fe = u.fe := by
      have hfe := congrArg State.fe hask
      exact hfe
    refine ⟨_, congrArg Host.Outcome.next happly, ?_⟩
    have hend := fun w (hw : w ∈ s.mbx.waits) (ha : w.act = .applySet) =>
      finish_ends (p := fun a => a == .applySet) .ok s.tick.no.toNat (s := storeConfig u) (w := w) (hswaits ▸ hw) (by simp [ha])
    obtain ⟨ws, due, hfin⟩ := finish_slots (fun a => a == .applySet) .ok s.tick.no.toNat (storeConfig u)
    generalize finish (fun a => a == .applySet) .ok s.tick.no.toNat (storeConfig u) = t at *
    have htfe : t.fe = u.fe := by
      rw [hfin]
      exact hsfe
    have hchan : ∀ ch, chanOf t ch = chanOf u ch := fun ch => by rw [chanOf, htfe]; rfl
    refine ⟨?_, ?_, ?_, fun ch h1 h2 h3 => ?_, fun w hw ha => ?_, ?_⟩
    · rw [htfe, hcfg]
    · rw [htfe, hsealed]
    · rw [configBody_fe (htfe.trans hsfe.symm), hfin]
      exact hmem
    · rw [hchan]
      exact hchans ch h1 h2 h3
    · obtain ⟨hgone, hdone⟩ := hend w hw ha
      refine ⟨hgone, _, hdone, rfl, rfl, rfl, ?_⟩
      simp [completionOf, BitVec.ofNat_toNat]
    · generalize storeConfig u = v at *
      rw [hfin, hask, hu]
      rfl
  · obtain ⟨t, ht, hreset, hothers, hnv, hrec, hframe⟩ := syncReset_resets h
    exact ⟨t, congrArg Host.Outcome.next ht, hreset.cnt, hreset.k, hreset.xs, hreset.held, hreset.fSet, hreset.fade, hreset.swap, hreset.settleTo,
      hreset.bankNew, hreset.peak, hreset.rms, hreset.env, hothers, hnv, hrec, hframe⟩
  · obtain ⟨t, ht, hcal⟩ := calibrationEffect_set h
    exact ⟨t, congrArg Host.Outcome.next ht, hcal⟩
  · obtain ⟨t, ht, hrev⟩ := chopReversal_reverses hn hdue
    exact ⟨t, congrArg Host.Outcome.next ht, hrev⟩
  · obtain ⟨b, hlimit, hself, hothers⟩ := sourceLimit_changes hn hen hv hbit
    refine ⟨_, congrArg Host.Outcome.next hlimit, ?_, fun k hk hne => ?_, raiseInt_intStatus 8 _ hup, ?_⟩
    · rw [raiseInt_fe]
      exact hself
    · rw [raiseInt_fe]
      exact hothers k hk hne
    · obtain ⟨m, hm⟩ := raiseInt_eq 8 { s with fe := { s.fe with srcFault := b } }
      rw [hm]
  · refine ⟨_, rfl, ?_⟩
    have hframe : ∃ m, vexcChange ok s = { s with fe := { s.fe with vexcOk := ok, srcFault := if ok then s.fe.srcFault else 0 }, mbx := m } := by
      unfold vexcChange
      extract_lets s1
      split
      · obtain ⟨m, hm⟩ := raiseInt_eq 8 s1
        exact ⟨m, hm⟩
      · exact ⟨_, rfl⟩
    obtain ⟨m, hm⟩ := hframe
    rw [hm]
    exact ⟨rfl, rfl, rfl⟩
  · refine ⟨_, congrArg Host.Outcome.next (if_pos ?_), chanOf_setChan_self _ _ _, fun k hk => chanOf_setChan_ne _ _ hk, rfl⟩
    simp [hon, hoff, hcm, hper]
  · refine ⟨_, congrArg Host.Outcome.next (if_pos ?_), chanOf_setChan_self _ _ _, fun k hk => chanOf_setChan_ne _ _ hk, rfl⟩
    simp [hcm, hper]
  · obtain ⟨h1, h2, h3⟩ := upRange_spec (volt := 1000000) (mag := mag) hwide
    refine ⟨_, _, congrArg Host.Outcome.next (autoRangeUp_moves hon hauto hcm hover hwide hseal), h1, h2, h3, ?_, fun k hk => chanOf_setChan_ne _ _ hk, rfl⟩
    rw [chanOf_setChan_self, rangeTo_moves (by omega)]
  · refine ⟨_, congrArg Host.Outcome.next (if_pos ?_), ?_, fun k hk => chanOf_setChan_ne _ _ hk, rfl⟩
    · simp [hon, hauto, hcm, hdwell, hnarrow, hseal]
    · rw [chanOf_setChan_self, rangeTo_moves (by omega)]
  · refine ⟨_, congrArg Host.Outcome.next (if_pos ?_), chanOf_setChan_self _ _ _, fun k hk => chanOf_setChan_ne _ _ hk, rfl⟩
    simp [htr, hleft]

end Sys2Proof.Machine
end

section
/-! PROOFS. Fields of packed words, and the writes of the pending set (R63, R84, R110, R122). -/

namespace Sys2Proof.Machine
open Sys2Proof Sys2Proof.Safety

/-! ## Fields of packed words, and blocks of packed words -/

theorem bitsN_pack_mod (fs gs : List (Nat × Nat × Nat)) {lo w hi x : Nat} (hfs : pack fs < 2 ^ lo) (hw : hi + 1 - lo = w) (hl : lo ≤ hi)
    (hgs : ∀ g ∈ gs, hi < g.1) : bitsN (pack (fs ++ (lo, w, x) :: gs)) hi lo = x % 2 ^ w := by
  rw [pack, List.foldl_append, List.foldl_cons, bitsN_foldl_put_above _ _ hl hgs]
  exact bitsN_put_self x hfs hw

theorem bitN_eq_bitsN (x i : Nat) : bitN x i = decide (bitsN x i i = 1) := by
  rw [bitN, Nat.testBit_eq_decide_div_mod_eq, bitsN, Nat.shiftRight_eq_div_pow, Nat.add_sub_cancel_left, pow_one]

theorem bitN_pack_bool (fs gs : List (Nat × Nat × Nat)) {i : Nat} (b : Bool) (hfs : pack fs < 2 ^ i) (hgs : ∀ g ∈ gs, i < g.1) :
    bitN (pack (fs ++ (i, 1, b2n b) :: gs)) i = b := by
  rw [bitN_eq_bitsN, bitsN_pack_mod fs gs hfs (by omega) (Nat.le_refl i) hgs]
  cases b <;> rfl

theorem bitsN_mod_two_pow (x : Nat) {hi lo m : Nat} (h : hi < m) (hl : lo ≤ hi) : bitsN (x % 2 ^ m) hi lo = bitsN x hi lo := by
  have hm : (2 : Nat) ^ m = 2 ^ lo * 2 ^ (m - lo) := by
    rw [← pow_add]
    congr 1
    omega
  rw [bitsN, bitsN, Nat.shiftRight_eq_div_pow, Nat.shiftRight_eq_div_pow, hm, Nat.mod_mul_right_div_self,
    Nat.mod_mod_of_dvd _ (pow_dvd_pow 2 (by omega))]

theorem bitN_mod_two_pow (x : Nat) {i m : Nat} (h : i < m) : bitN (x % 2 ^ m) i = bitN x i := by
  rw [bitN_eq_bitsN, bitN_eq_bitsN, bitsN_mod_two_pow x h (Nat.le_refl i)]

theorem pack_lt_of_le {fs : List (Nat × Nat × Nat)} {lo hi : Nat} (h : pack fs < 2 ^ lo) (hl : lo ≤ hi) : pack fs < 2 ^ hi :=
  Nat.lt_of_lt_of_le h (Nat.pow_le_pow_right (by decide) hl)

/-! ## The pending set (R122, Tables 03-8 to 03-11, 04-7, 04-8)

Each write sets one entry of one table of the pending set. -/

theorem feRoute_writes {c : Cmd} {s : State} (h : TakenUp 0x0301 c s) (h1 : fld c 4 0 0 ≤ 23) (h2 : fld c 21 16 0 ≤ 47) (h3 : fld c 29 24 0 ≤ 47)
    (h4 : fld c 42 41 0 ≠ 3) (h5 : fld c 42 41 0 = 2 → fld c 45 43 0 ≤ 3) :
    exec (.feRoute c) s = .next { completed 0x0301 c .ok 0 s with
      fe := { s.fe with pend := { s.fe.pend with routes := tabSet s.fe.pend.routes (fld c 4 0 0) (routeFields c) } } } := by
  rw [exec_row_runs (i := .feRoute c) rfl rfl h, bodyFeRoute]
  refine congrArg Host.Outcome.next ((if_neg ?_).trans rfl)
  simp only [routeFields]
  omega

theorem feSource_writes {c : Cmd} {v : SrcCfg} {s : State} (h : TakenUp 0x0302 c s) (h1 : fld c 3 0 0 ≤ 2) (h2 : fld c 7 4 0 ≤ if fld c 3 0 0 = 0 then 7 else 3)
    (hv : v = { enable := fldB c 116 false, value := fld c 111 96 0, polarity := fldB c 117 false, chop := fld c 127 120 0, pins := BitVec.ofNat 32 (fld c 95 64 0) })
    (hr : v.enable = true → srcInRange (fld c 3 0 0) v (srcIndex (fld c 3 0 0) (fld c 7 4 0)) = true) :
    exec (.feSource c) s = .next { completed 0x0302 c .ok 0 s with
      fe := { s.fe with pend := { s.fe.pend with srcs := tabSet s.fe.pend.srcs (srcIndex (fld c 3 0 0) (fld c 7 4 0)) v } } } := by
  rw [exec_row_runs (i := .feSource c) rfl rfl h, bodyFeSource]
  refine congrArg Host.Outcome.next ((if_neg ?_).trans ((if_neg fun hbad => ?_).trans ?_))
  · split at h2 <;> omega
  · obtain ⟨he, hn⟩ := Bool.and_eq_true_iff.mp hbad
    rw [← hv] at he hn
    rw [hr he] at hn
    cases hn
  · rw [← hv]
    rfl

theorem feRange_writes {c : Cmd} {s : State} (h : TakenUp 0x0303 c s) (h1 : fld c 4 0 0 ≤ 23) (h2 : 1 ≤ fld c 63 48 1000) :
    exec (.feRange c) s = .next { completed 0x0303 c .ok 0 s with fe := { s.fe with pend := { s.fe.pend with
      ranges := tabSet s.fe.pend.ranges (fld c 4 0 0)
        { range := fld c 37 35 0, auto := fldB c 34 false, wide := fld c 43 41 0, narrow := fld c 40 38 7, dwell := fld c 63 48 1000 } } } } := by
  rw [exec_row_runs (i := .feRange c) rfl rfl h, bodyFeRange]
  refine congrArg Host.Outcome.next ((if_neg ?_).trans rfl)
  dsimp only
  omega

theorem feCmWindow_writes {c : Cmd} {s : State} (h : TakenUp 0x0304 c s) (h1 : fld c 4 0 0 ≤ 23) (h2 : -1000 ≤ signedN 16 (fld c 79 64 25000))
    (h3 : signedN 16 (fld c 79 64 25000) ≤ 25000) (h4 : 1 ≤ fld c 87 80 4) :
    exec (.feCmWindow c) s = .next { completed 0x0304 c .ok 0 s with fe := { s.fe with pend := { s.fe.pend with
      cms := tabSet s.fe.pend.cms (fld c 4 0 0)
        { lo := signedN 16 (fld c 63 48 (wrapN 16 (-1000))), hi := signedN 16 (fld c 79 64 25000), persist := fld c 87 80 4 } } } } := by
  rw [exec_row_runs (i := .feCmWindow c) rfl rfl h, bodyFeCmWindow]
  refine congrArg Host.Outcome.next ((if_neg ?_).trans rfl)
  dsimp only
  omega

theorem feCurve_writes {c : Cmd} {s : State} (h : TakenUp 0x0305 c s) (h1 : fld c 4 0 0 ≤ 23) (h2 : curveKnown (fld c 95 88 0) = true)
    (h3 : fld c 103 96 0xFF ≤ 23 ∨ fld c 103 96 0xFF = 0xFF) :
    exec (.feCurve c) s = .next { completed 0x0305 c .ok 0 s with fe := { s.fe with pend := { s.fe.pend with
      curves := tabSet s.fe.pend.curves (fld c 4 0 0) { curve := fld c 95 88 0, cj := fld c 103 96 0xFF } } } } := by
  rw [exec_row_runs (i := .feCurve c) rfl rfl h, bodyFeCurve]
  refine congrArg Host.Outcome.next ((if_neg ?_).trans rfl)
  dsimp only
  rw [h2]
  simp only [Bool.not_true, Bool.false_eq_true, false_or]
  omega

theorem chChain_writes {c : Cmd} {s : State} (h : TakenUp 0x0309 c s) (h1 : fld c 4 0 0 ≤ 23) (h2 : 1 ≤ fld c 26 16 1) (h3 : fld c 26 16 1 ≤ 1024)
    (h4 : 1 ≤ fld c 60 56 6) (h5 : fld c 60 56 6 ≤ 24) (h6 : 1 ≤ fld c 76 64 256) (h7 : fld c 76 64 256 ≤ 4096) (h8 : 1 ≤ fld c 84 80 6)
    (h9 : fld c 84 80 6 ≤ 16) :
    exec (.chChain c) s = .next { completed 0x0309 c .ok 0 s with fe := { s.fe with pend := { s.fe.pend with
      chains := tabSet s.fe.pend.chains (fld c 4 0 0)
        { preset := fld c 9 8 0, maLen := fld c 26 16 1, sh1 := fld c 36 32 0, sh2 := fld c 44 40 0, coarseLen := fld c 49 48 3,
          peakDecay := fld c 60 56 6, rmsLen := fld c 76 64 256, envA := fld c 84 80 6, envFc := fld c 111 96 8192, envBw := fld c 127 112 4096 } } } } := by
  rw [exec_row_runs (i := .chChain c) rfl rfl h, bodyChChain]
  refine congrArg Host.Outcome.next ((if_neg ?_).trans rfl)
  dsimp only
  omega

theorem chEvent_writes {c : Cmd} {s : State} (h : TakenUp 0x030A c s) (h1 : fld c 4 0 0 ≤ 23) (h2 : 1 ≤ fld c 111 96 1) (h3 : 1 ≤ fld c 127 112 1) :
    exec (.chEvent c) s = .next { completed 0x030A c .ok 0 s with fe := { s.fe with pend := { s.fe.pend with
      events := tabSet s.fe.pend.events (2 * fld c 4 0 0 + fld c 5 5 0)
        { enable := fldB c 11 false, below := fldB c 10 false, source := fld c 9 8 0, onLevel := BitVec.ofNat 32 (fld c 63 32 0),
          offLevel := BitVec.ofNat 32 (fld c 95 64 0), persistOn := fld c 111 96 1, persistOff := fld c 127 112 1 } } } } := by
  rw [exec_row_runs (i := .chEvent c) rfl rfl h, bodyChEvent]
  refine congrArg Host.Outcome.next ((if_neg ?_).trans rfl)
  dsimp only
  omega

end Sys2Proof.Machine
end

section
/-! PROOFS. Commands over the channels of a mask: banks, swaps, resets (R100 to R103, R126). -/

namespace Sys2Proof.Machine
open Sys2Proof Sys2Proof.Safety

/-! ## The channels of a mask (R100 to R103, R126) -/

theorem mem_chanList {m ch : Nat} : ch ∈ chanList m ↔ ch < 24 ∧ m.testBit ch = true := by
  simp [chanList, maskList]

theorem chanList_nodup (m : Nat) : (chanList m).Nodup := List.Nodup.filter _ List.nodup_range

/-- One step of a command over its channels: its channel takes `f`, the others stay, and `R` holds. -/
structure ChanStep (f : Chan → Chan) (R : State → State → Prop) (ch : Nat) (s t : State) : Prop where
  chan : chanOf t ch = f (chanOf s ch)
  others : ∀ k, k ≠ ch → chanOf t k = chanOf s k
  rel : R s t

/-- What the steps over a list of channels leave. -/
structure ChanFold (f : Chan → Chan) (R : State → State → Prop) (chs : List Nat) (s t : State) : Prop where
  chans : ∀ ch ∈ chs, chanOf t ch = f (chanOf s ch)
  others : ∀ k, k ∉ chs → chanOf t k = chanOf s k
  rel : R s t

theorem foldl_chans {f : Chan → Chan} {R : State → State → Prop} {g : State → Nat → State} {chs : List Nat} {s : State} (hnd : chs.Nodup)
    (hrefl : ∀ t, R t t) (htrans : ∀ a b c, R a b → R b c → R a c)
    (hstep : ∀ t ch, chanOf t ch = chanOf s ch → ChanStep f R ch t (g t ch)) : ChanFold f R chs s (chs.foldl g s) := by
  have key : ∀ (xs : List Nat) (u : State), xs.Nodup → (∀ k ∈ xs, chanOf u k = chanOf s k) → ChanFold f R xs u (xs.foldl g u) := by
    intro xs
    induction xs with
    | nil => exact fun u _ _ => ⟨by simp, fun _ _ => rfl, hrefl u⟩
    | cons x xs ih =>
      intro u hxs hu
      obtain ⟨hx, hxs⟩ := List.nodup_cons.mp hxs
      have h1 := hstep u x (hu x List.mem_cons_self)
      have hother : ∀ k ∈ xs, chanOf (g u x) k = chanOf u k := fun k hk => h1.others k fun he => hx (he ▸ hk)
      have h2 := ih (g u x) hxs fun k hk => (hother k hk).trans (hu k (List.mem_cons_of_mem _ hk))
      refine ⟨fun ch hch => ?_, fun k hk => ?_, htrans _ _ _ h1.rel h2.rel⟩
      · rcases List.mem_cons.mp hch with rfl | hin
        · exact (h2.others ch hx).trans h1.chan
        · rw [List.foldl_cons, h2.chans ch hin, hother ch hin]
      · obtain ⟨hne, hnin⟩ := not_or.mp (List.mem_cons.not.mp hk)
        exact (h2.others k hnin).trans (h1.others k hne)
  exact key chs s hnd fun _ _ => rfl

/-- Nothing but channels changes. -/
def ChansOnly (s t : State) : Prop := ∃ cs, t = { s with fe := { s.fe with chans := cs } }

theorem ChansOnly.trans {a b c : State} (h : ChansOnly a b) (k : ChansOnly b c) : ChansOnly a c := by
  obtain ⟨_, rfl⟩ := h
  obtain ⟨_, rfl⟩ := k
  exact ⟨_, rfl⟩

theorem setChan_step (ch : Nat) (f : Chan → Chan) (s : State) : ChanStep f ChansOnly ch s (setChan ch f s) :=
  ⟨chanOf_setChan_self _ _ _, fun _ hk => chanOf_setChan_ne _ _ hk, _, rfl⟩

theorem setChans_fold (m : Nat) (f : Chan → Chan) (s : State) :
    ChanFold f ChansOnly (chanList m) s ((chanList m).foldl (fun t ch => setChan ch f t) s) :=
  foldl_chans (chanList_nodup m) (fun _ => ⟨_, rfl⟩) (fun _ _ _ => ChansOnly.trans) fun t ch _ => setChan_step ch f t

theorem not_mem_chanList {m ch : Nat} (h : 24 ≤ ch ∨ m.testBit ch = false) : ch ∉ chanList m := fun hin => by
  obtain ⟨hlt, hbit⟩ := mem_chanList.mp hin
  rcases h with h | h
  · omega
  · rw [h] at hbit
    cases hbit

/-! ## Banks -/

/-- Coefficient i of a load of `n` from `first`. -/
theorem tabGet_load {base : Tab Int} {g : Nat → Int} {first n i : Nat} (hi : i < n) :
    tabGet 0 (tabOver base ((List.range n).map fun j => (first + j, g j))) (first + i) = g i := by
  induction n with
  | zero => omega
  | succ n ih =>
    rw [List.range_succ, List.map_append, tabOver, List.foldl_append]
    by_cases h : i = n
    · subst h
      exact tabGet_tabSet_self _ _ _ _
    · have hne : first + i ≠ first + n := by omega
      exact (tabGet_tabSet_ne _ _ _ hne).trans (ih (by omega))

/-- CH_FIR_LOAD with parameters in range, and no swap queued. -/
theorem chFirLoad_loads {c : Cmd} {s : State} (h : TakenUp 0x030B c s) (h1 : fld c 87 80 0 ≤ 127) (h2 : 1 ≤ fld c 95 88 1) (h3 : fld c 95 88 1 ≤ 64)
    (h4 : fld c 87 80 0 + fld c 95 88 1 ≤ 128) (h5 : 1 ≤ fld c 103 96 1) (h6 : fld c 103 96 1 ≤ 128) (hswap : ∀ ch, (chanOf s ch).swap = none) :
    exec (.chFirLoad c) s = .next (completeOk 0x030B c 0 ((chanList (fld c 23 0 0)).foldl (fun t ch => setChan ch (fun x => { x with
      bankLoad := {
        taps := fld c 103 96 1
        shift := fld c 108 104 23
        fPass := fld c 127 112 32768
        coefs := tabOver x.bankLoad.coefs ((List.range (fld c 95 88 1)).map fun i =>
          (fld c 87 80 0 + i, signedN 24 (fld c (128 + 24 * i + 23) (128 + 24 * i) 0))) } }) t) (slotTaken c s))) := by
  rw [exec_row_runs (i := .chFirLoad c) rfl rfl h, bodyChFirLoad]
  refine congrArg Host.Outcome.next ((if_neg (by omega)).trans ((if_neg ?_).trans rfl))
  have hs : ∀ ch, (chanOf (slotTaken c s) ch).swap = none := fun ch => by cases s; exact hswap ch
  simp [hs]

/-! ## Queued swaps -/

/-- Channels, waiting commands and completions change; completions join behind the others. -/
def ChansAndSlots (s t : State) : Prop := ∃ cs ws e, t = { s with
  fe := { s.fe with chans := cs }
  mbx := { s.mbx with waits := ws, due := s.mbx.due ++ e } }

theorem ChansAndSlots.refl (s : State) : ChansAndSlots s s := ⟨_, _, [], by rw [List.append_nil]⟩

theorem ChansAndSlots.trans {a b c : State} (h : ChansAndSlots a b) (k : ChansAndSlots b c) : ChansAndSlots a c := by
  obtain ⟨_, _, e, rfl⟩ := h
  obtain ⟨cs, ws, e', rfl⟩ := k
  exact ⟨cs, ws, e ++ e', by rw [← List.append_assoc]⟩

theorem swapDropped_none {ch : Nat} {s : State} (h : (chanOf s ch).swap = none) : swapDropped ch s = s := if_neg (by simp [h])

theorem swapStarted_appends (ch : Nat) (s : State) : ChansAndSlots s (swapStarted ch s) :=
  ⟨_, _, _, finish_eq (fun a => a == .firSwap 0) .ok 0 (setMbx (fun m => { m with waits := m.waits.map fun w => match w.act with
    | .firSwap x => { w with act := .firSwap (x &&& ~~~(1#24 <<< ch)) }
    | _ => w }) s)⟩

/-- A swap that is dropped leaves the channel's banks and its fade. -/
theorem swapDropped_step (ch : Nat) (s : State) :
    ChanStep (fun x => if x.swap.isSome then { x with swap := none, swapArmed := false } else x) ChansAndSlots ch s (swapDropped ch s) := by
  by_cases h : (chanOf s ch).swap.isSome = true
  · have hd : swapDropped ch s = swapStarted ch (setChan ch (fun x => { x with swap := none, swapArmed := false }) s) := if_pos h
    obtain ⟨_, _, he⟩ := swapStarted_slots ch (setChan ch (fun x => { x with swap := none, swapArmed := false }) s)
    have hchan : ∀ k, chanOf (swapStarted ch (setChan ch (fun x => { x with swap := none, swapArmed := false }) s)) k =
        chanOf (setChan ch (fun x => { x with swap := none, swapArmed := false }) s) k := fun k => by
      rw [he]
      rfl
    rw [hd]
    refine ⟨?_, fun k hk => ?_, ?_⟩
    · rw [hchan, chanOf_setChan_self]
      exact (if_pos h).symm
    · rw [hchan, chanOf_setChan_ne _ _ hk]
    · obtain ⟨_, _, e, ha⟩ := swapStarted_appends ch (setChan ch (fun x => { x with swap := none, swapArmed := false }) s)
      exact ⟨_, _, e, ha⟩
  · rw [swapDropped_none (by simpa using h)]
    exact ⟨(if_neg h).symm, fun _ _ => rfl, .refl s⟩

theorem swapsDropped_fold (m : Nat) (s : State) :
    ChanFold (fun x => if x.swap.isSome then { x with swap := none, swapArmed := false } else x) ChansAndSlots (chanList m) s
      ((chanList m).foldl (fun t ch => swapDropped ch t) s) :=
  foldl_chans (chanList_nodup m) .refl (fun _ _ _ => .trans) fun t ch _ => swapDropped_step ch t

theorem swapsDropped_none {s : State} (chs : List Nat) (h : ∀ ch, (chanOf s ch).swap = none) : chs.foldl (fun t ch => swapDropped ch t) s = s := by
  induction chs with
  | nil => rfl
  | cons ch chs ih => rw [List.foldl_cons, swapDropped_none (h ch), ih]

/-- Swaps queued on channels that have neither a swap nor a fade. -/
theorem swapsQueued_fold {s : State} (m len : Nat) (h : ∀ ch, (chanOf s ch).fade = none ∧ (chanOf s ch).swap = none) :
    ChanFold (fun x => { x with swap := some { len := len, behind := false }, swapArmed := false }) ChansOnly (chanList m) s
      ((chanList m).foldl (fun t ch => setChan ch (fun x => { x with swap := some { len := len, behind := fadeRuns x }, swapArmed := false })
        (swapDropped ch t)) s) := by
  refine foldl_chans (chanList_nodup m) (fun _ => ⟨_, rfl⟩) (fun _ _ _ => ChansOnly.trans) fun t ch ht => ?_
  obtain ⟨hfade, hswap⟩ := h ch
  rw [swapDropped_none (by rw [ht, hswap])]
  refine ⟨?_, fun k hk => chanOf_setChan_ne _ _ hk, _, rfl⟩
  rw [chanOf_setChan_self, ht, fadeRuns, hfade]

end Sys2Proof.Machine
end

section
/-! PROOFS. The front-end and channel commands (R63 to R126). -/

namespace Sys2Proof.Machine
open Sys2Proof Sys2Proof.Safety

/-- A block of the FE_STATUS answer. -/
theorem feStatus_fields (x : Chan) :
    let n := pack [(0, 3, x.range), (8, 1, b2n x.cmFault), (9, 1, b2n x.linOor), (32, 16, wrapN 16 x.cmMv)]
    bitsN n 2 0 = x.range % 8 ∧ bitN n 8 = x.cmFault :=
  ⟨bitsN_pack_mod [] [_, _, _] (pack_nil_lt 0) rfl (by decide) (by simp),
    bitN_pack_bool [_] [_, _] _ (pack_lt_of_le (pack_snoc_lt (fs := []) _ (pack_nil_lt 0)) (by decide)) (by simp)⟩

/-- The first fields of a CH_STATE block lie below the later ones. -/
theorem chState_low (a b c d x y : Nat) : pack [(0, 32, a), (32, 8, b), (40, 8, c), (48, 8, d)] < 2 ^ 56 ∧
    pack [(0, 32, a), (32, 8, b), (40, 8, c), (48, 8, d), (56, 1, x), (57, 1, y)] < 2 ^ 58 := by
  have h1 : pack [(0, 32, a)] < 2 ^ 32 := pack_snoc_lt (fs := []) _ (pack_nil_lt 0)
  have h2 : pack [(0, 32, a), (32, 8, b)] < 2 ^ 40 := pack_snoc_lt (fs := [_]) _ h1
  have h3 : pack [(0, 32, a), (32, 8, b), (40, 8, c)] < 2 ^ 48 := pack_snoc_lt (fs := [_, _]) _ h2
  have h4 : pack [(0, 32, a), (32, 8, b), (40, 8, c), (48, 8, d)] < 2 ^ 56 := pack_snoc_lt (fs := [_, _, _]) _ h3
  have h5 : pack [(0, 32, a), (32, 8, b), (40, 8, c), (48, 8, d), (56, 1, x)] < 2 ^ 57 := pack_snoc_lt (fs := [_, _, _, _]) _ h4
  exact ⟨h4, pack_snoc_lt (fs := [_, _, _, _, _]) _ h5⟩

/-- One block of a table of packed words, as the host reads it. -/
theorem leNat_block (f : Nat → Nat) {k i n : Nat} (h : i < n) :
    leNat ((((List.range n).flatMap fun x => leBytes k (f x)).drop (k * i)).take k) = f i % 2 ^ (8 * k) := by
  rw [take_drop_flatMap_leBytes f h, leNat_leBytes]

theorem length_blocks (f : Nat → Nat) (k n : Nat) : ((List.range n).flatMap fun x => leBytes k (f x)).length = n * k := by
  simp [List.length_flatMap, leBytes_length]

theorem feStatus_answers {c : Cmd} {s : State} (h : TakenUp 0x0308 c s) :
    ∃ bs, exec (.feStatus c) s = .next (answered 0x0308 c bs 0 s) ∧ bs.length = 192 ∧
      ∀ ch, ch < 24 → bitsN (leNat ((bs.drop (8 * ch)).take 8)) 2 0 = (chanOf s ch).range % 8 ∧
        bitN (leNat ((bs.drop (8 * ch)).take 8)) 8 = (chanOf s ch).cmFault := by
  refine ⟨_, (exec_row_runs (i := .feStatus c) rfl rfl h).trans (congrArg Host.Outcome.next (respond_taken 0x0308 c _ 0 s)), length_blocks _ 8 24, fun ch hch => ?_⟩
  rw [leNat_block _ hch, bitsN_mod_two_pow _ (by decide) (by decide), bitN_mod_two_pow _ (by decide)]
  exact feStatus_fields (chanOf s ch)

theorem chState_answers {c : Cmd} {s : State} (h : TakenUp 0x0311 c s) :
    ∃ bs, exec (.chState c) s = .next (answered 0x0311 c bs 0 s) ∧ bs.length = 768 ∧
      ∀ ch, ch < 24 → bitsN (leNat ((bs.drop (32 * ch)).take 32)) 31 0 = (chanOf s ch).cnt % 2 ^ 32 ∧
        bitN (leNat ((bs.drop (32 * ch)).take 32)) 56 = fadeRuns (chanOf s ch) ∧
        bitsN (leNat ((bs.drop (32 * ch)).take 32)) 59 58 = nth (chanOf s ch).roles 0 0 % 4 := by
  refine ⟨_, (exec_row_runs (i := .chState c) rfl rfl h).trans (congrArg Host.Outcome.next (respond_taken 0x0311 c _ 0 s)), length_blocks _ 32 24, fun ch hch => ?_⟩
  rw [leNat_block _ hch, bitsN_mod_two_pow _ (by decide) (by decide), bitN_mod_two_pow _ (by decide), bitsN_mod_two_pow _ (by decide) (by decide)]
  refine ⟨bitsN_pack_mod [] _ (pack_nil_lt 0) rfl (by decide) (by simp),
    bitN_pack_bool [_, _, _, _] _ (fadeRuns (chanOf s ch)) (chState_low _ _ _ _ 0 0).1 (by simp),
    bitsN_pack_mod [_, _, _, _, _, _] _ (chState_low _ _ _ _ _ _).2 rfl (by decide) (by simp)⟩

/-- FE_CAL_WRITE asks for the record of its set or ratio (R90). -/
theorem feCalWrite_asks {c : Cmd} {rat : Bool} {i r : Nat} {s : State} (h : TakenUp 0x0307 c s) (ht : calTarget c = some (rat, i, r))
    (hk : recReplaces (if rat then 24 else i) = false) :
    ∃ t, exec (.feCalWrite c) s = .next t ∧
      t.fe.calWait = s.fe.calWait ++ [if rat then .ratio i (BitVec.ofNat 32 (fld c 63 32 0x40000000))
        else .set i r (BitVec.ofNat 32 (fld c 63 32 0x40000000)) (BitVec.ofNat 32 (fld c 95 64 0))] ∧
      t.nv.recQ = s.nv.recQ ++ [(if rat then 24 else i, calBody t (if rat then 24 else i) t.fe.calWait.length)] ∧
      t = { waitsNow 0x0307 c (.recWrite (if rat then .ratios else .calib i)) s with fe := { s.fe with calWait := t.fe.calWait }, nv := asked s t } := by
  rw [exec_row_runs (i := .feCalWrite c) rfl rfl h, bodyFeCalWrite, ht]
  dsimp -zeta only
  extract_lets w k s1
  obtain ⟨rr, q, p, n, hq⟩ := recQueue_asked (k := k) (calBody s1 k s1.fe.calWait.length) s1 hk
  rw [hq]
  refine ⟨_, rfl, ?_, ?_, ?_⟩
  · cases s
    rfl
  · cases s
    rfl
  · cases s
    rfl

theorem recReplaces_of_lt {k : Nat} (h : k < 25) : recReplaces k = false := by
  simp [recReplaces]
  omega

/-- Settles O19: the pending set by one lemma per table, the channel commands by their folds. -/
theorem frontEndCommands : Obligations.FrontEndCommands := by
  refine ⟨fun c s h h1 h2 h3 h4 h5 => ⟨_, feRoute_writes h h1 h2 h3 h4 h5, tabGet_tabSet_self _ _ _ _, fun k hk => tabFind_tabSet_ne _ _ hk, rfl⟩,
    fun c v s h h1 h2 hv hr => ⟨_, feSource_writes h h1 h2 hv hr, tabGet_tabSet_self _ _ _ _, fun k hk => tabFind_tabSet_ne _ _ hk, rfl⟩,
    fun c s h h1 h2 => ⟨_, feRange_writes h h1 h2, tabGet_tabSet_self _ _ _ _, fun k hk => tabFind_tabSet_ne _ _ hk, rfl⟩,
    fun c s h h1 h2 h3 h4 => ⟨_, feCmWindow_writes h h1 h2 h3 h4, tabGet_tabSet_self _ _ _ _, fun k hk => tabFind_tabSet_ne _ _ hk, rfl⟩,
    fun c s h h1 h2 h3 => ⟨_, feCurve_writes h h1 h2 h3, tabGet_tabSet_self _ _ _ _, fun k hk => tabFind_tabSet_ne _ _ hk, rfl⟩,
    fun c s h h1 h2 h3 h4 h5 h6 h7 h8 h9 => ⟨_, chChain_writes h h1 h2 h3 h4 h5 h6 h7 h8 h9, tabGet_tabSet_self _ _ _ _, fun k hk => tabFind_tabSet_ne _ _ hk, rfl⟩,
    fun c s h h1 h2 h3 => ⟨_, chEvent_writes h h1 h2 h3, tabGet_tabSet_self _ _ _ _, fun k hk => tabFind_tabSet_ne _ _ hk, rfl⟩,
    fun c s h => ?_, fun c s h hseal => ?_, fun c s h hrat hch => ?_, fun c s h hrat hi => ?_, fun c s h hrat hi => ?_, fun c s h hrat hch => ?_,
    fun c s h => feStatus_answers h, fun c s h => chState_answers h, fun c s h h1 h2 h3 h4 h5 h6 hswap => ?_,
    fun c s h hb h1 h2 hne hcheck hfree => ?_, fun c s h hb => ?_, fun c s h => ?_, fun c s h hne => ?_⟩
  · exact (exec_row_runs (i := .discardSet c) rfl rfl h).trans rfl
  · refine ⟨_, exec_row_runs (i := .applySet c) rfl rfl h, ?_⟩
    have hbody : bodyApply c (slotTaken c s) = match applyCheck s (laid s.fe.cfg s.fe.pend) with
        | some (r, ch) => complete 0x030E c .applyReject r ch 0 (slotTaken c s)
        | none => waitFor 0x030E c .applySet (setFe (fun f => { f with sealed_ := some f.pend, sealedDue := false, pend := {} }) (slotTaken c s)) :=
      if_neg (by simp [slotTaken, hseal])
    rw [hbody]
    cases applyCheck s (laid s.fe.cfg s.fe.pend) with
    | none => rfl
    | some p => rfl
  · have ht : calTarget c = some (false, fld c 4 0 0, fld c 10 8 0) := (if_neg (by simp [hrat])).trans (if_pos hch)
    rw [exec_row_runs (i := .feCalRead c) rfl rfl h, bodyFeCalRead, ht]
    rfl
  · have ht : calTarget c = some (true, fld c 29 24 0, 0) := (if_pos hrat).trans (if_pos hi)
    rw [exec_row_runs (i := .feCalRead c) rfl rfl h, bodyFeCalRead, ht]
    rfl
  · exact feCalWrite_asks (rat := true) h ((if_pos hrat).trans (if_pos hi)) rfl
  · exact feCalWrite_asks (rat := false) h ((if_neg (by simp [hrat])).trans (if_pos hch)) (recReplaces_of_lt (Nat.lt_succ_of_lt hch))
  · have hfold := setChans_fold (fld c 23 0 0) (fun x => { x with
      bankLoad := {
        taps := fld c 103 96 1
        shift := fld c 108 104 23
        fPass := fld c 127 112 32768
        coefs := tabOver x.bankLoad.coefs ((List.range (fld c 95 88 1)).map fun i =>
          (fld c 87 80 0 + i, signedN 24 (fld c (128 + 24 * i + 23) (128 + 24 * i) 0))) } }) (slotTaken c s)
    refine ⟨_, chFirLoad_loads h h1 h2 h3 h4 h5 h6 hswap, ?_⟩
    generalize (chanList (fld c 23 0 0)).foldl _ (slotTaken c s) = u at *
    obtain ⟨hchans, hothers, _, hu⟩ := hfold
    refine ⟨fun ch hch hbit => ?_, fun ch hno => hothers ch (not_mem_chanList hno), ?_⟩
    · have hx := hchans ch (mem_chanList.mpr ⟨hch, hbit⟩)
      rw [show chanOf (completeOk 0x030B c 0 u) ch = _ from hx]
      refine ⟨rfl, rfl, rfl, fun i hi => tabGet_load (base := (chanOf s ch).bankLoad.coefs) hi, rfl⟩
    · rw [hu]
      rfl
  · have hfold := swapsQueued_fold (s := slotTaken c s) (fld c 23 0 0) (fld c 44 32 16) hfree
    rw [exec_row_runs (i := .chFirSwap c) rfl rfl h]
    have hfade : ((chanList (fld c 23 0 0)).any fun ch => fadeRuns (chanOf (slotTaken c s) ch)) = false := by
      refine List.any_eq_false.mpr fun ch _ => ?_
      have hn : (chanOf (slotTaken c s) ch).fade = none := (hfree ch).1
      simp [fadeRuns, hn]
    have hcheck' : swapCheck (slotTaken c s) (chanList (fld c 23 0 0)) = none := hcheck
    have hbody : bodyChFirSwap c (slotTaken c s) = waitFor 0x030C c (.firSwap (BitVec.ofNat 24 (fld c 23 0 0)))
        ((chanList (fld c 23 0 0)).foldl (fun t ch => setChan ch (fun x => { x with swap := some { len := fld c 44 32 16, behind := fadeRuns x }, swapArmed := false })
          (swapDropped ch t)) (slotTaken c s)) := by
      rw [bodyChFirSwap, hb, if_neg (by decide), if_neg (by omega), hcheck']
      dsimp only
      rw [hfade, if_neg (by decide), if_neg (by simpa using hne)]
    rw [hbody]
    generalize (chanList (fld c 23 0 0)).foldl _ (slotTaken c s) = u at *
    obtain ⟨hchans, hothers, _, hu⟩ := hfold
    refine ⟨_, rfl, fun ch hch hbit => hchans ch (mem_chanList.mpr ⟨hch, hbit⟩), fun ch hno => hothers ch (not_mem_chanList hno), ?_⟩
    rw [hu]
    rfl
  · have hfold := swapsDropped_fold (fld c 23 0 0) (slotTaken c s)
    have hbody : bodyChFirSwap c (slotTaken c s) = completeOk 0x030C c 0 ((chanList (fld c 23 0 0)).foldl (fun t ch => swapDropped ch t) (slotTaken c s)) :=
      if_pos hb
    have hnone : (∀ ch, (chanOf s ch).swap = none) → (chanList (fld c 23 0 0)).foldl (fun t ch => swapDropped ch t) (slotTaken c s) = slotTaken c s :=
      fun hs => swapsDropped_none _ hs
    rw [exec_row_runs (i := .chFirSwap c) rfl rfl h, hbody]
    generalize (chanList (fld c 23 0 0)).foldl _ (slotTaken c s) = u at *
    obtain ⟨hchans, hothers, _, _, e, hu⟩ := hfold
    refine ⟨_, rfl, fun ch hch hbit => ?_, fun ch hno => hothers ch (not_mem_chanList hno), ⟨e, ?_⟩, ?_, fun hs => ?_, ?_⟩
    · have hx : chanOf (completeOk 0x030C c 0 u) ch = _ := hchans ch (mem_chanList.mpr ⟨hch, hbit⟩)
      rw [hx]
      change Chan.swap (if (chanOf s ch).swap.isSome then _ else chanOf s ch) = none ∧ Chan.bankNew (if (chanOf s ch).swap.isSome then _ else chanOf s ch) = _ ∧
        Chan.fade (if (chanOf s ch).swap.isSome then _ else chanOf s ch) = _
      split
      · exact ⟨rfl, rfl, rfl⟩
      · rename_i hno
        exact ⟨Option.not_isSome_iff_eq_none.mp hno, rfl, rfl⟩
    · rw [hu]
      rfl
    · rw [hu]
      rfl
    · rw [hnone hs]
      rfl
    · rw [hu]
      rfl
  · have hfold := setChans_fold (fld c 23 0 0) (fun x => if fadeRuns x then { x with abortReq := true } else x) (slotTaken c s)
    rw [exec_row_runs (i := .chFirAbort c) rfl rfl h, bodyChFirAbort]
    generalize (chanList (fld c 23 0 0)).foldl _ (slotTaken c s) = u at *
    obtain ⟨hchans, hothers, _, hu⟩ := hfold
    refine ⟨_, rfl, fun ch hch hbit hrun => ?_, fun ch hno => ?_, ?_⟩
    · exact (hchans ch (mem_chanList.mpr ⟨hch, hbit⟩)).trans (if_pos hrun)
    · by_cases hin : ch ∈ chanList (fld c 23 0 0)
      · have hrun : fadeRuns (chanOf s ch) = false := by
          rcases hno with hno | hno | hno
          · exact absurd hin (not_mem_chanList (.inl hno))
          · exact absurd hin (not_mem_chanList (.inr hno))
          · exact hno
        exact (hchans ch hin).trans (if_neg (ne_true_of_eq_false hrun))
      · exact hothers ch hin
    · rw [hu]
      rfl
  · have hfold := setChans_fold (fld c 23 0 0) (fun x => { x with resetReq := true }) (slotTaken c s)
    rw [exec_row_runs (i := .chReset c) rfl rfl h]
    have hbody : bodyChReset c (slotTaken c s) = waitFor 0x0310 c (.chReset (BitVec.ofNat 24 (fld c 23 0 0)))
        ((chanList (fld c 23 0 0)).foldl (fun t ch => setChan ch (fun x => { x with resetReq := true }) t) (slotTaken c s)) := if_neg (by simpa using hne)
    rw [hbody]
    generalize (chanList (fld c 23 0 0)).foldl _ (slotTaken c s) = u at *
    obtain ⟨hchans, hothers, _, hu⟩ := hfold
    refine ⟨_, rfl, fun ch hch hbit => hchans ch (mem_chanList.mpr ⟨hch, hbit⟩), fun ch hno => hothers ch (not_mem_chanList hno), ?_⟩
    rw [hu]
    rfl

end Sys2Proof.Machine
end

section
/-! PROOFS. STEP of the statistics job (R206, R290). -/

namespace Sys2Proof.Machine
open Sys2Proof Sys2Proof.Safety

/-! ## A step of the statistics job (R206, R290) -/

/-- One window, whose job has one step of one move. -/
def statWindow : Sched :=
  { wins := [{ start := 0, len := 600, job := 0 }]
    jsteps := [(0, 2)]
    steps := [{ opcode := 0x7F }, { opcode := 0x70 }] }

/-- The window's job is the watch's statistics job, and a row of a closed frame waits for it. -/
def statStepDue : State :=
  { seq := { active := some { jobs := [{ jclass := 3 }], scheds := [statWindow] }
             sched := some 0
             jobs := [(0, { running := true })] }
    tick := { frame := 1 }
    watch := { run := 1
               image := some { jcStat := 3 }
               rows := [{ tick := 0, frame := 0, regime := none, st := 0, elig := false, sample := false, onX := false, onY := false
                          feats := [], resX := [], resY := [] }] } }

/-- The step processes the row. -/
theorem statStep_processes : (stepRun 0 0 statStepDue).watch.rows = [] := by decide +kernel

/-- Refutes O23: STEP of the statistics job processes the rows of closed frames (R290), so the watch changes too. -/
theorem not_slotsAndSteps : ¬ Obligations.SlotsAndSteps := by
  intro h
  obtain ⟨-, hstep⟩ := h
  obtain ⟨hissue, -⟩ := hstep 0 0 _ statWindow { start := 0, len := 600, job := 0 } statStepDue rfl rfl rfl (by decide +kernel) (by decide +kernel)
    (by decide +kernel) (by decide +kernel) (by decide +kernel) rfl rfl
  obtain ⟨t, hexec, -, -, hframe⟩ := hissue ⟨1, by decide +kernel, by decide +kernel⟩
  have hnext : t = stepRun 0 0 statStepDue := (Host.Outcome.next.inj hexec).symm
  have hrows := statStep_processes
  rw [← hnext, hframe] at hrows
  exact absurd (show statStepDue.watch.rows = [] from hrows) (by decide +kernel)

end Sys2Proof.Machine
end

section
/-! PROOFS. MOVE_COMPLETE with a signal of an older epoch (R207, R208). -/

namespace Sys2Proof.Machine
open Sys2Proof Sys2Proof.Safety

/-! ## A signal that comes too late (R207, R208) -/

/-- A move in flight whose object has begun a new epoch since the issue. -/
def staleSignaller : Flying :=
  { key := 0, ref := .tickProg 0, mv := { opcode := 0x20, sigN := 1, cls := .frame }, engine := 0x520, planned := 0, started := some 0
    epoch := 1, streamC := 0, job := none }

def staleSignalDue : State := { seq := { active := some {}, flying := [staleSignaller] } }

/-- The signal is dropped and counted. -/
theorem staleSignal_counts : ctrGet (moveComplete 0 0 staleSignalDue) cSyncStale = 1 := by decide +kernel

/-- Refutes O24: MOVE_COMPLETE of a move whose epoch has gone by counts `sync_stale` (R207), so that the counters change even without a watch image. -/
theorem not_movesInFlight : ¬ Obligations.MovesInFlight := by
  intro h
  obtain ⟨-, -, -, hcomplete⟩ := h
  obtain ⟨t, hexec, -, -, -, -, -, hframe, -⟩ := hcomplete 0 0 0 {} staleSignaller staleSignalDue rfl (by decide +kernel) rfl (by decide +kernel) (by decide +kernel)
  have hnext : t = moveComplete 0 0 staleSignalDue := (Host.Outcome.next.inj hexec).symm
  have hcount := staleSignal_counts
  rw [← hnext, hframe rfl] at hcount
  exact absurd (show ctrGet staleSignalDue cSyncStale = 1 from hcount) (by decide +kernel)

end Sys2Proof.Machine
end

section
/-! PROOFS. WATCH_SETUP (R315). -/

namespace Sys2Proof.Machine
open Sys2Proof Sys2Proof.Safety

/-! ## The watch commands (R314 to R319) -/

theorem waiting_false {s : State} {p : PendAct → Bool} (h : ∀ w ∈ s.mbx.waits, p w.act = false) : waiting s p = false := by
  simpa [waiting] using h

/-- What a WATCH_SETUP leaves of an image that it has read. -/
theorem setupImage_clean {c : Cmd} {src len base frames : Nat} {l : MList} {b : List Byte} {im : WImage} {s : State}
    (hb : b = dramBytes s src len) (him : im = { parseWatch b with logBase := base, logFrames := frames, snapLen := Config.snapshotLen b })
    (hpoison : s.dram.poison = []) (hw : s.dram.wrong = []) (hnv : ∀ g, nvGroup s g = 0) :
    setupImage c src len base frames l s =
      if !rangeOk s base (frames * s.tick.frameLen * rowBytes im + im.snapLen) ∨
          rangeMeets base (frames * s.tick.frameLen * rowBytes im + im.snapLen) (usableBytes s - kvRegion s, kvRegion s) then fail 0x0401 c .badParam (draw s)
      else match verifyImage (draw s) typeWatch im.secVer b (bitsN (wHead b) 191 160) with
      | some st => fail 0x0401 c st (draw s)
      | none =>
        if !watchImageOk (draw s) l b then fail 0x0401 c .imageReject (draw s)
        else completeOk 0x0401 c 0 (setWatch (fun w => { w with image := some im, rows := [], rowCount := 0, samples := [], heldRows := [] }) (draw s)) := by
  have himage : dramImage s src len = b := by
    rw [hb]
    exact dramImage_clean (fun i => by simp [linePoison, hpoison, lineWrong, hw, tabGet]) src len
  rw [setupImage, dramScan_clean hw, himage, verifyScan_clean (s := draw s) hnv, ← him] <;> rfl

theorem watchSetup_sets {c : Cmd} {l : MList} {b : List Byte} {im : WImage} {s : State} (h : TakenUp 0x0401 c s) (hrun : s.watch.run = 0)
    (hl : s.seq.active = some l) (hlo : 16 ≤ fld c 95 80 0) (hhi : fld c 95 80 0 ≤ 4096) (hrange : rangeOk s (fld c 255 192 0) (fld c 191 160 0) = true)
    (hup : polderUp s pDram = true) (hw : s.dram.wrong = []) (hpoison : s.dram.poison = []) (hnv : ∀ g, nvGroup s g = 0)
    (hb : b = dramBytes s (fld c 255 192 0) (fld c 191 160 0))
    (him : im = { parseWatch b with logBase := fld c 159 96 0, logFrames := fld c 95 80 0, snapLen := Config.snapshotLen b }) :
    ∃ t, exec (.watchSetup c) s = .next t ∧
      (if !rangeOk s im.logBase (im.logFrames * s.tick.frameLen * rowBytes im + im.snapLen) ||
          rangeMeets im.logBase (im.logFrames * s.tick.frameLen * rowBytes im + im.snapLen) (usableBytes s - kvRegion s, kvRegion s) then
        t = { completed 0x0401 c .badParam 0 s with free := s.free + 1 }
      else match verifyImage s typeWatch im.secVer b (bitsN (wHead b) 191 160) with
        | some st => t = { completed 0x0401 c st 0 s with free := s.free + 1 }
        | none =>
          if watchImageOk s l b then t = { completed 0x0401 c .ok 0 s with watch := { s.watch with image := some im, rows := [], rowCount := 0, samples := [], heldRows := [] }, free := s.free + 1 }
          else t = { completed 0x0401 c .imageReject 0 s with free := s.free + 1 }) := by
  have hbody : bodyWatchSetup c (slotTaken c s) = setupImage c (fld c 255 192 0) (fld c 191 160 0) (fld c 159 96 0) (fld c 95 80 0) l (slotTaken c s) := by
    rw [bodyWatchSetup, if_neg fun hne => hne hrun, show (slotTaken c s).seq.active = some l from hl]
    have hgo : ¬(fld c 95 80 0 < 16 ∨ 4096 < fld c 95 80 0 ∨ (!rangeOk (slotTaken c s) (fld c 255 192 0) (fld c 191 160 0)) = true) := by
      have hr : rangeOk (slotTaken c s) (fld c 255 192 0) (fld c 191 160 0) = true := hrange
      rw [hr]
      simp only [Bool.not_true, Bool.false_eq_true, or_false]
      omega
    dsimp only
    rw [if_neg hgo, dramGo, needDram_up (show polderUp (slotTaken c s) pDram = true from hup)]
    exact if_pos hup
  have hset := setupImage_clean (c := c) (l := l) (s := slotTaken c s) (src := fld c 255 192 0) (len := fld c 191 160 0) hb him hpoison hw hnv
  refine ⟨_, (exec_row_runs (i := .watchSetup c) rfl rfl h).trans (congrArg Host.Outcome.next (hbody.trans hset)), ?_⟩
  have hbase : im.logBase = fld c 159 96 0 := by rw [him]
  have hframes : im.logFrames = fld c 95 80 0 := by rw [him]
  rw [hbase, hframes]
  by_cases hbad : (!rangeOk s (fld c 159 96 0) (fld c 95 80 0 * s.tick.frameLen * rowBytes im + im.snapLen)) = true ∨
      rangeMeets (fld c 159 96 0) (fld c 95 80 0 * s.tick.frameLen * rowBytes im + im.snapLen) (usableBytes s - kvRegion s, kvRegion s) = true
  · rw [if_pos (Bool.or_eq_true_iff.mpr hbad)]
    refine (if_pos hbad).trans ?_
    cases s
    rfl
  · rw [if_neg fun hor => hbad (Bool.or_eq_true_iff.mp hor)]
    have hv : verifyImage (draw (slotTaken c s)) typeWatch im.secVer b (bitsN (wHead b) 191 160) =
      verifyImage s typeWatch im.secVer b (bitsN (wHead b) 191 160) := rfl
    have hok : watchImageOk (draw (slotTaken c s)) l b = watchImageOk s l b := rfl
    rw [hv, hok]
    have hgo : ∀ u v : State, (if (!rangeOk (slotTaken c s) (fld c 159 96 0) (fld c 95 80 0 * (slotTaken c s).tick.frameLen * rowBytes im + im.snapLen)) = true ∨
      rangeMeets (fld c 159 96 0) (fld c 95 80 0 * (slotTaken c s).tick.frameLen * rowBytes im + im.snapLen)
        (usableBytes (slotTaken c s) - kvRegion (slotTaken c s), kvRegion (slotTaken c s)) = true then u else v) = v := fun u v => if_neg hbad
    cases verifyImage s typeWatch im.secVer b (bitsN (wHead b) 191 160) with
    | some st =>
      refine (hgo _ _).trans ?_
      cases s
      rfl
    | none =>
      dsimp only
      cases watchImageOk s l b with
      | true =>
        refine (hgo _ _).trans ?_
        cases s
        rfl
      | false =>
        refine (hgo _ _).trans ?_
        cases s
        rfl

end Sys2Proof.Machine
end

section
/-! PROOFS. The watch commands (R314 to R319, R470). -/

namespace Sys2Proof.Machine
open Sys2Proof Sys2Proof.Safety

/-- WATCH_IMPORT of a stopped watch with an image and a list (R318, R470). -/
theorem watchImport_takes {c : Cmd} {im : WImage} {l : MList} {b : List Byte} {s : State} (h : TakenUp 0x040B c s) (hrun : s.watch.run = 0)
    (him : s.watch.image = some im) (hl : s.seq.active = some l) (hlen : 112 ≤ fld c 63 32 0) (hb : b = hostRead s (fld c 127 64 0) (fld c 63 32 0)) :
    ∃ t, exec (.watchImport c) s = .next t ∧
      (if b.drop (fld c 63 32 0 - 48) ≠ digestBytes (Config.exportMac s.trust.keyHash (b.take (fld c 63 32 0 - 48))) then
        t = completed 0x040B c .signatureFail 0 s
      else if importFits im (b.take (fld c 63 32 0 - 48)) && listFits im l.movelistId then
        t = { completed 0x040B c .ok 0 s with watch := { s.watch with imported := some (b.take (fld c 63 32 0 - 48)) } }
      else t = completed 0x040B c .imageReject 0 s) := by
  have hread : hostRead (slotTaken c s) (fld c 127 64 0) (fld c 63 32 0) = b := hb.symm
  have hbody : bodyWatchImport c (slotTaken c s) =
      if fld c 63 32 0 < 112 ∨ b.drop (fld c 63 32 0 - 48) ≠ digestBytes (Config.exportMac s.trust.keyHash (b.take (fld c 63 32 0 - 48))) then
        fail 0x040B c .signatureFail (slotTaken c s)
      else if !importFits im (b.take (fld c 63 32 0 - 48)) || !listFits im l.movelistId then fail 0x040B c .imageReject (slotTaken c s)
      else completeOk 0x040B c 0 (setWatch (fun w => { w with imported := some (b.take (fld c 63 32 0 - 48)) }) (slotTaken c s)) := by
    rw [bodyWatchImport, if_neg fun hne => hne hrun]
    dsimp only
    rw [hread, show (slotTaken c s).watch.image = some im from him,
      show (slotTaken c s).seq.active = some l from hl]
    rfl
  refine ⟨_, exec_row_runs (i := .watchImport c) rfl rfl h, ?_⟩
  rw [hbody]
  by_cases htag : b.drop (fld c 63 32 0 - 48) = digestBytes (Config.exportMac s.trust.keyHash (b.take (fld c 63 32 0 - 48)))
  · have hgo : ¬(fld c 63 32 0 < 112 ∨ b.drop (fld c 63 32 0 - 48) ≠ digestBytes (Config.exportMac s.trust.keyHash (b.take (fld c 63 32 0 - 48)))) :=
      fun hor => hor.elim (fun hlt => by omega) fun hne => hne htag
    rw [if_neg (not_not.mpr htag), if_neg hgo]
    cases importFits im (b.take (fld c 63 32 0 - 48)) <;> cases listFits im l.movelistId <;> rfl
  · rw [if_pos htag, if_pos (Or.inr htag)]
    rfl

/-- Settles O37: WATCH_SETUP by `watchSetup_sets`, the others by their bodies. -/
theorem watchCommands : Obligations.WatchCommands := by
  refine ⟨fun c l b im s h hrun hl hlo hhi hrange hup hw hpoison hnv hb him =>
      watchSetup_sets h hrun hl hlo hhi hrange hup hw hpoison hnv hb him, fun c im s h hrun him hno hfit => ?_, fun c s h hrun => ?_, fun c s h hrun => ?_,
    fun c s h hrun => ?_, fun c s h hok hno => ?_, fun c s h hrun => ?_, fun c s h hroll => ?_, fun c s h hwf => ?_, fun c im s h him hrun hlen => ?_,
    fun c im l b s h hrun him hl hlen hb => ?_, fun c s h hok hwf => ?_⟩
  · rw [exec_row_runs (i := .watchStart c) rfl rfl h]
    refine congrArg Host.Outcome.next ?_
    have hidle : ∀ w ∈ (slotTaken c s).mbx.waits, (match w.act with | .watchStart _ => true | _ => false) = false := fun w hin => by
      have hact := hno w hin
      split
      · exact absurd ‹_› (hact _)
      · rfl
    have hresume : ¬(fldB c 0 false = true ∧ (!(match s.watch.imported with | some b => importFits im b | none => false)) = true) := fun ⟨hr, hn⟩ => by
      obtain ⟨b, hb, hf⟩ := hfit hr
      rw [hb] at hn
      simp [hf] at hn
    rw [bodyWatchStart, if_neg fun hor => hor.elim (fun hne => hne hrun) (ne_true_of_eq_false (waiting_false hidle)), show (slotTaken c s).watch.image = some im from him]
    exact (if_neg hresume).trans (waitFor_taken 0x0402 c _ s)
  · exact (exec_row_runs (i := .watchStop c) rfl rfl h).trans (congrArg Host.Outcome.next ((if_neg hrun).trans (waitFor_taken 0x0403 c _ s)))
  · exact (exec_row_runs (i := .watchFreeze c) rfl rfl h).trans (congrArg Host.Outcome.next ((if_neg hrun).trans (waitFor_taken 0x0404 c _ s)))
  · exact (exec_row_runs (i := .watchThaw c) rfl rfl h).trans (congrArg Host.Outcome.next ((if_neg fun hne => hne hrun).trans (waitFor_taken 0x0405 c _ s)))
  · have hidle : ∀ w ∈ (slotTaken c s).mbx.waits, (match w.act with | .watchParams _ => true | _ => false) = false := fun w hin => by
      have hact := hno w hin
      split
      · exact absurd ‹_› (hact _)
      · rfl
    rw [exec_row_runs (i := .watchParams c) rfl rfl h, bodyWatchParams, hok, if_neg (by decide), if_neg (ne_true_of_eq_false (waiting_false hidle))]
    exact congrArg Host.Outcome.next (waitFor_taken 0x0406 c _ s)
  · have hne : ¬(slotTaken c s).watch.run = 0 := fun h0 => by
      have : s.watch.run = 0 := h0
      omega
    have hne2 : ¬(slotTaken c s).watch.run = 2 := fun h2 => by
      have : s.watch.run = 2 := h2
      omega
    rw [exec_row_runs (i := .watchRelearn c) rfl rfl h, bodyWatchRelearn, if_neg hne, if_neg hne2]
    exact congrArg Host.Outcome.next (waitFor_taken 0x0407 c _ s)
  · have hcan : canRollBack (slotTaken c s) = true := Bool.or_eq_true_iff.mpr hroll
    rw [exec_row_runs (i := .watchRollback c) rfl rfl h, bodyWatchRollback, hcan, if_neg (by decide)]
    exact congrArg Host.Outcome.next (waitFor_taken 0x0408 c _ s)
  · have hlen : (leBytes 512 (watchStatusBits s)).length = 512 := leBytes_length 512 _
    have hbits : watchStatusBits (slotTaken c s) = watchStatusBits s := by
      cases s
      rfl
    have hexec := exec_row_runs (i := .watchStatus c) rfl rfl h
    rw [bodyWatchStatus, hbits] at hexec
    generalize leBytes 512 (watchStatusBits s) = bs at *
    refine ⟨_, hexec, ?_, fun a ha => memRead_memWriteN_out 0 _ _ _ _ hwf (by rw [hlen]; exact ha), rfl⟩
    have hread := memReadN_memWriteN 0 bs s.host (fld c 63 0 0) hwf
    rw [hlen] at hread
    exact hread
  · rw [exec_row_runs (i := .watchExport c) rfl rfl h, bodyWatchExport, show (slotTaken c s).watch.image = some im from him]
    dsimp only
    rw [if_neg (show ¬(slotTaken c s).watch.run = 0 from hrun), if_neg (by omega)]
    exact congrArg Host.Outcome.next (waitFor_taken 0x040A c _ s)
  · exact watchImport_takes h hrun him hl hlen hb
  · refine ⟨_, exec_row_runs (i := .watchReportRing c) rfl rfl h, ?_⟩
    rw [bodyWatchReportRing, hok, if_neg (by decide)]
    refine ⟨rfl, fun a => ?_, rfl⟩
    change memRead 0 (memWriteN 0 s.host (ringOf c).index.toNat (zeros 4)) a = _
    split
    · rename_i ha
      have hin := memRead_memWriteN_in 0 (zeros 4) s.host (ringOf c).index.toNat (a - (ringOf c).index.toNat) hwf (by simp [zeros]; omega)
      rw [show (ringOf c).index.toNat + (a - (ringOf c).index.toNat) = a by omega] at hin
      rw [hin, nth, zeros, List.getElem?_replicate]
      split <;> rfl
    · exact memRead_memWriteN_out 0 _ _ _ _ hwf (by simp [zeros]; omega)

end Sys2Proof.Machine
end

section
/-! PROOFS. Firmware transfers that join others (R55). -/

namespace Sys2Proof.Machine
open Sys2Proof Sys2Proof.Safety

/-! ## Transfers that the firmware asks for, with others that wait (R55) -/

/-- The descriptors that wait are the firmware's own, and, unless `d`, none of them needs the DRAM. -/
def FwQueue (d : Bool) (s : State) : Prop :=
  ∀ q ∈ s.fm.descQueue, q.fw ≠ [] ∧ q.o.dstKind ≠ .peer ∧ (d = false → q.o.srcKind ≠ .dram ∧ q.o.dstKind ≠ .dram)

/-- Firmware transfers join those of a state: no request is lost, and nothing else changes but, with `d`, the requests for the DRAM polder. -/
structure FwAsks (d : Bool) (s t : State) : Prop where
  frame : ∃ xs n qs w, t = { s with fm := { s.fm with xfers := xs, nextXfer := n, descQueue := qs }, power := w } ∧ (d = false → w = s.power)
  queue : FwQueue d t
  asked : ∀ sk dk src dst, copyAsked s sk dk src dst → copyAsked t sk dk src dst

namespace FwAsks

variable {d : Bool} {s t u : State}

theorem refl (h : FwQueue d s) : FwAsks d s s := ⟨⟨_, _, _, _, rfl, fun _ => rfl⟩, h, fun _ _ _ _ h => h⟩

theorem trans (h : FwAsks d s t) (k : FwAsks d t u) : FwAsks d s u := by
  obtain ⟨⟨_, _, _, w, rfl, hw⟩, -, ha⟩ := h
  obtain ⟨⟨_, _, _, w', rfl, hw'⟩, kq, ka⟩ := k
  exact ⟨⟨_, _, _, _, rfl, fun hd => (hw' hd).trans (hw hd)⟩, kq, fun sk dk a b hab => ka sk dk a b (ha sk dk a b hab)⟩

/-- Without transfers of the DRAM the power manager is not asked. -/
theorem areas (h : FwAsks false s t) : t = { s with fm := areasOnly s t } := by
  obtain ⟨⟨_, _, _, w, rfl, hw⟩, -, -⟩ := h
  rw [hw rfl]
  rfl

theorem areasPower (h : FwAsks d s t) : t = { s with fm := areasOnly s t, power := t.power } := by
  obtain ⟨⟨_, _, _, w, rfl, -⟩, -, -⟩ := h
  rfl

end FwAsks

theorem FwQueue.nil {d : Bool} {s : State} (h : s.fm.descQueue = []) : FwQueue d s := fun q hq => by
  rw [h] at hq
  cases hq

/-- The bytes that a descriptor copies. -/
def descCopies (q : DescWait) (sk dk : DmaKind) (src dst : Nat) : Prop :=
  q.o.srcKind = sk ∧ q.o.dstKind = dk ∧ ∃ c ∈ q.fw, ∃ i, i < c.len ∧ c.srcAt + i = src ∧ c.dstAt + i = dst

/-- A firmware descriptor that starts becomes a transfer of its pieces. -/
theorem descStart_fwAsks {d : Bool} {q : DescWait} {s : State} (hfw : q.fw ≠ []) (hpeer : q.o.dstKind ≠ .peer)
    (hd : d = false → q.o.srcKind ≠ .dram ∧ q.o.dstKind ≠ .dram) (hq : FwQueue d s) :
    FwAsks d s (descStart q s) ∧ ∀ sk dk src dst, descCopies q sk dk src dst → copyAsked (descStart q s) sk dk src dst := by
  have hne : q.fw.isEmpty = false := by simpa using hfw
  unfold descStart
  extract_lets o s1 t
  have hs1 : ∃ w, s1 = { s with power := w } ∧ (d = false → w = s.power) := by
    simp only [s1]
    split
    · rename_i hdram
      obtain ⟨w, hw⟩ : ∃ w, needDram s = { s with power := w } := by
        unfold needDram
        split
        · exact ⟨_, rfl⟩
        · exact requestPolder_frame _ _
      refine ⟨w, hw, fun hf => ?_⟩
      obtain ⟨h1, h2⟩ := hd hf
      simp [o, h1, h2] at hdram
    · exact ⟨_, rfl, fun _ => rfl⟩
  obtain ⟨w, hs1, hw⟩ := hs1
  have hchunks : t.chunks = q.fw := if_neg (by simp [hne])
  have hfwx : t.fw = true := by simp [t, hne]
  rw [if_neg (by simpa [o] using hpeer), hchunks, hne, if_neg (by decide)]
  have hadd : addXfer t s1 = { s with
      fm := { s.fm with xfers := s.fm.xfers ++ [{ t with id := s.fm.nextXfer, registered := registers s1 t }], nextXfer := s.fm.nextXfer + 1 }
      power := w } := by
    rw [hs1]
    rfl
  rw [hadd]
  refine ⟨⟨⟨_, _, _, _, rfl, hw⟩, hq, fun sk dk a b hab => ?_⟩, fun sk dk a b hab => ?_⟩
  · rcases hab with ⟨x, hx, hspec⟩ | hqd
    · exact .inl ⟨x, List.mem_append_left _ hx, hspec⟩
    · exact .inr hqd
  · obtain ⟨h1, h2, c, hc, hi⟩ := hab
    refine .inl ⟨_, List.mem_append_right _ (List.mem_singleton_self _), hfwx, h1, h2, c, ?_, hi⟩
    exact hchunks.symm ▸ hc

/-- As descriptors open, firmware transfers start or go on waiting. -/
theorem descRelease_fwAsks {d : Bool} (n : Nat) {s : State} (hq : FwQueue d s) : FwAsks d s (descRelease n s) := by
  induction n generalizing s with
  | zero => exact .refl hq
  | succ n ih =>
    unfold descRelease
    extract_lets order
    split
    · exact .refl hq
    · rename_i q hfound
      have hmem : q ∈ s.fm.descQueue := by
        have h := List.mem_of_find?_eq_some hfound
        rcases List.mem_append.mp h with h | h
        · exact (List.mem_filter.mp h).1
        · exact (List.mem_filter.mp h).1
      obtain ⟨hfw, hpeer, hd⟩ := hq q hmem
      have hq1 : FwQueue d (setFm (fun m => { m with descQueue := m.descQueue.erase q }) s) := fun x hx => hq x (List.mem_of_mem_erase hx)
      obtain ⟨hstart, hcopies⟩ := descStart_fwAsks hfw hpeer hd hq1
      refine FwAsks.trans ⟨?_, hstart.queue, fun sk dk a b hab => ?_⟩ (ih hstart.queue)
      · obtain ⟨_, _, _, w, h, hw⟩ := hstart.frame
        rw [h]
        exact ⟨_, _, _, w, rfl, hw⟩
      · rcases hab with ⟨x, hx, hspec⟩ | ⟨x, hx, h1, h2, hc⟩
        · exact hstart.asked sk dk a b (.inl ⟨x, hx, hspec⟩)
        · by_cases he : x = q
          · subst he
            exact hcopies sk dk a b ⟨h1, h2, hc⟩
          · exact hstart.asked sk dk a b (.inr ⟨x, (List.mem_erase_of_ne he).mpr hx, h1, h2, hc⟩)

theorem descEnqueue_fwAsks {d : Bool} {q : DescWait} {s : State} (hfw : q.fw ≠ []) (hpeer : q.o.dstKind ≠ .peer)
    (hd : d = false → q.o.srcKind ≠ .dram ∧ q.o.dstKind ≠ .dram) (hq : FwQueue d s) :
    FwAsks d s (descEnqueue q s) ∧ ∀ sk dk src dst, descCopies q sk dk src dst → copyAsked (descEnqueue q s) sk dk src dst := by
  have hq1 : FwQueue d (setFm (fun m => { m with descQueue := m.descQueue ++ [q] }) s) := fun x hx => by
    rcases List.mem_append.mp hx with hx | hx
    · exact hq x hx
    · obtain rfl := List.mem_singleton.mp hx
      exact ⟨hfw, hpeer, hd⟩
  have hrel := descRelease_fwAsks (setFm (fun m => { m with descQueue := m.descQueue ++ [q] }) s).fm.descQueue.length hq1
  refine ⟨⟨?_, hrel.queue, fun sk dk a b hab => hrel.asked sk dk a b ?_⟩, fun sk dk a b ⟨h1, h2, hc⟩ => hrel.asked sk dk a b ?_⟩
  · obtain ⟨_, _, _, w, h, hw⟩ := hrel.frame
    exact ⟨_, _, _, w, h, hw⟩
  · rcases hab with hx | ⟨x, hx, hspec⟩
    · exact .inl hx
    · exact .inr ⟨x, List.mem_append_left _ hx, hspec⟩
  · exact .inr ⟨q, List.mem_append_right _ (List.mem_singleton_self _), h1, h2, hc⟩

/-- The firmware's writes into a field memory need no DRAM. -/
theorem fwWrite_fwAsks {d : Bool} (f : Nat) (items : List (Nat × List Byte)) {s : State} (hq : FwQueue d s) : FwAsks d s (fwWrite f items s) := by
  unfold fwWrite fwWriteThen
  extract_lets cs
  split
  · exact .refl hq
  · rename_i hne
    exact (descEnqueue_fwAsks (q := { fwWait f .host .fieldMem cs with job := none }) (fun h => hne (by rw [show cs = [] from h]; rfl)) (fun h => nomatch h)
      (fun _ => ⟨(fun h => nomatch h), (fun h => nomatch h)⟩) hq).1

theorem roleWrite_fwAsks {d : Bool} (i : Nat) (items : List (Nat × List Byte)) {s : State} (hq : FwQueue d s) : FwAsks d s (roleWrite i items s) := by
  unfold roleWrite
  split
  · exact .refl hq
  · exact fwWrite_fwAsks _ _ hq

theorem writeScalars_fwAsks {d : Bool} {s : State} (hq : FwQueue d s) : FwAsks d s (writeScalars s) := by
  unfold writeScalars
  split
  · exact .refl hq
  · exact roleWrite_fwAsks _ _ hq

theorem writeVars_fwAsks {d : Bool} (g : Nat) {s : State} (hq : FwQueue d s) : FwAsks d s (writeVars g s) := by
  unfold writeVars
  split
  · exact .refl hq
  · exact (roleWrite_fwAsks _ _ hq).trans (roleWrite_fwAsks _ _ (roleWrite_fwAsks _ _ hq).queue)

theorem writeNorm_fwAsks {d : Bool} (g : Nat) {s : State} (hq : FwQueue d s) : FwAsks d s (writeNorm g s) := by
  unfold writeNorm
  split
  · exact .refl hq
  · exact roleWrite_fwAsks _ _ hq

theorem foldl_fwAsks {d : Bool} {α : Type} {g : State → α → State} (hg : ∀ t x, FwQueue d t → FwAsks d t (g t x)) (xs : List α) {s : State}
    (hq : FwQueue d s) : FwAsks d s (xs.foldl g s) := by
  induction xs generalizing s with
  | nil => exact .refl hq
  | cons x xs ih => exact (hg s x hq).trans (ih (hg s x hq).queue)

/-- Every pair of a list of copies lies in one of its runs. -/
theorem mem_copyRuns {bytes : List (Nat × Nat)} {a b : Nat} (h : (a, b) ∈ bytes) :
    ∃ r ∈ copyRuns bytes, ∃ i, i < r.2.2 ∧ r.1 + i = a ∧ r.2.1 + i = b := by
  induction bytes with
  | nil => cases h
  | cons e t ih =>
    obtain ⟨a0, b0⟩ := e
    unfold copyRuns
    cases hruns : copyRuns t with
    | nil =>
      rcases List.mem_cons.mp h with he | ht
      · cases he
        exact ⟨_, List.mem_singleton_self _, 0, Nat.one_pos, rfl, rfl⟩
      · obtain ⟨r, hr, -⟩ := ih ht
        rw [hruns] at hr
        cases hr
    | cons run rest =>
      obtain ⟨a1, b1, n⟩ := run
      dsimp only
      split
      · rename_i hjoin
        obtain ⟨hja, hjb, -, -⟩ := hjoin
        rcases List.mem_cons.mp h with he | ht
        · cases he
          exact ⟨_, List.mem_cons_self, 0, Nat.succ_pos n, rfl, rfl⟩
        · obtain ⟨r, hr, i, hi, h1, h2⟩ := ih ht
          rw [hruns] at hr
          rcases List.mem_cons.mp hr with hr | hr
          · subst hr
            exact ⟨_, List.mem_cons_self, i + 1, Nat.succ_lt_succ hi, by dsimp only at h1 ⊢; omega, by dsimp only at h2 ⊢; omega⟩
          · exact ⟨r, List.mem_cons_of_mem _ hr, i, hi, h1, h2⟩
      · rcases List.mem_cons.mp h with he | ht
        · cases he
          exact ⟨_, List.mem_cons_self, 0, Nat.one_pos, rfl, rfl⟩
        · obtain ⟨r, hr, hspec⟩ := ih ht
          rw [hruns] at hr
          exact ⟨r, List.mem_cons_of_mem _ hr, hspec⟩

/-- The firmware's copies: every byte is asked for. -/
theorem fwCopy_fwAsks (f : Nat) (sk dk : DmaKind) (bytes : List (Nat × Nat)) {s : State} (hdk : dk ≠ .peer) (hq : FwQueue true s) :
    FwAsks true s (fwCopy f sk dk bytes s) ∧ ∀ a b, (a, b) ∈ bytes → copyAsked (fwCopy f sk dk bytes s) sk dk a b := by
  unfold fwCopy
  extract_lets cs
  by_cases hcs : cs.isEmpty = true
  · rw [if_pos hcs]
    refine ⟨.refl hq, fun a b hab => ?_⟩
    obtain ⟨r, hr, -⟩ := mem_copyRuns hab
    have hnil : cs = [] := by simpa using hcs
    rw [List.map_eq_nil_iff.mp hnil] at hr
    cases hr
  · rw [if_neg hcs]
    obtain ⟨h1, h2⟩ := descEnqueue_fwAsks (d := true) (q := fwWait f sk dk cs) (s := s) (fun h => hcs (by rw [show cs = [] from h]; rfl)) hdk
      (fun h => nomatch h) hq
    refine ⟨h1, fun a b hab => h2 sk dk a b ⟨rfl, rfl, ?_⟩⟩
    obtain ⟨r, hr, i, hi, ha, hb⟩ := mem_copyRuns hab
    exact ⟨_, List.mem_map.mpr ⟨r, hr, rfl⟩, i, hi, ha, hb⟩

end Sys2Proof.Machine
end

section
/-! PROOFS. Regime transitions, training and evaluation of the watch (R290, R291, R306 to R310). -/

namespace Sys2Proof.Machine
open Sys2Proof Sys2Proof.Safety

/-! ## Regimes (R290, R291) -/

theorem regimeVars_one {g f : Nat} {im : WImage} (a : Area) (h : f < im.nFeat) : tabGet 0 (regimeVars g true im a).rv (256 * g + f) = one32 :=
  foldl_establishes (P := fun t => tabGet 0 t (256 * g + f) = one32) (g := fun t i => tabSet t (256 * g + i) one32) a.rv (List.mem_range.mpr h)
    (fun _ => tabGet_tabSet_self _ _ _ _) fun u i hu => by
      by_cases hi : 256 * g + f = 256 * g + i
      · rw [hi]
        exact tabGet_tabSet_self _ _ _ _
      · exact (tabGet_tabSet_ne _ _ _ hi).trans hu

/-- A regime in its next state. -/
def regimeNext (s : State) (im : WImage) (x : Regime) : Regime :=
  { (if x.st = 1 then normalise s im x else x) with st := x.st + 1, elig := 0, met := none, promoted := false }

/-- The watch's own state behind a transition. -/
def transitionBase (g : Nat) (im : WImage) (s : State) : State :=
  if (regOfWatch s g).st = 1 then
    setLearned (fun l => { l with areaX := regimeVars g true im l.areaX, areaY := regimeVars g true im l.areaY }) (draw (setReg g (regimeNext s im) s))
  else setReg g (regimeNext s im) s

theorem transitionBase_frame (g : Nat) (im : WImage) (s : State) :
    ∃ l n, transitionBase g im s = { s with watch := { s.watch with learned := l }, free := n } ∧ l.modelId = s.watch.learned.modelId ∧
      l.t = s.watch.learned.t ∧ l.regimes = tabSet s.watch.learned.regimes g (regimeNext s im (regOfWatch s g)) ∧
      ((regOfWatch s g).st = 1 → ∀ f, f < im.nFeat → tabGet 0 l.areaX.rv (256 * g + f) = one32 ∧ tabGet 0 l.areaY.rv (256 * g + f) = one32) := by
  unfold transitionBase
  split
  · exact ⟨_, _, rfl, rfl, rfl, rfl, fun _ f hf => ⟨regimeVars_one _ hf, regimeVars_one _ hf⟩⟩
  · rename_i hno
    exact ⟨_, _, rfl, rfl, rfl, rfl, fun h => absurd h hno⟩

/-- WATCH_TRANSITION of a regime whose condition was met, at the boundary due. -/
theorem watchTransition_moves {g delay : Nat} {im : WImage} {k : W32} {s : State} (him : s.watch.image = some im) (hrun : s.watch.run = 1)
    (hmet : (regOfWatch s g).met = some k) (hfirst : s.tick.inFrame = 0) (hup : computeDown s = false)
    (hframe : s.tick.frame = k + 2 + BitVec.ofNat 32 delay) (hq : s.fm.descQueue = []) :
    ∃ s3 s4, FwAsks false (transitionBase g im s) s3 ∧ Logged s3 s4 ∧
      watchTransition g delay s = oweEvent .regimeState s.watch.learned.modelId s.watch.severity (1#16 <<< g) s4 := by
  have hbase : FwQueue false (transitionBase g im s) := .nil (by
    obtain ⟨_, _, h, -⟩ := transitionBase_frame g im s
    rw [h]
    exact hq)
  unfold watchTransition
  rw [him]
  dsimp -zeta only
  extract_lets r go s1 s2 s3 s4
  rw [show r.met = some k from hmet]
  dsimp -zeta only
  rw [if_neg (by simp [hrun, hfirst, hup, hframe])]
  have h2 : FwAsks false (transitionBase g im s) s2 := by
    unfold transitionBase at hbase ⊢
    simp only [s2]
    split
    · rename_i hst
      rw [if_pos hst] at hbase
      exact (writeNorm_fwAsks g hbase).trans (writeVars_fwAsks g (writeNorm_fwAsks g hbase).queue)
    · rename_i hst
      rw [if_neg hst] at hbase
      exact .refl hbase
  refine ⟨s3, s4, h2.trans (writeScalars_fwAsks h2.queue), ?_, rfl⟩
  simp only [s4]
  split
  · exact .refl _
  · exact logEvent_logged _ _ _ _ _

/-! ## Jobs of the watch (R307, R310) -/

theorem jobOf_startJob_self (j : Nat) (s : State) : (jobOf (startJob j s) j).running = true ∧ (jobOf (startJob j s) j).cursor = 0 := by
  have h : jobOf (startJob j s) j = _ := tabGet_tabSet_self _ _ _ _
  rw [h]
  exact ⟨rfl, rfl⟩

theorem jobOf_startJob_ne {k j : Nat} (s : State) (h : k ≠ j) : jobOf (startJob j s) k = jobOf s k := tabGet_tabSet_ne _ _ _ h

theorem triggerJob_idle {jc j : Nat} {s : State} (h : classIdle s jc j = true) : triggerJob j s = startJob j s := by
  have hrun : (jobOf s j).running = false := by
    obtain ⟨h1, h2⟩ := Bool.and_eq_true_iff.mp h
    have hj := (Bool.and_eq_true_iff.mp h1).1
    simpa using List.all_eq_true.mp h2 j (List.contains_iff_mem.mp hj)
  exact if_neg (by simp [hrun])

/-- TRAINING_TRIGGER with a batch of unused samples. -/
theorem trainingTrigger_starts {j : Nat} {im : WImage} {s : State} (him : s.watch.image = some im) (hrun : s.watch.run = 1) (htier : s.seq.tierRun < 2)
    (hbatch : s.watch.params.batch ≤ s.watch.samples.length) (hidle : classIdle s im.jcTrain j = true) (hq : s.fm.descQueue = []) :
    FwAsks false (setWatch (fun w => { w with stepUse := some (w.samples.take w.params.batch) }) (startJob j s)) (trainingTrigger j s) := by
  unfold trainingTrigger trainStart
  rw [him]
  dsimp -zeta only
  rw [if_neg (by simp [hrun, hidle]; omega), triggerJob_idle hidle]
  exact foldl_fwAsks (fun t e ht => fwWrite_fwAsks _ _ ht) _ (.nil hq)

/-- The copy of the candidate's snapshot: every byte is asked for. -/
theorem takeSnapshot_asks {im : WImage} {s : State} (hq : FwQueue true s) : FwAsks true s (takeSnapshot im s) ∧ ∀ k, k < im.snapLen →
    let place := Config.snapshotFrom im.digest k
    let role := roleArea im (if place.1 then liveRole s.watch.learned else 2)
    copyAsked (takeSnapshot im s) .fieldMem .dram (chipAddr role.1 (role.2.1 + place.2)) (snapBase s im + k) := by
  unfold takeSnapshot
  extract_lets part
  obtain ⟨h1, hc1⟩ := fwCopy_fwAsks (roleArea im 2).1 .fieldMem .dram ((List.range im.snapLen).filterMap fun k =>
    if (Config.snapshotFrom im.digest k).1 == false then
      some (chipAddr (roleArea im 2).1 ((roleArea im 2).2.1 + (Config.snapshotFrom im.digest k).2), snapBase s im + k) else none) (by decide) hq
  change FwAsks true s (part false 2 s) at h1
  change ∀ a b, _ → copyAsked (part false 2 s) _ _ _ _ at hc1
  obtain ⟨h2, hc2⟩ := fwCopy_fwAsks (roleArea im (liveRole s.watch.learned)).1 .fieldMem .dram ((List.range im.snapLen).filterMap fun k =>
    if (Config.snapshotFrom im.digest k).1 == true then
      some (chipAddr (roleArea im (liveRole s.watch.learned)).1 ((roleArea im (liveRole s.watch.learned)).2.1 + (Config.snapshotFrom im.digest k).2),
        snapBase s im + k) else none) (by decide) h1.queue
  change FwAsks true (part false 2 s) (part true (liveRole s.watch.learned) (part false 2 s)) at h2
  change ∀ a b, _ → copyAsked (part true (liveRole s.watch.learned) (part false 2 s)) _ _ _ _ at hc2
  refine ⟨h1.trans h2, fun k hk => ?_⟩
  dsimp only
  cases hlive : (Config.snapshotFrom im.digest k).1 with
  | false => exact h2.asked _ _ _ _ (hc1 _ _ (List.mem_filterMap.mpr ⟨k, List.mem_range.mpr hk, if_pos (by rw [hlive]; rfl)⟩))
  | true => exact hc2 _ _ (List.mem_filterMap.mpr ⟨k, List.mem_range.mpr hk, if_pos (by rw [hlive]; rfl)⟩)

theorem evaluationTrigger_starts {j : Nat} {im : WImage} {s : State} (him : s.watch.image = some im) (hrun : s.watch.run = 1) (htier : s.seq.tierRun < 2)
    (ht : s.watch.learned.t ≠ 0) (hevery : s.watch.learned.t % s.watch.params.evalEvery = 0) (hnew : s.watch.learned.t ≠ s.watch.evalT)
    (hidle : classIdle s im.jcEval j = true) (hpromo : s.watch.promote = false) (hcopy : copyUnderWay s im = false) :
    evaluationTrigger j s = takeSnapshot im (setWatch (fun w => { w with evalOn := true, evalT := w.learned.t }) (startJob j s)) := by
  unfold evaluationTrigger
  extract_lets t
  rw [if_neg (by simp [t, ht, hevery, hnew]), evalStart, him]
  dsimp only
  rw [if_neg (by simp [hrun, hidle, hpromo, hcopy]; omega), triggerJob_idle hidle]

end Sys2Proof.Machine
end

section
/-! PROOFS. Promotion, fades and signed envelopes (R312, R313, R466 to R469). -/

namespace Sys2Proof.Machine
open Sys2Proof Sys2Proof.Safety

/-! ## The two model areas (R312, R313) -/

theorem otherArea_setOther (f : Area → Area) (l : Learned) : otherArea (setOther f l) = f (otherArea l) := by
  unfold otherArea setOther
  cases l.liveY <;> simp

theorem liveArea_setOther (f : Area → Area) (l : Learned) : liveArea (setOther f l) = liveArea l := by
  unfold liveArea setOther
  cases l.liveY <;> simp

theorem setOther_keeps (f : Area → Area) (l : Learned) : (setOther f l).liveY = l.liveY ∧ (setOther f l).modelId = l.modelId ∧
    (setOther f l).maxId = l.maxId ∧ (setOther f l).t = l.t := by
  unfold setOther
  cases l.liveY <;> exact ⟨rfl, rfl, rfl, rfl⟩

theorem swapAreas_swaps (l : Learned) : (swapAreas l).liveY = (!l.liveY) ∧ (swapAreas l).modelId = (otherArea l).id ∧
    (otherArea (swapAreas l)).id = l.modelId ∧ (otherArea (swapAreas l)).valid = true ∧ (swapAreas l).maxId = l.maxId ∧ (swapAreas l).t = l.t := by
  unfold swapAreas otherArea setLive
  cases l.liveY <;> simp

/-- PROMOTION of a snapshot that passed. -/
theorem promotion_copies {im : WImage} {s : State} (him : s.watch.image = some im) (hrun : s.watch.run = 1) (hpromo : s.watch.promote = true)
    (hfade : s.watch.fade = none) (hsnap : snapRuns s im = false) (hbound : s.tick.atBoundary = false) (hq : s.fm.descQueue = []) :
    ∃ t, promotion s = t ∧ FwAsks true (setWatch (fun w => { w with
        promote := false
        copied := true
        learned := setOther (fun a => { a with valid := false, rv := promotedVars s im }) w.learned }) s) t ∧
      ∀ o k, o < (roleArea im (otherRole s.watch.learned)).2.2 → Config.snapshotInto im.digest o = some k → k < im.snapLen →
        copyAsked t .dram .fieldMem (snapBase s im + k) (chipAddr (roleArea im (otherRole s.watch.learned)).1 ((roleArea im (otherRole s.watch.learned)).2.1 + o)) := by
  unfold promotion
  rw [him]
  dsimp -zeta only
  rw [if_neg (by simp [hrun, hpromo, hfade, hsnap, hbound])]
  extract_lets s1
  have hrole : otherRole s1.watch.learned = otherRole s.watch.learned := by
    have hy : s1.watch.learned.liveY = s.watch.learned.liveY := (setOther_keeps _ s.watch.learned).1
    rw [otherRole, hy]
    rfl
  have hcopy : copySnapshot im s1 = fwCopy (roleArea im (otherRole s.watch.learned)).1 .dram .fieldMem
      ((List.range (roleArea im (otherRole s.watch.learned)).2.2).filterMap fun o => match Config.snapshotInto im.digest o with
        | some k => if k < im.snapLen then
            some (snapBase s im + k, chipAddr (roleArea im (otherRole s.watch.learned)).1 ((roleArea im (otherRole s.watch.learned)).2.1 + o)) else none
        | none => none) s1 := by
    rw [copySnapshot, hrole]
    rfl
  obtain ⟨hasks, hall⟩ := fwCopy_fwAsks (roleArea im (otherRole s.watch.learned)).1 .dram .fieldMem
    ((List.range (roleArea im (otherRole s.watch.learned)).2.2).filterMap fun o => match Config.snapshotInto im.digest o with
      | some k => if k < im.snapLen then
          some (snapBase s im + k, chipAddr (roleArea im (otherRole s.watch.learned)).1 ((roleArea im (otherRole s.watch.learned)).2.1 + o)) else none
      | none => none) (s := s1) (by decide) (.nil hq)
  have hvars := foldl_fwAsks (d := true) (g := fun t g => writeVars g t) (fun t g ht => writeVars_fwAsks g ht) (List.range im.nReg) hasks.queue
  rw [hcopy]
  refine ⟨_, rfl, hasks.trans hvars, fun o k ho hk hlt => hvars.asked _ _ _ _ (hall _ _ (List.mem_filterMap.mpr ⟨o, List.mem_range.mpr ho, ?_⟩))⟩
  rw [hk]
  exact if_pos hlt

/-- WATCH_FADE_START at a boundary, behind the copy. -/
theorem watchFadeStart_starts {s : State} (hrun : s.watch.run ≠ 0) (hcopied : s.watch.copied = true) (hbound : s.tick.atBoundary = true)
    (hfade : s.watch.fade = none) (hdone : copyDone s = true) (hwait : watchWaits s = false) (hq : s.fm.descQueue = []) :
    ∃ u, FwAsks false (setWatch (fun w => { w with
        copied := false
        fade := some { j := 1, len := w.params.fadeFrames, rollback := false, reseed := false, start := s.tick.frame } }) s) u ∧
      watchFadeStart s = oweReport .fadeStart u := by
  refine ⟨_, writeScalars_fwAsks (.nil hq), ?_⟩
  rw [watchFadeStart, if_neg (by simp [hbound, hwait]), fadeStart]
  exact if_neg (by simp [hrun, hcopied, hdone, hfade])

/-! ## The end of a fade (R297, R312, R313) -/

/-- Reads of field memory by the firmware: what they find is counted, and a poisoned byte draws. -/
structure FwReads (s t : State) : Prop where
  frame : ∃ e i x c r n, t = { s with
    mbx := { s.mbx with errSum := e, intStatus := i, msix := x }
    ctr := c
    fm := { s.fm with rewrite := r }
    free := n }

theorem FwReads.trans {s t u : State} (h : FwReads s t) (k : FwReads t u) : FwReads s u := by
  obtain ⟨_, _, _, _, _, _, rfl⟩ := h
  obtain ⟨_, _, _, _, _, _, rfl⟩ := k
  exact ⟨_, _, _, _, _, _, rfl⟩

theorem roleItem_reads (im : WImage) (i k n : Nat) (s : State) : FwReads s (roleItem im i k n s).2 := by
  obtain ⟨_, _, _, _, _, h⟩ := (fmScan_counts 64 (roleArea im i).1 ((roleArea im i).2.1 + Config.rolePlace im.digest i k) n s).frame
  have hr : (roleItem im i k n s).2 = draw (fmScan 64 (roleArea im i).1 ((roleArea im i).2.1 + Config.rolePlace im.digest i k) n s) := rfl
  rw [hr, h]
  exact ⟨_, _, _, _, _, _, rfl⟩

/-- The candidate seeded again from the live model. -/
theorem reseedCandidate_asks {im : WImage} {s : State} (him : s.watch.image = some im) (hq : FwQueue false s) :
    ∃ u v, FwReads s u ∧ FwAsks false u v ∧ reseedCandidate s = setWatch (fun w => { w with learned := { w.learned with t := 0 }, evalT := 0 }) v := by
  unfold reseedCandidate
  rw [him]
  dsimp -zeta only
  extract_lets role one
  have hreads : ∀ (js : List Nat) (a : List (Nat × List Byte) × State), FwReads s a.2 → FwReads s (js.foldl one a).2 := fun js => by
    induction js with
    | nil => exact fun _ h => h
    | cons j js ih => exact fun a h => ih _ ((h.trans (roleItem_reads _ _ _ _ _)).trans (roleItem_reads _ _ _ _ _))
  have hread := hreads (trainedOf im) ([], s) ⟨_, _, _, _, _, _, rfl⟩
  generalize (trainedOf im).foldl one ([], s) = a at *
  obtain ⟨items, u⟩ := a
  have hqu : FwQueue false u := by
    obtain ⟨_, _, _, _, _, _, h⟩ := hread
    rw [show u = _ from h]
    exact hq
  exact ⟨u, _, hread, roleWrite_fwAsks 2 items hqu, rfl⟩

/-- What a fade's end leaves the watch. -/
def fadeLeft (f : MFade) (frame : W32) (w : Watch) : Watch :=
  if f.rollback then { w with fade := none, learned := swapAreas w.learned }
  else { w with
    fade := none
    learned := notePromotion w.params frame
      { swapAreas (setOther (fun a => { a with id := nextModel w.learned, valid := true }) w.learned) with maxId := nextModel w.learned } }

theorem fadeLeft_swaps (f : MFade) (frame : W32) (w : Watch) :
    (fadeLeft f frame w).fade = none ∧ (fadeLeft f frame w).conds = w.conds ∧ (fadeLeft f frame w).image = w.image ∧
      (fadeLeft f frame w).learned.liveY = (!w.learned.liveY) ∧
      (f.rollback = false → (fadeLeft f frame w).learned.modelId = w.learned.maxId + 1 ∧ (fadeLeft f frame w).learned.maxId = w.learned.maxId + 1) ∧
      (f.rollback = true → (fadeLeft f frame w).learned.modelId = (otherArea w.learned).id ∧ (fadeLeft f frame w).learned.maxId = w.learned.maxId) ∧
      (otherArea (fadeLeft f frame w).learned).id = w.learned.modelId ∧ (otherArea (fadeLeft f frame w).learned).valid = true ∧
      (fadeLeft f frame w).learned.t = w.learned.t := by
  unfold fadeLeft
  cases hr : f.rollback with
  | true =>
    obtain ⟨h1, h2, h3, h4, h5, h6⟩ := swapAreas_swaps w.learned
    exact ⟨rfl, rfl, rfl, h1, (fun h => nomatch h), fun _ => ⟨h2, h5⟩, h3, h4, h6⟩
  | false =>
    obtain ⟨h1, h2, h3, h4, -, h6⟩ := swapAreas_swaps (setOther (fun a => { a with id := nextModel w.learned, valid := true }) w.learned)
    obtain ⟨k1, k2, k3, k4⟩ := setOther_keeps (fun a => { a with id := nextModel w.learned, valid := true }) w.learned
    rw [otherArea_setOther] at h2
    exact ⟨rfl, rfl, rfl, h1.trans (congrArg not k1), fun _ => ⟨h2, rfl⟩, (fun h => nomatch h), h3.trans k2, h4, h6.trans k4⟩

/-- WATCH_FADE_END of a fade whose frames are over. -/
theorem watchFadeEnd_ends {f : MFade} {s : State} (hf : s.watch.fade = some f) (hfirst : s.tick.inFrame = 0)
    (hwait : watchWaits s = false) (hlen : f.len ≤ (s.tick.frame - f.start).toNat) (hq : s.fm.descQueue = []) :
    ∃ u, FwAsks false (setWatch (fadeLeft f s.tick.frame) s) u ∧
      watchFadeEnd s = oweEvent .fadeEnd s.watch.learned.modelId s.watch.severity 0 (if f.reseed then reseedCandidate u else u) := by
  refine ⟨_, writeScalars_fwAsks (.nil hq), ?_⟩
  rw [watchFadeEnd, if_neg (by simp [hfirst, hwait]), fadeEnd, hf]
  exact if_neg (by omega)

/-! ## Signed envelopes (R409, R466 to R469) -/

/-- The field bus and the commands that wait for it. -/
def BusOnly (s t : State) : Prop := ∃ ps m c, t = { s with bus := { s.bus with ports := ps }, mbx := m, ctr := c }

theorem BusOnly.trans {s t u : State} (h : BusOnly s t) (k : BusOnly t u) : BusOnly s u := by
  obtain ⟨_, _, _, rfl⟩ := h
  obtain ⟨_, _, _, rfl⟩ := k
  exact ⟨_, _, _, rfl⟩

theorem hostDropped_bus (q : FbQ) (s : State) : BusOnly s (hostDropped q s) := by
  unfold hostDropped
  split
  · obtain ⟨m, h⟩ := finish_frame (fun a => match a with | .fbSend _ m => m == _ | _ => false) .internal 0 s
    exact ⟨_, m, _, h⟩
  · exact ⟨_, _, _, rfl⟩

theorem bump_busOnly (off : Nat) (s : State) : BusOnly s (bump off s) := by
  obtain ⟨_, _, _, _, h⟩ := (bump_countsOnly off s).frame
  rw [h]
  exact ⟨_, _, _, rfl⟩

theorem fbQueue_bus (p : Nat) (x : FbQ) (s : State) : BusOnly s (fbQueue p x s) := by
  unfold fbQueue
  extract_lets q
  split
  · exact ⟨_, _, _, rfl⟩
  · split
    · have h1 : BusOnly s (setPort p (fun y => { y with txq := y.txq.erase ‹FbQ› ++ [x] }) s) := ⟨_, _, _, rfl⟩
      exact (h1.trans (bump_busOnly _ _)).trans (hostDropped_bus _ _)
    · exact (bump_busOnly _ _).trans (hostDropped_bus _ _)

theorem fbRoute_bus (kind : Nat) (body : List Byte) (s : State) : BusOnly s (fbRoute kind body s) := by
  unfold fbRoute
  extract_lets ports
  exact List.foldlRecOn (motive := fun t => BusOnly s t) _ _ ⟨_, _, _, rfl⟩ fun t ht p _ => ht.trans (fbQueue_bus _ _ t)

/-- A report that is posted: its bytes, then the producer count. -/
theorem postReport_posts (bs : List Byte) (s : State) : ∃ r h m, postReport bs s = { s with rring := r, host := h, mbx := m } ∧
    (s.rring.on = true → ringFull s.rring = false → r.prod = s.rring.prod + 1 ∧
      h = memWriteN 0 (memWriteN 0 s.host (s.rring.base.toNat + 2 ^ s.rring.entryLog2 * (s.rring.prod.toNat % 2 ^ s.rring.entriesLog2)) bs)
        s.rring.index.toNat (leBytes 4 (s.rring.prod + 1).toNat)) ∧
    (s.rring.on = false → r = s.rring ∧ h = s.host) := by
  unfold postReport ringPost
  cases hon : s.rring.on with
  | false =>
    rw [if_pos (by rfl)]
    exact ⟨_, _, _, rfl, (fun h => nomatch h), fun _ => ⟨rfl, rfl⟩⟩
  | true =>
    rw [if_neg (by decide)]
    cases hfull : ringFull s.rring with
    | true =>
      rw [if_pos rfl]
      exact ⟨_, _, _, rfl, (fun _ h => nomatch h), fun h => nomatch h⟩
    | false =>
      rw [if_neg (by decide)]
      dsimp -zeta only
      extract_lets p s1 s2 since due
      cases due with
      | true => exact ⟨_, _, _, rfl, (fun _ _ => ⟨rfl, rfl⟩), fun h => nomatch h⟩
      | false => exact ⟨_, _, _, rfl, (fun _ _ => ⟨rfl, rfl⟩), fun h => nomatch h⟩

end Sys2Proof.Machine
end

section
/-! PROOFS. The watch's own events (R286 to R319). -/

namespace Sys2Proof.Machine
open Sys2Proof Sys2Proof.Safety

theorem decide_and_of_right (b : Bool) {p : Prop} [Decidable (b = true ∧ p)] (h : p) : decide (b = true ∧ p) = b := by
  cases b <;> simp [h]

/-- Settles O38: each event by the lemma of its function, its transfers by `FwAsks`. In the statement of CONDITION_REPORT the frame stands under the
`fun` of `dropWhile`, where it holds as well. -/
theorem watchEvents : Obligations.WatchEvents := by
  refine ⟨fun g delay im k s him hrun hmet hfirst hup hframe hq => ?_, fun j im s him hrun htier hbatch hidle hq => ?_,
    fun j im s him hrun htier ht hevery hnew hidle hpromo hcopy hq => ?_, fun im s him hrun hpromo hfade hsnap hbound hq => ?_,
    fun s hrun hcopied hbound hfade hdone hwait hq => ?_, fun f im s him hf hfirst hwait hlen hq => ?_, fun k v s hup hfind => ?_, fun e rest s hup henv => ?_⟩
  · obtain ⟨s3, s4, hasks, ⟨_, _, _, _, _, _, _, h4⟩, hexec⟩ := watchTransition_moves him hrun hmet hfirst hup hframe hq
    obtain ⟨l, n, hbase, hid, htt, hreg, hvars⟩ := transitionBase_frame g im s
    have h3 := hasks.areas
    have hw : s3.watch = { s.watch with learned := l } := by
      rw [h3, hbase]
    have hself : tabGet {} l.regimes g = regimeNext s im (regOfWatch s g) := by
      rw [hreg]
      exact tabGet_tabSet_self _ _ _ _
    have hw4 : s4.watch = s3.watch := by rw [h4]
    refine ⟨_, _, congrArg Host.Outcome.next hexec, ?_, ?_, ?_, ?_, fun hst => ?_, fun hst f hf => ?_, fun j hj => ?_, congrArg (· ++ _) ?_, rfl, ?_, ?_, ?_⟩
    · change (tabGet {} s4.watch.learned.regimes g).st = _
      rw [hw4, hw, hself]
      rfl
    · change (tabGet {} s4.watch.learned.regimes g).elig = _
      rw [hw4, hw, hself]
      rfl
    · change (tabGet {} s4.watch.learned.regimes g).met = _
      rw [hw4, hw, hself]
      rfl
    · change (tabGet {} s4.watch.learned.regimes g).promoted = _
      rw [hw4, hw, hself]
      rfl
    · change (tabGet {} s4.watch.learned.regimes g).mu = _
      rw [hw4, hw, hself]
      unfold regimeNext
      rw [if_pos hst]
      rfl
    · change tabGet 0 s4.watch.learned.areaX.rv _ = _ ∧ tabGet 0 s4.watch.learned.areaY.rv _ = _
      rw [hw4, hw]
      exact hvars hst f hf
    · change tabGet {} s4.watch.learned.regimes j = _
      rw [hw4, hw, hreg]
      exact tabGet_tabSet_ne _ _ _ hj
    · rw [hw4, hw]
    · change s4.watch.learned.modelId = _
      rw [hw4, hw]
      exact hid
    · change s4.watch.learned.t = _
      rw [hw4, hw]
      exact htt
    · rw [h4, h3, hbase]
      rfl
  · have hasks := trainingTrigger_starts him hrun htier hbatch hidle hq
    have ht := hasks.areas
    have hseq : (trainingTrigger j s).seq = (startJob j s).seq := by rw [ht]; rfl
    have hjob : ∀ k, jobOf (trainingTrigger j s) k = jobOf (startJob j s) k := fun k => by rw [jobOf, hseq]; rfl
    obtain ⟨h1, h2⟩ := jobOf_startJob_self j s
    refine ⟨_, rfl, ?_, ?_, fun k hk => ?_, ?_⟩
    · rw [hjob, h1]
    · rw [hjob, h2]
    · rw [hjob, jobOf_startJob_ne s hk]
    · generalize trainingTrigger j s = t at *
      rw [ht]
      rfl
  · have hexec := evaluationTrigger_starts him hrun htier ht hevery hnew hidle hpromo hcopy
    obtain ⟨hasks, hall⟩ := takeSnapshot_asks (im := im) (s := setWatch (fun w => { w with evalOn := true, evalT := w.learned.t }) (startJob j s)) (.nil hq)
    have hframe := hasks.areasPower
    refine ⟨_, congrArg Host.Outcome.next hexec, ?_⟩
    generalize takeSnapshot im (setWatch (fun w => { w with evalOn := true, evalT := w.learned.t }) (startJob j s)) = t at *
    have hjob : ∀ k, jobOf t k = jobOf (startJob j s) k := fun k => by rw [hframe]; rfl
    obtain ⟨h1, h2⟩ := jobOf_startJob_self j s
    refine ⟨?_, ?_, fun k hk => ?_, hall, ?_⟩
    · rw [hjob, h1]
    · rw [hjob, h2]
    · rw [hjob, jobOf_startJob_ne s hk]
    · rw [hframe]
      rfl
  · obtain ⟨t, hexec, hasks, hall⟩ := promotion_copies him hrun hpromo hfade hsnap hbound hq
    have hframe := hasks.areasPower
    have hw : t.watch = { s.watch with
        promote := false
        copied := true
        learned := setOther (fun a => { a with valid := false, rv := promotedVars s im }) s.watch.learned } := by
      rw [hframe]
      rfl
    refine ⟨t, congrArg Host.Outcome.next hexec, ?_, ?_, ?_, ?_, ?_, ?_, hall, ?_⟩
    · rw [hw, otherArea_setOther]
    · rw [hw, liveArea_setOther]
    · rw [hw]
      exact (setOther_keeps _ _).2.1
    · rw [hw]
    · rw [hw]
    · rw [hw, otherArea_setOther]
    · rw [hframe]
      rfl
  · obtain ⟨u, hasks, hexec⟩ := watchFadeStart_starts hrun hcopied hbound hfade hdone hwait hq
    have hframe := hasks.areas
    refine ⟨_, { cause := .fadeStart, body := conditionBody .fadeStart u.watch.learned.modelId u.watch.severity 0 u },
      congrArg Host.Outcome.next hexec, rfl, ?_, ?_⟩
    · rw [hframe]
      rfl
    · rw [hframe]
      rfl
  · obtain ⟨u, hasks, hexec⟩ := watchFadeEnd_ends hf hfirst hwait hlen hq
    obtain ⟨hfade, hconds, himage, hlive, hnorm, hroll, hprev, hvalid, htt⟩ := fadeLeft_swaps f s.tick.frame s.watch
    have hu := hasks.areas
    have huw : u.watch = fadeLeft f s.tick.frame s.watch := by
      rw [hu]
      rfl
    cases hreseed : f.reseed with
    | false =>
      rw [hreseed, if_neg (by decide)] at hexec
      refine ⟨_, _, congrArg Host.Outcome.next hexec, ?_, congrArg (· ++ _) ?_, rfl, ?_, fun h => ?_, fun h => ?_, ?_, ?_, ?_, ?_⟩
      · exact (congrArg Watch.fade huw).trans hfade
      · rw [huw, hconds]
      · exact (congrArg (fun w : Watch => w.learned.liveY) huw).trans hlive
      · obtain ⟨h1, h2⟩ := hnorm h
        exact ⟨(congrArg (fun w : Watch => w.learned.modelId) huw).trans h1, (congrArg (fun w : Watch => w.learned.maxId) huw).trans h2⟩
      · obtain ⟨h1, h2⟩ := hroll h
        exact ⟨(congrArg (fun w : Watch => w.learned.modelId) huw).trans h1, (congrArg (fun w : Watch => w.learned.maxId) huw).trans h2⟩
      · exact (congrArg (fun w : Watch => (otherArea w.learned).id) huw).trans hprev
      · exact (congrArg (fun w : Watch => (otherArea w.learned).valid) huw).trans hvalid
      · exact (congrArg (fun w : Watch => w.learned.t) huw).trans htt
      · rw [hu]
        rfl
    | true =>
      rw [hreseed, if_pos rfl] at hexec
      have hui : u.watch.image = some im := by rw [huw, himage, him]
      obtain ⟨a, b, ⟨_, _, _, _, _, _, ha⟩, hb, hre⟩ := reseedCandidate_asks hui hasks.queue
      rw [hre] at hexec
      have hb := hb.areas
      have hbw : b.watch = fadeLeft f s.tick.frame s.watch := by
        rw [hb, ha]
        exact huw
      refine ⟨_, _, congrArg Host.Outcome.next hexec, ?_, congrArg (· ++ _) ?_, rfl, ?_, fun h => ?_, fun h => ?_, ?_, ?_, rfl, ?_⟩
      · exact (congrArg Watch.fade hbw).trans hfade
      · exact (congrArg Watch.conds hbw).trans hconds
      · exact (congrArg (fun w : Watch => w.learned.liveY) hbw).trans hlive
      · obtain ⟨h1, h2⟩ := hnorm h
        exact ⟨(congrArg (fun w : Watch => w.learned.modelId) hbw).trans h1, (congrArg (fun w : Watch => w.learned.maxId) hbw).trans h2⟩
      · obtain ⟨h1, h2⟩ := hroll h
        exact ⟨(congrArg (fun w : Watch => w.learned.modelId) hbw).trans h1, (congrArg (fun w : Watch => w.learned.maxId) hbw).trans h2⟩
      · exact (congrArg (fun w : Watch => (otherArea w.learned).id) hbw).trans hprev
      · exact (congrArg (fun w : Watch => (otherArea w.learned).valid) hbw).trans hvalid
      · rw [hb, ha, hu]
        rfl
  · have hbody : conditionReport k s = setWatch (fun w => { w with
        conds := w.conds.erase v
        envQ := (w.envQ.takeWhile fun x => x.cond) ++ { cond := true, cfg := s.trust.cfgTick, body := v.body } :: w.envQ.dropWhile fun x => x.cond }) s := by
      rw [conditionReport, if_neg (by simp [hup]), hfind]
    refine ⟨_, congrArg Host.Outcome.next hbody, rfl, congrArg (fun p => (s.watch.envQ.takeWhile fun x => x.cond) ++
      { cond := true, cfg := s.trust.cfgTick, body := v.body } :: s.watch.envQ.dropWhile p) (funext fun x => ?_)⟩
    exact (decide_and_of_right x.cond rfl).symm
  · have hbody : envelopeSigned s = fbRoute (if e.cond then 1 else 2) (envelopeHead s e ++ e.body ++ beBytes 96 (aliasSign s (envelopeHead s e ++ e.body)).toNat)
        (postReport (envelopeHead s e ++ e.body ++ beBytes 96 (aliasSign s (envelopeHead s e ++ e.body)).toNat)
          (draw (setWatch (fun w => { w with envQ := rest, rseq := w.rseq + 1 }) s))) := by
      rw [envelopeSigned, henv]
    have hexec : exec .envelopeSigned s = .next (envelopeSigned s) := congrArg Host.Outcome.next (if_neg (by simp [hup]))
    rw [hbody] at hexec
    generalize envelopeHead s e ++ e.body ++ beBytes 96 (aliasSign s (envelopeHead s e ++ e.body)).toNat = bytes at *
    obtain ⟨r, host, m, hpost, hon, hoff⟩ := postReport_posts bytes (draw (setWatch (fun w => { w with envQ := rest, rseq := w.rseq + 1 }) s))
    obtain ⟨_, _, _, hroute⟩ := fbRoute_bus (if e.cond then 1 else 2) bytes (postReport bytes (draw (setWatch (fun w => { w with envQ := rest, rseq := w.rseq + 1 }) s)))
    rw [hroute, hpost] at hexec
    exact ⟨_, hexec, rfl, hon, hoff, rfl⟩

end Sys2Proof.Machine
end

section
/-! PROOFS. PROOFS. What the front-end die reads as it starts (R66, R339, R347, R370). -/

namespace Sys2Proof.Machine
open Sys2Proof Sys2Proof.Safety

/-! ## What the front-end die reads as it starts (R66, R339, R347, R370) -/

/-- The store is read: its controller, counters, interrupts and the log may change; its cells stay, and it does not fail. -/
structure StoreRead (s t : State) : Prop where
  frame : ∃ v e i x c l n, t = { s with
    nv := v
    mbx := { s.mbx with errSum := e, intStatus := i, msix := x }
    ctr := c
    boot := { s.boot with log := l, logSeq := n } }
  mem : t.nv.mem = s.nv.mem
  powerFail : t.nv.powerFail = s.nv.powerFail

namespace StoreRead

variable {s t u : State}

theorem refl (s : State) : StoreRead s s := ⟨⟨_, _, _, _, _, _, _, rfl⟩, rfl, rfl⟩

theorem trans (h : StoreRead s t) (k : StoreRead t u) : StoreRead s u := by
  obtain ⟨⟨_, _, _, _, _, _, _, rfl⟩, hm, hp⟩ := h
  obtain ⟨⟨_, _, _, _, _, _, _, rfl⟩, km, kp⟩ := k
  exact ⟨⟨_, _, _, _, _, _, _, rfl⟩, km.trans hm, kp.trans hp⟩

theorem foldl {α : Type} {g : State → α → State} (hg : ∀ t x, StoreRead t (g t x)) (xs : List α) (s : State) : StoreRead s (xs.foldl g s) := by
  induction xs generalizing s with
  | nil => exact .refl s
  | cons x xs ih => exact (hg s x).trans (ih _)

theorem ite {c : Prop} [Decidable c] (h : StoreRead s t) (k : StoreRead s u) : StoreRead s (if c then t else u) := by
  split
  · exact h
  · exact k

/-- The controller alone changes. -/
theorem setNv {f : Nv → Nv} (hm : (f s.nv).mem = s.nv.mem) (hp : (f s.nv).powerFail = s.nv.powerFail) : StoreRead s (setNv f s) :=
  ⟨⟨_, _, _, _, _, _, _, rfl⟩, hm, hp⟩

end StoreRead

theorem CountsOnly.storeRead {s t : State} (h : CountsOnly s t) : StoreRead s t := by
  obtain ⟨_, _, _, _, rfl⟩ := h.frame
  exact ⟨⟨_, _, _, _, _, _, _, rfl⟩, rfl, rfl⟩

theorem Logged.storeRead {s t : State} (h : Logged s t) : StoreRead s t := by
  obtain ⟨_, _, _, _, _, _, _, rfl⟩ := h.frame
  exact ⟨⟨_, _, _, _, _, _, _, rfl⟩, rfl, rfl⟩

theorem nvCheck_storeRead (a n : Nat) (s : State) : StoreRead s (nvCheck a n s) := (nvCheck_countsOnly a n s).storeRead

theorem recPickNow_storeRead (k : Nat) (s : State) : StoreRead s (recPickNow k s) := by
  have hpick : StoreRead s (setNv (fun v => { v with picks := tabSet v.picks k (recChoose s k) })
      (nvCheck (recAddr k true) (16 + recLen k) (nvCheck (recAddr k false) (16 + recLen k) s))) :=
    ((nvCheck_storeRead _ _ _).trans (nvCheck_storeRead _ _ _)).trans (.setNv rfl rfl)
  unfold recPickNow
  dsimp only
  refine .ite ?_ hpick
  exact (hpick.trans (CountsOnly.ctrSet (bump_countsOnly _ _) _ _).storeRead).trans (logEvent_logged _ _ _ _ _).storeRead

theorem imgRecall_storeRead (s : State) : StoreRead s (imgRecall s) := by
  obtain ⟨t, torn, ht, h⟩ := imgRecall_eq s
  rw [h]
  exact ht.storeRead.trans (.setNv rfl rfl)

/-- The log region is read, and the image follows (R361, R365). -/
theorem logScan_storeRead (page : Nat) (s : State) : StoreRead s
    (let s4 := (logPages s).foldl (fun t p => nvCheck (pageAddr p) 256 t) (setNv (fun v => { v with logPage := page }) s)
      if s4.nv.image then imgRecall s4 else s4) := by
  have h4 : StoreRead s ((logPages s).foldl (fun t p => nvCheck (pageAddr p) 256 t) (setNv (fun v => { v with logPage := page }) s)) :=
    .trans (.setNv rfl rfl) (.foldl (fun _ _ => nvCheck_storeRead _ _ _) _ _)
  exact .ite (h4.trans (imgRecall_storeRead _)) h4

theorem settings_storeRead (l : Nat) (i a : Bool) (s : State) :
    StoreRead s (setNv (fun v => { v with level := l, image := i, autostore := a }) s) := .setNv rfl rfl

/-- The checks at the start, and the copies chosen (R339, R347). -/
theorem copiesChosen_storeRead (s : State) (ks : List Nat) :
    StoreRead s (ks.foldl (fun t k => recPickNow k t) (nvCheck 0x10000 0x2000 (nvCheck 0 256 s))) :=
  ((nvCheck_storeRead _ _ _).trans (nvCheck_storeRead _ _ _)).trans (.foldl (fun t k => recPickNow_storeRead k t) _ _)

/-- As the store's controller starts, the cells stay, and nothing of a power failure is left. The large states stay arguments of lemmas:
the kernel must not compare their fields. -/
theorem storeUp_storeRead (s : State) : StoreRead (setNv (fun v => { mem := v.mem, flips := v.flips }) s) (storeUp s) := by
  rw [storeUp]
  rcases logNext _ with ⟨page, _⟩
  refine StoreRead.trans ?_ (logScan_storeRead page _)
  split
  · exact (copiesChosen_storeRead _ _).trans (settings_storeRead _ _ _ _)
  · exact copiesChosen_storeRead _ _

/-- Right after a start of the front-end die. -/
structure FrontEndUp (src : ResetSrc) (power : Bool) (s t : State) : Prop where
  stage : t.boot.stage = .reset
  cause : t.boot.cause = src
  extest : t.boot.extest = s.boot.extest
  alive : feAlive t = true
  powerFail : t.nv.powerFail = false
  cells : t.nv.mem = s.nv.mem
  flash : t.boot.flash = s.boot.flash
  /-- The stored configuration is in force. -/
  cfg : t.fe.cfg = (match recBody t 25 with | some b => configOf b | none => {})
  seq : t.seq = {}
  fm : t.fm = {}
  dram : t.dram = {}
  own : t.mbx.own = 0
  hello : t.mbx.hello = none
  host : t.host = s.host
  part : t.part = s.part
  tick : t.tick = if power then {} else (computeReset src s).tick

theorem recBody_congr {s t : State} (h : t.nv = s.nv) (k : Nat) : recBody t k = recBody s k := by
  cases s; cases t; cases h; rfl

theorem feOf_cfg {s t : State} (h : t.nv = s.nv) : (feOf s).cfg = (match recBody t 25 with | some b => configOf b | none => {}) := by
  rw [recBody_congr h]
  unfold feOf
  rcases calTables s with ⟨cal, ratios⟩
  rcases recBody s 25 with _ | b
  · rfl
  · rfl

theorem dieCleared_eq (power : Bool) (s : State) : ∃ k c,
    (if power then { s with tick := {}, ctr := [], smb := {} } else { s with smb := {} }) = { s with tick := k, ctr := c, smb := {} } ∧
      k = if power then {} else s.tick := by
  cases power
  · exact ⟨_, _, rfl, rfl⟩
  · exact ⟨_, _, rfl, rfl⟩

/-- The parts of the front-end die take up what its store holds. -/
theorem partsTaken_up {src : ResetSrc} {power : Bool} {s t : State} {b : Bus} (hb : b.vholdOk = true) (h : StoreRead
      (setNv (fun v => { mem := v.mem, flips := v.flips }) (setBus (fun b => { b with vholdOk := true }) (if power then
        { computeReset src s with tick := {}, ctr := [], smb := {} } else { computeReset src s with smb := {} }))) t)
    (o : Bool) (l : Links) (r : Trust) (sel : BootSel) (n : W32) : FrontEndUp src power s { t with
      fe := feOf t, bus := { b with vhoOk := o }, links := l, trust := r, boot := { t.boot with sel := sel, logSeq := n } } := by
  obtain ⟨k, c, h2, hk⟩ := dieCleared_eq power (computeReset src s)
  rw [h2] at h
  obtain ⟨⟨v, _, _, _, _, _, _, rfl⟩, hm, hp⟩ := h
  exact ⟨rfl, rfl, rfl, hb, hp, hm, rfl, feOf_cfg rfl, rfl, rfl, rfl, rfl, rfl, rfl, rfl, hk⟩

theorem frontEndUp_up (src : ResetSrc) (power : Bool) (s : State) : FrontEndUp src power s (frontEndUp src power s) := by
  rw [frontEndUp]
  generalize hx : setBus _ _ = x
  have h := storeUp_storeRead x
  generalize storeUp x = t at h ⊢
  subst hx
  refine partsTaken_up ?_ h _ _ _ _ _
  split
  · rfl
  · rfl

end Sys2Proof.Machine
end

section
/-! PROOFS. PROOFS. What a start of the compute die takes up, and the firmware slot that it takes (R453, R494, R498, R499). -/

namespace Sys2Proof.Machine
open Sys2Proof Sys2Proof.Safety

/-! ## The stage, and what a start of the compute die leaves (R453, R494, R498, R499) -/

theorem raiseInt_frame (b : Nat) (s : State) : ∃ e i x, raiseInt b s = { s with mbx := { s.mbx with errSum := e, intStatus := i, msix := x } } := by
  unfold raiseInt msixSend
  dsimp only
  split
  · exact ⟨_, _, _, rfl⟩
  · split
    · exact ⟨_, _, _, rfl⟩
    · exact ⟨_, _, _, rfl⟩

theorem setStage_frame (st : Stage) (s : State) : ∃ e i x m, setStage st s = { s with
    boot := { s.boot with stage := st }
    mbx := { s.mbx with errSum := e, intStatus := i, msix := x }
    smb := m } := by
  unfold setStage
  split
  · rename_i h
    subst h
    exact ⟨_, _, _, _, rfl⟩
  · obtain ⟨e, i, x, h⟩ := raiseInt_frame 0 (setBoot (fun b => { b with stage := st }) s)
    rw [h]
    obtain ⟨m, hm⟩ := smbCopy_eq { setBoot (fun b => { b with stage := st }) s with mbx := { s.mbx with errSum := e, intStatus := i, msix := x } }
    exact ⟨e, i, x, m, hm⟩

/-- What a start of the compute die changes as it reads and writes the store, counts and logs. -/
structure StartKeeps (s t : State) : Prop where
  frame : ∃ v e i x c f sel l n a b, t = { s with
    nv := v
    mbx := { s.mbx with errSum := e, intStatus := i, msix := x }
    ctr := c
    free := f
    boot := { s.boot with sel := sel, log := l, logSeq := n, okA := a, okB := b } }

namespace StartKeeps

variable {s t u : State}

theorem refl (s : State) : StartKeeps s s := ⟨_, _, _, _, _, _, _, _, _, _, _, rfl⟩

theorem trans (h : StartKeeps s t) (k : StartKeeps t u) : StartKeeps s u := by
  obtain ⟨_, _, _, _, _, _, _, _, _, _, _, rfl⟩ := h
  obtain ⟨_, _, _, _, _, _, _, _, _, _, _, rfl⟩ := k
  exact ⟨_, _, _, _, _, _, _, _, _, _, _, rfl⟩

theorem ite {c : Prop} [Decidable c] (h : StartKeeps s t) (k : StartKeeps s u) : StartKeeps s (if c then t else u) := by
  split
  · exact h
  · exact k

theorem setNv (f : Nv → Nv) (s : State) : StartKeeps s (setNv f s) := ⟨_, _, _, _, _, _, _, _, _, _, _, rfl⟩

theorem draw (s : State) : StartKeeps s (draw s) := ⟨_, _, _, _, _, _, _, _, _, _, _, rfl⟩

theorem slotMark (b ok : Bool) (s : State) : StartKeeps s (slotMark b ok s) := by
  cases b
  · exact ⟨_, _, _, _, _, _, _, _, _, _, _, rfl⟩
  · exact ⟨_, _, _, _, _, _, _, _, _, _, _, rfl⟩

theorem sel (b : BootSel) (s : State) : StartKeeps s (setBoot (fun x => { x with sel := b }) s) :=
  ⟨_, _, _, _, _, _, _, _, _, _, _, rfl⟩

end StartKeeps

theorem StoreRead.startKeeps {s t : State} (h : StoreRead s t) : StartKeeps s t := by
  obtain ⟨_, _, _, _, _, _, _, rfl⟩ := h.frame
  exact ⟨_, _, _, _, _, _, _, _, _, _, _, rfl⟩

theorem AroundCopy.startKeeps {a n : Nat} {s t : State} (h : AroundCopy a n s t) : StartKeeps s t := by
  obtain ⟨_, _, _, _, _, _, _, _, _, _, _, _, rfl⟩ := h.frame
  exact ⟨_, _, _, _, _, _, _, _, _, _, _, rfl⟩

theorem ctrScan_startKeeps (n : Nat) (s : State) : StartKeeps s (ctrScan n s) := (nvCheck_storeRead _ _ s).startKeeps

theorem cellProgram_startKeeps (n i v g : Nat) (s : State) : StartKeeps s (cellProgram n i v g s) :=
  ((nvPut_aroundCopy rfl s).trans (nvWear_aroundCopy _ _ _ _)).startKeeps

theorem spreadWrite_startKeeps (n v : Nat) (s : State) : StartKeeps s (spreadWrite n v s) := by
  unfold spreadWrite
  split
  · exact cellProgram_startKeeps _ _ _ _ s
  · exact ((nvWear_aroundCopy 0 0 2 s).startKeeps.trans (.setNv _ _)).trans (cellProgram_startKeeps _ _ _ _ _)

theorem spreadIncr_startKeeps (n : Nat) (s : State) : StartKeeps s (spreadIncr n s) := by
  unfold spreadIncr
  split
  · exact .ite (.refl s) (spreadWrite_startKeeps _ _ s)
  · exact .ite (.refl s) (spreadWrite_startKeeps _ _ s)

theorem selWrite_startKeeps (b : BootSel) (s : State) : StartKeeps s (selWrite b s) := by
  have h := (recWriteNow_aroundCopy 27 (leBytes 64 (selBits b)) (freeOks s) s).startKeeps
  unfold selWrite
  rcases hr : recWriteNow 27 (leBytes 64 (selBits b)) (freeOks s) s with ⟨ok, t⟩
  rw [hr] at h
  exact (StartKeeps.ite (h.trans (.sel b t)) h).trans (.draw _)

theorem selFlush_startKeeps (s : State) : StartKeeps s (selFlush s) := by
  unfold selFlush
  dsimp only
  exact .ite (((StartKeeps.setNv _ s).trans (selWrite_startKeeps _ _)).trans (.setNv _ _)) (.refl s)

theorem slotPick_startKeeps (s : State) : StartKeeps s (slotPick s).2 := by
  unfold slotPick
  dsimp only
  split
  · dsimp only
    exact (selWrite_startKeeps _ s).trans (logEvent_logged _ _ _ _ _).storeRead.startKeeps
  · split
    · exact selWrite_startKeeps _ s
    · exact .refl s

theorem slotScan_startKeeps (b : Bool) (s : State) : StartKeeps s (slotScan b s) := by
  unfold slotScan verifyScan
  dsimp only
  split
  · exact ctrScan_startKeeps _ s
  · exact ctrScan_startKeeps _ s
  · exact .refl s

theorem slotOk_slotMark (b ok : Bool) (s : State) : slotOk (slotMark b ok s) b = ok := by cases b <;> rfl

/-- The slot that is taken is marked verified (R498). -/
theorem slotSelect_startKeeps (s : State) : StartKeeps s (slotSelect s).2 ∧
    ∀ b, (slotSelect s).1 = some b → slotOk (slotSelect s).2 b = true := by
  have hpick := slotPick_startKeeps s
  unfold slotSelect
  rcases hp : slotPick s with ⟨b, s0⟩
  rw [hp] at hpick
  dsimp only
  have h1 : StartKeeps s (slotScan b s0) := hpick.trans (slotScan_startKeeps b s0)
  have hbad := (h1.trans (.slotMark b false _)).trans (slotScan_startKeeps (!b) _)
  split
  · exact ⟨h1.trans (.slotMark b true _), fun c hc => by cases hc; exact slotOk_slotMark b true _⟩
  · split
    · exact ⟨(hbad.trans (selWrite_startKeeps _ _)).trans (.slotMark (!b) true _), fun c hc => by cases hc; exact slotOk_slotMark (!b) true _⟩
    · exact ⟨hbad.trans (.slotMark (!b) false _), fun c hc => nomatch hc⟩

/-- What a start of the compute die takes up, and what it leaves. -/
structure DieStarted (s t : State) : Prop where
  cores : t.boot.cores = 1
  vCore : t.power.vCore = s.part.fusedMv
  debug : t.trust.debug = s.trust.debugNext
  flash : t.boot.flash = s.boot.flash
  fe : t.fe = s.fe
  host : t.host = s.host
  tick : t.tick = s.tick
  fm : t.fm = s.fm
  dram : t.dram = s.dram

theorem DieStarted.keeps {s t u : State} (h : DieStarted s t) (k : StartKeeps t u) : DieStarted s u := by
  obtain ⟨_, _, _, _, _, _, _, _, _, _, _, rfl⟩ := k
  exact ⟨h.cores, h.vCore, h.debug, h.flash, h.fe, h.host, h.tick, h.fm, h.dram⟩

theorem StartKeeps.stage {s t : State} (h : StartKeeps s t) : t.boot.stage = s.boot.stage := by
  obtain ⟨_, _, _, _, _, _, _, _, _, _, _, rfl⟩ := h.frame
  rfl

/-- The trust state with an owner page read. -/
def ownerTaken (o : Nat) (d : W32) (k : BitVec 384) (s : State) : State :=
  setTrust (fun t => { t with owner := o, enrolled := false, ownerId := d, keyHash := k }) s

theorem readOwner_eq (s : State) : ∃ t o d k, CountsOnly s t ∧ readOwner s = ownerTaken o d k t :=
  ⟨_, _, _, _, nvCheck_countsOnly 0 256 s, rfl⟩

theorem DieStarted.ownerTaken {s t : State} (h : DieStarted s t) (o : Nat) (d : W32) (k : BitVec 384) : DieStarted s (ownerTaken o d k t) :=
  ⟨h.cores, h.vCore, h.debug, h.flash, h.fe, h.host, h.tick, h.fm, h.dram⟩

/-- The error groups kept, the seed, the core voltage and the debug state taken up (R150, R465, R520, R533). -/
def chipStarted (s : State) : State :=
  setTrust (fun t => { t with debug := t.debugNext, debugNext := false })
    (setPower (fun w => { w with vCore := s.part.fusedMv }) (draw (setSeq (fun q => { q with seed := Config.freeW64 s.free })
      (setMbx (fun m => { m with errSum := s.mbx.errSum &&& 0xE00 }) s))))

theorem startState_eq (s : State) : startState s = readOwner (chipStarted s) := rfl

/-- What the compute die takes up reads the part, the debug state of the next start and the owner page. -/
theorem startState_started {s t : State} (hcores : t.boot.cores = 1) (hpart : t.part = s.part)
    (hdebug : t.trust.debugNext = s.trust.debugNext) (hflash : t.boot.flash = s.boot.flash) (hfe : t.fe = s.fe) (hhost : t.host = s.host)
    (htick : t.tick = s.tick) (hfm : t.fm = s.fm) (hdram : t.dram = s.dram) :
    DieStarted s (startState t) ∧ (startState t).boot.stage = t.boot.stage := by
  have hx : DieStarted s (chipStarted t) := ⟨hcores, congrArg Part.fusedMv hpart, hdebug, hflash, hfe, hhost, htick, hfm, hdram⟩
  obtain ⟨u, o, d, k, hu, howner⟩ := readOwner_eq (chipStarted t)
  have hk := hu.storeRead.startKeeps
  rw [startState_eq, howner]
  exact ⟨(hx.keeps hk).ownerTaken o d k, hk.stage⟩

theorem romStage_started {s t : State} (h : StartKeeps s t) :
    DieStarted s (startState (setStage .rom (setBoot (fun b => { b with cores := 1 }) t))) ∧
      (startState (setStage .rom (setBoot (fun b => { b with cores := 1 }) t))).boot.stage = .rom := by
  obtain ⟨_, _, _, _, _, _, _, _, _, _, _, rfl⟩ := h
  obtain ⟨_, _, _, _, hstage⟩ := setStage_frame .rom (setBoot (fun b => { b with cores := 1 }) _)
  rw [hstage]
  exact startState_started rfl rfl rfl rfl rfl rfl rfl rfl rfl

theorem haltNow_started {cause : Nat} {s t : State} (h : DieStarted s t) :
    DieStarted s (haltNow cause t) ∧ (haltNow cause t).boot.stage = .halted := by
  unfold haltNow
  obtain ⟨_, _, _, _, hstage⟩ := setStage_frame .halted (setBoot (fun b => { b with haltCause := cause, cores := 1, fwVer := 0 }) t)
  rw [hstage]
  have hlog := fun u => (logEvent_logged 0x0002 0 cause 0 u).storeRead.startKeeps
  refine ⟨DieStarted.keeps ?_ (hlog _), (hlog _).stage⟩
  exact ⟨rfl, h.vCore, h.debug, h.flash, h.fe, h.host, h.tick, h.fm, h.dram⟩

theorem formAlias_started {d : BitVec 384} {n : Nat} {b : Bool} {s t : State} (h : DieStarted s t) :
    DieStarted s (formAlias d n (setBoot (fun x => { x with slotB := b }) t)) :=
  ⟨h.cores, h.vCore, h.debug, h.flash, h.fe, h.host, h.tick, h.fm, h.dram⟩

theorem formAlias_slotOk (d : BitVec 384) (n : Nat) (b : Bool) (s : State) :
    slotOk (formAlias d n (setBoot (fun x => { x with slotB := b }) s)) (formAlias d n (setBoot (fun x => { x with slotB := b }) s)).boot.slotB =
      slotOk s b := rfl

theorem logged_slotOk {s t : State} (h : Logged s t) (b : Bool) : slotOk t b = slotOk s b := by
  obtain ⟨_, _, _, _, _, _, _, rfl⟩ := h.frame
  rfl

theorem computeDieStart_starts {s : State} (h : mayStart s = true) : DieStarted s (computeDieStart s) ∧
    ((computeDieStart s).boot.stage = .halted ∨
      (computeDieStart s).boot.stage = .rom ∧ slotOk (computeDieStart s) (computeDieStart s).boot.slotB = true) := by
  have h1 : StartKeeps s (spreadIncr 3 (ctrScan 3 (selFlush s))) :=
    ((selFlush_startKeeps s).trans (ctrScan_startKeeps 3 _)).trans (spreadIncr_startKeeps 3 _)
  obtain ⟨h2, hrom⟩ := romStage_started h1
  unfold computeDieStart
  rw [if_neg (by simp [h])]
  dsimp only
  generalize startState _ = s2 at *
  have h3 : StartKeeps s2 (if s2.mbx.errSum = 0 then s2 else raiseInt 1 s2) :=
    .ite (.refl s2) (raiseInt_logged 1 s2).storeRead.startKeeps
  generalize (if s2.mbx.errSum = 0 then s2 else raiseInt 1 s2) = s3 at *
  obtain ⟨h4, hok⟩ := slotSelect_startKeeps s3
  rcases hsel : slotSelect s3 with ⟨_ | b, s4⟩ <;> rw [hsel] at h4 hok <;> dsimp only
  · obtain ⟨hd, hs⟩ := haltNow_started (cause := _) ((h2.keeps (h3.trans h4)).keeps (logEvent_logged _ _ _ _ s4).storeRead.startKeeps)
    exact ⟨hd, .inl hs⟩
  · have h5 := (logEvent_logged 0x0001 0 (resetRow s.boot.cause) (b2n b) s4)
    refine ⟨formAlias_started ((h2.keeps (h3.trans h4)).keeps h5.storeRead.startKeeps), .inr ⟨?_, ?_⟩⟩
    · exact (((h3.trans h4).trans h5.storeRead.startKeeps).stage).trans hrom
    · exact (formAlias_slotOk _ _ _ _).trans ((logged_slotOk h5 b).trans (hok b rfl))

end Sys2Proof.Machine
end

section
/-! PROOFS. PROOFS. Front-end power, power failure and the stages of bring-up (R66, R368 to R371, R494 to R501). -/

namespace Sys2Proof.Machine
open Sys2Proof Sys2Proof.Safety

/-! ## Power failure (R368 to R371, R534) -/

/-- The front end stops with what a power failure drops, its calibration kept (Table 13-8). -/
def feStopped (s : State) : State := { s with fe := { vexcOk := s.fe.vexcOk, cal := s.fe.cal, ratios := s.fe.ratios } }

/-- Writes that have not started are dropped, and the outputs and ports go to their fault path (Table 13-8). -/
def failing (s : State) : State :=
  setBus (fun b => { b with
      outs := b.outs.map fun e => (e.1, { e.2 with path := .fault, pin := none })
      ports := b.ports.map fun e => (e.1, { e.2 with txq := [], plca := false, gptpOk := false })
      rs := none
      owed := none })
    (feStopped (setNv (fun v => { v with
      powerFail := true, queue := [], recQ := [], recRun := [], ctrQ := [], ctrRun := none, enrol := none, imgWaits := [], modeNext := none })
      (logEvent 0x0051 7 0 0 s)))

theorem powerFailDetect_eq {s : State} (halive : feAlive s = true) (hfail : s.nv.powerFail = false) : powerFailDetect s =
    computeReset .supplyReturn (if (failing s).nv.image && (failing s).nv.dirty && (failing s).nv.autostore && (failing s).nv.storing.isNone
      then imgStoreStart true (failing s) else failing s) := by
  rw [powerFailDetect, if_neg (by simp [halive, hfail])]
  rfl

/-- What a power failure leaves, whether an image store starts or not. -/
structure PowerFailed (s t : State) : Prop where
  powerFail : t.nv.powerFail = true
  queue : t.nv.queue = []
  recQ : t.nv.recQ = []
  recRun : t.nv.recRun = []
  ctrQ : t.nv.ctrQ = []
  ctrRun : t.nv.ctrRun = none
  enrol : t.nv.enrol = none
  imgWaits : t.nv.imgWaits = []
  modeNext : t.nv.modeNext = none
  planes : t.nv.planes = s.nv.planes
  ports : ∀ e ∈ t.bus.ports, e.2.txq = [] ∧ e.2.plca = false
  mem : t.nv.mem = s.nv.mem
  outs : ∀ e ∈ t.bus.outs, e.2.path = .fault
  host : t.host = s.host

theorem failing_failed (s : State) : PowerFailed s (failing s) := by
  obtain ⟨_, _, _, _, _, _, _, h⟩ := (logEvent_logged 0x0051 7 0 0 s).frame
  unfold failing
  rw [h]
  refine ⟨rfl, rfl, rfl, rfl, rfl, rfl, rfl, rfl, rfl, rfl, fun e he => ?_, rfl, fun e he => ?_, rfl⟩
  · obtain ⟨p, -, rfl⟩ := List.mem_map.mp he
    exact ⟨rfl, rfl⟩
  · obtain ⟨p, -, rfl⟩ := List.mem_map.mp he
    rfl

theorem PowerFailed.reset {s t : State} (h : PowerFailed s t) (src : ResetSrc) : PowerFailed s (computeReset src t) :=
  ⟨h.powerFail, h.queue, h.recQ, h.recRun, h.ctrQ, h.ctrRun, h.enrol, h.imgWaits, h.modeNext, h.planes, h.ports, h.mem, h.outs, h.host⟩

theorem PowerFailed.stored {s t : State} (h : PowerFailed s t) : PowerFailed s (imgStoreStart true t) :=
  ⟨h.powerFail, h.queue, h.recQ, h.recRun, h.ctrQ, h.ctrRun, h.enrol, h.imgWaits, h.modeNext, h.planes, h.ports, h.mem, h.outs, h.host⟩

theorem powerFailDetect_fails {s : State} (halive : feAlive s = true) (hfail : s.nv.powerFail = false) :
    PowerFailed s (powerFailDetect s) ∧ (powerFailDetect s).boot.stage = .reset ∧ (powerFailDetect s).seq = {} := by
  rw [powerFailDetect_eq halive hfail]
  refine ⟨PowerFailed.reset ?_ _, rfl, rfl⟩
  split
  · exact (failing_failed s).stored
  · exact failing_failed s

theorem failSequence_idle {s : State} (hplanes : s.nv.planes = []) (hstoring : s.nv.storing = none) : failSequence s = s := by
  rw [failSequence, hplanes, List.foldl_nil]
  rw [show (setNv (fun v => { v with planes := [] }) s).nv.storing = none from hstoring]
  exact congrArg (fun p => ({ s with nv := { s.nv with planes := p } } : State)) hplanes.symm

/-- A torn program changes the cells and what counts of them. -/
structure Torn (s t : State) : Prop where
  frame : ∃ v e i x c f, t = { s with
    nv := v
    mbx := { s.mbx with errSum := e, intStatus := i, msix := x }
    ctr := c
    free := f }

theorem Torn.refl (s : State) : Torn s s := ⟨_, _, _, _, _, _, rfl⟩

theorem Torn.trans {s t u : State} (h : Torn s t) (k : Torn t u) : Torn s u := by
  obtain ⟨_, _, _, _, _, _, rfl⟩ := h
  obtain ⟨_, _, _, _, _, _, rfl⟩ := k
  exact ⟨_, _, _, _, _, _, rfl⟩

theorem torn_torn (bs : List (Nat × Byte)) (s : State) : Torn s (torn bs s) := by
  unfold torn
  extract_lets kept bad
  obtain ⟨t, ht, he⟩ := nvPut_eq kept s
  obtain ⟨_, _, _, _, rfl⟩ := ht
  rw [he]
  exact ⟨_, _, _, _, _, _, rfl⟩

/-- The front-end die stopped. -/
def dieStopped (s : State) : State :=
  { setNv (fun v => { mem := v.mem, flips := v.flips, powerFail := true }) s with
    fe := { vexcOk := s.fe.vexcOk }
    bus := { vhoOk := s.bus.vhoOk, vholdOk := false }
    smb := {} }

/-- Programs and an image store that still run are torn, and the die stops. -/
theorem supplyCollapse_eq {s : State} (halive : feAlive s = true) (hfail : s.nv.powerFail = true) : ∃ t, Torn s t ∧
    supplyCollapse s = dieStopped t ∧ (s.nv.planes = [] → s.nv.storing = none → t = s) := by
  rw [supplyCollapse, if_neg (by simp [halive, hfail])]
  extract_lets s1 s2 s3
  have h1 : Torn s s1 := List.foldlRecOn (motive := fun t => Torn s t) _ _ (.refl s) fun t ht e _ => ht.trans (torn_torn e.2.bytes t)
  have hplanes : s.nv.planes = [] → s1 = s := fun h => by simp only [s1, h, List.foldl_nil]
  refine ⟨s2, ?_, rfl, fun hp hs => ?_⟩
  · simp only [s2]
    split
    · exact h1.trans (torn_torn _ s1)
    · exact h1
  · simp only [s2, hplanes hp, hs]

theorem supplyCollapse_stops {s : State} (halive : feAlive s = true) (hfail : s.nv.powerFail = true) :
    feAlive (supplyCollapse s) = false ∧ (supplyCollapse s).nv.planes = [] ∧ (supplyCollapse s).fe.cfg = {} ∧
      (supplyCollapse s).smb.out = none ∧ (supplyCollapse s).host = s.host ∧ (supplyCollapse s).boot.flash = s.boot.flash ∧
      (s.nv.planes = [] → s.nv.storing = none → (supplyCollapse s).nv.mem = s.nv.mem) := by
  obtain ⟨t, ht, he, hsame⟩ := supplyCollapse_eq halive hfail
  rw [he]
  have hmem : s.nv.planes = [] → s.nv.storing = none → t.nv.mem = s.nv.mem := fun hp hs => congrArg (·.nv.mem) (hsame hp hs)
  obtain ⟨_, _, _, _, _, _, rfl⟩ := ht
  exact ⟨rfl, rfl, rfl, rfl, rfl, rfl, hmem⟩

/-! ## Bring-up (R321 to R323, R498 to R501, Table 19-3) -/

theorem fwStartStage_starts {s : State} (h : s.boot.stage = .rom) : ∃ t, exec .fwStartStage s = .next t ∧ t.boot.stage = .fwStart ∧
    t.boot.cores = 15#4 ∧ t.boot.fwVer = Config.fwVersion (slotImage s s.boot.slotB) ∧ t.seq = s.seq ∧ t.fe = s.fe ∧ t.nv = s.nv ∧
    t.dram = s.dram := by
  have he : exec .fwStartStage s = .next (fwStartStage s) := rfl
  rw [he, fwStartStage, if_neg (by simp [h])]
  obtain ⟨_, _, _, _, hs⟩ := setStage_frame .fwStart (setBoot (fun b => { b with cores := 15, fwVer := Config.fwVersion (slotImage s b.slotB) }) s)
  rw [hs]
  exact ⟨_, rfl, rfl, rfl, rfl, rfl, rfl, rfl, rfl⟩

theorem haltNow_eq (cause : Nat) (s : State) : ∃ t m, Logged { s with
    boot := { s.boot with haltCause := cause, cores := 1, fwVer := 0, stage := .halted }, smb := m } t ∧ haltNow cause s = t := by
  obtain ⟨e, i, x, m, hs⟩ := setStage_frame .halted (setBoot (fun b => { b with haltCause := cause, cores := 1, fwVer := 0 }) s)
  refine ⟨_, m, ?_, rfl⟩
  unfold haltNow
  rw [hs]
  exact Logged.trans ⟨_, _, _, e, i, x, _, rfl⟩ (logEvent_logged _ _ _ _ _)

theorem dramTrainingEnd_ends (failed : BitVec 16) (d : List Nat) {s : State} (hstage : s.boot.stage = .fwStart) (htrained : s.dram.trained = false) :
    (match failingChannel failed d with
      | some n => (dramTrainingEnd failed d s).boot.stage = .halted ∧ (dramTrainingEnd failed d s).boot.haltCause = 3 ∧
          (dramTrainingEnd failed d s).dram.trainFail = true ∧ (dramTrainingEnd failed d s).dram.failCh = n
      | none => (dramTrainingEnd failed d s).boot.stage = .dram ∧ (dramTrainingEnd failed d s).dram.trained = true ∧
          (dramTrainingEnd failed d s).dram.ready = s.dram.ready ∧ polderUp (dramTrainingEnd failed d s) pDram = true) ∧
      (dramTrainingEnd failed d s).dram.chGib = nth d 0 0 % 8 ∧ (dramTrainingEnd failed d s).dram.mem = s.dram.mem ∧
      (dramTrainingEnd failed d s).fe = s.fe ∧ (dramTrainingEnd failed d s).seq = s.seq ∧ (dramTrainingEnd failed d s).host = s.host := by
  obtain ⟨e, i, x, m, hs⟩ := setStage_frame .dram (polderSet pDram .up s)
  have hup : polderUp (polderSet pDram .up s) pDram = true := by
    simp [polderUp, polder, polderSet, tabGet_tabSet_self]
  rw [dramTrainingEnd, if_pos hstage, hs]
  dsimp only
  rw [if_neg (by simp [polderSet, setPower, htrained])]
  rcases failingChannel failed d with _ | n
  · exact ⟨⟨rfl, rfl, rfl, hup⟩, rfl, rfl, rfl, rfl, rfl⟩
  · obtain ⟨t, m, hlog, ht⟩ := haltNow_eq 3 (setDram (fun d => { d with trainFail := true, failCh := n }) (setDram (fun k => { k with
      chGib := nth d 0 0 % 8 }) { polderSet pDram .up s with
        boot := { s.boot with stage := .dram }, mbx := { s.mbx with errSum := e, intStatus := i, msix := x }, smb := m }))
    obtain ⟨_, _, _, _, _, _, _, rfl⟩ := hlog
    refine (congrArg (fun t => (t.boot.stage = .halted ∧ t.boot.haltCause = 3 ∧ t.dram.trainFail = true ∧ t.dram.failCh = n) ∧
      t.dram.chGib = nth d 0 0 % 8 ∧ t.dram.mem = s.dram.mem ∧ t.fe = s.fe ∧ t.seq = s.seq ∧ t.host = s.host) ht).mpr ?_
    exact ⟨⟨rfl, rfl, rfl, rfl⟩, rfl, rfl, rfl, rfl, rfl⟩

theorem dramClearEnd_clears {s : State} (hstage : s.boot.stage = .dram) (htrained : s.dram.trained = true) (hready : s.dram.ready = false) :
    ∃ t, exec .dramClearEnd s = .next t ∧ t.boot.stage = .sync ∧ t.dram.ready = true ∧ t.dram.poison = [] ∧
      (∀ a, memRead 0 t.dram.mem a = 0) ∧ t.fe = s.fe ∧ t.seq = s.seq ∧ t.host = s.host := by
  have he : exec .dramClearEnd s = .next (dramClearEnd s) := rfl
  rw [he, dramClearEnd, if_pos ⟨hstage, htrained, by simp [hready]⟩]
  obtain ⟨_, _, _, _, hs⟩ := setStage_frame .sync (setDram (fun d => { d with mem := [], poison := [], wrong := [], ready := true }) s)
  rw [hs]
  exact ⟨_, rfl, rfl, rfl, rfl, fun _ => rfl, rfl, rfl, rfl⟩

/-- What the links' first start touches. -/
structure LinksStart (s t : State) : Prop where
  frame : ∃ m link downMap flooded boot pend ctr w, t = { s with
    mbx := m
    links := { s.links with link := link, downMap := downMap, flooded := flooded }
    boot := boot
    nv := { s.nv with logPend := pend }
    ctr := ctr
    power := w }

theorem LinksStart.trans {s t u : State} (h : LinksStart s t) (k : LinksStart t u) : LinksStart s u := by
  obtain ⟨_, _, _, _, _, _, _, _, rfl⟩ := h
  obtain ⟨_, _, _, _, _, _, _, _, rfl⟩ := k
  exact ⟨_, _, _, _, _, _, _, _, rfl⟩

theorem LinksStart.refl (s : State) : LinksStart s s := ⟨_, _, _, _, _, _, _, _, rfl⟩

theorem setPhase_linksStart (l : Nat) (p : LinkPhase) (s : State) : LinksStart s (setPhase l p s) := by
  obtain ⟨_, _, _, _, _, _, _, h⟩ := (setPhase_phaseKeeps l p s).frame
  exact ⟨_, _, _, _, _, _, _, _, h⟩

theorem requestPolder_linksStart (p : Nat) (s : State) : LinksStart s (requestPolder p s) := by
  obtain ⟨w, h⟩ := requestPolder_frame p s
  exact ⟨_, _, _, _, _, _, _, w, h⟩

theorem linksOn_linksStart (all : Bool) (s : State) : LinksStart s (linksOn all s) := by
  refine List.foldlRecOn (motive := fun t => LinksStart s t) _ _ (.refl s) fun t ht l _ => ht.trans ?_
  split
  · split
    · split
      · exact setPhase_linksStart l .training t
      · exact .refl t
    · exact requestPolder_linksStart _ t
  · exact .refl t

theorem syncStage_syncs {s : State} (h : s.boot.stage = .sync) : ∃ t, exec .syncStage s = .next t ∧ t.boot.stage = .ready ∧
    t.seq.fence = fenceClosure s.boot.sel.fence ∧ t.seq.fenceNext = fenceClosure s.boot.sel.fence ∧ t.tick.no = s.tick.no ∧
    t.links.epoch = 0 ∧ (t.links.master = (s.links.ident.tm && s.links.ident.topo != 0)) ∧ t.fe = s.fe ∧ t.dram = s.dram ∧ t.host = s.host := by
  have he : exec .syncStage s = .next (syncStage s) := rfl
  rw [he, syncStage, if_neg (by simp [h])]
  extract_lets f s1 s2 s3 tm s4
  have h1 : Logged s s1 := .foldl (fun t r => logEvent_logged 0x0010 0 r 4 t) _ s
  obtain ⟨_, _, _, _, _, _, _, h1⟩ := h1
  obtain ⟨_, _, _, _, _, _, _, _, hon⟩ := (linksOn_linksStart false s4).frame
  obtain ⟨_, _, _, _, hs⟩ := setStage_frame .ready (linksOn false s4)
  rw [hs, hon]
  refine ⟨_, rfl, rfl, rfl, rfl, ?_, rfl, ?_, ?_, ?_, ?_⟩
  · exact congrArg (·.tick.no) h1
  · have h := congrArg (fun t : State => t.links.ident.tm && t.links.ident.topo != 0) h1
    exact h
  · exact congrArg (·.fe) h1
  · exact congrArg (·.dram) h1
  · exact congrArg (·.host) h1

/-! ## A write of the boot flash from outside (R496) -/

theorem placed_map_add (a b : Nat) (bs : List Byte) : (placed a bs).map (fun x => (b + x.1, x.2)) = placed (b + a) bs := by
  simp only [placed, List.map_map]
  exact List.map_congr_left fun i _ => by simp [Nat.add_assoc]

theorem bootFlashWrite_eq {slot off : Nat} {data : List Byte} {s : State} (h : s.boot.perst = true ∨ s.boot.stage = .halted)
    (hfit : off + data.length ≤ 0x400000) : bootFlashWrite slot off data s = slotMark (slot % 2 == 1) false (setBoot (fun x => { x with
      flash := (placed (slotAddr (slot % 2 == 1) + off) data).foldl (fun m y => memWrite 0xFF#8 m y.1 y.2) x.flash }) s) := by
  have hall : (placed off data).filter (fun x => decide (x.1 < 0x400000)) = placed off data := by
    refine List.filter_eq_self.mpr fun x hx => decide_eq_true ?_
    have := mem_placed (x := x.1) (v := x.2) hx
    omega
  have hplaced (b : Nat) (m : Mem) : (placed off data).foldl (fun m y => memWrite 0xFF#8 m (b + y.1) y.2) m =
      (placed (b + off) data).foldl (fun m y => memWrite 0xFF#8 m y.1 y.2) m := by
    rw [← placed_map_add, List.foldl_map]
  rw [bootFlashWrite, if_neg (by obtain h | h := h <;> simp [h])]
  dsimp only
  simp only [hall, hplaced]

theorem bootFlashWrite_writes {slot off : Nat} {data : List Byte} {s : State} (h : s.boot.perst = true ∨ s.boot.stage = .halted)
    (hfit : off + data.length ≤ 0x400000) (hwf : memWf 0xFF#8 s.boot.flash = true) :
    ∃ t, exec (.bootFlashExternalWrite slot off data) s = .next t ∧ slotOk t (slot % 2 == 1) = false ∧
      (∀ k, k < data.length → memRead 0xFF#8 t.boot.flash (slotAddr (slot % 2 == 1) + off + k) = nth data k 0) ∧
      (∀ a, (a < slotAddr (slot % 2 == 1) + off ∨ slotAddr (slot % 2 == 1) + off + data.length ≤ a) →
        memRead 0xFF#8 t.boot.flash a = memRead 0xFF#8 s.boot.flash a) ∧
      t = { s with boot := { s.boot with flash := t.boot.flash, okA := t.boot.okA, okB := t.boot.okB } } := by
  refine ⟨bootFlashWrite slot off data s, rfl, ?_⟩
  rw [bootFlashWrite_eq h hfit]
  generalize (slot % 2 == 1) = b
  have hflash (m : Mem) : (slotMark b false (setBoot (fun x => { x with flash := m }) s)).boot.flash = m := by cases b <;> rfl
  have hread := memRead_foldl_lastWrite 0xFF#8 (placed (slotAddr b + off) data) hwf
  rw [show (setBoot (fun x => { x with flash := (placed (slotAddr b + off) data).foldl (fun m y => memWrite 0xFF#8 m y.1 y.2) x.flash }) s) =
    setBoot (fun x => { x with flash := (placed (slotAddr b + off) data).foldl (fun m y => memWrite 0xFF#8 m y.1 y.2) s.boot.flash }) s from rfl, hflash]
  refine ⟨slotOk_slotMark b false _, fun k hk => ?_, fun a ha => ?_, ?_⟩
  · rw [hread, lastWrite_placed_in hk]
  · rw [hread, lastWrite_placed_out ha]
  · cases b <;> rfl

/-- Settles O47, a rule for each start, failure and stage above: a start of the front-end die is `FrontEndUp`, a power failure `PowerFailed`,
and a start of the compute die `DieStarted`. -/
theorem frontEndPowerAndBringUp : Obligations.FrontEndPowerAndBringUp := by
  unfold Obligations.FrontEndPowerAndBringUp
  refine ⟨?powerOn, ?devReset, ?extest, ?extestOff, ?fail, ?supplyReturn, ?collapse, ?start, fun s h => fwStartStage_starts h, ?training,
    fun s hstage ht hr => dramClearEnd_clears hstage ht hr, fun s h => syncStage_syncs h,
    fun slot off data s h hfit hwf => bootFlashWrite_writes h hfit hwf⟩
  case powerOn =>
    intro s
    have h := frontEndUp_up .supplies true s
    exact ⟨frontEndUp .supplies true s, rfl, h.stage, congrArg (·.no) h.tick, congrArg (·.total) h.tick, h.alive, h.cells, h.powerFail,
      h.cfg.trans (by generalize recBody _ 25 = o; cases o <;> rfl),
      h.own, h.hello, h.seq, h.fm, h.host, h.flash, h.part⟩
  case devReset =>
    intro c s htaken hscope
    have h := frontEndUp_up .devReset1 false (slotTaken c s)
    have hbody : bodyDevReset c (slotTaken c s) = frontEndUp .devReset1 false (slotTaken c s) := by
      rw [bodyDevReset, hscope]
      rfl
    refine ⟨frontEndUp .devReset1 false (slotTaken c s), ?_, h.stage, h.cause, congrArg (·.no) h.tick, congrArg (·.total) h.tick,
      congrArg (·.frame) h.tick, h.cells, h.cfg.trans (by generalize recBody _ 25 = o; cases o <;> rfl), h.seq, h.fm, h.host, h.flash⟩
    rw [exec_row_runs rfl rfl htaken, hbody]
  case extest =>
    intro s halive hextest hfail
    have h := frontEndUp_up .extest false (setBoot (fun b => { b with extest := true }) s)
    refine ⟨frontEndUp .extest false (setBoot (fun b => { b with extest := true }) s), ?_, h.extest, h.stage, congrArg (·.no) h.tick, h.seq,
      h.dram, h.cells, h.host⟩
    refine congrArg Host.Outcome.next ?_
    rw [extestSelect, if_neg (by simp [hextest])]
    exact if_pos (by rw [Bool.true_and, halive, hfail]; rfl)
  case extestOff =>
    intro s hextest
    refine congrArg Host.Outcome.next ?_
    rw [extestSelect, if_neg (by simp [hextest])]
    rfl
  case fail =>
    intro s halive hfail
    obtain ⟨h, hstage, hseq⟩ := powerFailDetect_fails halive hfail
    exact ⟨powerFailDetect s, rfl, h.powerFail, h.queue, h.recQ, h.recRun, h.ctrQ, h.ctrRun, h.enrol, h.imgWaits, h.modeNext, h.planes, h.ports,
      h.mem, hstage, h.outs, hseq, h.host⟩
  case supplyReturn =>
    intro s halive hfail hplanes hstoring
    have h := frontEndUp_up .supplyReturn true s
    refine ⟨frontEndUp .supplyReturn true s, ?_, h.powerFail, h.cells, h.stage, congrArg (·.no) h.tick, congrArg (·.total) h.tick,
      h.cfg.trans (by generalize recBody _ 25 = o; cases o <;> rfl), h.host⟩
    refine congrArg Host.Outcome.next ?_
    rw [supplyReturn, if_pos (by simp [halive, hfail]), failSequence_idle hplanes hstoring]
  case collapse =>
    intro s halive hfail
    exact ⟨supplyCollapse s, rfl, supplyCollapse_stops halive hfail⟩
  case start =>
    intro s hmay
    obtain ⟨h, hstage⟩ := computeDieStart_starts hmay
    refine ⟨computeDieStart s, rfl, ?_, h.cores, fun hrom => ?_, h.vCore, h.debug, h.flash, h.fe, h.host, h.tick, h.fm, h.dram⟩
    · exact hstage.elim .inr fun hr => .inl hr.1
    · obtain hhalt | ⟨-, hok⟩ := hstage
      · rw [hrom] at hhalt
        nomatch hhalt
      · exact hok
  case training =>
    intro failed d s hstage htrained
    exact ⟨dramTrainingEnd failed d s, rfl, dramTrainingEnd_ends failed d hstage htrained⟩

end Sys2Proof.Machine
end

section
/-! PROOFS. PROOFS. What the front end writes into field memory (R118, R119, R180). -/

namespace Sys2Proof.Machine
open Sys2Proof Sys2Proof.Safety

/-! ## What the front end writes into field memory (R118, R119, R180) -/

/-- The mark that a group takes. -/
def marked (p : Tab (BitVec 8)) (g : Nat) (v : BitVec 8) : Tab (BitVec 8) := if v = 0 then tabDel p g else tabSet p g v

theorem tabGet_marked (p : Tab (BitVec 8)) (g : Nat) (v : BitVec 8) (x : Nat) : tabGet 0 (marked p g v) x = if x = g then v else tabGet 0 p x := by
  unfold marked
  by_cases hv : v = 0
  · rw [if_pos hv, tabGet_tabDel_ite, hv]
  · rw [if_neg hv]
    split
    · rename_i hx
      rw [hx, tabGet_tabSet_self]
    · rename_i hx
      exact tabGet_tabSet_ne _ _ _ hx

theorem fmPutGroup_marks {f a : Nat} (bs : List Byte) (p : BitVec 8) {s : State} (h : bankOn s f a = true) : fmPutGroup f a bs p s =
    setFm (fun m => { m with
      mem := memWriteN 0 m.mem (chipAddr f a) (padTo 8 bs)
      flips := tabDel m.flips (fmGroup f a)
      poison := marked m.poison (fmGroup f a) p }) s := by
  rw [fmPutGroup, if_neg (by rw [h]; decide)]
  rfl

/-- A store of whole groups into banks that are on gives each of them its mark. -/
theorem fmStore_poison {w f a m : Nat} {bs : List Byte} (p : BitVec 8) {s : State} (ha : a % 8 = 0) (hlen : bs.length = 8 * m)
    (hon : ∀ k, k < bs.length → bankOn s f (a + k) = true) (g : Nat) :
    tabGet 0 (fmStore w f a bs (List.replicate m p) s).fm.poison g =
      if chipAddr f a / 8 ≤ g ∧ g < chipAddr f a / 8 + m then p else tabGet 0 s.fm.poison g := by
  have hgroups : ∀ n, n ≤ m → ∀ u : State, Stores [(chipAddr f a, bs.length)] s u →
      tabGet 0 ((List.range n).foldl (fun t i => fmPutGroup f (a + 8 * i) ((bs.drop (8 * i)).take 8) (nth (List.replicate m p) i 0) t) u).fm.poison g =
        if chipAddr f a / 8 ≤ g ∧ g < chipAddr f a / 8 + n then p else tabGet 0 u.fm.poison g := by
    intro n hn u hu
    induction n with
    | zero => rw [if_neg (by omega)]; rfl
    | succ n ih =>
      have hs : Stores [(chipAddr f a, bs.length)] s
          ((List.range n).foldl (fun t i => fmPutGroup f (a + 8 * i) ((bs.drop (8 * i)).take 8) (nth (List.replicate m p) i 0) t) u) := by
        refine hu.trans (Stores.foldl (fun t i hi => fmPutGroup_stores _ _ _ fun y hy => ?_) _)
        have ho := hy _ (List.mem_singleton.mpr rfl)
        have hi := List.mem_range.mp hi
        unfold roundUp chipAddr at *
        dsimp only at ho
        omega
      have hgroup : fmGroup f (a + 8 * n) = chipAddr f a / 8 + n := by unfold fmGroup chipAddr; omega
      have hp : nth (List.replicate m p) n 0 = p := by simp [nth, show n < m by omega]
      rw [List.range_succ, List.foldl_append, List.foldl_cons, List.foldl_nil,
        fmPutGroup_marks _ _ (by rw [hs.bankOn_eq]; exact hon _ (by omega)), setFm_fm, tabGet_marked, hp, hgroup, ih (by omega)]
      by_cases hg : g = chipAddr f a / 8 + n
      · rw [if_pos hg, if_pos (by omega)]
      · rw [if_neg hg]
        exact if_congr (by omega) rfl rfl
  have hbump := bumpBy_reads (cFmOff f) ((accesses w a (8 * ((bs.length + 7) / 8))).filter (bankOffAt s f)).length s
  have hread := hgroups m (Nat.le_refl _) _ (hbump.stores _)
  rw [hbump.poison_eq] at hread
  rw [fmStore, show a / 8 * 8 = a by omega, Nat.sub_self, zeros, List.replicate_zero, List.nil_append, show (bs.length + 7) / 8 = m by omega]
  rwa [show (bs.length + 7) / 8 = m by omega] at hread

/-- An area that DMA port 1 owns, with its banks on and no gate on its way to close. -/
structure AreaOpen (f A n : Nat) (s : State) : Prop where
  aligned : A % 64 = 0
  ok : ∀ i, i < n → port1Owns s f (A + i) = true ∧ bankOn s f (A + i) = true ∧ gateClosing s f (bankOf (A + i)) = false

/-- Cells of `c` bytes at `C`, `C + c`, … that the front end has written: their bytes and their marks. -/
structure CellsWritten (C c : Nat) (w : Nat → List Byte) (p : Nat → BitVec 8) (done : List Nat) (s t : State) : Prop where
  frame : ∃ mem poison flips, t = { s with fe := t.fe, fm := { s.fm with mem := mem, poison := poison, flips := flips } }
  wf : memWf 0 t.fm.mem = true
  cells : ∀ i ∈ done, ∀ k, k < c → memRead 0 t.fm.mem (C + c * i + k) = nth (w i) k 0
  marks : ∀ i ∈ done, ∀ g, (C + c * i) / 8 ≤ g → g < (C + c * i) / 8 + c / 8 → tabGet 0 t.fm.poison g = p i
  out : ∀ x, (∀ i ∈ done, x < C + c * i ∨ C + c * i + c ≤ x) → memRead 0 t.fm.mem x = memRead 0 s.fm.mem x

namespace CellsWritten

variable {f A n m C c i : Nat} {w : Nat → List Byte} {p : Nat → BitVec 8} {done : List Nat} {s t : State}

theorem none (hwf : memWf 0 s.fm.mem = true) : CellsWritten C c w p [] s s :=
  ⟨⟨_, _, _, rfl⟩, hwf, fun _ h => (nomatch h), fun _ h => (nomatch h), fun _ _ => rfl⟩

theorem areaOpen (h : CellsWritten C c w p done s t) (ho : AreaOpen f A n s) : AreaOpen f A n t := by
  obtain ⟨_, _, _, hf⟩ := h.frame
  rw [hf]
  exact ⟨ho.aligned, ho.ok⟩

/-- What the front end has noted of its own leaves the cells. -/
theorem setFe (h : CellsWritten C c w p done s t) (g : FrontEnd → FrontEnd) : CellsWritten C c w p done s (setFe g t) := by
  obtain ⟨⟨mem, poison, flips, hf⟩, hwf, hcells, hmarks, hout⟩ := h
  refine ⟨⟨mem, poison, flips, ?_⟩, hwf, hcells, hmarks, hout⟩
  rw [hf]
  rfl

/-- Two cells do not meet. -/
theorem disjoint {i j k c : Nat} (h : i ≠ j) (hk : k < c) : c * j + k < c * i ∨ c * i + c ≤ c * j + k := by
  rcases Nat.lt_or_gt_of_ne h with h | h
  · right
    calc c * i + c = c * (i + 1) := by rw [Nat.mul_succ]
      _ ≤ c * j := Nat.mul_le_mul_left c h
      _ ≤ c * j + k := Nat.le_add_right _ _
  · left
    calc c * j + k < c * j + c := by omega
      _ = c * (j + 1) := by rw [Nat.mul_succ]
      _ ≤ c * i := Nat.mul_le_mul_left c h

/-- One more cell. -/
theorem put (h : CellsWritten (chipAddr f A) (8 * m) w p done s t) (ho : AreaOpen f A n s) (hm : 0 < m) (hi : i ∉ done)
    (hfit : 8 * m * i + 8 * m ≤ n) (hw : (w i).length = 8 * m) :
    CellsWritten (chipAddr f A) (8 * m) w p (done ++ [i]) s (fmPut f (A + 8 * m * i) (w i) (p i) t) ∧
      (fmPut f (A + 8 * m * i) (w i) (p i) t).fe = t.fe := by
  obtain ⟨halign, hok⟩ := h.areaOpen ho
  have hon : ∀ k, k < (w i).length → bankOn t f (A + 8 * m * i + k) = true := fun k hk => by
    rw [Nat.add_assoc]
    exact (hok _ (by omega)).2.1
  have ha : (A + 8 * m * i) % 8 = 0 := by
    rw [Nat.mul_assoc]
    omega
  obtain ⟨hport, hbank, hgate⟩ := hok (8 * m * i) (by omega)
  have hput : fmPut f (A + 8 * m * i) (w i) (p i) t = fmStore 64 f (A + 8 * m * i) (w i) (List.replicate m (p i)) t := by
    have hdrop : feDropped t f (A + 8 * m * i) = false := by
      rw [feDropped, bankOffAt_of_on hbank, hgate]
      rfl
    rw [fmPut, hdrop, if_neg (by decide), if_pos hport, hw, show (8 * m + 7) / 8 = m by omega]
  have hgroups : ∀ g ∈ groupsOf (A + 8 * m * i) (w i).length, bankOn t f (8 * g) = true := by
    intro g hg
    obtain ⟨hne, hlo, hhi⟩ := mem_groupsOf.mp hg
    have := hon (8 * g - (A + 8 * m * i)) (by omega)
    rwa [show A + 8 * m * i + (8 * g - (A + 8 * m * i)) = 8 * g by omega] at this
  obtain ⟨mem, flips, poison, hstore⟩ := fmStore_on (List.replicate m (p i)) (by omega) hgroups
  have hread := fmStore_read (w := 64) (ps := List.replicate m (p i)) ha h.wf hon
  have hpoison := fmStore_poison (w := 64) (p i) ha hw hon
  have hsw := (fmStore_stores (w := 64) (w i) (List.replicate m (p i)) t (rs := [(chipAddr f (A + 8 * m * i), (w i).length)])
    ⟨_, List.mem_singleton.mpr rfl, Nat.le_refl _, Nat.le_refl _⟩).wf h.wf
  have hchip : chipAddr f (A + 8 * m * i) = chipAddr f A + 8 * m * i := (Nat.add_assoc _ _ _).symm
  have hround : roundUp (8 * m) 8 = 8 * m := by unfold roundUp; omega
  rw [hw, hround, hchip] at hread
  rw [hchip] at hpoison
  rw [hput]
  refine ⟨⟨?_, hsw, fun j hj k hk => ?_, fun j hj g hlo hhi => ?_, fun x hx => ?_⟩, by rw [hstore]; rfl⟩
  · obtain ⟨_, _, _, hf⟩ := h.frame
    rw [hstore, hf]
    exact ⟨_, _, _, rfl⟩
  · rw [hread]
    rcases List.mem_append.mp hj with hj | hj
    · have hne : i ≠ j := fun he => hi (he ▸ hj)
      have := disjoint hne hk
      rw [if_neg (by omega)]
      exact h.cells j hj k hk
    · obtain rfl := List.mem_singleton.mp hj
      rw [if_pos (by omega)]
      congr 1
      omega
  · rw [hpoison]
    rcases List.mem_append.mp hj with hj | hj
    · have hne : i ≠ j := fun he => hi (he ▸ hj)
      have hmul : ∀ q, 8 * m * q = 8 * (m * q) := Nat.mul_assoc 8 m
      have hd := disjoint (i := i) (j := j) (k := g - (chipAddr f A + 8 * m * j) / 8) (c := m) hne (by omega)
      have hC : (chipAddr f A + 8 * m * i) / 8 = chipAddr f A / 8 + m * i := by rw [hmul]; omega
      have hC' : (chipAddr f A + 8 * m * j) / 8 = chipAddr f A / 8 + m * j := by rw [hmul]; omega
      rw [if_neg (by omega)]
      exact h.marks j hj g hlo hhi
    · obtain rfl := List.mem_singleton.mp hj
      exact if_pos (by omega)
  · have hlast := hx i (List.mem_append_right _ (List.mem_singleton.mpr rfl))
    rw [hread, if_neg (by omega)]
    exact h.out x fun j hj => hx j (List.mem_append_left _ hj)

/-- Writing one cell after another, each once. -/
theorem foldl {g : State → Nat → State} {is : List Nat} (hwf : memWf 0 s.fm.mem = true) (ho : AreaOpen f A n s) (hm : 0 < m) (hnd : is.Nodup)
    (hfit : ∀ i ∈ is, 8 * m * i + 8 * m ≤ n) (hw : ∀ i, (w i).length = 8 * m)
    (hg : ∀ t, t.fe = s.fe → ∀ i, g t i = fmPut f (A + 8 * m * i) (w i) (p i) t) :
    CellsWritten (chipAddr f A) (8 * m) w p is s (is.foldl g s) ∧ (is.foldl g s).fe = s.fe := by
  have hall : ∀ (is done : List Nat) (t : State), (done ++ is).Nodup → (∀ i ∈ is, 8 * m * i + 8 * m ≤ n) →
      CellsWritten (chipAddr f A) (8 * m) w p done s t → t.fe = s.fe →
      CellsWritten (chipAddr f A) (8 * m) w p (done ++ is) s (is.foldl g t) ∧ (is.foldl g t).fe = s.fe := by
    intro is
    induction is with
    | nil => exact fun done t _ _ h hfe => by rw [List.append_nil]; exact ⟨h, hfe⟩
    | cons i is ih =>
      intro done t hnd hfit h hfe
      have hi : i ∉ done := fun hd => (List.nodup_append.mp hnd).2.2 i hd i (by simp) rfl
      obtain ⟨h', hfe'⟩ := h.put ho hm hi (hfit i (by simp)) (hw i)
      rw [List.foldl_cons, hg t hfe i]
      have := ih (done ++ [i]) _ (by rwa [List.append_assoc]) (fun j hj => hfit j (List.mem_cons_of_mem _ hj)) h' (hfe'.trans hfe)
      rwa [List.append_assoc] at this
  exact hall is [] s hnd hfit (.none hwf) rfl

end CellsWritten

end Sys2Proof.Machine
end

section
/-! PROOFS. PROOFS. FE_SUMMARY_DELIVERY, SAMPLE_DEADLINE and FINE_WINDOW (R20, R118, R119). -/

namespace Sys2Proof.Machine
open Sys2Proof Sys2Proof.Safety

/-! ## FE_SUMMARY_DELIVERY (R118) -/

/-- The entry of a channel is neither delivered nor lost. -/
def entryNew (s : State) (ch : Nat) : Bool := !tabHas s.fe.delivered ch && !s.fe.lost.getLsbD ch

/-- The delivery of one channel's entry. -/
def deliverEntry (t : State) (ch : Nat) : State :=
  if tabHas t.fe.delivered ch || t.fe.lost.getLsbD ch then t
  else
    let e := tabGet 0 t.fe.ready ch
    let (a, b, c) := maskFlags ch t
    let t1 := setFe (fun f => { f with
      delivered := tabSet f.delivered ch e
      settling := f.settling ||| a
      rangeM := f.rangeM ||| b
      cmM := f.cmM ||| c }) t
    match t1.seq.active with
    | some l => fmPut l.ingestField (l.ingestAddr + 16 * ch) (leBytes 16 e.toNat) 0 t1
    | none => t1

theorem feSummaryDelivery_eq {m : BitVec 24} {s : State} (hup : computeDown s = false) (hfail : s.nv.powerFail = false) :
    feSummaryDelivery m s = (chanList m.toNat).foldl deliverEntry s := by
  rw [feSummaryDelivery, if_neg (by simp [hup, hfail])]
  rfl

theorem deliverEntry_old {ch : Nat} {t : State} (h : entryNew t ch = false) : deliverEntry t ch = t := by
  rw [deliverEntry, if_pos]
  rw [entryNew, ← Bool.not_or, Bool.not_eq_false'] at h
  exact h

/-- What the front end notes of an entry that it delivers. -/
def entryNoted (ch : Nat) (t : State) : State :=
  setFe (fun f => { f with
    delivered := tabSet f.delivered ch (tabGet 0 t.fe.ready ch)
    settling := f.settling ||| (maskFlags ch t).1
    rangeM := f.rangeM ||| (maskFlags ch t).2.1
    cmM := f.cmM ||| (maskFlags ch t).2.2 }) t

theorem deliverEntry_new {ch : Nat} {l : MList} {t : State} (h : entryNew t ch = true) (hl : t.seq.active = some l) : deliverEntry t ch =
    fmPut l.ingestField (l.ingestAddr + 16 * ch) (leBytes 16 (tabGet 0 t.fe.ready ch).toNat) 0 (entryNoted ch t) := by
  have hcond : ¬(tabHas t.fe.delivered ch || t.fe.lost.getLsbD ch) = true := by
    rw [entryNew, ← Bool.not_or, Bool.not_eq_true'] at h
    rw [h]
    decide
  rw [deliverEntry, if_neg hcond]
  unfold entryNoted
  rcases maskFlags ch t with ⟨a, b, c⟩
  dsimp only
  rw [setFe_seq, hl]

/-- The channels of a list delivered: their entries stand in the ingest area and in what the front end notes. -/
structure EntriesDelivered (l : MList) (done : List Nat) (s t : State) : Prop where
  cells : CellsWritten (chipAddr l.ingestField l.ingestAddr) 16 (fun ch => leBytes 16 (tabGet 0 s.fe.ready ch).toNat) (fun _ => 0)
    (done.filter (entryNew s)) s t
  fe : ∃ d a b c, t.fe = { s.fe with delivered := d, settling := a, rangeM := b, cmM := c }
  delivered : ∀ ch, tabFind t.fe.delivered ch = if ch ∈ done ∧ entryNew s ch = true then some (tabGet 0 s.fe.ready ch) else tabFind s.fe.delivered ch

theorem EntriesDelivered.step {l : MList} {done : List Nat} {ch : Nat} {s t : State} (h : EntriesDelivered l done s t) (hl : s.seq.active = some l)
    (ho : AreaOpen l.ingestField l.ingestAddr 384 s) (hch : ch < 24) (hd : ch ∉ done) : EntriesDelivered l (done ++ [ch]) s (deliverEntry t ch) := by
  obtain ⟨hcells, ⟨d, a, b, c, hfe⟩, hdel⟩ := h
  have hhas : tabHas t.fe.delivered ch = tabHas s.fe.delivered ch := by
    have := hdel ch
    rw [if_neg (fun h => hd h.1)] at this
    exact congrArg Option.isSome this
  have hnew : entryNew t ch = entryNew s ch := by
    rw [entryNew, hhas, hfe, entryNew]
  have hready : t.fe.ready = s.fe.ready := by rw [hfe]
  by_cases hn : entryNew s ch = true
  · have hlt : t.seq.active = some l := by
      obtain ⟨_, _, _, hf⟩ := hcells.frame
      rw [hf]
      exact hl
    have hnotin : ch ∉ done.filter (entryNew s) := fun h => hd (List.mem_filter.mp h).1
    rw [deliverEntry_new (hnew.trans hn) hlt, hready]
    obtain ⟨hput, hfeput⟩ := (hcells.setFe (fun f => { f with
      delivered := tabSet f.delivered ch (tabGet 0 t.fe.ready ch)
      settling := f.settling ||| (maskFlags ch t).1
      rangeM := f.rangeM ||| (maskFlags ch t).2.1
      cmM := f.cmM ||| (maskFlags ch t).2.2 })).put (m := 2) ho (by decide) hnotin (by omega) (leBytes_length 16 _)
    change CellsWritten _ _ _ _ _ s (fmPut l.ingestField (l.ingestAddr + 16 * ch) _ 0 (entryNoted ch t)) at hput
    change (fmPut l.ingestField (l.ingestAddr + 16 * ch) _ 0 (entryNoted ch t)).fe = (entryNoted ch t).fe at hfeput
    refine ⟨?_, ?_, fun k => ?_⟩
    · rw [List.filter_append, List.filter_singleton, hn]
      exact hput
    · rw [hfeput, entryNoted, setFe_fe, hfe]
      exact ⟨_, _, _, _, rfl⟩
    · rw [hfeput, entryNoted, setFe_fe]
      dsimp only
      by_cases hk : k = ch
      · subst hk
        rw [tabFind_tabSet_self, if_pos ⟨by simp, hn⟩, hready]
      · rw [tabFind_tabSet_ne _ _ hk, hdel]
        exact if_congr (by simp [hk]) rfl rfl
  · have hf : entryNew s ch = false := by simpa using hn
    rw [deliverEntry_old (hnew.trans hf)]
    refine ⟨?_, ⟨d, a, b, c, hfe⟩, fun k => ?_⟩
    · rw [List.filter_append, List.filter_singleton, hf, Bool.cond_false, List.append_nil]
      exact hcells
    · rw [hdel]
      refine if_congr ⟨fun h => ⟨List.mem_append_left _ h.1, h.2⟩, fun h => ⟨?_, h.2⟩⟩ rfl rfl
      rcases List.mem_append.mp h.1 with hk | hk
      · exact hk
      · obtain rfl := List.mem_singleton.mp hk
        exact absurd h.2 hn

theorem foldl_deliverEntry {l : MList} {s : State} (hl : s.seq.active = some l) (ho : AreaOpen l.ingestField l.ingestAddr 384 s) (is : List Nat) :
    ∀ (done : List Nat) (t : State), (done ++ is).Nodup → (∀ ch ∈ is, ch < 24) → EntriesDelivered l done s t →
      EntriesDelivered l (done ++ is) s (is.foldl deliverEntry t) := by
  induction is with
  | nil => exact fun done t _ _ h => by rwa [List.append_nil]
  | cons i is ih =>
    intro done t hnd hlt h
    have hi : i ∉ done := fun hd => (List.nodup_append.mp hnd).2.2 i hd i (by simp) rfl
    have := ih (done ++ [i]) _ (by rwa [List.append_assoc]) (fun j hj => hlt j (List.mem_cons_of_mem _ hj)) (h.step hl ho (hlt i (by simp)) hi)
    rwa [List.append_assoc] at this

theorem feSummaryDelivery_delivers {m : BitVec 24} {l : MList} {s : State} (hup : computeDown s = false) (hfail : s.nv.powerFail = false)
    (hl : s.seq.active = some l) (hwf : memWf 0 s.fm.mem = true) (ho : AreaOpen l.ingestField l.ingestAddr 384 s) :
    EntriesDelivered l (chanList m.toNat) s (feSummaryDelivery m s) := by
  rw [feSummaryDelivery_eq hup hfail]
  exact foldl_deliverEntry hl ho _ [] s (chanList_nodup _) (fun ch h => (mem_chanList.mp h).1)
    ⟨.none hwf, ⟨_, _, _, _, rfl⟩, fun ch => (if_neg (fun h => nomatch h.1)).symm⟩

/-- A mask of one channel names it alone. -/
theorem chanList_single {ch : Nat} (h : ch < 24) : chanList (1#24 <<< ch).toNat = [ch] := by
  interval_cases ch <;> decide

theorem deliverSingle_eq {ch : Nat} {l : MList} {s : State} (hup : computeDown s = false) (hfail : s.nv.powerFail = false)
    (hl : s.seq.active = some l) (hch : ch < 24) (hhas : tabHas s.fe.delivered ch = false) (hlost : s.fe.lost.getLsbD ch = false) :
    feSummaryDelivery (1#24 <<< ch) s =
      fmPut l.ingestField (l.ingestAddr + 16 * ch) (leBytes 16 (tabGet 0 s.fe.ready ch).toNat) 0 (entryNoted ch s) := by
  rw [feSummaryDelivery_eq hup hfail, chanList_single hch, List.foldl_cons, List.foldl_nil]
  exact deliverEntry_new (by rw [entryNew, hhas, hlost]; rfl) hl

/-! ## SAMPLE_DEADLINE and FINE_WINDOW (R20, R119) -/

theorem sampleDeadline_writes {late : List (Nat × Nat)} {l : MList} {s : State} (hup : computeDown s = false) (hl : s.seq.active = some l)
    (hwf : memWf 0 s.fm.mem = true) (ho : AreaOpen l.ingestField l.ingestAddr 384 s) :
    CellsWritten (chipAddr l.ingestField l.ingestAddr) 16 (fun _ => zeros 16) (fun _ => 0x08)
        ((List.range 24).filter fun ch => !tabHas s.fe.delivered ch) s (sampleDeadline late s) ∧
      (sampleDeadline late s).fe = { s.fe with
        lateFine := late
        lost := BitVec.ofNat 24 (listMask ((List.range 24).filter fun ch => !tabHas s.fe.delivered ch)) } := by
  rw [sampleDeadline, if_neg (by simp [hup]), hl]
  dsimp only
  generalize hmiss : (List.range 24).filter (fun ch => !tabHas s.fe.delivered ch) = miss
  have hlt : ∀ ch ∈ miss, ch < 24 := fun ch h => by
    rw [← hmiss] at h
    exact List.mem_range.mp (List.mem_filter.mp h).1
  have hnd : miss.Nodup := hmiss ▸ List.nodup_range.filter _
  obtain ⟨h, hfe⟩ := CellsWritten.foldl (m := 2) (w := fun _ => zeros 16) (p := fun _ => 0x08)
    (s := setFe (fun f => { f with lateFine := late, lost := BitVec.ofNat 24 (listMask miss) }) s) (n := 384) hwf ⟨ho.aligned, ho.ok⟩ (by decide) hnd
    (fun i hi => by have := hlt i hi; omega) (fun _ => rfl)
    (g := fun t ch => fmPut l.ingestField (l.ingestAddr + 16 * ch) (zeros 16) 0x08 t) (fun _ _ _ => rfl)
  refine ⟨⟨?_, h.wf, h.cells, h.marks, h.out⟩, hfe⟩
  obtain ⟨_, _, _, hf⟩ := h.frame
  exact ⟨_, _, _, hf⟩

theorem fineWindow_writes {l : MList} {s : State} (hup : computeDown s = false) (hl : s.seq.active = some l) (hwf : memWf 0 s.fm.mem = true)
    (ho : AreaOpen l.fineField l.fineAddr (8 * (24 * fineSlots s.tick.period)) s) :
    CellsWritten (chipAddr l.fineField l.fineAddr) 8
        (fun i => leBytes 8 (nth (tabGet [] s.fe.stream (i / fineSlots s.tick.period)) (i % fineSlots s.tick.period) 0).toNat)
        (fun i => if s.fe.lateFine.contains (i / fineSlots s.tick.period, i % fineSlots s.tick.period) then 0x08 else 0)
        (List.range (24 * fineSlots s.tick.period)) s (fineWindow s) ∧ (fineWindow s).fe = s.fe := by
  rw [fineWindow, if_neg (by simp [hup]), hl]
  dsimp only
  generalize fineSlots s.tick.period = n at *
  exact CellsWritten.foldl (m := 1) (w := fun i => leBytes 8 (nth (tabGet [] s.fe.stream (i / n)) (i % n) 0).toNat)
    (p := fun i => if s.fe.lateFine.contains (i / n, i % n) then 0x08 else 0) hwf ho (by decide) List.nodup_range
    (fun i hi => by have := List.mem_range.mp hi; omega) (fun _ => leBytes_length 8 _) (fun t ht i => by rw [ht])

end Sys2Proof.Machine
end

section
/-! PROOFS. PROOFS. FINE_OUTPUT, sample by sample (R95, R101 to R103, R110, R115). -/

namespace Sys2Proof.Machine
open Sys2Proof Sys2Proof.Safety

/-! ## FINE_OUTPUT and the events of a channel (R95, R101 to R103, R110, R115) -/

/-- One channel goes on by `dc` samples and `dk` outputs: the other channels stay, and beside the channels only the writes asked for, the
completions and the free values move. -/
structure ChainStep (ch dc dk : Nat) (s t : State) : Prop where
  frame : ∃ cs ws due r x q p n f, t = { s with
    fe := { s.fe with chans := cs }
    mbx := { s.mbx with waits := ws, due := due }
    nv := { s.nv with recQ := r, recRun := x, queue := q, planes := p, nextSeq := n }
    free := f }
  others : ∀ k, k ≠ ch → chanOf t k = chanOf s k
  cnt : (chanOf t ch).cnt = (chanOf s ch).cnt + dc
  k : (chanOf t ch).k = (chanOf s ch).k + dk

namespace ChainStep

variable {ch dc dk ec ek : Nat} {s t u : State}

theorem refl (ch : Nat) (s : State) : ChainStep ch 0 0 s s := ⟨⟨_, _, _, _, _, _, _, _, _, rfl⟩, fun _ _ => rfl, rfl, rfl⟩

theorem trans (h : ChainStep ch dc dk s t) (g : ChainStep ch ec ek t u) : ChainStep ch (dc + ec) (dk + ek) s u := by
  refine ⟨?_, fun k hk => (g.others k hk).trans (h.others k hk), by rw [g.cnt, h.cnt, Nat.add_assoc], by rw [g.k, h.k, Nat.add_assoc]⟩
  obtain ⟨_, _, _, _, _, _, _, _, _, rfl⟩ := h.frame
  obtain ⟨_, _, _, _, _, _, _, _, _, rfl⟩ := g.frame
  exact ⟨_, _, _, _, _, _, _, _, _, rfl⟩

theorem ite {c : Prop} [Decidable c] (h : ChainStep ch dc dk s t) (g : ChainStep ch dc dk s u) : ChainStep ch dc dk s (if c then t else u) := by
  split
  · exact h
  · exact g

theorem setChan {f : Chan → Chan} (s : State) (hcnt : (f (chanOf s ch)).cnt = (chanOf s ch).cnt + dc)
    (hk : (f (chanOf s ch)).k = (chanOf s ch).k + dk) : ChainStep ch dc dk s (setChan ch f s) := by
  refine ⟨⟨_, _, _, _, _, _, _, _, _, rfl⟩, fun k hk => chanOf_setChan_ne _ _ hk, ?_, ?_⟩
  · rw [chanOf_setChan_self, hcnt]
  · rw [chanOf_setChan_self, hk]

theorem storeConfig (h : ChainStep ch dc dk s t) : ChainStep ch dc dk s (storeConfig t) := by
  obtain ⟨-, hq⟩ := storeConfig_asks t
  obtain ⟨⟨_, _, _, _, _, _, _, _, _, hf⟩, hothers, hcnt, hk⟩ := h
  refine ⟨?_, fun k hne => ?_, ?_, ?_⟩
  · rw [hq, hf]
    exact ⟨_, _, _, _, _, _, _, _, _, rfl⟩
  · rw [hq]
    exact hothers k hne
  · rw [hq]
    exact hcnt
  · rw [hq]
    exact hk

theorem swapStarted (h : ChainStep ch dc dk s t) : ChainStep ch dc dk s (swapStarted ch t) := by
  obtain ⟨ws, due, hq⟩ := swapStarted_slots ch t
  obtain ⟨⟨_, _, _, _, _, _, _, _, _, rfl⟩, hothers, hcnt, hk⟩ := h
  rw [hq]
  exact ⟨⟨_, _, _, _, _, _, _, _, _, rfl⟩, hothers, hcnt, hk⟩

end ChainStep

theorem eventActivate_step (ch ev : Nat) (s : State) : ChainStep ch 0 0 s (eventActivate ch ev s) :=
  .ite (.setChan s rfl rfl) (.setChan s rfl rfl)

theorem eventDeactivate_step (ch ev : Nat) (s : State) : ChainStep ch 0 0 s (eventDeactivate ch ev s) :=
  .ite (.setChan s rfl rfl) (.setChan s rfl rfl)

theorem firFadeEnd_step (ch : Nat) (s : State) : ChainStep ch 0 0 s (firFadeEnd ch s) := by
  unfold firFadeEnd
  split
  · exact .refl ch s
  · exact .ite (ChainStep.storeConfig (.setChan s rfl rfl)) (.refl ch s)

theorem firAbortEffect_step (ch : Nat) (s : State) : ChainStep ch 0 0 s (firAbortEffect ch s) :=
  .ite (ChainStep.storeConfig (.setChan s rfl rfl)) (.refl ch s)

theorem firSwapStart_step (ch : Nat) (s : State) : ChainStep ch 0 0 s (firSwapStart ch s) := by
  unfold firSwapStart
  dsimp only
  split
  · exact .refl ch s
  · exact .ite (.refl ch s) (ChainStep.swapStarted (.setChan s rfl rfl))

theorem beforeFine_step (ch : Nat) (s : State) : ChainStep ch 0 0 s (beforeFine ch s) :=
  (((((eventActivate_step ch 1 s).trans (eventActivate_step ch 0 _)).trans (eventDeactivate_step ch 1 _)).trans (eventDeactivate_step ch 0 _)).trans
    (firFadeEnd_step ch _)).trans (firAbortEffect_step ch _) |>.trans (firSwapStart_step ch _)

theorem formFine_step (ch : Nat) (s : State) : ChainStep ch 0 1 s (formFine ch s) := by
  unfold formFine
  extract_lets x c n k fade outSet e0 e1
  split
  rename_i u su hu
  extract_lets us
  split
  rename_i v sv hv
  extract_lets vs x1
  split
  rename_i y sy hy
  extract_lets taps
  split
  rename_i f oor hf
  extract_lets x2 z z' x3 x4
  have hx2 : x2.cnt = x.cnt ∧ x2.k = x.k + 1 := ⟨rfl, rfl⟩
  have hz : z.cnt = x2.cnt ∧ z.k = x2.k := by
    simp only [z]
    split
    · exact ⟨rfl, rfl⟩
    · exact ⟨rfl, rfl⟩
  have hx3 : x3.cnt = x2.cnt ∧ x3.k = x2.k := by
    simp only [x3]
    split
    · exact ⟨rfl, rfl⟩
    · exact hz
  have hx4 : x4.cnt = x3.cnt ∧ x4.k = x3.k := by
    simp only [x4]
    split
    · exact ⟨rfl, rfl⟩
    · exact ⟨rfl, rfl⟩
  have h : ChainStep ch 0 1 s (setChan ch (fun _ => x4) s) := .setChan s (hx4.1.trans (hx3.1.trans hx2.1)) (hx4.2.trans (hx3.2.trans hx2.2))
  obtain ⟨⟨_, _, _, _, _, _, _, _, _, hfr⟩, hothers, hcnt, hk⟩ := h
  refine ⟨?_, hothers, hcnt, hk⟩
  rw [draw, hfr]
  exact ⟨_, _, _, _, _, _, _, _, _, rfl⟩

theorem rangeTo_cnt (r : Nat) (x : Chan) : (rangeTo r x).cnt = x.cnt ∧ (rangeTo r x).k = x.k ∧ (rangeTo r x).due = x.due := by
  unfold rangeTo
  split
  · exact ⟨rfl, rfl, rfl⟩
  · exact ⟨rfl, rfl, rfl⟩

theorem rangeUp_step (volt ch mag sample : Nat) (s : State) : ChainStep ch 0 0 s (rangeUp volt ch mag sample s) :=
  .ite (.setChan s (rangeTo_cnt _ _).1 (rangeTo_cnt _ _).2.1) (.refl ch s)

/-- One sample counts, and forms an output where the counter comes to a multiple of the oversampling ratio (R95). -/
theorem sampleIn_step (ch : Nat) (raw : Int) (s : State) :
    ChainStep ch 1 (if ((chanOf s ch).cnt + 1) % osr (chainOf s.fe.cfg ch).preset = 0 then 1 else 0) s (sampleIn ch s raw) := by
  unfold sampleIn
  extract_lets s0 x mag c n
  rcases correct s0 ch raw with ⟨v, clip⟩
  dsimp -zeta only
  extract_lets flag s1
  have h0 : ChainStep ch 0 0 s s0 := .ite (.setChan s rfl rfl) (.refl ch s)
  have hcfg : s0.fe.cfg = s.fe.cfg := by
    obtain ⟨_, _, _, _, _, _, _, _, _, hf⟩ := h0.frame
    rw [hf]
  have hn : n = osr (chainOf s.fe.cfg ch).preset := by simp only [n, c, hcfg]
  have h1 : ChainStep ch 1 0 s s1 := h0.trans (ChainStep.setChan (dc := 1) (dk := 0) s0 rfl rfl)
  have hx : x.cnt = (chanOf s ch).cnt := h0.cnt
  rw [hx, hn]
  split
  · exact ((h1.trans (beforeFine_step ch s1)).trans (formFine_step ch _)).trans (rangeUp_step _ ch mag _ _)
  · exact h1.trans (rangeUp_step _ ch mag _ _)

theorem ChainStep.cfg {ch dc dk : Nat} {s t : State} (h : ChainStep ch dc dk s t) : t.fe.cfg = s.fe.cfg := by
  obtain ⟨_, _, _, _, _, _, _, _, _, hf⟩ := h.frame
  rw [hf]

/-- The outputs that form are the multiples of the oversampling ratio that the counter passes. -/
theorem samples_step (ch : Nat) (xs : List Int) (s : State) : ∃ dk, ChainStep ch xs.length dk s (xs.foldl (sampleIn ch) s) ∧
    dk + (chanOf s ch).cnt / osr (chainOf s.fe.cfg ch).preset = ((chanOf s ch).cnt + xs.length) / osr (chainOf s.fe.cfg ch).preset := by
  induction xs generalizing s with
  | nil => exact ⟨0, .refl ch s, by rw [Nat.zero_add, List.length_nil, Nat.add_zero]⟩
  | cons x xs ih =>
    have h1 := sampleIn_step ch x s
    obtain ⟨dk, h2, hk⟩ := ih (sampleIn ch s x)
    have hlen : 1 + xs.length = (x :: xs).length := by rw [List.length_cons, Nat.add_comm]
    rw [h1.cnt, h1.cfg, Nat.succ_div] at hk
    refine ⟨_, hlen ▸ h1.trans h2, ?_⟩
    rw [← hlen, ← Nat.add_assoc, ← hk]
    simp only [Nat.dvd_iff_mod_eq_zero]
    omega

/-- Nothing is due at the start of the tick but a change of range. -/
theorem beforeSamples_step {ch : Nat} {s : State} (hdue : (chanOf s ch).due = []) (hsealed : s.fe.sealedDue = false) (hcal : s.fe.calDue = [])
    (hchop : s.fe.chopDue = 0) : ChainStep ch 0 0 s (beforeSamples ch s) := by
  have hdown : ChainStep ch 0 0 s (autoRangeDown ch s) := .ite (.setChan s (rangeTo_cnt _ _).1 (rangeTo_cnt _ _).2.1) (.refl ch s)
  have hdue' : (chanOf (autoRangeDown ch s) ch).due = [] := by
    refine (apply_ite (fun t => (chanOf t ch).due) _ _ _).trans ?_
    rw [chanOf_setChan_self, (rangeTo_cnt _ _).2.2, ite_self, hdue]
  have hfe : (autoRangeDown ch s).fe.sealedDue = false ∧ (autoRangeDown ch s).fe.calDue = [] ∧ (autoRangeDown ch s).fe.chopDue = 0 := by
    obtain ⟨_, _, _, _, _, _, _, _, _, hf⟩ := hdown.frame
    rw [hf]
    exact ⟨hsealed, hcal, hchop⟩
  generalize hs1 : autoRangeDown ch s = s1 at *
  obtain ⟨hs, hc, hp⟩ := hfe
  have happly : applyTakesEffect s1 = s1 := by
    unfold applyTakesEffect
    split
    · rfl
    · rw [hs]
      rfl
  have hcalib : calibrationEffect s1 = s1 := by rw [calibrationEffect, hc, List.foldl_nil]
  have hrev : (List.range 4).foldl (fun t n => chopReversal n t) s1 = s1 := by
    refine List.foldlRecOn (motive := fun t => t = s1) _ _ rfl fun t ht n _ => ?_
    rw [ht, chopReversal, hp]
    simp
  rw [beforeSamples, hs1, happly, hcalib]
  rw [hrev, hdue', List.foldl_nil]
  exact hdown

theorem fineOutput_step {ch : Nat} {xs : List Int} {s : State} (hon : chanOn s ch = true) (hch : ch < 24) (hfail : s.nv.powerFail = false)
    (hext : s.boot.extest = false) (hdue : (chanOf s ch).due = []) (hsealed : s.fe.sealedDue = false) (hcal : s.fe.calDue = [])
    (hchop : s.fe.chopDue = 0) : ∃ dk, ChainStep ch xs.length dk s (fineOutput ch xs s) ∧
      dk + (chanOf s ch).cnt / osr (chainOf s.fe.cfg ch).preset = ((chanOf s ch).cnt + xs.length) / osr (chainOf s.fe.cfg ch).preset := by
  rw [fineOutput, if_pos (by simp [hon, hch, hfail, hext])]
  cases xs with
  | nil => exact samples_step ch [] s
  | cons x xs =>
    have h0 := beforeSamples_step hdue hsealed hcal hchop
    obtain ⟨dk, h, hk⟩ := samples_step ch (x :: xs) (beforeSamples ch s)
    rw [h0.cnt, h0.cfg] at hk
    have h' := h0.trans h
    rw [Nat.zero_add, Nat.zero_add] at h'
    exact ⟨dk, h', hk⟩

theorem ChainStep.chans {ch dc dk : Nat} {s t : State} (h : ChainStep ch dc dk s t) :
    t = { s with fe := { s.fe with chans := t.fe.chans }, mbx := slotsOnly s t, nv := asked s t, free := t.free } := by
  obtain ⟨_, _, _, _, _, _, _, _, _, rfl⟩ := h.frame
  rfl

end Sys2Proof.Machine
end

section
/-! PROOFS. PROOFS. The events of a channel, and what they write (R101 to R103, R110, R115, R119). -/

namespace Sys2Proof.Machine
open Sys2Proof Sys2Proof.Safety

/-! ## The events of a channel, each of its own row (R101 to R103, R110, R115) -/

/-- A row that changes one channel. -/
theorem setChan_row (ch : Nat) (f : Chan → Chan) (s : State) : chanOf (setChan ch f s) ch = f (chanOf s ch) ∧
    (∀ k, k ≠ ch → chanOf (setChan ch f s) k = chanOf s k) ∧ setChan ch f s = { s with fe := { s.fe with chans := (setChan ch f s).fe.chans } } :=
  ⟨chanOf_setChan_self ch f s, fun _ h => chanOf_setChan_ne f s h, rfl⟩

/-- A change of one channel behind which the configuration record is asked for (Table 13-3). -/
theorem setChan_stored (ch : Nat) (f : Chan → Chan) (s : State) : chanOf (storeConfig (setChan ch f s)) ch = f (chanOf s ch) ∧
    (∀ k, k ≠ ch → chanOf (storeConfig (setChan ch f s)) k = chanOf s k) ∧
    (25, configBody (storeConfig (setChan ch f s))) ∈ (storeConfig (setChan ch f s)).nv.recQ ∧
    storeConfig (setChan ch f s) = { s with
      fe := { s.fe with chans := (storeConfig (setChan ch f s)).fe.chans }
      nv := asked s (storeConfig (setChan ch f s)) } := by
  obtain ⟨hself, hothers, -⟩ := setChan_row ch f s
  obtain ⟨hmem, hq⟩ := storeConfig_asks (setChan ch f s)
  generalize storeConfig (setChan ch f s) = t at *
  refine ⟨?_, fun k hk => ?_, hmem, ?_⟩
  · rw [hq]
    exact hself
  · rw [hq]
    exact hothers k hk
  · rw [hq]
    rfl

theorem evActivate_on {c : EventCfg} {e : EvRun} (hen : c.enable = true) (hact : e.active = false) (hcnt : c.persistOn ≤ e.cntOn) :
    evActivate c e = { active := true, cntOn := 0, cntOff := 0 } := by
  rw [evActivate, if_pos (by simp [hen, hact, hcnt])]

theorem evDeactivate_off {c : EventCfg} {e : EvRun} (hact : e.active = true) (h : c.enable = false ∨ c.persistOff ≤ e.cntOff) :
    evDeactivate c e = {} := by
  rw [evDeactivate, if_pos (by obtain h | h := h <;> simp [hact, h])]

theorem eventActivate_row {ch ev : Nat} {s : State} (hev : ev < 2) :
    let e := if ev = 0 then (chanOf s ch).ev0 else (chanOf s ch).ev1
    (eventOf s.fe.cfg (2 * ch + ev)).enable = true → e.active = false → (eventOf s.fe.cfg (2 * ch + ev)).persistOn ≤ e.cntOn →
    eventActivate ch ev s = setChan ch (fun _ => if ev = 0 then { chanOf s ch with ev0 := { active := true, cntOn := 0, cntOff := 0 } }
      else { chanOf s ch with ev1 := { active := true, cntOn := 0, cntOff := 0 } }) s := by
  intro e hen hact hcnt
  obtain rfl | rfl : ev = 0 ∨ ev = 1 := by omega
  · exact congrArg (fun r => setChan ch (fun _ => { chanOf s ch with ev0 := r }) s) (evActivate_on hen hact hcnt)
  · exact congrArg (fun r => setChan ch (fun _ => { chanOf s ch with ev1 := r }) s) (evActivate_on hen hact hcnt)

theorem eventDeactivate_row {ch ev : Nat} {s : State} (hev : ev < 2) :
    let e := if ev = 0 then (chanOf s ch).ev0 else (chanOf s ch).ev1
    e.active = true → ((eventOf s.fe.cfg (2 * ch + ev)).enable = false ∨ (eventOf s.fe.cfg (2 * ch + ev)).persistOff ≤ e.cntOff) →
    eventDeactivate ch ev s = setChan ch (fun _ => if ev = 0 then { chanOf s ch with ev0 := {} } else { chanOf s ch with ev1 := {} }) s := by
  intro e hact h
  obtain rfl | rfl : ev = 0 ∨ ev = 1 := by omega
  · exact congrArg (fun r => setChan ch (fun _ => { chanOf s ch with ev0 := r }) s) (evDeactivate_off hact h)
  · exact congrArg (fun r => setChan ch (fun _ => { chanOf s ch with ev1 := r }) s) (evDeactivate_off hact h)

/-- A channel whose queued swap starts: the banks rotate and the fade begins (R101). -/
def swapping (l : Nat) (w : Swap) (y : Chan) : Chan :=
  { rotate y with
    fade := some { len := w.len, i := 0 }
    swap := none
    swapArmed := false
    settleTo := if y.k < y.settleTo then max y.settleTo (l + max (rotate y).bankNew.taps (rotate y).bankOld.taps) else y.settleTo }

theorem firSwapStart_row {ch : Nat} {w : Swap} {s : State} (hw : (chanOf s ch).swap = some w) (hfade : (chanOf s ch).fade = none)
    (hhold : (chanOf s ch).swapHold = false) (hgo : (chanOf s ch).swapArmed = true ∨ w.behind = true) :
    firSwapStart ch s = swapStarted ch (setChan ch (swapping (chainOf s.fe.cfg ch).maLen w) s) := by
  rw [firSwapStart]
  dsimp only
  rw [hw]
  exact if_neg (by obtain h | h := hgo <;> simp [hfade, hhold, h])

theorem swapping_settles (l : Nat) (w : Swap) (y : Chan) : y.settleTo ≤ (swapping l w y).settleTo := by
  unfold swapping
  dsimp only
  split
  · exact Nat.le_max_left _ _
  · exact Nat.le_refl _

theorem ctrGet_logEvent {off : Nat} (code src arg arg2 : Nat) (s : State) (h : off ≠ cLogNvDrop) :
    ctrGet (logEvent code src arg arg2 s) off = ctrGet s off := by
  have hint (t : State) : ctrGet (raiseInt 7 t) off = ctrGet t off := by rw [ctrGet, raiseInt_ctr, ctrGet]
  obtain ⟨e, he | he | he⟩ := logEvent_cases code src arg arg2 s
  · rw [he]
    rfl
  · rw [he]
    exact (ctrGet_bumpBy_ne 1 _ h).trans (hint _)
  · rw [he]
    exact hint _

/-- A store of the front end into a gate that closes is dropped and counted (R190, R479). -/
theorem fmPut_dropped {f a : Nat} (bs : List Byte) (p : BitVec 8) {s : State} (h : feDropped s f a = true) :
    (fmPut f a bs p s).fm = s.fm ∧ (fmPut f a bs p s).fe = s.fe ∧
      (ctrGet (fmPut f a bs p s) cSluiceDrop).toNat = min (2 ^ 32 - 1) ((ctrGet s cSluiceDrop).toNat + 1) := by
  rw [fmPut, if_pos h]
  refine ⟨by simp, by simp, ?_⟩
  rw [ctrGet_logEvent _ _ _ _ _ (by decide)]
  exact ctrGet_bumpBy_self cSluiceDrop 1 s

/-- A store of the front end into a bank that another port owns waits in the engine's buffer (R180). -/
theorem fmPut_waits {f a : Nat} (bs : List Byte) (p : BitVec 8) {s : State} (h : feDropped s f a = false) (hport : port1Owns s f a = false) :
    fmPut f a bs p s = setFm (fun m => { m with portWait := tabSet m.portWait (chipAddr f a) { bytes := bs, poison := p } }) s := by
  rw [fmPut, h, hport]
  rfl

theorem chipAddr_offset (f a n : Nat) : chipAddr f (a + n) = chipAddr f a + n := (Nat.add_assoc _ _ _).symm

theorem nth_zeros_zero (n k : Nat) : nth (zeros n) k 0 = 0 := by
  unfold nth zeros
  rw [List.getElem?_replicate]
  split
  · rfl
  · rfl

/-- Settles O21: a row of one channel is `setChan` on its state, FINE_OUTPUT a `ChainStep` for each sample, and what reaches field memory is
`CellsWritten`, entry by entry. -/
theorem chainEvents : Obligations.ChainEvents := by
  unfold Obligations.ChainEvents
  refine ⟨?fine, ?activate, ?deactivate, ?detectors, ?swap, ?fadeEnd, ?abortLate, ?abort, ?delivery, ?waits, ?dropped, ?deadline, ?window⟩
  case fine =>
    intro ch xs s hon hch hfail hext hdue hsealed hcal hchop
    obtain ⟨dk, h, hk⟩ := fineOutput_step (xs := xs) hon hch hfail hext hdue hsealed hcal hchop
    refine ⟨fineOutput ch xs s, rfl, h.cnt, ?_, h.others, h.chans⟩
    rw [h.k, Nat.add_assoc, hk]
  case activate =>
    intro ch ev e s hev he hen hact hcnt
    subst he
    obtain ⟨hself, hothers, hframe⟩ := setChan_row ch (fun _ => if ev = 0 then { chanOf s ch with ev0 := { active := true, cntOn := 0, cntOff := 0 } }
      else { chanOf s ch with ev1 := { active := true, cntOn := 0, cntOff := 0 } }) s
    exact ⟨_, congrArg Host.Outcome.next (eventActivate_row hev hen hact hcnt), hself, hothers, hframe⟩
  case deactivate =>
    intro ch ev e s hev he hact h
    subst he
    obtain ⟨hself, hothers, hframe⟩ := setChan_row ch (fun _ => if ev = 0 then { chanOf s ch with ev0 := {} } else { chanOf s ch with ev1 := {} }) s
    exact ⟨_, congrArg Host.Outcome.next (eventDeactivate_row hev hact h), hself, hothers, hframe⟩
  case detectors =>
    intro ch s hheld hk
    obtain ⟨hself, hothers, hframe⟩ := setChan_row ch detStart s
    have hrow : detectorsStart ch s = setChan ch detStart s := if_pos (by simp [hheld, Nat.lt_succ_of_le hk])
    refine ⟨_, congrArg Host.Outcome.next hrow, ?_⟩
    rw [hself]
    exact ⟨rfl, rfl, rfl, rfl, rfl, rfl, rfl, hothers, hframe⟩
  case swap =>
    intro ch w s hw hfade hhold hgo
    obtain ⟨hself, hothers, -⟩ := setChan_row ch (swapping (chainOf s.fe.cfg ch).maLen w) s
    obtain ⟨ws, due, hq⟩ := swapStarted_slots ch (setChan ch (swapping (chainOf s.fe.cfg ch).maLen w) s)
    refine ⟨_, congrArg Host.Outcome.next ((firSwapStart_row hw hfade hhold hgo).trans hq), ?_⟩
    have hself' : ∀ m, chanOf { setChan ch (swapping (chainOf s.fe.cfg ch).maLen w) s with mbx := m } ch =
      swapping (chainOf s.fe.cfg ch).maLen w (chanOf s ch) := fun _ => hself
    rw [hself']
    exact ⟨rfl, rfl, rfl, rfl, rfl, swapping_settles _ _ _, hothers, rfl⟩
  case fadeEnd =>
    intro ch f s hf hend
    have hrow : firFadeEnd ch s = storeConfig (setChan ch (fun y => { y with fade := none, abortReq := false, abortArmed := false }) s) := by
      rw [firFadeEnd, hf]
      exact if_pos hend
    exact ⟨_, congrArg Host.Outcome.next hrow, setChan_stored ch _ s⟩
  case abortLate =>
    intro ch f s hf hend
    have hruns : fadeRuns (chanOf s ch) = false := by
      rw [fadeRuns, hf]
      simpa using hend
    refine congrArg Host.Outcome.next ?_
    rw [firAbortEffect, hruns, Bool.and_false]
    rfl
  case abort =>
    intro ch f s hf hrun hreq harmed
    have hruns : fadeRuns (chanOf s ch) = true := by
      rw [fadeRuns, hf]
      simpa using hrun
    have hrow : firAbortEffect ch s = storeConfig (setChan ch (fun y => { y with
        fade := none, abortReq := false, abortArmed := false, swapHold := true, faded := true }) s) :=
      if_pos (by rw [hreq, harmed, hruns]; rfl)
    exact ⟨_, congrArg Host.Outcome.next hrow, setChan_stored ch _ s⟩
  case delivery =>
    intro m l s hup hfail hl hwf halign hok
    have h := feSummaryDelivery_delivers (m := m) hup hfail hl hwf ⟨halign, hok⟩
    refine ⟨feSummaryDelivery m s, rfl, fun ch hch hm hhas hlost => ?_, fun ch hno => ?_, fun a ha => ?_, ?_⟩
    · have hmem : ch ∈ chanList m.toNat := mem_chanList.mpr ⟨hch, hm⟩
      have hnew : entryNew s ch = true := by rw [entryNew, hhas, hlost]; rfl
      refine ⟨(h.delivered ch).trans (if_pos ⟨hmem, hnew⟩), fun k hk => ?_⟩
      rw [← h.cells.cells ch (List.mem_filter.mpr ⟨hmem, hnew⟩) k hk, chipAddr_offset]
    · refine (h.delivered ch).trans (if_neg fun ⟨hmem, hnew⟩ => ?_)
      obtain hm | hhas := hno
      · exact absurd (hm ▸ (mem_chanList.mp hmem).2 : false = true) (by decide)
      · rw [entryNew, hhas] at hnew
        exact Bool.false_ne_true hnew
    · refine h.cells.out a fun i hi => ?_
      have := (mem_chanList.mp (List.mem_filter.mp hi).1).1
      omega
    · obtain ⟨_, _, _, hf⟩ := h.cells.frame
      obtain ⟨_, _, _, _, hfe⟩ := h.fe
      generalize feSummaryDelivery m s = t at *
      cases t
      cases hfe
      cases hf
      rfl
  case waits =>
    intro ch l s hup hfail hl hch hhas hlost hdrop hport
    refine ⟨_, congrArg Host.Outcome.next ((deliverSingle_eq hup hfail hl hch hhas hlost).trans (fmPut_waits _ _ hdrop hport)), ?_, ?_, rfl⟩
    · exact tabFind_tabSet_self _ _ _
    · exact tabFind_tabSet_self _ _ _
  case dropped =>
    intro ch l s hup hfail hl hch hhas hlost hdrop
    obtain ⟨hfm, hfe, hctr⟩ := fmPut_dropped (f := l.ingestField) (a := l.ingestAddr + 16 * ch) (leBytes 16 (tabGet 0 s.fe.ready ch).toNat) 0
      (s := entryNoted ch s) hdrop
    refine ⟨_, congrArg Host.Outcome.next (deliverSingle_eq hup hfail hl hch hhas hlost), ?_, hfm, hctr⟩
    rw [hfe]
    exact tabFind_tabSet_self _ _ _
  case deadline =>
    intro late l s hup hl hwf halign hok
    obtain ⟨h, hfe⟩ := sampleDeadline_writes (late := late) hup hl hwf ⟨halign, hok⟩
    refine ⟨sampleDeadline late s, rfl, by rw [hfe], fun ch hch => ?_, fun ch hch hhas => ?_, fun a ha => ?_, ?_⟩
    · rw [hfe]
      exact getLsbD_listMask_filter (fun ch => !tabHas s.fe.delivered ch) hch hch
    · have hmem : ch ∈ (List.range 24).filter fun ch => !tabHas s.fe.delivered ch :=
        List.mem_filter.mpr ⟨List.mem_range.mpr hch, by rw [hhas]; rfl⟩
      rw [chipAddr_offset]
      refine ⟨fun k hk => ?_, fun g hg => ?_⟩
      · rw [h.cells ch hmem k hk, nth_zeros_zero]
      · obtain ⟨-, hlo, hhi⟩ := mem_groupsOf.mp hg
        have ha8 : chipAddr l.ingestField l.ingestAddr % 8 = 0 := by
          unfold chipAddr
          omega
        exact h.marks ch hmem g hlo (by omega)
    · refine h.out a fun i hi => ?_
      have := List.mem_range.mp (List.mem_filter.mp hi).1
      omega
    · obtain ⟨_, _, _, hf⟩ := h.frame
      generalize sampleDeadline late s = t at *
      cases t
      cases hfe
      cases hf
      rfl
  case window =>
    intro l s hup hl hwf halign hok
    obtain ⟨h, hfe⟩ := fineWindow_writes hup hl hwf ⟨halign, hok⟩
    refine ⟨fineWindow s, rfl, fun i k hi hk => ?_, fun a ha => ?_, ?_⟩
    · rw [← h.cells i (List.mem_range.mpr hi) k hk, chipAddr_offset]
    · refine h.out a fun i hi => ?_
      have := List.mem_range.mp hi
      omega
    · obtain ⟨_, _, _, hf⟩ := h.frame
      generalize fineWindow s = t at *
      cases t
      cases hfe
      cases hf
      rfl

end Sys2Proof.Machine
end

section
/-! PROOFS. PROOFS. The front-end die at T0, and what a tick counts (R24, R41, R43). -/

namespace Sys2Proof.Machine
open Sys2Proof Sys2Proof.Safety

/-! ## The front-end die at T0 (R24, R41, R43) -/

/-- What the end of a tick leaves on the front-end die: its own parts, what waits for completion, the writes asked for and the free values. -/
structure FeEdge (s t : State) : Prop where
  frame : ∃ fe bus mbx r x q p n f, t = { s with
    fe := fe
    bus := bus
    mbx := mbx
    nv := { s.nv with recQ := r, recRun := x, queue := q, planes := p, nextSeq := n }
    free := f }

namespace FeEdge

variable {s t u : State}

theorem refl (s : State) : FeEdge s s := ⟨_, _, _, _, _, _, _, _, _, rfl⟩

theorem trans (h : FeEdge s t) (k : FeEdge t u) : FeEdge s u := by
  obtain ⟨_, _, _, _, _, _, _, _, _, rfl⟩ := h
  obtain ⟨_, _, _, _, _, _, _, _, _, rfl⟩ := k
  exact ⟨_, _, _, _, _, _, _, _, _, rfl⟩

theorem ite {c : Prop} [Decidable c] (h : FeEdge s t) (k : FeEdge s u) : FeEdge s (if c then t else u) := by
  split
  · exact h
  · exact k

theorem foldl {α : Type} {g : State → α → State} (hg : ∀ t x, FeEdge t (g t x)) (xs : List α) (s : State) : FeEdge s (xs.foldl g s) := by
  induction xs generalizing s with
  | nil => exact .refl s
  | cons x xs ih => exact (hg s x).trans (ih _)

theorem setFe (g : FrontEnd → FrontEnd) (s : State) : FeEdge s (setFe g s) := ⟨_, _, _, _, _, _, _, _, _, rfl⟩

theorem setChan (ch : Nat) (g : Chan → Chan) (s : State) : FeEdge s (setChan ch g s) := ⟨_, _, _, _, _, _, _, _, _, rfl⟩

theorem setBus (g : Bus → Bus) (s : State) : FeEdge s (setBus g s) := ⟨_, _, _, _, _, _, _, _, _, rfl⟩

theorem finish (p : PendAct → Bool) (st : Status) (d : Nat) (s : State) : FeEdge s (finish p st d s) := by
  obtain ⟨_, _, h⟩ := finish_slots p st d s
  rw [h]
  exact ⟨_, _, _, _, _, _, _, _, _, rfl⟩

theorem swapStarted (ch : Nat) (s : State) : FeEdge s (swapStarted ch s) := by
  obtain ⟨_, _, h⟩ := swapStarted_slots ch s
  rw [h]
  exact ⟨_, _, _, _, _, _, _, _, _, rfl⟩

theorem storeConfig (s : State) : FeEdge s (storeConfig s) := by
  rw [(storeConfig_asks s).2]
  exact ⟨_, _, _, _, _, _, _, _, _, rfl⟩

end FeEdge

theorem syncReset_feEdge (ch : Nat) (cause : ResetCause) (s : State) : FeEdge s (syncReset ch cause s) := by
  unfold syncReset
  extract_lets x had l preset s1 s2 s3
  have h1 : FeEdge s s1 := .setChan _ _ s
  have h2 : FeEdge s s2 := h1.trans (.ite (.finish _ _ _ s1) (.refl s1))
  have h3 : FeEdge s s3 := h2.trans (.ite (.swapStarted ch s2) (.refl s2))
  exact .ite (.refl s) (.ite (h3.trans (.storeConfig s3)) h3)

theorem eventsSettle_feEdge (ch : Nat) (s : State) : FeEdge s (eventsSettle ch s) := by
  have hact (ev : Nat) (t : State) : FeEdge t (eventActivate ch ev t) := .ite (.setChan _ _ t) (.setChan _ _ t)
  have hdeact (ev : Nat) (t : State) : FeEdge t (eventDeactivate ch ev t) := .ite (.setChan _ _ t) (.setChan _ _ t)
  exact (((hact 1 s).trans (hact 0 _)).trans (hdeact 1 _)).trans (hdeact 0 _)

theorem cmExit_feEdge (ch : Nat) (s : State) : FeEdge s (cmExit ch s) := .ite (.setChan _ _ s) (.refl s)

theorem cmEnter_feEdge (ch : Nat) (s : State) : FeEdge s (cmEnter ch s) := .ite (.setChan _ _ s) (.refl s)

theorem chanTickEnd_feEdge (i : TickIn) (ch : Nat) (s : State) : FeEdge s (chanTickEnd i ch s) := by
  have hreset : FeEdge s ((chanOf s ch).due.foldl (fun t cause => syncReset ch cause t) s) := .foldl (fun t c => syncReset_feEdge ch c t) _ s
  have hend (t : State) (f g : Chan → Chan) (e : FrontEnd → FrontEnd) (h : FeEdge s t) : FeEdge s (setChan ch g (setFe e (cmExit ch (cmEnter ch (setChan ch f t))))) :=
    ((((h.trans (.setChan ch f t)).trans (cmEnter_feEdge ch _)).trans (cmExit_feEdge ch _)).trans (.setFe e _)).trans (.setChan ch g _)
  have hdone := hreset.trans (eventsSettle_feEdge ch _)
  refine .ite (.trans ?_ ((FeEdge.setChan ch _ _).trans (.setChan ch _ _))) ?_
  · exact hend _ _ _ _ hdone
  · exact hend _ _ _ _ hdone

theorem chopTick_feEdge (s : State) : FeEdge s (chopTick s) := by
  refine .foldl (fun t n => ?_) _ s
  exact .ite (.ite (.setFe _ t) (.setFe _ t)) (.refl t)

theorem feTickEnd_feEdge (i : TickIn) (s : State) : FeEdge s (feTickEnd i s) :=
  ((FeEdge.foldl (fun t ch => chanTickEnd_feEdge i ch t) _ s).trans (.setFe _ _)).trans (chopTick_feEdge _)

theorem chosen_bus (s : State) (cm : BitVec 24) (g : Bus → Bus) :
    ∃ b, setBus g ((List.range 4).foldl (fun t k => chooseOut s cm k t) s) = { s with bus := b } := by
  obtain ⟨o, h⟩ := foldl_chooseOut_frame s cm (List.range 4) s
  rw [h]
  exact ⟨_, rfl⟩

theorem healthChoice_bus (s : State) : ∃ b, healthChoice s = { s with bus := b } := by
  unfold healthChoice
  split
  · exact ⟨_, rfl⟩
  · exact chosen_bus s _ _

theorem choiceEdge_bus (s : State) : ∃ b, choiceEdge s = { s with bus := b } := by
  obtain ⟨b1, h1⟩ := healthChoice_bus s
  unfold choiceEdge
  extract_lets off s1 s2
  have hs1 : ∃ b, s1 = { s with bus := b } := by
    simp only [s1]
    split
    · exact ⟨b1, h1⟩
    · exact ⟨_, rfl⟩
  obtain ⟨b, hb⟩ := hs1
  obtain ⟨b2, h2⟩ := healthChoice_bus s1
  have hs2 : ∃ b, s2 = { s with bus := b } := by
    simp only [s2]
    split
    · exact ⟨b, hb⟩
    · exact ⟨b2, by rw [h2, hb]⟩
  obtain ⟨b', hb'⟩ := hs2
  exact ⟨_, by rw [hb']; rfl⟩

/-! ## What a tick counts (R41, R43) -/

/-- The counters of a tick that has ended. -/
def counted (s : State) : TickSt :=
  if tickDark s then { s.tick with total := s.tick.total + 1 }
  else { s.tick with
    total := s.tick.total + 1
    late := if s.tick.committed && s.tick.last.flags.getLsbD 0 then s.tick.late + 1 else s.tick.late
    fallback := if !s.tick.committed || s.tick.committed && s.tick.last.flags.getLsbD 5 then s.tick.fallback + 1 else s.tick.fallback }

/-- The next tick begins. -/
def advanced (t : TickSt) : TickSt :=
  { t with
    no := t.no + 1
    inFrame := if t.frameLen ≤ t.inFrame + 1 then 0 else t.inFrame + 1
    frame := if t.frameLen ≤ t.inFrame + 1 then t.frame + 1 else t.frame
    atBoundary := decide (t.frameLen ≤ t.inFrame + 1)
    t0Abs := t.t0Abs + (t.period + t.trim).toNat
    trim := 0
    realign := false
    lastOk := t.committed
    committed := false
    tcLast := none
    poison := 0 }

/-- A dark tick is one that R43 leaves out: it counts in TICK_TOTAL only. -/
theorem tickExcluded_of_dark {s : State} (h : tickDark s = true) : tickExcluded s = true := by
  simp only [tickDark, Bool.and_eq_true, Bool.or_eq_true] at h
  obtain ⟨-, h | h⟩ := h <;> simp [tickExcluded, h]

theorem tickCounts_eq (s : State) : tickCounts s = { s with tick := counted s } := by
  unfold tickCounts counted
  by_cases h : tickDark s = true
  · rw [if_pos h]
    dsimp only
    rw [if_pos (by rw [h, tickExcluded_of_dark h]; rfl)]
    rfl
  · have hf : tickDark s = false := by simpa using h
    rw [if_neg h]
    dsimp only
    rw [hf, Bool.false_and, if_neg (by decide), if_neg (by decide)]
    rfl

theorem advance_eq (s : State) : advance s = { s with tick := advanced s.tick } := by
  unfold advance advanced setTick
  simp only [decide_eq_true_eq]

/-- The front-end die at T0: the counters and the next tick's place. -/
theorem feEdge_eq (i : TickIn) (s : State) : ∃ t, FeEdge s t ∧ feEdge i s = { t with tick := advanced (counted s) } := by
  obtain ⟨b, hb⟩ := choiceEdge_bus s
  have hcount : counted (choiceEdge s) = counted s := by rw [hb]; rfl
  have h := (feTickEnd_feEdge i (tickCounts (choiceEdge s))).trans (.setFe (fun f => { f with settling := 0, rangeM := 0, cmM := 0 }) _)
  obtain ⟨fe, bus, mbx, r, x, q, p, n, f, hf⟩ := h.frame
  rw [tickCounts_eq, hcount, hb] at hf
  refine ⟨{ s with fe := fe, bus := bus, mbx := mbx, nv := { s.nv with recQ := r, recRun := x, queue := q, planes := p, nextSeq := n }, free := f },
    ⟨_, _, _, _, _, _, _, _, _, rfl⟩, ?_⟩
  rw [feEdge, advance_eq, tickCounts_eq, hcount, hb, hf]

theorem counted_fallback (s : State) : (counted s).fallback =
    if tickDark s ∨ (s.tick.committed ∧ s.tick.last.flags.getLsbD 5 = false) then s.tick.fallback else s.tick.fallback + 1 := by
  unfold counted
  cases tickDark s <;> cases s.tick.committed <;> cases s.tick.last.flags.getLsbD 5 <;> rfl

theorem counted_late (s : State) : (counted s).late =
    if tickDark s = false ∧ s.tick.committed ∧ s.tick.last.flags.getLsbD 0 then s.tick.late + 1 else s.tick.late := by
  unfold counted
  cases tickDark s <;> cases s.tick.committed <;> cases s.tick.last.flags.getLsbD 0 <;> rfl

end Sys2Proof.Machine
end

section
/-! PROOFS. PROOFS. The compute die at T0 (R24, R46, R207, R269). -/

namespace Sys2Proof.Machine
open Sys2Proof Sys2Proof.Safety

/-! ## The compute die at T0 (R24, R46, R207, R269) -/

/-- The place of a tick, its counters and its edge are the same. -/
structure SamePlace (a b : TickSt) : Prop where
  no : b.no = a.no
  inFrame : b.inFrame = a.inFrame
  frame : b.frame = a.frame
  atBoundary : b.atBoundary = a.atBoundary
  t0Abs : b.t0Abs = a.t0Abs
  total : b.total = a.total
  fallback : b.fallback = a.fallback
  late : b.late = a.late
  dark : b.dark = a.dark
  tickOut : b.tickOut = a.tickOut
  committed : b.committed = a.committed
  lastOk : b.lastOk = a.lastOk
  computeUp : b.computeUp = a.computeUp
  period : b.period = a.period
  frameLen : b.frameLen = a.frameLen
  last : b.last = a.last

theorem SamePlace.refl (a : TickSt) : SamePlace a a := ⟨rfl, rfl, rfl, rfl, rfl, rfl, rfl, rfl, rfl, rfl, rfl, rfl, rfl, rfl, rfl, rfl⟩

theorem SamePlace.trans {a b c : TickSt} (h : SamePlace a b) (k : SamePlace b c) : SamePlace a c :=
  ⟨k.no.trans h.no, k.inFrame.trans h.inFrame, k.frame.trans h.frame, k.atBoundary.trans h.atBoundary, k.t0Abs.trans h.t0Abs,
    k.total.trans h.total, k.fallback.trans h.fallback, k.late.trans h.late, k.dark.trans h.dark, k.tickOut.trans h.tickOut,
    k.committed.trans h.committed, k.lastOk.trans h.lastOk, k.computeUp.trans h.computeUp, k.period.trans h.period,
    k.frameLen.trans h.frameLen, k.last.trans h.last⟩

/-- Nothing is in flight, issued or in a later slot. -/
def QuietSeq (q : Seq) : Prop := q.flying = [] ∧ q.issued = [] ∧ q.slot = 0

/-- What the compute die does at T0, beside the tick's place and the readings. -/
structure EdgeKeeps (s t : State) : Prop where
  frame : ∃ k q fm w p l log n mbx smb pend c f, t = { s with
    tick := k
    seq := q
    fm := fm
    watch := w
    power := p
    links := l
    boot := { s.boot with log := log, logSeq := n }
    mbx := mbx
    smb := smb
    nv := { s.nv with logPend := pend }
    ctr := c
    free := f }
  place : SamePlace s.tick t.tick
  active : t.seq.active = s.seq.active
  quiet : QuietSeq s.seq → QuietSeq t.seq
  power : t.power = s.power

namespace EdgeKeeps

variable {s t u : State}

theorem refl (s : State) : EdgeKeeps s s := ⟨⟨_, _, _, _, _, _, _, _, _, _, _, _, _, rfl⟩, .refl _, rfl, fun hq => hq, rfl⟩

theorem trans (h : EdgeKeeps s t) (k : EdgeKeeps t u) : EdgeKeeps s u := by
  refine ⟨?_, h.place.trans k.place, k.active.trans h.active, fun hq => k.quiet (h.quiet hq), k.power.trans h.power⟩
  obtain ⟨_, _, _, _, _, _, _, _, _, _, _, _, _, rfl⟩ := h.frame
  obtain ⟨_, _, _, _, _, _, _, _, _, _, _, _, _, rfl⟩ := k.frame
  exact ⟨_, _, _, _, _, _, _, _, _, _, _, _, _, rfl⟩

theorem ite {c : Prop} [Decidable c] (h : EdgeKeeps s t) (k : EdgeKeeps s u) : EdgeKeeps s (if c then t else u) := by
  split
  · exact h
  · exact k

theorem foldl {α : Type} {g : State → α → State} (hg : ∀ t x, EdgeKeeps t (g t x)) (xs : List α) (s : State) : EdgeKeeps s (xs.foldl g s) := by
  induction xs generalizing s with
  | nil => exact .refl s
  | cons x xs ih => exact (hg s x).trans (ih _)

theorem setTick {g : TickSt → TickSt} (h : SamePlace s.tick (g s.tick)) : EdgeKeeps s (setTick g s) :=
  ⟨⟨_, _, _, _, _, _, _, _, _, _, _, _, _, rfl⟩, h, rfl, fun hq => hq, rfl⟩

theorem setSeq {g : Seq → Seq} (ha : (g s.seq).active = s.seq.active) (hq : QuietSeq s.seq → QuietSeq (g s.seq)) : EdgeKeeps s (setSeq g s) :=
  ⟨⟨_, _, _, _, _, _, _, _, _, _, _, _, _, rfl⟩, .refl _, ha, hq, rfl⟩

theorem setFm (g : Fm → Fm) (s : State) : EdgeKeeps s (setFm g s) := ⟨⟨_, _, _, _, _, _, _, _, _, _, _, _, _, rfl⟩, .refl _, rfl, fun hq => hq, rfl⟩

theorem setLinks (g : Links → Links) (s : State) : EdgeKeeps s (setLinks g s) :=
  ⟨⟨_, _, _, _, _, _, _, _, _, _, _, _, _, rfl⟩, .refl _, rfl, fun hq => hq, rfl⟩

end EdgeKeeps

theorem Logged.edgeKeeps {s t : State} (h : Logged s t) : EdgeKeeps s t := by
  obtain ⟨_, _, _, _, _, _, _, rfl⟩ := h.frame
  exact ⟨⟨_, _, _, _, _, _, _, _, _, _, _, _, _, rfl⟩, .refl _, rfl, fun hq => hq, rfl⟩

theorem RunKeeps.edgeKeeps {s t : State} (h : RunKeeps s t) : EdgeKeeps s t := by
  obtain ⟨_, _, _, _, _, _, _, _, _, _, _, _, _, rfl⟩ := h.frame
  exact ⟨⟨_, _, _, _, _, _, _, _, _, _, _, _, _, rfl⟩, ⟨rfl, rfl, rfl, rfl, rfl, rfl, rfl, rfl, rfl, rfl, rfl, rfl, rfl, rfl, rfl, rfl⟩, rfl, fun hq => hq, rfl⟩

theorem addSignal_edgeKeeps (obj n epoch : Nat) (s : State) : EdgeKeeps s (addSignal obj n epoch s) := by
  unfold addSignal
  dsimp only
  split
  · exact .refl s
  · split
    · exact (bump_logged _ s).edgeKeeps
    · exact (EdgeKeeps.setSeq rfl fun hq => hq).trans (.setSeq rfl fun hq => hq)

theorem markUnfinished_edgeKeeps (f mid : Nat) (s : State) : EdgeKeeps s (markUnfinished f mid s) := by
  refine .setSeq rfl fun ⟨hf, hi, hs⟩ => ⟨?_, hi, hs⟩
  dsimp only
  rw [hf, List.map_nil]

theorem setBudgetEnd_edgeKeeps (f at_ : Nat) (s : State) : EdgeKeeps s (setBudgetEnd f at_ s) := by
  unfold setBudgetEnd
  split
  · exact .refl s
  · rename_i e he
    extract_lets s1 s2 s3
    have h1 : EdgeKeeps s s1 := .setFm _ s
    have h2 : EdgeKeeps s s2 := h1.trans (.ite (fmStore_runKeeps _ _ _ _ _ s1).edgeKeeps (.refl s1))
    have h3 : EdgeKeeps s s3 := h2.trans (.ite ((bump_logged _ s2).trans (logEvent_logged _ _ _ _ _)).edgeKeeps (.refl s2))
    refine .ite (.refl s) (.ite (h3.trans (.ite (markUnfinished_edgeKeeps _ _ s3) (bump_logged _ s3).edgeKeeps)) (.ite ?_ ?_))
    · exact h3.trans (.setFm _ s3)
    · exact h3.trans (addSignal_edgeKeeps _ _ _ s3)

theorem settleSets_edgeKeeps (s : State) : EdgeKeeps s (settleSets s) := .foldl (fun t _ => setBudgetEnd_edgeKeeps _ _ t) _ s

theorem watchEdge_edgeKeeps (s : State) : EdgeKeeps s (watchEdge s) := by
  have hw (g : Watch → Watch) (t : State) : EdgeKeeps t (setWatch g t) :=
    ⟨⟨_, _, _, _, _, _, _, _, _, _, _, _, _, rfl⟩, .refl _, rfl, fun hq => hq, rfl⟩
  have hd (t : State) : EdgeKeeps t (draw t) := ⟨⟨_, _, _, _, _, _, _, _, _, _, _, _, _, rfl⟩, .refl _, rfl, fun hq => hq, rfl⟩
  unfold watchEdge
  split
  · exact hw _ s
  · split
    rename_i ctx n hc
    dsimp only
    split
    · exact hw _ s
    · exact (hw _ s).trans (hd _)

/-- The outstanding moves are cancelled: with a list, nothing is in flight any more (R24, R207). -/
theorem cancelOutstanding_edgeKeeps (s : State) : EdgeKeeps s (cancelOutstanding s) ∧
    (s.seq.active.isSome = true → QuietSeq (cancelOutstanding s).seq) := by
  unfold cancelOutstanding
  split
  · rename_i hnone
    exact ⟨.refl s, fun h => by rw [hnone] at h; exact absurd h (by decide)⟩
  · rename_i l hl
    have h1 : EdgeKeeps s (s.seq.flying.foldl (cancelMove l) s) := (RunKeeps.foldl (fun t m => cancelMove_runKeeps l t m) _ s).edgeKeeps
    exact ⟨h1.trans (.setSeq rfl fun _ => ⟨rfl, rfl, rfl⟩), fun _ => ⟨rfl, rfl, rfl⟩⟩

theorem resetScope_edgeKeeps (sc : Scope) (s : State) : EdgeKeeps s (resetScope sc s) := by
  unfold resetScope
  split
  · exact .refl s
  · refine .foldl (fun t d => ?_) _ s
    unfold resetSync
    exact EdgeKeeps.setSeq rfl fun hq => hq

theorem linkEdge_edgeKeeps (s : State) : EdgeKeeps s (linkEdge s) := by
  have hmoved (c : Prop) [Decidable c] : EdgeKeeps s (if c then setTick (fun t => { t with realignDue := true }) s else s) :=
    .ite (.setTick ⟨rfl, rfl, rfl, rfl, rfl, rfl, rfl, rfl, rfl, rfl, rfl, rfl, rfl, rfl, rfl, rfl⟩) (.refl s)
  exact ((hmoved _).trans (.setLinks _ _)).trans (.foldl (fun t l => .ite (bump_logged _ t).edgeKeeps (.refl t)) _ _)

theorem enterHoldover_edgeKeeps (s : State) : EdgeKeeps s (enterHoldover s) := by
  refine .ite (.refl s) (.trans (.setTick ?_) ((logEvent_logged _ _ _ _ _).trans (raiseInt_logged 4 _)).edgeKeeps)
  exact ⟨rfl, rfl, rfl, rfl, rfl, rfl, rfl, rfl, rfl, rfl, rfl, rfl, rfl, rfl, rfl, rfl⟩

theorem sourceEdge_edgeKeeps (err : Int) (s : State) : EdgeKeeps s (sourceEdge err s) := by
  have hset (g : TickSt → TickSt) (h : SamePlace s.tick (g s.tick)) : EdgeKeeps s (setTick g s) := .setTick h
  unfold sourceEdge
  split
  · exact .ite (hset _ ⟨rfl, rfl, rfl, rfl, rfl, rfl, rfl, rfl, rfl, rfl, rfl, rfl, rfl, rfl, rfl, rfl⟩) (.refl s)
  · split
    · exact hset _ ⟨rfl, rfl, rfl, rfl, rfl, rfl, rfl, rfl, rfl, rfl, rfl, rfl, rfl, rfl, rfl, rfl⟩
    · extract_lets lim bad s1
      have h1 : EdgeKeeps s s1 := hset _ ⟨rfl, rfl, rfl, rfl, rfl, rfl, rfl, rfl, rfl, rfl, rfl, rfl, rfl, rfl, rfl, rfl⟩
      exact .ite (h1.trans (enterHoldover_edgeKeeps s1)) h1

theorem edgePhase_edgeKeeps (i : TickIn) (s : State) : EdgeKeeps s (edgePhase i s) := by
  unfold edgePhase
  extract_lets s1
  have h1 : EdgeKeeps s s1 := .ite (.setTick ⟨rfl, rfl, rfl, rfl, rfl, rfl, rfl, rfl, rfl, rfl, rfl, rfl, rfl, rfl, rfl, rfl⟩) (.refl s)
  refine .ite (.ite (h1.trans (sourceEdge_edgeKeeps _ s1)) (h1.trans (.trans (.setTick ?_) (enterHoldover_edgeKeeps _)))) h1
  exact ⟨rfl, rfl, rfl, rfl, rfl, rfl, rfl, rfl, rfl, rfl, rfl, rfl, rfl, rfl, rfl, rfl⟩

theorem forceNow_edgeKeeps (s : State) : EdgeKeeps s (forceNow s) := by
  unfold forceNow
  extract_lets isForce on
  obtain ⟨_, _, h⟩ := finish_slots isForce .ok 0 (setTick (fun t => { t with force := on }) s)
  rw [h]
  exact ⟨⟨_, _, _, _, _, _, _, _, _, _, _, _, _, rfl⟩, ⟨rfl, rfl, rfl, rfl, rfl, rfl, rfl, rfl, rfl, rfl, rfl, rfl, rfl, rfl, rfl, rfl⟩, rfl, fun hq => hq, rfl⟩

/-- For any `st`, so that the kernel never computes TICK_STAT itself. -/
theorem statSet_edgeKeeps (st : BitVec 256) (s : State) : EdgeKeeps s (smbCopy (setTick (fun t => { t with stat := st }) s)) := by
  obtain ⟨m, h⟩ := smbCopy_setStat st s
  rw [h]
  exact ⟨⟨_, _, _, _, _, _, _, _, _, _, _, _, _, rfl⟩, ⟨rfl, rfl, rfl, rfl, rfl, rfl, rfl, rfl, rfl, rfl, rfl, rfl, rfl, rfl, rfl, rfl⟩, rfl, fun hq => hq, rfl⟩

theorem statNow_edgeKeeps (committed : Bool) (s : State) : EdgeKeeps s (statNow committed s) := statSet_edgeKeeps _ s

end Sys2Proof.Machine
end

section
/-! PROOFS. PROOFS. TICK_EDGE and FE_FREE_RUN_TICK (R24, R41, R43, R46). -/

namespace Sys2Proof.Machine
open Sys2Proof Sys2Proof.Safety

/-! ## TICK_EDGE and FE_FREE_RUN_TICK (R24, R41, R43, R46) -/

theorem addSignal_tick_eq (obj n epoch : Nat) (s : State) : (addSignal obj n epoch s).tick = s.tick := by
  unfold addSignal
  dsimp only
  split
  · rfl
  · split
    · exact bump_tick _ s
    · rfl

theorem setBudgetEnd_tick (f at_ : Nat) (s : State) : (setBudgetEnd f at_ s).tick = s.tick := by
  unfold setBudgetEnd
  split
  · rfl
  · rename_i e he
    extract_lets s1 s2 s3
    have h2 : s2.tick = s.tick := by
      simp only [s2]
      split
      · exact (fmStore_stores (rs := [(chipAddr f e.o.tokAddr, (tokenBytes e).length)]) (tokenBytes e) [] s1
          ⟨_, List.mem_singleton.mpr rfl, Nat.le_refl _, Nat.le_refl _⟩).tick_eq
      · rfl
    have h3 : s3.tick = s.tick := by
      simp only [s3]
      split
      · rw [logEvent_tick, bump_tick, h2]
      · exact h2
    split
    · rfl
    · split
      · split
        · exact h3
        · exact (bump_tick _ s3).trans h3
      · split
        · exact h3
        · exact (addSignal_tick_eq _ _ _ s3).trans h3

theorem settleSets_tick (s : State) : (settleSets s).tick = s.tick :=
  List.foldlRecOn (motive := fun t : State => t.tick = s.tick) _ _ rfl fun _ ht _ _ => (setBudgetEnd_tick _ _ _).trans ht

theorem watchEdge_tick (s : State) : (watchEdge s).tick = s.tick := by
  unfold watchEdge
  split
  · rfl
  · split
    dsimp only
    split
    · rfl
    · rfl

/-- What the compute die settles before the front-end die counts the tick. -/
theorem settled_edgeKeeps (s : State) : EdgeKeeps s (watchEdge (settleSets s)) ∧ (watchEdge (settleSets s)).tick = s.tick :=
  ⟨(settleSets_edgeKeeps s).trans (watchEdge_edgeKeeps _), (watchEdge_tick _).trans (settleSets_tick s)⟩

/-- The counters of a tick do not look at what the compute die settles before. -/
theorem counted_congr {s t : State} (htick : t.tick = s.tick) (hfe : t.fe = s.fe) (hfail : t.nv.powerFail = s.nv.powerFail) :
    counted t = counted s := by
  have hheld (n : Nat) : evHeld t n = evHeld s n := by simp only [evHeld, evOn, chanOn, chanOf, hfe]
  have hdark : tickDark t = tickDark s := by
    simp only [tickDark, anyEvHeld, htick, hfail, funext hheld]
  simp only [counted, hdark, htick]

theorem counted_rest (s : State) : (counted s).total = s.tick.total + 1 ∧ (counted s).dark = s.tick.dark ∧ (counted s).no = s.tick.no ∧
    (counted s).inFrame = s.tick.inFrame ∧ (counted s).frame = s.tick.frame ∧ (counted s).frameLen = s.tick.frameLen ∧
    (counted s).period = s.tick.period ∧ (counted s).trim = s.tick.trim ∧ (counted s).t0Abs = s.tick.t0Abs ∧
    (counted s).committed = s.tick.committed := by
  unfold counted
  split
  · exact ⟨rfl, rfl, rfl, rfl, rfl, rfl, rfl, rfl, rfl, rfl⟩
  · exact ⟨rfl, rfl, rfl, rfl, rfl, rfl, rfl, rfl, rfl, rfl⟩

/-- The readings of the ended tick, taken with what is settled before. -/
theorem readPower_frame (i : TickIn) (s : State) : ∃ p, readPower i s = { s with power := p } ∧ p.tjLast = i.tj ∧ p.icLast = i.ic :=
  ⟨_, rfl, rfl, rfl⟩

/-- The state behind the front-end die's part of an edge: the next tick's place, and the readings. -/
structure EdgeCounted (i : TickIn) (s t : State) : Prop where
  frame : ∃ w q fm fe bus p log n mbx smb l r x pl qu ns pend c f, t = { s with
    tick := advanced (counted s)
    seq := q
    fm := fm
    fe := fe
    bus := bus
    watch := w
    power := p
    links := l
    boot := { s.boot with log := log, logSeq := n }
    mbx := mbx
    smb := smb
    nv := { s.nv with recQ := r, recRun := x, queue := qu, planes := pl, nextSeq := ns, logPend := pend }
    ctr := c
    free := f }
  active : t.seq.active = s.seq.active
  tj : t.power.tjLast = i.tj
  ic : t.power.icLast = i.ic

theorem feEdge_counts (i : TickIn) (s : State) : EdgeCounted i s (feEdge i (readPower i (watchEdge (settleSets s)))) := by
  obtain ⟨h, htick⟩ := settled_edgeKeeps s
  have hactive := h.active
  obtain ⟨p, hp, htj, hic⟩ := readPower_frame i (watchEdge (settleSets s))
  have hcount : counted (readPower i (watchEdge (settleSets s))) = counted s := by
    refine counted_congr htick ?_ ?_
    · obtain ⟨_, _, _, _, _, _, _, _, _, _, _, _, _, hf⟩ := h.frame
      rw [hp, hf]
    · obtain ⟨_, _, _, _, _, _, _, _, _, _, _, _, _, hf⟩ := h.frame
      rw [hp, hf]
  obtain ⟨u, hu, he⟩ := feEdge_eq i (readPower i (watchEdge (settleSets s)))
  rw [hcount] at he
  rw [he]
  obtain ⟨_, _, _, _, _, _, _, _, _, rfl⟩ := hu.frame
  obtain ⟨_, _, _, _, _, _, _, _, _, _, _, _, _, hf⟩ := h.frame
  rw [hp]
  refine ⟨?_, hactive, htj, hic⟩
  rw [hf]
  exact ⟨_, _, _, _, _, _, _, _, _, _, _, _, _, _, _, _, _, _, _, rfl⟩

/-- TICK_OUT rises, and the compute die is up. -/
def edgeGiven (s : State) : State := tickOutRise (setTick (fun t => { t with computeUp := true }) s)

theorem tickEdge_eq {i : TickIn} {s : State} (halive : feAlive s = true) (hext : s.boot.extest = false) (hready : s.boot.stage = .ready) :
    ∃ u v w, u = feEdge i (readPower i (watchEdge (settleSets s))) ∧ EdgeKeeps u v ∧ (u.seq.active.isSome = true → QuietSeq v.seq) ∧
      EdgeKeeps (edgeGiven v) w ∧ tickEdge i s = w := by
  obtain ⟨hcancel, hquiet⟩ := cancelOutstanding_edgeKeeps (feEdge i (readPower i (watchEdge (settleSets s))))
  have hreset := resetScope_edgeKeeps .tick (cancelOutstanding (feEdge i (readPower i (watchEdge (settleSets s)))))
  have hlink := linkEdge_edgeKeeps (resetScope .tick (cancelOutstanding (feEdge i (readPower i (watchEdge (settleSets s))))))
  refine ⟨_, _, _, rfl, (hcancel.trans hreset).trans hlink, fun h => hlink.quiet (hreset.quiet (hquiet h)), ?_, rfl⟩
  rw [tickEdge, if_neg (by simp [feCounts, givesEdge, halive, hext, hready])]
  dsimp only
  generalize linkEdge _ = v
  have h4 : EdgeKeeps (edgeGiven v) (forceNow (edgePhase i (edgeGiven v))) := (edgePhase_edgeKeeps i _).trans (forceNow_edgeKeeps _)
  exact .ite (h4.trans (statNow_edgeKeeps _ _)) h4

/-- TICK_EDGE: the tick that ended is counted, and the next opens. -/
theorem tickEdge_counts {i : TickIn} {s : State} (halive : feAlive s = true) (hext : s.boot.extest = false) (hready : s.boot.stage = .ready) :
    ∃ k, SamePlace { advanced (counted s) with computeUp := true, tickOut := some (advanced (counted s)).t0Abs } k ∧ (tickEdge i s).tick = k ∧
      (s.seq.active.isSome = true → QuietSeq (tickEdge i s).seq) ∧ (tickEdge i s).power.tjLast = i.tj ∧ (tickEdge i s).power.icLast = i.ic ∧
      tickEdge i s = { s with
        tick := (tickEdge i s).tick, fe := (tickEdge i s).fe, seq := (tickEdge i s).seq, fm := (tickEdge i s).fm, watch := (tickEdge i s).watch
        power := (tickEdge i s).power, links := (tickEdge i s).links, bus := (tickEdge i s).bus
        boot := { s.boot with log := (tickEdge i s).boot.log, logSeq := (tickEdge i s).boot.logSeq }
        mbx := (tickEdge i s).mbx, smb := (tickEdge i s).smb
        nv := { asked s (tickEdge i s) with logPend := (tickEdge i s).nv.logPend }, ctr := (tickEdge i s).ctr, free := (tickEdge i s).free } := by
  obtain ⟨u, v, w, hu, huv, hquiet, hvw, he⟩ := tickEdge_eq (i := i) halive hext hready
  have hc := feEdge_counts i s
  rw [← hu] at hc
  rw [he]
  have hplace := hvw.place
  have hutick : u.tick = advanced (counted s) := by
    obtain ⟨_, _, _, _, _, _, _, _, _, _, _, _, _, _, _, _, _, _, _, hf⟩ := hc.frame
    rw [hf]
  have hgiven : SamePlace { u.tick with computeUp := true, tickOut := some u.tick.t0Abs } (edgeGiven v).tick := by
    obtain ⟨h1, h2, h3, h4, h5, h6, h7, h8, h9, -, h11, h12, -, h14, h15, h16⟩ := huv.place
    exact ⟨h1, h2, h3, h4, h5, h6, h7, h8, h9, congrArg some h5, h11, h12, rfl, h14, h15, h16⟩
  rw [hutick] at hgiven
  refine ⟨_, hgiven.trans hplace, rfl, fun h => hvw.quiet (hquiet (hc.active ▸ h)), ?_, ?_, ?_⟩
  · rw [hvw.power]
    exact (congrArg (·.tjLast) huv.power).trans hc.tj
  · rw [hvw.power]
    exact (congrArg (·.icLast) huv.power).trans hc.ic
  · obtain ⟨_, _, _, _, _, _, _, _, _, _, _, _, _, _, _, _, _, _, _, hf⟩ := hc.frame
    obtain ⟨_, _, _, _, _, _, _, _, _, _, _, _, _, hf2⟩ := huv.frame
    obtain ⟨_, _, _, _, _, _, _, _, _, _, _, _, _, hf3⟩ := hvw.frame
    rw [hf3, hf2, hf]
    rfl

/-- Settles O33: the edge counts the tick by `counted` and opens the next by `advanced`; beside these only `EdgeKeeps` goes on. -/
theorem tickEdges : Obligations.TickEdges := by
  unfold Obligations.TickEdges
  refine ⟨fun i s halive hext hready => ?_, fun i s halive hext hdown => ?_, fun s halive hext hdown => ?_⟩
  · obtain ⟨k, hk, htick, hquiet, htj, hic, hframe⟩ := tickEdge_counts (i := i) halive hext hready
    obtain ⟨htotal, hdark, hno, hin, hfr, hlen, hper, htrim, ht0, hcom⟩ := counted_rest s
    refine ⟨tickEdge i s, rfl, ?_⟩
    rw [htick]
    refine ⟨hk.no.trans ?_, hk.inFrame.trans ?_, hk.frame.trans ?_, hk.atBoundary.trans ?_, hk.t0Abs.trans ?_, hk.total.trans htotal,
      hk.fallback.trans (counted_fallback s), hk.late.trans (counted_late s), hk.dark.trans hdark, hk.tickOut.trans (congrArg some hk.t0Abs.symm),
      hk.committed, hk.lastOk.trans hcom, hk.computeUp, hk.period.trans hper, hk.frameLen.trans hlen, hquiet, htj, hic, htick ▸ hframe⟩
    · exact congrArg (· + 1) hno
    · change (if (counted s).frameLen ≤ (counted s).inFrame + 1 then _ else _) = _
      rw [hlen, hin]
    · change (if (counted s).frameLen ≤ (counted s).inFrame + 1 then _ else _) = _
      rw [hlen, hin, hfr]
    · change decide ((counted s).frameLen ≤ (counted s).inFrame + 1) = _
      rw [hlen, hin]
    · change (counted s).t0Abs + ((counted s).period + (counted s).trim).toNat = _
      rw [ht0, hper, htrim]
  · obtain ⟨htotal, hdark, hno, hin, hfr, hlen, -, -, -, -⟩ := counted_rest s
    obtain ⟨u, hu, he⟩ := feEdge_eq i s
    have hrow : feFreeRunTick i s = setBus (fun b => if s.tick.inFrame + 1 < s.tick.frameLen then b else { b with stranger := [] })
        (setTick (fun t => { t with computeUp := false, atBoundary := false, tickOut := none }) (feEdge i s)) :=
      if_neg (by simp [feCounts, givesEdge, halive, hext, hdown])
    refine ⟨feFreeRunTick i s, rfl, ?_⟩
    rw [hrow, he]
    obtain ⟨_, _, _, _, _, _, _, _, _, rfl⟩ := hu.frame
    refine ⟨congrArg (· + 1) hno, ?_, ?_, htotal, counted_fallback s, hdark, rfl, rfl, rfl, rfl⟩
    · change (if (counted s).frameLen ≤ (counted s).inFrame + 1 then _ else _) = _
      rw [hlen, hin]
    · change (if (counted s).frameLen ≤ (counted s).inFrame + 1 then _ else _) = _
      rw [hlen, hin, hfr]
  · refine congrArg Host.Outcome.next (if_pos ?_)
    simp [feCounts, givesEdge, halive, hext, hdown]

end Sys2Proof.Machine
end

section
/-! PROOFS. PROOFS. Set moves: their run, SET_BUDGET_END and GATHER_D_FINAL_SIGNAL (R255, R269, R278, R280). -/

namespace Sys2Proof.Machine
open Sys2Proof Sys2Proof.Safety

/-! ## The run of a set move (R255, R259, R269) -/

/-- The run of a set move without a continuation token and with T in its operand block. -/
def freshRun (w : SetWork) (f : Nat) (o : SetOpnd) (x : MoveCtx) (s : State) : Nat × Nat × SetRun :=
  setLoop w.next w.tail o.budgetAc (if w.dram then o.budgetTx else 2 ^ 64) (o.budgetAc + 1)
    { s := s, t := setLate f o x s + 8, start := setStart f x s, seed := s.free, aux := w.aux0
      base := if w.dram then o.tAddr else o.tAddr % 2 ^ 23, rows := o.nT }

/-- The end that waits for SET_BUDGET_END. -/
def freshEnd (w : SetWork) (f : Nat) (o : SetOpnd) (x : MoveCtx) (s : State) : SetEnd :=
  let r := freshRun w f o x s
  let q := w.fin r.1 r.2.2
  { o := o, mid := x.mid, state := r.1, err := r.2.1, outN := q.outN, posA := q.posA, posB := q.posB, aux := q.aux, txUsed := q.tx
    acUsed := q.ac, moves := 1, run := runOf s o.job, epoch := (syncOf s o.sigObj).epoch, ends := setEndsAt w.tail o q }

theorem setRunMove_fresh {w : SetWork} {f : Nat} {o : SetOpnd} {x : MoveCtx} {s : State} (hlive : fieldLive s f = true)
    (hno : tabHas s.fm.setEnds f = false) (hcont : o.cont = false) (hdesc : o.desc = false) :
    setRunMove w.next w.fin w.tail w.aux0 w.dram f o x s = setFm (fun m => { m with setEnds := tabSet m.setEnds f (freshEnd w f o x s) })
      (w.fin (freshRun w f o x s).1 (freshRun w f o x s).2.2).s := by
  rw [setRunMove, if_neg (by simp [hlive, hno])]
  simp only [hcont, hdesc, Bool.false_and, Bool.false_eq_true, if_false, setBase, Bool.not_false, if_true, ne_eq, not_true_eq_false,
    Bool.and_false]
  rfl

/-- What a set move without DRAM changes. -/
def LocalMove (s t : State) : Prop := ∃ fm mbx ctr free, t = { s with fm := fm, mbx := mbx, ctr := ctr, free := free }

theorem localMove_closed (s : State) : SetClosed (LocalMove s) := by
  have hstores {rs : List (Nat × Nat)} {t u : State} (h : LocalMove s t) (k : Stores rs t u) : LocalMove s u := by
    obtain ⟨_, _, _, _, rfl⟩ := h
    obtain ⟨_, _, _, _, _, _, _, rfl⟩ := k.frame
    exact ⟨_, _, _, _, rfl⟩
  refine ⟨fun h => hstores h (draw_stores [] _), fun h => hstores h ((fmScan_reads _ _ _ _ _).stores []), fun {w f a bs ps u} h => ?_,
    fun {f g bs p u} h => ?_, fun h => hstores h ((bumpBy_reads _ _ _).stores [])⟩
  · exact hstores h (fmStore_stores (rs := [(chipAddr f a, bs.length)]) bs ps u ⟨_, List.mem_singleton.mpr rfl, Nat.le_refl _, Nat.le_refl _⟩)
  · obtain ⟨_, _, _, _, rfl⟩ := h
    unfold fmPutGroup
    split
    · exact ⟨_, _, _, _, rfl⟩
    · exact ⟨_, _, _, _, rfl⟩

/-- The ends of other moves stay. -/
theorem setEnds_closed (m : Tab SetEnd) : SetClosed (fun t => t.fm.setEnds = m) := by
  have hstores {rs : List (Nat × Nat)} {t u : State} (h : t.fm.setEnds = m) (k : Stores rs t u) : u.fm.setEnds = m := by
    obtain ⟨_, _, _, _, _, _, _, rfl⟩ := k.frame
    exact h
  refine ⟨fun h => h, fun h => hstores h ((fmScan_reads _ _ _ _ _).stores []), fun {w f a bs ps u} h => ?_,
    fun {f g bs p u} h => ?_, fun h => hstores h ((bumpBy_reads _ _ _).stores [])⟩
  · exact hstores h (fmStore_stores (rs := [(chipAddr f a, bs.length)]) bs ps u ⟨_, List.mem_singleton.mpr rfl, Nat.le_refl _, Nat.le_refl _⟩)
  · unfold fmPutGroup
    split
    · exact h
    · exact h

theorem descEnqueue_setEnds (q : DescWait) (s : State) : (descEnqueue q s).fm.setEnds = s.fm.setEnds := by
  obtain ⟨_, _, _, _, _, _, _, _, _, _, _, _, _, _, _, _, _, h⟩ := (descEnqueue_descKeeps q s).frame
  rw [h]

/-- What the run and its trailing output keep. -/
theorem freshRun_keeps {P : State → Prop} (hP : SetClosed P) {i : Instr} {f : Nat} {o : SetOpnd} {x : MoveCtx} {w : SetWork} {s : State}
    (e : setWork i = some (f, o, x, w)) (hq : w.dram = true → ∀ {q s}, P s → P (descEnqueue q s)) (h : P s) :
    P (w.fin (freshRun w f o x s).1 (freshRun w f o x s).2.2).s := by
  obtain ⟨hnext, hfin⟩ := setWork_keeps hP e hq
  exact hfin _ _ (setLoop_keeps hnext _ h)

/-! ## SET_BUDGET_END and GATHER_D_FINAL_SIGNAL (R269, R278, R280) -/

theorem addSignal_count {obj n : Nat} {s : State} (hn : n ≠ 0) :
    (syncOf (addSignal obj n (syncOf s obj).epoch s) obj).count = min 65535 ((syncOf s obj).count + n) := by
  rw [syncOf_addSignal_self obj s hn]
  rfl

/-- The token of a move with one is written, and its end no longer waits. -/
def tokenLeft (f : Nat) (e : SetEnd) (s : State) : State :=
  let s1 := setFm (fun m => { m with setEnds := tabDel m.setEnds f }) s
  if e.o.cont then fmStore 8 f e.o.tokAddr (tokenBytes e) [] s1 else s1

/-- An error counts and is logged. -/
def errorNoted (f : Nat) (e : SetEnd) (s : State) : State :=
  if e.state = 3 then logEvent 0x0060 4 e.err e.mid (bump (cSetErr f) s) else s

/-- How an end tells of itself. -/
def endTold (f : Nat) (e : SetEnd) (u s : State) : State :=
  if e.state = 1 then (if e.o.cont then markUnfinished f e.mid s else bump (cSetExhaust f) s)
  else if gatherFlies u f e.mid e.run && e.state == 2 then
    setFm (fun m => { m with gatherEnds := tabSet m.gatherEnds f (tabGet [] m.gatherEnds f ++ [e]) }) s
  else addSignal e.o.sigObj e.o.sigN e.epoch s

theorem setBudgetEnd_ends {f n : Nat} {e : SetEnd} {s : State} (he : tabFind s.fm.setEnds f = some e) (hn : endsNow e n = true) :
    setBudgetEnd f n s = endTold f e s (errorNoted f e (tokenLeft f e s)) := by
  rw [setBudgetEnd, he]
  dsimp only
  rw [if_neg (by rw [hn]; decide)]
  rfl

theorem setBudgetEnd_early {f n : Nat} {s : State} (h : ∀ e, tabFind s.fm.setEnds f = some e → endsNow e n = false) : setBudgetEnd f n s = s := by
  unfold setBudgetEnd
  split
  · rfl
  · rename_i e he
    rw [h e he]
    rfl

theorem errorNoted_logged (f : Nat) (e : SetEnd) (s : State) : Logged s (errorNoted f e s) :=
  .ite ((bump_logged _ s).trans (logEvent_logged _ _ _ _ _)) (.refl s)

theorem Logged.fm_eq {s t : State} (h : Logged s t) : t.fm = s.fm := by
  obtain ⟨_, _, _, _, _, _, _, rfl⟩ := h.frame
  rfl

theorem Logged.seq_eq {s t : State} (h : Logged s t) : t.seq = s.seq := by
  obtain ⟨_, _, _, _, _, _, _, rfl⟩ := h.frame
  rfl

theorem Logged.dram_eq {s t : State} (h : Logged s t) : t.dram = s.dram := by
  obtain ⟨_, _, _, _, _, _, _, rfl⟩ := h.frame
  rfl

theorem endTold_fm (f : Nat) (e : SetEnd) (u s : State) : ∃ g, (endTold f e u s).fm = { s.fm with gatherEnds := g } := by
  unfold endTold
  split
  · split
    · exact ⟨_, rfl⟩
    · exact ⟨_, bump_fm _ s⟩
  · split
    · exact ⟨_, rfl⟩
    · exact ⟨_, addSignal_fm _ _ _ s⟩

theorem endTold_dram (f : Nat) (e : SetEnd) (u s : State) : (endTold f e u s).dram = s.dram := by
  unfold endTold
  split
  · split
    · rfl
    · exact bump_dram _ s
  · split
    · rfl
    · obtain ⟨_, _, _, _, _, _, _, _, _, _, _, _, _, _, _, _, _, h⟩ := (addSignal_descKeeps e.o.sigObj e.o.sigN e.epoch s).frame
      rw [h]

/-- An end that no transfer of its run holds back signals in the epoch of its start. -/
theorem endTold_signals {f : Nat} {e : SetEnd} {u s : State} (h1 : e.state ≠ 1) (hfly : gatherFlies u f e.mid e.run = false) :
    endTold f e u s = addSignal e.o.sigObj e.o.sigN e.epoch s := by
  rw [endTold, if_neg h1, hfly, Bool.false_and, if_neg (by decide)]

theorem gatherFinal_signals {f : Nat} {e : SetEnd} {rest : List SetEnd} {s : State} (hes : tabGet [] s.fm.gatherEnds f = e :: rest)
    (hfly : gatherFlies s f e.mid e.run = false) : gatherFinal f s = addSignal e.o.sigObj e.o.sigN e.epoch
      (setFm (fun m => { m with gatherEnds := if rest.isEmpty then tabDel m.gatherEnds f else tabSet m.gatherEnds f rest }) s) := by
  rw [gatherFinal, hes]
  dsimp only
  rw [List.find?_cons_of_pos (by rw [hfly]; rfl)]
  dsimp only
  rw [List.erase_cons_head]

end Sys2Proof.Machine
end

section
/-! PROOFS. PROOFS. Set moves: tokens, ends and the elements of a gather (R255, R259, R269 to R275). -/

namespace Sys2Proof.Machine
open Sys2Proof Sys2Proof.Safety

/-! ## What the end of a set move leaves (R269, R275) -/

theorem Logged.syncOf_eq {s t : State} (h : Logged s t) (obj : Nat) : syncOf t obj = syncOf s obj := by rw [syncOf, syncOf, h.seq_eq]

theorem Logged.epoch_eq {s t : State} (h : Logged s t) (obj : Nat) : (syncOf t obj).epoch = (syncOf s obj).epoch := by rw [h.syncOf_eq]

theorem ctrGet_addSignal_current {obj n : Nat} {s : State} (hn : n ≠ 0) (off : Nat) :
    ctrGet (addSignal obj n (syncOf s obj).epoch s) off = ctrGet s off := by
  rw [addSignal_frame obj s hn]
  rfl

/-- The log of an error is not one of the store's. -/
theorem ctrGet_errorNoted {f : Nat} {e : SetEnd} {s : State} (h3 : e.state = 3) :
    (ctrGet (errorNoted f e s) (cSetErr f)).toNat = min (2 ^ 32 - 1) ((ctrGet s (cSetErr f)).toNat + 1) := by
  have hoff : cSetErr f ≠ cLogNvDrop := by
    unfold cSetErr cField cLogNvDrop
    omega
  rw [errorNoted, if_pos h3, ctrGet_logEvent _ _ _ _ _ hoff]
  exact ctrGet_bumpBy_self _ _ _

theorem tokenLeft_bare {f : Nat} {e : SetEnd} (hcont : e.o.cont = false) (s : State) :
    tokenLeft f e s = setFm (fun m => { m with setEnds := tabDel m.setEnds f }) s := by
  rw [tokenLeft, hcont]
  rfl

theorem tokenLeft_token {f : Nat} {e : SetEnd} (hcont : e.o.cont = true) (s : State) :
    tokenLeft f e s = fmStore 8 f e.o.tokAddr (tokenBytes e) [] (setFm (fun m => { m with setEnds := tabDel m.setEnds f }) s) := by
  rw [tokenLeft, hcont]
  rfl

theorem endTold_mem (f : Nat) (e : SetEnd) (u s : State) : (endTold f e u s).fm.mem = s.fm.mem := by
  obtain ⟨_, h⟩ := endTold_fm f e u s
  rw [h]

theorem endTold_setEnds (f : Nat) (e : SetEnd) (u s : State) : (endTold f e u s).fm.setEnds = s.fm.setEnds := by
  obtain ⟨_, h⟩ := endTold_fm f e u s
  rw [h]

theorem tokenLeft_setEnds (f : Nat) (e : SetEnd) (s : State) : (tokenLeft f e s).fm.setEnds = tabDel s.fm.setEnds f := by
  unfold tokenLeft
  split
  · exact (setEnds_closed (tabDel s.fm.setEnds f)).store rfl
  · rfl

theorem setBudgetEnd_forgets {f n : Nat} {e : SetEnd} {s : State} (he : tabFind s.fm.setEnds f = some e) (hn : endsNow e n = true) :
    tabFind (setBudgetEnd f n s).fm.setEnds f = none := by
  rw [setBudgetEnd_ends he hn, endTold_setEnds, (errorNoted_logged f e _).fm_eq, tokenLeft_setEnds]
  exact tabFind_tabDel_self _ _

/-- A move without a token signals or counts. -/
theorem setBudgetEnd_bare {f n : Nat} {e : SetEnd} {s : State} (he : tabFind s.fm.setEnds f = some e) (hn : endsNow e n = true)
    (hcont : e.o.cont = false) (hsig : e.o.sigN ≠ 0) (hep : e.epoch = (syncOf s e.o.sigObj).epoch) (hfly : gatherFlies s f e.mid e.run = false) :
    (e.state ≠ 1 → (syncOf (setBudgetEnd f n s) e.o.sigObj).count = min 65535 ((syncOf s e.o.sigObj).count + e.o.sigN)) ∧
    (e.state = 3 → (ctrGet (setBudgetEnd f n s) (cSetErr f)).toNat = min (2 ^ 32 - 1) ((ctrGet s (cSetErr f)).toNat + 1)) ∧
    (e.state = 1 → (setBudgetEnd f n s).seq = s.seq ∧
      (ctrGet (setBudgetEnd f n s) (cSetExhaust f)).toNat = min (2 ^ 32 - 1) ((ctrGet s (cSetExhaust f)).toNat + 1)) ∧
    (setBudgetEnd f n s).fm.mem = s.fm.mem ∧ (setBudgetEnd f n s).dram = s.dram := by
  have hlog := errorNoted_logged f e (setFm (fun m => { m with setEnds := tabDel m.setEnds f }) s)
  have hsync : syncOf (errorNoted f e (setFm (fun m => { m with setEnds := tabDel m.setEnds f }) s)) e.o.sigObj = syncOf s e.o.sigObj :=
    hlog.syncOf_eq _
  have hepoch : e.epoch = (syncOf (errorNoted f e (setFm (fun m => { m with setEnds := tabDel m.setEnds f }) s)) e.o.sigObj).epoch := by
    rw [hsync]
    exact hep
  rw [setBudgetEnd_ends he hn, tokenLeft_bare hcont]
  refine ⟨fun h1 => ?_, fun h3 => ?_, fun h1 => ?_, ?_, ?_⟩
  · rw [endTold_signals h1 hfly, hepoch, addSignal_count hsig, hsync]
  · rw [endTold_signals (by omega) hfly, hepoch, ctrGet_addSignal_current hsig]
    exact ctrGet_errorNoted h3
  · have hquiet : errorNoted f e (setFm (fun m => { m with setEnds := tabDel m.setEnds f }) s) =
        setFm (fun m => { m with setEnds := tabDel m.setEnds f }) s := if_neg (by omega)
    rw [hquiet, endTold, if_pos h1, hcont, if_neg (by decide)]
    exact ⟨bump_seq _ _, ctrGet_bumpBy_self _ _ _⟩
  · rw [endTold_mem, hlog.fm_eq]
    rfl
  · rw [endTold_dram, hlog.dram_eq]
    rfl

/-! ## The token of a move that goes on (R271, R274) -/

theorem tokenBytes_length (e : SetEnd) : (tokenBytes e).length = 32 := by
  rw [tokenBytes, leBytes_length]

/-- A token in banks that are on stands at its address, and nothing else changes but the marks of its groups. -/
theorem tokenStored {f : Nat} {e : SetEnd} {s : State} (hwf : memWf 0 s.fm.mem = true) (hal : e.o.tokAddr % 8 = 0)
    (hon : ∀ k, k < 32 → bankOn s f (e.o.tokAddr + k) = true) :
    (∃ fm, fmStore 8 f e.o.tokAddr (tokenBytes e) [] s = { s with fm := fm }) ∧
    fmBytes (fmStore 8 f e.o.tokAddr (tokenBytes e) [] s) f e.o.tokAddr 32 = tokenBytes e ∧
    ∀ k, (k < chipAddr f e.o.tokAddr ∨ chipAddr f e.o.tokAddr + 32 ≤ k) →
      memRead 0 (fmStore 8 f e.o.tokAddr (tokenBytes e) [] s).fm.mem k = memRead 0 s.fm.mem k := by
  have hread := fmStore_read (w := 8) (bs := tokenBytes e) (ps := []) hal hwf (by rw [tokenBytes_length]; exact hon)
  rw [tokenBytes_length] at hread
  refine ⟨?_, ?_, fun k hk => (hread k).trans (if_neg ?_)⟩
  · have hoff : (accesses 8 (e.o.tokAddr / 8 * 8) (8 * ((32 + 7) / 8))).filter (bankOffAt s f) = [] := by
      refine List.filter_eq_nil_iff.mpr fun y hy => ?_
      rw [accesses, if_neg (by decide)] at hy
      obtain ⟨i, hi, rfl⟩ := List.mem_map.mp hy
      have hi := List.mem_range.mp hi
      have hb := bankOffAt_of_on (hon (8 * i) (by omega))
      rw [show (e.o.tokAddr / 8 * 8 / 8 + i) * 8 = e.o.tokAddr + 8 * i by omega, hb]
      decide
    have hlen : (zeros (e.o.tokAddr - e.o.tokAddr / 8 * 8) ++ tokenBytes e).length = 32 := by
      rw [List.length_append, tokenBytes_length, zeros, List.length_replicate]
      omega
    rw [fmStore, hlen, hoff, List.length_nil, bumpBy, if_pos rfl]
    refine List.foldlRecOn (motive := fun t : State => ∃ fm, t = { s with fm := fm }) _ _ ⟨_, rfl⟩ fun t ht i _ => ?_
    obtain ⟨_, rfl⟩ := ht
    unfold fmPutGroup
    split
    · exact ⟨_, rfl⟩
    · exact ⟨_, rfl⟩
  · refine List.ext_getElem (by rw [fmBytes, List.length_map, List.length_range, tokenBytes_length]) fun i hi hj => ?_
    rw [tokenBytes_length] at hj
    simp only [fmBytes, List.getElem_map, List.getElem_range, fmByte]
    rw [hread, chipAddr_offset, if_pos (by rw [roundUp]; omega), Nat.add_sub_cancel_left, nth,
      List.getElem?_eq_getElem (by rw [tokenBytes_length]; exact hj), Option.getD_some]
  · rw [roundUp]
    omega

theorem markUnfinished_marks (f mid : Nat) (s : State) : markUnfinished f mid s = { s with seq := { s.seq with
    flying := s.seq.flying.map fun m => if m.engine = 0x520 + f ∧ m.mv.moveId = mid ∧ m.started.isSome = true
      then { m with unfinished := true } else m } } := by
  have hmark : (fun m : Flying => if m.engine == 0x520 + f && m.mv.moveId == mid && m.started.isSome then { m with unfinished := true } else m) =
      fun m => if m.engine = 0x520 + f ∧ m.mv.moveId = mid ∧ m.started.isSome = true then { m with unfinished := true } else m := by
    funext m
    simp only [Bool.and_eq_true, beq_iff_eq, and_assoc]
  rw [markUnfinished, hmark]
  rfl

/-- A move with a token writes it; one with elements remaining is marked. -/
theorem setBudgetEnd_token {f n : Nat} {e : SetEnd} {s : State} (he : tabFind s.fm.setEnds f = some e) (hn : endsNow e n = true)
    (hcont : e.o.cont = true) (hwf : memWf 0 s.fm.mem = true) (hal : e.o.tokAddr % 8 = 0)
    (hon : ∀ k, k < 32 → bankOn s f (e.o.tokAddr + k) = true) :
    fmBytes (setBudgetEnd f n s) f e.o.tokAddr 32 = tokenBytes e ∧
    (∀ k, (k < chipAddr f e.o.tokAddr ∨ chipAddr f e.o.tokAddr + 32 ≤ k) →
      memRead 0 (setBudgetEnd f n s).fm.mem k = memRead 0 s.fm.mem k) ∧
    (e.state = 1 → setBudgetEnd f n s = { s with fm := (setBudgetEnd f n s).fm, seq := { s.seq with flying := s.seq.flying.map fun m =>
      if m.engine = 0x520 + f ∧ m.mv.moveId = e.mid ∧ m.started.isSome = true then { m with unfinished := true } else m } }) := by
  obtain ⟨⟨fm, hfm⟩, hbytes, hout⟩ := tokenStored (f := f) (e := e) (s := setFm (fun m => { m with setEnds := tabDel m.setEnds f }) s) hwf hal hon
  have hmem : (setBudgetEnd f n s).fm.mem =
      (fmStore 8 f e.o.tokAddr (tokenBytes e) [] (setFm (fun m => { m with setEnds := tabDel m.setEnds f }) s)).fm.mem := by
    rw [setBudgetEnd_ends he hn, endTold_mem, (errorNoted_logged f e _).fm_eq, tokenLeft_token hcont]
  refine ⟨?_, fun k hk => ?_, fun h1 => ?_⟩
  · rw [← hbytes]
    simp only [fmBytes, fmByte, hmem]
  · rw [hmem]
    exact hout k hk
  · have hend : setBudgetEnd f n s = markUnfinished f e.mid
        (fmStore 8 f e.o.tokAddr (tokenBytes e) [] (setFm (fun m => { m with setEnds := tabDel m.setEnds f }) s)) := by
      rw [setBudgetEnd_ends he hn, endTold, if_pos h1, hcont, if_pos rfl, errorNoted, if_neg (by omega), tokenLeft_token hcont]
    rw [hend, markUnfinished_marks, hfm]
    rfl

/-! ## Elements of a gather (R255, R259) -/

/-- A read or a write of a row leaves the position and the count of outputs. -/
theorem setScan_place (ps : List Nat) (f a n : Nat) (r : SetRun) : (setScan ps f a n r).posA = r.posA ∧ (setScan ps f a n r).outN = r.outN := by
  rw [setScan]
  split
  · exact ⟨rfl, rfl⟩
  · exact ⟨rfl, rfl⟩

theorem setRow_place (ps : List Nat) (f a : Nat) (bs : List Byte) (p : BitVec 8) (r : SetRun) :
    (setRow ps f a bs p r).posA = r.posA ∧ (setRow ps f a bs p r).outN = r.outN := by
  unfold setRow setWrite
  extract_lets
  split
  · exact ⟨rfl, rfl⟩
  · exact ⟨rfl, rfl⟩

theorem nextGather_none {f : Nat} {o : SetOpnd} {r : SetRun} (hpos : r.posA < o.nA) (hi : idxA f o r = (none32, 0)) :
    nextGather f o r = .elem (rowCyc o) (stepA 1 (setRow portOut f (o.outAddr + o.row * r.posA) (zeros o.row) 0
      (setScan portA f (o.aAddr + 4 * r.posA) 4 r))) := by
  rw [nextGather, if_neg (Nat.not_le.mpr hpos), hi]
  rfl

theorem nextGather_outside {f i : Nat} {o : SetOpnd} {r : SetRun} (hpos : r.posA < o.nA) (hi : idxA f o r = (i, 0)) (hne : i ≠ none32)
    (hrows : r.rows ≤ i) : nextGather f o r = .elem (rowCyc o) (stepA 1 (noteOob f (setRow portOut f (o.outAddr + o.row * r.posA) (zeros o.row) 1
      (setScan portA f (o.aAddr + 4 * r.posA) 4 r)))) := by
  rw [nextGather, if_neg (Nat.not_le.mpr hpos), hi]
  dsimp only
  rw [if_neg (by decide), if_neg hne, if_pos hrows]

theorem nextGather_inside {f i : Nat} {o : SetOpnd} {r : SetRun} (hpos : r.posA < o.nA) (hi : idxA f o r = (i, 0)) (hne : i ≠ none32)
    (hrows : i < r.rows) : nextGather f o r = .elem (rowCyc o) (stepA 1 (setRow portOut f (o.outAddr + o.row * r.posA)
      (setRead portT r f (r.base + o.row * i) o.row).1 (setRead portT r f (r.base + o.row * i) o.row).2
      (setScan portT f (r.base + o.row * i) o.row (setScan portA f (o.aAddr + 4 * r.posA) 4 r)))) := by
  rw [nextGather, if_neg (Nat.not_le.mpr hpos), hi]
  dsimp only
  rw [if_neg (by decide), if_neg hne, if_neg (Nat.not_le.mpr hrows)]

/-- Settles O32: each form of the end and of an element through the lemma that says what it leaves. -/
theorem setMoves : Obligations.SetMoves := by
  refine ⟨fun i f o x w s hw hlive hno hcont hdesc => ?_, fun f n e s he hn hcont hsig hep hfly => ?_, fun f n e s he hn hcont hwf hal hon => ?_,
    fun f n s h => ?_, fun f e rest s hes hsig hep hfly => ?_, fun f o r i hpos hi => ⟨fun h0 => ?_, fun hne hrows => ?_, fun hne hrows => ?_⟩⟩
  · have hends : (w.fin (freshRun w f o x s).1 (freshRun w f o x s).2.2).s.fm.setEnds = s.fm.setEnds :=
      freshRun_keeps (setEnds_closed _) hw (fun _ _ _ h => (descEnqueue_setEnds _ _).trans h) rfl
    refine ⟨_, freshEnd w f o x s, (exec_setWork hw s).trans (congrArg _ (setRunMove_fresh hlive hno hcont hdesc)), tabFind_tabSet_self _ _ _,
      rfl, rfl, rfl, ⟨rfl, rfl, rfl, rfl, rfl, rfl, rfl⟩, fun g hg => ?_, fun hdram => ?_⟩
    · exact (tabFind_tabSet_ne _ _ hg).trans (congrArg (tabFind · g) hends)
    · obtain ⟨_, _, _, _, hlocal⟩ := freshRun_keeps (localMove_closed s) hw (fun h => absurd (h.symm.trans hdram) (by decide)) ⟨_, _, _, _, rfl⟩
      rw [hlocal]
      rfl
  · obtain ⟨hsignal, hctr, hone, hmem, hdram⟩ := setBudgetEnd_bare he hn hcont hsig hep hfly
    exact ⟨_, rfl, setBudgetEnd_forgets he hn, fun h2 => hsignal (by omega), fun h3 => ⟨hsignal (by omega), hctr h3⟩, hone, hmem, hdram⟩
  · exact ⟨_, rfl, setBudgetEnd_forgets he hn, setBudgetEnd_token he hn hcont hwf hal hon⟩
  · exact congrArg _ (setBudgetEnd_early h)
  · have hexec : exec (.gatherDFinalSignal f) s = .next (gatherFinal f s) := rfl
    have hkept : (syncOf (setFm (fun m => { m with gatherEnds := if rest.isEmpty then tabDel m.gatherEnds f else tabSet m.gatherEnds f rest }) s)
        e.o.sigObj) = syncOf s e.o.sigObj := rfl
    rw [gatherFinal_signals hes hfly, hep, ← hkept] at hexec
    refine ⟨_, hexec, ?_, (addSignal_count hsig).trans rfl, ?_⟩
    · rw [addSignal_frame _ _ hsig]
      cases rest with
      | nil => exact (tabGet_tabDel_ite _ _ _ _).trans (if_pos rfl)
      | cons _ _ => exact tabGet_tabSet_self _ _ _ _
    · rw [addSignal_frame _ _ hsig]
      rfl
  · exact ⟨_, nextGather_none hpos (h0 ▸ hi), by simp only [stepA, setRow_place, setScan_place], by simp only [stepA, setRow_place, setScan_place], rfl⟩
  · exact ⟨_, nextGather_outside hpos hi hne hrows, by simp only [stepA, noteOob, setRow_place, setScan_place], bump_fm _ _⟩
  · exact ⟨_, nextGather_inside hpos hi hne hrows, by simp only [stepA, setRow_place, setScan_place],
      by simp only [stepA, setRow_place, setScan_place], rfl⟩

end Sys2Proof.Machine
end

section
/-! PROOFS. PROOFS. What a part of the frame boundary may leave as it was (R8). -/

namespace Sys2Proof.Machine
open Sys2Proof Sys2Proof.Safety

/-! ## What the work of a frame boundary leaves (R8) -/

/-- The waits that the boundary takes up at their own place: a tick source, a seed, settings of the governor. -/
def isSource : PendAct → Bool
  | .source _ _ => true
  | _ => false

def isSeed : PendAct → Bool
  | .seed _ => true
  | _ => false

def isGov : PendAct → Bool
  | .governor _ => true
  | _ => false

def waitsOf (p : PendAct → Bool) (s : State) : List Wait := s.mbx.waits.filter fun w => p w.act

/-- What a part of the boundary may leave as it was. -/
inductive Aspect where
  | part | pending | stage | trust | ident | mem | img | cfg
  | no | frame | inFrame | total | late | fallback | dark | atBoundary
  | period | frameLen | pendTsq | source | epoch | holdover
  | fence | fenceNext | seed | streams | gov | envQ | sources | seeds | settings
  deriving DecidableEq

def Aspect.Same : Aspect → State → State → Prop
  | .part, s, t => t.part = s.part
  | .pending, s, t => t.pending = s.pending
  | .stage, s, t => t.boot.stage = s.boot.stage
  | .trust, s, t => t.trust = s.trust
  | .ident, s, t => t.links.ident = s.links.ident
  | .mem, s, t => t.nv.mem = s.nv.mem
  | .img, s, t => t.nv.img = s.nv.img
  | .cfg, s, t => t.fe.cfg = s.fe.cfg
  | .no, s, t => t.tick.no = s.tick.no
  | .frame, s, t => t.tick.frame = s.tick.frame
  | .inFrame, s, t => t.tick.inFrame = s.tick.inFrame
  | .total, s, t => t.tick.total = s.tick.total
  | .late, s, t => t.tick.late = s.tick.late
  | .fallback, s, t => t.tick.fallback = s.tick.fallback
  | .dark, s, t => t.tick.dark = s.tick.dark
  | .atBoundary, s, t => t.tick.atBoundary = s.tick.atBoundary
  | .period, s, t => t.tick.period = s.tick.period
  | .frameLen, s, t => t.tick.frameLen = s.tick.frameLen
  | .pendTsq, s, t => t.tick.pendTsq = s.tick.pendTsq
  | .source, s, t => t.tick.source = s.tick.source
  | .epoch, s, t => t.tick.epoch = s.tick.epoch
  | .holdover, s, t => t.tick.holdover = s.tick.holdover
  | .fence, s, t => t.seq.fence = s.seq.fence
  | .fenceNext, s, t => t.seq.fenceNext = s.seq.fenceNext
  | .seed, s, t => t.seq.seed = s.seq.seed
  | .streams, s, t => t.seq.streams = s.seq.streams
  | .gov, s, t => t.power.gov = s.power.gov
  | .envQ, s, t => t.watch.envQ = s.watch.envQ
  | .sources, s, t => waitsOf isSource t = waitsOf isSource s
  | .seeds, s, t => waitsOf isSeed t = waitsOf isSeed s
  | .settings, s, t => waitsOf isGov t = waitsOf isGov s

/-- Every aspect but those of `x` stays, and no completion that is due is lost. -/
structure Bound (x : List Aspect) (s t : State) : Prop where
  same : ∀ a, a ∉ x → a.Same s t
  due : ∀ d ∈ s.mbx.due, d ∈ t.mbx.due

namespace Bound

variable {x y : List Aspect} {s t u : State}

theorem refl (s : State) : Bound x s s := ⟨fun a _ => by cases a <;> rfl, fun _ h => h⟩

theorem trans (h : Bound x s t) (k : Bound x t u) : Bound x s u := by
  refine ⟨fun a ha => ?_, fun d hd => k.due d (h.due d hd)⟩
  have h1 := h.same a ha
  have k1 := k.same a ha
  cases a <;> exact k1.trans h1

theorem mono (h : Bound x s t) (hxy : x ⊆ y) : Bound y s t := ⟨fun a ha => h.same a fun hx => ha (hxy hx), h.due⟩

theorem ite {c : Prop} [Decidable c] (h : Bound x s t) (k : Bound x s u) : Bound x s (if c then t else u) := by
  split
  · exact h
  · exact k

theorem foldl {α : Type} {g : State → α → State} (hg : ∀ t x', Bound x t (g t x')) (xs : List α) (s : State) : Bound x s (xs.foldl g s) := by
  induction xs generalizing s with
  | nil => exact .refl s
  | cons a xs ih => exact (hg s a).trans (ih _)

/-! What a relation says of each aspect, as an equation. -/

theorem part_eq (h : Bound x s t) (ha : Aspect.part ∉ x) : t.part = s.part := h.same .part ha
theorem pending_eq (h : Bound x s t) (ha : Aspect.pending ∉ x) : t.pending = s.pending := h.same .pending ha
theorem stage_eq (h : Bound x s t) (ha : Aspect.stage ∉ x) : t.boot.stage = s.boot.stage := h.same .stage ha
theorem trust_eq (h : Bound x s t) (ha : Aspect.trust ∉ x) : t.trust = s.trust := h.same .trust ha
theorem ident_eq (h : Bound x s t) (ha : Aspect.ident ∉ x) : t.links.ident = s.links.ident := h.same .ident ha
theorem mem_eq (h : Bound x s t) (ha : Aspect.mem ∉ x) : t.nv.mem = s.nv.mem := h.same .mem ha
theorem img_eq (h : Bound x s t) (ha : Aspect.img ∉ x) : t.nv.img = s.nv.img := h.same .img ha
theorem cfg_eq (h : Bound x s t) (ha : Aspect.cfg ∉ x) : t.fe.cfg = s.fe.cfg := h.same .cfg ha
theorem no_eq (h : Bound x s t) (ha : Aspect.no ∉ x) : t.tick.no = s.tick.no := h.same .no ha
theorem frame_eq (h : Bound x s t) (ha : Aspect.frame ∉ x) : t.tick.frame = s.tick.frame := h.same .frame ha
theorem inFrame_eq (h : Bound x s t) (ha : Aspect.inFrame ∉ x) : t.tick.inFrame = s.tick.inFrame := h.same .inFrame ha
theorem total_eq (h : Bound x s t) (ha : Aspect.total ∉ x) : t.tick.total = s.tick.total := h.same .total ha
theorem late_eq (h : Bound x s t) (ha : Aspect.late ∉ x) : t.tick.late = s.tick.late := h.same .late ha
theorem fallback_eq (h : Bound x s t) (ha : Aspect.fallback ∉ x) : t.tick.fallback = s.tick.fallback := h.same .fallback ha
theorem dark_eq (h : Bound x s t) (ha : Aspect.dark ∉ x) : t.tick.dark = s.tick.dark := h.same .dark ha
theorem atBoundary_eq (h : Bound x s t) (ha : Aspect.atBoundary ∉ x) : t.tick.atBoundary = s.tick.atBoundary := h.same .atBoundary ha
theorem period_eq (h : Bound x s t) (ha : Aspect.period ∉ x) : t.tick.period = s.tick.period := h.same .period ha
theorem frameLen_eq (h : Bound x s t) (ha : Aspect.frameLen ∉ x) : t.tick.frameLen = s.tick.frameLen := h.same .frameLen ha
theorem pendTsq_eq (h : Bound x s t) (ha : Aspect.pendTsq ∉ x) : t.tick.pendTsq = s.tick.pendTsq := h.same .pendTsq ha
theorem source_eq (h : Bound x s t) (ha : Aspect.source ∉ x) : t.tick.source = s.tick.source := h.same .source ha
theorem epoch_eq (h : Bound x s t) (ha : Aspect.epoch ∉ x) : t.tick.epoch = s.tick.epoch := h.same .epoch ha
theorem holdover_eq (h : Bound x s t) (ha : Aspect.holdover ∉ x) : t.tick.holdover = s.tick.holdover := h.same .holdover ha
theorem fence_eq (h : Bound x s t) (ha : Aspect.fence ∉ x) : t.seq.fence = s.seq.fence := h.same .fence ha
theorem fenceNext_eq (h : Bound x s t) (ha : Aspect.fenceNext ∉ x) : t.seq.fenceNext = s.seq.fenceNext := h.same .fenceNext ha
theorem seed_eq (h : Bound x s t) (ha : Aspect.seed ∉ x) : t.seq.seed = s.seq.seed := h.same .seed ha
theorem streams_eq (h : Bound x s t) (ha : Aspect.streams ∉ x) : t.seq.streams = s.seq.streams := h.same .streams ha
theorem gov_eq (h : Bound x s t) (ha : Aspect.gov ∉ x) : t.power.gov = s.power.gov := h.same .gov ha
theorem envQ_eq (h : Bound x s t) (ha : Aspect.envQ ∉ x) : t.watch.envQ = s.watch.envQ := h.same .envQ ha
theorem sources_eq (h : Bound x s t) (ha : Aspect.sources ∉ x) : waitsOf isSource t = waitsOf isSource s := h.same .sources ha
theorem seeds_eq (h : Bound x s t) (ha : Aspect.seeds ∉ x) : waitsOf isSeed t = waitsOf isSeed s := h.same .seeds ha
theorem settings_eq (h : Bound x s t) (ha : Aspect.settings ∉ x) : waitsOf isGov t = waitsOf isGov s := h.same .settings ha

end Bound

/-- What is asked of the rest of the state stays in every aspect. -/
theorem bound_of_eq {x : List Aspect} {s t : State} (h : ∀ a : Aspect, a ∉ x → a.Same s t) (hd : t.mbx.due = s.mbx.due) : Bound x s t :=
  ⟨h, fun _ hm => hd ▸ hm⟩

variable {x : List Aspect} {s t : State}

theorem Logged.bound (h : Logged s t) : Bound x s t := by
  obtain ⟨_, _, _, _, _, _, _, rfl⟩ := h.frame
  exact bound_of_eq (fun a _ => by cases a <;> rfl) rfl

theorem RunKeeps.bound (h : RunKeeps s t) : Bound x s t := by
  obtain ⟨_, _, _, _, _, _, _, _, _, _, _, _, _, rfl⟩ := h.frame
  exact bound_of_eq (fun a _ => by cases a <;> rfl) rfl

theorem DescKeeps.bound (h : DescKeeps s t) : Bound x s t := by
  obtain ⟨_, _, _, _, _, _, _, _, _, _, _, _, _, _, _, _, _, rfl⟩ := h.frame
  exact bound_of_eq (fun a _ => by cases a <;> rfl) rfl

theorem Drains.bound (h : Drains s t) : Bound x s t := by
  obtain ⟨_, _, rfl⟩ := h.frame
  exact bound_of_eq (fun a _ => by cases a <;> rfl) rfl

theorem CountsOnly.bound (h : CountsOnly s t) : Bound x s t := by
  obtain ⟨_, _, _, _, rfl⟩ := h.frame
  exact bound_of_eq (fun a _ => by cases a <;> rfl) rfl

theorem setFm_bound (g : Fm → Fm) (s : State) : Bound x s (setFm g s) := bound_of_eq (fun a _ => by cases a <;> rfl) rfl

theorem setKv_bound (g : Kv → Kv) (s : State) : Bound x s (setKv g s) := bound_of_eq (fun a _ => by cases a <;> rfl) rfl

theorem setBus_bound (g : Bus → Bus) (s : State) : Bound x s (setBus g s) := bound_of_eq (fun a _ => by cases a <;> rfl) rfl

theorem hostWrite_bound (a : Nat) (bs : List Byte) (s : State) : Bound x s (hostWrite a bs s) := bound_of_eq (fun a _ => by cases a <;> rfl) rfl

theorem setWatch_bound {g : Watch → Watch} (h : (g s.watch).envQ = s.watch.envQ) : Bound x s (setWatch g s) :=
  bound_of_eq (fun a _ => by
    cases a
    case envQ => exact h
    all_goals rfl) rfl

theorem setPower_bound {g : Power → Power} (h : (g s.power).gov = s.power.gov) : Bound x s (setPower g s) :=
  bound_of_eq (fun a _ => by
    cases a
    case gov => exact h
    all_goals rfl) rfl

theorem setLinks_bound {g : Links → Links} (h : (g s.links).ident = s.links.ident) : Bound x s (setLinks g s) :=
  bound_of_eq (fun a _ => by
    cases a
    case ident => exact h
    all_goals rfl) rfl

theorem setChan_bound (ch : Nat) (g : Chan → Chan) (s : State) : Bound x s (setChan ch g s) := bound_of_eq (fun a _ => by cases a <;> rfl) rfl

theorem recQueue_bound (k : Nat) (body : List Byte) (s : State) : Bound x s (recQueue k body s) := by
  rw [(recQueue_puts k body s).2]
  exact bound_of_eq (fun a _ => by cases a <;> rfl) rfl

/-- A wait that the boundary takes up at its own place. -/
def ownPlace (a : PendAct) : Bool := isSource a || isSeed a || isGov a

theorem ownPlace_of_source {a : PendAct} (h : isSource a = true) : ownPlace a = true := by rw [ownPlace, h]; rfl
theorem ownPlace_of_seed {a : PendAct} (h : isSeed a = true) : ownPlace a = true := by rw [ownPlace, h, Bool.or_true]; rfl
theorem ownPlace_of_gov {a : PendAct} (h : isGov a = true) : ownPlace a = true := by rw [ownPlace, h, Bool.or_true]

/-- A change of the mailbox that keeps the waits with a place of their own. -/
theorem setMbx_bound {g : Mbx → Mbx} (hd : ∀ d ∈ s.mbx.due, d ∈ (g s.mbx).due)
    (hw : ∀ p : PendAct → Bool, (∀ a, p a = true → ownPlace a = true) → (g s.mbx).waits.filter (fun w => p w.act) = s.mbx.waits.filter fun w => p w.act) :
    Bound x s (setMbx g s) := by
  refine ⟨fun a _ => ?_, hd⟩
  cases a
  case sources => exact hw isSource fun _ => ownPlace_of_source
  case seeds => exact hw isSeed fun _ => ownPlace_of_seed
  case settings => exact hw isGov fun _ => ownPlace_of_gov
  all_goals rfl

theorem ownPlace_cases {a : PendAct} (h : ownPlace a = true) : (∃ c e, a = .source c e) ∨ (∃ v, a = .seed v) ∨ ∃ g, a = .governor g := by
  cases a
  case source c e => exact .inl ⟨c, e, rfl⟩
  case seed v => exact .inr (.inl ⟨v, rfl⟩)
  case governor g => exact .inr (.inr ⟨g, rfl⟩)
  all_goals exact nomatch h

/-- Commands of other kinds complete. -/
theorem finish_bound {p : PendAct → Bool} (st : Status) (d : Nat) (s : State) (hs : ∀ c e, p (.source c e) = false)
    (hv : ∀ v, p (.seed v) = false) (hg : ∀ g, p (.governor g) = false) : Bound x s (finish p st d s) := by
  have hp {a : PendAct} (ha : ownPlace a = true) : p a = false := by
    obtain ⟨c, e, rfl⟩ | ⟨v, rfl⟩ | ⟨g, rfl⟩ := ownPlace_cases ha
    · exact hs c e
    · exact hv v
    · exact hg g
  rw [finish_eq]
  refine setMbx_bound (fun d hd => List.mem_append_left _ hd) fun q hq => ?_
  rw [List.filter_filter]
  refine List.filter_congr fun w _ => ?_
  by_cases h : q w.act = true
  · rw [h, hp (hq _ h)]
    rfl
  · rw [Bool.not_eq_true] at h
    rw [h, Bool.false_and]

theorem filter_map_act {f : Wait → Wait} {p : PendAct → Bool} (ws : List Wait) (hown : ∀ w, p w.act = true → f w = w)
    (hother : ∀ w, p w.act = false → p (f w).act = false) : (ws.map f).filter (fun w => p w.act) = ws.filter fun w => p w.act := by
  induction ws with
  | nil => rfl
  | cons w ws ih =>
    rw [List.map_cons, List.filter_cons, List.filter_cons, ih]
    by_cases h : p w.act = true
    · rw [hown w h]
    · rw [Bool.not_eq_true] at h
      rw [hother w h, h, if_neg Bool.false_ne_true, if_neg Bool.false_ne_true]

/-- Waits of other kinds become waits of other kinds. -/
theorem mapWaits_bound {f : Wait → Wait} (hown : ∀ w, ownPlace w.act = true → f w = w) (hother : ∀ w, ownPlace w.act = false → ownPlace (f w).act = false)
    (s : State) : Bound x s (setMbx (fun m => { m with waits := m.waits.map f }) s) := by
  refine setMbx_bound (fun _ h => h) fun p hp => filter_map_act _ (fun w h => hown w (hp _ h)) fun w h => ?_
  by_cases ho : ownPlace w.act = true
  · rw [hown w ho]
    exact h
  · rw [Bool.not_eq_true] at ho
    have hn := hother w ho
    by_contra hc
    rw [Bool.not_eq_false] at hc
    exact absurd ((hp _ hc).symm.trans hn) (by decide)


end Sys2Proof.Machine
end

section
/-! PROOFS. PROOFS. The watch's work at a frame boundary (R292 to R316). -/

namespace Sys2Proof.Machine
open Sys2Proof Sys2Proof.Safety

variable {x : List Aspect}

/-! ## The watch's work at a boundary (R292 to R316) -/

theorem roleWrite_bound (i : Nat) (items : List (Nat × List Byte)) (s : State) : Bound x s (roleWrite i items s) := by
  unfold roleWrite
  split
  · exact .refl s
  · exact (fwWrite_descKeeps _ _ s).bound

theorem writeScalars_bound (s : State) : Bound x s (writeScalars s) := by
  unfold writeScalars
  split
  · exact .refl s
  · exact roleWrite_bound _ _ s

theorem oweEvent_bound (k : CondCause) (prev : Nat) (sev : BitVec 8) (chg : BitVec 16) (s : State) : Bound x s (oweEvent k prev sev chg s) :=
  setWatch_bound rfl

theorem setLearned_bound (g : Learned → Learned) (s : State) : Bound x s (setLearned g s) := setWatch_bound rfl

theorem setReg_bound (g : Nat) (f : Regime → Regime) (s : State) : Bound x s (setReg g f s) := setLearned_bound _ s

theorem writeVars_bound (g : Nat) (s : State) : Bound x s (writeVars g s) := by
  unfold writeVars
  split
  · exact .refl s
  · exact (roleWrite_bound _ _ s).trans (roleWrite_bound _ _ _)

theorem writeNorm_bound (g : Nat) (s : State) : Bound x s (writeNorm g s) := by
  unfold writeNorm
  split
  · exact .refl s
  · exact roleWrite_bound _ _ s

theorem oweReport_bound (k : CondCause) (s : State) : Bound x s (oweReport k s) := oweEvent_bound _ _ _ _ s

theorem fadeNext_bound (s : State) : Bound x s (fadeNext s) := .ite (.refl s) (.trans (setWatch_bound rfl) (writeScalars_bound _))

theorem levelsNow_bound (s : State) : Bound x s (levelsNow s) := by
  unfold levelsNow
  extract_lets is p s1
  have h1 : Bound x s s1 := .trans (setWatch_bound rfl) (finish_bound _ _ _ (fun _ _ => rfl) (fun _ => rfl) fun _ => rfl)
  split
  · exact h1
  · extract_lets new s2
    have h2 : Bound x s s2 := (h1.trans (setWatch_bound rfl)).trans (setWatch_bound rfl)
    exact .ite (h2.trans (oweEvent_bound _ _ _ _ s2)) h2

theorem watchStop_bound (s : State) : Bound x s (watchStop s) :=
  .ite (.refl s) ((Bound.trans (setWatch_bound rfl) (writeScalars_bound _)).trans (oweEvent_bound _ _ _ _ _))

theorem fwRead_bound (f a n : Nat) (s : State) : Bound x s (fwRead f a n s).2 :=
  ((fmScan_runKeeps 64 f a n s).trans (draw_runKeeps _)).bound

theorem roleItem_bound (im : WImage) (i k n : Nat) (s : State) : Bound x s (roleItem im i k n s).2 := fwRead_bound _ _ _ s

theorem importAreas_bound (im : WImage) (b : List Byte) (s : State) : Bound x s (importAreas im b s) := by
  unfold importAreas
  extract_lets go
  exact List.foldlRecOn (motive := fun acc : State × Nat => Bound x s acc.1) _ _ (.refl s) fun acc h e _ => h.trans (fwWrite_descKeeps _ _ _).bound

theorem startFresh_bound (im : WImage) (s : State) : Bound x s (startFresh im s) := by
  unfold startFresh seedCandidate writeInitial writeScales
  extract_lets s1
  have h1 : Bound x s s1 := setWatch_bound rfl
  exact (((h1.trans (roleWrite_bound _ _ s1)).trans (roleWrite_bound _ _ _)).trans (roleWrite_bound _ _ _)).trans (writeScalars_bound _)

theorem startResumed_bound (im : WImage) (file : List Byte) (s : State) : Bound x s (startResumed im file s) :=
  (Bound.trans (setWatch_bound rfl) (importAreas_bound _ _ _)).trans (writeScalars_bound _)

theorem relearn_bound (mask : BitVec 16) (s : State) : Bound x s (relearn mask s) := by
  unfold relearn
  split
  · exact .refl s
  · extract_lets s1 s2 changed s3
    have h1 : Bound x s s1 := .foldl (fun t g => (setReg_bound g _ t).trans (setLearned_bound _ _)) _ s
    have h2 : Bound x s s2 := h1.trans (.foldl (fun t g => (writeNorm_bound g t).trans (writeVars_bound g _)) _ s1)
    have h3 : Bound x s s3 := h2.trans (writeScalars_bound s2)
    exact .ite h3 (h3.trans (oweEvent_bound _ _ _ _ s3))

theorem reseedCandidate_bound (s : State) : Bound x s (reseedCandidate s) := by
  unfold reseedCandidate
  split
  · exact .refl s
  · rename_i im him
    extract_lets role one
    have hone (js : List Nat) : Bound x s (js.foldl one ([], s)).2 :=
      List.foldlRecOn (motive := fun acc : List (Nat × List Byte) × State => Bound x s acc.2) _ _ (.refl s) fun acc h j _ =>
        (h.trans (roleItem_bound _ _ _ _ _)).trans (roleItem_bound _ _ _ _ _)
    exact ((hone _).trans (roleWrite_bound _ _ _)).trans (setWatch_bound rfl)

theorem rollBack_bound (reseed : Bool) (s : State) : Bound x s (rollBack reseed s) := by
  unfold rollBack
  extract_lets s0
  have h0 : Bound x s s0 := setWatch_bound rfl
  split
  · extract_lets upd s1
    have h1 : Bound x s s1 := (h0.trans (setWatch_bound (by simp only [upd]; split <;> rfl))).trans (writeScalars_bound _)
    exact ((h1.trans (.ite (reseedCandidate_bound s1) (.refl s1))).trans (oweReport_bound _ _)).trans (oweReport_bound _ _)
  · exact (((h0.trans (setWatch_bound rfl)).trans (writeScalars_bound _)).trans (oweReport_bound _ _)).trans (oweReport_bound _ _)

theorem exportState_bound (s : State) (im : WImage) : Bound x s (exportState s im).2 := by
  unfold exportState
  extract_lets l n w32 reg area core hist scale areas
  exact List.foldlRecOn (motive := fun acc : List Byte × State => Bound x s acc.2) _ _ (.refl s) fun acc h e _ => h.trans (fwRead_bound _ _ _ _)

theorem exportBytes_bound (s : State) (im : WImage) : Bound x s (exportBytes s im).2 := exportState_bound s im

/-- What a command of the watch does at the boundary. -/
theorem watchAct_bound {a : PendAct} {s u : State} {st : Status} {d : Nat} (h : watchAct a s = some (st, d, u)) : Bound x s u := by
  unfold watchAct at h
  split at h
  · split at h
    · cases h; exact .refl s
    · split at h
      · cases h; exact startResumed_bound _ _ s
      · cases h; exact startFresh_bound _ s
  · cases h; exact watchStop_bound s
  · cases h; exact .ite (((setWatch_bound rfl).trans (writeScalars_bound _)).trans (oweReport_bound _ _)) (.refl s)
  · cases h; exact .ite (((setWatch_bound rfl).trans (writeScalars_bound _)).trans (oweReport_bound _ _)) (.refl s)
  · cases h; exact .ite (.refl s) (relearn_bound _ s)
  · split at h
    · cases h; exact rollBack_bound _ s
    · cases h; exact .refl s
  · split at h
    · split at h
      · cases h; exact .refl s
      · cases h; exact (exportBytes_bound s _).trans (hostWrite_bound _ _ _)
    · cases h; exact .refl s
  · cases h

theorem complete_bound (op : Nat) (c : Cmd) (st : Status) (de d r : Nat) (s : State) : Bound x s (complete op c st de d r s) :=
  ⟨fun a _ => by cases a <;> rfl, fun _ h => List.mem_append_left _ h⟩

/-- A wait that goes may be one with a place of its own. -/
theorem eraseWait_bound (w : Wait) (s : State) : Bound (.sources :: .seeds :: .settings :: x) s (setMbx (fun m => { m with waits := m.waits.erase w }) s) := by
  refine bound_of_eq (fun a ha => ?_) rfl
  cases a
  case sources => exact absurd (by simp) ha
  case seeds => exact absurd (by simp) ha
  case settings => exact absurd (by simp) ha
  all_goals rfl

theorem fadeEnd_bound (s : State) : Bound x s (fadeEnd s) := by
  unfold fadeEnd
  split
  · exact .refl s
  · split
    · exact .refl s
    · rename_i f _ _
      extract_lets upd s1
      have hupd (w : Watch) : (upd w).envQ = w.envQ := by
        simp only [upd]
        split <;> rfl
      have h1 : Bound x s s1 := (setWatch_bound (hupd _)).trans (writeScalars_bound _)
      exact (h1.trans (.ite (reseedCandidate_bound s1) (.refl s1))).trans (oweEvent_bound _ _ _ _ _)

theorem fadeStart_bound (s : State) : Bound x s (fadeStart s) :=
  .ite (.refl s) (((setWatch_bound rfl).trans (writeScalars_bound _)).trans (oweReport_bound _ _))

theorem watchBoundary_bound (s : State) : Bound [.sources, .seeds, .settings] s (watchBoundary s) := by
  refine Bound.trans (.foldl (fun t w => ?_) _ s) ((fadeEnd_bound _).trans (fadeStart_bound _))
  split
  · exact .refl t
  · rename_i h
    exact ((watchAct_bound h).trans (eraseWait_bound _ _)).trans (complete_bound _ _ _ _ _ _ _)

end Sys2Proof.Machine
end

section
/-! PROOFS. PROOFS. The fence set, the governor and the lists at a frame boundary (R215 to R223, R486, R511 to R513). -/

namespace Sys2Proof.Machine
open Sys2Proof Sys2Proof.Safety

variable {x : List Aspect}

/-! ## The fence set, the governor and the lists at a boundary (R215 to R223, R486, R511 to R513) -/

theorem setSeq_bound {g : Seq → Seq} (s : State) (hf : (g s.seq).fence = s.seq.fence) (hn : (g s.seq).fenceNext = s.seq.fenceNext)
    (hd : (g s.seq).seed = s.seq.seed) (hs : (g s.seq).streams = s.seq.streams) : Bound x s (setSeq g s) :=
  bound_of_eq (fun a _ => by
    cases a
    case fence => exact hf
    case fenceNext => exact hn
    case seed => exact hd
    case streams => exact hs
    all_goals rfl) rfl

theorem requestPolder_bound (p : Nat) (s : State) : Bound x s (requestPolder p s) := (requestPolder_descKeeps p s).bound

theorem changeRequests_bound (s : State) : Bound x s (changeRequests s) := by
  unfold changeRequests
  split
  · exact .refl s
  · refine .foldl (fun t p => ?_) _ s
    split
    · exact .ite (requestPolder_bound _ t) (.refl t)
    · exact requestPolder_bound _ t

theorem noteUp_bound (lead : Nat) (s : State) : Bound x s (noteUp lead s) := by
  unfold noteUp
  split
  · exact .refl s
  · exact .ite (setSeq_bound s rfl rfl rfl rfl) (.refl s)

theorem decideChange_bound (lead : Nat) (s : State) : Bound x s (decideChange lead s) := by
  unfold decideChange
  split
  · exact .refl s
  · exact (((setSeq_bound s rfl rfl rfl rfl).trans (changeRequests_bound _)).trans (noteUp_bound lead _)).trans (setSeq_bound _ rfl rfl rfl rfl)

theorem changeTier_bound (lead t : Nat) (s : State) : Bound x s (changeTier lead t s) :=
  .ite (.refl s) ((setSeq_bound s rfl rfl rfl rfl).trans (decideChange_bound lead _))

theorem governor_bound (changed : Bool) (cur lead : Nat) (s : State) : Bound x s (governor changed cur lead s) :=
  (setPower_bound rfl).trans (changeTier_bound _ _ _)

theorem changeF_bound (lead : Nat) (f : BitVec 276) (s : State) : Bound [.fence] s (changeF lead f s) := by
  have h1 : Bound [.fence] s (setSeq (fun q => { q with fence := f }) s) := bound_of_eq (fun a ha => by
    cases a
    case fence => exact absurd (.head _) ha
    all_goals rfl) rfl
  exact .ite (.refl s) (h1.trans (decideChange_bound lead _))

theorem finishFences_bound (s : State) : Bound x s (finishFences s) := by
  refine (finish_bound _ _ s (fun _ _ => rfl) (fun _ => rfl) fun _ => rfl).trans (mapWaits_bound (fun w hw => ?_) (fun w hw => ?_) _)
  · obtain ⟨c, e, h⟩ | ⟨v, h⟩ | ⟨g, h⟩ := ownPlace_cases hw <;> rw [h]
  · split
    · rfl
    · exact hw

theorem fenceBoundary_bound (lead : Nat) (s : State) : Bound [.fence] s (fenceBoundary lead s) := by
  unfold fenceBoundary
  extract_lets logs s1 s2
  have h0 : Bound [.fence] s logs := .foldl (fun t w => by
    split
    · exact (logEvent_logged _ _ _ _ t).bound
    · exact .refl t) _ s
  have h1 : Bound [.fence] s s1 := h0.trans (mapWaits_bound (fun w hw => by
    obtain ⟨c, e, h⟩ | ⟨v, h⟩ | ⟨g, h⟩ := ownPlace_cases hw <;> rw [h]) (fun w hw => by
    split
    · rfl
    · exact hw) _)
  have h2 : Bound [.fence] s s2 := h1.trans (.ite (.refl s1) ((changeF_bound _ _ s1).trans (raiseInt_logged 2 _).bound))
  exact .ite (h2.trans (finishFences_bound s2)) h2

/-- F has the value that waited. -/
theorem fenceBoundary_fence (lead : Nat) (s : State) : (fenceBoundary lead s).seq.fence = s.seq.fenceNext := by
  unfold fenceBoundary
  extract_lets logs s1 s2
  have h0 : Bound [.fence] s logs := .foldl (fun t w => by
    split
    · exact (logEvent_logged _ _ _ _ t).bound
    · exact .refl t) _ s
  have hnext : s1.seq.fenceNext = s.seq.fenceNext := h0.fenceNext_eq (by decide)
  have h2 : s2.seq.fence = s.seq.fenceNext := by
    refine Eq.trans ?_ hnext
    simp only [s2]
    split
    · assumption
    · exact ((raiseInt_logged 2 _).bound (x := [])).fence_eq (by decide) |>.trans (changeF_fence _ _ s1)
  split
  · exact ((finishFences_bound (x := []) s2).fence_eq (by decide)).trans h2
  · exact h2

/-! ## A schedule change and ML_STOP -/

theorem resetSync_bound (obj : Nat) (s : State) : Bound x s (resetSync obj s) := by
  unfold resetSync
  exact setSeq_bound s rfl rfl rfl rfl

theorem resetScope_bound (sc : Scope) (s : State) : Bound x s (resetScope sc s) := by
  unfold resetScope
  split
  · exact .refl s
  · exact .foldl (fun t d => resetSync_bound _ t) _ s

theorem setJob_bound (j : Nat) (f : Job → Job) (s : State) : Bound x s (setJob j f s) := (setJob_descKeeps j f s).bound

theorem abandonJobs_bound (l : MList) (s : State) : Bound x s (abandonJobs l s) := .foldl (fun t j => .ite (setJob_bound j _ t) (.refl t)) _ s

theorem cancelOutstanding_bound (s : State) : Bound x s (cancelOutstanding s) := by
  unfold cancelOutstanding
  split
  · exact .refl s
  · rename_i l _
    exact (RunKeeps.foldl (fun t m => cancelMove_runKeeps l t m) _ s).bound.trans (setSeq_bound _ rfl rfl rfl rfl)

theorem retryDown_bound (now : Nat) (s : State) : Bound x s (retryDown now s) := (retryDown_drains now s).bound

theorem polderChange_bound (old new : BitVec 293) (s : State) : Bound x s (polderChange old new s) :=
  (setPower_bound rfl).trans (retryDown_bound _ _)

theorem triggerJob_bound (j : Nat) (s : State) : Bound x s (triggerJob j s) := (triggerJob_descKeeps j s).bound

theorem trainStart_bound (j : Nat) (s : State) : Bound x s (trainStart j s) := by
  unfold trainStart
  split
  · exact .refl s
  · exact .ite (.refl s) (((triggerJob_bound j s).trans (setWatch_bound rfl)).trans (.foldl (fun t e => (fwWrite_descKeeps _ _ t).bound) _ _))

theorem evalStart_bound (j : Nat) (s : State) : Bound x s (evalStart j s) := by
  unfold evalStart
  split
  · exact .refl s
  · exact .ite (.refl s) (((triggerJob_bound j s).trans (setWatch_bound rfl)).trans
      ((fwCopy_descKeeps _ _ _ _ _).trans (fwCopy_descKeeps _ _ _ _ _)).bound)

theorem freshGaps_bound (cs : List Nat) (s : State) : Bound x s (freshGaps cs s) := by
  unfold freshGaps
  split
  · exact .refl s
  · exact .foldl (fun t j => .ite (.refl t) (.ite (trainStart_bound j t) (.ite (evalStart_bound j t) (.ite (.refl t) (triggerJob_bound j t))))) _ s

theorem slotStart_bound (n : Nat) (s : State) : Bound x s (slotStart n s) := by
  unfold slotStart
  split
  · exact .refl s
  · split
    · exact .refl s
    · refine .ite (.trans (t := setSeq (fun q => { q with slot := n }) s) (setSeq_bound s rfl rfl rfl rfl) ?_) (.refl s)
      unfold applyOwners
      split
      · exact .refl _
      · exact setSeq_bound _ rfl rfl rfl rfl

theorem watchChange_bound (swap back : Bool) (l : MList) (s : State) : Bound x s (watchChange swap back l s) := by
  unfold watchChange
  split
  · exact .refl s
  · exact .ite (.refl s) (.ite (watchStop_bound s) (setWatch_bound rfl))

theorem newPeriod_bound (p : Nat) (s : State) : Bound [.period] s (newPeriod p s) := by
  have h1 : Bound [.period] s (setTick (fun t => { t with period := p }) s) := bound_of_eq (fun a ha => by
    cases a
    case period => exact absurd (.head _) ha
    all_goals rfl) rfl
  exact .ite (.refl s) (h1.trans (.foldl (fun t ch => setChan_bound ch _ t) _ _))

/-- What a list's header sets, and the streams that start anew with it. -/
def listAspects : List Aspect := [.period, .frameLen, .pendTsq, .streams]

theorem swapLists_bound (l : MList) (s : State) : Bound listAspects s (swapLists l s) := by
  unfold swapLists
  extract_lets s1 s2 s3
  have h1 : Bound listAspects s s1 := by
    simp only [s1]
    split
    · exact abandonJobs_bound _ s
    · exact .refl s
  have h2 : Bound listAspects s1 s2 := bound_of_eq (fun a ha => by
    cases a
    case streams => exact absurd (by decide) ha
    all_goals rfl) rfl
  have h3 : Bound listAspects s2 s3 := (((resetScope_bound _ s2).trans (resetScope_bound _ _)).trans (resetScope_bound _ _)).trans (resetScope_bound _ _)
  have h4 : Bound listAspects s3 (setTick (fun t => { t with frameLen := l.frameLen, spill := l.spill, commitOff := l.commitOff, pendTsq := none }) s3) :=
    bound_of_eq (fun a ha => by
      cases a
      case frameLen => exact absurd (by decide) ha
      case pendTsq => exact absurd (by decide) ha
      all_goals rfl) rfl
  exact (((h1.trans h2).trans h3).trans h4).trans ((newPeriod_bound _ _).mono (by decide))

theorem takeChange_bound (swap : Bool) (l : MList) (sel : Option Nat) (s : State) : Bound listAspects s (takeChange swap l sel s) := by
  unfold takeChange
  extract_lets oldSet oldStop gaps s1 s2 stop newSched place tierNew s3 fresh s4 s5 s6 s7 s8 s9 s10
  have h1 : Bound listAspects s s1 := (cancelOutstanding_bound s).trans (setKv_bound _ _)
  have h2 : Bound listAspects s s2 := h1.trans (.ite (swapLists_bound l s1) (abandonJobs_bound l s1))
  have h3 : Bound listAspects s s3 := h2.trans (setSeq_bound s2 rfl rfl rfl rfl)
  have h4 : Bound listAspects s s4 := h3.trans (.ite (logEvent_logged _ _ _ _ s3).bound (.refl s3))
  have h5 : Bound listAspects s s5 := h4.trans (.ite (raiseInt_logged 6 s4).bound (.refl s4))
  have h6 : Bound listAspects s s6 := h5.trans (.ite ((raiseInt_logged 5 s5).bound.trans (setPower_bound rfl)) (.refl s5))
  have h7 : Bound listAspects s s7 := ((h6.trans (watchChange_bound _ _ l s6)).trans (setFm_bound _ _)).trans (freshGaps_bound _ _)
  have h9 : Bound listAspects s s9 := (h7.trans (polderChange_bound _ _ s7)).trans (slotStart_bound 0 _)
  have h10 : Bound listAspects s s10 := h9.trans (.ite (finish_bound _ _ s9 (fun _ _ => rfl) (fun _ => rfl) fun _ => rfl) (.refl s9))
  exact h10.trans (finishFences_bound s10)

theorem scheduleChange_bound (s : State) : Bound listAspects s (scheduleChange s) := by
  unfold scheduleChange
  refine .ite (.refl s) ?_
  split
  · exact .refl s
  · extract_lets idle
    have h0 : Bound listAspects s idle := setSeq_bound s rfl rfl rfl rfl
    refine .ite ?_ ?_
    · split
      · exact h0
      · refine .ite ?_ (takeChange_bound _ _ _ s)
        have h1 : Bound listAspects s (finish (· == .mlStart) .badLength 0 idle) := h0.trans (finish_bound _ _ idle (fun _ _ => rfl) (fun _ => rfl) fun _ => rfl)
        exact .ite (h1.trans (decideChange_bound 1 _)) (h1.trans (finishFences_bound _))
    · split
      · exact h0.trans (finishFences_bound idle)
      · exact .ite (h0.trans (finishFences_bound idle)) (takeChange_bound _ _ _ s)

theorem stopList_bound (s : State) : Bound x s (stopList s) := by
  unfold stopList
  extract_lets pend s1 s2 s3 kept down s4 s5
  have h1 : Bound x s s1 := ((cancelOutstanding_bound s).trans (setKv_bound _ _)).trans (watchStop_bound _)
  have h2 : Bound x s s2 := h1.trans (by
    simp only [s2]
    split
    · exact abandonJobs_bound _ s1
    · exact .refl s1)
  have h3 : Bound x s s3 := h2.trans (setSeq_bound s2 rfl rfl rfl rfl)
  have h4 : Bound x s s4 := ((h3.trans (setFm_bound _ s3)).trans (setPower_bound rfl)).trans (retryDown_bound _ _)
  have h5 : Bound x s s5 := h4.trans (finish_bound _ _ s4 (fun _ _ => rfl) (fun _ => rfl) fun _ => rfl)
  exact .ite (h5.trans (finishFences_bound s5)) h5

theorem listChanges_bound (s : State) : Bound listAspects s (listChanges s) := by
  unfold listChanges
  extract_lets stop order first s1
  have h1 : Bound listAspects s s1 := scheduleChange_bound s
  exact .ite ((stopList_bound s).trans (scheduleChange_bound _)) (.ite (h1.trans (stopList_bound s1)) h1)

theorem tsqNow_bound (s : State) : Bound listAspects s (tsqNow s) := by
  have hset {g : TickSt → TickSt} (h : ∀ a : Aspect, a ∉ listAspects → a.Same s (setTick g s)) : Bound listAspects s (setTick g s) := bound_of_eq h rfl
  unfold tsqNow
  split
  · exact .refl s
  · refine .ite (hset fun a ha => ?_) (.trans (hset fun a ha => ?_) ((newPeriod_bound _ _).mono (by decide)))
    · cases a
      case pendTsq => exact absurd (by decide) ha
      all_goals rfl
    · cases a
      case pendTsq => exact absurd (by decide) ha
      case frameLen => exact absurd (by decide) ha
      all_goals rfl

end Sys2Proof.Machine
end

section
/-! PROOFS. PROOFS. The settings of the tick that wait for a frame boundary (R8, R14, R39, R149, R399). -/

namespace Sys2Proof.Machine
open Sys2Proof Sys2Proof.Safety

variable {x : List Aspect}

/-! ## The settings that wait for a boundary (R8, R14, R39, R149, R399, R485, R491, R511) -/

/-- The fields of the tick that no aspect names. -/
theorem setTick_bound {g : TickSt → TickSt} {s : State} (h : ∀ a : Aspect, a ∉ x → a.Same s (setTick g s)) : Bound x s (setTick g s) := bound_of_eq h rfl

theorem frameSummary_bound (s : State) : Bound [.envQ] s (frameSummary s) := by
  have hset (g : Watch → Watch) (t : State) : Bound [.envQ] t (setWatch g t) := bound_of_eq (fun a ha => by
    cases a
    case envQ => exact absurd (.head _) ha
    all_goals rfl) rfl
  exact .ite (.refl s) (.ite ((bump_logged cSignDrop s).bound.trans (hset _ _)) (hset _ s))

theorem draw_bound (s : State) : Bound x s (draw s) := (draw_runKeeps s).bound

theorem trimCore_bound (s : State) : Bound x s (trimCore s) := (setPower_bound rfl).trans (draw_bound _)

theorem governorSet_bound (s : State) : Bound [.gov, .settings] s (governorSet s) := by
  unfold governorSet
  extract_lets is g
  rw [finish_eq]
  refine ⟨fun a ha => ?_, fun d hd => List.mem_append_left _ hd⟩
  have hwaits (p : PendAct → Bool) (hp : ∀ b, p b = true → is b = false) : (s.mbx.waits.filter fun w => !is w.act).filter (fun w => p w.act) =
      s.mbx.waits.filter fun w => p w.act := by
    rw [List.filter_filter]
    refine List.filter_congr fun w _ => ?_
    by_cases h : p w.act = true
    · rw [h, hp _ h]
      rfl
    · rw [Bool.not_eq_true] at h
      rw [h, Bool.false_and]
  cases a
  case gov => exact absurd (by decide) ha
  case settings => exact absurd (by decide) ha
  case sources =>
    refine hwaits isSource fun b hb => ?_
    cases b
    case source => rfl
    all_goals exact nomatch hb
  case seeds =>
    refine hwaits isSeed fun b hb => ?_
    cases b
    case seed => rfl
    all_goals exact nomatch hb
  all_goals rfl

theorem selQueue_bound (f : BootSel → BootSel) (s : State) : Bound x s (selQueue f s) := recQueue_bound _ _ s

theorem autoFence_bound (s : State) : Bound [.fenceNext] s (autoFence s) := by
  unfold autoFence
  extract_lets n rose all hit s1
  have h1 : Bound [.fenceNext] s s1 := bound_of_eq (fun a _ => by cases a <;> rfl) rfl
  refine h1.trans (.foldl (fun t c => ?_) _ s1)
  extract_lets t1
  have ht : Bound [.fenceNext] t t1 := (logEvent_logged _ _ _ _ t).bound
  refine .ite (ht.trans (Bound.trans (t := setSeq (fun q => { q with fenceNext := fenceAdd c.2.1 q.fenceNext }) t1) ?_ (selQueue_bound _ _))) ht
  refine bound_of_eq (fun a ha => ?_) rfl
  cases a
  case fenceNext => exact absurd (.head _) ha
  all_goals rfl

theorem policySet_bound (s : State) : Bound x s (policySet s) := by
  unfold policySet
  extract_lets is p
  have h1 : Bound x s (setBoot (fun b => { b with policy := p }) s) := bound_of_eq (fun a _ => by cases a <;> rfl) rfl
  exact h1.trans (finish_bound _ _ _ (fun _ _ => rfl) (fun _ => rfl) fun _ => rfl)

theorem realignNow_bound (s : State) : Bound x s (realignNow s) := by
  unfold realignNow
  exact .ite (setTick_bound fun a _ => by cases a <;> rfl) (.refl s)

theorem retrim_bound (s : State) : Bound x s (retrim s) := by
  unfold retrim
  extract_lets lim
  exact setTick_bound fun a _ => by cases a <;> rfl

theorem sourceTo_bound (code : Nat) (s : State) : Bound [.source, .holdover] s (sourceTo code s) := by
  unfold sourceTo
  extract_lets s1 s2
  have h1 : Bound [.source, .holdover] s s1 := .ite ((logEvent_logged _ _ _ _ s).trans (raiseInt_logged 4 _)).bound (.refl s)
  have h2 : Bound [.source, .holdover] s1 s2 := setTick_bound fun a ha => by
    cases a
    case source => exact absurd (by decide) ha
    case holdover => exact absurd (by decide) ha
    all_goals rfl
  exact (h1.trans h2).trans ((retrim_bound s2).trans (realignNow_bound _))

/-- A source in force: its code, without holdover. -/
theorem sourceTo_tick (code : Nat) (s : State) : (sourceTo code s).tick.source = code ∧ (sourceTo code s).tick.holdover = false := by
  unfold sourceTo
  extract_lets s1 s2
  have h := (retrim_bound (x := []) s2).trans (realignNow_bound _)
  exact ⟨h.source_eq (by decide), h.holdover_eq (by decide)⟩

/-! ## A wait that is taken up at its own place -/

/-- The first wait of a kind, however its test is written. -/
theorem find_waitsOf {p : Wait → Bool} {q : PendAct → Bool} (hp : ∀ w, p w = q w.act) (s : State) : s.mbx.waits.find? p = (waitsOf q s).head? := by
  rw [waitsOf, List.head?_filter]
  congr 1
  funext w
  exact hp w

/-- The first wait of a kind is the first with its act. -/
theorem finishFirst_own {q : PendAct → Bool} {w : Wait} {s : State} (h : (waitsOf q s).head? = some w) (st : Status) (d : Nat) :
    finishFirst (· == w.act) st d s = complete w.opcode w.cmd st 0 d 0 (setMbx (fun m => { m with waits := m.waits.erase w }) s) := by
  rw [waitsOf, List.head?_filter, List.find?_eq_some_iff_append] at h
  obtain ⟨hq, as, bs, hw, has⟩ := h
  have hf : s.mbx.waits.find? (fun v => v.act == w.act) = some w := by
    rw [List.find?_eq_some_iff_append]
    refine ⟨beq_self_eq_true _, as, bs, hw, fun v hv => ?_⟩
    have hne : v.act ≠ w.act := fun he => by
      have := has v hv
      rw [he, hq] at this
      exact absurd this (by decide)
    rw [beq_false_of_ne hne]
    rfl
  rw [finishFirst, hf]

theorem waitsOf_erase {p : PendAct → Bool} {w : Wait} (h : p w.act = false) (ws : List Wait) :
    (ws.erase w).filter (fun v => p v.act) = ws.filter fun v => p v.act := by
  induction ws with
  | nil => rfl
  | cons v ws ih =>
    by_cases hv : v = w
    · rw [hv, List.erase_cons_head, List.filter_cons, h, if_neg Bool.false_ne_true]
    · rw [List.erase_cons_tail (by simpa using hv), List.filter_cons, List.filter_cons, ih]

/-- One command of another kind completes. -/
theorem taken_bound {w : Wait} {s : State} (hx : ∀ a : Aspect, a ∉ x → (a = .sources → isSource w.act = false) ∧ (a = .seeds → isSeed w.act = false) ∧
      (a = .settings → isGov w.act = false)) (st : Status) (de d r : Nat) :
    Bound x s (complete w.opcode w.cmd st de d r (setMbx (fun m => { m with waits := m.waits.erase w }) s)) := by
  have h1 : Bound x s (setMbx (fun m => { m with waits := m.waits.erase w }) s) := bound_of_eq (fun a ha => by
    obtain ⟨h1, h2, h3⟩ := hx a ha
    cases a
    case sources => exact waitsOf_erase (h1 rfl) _
    case seeds => exact waitsOf_erase (h2 rfl) _
    case settings => exact waitsOf_erase (h3 rfl) _
    all_goals rfl) rfl
  exact h1.trans (complete_bound _ _ _ _ _ _ _)

/-- What a change of the source changes. -/
def sourceAspects : List Aspect := [.source, .epoch, .holdover, .sources]

theorem setSource_bound (e : W64) (g : TickSt → Option Nat) (s : State) : Bound [.epoch] s (setTick (fun t => { t with epoch := e, setSource := g t }) s) :=
  setTick_bound fun a ha => by
    cases a
    case epoch => exact absurd (.head _) ha
    all_goals rfl

theorem sourceChange_bound (s : State) : Bound sourceAspects s (sourceChange s) := by
  unfold sourceChange
  split
  · exact .refl s
  · rename_i w hw
    split
    · rename_i code epoch hact
      rw [find_waitsOf (q := isSource) fun v => by cases v with | mk c o a => cases a <;> rfl] at hw
      extract_lets s1
      have h1 : Bound [.epoch] s s1 := setSource_bound _ _ s
      have h2 := sourceTo_bound code s1
      have hkept : (waitsOf isSource (sourceTo code s1)).head? = some w :=
        (congrArg List.head? ((h2.sources_eq (by decide)).trans (h1.sources_eq (by decide)))).trans hw
      rw [finishFirst_own hkept]
      refine ((h1.mono (by decide)).trans (h2.mono (by decide))).trans (taken_bound (fun a ha => ⟨fun he => ?_, fun _ => ?_, fun _ => ?_⟩) _ _ _ _)
      · exact absurd (he ▸ ha) (by decide)
      · rw [hact]; rfl
      · rw [hact]; rfl
    · exact .refl s

/-- The source that waited is in force, and its command is due. -/
theorem sourceChange_takes {w : Wait} {code : Nat} {epoch : W64} {s : State} (hw : (waitsOf isSource s).head? = some w) (hact : w.act = .source code epoch) :
    (sourceChange s).tick.source = code ∧ (sourceChange s).tick.epoch = epoch ∧ (sourceChange s).tick.holdover = false ∧
      completionOf w.opcode w.cmd .ok s.tick.frame.toNat ∈ (sourceChange s).mbx.due := by
  unfold sourceChange
  split
  · rename_i hnone
    rw [find_waitsOf (q := isSource) fun v => by cases v with | mk c o a => cases a <;> rfl] at hnone
    rw [hw] at hnone
    cases hnone
  · rename_i v hv
    rw [find_waitsOf (q := isSource) fun v => by cases v with | mk c o a => cases a <;> rfl] at hv
    obtain rfl : w = v := Option.some.inj (hw.symm.trans hv)
    split
    · rename_i code' epoch' hact'
      obtain ⟨rfl, rfl⟩ : code = code' ∧ epoch = epoch' := by
        rw [hact] at hact'
        exact ⟨by injection hact', by injection hact'⟩
      extract_lets s1
      have h1 : Bound [.epoch] s s1 := setSource_bound _ _ s
      have h2 := sourceTo_bound code s1
      have hkept : (waitsOf isSource (sourceTo code s1)).head? = some w :=
        (congrArg List.head? ((h2.sources_eq (by decide)).trans (h1.sources_eq (by decide)))).trans hw
      rw [finishFirst_own hkept]
      obtain ⟨hcode, hhold⟩ := sourceTo_tick code s1
      exact ⟨hcode, h2.epoch_eq (by decide), hhold, List.mem_append_right _ (List.mem_singleton.mpr rfl)⟩
    · rename_i hne
      exact absurd hact (hne _ _)

theorem rolesNow_bound (s : State) : Bound [.source, .holdover] s (rolesNow s) := by
  unfold rolesNow
  extract_lets e s2 s1 ring
  have h1 : Bound [.source, .holdover] s s1 := by
    simp only [s1]
    have h2 : Bound [.source, .holdover] s s2 := setLinks_bound rfl
    refine .ite (Bound.trans (t := if s2.tick.source = 2 then sourceTo (ownSource s2) s2 else s2) ?_ (finish_bound _ _ _ (fun _ _ => rfl) (fun _ => rfl) fun _ => rfl)) (.ite (setLinks_bound rfl) (.refl s))
    exact .ite (h2.trans (sourceTo_bound _ s2)) h2
  exact .ite (h1.trans (sourceTo_bound _ s1)) (.ite (h1.trans (sourceTo_bound _ s1)) h1)

theorem finishFirst_bound {p : PendAct → Bool} (st : Status) (d : Nat) (s : State) (hs : ∀ c e, p (.source c e) = false)
    (hv : ∀ v, p (.seed v) = false) (hg : ∀ g, p (.governor g) = false) : Bound x s (finishFirst p st d s) := by
  unfold finishFirst
  split
  · exact .refl s
  · rename_i w hw
    have hp : p w.act = true := by simpa using List.find?_some hw
    refine taken_bound (fun _ _ => ⟨fun _ => ?_, fun _ => ?_, fun _ => ?_⟩) _ _ _ _
    · generalize w.act = a at hp
      cases a
      case source c e => exact absurd hp (by rw [hs]; decide)
      all_goals rfl
    · generalize w.act = a at hp
      cases a
      case seed v => exact absurd hp (by rw [hv]; decide)
      all_goals rfl
    · generalize w.act = a at hp
      cases a
      case governor g => exact absurd hp (by rw [hg]; decide)
      all_goals rfl

theorem ringChange_bound (s : State) : Bound x s (ringChange s) := by
  unfold ringChange
  split
  · exact .refl s
  · rename_i w hw
    split
    · rename_i r hold hact
      extract_lets s1
      have h1 : Bound x s s1 := bound_of_eq (fun a _ => by cases a <;> rfl) rfl
      have h2 : Bound x s (ringStart r s1) := h1.trans (hostWrite_bound _ _ s1)
      rw [hact]
      exact h2.trans (finishFirst_bound _ _ _ (fun _ _ => rfl) (fun _ => rfl) fun _ => rfl)
    · exact .refl s

/-- What a new seed changes. -/
def seedAspects : List Aspect := [.seed, .streams, .seeds]

theorem setSeed_bound (v : W64) (s : State) : Bound [.seed, .streams] s (setSeq (fun q => { q with seed := v, streams := [] }) s) :=
  bound_of_eq (fun a ha => by
    cases a
    case seed => exact absurd (by decide) ha
    case streams => exact absurd (by decide) ha
    all_goals rfl) rfl

theorem seedChange_bound (s : State) : Bound seedAspects s (seedChange s) := by
  unfold seedChange
  split
  · exact .refl s
  · rename_i w hw
    split
    · rename_i v hact
      rw [find_waitsOf (q := isSeed) fun v => by cases v with | mk c o a => cases a <;> rfl] at hw
      extract_lets s1
      have h1 : Bound [.seed, .streams] s s1 := setSeed_bound v s
      rw [finishFirst_own ((congrArg List.head? (h1.seeds_eq (by decide))).trans hw)]
      refine (h1.mono (by decide)).trans (taken_bound (fun a ha => ⟨fun _ => ?_, fun he => ?_, fun _ => ?_⟩) _ _ _ _)
      · rw [hact]; rfl
      · exact absurd (he ▸ ha) (by decide)
      · rw [hact]; rfl
    · exact .refl s

/-- The seed that waited is in force, and its command is due. -/
theorem seedChange_takes {w : Wait} {v : W64} {s : State} (hw : (waitsOf isSeed s).head? = some w) (hact : w.act = .seed v) :
    (seedChange s).seq.seed = v ∧ (seedChange s).seq.streams = [] ∧
      completionOf w.opcode w.cmd .ok (pack [(0, 64, v.toNat), (64, 32, s.tick.frame.toNat)]) ∈ (seedChange s).mbx.due := by
  unfold seedChange
  split
  · rename_i hnone
    rw [find_waitsOf (q := isSeed) fun v => by cases v with | mk c o a => cases a <;> rfl] at hnone
    rw [hw] at hnone
    cases hnone
  · rename_i u hu
    rw [find_waitsOf (q := isSeed) fun v => by cases v with | mk c o a => cases a <;> rfl] at hu
    obtain rfl : w = u := Option.some.inj (hw.symm.trans hu)
    split
    · rename_i v' hact'
      obtain rfl : v = v' := by
        rw [hact] at hact'
        injection hact'
      extract_lets s1
      have h1 : Bound [.seed, .streams] s s1 := setSeed_bound v s
      rw [finishFirst_own ((congrArg List.head? (h1.seeds_eq (by decide))).trans hw)]
      exact ⟨rfl, rfl, List.mem_append_right _ (List.mem_singleton.mpr rfl)⟩
    · rename_i hne
      exact absurd hact (hne _)

end Sys2Proof.Machine
end

section
/-! PROOFS. PROOFS. The parts of the frame boundary (R8, R236, R395, R404). -/

namespace Sys2Proof.Machine
open Sys2Proof Sys2Proof.Safety

variable {x : List Aspect}

/-! ## The bus, the links and the jobs at a boundary (R236, R395, R400, R404) -/

theorem hostDropped_bound (q : FbQ) (s : State) : Bound x s (hostDropped q s) := by
  unfold hostDropped
  split
  · exact finish_bound _ _ s (fun _ _ => rfl) (fun _ => rfl) fun _ => rfl
  · exact .refl s

theorem bumpBy_bound (off n : Nat) (s : State) : Bound x s (bumpBy off n s) := (bumpBy_logged off n s).bound

theorem portApply_bound (b : BitVec 128) (s : State) : Bound x s (portApply b s) := by
  unfold portApply
  extract_lets p old new restart s1
  have h1 : Bound x s s1 := .ite (((setBus_bound _ s).trans (bumpBy_bound _ _ _)).trans (.foldl (fun t q => hostDropped_bound q t) _ _)) (.refl s)
  exact h1.trans (setBus_bound _ s1)

theorem busBoundary_bound (s : State) : Bound x s (busBoundary s) := by
  unfold busBoundary
  refine .ite (.refl s) ?_
  extract_lets s1
  have h1 : Bound x s s1 := .foldl (fun t w => by
    split
    · exact portApply_bound _ t
    · exact setBus_bound _ t
    · exact setBus_bound _ t
    · exact setBus_bound _ t
    · exact .refl t) _ s
  exact (h1.trans (recQueue_bound _ _ s1)).trans (finish_bound _ _ _ (fun _ _ => rfl) (fun _ => rfl) fun _ => rfl)

theorem linkBoundary_bound (s : State) : Bound x s (linkBoundary s) := by
  unfold linkBoundary
  extract_lets s1 mask
  have h1 : Bound x s s1 := setLinks_bound rfl
  refine (h1.trans (setLinks_bound rfl)).trans (mapWaits_bound (fun w hw => ?_) (fun w hw => ?_) _)
  · obtain ⟨c, e, h⟩ | ⟨v, h⟩ | ⟨g, h⟩ := ownPlace_cases hw <;> rw [h]
  · split
    · rfl
    · exact hw

theorem retryBoundary_bound (s : State) : Bound x s (retryBoundary s) := (setPower_bound rfl).trans (retryDown_bound _ _)

theorem setAttn_bound (jc : Nat) (f : AttnJob → AttnJob) (s : State) : Bound x s (setAttn jc f s) := setKv_bound _ s

theorem attnBoundary_bound (s : State) : Bound x s (attnBoundary s) := by
  unfold attnBoundary
  refine .foldl (fun t e => ?_) _ s
  extract_lets d
  exact .ite (.refl t) (.ite ((setJob_bound _ _ t).trans (setAttn_bound _ _ _)) (.ite (.refl t) (setAttn_bound _ _ t)))

theorem startFrameJobs_bound (s : State) : Bound x s (startFrameJobs s) := by
  unfold startFrameJobs
  split
  · exact .refl s
  · refine .foldl (fun t j => ?_) _ s
    extract_lets d
    exact .ite (.refl t) (.ite (setJob_bound _ _ t) (setJob_bound _ _ t))

theorem runEnds_bound (jc : Nat) (s : State) : Bound x s (runEnds jc s) := by
  unfold runEnds
  extract_lets s1
  have h1 : Bound x s s1 := setAttn_bound _ _ s
  split
  · exact h1.trans (setJob_bound _ _ s1)
  · exact h1

theorem emptyRuns_bound (s : State) : Bound x s (emptyRuns s) := by
  unfold emptyRuns
  refine .foldl (fun t e => ?_) _ s
  extract_lets jc
  exact .ite (runEnds_bound _ t) (.refl t)

/-! ## The boundary in its parts -/

/-- The watch's summary is taken, and the objects of the frame start anew. -/
def boundaryOpens (s : State) : State :=
  resetScope .frame (frameSummary (levelsNow (fadeNext (setTick (fun t => { t with atBoundary := false }) s))))

/-- The lists change, F and the tier are in force. -/
def boundaryLists (s : State) : State :=
  let due := swapDue s
  let s3 := if due then governor (s.seq.tierReq != s.seq.tierRun) s.seq.tierReq 0 (fenceBoundary 0 s) else s
  let s4 := tsqNow (listChanges s3)
  if due then s4 else governor (s4.seq.tierRun != s.seq.tierRun) s4.seq.tierRun 1 (fenceBoundary 2 s4)

/-- The firmware's settings and the roles of the ring. -/
def boundaryRoles (s : State) : State :=
  let s7 := policySet (autoFence (governorSet (trimCore s)))
  rolesNow (if s7.tick.realignDue then realignNow (setTick (fun t => { t with realignDue := false, phase := t.phaseNew }) s7) else s7)

/-- What follows the settings of the tick. -/
def boundaryCloses (s : State) : State :=
  let s10 := watchBoundary (if watchFieldFenced s then watchStop s else s)
  let s11 := setBus (fun b => { b with stranger := [] }) (busBoundary s10)
  emptyRuns (startFrameJobs (attnBoundary (retryBoundary (linkBoundary s11))))

theorem frameBoundary_eq {s : State} (hb : s.tick.atBoundary = true) (hup : computeDown s = false) :
    frameBoundary s = (fun t => setTrust (fun r => { r with cfgTick := cfgDigest t }) t)
      (boundaryCloses (seedChange (ringChange (retrim (sourceChange (boundaryRoles (boundaryLists (boundaryOpens s)))))))) := by
  rw [frameBoundary, if_neg (by rw [hb, hup]; decide)]
  unfold boundaryCloses boundaryRoles boundaryLists boundaryOpens
  with_reducible rfl

theorem boundaryOpens_bound (s : State) : Bound [.atBoundary, .envQ] s (boundaryOpens s) := by
  have h1 : Bound [.atBoundary, .envQ] s (setTick (fun t => { t with atBoundary := false }) s) := setTick_bound fun a ha => by
    cases a
    case atBoundary => exact absurd (by decide) ha
    all_goals rfl
  exact (((h1.trans (fadeNext_bound _)).trans (levelsNow_bound _)).trans ((frameSummary_bound _).mono (by decide))).trans (resetScope_bound _ _)

/-- What the lists and F change. -/
def listsAspects : List Aspect := .fence :: listAspects

theorem boundaryLists_bound (s : State) : Bound listsAspects s (boundaryLists s) := by
  unfold boundaryLists
  extract_lets due s3 s4
  have h3 : Bound listsAspects s s3 := .ite (((fenceBoundary_bound 0 s).mono (by decide)).trans (governor_bound _ _ _ _)) (.refl s)
  have h4 : Bound listsAspects s s4 := h3.trans (((listChanges_bound s3).trans (tsqNow_bound _)).mono (by decide))
  exact .ite h4 ((h4.trans ((fenceBoundary_bound 2 s4).mono (by decide))).trans (governor_bound _ _ _ _))

/-- F has the value that waited for the boundary. -/
theorem boundaryLists_fence (s : State) : (boundaryLists s).seq.fence = s.seq.fenceNext := by
  unfold boundaryLists
  extract_lets due s3 s4
  by_cases hdue : due = true
  · rw [if_pos hdue]
    have h3 : s3.seq.fence = s.seq.fenceNext := by
      simp only [s3]
      rw [if_pos hdue]
      exact ((governor_bound (x := []) _ _ _ _).fence_eq (by decide)).trans (fenceBoundary_fence 0 s)
    exact (((listChanges_bound s3).trans (tsqNow_bound _)).fence_eq (by decide)).trans h3
  · rw [if_neg hdue]
    have h3 : s3 = s := if_neg hdue
    have h4 : s4.seq.fenceNext = s.seq.fenceNext := h3 ▸ ((listChanges_bound s3).trans (tsqNow_bound _)).fenceNext_eq (by decide)
    exact (((governor_bound (x := []) _ _ _ _).fence_eq (by decide)).trans (fenceBoundary_fence 2 s4)).trans h4

/-- What the firmware's settings and the roles change. -/
def rolesAspects : List Aspect := [.gov, .settings, .fenceNext, .source, .holdover]

theorem realigned_bound (s : State) :
    Bound x s (if s.tick.realignDue then realignNow (setTick (fun t => { t with realignDue := false, phase := t.phaseNew }) s) else s) :=
  .ite (Bound.trans (t := setTick (fun t => { t with realignDue := false, phase := t.phaseNew }) s)
    (setTick_bound fun a _ => by cases a <;> rfl) (realignNow_bound _)) (.refl s)

theorem boundaryRoles_bound (s : State) : Bound rolesAspects s (boundaryRoles s) := by
  have h1 : Bound rolesAspects s (governorSet (trimCore s)) := (trimCore_bound s).trans ((governorSet_bound _).mono (by decide))
  have h2 := (h1.trans ((autoFence_bound _).mono (by decide))).trans (policySet_bound _)
  exact (h2.trans (realigned_bound _)).trans ((rolesNow_bound _).mono (by decide))

theorem foldl_waitsOf {α : Type} {p : PendAct → Bool} {f : α → Wait → α} (hf : ∀ a w, p w.act = false → f a w = a) (ws : List Wait) (a : α) :
    ws.foldl f a = (ws.filter fun w => p w.act).foldl f a := by
  induction ws generalizing a with
  | nil => rfl
  | cons w ws ih =>
    rw [List.foldl_cons, List.filter_cons]
    by_cases h : p w.act = true
    · rw [if_pos h, List.foldl_cons, ih]
    · rw [if_neg h, hf a w (by simpa using h), ih]

theorem governorSet_takes {w : Wait} {g : GovParams} {s : State} (hw : waitsOf isGov s = [w]) (hact : w.act = .governor g) :
    (governorSet s).power.gov = g := by
  unfold governorSet
  extract_lets is v
  rw [finish_eq]
  refine (foldl_waitsOf (p := isGov) (fun a u hu => ?_) _ _).trans ?_
  · cases u with | mk c o b =>
    cases b
    case governor => exact nomatch hu
    all_goals rfl
  · rw [← waitsOf, hw, List.foldl_cons, List.foldl_nil, hact]

theorem boundaryRoles_gov {w : Wait} {g : GovParams} {s : State} (hw : waitsOf isGov s = [w]) (hact : w.act = .governor g) :
    (boundaryRoles s).power.gov = g := by
  have h0 : waitsOf isGov (trimCore s) = [w] := ((trimCore_bound (x := []) s).settings_eq (by decide)).trans hw
  have hgov := governorSet_takes h0 hact
  unfold boundaryRoles
  extract_lets s7
  have h7 : Bound [.fenceNext] (governorSet (trimCore s)) s7 := (autoFence_bound _).trans (policySet_bound _)
  clear_value s7
  have h8 := (realigned_bound (x := [.source, .holdover]) s7).trans (rolesNow_bound _)
  exact (h8.gov_eq (by decide)).trans ((h7.gov_eq (by decide)).trans hgov)

theorem boundaryCloses_bound (s : State) : Bound [.sources, .seeds, .settings] s (boundaryCloses s) := by
  unfold boundaryCloses
  extract_lets s10 s11
  have h0 : Bound [.sources, .seeds, .settings] s (if watchFieldFenced s then watchStop s else s) := .ite (watchStop_bound s) (.refl s)
  have h1 : Bound [.sources, .seeds, .settings] s s10 := h0.trans (watchBoundary_bound _)
  have h2 : Bound [.sources, .seeds, .settings] s s11 := (h1.trans (busBoundary_bound s10)).trans (setBus_bound _ _)
  clear_value s11
  exact ((((h2.trans (linkBoundary_bound s11)).trans (retryBoundary_bound _)).trans (attnBoundary_bound _)).trans (startFrameJobs_bound _)).trans
    (emptyRuns_bound _)

end Sys2Proof.Machine
end

section
/-! PROOFS. PROOFS. The frame's summary, and TSQ_CTL without a list (R9, R305, R469, R523). -/

namespace Sys2Proof.Machine
open Sys2Proof Sys2Proof.Safety

/-! ## The frame's summary (R305, R469) -/

/-- The place of a fade in the frame that begins. -/
def fadePlaced (frame : W32) (w : Watch) : Watch := { w with fade := w.fade.map fun f => { f with j := (frame - f.start).toNat + 1 } }

/-- The parameters in force, and the levels as they are evaluated with them. -/
def levelled (p : WParams) (w : Watch) : Watch :=
  match w.closing with
  | none => { w with params := p }
  | some old =>
    let new := evalLevels p w.learned.hist w.fLast old
    { w with params := p, closing := none, learned := { w.learned with levels := new }, severity := severityOf new }

theorem levelled_open {p : WParams} {w : Watch} (h : w.closing = none) : levelled p w = { w with params := p } := by
  rw [levelled, h]

theorem levelled_closed {p : WParams} {w : Watch} {old : List Nat} (h : w.closing = some old) : levelled p w =
    { w with params := p, closing := none, severity := severityOf (evalLevels p w.learned.hist w.fLast old),
             learned := { w.learned with levels := evalLevels p w.learned.hist w.fLast old } } := by
  rw [levelled, h]

/-- Events that wait for their report, put in. -/
def withConds (c : List CondEvent) (w : Watch) : Watch := { w with conds := c }

/-- The parameters that wait, or those in force. -/
def paramsNow (ws : List Wait) (p : WParams) : WParams := ws.foldl (fun p w => match w.act with | .watchParams v => v | _ => p) p

theorem roleWrite_descKeeps (i : Nat) (items : List (Nat × List Byte)) (s : State) : DescKeeps s (roleWrite i items s) := by
  unfold roleWrite
  split
  · exact .refl s
  · exact fwWrite_descKeeps _ _ s

theorem writeScalars_descKeeps (s : State) : DescKeeps s (writeScalars s) := by
  unfold writeScalars
  split
  · exact .refl s
  · exact roleWrite_descKeeps _ _ s

theorem fadeNext_keeps (s : State) : (fadeNext s).watch = fadePlaced s.tick.frame s.watch ∧ (fadeNext s).mbx.waits = s.mbx.waits ∧
    (fadeNext s).seq.active = s.seq.active ∧ (fadeNext s).seq.change = s.seq.change := by
  unfold fadeNext
  split
  · rename_i h
    refine ⟨?_, rfl, rfl, rfl⟩
    rw [fadePlaced, Option.isNone_iff_eq_none.mp h, Option.map_none, ← Option.isNone_iff_eq_none.mp h]
  · obtain ⟨_, _, _, _, _, _, _, _, _, _, _, _, _, _, _, _, _, h⟩ :=
      (writeScalars_descKeeps (setWatch (fun w => { w with fade := w.fade.map fun f => { f with j := (s.tick.frame - f.start).toNat + 1 } }) s)).frame
    rw [h]
    exact ⟨rfl, rfl, rfl, rfl⟩

theorem levelsNow_keeps (s : State) : (∃ c, (levelsNow s).watch = withConds c (levelled (paramsNow s.mbx.waits s.watch.params) s.watch)) ∧
    (levelsNow s).seq = s.seq := by
  unfold levelsNow
  extract_lets is p s1
  have h1 : s1 = finish is .ok 0 (setWatch (fun w => { w with params := p }) s) := rfl
  have hp : p = paramsNow s.mbx.waits s.watch.params := rfl
  have hw : s1.watch = { s.watch with params := p } := by
    rw [h1]
    obtain ⟨_, _, hfin⟩ := finish_slots is .ok 0 (setWatch (fun w => { w with params := p }) s)
    rw [hfin]
    rfl
  have hs : s1.seq = s.seq := by
    rw [h1]
    obtain ⟨_, _, hfin⟩ := finish_slots is .ok 0 (setWatch (fun w => { w with params := p }) s)
    rw [hfin]
    rfl
  clear_value s1 p
  rw [← hp]
  have hclosing : s1.watch.closing = s.watch.closing := by rw [hw]
  split
  · rename_i hnone
    refine ⟨⟨s.watch.conds, hw.trans ?_⟩, hs⟩
    rw [levelled_open (hclosing.symm.trans hnone)]
    rfl
  · rename_i old hold
    extract_lets new s2
    have hw2 : s2.watch = withConds s.watch.conds (levelled p s.watch) := by
      rw [levelled_closed (hclosing.symm.trans hold)]
      simp only [s2, setLevels, setWatch, hw, new]
      rfl
    split
    · have he (c : List CondEvent) : withConds c s2.watch = withConds c (levelled p s.watch) := by
        rw [hw2]
        rfl
      exact ⟨⟨_, he (oweEvent .level s.watch.learned.modelId s.watch.sevBefore 0 s2).watch.conds⟩, hs⟩
    · exact ⟨⟨_, hw2⟩, hs⟩

theorem summaryBody_congr {s t : State} {c d : List CondEvent} {w : Watch} (hs : s.watch = withConds c w) (ht : t.watch = withConds d w)
    (hno : t.tick.no = s.tick.no) (hframe : t.tick.frame = s.tick.frame) (hlen : t.tick.frameLen = s.tick.frameLen)
    (hident : t.links.ident = s.links.ident) : summaryBody t = summaryBody s := by
  unfold summaryBody fScoreBits regimeStates regOfWatch
  simp only [hs, ht, hno, hframe, hlen, hident, withConds]

/-- The summary does not see that the boundary has begun. -/
theorem summaryBody_opens (s : State) :
    summaryBody (levelsNow (fadeNext (setTick (fun t => { t with atBoundary := false }) s))) = summaryBody (levelsNow (fadeNext s)) := by
  obtain ⟨⟨c, hc⟩, -⟩ := levelsNow_keeps (fadeNext s)
  obtain ⟨⟨d, hd⟩, -⟩ := levelsNow_keeps (fadeNext (setTick (fun t => { t with atBoundary := false }) s))
  obtain ⟨hw, hm, -, -⟩ := fadeNext_keeps s
  obtain ⟨hw', hm', -, -⟩ := fadeNext_keeps (setTick (fun t => { t with atBoundary := false }) s)
  rw [hw, hm] at hc
  rw [hw', hm'] at hd
  have h := (fadeNext_bound (x := []) s).trans (levelsNow_bound _)
  have h' := (fadeNext_bound (x := []) (setTick (fun t => { t with atBoundary := false }) s)).trans (levelsNow_bound _)
  exact summaryBody_congr hc hd ((h'.no_eq (by decide)).trans (h.no_eq (by decide)).symm)
    ((h'.frame_eq (by decide)).trans (h.frame_eq (by decide)).symm) ((h'.frameLen_eq (by decide)).trans (h.frameLen_eq (by decide)).symm)
    ((h'.ident_eq (by decide)).trans (h.ident_eq (by decide)).symm)

theorem levelled_run (p : WParams) (w : Watch) : (levelled p w).run = w.run := by
  unfold levelled
  split
  · rfl
  · rfl

theorem frameSummary_joins {s : State} (hrun : s.watch.run ≠ 0) (hroom : s.watch.envQ.length < 32) :
    (frameSummary s).watch.envQ = s.watch.envQ ++ [{ cond := false, cfg := s.trust.cfgTick, body := summaryBody s }] := by
  rw [frameSummary]
  dsimp only
  rw [if_neg hrun, if_neg (by omega)]
  rfl

/-- A running watch's summary joins the envelopes. -/
theorem boundaryOpens_envQ {s : State} (hrun : s.watch.run ≠ 0) (hroom : s.watch.envQ.length < 32) :
    (boundaryOpens s).watch.envQ = s.watch.envQ ++ [{ cond := false, cfg := s.trust.cfgTick, body := summaryBody (levelsNow (fadeNext s)) }] := by
  have hsum := summaryBody_opens s
  unfold boundaryOpens
  have h1 := (fadeNext_bound (x := []) (setTick (fun t => { t with atBoundary := false }) s)).trans (levelsNow_bound _)
  have hrun1 : (levelsNow (fadeNext (setTick (fun t => { t with atBoundary := false }) s))).watch.run = s.watch.run := by
    obtain ⟨⟨c, hc⟩, -⟩ := levelsNow_keeps (fadeNext (setTick (fun t => { t with atBoundary := false }) s))
    rw [hc]
    refine (levelled_run _ _).trans ?_
    rw [(fadeNext_keeps _).1]
    rfl
  generalize levelsNow (fadeNext (setTick (fun t => { t with atBoundary := false }) s)) = u at h1 hsum hrun1
  have henv : u.watch.envQ = s.watch.envQ := h1.envQ_eq (by decide)
  have htrust : u.trust = s.trust := h1.trust_eq (by decide)
  refine ((resetScope_bound (x := []) .frame (frameSummary u)).envQ_eq (by decide)).trans ?_
  rw [frameSummary_joins (hrun1 ▸ hrun) (henv ▸ hroom), henv, htrust, hsum]

/-! ## A TSQ_CTL write without a list (R9, R523) -/

/-- The list that runs and the change that is decided. -/
def SameLists (s t : State) : Prop := t.seq.active = s.seq.active ∧ t.seq.change = s.seq.change

theorem SameLists.of_seq {s t : State} (h : t.seq = s.seq) : SameLists s t := by rw [SameLists, h]; exact ⟨rfl, rfl⟩

theorem SameLists.trans {s t u : State} (h : SameLists s t) (k : SameLists t u) : SameLists s u := ⟨k.1.trans h.1, k.2.trans h.2⟩

theorem frameSummary_lists (s : State) : SameLists s (frameSummary s) := by
  unfold frameSummary
  split
  · exact ⟨rfl, rfl⟩
  · split
    · exact .of_seq (bump_seq cSignDrop s)
    · exact ⟨rfl, rfl⟩

theorem resetScope_lists (sc : Scope) (s : State) : SameLists s (resetScope sc s) := by
  unfold resetScope
  split
  · exact ⟨rfl, rfl⟩
  · exact List.foldlRecOn (motive := fun t => SameLists s t) _ _ ⟨rfl, rfl⟩ fun t h d _ => h.trans ⟨rfl, rfl⟩

theorem boundaryOpens_lists (s : State) : SameLists s (boundaryOpens s) := by
  obtain ⟨-, -, ha, hc⟩ := fadeNext_keeps (setTick (fun t => { t with atBoundary := false }) s)
  have h1 : SameLists s (fadeNext (setTick (fun t => { t with atBoundary := false }) s)) := ⟨ha, hc⟩
  exact ((h1.trans (.of_seq (levelsNow_keeps _).2)).trans (frameSummary_lists _)).trans (resetScope_lists _ _)

theorem watchStop_lists (s : State) : SameLists s (watchStop s) := by
  unfold watchStop
  split
  · exact ⟨rfl, rfl⟩
  · obtain ⟨_, _, _, _, _, _, _, _, _, _, _, _, _, _, _, _, _, h⟩ := (writeScalars_descKeeps (setWatch watchBlank s)).frame
    rw [h]
    exact ⟨rfl, rfl⟩

theorem retryDown_lists (now : Nat) (s : State) : SameLists s (retryDown now s) := by
  obtain ⟨_, _, h⟩ := (retryDown_drains now s).frame
  rw [h]
  exact ⟨rfl, rfl⟩

theorem finish_lists (p : PendAct → Bool) (st : Status) (d : Nat) (s : State) : SameLists s (finish p st d s) := by
  obtain ⟨_, _, h⟩ := finish_slots p st d s
  rw [h]
  exact ⟨rfl, rfl⟩

theorem stopList_lists {s : State} (ha : s.seq.active = none) (hc : s.seq.change = none) :
    (stopList s).seq.active = none ∧ (stopList s).seq.change = none := by
  unfold stopList
  extract_lets pend s1 s2 s3 kept down s4 s5
  have hcancel : cancelOutstanding s = s := by rw [cancelOutstanding, ha]
  have h1 : SameLists s s1 := by
    simp only [s1]
    rw [hcancel]
    exact SameLists.trans ⟨rfl, rfl⟩ (watchStop_lists (attnAbandon s))
  have h2 : s2 = s1 := by
    simp only [s2]
    rw [h1.1, ha]
  have h3 : s3.seq.active = none ∧ s3.seq.change = none := by
    refine ⟨rfl, ?_⟩
    simp only [s3, setSeq_seq, h2, h1.2, hc, ite_self]
  have h4 : SameLists s3 s4 := SameLists.trans (t := setPower _ (tilesOff s3)) ⟨rfl, rfl⟩ (retryDown_lists _ _)
  have h5 : SameLists s3 s5 := h4.trans (finish_lists _ _ _ s4)
  have h6 : SameLists s3 (finishFences s5) := (h5.trans (finish_lists _ _ _ s5)).trans ⟨rfl, rfl⟩
  split
  · exact ⟨h6.1.trans h3.1, h6.2.trans h3.2⟩
  · exact ⟨h5.1.trans h3.1, h5.2.trans h3.2⟩

theorem changeDue_none {s : State} (hc : s.seq.change = none) : changeDue s = false := by
  rw [changeDue, hc, Bool.and_false]

theorem scheduleChange_none {s : State} (hc : s.seq.change = none) : scheduleChange s = s := by
  rw [scheduleChange, changeDue_none hc]
  rfl

theorem listChanges_none {s : State} (ha : s.seq.active = none) (hc : s.seq.change = none) :
    Bound [] s (listChanges s) ∧ (listChanges s).seq.active = none := by
  obtain ⟨hsa, hsc⟩ := stopList_lists ha hc
  unfold listChanges
  extract_lets stop order first s1
  have h1 : s1 = s := scheduleChange_none hc
  rw [scheduleChange_none hsc, h1]
  split
  · exact ⟨stopList_bound s, hsa⟩
  · split
    · exact ⟨stopList_bound s, hsa⟩
    · exact ⟨.refl s, ha⟩

theorem newPeriod_period (p : Nat) (s : State) : (newPeriod p s).tick.period = p := by
  unfold newPeriod
  split
  · assumption
  · have h : Bound [] (setTick (fun t => { t with period := p }) s) ((List.range 24).foldl (fun t ch => askReset .period ch t)
        (setTick (fun t => { t with period := p }) s)) := .foldl (fun t ch => setChan_bound ch _ t) _ _
    exact h.period_eq (by decide)

/-- A TSQ_CTL write that waits takes effect while no list runs. -/
theorem boundaryLists_tsq {p n : Nat} {s : State} (ht : s.tick.pendTsq = some (p, n)) (ha : s.seq.active = none) (hc : s.seq.change = none) :
    (boundaryLists s).tick.period = p ∧ (boundaryLists s).tick.frameLen = n ∧ (boundaryLists s).tick.pendTsq = none := by
  have hdue : swapDue s = false := by rw [swapDue, changeDue_none hc]; rfl
  obtain ⟨hl, hla⟩ := listChanges_none ha hc
  have htsq : tsqNow (listChanges s) = newPeriod p (setTick (fun t => { t with frameLen := n, pendTsq := none }) (listChanges s)) := by
    have hpend : (listChanges s).tick.pendTsq = some (p, n) := (hl.pendTsq_eq (by decide)).trans ht
    rw [tsqNow, hpend]
    dsimp only
    rw [hla, if_neg (by decide)]
  have hnew := newPeriod_bound p (setTick (fun t => { t with frameLen := n, pendTsq := none }) (listChanges s))
  unfold boundaryLists
  rw [hdue]
  simp only [Bool.false_eq_true, if_false]
  rw [htsq]
  have h : Bound [.fence] _ _ := (fenceBoundary_bound 2 (newPeriod p (setTick (fun t => { t with frameLen := n, pendTsq := none }) (listChanges s)))).trans
    (governor_bound ((newPeriod p (setTick (fun t => { t with frameLen := n, pendTsq := none }) (listChanges s))).seq.tierRun != s.seq.tierRun)
      (newPeriod p (setTick (fun t => { t with frameLen := n, pendTsq := none }) (listChanges s))).seq.tierRun 1 _)
  exact ⟨(h.period_eq (by decide)).trans (newPeriod_period _ _), (h.frameLen_eq (by decide)).trans (hnew.frameLen_eq (by decide)),
    (h.pendTsq_eq (by decide)).trans (hnew.pendTsq_eq (by decide))⟩

end Sys2Proof.Machine
end

section
/-! PROOFS. PROOFS. The frame boundary (R8). -/

namespace Sys2Proof.Machine
open Sys2Proof Sys2Proof.Safety

/-! ## The frame boundary (R8) -/

/-- The boundary up to the digest of its first tick's configuration. -/
def boundaryWork (s : State) : State :=
  boundaryCloses (seedChange (ringChange (retrim (sourceChange (boundaryRoles (boundaryLists (boundaryOpens s)))))))

/-- What the boundary may change at all. -/
def boundaryAspects : List Aspect :=
  [.atBoundary, .envQ, .fence, .period, .frameLen, .pendTsq, .streams, .gov, .settings, .fenceNext, .source, .holdover, .epoch, .sources, .seed, .seeds]

/-- The states that the boundary goes through, with what each step leaves. -/
structure BoundaryRun (s o a b c e d t : State) : Prop where
  open_eq : o = boundaryOpens s
  list_eq : a = boundaryLists o
  role_eq : b = boundaryRoles a
  source_eq : c = sourceChange b
  seed_eq : d = seedChange e
  opens : Bound [.atBoundary, .envQ] s o
  lists : Bound listsAspects o a
  roles : Bound rolesAspects a b
  source : Bound sourceAspects b c
  ring : Bound [] c e
  seed : Bound seedAspects e d
  closes : Bound [.sources, .seeds, .settings] d t

theorem boundaryWork_run (s : State) : ∃ o a b c e d, BoundaryRun s o a b c e d (boundaryWork s) :=
  ⟨_, _, _, _, _, _, rfl, rfl, rfl, rfl, rfl, boundaryOpens_bound s, boundaryLists_bound _, boundaryRoles_bound _, sourceChange_bound _,
    (retrim_bound _).trans (ringChange_bound _), seedChange_bound _, boundaryCloses_bound _⟩

theorem boundaryOpens_atBoundary (s : State) : (boundaryOpens s).tick.atBoundary = false := by
  unfold boundaryOpens
  have h0 : (setTick (fun t => { t with atBoundary := false }) s).tick.atBoundary = false := rfl
  generalize setTick (fun t => { t with atBoundary := false }) s = u at h0
  have h1 : Bound [.envQ] u (levelsNow (fadeNext u)) := (fadeNext_bound u).trans (levelsNow_bound _)
  have h2 : Bound [.envQ] u (resetScope .frame (frameSummary (levelsNow (fadeNext u)))) := (h1.trans (frameSummary_bound _)).trans (resetScope_bound .frame _)
  exact (h2.atBoundary_eq (by decide)).trans h0

namespace BoundaryRun

variable {s o a b c e d t : State}

theorem bound (h : BoundaryRun s o a b c e d t) : Bound boundaryAspects s t := by
  have h1 : Bound boundaryAspects s a := (h.opens.mono (by decide)).trans (h.lists.mono (by decide))
  have h2 : Bound boundaryAspects s e := ((h1.trans (h.roles.mono (by decide))).trans (h.source.mono (by decide))).trans (h.ring.mono (by decide))
  exact (h2.trans (h.seed.mono (by decide))).trans (h.closes.mono (by decide))

/-- What follows the lists leaves what they set. -/
theorem later (h : BoundaryRun s o a b c e d t) : Bound (rolesAspects ++ sourceAspects ++ seedAspects) a t := by
  have h1 : Bound (rolesAspects ++ sourceAspects ++ seedAspects) a e :=
    ((h.roles.mono (by decide)).trans (h.source.mono (by decide))).trans (h.ring.mono (by decide))
  exact (h1.trans (h.seed.mono (by decide))).trans (h.closes.mono (by decide))

/-- What follows the source leaves it. -/
theorem last (h : BoundaryRun s o a b c e d t) : Bound (.settings :: .sources :: seedAspects) c t :=
  ((h.ring.mono (by decide)).trans (h.seed.mono (by decide))).trans (h.closes.mono (by decide))

theorem atBoundary_eq (h : BoundaryRun s o a b c e d t) : t.tick.atBoundary = false := by
  have ho : o.tick.atBoundary = false := h.open_eq ▸ boundaryOpens_atBoundary s
  exact (h.later.atBoundary_eq (by decide)).trans ((h.lists.atBoundary_eq (by decide)).trans ho)

theorem fence_eq (h : BoundaryRun s o a b c e d t) : t.seq.fence = s.seq.fenceNext := by
  have ha : a.seq.fence = o.seq.fenceNext := h.list_eq ▸ boundaryLists_fence o
  exact (h.later.fence_eq (by decide)).trans (ha.trans (h.opens.fenceNext_eq (by decide)))

theorem tsq_takes {p n : Nat} (h : BoundaryRun s o a b c e d t) (ht : s.tick.pendTsq = some (p, n)) (hl : s.seq.active = none)
    (hc : s.seq.change = none) : t.tick.period = p ∧ t.tick.frameLen = n ∧ t.tick.pendTsq = none := by
  have hlists : SameLists s o := h.open_eq ▸ boundaryOpens_lists s
  have htsq := boundaryLists_tsq ((h.opens.pendTsq_eq (by decide)).trans ht) (hlists.1.trans hl) (hlists.2.trans hc)
  rw [← h.list_eq] at htsq
  obtain ⟨h1, h2, h3⟩ := htsq
  exact ⟨(h.later.period_eq (by decide)).trans h1, (h.later.frameLen_eq (by decide)).trans h2, (h.later.pendTsq_eq (by decide)).trans h3⟩

theorem source_takes {w : Wait} {code : Nat} {epoch : W64} (h : BoundaryRun s o a b c e d t) (hw : (waitsOf isSource s).head? = some w)
    (hact : w.act = .source code epoch) : t.tick.source = code ∧ t.tick.epoch = epoch ∧ t.tick.holdover = false ∧
      completionOf w.opcode w.cmd .ok s.tick.frame.toNat ∈ t.mbx.due := by
  have hkept : (waitsOf isSource b).head? = some w :=
    (congrArg List.head? ((h.roles.sources_eq (by decide)).trans ((h.lists.sources_eq (by decide)).trans (h.opens.sources_eq (by decide))))).trans hw
  have hframe : b.tick.frame = s.tick.frame := (h.roles.frame_eq (by decide)).trans ((h.lists.frame_eq (by decide)).trans (h.opens.frame_eq (by decide)))
  have htakes := sourceChange_takes hkept hact
  rw [← h.source_eq, hframe] at htakes
  obtain ⟨h1, h2, h3, h4⟩ := htakes
  exact ⟨(h.last.source_eq (by decide)).trans h1, (h.last.epoch_eq (by decide)).trans h2, (h.last.holdover_eq (by decide)).trans h3, h.last.due _ h4⟩

theorem seed_takes {w : Wait} {v : W64} (h : BoundaryRun s o a b c e d t) (hw : (waitsOf isSeed s).head? = some w) (hact : w.act = .seed v) :
    t.seq.seed = v ∧ t.seq.streams = [] ∧ ∃ q ∈ t.mbx.due, q.slot = w.cmd.slot % 64 ∧ q.cookie = w.cmd.cookie ∧ q.status = .ok := by
  have hb : waitsOf isSeed b = waitsOf isSeed s := (h.roles.seeds_eq (by decide)).trans ((h.lists.seeds_eq (by decide)).trans (h.opens.seeds_eq (by decide)))
  have hkept : (waitsOf isSeed e).head? = some w := (congrArg List.head? ((h.ring.seeds_eq (by decide)).trans ((h.source.seeds_eq (by decide)).trans hb))).trans hw
  have htakes := seedChange_takes hkept hact
  rw [← h.seed_eq] at htakes
  obtain ⟨h1, h2, h3⟩ := htakes
  exact ⟨(h.closes.seed_eq (by decide)).trans h1, (h.closes.streams_eq (by decide)).trans h2, _, h.closes.due _ h3, rfl, rfl, rfl⟩

theorem gov_takes {w : Wait} {g : GovParams} (h : BoundaryRun s o a b c e d t) (hw : waitsOf isGov s = [w]) (hact : w.act = .governor g) :
    t.power.gov = g := by
  have hb : b.power.gov = g := h.role_eq ▸ boundaryRoles_gov ((h.lists.settings_eq (by decide)).trans ((h.opens.settings_eq (by decide)).trans hw)) hact
  exact (h.last.gov_eq (by decide)).trans ((h.source.gov_eq (by decide)).trans hb)

theorem envQ_joins (h : BoundaryRun s o a b c e d t) (hrun : s.watch.run ≠ 0) (hroom : s.watch.envQ.length < 32) :
    t.watch.envQ = s.watch.envQ ++ [{ cond := false, cfg := s.trust.cfgTick, body := summaryBody (levelsNow (fadeNext s)) }] := by
  have ho := boundaryOpens_envQ hrun hroom
  rw [← h.open_eq] at ho
  exact (h.later.envQ_eq (by decide)).trans ((h.lists.envQ_eq (by decide)).trans ho)

end BoundaryRun

/-- The digest of the configuration that the boundary leaves is taken last, and does not read itself. -/
def digested (s : State) : State := setTrust (fun r => { r with cfgTick := cfgDigest s }) s

theorem cfgDigest_digested (s : State) : cfgDigest (digested s) = cfgDigest s := rfl

theorem digested_trust (s : State) : (digested s).trust = { s.trust with cfgTick := cfgDigest (digested s) } := by
  rw [cfgDigest_digested]
  rfl

theorem exec_frameBoundary {s : State} (hb : s.tick.atBoundary = true) (hup : computeDown s = false) :
    exec .frameBoundary s = .next (digested (boundaryWork s)) := by
  have hexec : exec .frameBoundary s = .next (frameBoundary s) := rfl
  rw [hexec, frameBoundary_eq hb hup]
  rfl

/-- Settles O35: each part of the boundary through what it takes up, all the others through what they leave. -/
theorem frameBoundaryTakesEffect : Obligations.FrameBoundaryTakesEffect := by
  refine ⟨fun s hb hup => ?_, fun s h => ?_⟩
  · obtain ⟨o, a, b, c, e, d, hrun⟩ := boundaryWork_run s
    have hexec := exec_frameBoundary hb hup
    generalize boundaryWork s = t at hrun hexec
    have hbound := hrun.bound
    refine ⟨_, hexec, hrun.atBoundary_eq, hbound.no_eq (by decide), hbound.frame_eq (by decide), hbound.inFrame_eq (by decide),
      hbound.total_eq (by decide), hbound.late_eq (by decide), hbound.fallback_eq (by decide), hbound.dark_eq (by decide), hrun.fence_eq,
      fun p n ht ha hc => hrun.tsq_takes ht ha hc, fun w code e hw hact => ?_, fun w v hw hact => ?_, fun w g hw hact => ?_, hrun.envQ_joins,
      hbound.stage_eq (by decide), hbound.mem_eq (by decide), hbound.img_eq (by decide), hbound.cfg_eq (by decide), ?_,
      hbound.ident_eq (by decide), hbound.part_eq (by decide), hbound.pending_eq (by decide)⟩
    · rw [find_waitsOf (q := isSource) fun v => by cases v with | mk c o a => cases a <;> rfl] at hw
      obtain ⟨h1, h2, h3, h4⟩ := hrun.source_takes hw hact
      exact ⟨h1, h2, h3, _, h4, rfl, rfl, rfl, rfl⟩
    · rw [find_waitsOf (q := isSeed) fun v => by cases v with | mk c o a => cases a <;> rfl] at hw
      exact hrun.seed_takes hw hact
    · refine hrun.gov_takes (w := w) ?_ hact
      rw [waitsOf, hw, List.filter_cons, hact]
      rfl
    · rw [digested_trust, hbound.trust_eq (by decide)]
  · have hexec : exec .frameBoundary s = .next (frameBoundary s) := rfl
    have hidle : (!s.tick.atBoundary || computeDown s) = true := by
      rcases h with h | h
      · rw [h]; rfl
      · rw [h, Bool.or_true]
    rw [hexec, frameBoundary, if_pos hidle]

end Sys2Proof.Machine
end
